-- ==== Sys2Proof/Word.lean ====
section
/-!
DEFINITION. Word.lean: the words of the machine (spec 00 R5, R6; 12 R260). The bit-field helpers and the maps
that a repair may mend stand in Machine/Bits.lean and Machine/Map.lean.
-/
namespace Sys2Proof

/-- One byte of memory. -/
abbrev Byte := BitVec 8
/-- A 32-bit element of a vector register (05 R109). -/
abbrev W32 := BitVec 32
/-- A uniform register (05 R109). -/
abbrev W64 := BitVec 64
/-- An instruction word (12 R260). -/
abbrev IWord := BitVec 96
/-- A program counter (05 R119). -/
abbrev Pc := BitVec 56
/-- The lanes of a group (02 R35). -/
abbrev Mask := BitVec 32
/-- A format tag (04 R88). -/
abbrev Tag := BitVec 8

end Sys2Proof
end

