-- ==== Sys2Proof/Config.lean ====
section
/-!
DEFINITION. Config.lean: what an implementation fixes, and the free values. Every free value is a constant with
no body, so nothing in Lean can evaluate it (assumption log 3, 4, 6, 9).
-/
namespace Sys2Proof.Config

/-- Silicon stepping of DEVID (05 R129, "per silicon"; log 3). -/
opaque stepping : BitVec 8
/-- Module serial number of DEVID (05 R129, "per module"; log 3). -/
opaque serial : BitVec 40
/-- This X9's device number in the Lornan domain (18 R412; the spec does not say how it is set; log 3). -/
opaque devNum : BitVec 12

/-- Free 64-bit values, one for each number of the counter State.free (log 4). -/
opaque freeWord : Nat → W64
/-- Free bytes: the first argument numbers the value, the second the byte (log 4). -/
opaque freeByte : Nat → Nat → Byte
/-- Free choices of the machine (a valid path of R198), numbered by the counter (log 4). -/
opaque freeChoice : Nat → Nat
/-- A byte decrypted under another key than it was written under: key generation, address, stored byte (06 R151;
log 6). -/
opaque otherKey : Nat → Nat → Byte → Byte
/-- The number of 32-byte sectors that the compression of a line gives, 1 to 3, modulo 4; 0 for a line it leaves whole (06 R149;
the spec does not state the compression; log 6). -/
opaque packedSectors : List Byte → Nat
/-- The number that picks the defined tag a register takes where its refilled tag byte is none (04 R88; log 12). -/
opaque badTag : Byte → Nat
/-- The public key that firmware images are signed for (01 R24; log 9). -/
opaque imageKey : List Byte
/-- The signed bytes of an image and its signature, whose places the spec does not state (01 R24; log 9). -/
opaque imageParts : List Byte → List Byte × List Byte
/-- The secret of the device's private key (19 R441; log 9). -/
opaque deviceSeed : List Byte
/-- The identity certificate chain of slot 0 (19 R441; log 9). -/
opaque certChain : List Byte
/-- Bytes of an SPDM answer that the standard leaves to the responder: nonces, session identifiers, key exchange
data (19 R441; log 9): counter, kind. -/
opaque spdmBytes : Nat → Nat → List Byte
/-- Verification of the requester's FINISH (19 R441; log 9). -/
opaque finishVerifies : List Byte → Bool

end Sys2Proof.Config
end

