-- ==== Sys2Proof/Machine/Bits.lean ====
section
/-!
DEFINITION. Machine/Bits.lean: bit fields, extension and byte order (00 R5, R6, R11).
-/
namespace Sys2Proof.Machine

/-- Bits [hi:lo] of a natural number. -/
def bits (x hi lo : Nat) : Nat := x / 2 ^ lo % 2 ^ (hi + 1 - lo)

/-- Bit n of a natural number. -/
def bit (x n : Nat) : Bool := x / 2 ^ n % 2 == 1

/-- A truth value as a bit. -/
def b2n (b : Bool) : Nat := if b then 1 else 0

/-- sext(x, n): the integer that the low n bits of x hold in two's complement (R11). -/
def sextI (n x : Nat) : Int :=
  let y := x % 2 ^ n
  if y < 2 ^ (n - 1) then (y : Int) else (y : Int) - (2 ^ n : Nat)

/-- The natural number below 2^n that an integer wraps to. -/
def wrapI (n : Nat) (x : Int) : Nat := (x % ((2 ^ n : Nat) : Int)).toNat

/-- A width applied to an integer. -/
def ofI (n : Nat) (x : Int) : BitVec n := BitVec.ofNat n (wrapI n x)

/-- Byte i of a number (R6: byte 0 is the least significant). -/
def byteAt (x i : Nat) : Byte := BitVec.ofNat 8 (x / 2 ^ (8 * i))

/-- The n bytes of a number, lowest address first (R6). -/
def toBytes (n x : Nat) : List Byte := (List.range n).map (byteAt x)

/-- The number that bytes hold, lowest address first (R6). -/
def ofBytes : List Byte → Nat
  | [] => 0
  | b :: bs => b.toNat + 256 * ofBytes bs

/-- The lanes of a mask, lowest first. -/
def lanesOf (m : Mask) : List Nat := (List.range 32).filter fun l => m.getLsbD l

/-- The mask of some lanes. -/
def maskOf (ls : List Nat) : Mask := ls.foldl (fun m l => m ||| (1#32 <<< l)) 0#32

/-- The lowest lane of a mask, 0 for an empty one. -/
def lowLane (m : Mask) : Nat := ((lanesOf m).head?).getD 0

/-- The ceiling of a quotient. -/
def ceilDiv (a b : Nat) : Nat := (a + b - 1) / b

/-- Add and hold at the width's maximum (09 R220). -/
def satAdd {w : Nat} (a : BitVec w) (n : Nat) : BitVec w :=
  BitVec.ofNat w (min (a.toNat + n) (2 ^ w - 1))

/-- The elements of a list from index i, n of them, padded with d. -/
def sliceD {α : Type} (d : α) (xs : List α) (i n : Nat) : List α :=
  (List.range n).map fun k => xs.getD (i + k) d

/-- Change the element at index i, where there is one. -/
def modAt {α : Type} (xs : List α) (i : Nat) (f : α → α) : List α := xs.modify i f

end Sys2Proof.Machine
end

