-- ==== Sys2Proof/Machine/Map.lean ====
section
/-!
DEFINITION. Machine/Map.lean: maps held as plain data in one canonical form: keys strictly rising, and no entry
equal to the default that an unlisted key reads as.
-/
namespace Sys2Proof.Machine

/-- A sparse map from numbers, with a default that its user names. -/
abbrev SMap (β : Type) := List (Nat × β)

/-- The value at a key, d where no entry lists it. -/
def SMap.get {β : Type} (d : β) (m : SMap β) (k : Nat) : β :=
  match m with
  | [] => d
  | (j, x) :: rest => if j = k then x else SMap.get d rest k

/-- Insert before the first larger key. -/
def SMap.ins {β : Type} (k : Nat) (x : β) : SMap β → SMap β
  | [] => [(k, x)]
  | (j, y) :: rest => if k < j then (k, x) :: (j, y) :: rest else (j, y) :: SMap.ins k x rest

/-- Take a key's entries out. -/
def SMap.del {β : Type} (k : Nat) : SMap β → SMap β
  | [] => []
  | (j, y) :: rest => if j = k then SMap.del k rest else (j, y) :: SMap.del k rest

/-- Write a key: the entry goes where the value is the default. -/
def SMap.set {β : Type} [DecidableEq β] (d : β) (m : SMap β) (k : Nat) (x : β) : SMap β :=
  if x = d then SMap.del k m else SMap.ins k x (SMap.del k m)

/-- Keys strictly rising above a bound, and no entry equal to the default. -/
def SMap.okFrom {β : Type} [DecidableEq β] (d : β) : Nat → SMap β → Bool
  | _, [] => true
  | lo, (j, x) :: rest => decide (lo ≤ j) && decide (x ≠ d) && SMap.okFrom d (j + 1) rest

/-- The canonical form. -/
def SMap.ok {β : Type} [DecidableEq β] (d : β) (m : SMap β) : Bool := SMap.okFrom d 0 m

/-- Write values at keys k, k+1, and so on. -/
def SMap.setRange {β : Type} [DecidableEq β] (d : β) (m : SMap β) (k : Nat) : List β → SMap β
  | [] => m
  | x :: xs => SMap.setRange d (SMap.set d m k x) (k + 1) xs

/-- The entries of f at keys lo, lo+1, ... (n of them) that differ from the default. -/
def SMap.tabulate {β : Type} [DecidableEq β] (d : β) (lo n : Nat) (f : Nat → β) : SMap β :=
  ((List.range n).map fun i => (lo + i, f (lo + i))).filter fun e => decide (e.2 ≠ d)

/-- All of keys lo to lo+n-1 take the values of f at once; the other entries stay. One pass over a large range. -/
def SMap.replace {β : Type} [DecidableEq β] (d : β) (m : SMap β) (lo n : Nat) (f : Nat → β) : SMap β :=
  m.filter (fun e => decide (e.1 < lo)) ++ SMap.tabulate d lo n f ++ m.filter (fun e => decide (lo + n ≤ e.1))

/-- The values at keys lo to lo+n-1. -/
def SMap.range {β : Type} (d : β) (m : SMap β) (lo n : Nat) : List β :=
  (List.range n).map fun i => SMap.get d m (lo + i)

/-- A map of things that may be absent: no entry means absent. -/
def SMap.find {β : Type} (m : SMap β) (k : Nat) : Option β :=
  match m with
  | [] => none
  | (j, x) :: rest => if j = k then some x else SMap.find rest k

/-- Put an entry, in key order. -/
def SMap.put {β : Type} (m : SMap β) (k : Nat) (x : β) : SMap β := SMap.ins k x (SMap.del k m)

/-- Change an entry that is there. -/
def SMap.upd {β : Type} (m : SMap β) (k : Nat) (f : β → β) : SMap β :=
  m.map fun e => if e.1 = k then (e.1, f e.2) else e

end Sys2Proof.Machine
end

