-- ==== Sys2Proof/Syntax.lean ====
section
/-!
DEFINITION. Syntax.lean: the instructions and events of the X9 as syntax: one constructor of Instr for each row of
spec/opcode_table.json. An encodable instruction carries the decoded fields of its layout (12 R260, R270); an event
carries what the spec leaves to its moment (which unit, which operation, which packet).
-/
namespace Sys2Proof

/-- What an operand field names (12 R263). In a DXP, s n names d n. -/
inductive Operand where
  | v (n : BitVec 8)
  | s (n : BitVec 6)
  | p (n : BitVec 3)
  | cv (n : BitVec 3)
  | m (n : BitVec 4)
  | imm
  | nil
  | vat (n : BitVec 2)
  deriving DecidableEq, Repr

/-- GUARD (12 R268): unguarded, if predicate, if not predicate. -/
inductive Guard where
  | none
  | ifP (p : BitVec 3)
  | ifNotP (p : BitVec 3)
  deriving DecidableEq, Repr

/-- HINT (12 R269). -/
structure Hint where
  stall : BitVec 3
  yield : Bool
  reuseA : Bool
  reuseB : Bool
  zero : Bool
  deriving DecidableEq, Repr

/-- TYPE (12 R271): b8 is TYPE 0xB, b8x is TYPE 0xF, n8 is TYPE 0x7 (n8 or e8s by its variant). -/
inductive Ty where
  | i32 | n32 | i64 | n64 | i16 | n16 | i8 | n8 | f32 | f16 | bf16 | b8 | i4 | b1 | acc | b8x
  deriving DecidableEq, Repr

/-- RND (04 R91). -/
inductive Rnd where
  | rn | rz | rp | rm | rs
  deriving DecidableEq, Repr

/-- ORDER (10 R223). -/
inductive Order where
  | plain | acq | rel | ar
  deriving DecidableEq, Repr

/-- SCOPE (10 R223). -/
inductive Scope where
  | lane | team | clus | dev | ten | sys
  deriving DecidableEq, Repr

/-- The fields every layout has; alone, the plain layout PL (12 R270). -/
structure Slots where
  guard : Guard
  d : Operand
  a : Operand
  b : Operand
  hint : Hint
  imm : BitVec 32
  deriving DecidableEq, Repr

/-- The function layout FN (12 R270). -/
structure FnI extends Slots where
  ty : Ty
  sat : Bool
  sub : BitVec 4
  deriving DecidableEq, Repr

/-- The rounding layout RD (12 R270). -/
structure RdI extends Slots where
  ty : Ty
  rnd : Rnd
  sat : Bool
  var : BitVec 4
  deriving DecidableEq, Repr

/-- The memory layout MEM (12 R270). -/
structure MemI extends Slots where
  ty : Ty
  colour : BitVec 3
  order : Order
  scope : Scope
  deriving DecidableEq, Repr

/-- The matrix layout MTX (12 R270); sc is SC for mma and AND for mmab. -/
structure MtxI extends Slots where
  ty : Ty
  rnd : Rnd
  sc : Bool
  var : BitVec 4
  deriving DecidableEq, Repr

/-- An agent whose instruction is issued: group g of team tid, or the DXP of a core (tid is the model's name of a
team; assumption log 1). -/
inductive Issuer where
  | group (tid g : Nat)
  | dxp (core : Nat)
  deriving DecidableEq, Repr

/-- A register line: of a group's image (g = some group), or of the team's (02 R56, 05 R112). -/
structure Line where
  tid : Nat
  g : Option Nat
  line : Nat
  deriving DecidableEq, Repr

/-- Who reaches a register from outside (05, the reading agents): S, the host software V of a partition, M. -/
inductive HostAgent where
  | sysSw
  | virt (part : Nat)
  | mgmt
  deriving DecidableEq, Repr

/-- A unit with performance counters (09 R217): a core, or a shared unit numbered as 19 R430. -/
inductive PmUnit where
  | core (k : Nat)
  | shared (u : Nat)
  deriving DecidableEq, Repr

/-- A Lornan packet: the header of 19 R436, the bits it must hold 0, and the payload. -/
structure Packet where
  kind : BitVec 8
  path : BitVec 3
  cont : Bool
  rsv : BitVec 4
  sdev : BitVec 12
  spart : BitVec 4
  ddev : BitVec 12
  dpart : BitVec 4
  score : BitVec 8
  colours : BitVec 8
  seq : BitVec 32
  rtag : BitVec 32
  addr : W64
  len : BitVec 16
  status : BitVec 16
  arg : BitVec 32
  payload : List Byte
  deriving DecidableEq, Repr

/-- A Zaron frame: station addresses and payload (19 R437, R438). -/
structure ZFrame where
  dst : BitVec 48
  src : BitVec 48
  payload : List Byte
  deriving DecidableEq, Repr

/-- An MCTP control message: source endpoint, instance, command and data (19 R437). -/
structure Mctp where
  src : Byte
  inst : BitVec 5
  command : Byte
  data : List Byte
  deriving DecidableEq, Repr

/-- An SPDM request, over CXL DOE or over MCTP (19 R441): SPDM version, request code, two parameters and the bytes after
them. -/
structure Spdm where
  doe : Bool
  version : Byte
  code : Byte
  param1 : Byte
  param2 : Byte
  data : List Byte
  deriving DecidableEq, Repr

/-- The instructions and events: one constructor for each row of spec/opcode_table.json, in its order. -/
inductive Instr where
  /-- NOP (R400): Retires with no effect except counting in sr.retired. -/
  | nop (i : Slots)
  /-- EXIT (R400): Removes every lane of the issuing entry from the frontier; a group left with an empty frontier has exited. -/
  | exit (i : Slots)
  /-- TRAP (R401): Raises a precise software trap whose record carries IMM as DETAIL and ADDR, with RESUME set to 1. -/
  | trap (i : Slots)
  /-- TRET (R404): Ends the handler: writes RESUME and RPC into the head record, optionally restores s62 and s63, applies
  RESUME to the trapped entry and removes the record. -/
  | tret (i : Slots)
  /-- TQRD (R403): Copies the head trap record of the group's trap queue into sD to sD+7 without removing it. -/
  | tqrd (i : Slots)
  /-- TQRD_DXP (R403): Takes the team's oldest record from the core's DXP trap queue into sD to sD+7 and removes it. -/
  | tqrdDxp (i : Slots)
  /-- SRD (R405): Copies a special register into a v or s register. -/
  | srd (i : Slots)
  /-- SWR (R405): Writes a special register from a v, s or zero operand under its access codes. -/
  | swr (i : Slots)
  /-- VCLK (R406): Writes the context's virtual clock, or its whole ticks, to sD. -/
  | vclk (i : Slots)
  /-- ALARM (R407): Arms an alarm slot with an absolute or relative deadline and clears its expired bit. -/
  | alarm (i : Slots)
  /-- ALWAIT (R407): Waits until one of the named alarm slots has expired or the time-out passes, and returns the slot number
  or a status. -/
  | alwait (i : Slots)
  /-- ALCAN (R407): Clears the armed and expired bits of the named alarm slots. -/
  | alcan (i : Slots)
  /-- PHASE (R409): Sets the phase marker, ending the current operating-point phase and applying the entry for the new one. -/
  | phase (i : Slots)
  /-- YIELD (R38): Makes the issuing frontier entry rank last for the group's next issue. -/
  | yield (i : Slots)
  /-- BRKPT (R410): With BRKEN set, retires and opens a debugger-halt stop interval for the context; otherwise acts as nop. -/
  | brkpt (i : Slots)
  /-- IDEM (R411): Writes the team's idempotent flag to sD. -/
  | idem (i : Slots)
  /-- IDEM_CLR (R411): Clears the team's idempotent flag. -/
  | idemClr (i : Slots)
  /-- RDCTX (R412): Writes a context, partition, compartment, generation, device or key-epoch value selected by IMM to sD. -/
  | rdctx (i : Slots)
  /-- BRA (R281): Moves each active lane to a PC-relative target and the others to the fall-through, rebuilding the frontier. -/
  | bra (i : Slots)
  /-- BRX (R281): Moves each active lane to a target taken from an s register or a per-lane v pair. -/
  | brx (i : Slots)
  /-- CALL (R282): Pushes each active lane's return address, spilling if needed, and branches to a PC-relative target. -/
  | call (i : Slots)
  /-- CALLI (R281): Pushes each active lane's return address and branches to a per-lane or uniform computed target. -/
  | calli (i : Slots)
  /-- RET (R281): Pops each active lane's return address, refilling from the spill region, or ends a lane whose stack is
  empty. -/
  | ret (i : Slots)
  /-- VOTE (R284): Reports a property of the set of the entry's lanes whose predicate is true, as a predicate or a uniform
  value. -/
  | vote (i : FnI)
  /-- SHFL (R285): Moves values between lanes within segments by pick, slide, swap or rotate. -/
  | shfl (i : FnI)
  /-- ACTMASK (R284): Writes the issuing entry's lane mask to sD. -/
  | actmask (i : Slots)
  /-- CVDECL (R286): Declares the lane set of a convergence register, clearing its signed set and recorded word. -/
  | cvdecl (i : Slots)
  /-- CVSIGN (R287): Removes the issuing lanes from a convergence register's declared set, issuing the pending matrix
  operation if the set is now complete. -/
  | cvsign (i : Slots)
  /-- CVTEST (R288): Writes a convergence register's status word, declared set or signed set to sD. -/
  | cvtest (i : Slots)
  /-- IADD (R290): Integer addition, wrapping or saturating. -/
  | iadd (i : FnI)
  /-- ISUB (R290): Integer subtraction, wrapping or saturating. -/
  | isub (i : FnI)
  /-- IMUL (R290): Integer multiplication, wrapping or saturating. -/
  | imul (i : FnI)
  /-- IMULH (R290): Upper half of the double-width integer product. -/
  | imulh (i : FnI)
  /-- IMAD (R290): Integer multiply-add with D as the addend. -/
  | imad (i : FnI)
  /-- IDIV (R291): Integer division truncating toward zero, with all-ones on division by zero. -/
  | idiv (i : FnI)
  /-- IREM (R291): Integer remainder with the sign of the dividend. -/
  | irem (i : FnI)
  /-- IMIN (R290): Smaller of two integers. -/
  | imin (i : FnI)
  /-- IMAX (R290): Larger of two integers. -/
  | imax (i : FnI)
  /-- IABS (R290): Integer absolute value. -/
  | iabs (i : FnI)
  /-- INEG (R290): Integer negation. -/
  | ineg (i : FnI)
  /-- AND (R290): Bitwise AND. -/
  | and (i : FnI)
  /-- OR (R290): Bitwise OR. -/
  | or (i : FnI)
  /-- XOR (R290): Bitwise exclusive OR. -/
  | xor (i : FnI)
  /-- NOT (R290): Bitwise complement. -/
  | not (i : FnI)
  /-- SHL (R292): Logical left shift. -/
  | shl (i : FnI)
  /-- SHR (R292): Logical right shift. -/
  | shr (i : FnI)
  /-- SAR (R292): Arithmetic right shift. -/
  | sar (i : FnI)
  /-- ROTL (R292): Left rotation. -/
  | rotl (i : FnI)
  /-- POPC (R290): Population count of each element. -/
  | popc (i : FnI)
  /-- CLZ (R290): Count of leading zeros of each element. -/
  | clz (i : FnI)
  /-- BREV (R290): Bit reversal of each element. -/
  | brev (i : FnI)
  /-- BFX (R293): Extracts a bit field, zero- or sign-extended. -/
  | bfx (i : FnI)
  /-- BFI (R293): Inserts a bit field into D. -/
  | bfi (i : FnI)
  /-- ICMP (R295): Compares integers and writes a predicate per active lane. -/
  | icmp (i : FnI)
  /-- SEL (R296): Writes A or B to each lane by the guard condition. -/
  | sel (i : FnI)
  /-- MOV (R296): Copies a value, with its tag for a v source. -/
  | mov (i : FnI)
  /-- LEA (R297): Forms a 64-bit address from a base and a scaled offset. -/
  | lea (i : FnI)
  /-- SADD (R290): Adds B to A shifted left by SUB. -/
  | sadd (i : FnI)
  /-- ISAD (R294): Adds the sum of absolute element differences to a 32-bit accumulator. -/
  | isad (i : FnI)
  /-- BCAST (R298): Broadcasts one lane's value of A to every active lane of D. -/
  | bcast (i : FnI)
  /-- EXTRACT (R298): Moves one lane's value of A into an s register. -/
  | extract (i : FnI)
  /-- GETID (R299): Writes a selected identity of the lane, group, team, launch, core or cluster. -/
  | getid (i : FnI)
  /-- LDK (R300): Replaces one half of a 64-bit destination with IMM. -/
  | ldk (i : FnI)
  /-- MOVP (R301): Moves and combines predicates, or converts between predicates and s registers. -/
  | movp (i : FnI)
  /-- FADD (R307): Floating-point addition rounded once. -/
  | fadd (i : RdI)
  /-- FSUB (R307): Floating-point subtraction rounded once. -/
  | fsub (i : RdI)
  /-- FMUL (R307): Floating-point multiplication rounded once. -/
  | fmul (i : RdI)
  /-- FFMA (R307): Fused multiply-add with D as the addend, rounded once. -/
  | ffma (i : RdI)
  /-- FMIN (R310): Floating-point minimum under the .num or .nan rule. -/
  | fmin (i : FnI)
  /-- FMAX (R310): Floating-point maximum under the .num or .nan rule. -/
  | fmax (i : FnI)
  /-- FABS (R310): Clears the sign bit of each non-NaN element. -/
  | fabs (i : FnI)
  /-- FNEG (R310): Inverts the sign bit of each non-NaN element. -/
  | fneg (i : FnI)
  /-- FCMP (R311): Compares element 0 of two floats and writes a predicate. -/
  | fcmp (i : FnI)
  /-- FRCP (R308): Reciprocal, rounded once. -/
  | frcp (i : RdI)
  /-- FRSQ (R308): Reciprocal square root, rounded once. -/
  | frsq (i : RdI)
  /-- FSQRT (R308): Square root, rounded once. -/
  | fsqrt (i : RdI)
  /-- FEXP2 (R308): Base-2 exponential, rounded once. -/
  | fexp2 (i : RdI)
  /-- FLOG2 (R308): Base-2 logarithm, rounded once. -/
  | flog2 (i : RdI)
  /-- FSIN (R308): Sine of an argument in radians, rounded once. -/
  | fsin (i : RdI)
  /-- FCOS (R308): Cosine of an argument in radians, rounded once. -/
  | fcos (i : RdI)
  /-- FTANH (R308): Hyperbolic tangent, rounded once. -/
  | ftanh (i : RdI)
  /-- FDIV (R307): Floating-point division rounded once. -/
  | fdiv (i : RdI)
  /-- FFLOOR (R309): Rounds to an integral value toward minus infinity, plus infinity or zero. -/
  | ffloor (i : FnI)
  /-- FROUND (R309): Rounds to an integral value under the rounding mode. -/
  | fround (i : RdI)
  /-- FCLASS (R312): Writes a ten-bit class mask for each element. -/
  | fclass (i : FnI)
  /-- FDOT2 (R313): Two-element dot product into a binary32 accumulator, rounded once. -/
  | fdot2 (i : RdI)
  /-- FDOT4 (R313): Four-element binary8 dot product into a binary32 accumulator, rounded once. -/
  | fdot4 (i : RdI)
  /-- CVT (R318): Converts a register, or a tile register row by row, between formats. -/
  | cvt (i : RdI)
  /-- TILE_CVT_COMPLETE (R318): The tile form of cvt finishes writing its last row, releasing the groups waiting on the tile. -/
  | tileCvtComplete (tid id : Nat)
  /-- PACK (R319): Narrows two sources into a run of destination elements and keeps the rest of D. -/
  | pack (i : RdI)
  /-- UNPK (R320): Widens a run of source elements into the destination. -/
  | unpk (i : RdI)
  /-- SCL (R321): Computes the e8s block scale for each element against a target format. -/
  | scl (i : RdI)
  /-- SCLF (R322): Converts each float element to the nearest e8s code. -/
  | sclf (i : RdI)
  /-- TAGRD (R323): Writes the tag of a v or m register to sD. -/
  | tagrd (i : FnI)
  /-- TAGSET (R324): Replaces the tag of a register without changing its bits. -/
  | tagset (i : FnI)
  /-- SAT (R325): Clamps floats to [0, 1] or integers to an n-bit range. -/
  | sat (i : RdI)
  /-- LDG (R330): Loads from global memory into v or s registers, with an optional residency predicate. -/
  | ldg (i : MemI)
  /-- LDS (R330): Loads from scratchpad. -/
  | lds (i : MemI)
  /-- LDUN (R330): Loads through a unified address. -/
  | ldun (i : MemI)
  /-- LDM (R331): Loads 128 rows into a tile register. -/
  | ldm (i : MemI)
  /-- PGREQ (R332): Posts a page request notice for each distinct non-resident page named. -/
  | pgreq (i : MemI)
  /-- PREF (R333): May fill the core view with the named lines. -/
  | pref (i : MemI)
  /-- STG (R334): Enters a global store into the store buffer of its colour. -/
  | stg (i : MemI)
  /-- STS (R334): Enters a scratchpad store into the store buffer of its colour. -/
  | sts (i : MemI)
  /-- STUN (R334): Enters a unified-address store into the store buffer of its colour. -/
  | stun (i : MemI)
  /-- STM (R335): Stores all 128 rows of a tile register as one store-buffer entry. -/
  | stm (i : MemI)
  /-- ATOM (R337): Integer atomic read-modify-write per active lane at a global address. -/
  | atom (i : MemI)
  /-- ATOMS (R337): Integer atomic read-modify-write per active lane at a scratchpad address. -/
  | atoms (i : MemI)
  /-- RED (R337): Atomic reduction with no result, entering the store buffer. -/
  | red (i : MemI)
  /-- ATOMF (R338): Floating-point atomic add, min or max per active lane. -/
  | atomf (i : MemI)
  /-- FENCE (R340): Waits for the group's older accesses and performs the acquire and release parts of its order and scope. -/
  | fence (i : MemI)
  /-- WAITC (R343): Waits until each outstanding-operation counter is at or below its threshold. -/
  | waitc (i : MemI)
  /-- BAR (R344): Fences at team scope and marks the group arrived at the team barrier. -/
  | bar (i : MemI)
  /-- TBINIT (R346): Writes the starting state of a transaction barrier for a participant count. -/
  | tbinit (i : MemI)
  /-- TBARRIVE (R346): Releases all colours at the barrier's scope and lowers ARRIVE by the count. -/
  | tbarrive (i : MemI)
  /-- TBEXPECT (R346): Raises a barrier's SECTORS by the count. -/
  | tbexpect (i : MemI)
  /-- TBWAIT (R347): Waits for a barrier to leave the named phase, or for a time-out. -/
  | tbwait (i : MemI)
  /-- TBTEST (R348): Writes whether a barrier has left the named phase, and its PHASE, without waiting. -/
  | tbtest (i : MemI)
  /-- RINGPUT (R350): Waits for the slot at the put index to be empty and returns its index. -/
  | ringput (i : MemI)
  /-- RINGGET (R350): Waits for the slot at the get index to be full and returns its index and phase bit. -/
  | ringget (i : MemI)
  /-- RINGREL_FILL (R351): After the group's older accesses, marks a ring slot full and flips its phase bit. -/
  | ringrelFill (i : MemI)
  /-- RINGREL_FREE (R351): After the group's older loads, marks a ring slot empty. -/
  | ringrelFree (i : MemI)
  /-- EVPOST (R352): Posts a software record to the cluster event queue, or returns 1 when refused. -/
  | evpost (i : MemI)
  /-- EVGET (R353): Takes the head record of the cluster event queue, waiting unless .try is given. -/
  | evget (i : MemI)
  /-- MARKER (R342): Drains write-combining entries and sends shroud markers for the named colours and destination. -/
  | marker (i : MemI)
  /-- WCDRAIN (R341): Drains every write-combining entry of the context. -/
  | wcdrain (i : MemI)
  /-- MMA (R359): Signs a convergence register for a tile product, issuing the product when the set completes. -/
  | mma (i : MtxI)
  /-- MMAB (R360): Signs a convergence register for a binary XOR or AND popcount product. -/
  | mmab (i : MtxI)
  /-- VATLD (R361): Converts a tile register's rows exactly into a column block of a vat tile. -/
  | vatld (i : RdI)
  /-- VATST (R361): Converts a column block of a vat tile into a tile register. -/
  | vatst (i : RdI)
  /-- VATCLR (R361): Sets every cell of a vat tile to zero with the chosen accumulator tag. -/
  | vatclr (i : RdI)
  /-- VATCP (R361): Copies one vat tile and its tag to another. -/
  | vatcp (i : RdI)
  /-- MTRANS (R362): Transposes a square block of a tile register. -/
  | mtrans (i : FnI)
  /-- MSCALE (R363): Quantises a 16-bit float tile into one block of a scaled operand and its scale table. -/
  | mscale (i : RdI)
  /-- MATRIX_OP_COMPLETE (R358): A matrix, vat, wavefront or traceback operation writes its results and sets MFLAGS. -/
  | matrixOpComplete (core : Nat) (capture : List Nat) (final : Bool)
  /-- WFCFG (R366): Loads a wavefront rule record into the team's wavefront state. -/
  | wfcfg (i : Slots)
  /-- WFBAND (R367): Sets the wavefront band's low and high diagonal offsets. -/
  | wfband (i : Slots)
  /-- WFRUN (R370): Runs one wavefront tile, writing its traceback plane and output edges and updating BEST and LAST. -/
  | wfrun (i : Slots)
  /-- WFEDGE (R372): Writes a block's input edges from boundary gaps or from a neighbouring block's outputs. -/
  | wfedge (i : Slots)
  /-- TBWALK (R373): Walks a traceback plane from a start cell and writes a walk record. -/
  | tbwalk (i : Slots)
  /-- WFSCORE (R374): Writes the best or last score and cell to sD and sD+1, optionally clearing BEST. -/
  | wfscore (i : Slots)
  /-- CPYT (R378): Copies a tensor box between global memory and a local box, or posts the record's DXP program. -/
  | cpyt (i : Slots)
  /-- CPYG (R381): Gathers one table row per active lane into consecutive local rows. -/
  | cpyg (i : Slots)
  /-- CPYS (R381): Scatters one local row per active lane into a table. -/
  | cpys (i : Slots)
  /-- DXRUN (R383): Posts a command to run a DXP program with an argument. -/
  | dxrun (i : Slots)
  /-- DXSIG (R384): Stops the team's oldest running or queued DXP program with a software fault. -/
  | dxsig (i : Slots)
  /-- COPY_SECTOR_WRITE (R238): A copy engine or DXP writes one destination sector and credits its barrier. -/
  | copySectorWrite (core id sector : Nat) (readOnly : Bool)
  /-- COPY_COMPLETE (R382): A copy's last sector is written and credited; it posts its copy-complete record and its counter
  falls. -/
  | copyComplete (core id : Nat)
  /-- DXP_PROGRAM_START (R385): The DXP takes the next command from its queue and starts the program at its entry. -/
  | dxpProgramStart (core : Nat)
  /-- DLOOP (R388): Starts a counted DXP loop level, or skips the loop when the count is 0. -/
  | dloop (i : Slots)
  /-- DNEXT (R388): Decrements a DXP loop count and branches to the loop head while it is non-zero. -/
  | dnext (i : Slots)
  /-- DIDX (R389): Loads an index value from memory into a d register. -/
  | didx (i : Slots)
  /-- DADDR (R390): Computes a multi-dimensional address from coordinates and strides. -/
  | daddr (i : Slots)
  /-- DADDR_CMD (R390): Writes a command word of the running DXP command into a d register. -/
  | daddrCmd (i : Slots)
  /-- DXFER (R391): Checks and moves, or zero-fills, a run of sectors, crediting a barrier. -/
  | dxfer (i : Slots)
  /-- DARRIVE (R392): Waits for the program's earlier transfers and then lowers a barrier's ARRIVE. -/
  | darrive (i : Slots)
  /-- DWAITEV (R393): Waits for a barrier to leave a phase, or for a time-out. -/
  | dwaitev (i : Slots)
  /-- DEND (R392): Waits for incomplete transfers, ends the program and completes its starter's counter. -/
  | dend (i : Slots)
  /-- DXP_BRA (R386): In a DXP, branches always or when a d register is non-zero. -/
  | dxpBra (i : Slots)
  /-- DXP_CALL (R386): In a DXP, saves the return address in d31 and branches. -/
  | dxpCall (i : Slots)
  /-- DXP_RET (R386): In a DXP, returns through d31, or ends the program when d31 is 0. -/
  | dxpRet (i : Slots)
  /-- DXP_DRAIN_TIMEOUT (R396): A DXP program still running 1,000 real ticks after the first halt request is stopped with
  fault 0x0F. -/
  | dxpDrainTimeout (core : Nat)
  /-- INVK (R416): Sends an invocation to a device and returns a handle to its result. -/
  | invk (i : Slots)
  /-- INVH (R418): Sends an invocation addressed to an upstream handle, queued in handle order. -/
  | invh (i : Slots)
  /-- HWAIT (R419): Waits until a handle is ready or broken, or for a time-out. -/
  | hwait (i : Slots)
  /-- HTEST (R419): Writes a handle's status word without waiting. -/
  | htest (i : Slots)
  /-- HREL (R420): Frees a ready or broken handle resolution entry. -/
  | hrel (i : Slots)
  /-- HGET (R420): Reads one word of the handle resolution entry a handle names. -/
  | hget (i : Slots)
  /-- EPSEND (R422): Sends a message or a reply through an endpoint to its peer. -/
  | epsend (i : Slots)
  /-- EPRECV (R423): Takes the head message of an endpoint's receive queue into a buffer, waiting or timing out. -/
  | eprecv (i : Slots)
  /-- EPSTAND (R424): Registers an endpoint's stand-in reply address and length. -/
  | epstand (i : Slots)
  /-- COLL (R426): Joins a collective sum, max, min, broadcast or barrier. -/
  | coll (i : RdI)
  /-- COLL_COMPLETE (R427): A collective's result is written and its status delivered to the member. -/
  | collComplete (tid g id : Nat)
  /-- EPSEND_COMPLETE (R422): An endpoint send receives its final status from the peer link. -/
  | epsendComplete (tid g id : Nat)
  /-- INVOCATION_RESULT_READY (R417): An invocation's grid completes; its stores are released at system scope and the entry
  becomes ready or broken, starting queued invocations. -/
  | invocationResultReady (part launch : Nat)
  /-- TRAP_DELIVERY (R158): The head record of a group's trap queue is delivered to a handler, or halts the group when none
  is set. -/
  | trapDelivery (tid g : Nat)
  /-- STALL_HINT_EXPIRY (R269): The stall hint's count of quadrant cycles runs out and the group may issue again. -/
  | stallHintExpiry (tid g : Nat)
  /-- ALARM_EXPIRY (R67): An armed alarm whose deadline VCLK has reached becomes expired. -/
  | alarmExpiry (tid g slot : Nat)
  /-- TIMEOUT_EXPIRY (R63): The time-out of a waiting alwait, hwait, tbwait, eprecv or dwaitev fires when VCLK reaches its
  end. -/
  | timeoutExpiry (who : Issuer)
  /-- WAIT_RELEASED (R33): A group held by a waiting instruction finds its condition met and resumes. -/
  | waitReleased (who : Issuer)
  /-- BAR_RELEASE_WAVE (R46): A wave of groups waiting at an opened team barrier is released after its gap. -/
  | barReleaseWave (tid : Nat)
  /-- STORE_PERFORM (R226): The head of a store buffer is performed into scratchpad, the core view or the write-combining
  buffer. -/
  | storePerform (tid g colour : Nat)
  /-- RELEASE_PERFORM (R230): A release performs its scope's write-backs, drains and markers and then its own bytes. -/
  | releasePerform (tid g id : Nat)
  /-- CORE_VIEW_WRITEBACK (R227): Dirty bytes of a core view are written back to home memory. -/
  | coreViewWriteback (core : Nat) (addrs : List Nat)
  /-- CORE_VIEW_FILL (R227): Clean bytes of a line are filled from home memory into a core view. -/
  | coreViewFill (core line : Nat)
  /-- CORE_VIEW_DROP (R227): A line with no dirty bytes is dropped from a core view. -/
  | coreViewDrop (core line : Nat)
  /-- LOAD_VALUE_TAKE (R228): A load or atomic in the load queue takes its value from the first applicable source. -/
  | loadValueTake (tid g id : Nat)
  /-- ATOMIC_STEP (R233): An atomic reads, modifies and writes its bytes in one step at the place its scope selects. -/
  | atomicStep (tid g id : Nat)
  /-- LOAD_COMPLETE (R229): A load, atomic or tile-loading operation writes its destination registers and its counter falls. -/
  | loadComplete (tid g id : Nat) (early : List Nat) (final : Bool)
  /-- WC_AGE_DRAIN (R173): A write-combining entry whose age reaches WCAGE.AGE drains to its peer. -/
  | wcAgeDrain (core idx : Nat)
  /-- BACK_INVALIDATION_RESPONSE (R236): The host answers a back-invalidation of a system-scope release. -/
  | backInvalidationResponse (id : Nat)
  /-- REGISTER_LINE_FILL (R56): A register line is filled into the register cache, evicting and writing back a line if
  needed. -/
  | registerLineFill (tid : Nat) (g : Option Nat) (line : Nat) (victim : Option Line)
  /-- VAT_TILE_SWAP (R113): A vat slot's resident tile is written back and the named tile filled. -/
  | vatTileSwap (core slot tid : Nat)
  /-- SPMAP_LINE_FILL (R144): The map unit fills a mapped scratchpad line from global memory. -/
  | spmapLineFill (tid g line : Nat)
  /-- SPMAP_SPACE_WRITEBACK (R145): The oldest dirty mapped line is written back when the write-back buffer lacks space. -/
  | spmapSpaceWriteback (tid : Nat)
  /-- LAUNCH_DOORBELL (R176): A doorbell write enters the launch queue and takes a launch number, or is discarded or refused. -/
  | launchDoorbell (part : Nat) (addr : W64)
  /-- LAUNCH_CHECK (R186): The distributor reads and checks the next launch record and its priority map, rejecting it or
  moving its teams to placement. -/
  | launchCheck (part : Nat)
  /-- TEAM_PLACEMENT (R43): A team is placed on the eligible core of lowest temperature and starts. -/
  | teamPlacement (part : Nat)
  /-- LAUNCH_COMPLETE (R179): Once every group of a grid has exited or halted, its launch-complete notice is posted. -/
  | launchComplete (part launch : Nat)
  /-- HOTSPOT_MIGRATION (R48): The X9 moves a quiescent team from a hot-excluded core to an eligible core. -/
  | hotspotMigration (tid core : Nat)
  /-- PREEMPTION (R59): A context is pre-empted: a stop interval opens, its cores drain and its state is written back. -/
  | preemption (part ctx : Nat)
  /-- PARTITION_SWAP (R62): A partition's contexts are swapped to the rind store under a stop interval. -/
  | partitionSwap (part : Nat)
  /-- STOP_INTERVAL_CLOSE (R59): The last core of a context resumes issue; VCLK resumes and VSTOPSUM grows. -/
  | stopIntervalClose (part ctx : Nat)
  /-- BRINE_VISIBLE (R73): A brine entry whose stamp VCLK has reached moves into its endpoint's receive queue. -/
  | brineVisible (part ctx : Nat)
  /-- PATIENCE_EXPIRY (R70): A message's patience timer expires and the stand-in or a target-stopped status is sent. -/
  | patienceExpiry (part ctx ident : Nat)
  /-- STANDIN_DEFERRED_WRITE (R453): A held stand-in or no-reply slot is written to a host mailbox once a slot is free. -/
  | standinDeferredWrite (part ctx : Nat)
  /-- EVQ_HELD_RECORD_POST (R166): A copy-complete or DXP fault record held while the event queue was full is posted. -/
  | evqHeldRecordPost (core : Nat)
  /-- RECORDS_LOST_POST (R166): A records-lost record is posted to the event queue when space returns. -/
  | recordsLostPost (cluster : Nat)
  /-- NOTICES_LOST_POST (R180): A notices-lost notice is posted to the notice ring when space returns. -/
  | noticesLostPost (part : Nat)
  /-- TEMPERATURE_SAMPLE (R44): Every 10 real ticks each core's temperature is sampled, updating hot exclusion and the
  thermal cap. -/
  | temperatureSample (cluster : Nat) (temps droops : List Byte)
  /-- DROOP_EVENT (R439): A droop event sets the cluster's cap two steps below its current step. -/
  | droopEvent (cluster : Nat)
  /-- DROOP_CAP_EXPIRY (R439): A droop cap lapses 100 real ticks after it was set. -/
  | droopCapExpiry (cluster : Nat)
  /-- POWER_GOOD (R440): After power good the device verifies its image, calibrates, initialises memory and sets READY. -/
  | powerGood
  /-- CLPART_WRITE (R127): Assigns a cluster to a partition, or is refused while the cluster is out of reset. -/
  | clpartWrite (cluster : Nat) (val : W32)
  /-- PARTCTL_EN_SET (R128): Enables a partition: its clusters leave reset, fresh keys are generated and its record is read. -/
  | partctlEnSet (part : Nat)
  /-- PARTCTL_EN_CLEAR (R128): Starts a partition reset, destroying its keys and ending its teams, handles and fabric work. -/
  | partctlEnClear (part : Nat)
  /-- PARTITION_RESET_COMPLETE (R435): The partition reset's effects are complete and BUSY clears. -/
  | partitionResetComplete (part : Nat)
  /-- PARTCTL_HALT_SET (R128): Opens a stop interval for every context of the partition with write-back, setting HALTED when
  done. -/
  | partctlHaltSet (part : Nat)
  /-- PARTCTL_HALT_CLEAR (R128): Closes the partition's halt stop interval. -/
  | partctlHaltClear (part : Nat)
  /-- MASTCTL_GO (R130): Starts a mast core program, or is refused and sets CLPARTERR. -/
  | mastctlGo (cluster : Nat) (val : W32)
  /-- DBGCTL_GO (R410): Closes a debugger halt or releases one single step. -/
  | dbgctlGo (part : Nat)
  /-- DBGCTL_STEP_SET (R410): Enters single-step mode, opening a stop interval for every context of the partition. -/
  | dbgctlStepSet (part : Nat)
  /-- DBGCTL_STEP_CLEAR (R410): Leaves single-step mode so that the next GO resumes the contexts. -/
  | dbgctlStepClear (part : Nat)
  /-- PMSEL_CLR (R217): Sets a performance counter's count to 0. -/
  | pmselClr (agent : HostAgent) (unit : PmUnit) (n : Nat)
  /-- PMSEL_WRITE (R221): Reprograms a performance counter's event, enable or virtual function. -/
  | pmselWrite (agent : HostAgent) (unit : PmUnit) (n : Nat) (val : W32)
  /-- PMCNT_WRITE (R221): Writes a performance counter's COUNT, losing the cycle's increments. -/
  | pmcntWrite (agent : HostAgent) (unit : PmUnit) (n : Nat) (val : W64)
  /-- PFCMD_RAISE_GENERATION (R137): Raises an address space's generation so that later lookups refetch. -/
  | pfcmdRaiseGeneration (word : W64)
  /-- GENERATION_WRAP_INVALIDATE (R138): A raise past 0xFFFF takes effect once every cached entry of the address space is
  invalidated. -/
  | generationWrapInvalidate
  /-- PFCMD_WRITE_ENDPOINT (R202): Binds, rebinds or unbinds an endpoint entry whole. -/
  | pfcmdWriteEndpoint (word : W64)
  /-- PFCMD_CLEAR_OPT (R203): Clears the whole operating point table. -/
  | pfcmdClearOpt (word : W64)
  /-- PFCMD_CLEAR_PARTITION_OPT (R203): Clears one partition's operating point entries. -/
  | pfcmdClearPartitionOpt (word : W64)
  /-- PFCMD_SET_LOCK (R203): Sets LOCK of an operating point entry. -/
  | pfcmdSetLock (word : W64)
  /-- PFCMD_CLEAR_LOCK (R203): Clears LOCK of an operating point entry. -/
  | pfcmdClearLock (word : W64)
  /-- PFCMD_SUPPLY_FIRMWARE (R440): Verifies a host-supplied firmware image and writes it to the slot. -/
  | pfcmdSupplyFirmware (word : W64)
  /-- PFCMD_UNKNOWN_OP (R431): A command with an undefined OP sets ERR and does nothing else. -/
  | pfcmdUnknownOp (word : W64)
  /-- EPPOST_WRITE (R433): The host posts a message record to an endpoint, which arrives under the endpoint's mode. -/
  | eppostWrite (part : Nat) (addr : W64)
  /-- EVQSTAT_READ (R167): A read of EVQSTAT returns LOST and clears it. -/
  | evqstatRead (cluster : Nat)
  /-- DXP_TRAPQ_READ (R169): A read of the DXP trap queue by system software removes its head record. -/
  | dxpTrapqRead (core : Nat)
  /-- REGISTER_WRITE (R7): A write to a register with no row of its own sets its fields under their access codes. -/
  | registerWrite (agent : HostAgent) (off : Nat) (val : W64)
  /-- VF_FUNCTION_LEVEL_RESET (R428): A function-level reset of a virtual function resets and then re-enables its partition. -/
  | vfFunctionLevelReset (part : Nat)
  /-- CXL_MEM_READ (R429): A host CXL.mem read of a partition's range is translated in context 0 and answered. -/
  | cxlMemRead (part off n : Nat)
  /-- CXL_MEM_WRITE (R429): A host CXL.mem write is translated and applied, or answered with an error completion. -/
  | cxlMemWrite (part off : Nat) (bytes : List Byte)
  /-- READ_REQUEST (R436): A Lornan read request is checked against the target's windows and answered. -/
  | readRequest (pkt : Packet)
  /-- READ_RESPONSE (R436): A read response writes the load's destination or posts a refusal. -/
  | readResponse (pkt : Packet)
  /-- WRITE (R234): A write packet is checked against the windows and its masked bytes applied in order. -/
  | writePacket (pkt : Packet)
  /-- WRITE_APPLIED (R238): Acknowledges a remote engine write, allowing its sector credit. -/
  | writeApplied (pkt : Packet)
  /-- ATOMIC_REQUEST (R233): A remote atomic is applied to the destination's home memory and answered. -/
  | atomicRequest (pkt : Packet)
  /-- ATOMIC_RESPONSE (R436): Returns a remote atomic's old value or its refusal. -/
  | atomicResponse (pkt : Packet)
  /-- SHROUD_MARKER (R235): A marker copy arrives; the destination acknowledges once every copy and earlier packet is in. -/
  | shroudMarker (pkt : Packet)
  /-- MARKER_ACKNOWLEDGEMENT (R235): A destination's acknowledgement or target-gone answer arrives for a release or marker. -/
  | markerAcknowledgement (pkt : Packet)
  /-- REFUSAL (R141): A remote refusal arrives and raises an imprecise protection trap. -/
  | refusal (pkt : Packet)
  /-- INVOCATION (R416): An invocation is accepted into a handle entry and its grid started, or refused with a synthesized
  handle. -/
  | invocation (pkt : Packet)
  /-- FORWARDED_INVOCATION (R418): An invocation addressed to a handle is started, queued or refused at its upstream entry. -/
  | forwardedInvocation (pkt : Packet)
  /-- HANDLE_ANSWER (R419): A handle's status arrives for an invoker's handle or wait. -/
  | handleAnswer (pkt : Packet)
  /-- ENDPOINT_MESSAGE (R69): An endpoint message arrives and enters the receive or brine queue, is refused or dropped. -/
  | endpointMessage (pkt : Packet)
  /-- ENDPOINT_STATUS (R422): A peer's status for an endpoint send arrives. -/
  | endpointStatus (pkt : Packet)
  /-- COLLECTIVE_CONTRIBUTION (R426): A member's collective contribution arrives. -/
  | collectiveContribution (pkt : Packet)
  /-- COLLECTIVE_RESULT (R426): A collective's result arrives from a switch unit or the root. -/
  | collectiveResult (pkt : Packet)
  /-- ABORT (R435): An abort packet ends a collective or an invocation of a resetting partition. -/
  | abort (pkt : Packet)
  /-- MALFORMED_PACKET (R436): A packet of unknown kind or broken header is discarded at ingress. -/
  | malformedPacket (pkt : Packet)
  /-- LORNAN_PORT_DOWN (R434): A port goes down; its paths become invalid and queued packets and markers are resent. -/
  | lornanPortDown (port : Nat)
  /-- LORNAN_PORT_RETRAIN (R434): A port's counter reaches its limit and the port retrains under a fresh key. -/
  | lornanPortRetrain (port : Nat)
  /-- ZARON_REEF_FRAME (R437): A reef frame applies per-rank levels as frequency caps, or is refused or dropped. -/
  | zaronReefFrame (frame : ZFrame)
  /-- ZARON_PATH_UPDATE (R199): A path update frame replaces one destination's eight path entries, or is refused. -/
  | zaronPathUpdate (frame : ZFrame)
  /-- PATH_UPDATE_APPLY (R199): An accepted path update is applied once no release to that destination awaits
  acknowledgements. -/
  | pathUpdateApply
  /-- ZARON_TELEMETRY_REQUEST (R438): A telemetry request is answered with the selected values. -/
  | zaronTelemetryRequest (frame : ZFrame)
  /-- ZARON_UNKNOWN_FRAME (R438): A frame of another type or too short is dropped without an answer. -/
  | zaronUnknownFrame (frame : ZFrame)
  /-- SET_ENDPOINT_ID (R437): MCTP control command that sets the endpoint ID. -/
  | setEndpointId (msg : Mctp)
  /-- GET_ENDPOINT_ID (R437): MCTP control command that returns the endpoint ID. -/
  | getEndpointId (msg : Mctp)
  /-- GET_MCTP_VERSION_SUPPORT (R437): MCTP control command that returns the supported versions. -/
  | getMctpVersionSupport (msg : Mctp)
  /-- GET_MESSAGE_TYPE_SUPPORT (R437): MCTP control command that returns the supported message types. -/
  | getMessageTypeSupport (msg : Mctp)
  /-- MCTP_UNSUPPORTED_COMMAND (R437): Another MCTP control command receives the unsupported-command completion code. -/
  | mctpUnsupportedCommand (msg : Mctp)
  /-- GET_VERSION (R441): SPDM request for the supported versions. -/
  | getVersion (msg : Spdm)
  /-- GET_CAPABILITIES (R441): SPDM request for the capabilities. -/
  | getCapabilities (msg : Spdm)
  /-- NEGOTIATE_ALGORITHMS (R441): SPDM algorithm negotiation, limited to Ed25519 and SHA-512. -/
  | negotiateAlgorithms (msg : Spdm)
  /-- GET_DIGESTS (R441): SPDM request for certificate chain digests. -/
  | getDigests (msg : Spdm)
  /-- GET_CERTIFICATE (R441): SPDM request for the identity certificate chain of slot 0. -/
  | getCertificate (msg : Spdm)
  /-- CHALLENGE (R441): SPDM challenge answered with a signature. -/
  | challenge (msg : Spdm)
  /-- GET_MEASUREMENTS (R441): SPDM request for the image, partition-assignment and kernel-page measurements. -/
  | getMeasurements (msg : Spdm)
  /-- KEY_EXCHANGE (R441): SPDM key exchange opening a session. -/
  | keyExchange (msg : Spdm)
  /-- FINISH (R441): SPDM finish completing a session's establishment. -/
  | finish (msg : Spdm)
  /-- END_SESSION (R441): SPDM request that ends a session. -/
  | endSession (msg : Spdm)
  /-- SPDM_UNSUPPORTED_REQUEST (R441): Another SPDM request receives the standard's unsupported-request error. -/
  | spdmUnsupportedRequest (msg : Spdm)
  /-- QUADRANT_CYCLE (R215): A cycle of a quadrant passes: issue selection is made, and for each group that issues nothing,
  sr.cycle and exactly one stall-reason counter rise. -/
  | quadrantCycle (core q : Nat)
  /-- REFERENCE_CLOCK_PERIOD (R57): A period of the 128 MHz device reference clock passes and RCLK, and VCLK of every running
  context, advance by 512 fraction units. -/
  | referenceClockPeriod
  /-- LOSS_OF_POWER (R440): Power is lost or switched off, discarding all module state except the firmware slot, and possibly
  leaving a slot write incomplete. -/
  | lossOfPower (writing : Bool)
  /-- LORNAN_LINK_TRAINING (R434): A Lornan port trains with its attached switch port, setting up its link key by SPDM
  KEY_EXCHANGE and coming up so that paths through it become valid again. -/
  | lornanLinkTraining (port : Nat)
  /-- CXL_LINK_TRAINING (R428): The CXL host link trains at x16, x8 or x4 in that order of preference and comes up. -/
  | cxlLinkTraining (ok16 ok8 ok4 : Bool)
  deriving DecidableEq, Repr

end Sys2Proof
end

