-- ==== Sys2Proof/Machine/Formats.lean ====
section
/-!
DEFINITION. Machine/Formats.lean: the number formats, bit by bit (04 R76-R90, 12 R271), and exact values.
-/
namespace Sys2Proof.Machine

/-- The code of TYPE (12 R271). -/
def tyCode : Ty → Nat
  | .i32 => 0 | .n32 => 1 | .i64 => 2 | .n64 => 3 | .i16 => 4 | .n16 => 5 | .i8 => 6 | .n8 => 7
  | .f32 => 8 | .f16 => 9 | .bf16 => 10 | .b8 => 11 | .i4 => 12 | .b1 => 13 | .acc => 14 | .b8x => 15

/-- TYPE from its code. -/
def tyOf (n : Nat) : Ty :=
  match n % 16 with
  | 0 => .i32 | 1 => .n32 | 2 => .i64 | 3 => .n64 | 4 => .i16 | 5 => .n16 | 6 => .i8 | 7 => .n8
  | 8 => .f32 | 9 => .f16 | 10 => .bf16 | 11 => .b8 | 12 => .i4 | 13 => .b1 | 14 => .acc | _ => .b8x

/-- The format tag TYPE x 16 + VAR (12 R271). -/
def tagOf (t : Ty) (var : Nat) : Nat := 16 * tyCode t + var

/-- The defined tags (04 R88). -/
def tagDefined (t : Nat) : Bool :=
  let hi := t / 16
  let lo := t % 16
  decide (t < 256) && ((lo == 0 && hi != 11 && hi != 14 && hi != 15) || t == 0x71 || t == 0xE0 || t == 0xE1
    || ((hi == 11 || hi == 15) && decide (2 ≤ lo)))

/-- The width in bits of an element of the tagged format (04 R76-R87). -/
def tagWidth (t : Nat) : Nat :=
  match t / 16 with
  | 0 => 32 | 1 => 32 | 2 => 64 | 3 => 64 | 4 => 16 | 5 => 16 | 6 => 8 | 7 => 8 | 8 => 32 | 9 => 16 | 10 => 16
  | 11 => 8 | 12 => 4 | 13 => 1 | 14 => 48 | _ => 8

/-- A 64-bit format, which occupies a register pair (04 R79, 05 R110). -/
def tagWide (t : Nat) : Bool := t / 16 == 2 || t / 16 == 3

/-- An integer format (e8s stands with the floats, 04 R86). -/
def tagInt (t : Nat) : Bool := (decide (t / 16 ≤ 7) && t != 0x71) || t / 16 == 12 || t == 0xE1

/-- A signed integer format. -/
def tagSigned (t : Nat) : Bool := t / 16 == 0 || t / 16 == 2 || t / 16 == 4 || t / 16 == 6 || t / 16 == 12 || t == 0xE1

/-- R89: equal tags, or integer tags of one width that differ only in signedness. A tag that R88 does not define matches
none. -/
def tagMatch (want found : Nat) : Bool :=
  tagDefined want && tagDefined found && (want == found || (tagInt want && tagInt found && tagWidth want == tagWidth found))

/-- Elements in one source register, or in one pair for a 64-bit format (14 R317). -/
def tagElems (t : Nat) : Nat := if tagWide t then 1 else 32 / tagWidth t

/-- A floating-point format: width, sign bit, exponent and fraction widths, bias; ieee = has IEEE specials, otherwise
binary8, with infinities or finite. -/
structure FFmt where
  w : Nat
  signed : Bool
  eb : Nat
  fb : Nat
  bias : Nat
  ieee : Bool
  hasInf : Bool
  deriving DecidableEq, Repr

/-- binary32, binary16, bfloat16, FP48 (R83, R84) and the binary8 family (R80). -/
def fmtOf (tag : Nat) : FFmt :=
  match tag / 16 with
  | 8 => ⟨32, true, 8, 23, 127, true, true⟩
  | 9 => ⟨16, true, 5, 10, 15, true, true⟩
  | 10 => ⟨16, true, 8, 7, 127, true, true⟩
  | 14 => ⟨48, true, 11, 36, 1023, true, true⟩
  | hi =>
    let k := tag % 16 / 2
    if tag % 2 == 1 then ⟨8, true, 8 - k, k - 1, 2 ^ (7 - k), false, hi == 15⟩
    else ⟨8, false, 9 - k, k - 1, 2 ^ (8 - k), false, hi == 15⟩

/-- An exact value: a NaN (signalling or not), an infinity, or (-1)^neg x m x 2^e; a zero keeps its sign. -/
inductive FVal where
  | nan (sig : Bool)
  | inf (neg : Bool)
  | num (neg : Bool) (m : Nat) (e : Int)
  deriving DecidableEq, Repr

/-- The NaN code of a format (R81, R85). -/
def nanCode (f : FFmt) : Nat :=
  if f.ieee then (2 ^ f.eb - 1) * 2 ^ f.fb + 2 ^ (f.fb - 1) else if f.signed then 0x80 else 0xFF

/-- The code of the largest finite magnitude (R81, R83, R84). -/
def maxCode (f : FFmt) : Nat :=
  if f.ieee then (2 ^ f.eb - 1) * 2 ^ f.fb - 1
  else (if f.signed then 0x7F else 0xFE) - b2n f.hasInf

/-- The code of an infinity, where the format has one (R81, R83). -/
def infCode (f : FFmt) (neg : Bool) : Nat :=
  if f.ieee then (2 ^ f.eb - 1) * 2 ^ f.fb + (if neg then 2 ^ (f.w - 1) else 0)
  else if f.signed then (if neg then 0xFF else 0x7F) else 0xFE

/-- The value of a code (R80-R85). -/
def fdecode (f : FFmt) (code : Nat) : FVal :=
  let c := code % 2 ^ f.w
  let neg := f.signed && bit c (f.w - 1)
  let mag := if f.signed then c % 2 ^ (f.w - 1) else c
  let ex := mag / 2 ^ f.fb
  let fr := mag % 2 ^ f.fb
  let fin : FVal :=
    if ex = 0 then .num neg fr (1 - (f.bias : Int) - f.fb)
    else .num neg (2 ^ f.fb + fr) ((ex : Int) - f.bias - f.fb)
  if f.ieee then
    if ex = 2 ^ f.eb - 1 then (if fr = 0 then .inf neg else .nan (!(bit fr (f.fb - 1)))) else fin
  else if c = nanCode f then .nan false
  else if f.hasInf && c == infCode f neg then .inf neg
  else fin

/-- The value of an e8s code (R86). -/
def e8sDecode (c : Nat) : FVal := if c % 256 = 255 then .nan false else .num false 1 ((c % 256 : Nat) - 127 : Int)

/-- The length in bits of a number. -/
def blen (m : Nat) : Nat := if m = 0 then 0 else Nat.log2 m + 1

/-- The code that holds m x 2^e exactly, if the format has one. -/
def encodeExact (f : FFmt) (neg : Bool) (m : Nat) (e : Int) : Option Nat :=
  if m = 0 then some (if neg && f.ieee then 2 ^ (f.w - 1) else 0)
  else if neg && !f.signed then none
  else
    let top : Int := e + blen m - 1
    let emin : Int := 1 - (f.bias : Int)
    let unit : Int := if top < emin then emin - f.fb else top - f.fb
    let sh := e - unit
    let sig : Nat := if 0 ≤ sh then m * 2 ^ sh.toNat else m / 2 ^ (-sh).toNat
    let exact := decide (0 ≤ sh) || decide (sig * 2 ^ (-sh).toNat = m)
    let mag : Nat := if top < emin then sig else ((top + f.bias).toNat) * 2 ^ f.fb + (sig - 2 ^ f.fb)
    if exact && decide (mag ≤ maxCode f) then some (mag + (if neg then 2 ^ (f.w - 1) else 0)) else none

/-- A binary32 immediate converted exactly to a narrower float format (14 R302): the code, or none where the format
cannot hold it. -/
def immFloat (tag imm : Nat) : Option Nat :=
  let f := fmtOf tag
  match fdecode (fmtOf 0x80) imm with
  | .nan _ => some (nanCode f)
  | .inf neg => if f.hasInf && (f.signed || !neg) then some (infCode f neg) else none
  | .num neg m e => encodeExact f neg m e

/-- A w-bit element repeated over 32 bits (12 R266). -/
def replicate (w x : Nat) : Nat := (List.range (32 / w)).foldl (fun a i => a + x % 2 ^ w * 2 ^ (w * i)) 0

/-- The value of an IMM operand by the format that TYPE and VAR name (12 R266, 14 R302), in 32 or 64 bits; none where
the IMM breaks its row. -/
def immOperand (tag imm : Nat) : Option Nat :=
  match tag / 16 with
  | 0 => some imm | 1 => some imm | 13 => some imm | 8 => some imm
  | 2 => some (wrapI 64 (sextI 32 imm)) | 3 => some imm
  | 4 => if imm = wrapI 32 (sextI 16 imm) then some (replicate 16 imm) else none
  | 6 => if imm = wrapI 32 (sextI 8 imm) then some (replicate 8 imm) else none
  | 5 => if imm < 2 ^ 16 then some (replicate 16 imm) else none
  | 7 => if imm < 2 ^ 8 then some (replicate 8 imm) else none
  | 12 => if imm = wrapI 32 (sextI 4 imm) && imm % 16 != 8 then some (replicate 4 imm) else none
  | _ => (immFloat tag imm).map (replicate (tagWidth tag))

end Sys2Proof.Machine
end

