-- ==== Sys2Proof/Machine/Flags.lean ====
section
/-!
DEFINITION. Machine/Flags.lean: the sticky flags (04 R95, R96) and the fitting of exact integers to a format
(13 R279, 04 R77, R78, R100).
-/
namespace Sys2Proof.Machine

/-! Flag bits (R96). -/
def flagNX : Nat := 1
def flagUF : Nat := 2
def flagOF : Nat := 4
def flagDZ : Nat := 8
def flagNV : Nat := 16
def flagISAT : Nat := 32
def flagINT4RSV : Nat := 64

/-- The union of two sets of flags. -/
def flagsOr (a b : Nat) : Nat := a ||| b

/-- The least value of an integer format; INT4 runs from -7 to 7 (R76, R77). -/
def intMin (tag : Nat) : Int :=
  if tag / 16 = 12 then -7 else if tagSigned tag then -((2 ^ (tagWidth tag - 1) : Nat) : Int) else 0

/-- The greatest value of an integer format. -/
def intMax (tag : Nat) : Int :=
  if tag / 16 = 12 then 7
  else if tagSigned tag then ((2 ^ (tagWidth tag - 1) : Nat) : Int) - 1 else ((2 ^ tagWidth tag : Nat) : Int) - 1

/-- Fit an exact integer: wrap, or clamp with ISAT under SAT; INT4 and INT48 always clamp (R77, R78, R100, R279). -/
def fitInt (tag : Nat) (sat : Bool) (x : Int) : Nat × Nat :=
  let w := tagWidth tag
  if intMin tag ≤ x ∧ x ≤ intMax tag then (wrapI w x, 0)
  else if sat || tag / 16 == 12 || tag == 0xE1 then
    (wrapI w (if x < intMin tag then intMin tag else intMax tag), flagISAT)
  else (wrapI w x, 0)

/-- The integer that an element holds, and INT4RSV for INT4 code 0b1000, read as 0 (R77). -/
def intOf (tag code : Nat) : Int × Nat :=
  let c := code % 2 ^ tagWidth tag
  if tag / 16 = 12 ∧ c = 8 then (0, flagINT4RSV)
  else if tagSigned tag then (sextI (tagWidth tag) c, 0) else ((c : Int), 0)

/-- Element i of width w of a value (R79). -/
def elemAt (w x i : Nat) : Nat := x / 2 ^ (w * i) % 2 ^ w

/-- The value whose elements of width w are listed, element 0 lowest (R79). -/
def ofElems (w : Nat) : List Nat → Nat
  | [] => 0
  | e :: es => e % 2 ^ w + 2 ^ w * ofElems w es

/-- The n elements of a value. -/
def elemsOf (w n x : Nat) : List Nat := (List.range n).map (elemAt w x)

end Sys2Proof.Machine
end

