-- ==== Sys2Proof/Machine/Numerics.lean ====
section
/-!
DEFINITION. Machine/Numerics.lean: rounding, overflow and flags (04 R91-R95), conversions (R97-R100), arithmetic and
elementary results (R101, R102), dot and matrix sums (R103-R108).
-/
namespace Sys2Proof.Machine

/-- An exact result before rounding: NaN, infinity, or (-1)^neg x (m + r) x 2^e with 0 < r < 1 where st, r = 0
otherwise. -/
inductive XVal where
  | nan
  | inf (neg : Bool)
  | fin (neg : Bool) (m : Nat) (e : Int) (st : Bool)
  deriving DecidableEq, Repr

/-- m x 2^e in units of 2^u: the whole part, and the parts of 2^32 of the rest with its sticky mark. -/
structure Scaled where
  whole : Nat
  frac : Nat
  rest : Bool
  deriving DecidableEq, Repr

/-- Scale (m, st) x 2^e to units of 2^u. -/
def scaleTo (m : Nat) (e u : Int) (st : Bool) : Scaled :=
  if u ≤ e then ⟨m * 2 ^ (e - u).toNat, 0, st⟩
  else
    let k := (u - e).toNat
    let r := m % 2 ^ k
    ⟨m / 2 ^ k, r * 2 ^ 32 / 2 ^ k, st || decide (r * 2 ^ 32 % 2 ^ k ≠ 0)⟩

/-- Anything lies beyond the whole part. -/
def Scaled.inexact (x : Scaled) : Bool := decide (x.frac ≠ 0) || x.rest

/-- The rounding decision of R91 and R93: take the neighbour away from zero. odd is the lowest significand bit of the
neighbour toward zero. -/
def roundsUp (rnd : Nat) (neg odd : Bool) (draw : Nat) (x : Scaled) : Bool :=
  x.inexact && (match rnd with
    | 0 => decide (2 ^ 31 < x.frac) || (x.frac == 2 ^ 31 && (x.rest || odd))
    | 1 => false
    | 2 => !neg
    | 3 => neg
    | _ => decide (draw < x.frac))

/-- Round a non-zero exact value: the magnitude code with the format's exponent range and subnormals (not yet cut at
the largest finite one), whether it is inexact, and whether it is tiny (R91, R93, R95). -/
def roundMag (f : FFmt) (rnd draw : Nat) (neg : Bool) (m : Nat) (e : Int) (st : Bool) : Nat × Bool × Bool :=
  let top : Int := e + blen m - 1
  let emin : Int := 1 - (f.bias : Int)
  let sub := decide (top < emin)
  let x := scaleTo m e ((if sub then emin else top) - f.fb) st
  let lo : Nat := if sub then x.whole else (top + f.bias).toNat * 2 ^ f.fb + (x.whole - 2 ^ f.fb)
  let code := lo + b2n (roundsUp rnd neg (lo % 2 == 1) draw x)
  let y := scaleTo m e (top - f.fb) st
  let oddU : Bool := if f.fb = 0 then decide ((top + f.bias) % 2 ≠ 0) else y.whole % 2 == 1
  let carried := b2n (roundsUp rnd neg oddU draw y) + y.whole
  let tiny := decide (top < emin - 1) || (top == emin - 1 && decide (carried < 2 ^ (f.fb + 1)))
  (code, x.inexact, sub && tiny && x.inexact)

/-- The sign bit of a format. -/
def signBit (f : FFmt) (neg : Bool) : Nat := if neg && f.signed then 2 ^ (f.w - 1) else 0

/-- Deliver an exact value in a floating-point format (R91, R92, R95, R97, R98): the code and the flags. An infinity that is
exact (of infinite operands, or of a division by 0) and that SAT turns into the largest finite value sets no NX (DESIGN
CHOICE, log 12: R95 could be read to set it, and R98 gives no flag for conversions). -/
def deliver (f : FFmt) (rnd : Nat) (sat : Bool) (draw : Nat) (x : XVal) : Nat × Nat :=
  match x with
  | .nan => (nanCode f, 0)
  | .inf neg =>
    if neg && !f.signed then (if sat then 0 else nanCode f, flagNV)
    else if !f.hasInf then (maxCode f + signBit f neg, flagNV)
    else if sat then (maxCode f + signBit f neg, 0)
    else (infCode f neg, 0)
  | .fin neg m e st =>
    if m = 0 ∧ !st then (if neg && f.ieee then 2 ^ (f.w - 1) else 0, 0)
    else
      let (code, inexact, tiny) := roundMag f rnd draw neg m e st
      if neg && !f.signed then
        (if code = 0 then (0, flagUF + flagNX) else (if sat then 0 else nanCode f, flagNV))
      else if maxCode f < code then
        let toInf := (rnd == 0) || (rnd == 2 && !neg) || (rnd == 3 && neg)
        (if f.hasInf && toInf && !sat then infCode f neg else maxCode f + signBit f neg, flagOF + flagNX)
      else
        let s := if code = 0 && !f.ieee then 0 else signBit f neg
        (code + s, (if inexact then flagNX else 0) + (if tiny then flagUF else 0))

/-- Round an exact value to an integer under a mode: the integer and whether it is inexact (R99, R309). -/
def roundInt (rnd draw : Nat) (neg : Bool) (m : Nat) (e : Int) : Int × Bool :=
  let x := scaleTo m e 0 false
  let n := x.whole + b2n (roundsUp rnd neg (x.whole % 2 == 1) draw x)
  (if neg then -(n : Int) else n, x.inexact)

/-- The flags of a float clamped to an integer format: NV and NX (R99), and ISAT where that is INT4 (R95). -/
def clampFlags (tag : Nat) : Nat := flagNV + flagNX + (if tag / 16 = 12 then flagISAT else 0)

/-- A float converted to an integer format: it always clamps (R99). -/
def floatToInt (tag rnd draw : Nat) (v : FVal) : Nat × Nat :=
  let w := tagWidth tag
  match v with
  | .nan _ => (0, flagNV)
  | .inf neg => (wrapI w (if neg then intMin tag else intMax tag), clampFlags tag)
  | .num neg m e =>
    let (n, inexact) := roundInt rnd draw neg m e
    if n < intMin tag then (wrapI w (intMin tag), clampFlags tag)
    else if intMax tag < n then (wrapI w (intMax tag), clampFlags tag)
    else (wrapI w n, if inexact then flagNX else 0)

/-- The exact value of a decoded float; a signalling NaN sets NV (R85). -/
def FVal.toX : FVal → XVal × Nat
  | .nan sig => (.nan, if sig then flagNV else 0)
  | .inf neg => (.inf neg, 0)
  | .num neg m e => (.fin neg m e false, 0)

/-- The value of a float or e8s element. -/
def floatOf (tag code : Nat) : FVal := if tag = 0x71 then e8sDecode code else fdecode (fmtOf tag) code

/-- The conversion of one element (R97-R100, 14 R316): code and flags. -/
def convert (src dst rnd : Nat) (sat : Bool) (draw code : Nat) : Nat × Nat :=
  if tagInt src then
    let (x, fl) := intOf src code
    if tagInt dst then
      let (c, f2) := fitInt dst sat x
      (c, flagsOr fl f2)
    else
      let (c, f2) := deliver (fmtOf dst) rnd sat draw (.fin (decide (x < 0)) x.natAbs 0 false)
      (c, flagsOr fl f2)
  else if tagInt dst then
    let v := floatOf src code
    floatToInt dst rnd draw v
  else
    let (x, fl) := (floatOf src code).toX
    let (c, f2) := deliver (fmtOf dst) rnd sat draw x
    (c, flagsOr fl f2)

/-! ## Stochastic draws (R93) -/

/-- The next value of sr.seed, which is also the draw. -/
def nextSeed (s : W32) : W32 :=
  let a := if s = 0 then 1#32 else s
  let b := a ^^^ (a <<< 13)
  let c := b ^^^ (b >>> 17)
  c ^^^ (c <<< 5)

/-! ## Exact sums and products (R101, R103-R105, R108) -/

/-- Align a finite value to an exponent at most its own. -/
def alignTo (u : Int) (neg : Bool) (m : Nat) (e : Int) : Int :=
  let n : Int := (m * 2 ^ (e - u).toNat : Nat)
  if neg then -n else n

/-- The product of two values; 0 x infinity is NaN with NV. -/
def mulX (a b : FVal) : XVal × Nat :=
  match a, b with
  | .nan s, .nan t => (.nan, if s || t then flagNV else 0)
  | .nan s, _ => (.nan, if s then flagNV else 0)
  | _, .nan t => (.nan, if t then flagNV else 0)
  | .inf s, .inf t => (.inf (s != t), 0)
  | .inf s, .num t m _ => if m = 0 then (.nan, flagNV) else (.inf (s != t), 0)
  | .num s m _, .inf t => if m = 0 then (.nan, flagNV) else (.inf (s != t), 0)
  | .num s m e, .num t n g => (.fin (s != t) (m * n) (e + g) false, 0)

/-- The product of two elements of one kind: an integer zero has no sign (R103, R105). -/
def mulE (int : Bool) (a b : FVal) : XVal × Nat :=
  match mulX a b with
  | (.fin s m e st, fl) => (.fin (s && !(int && m == 0)) m e st, fl)
  | r => r

/-- The sum of two exact values: infinities of both signs are NaN with NV; an exact zero sum of opposite signs is +0,
and -0 under .rm (R101). -/
def addX (rnd : Nat) (a b : XVal) : XVal × Nat :=
  match a, b with
  | .nan, _ => (.nan, 0)
  | _, .nan => (.nan, 0)
  | .inf s, .inf t => if s = t then (.inf s, 0) else (.nan, flagNV)
  | .inf s, _ => (.inf s, 0)
  | _, .inf t => (.inf t, 0)
  | .fin s m e _, .fin t n g _ =>
    let u := if e ≤ g then e else g
    let x := alignTo u s m e + alignTo u t n g
    if x = 0 then
      (.fin (if m = 0 ∧ n = 0 ∧ s = t then s else rnd == 3) 0 0 false, 0)
    else (.fin (decide (x < 0)) x.natAbs u false, 0)

/-- The negation of an exact value. -/
def XVal.neg : XVal → XVal
  | .nan => .nan
  | .inf s => .inf (!s)
  | .fin s m e st => .fin (!s) m e st

/-- The step sum of products (R105): NaN, infinities, zero (+0 unless every product is -0), else the exact sum. -/
def sumProducts (ps : List (XVal × Nat)) : XVal × Nat :=
  let fl := ps.foldl (fun a p => flagsOr a p.2) 0
  let vs := ps.map Prod.fst
  let posInf := vs.contains (.inf false)
  let negInf := vs.contains (.inf true)
  if vs.contains .nan then (.nan, if posInf && negInf then flagsOr fl flagNV else fl)
  else if posInf && negInf then (.nan, flagsOr fl flagNV)
  else if posInf then (.inf false, fl)
  else if negInf then (.inf true, fl)
  else
    let fins := vs.filterMap fun v => match v with | .fin s m e _ => some (s, m, e) | _ => none
    let u := fins.foldl (fun (u : Int) x => if x.2.1 = 0 then u else if x.2.2 < u then x.2.2 else u) 0
    let x := fins.foldl (fun (t : Int) x => if x.2.1 = 0 then t else t + alignTo u x.1 x.2.1 x.2.2) 0
    let allNeg := !fins.isEmpty && fins.all (fun x => x.2.1 == 0 && x.1)
    (.fin (if x = 0 then allNeg else decide (x < 0)) x.natAbs u false, fl)

/-- The accumulator's update a + S (R105): an exact zero is +0, and -0 under .rm or when a and S are both -0. -/
def accX (rnd : Nat) (a b : XVal) : XVal × Nat :=
  match addX rnd a b with
  | (.fin neg m e st, fl) => (if m = 0 ∧ !st then .fin (neg || rnd == 3) 0 0 false else .fin neg m e st, fl)
  | r => r

/-! ## Division and elementary functions (R102, 14 R307, R308) -/

/-- The integer square root of a number below 2^(2k). -/
def isqrt : Nat → Nat → Nat
  | 0, _ => 0
  | k + 1, n =>
    let r := 2 * isqrt k (n / 4)
    if (r + 1) * (r + 1) ≤ n then r + 1 else r

/-- a / b. -/
def divX (a b : FVal) : XVal × Nat :=
  match a, b with
  | .nan s, .nan t => (.nan, if s || t then flagNV else 0)
  | .nan s, _ => (.nan, if s then flagNV else 0)
  | _, .nan t => (.nan, if t then flagNV else 0)
  | .inf _, .inf _ => (.nan, flagNV)
  | .inf s, .num t _ _ => (.inf (s != t), 0)
  | .num s _ _, .inf t => (.fin (s != t) 0 0 false, 0)
  | .num s m e, .num t n g =>
    if n = 0 then (if m = 0 then (.nan, flagNV) else (.inf (s != t), flagDZ))
    else (.fin (s != t) (m * 2 ^ 128 / n) (e - g - 128) (decide (m * 2 ^ 128 % n ≠ 0)), 0)

/-- The square root of a positive m x 2^e. -/
def sqrtX (m : Nat) (e : Int) : XVal :=
  let odd := e % 2 ≠ 0
  let m2 := (if odd then 2 * m else m) * 2 ^ 160
  let e2 := (if odd then e - 1 else e) - 160
  let r := isqrt 200 m2
  .fin false r (e2 / 2) (decide (r * r ≠ m2))

/-- 1 / sqrt(m x 2^e) of a positive value. -/
def rsqrtX (m : Nat) (e : Int) : XVal :=
  let odd := e % 2 ≠ 0
  let m2 := if odd then 2 * m else m
  let e2 := if odd then e - 1 else e
  let r := isqrt 200 (2 ^ 300 / m2)
  .fin false r (-150 - e2 / 2) (decide (r * r * m2 ≠ 2 ^ 300))

/-- A real number known from below: its magnitude exceeds lo by less than 2^-375, in units of 2^-400 (log 11). -/
structure Bound where
  neg : Bool
  lo : Nat
  deriving DecidableEq, Repr

/-- The floor of pi x 2^640. -/
def piBits : Nat := 0x3243f6a8885a308d313198a2e03707344a4093822299f31d0082efa98ec4e6c89452821e638d01377be5466cf34e90c6cc0ac29b7c97c50dd3f84d5b5b54709179216d5d98979fb1bd1310ba698dfb5ac

/-- The floor of ln 2 x 2^480. -/
def ln2Bits : Nat := 0xb17217f7d1cf79abc9e3b39803f2f6af40f343267298b62d8a0d175b8baafa2be7b876206debac98559552fb4afa1b10ed2eae35c138214427573b29

/-- One in units of 2^-400. -/
def oneQ : Nat := 2 ^ 400

/-- The product of two fixed-point numbers. -/
def mulQ (a b : Nat) : Nat := a * b / 2 ^ 400

/-- The sum over n of (-1)^n r^(2n) / ((s+1) ... (s+2n)), n below the fuel: with s = 1 times r the sine, with s = 0
the cosine. Returns positive and negative parts. -/
def altSeries : Nat → Nat → Nat → Nat → Nat × Nat
  | 0, _, _, _ => (0, 0)
  | k + 1, t, r2, s =>
    let t2 := mulQ t r2 / ((s + 1) * (s + 2))
    let (p, q) := altSeries k t2 r2 (s + 2)
    (t + q, p)

/-- exp(y) - 1 by its series, y in [0, 1): the sum of y^n / n!, n from i+1. -/
def expSeries : Nat → Nat → Nat → Nat → Nat
  | 0, _, _, _ => 0
  | k + 1, t, y, i =>
    let t2 := mulQ t y / (i + 1)
    t2 + expSeries k t2 y (i + 1)

/-- The sum of t^(2n+1) / (2n+1): the inverse hyperbolic tangent of t at most 1/3. -/
def atanhSeries : Nat → Nat → Nat → Nat → Nat
  | 0, _, _, _ => 0
  | k + 1, t, t2, i => t / i + atanhSeries k (mulQ t t2) t2 (i + 2)

/-- The bound of a value computed with an error below w. -/
def around (neg : Bool) (c w : Nat) : Bound := ⟨neg, c - w⟩

/-- sin and cos of m x 2^e > 0: the quadrant and the two series. cosine selects cos. -/
def sinCos (cosine : Bool) (m : Nat) (e : Int) : Bound :=
  let x640 := m * 2 ^ (e + 640).toNat
  let q := 2 * x640 / piBits
  let r := (2 * x640 - q * piBits) / 2 ^ 241
  let r2 := mulQ r r
  let k := (if cosine then q + 1 else q) % 4
  let neg := decide (2 ≤ k)
  if k % 2 = 0 then
    let (p, n) := altSeries 60 r r2 1
    around neg (p - n) 4096
  else
    let (p, n) := altSeries 60 oneQ r2 0
    around neg (p - n) 4096

/-- 2^f for 0 < f < 1, f in units of 2^-400. -/
def exp2Frac (f : Nat) : Bound :=
  let y := f * (ln2Bits / 2 ^ 80) / 2 ^ 400
  ⟨false, max oneQ (oneQ + expSeries 120 oneQ y 0 - 4096)⟩

/-- log2 of z in (1, 2), z in units of 2^-400. -/
def log2Frac (z : Nat) : Nat :=
  let t := (z - oneQ) * oneQ / (z + oneQ)
  2 * atanhSeries 150 t (mulQ t t) 1 * 2 ^ 480 / ln2Bits

/-- tanh of m x 2^e > 0. -/
def tanhB (m : Nat) (e : Int) : Bound :=
  let top : Int := e + blen m
  if 9 ≤ top then around false oneQ 8192
  else
    let x2 := m * 2 ^ (e + 401).toNat
    let ln2 := ln2Bits / 2 ^ 80
    let n := x2 / ln2
    let r := x2 - n * ln2
    let em := if n = 0 then expSeries 120 oneQ x2 0 else (oneQ + expSeries 120 oneQ r 0) * 2 ^ n - oneQ
    let c := em * oneQ / (em + 2 * oneQ)
    around false c (2 ^ 24)

/-- Deliver an irrational value known by a bound, rounded once (R102, R308): every value of a format and every draw
leaves the value and its bound on one side (log 11). -/
def deliverB (f : FFmt) (rnd : Nat) (sat : Bool) (draw : Nat) (b : Bound) (shift : Int) : Nat × Nat :=
  deliver f rnd sat draw (.fin b.neg b.lo (shift - 400) true)

/-- An elementary function of one element (R102, 14 R308): fn is 0 frcp, 1 frsq, 2 fsqrt, 3 fexp2, 4 flog2, 5 fsin,
6 fcos, 7 ftanh. -/
def elementary (fn tag rnd : Nat) (sat : Bool) (draw code : Nat) : Nat × Nat :=
  let f := fmtOf tag
  let out (x : XVal) (fl : Nat) : Nat × Nat :=
    let (c, f2) := deliver f rnd sat draw x
    (c, flagsOr fl f2)
  let one : XVal := .fin false 1 0 false
  let zero (s : Bool) : XVal := .fin s 0 0 false
  match fdecode f code with
  | .nan sig => out .nan (if sig then flagNV else 0)
  | .inf s =>
    match fn with
    | 0 => out (zero s) 0
    | 1 => if s then out .nan flagNV else out (zero false) 0
    | 2 => if s then out .nan flagNV else out (.inf false) 0
    | 3 => if s then out (zero false) 0 else out (.inf false) 0
    | 4 => if s then out .nan flagNV else out (.inf false) 0
    | 7 => out (.fin s 1 0 false) 0
    | _ => out .nan flagNV
  | .num s m e =>
    if m = 0 then
      match fn with
      | 0 => out (.inf s) flagDZ
      | 1 => out (.inf s) flagDZ
      | 3 => out one 0
      | 4 => out (.inf true) flagDZ
      | 6 => out one 0
      | _ => out (zero s) 0
    else
      match fn with
      | 0 =>
        let (x, _) := divX (.num false 1 0) (.num s m e)
        out x 0
      | 1 => if s then out .nan flagNV else out (rsqrtX m e) 0
      | 2 => if s then out .nan flagNV else out (sqrtX m e) 0
      | 3 =>
        let x := scaleTo m e 0 false
        if 14 ≤ e + blen m then out (.fin false 1 (if s then -100000 else 100000) true) 0
        else if !x.inexact then out (.fin false 1 (if s then -(x.whole : Int) else x.whole) false) 0
        else
          let q := m * 2 ^ (e + 400).toNat
          let fr := q % oneQ
          if s then deliverB f rnd sat draw (exp2Frac (oneQ - fr)) (-(x.whole : Int) - 1)
          else deliverB f rnd sat draw (exp2Frac fr) x.whole
      | 4 =>
        if s then out .nan flagNV
        else
          let n : Int := e + blen m - 1
          let z := m * 2 ^ (400 + 1 - blen m)
          if z = oneQ then
            out (if n = 0 then zero false else .fin (decide (n < 0)) n.natAbs 0 false) 0
          else
            let l := log2Frac z
            if 0 ≤ n then deliverB f rnd sat draw (around false (n.toNat * oneQ + l) 4096) 0
            else deliverB f rnd sat draw (around true (n.natAbs * oneQ - l) 4096) 0
      | 5 =>
        let b := sinCos false m e
        deliverB f rnd sat draw { b with neg := b.neg != s } 0
      | 6 => deliverB f rnd sat draw (sinCos true m e) 0
      | _ => deliverB f rnd sat draw { tanhB m e with neg := s } 0

/-! ## Comparison and selection of floats (14 R309-R312) -/

/-- The order of two values that are not NaN, -0 equal to +0: less, equal, greater as -1, 0, 1. -/
def cmpF (a b : FVal) : Int :=
  let key (v : FVal) : Int × Bool := match v with
    | .inf true => (-1, true) | .inf false => (1, true) | _ => (0, false)
  match a, b with
  | .num s m e, .num t n g =>
    let u := if e ≤ g then e else g
    let x := alignTo u s m e - alignTo u t n g
    if x < 0 then -1 else if x = 0 then 0 else 1
  | _, _ =>
    let x := (key a).1 - (key b).1
    if x < 0 then -1 else if x = 0 then 0 else 1

/-- A NaN, a signalling NaN. -/
def FVal.isNan : FVal → Bool | .nan _ => true | _ => false
def FVal.isSig : FVal → Bool | .nan s => s | _ => false
/-- The sign of a value. -/
def FVal.sign : FVal → Bool | .nan _ => false | .inf s => s | .num s _ _ => s

end Sys2Proof.Machine
end

