-- ==== Sys2Proof/Machine/Legality.lean ====
section
/-!
DEFINITION. Machine/Legality.lean: what the word itself decides (12 R261 steps 2 to 5): which agent executes an
opcode, which bits are reserved, which opcode honours a guard, and which operands, formats, modifiers and immediates
each entry accepts (13 to 18, 12 R262-R276, R455).
-/
namespace Sys2Proof.Machine

/-- The fields of a word as numbers (12 R260). -/
structure Raw where
  op : Nat
  mode : Nat
  pred : Nat
  d : Nat
  a : Nat
  b : Nat
  hint : Nat
  md : Nat
  imm : Nat
  deriving DecidableEq, Repr

/-- The fields of a word. -/
def rawOf (w : Nat) : Raw :=
  { op := bits w 95 86, mode := bits w 85 84, pred := bits w 83 81, d := bits w 80 71, a := bits w 70 61
    b := bits w 60 51, hint := bits w 50 44, md := bits w 43 32, imm := bits w 31 0 }

/-- Who decodes a word: a group or a mast core, in a handler or not, or a DXP (12 R264, R276, 18 R402). -/
inductive Agent where
  | group (inHandler : Bool)
  | mast (inHandler : Bool)
  | dxp
  deriving DecidableEq, Repr

/-- An encoding trap: cause, DETAIL, ADDR (07 R161). -/
structure Trap where
  cause : Nat
  detail : Nat
  addr : Nat
  deriving DecidableEq, Repr

/-- The five MOD layouts (12 R270). -/
inductive Layout where
  | pl | fn | rd | mem | mtx
  deriving DecidableEq, Repr

/-- The last assigned column of a row (12 R274). -/
def lastColumn (row : Nat) : Nat := [16, 11, 30, 5, 23, 8, 6, 4, 4, 15, 8, 6, 5, 10, 8, 0].getD row 0

/-- R274, R275: OP is assigned. -/
def assigned (op : Nat) : Bool := decide (1 ≤ op % 64) && decide (op % 64 ≤ lastColumn (op / 64))

/-- The layout of an assigned opcode (12 R274). -/
def layoutOf (op : Nat) : Layout :=
  match op / 64 with
  | 0 => .pl
  | 1 => if op == 0x046 || op == 0x047 then .fn else .pl
  | 2 => .fn
  | 3 => .fn
  | 4 => if [0x105, 0x106, 0x107, 0x108, 0x109, 0x113, 0x115].contains op then .fn else .rd
  | 5 => if op == 0x146 || op == 0x147 then .fn else .rd
  | 10 => if op == 0x281 || op == 0x282 then .mtx else if op == 0x287 then .fn else .rd
  | 11 => .pl
  | 12 => .pl
  | 13 => if op == 0x34A then .rd else .pl
  | 14 => .pl
  | _ => .mem

/-- R276, R402: the agent executes the assigned opcode. -/
def executes (ag : Agent) (op : Nat) : Bool :=
  let handlerOk (h : Bool) := if op == 0x004 then h else if op == 0x002 || op == 0x003 then !h else true
  match ag with
  | .group h => op / 64 != 14 && handlerOk h
  | .mast h => (decide (op / 64 ≤ 9) || op / 64 == 13)
      && !([0x049, 0x04A, 0x04B, 0x243, 0x249, 0x24A, 0x24B].contains op) && handlerOk h
  | .dxp => op == 0x001 || op == 0x041 || op == 0x043 || op == 0x045 || op / 64 == 14
      || (op / 64 == 2 && op != 0x099 && op != 0x09A)

/-- R268: the opcode honours guards (a DXP honours none). -/
def honoursGuard (ag : Agent) (op : Nat) : Bool :=
  ag != .dxp && [0x09A, 0x1C1, 0x1C2, 0x1C3, 0x1C4, 0x201, 0x202, 0x203, 0x204, 0x041, 0x042, 0x043, 0x044, 0x045].contains op

/-- The operand that a field names for an agent, none where the index does not exist there (12 R263, R264). -/
def opd (ag : Agent) (x : Nat) : Option Operand :=
  let i := x % 256
  let dxp := ag == .dxp
  let grp := match ag with | .group _ => true | _ => false
  match x / 256 with
  | 0 => if dxp then none else some (.v (BitVec.ofNat 8 i))
  | 1 => if i < (if dxp then 32 else 64) then some (.s (BitVec.ofNat 6 i)) else none
  | 2 =>
    if i < 8 then (if dxp then none else some (.p (BitVec.ofNat 3 i)))
    else if 16 ≤ i && decide (i < 24) then (if grp then some (.cv (BitVec.ofNat 3 (i - 16))) else none)
    else if 32 ≤ i && decide (i < 48) then (if grp then some (.m (BitVec.ofNat 4 (i - 32))) else none)
    else none
  | _ =>
    if i = 0 then some .imm else if i = 1 then some .nil
    else if 16 ≤ i && decide (i < 20) then (if grp then some (.vat (BitVec.ofNat 2 (i - 16))) else none)
    else none

/-! ## Classes a slot accepts -/

def isNil : Option Operand → Bool | some .nil => true | _ => false
def isImm : Option Operand → Bool | some .imm => true | _ => false
def isS : Option Operand → Bool | some (.s _) => true | _ => false
/-- An s register whose index is a multiple of k. -/
def isSk (k : Nat) : Option Operand → Bool | some (.s n) => n.toNat % k == 0 | _ => false
/-- An s register of even index at most k. -/
def isSle (k : Nat) : Option Operand → Bool | some (.s n) => n.toNat % 2 == 0 && decide (n.toNat ≤ k) | _ => false
def isV : Option Operand → Bool | some (.v _) => true | _ => false
/-- A v register, even where the instruction reads or writes a pair (12 R265). -/
def isVw (wide : Bool) : Option Operand → Bool | some (.v n) => !wide || n.toNat % 2 == 0 | _ => false
def isP : Option Operand → Bool | some (.p _) => true | _ => false
/-- A residency predicate p0-p6 (06 R139). -/
def isP6 : Option Operand → Bool | some (.p n) => n.toNat != 7 | _ => false
def isCv : Option Operand → Bool | some (.cv _) => true | _ => false
def isM : Option Operand → Bool | some (.m _) => true | _ => false
/-- A tile register below m15. -/
def isM14 : Option Operand → Bool | some (.m n) => n.toNat != 15 | _ => false
def isVat : Option Operand → Bool | some (.vat _) => true | _ => false
/-- v, s, IMM or zero as a source. -/
def isSrc (wide : Bool) (o : Option Operand) : Bool := isVw wide o || isS o || isImm o || isNil o
/-- s, IMM or zero: a uniform source. -/
def isUni (o : Option Operand) : Bool := isS o || isImm o || isNil o
/-- B of the three-source form is a second source or IMM: R267 gives it no zero (log 5). -/
def isThird (ok : Bool) (o : Option Operand) : Bool := ok && !(isNil o)

/-- What step 5 finds for an entry: slots, the offending TYPE or variant, MOD, and the offending immediate with its
DETAIL. -/
structure Chk where
  dOk : Bool
  aOk : Bool
  bOk : Bool
  tyBad : Option Nat
  modOk : Bool
  immBad : Option Nat

/-- An entry without TYPE, MOD and IMM rules of its own. -/
def Chk.slots (d a b : Bool) : Chk := ⟨d, a, b, none, true, none⟩

/-- The IMM bits that have a use in the word's opcode, others being reserved (12 R262, R273): a mask of used bits. An opcode
whose A or B may name IMM has no reserved IMM bit in any word (12, the nt_hint word with B = 0x302). -/
def immUsed (r : Raw) : Nat :=
  let all := 2 ^ 32 - 1
  let low (n : Nat) := 2 ^ n - 1
  match r.op with
  | 0x003 => all | 0x004 => low 3 | 0x005 => 1 | 0x006 => low 12 | 0x007 => low 12 | 0x008 => 1 | 0x009 => low 3
  | 0x00A => low 4 | 0x00B => low 4 | 0x00C => low 16 | 0x00E => low 8 | 0x00F => 1 | 0x010 => low 4
  | 0x041 => all | 0x043 => all | 0x04B => low 32
  | 0x047 => all
  | 0x0C1 => all
  | 0x0C2 => all
  | 0x0C3 => 0
  | 0x0C4 => all
  | 0x0C5 => all
  | 0x141 => low 8 | 0x142 => low 12 | 0x143 => low 12 | 0x144 => low 8 | 0x145 => 0 | 0x146 => 0 | 0x147 => low 8
  | 0x241 => low 8 | 0x242 => low 24 | 0x244 => low 16 | 0x245 => low 16 | 0x246 => low 31 | 0x247 => low 4
  | 0x248 => low 4 | 0x249 => low 3 | 0x24A => low 3 | 0x24B => low 3 + 256 | 0x24D => 1 | 0x24E => low 8
  | 0x281 => low 4 + 0xFF00 | 0x282 => low 4 + 0xFF00 | 0x283 => low 4 | 0x284 => low 4 | 0x288 => low 10
  | 0x2C4 => low 2 | 0x2C6 => low 2
  | 0x301 => 1 | 0x302 => low 13 | 0x303 => low 13 | 0x305 => low 8
  | 0x343 => 1 | 0x346 => low 2 | 0x347 => low 8 | 0x348 => low 6 | 0x349 => low 6 | 0x34A => low 3
  | 0x381 => all | 0x382 => all | 0x383 => all - 0x30000000 | 0x384 => 0xF0000007 | 0x385 => low 16
  | 0x386 => low 16 | 0x387 => low 4
  | _ =>
    match r.op / 64 with
    | 2 => all | 4 => all | 5 => all
    | 6 => all | 7 => all | 8 => all
    | _ => 0

/-- The word's reserved bits that are set and the lowest bits of fields that hold reserved codes (12 R262). -/
def reservedBits (_ag : Agent) (r : Raw) : List Nat :=
  let ty := r.md / 256 % 16
  let var := r.md % 16
  let varFree := ty == 0xB || ty == 0xF || ty == 0xE || ty == 0x7
  let setBits (base n x : Nat) := ((List.range n).filter (fun i => bit x i)).map (base + ·)
  let modBad : List Nat :=
    match layoutOf r.op with
    | .pl => setBits 32 12 r.md
    | .fn => setBits 37 3 (r.md / 32 % 8)
    | .mem => if 6 ≤ r.md % 8 then [32] else []
    | _ => (if 5 ≤ r.md / 32 % 8 then [37] else []) ++ (if varFree then [] else setBits 32 4 var)
  let immBad := (List.range 32).filter fun i => bit r.imm i && !(bit (immUsed r) i)
  immBad ++ modBad ++ (if r.mode = 0 then setBits 81 3 r.pred else []) ++ (if r.mode = 3 then [84] else [])

/-- The least of a list of numbers. -/
def listMin : List Nat → Option Nat
  | [] => none
  | x :: xs => some (xs.foldl min x)

/-- A (TYPE, VAR) that R271 decodes to a format at all; the offending value otherwise. -/
def varBad (ty var : Nat) : Option Nat :=
  if (ty == 0xB || ty == 0xF) && var / 2 == 0 then some var
  else if (ty == 0xE || ty == 0x7) && decide (2 ≤ var) then some var
  else none

/-- TYPE is in a list. -/
def tyIn (ty : Nat) (l : List Nat) : Option Nat := if l.contains ty then none else some ty

/-- TYPE and VAR of a layout that has both: a VAR that R271 decodes to no format is the offending value whatever TYPEs the
entry lists; then TYPE is in the list. -/
def tyVarIn (ty var : Nat) (l : List Nat) : Option Nat :=
  match varBad ty var with
  | some x => some x
  | none => tyIn ty l

/-- The special registers of R116, and EVQSTAT on a mast core (18 R405). -/
def srKnown (ag : Agent) (x : Nat) : Bool :=
  (x == 0 || (decide (2 ≤ x) && decide (x ≤ 0x11)) || (decide (0x20 ≤ x) && decide (x < 0x30))
    || (decide (0x100 ≤ x) && decide (x < 0x140)))
  || (x == 0x12 && (match ag with | .mast _ => true | _ => false))

/-- A lane-scopeOk special register: sr.seed and sr.fflags (05 R116). -/
def srLane (x : Nat) : Bool := x == 3 || x == 4

/-- MOD's RND field. -/
def rndF (r : Raw) : Nat := r.md / 32 % 8
/-- MOD's SAT, SC, AND or ORDER[1] bit. -/
def satF (r : Raw) : Nat := r.md / 16 % 2
/-- MOD's SUB or VAR field. -/
def subF (r : Raw) : Nat := r.md % 16
/-- MOD's TYPE field. -/
def tyF (r : Raw) : Nat := r.md / 256 % 16

/-- Source formats of cvt, pack and unpk (14 R315). -/
def srcTagOk (t : Nat) : Bool := tagDefined t && t != 0xD0 && t != 0xE0 && t != 0xE1

/-- Rows 0x0 and 0xD (18 R398-R425). -/
def chkSystem (ag : Agent) (r : Raw) (d a b : Option Operand) : Chk :=
  let res := r.imm % 4
  let idx := r.imm % 4096
  match r.op with
  | 0x004 => .slots (isNil d) (if res = 2 then isS a else isNil a) (isNil b)
  | 0x005 => .slots (isSk 8 d) (isNil a) (isNil b)
  | 0x006 =>
    { dOk := if srKnown ag idx then (if srLane idx then isV d else isS d) else (isV d || isS d)
      aOk := isNil a, bOk := isNil b, tyBad := none, modOk := true
      immBad := if srKnown ag idx then none else some 7 }
  | 0x007 =>
    { dOk := isNil d, bOk := isNil b, tyBad := none, modOk := true
      aOk := if srKnown ag idx then (isNil a || (if srLane idx then isV a else isS a)) else (isV a || isS a || isNil a)
      immBad := if srKnown ag idx then none else some 7 }
  | 0x008 => .slots (isS d) (isNil a) (isNil b)
  | 0x009 => .slots (isNil d) (isS a) (isNil b)
  | 0x00A => { Chk.slots (isS d) (isNil a) (isS b || isNil b) with immBad := if r.imm % 16 = 0 then some 5 else none }
  | 0x00F => .slots (if r.imm % 2 = 1 then isNil d else isS d) (isNil a) (isNil b)
  | 0x010 => { Chk.slots (isS d) (isNil a) (isNil b) with immBad := if 6 ≤ r.imm % 16 then some 5 else none }
  | 0x341 => .slots (isS d) (isS a) (isNil b)
  | 0x342 => .slots (isS d) (isS a) (isS b)
  | 0x343 => .slots (isS d || (isNil d && r.imm % 2 == 0)) (isS a) (isS b || isNil b)
  | 0x344 => .slots (isS d) (isS a) (isNil b)
  | 0x345 => .slots (isNil d) (isS a) (isNil b)
  | 0x346 => .slots (isS d) (isS a) (isNil b)
  | 0x347 => { Chk.slots (isS d) (isS a) (isS b) with immBad := if bit r.imm 6 && bit r.imm 7 then some 5 else none }
  | 0x348 => .slots (isSk 2 d) (isS a) (isS b || isNil b)
  | 0x349 => .slots (isNil d) (isS a) (isS b)
  | 0x34A =>
    let o := r.imm % 8
    let ty := tyF r
    let flt := decide (8 ≤ ty)
    { dOk := isS d, aOk := isS a, bOk := isNil b
      tyBad := tyVarIn ty (subF r) (if o = 3 ∨ o = 4 then [0] else [0, 1, 2, 3, 8, 9, 10])
      modOk := (if flt then decide (rndF r ≤ 3) else rndF r == 0) && (satF r == 0 || (o == 0 && !flt))
      immBad := if 5 ≤ o then some 5 else none }
  | _ => .slots (isNil d) (isNil a) (isNil b)

/-- Row 0x1 (13 R281-R288), and a DXP's bra, call and ret (17 R386). -/
def chkControl (ag : Agent) (r : Raw) (d a b : Option Operand) : Chk :=
  let sub := subF r
  match r.op with
  | 0x041 => .slots (isNil d) (isNil a || (ag == .dxp && isS a)) (isNil b)
  | 0x042 => .slots (isNil d) (isS a || isVw true a) (isNil b)
  | 0x044 => .slots (isNil d) (isS a || isVw true a) (isNil b)
  | 0x046 =>
    { dOk := if sub ≤ 2 then isP d else if sub ≤ 6 then isS d else (isP d || isS d)
      aOk := isP a, bOk := isNil b, tyBad := tyIn (tyF r) [0], modOk := decide (sub ≤ 6) && satF r == 0, immBad := none }
  | 0x047 =>
    { dOk := isVw (tyF r == 2) d, aOk := isVw (tyF r == 2) a, bOk := isV b || isS b || isImm b
      tyBad := tyIn (tyF r) [0, 2], modOk := decide (sub ≤ 3) && satF r == 0
      immBad := if isImm b && (decide (4096 ≤ r.imm) || decide (5 ≤ r.imm / 256 % 8)) then some 5 else none }
  | 0x048 => .slots (isS d) (isNil a) (isNil b)
  | 0x049 => .slots (isCv d) (isS a) (isNil b)
  | 0x04A => .slots (isCv d) (isNil a) (isNil b)
  | 0x04B => { Chk.slots (isS d) (isCv a) (isNil b) with immBad := if 17 ≤ r.imm then some 5 else none }
  | _ => .slots (isNil d) (isNil a) (isNil b)

/-- An IMM operand in A or B is in range for TYPE (12 R266). -/
def immOpBad (r : Raw) (tag : Nat) : Option Nat :=
  if (r.a == 0x300 || r.b == 0x300) && (immOperand tag r.imm).isNone then some 5 else none

/-- Row 0x2 (13 R278-R297); a DXP's uniform forms (17 R386). -/
def chkInteger (_ag : Agent) (r : Raw) (d a b : Option Operand) : Chk :=
  let ty := tyF r
  let wide := ty == 2 || ty == 3
  let sub := subF r
  let uni := isS d
  let src (o : Option Operand) := if uni then isUni o else isSrc wide o
  let dRes := isVw wide d || isS d
  let tI := [0, 1, 2, 3, 4, 5, 6, 7]
  let tW := [0, 1, 2, 3]
  let tyc (l : List Nat) := tyIn ty (if uni then l.filter (fun t => decide (t < 4)) else l)
  let mk (dOk aOk bOk : Bool) (l : List Nat) (satOk : Bool) (subMax : Nat) : Chk :=
    { dOk := dOk, aOk := aOk, bOk := bOk, tyBad := tyc l, modOk := (satOk || satF r == 0) && decide (sub ≤ subMax)
      immBad := immOpBad r (16 * ty) }
  let rr (l : List Nat) (satOk : Bool) (subMax : Nat) := mk dRes (src a) (src b) l satOk subMax
  let r1 (l : List Nat) (satOk : Bool) := mk dRes (src a) (isNil b) l satOk 0
  let r3 (l : List Nat) (satOk : Bool) := mk dRes (src a) (isThird (src b) b) l satOk 0
  match r.op with
  | 0x081 => rr tI true 0 | 0x082 => rr tI true 0 | 0x083 => rr tI true 0 | 0x084 => rr tI false 0
  | 0x085 => r3 tI true | 0x086 => rr tI true 0 | 0x087 => rr tI false 0 | 0x088 => rr tI false 0
  | 0x089 => rr tI false 0 | 0x08A => r1 [0, 2, 4, 6] true | 0x08B => r1 [0, 2, 4, 6] true
  | 0x08C => rr (13 :: tI) false 0 | 0x08D => rr (13 :: tI) false 0 | 0x08E => rr (13 :: tI) false 0
  | 0x08F => r1 (13 :: tI) false | 0x090 => rr tI false 0 | 0x091 => rr tI false 0 | 0x092 => rr tI false 0
  | 0x093 => rr tI false 0 | 0x094 => r1 (13 :: tI) false | 0x095 => r1 tI false | 0x096 => r1 (13 :: tI) false
  | 0x097 => rr tW false 1 | 0x098 => r3 tW false
  | 0x099 => mk (isP d) (isSrc wide a) (isSrc wide b) tW false 5
  | 0x09A => mk (isVw wide d) (isSrc wide a) (isSrc wide b) [0, 1, 2, 3, 4, 5, 6, 7, 8, 9, 10, 12, 13] false 0
  | 0x09B => mk dRes (src a) (isNil b) [0, 1, 2, 3, 4, 5, 6, 7, 8, 9, 10, 12, 13] false 0
  | 0x09C =>
    mk (isVw true d || isS d) (isS a || isImm a || (!uni && isVw true a)) (src b) tW false 3
  | 0x09D => rr tI true 15
  | _ => mk (isV d) (isSrc false a) (isThird (isSrc false b) b) [0, 1, 4, 5, 6, 7] true 0

/-- Row 0x3 (13 R298-R301). -/
def chkMove (r : Raw) (d a b : Option Operand) : Chk :=
  let ty := tyF r
  let wide := ty == 2 || ty == 3
  let sub := subF r
  let satOk := satF r == 0
  match r.op with
  | 0x0C1 =>
    { dOk := isVw wide d, aOk := isVw wide a, bOk := isS b || isImm b, tyBad := tyIn ty [0, 2]
      modOk := satOk && sub == 0, immBad := if isImm b && decide (32 ≤ r.imm) then some 5 else none }
  | 0x0C2 =>
    { dOk := isS d, aOk := isVw wide a, bOk := isS b || isImm b, tyBad := tyIn ty [0, 1, 2, 3]
      modOk := satOk && sub == 0, immBad := if isImm b && decide (32 ≤ r.imm) then some 5 else none }
  | 0x0C3 =>
    { dOk := if sub ≤ 1 then isV d else (isV d || isS d), aOk := isNil a, bOk := isNil b
      tyBad := tyIn ty (if isS d then [2, 3] else [0, 1]), modOk := satOk && decide (sub ≤ 8), immBad := none }
  | 0x0C4 =>
    { dOk := isVw true d || isS d, aOk := isImm a, bOk := isNil b, tyBad := tyIn ty [2, 3]
      modOk := satOk && decide (sub ≤ 1), immBad := none }
  | _ =>
    { dOk := if sub = 5 then isS d else if sub ≤ 6 then isP d else (isP d || isS d)
      aOk := if sub = 6 then (isS a || isImm a) else if sub ≤ 5 then isP a else (isP a || isS a || isImm a)
      bOk := if sub = 1 ∨ sub = 2 ∨ sub = 3 then isP b else if sub ≤ 6 then isNil b else (isP b || isNil b)
      tyBad := tyIn ty [0], modOk := satOk && decide (sub ≤ 6), immBad := none }

/-- Row 0x4 (14 R302-R313). -/
def chkFloat (r : Raw) (d a b : Option Operand) : Chk :=
  let ty := tyF r
  let sub := subF r
  let tF := [8, 9, 10]
  let src (o : Option Operand) := isSrc false o
  let fn (dOk bOk : Bool) (subMax : Nat) : Chk :=
    { dOk := dOk, aOk := src a, bOk := bOk, tyBad := tyIn ty tF, modOk := satF r == 0 && decide (sub ≤ subMax)
      immBad := immOpBad r (16 * ty) }
  let rd (bOk satOk : Bool) (l : List Nat) : Chk :=
    { dOk := isV d, aOk := src a, bOk := bOk
      tyBad := tyVarIn ty sub l
      modOk := satOk || satF r == 0
      immBad := immOpBad r (16 * ty + (if ty == 11 || ty == 15 then sub else 0)) }
  match r.op with
  | 0x101 => rd (src b) true tF | 0x102 => rd (src b) true tF | 0x103 => rd (src b) true tF
  | 0x104 => rd (isThird (src b) b) true tF | 0x112 => rd (src b) true tF
  | 0x105 => fn (isV d) (src b) 1 | 0x106 => fn (isV d) (src b) 1
  | 0x107 => fn (isV d) (isNil b) 0 | 0x108 => fn (isV d) (isNil b) 0
  | 0x109 => fn (isP d) (src b) 7
  | 0x113 => fn (isV d) (isNil b) 2 | 0x115 => fn (isV d) (isNil b) 0
  | 0x114 => rd (isNil b) false tF
  | 0x116 => rd (isThird (src b) b) true [9, 10]
  | 0x117 => rd (isThird (src b) b) true [11, 15]
  | _ => rd (isNil b) true tF

/-- A destination format of cvt, pack and unpk (14 R315): the offending value, if any. -/
def dstBad (ty var : Nat) : Option Nat :=
  match tyVarIn ty var [0, 1, 2, 3, 4, 5, 6, 7, 8, 9, 10, 11, 12, 15] with
  | some x => some x
  | none => if ty == 7 && var == 1 then some 1 else none

/-- Row 0x5 (14 R314-R325). -/
def chkConvert (r : Raw) (d a b : Option Operand) : Chk :=
  let ty := tyF r
  let var := subF r
  let dst := 16 * ty + var
  let st := r.imm % 256
  let k := r.imm / 256 % 16
  let wide := tagWide dst
  let src (o : Option Operand) := isVw (tagWide st) o || isS o || isNil o
  let rndOk := !(tagInt dst && srcTagOk st && tagInt st) || rndF r == 0
  match r.op with
  | 0x141 =>
    { dOk := isVw wide d || isM d, aOk := if isM d then isM a else src a, bOk := isNil b, tyBad := dstBad ty var
      modOk := rndOk && (!(isM d) || rndF r != 4), immBad := if srcTagOk st then none else some 5 }
  | 0x142 =>
    { dOk := isVw wide d, aOk := src a, bOk := src b, tyBad := dstBad ty var, modOk := rndOk
      immBad := if srcTagOk st && decide (2 * tagElems st ≤ tagElems dst) && decide (k + 2 * tagElems st ≤ tagElems dst)
        then none else some 5 }
  | 0x143 =>
    { dOk := isVw wide d, aOk := src a, bOk := isNil b, tyBad := dstBad ty var, modOk := rndOk
      immBad := if srcTagOk st && decide (tagElems dst ≤ tagElems st) && decide (k + tagElems dst ≤ tagElems st)
        then none else some 5 }
  | 0x144 =>
    { dOk := isV d, aOk := isV a || isS a || isNil a, bOk := isNil b
      tyBad := tyVarIn ty var [6, 9, 11, 12, 15]
      modOk := rndF r == 0 && satF r == 0, immBad := if [0x80, 0x90, 0xA0].contains st then none else some 5 }
  | 0x145 =>
    { dOk := isV d, aOk := isV a || isS a || isNil a, bOk := isNil b, tyBad := tyVarIn ty var [8, 9, 10]
      modOk := satF r == 0, immBad := none }
  | 0x146 =>
    { dOk := isS d, aOk := isV a || isM a, bOk := isNil b, tyBad := tyIn ty [3], modOk := satF r == 0 && var == 0
      immBad := none }
  | 0x147 =>
    { dOk := isVw (st == 0x20 || st == 0x30) d || isM d, aOk := isNil a, bOk := isNil b, tyBad := tyIn ty [0]
      modOk := satF r == 0 && var == 0
      immBad := if tagDefined st && st != 0xE0 && st != 0xE1 then none else some 5 }
  | _ =>
    { dOk := isVw wide d, aOk := isSrc wide a
      bOk := if ty == 8 || ty == 9 || ty == 10 then isNil b else isSrc false b
      tyBad := match tyVarIn ty var [0, 1, 2, 3, 4, 5, 6, 7, 8, 9, 10, 12] with
        | some x => some x | none => if ty == 7 && var != 0 then some var else none
      modOk := rndF r == 0 && satF r == 0
      immBad := if r.a == 0x300 && (immOperand dst r.imm).isNone then some 5 else none }

/-- ORDER of the MEM layout: MOD[36] is ORDER[1], MOD[35] is ORDER[0] (12 R270). -/
def orderF (r : Raw) : Nat := r.md / 8 % 4
/-- SCOPE. -/
def scopeF (r : Raw) : Nat := r.md % 8
/-- COLOUR. -/
def colourF (r : Raw) : Nat := r.md / 32 % 8

/-- Rows 0x6 to 0x8 (15 R326-R338). -/
def chkMemory (r : Raw) (d a b : Option Operand) : Chk :=
  let ty := tyF r
  let wide := ty == 2 || ty == 3
  let sc := scopeF r
  let ord := orderF r
  let aop := r.imm / 2 ^ 27
  let gBase := isS a || isVw true a
  let sBase := isS a || isV a
  let mVar := if ty == 11 || ty == 15 then r.imm / 2 ^ 28 else 0
  let tyLd := tyVarIn ty mVar [0, 1, 2, 3, 4, 5, 6, 7, 8, 9, 10, 11, 12, 13, 15]
  let scopeOk := decide (1 ≤ sc) && decide (sc ≤ 5)
  let ldMod := colourF r == 0 && ((ord == 0 && sc == 0) || (ord == 1 && scopeOk))
  let stMod := (ord == 0 && sc == 0) || (ord == 2 && scopeOk)
  let dLd := isVw wide d || isS d
  let data := isVw wide b || isS b || isNil b
  let tyS := if isS d then tyVarIn ty mVar [0, 1, 2, 3] else tyLd
  let load (aOk bOk : Bool) : Chk :=
    { dOk := dLd, aOk := if isS d then isS a else aOk, bOk := bOk, tyBad := tyS, modOk := ldMod, immBad := none }
  let store (aOk : Bool) : Chk :=
    { dOk := isNil d, aOk := aOk, bOk := data, tyBad := tyLd, modOk := stMod, immBad := none }
  let atomic (aOk : Bool) : Chk :=
    { dOk := isVw wide d || (isNil d && aop != 7), aOk := aOk, bOk := data, tyBad := tyIn ty [0, 1, 2, 3], modOk := scopeOk
      immBad := if aop ≤ 9 then none else some 5 }
  match r.op with
  | 0x181 => load gBase (isP6 b || isNil b)
  | 0x182 => load sBase (isNil b)
  | 0x183 => load gBase (isP6 b || isNil b)
  | 0x184 => { dOk := isM d, aOk := isS a, bOk := isS b || isNil b, tyBad := tyLd, modOk := ldMod, immBad := none }
  | 0x1C1 => store gBase
  | 0x1C2 => store sBase
  | 0x1C3 => store gBase
  | 0x1C4 => { dOk := isS d || isNil d, aOk := isS a, bOk := isM b, tyBad := tyLd, modOk := stMod, immBad := none }
  | 0x201 => atomic gBase
  | 0x202 => atomic sBase
  | 0x203 =>
    { dOk := isNil d, aOk := gBase, bOk := data, tyBad := tyIn ty [0, 1, 2, 3, 8, 9, 10]
      modOk := scopeOk && (ord == 0 || ord == 2)
      immBad := if [1, 2, 3].contains aop || (decide (ty ≤ 3) && [4, 5, 6, 8, 9].contains aop) then none else some 5 }
  | 0x204 =>
    { dOk := isV d || isNil d, aOk := gBase, bOk := isV b || isS b || isNil b, tyBad := tyIn ty [8, 9, 10], modOk := scopeOk
      immBad := if [1, 2, 3].contains aop then none else some 5 }
  | _ =>
    { dOk := isNil d, aOk := gBase, bOk := isNil b, tyBad := tyVarIn ty mVar [0], modOk := r.md % 256 == 0, immBad := none }

/-- Row 0x9 (15 R329, R340-R353). -/
def chkSync (r : Raw) (d a b : Option Operand) : Chk :=
  let plain := r.md % 256 == 0
  let mk (dOk aOk bOk modOk : Bool) (immBad : Option Nat) : Chk := ⟨dOk, aOk, bOk, tyIn (tyF r) [0], modOk, immBad⟩
  let cnt (n : Nat) : Option Nat := if isS b then (if n = 0 then none else some 5) else if n = 0 then some 5 else none
  match r.op with
  | 0x241 => mk (isNil d) (isNil a) (isNil b) (colourF r == 0) none
  | 0x244 => mk (isNil d) (isS a) (isNil b) plain (cnt r.imm)
  | 0x245 => mk (isNil d) (isS a) (isS b || isNil b) plain (cnt r.imm)
  | 0x246 => mk (isNil d) (isS a) (isS b || isNil b) plain (cnt r.imm)
  | 0x247 => mk (isS d || isNil d) (isS a) (isS b || isNil b) plain none
  | 0x248 => mk (isS d) (isS a) (isNil b) plain none
  | 0x249 => mk (isS d) (isNil a) (isNil b) plain none
  | 0x24A => mk (isS d) (isNil a) (isNil b) plain none
  | 0x24B => mk (isNil d) (isS a) (isNil b) plain none
  | 0x24C => mk (isS d) (isSk 2 a) (isS b) plain none
  | 0x24D => mk (isSk 4 d) (isNil a) (isNil b) plain none
  | 0x24E => mk (isNil d) (isS a || isNil a) (isNil b) (colourF r == 0 && orderF r == 0 && (scopeF r == 4 || scopeF r == 5)) none
  | _ => mk (isNil d) (isNil a) (isNil b) plain none

/-- The B format of mma (12 R273): none where it is accepted, else the offending value. -/
def btypeBad (ty var bty bvar : Nat) : Option Nat :=
  if bty = 0 then none
  else
    let ta := 16 * ty + var
    let tb := 16 * bty + bvar
    let fmtOk := (varBad bty bvar).isNone && (bvar == 0 || bty == 0xB || bty == 0xF) && bty != 0xE
    if fmtOk && tagWidth ta == tagWidth tb && tagInt ta == tagInt tb then none else some bty

/-- Rows 0xA and 0xB (16 R354-R374). -/
def chkMatrix (r : Raw) (d a b : Option Operand) : Chk :=
  let ty := tyF r
  let var := subF r
  let rnd := rndF r
  let sc := satF r
  let blk := r.imm % 16
  let bty := r.imm / 2 ^ 12 % 16
  let bvar := r.imm / 2 ^ 8 % 16
  let mOp (o : Option Operand) := if sc = 1 then (isM14 o || isSk 2 o) else (isM o || isSk 2 o)
  let orTy (l : List Nat) (x : Option Nat) := match tyVarIn ty var l with | some y => some y | none => x
  match r.op with
  | 0x281 =>
    { dOk := isVat d, aOk := mOp a, bOk := mOp b
      tyBad := orTy [4, 5, 6, 7, 9, 10, 11, 12, 15]
        (if ty == 7 && var == 1 then some 1 else btypeBad ty var bty bvar)
      modOk := decide (rnd ≤ 3) && (match ty with
        | 4 => sc == 0 && rnd == 0 | 5 => sc == 0 && rnd == 0 | 9 => sc == 0 | 10 => sc == 0
        | 6 => sc == 1 || rnd == 0 | 7 => sc == 1 || rnd == 0 | 12 => sc == 1 || rnd == 0 | _ => true)
      immBad := if bty == 0 && bvar != 0 then some 5 else none }
  | 0x282 =>
    { dOk := isVat d, aOk := isM a || isSk 2 a, bOk := isM b || isSk 2 b
      tyBad := orTy [13] (if bty = 0 then none else some bty), modOk := rnd == 0
      immBad := if bty == 0 && bvar != 0 then some 5 else none }
  | 0x283 =>
    { dOk := isVat d, aOk := isM a, bOk := isNil b, tyBad := orTy [0, 1, 4, 5, 8, 9, 10] none
      modOk := rnd == 0 && sc == 0
      immBad := if blk < 128 / (512 / tagWidth (16 * ty)) then none else some 5 }
  | 0x284 =>
    { dOk := isM d, aOk := isVat a, bOk := isNil b
      tyBad := orTy [0, 1, 4, 5, 6, 7, 8, 9, 10, 11, 12, 15]
        (if ty == 7 && var == 1 then some 1 else none)
      modOk := decide (rnd ≤ 3)
      immBad := if blk < 128 / (512 / tagWidth (16 * ty + var)) then none else some 5 }
  | 0x285 =>
    { dOk := isVat d, aOk := isNil a, bOk := isNil b, tyBad := orTy [14] none, modOk := rnd == 0 && sc == 0
      immBad := none }
  | 0x286 =>
    { dOk := isVat d, aOk := isVat a, bOk := isNil b, tyBad := orTy [0] none, modOk := rnd == 0 && sc == 0, immBad := none }
  | 0x287 =>
    let q := 128 / (512 / tagWidth (16 * ty))
    { dOk := isM d, aOk := isM a, bOk := isNil b, tyBad := tyIn ty [4, 5, 6, 7, 12]
      modOk := sc == 0 && decide (var % 4 < q) && decide (var / 4 < q), immBad := none }
  | 0x288 =>
    let h := r.imm / 256 % 4
    { dOk := isM14 d, aOk := isM a, bOk := isNil b
      tyBad := orTy [6, 11, 12, 15] none, modOk := decide (rnd ≤ 3)
      immBad := if (r.imm % 256 == 0x90 || r.imm % 256 == 0xA0) && (ty == 12 || decide (h ≤ 1)) then none else some 5 }
  | 0x2C1 => .slots (isNil d) (isS a) (isNil b)
  | 0x2C2 => .slots (isNil d) (isS a) (isNil b)
  | 0x2C3 => .slots (isNil d) (isS a) (isS b)
  | 0x2C4 => .slots (isS d) (if 2 ≤ r.imm % 4 then isS a else isNil a) (isNil b)
  | 0x2C5 => .slots (isS d) (isS a) (isS b)
  | _ => .slots (isSk 2 d) (isNil a) (isNil b)

/-- Rows 0xC and 0xE (17 R376, R387). -/
def chkCopy (r : Raw) (d a b : Option Operand) : Chk :=
  let form := r.imm / 2 ^ 28
  let n := r.imm % 8
  match r.op with
  | 0x301 => .slots (isS d || isM d) (isSk 2 a) (isSle 60 b)
  | 0x302 =>
    { Chk.slots (isS d || isM d) (isV a) (isSle 60 b) with
      immBad := if decide (r.imm / 64 % 128 ≤ 64) && (if isM d then r.imm % 16 == 1 else r.imm / 16 % 4 == 0) then none else some 5 }
  | 0x303 =>
    { Chk.slots (isS d || isM d) (isV a) (isSle 60 b) with
      immBad := if decide (r.imm / 64 % 128 ≤ 64) && (if isM d then r.imm % 16 == 1 else r.imm / 16 % 4 == 0) then none else some 5 }
  | 0x304 => .slots (isNil d) (isS a) (isS b || isNil b)
  | 0x305 => .slots (isS d) (isNil a) (isNil b)
  | 0x381 => { Chk.slots (isNil d) (isS a) (isNil b) with immBad := if r.imm / 2 ^ 29 ≤ 4 then none else some 5 }
  | 0x382 => { Chk.slots (isNil d) (isNil a) (isNil b) with immBad := if r.imm / 2 ^ 29 ≤ 4 then none else some 5 }
  | 0x383 => .slots (isS d) (isS a) (isNil b)
  | 0x384 =>
    { dOk := isS d, tyBad := none, modOk := true
      aOk := if form = 0 then (isSk 2 a && (match a with | some (.s x) => decide (x.toNat + 2 * n ≤ 32) | _ => false))
        else if form = 1 then isNil a else (isS a || isNil a)
      bOk := if form = 1 then isNil b else (isS b || isNil b)
      immBad := if (form == 0 && decide (1 ≤ n) && decide (n ≤ 5)) || (form == 1 && n != 7) then none else some 5 }
  | 0x385 =>
    { Chk.slots (isS d) (if bit r.imm 8 then isNil a else isS a) (isS b || isNil b) with
      immBad := if r.imm / 512 % 128 ≤ 64 then none else some 5 }
  | 0x386 => { Chk.slots (isNil d) (isS a) (isNil b) with immBad := if r.imm = 0 then some 5 else none }
  | 0x387 => .slots (isS d || isNil d) (isS a) (isS b || isNil b)
  | _ => .slots (isNil d) (isNil a) (isNil b)

/-- Step 5 of R261 for an assigned opcode. -/
def chkOf (ag : Agent) (r : Raw) : Chk :=
  let d := opd ag r.d
  let a := opd ag r.a
  let b := opd ag r.b
  match r.op / 64 with
  | 0 => chkSystem ag r d a b
  | 1 => chkControl ag r d a b
  | 2 => chkInteger ag r d a b
  | 3 => chkMove r d a b
  | 4 => chkFloat r d a b
  | 5 => chkConvert r d a b
  | 9 => chkSync r d a b
  | 10 => chkMatrix r d a b
  | 11 => chkMatrix r d a b
  | 12 => chkCopy r d a b
  | 13 => chkSystem ag r d a b
  | 14 => chkCopy r d a b
  | _ => chkMemory r d a b

/-- The ADDR of an immediate trap: the special-register index for DETAIL 7, IMM otherwise (07 R161). -/
def immAddr (r : Raw) (detail : Nat) : Nat := if detail = 7 then r.imm % 4096 else r.imm

/-- The first failing check of steps 2 to 5 of R261, if any fails. -/
def wordTrap (ag : Agent) (r : Raw) : Option Trap :=
  if !(assigned r.op && executes ag r.op) then some ⟨1, 0, r.op⟩
  else match listMin (reservedBits ag r) with
    | some n => some ⟨2, n, 0⟩
    | none =>
      if r.mode != 0 && !honoursGuard ag r.op then some ⟨4, r.mode, 0⟩
      else
        let c := chkOf ag r
        if !((opd ag r.d).isSome && c.dOk) then some ⟨3, 1, r.d⟩
        else if !((opd ag r.a).isSome && c.aOk) then some ⟨3, 2, r.a⟩
        else if !((opd ag r.b).isSome && c.bOk) then some ⟨3, 3, r.b⟩
        else match c.tyBad with
          | some x => some ⟨3, 8, x⟩
          | none =>
            if !c.modOk then some ⟨3, 4, r.md⟩
            else match c.immBad with
              | some dt => some ⟨3, dt, immAddr r dt⟩
              | none => none

end Sys2Proof.Machine
end

