-- ==== Sys2Proof/Machine/Encoding.lean ====
section
/-!
DEFINITION. Machine/Encoding.lean: the fields of an instruction as the spec's word lays them out (12 R260, R270,
R274), and the words of instructions.
-/
namespace Sys2Proof.Machine

/-- The field value of an operand (12 R263). -/
def opCode : Operand → Nat
  | .v n => n.toNat
  | .s n => 0x100 + n.toNat
  | .p n => 0x200 + n.toNat
  | .cv n => 0x210 + n.toNat
  | .m n => 0x220 + n.toNat
  | .imm => 0x300
  | .nil => 0x301
  | .vat n => 0x310 + n.toNat

/-- GUARD.MODE (12 R268). -/
def guardMode : Guard → Nat
  | .none => 0
  | .ifP _ => 1
  | .ifNotP _ => 2

/-- GUARD.PRED (12 R268). -/
def guardPred : Guard → Nat
  | .none => 0
  | .ifP p => p.toNat
  | .ifNotP p => p.toNat

/-- The seven HINT bits (12 R260). -/
def hintCode (h : Hint) : Nat :=
  h.stall.toNat * 16 + b2n h.yield * 8 + b2n h.reuseA * 4 + b2n h.reuseB * 2 + b2n h.zero

/-- RND's code (04 R91). -/
def rndCode : Rnd → Nat
  | .rn => 0 | .rz => 1 | .rp => 2 | .rm => 3 | .rs => 4

/-- ORDER's code (10 R223). -/
def orderCode : Order → Nat
  | .plain => 0 | .acq => 1 | .rel => 2 | .ar => 3

/-- SCOPE's code (10 R223). -/
def scopeCode : Scope → Nat
  | .lane => 0 | .team => 1 | .clus => 2 | .dev => 3 | .ten => 4 | .sys => 5

/-- The fields of the plain layout with a given MOD. -/
def plRaw (op : Nat) (i : Slots) (md : Nat) : Raw :=
  { op := op, mode := guardMode i.guard, pred := guardPred i.guard, d := opCode i.d, a := opCode i.a, b := opCode i.b
    hint := hintCode i.hint, md := md, imm := i.imm.toNat }

def plView (op : Nat) (i : Slots) : Raw := plRaw op i 0
def fnView (op : Nat) (i : FnI) : Raw := plRaw op i.toSlots (tyCode i.ty * 256 + b2n i.sat * 16 + i.sub.toNat)
def rdView (op : Nat) (i : RdI) : Raw :=
  plRaw op i.toSlots (tyCode i.ty * 256 + rndCode i.rnd * 32 + b2n i.sat * 16 + i.var.toNat)
def memView (op : Nat) (i : MemI) : Raw :=
  plRaw op i.toSlots (tyCode i.ty * 256 + i.colour.toNat * 32 + orderCode i.order * 8 + scopeCode i.scope)
def mtxView (op : Nat) (i : MtxI) : Raw :=
  plRaw op i.toSlots (tyCode i.ty * 256 + rndCode i.rnd * 32 + b2n i.sc * 16 + i.var.toNat)

/-- The word of some fields (12 R260). -/
def wordOf (r : Raw) : Nat :=
  r.op * 2 ^ 86 + r.mode * 2 ^ 84 + r.pred * 2 ^ 81 + r.d * 2 ^ 71 + r.a * 2 ^ 61 + r.b * 2 ^ 51 + r.hint * 2 ^ 44
    + r.md * 2 ^ 32 + r.imm

/-- GUARD from its fields. -/
def guardOf (r : Raw) : Guard :=
  match r.mode with
  | 0 => .none
  | 1 => .ifP (BitVec.ofNat 3 r.pred)
  | _ => .ifNotP (BitVec.ofNat 3 r.pred)

/-- HINT from its bits. -/
def hintOf (h : Nat) : Hint :=
  { stall := BitVec.ofNat 3 (h / 16), yield := bit h 3, reuseA := bit h 2, reuseB := bit h 1, zero := bit h 0 }

/-- RND from its code. -/
def rndOf (n : Nat) : Rnd :=
  match n with
  | 0 => .rn | 1 => .rz | 2 => .rp | 3 => .rm | _ => .rs

/-- ORDER from its code. -/
def orderOf (n : Nat) : Order :=
  match n with
  | 0 => .plain | 1 => .acq | 2 => .rel | _ => .ar

/-- SCOPE from its code. -/
def scopeOf (n : Nat) : Scope :=
  match n with
  | 0 => .lane | 1 => .team | 2 => .clus | 3 => .dev | 4 => .ten | _ => .sys

/-- The plain fields of a word that passed step 5. -/
def slotsOf (ag : Agent) (r : Raw) : Slots :=
  { guard := guardOf r, d := (opd ag r.d).getD .nil, a := (opd ag r.a).getD .nil, b := (opd ag r.b).getD .nil
    hint := hintOf r.hint, imm := BitVec.ofNat 32 r.imm }

def fnOf (ag : Agent) (r : Raw) : FnI :=
  { slotsOf ag r with ty := tyOf (tyF r), sat := satF r == 1, sub := BitVec.ofNat 4 (subF r) }
def rdOf (ag : Agent) (r : Raw) : RdI :=
  { slotsOf ag r with ty := tyOf (tyF r), rnd := rndOf (rndF r), sat := satF r == 1, var := BitVec.ofNat 4 (subF r) }
def memOf (ag : Agent) (r : Raw) : MemI :=
  { slotsOf ag r with
    ty := tyOf (tyF r), colour := BitVec.ofNat 3 (colourF r), order := orderOf (orderF r), scope := scopeOf (scopeF r) }
def mtxOf (ag : Agent) (r : Raw) : MtxI :=
  { slotsOf ag r with ty := tyOf (tyF r), rnd := rndOf (rndF r), sc := satF r == 1, var := BitVec.ofNat 4 (subF r) }

/-- The fields of an encodable instruction, by the opcode map of R274; none for an event. -/
def rawOfInstr : Instr → Option Raw
  | .nop i => some (plView 0x001 i)
  | .exit i => some (plView 0x002 i)
  | .trap i => some (plView 0x003 i)
  | .tret i => some (plView 0x004 i)
  | .tqrd i => some (plView 0x005 i)
  | .tqrdDxp i => some (plView 0x005 i)
  | .srd i => some (plView 0x006 i)
  | .swr i => some (plView 0x007 i)
  | .vclk i => some (plView 0x008 i)
  | .alarm i => some (plView 0x009 i)
  | .alwait i => some (plView 0x00a i)
  | .alcan i => some (plView 0x00b i)
  | .phase i => some (plView 0x00c i)
  | .yield i => some (plView 0x00d i)
  | .brkpt i => some (plView 0x00e i)
  | .idem i => some (plView 0x00f i)
  | .idemClr i => some (plView 0x00f i)
  | .rdctx i => some (plView 0x010 i)
  | .bra i => some (plView 0x041 i)
  | .brx i => some (plView 0x042 i)
  | .call i => some (plView 0x043 i)
  | .calli i => some (plView 0x044 i)
  | .ret i => some (plView 0x045 i)
  | .vote i => some (fnView 0x046 i)
  | .shfl i => some (fnView 0x047 i)
  | .actmask i => some (plView 0x048 i)
  | .cvdecl i => some (plView 0x049 i)
  | .cvsign i => some (plView 0x04a i)
  | .cvtest i => some (plView 0x04b i)
  | .iadd i => some (fnView 0x081 i)
  | .isub i => some (fnView 0x082 i)
  | .imul i => some (fnView 0x083 i)
  | .imulh i => some (fnView 0x084 i)
  | .imad i => some (fnView 0x085 i)
  | .idiv i => some (fnView 0x086 i)
  | .irem i => some (fnView 0x087 i)
  | .imin i => some (fnView 0x088 i)
  | .imax i => some (fnView 0x089 i)
  | .iabs i => some (fnView 0x08a i)
  | .ineg i => some (fnView 0x08b i)
  | .and i => some (fnView 0x08c i)
  | .or i => some (fnView 0x08d i)
  | .xor i => some (fnView 0x08e i)
  | .not i => some (fnView 0x08f i)
  | .shl i => some (fnView 0x090 i)
  | .shr i => some (fnView 0x091 i)
  | .sar i => some (fnView 0x092 i)
  | .rotl i => some (fnView 0x093 i)
  | .popc i => some (fnView 0x094 i)
  | .clz i => some (fnView 0x095 i)
  | .brev i => some (fnView 0x096 i)
  | .bfx i => some (fnView 0x097 i)
  | .bfi i => some (fnView 0x098 i)
  | .icmp i => some (fnView 0x099 i)
  | .sel i => some (fnView 0x09a i)
  | .mov i => some (fnView 0x09b i)
  | .lea i => some (fnView 0x09c i)
  | .sadd i => some (fnView 0x09d i)
  | .isad i => some (fnView 0x09e i)
  | .bcast i => some (fnView 0x0c1 i)
  | .extract i => some (fnView 0x0c2 i)
  | .getid i => some (fnView 0x0c3 i)
  | .ldk i => some (fnView 0x0c4 i)
  | .movp i => some (fnView 0x0c5 i)
  | .fadd i => some (rdView 0x101 i)
  | .fsub i => some (rdView 0x102 i)
  | .fmul i => some (rdView 0x103 i)
  | .ffma i => some (rdView 0x104 i)
  | .fmin i => some (fnView 0x105 i)
  | .fmax i => some (fnView 0x106 i)
  | .fabs i => some (fnView 0x107 i)
  | .fneg i => some (fnView 0x108 i)
  | .fcmp i => some (fnView 0x109 i)
  | .frcp i => some (rdView 0x10a i)
  | .frsq i => some (rdView 0x10b i)
  | .fsqrt i => some (rdView 0x10c i)
  | .fexp2 i => some (rdView 0x10d i)
  | .flog2 i => some (rdView 0x10e i)
  | .fsin i => some (rdView 0x10f i)
  | .fcos i => some (rdView 0x110 i)
  | .ftanh i => some (rdView 0x111 i)
  | .fdiv i => some (rdView 0x112 i)
  | .ffloor i => some (fnView 0x113 i)
  | .fround i => some (rdView 0x114 i)
  | .fclass i => some (fnView 0x115 i)
  | .fdot2 i => some (rdView 0x116 i)
  | .fdot4 i => some (rdView 0x117 i)
  | .cvt i => some (rdView 0x141 i)
  | .tileCvtComplete _ _ => none
  | .pack i => some (rdView 0x142 i)
  | .unpk i => some (rdView 0x143 i)
  | .scl i => some (rdView 0x144 i)
  | .sclf i => some (rdView 0x145 i)
  | .tagrd i => some (fnView 0x146 i)
  | .tagset i => some (fnView 0x147 i)
  | .sat i => some (rdView 0x148 i)
  | .ldg i => some (memView 0x181 i)
  | .lds i => some (memView 0x182 i)
  | .ldun i => some (memView 0x183 i)
  | .ldm i => some (memView 0x184 i)
  | .pgreq i => some (memView 0x185 i)
  | .pref i => some (memView 0x186 i)
  | .stg i => some (memView 0x1c1 i)
  | .sts i => some (memView 0x1c2 i)
  | .stun i => some (memView 0x1c3 i)
  | .stm i => some (memView 0x1c4 i)
  | .atom i => some (memView 0x201 i)
  | .atoms i => some (memView 0x202 i)
  | .red i => some (memView 0x203 i)
  | .atomf i => some (memView 0x204 i)
  | .fence i => some (memView 0x241 i)
  | .waitc i => some (memView 0x242 i)
  | .bar i => some (memView 0x243 i)
  | .tbinit i => some (memView 0x244 i)
  | .tbarrive i => some (memView 0x245 i)
  | .tbexpect i => some (memView 0x246 i)
  | .tbwait i => some (memView 0x247 i)
  | .tbtest i => some (memView 0x248 i)
  | .ringput i => some (memView 0x249 i)
  | .ringget i => some (memView 0x24a i)
  | .ringrelFill i => some (memView 0x24b i)
  | .ringrelFree i => some (memView 0x24b i)
  | .evpost i => some (memView 0x24c i)
  | .evget i => some (memView 0x24d i)
  | .marker i => some (memView 0x24e i)
  | .wcdrain i => some (memView 0x24f i)
  | .mma i => some (mtxView 0x281 i)
  | .mmab i => some (mtxView 0x282 i)
  | .vatld i => some (rdView 0x283 i)
  | .vatst i => some (rdView 0x284 i)
  | .vatclr i => some (rdView 0x285 i)
  | .vatcp i => some (rdView 0x286 i)
  | .mtrans i => some (fnView 0x287 i)
  | .mscale i => some (rdView 0x288 i)
  | .matrixOpComplete _ _ _ => none
  | .wfcfg i => some (plView 0x2c1 i)
  | .wfband i => some (plView 0x2c2 i)
  | .wfrun i => some (plView 0x2c3 i)
  | .wfedge i => some (plView 0x2c4 i)
  | .tbwalk i => some (plView 0x2c5 i)
  | .wfscore i => some (plView 0x2c6 i)
  | .cpyt i => some (plView 0x301 i)
  | .cpyg i => some (plView 0x302 i)
  | .cpys i => some (plView 0x303 i)
  | .dxrun i => some (plView 0x304 i)
  | .dxsig i => some (plView 0x305 i)
  | .copySectorWrite _ _ _ _ => none
  | .copyComplete _ _ => none
  | .dxpProgramStart _ => none
  | .dloop i => some (plView 0x381 i)
  | .dnext i => some (plView 0x382 i)
  | .didx i => some (plView 0x383 i)
  | .daddr i => some (plView 0x384 i)
  | .daddrCmd i => some (plView 0x384 i)
  | .dxfer i => some (plView 0x385 i)
  | .darrive i => some (plView 0x386 i)
  | .dwaitev i => some (plView 0x387 i)
  | .dend i => some (plView 0x388 i)
  | .dxpBra i => some (plView 0x041 i)
  | .dxpCall i => some (plView 0x043 i)
  | .dxpRet i => some (plView 0x045 i)
  | .dxpDrainTimeout _ => none
  | .invk i => some (plView 0x341 i)
  | .invh i => some (plView 0x342 i)
  | .hwait i => some (plView 0x343 i)
  | .htest i => some (plView 0x344 i)
  | .hrel i => some (plView 0x345 i)
  | .hget i => some (plView 0x346 i)
  | .epsend i => some (plView 0x347 i)
  | .eprecv i => some (plView 0x348 i)
  | .epstand i => some (plView 0x349 i)
  | .coll i => some (rdView 0x34a i)
  | .collComplete _ _ _ => none
  | .epsendComplete _ _ _ => none
  | .invocationResultReady _ _ => none
  | .trapDelivery _ _ => none
  | .stallHintExpiry _ _ => none
  | .alarmExpiry _ _ _ => none
  | .timeoutExpiry _ => none
  | .waitReleased _ => none
  | .barReleaseWave _ => none
  | .storePerform _ _ _ => none
  | .releasePerform _ _ _ => none
  | .coreViewWriteback _ _ => none
  | .coreViewFill _ _ => none
  | .coreViewDrop _ _ => none
  | .loadValueTake _ _ _ => none
  | .atomicStep _ _ _ => none
  | .loadComplete _ _ _ _ _ => none
  | .wcAgeDrain _ _ => none
  | .backInvalidationResponse _ => none
  | .registerLineFill _ _ _ _ => none
  | .vatTileSwap _ _ _ => none
  | .spmapLineFill _ _ _ => none
  | .spmapSpaceWriteback _ => none
  | .launchDoorbell _ _ => none
  | .launchCheck _ => none
  | .teamPlacement _ => none
  | .launchComplete _ _ => none
  | .hotspotMigration _ _ => none
  | .preemption _ _ => none
  | .partitionSwap _ => none
  | .stopIntervalClose _ _ => none
  | .brineVisible _ _ => none
  | .patienceExpiry _ _ _ => none
  | .standinDeferredWrite _ _ => none
  | .evqHeldRecordPost _ => none
  | .recordsLostPost _ => none
  | .noticesLostPost _ => none
  | .temperatureSample _ _ _ => none
  | .droopEvent _ => none
  | .droopCapExpiry _ => none
  | .powerGood => none
  | .clpartWrite _ _ => none
  | .partctlEnSet _ => none
  | .partctlEnClear _ => none
  | .partitionResetComplete _ => none
  | .partctlHaltSet _ => none
  | .partctlHaltClear _ => none
  | .mastctlGo _ _ => none
  | .dbgctlGo _ => none
  | .dbgctlStepSet _ => none
  | .dbgctlStepClear _ => none
  | .pmselClr _ _ _ => none
  | .pmselWrite _ _ _ _ => none
  | .pmcntWrite _ _ _ _ => none
  | .pfcmdRaiseGeneration _ => none
  | .generationWrapInvalidate => none
  | .pfcmdWriteEndpoint _ => none
  | .pfcmdClearOpt _ => none
  | .pfcmdClearPartitionOpt _ => none
  | .pfcmdSetLock _ => none
  | .pfcmdClearLock _ => none
  | .pfcmdSupplyFirmware _ => none
  | .pfcmdUnknownOp _ => none
  | .eppostWrite _ _ => none
  | .evqstatRead _ => none
  | .dxpTrapqRead _ => none
  | .registerWrite _ _ _ => none
  | .vfFunctionLevelReset _ => none
  | .cxlMemRead _ _ _ => none
  | .cxlMemWrite _ _ _ => none
  | .readRequest _ => none
  | .readResponse _ => none
  | .writePacket _ => none
  | .writeApplied _ => none
  | .atomicRequest _ => none
  | .atomicResponse _ => none
  | .shroudMarker _ => none
  | .markerAcknowledgement _ => none
  | .refusal _ => none
  | .invocation _ => none
  | .forwardedInvocation _ => none
  | .handleAnswer _ => none
  | .endpointMessage _ => none
  | .endpointStatus _ => none
  | .collectiveContribution _ => none
  | .collectiveResult _ => none
  | .abort _ => none
  | .malformedPacket _ => none
  | .lornanPortDown _ => none
  | .lornanPortRetrain _ => none
  | .zaronReefFrame _ => none
  | .zaronPathUpdate _ => none
  | .pathUpdateApply => none
  | .zaronTelemetryRequest _ => none
  | .zaronUnknownFrame _ => none
  | .setEndpointId _ => none
  | .getEndpointId _ => none
  | .getMctpVersionSupport _ => none
  | .getMessageTypeSupport _ => none
  | .mctpUnsupportedCommand _ => none
  | .getVersion _ => none
  | .getCapabilities _ => none
  | .negotiateAlgorithms _ => none
  | .getDigests _ => none
  | .getCertificate _ => none
  | .challenge _ => none
  | .getMeasurements _ => none
  | .keyExchange _ => none
  | .finish _ => none
  | .endSession _ => none
  | .spdmUnsupportedRequest _ => none
  | .quadrantCycle _ _ => none
  | .referenceClockPeriod => none
  | .lossOfPower _ => none
  | .lornanLinkTraining _ => none
  | .cxlLinkTraining _ _ _ => none

/-- The instruction that a constructor split by a form bit of IMM stands for (18 R399, 15 R351, 17 R387). -/
def formOk : Instr → Bool
  | .tqrd i => i.imm.getLsbD 0 == false
  | .tqrdDxp i => i.imm.getLsbD 0
  | .idem i => i.imm.getLsbD 0 == false
  | .idemClr i => i.imm.getLsbD 0
  | .ringrelFill i => i.imm.getLsbD 8 == false
  | .ringrelFree i => i.imm.getLsbD 8
  | .daddr i => i.imm.toNat / 2 ^ 28 == 0
  | .daddrCmd i => i.imm.toNat / 2 ^ 28 == 1
  | _ => true

/-- The constructor belongs to the agent: a DXP's bra, call and ret are instructions of their own (17 R386). -/
def agentOk (ag : Agent) : Instr → Bool
  | .bra _ => ag != .dxp
  | .call _ => ag != .dxp
  | .ret _ => ag != .dxp
  | .dxpBra _ => ag == .dxp
  | .dxpCall _ => ag == .dxp
  | .dxpRet _ => ag == .dxp
  | _ => true

end Sys2Proof.Machine
end

