-- ==== Sys2Proof/WellFormed.lean ====
section
/-!
DEFINITION. WellFormed.lean: when an instruction is well formed for an agent: its word passes steps 2 to 5 of 12
R261, its form bit is its constructor's, and the constructor is the agent's.
-/
namespace Sys2Proof

/-- The instruction is encodable and the agent decodes its word without an encoding trap. -/
def WellFormed (ag : Machine.Agent) (i : Instr) : Bool :=
  match Machine.rawOfInstr i with
  | none => false
  | some r => (Machine.wordTrap ag r).isNone && Machine.formOk i && Machine.agentOk ag i

end Sys2Proof
end

