-- ==== Sys2Proof/Decode.lean ====
section
/-!
DEFINITION. Decode.lean: from a 96-bit word to the instruction it is or the trap it raises (12 R261), total on any
word, and the encoder, from the same tables of the spec.
-/
namespace Sys2Proof

open Machine

/-- The instruction of an assigned opcode's fields that passed every check of the word (12 R274). -/
def instrOf (ag : Agent) (r : Raw) : Option Instr :=
  match r.op with
  | 0x001 => some (.nop (slotsOf ag r))
  | 0x002 => some (.exit (slotsOf ag r))
  | 0x003 => some (.trap (slotsOf ag r))
  | 0x004 => some (.tret (slotsOf ag r))
  | 0x005 => some (if bit r.imm 0 then .tqrdDxp (slotsOf ag r) else .tqrd (slotsOf ag r))
  | 0x006 => some (.srd (slotsOf ag r))
  | 0x007 => some (.swr (slotsOf ag r))
  | 0x008 => some (.vclk (slotsOf ag r))
  | 0x009 => some (.alarm (slotsOf ag r))
  | 0x00a => some (.alwait (slotsOf ag r))
  | 0x00b => some (.alcan (slotsOf ag r))
  | 0x00c => some (.phase (slotsOf ag r))
  | 0x00d => some (.yield (slotsOf ag r))
  | 0x00e => some (.brkpt (slotsOf ag r))
  | 0x00f => some (if bit r.imm 0 then .idemClr (slotsOf ag r) else .idem (slotsOf ag r))
  | 0x010 => some (.rdctx (slotsOf ag r))
  | 0x041 => some (if ag == .dxp then .dxpBra (slotsOf ag r) else .bra (slotsOf ag r))
  | 0x042 => some (.brx (slotsOf ag r))
  | 0x043 => some (if ag == .dxp then .dxpCall (slotsOf ag r) else .call (slotsOf ag r))
  | 0x044 => some (.calli (slotsOf ag r))
  | 0x045 => some (if ag == .dxp then .dxpRet (slotsOf ag r) else .ret (slotsOf ag r))
  | 0x046 => some (.vote (fnOf ag r))
  | 0x047 => some (.shfl (fnOf ag r))
  | 0x048 => some (.actmask (slotsOf ag r))
  | 0x049 => some (.cvdecl (slotsOf ag r))
  | 0x04a => some (.cvsign (slotsOf ag r))
  | 0x04b => some (.cvtest (slotsOf ag r))
  | 0x081 => some (.iadd (fnOf ag r))
  | 0x082 => some (.isub (fnOf ag r))
  | 0x083 => some (.imul (fnOf ag r))
  | 0x084 => some (.imulh (fnOf ag r))
  | 0x085 => some (.imad (fnOf ag r))
  | 0x086 => some (.idiv (fnOf ag r))
  | 0x087 => some (.irem (fnOf ag r))
  | 0x088 => some (.imin (fnOf ag r))
  | 0x089 => some (.imax (fnOf ag r))
  | 0x08a => some (.iabs (fnOf ag r))
  | 0x08b => some (.ineg (fnOf ag r))
  | 0x08c => some (.and (fnOf ag r))
  | 0x08d => some (.or (fnOf ag r))
  | 0x08e => some (.xor (fnOf ag r))
  | 0x08f => some (.not (fnOf ag r))
  | 0x090 => some (.shl (fnOf ag r))
  | 0x091 => some (.shr (fnOf ag r))
  | 0x092 => some (.sar (fnOf ag r))
  | 0x093 => some (.rotl (fnOf ag r))
  | 0x094 => some (.popc (fnOf ag r))
  | 0x095 => some (.clz (fnOf ag r))
  | 0x096 => some (.brev (fnOf ag r))
  | 0x097 => some (.bfx (fnOf ag r))
  | 0x098 => some (.bfi (fnOf ag r))
  | 0x099 => some (.icmp (fnOf ag r))
  | 0x09a => some (.sel (fnOf ag r))
  | 0x09b => some (.mov (fnOf ag r))
  | 0x09c => some (.lea (fnOf ag r))
  | 0x09d => some (.sadd (fnOf ag r))
  | 0x09e => some (.isad (fnOf ag r))
  | 0x0c1 => some (.bcast (fnOf ag r))
  | 0x0c2 => some (.extract (fnOf ag r))
  | 0x0c3 => some (.getid (fnOf ag r))
  | 0x0c4 => some (.ldk (fnOf ag r))
  | 0x0c5 => some (.movp (fnOf ag r))
  | 0x101 => some (.fadd (rdOf ag r))
  | 0x102 => some (.fsub (rdOf ag r))
  | 0x103 => some (.fmul (rdOf ag r))
  | 0x104 => some (.ffma (rdOf ag r))
  | 0x105 => some (.fmin (fnOf ag r))
  | 0x106 => some (.fmax (fnOf ag r))
  | 0x107 => some (.fabs (fnOf ag r))
  | 0x108 => some (.fneg (fnOf ag r))
  | 0x109 => some (.fcmp (fnOf ag r))
  | 0x10a => some (.frcp (rdOf ag r))
  | 0x10b => some (.frsq (rdOf ag r))
  | 0x10c => some (.fsqrt (rdOf ag r))
  | 0x10d => some (.fexp2 (rdOf ag r))
  | 0x10e => some (.flog2 (rdOf ag r))
  | 0x10f => some (.fsin (rdOf ag r))
  | 0x110 => some (.fcos (rdOf ag r))
  | 0x111 => some (.ftanh (rdOf ag r))
  | 0x112 => some (.fdiv (rdOf ag r))
  | 0x113 => some (.ffloor (fnOf ag r))
  | 0x114 => some (.fround (rdOf ag r))
  | 0x115 => some (.fclass (fnOf ag r))
  | 0x116 => some (.fdot2 (rdOf ag r))
  | 0x117 => some (.fdot4 (rdOf ag r))
  | 0x141 => some (.cvt (rdOf ag r))
  | 0x142 => some (.pack (rdOf ag r))
  | 0x143 => some (.unpk (rdOf ag r))
  | 0x144 => some (.scl (rdOf ag r))
  | 0x145 => some (.sclf (rdOf ag r))
  | 0x146 => some (.tagrd (fnOf ag r))
  | 0x147 => some (.tagset (fnOf ag r))
  | 0x148 => some (.sat (rdOf ag r))
  | 0x181 => some (.ldg (memOf ag r))
  | 0x182 => some (.lds (memOf ag r))
  | 0x183 => some (.ldun (memOf ag r))
  | 0x184 => some (.ldm (memOf ag r))
  | 0x185 => some (.pgreq (memOf ag r))
  | 0x186 => some (.pref (memOf ag r))
  | 0x1c1 => some (.stg (memOf ag r))
  | 0x1c2 => some (.sts (memOf ag r))
  | 0x1c3 => some (.stun (memOf ag r))
  | 0x1c4 => some (.stm (memOf ag r))
  | 0x201 => some (.atom (memOf ag r))
  | 0x202 => some (.atoms (memOf ag r))
  | 0x203 => some (.red (memOf ag r))
  | 0x204 => some (.atomf (memOf ag r))
  | 0x241 => some (.fence (memOf ag r))
  | 0x242 => some (.waitc (memOf ag r))
  | 0x243 => some (.bar (memOf ag r))
  | 0x244 => some (.tbinit (memOf ag r))
  | 0x245 => some (.tbarrive (memOf ag r))
  | 0x246 => some (.tbexpect (memOf ag r))
  | 0x247 => some (.tbwait (memOf ag r))
  | 0x248 => some (.tbtest (memOf ag r))
  | 0x249 => some (.ringput (memOf ag r))
  | 0x24a => some (.ringget (memOf ag r))
  | 0x24b => some (if bit r.imm 8 then .ringrelFree (memOf ag r) else .ringrelFill (memOf ag r))
  | 0x24c => some (.evpost (memOf ag r))
  | 0x24d => some (.evget (memOf ag r))
  | 0x24e => some (.marker (memOf ag r))
  | 0x24f => some (.wcdrain (memOf ag r))
  | 0x281 => some (.mma (mtxOf ag r))
  | 0x282 => some (.mmab (mtxOf ag r))
  | 0x283 => some (.vatld (rdOf ag r))
  | 0x284 => some (.vatst (rdOf ag r))
  | 0x285 => some (.vatclr (rdOf ag r))
  | 0x286 => some (.vatcp (rdOf ag r))
  | 0x287 => some (.mtrans (fnOf ag r))
  | 0x288 => some (.mscale (rdOf ag r))
  | 0x2c1 => some (.wfcfg (slotsOf ag r))
  | 0x2c2 => some (.wfband (slotsOf ag r))
  | 0x2c3 => some (.wfrun (slotsOf ag r))
  | 0x2c4 => some (.wfedge (slotsOf ag r))
  | 0x2c5 => some (.tbwalk (slotsOf ag r))
  | 0x2c6 => some (.wfscore (slotsOf ag r))
  | 0x301 => some (.cpyt (slotsOf ag r))
  | 0x302 => some (.cpyg (slotsOf ag r))
  | 0x303 => some (.cpys (slotsOf ag r))
  | 0x304 => some (.dxrun (slotsOf ag r))
  | 0x305 => some (.dxsig (slotsOf ag r))
  | 0x341 => some (.invk (slotsOf ag r))
  | 0x342 => some (.invh (slotsOf ag r))
  | 0x343 => some (.hwait (slotsOf ag r))
  | 0x344 => some (.htest (slotsOf ag r))
  | 0x345 => some (.hrel (slotsOf ag r))
  | 0x346 => some (.hget (slotsOf ag r))
  | 0x347 => some (.epsend (slotsOf ag r))
  | 0x348 => some (.eprecv (slotsOf ag r))
  | 0x349 => some (.epstand (slotsOf ag r))
  | 0x34a => some (.coll (rdOf ag r))
  | 0x381 => some (.dloop (slotsOf ag r))
  | 0x382 => some (.dnext (slotsOf ag r))
  | 0x383 => some (.didx (slotsOf ag r))
  | 0x384 => some (if r.imm / 2 ^ 28 == 1 then .daddrCmd (slotsOf ag r) else .daddr (slotsOf ag r))
  | 0x385 => some (.dxfer (slotsOf ag r))
  | 0x386 => some (.darrive (slotsOf ag r))
  | 0x387 => some (.dwaitev (slotsOf ag r))
  | 0x388 => some (.dend (slotsOf ag r))
  | _ => none

/-- What a word is for an agent: its instruction, or the encoding trap of steps 2 to 5 (12 R261). -/
inductive Decoded where
  | instr (i : Instr)
  | trap (t : Trap)
  deriving DecidableEq, Repr

/-- Decode the fields of a word. -/
def decodeRaw (ag : Agent) (r : Raw) : Decoded :=
  match wordTrap ag r with
  | some t => .trap t
  | none =>
    match instrOf ag r with
    | some i => .instr i
    | none => .trap ⟨1, 0, r.op⟩

/-- Decode a word (12 R260, R261). -/
def decodeWord (ag : Agent) (w : IWord) : Decoded := decodeRaw ag (rawOf w.toNat)

/-- Decode the 12 bytes at a PC, lowest address first (00 R6). -/
def decodeBytes (ag : Agent) (bs : List Byte) : Decoded := decodeRaw ag (rawOf (ofBytes (bs.take 12)))

/-- The word of an encodable instruction (12 R260, R274); none for an event. -/
def encode (i : Instr) : Option IWord := (rawOfInstr i).map fun r => BitVec.ofNat 96 (wordOf r)

/-- The instruction the decoder reads from a word, bit 0 the least significant bit of the lowest byte: as a group
outside a handler, else in a handler, else as a DXP. -/
def decodeTableWord (_nbits w : Nat) : Option Instr :=
  let r := rawOf (w % 2 ^ 96)
  match decodeRaw (.group false) r with
  | .instr i => some i
  | .trap _ =>
    match decodeRaw (.group true) r with
    | .instr i => some i
    | .trap _ =>
      match decodeRaw .dxp r with
      | .instr i => some i
      | .trap _ => none

end Sys2Proof
end

