-- ==== Sys2Proof/Machine/State.lean ====
section
/-!
DEFINITION. Machine/State.lean: the state of the X9, all of it, as plain data: groups, teams, cores, clusters,
partitions, contexts and the device (05 to 09), the components of the ordering machine (10 R222), and the model's own
fields (agenda, cur, free, errs, out, hostMem, nextTid, ticket; assumption log 1, 2, 4, 7).
-/
namespace Sys2Proof.Machine

/-! ## Places and accesses -/

/-- Where a byte lives: offset off of a team's scratchpad allocation, a physical address of this device, or one of
another device (06 R134, R142). -/
inductive Loc where
  | spad (tid off : Nat)
  | mem (pa key : Nat)
  | remote (dev pa : Nat)
  deriving DecidableEq, Repr

/-- One access of an instruction: the lane (for a tile, four times the row plus the 16-byte chunk), the address it
names, where that is, and its size. -/
structure Acc where
  lane : Nat
  va : Nat
  loc : Loc
  n : Nat
  deriving DecidableEq, Repr

/-! ## The group -/

/-- A frontier entry (02 R35, 05 R119). -/
structure Entry where
  prio : Byte
  pc : Pc
  mask : Mask
  deriving DecidableEq, Repr

/-- An alarm slot (03 R66). -/
structure Alarm where
  armed : Bool
  expired : Bool
  deadline : W64
  deriving DecidableEq, Repr

/-- A lane's call stack: the return addresses on chip, newest first, and how many stand in the lane's spill region below
them (02 R39, R447). -/
structure Calls where
  chip : List Pc
  spilled : Nat
  deriving DecidableEq, Repr

/-- The classes of outstanding operations (09 R207). -/
inductive OpClass where
  | ld | st | cpy | mtx | gth | col
  deriving DecidableEq, Repr

/-- An outstanding operation (09 R207, R208). -/
structure Op where
  id : Nat
  cls : OpClass
  done : Bool
  deriving DecidableEq, Repr

/-- A trap record (07 R160). -/
structure TrapRec where
  cause : Byte
  detail : Byte
  imprecise : Bool
  resume : BitVec 2
  thread : BitVec 9
  prio : Byte
  pc : Pc
  team : W32
  launch : W32
  fail : Mask
  mask : Mask
  addr : W64
  rpc : Pc
  save62 : W64
  save63 : W64
  deriving DecidableEq, Repr

/-- A store whose bytes travel to another device: its operation, PC, lanes, the lanes whose bytes these are, and the
address of the lowest (06 R141, 07 R161). -/
structure StoreRef where
  tid : Nat
  g : Nat
  id : Nat
  pc : Pc
  mask : Mask
  fail : Mask
  va : Nat
  deriving DecidableEq, Repr

/-- A load or atomic in the load queue, until its destination is written (10 R222, R225, R228, R233). aop is the
atomic operation plus one, 0 for a load; data and cmp are an atomic's operands by lane; vals are the values taken, and refused
the lanes whose access failed after issue (06 R141, R154). -/
structure LqEntry where
  id : Nat
  pc : Pc
  mask : Mask
  accs : List Acc
  zeroed : Mask
  uniform : Bool
  dest : Operand
  tag : Nat
  acq : Bool
  rel : Bool
  scope : Scope
  colour : Nat
  aop : Nat
  data : List (Nat × Nat)
  cmp : List (Nat × Nat)
  vals : List (Nat × Nat)
  waiting : List (Nat × Nat)
  written : List Nat
  released : Bool
  refused : List (Nat × Trap)
  deriving DecidableEq, Repr

/-- One lane's bytes of a store (or its operand, for red). -/
structure Put where
  acc : Acc
  bytes : List Byte
  deriving DecidableEq, Repr

/-- An entry of a store buffer (10 R222, R226): aop is 0 for a store and the operation plus one for red. -/
structure SbEntry where
  id : Nat
  seq : Nat
  pc : Pc
  mask : Mask
  colour : Nat
  puts : List Put
  rel : Bool
  scope : Scope
  aop : Nat
  tag : Nat
  released : Bool
  deriving DecidableEq, Repr

/-- An effect that waits for the group's older stores and loads: a tbarrive's arrival (10 R238, 15 R346) or a
ringrel (15 R351). -/
inductive PendKind where
  | arrive (loc : Loc) (va n : Nat)
  | ringFill (ring slot : Nat)
  | ringFree (ring slot : Nat)
  deriving DecidableEq, Repr

/-- One such effect: its operation, seq the group's issue number (only older stores and loads matter), the PC and lanes it
issued from, and whether its release steps are done. -/
structure Pend where
  id : Nat
  seq : Nat
  pc : Pc
  mask : Mask
  kind : PendKind
  released : Bool
  deriving DecidableEq, Repr

/-- What the selected instruction of a group, or a DXP, waits for (02 R33): the stall counter of R215 that counts it,
whether its condition has come true, the order in which it began, its time-out, and what has arrived for it. -/
structure Hold where
  why : Nat
  ready : Bool
  since : Nat
  deadline : Option W64
  timedOut : Bool
  started : Bool
  passed : Bool
  answer : Option W64
  deriving DecidableEq, Repr

/-- The running handler (07 R158, 13 R283): its frontier, its whole mask, each lane's call depth at delivery, and what
the group frontier's instruction waited for when the record was delivered. -/
structure Handler where
  front : List Entry
  mask : Mask
  depths : SMap Nat
  stash : Option Hold
  deriving DecidableEq, Repr

/-- The role of a group (02 R29). -/
inductive Role where
  | copy | matrix | vector
  deriving DecidableEq, Repr

/-- A group (02 R25, 05 R109, R112). Lane l of vn is entry 32n + l of v. fresh and evicted list the register lines that are
not in the register cache: not yet filled, or written back and evicted (02 R56, R451). gath holds remote sectors that have
come in for the reads at issue of a waiting instruction, asked those asked for, with the bytes that the write-combining
buffer held. unsaved lists the lines of its image that are still to be written: those whose last write-back met a lasting
error (05 R114), and those that operations outstanding at its exit may still change (23 R448). spill is the spill region:
entry k of lane l is at 32k + l (R447). redBad lists the refused lanes of its reductions. -/
structure Group where
  role : Role
  slot : Nat
  v : SMap W32
  vtag : SMap Tag
  s : SMap W64
  p : SMap Mask
  seed : SMap W32
  fflags : SMap Byte
  front : List Entry
  yieldPc : Option Pc
  calls : SMap Calls
  spill : SMap W64
  alarms : SMap Alarm
  phase : BitVec 16
  ops : List Op
  lq : List LqEntry
  sb : List SbEntry
  pend : List Pend
  trapq : List TrapRec
  trapcause : BitVec 16
  lastCause : Byte
  handler : Option Handler
  halted : Bool
  exited : Bool
  hold : Option Hold
  stall : Nat
  yieldHint : Bool
  age : Nat
  cycle : W64
  retired : W64
  stalls : SMap W32
  ovf : BitVec 16
  fresh : List Nat
  evicted : List Nat
  gath : List (Nat × List Byte)
  asked : List (Nat × List (Option Byte))
  redBad : List (StoreRef × Trap)
  unsaved : List Nat
  deriving DecidableEq, Repr

/-! ## The team -/

/-- A stage ring as the launch record defines it (08 R186). -/
structure RingDef where
  prod : Nat
  cons : Nat
  size : Nat
  deriving DecidableEq, Repr

/-- The launch record's fields (08 R186). -/
structure LaunchRec where
  teams : Nat
  groups : Nat
  stages : Nat
  rings : List RingDef
  det : Bool
  idem : Bool
  footW : Nat
  footH : Nat
  comp : Nat
  scratch : Nat
  spill : Nat
  kernel : Nat
  roles : List Role
  stageOf : List Nat
  entry : Nat
  handler : Nat
  priomap : Nat
  imageBase : Nat
  spmap : Nat
  args : Nat
  ctx : Nat
  deriving DecidableEq, Repr

/-- A range of the block priority map (08 R191). -/
structure PrioRange where
  start : Nat
  stop : Nat
  prio : Byte
  deriving DecidableEq, Repr

/-- A stage ring's state (02 R32, 07 R168). putNow and getNow: the put and the get index has served a group in the cycle under
way (15 R350). -/
structure Ring where
  full : BitVec 16
  phase : BitVec 16
  put : Nat
  get : Nat
  putNow : Bool
  getNow : Bool
  deriving DecidableEq, Repr

/-- A convergence register (02 R41). last is the group of the latest mma or mmab signature of the phase (16 R359). -/
structure Cv where
  declared : BitVec 512
  signed : BitVec 512
  phase : Bool
  word : Option IWord
  last : Nat
  deriving DecidableEq, Repr

/-- A scratchpad-map entry in force (08 R192), its reserved bits kept: vbase is word 0 whole, len has the bits above
[17:9] of the low half of word 1. The list holds the map's eight entries in order. -/
structure SpMapE where
  vbase : Nat
  off : Nat
  len : Nat
  tstride : Nat
  deriving DecidableEq, Repr

/-- The state of a mapped 128-byte line (06 R144): key of the map is the line number in the allocation. -/
structure MapLine where
  valid : Bool
  dirty : BitVec 128
  since : Nat
  deriving DecidableEq, Repr

/-- The wavefront state of a team (16 R365). -/
structure Wave where
  rule : List Byte
  lo : W32
  hi : W32
  hasRule : Bool
  issuedRule : Bool
  issuedLo : W32
  issuedHi : W32
  hasBest : Bool
  hasLast : Bool
  best : BitVec 16
  bestCell : W64
  lastScore : BitVec 16
  lastCell : W64
  deriving DecidableEq, Repr

/-- The opened team barrier's groups still to be released in waves, and the cycle count left before the next wave
(02 R46, 15 R344). -/
structure BarWave where
  left : List Nat
  gap : Nat
  deriving DecidableEq, Repr

/-- A tile form of cvt that still writes its rows (14 R318): the tile and the group that waits. -/
structure TileCvt where
  id : Nat
  tile : Nat
  g : Nat
  deriving DecidableEq, Repr

/-- A command of the DXP command queue (07 R169, 17 R385), with the PC and lanes of the instruction that posted it. -/
structure DxCmd where
  tid : Nat
  g : Nat
  opId : Nat
  pc : Pc
  mask : Mask
  entry : W64
  words : List W64
  deriving DecidableEq, Repr

/-- A team, or a mast core's one-lane group (mast = true; it has no team state of its own, 05 R130). vatClean lists the vat
tiles whose image holds what they hold (R113), unsaved the lines of the team image whose last write-back met a lasting error
(R114). saved: the team is put away for the open stop interval; imaged: its image was written for it (R115, R131); parked: it
has given up its slots and its pinned lines are in the rind store (02 R27, 05 R115). turnOn: the quadrant of the group at the
rotation pointer holds the turn for it; turnHeld: that group has issued in it (02 R52, 22 R444). dxArea holds the DXP
commands saved in its image (07 R181). -/
structure Team where
  mast : Bool
  part : Nat
  launch : Nat
  index : Nat
  lrec : LaunchRec
  core : Nat
  origin : Nat
  cpos : Nat
  prios : List PrioRange
  groups : List Group
  mreg : SMap (BitVec 512)
  mtag : SMap Tag
  cvs : SMap Cv
  vat : SMap (BitVec 48)
  vattag : SMap Tag
  mflags : Byte
  idem : Bool
  rot : Nat
  turnHeld : Bool
  turnOn : Bool
  rings : SMap Ring
  barWave : Option BarWave
  faults : W32
  lastCode : Byte
  faulted : Bool
  running : Bool
  wave : Wave
  spad : SMap Byte
  spmap : List SpMapE
  lines : SMap MapLine
  tileCvts : List TileCvt
  fresh : List Nat
  evicted : List Nat
  unsaved : List Nat
  vatClean : List Nat
  saved : Bool
  imaged : Bool
  parked : Bool
  dxArea : List DxCmd
  moving : Bool
  lastStage : SMap Nat
  lastGroup : SMap Nat
  reported : Bool
  deriving DecidableEq, Repr

/-! ## The core -/

/-- A byte of a core view (10 R222): present, its value, dirty, its rank among dirty bytes since it last became dirty, its
release mark with the rank of the store that set it (10 R232), and the key its line is written under (06 R151). -/
structure CvByte where
  present : Bool
  val : Byte
  dirty : Bool
  rank : Nat
  mark : Bool
  key : Nat
  markRank : Nat
  deriving DecidableEq, Repr

/-- An entry of the write-combining buffer (07 R173): the device, the line address, the byte mask and the line, the
colours, its age in RCLK, and the (partition, context) pairs whose stores it holds. -/
structure WcEntry where
  dev : Nat
  line : Nat
  mask : BitVec 128
  data : BitVec 1024
  colours : Byte
  born : W64
  owners : List (Nat × Nat)
  refs : List StoreRef
  deriving DecidableEq, Repr

/-- A scratchpad matrix operand's descriptor (12 R265). -/
structure Desc where
  base : Nat
  rowp : Nat
  rot : Nat
  tilep : Nat
  deriving DecidableEq, Repr

/-- An operation of a core's matrix engine, in engine order (10 R239): the PC and lanes it issued from, its word's fields,
the register values it read at issue, the tiles and scale tables it read (at issue, vatld when it starts), the scratchpad
sectors it has captured early, and the sectors of its traceback or record that it has written early. -/
structure MxOp where
  tid : Nat
  g : Nat
  id : Nat
  pc : Pc
  mask : Mask
  op : Nat
  d : Nat
  a : Nat
  b : Nat
  md : Nat
  imm : Nat
  sv : List W64
  tagA : Nat
  tagB : Nat
  tileA : SMap (BitVec 512)
  tileB : SMap (BitVec 512)
  scaleA : SMap (BitVec 512)
  scaleB : SMap (BitVec 512)
  descA : Option Desc
  descB : Option Desc
  rule : List Byte
  capt : SMap (BitVec 256)
  captured : List Nat
  wrote : List Nat
  deriving DecidableEq, Repr

/-- Where a byte of a copy comes from: zero, memory with the bits that are in range, or a value read at issue. -/
inductive Src where
  | zero
  | loc (l : Loc) (va : Nat)
  | val (b : Byte)
  deriving DecidableEq, Repr

/-- Where a byte of a copy goes: nowhere, memory, or a byte of a tile register. -/
inductive Dst where
  | none
  | loc (l : Loc) (va : Nat)
  | tile (m byte : Nat)
  deriving DecidableEq, Repr

/-- One byte of a copy: from, to, the bits that are in range (17 R378; whole bytes have keep = 0xFF), and the sector of
the local box that it lies in. -/
structure CpByte where
  src : Src
  dst : Dst
  keep : Byte
  lsec : Nat
  deriving DecidableEq, Repr

/-- What a copy was asked for (17 R378, R381, R391): a tensor copy, a gather or scatter, or a DXP transfer. -/
inductive CopySpec where
  | tensor (rec : List Byte) (coords : List W32) (dir : Bool) (tile : Option Nat) (local_ : Nat) (data : SMap (BitVec 512))
  | rows (scatter : Bool) (base n pitch : Nat) (idx : List (Nat × Nat)) (len : Nat) (tile : Option Nat) (q local_ : Nat)
      (data : SMap (BitVec 512))
  | xfer (dst src sectors : Nat) (zero : Bool)
  deriving DecidableEq, Repr

/-- A copy in flight (17 R375-R382, R391). scomp and dcomp are the compartments of its source and destination sides; named
says that a barrier is to be credited, bar is its address, and phase its phase at issue, none where it could not be reached
then; size is that of the local box in bytes; draft holds the local sectors checked so far, and plan, none until every
sector is checked, the runs of bytes written together: those of one destination sector; capt holds the source sectors read,
reads those asked of other devices with the bytes known; wrote lists the runs written, acks those with a remote write
not yet acknowledged, one entry for each, and credited the local sectors credited. -/
structure CopyOp where
  id : Nat
  tid : Nat
  g : Nat
  opId : Nat
  cls : OpClass
  dx : Bool
  pc : Pc
  thread : Nat
  mask : Mask
  spec : CopySpec
  tag : Nat
  scomp : Nat
  dcomp : Nat
  named : Bool
  bar : Nat
  barLoc : Option Loc
  phase : Option Nat
  size : Nat
  draft : List (List CpByte)
  plan : Option (List (List CpByte))
  capt : SMap (List Byte)
  reads : List (Nat × Nat)
  wrote : List Nat
  acks : List Nat
  credited : List Nat
  failed : Option Trap
  deriving DecidableEq, Repr

/-- The program a DXP runs: its command, the wait of its current instruction, and how it ends once its dxfers are
complete (17 R391-R395). -/
structure DxRun where
  cmd : DxCmd
  hold : Option Hold
  ending : Option (Option Trap)
  stop : Option Trap
  deriving DecidableEq, Repr

/-- A record of the cluster event queue: four words (07 R164). -/
structure EvRec where
  w0 : W64
  w1 : W64
  w2 : W64
  w3 : W64
  deriving DecidableEq, Repr

/-- A record an engine holds while the event queue is full, and the operation that completes with it (07 R166). -/
structure HeldRec where
  ev : EvRec
  tid : Nat
  g : Nat
  opId : Nat
  fromDxp : Bool
  deriving DecidableEq, Repr

/-- A core's transfer processor (05 R125, 17 R385). -/
structure Dxp where
  cmds : List DxCmd
  run : Option DxRun
  d : SMap W64
  pc : Pc
  loops : SMap W32
  trapq : List (Nat × TrapRec)
  deriving DecidableEq, Repr

/-- What a counter remembers of the cycle under way (09 R221): COUNT and the selection at its start, its increments so
far, and whether a write has reprogrammed the counter in it. -/
structure PmCycle where
  old : BitVec 48
  en : Bool
  vf : BitVec 4
  event : BitVec 7
  inc : Nat
  prog : Bool
  deriving DecidableEq, Repr

/-- A performance counter and its select register (09 R217). -/
structure Pm where
  ovf : Bool
  en : Bool
  vf : BitVec 4
  event : BitVec 7
  count : BitVec 48
  cyc : PmCycle
  deriving DecidableEq, Repr

/-- What an instruction does to a barrier in a cycle (09 R211): tbinit, an arrival, an expectation. -/
inductive BarKind where
  | init (n : Nat)
  | arrive (n : Nat)
  | expect (n : Nat)
  deriving DecidableEq, Repr

/-- An update of a barrier by an instruction that issued in the core's cycle under way (09 R213): the place, the issuing
group with its PC and lanes, and the address it named. -/
structure BarUpd where
  loc : Loc
  tid : Nat
  g : Nat
  pc : Pc
  mask : Mask
  va : Nat
  kind : BarKind
  deriving DecidableEq, Repr

/-- A core (01 R18, 10 R222). bars holds the updates of barriers of its cycle under way (09 R213). vatTid n is the team whose
tile slot n holds, plus one; nextQ is the quadrant whose part of the core's cycle comes next (13 R289). -/
structure Core where
  view : SMap CvByte
  rank : Nat
  wc : List WcEntry
  owed : List (Nat × Nat)
  engine : List MxOp
  copies : List CopyOp
  held : List HeldRec
  dxp : Dxp
  pm : SMap Pm
  vatTid : SMap Nat
  rrTeam : SMap Nat
  temp : Byte
  droop : Byte
  hot : Bool
  pktNo : SMap W32
  relNo : W32
  nextQ : Nat
  bars : List BarUpd
  deriving DecidableEq, Repr

/-! ## Clusters, partitions, contexts -/

/-- Pinned lines in a cluster's rind-store slot (05 R115, 06 R146, R151): the partition and its memory key, the team and its
image, and the bytes by their offset in it. -/
structure RindRec where
  part : Nat
  key : Nat
  tid : Nat
  base : Nat
  lines : List (Nat × List Byte)
  deriving DecidableEq, Repr

/-- A hardware cluster (01 R17). Caps are steps of R129; opCap is none when the operating point sets none; opKey is the key
that every team has held, and the step, since the clean interval under way began (08 R204); rind is its slot of the
rind store. The brine queues and endpoint tables that a slot also keeps while their context is stopped (06 R146) are those of
Context. -/
structure Cluster where
  valid : Bool
  part : BitVec 4
  droopw : Byte
  hotT : Byte
  gap : Byte
  widthm1 : BitVec 4
  wcage : BitVec 16
  evq : List EvRec
  evSeq : W32
  lost : Byte
  lostPend : Nat
  step : BitVec 6
  thermal : Nat
  droopCap : Option (Nat × W64)
  opCap : Option Nat
  opKey : Option ((Nat × Nat × Nat) × Nat)
  mState : BitVec 2
  mComp : BitVec 3
  mCtx : BitVec 6
  mEntry : Pc
  mHandler : Pc
  mArgs : W64
  mImage : Pc
  rind : List RindRec
  deriving DecidableEq, Repr

/-- Who sent a message: a host record at an address of host memory, or an endpoint of another context. -/
inductive Peer where
  | host (rec : Nat)
  | endpoint (dev part ctx ep rtag : Nat)
  deriving DecidableEq, Repr

/-- A message to an endpoint (03 R68-R74, 18 R423). real: its stamp is RCLK; patience counts from born. -/
structure Msg where
  ident : BitVec 16
  ep : Nat
  bytes : List Byte
  ask : Bool
  reply : Bool
  standin : Bool
  status : Nat
  stamp : W64
  real : Bool
  born : W64
  patience : Nat
  mode : Nat
  peer : Peer
  deriving DecidableEq, Repr

/-- An entry of the endpoint binding table (08 R202). -/
structure Ep where
  v : Bool
  mode : BitVec 2
  patience : BitVec 16
  standin : BitVec 56
  standlen : BitVec 9
  peer : W64
  deriving DecidableEq, Repr

/-- A slot the device still has to write to a host mailbox: word 0, the body, and the message it answers (19 R433,
R453). -/
structure Deferred where
  ep : Nat
  word0 : W64
  body : List Byte
  counts : Bool
  deriving DecidableEq, Repr

/-- A stand-in of which some sectors lie on other devices and have been asked for (03 R70): its message, the offset of its
first byte in its first sector, its length, how many sectors it has, and those that are here. -/
structure StandRead where
  msg : Msg
  lead : Nat
  len : Nat
  sectors : Nat
  got : SMap (List Byte)
  deriving DecidableEq, Repr

/-- Why a stop interval is open (03 R59): each reason must go before it closes. -/
inductive StopWhy where
  | preempt | step | brk | migrate | swap | halt
  deriving DecidableEq, Repr

/-- An open stop interval: the stop value S, RCLK when it opened, its reasons (none once they have all gone and not every
core has resumed), whether the write-combining buffers have been drained with their markers, whether the drain is complete
(10 R242), and the cores that have resumed before the last (R59). -/
structure Stop where
  s : W64
  opened : W64
  why : List StopWhy
  marked : Bool
  drained : Bool
  resumed : List Nat
  deriving DecidableEq, Repr

/-- A context (03 R57, 08 R189). taken holds the messages taken by eprecv and not replied to, asked the endpoint and
identifier of each message sent with ASK and not answered. -/
structure Context where
  valid : Bool
  root : Nat
  gen : BitVec 16
  created : W64
  stopsum : W64
  stop : Option Stop
  brine : List Msg
  eps : SMap Ep
  recvq : SMap (List Msg)
  taken : List Msg
  deferred : List Deferred
  asked : List (Nat × Nat)
  nextId : BitVec 16
  brineDrop : W32
  standins : W32
  lateReply : W32
  stepped : List (Nat × Nat)
  standing : List StandRead
  deriving DecidableEq, Repr

/-- A running or waiting grid (02 R28, 07 R176): placed counts the teams started, over the groups that have exited
or halted, invoked its handle entry plus one. status is that of its completion notice, once posted, while the stores of
an invoked grid are being released (18 R417). -/
structure Grid where
  launch : Nat
  lrec : LaunchRec
  recAddr : Nat
  prios : List PrioRange
  placed : Nat
  exited : Nat
  halted : Nat
  invoked : Nat
  status : Option Nat
  releasing : Bool
  deriving DecidableEq, Repr

/-- A launch in the launch queue (07 R176). -/
structure Queued where
  launch : Nat
  addr : Nat
  deriving DecidableEq, Repr

/-- A partition (05 R128, 08 R187, 09 R220, 18 R410, 19 R432). recBase is PARTREC.BASE, recAt the record that it named when
EN was last set; collOrds counts the collectives that each member of a generation and list has issued (18 R426); keyGen names
its current keys, 0 for none; abroad holds the device and handle of each of its invocations on other devices that is not
known to have ended, pgAsked the posting count, context and page of its page requests (07 R180), pmSaved the counters of
cores that a world switch has saved (09 R219). -/
structure Partition where
  en : Bool
  busy : Bool
  halt : Bool
  halted : Bool
  recBase : Nat
  recAt : Nat
  tenlim : Bool
  rank : BitVec 4
  dbgCode : Byte
  dbgStopped : Bool
  dbgStep : Bool
  dbgBrken : Bool
  epoch : BitVec 16
  present : BitVec 10
  keyGen : Nat
  ringBase : Nat
  ringSize : Nat
  gates : Nat
  noticeLost : Nat
  demote : W32
  pgreqDrop : W32
  noticeDrop : W32
  launchDrop : W32
  collAbort : W32
  reefFrame : W32
  reefTime : SMap W64
  launchq : List Queued
  nextLaunch : W32
  grids : List Grid
  ctxs : SMap Context
  measured : List (List Byte)
  collOrds : List ((Nat × List Nat × Nat) × Nat)
  abroad : List (Nat × Nat)
  pgAsked : List (Nat × Nat × Nat)
  pmSaved : List (Nat × SMap Pm)
  deriving DecidableEq, Repr

/-! ## The device -/

/-- An invocation on its way to run (07 R175, 18 R415-R418): its source, its issuing group's number there, its sequence
number for a handle, the descriptor, the argument bytes, the upstream handle, the entry and launch number it was
accepted into, and, for one issued here, the operation that waits for its handle. -/
structure QInv where
  src : Nat
  spart : Nat
  issuer : Nat
  seqNo : Nat
  desc : List Byte
  args : List Byte
  up : Option Nat
  entry : Nat
  launch : Nat
  who : Option (Nat × Nat × Nat × Operand)
  deriving DecidableEq, Repr

/-- The sequence order of one issuing group at a handle (07 R175): the next number to deliver, and the number from which
its arrivals are refused until that one is sent again. -/
structure HOrder where
  src : Nat
  issuer : Nat
  next : Nat
  back : Option Nat
  deriving DecidableEq, Repr

/-- An entry of the handle resolution table (08 R201) and its order queue; late holds local arrivals that found the
queue full, watch the queries of other devices that wait for a result. -/
structure HEntry where
  st : BitVec 2
  part : Nat
  gen : BitVec 16
  locdev : Nat
  loccore : Nat
  result : Nat
  rlen : Nat
  bcause : Nat
  queue : List QInv
  late : List QInv
  orders : List HOrder
  watch : List Packet
  deriving DecidableEq, Repr

/-- An entry of the operating point table (08 R203). -/
structure OptEntry where
  v : Bool
  lock : Bool
  part : BitVec 4
  step : BitVec 6
  phase : BitVec 16
  kernel : W32
  best : W32
  uses : W32
  deriving DecidableEq, Repr

/-- A Lornan port (19 R434): the counter and the name of the link key that its flits are sealed under. -/
structure Port where
  up : Bool
  ctr : BitVec 96
  key : Nat
  deriving DecidableEq, Repr

/-- Another sealed die edge (01 R23): the name of its link key and its counter. -/
structure Edge where
  key : Nat
  ctr : BitVec 96
  deriving DecidableEq, Repr

/-- What a release or marker is for (10 R230-R237); a fence by when its wait began. -/
inductive RelFor where
  | store (id : Nat)
  | atomic (id : Nat)
  | fence (since : Nat)
  | marker (id : Nat)
  | pend (id : Nat)
  | grid (part launch : Nat)
  | stop (part ctx : Nat)
  deriving DecidableEq, Repr

/-- A release that waits for marker acknowledgements or back-invalidation answers (10 R235, R236, R450): its number on its
core, the tag of its markers, its PC and lanes, its colours, the devices it marked and those that have answered, the (colour,
device) pairs sent to since, and its lines: while told is false those to back-invalidate, then the numbers of the
back-invalidations not yet answered. -/
structure Release where
  id : Nat
  core : Nat
  no : W32
  tag : W32
  tid : Nat
  g : Nat
  pc : Pc
  mask : Mask
  colours : Byte
  devs : List Nat
  acked : List Nat
  since : List (Nat × Nat)
  lines : List Nat
  told : Bool
  why : RelFor
  deriving DecidableEq, Repr

/-- Why a fabric request is outstanding. code is that of a query (log 13); an orphan is an invocation of a partition that has
been reset since (19 R435). -/
inductive ReqFor where
  | load (tid g id lane : Nat)
  | atomic (tid g id lane : Nat)
  | store (r : StoreRef)
  | red (r : StoreRef)
  | copyRead (core id key : Nat)
  | copyWrite (core id sector : Nat)
  | didx (core known : Nat)
  | invoke (tid g id : Nat) (d : Operand) (up : Option Nat) (seq : Nat) (payload : List Byte)
  | handle (tid g : Nat) (d : Operand) (code : Nat)
  | gather (tid g va : Nat)
  | collWrite (tid g id : Nat)
  | recvWrite (r : StoreRef)
  | send (tid g id : Nat) (d : Operand) (ident : Nat) (isReply : Bool)
  | standin (part ctx ident sector : Nat)
  | srcRead (tid id sector : Nat)
  | orphan (part : Nat)
  deriving DecidableEq, Repr

/-- An outstanding fabric request, by its tag (19 R436). -/
structure Req where
  tag : W32
  dev : Nat
  why : ReqFor
  deriving DecidableEq, Repr

/-- A collective that a member on this device has joined (18 R425-R427): its group and operation, the descriptor's fields,
this member's elements, the elements that have arrived (key: member times 2^40 plus element offset; member 4096 for the
result), the result, the status so far, and the writes of DST under way. root is the member that gathers and sends the
result, ord which collective of its generation and list it is for this member (R426). -/
structure Coll where
  tid : Nat
  g : Nat
  id : Nat
  part : Nat
  mask : Mask
  d : Operand
  op : Nat
  tag : Nat
  rnd : Nat
  sat : Bool
  gen : Nat
  members : List Nat
  self : Nat
  root : Nat
  dst : Nat
  count : Nat
  got : SMap (List Byte)
  result : Option (List Byte)
  flags : Nat
  status : Nat
  wrote : Bool
  acks : Nat
  ord : Nat
  deriving DecidableEq, Repr

/-- What is done with bytes that are read after issue (10 R240, 18 R415, R426): an invocation with its descriptor, the register
of its handle and its upstream handle, or a member's elements. -/
inductive SrcWork where
  | invoke (desc : List Byte) (d : Operand) (up : Option Nat)
  | coll
  deriving DecidableEq, Repr

/-- Bytes that an operation reads after its issue, as copy sources (10 R238): where they are, the sectors read, and those asked
of other devices with the bytes known. -/
structure SrcRead where
  tid : Nat
  g : Nat
  id : Nat
  va : Nat
  n : Nat
  got : SMap (List Byte)
  asked : List (Nat × Nat)
  work : SrcWork
  deriving DecidableEq, Repr

/-- An endpoint send or an invocation with its status or handle known, to be written at completion (18 R413). -/
structure ColDone where
  tid : Nat
  g : Nat
  id : Nat
  d : Operand
  val : W64
  deriving DecidableEq, Repr

/-- An error that a checked read meets (06 R154): memory kind of R161, the addresses, corrected / transient / lasting
as 0, 1, 2. The environment's (assumption log 7). -/
structure MemErr where
  kind : Nat
  lo : Nat
  hi : Nat
  outcome : Nat
  deriving DecidableEq, Repr

/-- The copy whose credit last left a barrier's SECTORS below 0 (09 R212): the barrier, the group and instruction that
issued the copy, and the address it named. -/
structure Credit where
  loc : Loc
  tid : Nat
  g : Nat
  pc : Pc
  mask : Mask
  va : Nat
  deriving DecidableEq, Repr

/-- What leaves the device: a packet on a path, an answer to a host or management request (assumption log 1). -/
inductive Out where
  | packet (p : Packet)
  | zaron (f : ZFrame)
  | mctp (dst : Byte) (bytes : List Byte)
  | spdm (doe : Bool) (bytes : List Byte)
  | cxlData (part off : Nat) (bytes : List Byte)
  | cxlDone (part off : Nat)
  | cxlError (part off : Nat)
  | regRead (val : W64)
  | trapRead (r : TrapRec)
  | backInvalidate (id line : Nat)
  deriving DecidableEq, Repr

/-- A marker copy that has arrived and is not acknowledged (10 R235): its device, core and release number, the set of the paths
that it has taken (24 R449), and when it came; a refused write too (R235). -/
structure MarkCopy where
  dev : Nat
  core : Nat
  no : Nat
  paths : Nat
  at_ : Nat
  deriving DecidableEq, Repr

/-- The state of SPDM (19 R441): requests answered so far as far as they gate later ones, the session, and the transcripts of
the messages that signatures cover: those of the negotiation, of digests and certificates, and of measurements. -/
structure SpdmState where
  version : Bool
  caps : Bool
  algs : Bool
  session : Option (List Byte)
  finished : Bool
  vca : List Byte
  certs : List Byte
  meas : List Byte
  deriving DecidableEq, Repr

/-- A path update waiting to be applied (08 R199): its SEQ and where its frame came from, destination and eight entries. -/
structure PathUpd where
  seq : W32
  src : BitVec 48
  dst : Nat
  entries : List W64
  deriving DecidableEq, Repr

/-- The state of the X9, with the model's own fields last. edges are the sealed edges but the ports (01 R23): 0 to 3 the ring
links, 4 to 7 the compute dies' interfaces to their DRAM, 8 to 11 to their SRAM, 12 the CXL link, its key 0 while IDE has
none. packed lists the lines of DRAM that are stored compressed (06 R149). issuers numbers the groups that have forwarded
invocations, and invSeqs the invocations of each number to each handle (07 R175). -/
structure State where
  rclk : W64
  home : SMap Byte
  lineKey : SMap Nat
  packed : SMap Bool
  memdone : Bool
  caldone : Bool
  imgfail : Bool
  ready : Bool
  clparterr : Bool
  pfBusy : Bool
  pfErr : Bool
  pfWord : W64
  pfOps : SMap W64
  teams : SMap Team
  cores : SMap Core
  clusters : SMap Cluster
  parts : SMap Partition
  paths : SMap W64
  pathUpds : List PathUpd
  handles : SMap HEntry
  opt : SMap OptEntry
  units : SMap Pm
  errcnt : SMap W64
  ports : SMap Port
  edges : SMap Edge
  slot : List Byte
  slotOk : Bool
  runImage : List Byte
  reefSeq : Option W32
  reefLevels : List Nat
  pathSeq : Option W32
  eid : Byte
  spdm : SpdmState
  cxlWidth : Nat
  reqs : List Req
  nextTag : W32
  releases : List Release
  marks : List MarkCopy
  goneW : List MarkCopy
  lineSeq : SMap W32
  colls : List Coll
  srcs : List SrcRead
  issuers : List (Nat × Nat)
  invSeqs : SMap (BitVec 16)
  colDone : List ColDone
  collQ : List Packet
  credits : List Credit
  keyNext : Nat
  errs : List MemErr
  agenda : List Instr
  cur : Option Issuer
  out : List Out
  hostMem : SMap Byte
  free : Nat
  nextTid : Nat
  nextOp : Nat
  ticket : Nat
  deriving DecidableEq, Repr

/-! ## Faults and refusals -/

/-- Why a step stops. -/
inductive Fault where
  /-- Raised by an event whose guard does not hold in the state: the spec does not let the machine take that step now,
  and nothing happens. Safe. -/
  | notEnabled
  /-- Raised by an encodable instruction executed while no agent is selected to issue it (State.cur is none or names
  no such agent). Safe: no group or DXP of the spec issues it. -/
  | noIssuer
  deriving DecidableEq, Repr

/-- Why a step is refused. -/
inductive Refusal where
  /-- Raised by exec's arm of an instruction that has no meaning yet. Safe. -/
  | notModelled (mnemonic : String)
  deriving DecidableEq, Repr

/-! ## Values at reset and start -/

/-- An alarm slot neither armed nor expired (03 R66). -/
def Alarm.off : Alarm := ⟨false, false, 0⟩
/-- An empty call stack. -/
def Calls.empty : Calls := ⟨[], 0⟩
/-- An empty ring (02 R28). -/
def Ring.empty : Ring := ⟨0, 0, 0, 0, false, false⟩
/-- A clear convergence register (05 R109). -/
def Cv.clear : Cv := ⟨0, 0, false, none, 0⟩
/-- A mapped line never filled (06 R144). -/
def MapLine.off : MapLine := ⟨false, 0, 0⟩
/-- A byte the core view does not hold. -/
def CvByte.absent : CvByte := ⟨false, 0, false, 0, false, 0, 0⟩
/-- A counter at reset (09 R217). -/
def Pm.reset : Pm := ⟨false, false, 0, 0, 0, ⟨0, false, 0, 0, 0, false⟩⟩
/-- An endpoint entry that is not bound. -/
def Ep.unbound : Ep := ⟨false, 0, 0, 0, 0, 0⟩
/-- A free handle entry (log 2). -/
def HEntry.freeE : HEntry := ⟨0, 0, 0, 0, 0, 0, 0, 0, [], [], [], []⟩
/-- An operating point entry that is not valid. -/
def OptEntry.off : OptEntry := ⟨false, false, 0, 0, 0, 0, 0, 0⟩
/-- A port that has not trained (log 2). -/
def Port.down : Port := ⟨false, 0, 0⟩
/-- An edge under its first key; the CXL link without one (log 2). -/
def Edge.start : Edge := ⟨0, 0⟩
/-- A DXP at reset (05 R125). -/
def Dxp.reset : Dxp := ⟨[], none, [], 0, [], []⟩
/-- A core at reset (log 2). -/
def Core.reset : Core :=
  { view := [], rank := 0, wc := [], owed := [], engine := [], copies := [], held := [], dxp := Dxp.reset, pm := []
    vatTid := [], rrTeam := [], temp := 0, droop := 0, hot := false, pktNo := [], relNo := 0, nextQ := 0
    bars := [] }
/-- A cluster at reset (02 R45, R47, 07 R174, 05 R127, R129, R130). -/
def Cluster.reset : Cluster :=
  { valid := false, part := 0, droopw := 0x10, hotT := 0x5F, gap := 0x04, widthm1 := 0x3, wcage := 0x0080, evq := []
    evSeq := 0, lost := 0, lostPend := 0, step := 46, thermal := 46, droopCap := none, opCap := none, opKey := none
    mState := 0, mComp := 0, mCtx := 0, mEntry := 0, mHandler := 0, mArgs := 0, mImage := 0, rind := [] }
/-- A context that does not exist. -/
def Context.off : Context :=
  { valid := false, root := 0, gen := 0, created := 0, stopsum := 0, stop := none, brine := [], eps := [], recvq := []
    taken := [], deferred := [], asked := [], nextId := 0, brineDrop := 0, standins := 0, lateReply := 0, stepped := []
    standing := [] }
/-- A partition at reset (05 R128, 08 R187, R205, 09 R220, 18 R410, 19 R432). -/
def Partition.reset : Partition :=
  { en := false, busy := false, halt := false, halted := false, recBase := 0, recAt := 0, tenlim := false, rank := 0, dbgCode := 0
    dbgStopped := false, dbgStep := false, dbgBrken := false, epoch := 0, present := 0, keyGen := 0, ringBase := 0
    ringSize := 0, gates := 0, noticeLost := 0, demote := 0, pgreqDrop := 0, noticeDrop := 0, launchDrop := 0
    collAbort := 0, reefFrame := 0, reefTime := [], launchq := [], nextLaunch := 0, grids := []
    ctxs := [], measured := [], collOrds := [], abroad := [], pgAsked := [], pmSaved := [] }
/-- The wavefront state at team start (16 R365); the bytes of the loaded rule are undefined there (log 4). -/
def Wave.start (rule : List Byte) : Wave :=
  { rule := rule, lo := 0x80000000, hi := 0x7FFFFFFF, hasRule := false, issuedRule := false, issuedLo := 0x80000000
    issuedHi := 0x7FFFFFFF, hasBest := false, hasLast := false, best := 0, bestCell := 0, lastScore := 0, lastCell := 0 }

/-- The machine right after reset, READY having just been set (00 R9, 05 R126, 06 R155): no partition is enabled, no
team exists, memory is zero under the reset key, and every register is at its At reset value; the values the spec does
not state are those of assumption log 2. -/
def State.reset : State :=
  { rclk := 0, home := [], lineKey := [], packed := [], memdone := true, caldone := true, imgfail := false, ready := true
    clparterr := false, pfBusy := false, pfErr := false, pfWord := 0, pfOps := [], teams := [], cores := []
    clusters := [], parts := [], paths := [], pathUpds := [], handles := [], opt := [], units := [], errcnt := []
    ports := [], edges := [], slot := [], slotOk := true, runImage := [], reefSeq := none, reefLevels := [], pathSeq := none, eid := 0
    spdm := ⟨false, false, false, none, false, [], [], []⟩, cxlWidth := 0, reqs := [], nextTag := 0, releases := []
    marks := [], goneW := []
    lineSeq := [], colls := [], srcs := [], issuers := [], invSeqs := []
    colDone := [], collQ := [], credits := [], keyNext := 1, errs := [], agenda := [], cur := none, out := [], hostMem := [], free := 0
    nextTid := 0, nextOp := 0, ticket := 0 }

end Sys2Proof.Machine
end

