-- ==== Sys2Proof/Machine/Access.lean ====
section
/-!
DEFINITION. Machine/Access.lean: the accessors of the state: every read and write of a team, group, core, cluster,
partition or context goes through these, and so does every draw of a free value (assumption log 4).
-/
namespace Sys2Proof.Machine

/-! ## Teams and groups -/

/-- The team that the model names tid. -/
def State.team? (s : State) (tid : Nat) : Option Team := SMap.find s.teams tid

/-- Put a team. -/
def State.setTeam (s : State) (tid : Nat) (t : Team) : State := { s with teams := SMap.put s.teams tid t }

/-- Change a team that is there. -/
def State.modTeam (s : State) (tid : Nat) (f : Team → Team) : State :=
  match s.team? tid with
  | some t => s.setTeam tid (f t)
  | none => s

/-- Group g of a team. -/
def State.group? (s : State) (tid g : Nat) : Option Group :=
  match s.team? tid with
  | some t => t.groups[g]?
  | none => none

/-- Change a group of a team. -/
def Team.modGroup (t : Team) (g : Nat) (f : Group → Group) : Team := { t with groups := modAt t.groups g f }

/-- Change a group. -/
def State.modGroup (s : State) (tid g : Nat) (f : Group → Group) : State := s.modTeam tid fun t => t.modGroup g f

/-- The waits of a group's instructions: that of the frontier it runs, and, while a handler runs, that of its own (07 R158). -/
def Group.holds (g : Group) : List Hold :=
  g.hold.toList ++ (match g.handler with | some h => h.stash.toList | none => [])

/-- Change the waits of a group's instructions. -/
def Group.mapHolds (g : Group) (f : Hold → Hold) : Group :=
  { g with hold := g.hold.map f, handler := g.handler.map fun h => { h with stash := h.stash.map f } }

/-! ## Cores, clusters, partitions, contexts -/

def State.core (s : State) (k : Nat) : Core := SMap.get Core.reset s.cores k
def State.setCore (s : State) (k : Nat) (c : Core) : State := { s with cores := SMap.set Core.reset s.cores k c }
def State.modCore (s : State) (k : Nat) (f : Core → Core) : State := s.setCore k (f (s.core k))

def State.cluster (s : State) (n : Nat) : Cluster := SMap.get Cluster.reset s.clusters n
def State.setCluster (s : State) (n : Nat) (c : Cluster) : State :=
  { s with clusters := SMap.set Cluster.reset s.clusters n c }
def State.modCluster (s : State) (n : Nat) (f : Cluster → Cluster) : State := s.setCluster n (f (s.cluster n))

def State.part (s : State) (p : Nat) : Partition := SMap.get Partition.reset s.parts p
def State.setPart (s : State) (p : Nat) (x : Partition) : State :=
  { s with parts := SMap.set Partition.reset s.parts p x }
def State.modPart (s : State) (p : Nat) (f : Partition → Partition) : State := s.setPart p (f (s.part p))

def State.ctx (s : State) (p c : Nat) : Context := SMap.get Context.off (s.part p).ctxs c
def State.setCtx (s : State) (p c : Nat) (x : Context) : State :=
  s.modPart p fun q => { q with ctxs := SMap.set Context.off q.ctxs c x }
def State.modCtx (s : State) (p c : Nat) (f : Context → Context) : State := s.setCtx p c (f (s.ctx p c))

/-- The cluster of a core: its number is 12 x cluster + position (07 R164); the model numbers the mast core of cluster
n as 192 + n. -/
def clusterOf (core : Nat) : Nat := if core < 192 then core / 12 else core - 192

/-- The DXP of a core. -/
def State.modDxp (s : State) (k : Nat) (f : Dxp → Dxp) : State := s.modCore k fun c => { c with dxp := f c.dxp }

/-! ## Free values and tickets (log 4) -/

/-- Draw a free 64-bit value. -/
def State.draw (s : State) : W64 × State := (Config.freeWord s.free, { s with free := s.free + 1 })

/-- Draw n free bytes. -/
def State.drawBytes (s : State) (n : Nat) : List Byte × State :=
  ((List.range n).map (Config.freeByte s.free), { s with free := s.free + 1 })

/-- Draw a free choice. -/
def State.drawChoice (s : State) : Nat × State := (Config.freeChoice s.free, { s with free := s.free + 1 })

/-- Take the next ticket: the order in which waits begin and stores issue. -/
def State.tick (s : State) : Nat × State := (s.ticket, { s with ticket := s.ticket + 1 })

/-- Take the next operation identifier. -/
def State.newOp (s : State) : Nat × State := (s.nextOp, { s with nextOp := s.nextOp + 1 })

/-- Record what leaves the device (log 1). -/
def State.emit (s : State) (o : Out) : State := { s with out := o :: s.out }

/-! ## Time (03 R57-R59) -/

/-- VCLK of a context: the stop value inside a stop interval, RCLK - VSTOPSUM - C outside one (R58, R59). -/
def vclkOf (s : State) (c : Context) : W64 :=
  match c.stop with
  | some st => st.s
  | none => s.rclk - c.stopsum - c.created

/-- VCLK of a partition's context. -/
def State.vclk (s : State) (p c : Nat) : W64 := vclkOf s (s.ctx p c)

/-- The context is inside a stop interval (R59). -/
def State.stopped (s : State) (p c : Nat) : Bool := (s.ctx p c).stop.isSome

/-! ## Performance counters (09 R217-R219, R221) -/

/-- A cycle begins for a counter: its COUNT and its selection are those that the cycle's increments and reads go by. -/
def Pm.roll (x : Pm) : Pm := { x with cyc := ⟨x.count, x.en, x.vf, x.event, 0, false⟩ }

/-- The cycle's increments wrap the counter. -/
def Pm.wraps (x : Pm) : Bool := decide (2 ^ 48 ≤ x.cyc.old.toNat + x.cyc.inc)

/-- n more increments in the cycle: their sum is added; COUNT wraps and sets OVF; they are lost where the counter has been
reprogrammed in the cycle, but a wrap still sets OVF (R217, R221). -/
def Pm.add (x : Pm) (n : Nat) : Pm :=
  let c : PmCycle := { x.cyc with inc := x.cyc.inc + n }
  let y : Pm := { x with cyc := c }
  { y with count := if c.prog then x.count else c.old + BitVec.ofNat 48 c.inc, ovf := x.ovf || y.wraps }

/-- A read of COUNT: as it stood before the cycle's increments, or what a reprogramming has set (R221). -/
def Pm.seen (x : Pm) : BitVec 48 := if x.cyc.prog then x.count else x.cyc.old

/-- A counter is enabled for an event in the cycle. -/
def Pm.counts (x : Pm) (event : Nat) : Bool := x.cyc.en && x.cyc.event.toNat == event

/-- The counters of a core that a world switch has saved with its partition (R219). -/
def State.pmCopy (s : State) (k : Nat) : Option (SMap Pm) :=
  let c := s.cluster (clusterOf k)
  if c.valid then ((s.part c.part.toNat).pmSaved.find? fun e => e.1 == k).map Prod.snd else none

/-- Count n occurrences of a core event in every counter enabled for it. -/
def Core.count (c : Core) (event n : Nat) : Core :=
  { c with pm := c.pm.map fun e => if e.2.counts event then (e.1, e.2.add n) else e }

/-- Count a core event (R218). -/
def State.count (s : State) (core event n : Nat) : State :=
  if n = 0 || (s.core core).pm.isEmpty then s else s.modCore core fun c => c.count event n

/-- Count a shared-unit event for the requests of one partition: unit u's counters are 4u to 4u+3 (R217). A cycle of such a unit
is a period of the reference clock (R218 says no more of its own clock; DESIGN CHOICE, log 21). -/
def State.countUnit (s : State) (u part event n : Nat) : State :=
  { s with units := s.units.map fun e =>
      if e.1 / 4 == u && e.2.counts event && e.2.cyc.vf.toNat == part then (e.1, e.2.add n) else e }

end Sys2Proof.Machine
end

