-- ==== Sys2Proof/Machine/Memory.lean ====
section
/-!
DEFINITION. Machine/Memory.lean: the named operations over memory: home memory under its keys (06 R149-R151), the
physical layout (R134, R135), translation (R133, R136, R190), scratchpad addresses (R142, R143), the core view
(10 R226, R227), mapped scratchpad lines (06 R144) and host memory.
-/
namespace Sys2Proof.Machine

/-! ## Home memory and keys -/

/-- The visible DRAM (R134). -/
def isDram (pa : Nat) : Bool := decide (pa < 0x3000000000) && decide (pa % 0xC00000000 < 0xBF2000000)

/-- The name of a partition's key of a compartment; 0 is the reset key of the physical function (log 6). -/
def keyOf (p : Partition) (comp : Nat) : Nat := if p.keyGen = 0 then 0 else 8 * p.keyGen + comp

/-- Added to the key of a page that takes the forerunner path, and of a context image: its lines are not compressed (06
R150). -/
def frpKey : Nat := 2 ^ 63

/-- The name of the key alone. -/
def keyName (key : Nat) : Nat := key % frpKey

/-- A write to DRAM compresses its line: not on the forerunner path, which pages of a non-zero compartment take whatever their
FRP bit says, and not in far SRAM (R149, R150). -/
def packs (key pa : Nat) : Bool := isDram pa && decide (key < frpKey) && key % 8 == 0

/-- The name of the key under which a line of home memory is written. -/
def State.keyAt (s : State) (pa : Nat) : Nat := SMap.get 0 s.lineKey (pa / 128)

/-- A byte of home memory read under a key: under another key it is a free value (06 R151). -/
def State.homeByte (s : State) (key pa : Nat) : Byte :=
  let b := SMap.get 0#8 s.home pa
  if s.keyAt pa = keyName key then b else Config.otherKey (keyName key) pa b

/-- n bytes of home memory. -/
def State.homeBytes (s : State) (key pa n : Nat) : List Byte := (List.range n).map fun i => s.homeByte key (pa + i)

/-- Bring a line under a key: the bytes that the next write leaves alone are what they decrypt to under it. -/
def State.rekey (s : State) (key pa : Nat) : State :=
  let ln := pa / 128
  let k := keyName key
  if SMap.get 0 s.lineKey ln = k then s
  else
    { s with home := SMap.replace 0#8 s.home (128 * ln) 128 (fun a => Config.otherKey k a (SMap.get 0#8 s.home a))
             lineKey := SMap.set 0 s.lineKey ln k }

/-- Write a byte of home memory under a key: the line is stored anew, compressed or whole (R149). -/
def State.homeSet (s : State) (key pa : Nat) (b : Byte) : State :=
  let s1 := s.rekey key pa
  { s1 with home := SMap.set 0#8 s1.home pa b, packed := SMap.set false s1.packed (pa / 128) (packs key pa) }

/-- Write bytes of home memory. -/
def State.homeWrite (s : State) (key pa : Nat) : List Byte → State
  | [] => s
  | b :: bs => (s.homeSet key pa b).homeWrite key (pa + 1) bs

/-- A physical address that names this X9's own device is one of its own (R134). -/
def localPa (pa : Nat) : Nat := if bit pa 51 && bits pa 50 39 == Config.devNum.toNat then bits pa 38 0 else pa

/-- A byte of a structure that the device reads for itself (partition record, page tables, gates): written by S under
the reset key or under the partition's memory key (log 6). Another device's memory holds none of them (log 12). -/
def State.devByte (s : State) (part pa : Nat) : Byte :=
  let a := localPa pa
  if s.keyAt a = 0 then SMap.get 0#8 s.home a else s.homeByte (keyOf (s.part part) 0) a

/-- A 64-bit word of such a structure. -/
def State.devWord (s : State) (part pa : Nat) : Nat :=
  ofBytes ((List.range 8).map fun i => s.devByte part (pa + i))

/-! ## Host memory -/

/-- n bytes of host memory. -/
def State.hostBytes (s : State) (a n : Nat) : List Byte := SMap.range 0#8 s.hostMem a n
/-- A 64-bit word of host memory. -/
def State.hostWord (s : State) (a : Nat) : Nat := ofBytes (s.hostBytes a 8)
/-- Write host memory. -/
def State.hostWrite (s : State) (a : Nat) (bs : List Byte) : State :=
  { s with hostMem := SMap.setRange 0#8 s.hostMem a bs }

/-! ## The physical layout (R134, R135) -/

/-- The far SRAM. -/
def isFar (pa : Nat) : Bool := decide (0x4000000000 ≤ pa) && decide (pa < 0x4040000000)
/-- An address that a page may name on this device. -/
def mappable (pa : Nat) : Bool := isDram pa || isFar pa
/-- The stack of an address (R134). -/
def stackOf (pa : Nat) : Nat := if isFar pa then (pa - 0x4000000000) / 0x10000000 else pa / 0xC00000000
/-- The memory kind of R161: 1 DRAM, 2 far SRAM. -/
def memKind (pa : Nat) : Nat := if isFar pa then 2 else 1

/-- Where a physical address of a page entry lies: bit 51 names remote memory, and this X9's own number is local. -/
def locOf (pa key : Nat) : Loc :=
  let a := localPa pa
  if bit a 51 then .remote (bits a 50 39) (bits a 38 0) else .mem a key

/-! ## Translation (R133, R136, R147, R152, R190) -/

/-- What an access is, for its permissions and the DETAIL of a non-resident page. -/
inductive AccKind where
  | load | store | atomic | fill | image | fetch
  deriving DecidableEq, Repr

/-- A failed check: its place in the order of R136, and the record's cause, DETAIL and ADDR. -/
structure AccErr where
  rank : Nat
  cause : Nat
  detail : Nat
  addr : Nat
  deriving DecidableEq, Repr

/-- A leaf found by the walk: its entry and the size of its page. -/
structure Leaf where
  entry : Nat
  size : Nat
  deriving DecidableEq, Repr

/-- A page that is absent or not resident. -/
def nonResident (k : AccKind) (va : Nat) : AccErr :=
  ⟨2, 7, (match k with | .load => 0 | .fetch => 0 | .store => 1 | .atomic => 2 | _ => 3), va⟩

/-- A table entry with a reserved bit set (R185, R190). -/
def badEntry (pa : Nat) : AccErr := ⟨1, 2, 0xFF, pa⟩

/-- A pointer entry (R190): the table it names. ADDR reaches above physical address bit 51 in entry bits 63 to 52: a value
there is out of the field's range (R185). -/
def pointer (e : Nat) (k : AccKind) (va pa : Nat) (leafBit : Bool) : Except AccErr Nat :=
  if !bit e 0 then .error (nonResident k va)
  else if bits e 11 3 ≠ 0 ∨ bits e 63 52 ≠ 0 ∨ (leafBit ∧ bit e 1) then .error (badEntry pa)
  else if !bit e 2 then .error (nonResident k va)
  else .ok (4096 * bits e 63 12)

/-- A leaf entry (R190): low is the number of ADDR bits that must be 0. -/
def leafOf (e : Nat) (k : AccKind) (va pa low size : Nat) : Except AccErr Leaf :=
  if !bit e 0 then .error (nonResident k va)
  else if bit e 11 ∨ bits e 63 52 ≠ 0 ∨ bits e 63 12 % 2 ^ low ≠ 0 ∨ (bit e 6 ∧ (!bit e 5 ∨ bit e 4)) then
    .error (badEntry pa)
  else if !bit e 2 then .error (nonResident k va)
  else .ok ⟨e, size⟩

/-- The upper three levels. -/
def State.walkPtrs (s : State) (part : Nat) (k : AccKind) (va : Nat) : List Nat → Nat → Except AccErr Nat
  | [], table => .ok table
  | sh :: shs, table =>
    let pa := table + 8 * (va / 2 ^ sh % 512)
    match pointer (s.devWord part pa) k va pa true with
    | .ok t => s.walkPtrs part k va shs t
    | .error x => .error x

/-- The walk of R190 from a context's root. -/
def State.walk (s : State) (part root : Nat) (k : AccKind) (va : Nat) : Except AccErr Leaf :=
  match s.walkPtrs part k va [48, 39, 30] root with
  | .error x => .error x
  | .ok t0 =>
    let pa := t0 + 8 * (va / 2 ^ 21 % 512)
    let e := s.devWord part pa
    if bit e 0 && bit e 1 then leafOf e k va pa 9 (2 ^ 21)
    else match pointer e k va pa false with
      | .error x => .error x
      | .ok t1 =>
        let pb := t1 + 8 * (va / 2 ^ 16 % 32)
        leafOf (s.devWord part pb) k va pb 4 (2 ^ 16)

/-- The first address of the page that an address lies in: a 2 MiB page where the walk comes to a leaf at level 0, resident
or not, and else a 64 KiB page. -/
def State.pageBase (s : State) (part root va : Nat) : Nat :=
  match s.walkPtrs part .load va [48, 39, 30] root with
  | .error _ => va / 2 ^ 16 * 2 ^ 16
  | .ok t0 =>
    let e := s.devWord part (t0 + 8 * (va / 2 ^ 21 % 512))
    if bit e 0 && bit e 1 then va / 2 ^ 21 * 2 ^ 21 else va / 2 ^ 16 * 2 ^ 16

/-- The protection checks of R136, in their order, of a page for an agent of compartment comp. A page that names memory by this
device's own number (bit 51) is not fetched from, like one that names another device's (DESIGN CHOICE, log 12). -/
def leafCheck (e : Nat) (comp : Nat) (k : AccKind) (va : Nat) : Except AccErr Unit :=
  let pa := 4096 * bits e 63 12
  let c := bits e 10 8
  let okPage := bit pa 51 && (bits pa 50 39 != Config.devNum.toNat || mappable (bits pa 38 0)) || (!(bit pa 51) && mappable pa)
  if k = .fetch then
    if okPage && !(bit pa 51) && bit e 5 && (c == comp || c == 0) then .ok () else .error ⟨3, 8, 9, va⟩
  else if !okPage then .error ⟨3, 8, 7, va⟩
  else if k = .image then .ok ()
  else if c ≠ comp ∧ c ≠ 0 then .error ⟨4, 8, 2, va⟩
  else if bit e 6 then .error ⟨5, 8, 3, va⟩
  else
    let r := bit e 3
    let w := bit e 4
    let ok := match k with | .store => w | .atomic => r && w | _ => r
    if ok then .ok () else .error ⟨6, 8, 1, va⟩

/-- Translate one address (R136): the place it names, with the key of its page. -/
def State.translate (s : State) (part ctx comp : Nat) (k : AccKind) (va : Nat) : Except AccErr Loc :=
  if 2 ^ 56 ≤ va then .error ⟨0, 8, 4, va⟩
  else match s.walk part (s.ctx part ctx).root k va with
    | .error x => .error (if k = .fetch ∧ x.cause = 7 then ⟨3, 8, 9, va⟩ else x)
    | .ok lf => match leafCheck lf.entry comp k va with
      | .error x => .error x
      | .ok () =>
        .ok (locOf (4096 * bits lf.entry 63 12 + va % lf.size)
          (keyOf (s.part part) (bits lf.entry 10 8) + (if bit lf.entry 7 ∨ k = .image then frpKey else 0)))

/-- The context and compartment of a team. -/
def Team.ctx (t : Team) : Nat := t.lrec.ctx
def Team.comp (t : Team) : Nat := t.lrec.comp

/-- Translate for a team. -/
def State.xlate (s : State) (t : Team) (k : AccKind) (va : Nat) : Except AccErr Loc :=
  s.translate t.part t.ctx t.comp k va

/-! ## Scratchpad addresses (R142, R143) -/

/-- The bytes of a team's scratchpad allocation. -/
def Team.spadSize (t : Team) : Nat := if t.mast then 0 else 4096 * t.lrec.scratch

/-- The teams of a grid's cluster set (R143). -/
def Team.setSize (t : Team) : Nat := t.lrec.footW * t.lrec.footH

/-- The team at a position of the issuing team's cluster set. In a set of one team, position 0 is the team's own allocation
(DESIGN CHOICE, log 12: R142 says what SEL 0 is only for larger sets). -/
def State.setMember (s : State) (t : Team) (pos : Nat) : Option (Nat × Team) :=
  if t.mast || decide (t.setSize ≤ pos) then none
  else
    let idx := t.index / t.setSize * t.setSize + pos
    s.teams.find? fun e => !e.2.mast && e.2.part == t.part && e.2.launch == t.launch && e.2.index == idx

/-- The place that a scratchpad access of n bytes names, none for the protection trap of R142. -/
def State.spadLoc (s : State) (tid : Nat) (t : Team) (a n : Nat) : Option Loc :=
  if 2 ^ 28 ≤ a ∨ bits a 23 21 ≠ 0 then none
  else
    let sel := bits a 27 24
    let off := bits a 20 0
    let m := if sel = 15 then some (tid, t) else if sel < 12 then s.setMember t sel else none
    match m with
    | some (id, u) => if off + n ≤ u.spadSize then some (.spad id off) else none
    | none => none

/-! ## Scratchpad bytes and mapped lines (R144) -/

/-- The offset lies in a mapped range. -/
def Team.mapped (t : Team) (off : Nat) : Bool :=
  t.spmap.any fun m => decide (4096 * m.off ≤ off) && decide (off < 4096 * (m.off + m.len % 512))

/-- n bytes of a scratchpad allocation. -/
def Team.spadBytes (t : Team) (off n : Nat) : List Byte := SMap.range 0#8 t.spad off n

/-- Mark the byte of a mapped line dirty (R144). -/
def Team.dirtyByte (t : Team) (tick off : Nat) : Team :=
  if t.mapped off then
    let ln := off / 128
    let l := SMap.get MapLine.off t.lines ln
    let l' := { l with dirty := l.dirty ||| (1#128 <<< (off % 128)), since := if l.dirty = 0 then tick else l.since }
    { t with lines := SMap.set MapLine.off t.lines ln l' }
  else t

/-- Write bytes of a scratchpad allocation; a store into a mapped line makes its bytes dirty. -/
def Team.spadWrite (t : Team) (tick off : Nat) : List Byte → Team
  | [] => t
  | b :: bs => (({ t with spad := SMap.set 0#8 t.spad off b } : Team).dirtyByte tick off).spadWrite tick (off + 1) bs

/-- Write scratchpad bytes in the state. -/
def State.spadWrite (s : State) (tid off : Nat) (bs : List Byte) : State :=
  { (s.modTeam tid fun t => t.spadWrite s.ticket off bs) with ticket := s.ticket + 1 }

/-- n bytes at a scratchpad place. -/
def State.spadBytes (s : State) (tid off n : Nat) : List Byte :=
  match s.team? tid with
  | some t => t.spadBytes off n
  | none => List.replicate n 0#8

/-- Lines that an access touches and whose valid bit is clear. -/
def Team.missing (t : Team) (off n : Nat) : Bool :=
  (List.range (ceilDiv (off % 128 + n) 128)).any fun i =>
    t.mapped (128 * (off / 128 + i)) && !(SMap.get MapLine.off t.lines (off / 128 + i)).valid

/-! ## The core view (10 R222, R226, R227) -/

/-- A line of a core view holds nothing. -/
def Core.lineAbsent (c : Core) (ln : Nat) : Bool := c.view.all fun e => decide (e.1 / 128 ≠ ln)

/-- Fill the clean bytes of a line from home memory (R227). -/
def State.cvFill (s : State) (core ln key : Nat) : State :=
  s.modCore core fun c =>
    { c with view := SMap.replace CvByte.absent c.view (128 * ln) 128 fun a =>
        let b := SMap.get CvByte.absent c.view a
        if b.dirty then b else ⟨true, s.homeByte key a, false, 0, false, key, 0⟩ }

/-- A byte as a core sees it once its line is filled: the core view's byte, or home memory's. -/
def State.cvByte (s : State) (core key pa : Nat) : Byte :=
  let b := SMap.get CvByte.absent (s.core core).view pa
  if b.present then b.val else s.homeByte key pa

/-- Make a byte of a core view dirty (R226), with a release mark for a team-scope release. A byte that is dirty already was made
dirty when it first was (R232). -/
def Core.cvPut (c : Core) (key pa : Nat) (b : Byte) (mark : Bool) : Core :=
  let old := SMap.get CvByte.absent c.view pa
  { c with view := SMap.set CvByte.absent c.view pa ⟨true, b, true, if old.dirty then old.rank else c.rank, mark, key, c.rank⟩
           rank := c.rank + 1 }

/-- Make bytes of a core view dirty. -/
def Core.cvWrite (c : Core) (key pa : Nat) (mark : Bool) : List Byte → Core
  | [] => c
  | b :: bs => (c.cvPut key pa b mark).cvWrite key (pa + 1) mark bs

/-- Write the dirty bytes that a test selects back to home memory, and mark them clean (R227). -/
def State.writeBack (s : State) (core : Nat) (p : Nat → CvByte → Bool) : State :=
  let c := s.core core
  let hit := c.view.filter fun e => e.2.dirty && p e.1 e.2
  let s1 := hit.foldl (fun (x : State) e => x.homeSet e.2.key e.1 e.2.val) s
  s1.modCore core fun c =>
    { c with view := c.view.map fun e => if e.2.dirty && p e.1 e.2 then (e.1, { e.2 with dirty := false, mark := false }) else e }

/-- Drop every line that has no dirty bytes (R231). -/
def Core.dropClean (c : Core) : Core :=
  { c with view := c.view.filter fun e => c.view.any fun d => decide (d.1 / 128 = e.1 / 128) && d.2.dirty }

/-- Remote-scope promotion (R232): before a byte is read, a core other than k that holds it dirty with a release mark
writes back every byte made dirty no later than the store that marked it. -/
def State.promote (s : State) (k pa : Nat) : State :=
  let hit := s.cores.filter fun e =>
    decide (e.1 ≠ k) && (let b := SMap.get CvByte.absent e.2.view pa; b.dirty && b.mark)
  hit.foldl (fun (x : State) e =>
    let b := SMap.get CvByte.absent e.2.view pa
    x.writeBack e.1 fun _ c => decide (c.rank ≤ b.markRank)) s

/-- An engine's write of local memory: home memory and any copy of the line in the engine's core view (R238). -/
def State.engineWrite (s : State) (core key pa : Nat) (bs : List Byte) : State :=
  (s.homeWrite key pa bs).modCore core fun c =>
    { c with view := c.view.map fun e =>
        if pa ≤ e.1 ∧ e.1 < pa + bs.length then (e.1, { e.2 with val := bs.getD (e.1 - pa) 0 }) else e }

/-! ## Errors that checked reads meet (R154; log 7) -/

/-- Count an error of a kind on a stack: 0 corrected, 1 transient, 2 lasting (09 R220). -/
def State.countErr (s : State) (stack kind outcome : Nat) : State :=
  let k := 8 * stack + kind
  let w := (SMap.get (0 : W64) s.errcnt k).toNat
  let c := bits w 63 32
  let t := bits w 31 16
  let l := bits w 15 0
  let v := match outcome with
    | 0 => min (c + 1) 0xFFFFFFFF * 2 ^ 32 + t * 2 ^ 16 + l
    | 1 => c * 2 ^ 32 + min (t + 1) 0xFFFF * 2 ^ 16 + l
    | _ => c * 2 ^ 32 + t * 2 ^ 16 + min (l + 1) 0xFFFF
  { s with errcnt := SMap.set 0 s.errcnt k (BitVec.ofNat 64 v) }

/-- The shared unit that repeats a read of a kind (09 R218): the DRAM interface of the stack for DRAM and the rind store in it,
the stack's ring link for a die edge (which of the links the spec does not say: DESIGN CHOICE, log 21). -/
def retryUnit (stack kind : Nat) : Option Nat :=
  if kind = 1 ∨ kind = 7 then some stack else if kind = 6 then some (4 + stack) else none

/-- A checked read of kind k over addresses lo to lo+n-1 for a partition: the environment's error for it, if any, is used up and
counted, and so is its retry where there is one (09 R218, event 0x47); true where it is lasting. -/
def State.checkRead (s : State) (part stack kind lo n : Nat) : State × Bool :=
  match s.errs.findIdx? fun e => e.kind == kind && decide (e.lo < lo + n) && decide (lo < e.hi) with
  | none => (s, false)
  | some i =>
    match s.errs[i]? with
    | none => (s, false)
    | some e =>
      let s1 := ({ s with errs := s.errs.eraseIdx i } : State).countErr stack kind e.outcome
      (match retryUnit stack kind with
      | some u => if e.outcome = 0 then s1 else s1.countUnit u part 0x47 1
      | none => s1, e.outcome == 2)

end Sys2Proof.Machine
end

