-- ==== Sys2Proof/Machine/Notices.lean ====
section
/-!
DEFINITION. Machine/Notices.lean: the records of the cluster event queue and the notices of the notice ring (07 R164-R166, R179,
R180), and posting a lasting error to both (06 R154).
-/
namespace Sys2Proof.Machine

/-- The position of a core in its cluster (07 R164); for a mast core it is a free value (log 4). -/
def posOf (s : State) (core : Nat) : Nat := if core < 192 then core % 12 else Config.freeChoice s.free % 16

/-- Append a record to the cluster event queue of a core (R164); the caller has checked for room. -/
def State.pushEv (s : State) (core kind : Nat) (w1 w2 w3 : W64) : State :=
  let cl := clusterOf core
  let c := s.cluster cl
  let w0 := BitVec.ofNat 64 (kind + 2 ^ 8 * posOf s core + 2 ^ 32 * c.evSeq.toNat)
  s.setCluster cl { c with evq := c.evq ++ [⟨w0, w1, w2, w3⟩], evSeq := c.evSeq + 1 }

/-- Records present in the queue of a core's cluster. -/
def State.evCount (s : State) (core : Nat) : Nat := (s.cluster (clusterOf core)).evq.length

/-- Post a lasting-error or group-halted record, or count it lost (R166). -/
def State.postOrLose (s : State) (core kind : Nat) (w1 w2 w3 : W64) : State :=
  if s.evCount core < 256 then s.pushEv core kind w1 w2 w3
  else s.modCluster (clusterOf core) fun c => { c with lost := satAdd c.lost 1, lostPend := c.lostPend + 1 }

/-- Free entries of a partition's notice ring (R180). -/
def State.noticeRoom (s : State) (p : Nat) : Nat :=
  let q := s.part p
  q.ringSize - (s.hostWord q.ringBase - s.hostWord (q.ringBase + 8))

/-- Write a notice at the ring's posting count (R179, R180). -/
def State.pushNotice (s : State) (p kind status : Nat) (w1 w2 w3 : Nat) : State :=
  let q := s.part p
  let n := s.hostWord q.ringBase
  let at_ := q.ringBase + 64 + 32 * (n % q.ringSize)
  (s.hostWrite at_ (toBytes 8 (kind + 2 ^ 8 * status) ++ toBytes 8 w1 ++ toBytes 8 w2 ++ toBytes 8 w3)).hostWrite
    q.ringBase (toBytes 8 (n + 1))

/-- Post a notice other than a page request: with the ring full it is dropped and counted (R180). -/
def State.postNotice (s : State) (p kind status : Nat) (w1 w2 w3 : Nat) : State :=
  if s.noticeRoom p = 0 then
    s.modPart p fun q => { q with noticeDrop := satAdd q.noticeDrop 1, noticeLost := q.noticeLost + 1 }
  else s.pushNotice p kind status w1 w2 w3

/-- Post a lasting error to the event queue, with the address of the access, and to the notice ring, with the physical
address pa: 0 for a memory inside a core or cluster, whose cells have none (07 R156, R164, R179; log 7). -/
def State.postError (s : State) (core part kind addr pa : Nat) (onWriteBack : Bool) : State :=
  (s.postOrLose core 4 (BitVec.ofNat 64 kind) (BitVec.ofNat 64 addr) (BitVec.ofNat 64 (b2n onWriteBack))).postNotice
    part 4 kind pa 0 0

end Sys2Proof.Machine
end

