-- ==== Sys2Proof/Machine/Image.lean ====
section
/-!
DEFINITION. Machine/Image.lean: the context image (05 R112-R115, 07 R160, 09 R209, R215, R216, 23 R447, R448): where a
register lives in memory, write-back and refill of its lines, and the exit record.
-/
namespace Sys2Proof.Machine

/-- The group image size G (R112). -/
def LaunchRec.groupSize (l : LaunchRec) : Nat := 4096 * ceilDiv (0xA000 + 256 * l.spill) 4096

/-- The team image size T (R186). -/
def LaunchRec.teamSize (l : LaunchRec) : Nat := 0x81000 + l.groups * l.groupSize

/-- The address of a team's image. -/
def Team.imageBase (t : Team) : Nat := if t.mast then t.lrec.imageBase else t.lrec.imageBase + t.index * t.lrec.teamSize

/-- The address of a group's image; a mast core's program has no team image (R130). -/
def Team.groupBase (t : Team) (g : Nat) : Nat :=
  if t.mast then t.imageBase else t.imageBase + 0x81000 + g * t.lrec.groupSize

/-- The bytes of a team's image, those of its groups among them. -/
def Team.imageSize (t : Team) : Nat := if t.mast then t.lrec.groupSize else t.lrec.teamSize

/-- A line of memory belongs to the image of a team. -/
def State.lineOfImage (s : State) (t : Team) (ln : Nat) : Bool :=
  let lo := t.imageBase / 65536 * 65536
  (List.range (t.imageSize / 65536 + 2)).any fun i =>
    let va := lo + 65536 * i + 128 * ln % 65536
    decide (t.imageBase ≤ va) && decide (va < t.imageBase + t.imageSize)
      && (match s.xlate t .image va with | .ok (.mem pa _) => pa / 128 == ln | _ => false)

/-- The side-table entry of a line of DRAM (06 R149, R150): 0 for one stored whole, as after start-up, and for a line of a
context image, whichever page it was last written through; for one stored compressed the sectors that hold it, as the
compression makes of its bytes (log 6). Values and addresses do not depend on it. -/
def State.sideEntry (s : State) (ln : Nat) : Nat :=
  if SMap.get false s.packed ln && !s.teams.any fun e => s.lineOfImage e.2 ln then
    Config.packedSectors (SMap.range 0#8 s.home (128 * ln) 128) % 4
  else 0

/-- A 64-bit word's bytes. -/
def w64Bytes (x : Nat) : List Byte := toBytes 8 x

/-- The eight words of a trap record (07 R160). -/
def TrapRec.words (r : TrapRec) : List Nat :=
  [r.cause.toNat + 2 ^ 8 * r.detail.toNat + 2 ^ 16 * b2n r.imprecise + 2 ^ 18 * r.resume.toNat + 2 ^ 32 * r.thread.toNat,
   2 ^ 56 * r.prio.toNat + r.pc.toNat,
   2 ^ 32 * r.team.toNat + r.launch.toNat,
   2 ^ 32 * r.fail.toNat + r.mask.toNat,
   r.addr.toNat, r.rpc.toNat, r.save62.toNat, r.save63.toNat]

/-- The outstanding operations of a class: the counter of R207, R208 (in issue order, an operation that completes
before an older one still counts). -/
def ocOf (ops : List Op) (c : OpClass) : Nat :=
  ((ops.filter fun o => o.cls == c).dropWhile fun o => o.done).length

/-- OCNT (09 R209). -/
def Group.ocnt (g : Group) : Nat :=
  ocOf g.ops .ld + 2 ^ 8 * ocOf g.ops .st + 2 ^ 16 * ocOf g.ops .cpy + 2 ^ 24 * ocOf g.ops .mtx
    + 2 ^ 32 * ocOf g.ops .gth + 2 ^ 40 * ocOf g.ops .col

/-- ALARMS (05 R120). -/
def Group.alarmBits (g : Group) : Nat :=
  (List.range 4).foldl (fun a n =>
    let x := SMap.get Alarm.off g.alarms n
    a + 2 ^ n * b2n x.armed + 2 ^ (n + 4) * b2n x.expired) 0

/-- The words of a frontier entry (05 R119). -/
def Entry.words (e : Entry) : List Nat := [2 ^ 56 * e.prio.toNat + e.pc.toNat, e.mask.toNat]

/-- The exit word at 0x8958 (09 R216). -/
def Group.exitWord (g : Group) : Nat := b2n g.exited + 2 * b2n g.halted + 2 ^ 8 * g.lastCause.toNat

/-- The call stack entry j of lane l, oldest first. -/
def Calls.onChip (c : Calls) (j : Nat) : Nat := ((c.chip.reverse[j]?).getD 0).toNat

/-- The pinned control lines of a group as segments of its image (R112, R209, R215). -/
def Group.control (g : Group) : List (Nat × List Byte) :=
  [(0x8300, ((List.range 7).flatMap fun n => toBytes 4 (SMap.get 0xFFFFFFFF#32 g.p n).toNat)),
   (0x8380, ((List.range 32).flatMap fun l => toBytes 4 (SMap.get 0#32 g.seed l).toNat)),
   (0x8400, ((List.range 32).flatMap fun l => toBytes 4 (SMap.get 0#8 g.fflags l).toNat)),
   (0x8480, ((List.range 4).flatMap fun n => w64Bytes (SMap.get Alarm.off g.alarms n).deadline.toNat)),
   (0x84A0, w64Bytes g.alarmBits), (0x84A8, w64Bytes g.ocnt), (0x84B0, w64Bytes g.phase.toNat),
   (0x8500, ((List.range 32).flatMap fun n =>
      match g.front[n]? with | some e => e.words.flatMap w64Bytes | none => List.replicate 16 0#8)),
   (0x8700, ((List.range 8).flatMap fun n =>
      match g.trapq[n]? with | some r => r.words.flatMap w64Bytes | none => List.replicate 64 0#8))]

/-- The exit record's segments: offsets 0x8900 to 0x895F (R216). -/
def Group.exitRecord (g : Group) : List (Nat × List Byte) :=
  [(0x8900, ((List.range 16).flatMap fun n => toBytes 4 (SMap.get 0#32 g.stalls n).toNat)),
   (0x8940, w64Bytes g.cycle.toNat), (0x8948, w64Bytes g.retired.toNat), (0x8950, w64Bytes g.ovf.toNat),
   (0x8958, w64Bytes g.exitWord)]

/-- The on-chip call stacks as a segment (R112). -/
def Group.stacks (g : Group) : List (Nat × List Byte) :=
  [(0x9000, ((List.range 16).flatMap fun j => (List.range 32).flatMap fun l =>
      w64Bytes ((SMap.get Calls.empty g.calls l).onChip j)))]

/-- The bytes of a line of the group image that is cached under R56: v registers, their tags, s registers, spilled
entries (R112, R447). -/
def Group.lineBytes (g : Group) (ln : Nat) : List Byte :=
  if ln < 256 then (List.range 32).flatMap fun l => toBytes 4 (SMap.get 0#32 g.v (32 * ln + l)).toNat
  else if ln < 258 then (List.range 128).map fun i => SMap.get 0#8 g.vtag (128 * (ln - 256) + i)
  else if ln < 262 then (List.range 16).flatMap fun i => w64Bytes (SMap.get 0#64 g.s (16 * (ln - 258) + i)).toNat
  else (List.range 16).flatMap fun i =>
    w64Bytes (SMap.get 0#64 g.spill (16 * (ln - 320) + i)).toNat

/-- The tag that a register takes from a byte of its image. No register holds a byte that is no defined tag (R88): for such a
byte the register takes some defined tag, which the spec does not name (a free value; DESIGN CHOICE, log 12). -/
def tagFrom (b : Byte) : Byte :=
  if tagDefined b.toNat then b
  else
    let all := (List.range 256).filter tagDefined
    BitVec.ofNat 8 (all.getD (Config.badTag b % all.length) 0)

/-- Refill a line of the group image from its bytes. -/
def Group.setLine (g : Group) (ln : Nat) (bs : List Byte) : Group :=
  let dwords : List W64 := (List.range 16).map fun i => BitVec.ofNat 64 (ofBytes (sliceD 0#8 bs (8 * i) 8))
  if ln < 256 then
    { g with v := SMap.setRange 0#32 g.v (32 * ln) ((List.range 32).map fun l => BitVec.ofNat 32 (ofBytes (sliceD 0#8 bs (4 * l) 4))) }
  else if ln < 258 then
    { g with vtag := SMap.setRange 0#8 g.vtag (128 * (ln - 256)) ((sliceD 0#8 bs 0 128).map tagFrom) }
  else if ln < 262 then { g with s := SMap.setRange 0#64 g.s (16 * (ln - 258)) dwords }
  else { g with spill := SMap.setRange 0#64 g.spill (16 * (ln - 320)) dwords }

/-- A line of the group image that is not in the register cache comes in. One written back is read again, and so is one of
the spill region; a register's line that was never filled holds its start values (02 R56, 05 R109). -/
def Group.refill (g : Group) (ln : Nat) (bs : Option (List Byte)) : Group :=
  let g1 := if g.evicted.contains ln || decide (320 ≤ ln) then (match bs with | some b => g.setLine ln b | none => g) else g
  { g1 with fresh := g1.fresh.filter fun n => n != ln, evicted := g1.evicted.filter fun n => n != ln }

/-- The bytes of a tile line: line 64n + r/2 holds rows r and r+1 of mn (R112). -/
def Team.tileLine (t : Team) (ln : Nat) : List Byte :=
  toBytes 64 (SMap.get 0#512 t.mreg (2 * ln)).toNat ++ toBytes 64 (SMap.get 0#512 t.mreg (2 * ln + 1)).toNat

/-- Refill a tile line. -/
def Team.setTileLine (t : Team) (ln : Nat) (bs : List Byte) : Team :=
  let rows : List (BitVec 512) := [BitVec.ofNat 512 (ofBytes (bs.take 64)), BitVec.ofNat 512 (ofBytes (sliceD 0#8 bs 64 64))]
  { t with mreg := SMap.setRange 0#512 t.mreg (2 * ln) rows }

/-- The pinned control lines of a team (R112). -/
def Team.control (t : Team) : List (Nat × List Byte) :=
  [(0x80000, ((List.range 16).map fun n => SMap.get 0#8 t.mtag n)),
   (0x80010, ((List.range 4).map fun n => SMap.get 0xE0#8 t.vattag n)),
   (0x80020, toBytes 4 t.mflags.toNat), (0x80024, toBytes 4 (b2n t.idem + 16 * t.rot))]
  ++ ((List.range 8).flatMap fun n =>
    let c := SMap.get Cv.clear t.cvs n
    [(0x80100 + 256 * n, toBytes 64 c.declared.toNat ++ toBytes 64 c.signed.toNat ++ toBytes 4 (b2n c.phase)
        ++ toBytes 12 ((c.word.getD 0).toNat))])
  ++ ((List.range 8).map fun n =>
    let r := SMap.get Ring.empty t.rings n
    (0x80900 + 128 * n, toBytes 2 r.full.toNat ++ toBytes 2 r.phase.toNat ++ toBytes 1 r.put ++ toBytes 1 r.get
        ++ List.replicate 122 0#8))

/-- The bytes of a vat tile (R112). -/
def Team.vatBytes (t : Team) (n : Nat) : List Byte :=
  (List.range 16384).flatMap fun i => toBytes 6 (SMap.get 0#48 t.vat (16384 * n + i)).toNat

/-- Write bytes of one line at a virtual address of a context's image; a page that cannot be written keeps its bytes (log
12). -/
def State.imageWrite (s : State) (t : Team) (va : Nat) (bs : List Byte) : State :=
  match s.xlate t .image va with
  | .ok (.mem pa key) => s.homeWrite key pa bs
  | _ => s

/-- The bytes of a 128-byte line of a context's image. -/
def State.imageLine (s : State) (t : Team) (va : Nat) : Except AccErr (Nat × List Byte) :=
  match s.xlate t .image va with
  | .ok (.mem pa key) => .ok (pa, s.homeBytes key pa 128)
  | .ok _ => .error ⟨3, 8, 7, va⟩
  | .error e => .error e

/-- A segment cut at 128-byte lines. -/
def cutLines (seg : Nat × List Byte) : List (Nat × List Byte) :=
  (List.range (ceilDiv (seg.1 % 128 + seg.2.length) 128)).map fun i =>
    let lo := if i = 0 then 0 else 128 * i - seg.1 % 128
    let hi := 128 * (i + 1) - seg.1 % 128
    (seg.1 + lo, (seg.2.take hi).drop lo)

/-- What a write-back of lines has come to: the state, the lines that met a lasting error, and the line checked last. -/
structure LineOut where
  s : State
  bad : List Nat
  last : Option Nat

/-- One piece of a line goes to an image. The read of the line's memory (register cache, kind 4) is checked once; with a lasting
error the line stays dirty in the cache, and the error is posted (R114). -/
def LineOut.write (r : LineOut) (t : Team) (base : Nat) (p : Nat × List Byte) : LineOut :=
  let ln := p.1 / 128
  if r.bad.contains ln then r
  else if r.last = some ln then { r with s := r.s.imageWrite t (base + p.1) p.2 }
  else
    let a := base + 128 * ln
    let c := r.s.checkRead t.part (clusterOf t.core / 4) 4 a 128
    if c.2 then ⟨c.1.postError t.core t.part 4 a 0 true, r.bad ++ [ln], some ln⟩
    else ⟨c.1.imageWrite t (base + p.1) p.2, r.bad, some ln⟩

/-- Pieces of lines go to an image. -/
def State.writeLines (s : State) (t : Team) (base : Nat) (ps : List (Nat × List Byte)) : LineOut :=
  ps.foldl (fun (r : LineOut) p => r.write t base p) ⟨s, [], none⟩

/-- The lines of a group image that a core can cache: v, tags, s, and the spill region. -/
def groupLines (l : LaunchRec) : List Nat := List.range 262 ++ (List.range (2 * l.spill)).map (320 + ·)

/-- The lines of a group that are in the register cache, to be written back (23 R448): each counts as dirty, and the registers'
start values are written too (log 12). -/
def Group.cacheLines (g : Group) (l : LaunchRec) : List (Nat × List Byte) :=
  ((groupLines l).filter fun n => !(g.evicted.contains n) && (decide (n < 262) || !(g.fresh.contains n))).map
    fun n => (128 * n, g.lineBytes n)

/-- A group's lines are written back; those that meet a lasting error are to be written again (R114). -/
def State.writeGroup (s : State) (tid : Nat) (t : Team) (gi : Nat) (ps : List (Nat × List Byte)) : State :=
  let r := s.writeLines t (t.groupBase gi) ps
  r.s.modGroup tid gi fun x => { x with unsaved := r.bad }

/-- Write back a whole group: lines, control lines, stacks, exit record (R115). Of a group that has exited or halted, whose
lines were written then, those alone that are still to be written. -/
def State.saveGroup (s : State) (tid : Nat) (t : Team) (gi : Nat) (g : Group) : State :=
  let ps := g.cacheLines t.lrec ++ (g.control ++ g.exitRecord ++ g.stacks).flatMap cutLines
  s.writeGroup tid t gi (if g.exited || g.halted then ps.filter fun p => g.unsaved.contains (p.1 / 128) else ps)

/-- The wavefront state as segments of group 0's image (16 R365). -/
def Team.waveSegs (t : Team) : List (Nat × List Byte) :=
  let w := t.wave
  [(0x8A00, sliceD 0#8 w.rule 0 576), (0x8C40, toBytes 4 w.lo.toNat), (0x8C44, toBytes 4 w.hi.toNat),
   (0x8C48, toBytes 4 (b2n w.hasRule + 2 * b2n w.hasBest + 4 * b2n w.hasLast)), (0x8C50, w64Bytes w.best.toNat),
   (0x8C58, w64Bytes w.bestCell.toNat), (0x8C60, w64Bytes w.lastScore.toNat), (0x8C68, w64Bytes w.lastCell.toNat)]

/-- A vat tile is written back (memory kind 5). With a lasting error it stays dirty, and the error is posted (R114). -/
def State.writeVat (s : State) (tid : Nat) (t : Team) (n : Nat) : State :=
  let a := t.imageBase + 0x20000 + 0x18000 * n
  let c := s.checkRead t.part (clusterOf t.core / 4) 5 a 0x18000
  if c.2 then c.1.postError t.core t.part 5 a 0 true
  else
    ((cutLines (0x20000 + 0x18000 * n, t.vatBytes n)).foldl (fun (x : State) p => x.imageWrite t (t.imageBase + p.1) p.2) c.1).modTeam
      tid fun u => { u with vatClean := n :: u.vatClean }

/-- The vat tiles to be written back: those not in memory as they stand. -/
def Team.vatDirty (t : Team) : List Nat :=
  (List.range 4).filter fun n => !t.vatClean.contains n && !t.evicted.contains (1024 + n)

/-- Write back what a team holds beside its groups: tiles, vat tiles, control lines, the wavefront state (R112, R365). A vat
tile whose slot never held it has its start value (log 12). What the 768 bytes of the team barrier and the DXP's status hold,
of which R112 gives no layout, are free values (DESIGN CHOICE, log 12). -/
def State.saveTiles (s : State) (tid : Nat) (t : Team) : State :=
  let (area, s1) := s.drawBytes 768
  let tiles := ((List.range 1024).filter fun n => !t.evicted.contains n).map fun n => (128 * n, t.tileLine n)
  let wave := t.waveSegs.map fun p => (0x81000 + p.1, p.2)
  let r := s1.writeLines t t.imageBase (tiles ++ (t.control ++ [(0x80D00, area)] ++ wave).flatMap cutLines)
  t.vatDirty.foldl (fun (x : State) n => x.writeVat tid t n) (r.s.modTeam tid fun u => { u with unsaved := r.bad })

/-- Write back a whole team: its groups, tiles, vat tiles and control lines (R115, R131). -/
def State.saveTeam (s : State) (tid : Nat) (t : Team) : State :=
  let s1 := (List.range t.groups.length).foldl (fun (x : State) i =>
    match t.groups[i]? with | some g => x.saveGroup tid t i g | none => x) s
  if t.mast then s1 else s1.saveTiles tid t

/-- The bytes of n lines of a context's image, 0 where its page cannot be read. -/
def State.imageBytes (s : State) (t : Team) (va n : Nat) : List Byte :=
  (List.range n).flatMap fun i => match s.imageLine t (va + 128 * i) with | .ok r => r.2 | .error _ => List.replicate 128 0#8

/-- The pinned lines of a team and its groups, by their offsets in the team's image (R113): the wavefront state of group 0 (16
R365) and area, the 768 bytes at 0x8_0D00, among them. A mast core's program has those of its group alone. -/
def Team.pinnedLines (t : Team) (area : List Byte) : List (Nat × List Byte) :=
  (if t.mast then []
    else t.control ++ [(0x80D00, area)] ++ t.waveSegs.map fun p => (t.groupBase 0 - t.imageBase + p.1, p.2))
    ++ (t.groups.zipIdx.flatMap fun x => (x.1.control ++ x.1.exitRecord).map fun p => (t.groupBase x.2 - t.imageBase + p.1, p.2))

end Sys2Proof.Machine
end

