-- ==== Sys2Proof/Machine/Power.lean ====
section
/-!
DEFINITION. Machine/Power.lean: the power controller: caps and steps of clusters (19 R437, R439), REEFCAUSE (05 R123),
and the operating point table (08 R203, R204).
-/
namespace Sys2Proof.Machine

/-! ## Caps and steps -/

/-- The level that the reef frame in force gives a partition's rank (R437). -/
def State.reefOf (s : State) (p : Nat) : Nat := s.reefLevels.getD (s.part p).rank.toNat 0

/-- The four caps of a cluster with their codes, 1 reef to 4 operating point (R439). -/
def State.caps (s : State) (c : Nat) : List (Nat × Nat) :=
  let x := s.cluster c
  let reef := if x.valid then 46 - 3 * s.reefOf x.part.toNat else 46
  [(1, reef), (2, x.thermal), (3, (x.droopCap.map Prod.fst).getD 46), (4, x.opCap.getD 46)]

/-- The lowest cap. -/
def State.stepFor (s : State) (c : Nat) : Nat := (s.caps c).foldl (fun m x => min m x.2) 46

/-- A cluster takes its step; a change ends a clean interval (R204). -/
def State.settle (s : State) (c : Nat) : State :=
  let st := BitVec.ofNat 6 (s.stepFor c)
  s.modCluster c fun x => if x.step = st then x else { x with step := st, opKey := none }

/-- Every cluster takes its step. -/
def State.settleAll (s : State) : State := (List.range 16).foldl (fun (x : State) c => x.settle c) s

/-- The clusters of a partition. -/
def State.clustersOf (s : State) (p : Nat) : List Nat :=
  (List.range 16).filter fun c => (s.cluster c).valid && (s.cluster c).part.toNat == p

/-- The cap that throttles a partition: that of its cluster with the lowest step; ties go to the lower code (R123). -/
def State.capCause (s : State) (p : Nat) : Nat :=
  let cs := s.clustersOf p
  let low := cs.foldl (fun m c => min m (s.cluster c).step.toNat) 46
  if low = 46 then 0
  else
    let at_ := cs.filter fun c => (s.cluster c).step.toNat == low
    (([1, 2, 3, 4]).find? fun code => at_.any fun c => (s.caps c).any fun x => x.1 == code && x.2 == low).getD 0

/-- REEFCAUSE (R123). -/
def State.reefCause (s : State) (p : Nat) : W64 :=
  let q := s.part p
  let c := s.capCause p
  BitVec.ofNat 64 (c + 2 ^ 8 * s.reefOf p + 2 ^ 16 * (if c = 1 then q.rank.toNat else 0))

/-! ## The operating point table (R203, R204) -/

def State.optEntry (s : State) (i : Nat) : OptEntry := SMap.get OptEntry.off s.opt i
def State.setOpt (s : State) (i : Nat) (e : OptEntry) : State := { s with opt := SMap.set OptEntry.off s.opt i e }

/-- A team's current key: partition, kernel, phase marker of its lowest group that has not exited (R204). -/
def Team.optKey (t : Team) : Nat × Nat × Nat :=
  (t.part, t.lrec.kernel, match t.groups.find? fun g => !g.exited with | some g => g.phase.toNat | none => 0)

/-- The valid entry of a key. -/
def State.optFind (s : State) (k : Nat × Nat × Nat) : Option Nat :=
  (List.range 256).find? fun i =>
    let e := s.optEntry i
    e.v && e.part.toNat == k.1 && e.kernel.toNat == k.2.1 && e.phase.toNat == k.2.2

/-- A miss creates an entry in place of the unlocked one with the fewest uses; with all locked, none (R203). -/
def State.optMiss (s : State) (c : Nat) (k : Nat × Nat × Nat) : State :=
  let free := (List.range 256).filter fun i => !(s.optEntry i).lock
  match free with
  | [] => s
  | i0 :: _ =>
    let i := free.foldl (fun b j => if (s.optEntry j).uses < (s.optEntry b).uses then j else b) i0
    s.setOpt i { v := true, lock := false, part := BitVec.ofNat 4 k.1, step := (s.cluster c).step
                 phase := BitVec.ofNat 16 k.2.2, kernel := BitVec.ofNat 32 k.2.1, best := 0, uses := 0 }

/-- The teams resident on a cluster with a group that has not exited. -/
def State.residents (s : State) (c : Nat) : List Team :=
  (s.teams.filter fun e => !e.2.mast && clusterOf e.2.core == c && e.2.groups.any (fun g => !g.exited)).map Prod.snd

/-- The end of a clean interval: its measurement (a free value, log 4) goes to the entry of the key that every team held, if
there still is one (R204). -/
def State.optLearn (s : State) (c : Nat) : State :=
  match (s.cluster c).opKey with
  | none => s
  | some (k, step) => match s.optFind k with
    | none => s
    | some i =>
      let (m, s1) := s.draw
      let e := s1.optEntry i
      if !e.lock && decide (e.best.toNat < m.toNat % 2 ^ 32) then
        s1.setOpt i { e with step := BitVec.ofNat 6 step, best := m.setWidth 32 }
      else s1

/-- A clean interval begins where every resident team holds the one key, which has an entry. -/
def State.optBegin (s : State) (c : Nat) (keys : List (Nat × Nat × Nat)) : State :=
  s.modCluster c fun x => { x with opKey := match keys with
    | [k] => if (s.optFind k).isSome then some (k, x.step.toNat) else none
    | _ => none }

/-- The operating-point cap of a cluster is decided: at a team's start or exit there and at each phase (R203, R204). -/
def State.optDecide (s : State) (c : Nat) : State :=
  let s0 := s.optLearn c
  let keys := ((s0.residents c).map Team.optKey).eraseDups
  let hits := keys.filterMap s0.optFind
  if keys.isEmpty then (s0.modCluster c fun x => { x with opCap := none, opKey := none }).settle c
  else if hits.length = keys.length then
    let cap := hits.foldl (fun m i => max m (s0.optEntry i).step.toNat) 0
    let s1 := hits.foldl (fun (x : State) i =>
      let e := x.optEntry i
      x.setOpt i { e with uses := satAdd e.uses 1 }) s0
    ((s1.modCluster c fun x => { x with opCap := some cap }).settle c).optBegin c keys
  else
    let s1 := (s0.modCluster c fun x => { x with opCap := none, opKey := none }).settle c
    ((keys.filter fun k => (s0.optFind k).isNone).foldl (fun (x : State) k => x.optMiss c k) s1).optBegin c keys

/-- A group's exit that changes its team's key ends a clean interval (R204). -/
def State.optGone (s : State) (c : Nat) (was now : Nat × Nat × Nat) : State :=
  if was = now then s else (s.optLearn c).modCluster c fun x => { x with opKey := none }

end Sys2Proof.Machine
end

