-- ==== Sys2Proof/Machine/Ops.lean ====
section
/-!
DEFINITION. Machine/Ops.lean: the shared operations of issue: the frontier (02 R35-R38), register lines (R56),
outstanding operations (09 R207, R208), event-queue records and notices (07 R164-R166, R179, R180), taking a trap
(R157-R163), returning from one (R159, 18 R404), halting and exiting (R163, 09 R216), and the wrappers that every
meaning of a group's instruction is written with (12 R261).
-/
namespace Sys2Proof.Machine

open Host (Outcome)

/-! ## The frontier -/

/-- The priority of a PC (02 R36, 08 R191). -/
def prioOf (rs : List PrioRange) (pc : Nat) : Byte :=
  match rs.find? fun r => decide (r.start ≤ pc) && decide (pc < r.stop) with
  | some r => r.prio
  | none => 0

/-- The order of the frontier: priority, highest first, then PC, lowest first (R35). -/
def Entry.before (a b : Entry) : Bool := decide (b.prio < a.prio) || (a.prio == b.prio && decide (a.pc < b.pc))

/-- Insert an entry in order. -/
def insertEntry (e : Entry) : List Entry → List Entry
  | [] => [e]
  | x :: xs => if e.before x then e :: x :: xs else x :: insertEntry e xs

/-- Merge lanes at a PC: into the entry of that PC, or as a new entry (R37). -/
def mergeAt (prio : Nat → Byte) (fr : List Entry) (pm : Pc × Mask) : List Entry :=
  if fr.any (fun x => x.pc == pm.1) then fr.map fun x => if x.pc = pm.1 then { x with mask := x.mask ||| pm.2 } else x
  else insertEntry ⟨prio pm.1.toNat, pm.1, pm.2⟩ fr

/-- The frontier after an issue: the entry's lanes move to their next PCs (R37). -/
def rebuild (prio : Nat → Byte) (fr : List Entry) (e : Entry) (tg : List (Pc × Mask)) : List Entry :=
  tg.foldl (mergeAt prio) (fr.filter fun x => x.pc != e.pc)

/-- Add a lane to the set of its target. -/
def addTarget (pc : Pc) (l : Nat) : List (Pc × Mask) → List (Pc × Mask)
  | [] => [(pc, 1#32 <<< l)]
  | (q, m) :: rest => if q = pc then (q, m ||| (1#32 <<< l)) :: rest else (q, m) :: addTarget pc l rest

/-- The lanes of a mask by target; a lane without one exits (R37). -/
def targets (m : Mask) (next : Nat → Option Pc) : List (Pc × Mask) :=
  (lanesOf m).foldl (fun tg l => match next l with | some pc => addTarget pc l tg | none => tg) []

/-- The frontier that a group runs: its handler's, or its own (07 R159). -/
def Group.running (g : Group) : List Entry :=
  match g.handler with
  | some h => h.front
  | none => g.front

/-- The selected entry of a frontier (R35), with the entry that yielded ranking last (R38). -/
def Group.selectedOf (g : Group) (fr : List Entry) : Option Entry :=
  match fr with
  | [] => none
  | [e] => some e
  | e :: f :: _ => if g.yieldPc = some e.pc then some f else some e

/-- The selected entry of the frontier that a group runs. -/
def Group.selected (g : Group) : Option Entry := g.selectedOf g.running

/-- The lanes that have not exited. -/
def Group.live (g : Group) : Mask := g.front.foldl (fun m e => m ||| e.mask) 0#32

/-! ## The team barrier (15 R344) -/

/-- The groups that wait at the team barrier, those whose handler runs meanwhile among them. -/
def Team.atBar (t : Team) : List Nat :=
  (List.range t.groups.length).filter fun i =>
    match t.groups[i]? with
    | some g => !g.exited && !g.halted && g.holds.any fun h => h.why == 4 && h.started && !h.passed
    | none => false

/-- A group of an opened barrier is still to be released in a wave. -/
def Team.inWave (t : Team) : Bool :=
  match t.barWave with
  | some w => w.left.any fun i => match t.groups[i]? with | some g => !g.exited && !g.halted | none => false
  | none => false

/-- The barrier opens once every group that has neither exited nor halted waits at it: its waves begin (02 R46). While a group
is still to be released, not every group has arrived again. -/
def Team.barCheck (t : Team) : Team :=
  let ws := t.atBar
  let alive := t.groups.filter fun g => !g.exited && !g.halted
  if !t.inWave && !ws.isEmpty && ws.length == alive.length then { t with barWave := some ⟨ws, 0⟩ } else t

/-! ## Stop intervals (03 R59, R60) -/

/-- Open a stop interval of a context for a reason, or add the reason to an open one: one that was closing halts the cores
that had resumed again (R59). -/
def State.openStop (s : State) (p c : Nat) (why : StopWhy) : State :=
  s.modCtx p c fun x =>
    match x.stop with
    | none => { x with stop := some ⟨s.vclk p c, s.rclk, [why], false, false, []⟩ }
    | some st =>
      if st.why.isEmpty then { x with stop := some ⟨st.s, st.opened, [why], false, false, []⟩ }
      else { x with stop := some { st with why := if st.why.contains why then st.why else st.why ++ [why] } }

/-- Single-step (03 R60, 18 R410): a group has issued the instruction of the step, or has halted; with the last of the step's
groups the context's stop interval opens again, or an open one takes the step's pause for a reason. -/
def State.unstep (s : State) (tid g : Nat) : State :=
  match s.team? tid with
  | none => s
  | some t =>
    let x := s.ctx t.part t.ctx
    if !(s.part t.part).dbgStep || !x.stepped.contains (tid, g) then s
    else
      let left := x.stepped.filter fun e => e != (tid, g)
      let s1 := s.modCtx t.part t.ctx fun y => { y with stepped := left }
      if left.isEmpty then (s1.modPart t.part fun p => { p with dbgStopped := true }).openStop t.part t.ctx .step else s1

/-- What an issue does to a step in progress: a group that waits now has still to issue. -/
def State.stepPause (s : State) (tid g : Nat) : State :=
  match s.group? tid g with
  | none => s
  | some gr => if gr.hold.isSome then s else s.unstep tid g

/-! ## Exit and halt -/

/-- Count a group's exit or halt in its grid (07 R179). -/
def State.countGone (s : State) (t : Team) (halted : Bool) : State :=
  if t.mast then
    s.modCluster (clusterOf t.core) fun c => { c with mState := if halted then 3 else 2 }
  else s.modPart t.part fun p =>
    { p with grids := p.grids.map fun gr =>
        if gr.launch = t.launch then
          (if halted then { gr with halted := gr.halted + 1 } else { gr with exited := gr.exited + 1 })
        else gr }

/-- The next live group of a deterministic team's rotation, from index i on (02 R52). -/
def Team.nextTurn (t : Team) (i : Nat) : Nat :=
  let n := t.groups.length
  match (List.range n).find? fun k =>
      match t.groups[(i + k) % n]? with | some g => !g.exited && !g.halted | none => false with
  | some k => (i + k) % n
  | none => i

/-- Write back the dirty bytes of a mapped line (06 R145): a snapshot of the mask. Where the page is no longer one that is
stored to here, the bytes are dropped and the mask clears (DESIGN CHOICE, log 12). -/
def State.writeMapLine (s : State) (tid ln : Nat) : State :=
  match s.team? tid with
  | none => s
  | some t =>
    let l := SMap.get MapLine.off t.lines ln
    match t.spmap.find? fun m => decide (32 * m.off ≤ ln) && decide (ln < 32 * (m.off + m.len % 512)) with
    | none => s
    | some m =>
      let va := m.vbase + t.index * m.tstride * 4096 + 128 * ln - 4096 * m.off
      let s1 := match s.xlate t .store va with
        | .ok (.mem pa key) =>
          (List.range 128).foldl (fun (x : State) i =>
            if l.dirty.getLsbD i then x.homeSet key (pa + i) (SMap.get 0#8 t.spad (128 * ln + i)) else x) s
        | _ => s
      (s1.setTeam tid { t with lines := SMap.set MapLine.off t.lines ln { l with dirty := 0 } }).count t.core 7 1

/-- The dirty mapped lines of a team, oldest first. -/
def Team.dirtyLines (t : Team) : List Nat := (t.lines.filter fun e => decide (e.2.dirty ≠ 0)).map Prod.fst

/-- Write back all dirty mapped lines of a team (R145). -/
def State.writeMap (s : State) (tid : Nat) : State :=
  match s.team? tid with
  | none => s
  | some t => t.dirtyLines.foldl (fun x ln => x.writeMapLine tid ln) s

/-- Clear every mapped line's valid bit: the acquire of R145. -/
def State.invalidateMap (s : State) (tid : Nat) : State :=
  s.modTeam tid fun t => { t with lines := [] }

/-- What every exit and halt does: lines and control lines written back, then the exit record (09 R216, 23 R448), the grid's
count, the rotation, the barrier; the last exit of a team writes its mapped lines back (06 R145) and has the operating point
of its cluster decided again (08 R204). -/
def State.groupGone (s : State) (tid g : Nat) (halted : Bool) : State :=
  match s.team? tid with
  | none => s
  | some t =>
    match t.groups[g]? with
    | none => s
    | some gr =>
      let wave := if g = 0 && !t.mast then t.waveSegs else []
      let s0 := s.writeGroup tid t g (gr.cacheLines t.lrec ++ (gr.control ++ wave ++ gr.exitRecord).flatMap cutLines)
      let s1 := if gr.ops.all fun o => o.done then s0
        else s0.modGroup tid g fun x => { x with unsaved := x.unsaved ++ (groupLines t.lrec).filter fun n => decide (n < 262) }
      let s2 := s1.countGone t halted
      let s3 := s2.modTeam tid fun u =>
        let u1 := if u.lrec.det && u.rot == g && !u.turnHeld then { u with rot := u.nextTurn u.rot } else u
        u1.barCheck
      if t.mast then s3
      else if t.groups.all fun x => x.exited then (s3.writeMap tid).optDecide (clusterOf t.core)
      else s3.optGone (clusterOf t.core) (t.modGroup g fun x => { x with exited := false }).optKey t.optKey

/-- The group exits: its frontier is empty (02 R37). -/
def State.groupExit (s : State) (tid g : Nat) : State :=
  (s.modGroup tid g fun x => { x with exited := true, hold := none, stall := 0 }).groupGone tid g false

/-- The logical thread of a group's lane 0 as event and notice words (07 R164, R179). -/
def Team.threadWord (t : Team) : Nat := t.launch + 2 ^ 32 * t.index

/-- The group halts (07 R163): it issues nothing more, its records are posted. cause stands for the cause of the last record,
in the event record (R164) and the notice (R179); where the group halts without one being appended, what stands there is a
DESIGN CHOICE (log 18): the cause of the record the full queue did not take, that of the trap in a handler, and, at a tret
of R159's refused kind or with no handler to deliver to, that of the last record delivered. -/
def State.halt (s : State) (tid g : Nat) (cause : Nat) : State :=
  match s.team? tid with
  | none => s
  | some t =>
    let s1 := (s.modGroup tid g fun x => { x with halted := true, hold := none, stall := 0 }).groupGone tid g true
    let s2 := s1.postOrLose t.core 5 (BitVec.ofNat 64 t.threadWord) (BitVec.ofNat 64 (32 * g + 2 ^ 16 * cause)) 0
    (s2.postNotice t.part 3 cause t.threadWord (32 * g) 0).unstep tid g

/-! ## Taking a trap (07 R157-R163) -/

/-- The reason of R215 under which a cycle without issue counts: TRAPD where a further record is pending while the handler
runs. -/
def Group.stallCode (g : Group) (why : Nat) : Nat := if g.handler.isSome ∧ 2 ≤ g.trapq.length then 0 else why

/-- Count a cycle of a stall reason in a group (09 R214, R215). -/
def Group.stallUp (g : Group) (n : Nat) : Group :=
  let c := SMap.get 0#32 g.stalls n
  { g with cycle := g.cycle + 1
           stalls := SMap.set 0#32 g.stalls n (c + 1)
           ovf := if c = 0xFFFFFFFF#32 then g.ovf ||| (1#16 <<< n) else g.ovf }

/-- A precise or imprecise record (R160). -/
def mkRec (t : Team) (g : Nat) (cause detail addr : Nat) (imprecise : Bool) (prio : Byte) (pc : Pc) (mask fail : Mask) :
    TrapRec :=
  { cause := BitVec.ofNat 8 cause, detail := BitVec.ofNat 8 detail, imprecise := imprecise
    resume := if cause = 15 then 1 else 0, thread := BitVec.ofNat 9 (32 * g + lowLane fail), prio := prio, pc := pc
    team := BitVec.ofNat 32 t.index, launch := BitVec.ofNat 32 t.launch, fail := fail, mask := mask
    addr := BitVec.ofNat 64 addr, rpc := 0, save62 := 0, save63 := 0 }

/-- Append a record to a group's trap queue; with all 8 in use the group halts (R162, R163). -/
def State.appendRec (s : State) (tid g : Nat) (r : TrapRec) : State :=
  match s.group? tid g with
  | none => s
  | some gr =>
    if gr.halted then s
    else if 8 ≤ gr.trapq.length then s.halt tid g r.cause.toNat
    else s.modGroup tid g fun x => { x with trapq := x.trapq ++ [r] }

/-- TAKING A TRAP: the issuing entry's instruction has no effect; a record is appended, or, in a handler, the group
halts (R157, R163). The cycle counts in TRAPD (09 R215), and the group has issued in it: the age guard counts from it (02 R34;
log 23, DEDUCED: R64 and R215 call it an issue that takes a precise trap). fail is every lane of the entry for a cause of no
single lane. -/
def State.raise (s : State) (tid g : Nat) (e : Entry) (cause detail addr : Nat) (fail : Mask) : State :=
  match s.team? tid with
  | none => s
  | some t =>
    match t.groups[g]? with
    | none => s
    | some gr =>
      let s1 := s.modGroup tid g fun x => { x.stallUp 0 with hold := none, age := 0 }
      if gr.handler.isSome then s1.halt tid g cause
      else s1.appendRec tid g (mkRec t g cause detail addr false e.prio e.pc e.mask fail)

/-- An imprecise record (R141, R157): mask is what is left of the entry's lanes. -/
def State.raiseLater (s : State) (tid g : Nat) (pc : Pc) (mask fail : Mask) (cause detail addr : Nat) : State :=
  match s.team? tid with
  | none => s
  | some t =>
    match t.groups[g]? with
    | none => s
    | some gr =>
      if gr.exited || gr.halted then s
      else s.appendRec tid g (mkRec t g cause detail addr true (prioOf t.prios pc.toNat) pc (mask &&& gr.live) fail)

/-- The depth of a lane's call stack (13 R281). -/
def Calls.depth (c : Calls) : Nat := c.chip.length + c.spilled

/-- Delivery of the head record (R158): the handler starts, with the line of s62 and s63 in the register cache, or the group
halts where none is set. -/
def State.deliver (s : State) (tid g : Nat) : State :=
  match s.team? tid with
  | none => s
  | some t =>
    match t.groups[g]? with
    | none => s
    | some gr =>
      match gr.trapq with
      | [] => s
      | r :: rest =>
        let s0 := s.count t.core 8 1
        if t.lrec.handler = 0 then
          (s0.modGroup tid g fun x => { x with lastCause := r.cause }).halt tid g r.cause.toNat
        else
          let r2 := { r with save62 := SMap.get 0#64 gr.s 62, save63 := SMap.get 0#64 gr.s 63 }
          let m := if r.mask = 0 then gr.live else r.mask
          s0.modGroup tid g fun x =>
            { x with
              trapq := r2 :: rest
              s := SMap.set 0#64 (SMap.set 0#64 x.s 62 (r.mask.setWidth 64)) 63 (r.fail.setWidth 64)
              trapcause := BitVec.ofNat 16 (2 ^ 8 * r.detail.toNat + r.cause.toNat)
              lastCause := r.cause
              handler := some ⟨[⟨0xFF, BitVec.ofNat 56 t.lrec.handler, m⟩], m,
                (x.calls.filterMap fun c => if c.2.depth = 0 then none else some (c.1, c.2.depth)), x.hold⟩
              hold := none }

/-- Cut a lane's call stack back to a depth (13 R283). -/
def Calls.cut (c : Calls) (d : Nat) : Calls :=
  let deep := c.depth - d
  if deep = 0 then c
  else if deep ≤ c.chip.length then { c with chip := c.chip.drop deep }
  else { chip := [], spilled := c.spilled - (deep - c.chip.length) }

/-- RETURNING FROM A TRAP (R159, 18 R404): RESUME and RPC act on the group frontier's entry that matches the head
record, which is removed; call stacks return to their depth at delivery. -/
def State.endHandler (s : State) (tid g resume : Nat) (rpc : Pc) (rest : Bool) : State :=
  match s.team? tid with
  | none => s
  | some t =>
    match t.groups[g]? with
    | none => s
    | some gr =>
      match gr.handler, gr.trapq with
      | some h, r :: q =>
        let hit := gr.front.find? fun e => e.pc == r.pc && e.mask == r.mask
        let fr := if r.imprecise then gr.front else match hit with
          | none => gr.front
          | some e =>
            let tg : List (Pc × Mask) := match resume with
              | 0 => [(e.pc, e.mask)] | 1 => [(e.pc + 12, e.mask)] | 2 => [(rpc, e.mask)] | _ => []
            rebuild (prioOf t.prios) gr.front e tg
        let s1 := s.modGroup tid g fun x =>
          { x with
            handler := none, trapq := q, trapcause := 0, hold := h.stash, front := fr
            s := if rest then SMap.set 0#64 (SMap.set 0#64 x.s 62 r.save62) 63 r.save63 else x.s
            calls := x.calls.filterMap fun c =>
              let k := c.2.cut (SMap.get 0 h.depths c.1)
              if k = Calls.empty then none else some (c.1, k) }
        if fr.isEmpty then s1.groupExit tid g else s1
      | _, _ => s

/-! ## Outstanding operations (09 R207, R208) -/

/-- A counter at 63 holds the issue (R208). -/
def Group.full (g : Group) (c : OpClass) : Bool := decide (63 ≤ ocOf g.ops c)

/-- Enter an operation. -/
def Group.addOp (g : Group) (id : Nat) (c : OpClass) : Group := { g with ops := g.ops ++ [⟨id, c, false⟩] }

/-- Take out the operations of a class that are complete in unbroken issue order. -/
def pruneOps (c : OpClass) : List Op → List Op
  | [] => []
  | o :: os => if o.cls = c then (if o.done then pruneOps c os else o :: os) else o :: pruneOps c os

/-- An operation completes. -/
def Group.endOp (g : Group) (id : Nat) : Group :=
  let ops := g.ops.map fun o => if o.id = id then { o with done := true } else o
  match g.ops.find? fun o => o.id == id with
  | some o => { g with ops := pruneOps o.cls ops }
  | none => g

/-- An operation of a group completes. -/
def State.endOp (s : State) (tid g id : Nat) : State := s.modGroup tid g fun x => x.endOp id

/-! ## Issue -/

/-- The issuing entry of a group: what every meaning of its instruction reads. -/
structure Iss where
  tid : Nat
  g : Nat
  t : Team
  gr : Group
  e : Entry

/-- Why an instruction does not complete now: a precise trap (fail none: every lane of the entry), a wait, or the halt
of R163. -/
inductive Bail where
  | trap (cause detail addr : Nat) (fail : Option Mask)
  | hold (h : Hold)
  | halt
  deriving DecidableEq, Repr

/-- A wait for reason n of R215. -/
def Hold.wait (n : Nat) : Hold := ⟨n, false, 0, none, false, false, false, none⟩

/-- A trap of no single lane. -/
def Bail.t (cause detail addr : Nat) : Bail := .trap cause detail addr none

/-- The issuing entry that the next step's instruction belongs to. -/
def State.issuer (s : State) : Option Iss :=
  match s.cur with
  | some (.group tid g) =>
    match s.team? tid with
    | none => none
    | some t =>
      match t.groups[g]? with
      | none => none
      | some gr =>
        if gr.exited || gr.halted then none
        else match gr.selected with
          | some e => some ⟨tid, g, t, gr, e⟩
          | none => none
  | _ => none

/-- The code of a role (07 R161). -/
def roleCode : Role → Nat
  | .copy => 0 | .matrix => 1 | .vector => 2

/-- R29: the role may issue the opcode. -/
def roleOk (r : Role) (op : Nat) : Bool :=
  let row := op / 64
  if row ≤ 3 ∨ row = 9 then true
  else match r with
    | .copy => row == 6 || row == 12
    | .matrix => row == 10 || row == 11
    | .vector => row == 4 || row == 5 || row == 6 || row == 7 || row == 8 || row == 13
        || (decide (0x283 ≤ op) && decide (op ≤ 0x286))

/-- The register lines that operands of an instruction need: (group lines, tile lines). wide doubles v operands; more
is how many s registers follow a named one. -/
def linesOf (sl : Slots) (wide : Bool) (more : Nat) : List Nat × List Nat :=
  let of (o : Operand) : List Nat × List Nat := match o with
    | .v n => ((if wide then [n.toNat, n.toNat + 1] else [n.toNat]) ++ [256 + n.toNat / 128], [])
    | .s n => ((if more = 0 then [258 + n.toNat / 16] else [258 + n.toNat / 16, 258 + (n.toNat + more) % 64 / 16]), [])
    | .m n => ([], (List.range 64).map (64 * n.toNat + ·))
    | _ => ([], [])
  let d := of sl.d
  let a := of sl.a
  let b := of sl.b
  (d.1 ++ a.1 ++ b.1, d.2 ++ a.2 ++ b.2)

/-- A needed line is not in the register cache (02 R56). -/
def Iss.missing (k : Iss) (ls : List Nat × List Nat) : Bool :=
  ls.1.any (fun n => k.gr.fresh.contains n || k.gr.evicted.contains n)
    || ls.2.any (fun n => k.t.fresh.contains n || k.t.evicted.contains n)

/-- The cycle's selection is used up. -/
def State.done (s : State) : State :=
  match s.cur with
  | some (.group tid g) => ({ s with cur := none } : State).stepPause tid g
  | _ => { s with cur := none }

/-- What a cycle of its quadrant without issue leaves of a group's age and yield hint, in a stop interval too (02 R34). -/
def Group.aged (g : Group) : Group := { g with age := g.age + 1, yieldHint := false }

/-- What an instruction that does not complete leaves. A tret of a partial handler entry takes the trap of R163: its cycle
counts in TRAPD. A cycle in which an instruction begins to wait counts as one without issue (R34, R215, 09 R218). A wait is
named by the number of an operation that it takes, which no operation has. -/
def State.bail (s : State) (k : Iss) (b : Bail) : State :=
  match b with
  | .trap c d a f => (s.raise k.tid k.g k.e c d a (f.getD k.e.mask)).done
  | .halt => ((s.modGroup k.tid k.g fun x => x.stallUp 0).halt k.tid k.g k.gr.lastCause.toNat).done
  | .hold h =>
    let since := match k.gr.hold with | some o => (if o.why = h.why then o.since else s.nextOp) | none => s.nextOp
    let stopped := s.stopped k.t.part k.t.ctx
    let s1 := s.modGroup k.tid k.g fun x =>
      { (if stopped then x else x.stallUp (x.stallCode h.why)).aged with hold := some { h with since := since } }
    let s2 := if !stopped && (h.why == 7 || h.why == 8) then s1.count k.t.core 0x0D 1 else s1
    ({ s2 with nextOp := s2.nextOp + 1 } : State).done

/-- The counts and hints of a completed issue (02 R34, R38, 09 R214, 12 R269). An issue on a core that has resumed before the
last one of its context counts in sr.cycle although the stop interval is open (DESIGN CHOICE, log 17: R64 excepts only
draining cores). -/
def Group.issued (x : Group) (t : Team) (hint : Hint) (yieldPc : Option Pc) : Group :=
  { x with
    retired := x.retired + 1, cycle := x.cycle + 1, age := 0, yieldPc := yieldPc
    stall := if t.mast then 0 else hint.stall.toNat
    yieldHint := hint.yield && !t.mast && !t.lrec.det }

/-- What a completed issue leaves: its lanes move on, sr.retired and the hints act (02 R37, R38, 09 R214, 12 R269). -/
def State.retire (s : State) (k : Iss) (hint : Hint) (tg : List (Pc × Mask)) (yieldPc : Option Pc) : State :=
  let fr := rebuild (prioOf k.t.prios) k.gr.running k.e tg
  let merged := (tg.filter fun p => k.gr.running.any fun x => x.pc == p.1 && x.pc != k.e.pc).length
  let s1 := s.modGroup k.tid k.g fun x =>
    { x.issued k.t hint yieldPc with
      front := if x.handler.isSome then x.front else fr
      handler := x.handler.map fun h => { h with front := fr }
      hold := none }
  let s2 := ((s1.count k.t.core 1 1).count k.t.core 0x0B (b2n (decide (2 ≤ tg.length)))).count k.t.core 0x0C merged
  (if !fr.isEmpty then s2
    else if k.gr.handler.isSome then s2.halt k.tid k.g k.gr.lastCause.toNat
    else s2.groupExit k.tid k.g).done

/-- The wait for reason n that the instruction has begun, when it is issued again. -/
def Iss.waiting (k : Iss) (n : Nat) : Option Hold :=
  match k.gr.hold with
  | some h => if h.started && h.why == n then some h else none
  | none => none

/-- Every lane of the entry falls through. -/
def Iss.fall (k : Iss) : List (Pc × Mask) := [(k.e.pc + 12, k.e.mask)]

/-- A needed tile is still being written by the tile form of cvt (14 R318). -/
def Iss.converting (k : Iss) (ls : List Nat × List Nat) : Bool :=
  k.t.tileCvts.any fun c => ls.2.any fun n => n / 64 == c.tile

/-- Steps 6 and the register lines of an issue: the role (12 R261 step 6), then the lines (02 R56) and tiles. -/
def Iss.enter (k : Iss) (op : Nat) (ls : List Nat × List Nat) : Except Bail Unit :=
  if !k.t.mast && !roleOk k.gr.role op then .error (.t 6 (roleCode k.gr.role) 0)
  else if k.missing ls then .error (.hold (Hold.wait 1))
  else if k.converting ls then .error (.hold (Hold.wait 2))
  else .ok ()

/-- The checked read of the register lines that an instruction needs (06 R154): a lasting error of the register cache is
counted and posted; its address is that of the line in the image. -/
def State.readRegs (s : State) (k : Iss) (ls : List Nat × List Nat) : State × Option Nat :=
  let as_ := ls.1.map (fun n => k.t.groupBase k.g + 128 * n) ++ ls.2.map (fun n => k.t.imageBase + 128 * n)
  if s.errs.isEmpty then (s, none)
  else as_.foldl (fun (r : State × Option Nat) a => match r.2 with
    | some _ => r
    | none =>
      let c := r.1.checkRead k.t.part (clusterOf k.t.core / 4) 4 a 128
      if c.2 then (c.1.postError k.t.core k.t.part 4 a 0 false, some a) else (c.1, none)) (s, none)

/-- Run a meaning that changes the state and says where the lanes go. -/
def runJ (op : Nat) (s : State) (sl : Slots) (ls : List Nat × List Nat)
    (f : Iss → Except Bail (State × List (Pc × Mask))) : Outcome State Fault Refusal :=
  match s.issuer with
  | none => .fault .noIssuer
  | some k =>
    match k.enter op ls with
    | .error b => .next (s.bail k b)
    | .ok () =>
      match (s.readRegs k ls).2 with
      | some a => .next ((s.readRegs k ls).1.bail k (.t 13 4 a))
      | none =>
        match f k with
        | .error b => .next (s.bail k b)
        | .ok (s1, tg) => .next ((s1.readRegs k ls).1.retire k sl.hint tg none)

/-- Run a meaning that changes the state; every lane falls through. -/
def runS (op : Nat) (s : State) (sl : Slots) (ls : List Nat × List Nat) (f : Iss → Except Bail State) :
    Outcome State Fault Refusal :=
  runJ op s sl ls fun k => match f k with
    | .error b => .error b
    | .ok s1 => .ok (s1, k.fall)

/-- The checked reads of an issue: what they make of a state, and the trap of a lasting error (06 R154). -/
abbrev Reads := State → State × Option Bail

/-- An issue that reads nothing. -/
def noReads : Reads := fun s => (s, none)

/-- Run a meaning that reads memory after it has issued. Its reads are checked at issue, so that the trap of a lasting error is
precise (06 R154, 07 R157); every lane falls through. -/
def runE (op : Nat) (s : State) (sl : Slots) (ls : List Nat × List Nat) (f : Iss → Except Bail (State × Reads)) :
    Outcome State Fault Refusal :=
  match s.issuer with
  | none => .fault .noIssuer
  | some k =>
    match k.enter op ls with
    | .error b => .next (s.bail k b)
    | .ok () =>
      match (s.readRegs k ls).2 with
      | some a => .next ((s.readRegs k ls).1.bail k (.t 13 4 a))
      | none =>
        match f k with
        | .error b => .next (s.bail k b)
        | .ok (s1, rd) => match rd s with
          | (s2, some b) => .next (s2.bail k b)
          | (_, none) => .next (((rd s1).1.readRegs k ls).1.retire k sl.hint k.fall none)

/-- Run a meaning that changes the issuing group alone. -/
def runG (op : Nat) (s : State) (sl : Slots) (ls : List Nat × List Nat) (f : Iss → Except Bail Group) :
    Outcome State Fault Refusal :=
  runS op s sl ls fun k => match f k with
    | .error b => .error b
    | .ok g1 => .ok (s.modGroup k.tid k.g fun _ => g1)

/-- The team's idempotent flag clears (02 R50). -/
def State.clearIdem (s : State) (tid : Nat) : State := s.modTeam tid fun t => { t with idem := false }

end Sys2Proof.Machine
end

