-- ==== Sys2Proof/Machine/Operands.lean ====
section
/-!
DEFINITION. Machine/Operands.lean: reading and writing registers (05 R109, R110), the values that operands supply
(12 R266, 13 R278, 14 R302), tag checks (04 R89), and the shared shapes of lane-by-lane instructions (13 R280, 14 R304).
-/
namespace Sys2Proof

/-! ## Operand classes -/

/-- The index of a register operand. -/
def Operand.idx : Operand → Nat
  | .v n => n.toNat | .s n => n.toNat | .p n => n.toNat | .cv n => n.toNat | .m n => n.toNat | .vat n => n.toNat
  | _ => 0

def Operand.isV : Operand → Bool | .v _ => true | _ => false
def Operand.isS : Operand → Bool | .s _ => true | _ => false
def Operand.isM : Operand → Bool | .m _ => true | _ => false
def Operand.isNil : Operand → Bool | .nil => true | _ => false
def Operand.isP : Operand → Bool | .p _ => true | _ => false
def Operand.isImm : Operand → Bool | .imm => true | _ => false

end Sys2Proof

namespace Sys2Proof.Machine

/-! ## Registers -/

/-- A lane of a v register. -/
def Group.rv (g : Group) (n l : Nat) : W32 := SMap.get 0#32 g.v (32 * n + l)
/-- The tag of a v register. -/
def Group.rtag (g : Group) (n : Nat) : Nat := (SMap.get 0#8 g.vtag n).toNat
/-- An s register. -/
def Group.rs (g : Group) (n : Nat) : W64 := SMap.get 0#64 g.s n
/-- A predicate as a lane mask; p7 reads all-true (R109). -/
def Group.rp (g : Group) (n : Nat) : Mask := if n = 7 then 0xFFFFFFFF#32 else SMap.get 0xFFFFFFFF#32 g.p n

/-- Write an s register. -/
def Group.ws (g : Group) (n : Nat) (x : W64) : Group := { g with s := SMap.set 0#64 g.s n x }
/-- Write lanes of a predicate; writes of p7 are ignored (R109). -/
def Group.wp (g : Group) (n : Nat) (m x : Mask) : Group :=
  if n = 7 then g else { g with p := SMap.set 0xFFFFFFFF#32 g.p n ((g.rp n &&& ~~~m) ||| (x &&& m)) }
/-- Write one lane of a v register. -/
def Group.wv1 (g : Group) (n l : Nat) (x : W32) : Group := { g with v := SMap.set 0#32 g.v (32 * n + l) x }
/-- Set the tag of a v register. -/
def Group.wtag (g : Group) (n tag : Nat) : Group := { g with vtag := SMap.set 0#8 g.vtag n (BitVec.ofNat 8 tag) }

/-- Write a lane of a register, or of a pair for a 64-bit value (R110). -/
def Group.wlane (g : Group) (n : Nat) (wide : Bool) (l x : Nat) : Group :=
  let g1 := g.wv1 n l (BitVec.ofNat 32 x)
  if wide then g1.wv1 (n + 1) l (BitVec.ofNat 32 (x / 2 ^ 32)) else g1

/-- Write the lanes of a mask and the tag; with no lane nothing changes (R110). -/
def Group.wv (g : Group) (n : Nat) (wide : Bool) (m : Mask) (f : Nat → Nat) (tag : Nat) : Group :=
  let ls := lanesOf m
  if ls.isEmpty then g
  else
    let g1 := ls.foldl (fun x l => x.wlane n wide l (f l)) g
    let g2 := g1.wtag n tag
    if wide then g2.wtag (n + 1) tag else g2

/-- Set flags in the lanes of a mask (04 R96). -/
def Group.wflags (g : Group) (m : Mask) (f : Nat → Nat) : Group :=
  (lanesOf m).foldl (fun x l =>
    if f l = 0 then x
    else { x with fflags := SMap.set 0#8 x.fflags l (SMap.get 0#8 x.fflags l ||| BitVec.ofNat 8 (f l)) }) g

/-- Set flags of a team (04 R96). -/
def Team.wflags (t : Team) (f : Nat) : Team := { t with mflags := t.mflags ||| BitVec.ofNat 8 f }

/-! ## Operand values -/

/-- The value an operand gives lane l: its own element or pair, an s register's low bits or all of it, IMM by the
format, or zero (R266, R278, R302). -/
def Group.src (g : Group) (o : Operand) (tag : Nat) (wide : Bool) (imm : Nat) (l : Nat) : Nat :=
  match o with
  | .v n => if wide then (g.rv n.toNat l).toNat + 2 ^ 32 * (g.rv (n.toNat + 1) l).toNat else (g.rv n.toNat l).toNat
  | .s n => if wide then (g.rs n.toNat).toNat else (g.rs n.toNat).toNat % 2 ^ 32
  | .imm => (immOperand tag imm).getD 0
  | _ => 0

/-- An s register's whole value, IMM or zero: a uniform 64-bit value. -/
def Group.uni (g : Group) (o : Operand) (imm : Nat) : Nat :=
  match o with
  | .s n => (g.rs n.toNat).toNat
  | .imm => imm
  | _ => 0

/-! ## Tag checks (04 R89) -/

/-- A tagged source against the tag it is read under; code is 1 A, 2 B, 3 D. Both registers of a pair are checked. -/
def Group.checkTag (g : Group) (o : Operand) (want : Nat) (wide : Bool) (code : Nat) : Except Bail Unit :=
  match o with
  | .v n =>
    if !tagMatch want (g.rtag n.toNat) then .error (.t 5 want (g.rtag n.toNat + 2 ^ 8 * code))
    else if wide && !tagMatch want (g.rtag (n.toNat + 1)) then .error (.t 5 want (g.rtag (n.toNat + 1) + 2 ^ 8 * code))
    else .ok ()
  | _ => .ok ()

/-- The checks of A, then B, then D where the form reads it. -/
def Group.checkTags (g : Group) (a b d : Operand) (tag : Nat) (wide readsD : Bool) : Except Bail Unit :=
  match g.checkTag a tag wide 1 with
  | .error x => .error x
  | .ok () => match g.checkTag b tag wide 2 with
    | .error x => .error x
    | .ok () => if readsD then g.checkTag d tag wide 3 else .ok ()

/-- The tag of a tile register. -/
def Team.rmtag (t : Team) (n : Nat) : Nat := (SMap.get 0#8 t.mtag n).toNat

/-- A tile source against its tag. -/
def Team.checkTile (t : Team) (n want code : Nat) : Except Bail Unit :=
  if tagMatch want (t.rmtag n) then .ok () else .error (.t 5 want (t.rmtag n + 2 ^ 8 * code))

/-- A row of a tile register. -/
def Team.row (t : Team) (n r : Nat) : BitVec 512 := SMap.get 0#512 t.mreg (128 * n + r)

/-- A tile register as a list of rows (key: row). -/
def Team.tile (t : Team) (n : Nat) : SMap (BitVec 512) :=
  (t.mreg.filter fun e => decide (e.1 / 128 = n)).map fun e => (e.1 % 128, e.2)

/-- Write a row of a tile register. -/
def Team.wrow (t : Team) (n r : Nat) (x : BitVec 512) : Team :=
  { t with mreg := SMap.set 0#512 t.mreg (128 * n + r) x }

/-- Write a whole tile register with its tag. -/
def Team.wtile (t : Team) (n : Nat) (f : Nat → BitVec 512) (tag : Nat) : Team :=
  { t with mreg := SMap.replace 0#512 t.mreg (128 * n) 128 (fun k => f (k - 128 * n))
           mtag := SMap.set 0#8 t.mtag n (BitVec.ofNat 8 tag) }

/-! ## Guards (12 R268) -/

/-- The active lanes of an entry under a guard. -/
def Group.guard (g : Group) (gd : Guard) (m : Mask) : Mask :=
  match gd with
  | .none => m
  | .ifP p => m &&& g.rp p.toNat
  | .ifNotP p => m &&& ~~~(g.rp p.toNat)

/-! ## Lane-by-lane shapes -/

/-- What one lane of an instruction computes: its 32- or 64-bit result, its flags, its seed after. -/
structure LaneOut where
  val : Nat
  flags : Nat
  seed : W32
  deriving DecidableEq, Repr

/-- Write a v destination lane by lane: values, tag, flags and seeds. -/
def Group.wout (g : Group) (n : Nat) (wide : Bool) (m : Mask) (f : Nat → LaneOut) (tag : Nat) : Group :=
  let outs := (lanesOf m).map fun l => (l, f l)
  if outs.isEmpty then g
  else
    let g1 := outs.foldl (fun x o =>
      let y := x.wlane n wide o.1 o.2.val
      let z := if o.2.flags = 0 then y
        else { y with fflags := SMap.set 0#8 y.fflags o.1 (SMap.get 0#8 y.fflags o.1 ||| BitVec.ofNat 8 o.2.flags) }
      { z with seed := SMap.set 0#32 z.seed o.1 o.2.seed }) g
    let g2 := g1.wtag n tag
    if wide then g2.wtag (n + 1) tag else g2

/-- Elements in increasing index, each taking one draw under stochastic rounding (04 R93, 14 R303): f index draw. -/
def drawElems (rnd : Nat) (f : Nat → Nat → Nat × Nat) : Nat → Nat → W32 → List Nat × Nat × W32
  | 0, _, sd => ([], 0, sd)
  | k + 1, i, sd =>
    let sd2 := if rnd = 4 then nextSeed sd else sd
    let (c, fl) := f i sd2.toNat
    let (cs, fs, sdn) := drawElems rnd f k (i + 1) sd2
    (c :: cs, flagsOr fl fs, sdn)

/-- The seed of a lane. -/
def Group.rseed (g : Group) (l : Nat) : W32 := SMap.get 0#32 g.seed l

end Sys2Proof.Machine
end

