-- ==== Sys2Proof/Machine/Fetch.lean ====
section
/-!
DEFINITION. Machine/Fetch.lean: fetching the word at a PC (12 R277, 06 R147) and what a group or mast core decodes it
as (12 R261).
-/
namespace Sys2Proof.Machine

/-- One byte of code in the 56-bit address space. -/
def State.fetchByte (s : State) (part ctx comp va : Nat) : Except AccErr Byte :=
  match s.translate part ctx comp .fetch (va % 2 ^ 56) with
  | .error x => .error x
  | .ok (.mem pa key) => .ok (s.homeByte key pa)
  | .ok _ => .error ⟨3, 8, 9, va⟩

/-- n bytes of code, one translation each: a word may span two pages. -/
def State.fetchMany (s : State) (part ctx comp : Nat) : Nat → Nat → Except AccErr (List Byte)
  | 0, _ => .ok []
  | n + 1, va =>
    match s.fetchByte part ctx comp va with
    | .error x => .error x
    | .ok b => match s.fetchMany part ctx comp n (va + 1) with
      | .error x => .error x
      | .ok bs => .ok (b :: bs)

/-- The 12 bytes at a PC: one translation within a 64 KiB page. A failure is protection with DETAIL 9 and the word's
first address, or a malformed table entry (R147, R185, R277). The bytes are those that home memory holds now: of the old and the
new bytes that R148 allows before sr.ctlsync, the new ones (DESIGN CHOICE, log 21). -/
def State.fetch (s : State) (part ctx comp pc : Nat) : Except Trap (List Byte) :=
  if pc % 4 ≠ 0 then .error ⟨9, 2, pc⟩
  else
    let fail (x : AccErr) : Trap := if x.cause = 2 then ⟨2, 0xFF, x.addr⟩ else ⟨8, 9, pc⟩
    if pc % 65536 ≤ 65524 then
      match s.translate part ctx comp .fetch pc with
      | .error x => .error (fail x)
      | .ok (.mem pa key) => .ok (s.homeBytes key pa 12)
      | .ok _ => .error ⟨8, 9, pc⟩
    else match s.fetchMany part ctx comp 12 pc with
      | .error x => .error (fail x)
      | .ok bs => .ok bs

/-- Which agent a group is for the decoder. -/
def Iss.agent (k : Iss) : Agent := if k.t.mast then .mast k.gr.handler.isSome else .group k.gr.handler.isSome

/-- The tag of a vat tile (05 R111). -/
def Team.rvtag (t : Team) (n : Nat) : Nat := (SMap.get 0xE0#8 t.vattag n).toNat

/-- vatst from an INT48 tile to an integer format rounds nothing, so a RND other than 0 is unused (16 R361, 14 R316, 12
R272): the one rule of step 5c that looks beyond the word. It comes before step 5d and after the rest of 5a to 5c (R455). -/
def Iss.vatstRnd (k : Iss) (bs : List Byte) : Option Trap :=
  let r := rawOf (ofBytes bs)
  if r.op = 0x284 && rndF r != 0 && tagInt (16 * tyF r + subF r) && tagInt (k.t.rvtag (r.a % 16)) then some ⟨3, 4, r.md⟩ else none

/-- A ring instruction that names a ring the team does not have (15 R349): a rule of step 5d on the word's IMM (R455). -/
def Iss.ringWord (k : Iss) (bs : List Byte) : Option Trap :=
  let r := rawOf (ofBytes bs)
  if 0x249 ≤ r.op ∧ r.op ≤ 0x24B ∧ k.t.lrec.rings.length ≤ r.imm % 8 then some ⟨3, 5, r.imm⟩ else none

/-- The instruction at the issuing entry's PC, or the trap of steps 1 to 5 (12 R261). -/
def State.fetchIss (s : State) (k : Iss) : Decoded :=
  match s.fetch k.t.part k.t.ctx k.t.comp k.e.pc.toNat with
  | .error t => .trap t
  | .ok bs => match decodeBytes k.agent bs, k.vatstRnd bs with
    | .trap t, some x => .trap (if t.cause = 3 ∧ t.detail = 5 then x else t)
    | .instr _, some x => .trap x
    | .instr i, none => (match k.ringWord bs with | some x => .trap x | none => .instr i)
    | .trap t, none => .trap t

end Sys2Proof.Machine
end

