-- ==== Sys2Proof/Machine/DxpOps.lean ====
section
/-!
DEFINITION. Machine/DxpOps.lean: issue on a transfer processor (17 R385-R387), DXP faults and their records (07 R169,
17 R395), and the end of a program (R392).
-/
namespace Sys2Proof.Machine

open Host (Outcome)

/-- The running program of a DXP: what every meaning of its instruction reads. -/
structure Dss where
  core : Nat
  x : Dxp
  run : DxRun
  t : Team

/-- The running program that the next step's instruction belongs to. -/
def State.dxIssuer (s : State) : Option Dss :=
  match s.cur with
  | some (.dxp core) =>
    let x := (s.core core).dxp
    match x.run with
    | none => none
    | some r =>
      if r.ending.isSome then none
      else match s.team? r.cmd.tid with
        | some t => some ⟨core, x, r, t⟩
        | none => none
  | _ => none

/-- A d register. -/
def Dxp.rd (x : Dxp) (n : Nat) : W64 := SMap.get 0#64 x.d n
/-- Write a d register. -/
def Dxp.wd (x : Dxp) (n : Nat) (v : W64) : Dxp := { x with d := SMap.set 0#64 x.d n v }
/-- A d register operand's value, or zero. -/
def Dxp.val (x : Dxp) (o : Operand) : Nat :=
  match o with
  | .s n => (x.rd n.toNat).toNat
  | _ => 0

/-- Write a destination, which may be nil. -/
def Dxp.wop (x : Dxp) (o : Operand) (v : W64) : Dxp :=
  match o with
  | .s n => x.wd n.toNat v
  | _ => x

/-- The dxfers of a core's program that are not complete (R391). -/
def Core.dxfers (c : Core) : List CopyOp := c.copies.filter fun o => o.dx

/-- Record a DXP fault of a team (07 R169, 05 R122): its record, if the queue has room, and DXPSTAT. thread is the
thread index, for a copy of the engine (17 R377). -/
def State.dxRecord (s : State) (core tid : Nat) (pc : Pc) (thread : Nat) (tr : Trap) : State :=
  match s.team? tid with
  | none => s
  | some t =>
    let r0 := mkRec t 0 tr.cause tr.detail tr.addr false 0 pc 0 0
    let r := { r0 with thread := BitVec.ofNat 9 thread }
    let s1 := s.modDxp core fun x => if x.trapq.length < 8 then { x with trapq := x.trapq ++ [(tid, r)] } else x
    s1.setTeam tid { t with faults := satAdd t.faults 1, lastCode := BitVec.ofNat 8 tr.cause, faulted := true }

/-- Post a copy-complete or DXP fault record and complete the operation with it; with the queue full the engine holds
both (07 R166, 17 R377, R382, R395). -/
def State.postHeld (s : State) (core kind : Nat) (w1 w2 w3 : W64) (tid g opId : Nat) (fromDxp : Bool) : State :=
  if s.evCount core < 256 then (s.pushEv core kind w1 w2 w3).endOp tid g opId
  else s.modCore core fun c => { c with held := c.held ++ [⟨⟨BitVec.ofNat 64 kind, w1, w2, w3⟩, tid, g, opId, fromDxp⟩] }

/-- The DXP fault record of the event queue (07 R164). -/
def State.postDxFault (s : State) (core tid g opId : Nat) (pc : Pc) (tr : Trap) (fromDxp : Bool) : State :=
  match s.team? tid with
  | none => s
  | some t =>
    s.postHeld core 2 (BitVec.ofNat 64 tr.cause) (pc.setWidth 64) (BitVec.ofNat 64 (t.index + 2 ^ 32 * t.launch)) tid g
      opId fromDxp

/-- The program that is ending ends once its dxfers are complete: by dend or ret its operation completes; by a fault the
fault is recorded and posted (17 R392, R395). -/
def State.dxSettle (s : State) (core : Nat) : State :=
  let c := s.core core
  match c.dxp.run with
  | none => s
  | some r =>
    match r.ending with
    | none => s
    | some e =>
      if !c.dxfers.isEmpty then s
      else
        let tid := r.cmd.tid
        let s1 := (s.modDxp core fun x => { x with run := none }).modTeam tid fun t => { t with running := false }
        match e with
        | none => s1.endOp tid r.cmd.g r.cmd.opId
        | some tr =>
          (s1.dxRecord core tid c.dxp.pc 0 tr).postDxFault core tid r.cmd.g r.cmd.opId c.dxp.pc tr true

/-- A DXP fault stops the running program (R395). -/
def State.dxFault (s : State) (core : Nat) (tr : Trap) : State :=
  (s.modDxp core fun x => { x with run := x.run.map fun r => { r with ending := some (some tr), hold := none } }).dxSettle core

/-- The program reaches its end (R392). -/
def State.dxEnd (s : State) (core : Nat) : State :=
  (s.modDxp core fun x => { x with run := x.run.map fun r => { r with ending := some none, hold := none } }).dxSettle core

/-- Run a meaning of a DXP instruction: it gives the state, the next PC and the wait that is left. A pending dxsig stops
the program at this boundary (R384). -/
def runDW (s : State) (f : Dss → Except Bail (State × Pc × Option Hold)) : Outcome State Fault Refusal :=
  match s.dxIssuer with
  | none => .fault .noIssuer
  | some k =>
    match k.run.stop with
    | some tr => .next (s.dxFault k.core tr).done
    | none =>
      match f k with
      | .error (.trap c d a _) => .next (s.dxFault k.core ⟨c, d, a⟩).done
      | .error .halt => .next s.done
      | .error (.hold h) =>
        .next (s.modDxp k.core fun x => { x with run := x.run.map fun r => { r with hold := some h } }).done
      | .ok (s1, pc, h) =>
        .next (s1.modDxp k.core fun x => { x with pc := pc, run := x.run.map fun r => { r with hold := h } }).done

/-- Run a meaning of a DXP instruction that leaves no wait. -/
def runD (s : State) (f : Dss → Except Bail (State × Pc)) : Outcome State Fault Refusal :=
  runDW s fun k => match f k with
    | .error b => .error b
    | .ok (s1, pc) => .ok (s1, pc, none)

/-- The wait that the instruction has begun, when it is issued again. -/
def Dss.waiting (k : Dss) : Option Hold :=
  match k.run.hold with
  | some h => if h.started then some h else none
  | none => none

/-- Run a meaning that writes the DXP's registers alone. -/
def runDx (s : State) (f : Dss → Except Bail Dxp) : Outcome State Fault Refusal :=
  runD s fun k => match f k with
    | .error b => .error b
    | .ok x => .ok (s.modDxp k.core fun _ => x, k.x.pc + 12)

end Sys2Proof.Machine
end

