-- ==== Sys2Proof/Machine/Integer.lean ====
section
/-!
DEFINITION. Machine/Integer.lean: row 0x2, integer arithmetic, bit operations, comparison, selection, moves and
addresses (13 R278-R280, R290-R297), and the DXP's uniform forms (17 R386).
-/
namespace Sys2Proof.Machine

open Host (Outcome)

/-- The arithmetic and logical operations of row 0x2 (R290). -/
inductive IntOp where
  | add | sub | mul | mulh | mad | div | rem | min | max | abs | neg | and | or | xor | not
  | shl | shr | sar | rotl | popc | clz | brev | bfx | bfi | sadd
  deriving DecidableEq, Repr

/-- The element width: b1 is read as a 32-bit word. -/
def intWidth (tag : Nat) : Nat := if tag = 0xD0 then 32 else tagWidth tag

/-- An element as an integer, signed or unsigned by TYPE. -/
def intVal (tag x : Nat) : Int := if tagSigned tag then sextI (intWidth tag) x else (x : Int)

/-- The ones of a number, over n bits. -/
def ones (n x : Nat) : Nat := ((List.range n).filter fun i => bit x i).length

/-- Bit i of the result is bit n-1-i. -/
def reverseBits (n x : Nat) : Nat := (List.range n).foldl (fun a i => a + b2n (bit x i) * 2 ^ (n - 1 - i)) 0

/-- Division truncating toward zero, and its remainder (R291); by zero, all ones and the dividend. -/
def idivT (tag a b : Nat) : Int × Int :=
  let x := intVal tag a
  let y := intVal tag b
  if y = 0 then (intVal tag (2 ^ intWidth tag - 1), x) else (Int.tdiv x y, Int.tmod x y)

/-- A shift right of a w-bit pattern, the sign copied in (R292). -/
def sarBits (w x k : Nat) : Nat :=
  if k < w then wrapI w (sextI w x / (2 ^ k : Nat)) else if bit x (w - 1) then 2 ^ w - 1 else 0

/-- The field of bfx (R293). -/
def bfxBits (w a b sx : Nat) : Nat :=
  let p := b % 256
  let n := b / 256 % 256
  let f := if p < w then a / 2 ^ p % 2 ^ (min n (w - p)) else 0
  if n = 0 ∨ w ≤ p then 0
  else if sx = 1 then wrapI w (sextI (min n (w - p)) f) else f

/-- The field of bfi (R293). -/
def bfiBits (w a b d : Nat) : Nat :=
  let p := b % 256
  let n := min (b / 256 % 256) (w - p)
  if w ≤ p then d
  else d % 2 ^ p + a % 2 ^ n * 2 ^ p + d / 2 ^ (p + n) * 2 ^ (p + n)

/-- The exact result on element patterns a, b and d (R290-R293); a bit pattern stands as its unsigned number. -/
def intExact (op : IntOp) (tag sub a b d : Nat) : Int :=
  let w := intWidth tag
  let x := intVal tag a
  let y := intVal tag b
  match op with
  | .add => x + y
  | .sub => x - y
  | .mul => x * y
  | .mulh => (x * y) / (2 ^ w : Nat)
  | .mad => x * y + intVal tag d
  | .div => (idivT tag a b).1
  | .rem => (idivT tag a b).2
  | .min => if x ≤ y then x else y
  | .max => if x ≤ y then y else x
  | .abs => if x < 0 then -x else x
  | .neg => -x
  | .and => (a &&& b : Nat)
  | .or => (a ||| b : Nat)
  | .xor => (a ^^^ b : Nat)
  | .not => (2 ^ w - 1 - a : Nat)
  | .shl => if w ≤ b then 0 else (a * 2 ^ b % 2 ^ w : Nat)
  | .shr => if w ≤ b then 0 else (a / 2 ^ b : Nat)
  | .sar => (sarBits w a b : Nat)
  | .rotl => (a * 2 ^ (b % w) % 2 ^ w + a / 2 ^ (w - b % w) : Nat)
  | .popc => (ones w a : Nat)
  | .clz => (w - blen a : Nat)
  | .brev => (reverseBits w a : Nat)
  | .bfx => (bfxBits w a b sub : Nat)
  | .bfi => (bfiBits w a b d : Nat)
  | .sadd => x * (2 ^ sub : Nat) + y

/-- Fit the result of an element (R279); b1 wraps to its word. -/
def intFit (tag : Nat) (sat : Bool) (x : Int) : Nat × Nat :=
  if sat then fitInt tag true x else (wrapI (intWidth tag) x, 0)

/-- One register of an operation, element by element (R279): the result and its flags. -/
def intLane (op : IntOp) (tag : Nat) (sat : Bool) (sub a b d : Nat) : Nat × Nat :=
  let w := intWidth tag
  let n := if w = 64 then 1 else 32 / w
  let rs := (List.range n).map fun i =>
    intFit tag sat (intExact op tag sub (elemAt w a i) (elemAt w b i) (elemAt w d i))
  (ofElems w (rs.map Prod.fst), (rs.map Prod.snd).foldl flagsOr 0)

/-- Read a 64-bit uniform source by TYPE (R278). -/
def uniBits (tag x : Nat) : Nat := if tagWide tag then x else x % 2 ^ 32

/-- Extend a uniform result into 64 bits (R278). -/
def uniOut (tag x : Nat) : W64 :=
  if tagWide tag then BitVec.ofNat 64 x
  else if tagSigned tag then BitVec.ofNat 64 (wrapI 64 (sextI 32 x)) else BitVec.ofNat 64 (x % 2 ^ 32)

/-- The operation in uniform form: performed once (R278). -/
def intUniform (op : IntOp) (tag : Nat) (sat : Bool) (sub a b d : Nat) : W64 × Nat :=
  let r := intLane op tag sat sub (uniBits tag a) (uniBits tag b) (uniBits tag d)
  (uniOut tag r.1, r.2)

/-- A uniform source: an s register, IMM by the row of TYPE, or zero (R266, R278). -/
def Group.uniSrc (g : Group) (o : Operand) (tag imm : Nat) : Nat :=
  match o with
  | .s n => (g.rs n.toNat).toNat
  | .imm => (immOperand tag imm).getD 0
  | _ => 0

/-- A DXP source (17 R386). -/
def Dxp.uniSrc (x : Dxp) (o : Operand) (tag imm : Nat) : Nat :=
  match o with
  | .s n => (x.rd n.toNat).toNat
  | .imm => (immOperand tag imm).getD 0
  | _ => 0

/-- The vector or uniform form in a group. -/
def intGroup (op : IntOp) (readsD : Bool) (i : FnI) (k : Iss) : Except Bail Group :=
  let tag := 16 * tyCode i.ty
  let wide := tagWide tag
  let imm := i.imm.toNat
  let g := k.gr
  match i.d with
  | .s n =>
    let r := intUniform op tag i.sat i.sub.toNat (g.uniSrc i.a tag imm) (g.uniSrc i.b tag imm) (g.rs n.toNat).toNat
    .ok ((g.ws n.toNat r.1).wflags k.e.mask fun _ => r.2)
  | _ =>
    match g.checkTags i.a i.b i.d tag wide readsD with
    | .error x => .error x
    | .ok () =>
      .ok (g.wout i.d.idx wide k.e.mask (fun l =>
        let r := intLane op tag i.sat i.sub.toNat (g.src i.a tag wide imm l) (g.src i.b tag wide imm l)
          (g.src i.d tag wide imm l)
        ⟨r.1, r.2, g.rseed l⟩) tag)

/-- An instruction of R290 in a group or a DXP. -/
def intInstr (op : IntOp) (opc : Nat) (readsD : Bool) (i : FnI) (s : State) : Outcome State Fault Refusal :=
  match s.cur with
  | some (.dxp _) =>
    runDx s fun k =>
      let tag := 16 * tyCode i.ty
      let r := intUniform op tag i.sat i.sub.toNat (k.x.uniSrc i.a tag i.imm.toNat) (k.x.uniSrc i.b tag i.imm.toNat)
        (k.x.val i.d)
      .ok (k.x.wop i.d r.1)
  | _ => runG opc s i.toSlots (linesOf i.toSlots (tagWide (16 * tyCode i.ty)) 0) fun k => intGroup op readsD i k

def execIadd (i : FnI) (s : State) : Outcome State Fault Refusal := intInstr .add 0x081 false i s
def execIsub (i : FnI) (s : State) : Outcome State Fault Refusal := intInstr .sub 0x082 false i s
def execImul (i : FnI) (s : State) : Outcome State Fault Refusal := intInstr .mul 0x083 false i s
def execImulh (i : FnI) (s : State) : Outcome State Fault Refusal := intInstr .mulh 0x084 false i s
def execImad (i : FnI) (s : State) : Outcome State Fault Refusal := intInstr .mad 0x085 true i s
def execIdiv (i : FnI) (s : State) : Outcome State Fault Refusal := intInstr .div 0x086 false i s
def execIrem (i : FnI) (s : State) : Outcome State Fault Refusal := intInstr .rem 0x087 false i s
def execImin (i : FnI) (s : State) : Outcome State Fault Refusal := intInstr .min 0x088 false i s
def execImax (i : FnI) (s : State) : Outcome State Fault Refusal := intInstr .max 0x089 false i s
def execIabs (i : FnI) (s : State) : Outcome State Fault Refusal := intInstr .abs 0x08A false i s
def execIneg (i : FnI) (s : State) : Outcome State Fault Refusal := intInstr .neg 0x08B false i s
def execAnd (i : FnI) (s : State) : Outcome State Fault Refusal := intInstr .and 0x08C false i s
def execOr (i : FnI) (s : State) : Outcome State Fault Refusal := intInstr .or 0x08D false i s
def execXor (i : FnI) (s : State) : Outcome State Fault Refusal := intInstr .xor 0x08E false i s
def execNot (i : FnI) (s : State) : Outcome State Fault Refusal := intInstr .not 0x08F false i s
def execShl (i : FnI) (s : State) : Outcome State Fault Refusal := intInstr .shl 0x090 false i s
def execShr (i : FnI) (s : State) : Outcome State Fault Refusal := intInstr .shr 0x091 false i s
def execSar (i : FnI) (s : State) : Outcome State Fault Refusal := intInstr .sar 0x092 false i s
def execRotl (i : FnI) (s : State) : Outcome State Fault Refusal := intInstr .rotl 0x093 false i s
def execPopc (i : FnI) (s : State) : Outcome State Fault Refusal := intInstr .popc 0x094 false i s
def execClz (i : FnI) (s : State) : Outcome State Fault Refusal := intInstr .clz 0x095 false i s
def execBrev (i : FnI) (s : State) : Outcome State Fault Refusal := intInstr .brev 0x096 false i s
def execBfx (i : FnI) (s : State) : Outcome State Fault Refusal := intInstr .bfx 0x097 false i s
def execBfi (i : FnI) (s : State) : Outcome State Fault Refusal := intInstr .bfi 0x098 true i s
def execSadd (i : FnI) (s : State) : Outcome State Fault Refusal := intInstr .sadd 0x09D false i s

/-! ## isad (R294) -/

/-- The exact sum of isad: the accumulator plus the absolute differences of the elements. -/
def isadExact (tag a b d : Nat) : Nat :=
  let w := intWidth tag
  (List.range (32 / w)).foldl (fun acc i => acc + (intVal tag (elemAt w a i) - intVal tag (elemAt w b i)).natAbs) d

/-- isad in a group: vector form only; the accumulator is read under tag 0x10 and the result carries it. -/
def isadGroup (i : FnI) (k : Iss) : Except Bail Group :=
  let tag := 16 * tyCode i.ty
  let imm := i.imm.toNat
  let g := k.gr
  match g.checkTags i.a i.b i.d tag false false with
  | .error x => .error x
  | .ok () =>
    match g.checkTag i.d 0x10 false 3 with
    | .error x => .error x
    | .ok () =>
      .ok (g.wout i.d.idx false k.e.mask (fun l =>
        let x := isadExact tag (g.src i.a tag false imm l) (g.src i.b tag false imm l) (g.src i.d 0x10 false imm l)
        let r := fitInt 0x10 i.sat x
        ⟨r.1, r.2, g.rseed l⟩) 0x10)

def execIsad (i : FnI) (s : State) : Outcome State Fault Refusal :=
  runG 0x09E s i.toSlots (linesOf i.toSlots false 0) fun k => isadGroup i k

/-! ## Comparison (R295) -/

/-- The conditions of icmp. -/
def icmpCond (sub : Nat) (a b : Int) : Bool :=
  match sub with
  | 0 => a == b | 1 => a != b | 2 => decide (a < b) | 3 => decide (a ≤ b) | 4 => decide (b < a) | _ => decide (b ≤ a)

/-- The lanes of a mask for which a test holds. -/
def maskWhere (m : Mask) (f : Nat → Bool) : Mask := maskOf ((lanesOf m).filter f)

def icmpGroup (i : FnI) (k : Iss) : Except Bail Group :=
  let tag := 16 * tyCode i.ty
  let wide := tagWide tag
  let g := k.gr
  match g.checkTags i.a i.b .nil tag wide false with
  | .error x => .error x
  | .ok () =>
    .ok (g.wp i.d.idx k.e.mask (maskWhere k.e.mask fun l =>
      icmpCond i.sub.toNat (intVal tag (g.src i.a tag wide i.imm.toNat l)) (intVal tag (g.src i.b tag wide i.imm.toNat l))))

def execIcmp (i : FnI) (s : State) : Outcome State Fault Refusal :=
  runG 0x099 s i.toSlots (linesOf i.toSlots (tagWide (16 * tyCode i.ty)) 0) fun k => icmpGroup i k

/-! ## sel, mov, lea (R296, R297) -/

/-- The tags a tag-transparent move gives its destination and, for a pair, the register above it. -/
def Group.tagsOf (g : Group) (o : Operand) (tag : Nat) (wide : Bool) : Nat × Nat :=
  match o with
  | .v n => (g.rtag n.toNat, if wide then g.rtag (n.toNat + 1) else tag)
  | _ => (tag, tag)

/-- Write moved lanes with the tags they carry. -/
def Group.wmove (g : Group) (n : Nat) (wide : Bool) (m : Mask) (f : Nat → Nat) (tags : Nat × Nat) : Group :=
  if (lanesOf m).isEmpty then g
  else
    let g1 := g.wv n wide m f tags.1
    if wide then g1.wtag (n + 1) tags.2 else g1

def selGroup (i : FnI) (k : Iss) : Except Bail Group :=
  let tag := 16 * tyCode i.ty
  let wide := tagWide tag
  let g := k.gr
  let imm := i.imm.toNat
  let ta := g.tagsOf i.a tag wide
  let tb := g.tagsOf i.b tag wide
  if i.a.isV && i.b.isV && ta.1 != tb.1 then .error (.t 5 ta.1 (tb.1 + 2 ^ 8 * 2))
  else if i.a.isV && i.b.isV && wide && ta.2 != tb.2 then .error (.t 5 ta.2 (tb.2 + 2 ^ 8 * 2))
  else
    let act := g.guard i.guard k.e.mask
    .ok (g.wmove i.d.idx wide k.e.mask (fun l =>
      if act.getLsbD l then g.src i.a tag wide imm l else g.src i.b tag wide imm l) (if i.a.isV then ta else tb))

def execSel (i : FnI) (s : State) : Outcome State Fault Refusal :=
  runG 0x09A s i.toSlots (linesOf i.toSlots (tagWide (16 * tyCode i.ty)) 0) fun k => selGroup i k

def movGroup (i : FnI) (k : Iss) : Except Bail Group :=
  let tag := 16 * tyCode i.ty
  let wide := tagWide tag
  let g := k.gr
  match i.d with
  | .s n => .ok (g.ws n.toNat (uniOut tag (uniBits tag (g.uniSrc i.a tag i.imm.toNat))))
  | _ => .ok (g.wmove i.d.idx wide k.e.mask (fun l => g.src i.a tag wide i.imm.toNat l) (g.tagsOf i.a tag wide))

def execMov (i : FnI) (s : State) : Outcome State Fault Refusal :=
  match s.cur with
  | some (.dxp _) =>
    runDx s fun k =>
      let tag := 16 * tyCode i.ty
      .ok (k.x.wop i.d (uniOut tag (uniBits tag (k.x.uniSrc i.a tag i.imm.toNat))))
  | _ => runG 0x09B s i.toSlots (linesOf i.toSlots (tagWide (16 * tyCode i.ty)) 0) fun k => movGroup i k

/-- The address of lea (R297): base plus the scaled offset, modulo 2^64. -/
def leaAddr (tag sub base off : Nat) : Nat :=
  let o : Nat := match tag / 16 with
    | 0 => wrapI 64 (sextI 32 off)
    | 1 => off % 2 ^ 32
    | _ => off % 2 ^ 64
  (base + o * 2 ^ sub) % 2 ^ 64

def leaGroup (i : FnI) (k : Iss) : Except Bail Group :=
  let tag := 16 * tyCode i.ty
  let wide := tagWide tag
  let g := k.gr
  let imm := i.imm.toNat
  match g.checkTag i.a 0x30 true 1 with
  | .error x => .error x
  | .ok () =>
    match g.checkTag i.b tag wide 2 with
    | .error x => .error x
    | .ok () =>
      match i.d with
      | .s n =>
        .ok (g.ws n.toNat (BitVec.ofNat 64 (leaAddr tag i.sub.toNat (g.uni i.a imm) (g.uniSrc i.b tag imm))))
      | _ =>
        .ok (g.wv i.d.idx true k.e.mask (fun l =>
          leaAddr tag i.sub.toNat (if i.a.isImm then imm else g.src i.a 0x30 true imm l) (g.src i.b tag wide imm l)) 0x30)

def execLea (i : FnI) (s : State) : Outcome State Fault Refusal :=
  match s.cur with
  | some (.dxp _) =>
    runDx s fun k =>
      let tag := 16 * tyCode i.ty
      let base := if i.a.isImm then i.imm.toNat else k.x.val i.a
      .ok (k.x.wop i.d (BitVec.ofNat 64 (leaAddr tag i.sub.toNat base (k.x.uniSrc i.b tag i.imm.toNat))))
  | _ => runG 0x09C s i.toSlots (linesOf i.toSlots true 0) fun k => leaGroup i k

end Sys2Proof.Machine
end

