-- ==== Sys2Proof/Machine/Control.lean ====
section
/-!
DEFINITION. Machine/Control.lean: row 0x1, branches, calls, lane exchange and convergence registers (13 R281-R288; the
matrix issue of cvsign stands in Machine/Matrix.lean), and the DXP's branches (17 R386).
-/
namespace Sys2Proof.Machine

open Host (Outcome)

/-! ## Branches and calls (R281-R283) -/

/-- pc + sext(IMM, 64), 56 bits (R281). -/
def relTarget (pc : Pc) (imm : BitVec 32) : Pc := pc + imm.signExtend 56

/-- The target that operand A gives a lane (R281, R283). -/
def Group.jumpTo (g : Group) (a : Operand) (l : Nat) : Pc := BitVec.ofNat 56 (g.src a 0x30 true 0 l)

/-- Where each lane of the entry goes: to next for an active lane, past the instruction for another. -/
def Iss.go (k : Iss) (gd : Guard) (next : Nat → Option Pc) : List (Pc × Mask) :=
  let act := k.gr.guard gd k.e.mask
  targets k.e.mask fun l => if act.getLsbD l then next l else some (k.e.pc + 12)

/-- A lane's call stack. -/
def Group.stack (g : Group) (l : Nat) : Calls := SMap.get Calls.empty g.calls l

/-- Set a lane's call stack. -/
def Group.setStack (g : Group) (l : Nat) (c : Calls) : Group := { g with calls := SMap.set Calls.empty g.calls l c }

/-- Push a lane's return address; with 16 on chip the oldest of them first goes to the lane's spill region (02 R39). -/
def Group.push (g : Group) (l : Nat) (pc : Pc) : Group :=
  let c := g.stack l
  if c.chip.length < 16 then g.setStack l { c with chip := pc :: c.chip }
  else
    let old : W64 := ((c.chip[15]?).getD 0).setWidth 64
    { g.setStack l ⟨pc :: c.chip.take 15, c.spilled + 1⟩ with spill := SMap.set 0#64 g.spill (32 * c.spilled + l) old }

/-- The newest return address of a lane, on chip or spilled (R39). -/
def Group.top (g : Group) (l : Nat) : Option Pc :=
  match g.stack l with
  | ⟨p :: _, _⟩ => some p
  | ⟨[], n + 1⟩ => some ((SMap.get 0#64 g.spill (32 * n + l)).setWidth 56)
  | ⟨[], 0⟩ => none

/-- Pop it; a spilled entry's bytes stay as they are (R447). -/
def Group.pop (g : Group) (l : Nat) : Group :=
  match g.stack l with
  | ⟨_ :: ps, n⟩ => g.setStack l ⟨ps, n⟩
  | ⟨[], n + 1⟩ => g.setStack l ⟨[], n⟩
  | ⟨[], 0⟩ => g

/-- The line of the image that holds a lane's spilled entry k (R447). -/
def spillLine (l k : Nat) : Nat := 320 + 2 * k + l / 16

/-- A spilled line that a push or pop of these lanes touches is not in the register cache. -/
def Iss.spillMiss (k : Iss) (ls : List Nat) (of : Nat → Option Nat) : Bool :=
  ls.any fun l => match of l with | some n => k.missing ([spillLine l n], []) | none => false

/-- The calls of the active lanes (R281, R282). -/
def callLanes (gd : Guard) (next : Nat → Pc) (s : State) (k : Iss) : Except Bail (State × List (Pc × Mask)) :=
  let act := lanesOf (k.gr.guard gd k.e.mask)
  let spills (l : Nat) : Bool := decide (16 ≤ (k.gr.stack l).chip.length)
  if act.any fun l => spills l && decide (k.t.lrec.spill ≤ (k.gr.stack l).spilled) then
    .error (.t 14 0 k.t.lrec.spill)
  else if k.spillMiss act fun l => if spills l then some (k.gr.stack l).spilled else none then
    .error (.hold (Hold.wait 1))
  else
    let g1 := act.foldl (fun (g : Group) l => g.push l (k.e.pc + 12)) k.gr
    .ok ((s.modGroup k.tid k.g fun _ => g1).count k.t.core 0x0F (b2n (act.any spills)),
      k.go gd fun l => some (next l))

/-- The tag check of a computed target (R283). -/
def Iss.jumpTag (k : Iss) (a : Operand) : Except Bail Unit := k.gr.checkTag a 0x30 true 1

def execBra (i : Slots) (s : State) : Outcome State Fault Refusal :=
  runJ 0x041 s i ([], []) fun k => .ok (s, k.go i.guard fun _ => some (relTarget k.e.pc i.imm))

def execBrx (i : Slots) (s : State) : Outcome State Fault Refusal :=
  runJ 0x042 s i (linesOf i true 0) fun k => match k.jumpTag i.a with
    | .error x => .error x
    | .ok () => .ok (s, k.go i.guard fun l => some (k.gr.jumpTo i.a l))

def execCall (i : Slots) (s : State) : Outcome State Fault Refusal :=
  runJ 0x043 s i ([], []) fun k => callLanes i.guard (fun _ => relTarget k.e.pc i.imm) s k

def execCalli (i : Slots) (s : State) : Outcome State Fault Refusal :=
  runJ 0x044 s i (linesOf i true 0) fun k => match k.jumpTag i.a with
    | .error x => .error x
    | .ok () => callLanes i.guard (k.gr.jumpTo i.a) s k

def execRet (i : Slots) (s : State) : Outcome State Fault Refusal :=
  runJ 0x045 s i ([], []) fun k =>
    let act := lanesOf (k.gr.guard i.guard k.e.mask)
    if k.spillMiss act fun l =>
        let c := k.gr.stack l
        if c.chip.isEmpty && decide (c.spilled ≠ 0) then some (c.spilled - 1) else none then .error (.hold (Hold.wait 1))
    else
      let g1 := act.foldl (fun (g : Group) l => g.pop l) k.gr
      .ok (s.modGroup k.tid k.g fun _ => g1, k.go i.guard k.gr.top)

/-! ## The DXP's branches (17 R386) -/

def execDxpBra (i : Slots) (s : State) : Outcome State Fault Refusal :=
  runD s fun k =>
    .ok (s, if i.a.isNil || decide (k.x.val i.a ≠ 0) then relTarget k.x.pc i.imm else k.x.pc + 12)

def execDxpCall (i : Slots) (s : State) : Outcome State Fault Refusal :=
  runD s fun k =>
    .ok (s.modDxp k.core fun x => x.wd 31 ((k.x.pc + 12).setWidth 64), relTarget k.x.pc i.imm)

def execDxpRet (_i : Slots) (s : State) : Outcome State Fault Refusal :=
  runD s fun k =>
    if k.x.rd 31 = 0 then .ok (s.dxEnd k.core, k.x.pc) else .ok (s, (k.x.rd 31).setWidth 56)

/-! ## Lane exchange and participation (R284, R285) -/

/-- The lanes of the entry whose predicate A is true. -/
def Iss.voters (k : Iss) (a : Operand) : Mask := k.e.mask &&& k.gr.rp a.idx

def voteGroup (i : FnI) (k : Iss) : Except Bail Group :=
  let t := k.voters i.a
  let ls := lanesOf t
  let pd (b : Bool) : Group := k.gr.wp i.d.idx k.e.mask (if b then k.e.mask else 0)
  .ok (match i.sub.toNat with
    | 0 => pd (t == k.e.mask)
    | 1 => pd (t != 0)
    | 2 => pd (t == k.e.mask || t == 0)
    | 3 => k.gr.ws i.d.idx (t.setWidth 64)
    | 4 => k.gr.ws i.d.idx (BitVec.ofNat 64 ls.length)
    | 5 => k.gr.ws i.d.idx (BitVec.ofNat 64 ((ls.head?).getD 32))
    | _ => k.gr.ws i.d.idx (BitVec.ofNat 64 ((ls.getLast?).getD 32)))

def execVote (i : FnI) (s : State) : Outcome State Fault Refusal :=
  runG 0x046 s i.toSlots (linesOf i.toSlots false 0) fun k => voteGroup i k

/-- A shfl control word that its table does not accept (R285). -/
def shflBad (c : Nat) : Bool := decide (5 ≤ bits c 10 8) || decide (c / 2 ^ 12 ≠ 0)

/-- The lane a lane reads, none where it lies outside the segment (R285). -/
def shflFrom (mode c l : Nat) : Option Nat :=
  let w := 32 / 2 ^ bits c 10 8
  let p := l % w
  let amt := bits c 7 0
  let q : Int := match mode with
    | 0 => amt
    | 1 => p + sextI 8 amt
    | 2 => (p ^^^ amt : Nat)
    | _ => ((p + amt) % w : Nat)
  if 0 ≤ q ∧ q < w then some (l - p + q.toNat) else none

def shflGroup (i : FnI) (k : Iss) : Except Bail Group :=
  let tag := 16 * tyCode i.ty
  let wide := tagWide tag
  let g := k.gr
  let ctl (l : Nat) : Nat := g.src i.b 0 false i.imm.toNat l
  match g.checkTag i.b 0x10 false 2 with
  | .error x => .error x
  | .ok () =>
    match (lanesOf k.e.mask).find? fun l => shflBad (ctl l) with
    | some l => .error (.trap 3 3 (ctl l) (some (maskWhere k.e.mask fun j => shflBad (ctl j))))
    | none =>
      .ok (g.wmove i.d.idx wide k.e.mask (fun l =>
        match shflFrom i.sub.toNat (ctl l) l with
        | some j => g.src i.a tag wide 0 j
        | none => if bit (ctl l) 11 then 0 else g.src i.a tag wide 0 l) (g.tagsOf i.a tag wide))

def execShfl (i : FnI) (s : State) : Outcome State Fault Refusal :=
  runG 0x047 s i.toSlots (linesOf i.toSlots (tagWide (16 * tyCode i.ty)) 0) fun k => shflGroup i k

def execActmask (i : Slots) (s : State) : Outcome State Fault Refusal :=
  runG 0x048 s i (linesOf i false 0) fun k => .ok (k.gr.ws i.d.idx (k.e.mask.setWidth 64))

/-! ## Convergence registers (R286, R288) -/

/-- A convergence register. -/
def Team.cv (t : Team) (n : Nat) : Cv := SMap.get Cv.clear t.cvs n
/-- Set a convergence register. -/
def Team.setCv (t : Team) (n : Nat) (c : Cv) : Team := { t with cvs := SMap.set Cv.clear t.cvs n c }

/-- The set that cvdecl's operand declares (R286). -/
def declSet (a : Nat) : BitVec 512 :=
  (List.range 16).foldl (fun (x : BitVec 512) g =>
    if bit a g then x ||| (BitVec.ofNat 512 (bits a 63 32) <<< (32 * g)) else x) 0

def execCvdecl (i : Slots) (s : State) : Outcome State Fault Refusal :=
  runS 0x049 s i (linesOf i false 0) fun k =>
    let a := k.gr.uni i.a 0
    if bits a 31 16 ≠ 0 ∨ bits a 15 0 = 0 ∨ bits a 63 32 = 0 ∨ bits a 15 0 / 2 ^ k.t.groups.length ≠ 0 then
      .error (.t 3 2 a)
    else .ok (s.modTeam k.tid fun t =>
      t.setCv i.d.idx { t.cv i.d.idx with declared := declSet a, signed := 0, word := none })

/-- The bits that are set. -/
def popcount {w : Nat} (x : BitVec w) : Nat := ((List.range w).filter fun i => x.getLsbD i).length

/-- What cvtest reads by selector (R288). -/
def cvtestWord (c : Cv) (sel : Nat) : W64 :=
  if sel = 0 then
    BitVec.ofNat 64 (b2n c.phase + 2 * b2n (decide (c.declared ≠ 0)) + 4 * b2n c.word.isSome
      + 2 ^ 16 * popcount c.signed + 2 ^ 32 * popcount c.declared)
  else if sel ≤ 8 then (c.declared >>> (64 * (sel - 1))).setWidth 64
  else (c.signed >>> (64 * (sel - 9))).setWidth 64

def execCvtest (i : Slots) (s : State) : Outcome State Fault Refusal :=
  runG 0x04B s i (linesOf i false 0) fun k => .ok (k.gr.ws i.d.idx (cvtestWord (k.t.cv i.a.idx) i.imm.toNat))

end Sys2Proof.Machine
end

