-- ==== Sys2Proof/Machine/Moves.lean ====
section
/-!
DEFINITION. Machine/Moves.lean: row 0x3, broadcast, identity, constants and predicates (13 R298-R301).
-/
namespace Sys2Proof.Machine

open Host (Outcome)

/-- The lane that operand B names, or the trap of R298. -/
def Iss.pickLane (k : Iss) (b : Operand) (imm : Nat) : Except Bail Nat :=
  let n := k.gr.uni b imm
  if n < 32 then .ok n else .error (.t 3 3 n)

def bcastGroup (i : FnI) (k : Iss) : Except Bail Group :=
  let tag := 16 * tyCode i.ty
  let wide := tagWide tag
  match k.pickLane i.b i.imm.toNat with
  | .error x => .error x
  | .ok n => .ok (k.gr.wmove i.d.idx wide k.e.mask (fun _ => k.gr.src i.a tag wide 0 n) (k.gr.tagsOf i.a tag wide))

def execBcast (i : FnI) (s : State) : Outcome State Fault Refusal :=
  runG 0x0C1 s i.toSlots (linesOf i.toSlots (tagWide (16 * tyCode i.ty)) 0) fun k => bcastGroup i k

def extractGroup (i : FnI) (k : Iss) : Except Bail Group :=
  let tag := 16 * tyCode i.ty
  let wide := tagWide tag
  match k.gr.checkTag i.a tag wide 1 with
  | .error x => .error x
  | .ok () => match k.pickLane i.b i.imm.toNat with
    | .error x => .error x
    | .ok n => .ok (k.gr.ws i.d.idx (uniOut tag (k.gr.src i.a tag wide 0 n)))

def execExtract (i : FnI) (s : State) : Outcome State Fault Refusal :=
  runG 0x0C2 s i.toSlots (linesOf i.toSlots (tagWide (16 * tyCode i.ty)) 0) fun k => extractGroup i k

/-- The identity that getid selects for a lane (R299). -/
def Iss.ident (k : Iss) (sel l : Nat) : Nat :=
  if k.t.mast then
    (match sel with | 5 => 0xFFFFFFFF | 6 => clusterOf k.t.core | _ => 0)
  else match sel with
    | 0 => 32 * k.g + l
    | 1 => l
    | 2 => k.g
    | 3 => k.t.index
    | 4 => k.t.launch
    | 5 => k.t.core
    | 6 => clusterOf k.t.core
    | 7 => k.t.cpos
    | _ => k.t.lrec.teams - 1

def execGetid (i : FnI) (s : State) : Outcome State Fault Refusal :=
  runG 0x0C3 s i.toSlots (linesOf i.toSlots false 0) fun k =>
    .ok (match i.d with
      | .s n => k.gr.ws n.toNat (BitVec.ofNat 64 (k.ident i.sub.toNat 0))
      | _ => k.gr.wv i.d.idx false k.e.mask (fun l => k.ident i.sub.toNat l) (16 * tyCode i.ty))

/-- A 64-bit value with one half replaced (R300). -/
def putHalf (lo : Bool) (x imm : Nat) : Nat :=
  if lo then x / 2 ^ 32 * 2 ^ 32 + imm else imm * 2 ^ 32 + x % 2 ^ 32

def execLdk (i : FnI) (s : State) : Outcome State Fault Refusal :=
  runG 0x0C4 s i.toSlots (linesOf i.toSlots true 0) fun k =>
    let lo := i.sub == 1
    let tag := 16 * tyCode i.ty
    .ok (match i.d with
      | .s n => k.gr.ws n.toNat (BitVec.ofNat 64 (putHalf lo (k.gr.rs n.toNat).toNat i.imm.toNat))
      | _ => k.gr.wv i.d.idx true k.e.mask (fun l => putHalf lo (k.gr.src i.d tag true 0 l) i.imm.toNat) tag)

/-- The bits that a movp source gives the lanes. -/
def Group.predBits (g : Group) (o : Operand) (imm : Nat) : Mask :=
  match o with
  | .p n => g.rp n.toNat
  | _ => BitVec.ofNat 32 (g.uni o imm)

def execMovp (i : FnI) (s : State) : Outcome State Fault Refusal :=
  runG 0x0C5 s i.toSlots (linesOf i.toSlots false 0) fun k =>
    let a := k.gr.predBits i.a i.imm.toNat
    let b := k.gr.predBits i.b 0
    let wr (x : Mask) : Group := k.gr.wp i.d.idx k.e.mask x
    .ok (match i.sub.toNat with
      | 0 => wr a
      | 1 => wr (a &&& b)
      | 2 => wr (a ||| b)
      | 3 => wr (a ^^^ b)
      | 4 => wr (~~~a)
      | 5 => k.gr.ws i.d.idx ((a &&& k.e.mask).setWidth 64)
      | _ => wr a)

end Sys2Proof.Machine
end

