-- ==== Sys2Proof/Machine/Float.lean ====
section
/-!
DEFINITION. Machine/Float.lean: row 0x4, floating-point arithmetic, elementary functions, comparison, classes and dot
products (14 R302-R313).
-/
namespace Sys2Proof.Machine

open Host (Outcome)

/-- The binary operations of R307. -/
inductive FloatOp where
  | add | sub | mul | div | fma
  deriving DecidableEq, Repr

/-- The exact result of R307 on element codes a, b and d. -/
def floatExact (op : FloatOp) (tag rnd a b d : Nat) : XVal × Nat :=
  let f := fmtOf tag
  let x := fdecode f a
  let y := fdecode f b
  match op with
  | .add =>
    let r := addX rnd x.toX.1 y.toX.1
    (r.1, flagsOr (flagsOr x.toX.2 y.toX.2) r.2)
  | .sub =>
    let r := addX rnd x.toX.1 y.toX.1.neg
    (r.1, flagsOr (flagsOr x.toX.2 y.toX.2) r.2)
  | .mul => mulX x y
  | .div => divX x y
  | .fma =>
    let p := mulX x y
    let z := (fdecode f d).toX
    let r := addX rnd p.1 z.1
    (r.1, flagsOr (flagsOr p.2 z.2) r.2)

/-- One element of R307: rounded once under RND and SAT. -/
def floatElem (op : FloatOp) (tag rnd : Nat) (sat : Bool) (a b d draw : Nat) : Nat × Nat :=
  let x := floatExact op tag rnd a b d
  let r := deliver (fmtOf tag) rnd sat draw x.1
  (r.1, flagsOr x.2 r.2)

/-- The elements of one lane's register, in increasing index, each with its draw (R303). -/
def laneElems (tag rnd : Nat) (seed : W32) (f : Nat → Nat → Nat × Nat) : LaneOut :=
  let r := drawElems rnd f (tagElems tag) 0 seed
  ⟨ofElems (tagWidth tag) r.1, r.2.1, r.2.2⟩

/-- An instruction whose element i depends on elements i of A, B and D: a b d draw. -/
def elemGroup (i : Slots) (tag rnd : Nat) (readsD : Bool) (f : Nat → Nat → Nat → Nat → Nat × Nat) (outTag : Nat)
    (k : Iss) : Except Bail Group :=
  let g := k.gr
  let w := tagWidth tag
  match g.checkTags i.a i.b i.d tag false readsD with
  | .error x => .error x
  | .ok () =>
    .ok (g.wout i.d.idx false k.e.mask (fun l =>
      let a := g.src i.a tag false i.imm.toNat l
      let b := g.src i.b tag false i.imm.toNat l
      let d := g.src i.d tag false 0 l
      laneElems tag rnd (g.rseed l) fun j draw => f (elemAt w a j) (elemAt w b j) (elemAt w d j) draw) outTag)

/-- An instruction of R307. -/
def floatInstr (op : FloatOp) (opc : Nat) (i : RdI) (s : State) : Outcome State Fault Refusal :=
  runG opc s i.toSlots (linesOf i.toSlots false 0) fun k =>
    elemGroup i.toSlots (16 * tyCode i.ty) (rndCode i.rnd) (op == .fma)
      (floatElem op (16 * tyCode i.ty) (rndCode i.rnd) i.sat) (16 * tyCode i.ty) k

def execFadd (i : RdI) (s : State) : Outcome State Fault Refusal := floatInstr .add 0x101 i s
def execFsub (i : RdI) (s : State) : Outcome State Fault Refusal := floatInstr .sub 0x102 i s
def execFmul (i : RdI) (s : State) : Outcome State Fault Refusal := floatInstr .mul 0x103 i s
def execFfma (i : RdI) (s : State) : Outcome State Fault Refusal := floatInstr .fma 0x104 i s
def execFdiv (i : RdI) (s : State) : Outcome State Fault Refusal := floatInstr .div 0x112 i s

/-! ## Elementary functions (R308) -/

/-- An instruction of R308, by its number in elementary. -/
def elemInstr (fn opc : Nat) (i : RdI) (s : State) : Outcome State Fault Refusal :=
  runG opc s i.toSlots (linesOf i.toSlots false 0) fun k =>
    let tag := 16 * tyCode i.ty
    elemGroup i.toSlots tag (rndCode i.rnd) false
      (fun a _ _ draw => elementary fn tag (rndCode i.rnd) i.sat draw a) tag k

def execFrcp (i : RdI) (s : State) : Outcome State Fault Refusal := elemInstr 0 0x10A i s
def execFrsq (i : RdI) (s : State) : Outcome State Fault Refusal := elemInstr 1 0x10B i s
def execFsqrt (i : RdI) (s : State) : Outcome State Fault Refusal := elemInstr 2 0x10C i s
def execFexp2 (i : RdI) (s : State) : Outcome State Fault Refusal := elemInstr 3 0x10D i s
def execFlog2 (i : RdI) (s : State) : Outcome State Fault Refusal := elemInstr 4 0x10E i s
def execFsin (i : RdI) (s : State) : Outcome State Fault Refusal := elemInstr 5 0x10F i s
def execFcos (i : RdI) (s : State) : Outcome State Fault Refusal := elemInstr 6 0x110 i s
def execFtanh (i : RdI) (s : State) : Outcome State Fault Refusal := elemInstr 7 0x111 i s

/-! ## Rounding to an integral value (R309) -/

/-- The integral value of an element under a mode; NX where nx and the value changed. -/
def roundElem (tag rnd : Nat) (nx : Bool) (draw a : Nat) : Nat × Nat :=
  let f := fmtOf tag
  match fdecode f a with
  | .nan sig => (nanCode f, if sig then flagNV else 0)
  | .inf _ => (a, 0)
  | .num neg m e =>
    let r := roundInt rnd draw neg m e
    let c := if r.1 = 0 then signBit f neg else (encodeExact f neg r.1.natAbs 0).getD a
    (c, if nx && r.2 then flagNX else 0)

def execFfloor (i : FnI) (s : State) : Outcome State Fault Refusal :=
  runG 0x113 s i.toSlots (linesOf i.toSlots false 0) fun k =>
    let tag := 16 * tyCode i.ty
    let rnd := match i.sub.toNat with | 0 => 3 | 1 => 2 | _ => 1
    elemGroup i.toSlots tag 0 false (fun a _ _ _ => roundElem tag rnd false 0 a) tag k

def execFround (i : RdI) (s : State) : Outcome State Fault Refusal :=
  runG 0x114 s i.toSlots (linesOf i.toSlots false 0) fun k =>
    let tag := 16 * tyCode i.ty
    elemGroup i.toSlots tag (rndCode i.rnd) false (fun a _ _ draw => roundElem tag (rndCode i.rnd) true draw a) tag k

/-! ## Minimum, maximum, sign (R310) -/

/-- Order of R310: -0 below +0. -/
def ltTotal (a b : FVal) : Bool :=
  let c := cmpF a b
  decide (c < 0) || (c == 0 && a.sign && !b.sign)

/-- fmin or fmax of two element codes. -/
def minMaxElem (isMax nanRule : Bool) (tag a b : Nat) : Nat × Nat :=
  let f := fmtOf tag
  let x := fdecode f a
  let y := fdecode f b
  let fl := if x.isSig || y.isSig then flagNV else 0
  if x.isNan && y.isNan then (nanCode f, fl)
  else if x.isNan then (if nanRule then nanCode f else b, fl)
  else if y.isNan then (if nanRule then nanCode f else a, fl)
  else (if (if isMax then ltTotal x y else ltTotal y x) then b else a, fl)

def execFmin (i : FnI) (s : State) : Outcome State Fault Refusal :=
  runG 0x105 s i.toSlots (linesOf i.toSlots false 0) fun k =>
    let tag := 16 * tyCode i.ty
    elemGroup i.toSlots tag 0 false (fun a b _ _ => minMaxElem false (i.sub == 1) tag a b) tag k

def execFmax (i : FnI) (s : State) : Outcome State Fault Refusal :=
  runG 0x106 s i.toSlots (linesOf i.toSlots false 0) fun k =>
    let tag := 16 * tyCode i.ty
    elemGroup i.toSlots tag 0 false (fun a b _ _ => minMaxElem true (i.sub == 1) tag a b) tag k

/-- fabs and fneg of an element code. -/
def signElem (neg : Bool) (tag a : Nat) : Nat × Nat :=
  let f := fmtOf tag
  let x := fdecode f a
  let mag := a % 2 ^ (f.w - 1)
  if x.isNan then (nanCode f, if x.isSig then flagNV else 0)
  else if neg && !(bit a (f.w - 1)) then (mag + 2 ^ (f.w - 1), 0)
  else (mag, 0)

def execFabs (i : FnI) (s : State) : Outcome State Fault Refusal :=
  runG 0x107 s i.toSlots (linesOf i.toSlots false 0) fun k =>
    let tag := 16 * tyCode i.ty
    elemGroup i.toSlots tag 0 false (fun a _ _ _ => signElem false tag a) tag k

def execFneg (i : FnI) (s : State) : Outcome State Fault Refusal :=
  runG 0x108 s i.toSlots (linesOf i.toSlots false 0) fun k =>
    let tag := 16 * tyCode i.ty
    elemGroup i.toSlots tag 0 false (fun a _ _ _ => signElem true tag a) tag k

/-! ## Comparison and class (R311, R312) -/

/-- The condition of fcmp and its flag. -/
def fcmpElem (sub : Nat) (x y : FVal) : Bool × Nat :=
  let nan := x.isNan || y.isNan
  let sig := x.isSig || y.isSig
  let c := cmpF x y
  let r := match sub with
    | 0 => !nan && c == 0
    | 1 => nan || c != 0
    | 2 => !nan && decide (c < 0)
    | 3 => !nan && decide (c ≤ 0)
    | 4 => !nan && decide (0 < c)
    | 5 => !nan && decide (0 ≤ c)
    | 6 => nan
    | _ => !nan
  let quiet := decide (2 ≤ sub) && decide (sub ≤ 5)
  (r, if sig || (quiet && nan) then flagNV else 0)

def fcmpGroup (i : FnI) (k : Iss) : Except Bail Group :=
  let tag := 16 * tyCode i.ty
  let g := k.gr
  match g.checkTags i.a i.b .nil tag false false with
  | .error x => .error x
  | .ok () =>
    let r (l : Nat) : Bool × Nat :=
      fcmpElem i.sub.toNat (fdecode (fmtOf tag) (g.src i.a tag false i.imm.toNat l))
        (fdecode (fmtOf tag) (g.src i.b tag false i.imm.toNat l))
    .ok ((g.wp i.d.idx k.e.mask (maskWhere k.e.mask fun l => (r l).1)).wflags k.e.mask fun l => (r l).2)

def execFcmp (i : FnI) (s : State) : Outcome State Fault Refusal :=
  runG 0x109 s i.toSlots (linesOf i.toSlots false 0) fun k => fcmpGroup i k

/-- The class bit of an element (R312). -/
def classBit (f : FFmt) (a : Nat) : Nat :=
  match fdecode f a with
  | .nan sig => if sig then 0 else 1
  | .inf neg => if neg then 2 else 9
  | .num neg m _ =>
    let sub := decide (a % 2 ^ (f.w - 1) < 2 ^ f.fb)
    if m = 0 then (if neg then 5 else 6)
    else if sub then (if neg then 4 else 7)
    else if neg then 3 else 8

def execFclass (i : FnI) (s : State) : Outcome State Fault Refusal :=
  runG 0x115 s i.toSlots (linesOf i.toSlots false 0) fun k =>
    let tag := 16 * tyCode i.ty
    elemGroup i.toSlots tag 0 false (fun a _ _ _ => (2 ^ classBit (fmtOf tag) a, 0)) 0x10 k

/-! ## Dot products (R313, 04 R105, R108) -/

/-- The dot product of a lane: n products and the accumulator, rounded once. -/
def dotLane (tag n rnd : Nat) (sat : Bool) (a b d : Nat) (seed : W32) : LaneOut :=
  let f := fmtOf tag
  let w := tagWidth tag
  let ps := (List.range n).map fun j => mulX (fdecode f (elemAt w a j)) (fdecode f (elemAt w b j))
  let sm := sumProducts ps
  let z := (fdecode (fmtOf 0x80) d).toX
  let x := accX rnd z.1 sm.1
  let sd := if rnd = 4 then nextSeed seed else seed
  let r := deliver (fmtOf 0x80) rnd sat sd.toNat x.1
  ⟨r.1, flagsOr (flagsOr sm.2 z.2) (flagsOr x.2 r.2), sd⟩

/-- fdot2 and fdot4: D is the binary32 accumulator. -/
def dotGroup (n : Nat) (i : RdI) (k : Iss) : Except Bail Group :=
  let tag := tagOf i.ty i.var.toNat
  let g := k.gr
  match g.checkTags i.a i.b .nil tag false false with
  | .error x => .error x
  | .ok () => match g.checkTag i.d 0x80 false 3 with
    | .error x => .error x
    | .ok () =>
      .ok (g.wout i.d.idx false k.e.mask (fun l =>
        dotLane tag n (rndCode i.rnd) i.sat (g.src i.a tag false i.imm.toNat l) (g.src i.b tag false i.imm.toNat l)
          (g.src i.d 0x80 false 0 l) (g.rseed l)) 0x80)

def execFdot2 (i : RdI) (s : State) : Outcome State Fault Refusal :=
  runG 0x116 s i.toSlots (linesOf i.toSlots false 0) fun k => dotGroup 2 i k

def execFdot4 (i : RdI) (s : State) : Outcome State Fault Refusal :=
  runG 0x117 s i.toSlots (linesOf i.toSlots false 0) fun k => dotGroup 4 i k

end Sys2Proof.Machine
end

