-- ==== Sys2Proof/Machine/Fabric.lean ====
section
/-!
DEFINITION. Machine/Fabric.lean: what a core sends over Lornan (10 R234-R236, 19 R434-R436, R457, 24 R449, R450): paths,
packets, the write-combining buffer (07 R173), shroud markers and releases (10 R230, R235, R236).
-/
namespace Sys2Proof.Machine

/-! ## Paths and packets -/

/-- A path entry of the path table (08 R198). -/
def State.pathEntry (s : State) (d i : Nat) : Nat := (SMap.get (0 : W64) s.paths (8 * d + i)).toNat

/-- A port has trained and is not down (19 R434). -/
def State.portUp (s : State) (port : Nat) : Bool := (SMap.get Port.down s.ports port).up

/-- The valid paths to a device whose bits include bit need of R198; need 0 asks for nothing more than V. -/
def State.pathsTo (s : State) (d need : Nat) : List Nat :=
  (List.range 8).filter fun i => bit (s.pathEntry d i) 0 && bit (s.pathEntry d i) need && s.portUp (bits (s.pathEntry d i) 23 16)

/-- The flits of a packet: 240 bytes of each flit are not its tag; the payload ends with a tag of its own (R436). -/
def pktFlits (p : Packet) : Nat := ceilDiv (48 + p.payload.length) 240

/-- The number that packets of a core carry: a mast core's are those of the core at position 0 of its cluster (DESIGN CHOICE,
log 13: SCORE is 0 to 191, and R436 gives a mast core none). -/
def srcCore (core : Nat) : Nat := if core < 192 then core else 12 * (core - 192)

/-- A packet from a core (R436); its path and number are filled in when it is sent. -/
def mkPacket (kind part dev core addr arg : Nat) (payload : List Byte) : Packet :=
  { kind := BitVec.ofNat 8 kind, path := 0, cont := decide (192 < payload.length), rsv := 0, sdev := Config.devNum
    spart := BitVec.ofNat 4 part, ddev := BitVec.ofNat 12 dev, dpart := 0, score := BitVec.ofNat 8 (srcCore core), colours := 0
    seq := 0, rtag := 0, addr := BitVec.ofNat 64 addr, len := BitVec.ofNat 16 payload.length, status := 0
    arg := BitVec.ofNat 32 arg, payload := payload }

/-- A port's counter at which it trains again (R434). -/
def portLimit : Nat := 2 ^ 96 - 2 ^ 32

/-- A port under a fresh link key, its counter from 0. -/
def State.freshPort (s : State) (port : Nat) : State :=
  { s with ports := SMap.set Port.down s.ports port ⟨true, 0, s.keyNext⟩, keyNext := s.keyNext + 1 }

/-- A packet leaves through the port of a path, whose counter advances by one a flit; a port whose counter the packet would
carry past its limit trains again first (R434, R436). -/
def State.depart (s : State) (p : Packet) (path : Nat) : State :=
  let u := 8 + bits (s.pathEntry p.ddev.toNat path) 23 16
  let s1 := s.countUnit u p.spart.toNat 0x44 (pktFlits p)
  let s2 := if p.kind = 7 then s1.countUnit u p.spart.toNat 0x46 1 else s1
  let port := bits (s.pathEntry p.ddev.toNat path) 23 16
  let s3 := if portLimit < (SMap.get Port.down s2.ports port).ctr.toNat + pktFlits p then s2.freshPort port else s2
  let x := SMap.get Port.down s3.ports port
  let s4 : State := { s3 with ports := SMap.set Port.down s3.ports port { x with ctr := x.ctr + BitVec.ofNat 96 (pktFlits p) } }
  s4.emit (.packet { p with path := BitVec.ofNat 3 path })

/-- A core's packet is sent on a path, with its number (R436). -/
def State.sendOn (s : State) (core : Nat) (p : Packet) (path : Nat) : State :=
  let d := p.ddev.toNat
  let n := SMap.get (0 : W32) (s.core (srcCore core)).pktNo d
  (s.modCore (srcCore core) fun c => { c with pktNo := SMap.set 0 c.pktNo d (n + 1) }).depart
    { p with seq := n, score := BitVec.ofNat 8 (srcCore core) } path

/-- A core's packet is sent on one of the valid paths, the sender's choice (R198); none where there is no such path. -/
def State.send (s : State) (core need : Nat) (p : Packet) : Option State :=
  match s.pathsTo p.ddev.toNat need with
  | [] => none
  | q :: qs =>
    let (c, s1) := s.drawChoice
    some (s1.sendOn core p (((q :: qs)[c % (q :: qs).length]?).getD q))

/-- A request: its tag is remembered with what it is for. -/
def State.request (s : State) (core need : Nat) (p : Packet) (why : ReqFor) : Option State :=
  let tag := s.nextTag
  match s.send core need { p with rtag := tag } with
  | none => none
  | some s1 => some { s1 with nextTag := tag + 1, reqs := s1.reqs ++ [⟨tag, p.ddev.toNat, why⟩] }

/-- A packet that no core sends goes on a path as one of some core, with its number: which core is not stated (a free choice,
log 4). -/
def State.sendAny (s : State) (p : Packet) (path : Nat) : State :=
  let (w, s1) := s.drawChoice
  s1.sendOn (w % 192) p path

/-- A response of the device (R457): on one valid path of its own table, the answer to a query about a handle on one that
carries invocations (18 R419); with none, nothing is sent. One that addresses a partition carries the requester's (R436). -/
def State.respond (s : State) (req : Packet) (kind part : Nat) (addr arg status : Nat) (payload : List Byte) : State :=
  let d := req.sdev.toNat
  match s.pathsTo d (if kind = 0x0C ∧ req.kind = 0x0C then 2 else 0) with
  | [] => s
  | q :: qs =>
    let (c, s1) := s.drawChoice
    s1.sendAny
      { mkPacket kind part d 0 addr arg payload with
        rtag := req.rtag, status := BitVec.ofNat 16 status, dpart := if kind = 0x0C ∨ kind = 0x0E then req.spart else 0 }
      (((q :: qs)[c % (q :: qs).length]?).getD q)

/-! ## Owed markers (10 R222, R450) -/

/-- Colours of a set. -/
def coloursOf (m : Nat) : List Nat := (List.range 8).filter fun c => bit m c

/-- A packet of some colours goes to a device: unacknowledged releases of the core remember it (R450). -/
def State.slipped (s : State) (core dev colours : Nat) : State :=
  { s with releases := s.releases.map fun r =>
      if r.core = core ∧ r.devs.contains dev ∧ !r.acked.contains dev then
        { r with since := r.since ++ (coloursOf colours).map fun c => (c, dev) }
      else r }

/-- A device enters the owed sets of some colours (R234). -/
def State.owe (s : State) (core dev colours : Nat) : State :=
  s.modCore core fun c =>
    { c with owed := c.owed ++ ((coloursOf colours).map fun k => (k, dev)).filter fun x => !c.owed.contains x }

/-! ## The write-combining buffer (07 R173) -/

/-- A store's bytes join those of an entry. -/
def addRef (refs : List StoreRef) (r : StoreRef) : List StoreRef :=
  if refs.any fun x => x.id == r.id then refs.map fun x => if x.id = r.id then { x with fail := x.fail ||| r.fail } else x
  else refs ++ [r]

/-- An imprecise record on a refused store (06 R141). -/
def State.refuseRef (s : State) (detail : Nat) (r : StoreRef) : State :=
  s.raiseLater r.tid r.g r.pc r.mask r.fail 8 detail r.va

/-- The entry at an index drains: its masked bytes become one packet, its destination is owed a marker for each of its
colours (R234); with no valid path its stores are refused with DETAIL 6. -/
def State.wcDrain (s : State) (core idx : Nat) : State :=
  match (s.core core).wc[idx]? with
  | none => s
  | some e =>
    let s1 := (s.modCore core fun c => { c with wc := c.wc.eraseIdx idx }).count core 0x0A 1
    let part := ((e.owners.head?).map Prod.fst).getD 0
    let p := { mkPacket 3 part e.dev core (128 * e.line) 0 (toBytes 16 e.mask.toNat ++ toBytes 128 e.data.toNat) with
               colours := e.colours }
    let tag := s1.nextTag
    match s1.send core 0 { p with rtag := tag } with
    | none => e.refs.foldl (fun (x : State) r => x.refuseRef 6 r) s1
    | some s2 =>
      let s3 : State := { s2 with
        nextTag := tag + 1
        reqs := s2.reqs ++ e.refs.map fun r => ⟨tag, e.dev, .store r⟩ }
      (s3.owe core e.dev e.colours.toNat).slipped core e.dev e.colours.toNat

/-- Every entry that a test selects drains, oldest first. -/
def State.wcDrainAll (s : State) (core : Nat) (p : WcEntry → Bool) : State :=
  (List.range (s.core core).wc.length).foldl (fun (x : State) _ =>
    match (x.core core).wc.findIdx? p with
    | some i => x.wcDrain core i
    | none => x) s

/-- The bytes of a 128-byte line replaced from an offset. -/
def lineSet (d : BitVec 1024) (off : Nat) (bs : List Byte) : BitVec 1024 :=
  let n := bs.length
  let m : Nat := (2 ^ (8 * n) - 1) * 2 ^ (8 * off)
  (d &&& ~~~(BitVec.ofNat 1024 m)) ||| BitVec.ofNat 1024 (ofBytes bs * 2 ^ (8 * off))

/-- A plain remote store of bytes that lie in one line merges into the buffer (R173, R234). -/
def State.wcPut (s : State) (core dev pa : Nat) (bs : List Byte) (colour : Nat) (owner : Nat × Nat)
    (ref : StoreRef) : State :=
  let ln := pa / 128
  let off := pa % 128
  let fit (c : Core) : Option Nat := c.wc.findIdx? fun e => e.dev == dev && e.line == ln
  let s1 := if (fit (s.core core)).isNone && decide (64 ≤ (s.core core).wc.length) then s.wcDrain core 0 else s
  let fill (e : WcEntry) : WcEntry :=
    { e with mask := e.mask ||| BitVec.ofNat 128 ((2 ^ bs.length - 1) * 2 ^ off), data := lineSet e.data off bs
             colours := e.colours ||| (1#8 <<< colour)
             owners := if e.owners.contains owner then e.owners else e.owners ++ [owner]
             refs := addRef e.refs ref }
  let s2 := s1.modCore core fun c =>
    match fit c with
    | some i => { c with wc := modAt c.wc i fill }
    | none => { c with wc := c.wc ++ [fill ⟨dev, ln, 0, 0, 0, s.rclk, [], []⟩] }
  match (s2.core core).wc.findIdx? fun e => e.mask == 0xFFFFFFFFFFFFFFFFFFFFFFFFFFFFFFFF#128 with
  | some i => s2.wcDrain core i
  | none => s2

/-- A byte that the buffer holds (10 R228 rule 4). -/
def Core.wcByte (c : Core) (dev pa : Nat) : Option Byte :=
  match c.wc.find? fun e => e.dev == dev && e.line == pa / 128 && e.mask.getLsbD (pa % 128) with
  | some e => some (byteAt e.data.toNat (pa % 128))
  | none => none

/-! ## Releases (10 R230, R235, R236) -/

/-- What a release does once nothing more is awaited. -/
def State.relFinish (s : State) (tid g : Nat) (why : RelFor) : State :=
  match why with
  | .store id => s.modGroup tid g fun x => { x with sb := x.sb.map fun e => if e.id = id then { e with released := true } else e }
  | .atomic id => s.modGroup tid g fun x => { x with lq := x.lq.map fun e => if e.id = id then { e with released := true } else e }
  | .fence since => s.modGroup tid g fun x => x.mapHolds fun h =>
      if h.why = 12 ∧ h.since = since then { h with passed := true } else h
  | .marker id => s.endOp tid g id
  | .grid _ _ => s
  | .stop _ _ => s
  | .pend id => s.modGroup tid g fun x => { x with pend := x.pend.map fun e => if e.id = id then { e with released := true } else e }

/-- A release whose acknowledgements are all in sends its back-invalidations; with those answered too it finishes
(R235, R236). -/
def State.relAdvance (s : State) (id : Nat) : State :=
  match s.releases.find? fun r => r.id == id with
  | none => s
  | some r =>
    if !(r.devs.all fun d => r.acked.contains d) then s
    else if !r.told && !r.lines.isEmpty then
      let s1 := r.lines.foldl (fun (x : State × List Nat) ln =>
        let (n, y) := x.1.newOp
        (y.emit (.backInvalidate n ln), x.2 ++ [n])) (s, [])
      { s1.1 with releases := s1.1.releases.map fun q => if q.id = id then { q with told := true, lines := s1.2 } else q }
    else if r.told && !r.lines.isEmpty then s
    else ({ s with releases := s.releases.filter fun q => q.id != id } : State).relFinish r.tid r.g r.why

/-- A device leaves the owed sets of some colours. -/
def State.unowe (s : State) (core dev : Nat) (p : Nat → Bool) : State :=
  s.modCore core fun c => { c with owed := c.owed.filter fun x => !(x.2 == dev && p x.1) }

/-- The devices that a release of some colours marks: those owed, and others named (R235 step 2). -/
def Core.owedDevs (c : Core) (colours : Nat) (more : List Nat) : List Nat :=
  (((c.owed.filter fun x => bit colours x.1).map Prod.snd ++ more).filter fun d => d != Config.devNum.toNat).eraseDups

/-- Steps 2 to 4 of R235: marker copies down every valid path of each device; a device without one is answered as by
R449. A copy's ADDR holds how many copies there are (log 13). -/
def State.startMarkers (s : State) (core tid g part : Nat) (pc : Pc) (mask : Mask) (colours : Nat) (devs lines : List Nat)
    (why : RelFor) : State :=
  let no := (s.core (srcCore core)).relNo
  let tag := s.nextTag
  let s0 : State := { (s.modCore (srcCore core) fun c => { c with relNo := no + 1 }) with nextTag := tag + 1 }
  let st := devs.foldl (fun (x : State × List Nat) d =>
    match x.1.pathsTo d 0 with
    | [] => (((x.1.raiseLater tid g pc mask mask 8 6 d).unowe core d fun c => bit colours c), x.2)
    | ps =>
      let p := { mkPacket 7 part d core ps.length no.toNat [] with colours := BitVec.ofNat 8 colours, rtag := tag }
      (ps.foldl (fun (y : State) q => y.sendOn core p q) x.1, x.2 ++ [d])) (s0, [])
  let (id, s1) := st.1.newOp
  let r : Release := ⟨id, core, no, tag, tid, g, pc, mask, BitVec.ofNat 8 colours, st.2, [], [], lines, false, why⟩
  ({ s1 with releases := s1.releases ++ [r] } : State).relAdvance id

/-- The lines of this device's memory that a write-back of everything dirty writes: of the core view, and of the team's
mapped scratchpad lines. -/
def State.dirtyHome (s : State) (core tid : Nat) : List Nat :=
  let cv := (((s.core core).view.filter fun e => e.2.dirty).map fun e => e.1 / 128).eraseDups
  match s.team? tid with
  | none => cv
  | some t =>
    (cv ++ t.dirtyLines.filterMap fun ln =>
      match t.spmap.find? fun m => decide (32 * m.off ≤ ln) && decide (ln < 32 * (m.off + m.len % 512)) with
      | none => none
      | some m => match s.xlate t .store (m.vbase + t.index * m.tstride * 4096 + 128 * ln - 4096 * m.off) with
        | .ok (.mem pa _) => some (pa / 128)
        | _ => none).eraseDups

/-- The steps of a release of group g at a scope for some colours (R230); system scope is demoted in a partition limited
to tenant scope (R236). extra are destinations of the release's own remote bytes. -/
def State.releaseSteps (s : State) (core tid g part : Nat) (pc : Pc) (mask : Mask) (scope : Scope) (colours : Nat)
    (extra : List Nat) (why : RelFor) : State :=
  let demoted := scope == .sys && (s.part part).tenlim
  let s0 := if demoted then s.modPart part fun p => { p with demote := satAdd p.demote 1 } else s
  let lines := if scope == .sys && !demoted then s.dirtyHome core tid else []
  let n := scopeCode scope
  let s1 := if 2 ≤ n then s0.writeBack core fun _ _ => true else s0
  let s2 := if 3 ≤ n then s1.writeMap tid else s1
  if n < 4 then s2.relFinish tid g why
  else
    let s3 := s2.wcDrainAll core fun e => decide (e.colours.toNat &&& colours ≠ 0)
    s3.startMarkers core tid g part pc mask colours ((s3.core core).owedDevs colours extra) lines why

/-- A release that would send markers to a device whose path update is pending waits (08 R199). -/
def State.updatePending (s : State) (core colours : Nat) (extra : List Nat) : Bool :=
  let c := s.core core
  let ds := c.owedDevs colours extra ++ (c.wc.filter fun e => decide (e.colours.toNat &&& colours ≠ 0)).map fun e => e.dev
  s.pathUpds.any fun u => ds.contains u.dst

/-- What an acquire does in the step it completes (R231, 06 R145). -/
def State.acquire (s : State) (core tid : Nat) (scope : Scope) : State :=
  let n := scopeCode scope
  let s1 := if 2 ≤ n then s.modCore core fun c => c.dropClean else s
  if 3 ≤ n then (s1.writeMap tid).invalidateMap tid else s1

end Sys2Proof.Machine
end

