-- ==== Sys2Proof/Machine/Tables.lean ====
section
/-!
DEFINITION. Machine/Tables.lean: memory-resident tables as the device reads them (08 R184, R185, R191, R192): the block
priority map and the scratchpad map.
-/
namespace Sys2Proof.Machine

/-- n bytes at a virtual address of a context, each 32-byte sector translated and read once (R136, R185); remote
memory cannot be read. -/
def State.readVa (s : State) (part ctx comp : Nat) : Nat → Nat → Except AccErr (List Byte)
  | 0, _ => .ok []
  | n + 1, va =>
    match s.translate part ctx comp .load va with
    | .error x => .error x
    | .ok (.mem pa key) =>
      (match s.readVa part ctx comp n (va + 32) with
      | .error x => .error x
      | .ok bs => .ok (s.homeBytes key pa 32 ++ bs))
    | .ok _ => .error ⟨3, 8, 7, va⟩

/-- 64-bit word i of some bytes. -/
def wordAt (bs : List Byte) (i : Nat) : Nat := ofBytes (sliceD 0#8 bs (8 * i) 8)

/-- The words at a virtual address: n of them, from 16-byte-aligned addresses (a range of sectors that covers them). -/
def State.readWords (s : State) (part ctx comp va n : Nat) : Except AccErr (List Nat) :=
  let lead := va % 32
  match s.readVa part ctx comp (ceilDiv (lead + 8 * n) 32) (va - lead) with
  | .error x => .error x
  | .ok bs => .ok ((List.range n).map fun i => ofBytes (sliceD 0#8 bs (lead + 8 * i) 8))

/-! ## The block priority map (R191) -/

/-- The entries of a map. -/
def prioRanges (ws : List Nat) : Nat → Nat → List PrioRange
  | 0, _ => []
  | n + 1, i =>
    ⟨bits (ws.getD i 0) 55 0, bits (ws.getD (i + 1) 0) 55 0, BitVec.ofNat 8 (bits (ws.getD i 0) 63 56)⟩
      :: prioRanges ws n (i + 2)

/-- The address of the first range entry whose reserved bits are set (R185). -/
def badRange (ws : List Nat) (va n : Nat) : Option Nat :=
  ((List.range n).find? fun i => decide (2 ^ 56 ≤ ws.getD (2 * i + 1) 0)).map fun i => va + 16 + 16 * i

/-- A map as memory holds it; an error is the address of its first bad entry, the header's that of the map, or none where
the map cannot be read. -/
def State.readPrios (s : State) (part ctx comp va : Nat) : Except (Option Nat) (List PrioRange) :=
  if va = 0 then .ok []
  else match s.readWords part ctx comp va 2 with
    | .error _ => .error none
    | .ok hd =>
      let n := hd.getD 0 0
      if 65536 < n ∨ hd.getD 1 0 ≠ 0 then .error (some va)
      else match s.readWords part ctx comp (va + 16) (2 * n) with
        | .error _ => .error none
        | .ok ws => match badRange ws va n with
          | some a => .error (some a)
          | none => .ok (prioRanges ws n 0)

/-! ## The scratchpad map (R192) -/

/-- The eight entries of a scratchpad map; an entry that cannot be read is unused (log 12). -/
def State.readSpmap (s : State) (part ctx comp va : Nat) : List SpMapE :=
  if va = 0 then []
  else (List.range 8).map fun i =>
    match s.readWords part ctx comp (va + 16 * i) 2 with
    | .error _ => ⟨0, 0, 0, 0⟩
    | .ok ws => ⟨ws.getD 0 0, bits (ws.getD 1 0) 8 0, bits (ws.getD 1 0) 31 9, bits (ws.getD 1 0) 63 32⟩

/-- An entry is used. -/
def SpMapE.used (m : SpMapE) : Bool := m.len % 512 != 0

/-- A reserved bit of an entry is set (R185). -/
def SpMapE.bad (m : SpMapE) : Bool := decide (512 ≤ m.len) || decide (2 ^ 56 ≤ m.vbase) || decide (m.vbase % 4096 ≠ 0)

/-- Two used entries overlap (R192). -/
def SpMapE.overlap (a b : SpMapE) : Bool :=
  a.used && b.used && decide (a.off < b.off + b.len % 512) && decide (b.off < a.off + a.len % 512)

/-- The lines of an entry's range. -/
def SpMapE.holds (m : SpMapE) (ln : Nat) : Bool :=
  decide (32 * m.off ≤ ln) && decide (ln < 32 * (m.off + m.len % 512))

/-- A rewritten scratchpad map takes effect: dirty lines of changed entries are written back, their lines become
invalid (06 R145). -/
def State.newSpmap (s : State) (tid : Nat) : State :=
  match s.team? tid with
  | none => s
  | some t =>
    if t.mast then s
    else
      let nw := s.readSpmap t.part t.ctx t.comp t.lrec.spmap
      let gone := (List.range 8).filterMap fun i =>
        match t.spmap[i]? with
        | some m => if nw[i]? = some m then none else some m
        | none => none
      let hit (ln : Nat) : Bool := gone.any fun m => m.holds ln
      let s1 := (t.dirtyLines.filter hit).foldl (fun (x : State) ln => x.writeMapLine tid ln) s
      s1.modTeam tid fun u => { u with spmap := nw, lines := u.lines.filter fun e => !hit e.1 }

/-- A write of sr.ctlsync: the group's later lookups use what memory holds (R184, 06 R145). A bad priority map is that
write's to trap on, at the address given (R185); one that cannot be read gives every PC priority 0 (R191). -/
def State.ctlsync (s : State) (tid : Nat) : Except Nat State :=
  match s.team? tid with
  | none => .ok s
  | some t =>
    if t.mast then .ok s
    else match s.readPrios t.part t.ctx t.comp t.lrec.priomap with
      | .error (some a) => .error a
      | .error none => .ok ((s.modTeam tid fun u => { u with prios := [] }).newSpmap tid)
      | .ok ps => .ok ((s.modTeam tid fun u => { u with prios := ps }).newSpmap tid)

end Sys2Proof.Machine
end

