-- ==== Sys2Proof/Machine/Mem.lean ====
section
/-!
DEFINITION. Machine/Mem.lean: the addresses of memory instructions and the checks of them (15 R326-R328, R331, 06 R133,
R136, R139, R142, R144, 10 R234), shared by rows 0x6 to 0x9.
-/
namespace Sys2Proof.Machine

/-- The three address spaces of R326. -/
inductive Space where
  | glob | spad | uni
  deriving DecidableEq, Repr

/-- VAR of a memory instruction: IMM[31:28] for TYPE 0xB and 0xF (12 R273). -/
def memVar (i : MemI) : Nat := if i.ty = .b8 ∨ i.ty = .b8x then i.imm.toNat / 2 ^ 28 else 0
/-- The tag that TYPE and VAR name. -/
def memTag (i : MemI) : Nat := tagOf i.ty (memVar i)
/-- The offset of a load or store (R273, R326). -/
def memOff (i : MemI) : Int := if i.ty = .b8 ∨ i.ty = .b8x then sextI 28 i.imm.toNat else sextI 32 i.imm.toNat
/-- The offset of an atomic: IMM[26:0]. -/
def atomOff (i : MemI) : Int := sextI 27 i.imm.toNat
/-- The bytes of a lane's access (R327). -/
def memSize (i : MemI) : Nat := if tagWide (memTag i) then 8 else 4

/-- The address that operand A and an offset give lane l (R326). -/
def Group.addr (g : Group) (sp : Space) (a : Operand) (off : Int) (l : Nat) : Nat :=
  match sp with
  | .spad => wrapI 32 ((g.src a 0x10 false 0 l : Int) + off)
  | _ => wrapI 64 ((g.src a 0x30 true 0 l : Int) + off)

/-- The base register's tag check (R326). -/
def Group.checkBase (g : Group) (sp : Space) (a : Operand) : Except Bail Unit :=
  match sp with
  | .spad => g.checkTag a 0x10 false 1
  | _ => g.checkTag a 0x30 true 1

/-- A scratchpad access of n bytes, aligned to al (R142, R327). DESIGN CHOICE (log 22): among the failures of a unified
access of several lanes, an address that R142 forbids ranks after every failure of a global lane but misalignment. -/
def State.placeSpad (s : State) (k : Iss) (a n al : Nat) : Except AccErr Loc :=
  match s.spadLoc k.tid k.t a n with
  | none => .error ⟨7, 8, 5, a⟩
  | some l => if a % al = 0 then .ok l else .error ⟨8, 9, Nat.log2 al, a⟩

/-- The check of the last byte of an access that reaches over the end of its 64 KiB page, the smallest there is (R136). -/
def State.tailErr (s : State) (k : Iss) (kind : AccKind) (va n : Nat) : Option AccErr :=
  if va % 65536 + n ≤ 65536 then none
  else match s.xlate k.t kind (va + n - 1) with
    | .error e => some (if e.cause = 2 then e else { e with addr := va })
    | .ok _ => none

/-- The first of two failures in R136's order. -/
def AccErr.first (a : AccErr) (b : Option AccErr) : AccErr :=
  match b with
  | some x => if x.rank < a.rank then x else a
  | none => a

/-- A global access of n bytes: the checks of every page it touches come before its alignment (R136). -/
def State.placeGlob (s : State) (k : Iss) (kind : AccKind) (va n al : Nat) : Except AccErr Loc :=
  let tail := s.tailErr k kind va n
  match s.xlate k.t kind va with
  | .error e => .error (e.first tail)
  | .ok l => match tail with
    | some e => .error e
    | none => if va % al = 0 then .ok l else .error ⟨8, 9, Nat.log2 al, va⟩

/-- Where an access of n bytes at an address of a space lies (R326), or its first failed check (R136, R142). -/
def State.place (s : State) (k : Iss) (sp : Space) (kind : AccKind) (va n al : Nat) : Except AccErr Loc :=
  match sp with
  | .glob => s.placeGlob k kind va n al
  | .spad => s.placeSpad k va n al
  | .uni => if va / 2 ^ 32 = 0xFFFFFFFF then s.placeSpad k (va % 2 ^ 32) n al else s.placeGlob k kind va n al

/-- The trap of a multi-lane instruction: the first cause and DETAIL in order, the lanes that fail so, the lowest of
them (R136). -/
def firstFail (es : List (Nat × AccErr)) : Option Bail :=
  match es with
  | [] => none
  | e0 :: _ =>
    let r := es.foldl (fun m e => min m e.2.rank) e0.2.rank
    match es.find? fun e => e.2.rank == r with
    | none => none
    | some e =>
      let same := es.filter fun x => x.2.cause == e.2.cause && x.2.detail == e.2.detail
      some (.trap e.2.cause e.2.detail e.2.addr (some (maskOf (same.map Prod.fst))))

/-- The lanes of an instruction with their addresses and places; an s base is checked once (R328). -/
structure Placed where
  accs : List Acc
  absent : List Nat

/-- A byte of an access of n bytes lies in a non-resident page (R139). -/
def State.touchesAbsent (s : State) (k : Iss) (sp : Space) (kind : AccKind) (va n : Nat) : Bool :=
  let absent (a : Nat) : Bool := match s.xlate k.t kind a with | .error e => e.cause == 7 | .ok _ => false
  sp != .spad && !(sp == .uni && va / 2 ^ 32 == 0xFFFFFFFF) && decide (va < 2 ^ 56) && (absent va
    || (decide (va + n - 1 < 2 ^ 56) && absent (va + n - 1)))

/-- The checks of every active lane (R328); with a residency predicate, lanes that meet a non-resident page are set
aside first (R139). -/
def State.placeLanes (s : State) (k : Iss) (sp : Space) (kind : AccKind) (a : Operand) (off : Int) (n : Nat) (act : Mask)
    (pred : Bool) : Except Bail Placed :=
  let ls := lanesOf act
  let one (l : Nat) : Nat × Nat × Except AccErr Loc :=
    let va := k.gr.addr sp a off l
    (l, va, s.place k sp kind va n n)
  let rs : List (Nat × Nat × Except AccErr Loc) :=
    if a.isV then ls.map one
    else match ls with
      | [] => []
      | l0 :: _ =>
        let r := one l0
        ls.map fun l => (l, r.2)
  let errs := rs.filterMap fun r => match r.2.2 with
    | .error e => if pred && s.touchesAbsent k sp kind r.2.1 n then none else some (r.1, e)
    | .ok _ => none
  match firstFail errs with
  | some b => .error b
  | none => .ok ⟨rs.filterMap fun r => match r.2.2 with | .ok l => some ⟨r.1, r.2.1, l, n⟩ | .error _ => none,
      rs.filterMap fun r => match r.2.2 with | .ok _ => none | .error _ => some r.1⟩

/-- The device of a remote place. -/
def Loc.dev? : Loc → Option Nat
  | .remote d _ => some d
  | _ => none

/-- A remote access needs a valid path (10 R234), and an atomic one a path with ATOM set (R233). -/
def State.pathCheck (s : State) (accs : List Acc) (atomic : Bool) : Except Bail Unit :=
  let bad := accs.filter fun a => match a.loc.dev? with
    | some d => (s.pathsTo d (if atomic then 1 else 0)).isEmpty
    | none => false
  match bad with
  | [] => .ok ()
  | a :: _ =>
    .error (.trap (if atomic then 12 else 8) (if atomic then 0 else 6) a.va (some (maskOf (bad.map fun x => x.lane % 32))))

/-- A mapped scratchpad line that an access touches and whose valid bit is clear (06 R144): the team and the line. -/
def State.unfilled (s : State) (accs : List Acc) : Option (Nat × Nat) :=
  accs.findSome? fun a => match a.loc with
    | .spad tid off => match s.team? tid with
      | none => none
      | some t => ((List.range (ceilDiv (off % 128 + a.n) 128)).find? fun i =>
          t.mapped (128 * (off / 128 + i)) && !(SMap.get MapLine.off t.lines (off / 128 + i)).valid).map fun i =>
            (tid, off / 128 + i)
    | _ => none

/-- The wait for such a line. -/
def State.fillWait (s : State) (accs : List Acc) : Except Bail Unit :=
  match s.unfilled accs with
  | none => .ok ()
  | some (tid, ln) => .error (.hold { Hold.wait 12 with answer := some (BitVec.ofNat 64 (ln + 2 ^ 32 * tid)) })

/-- A full outstanding-operation counter holds the issue (09 R208). -/
def Group.counterWait (g : Group) (c : OpClass) : Except Bail Unit :=
  if g.full c then .error (.hold (Hold.wait 2)) else .ok ()

/-- The address that a record gives of an address as named: a scratchpad address, or a global one (R161). A barrier in
scratchpad is named by the low 32 bits in a trap record (DESIGN CHOICE, log 12), by all 64 in a copy's completion record. -/
def barAddr (va : Nat) : Nat := if va / 2 ^ 32 = 0xFFFFFFFF then va % 2 ^ 32 else va

/-- The address of a row of a tile access: it lies in the space that the base names (R331). -/
def rowAddr (base pitch row : Nat) : Nat :=
  if base / 2 ^ 32 = 0xFFFFFFFF then (base + row * pitch) % 2 ^ 32 else (base + row * pitch) % 2 ^ 64

/-- The rows of a tile access: the base and pitch of R331, every row checked in order; four 16-byte chunks a row. last is
the check of the paths to remote rows (10 R234), which comes after alignment. -/
def State.placeRows (s : State) (k : Iss) (kind : AccKind) (base pitch : Nat) (last : Bool) : Except Bail (List Acc) :=
  let sp : Space := if base / 2 ^ 32 = 0xFFFFFFFF then .spad else .glob
  let top := if sp = .spad then 2 ^ 32 else 2 ^ 64
  (List.range 128).foldl (fun (r : Except Bail (List Acc)) row =>
    match r with
    | .error b => .error b
    | .ok as_ =>
      let va := rowAddr base pitch row
      let chunk (c : Nat) : Except AccErr Loc :=
        if c = 0 then s.place k sp kind va 64 1 else s.place k sp kind ((va + 16 * c) % top) 16 1
      match chunk 0, chunk 1, chunk 2, chunk 3 with
      | .ok l0, .ok l1, .ok l2, .ok l3 =>
        let mk (c : Nat) (l : Loc) : Acc := ⟨4 * row + c, (va + 16 * c) % top, l, 16⟩
        let four := [mk 0 l0, mk 1 l1, mk 2 l2, mk 3 l3]
        if last && four.any fun a => match a.loc.dev? with | some d => (s.pathsTo d 0).isEmpty | none => false then
          .error (.t 8 6 va)
        else .ok (as_ ++ four)
      | r0, r1, r2, r3 =>
        let errs := [r0, r1, r2, r3].filterMap fun x => match x with | .error e => some e | .ok _ => none
        match errs with
        | [] => .ok as_
        | e0 :: rest =>
          let e := rest.foldl (fun (m : AccErr) x => m.first (some x)) e0
          .error (.t e.cause e.detail (if e.cause = 2 then e.addr else va)))
    (.ok [])

/-- The row pitch (R331): 64, or an s register's low half, whose high half must be 0. -/
def Group.pitch (g : Group) (o : Operand) (slot : Nat) : Except Bail Nat :=
  match o with
  | .s n => if (g.rs n.toNat).toNat < 2 ^ 32 then .ok (g.rs n.toNat).toNat else .error (.t 3 slot (g.rs n.toNat).toNat)
  | _ => .ok 64

/-- Step 9 of a tile access: its rows, and base and pitch multiples of 16 (R327). -/
def State.tileRows (s : State) (k : Iss) (kind : AccKind) (a : Operand) (off : Int) (pitch : Nat) : Except Bail (List Acc) :=
  let base := k.gr.addr .uni a off 0
  let ok := base % 16 = 0 ∧ pitch % 16 = 0
  match s.placeRows k kind base pitch ok with
  | .error b => .error b
  | .ok accs =>
    if ok then .ok accs else .error (.t 9 4 (rowAddr base pitch (if base % 16 = 0 then 1 else 0)))

/-- The register lines of a memory instruction: each v operand single or a pair. -/
def memLines (sl : Slots) (wideD wideA wideB : Bool) : List Nat × List Nat :=
  let one (o : Operand) (w : Bool) : List Nat × List Nat := linesOf { sl with d := o, a := .nil, b := .nil } w 0
  let d := one sl.d wideD
  let a := one sl.a wideA
  let b := one sl.b wideB
  (d.1 ++ a.1 ++ b.1, d.2 ++ a.2 ++ b.2)

/-- The access writes outside the team's own scratchpad allocation (02 R50). -/
def Acc.outside (a : Acc) (tid : Nat) : Bool :=
  match a.loc with
  | .spad t _ => t != tid
  | _ => true

/-- The idempotent flag clears where an access writes outside the team's own allocation. -/
def State.idemStore (s : State) (tid : Nat) (accs : List Acc) : State :=
  if accs.any fun a => a.outside tid then s.clearIdem tid else s

end Sys2Proof.Machine
end

