-- ==== Sys2Proof/Machine/Load.lean ====
section
/-!
DEFINITION. Machine/Load.lean: row 0x6, loads, page requests and prefetch (15 R330-R333), and the load queue: taking
values (10 R228, R231) and writing destinations (R229).
-/
namespace Sys2Proof.Machine

open Host (Outcome)

/-! ## Checked reads and store forwarding (06 R154, 10 R228) -/

/-- The stack of a core (01 R17). -/
def coreStack (core : Nat) : Nat := clusterOf core / 4

/-- The ADDR of a hardware error: the virtual address, and 0 for the scratchpad, whose cells have none (07 R161). -/
def errAddr (kind va : Nat) : Nat := if kind = 3 then 0 else va

/-- The check of a read of n bytes at a place, and of its way over a die edge (06 R154): a lasting error is counted and
posted, and its memory kind of 07 R161 answered. -/
def State.readErr (s : State) (core part : Nat) (l : Loc) (n va : Nat) : State × Option Nat :=
  let r : State × Bool × Nat := match l with
    | .mem pa _ =>
      let c := s.checkRead part (stackOf pa) (memKind pa) pa n
      if c.2 then (c.1, true, memKind pa)
      else
        let d := c.1.checkRead part (stackOf pa) 6 pa n
        (d.1, d.2, 6)
    | .spad tid off => let c := s.checkRead part (coreStack core) 3 (tid * 2 ^ 21 + off) n; (c.1, c.2, 3)
    | .remote _ _ => (s, false, 0)
  if r.2.1 then (r.1.postError core part r.2.2 (errAddr r.2.2 va) (match l with | .mem pa _ => pa | _ => 0) false, some r.2.2)
  else (r.1, none)

/-- The check of a transfer of n bytes over a die edge to a place of this device (06 R154, kind 6): a lasting error is counted
and posted. -/
def State.edgeErr (s : State) (core part : Nat) (l : Loc) (n va : Nat) : State × Bool :=
  match l with
  | .mem pa _ =>
    let c := s.checkRead part (stackOf pa) 6 pa n
    if c.2 then (c.1.postError core part 6 va pa false, true) else (c.1, false)
  | _ => (s, false)

/-- The checked read of n bytes of home memory for a request from outside the cores (06 R154; log 7): a lasting error is
counted and posted in the notice ring of the partition whose memory it is. -/
def State.servedErr (s : State) (part pa n : Nat) : State × Bool :=
  if s.errs.isEmpty then (s, false)
  else
    let r := s.checkRead part (stackOf pa) (memKind pa) pa n
    if r.2 then (r.1.postNotice part 4 (memKind pa) pa 0 0, true)
    else
      let d := r.1.checkRead part (stackOf pa) 6 pa n
      (if d.2 then d.1.postNotice part 4 6 pa 0 0 else d.1, d.2)

/-- What the one record of failed accesses says (06 R136): of the lowest lane that failed, and every lane that failed with
the same cause and DETAIL. -/
def failedAs (xs : List (Nat × Trap)) : Option (Trap × List Nat) :=
  match xs with
  | [] => none
  | x :: rest =>
    let low := rest.foldl (fun (b : Nat × Trap) y => if y.1 < b.1 then y else b) x
    some (low.2, (xs.filter fun y => y.2.cause == low.2.cause && y.2.detail == low.2.detail).map Prod.fst)

/-- Byte i of an access lies at byte j of another. -/
def Loc.offset (a : Loc) (i : Nat) (b : Loc) : Option Nat :=
  match a, b with
  | .spad t o, .spad u p => if t = u ∧ p ≤ o + i then some (o + i - p) else none
  | .mem x _, .mem y _ => if y ≤ x + i then some (x + i - y) else none
  | .remote d x, .remote e y => if d = e ∧ y ≤ x + i then some (x + i - y) else none
  | _, _ => none

/-- Two accesses share a byte. -/
def Acc.meets (a b : Acc) : Bool :=
  (List.range a.n).any fun i => match a.loc.offset i b.loc with | some j => decide (j < b.n) | none => false

/-- The byte that a store-buffer entry writes at byte i of an access, of the given lane or of a tile store (any lane
where tile is set): its highest lane's (R226, R228). -/
def SbEntry.byteFor (e : SbEntry) (tile : Bool) (a : Acc) (i : Nat) : Option Byte :=
  e.puts.foldl (fun (r : Option Byte) p =>
    if tile || p.acc.lane == a.lane || p.acc.n == 16 then
      match a.loc.offset i p.acc.loc with
      | some j => (match p.bytes[j]? with | some b => some b | none => r)
      | none => r
    else r) none

/-- Rule 1: the newest older store that writes the byte, in any store buffer of the group. -/
def Group.forward (g : Group) (id : Nat) (tile : Bool) (a : Acc) (i : Nat) : Option Byte :=
  (g.sb.foldl (fun (r : Option (Nat × Byte)) e =>
    if e.aop = 0 ∧ e.id < id then
      match e.byteFor tile a i with
      | some b => (match r with | some (n, _) => if n < e.id then some (e.id, b) else r | none => some (e.id, b))
      | none => r
    else r) none).map Prod.snd

/-- The checked reads of a load or atomic at issue (06 R154), but of accesses that the group's own stores forward whole. One
record covers every lane that failed alike (R136). -/
def Iss.readAccs (k : Iss) (whole tile : Bool) (accs : List Acc) : Reads := fun s =>
  if s.errs.isEmpty then (s, none)
  else
    let r := accs.foldl (fun (r : State × List (Nat × Trap)) a =>
      if (List.range a.n).all fun i => (k.gr.forward s.nextOp tile a i).isSome then r
      else
        let e := r.1.readErr k.t.core k.t.part a.loc a.n a.va
        (e.1, match e.2 with | some kind => r.2 ++ [(a.lane, ⟨13, kind, errAddr kind a.va⟩)] | none => r.2)) (s, [])
    (r.1, (failedAs r.2).map fun x => .trap x.1.cause x.1.detail x.1.addr (some (if whole || tile then k.e.mask else maskOf x.2)))

/-! ## Issue -/

/-- The checked transfers of a store at issue (06 R154). -/
def Iss.sendAccs (k : Iss) (accs : List Acc) : Reads := fun s =>
  if s.errs.isEmpty then (s, none)
  else
    let r := accs.foldl (fun (r : State × List (Nat × Trap)) a =>
      let e := r.1.edgeErr k.t.core k.t.part a.loc a.n a.va
      (e.1, if e.2 then r.2 ++ [(a.lane, ⟨13, 6, a.va⟩)] else r.2)) (s, [])
    (r.1, (failedAs r.2).map fun x =>
      .trap x.1.cause x.1.detail x.1.addr (some (if accs.any fun a => a.n == 16 then k.e.mask else maskOf x.2)))

/-- A load that enters the load queue. -/
def newLoad (i : MemI) (k : Iss) (id : Nat) (accs : List Acc) (absent : List Nat) : LqEntry :=
  { id := id, pc := k.e.pc, mask := k.e.mask, accs := accs, zeroed := maskOf absent, uniform := i.a.isS, dest := i.d
    tag := memTag i, acq := i.order == .acq, rel := false, scope := i.scope, colour := 0, aop := 0, data := [], cmp := []
    vals := [], waiting := [], written := [], released := true, refused := [] }

/-- A load instruction (R330). -/
def loadInstr (op : Nat) (sp : Space) (i : MemI) (s : State) : Outcome State Fault Refusal :=
  runE op s i.toSlots (memLines i.toSlots (memSize i == 8) (sp != .spad) false) fun k =>
    match k.gr.checkBase sp i.a with
    | .error b => .error b
    | .ok () => match s.placeLanes k sp .load i.a (memOff i) (memSize i) k.e.mask i.b.isP with
      | .error b => .error b
      | .ok pl => match s.pathCheck pl.accs false with
        | .error b => .error b
        | .ok () => match k.gr.counterWait .ld with
          | .error b => .error b
          | .ok () => match s.fillWait pl.accs with
            | .error b => .error b
            | .ok () =>
              let (id, s1) := s.newOp
              let accs := if i.d.isS then pl.accs.take 1 else pl.accs
              let ld := newLoad i k id accs pl.absent
              .ok (s1.modGroup k.tid k.g fun g =>
                let g1 := { (g.addOp id .ld) with lq := g.lq ++ [ld] }
                match i.b with
                | .p n => g1.wp n.toNat (maskOf pl.absent) 0
                | _ => g1, k.readAccs i.a.isS false accs)

def execLdg (i : MemI) (s : State) : Outcome State Fault Refusal := loadInstr 0x181 .glob i s
def execLds (i : MemI) (s : State) : Outcome State Fault Refusal := loadInstr 0x182 .spad i s
def execLdun (i : MemI) (s : State) : Outcome State Fault Refusal := loadInstr 0x183 .uni i s

/-- ldm: 128 rows into a tile register (R331). -/
def execLdm (i : MemI) (s : State) : Outcome State Fault Refusal :=
  runE 0x184 s i.toSlots (linesOf i.toSlots false 0) fun k =>
    match k.gr.pitch i.b 3 with
    | .error b => .error b
    | .ok pitch =>
      match s.tileRows k .load i.a (memOff i) pitch with
      | .error b => .error b
      | .ok accs => match k.gr.counterWait .ld with
        | .error b => .error b
        | .ok () => match s.fillWait accs with
          | .error b => .error b
          | .ok () =>
            let (id, s1) := s.newOp
            .ok (s1.modGroup k.tid k.g fun g => { (g.addOp id .ld) with lq := g.lq ++ [newLoad i k id accs []] },
              k.readAccs false true accs)

/-- The pages of a page request that are not resident: the lowest lane that names each, its address rounded down to 64 KiB, and
the first address of the page; a refused table entry counts as not resident (R332). -/
def State.absentPages (s : State) (k : Iss) (addrs : List (Nat × Nat)) : List (Nat × Nat × Nat) :=
  let root := (s.ctx k.t.part k.t.ctx).root
  let out := addrs.filter fun a => match s.walk k.t.part root .load a.2 with | .ok _ => false | .error _ => true
  out.foldl (fun (r : List (Nat × Nat × Nat)) a =>
    let pg := s.pageBase k.t.part root a.2
    if r.any fun x => x.2.2 == pg then r else r ++ [(a.1, a.2 / 65536 * 65536, pg)]) []

/-- A page of a context has a page request notice that the host has not consumed (07 R180). -/
def State.pageAsked (s : State) (p c pg : Nat) : Bool :=
  let q := s.part p
  q.pgAsked.any fun x => decide (s.hostWord (q.ringBase + 8) ≤ x.1) && x.2.1 == c && x.2.2 == pg

/-- Post a page request for a lane's address in the page at pg, or drop and count it (R180). -/
def State.postPage (s : State) (k : Iss) (lane va pg : Nat) : State :=
  let p := k.t.part
  if s.pageAsked p k.t.ctx pg then s
  else if s.noticeRoom p < 16 then s.modPart p fun q => { q with pgreqDrop := satAdd q.pgreqDrop 1 }
  else
    let s1 := s.modPart p fun q =>
      { q with pgAsked := (q.pgAsked.filter fun x => decide (s.hostWord (q.ringBase + 8) ≤ x.1))
          ++ [(s.hostWord q.ringBase, k.t.ctx, pg)] }
    s1.pushNotice p 2 0 va k.t.threadWord (32 * k.g + lane)

def execPgreq (i : MemI) (s : State) : Outcome State Fault Refusal :=
  runS 0x185 s i.toSlots (linesOf i.toSlots true 0) fun k =>
    match k.gr.checkBase .glob i.a with
    | .error b => .error b
    | .ok () =>
      let ls := lanesOf k.e.mask
      let addrs := (if i.a.isV then ls else ls.take 1).map fun l => (l, k.gr.addr .glob i.a (memOff i) l)
      match addrs.filter fun a => decide (2 ^ 56 ≤ a.2) with
      | a :: rest =>
        .error (.trap 8 4 a.2 (some (if i.a.isV then maskOf ((a :: rest).map Prod.fst) else k.e.mask)))
      | [] => .ok (((s.absentPages k addrs).foldl (fun (x : State) a => x.postPage k a.1 a.2.1 a.2.2) s).clearIdem k.tid)

/-- pref: no effect but the core view's permission to fill, which CORE_VIEW_FILL takes at any time (R333). -/
def execPref (i : MemI) (s : State) : Outcome State Fault Refusal :=
  runS 0x186 s i.toSlots (linesOf i.toSlots true 0) fun k =>
    match k.gr.checkBase .glob i.a with
    | .error b => .error b
    | .ok () => .ok s

/-! ## Taking a value (R228) -/

/-- An entry of the load queue lacks the value of an access. -/
def LqEntry.lacks (e : LqEntry) (a : Acc) : Bool := !(e.vals.any fun v => v.1 == a.lane)

/-- Every value is in. -/
def LqEntry.full (e : LqEntry) : Bool := e.accs.all fun a => !(e.lacks a)

/-- The load moves a tile. -/
def LqEntry.tile (e : LqEntry) : Bool := e.dest.isM

/-- The conditions of R228 that concern the load queue and reductions, for one access; a row of a tile belongs to no
lane. An acquire without an access is incomplete until it acts, at its completion (R231). In a deterministic team, whose turn is
held until such an instruction is done (22 R444), they give R241 too. -/
def Group.mayTake (g : Group) (e : LqEntry) (a : Acc) : Bool :=
  g.lq.all (fun o => decide (e.id ≤ o.id) ||
    ((!o.acq || (o.full && !o.accs.isEmpty)) && o.accs.all fun b => !(o.lacks b && !o.tile && !e.tile && b.lane == a.lane && b.meets a)))
  && g.sb.all fun o => decide (e.id < o.id) || o.aop == 0 ||
    o.puts.all fun p => !((e.tile || p.acc.lane == a.lane) && p.acc.meets a)

/-- The mapped scratchpad lines of an access are valid (06 R144). -/
def State.filled (s : State) (a : Acc) : Bool := (s.unfilled [a]).isNone

/-- The line of an access is whole in a core view, filling it if it is not (R227). -/
def State.cvNeed (s : State) (core key pa n : Nat) : State :=
  let c := s.core core
  if (List.range n).all fun i => (SMap.get CvByte.absent c.view (pa + i)).present then s else s.cvFill core (pa / 128) key

/-- The value of n bytes of this device's memory for a load: through the core view, or, for an acquire at cluster scope
or wider, a dirty byte of it or home memory after promotion (R228 rule 3, R232). -/
def State.readMem (s : State) (core key pa n : Nat) (deep : Bool) : List Byte × State :=
  if deep then
    let s1 := (List.range n).foldl (fun (x : State) i => x.promote core (pa + i)) s
    ((List.range n).map fun i =>
      let b := SMap.get CvByte.absent (s1.core core).view (pa + i)
      if b.dirty then b.val else s1.homeByte key (pa + i), s1)
  else
    let s1 := s.cvNeed core key pa n
    ((List.range n).map fun i => s1.cvByte core key (pa + i), s1)

/-- The bytes of an access known on this device, none for those a remote device must give, and the state after. -/
def State.sourceBytes (s : State) (core : Nat) (a : Acc) (deep : Bool) : List (Option Byte) × State :=
  match a.loc with
  | .spad tid off => ((s.spadBytes tid off a.n).map some, s)
  | .mem pa key => let r := s.readMem core key pa a.n deep; (r.1.map some, r.2)
  | .remote d pa => ((List.range a.n).map fun i => (s.core core).wcByte d (pa + i), s)

/-- Forwarded bytes over the others. -/
def overlay (f b : List (Option Byte)) : List (Option Byte) := List.zipWith (fun x y => match x with | some v => some v | none => y) f b

/-- Known bytes as a number: a mask of 16 bits, then their values (LqEntry.waiting). -/
def packKnown (bs : List (Option Byte)) : Nat :=
  ofBytes (bs.map fun b => b.getD 0) * 2 ^ 16 + ((List.range bs.length).foldl (fun m i => m + b2n ((bs.getD i none).isSome) * 2 ^ i) 0)

/-- The value once a remote answer is in. -/
def mergeKnown (packed n : Nat) (answer : List Byte) : Nat :=
  ofBytes ((List.range n).map fun i => if bit packed i then byteAt (packed / 2 ^ 16) i else answer.getD i 0)

/-- Change a load queue entry. -/
def Group.modLq (g : Group) (id : Nat) (f : LqEntry → LqEntry) : Group :=
  { g with lq := g.lq.map fun e => if e.id = id then f e else e }

/-- What follows when the last value of an acquire is in (R231). -/
def State.acquired (s : State) (tid g id : Nat) : State :=
  match s.team? tid with
  | none => s
  | some t => match t.groups[g]? with
    | none => s
    | some gr => match gr.lq.find? fun e => e.id == id with
      | none => s
      | some e => if e.acq && e.full then s.acquire t.core tid e.scope else s

/-- Some access of a load or atomic has failed after issue. -/
def LqEntry.gone (e : LqEntry) : Bool := !e.refused.isEmpty

/-- One access of a load or atomic fails after issue, by a refusal (06 R141); lanes of an s base
share it. -/
def State.refuseLane (s : State) (tid g id lane : Nat) (tr : Trap) : State :=
  s.modGroup tid g fun x => x.modLq id fun e =>
    let ls := lane :: ((e.waiting.filter fun w => e.uniform && !e.tile && w.1 != lane).map Prod.fst)
    { e with refused := e.refused ++ [(lane, tr)], vals := e.vals ++ ls.map fun l => (l, 0)
             waiting := e.waiting.filter fun w => !ls.contains w.1 }

/-- The same, with the address that the lane named. -/
def State.refuseLoad (s : State) (tid g id lane cause detail : Nat) : State :=
  match (s.group? tid g).bind fun gr => gr.lq.find? fun e => e.id == id with
  | none => s
  | some e =>
    let va := ((e.accs.find? fun a => a.lane == lane).map fun a => a.va).getD 0
    s.refuseLane tid g id lane ⟨cause, detail, va⟩

/-- One access of a load takes its value, or asks a remote device for it. -/
def State.takeAcc (s : State) (tid g id : Nat) (a : Acc) : State :=
  match s.team? tid with
  | none => s
  | some t => match t.groups[g]? with
    | none => s
    | some gr => match gr.lq.find? fun e => e.id == id with
      | none => s
      | some e =>
        let fw := (List.range a.n).map fun i => gr.forward id e.tile a i
        let r := s.sourceBytes t.core a (e.acq && decide (2 ≤ scopeCode e.scope))
        let bs := overlay fw r.1
        if bs.all fun b => b.isSome then
          r.2.modGroup tid g fun x => x.modLq id fun y => { y with vals := y.vals ++ [(a.lane, ofBytes (bs.map fun b => b.getD 0))] }
        else
          let wait (x : State) : State := x.modGroup tid g fun q => q.modLq id fun y =>
            { y with waiting := y.waiting ++ [(a.lane, packKnown bs)] }
          if e.uniform && !e.tile && !e.waiting.isEmpty then wait r.2
          else match a.loc with
            | .remote d pa =>
              (match r.2.request t.core 0 (mkPacket 1 t.part d t.core pa a.n []) (.load tid g id a.lane) with
              | some s2 => wait s2
              | none => r.2.refuseLoad tid g id a.lane 8 6)
            | _ => r.2

/-- LOAD_VALUE_TAKE: a load takes the value of all its accesses (R228). An atomic's values come from ATOMIC_STEP. -/
def execLoadValueTake (tid g id : Nat) (s : State) : Outcome State Fault Refusal :=
  match s.group? tid g with
  | none => .fault .notEnabled
  | some gr => match gr.lq.find? fun e => e.id == id with
    | none => .fault .notEnabled
    | some e =>
      let todo := e.accs.filter fun a => e.lacks a && !(e.waiting.any fun w => w.1 == a.lane)
      if e.aop ≠ 0 ∨ todo.isEmpty ∨ !(todo.all fun a => gr.mayTake e a && s.filled a) then .fault .notEnabled
      else .next ((todo.foldl (fun (x : State) a => x.takeAcc tid g id a) s).acquired tid g id)

/-! ## Writing the destination (R229, R330) -/

/-- What a load gives a lane of a v destination: 0 for a lane set aside (06 R139). -/
def LqEntry.laneVal (e : LqEntry) (l : Nat) : Nat := ((e.vals.find? fun v => v.1 == l).map Prod.snd).getD 0

/-- The registers of a destination: both of a pair of v registers. -/
def LqEntry.regs (e : LqEntry) : List Nat :=
  match e.dest with
  | .v _ => if tagWide e.tag then [0, 1] else [0]
  | _ => [0]

/-- The units of register r of a destination, which may be written one by one (R229): lane l of a v register is 32r + l;
rows of a tile; one s register. -/
def LqEntry.unitsOf (e : LqEntry) (r : Nat) : List Nat :=
  match e.dest with
  | .v _ => ((lanesOf e.mask).filter fun l => e.zeroed.getLsbD l || e.accs.any fun a => a.lane == l).map (32 * r + ·)
  | .m _ => List.range 128
  | .s _ => [0]
  | _ => []

/-- All units. -/
def LqEntry.units (e : LqEntry) : List Nat := e.regs.flatMap e.unitsOf

/-- A unit's value is in. -/
def LqEntry.ready (e : LqEntry) (u : Nat) : Bool :=
  match e.dest with
  | .v _ => e.zeroed.getLsbD (u % 32) || e.vals.any fun v => v.1 == u % 32
  | .m _ => (List.range 4).all fun c => e.vals.any fun v => v.1 == 4 * u + c
  | _ => e.full

/-- A unit's value: 32 bits of a lane, a row, or what an s register takes (15 R330). -/
def LqEntry.unitVal (e : LqEntry) (u : Nat) : Nat :=
  match e.dest with
  | .v _ => e.laneVal (u % 32) / 2 ^ (u / 32 * 32) % 2 ^ 32
  | .m _ => (List.range 4).foldl (fun v c => v + e.laneVal (4 * u + c) * 2 ^ (128 * c)) 0 % 2 ^ 512
  | _ =>
    let v := ((e.vals.head?).map Prod.snd).getD 0
    if e.tag / 16 = 0 then wrapI 64 (sextI 32 v) else v % 2 ^ 64

/-- What a unit of the destination holds now. -/
def LqEntry.unitNow (e : LqEntry) (t : Team) (gr : Group) (u : Nat) : Nat :=
  match e.dest with
  | .v n => (gr.rv (n.toNat + u / 32) (u % 32)).toNat
  | .m n => (t.row n.toNat u).toNat
  | .s n => (gr.rs n.toNat).toNat
  | _ => 0

/-- The tag that register r of the destination has now; an s register has none. -/
def LqEntry.tagNow (e : LqEntry) (t : Team) (gr : Group) (r : Nat) : Nat :=
  match e.dest with
  | .v n => gr.rtag (n.toNat + r)
  | .m n => t.rmtag n.toNat
  | _ => e.tag

/-- Write one unit of register r of a destination, with the register's tag. -/
def State.writeUnit (s : State) (tid g : Nat) (e : LqEntry) (r u : Nat) : State :=
  match e.dest with
  | .v n => s.modGroup tid g fun x =>
      (x.wv1 (n.toNat + r) (u % 32) (BitVec.ofNat 32 (e.unitVal u))).wtag (n.toNat + r) e.tag
  | .m n => s.modTeam tid fun t =>
      { (t.wrow n.toNat u (BitVec.ofNat 512 (e.unitVal u))) with mtag := SMap.set 0#8 t.mtag n.toNat (BitVec.ofNat 8 e.tag) }
  | .s n => s.modGroup tid g fun x => x.ws n.toNat (BitVec.ofNat 64 (e.unitVal u))
  | _ => s

/-- Early units are all that a register has, or the register has the load's tag already: each unit reads as the old value
or as the result, with the matching tag (R229). -/
def LqEntry.earlyOk (e : LqEntry) (t : Team) (gr : Group) (early : List Nat) : Bool :=
  early.all (fun u => e.units.contains u && e.ready u)
  && e.regs.all fun r => let us := e.unitsOf r
    e.tagNow t gr r == e.tag || !(us.any early.contains) || us.all early.contains

/-- The units of register r that are written: early, those named; at completion, the rest. Where another instruction has
given the register another tag since, completion leaves the value that goes with it if it wrote one over the result, and
else writes the whole register (R229, 14 R324). -/
def LqEntry.writes (e : LqEntry) (t : Team) (gr : Group) (early : List Nat) (final : Bool) (r : Nat) : List Nat :=
  let us := e.unitsOf r
  let new := us.filter fun u => !e.written.contains u
  if e.tagNow t gr r = e.tag then (if final then new else new.filter early.contains)
  else if !final then us.filter early.contains
  else if new.isEmpty && us.any fun u => e.unitNow t gr u != e.unitVal u then []
  else us

/-- The register lines of a destination are in the register cache (02 R56). -/
def State.destHere (s : State) (tid g : Nat) (d : Operand) (wide : Bool) : Bool :=
  match s.team? tid with
  | none => false
  | some t => match t.groups[g]? with
    | none => false
    | some gr =>
      let ls := linesOf ⟨.none, d, .nil, .nil, ⟨0, false, false, false, false⟩, 0⟩ wide 0
      !(ls.1.any fun n => gr.fresh.contains n || gr.evicted.contains n)
        && !(ls.2.any fun n => t.fresh.contains n || t.evicted.contains n)

/-- A load or atomic of which an access failed is over: its record is appended and nothing is written (06 R141). -/
def State.loadFails (s : State) (tid g : Nat) (e : LqEntry) : State :=
  match failedAs e.refused with
  | none => s
  | some (tr, ls) =>
    let fail := if e.uniform || e.tile then e.mask else maskOf ls
    ((s.raiseLater tid g e.pc e.mask fail tr.cause tr.detail tr.addr).modGroup tid g fun x =>
      { x with lq := x.lq.filter fun y => y.id != e.id }).endOp tid g e.id

/-- A load or atomic writes units of its destination, and with final set completes: its counter falls (R207, R229). An
atomf sets its flags at completion (15 R338). -/
def State.loadWrites (s : State) (tid g id : Nat) (early : List Nat) (final : Bool) (fl : LqEntry → Nat → Nat) : State :=
  match s.team? tid with
  | none => s
  | some t => match t.groups[g]? with
    | none => s
    | some gr => match gr.lq.find? fun e => e.id == id with
      | none => s
      | some e =>
        if e.gone then (if final then s.loadFails tid g e else s)
        else
          let s1 := e.regs.foldl (fun (x : State) r =>
            (e.writes t gr early final r).foldl (fun (y : State) u => y.writeUnit tid g e r u) x) s
          if final then
            (s1.modGroup tid g fun x =>
              let x1 := x.wflags (maskOf (e.accs.map fun a => a.lane % 32)) (fl e)
              { x1 with lq := x1.lq.filter fun y => y.id != id }).endOp tid g id
          else s1.modGroup tid g fun x => x.modLq id fun y =>
            { y with written := y.written ++ early.filter fun u => !y.written.contains u }

end Sys2Proof.Machine
end

