-- ==== Sys2Proof/Machine/Store.lean ====
section
/-!
DEFINITION. Machine/Store.lean: row 0x7, stores (15 R334, R335), and performing them (10 R226, R230, R234).
-/
namespace Sys2Proof.Machine

open Host (Outcome)

/-! ## Issue -/

/-- A store that enters the buffer of its colour; it enters even with no lane active. -/
def State.enterStore (s : State) (k : Iss) (i : MemI) (puts : List Put) (aop tag : Nat) : State :=
  let (id, s1) := s.newOp
  let e : SbEntry := ⟨id, id, k.e.pc, k.e.mask, i.colour.toNat, puts, i.order == .rel, i.scope, aop, tag, false⟩
  s1.modGroup k.tid k.g fun g => { (g.addOp id .st) with sb := g.sb ++ [e] }

/-- The register lines of a guarded access: a lane that its guard leaves inactive reads no register (R328, 12 R268). -/
def State.guardLines (s : State) (guard : Guard) (ls : List Nat × List Nat) : List Nat × List Nat :=
  match s.issuer with
  | some k => if k.gr.guard guard k.e.mask = 0 then ([], []) else ls
  | none => ls

/-- A store instruction (R334). -/
def storeInstr (op : Nat) (sp : Space) (i : MemI) (s : State) : Outcome State Fault Refusal :=
  let n := memSize i
  runE op s i.toSlots (s.guardLines i.guard (memLines i.toSlots false (sp != .spad) (n == 8))) fun k =>
    let act := k.gr.guard i.guard k.e.mask
    if act = 0 then
      match k.gr.counterWait .st with
      | .error b => .error b
      | .ok () => .ok (s.enterStore k i [] 0 (memTag i), noReads)
    else match k.gr.checkBase sp i.a with
      | .error b => .error b
      | .ok () => match k.gr.checkTag i.b (memTag i) (n == 8) 2 with
        | .error b => .error b
        | .ok () => match s.placeLanes k sp .store i.a (memOff i) n act false with
          | .error b => .error b
          | .ok pl => match s.pathCheck pl.accs false with
            | .error b => .error b
            | .ok () => match k.gr.counterWait .st with
              | .error b => .error b
              | .ok () => match s.fillWait pl.accs with
                | .error b => .error b
                | .ok () =>
                  let puts := pl.accs.map fun a => (⟨a, toBytes n (k.gr.src i.b (memTag i) (n == 8) 0 a.lane)⟩ : Put)
                  .ok ((s.enterStore k i puts 0 (memTag i)).idemStore k.tid pl.accs, k.sendAccs pl.accs)

def execStg (i : MemI) (s : State) : Outcome State Fault Refusal := storeInstr 0x1C1 .glob i s
def execSts (i : MemI) (s : State) : Outcome State Fault Refusal := storeInstr 0x1C2 .spad i s
def execStun (i : MemI) (s : State) : Outcome State Fault Refusal := storeInstr 0x1C3 .uni i s

/-- stm: 128 rows of a tile, stored once where a lane is active (R335). -/
def execStm (i : MemI) (s : State) : Outcome State Fault Refusal :=
  runE 0x1C4 s i.toSlots (s.guardLines i.guard (linesOf i.toSlots false 0)) fun k =>
    if k.gr.guard i.guard k.e.mask = 0 then
      match k.gr.counterWait .st with
      | .error b => .error b
      | .ok () => .ok (s.enterStore k i [] 0 (memTag i), noReads)
    else match k.t.checkTile i.b.idx (memTag i) 2 with
      | .error b => .error b
      | .ok () => match k.gr.pitch i.d 1 with
        | .error b => .error b
        | .ok pitch => match s.tileRows k .store i.a (memOff i) pitch with
          | .error b => .error b
          | .ok accs => match k.gr.counterWait .st with
            | .error b => .error b
            | .ok () => match s.fillWait accs with
              | .error b => .error b
              | .ok () =>
                let puts := accs.map fun a =>
                  (⟨a, toBytes 16 ((k.t.row i.b.idx (a.lane / 4)).toNat / 2 ^ (128 * (a.lane % 4)))⟩ : Put)
                .ok ((s.enterStore k i puts 0 (memTag i)).idemStore k.tid accs, k.sendAccs accs)

/-! ## Performing (R226) -/

/-- No older store or red to any byte that the entry writes remains in another colour's buffer. -/
def Group.mayPerform (g : Group) (e : SbEntry) : Bool :=
  g.sb.all fun o => decide (e.id ≤ o.id) || o.colour == e.colour ||
    o.puts.all fun p => e.puts.all fun q => !(p.acc.meets q.acc)

/-- The head of the buffer of a colour. -/
def Group.sbHead (g : Group) (colour : Nat) : Option SbEntry := g.sb.find? fun e => e.colour == colour

/-- The bytes of a store entry's lane go to their place: scratchpad, the core view (direct: home memory, and no core view,
R227), the write-combining buffer (direct: a packet of their own) (R226, R230, R234). -/
def State.performPut (s : State) (tid g core part ctx : Nat) (e : SbEntry) (p : Put) : State :=
  let mark := e.rel && e.scope == .team
  let direct := e.rel && e.scope != .team
  let ref : StoreRef := ⟨tid, g, e.id, e.pc, e.mask, if p.acc.n = 16 then e.mask else maskOf [p.acc.lane % 32], p.acc.va⟩
  match p.acc.loc with
  | .spad u off => s.spadWrite u off p.bytes
  | .mem pa key =>
    if direct then s.homeWrite key pa p.bytes else s.modCore core fun c => c.cvWrite key pa mark p.bytes
  | .remote d pa =>
    if direct then
      let line : BitVec 1024 := lineSet 0 (pa % 128) p.bytes
      let pk := { mkPacket 3 part d core (pa / 128 * 128) 0
          (toBytes 16 ((2 ^ p.bytes.length - 1) * 2 ^ (pa % 128)) ++ toBytes 128 line.toNat) with
        colours := 1#8 <<< e.colour }
      match s.request core 0 pk (.store ref) with
      | some s1 => s1.slipped core d (2 ^ e.colour)
      | none => s.refuseRef 6 ref
    else s.wcPut core d pa p.bytes e.colour (part, ctx) ref

/-- An entry leaves its buffer. -/
def Group.popSb (g : Group) (id : Nat) : Group := { g with sb := g.sb.filter fun e => e.id != id }

/-- A store (not a red) is performed and complete (R207, R226). -/
def State.performStore (s : State) (tid g : Nat) (t : Team) (e : SbEntry) : State :=
  let s1 := e.puts.foldl (fun (x : State) p => x.performPut tid g t.core t.part t.ctx e p) s
  (s1.modGroup tid g fun x => x.popSb e.id).endOp tid g e.id

/-- The conditions of a release of a group with colours C: every older load and atomic has its value, every older store
and red of C is performed (R230). -/
def Group.mayRelease (g : Group) (id colours : Nat) : Bool :=
  g.lq.all (fun e => decide (id ≤ e.id) || e.full) && g.sb.all fun e => decide (id ≤ e.id) || !(bit colours e.colour)

/-- The remote destinations of an entry. -/
def SbEntry.devs (e : SbEntry) : List Nat := (e.puts.filterMap fun p => p.acc.loc.dev?).eraseDups

end Sys2Proof.Machine
end

