-- ==== Sys2Proof/Machine/Atomic.lean ====
section
/-!
DEFINITION. Machine/Atomic.lean: row 0x8, atomics and reductions (15 R336-R339), their steps (10 R233), and the events of
the load queue and the store buffers (10 R226, R228-R230).
-/
namespace Sys2Proof.Machine

open Host (Outcome)

/-! ## The operation (R336-R338) -/

/-- The new integer value of an atomic, given old, b and the compare value d, over w bits. -/
def atomInt (aop tag old b d : Nat) : Nat :=
  let w := if tagWide tag then 64 else 32
  let x := old % 2 ^ w
  let y := b % 2 ^ w
  let lt (p q : Nat) : Bool := if tagSigned tag then decide (sextI w p < sextI w q) else decide (p < q)
  match aop with
  | 0 => y
  | 1 => (x + y) % 2 ^ w
  | 2 => if lt y x then y else x
  | 3 => if lt x y then y else x
  | 4 => x &&& y
  | 5 => x ||| y
  | 6 => x ^^^ y
  | 7 => if x = d % 2 ^ w then y else x
  | 8 => if y ≤ x then 0 else x + 1
  | _ => if x = 0 ∨ y < x then y else x - 1

/-- The new float value, element by element, and its flags (R338). -/
def atomFloat (aop tag old b : Nat) : Nat × Nat :=
  let w := tagWidth tag
  let rs := (List.range (tagElems tag)).map fun j =>
    let x := elemAt w old j
    let y := elemAt w b j
    if aop = 1 then floatElem .add tag 0 false x y 0 0 else minMaxElem (aop == 3) false tag x y
  (ofElems w (rs.map Prod.fst), (rs.map Prod.snd).foldl flagsOr 0)

/-- The new value and the flags of an atomic. -/
def atomNew (aop tag old b d : Nat) : Nat × Nat :=
  if 8 ≤ tag / 16 ∧ tag / 16 ≤ 10 then atomFloat aop tag old b else (atomInt aop tag old b d, 0)

/-! ## Issue -/

/-- AOP: IMM[31:27] (R336). -/
def memAop (i : MemI) : Nat := i.imm.toNat / 2 ^ 27

/-- A remote access at a scope narrower than tenant (R224). -/
def remoteScope (i : MemI) (op : Nat) (accs : List Acc) : Except Bail Unit :=
  let bad := accs.filter fun a => a.loc.dev?.isSome
  if scopeCode i.scope < 4 ∧ !bad.isEmpty then .error (.t 3 4 (memView op i).md)
  else .ok ()

/-- The operand that B gives each access. -/
def Group.dataOf (g : Group) (o : Operand) (tag : Nat) (wide : Bool) (accs : List Acc) : List (Nat × Nat) :=
  accs.map fun a => (a.lane, g.src o tag wide 0 a.lane)

/-- The checks of an atomic (R337, R339): the places of its active lanes. -/
def atomChecks (op : Nat) (sp : Space) (i : MemI) (s : State) (k : Iss) (act : Mask) : Except Bail (List Acc) :=
  let n := memSize i
  let cas := op != 0x203 && op != 0x204 && memAop i == 7
  match k.gr.checkBase sp i.a with
  | .error b => .error b
  | .ok () => match k.gr.checkTags .nil i.b i.d (memTag i) (n == 8) cas with
    | .error b => .error b
    | .ok () => match s.placeLanes k sp .atomic i.a (atomOff i) n act false with
      | .error b => .error b
      | .ok pl => match remoteScope i op pl.accs with
        | .error b => .error b
        | .ok () => match s.pathCheck pl.accs true with
          | .error b => .error b
          | .ok () => .ok pl.accs

/-- An atomic with a result (R337). -/
def atomInstr (op : Nat) (sp : Space) (i : MemI) (s : State) : Outcome State Fault Refusal :=
  let n := memSize i
  runE op s i.toSlots (s.guardLines i.guard (memLines i.toSlots (n == 8) (sp != .spad) (n == 8))) fun k =>
    let act := k.gr.guard i.guard k.e.mask
    match (if act = 0 then .ok [] else atomChecks op sp i s k act) with
    | .error b => .error b
    | .ok accs => match k.gr.counterWait .ld with
      | .error b => .error b
      | .ok () => match s.fillWait accs with
        | .error b => .error b
        | .ok () =>
          let (id, s1) := s.newOp
          let e : LqEntry :=
            { id := id, pc := k.e.pc, mask := k.e.mask, accs := accs, zeroed := 0, uniform := false, dest := i.d
              tag := memTag i, acq := i.order == .acq || i.order == .ar, rel := i.order == .rel || i.order == .ar
              scope := i.scope, colour := i.colour.toNat, aop := memAop i + 1
              data := k.gr.dataOf i.b (memTag i) (n == 8) accs
              cmp := if memAop i = 7 then k.gr.dataOf i.d (memTag i) (n == 8) accs else []
              vals := [], waiting := [], written := [], released := false, refused := [] }
          .ok ((s1.modGroup k.tid k.g fun g => { (g.addOp id .ld) with lq := g.lq ++ [e] }).clearIdem k.tid, k.readAccs false false accs)

def execAtom (i : MemI) (s : State) : Outcome State Fault Refusal := atomInstr 0x201 .glob i s
def execAtoms (i : MemI) (s : State) : Outcome State Fault Refusal := atomInstr 0x202 .spad i s
def execAtomf (i : MemI) (s : State) : Outcome State Fault Refusal := atomInstr 0x204 .uni i s

/-- red: the atomic enters the store buffer of its colour (R337). -/
def execRed (i : MemI) (s : State) : Outcome State Fault Refusal :=
  let n := memSize i
  runE 0x203 s i.toSlots (s.guardLines i.guard (memLines i.toSlots false true (n == 8))) fun k =>
    let act := k.gr.guard i.guard k.e.mask
    match (if act = 0 then .ok [] else atomChecks 0x203 .uni i s k act) with
    | .error b => .error b
    | .ok accs => match k.gr.counterWait .st with
      | .error b => .error b
      | .ok () => match s.fillWait accs with
        | .error b => .error b
        | .ok () =>
          let puts := accs.map fun a => (⟨a, toBytes n (k.gr.src i.b (memTag i) (n == 8) 0 a.lane)⟩ : Put)
          .ok ((s.enterStore k i puts (memAop i + 1) (memTag i)).clearIdem k.tid, k.readAccs false false accs)

/-! ## The step (R233) -/

/-- Before a step on home memory: the dirty bytes of the line in the core's view are written back, the line is dropped,
and other cores' release marks are promoted (R232, R233). -/
def State.homeReady (s : State) (core pa n : Nat) : State :=
  let ln := pa / 128
  let s1 := (s.writeBack core fun a _ => decide (a / 128 = ln)).modCore core fun c =>
    { c with view := c.view.filter fun e => decide (e.1 / 128 ≠ ln) }
  (List.range n).foldl (fun (x : State) i => x.promote core (pa + i)) s1

/-- One read-modify-write step of n bytes at a place of this device: the old value, in which the bytes that fw forwards
from the lane's own older stores come first (R228 rule 1), and the state after. -/
def State.atomAt (s : State) (core : Nat) (loc : Loc) (n : Nat) (scope : Scope) (mark : Bool) (fw : Nat → Option Byte)
    (f : Nat → Nat) : Nat × State :=
  let laid (bs : List Byte) : Nat := ofBytes (bs.zipIdx.map fun b => (fw b.2).getD b.1)
  match loc with
  | .spad tid off =>
    let old := laid (s.spadBytes tid off n)
    (old, s.spadWrite tid off (toBytes n (f old)))
  | .mem pa key =>
    if scope = .team ∨ scope = .lane then
      let s1 := s.cvNeed core key pa n
      let old := laid ((List.range n).map fun i => s1.cvByte core key (pa + i))
      (old, s1.modCore core fun c => c.cvWrite key pa mark (toBytes n (f old)))
    else
      let s1 := s.homeReady core pa n
      let old := laid (s1.homeBytes key pa n)
      (old, s1.homeWrite key pa (toBytes n (f old)))
  | .remote _ _ => (0, s)

/-- The request of a remote atomic (R436). -/
def atomPacket (part dev core pa aop tag order scope b d : Nat) : Packet :=
  mkPacket 5 part dev core pa (aop + 2 ^ 8 * (tag / 16) + 2 ^ 12 * order + 2 ^ 16 * scope) (toBytes 8 b ++ toBytes 8 d)

/-- A lane's operand. -/
def laneOf (xs : List (Nat × Nat)) (l : Nat) : Nat := ((xs.find? fun v => v.1 == l).map Prod.snd).getD 0

/-- The next lane whose step has neither happened nor been sent (R337: increasing lanes). -/
def LqEntry.nextLane (e : LqEntry) : Option Acc :=
  if e.waiting.isEmpty then e.accs.find? fun a => e.lacks a else none

/-- ATOMIC_STEP: the next lane's step of an atomic (R233, R337). -/
def execAtomicStep (tid g id : Nat) (s : State) : Outcome State Fault Refusal :=
  match s.team? tid with
  | none => .fault .notEnabled
  | some t => match t.groups[g]? with
    | none => .fault .notEnabled
    | some gr => match gr.lq.find? fun e => e.id == id with
      | none => .fault .notEnabled
      | some e => match e.nextLane with
        | none => .fault .notEnabled
        | some a =>
          if e.aop = 0 ∨ (e.rel ∧ !e.released) ∨ !gr.mayTake e a ∨ !s.filled a then .fault .notEnabled
          else
            let b := laneOf e.data a.lane
            let d := laneOf e.cmp a.lane
            match a.loc with
            | .remote dev pa =>
              let p := atomPacket t.part dev t.core pa (e.aop - 1) e.tag (b2n e.acq + 2 * b2n e.rel) (scopeCode e.scope) b d
              (match s.request t.core 1 p (.atomic tid g id a.lane) with
              | some s1 => .next (s1.modGroup tid g fun x => x.modLq id fun y => { y with waiting := y.waiting ++ [(a.lane, 0)] })
              | none => .next (s.refuseLoad tid g id a.lane 12 0))
            | _ =>
              let r := s.atomAt t.core a.loc a.n e.scope (e.rel && e.scope == .team) (gr.forward id false a) fun old =>
                (atomNew (e.aop - 1) e.tag old b d).1
              .next ((r.2.modGroup tid g fun x => x.modLq id fun y => { y with vals := y.vals ++ [(a.lane, r.1)] }).acquired tid g id)

/-- A remote step of a red is still asked for. -/
def State.redOpen (s : State) (tid g id : Nat) : Bool :=
  s.reqs.any fun q => match q.why with | .red r => r.tid == tid && r.g == g && r.id == id | _ => false

/-- A red whose every lane has taken its step is complete and leaves its buffer; refused lanes give one record (06 R136,
R141). -/
def State.redDone (s : State) (tid g id : Nat) : State :=
  match s.group? tid g with
    | none => s
    | some gr =>
      let bad := gr.redBad.filter fun x => x.1.id == id
      let s1 := match bad, failedAs (bad.map fun x => (lowLane x.1.fail, x.2)) with
        | (r, _) :: _, some (tr, ls) =>
          (s.raiseLater tid g r.pc r.mask (maskOf ls) tr.cause tr.detail tr.addr).modGroup tid g fun x =>
            { x with redBad := x.redBad.filter fun y => y.1.id != id }
        | _, _ => s
      (s1.modGroup tid g fun x => x.popSb id).endOp tid g id

/-- The step of a red's lowest lane left is over, once a remote one is answered: the next lane's may follow, and after the last
the red is complete (R233, R337). -/
def State.redSettle (s : State) (tid g id : Nat) : State :=
  if s.redOpen tid g id then s
  else match (s.group? tid g).bind fun x => x.sb.find? fun e => e.id == id with
    | none => s.redDone tid g id
    | some e =>
      if e.puts.length ≤ 1 then s.redDone tid g id
      else s.modGroup tid g fun x =>
        { x with sb := x.sb.map fun o => if o.id = id then { o with puts := o.puts.drop 1 } else o }

/-- A lane's remote step of a red fails. -/
def State.redFails (s : State) (r : StoreRef) (cause detail : Nat) : State :=
  s.modGroup r.tid r.g fun x => { x with redBad := x.redBad ++ [(r, ⟨cause, detail, r.va⟩)] }

/-- The step of one lane of a red: a remote one is asked for (R233). -/
def State.redLane (s : State) (tid g : Nat) (t : Team) (e : SbEntry) (p : Put) : State :=
  let b := ofBytes p.bytes
  let ref : StoreRef := ⟨tid, g, e.id, e.pc, e.mask, maskOf [p.acc.lane], p.acc.va⟩
  match p.acc.loc with
  | .remote dev pa =>
    (match s.request t.core 1 (atomPacket t.part dev t.core pa (e.aop - 1) e.tag (2 * b2n e.rel) (scopeCode e.scope) b 0)
        (.red ref) with
    | some y => y
    | none => s.redFails ref 12 0)
  | l =>
    (s.atomAt t.core l p.acc.n e.scope (e.rel && e.scope == .team) (fun _ => none) fun old =>
      (atomNew (e.aop - 1) e.tag old b 0).1).2

/-- A red takes the step of its lowest lane left, each lane's a step of its own (R337). It stays in its store buffer until that
step has been taken, a remote one until its answer is in (R233; log 22). -/
def State.performRed (s : State) (tid g : Nat) (t : Team) (e : SbEntry) : State :=
  let s1 := s.modGroup tid g fun x => { x with sb := x.sb.map fun o => if o.id = e.id then e else o }
  (match e.puts with
  | p :: _ => s1.redLane tid g t e p
  | [] => s1).redSettle tid g e.id

/-- An entry is performed, or the next step of a red is taken. -/
def State.performEntry (s : State) (tid g : Nat) (t : Team) (e : SbEntry) : State :=
  if e.aop = 0 then s.performStore tid g t e else s.performRed tid g t e

/-- STORE_PERFORM: the head of a colour's buffer is performed (R226), a red lane by lane; a release only once its steps
are done. -/
def execStorePerform (tid g colour : Nat) (s : State) : Outcome State Fault Refusal :=
  match s.team? tid with
  | none => .fault .notEnabled
  | some t => match t.groups[g]? with
    | none => .fault .notEnabled
    | some gr => match gr.sbHead colour with
      | none => .fault .notEnabled
      | some e =>
        if (e.rel && !e.released) || !gr.mayPerform e || s.redOpen tid g e.id || !(e.puts.all fun p => s.filled p.acc) then
          .fault .notEnabled
        else .next (s.performEntry tid g t e)

/-- LOAD_COMPLETE: destination units are written, early ones before the operation completes (R229), but with a remote
access none before every answer is in, as a refusal leaves the destination unwritten (06 R141). -/
def execLoadComplete (tid g id : Nat) (early : List Nat) (final : Bool) (s : State) : Outcome State Fault Refusal :=
  match s.team? tid with
  | none => .fault .notEnabled
  | some t => match t.groups[g]? with
    | none => .fault .notEnabled
    | some gr => match gr.lq.find? fun e => e.id == id with
      | none => .fault .notEnabled
      | some e =>
        let far := e.accs.any fun a => match a.loc with | .remote _ _ => true | _ => false
        let ok := if final then e.full && (!e.rel || e.released) else (e.full || !far) && e.earlyOk t gr early
        if !ok || !(e.gone || s.destHere tid g e.dest (tagWide e.tag)) then .fault .notEnabled
        else
          let s0 := if final && e.acq && e.accs.isEmpty then s.acquired tid g id else s
          .next (s0.loadWrites tid g id early final fun x l =>
            if x.aop = 0 then 0 else (atomNew (x.aop - 1) x.tag (x.laneVal l) (laneOf x.data l) 0).2)

end Sys2Proof.Machine
end

