-- ==== Sys2Proof/Machine/Stops.lean ====
section
/-!
DEFINITION. Machine/Stops.lean: opening and closing stop intervals (03 R59, R60, R73), and time-outs (R63).
-/
namespace Sys2Proof.Machine

/-- The brine entries that still carry an RCLK stamp are restamped in arrival order (R73). base is B, q0 the first of
their stamps. -/
def restamp (base q0 : W64) (b : List Msg) : List Msg :=
  b.map fun m => if m.real then { m with stamp := base + (m.stamp - q0), real := false } else m

/-- The highest virtual stamp in the brine queue, at least v. -/
def highStamp (v : W64) (b : List Msg) : W64 :=
  b.foldl (fun a m => if !m.real && decide (a < m.stamp) then m.stamp else a) v

/-- A reason for a stop interval goes. -/
def State.dropWhy (s : State) (p c : Nat) (why : StopWhy) : State :=
  s.modCtx p c fun x => { x with stop := x.stop.map fun st => { st with why := st.why.filter fun w => w != why } }

/-- The interval is open, and no reason for it is left. -/
def State.noWhy (s : State) (p c : Nat) : Bool :=
  match (s.ctx p c).stop with
  | some st => st.why.isEmpty
  | none => false

/-- The interval closes: VSTOPSUM grows, VCLK resumes from S, brine entries are restamped (R59, R73). -/
def State.closeNow (s : State) (p c : Nat) : State :=
  s.modCtx p c fun x =>
    match x.stop with
    | none => x
    | some st =>
      let b := match x.brine.find? fun m => m.real with
        | some m => restamp (highStamp st.s x.brine) m.stamp x.brine
        | none => x.brine
      { x with stop := none, stopsum := x.stopsum + (s.rclk - st.opened), brine := b }

/-- The end of a time-out: the value at issue plus the interval; past 2^64 it never comes (R63). -/
def State.deadline (s : State) (t : Team) (interval : Nat) : Option W64 :=
  let x := (s.vclk t.part t.ctx).toNat + interval
  if x < 2 ^ 64 then some (BitVec.ofNat 64 x) else none

end Sys2Proof.Machine
end

