-- ==== Sys2Proof/Machine/Barrier.lean ====
section
/-!
DEFINITION. Machine/Barrier.lean: transaction barriers (09 R210-R213): their words, their updates, overruns and sector
credits; and the barrier instructions of row 0x9 (15 R345-R348).
-/
namespace Sys2Proof.Machine

open Host (Outcome)

/-! ## The object (R210) -/

/-- A transaction barrier's fields; counts are signed. -/
structure Bar where
  phase : Nat
  resv : Nat
  init : Nat
  arrive : Int
  sectors : Int
  excess : Nat
  deriving DecidableEq, Repr

/-- The fields of 16 bytes. -/
def barOf (bs : List Byte) : Bar :=
  let x := ofBytes bs
  ⟨bits x 3 0, bits x 15 4, bits x 31 16, sextI 32 (bits x 63 32), sextI 32 (bits x 95 64), bits x 127 96⟩

/-- The 16 bytes of a barrier. -/
def Bar.bytes (b : Bar) : List Byte :=
  toBytes 16 (b.phase + 2 ^ 4 * b.resv + 2 ^ 16 * b.init + 2 ^ 32 * wrapI 32 b.arrive + 2 ^ 64 * wrapI 32 b.sectors
    + 2 ^ 96 * b.excess)

/-- Reserved bits are set or INIT is 0 (R210). -/
def Bar.bad (b : Bar) : Bool := b.resv != 0 || b.init == 0

/-- The starting state for n participants (R211). -/
def Bar.start (n : Nat) : Bar := ⟨0, 0, n, n, 0, 0⟩

/-- OVER stops at its maximum. -/
def Bar.addOver (b : Bar) (n : Nat) : Bar := { b with excess := min (b.excess + n) 0xFFFFFFFF }

/-- Excess sectors, then the phase turn, after an update (R211, R212): the barrier, and whether sectors were in excess. -/
def Bar.settle (b : Bar) : Bar × Bool :=
  let ex := decide (b.arrive = 0) && decide (b.sectors < 0)
  let b1 := if ex then { b.addOver b.sectors.natAbs with sectors := 0 } else b
  (if b1.arrive = 0 ∧ b1.sectors = 0 then { b1 with arrive := (b1.init : Int), phase := (b1.phase + 1) % 16 } else b1, ex)

/-- The signed 32-bit range. -/
def inI32 (x : Int) : Bool := decide (-2147483648 ≤ x) && decide (x ≤ 2147483647)

/-! ## Reaching it -/

/-- The 16 bytes of a barrier at a place of this device, and the state after the read: home memory, with the core's own
dirty bytes written back first (device scope), or scratchpad. -/
def State.barRead (s : State) (core : Nat) (loc : Loc) : Bar × State :=
  match loc with
  | .spad tid off => (barOf (s.spadBytes tid off 16), s)
  | .mem pa key => let s1 := s.homeReady core pa 16; (barOf (s1.homeBytes key pa 16), s1)
  | .remote _ _ => (barOf [], s)

/-- Write a barrier at its scope. -/
def State.barWrite (s : State) (loc : Loc) (b : Bar) : State :=
  match loc with
  | .spad tid off => s.spadWrite tid off b.bytes
  | .mem pa key => s.homeWrite key pa b.bytes
  | .remote _ _ => s

/-- Two places are one byte. -/
def Loc.same (a b : Loc) : Bool :=
  match a, b with
  | .spad t o, .spad u p => t == u && o == p
  | .mem x _, .mem y _ => x == y
  | .remote d x, .remote e y => d == e && x == y
  | _, _ => false

/-- The place of a barrier that a team's instruction names, without its checks. -/
def State.barPlace (s : State) (tid : Nat) (t : Team) (va : Nat) : Option Loc :=
  if va / 2 ^ 32 = 0xFFFFFFFF then s.spadLoc tid t (va % 2 ^ 32) 16
  else match s.xlate t .load va with
    | .ok l => some l
    | .error _ => none

/-! ## Overruns (R212) -/

/-- The address of the barrier that a wait at tbwait names, where it is the one at a place. -/
def State.waitsOn (s : State) (loc : Loc) (tid : Nat) (t : Team) (h : Hold) : Option Nat :=
  if h.why = 5 ∧ h.started then
    let va := (h.answer.getD 0).toNat
    match s.barPlace tid t va with
    | some l => if l.same loc then some va else none
    | none => none
  else none

/-- The groups that wait at tbwait on a barrier, with the address each named, and whether the one that waits is the
instruction that a running handler interrupted. -/
def State.barWaiters (s : State) (loc : Loc) : List (Nat × Nat × Nat × Bool) :=
  s.teams.flatMap fun e => (List.range e.2.groups.length).flatMap fun g =>
    match e.2.groups[g]? with
    | none => []
    | some gr =>
      (match gr.hold.bind (s.waitsOn loc e.1 e.2) with | some va => [(e.1, g, va, false)] | none => [])
      ++ (match (gr.handler.bind fun h => h.stash).bind (s.waitsOn loc e.1 e.2) with | some va => [(e.1, g, va, true)] | none => [])

/-- A precise record on a group whose instruction waits (07 R157): the wait has no effect. -/
def State.raiseHeld (s : State) (tid g cause detail addr : Nat) : State :=
  match s.team? tid with
  | none => s
  | some t => match t.groups[g]? with
    | none => s
    | some gr => match gr.selected with
      | none => s
      | some e =>
        let s1 := s.modGroup tid g fun x => { x with hold := none }
        if gr.handler.isSome then s1.halt tid g cause
        else s1.appendRec tid g (mkRec t g cause detail addr false e.prio e.pc e.mask e.mask)

/-- The same on the instruction that a running handler interrupted. -/
def State.raiseStash (s : State) (tid g cause detail addr : Nat) : State :=
  match s.team? tid with
  | none => s
  | some t => match t.groups[g]? with
    | none => s
    | some gr => match gr.selectedOf gr.front with
      | none => s
      | some e => (s.modGroup tid g fun x => { x with handler := x.handler.map fun h => { h with stash := none } }).appendRec tid g
          (mkRec t g cause detail addr false e.prio e.pc e.mask e.mask)

/-- The records of an overrun: precise on each waiting group, imprecise on the issuer of the copy or program. -/
def State.overrun (s : State) (loc : Loc) (phase : Nat) (issuer : Option Credit) : State :=
  let ws := s.barWaiters loc
  let s1 := ws.foldl (fun (x : State) w =>
    if w.2.2.2 then x.raiseStash w.1 w.2.1 10 phase (barAddr w.2.2.1) else x.raiseHeld w.1 w.2.1 10 phase (barAddr w.2.2.1)) s
  match issuer with
  | none => s1
  | some c =>
    if ws.any fun w => w.1 == c.tid && w.2.1 == c.g then s1
    else s1.raiseLater c.tid c.g c.pc c.mask c.mask 10 phase (barAddr c.va)

/-- Whose credit last left the SECTORS of a barrier below 0. -/
def State.credit? (s : State) (loc : Loc) : Option Credit := s.credits.find? fun c => c.loc.same loc

/-- The same is forgotten, or is now another's. -/
def State.setCredit (s : State) (loc : Loc) (c : Option Credit) : State :=
  { s with credits := (s.credits.filter fun x => !x.loc.same loc) ++ c.toList }

/-- A new value of a barrier after an update: R211's turn, then any overrun's records (R212). phase is that before. -/
def State.barSettle (s : State) (loc : Loc) (phase : Nat) (b : Bar) : State :=
  let u := b.settle
  let s1 := s.barWrite loc u.1
  let s2 := if u.2 then s1.overrun loc phase (s1.credit? loc) else s1
  if u.1.sectors < 0 then s2 else s2.setCredit loc none

/-- An update of a barrier that is well formed, in a cycle of its own (R213; log 22): an arrival that performs after its
instruction, or one of a DXP. -/
def State.barApply (s : State) (core : Nat) (loc : Loc) (f : Bar → Bar) : State :=
  let r := s.barRead core loc
  if r.1.bad then r.2 else r.2.barSettle loc r.1.phase (f r.1)

/-- The core whose scratchpad held a barrier has been reset (R211). -/
def State.barGone (s : State) (loc : Loc) : Bool :=
  match loc with
  | .spad tid _ => (s.team? tid).isNone
  | _ => false

/-- The updates of one barrier in a cycle reach it together (R213): a tbinit first, the last one standing, then the sums of the
others; the tests are made once. A malformed barrier drops them (R210). An arrival that finds, its instruction having issued, no
participant owed posts an imprecise record (log 22). -/
def State.barSum (s : State) (core : Nat) (loc : Loc) (us : List BarUpd) : State :=
  let r := s.barRead core loc
  let start := us.foldl (fun (b : Option Nat) u => match u.kind with | .init n => some n | _ => b) none
  let b := match start with | some n => Bar.start n | none => r.1
  let s1 := if start.isSome then r.2.setCredit loc none else r.2
  if b.bad then s1
  else
    let arr (u : BarUpd) : Nat := match u.kind with | .arrive n => n | _ => 0
    let n := (us.map arr).sum
    let m := (us.map fun u => match u.kind with | .expect n => n | _ => 0).sum
    let late := decide (b.arrive < n)
    let s2 := s1.barSettle loc b.phase { b with arrive := if late then b.arrive else b.arrive - n, sectors := b.sectors + m }
    if late then (us.filter fun u => arr u != 0).foldl (fun (x : State) u =>
      x.raiseLater u.tid u.g u.pc u.mask u.mask 10 b.phase (barAddr u.va)) s2
    else s2

/-- The places of some updates, each once. -/
def barPlaces (us : List BarUpd) : List Loc :=
  us.foldl (fun ls u => if ls.any fun l => l.same u.loc then ls else ls ++ [u.loc]) []

/-- The barrier updates of a core's cycle take place, with its end. -/
def State.barFlush (s : State) (core : Nat) : State :=
  let us := (s.core core).bars
  if us.isEmpty then s
  else (barPlaces us).foldl (fun (x : State) l => if x.barGone l then x else x.barSum core l (us.filter fun u => u.loc.same l))
    (s.modCore core fun c => { c with bars := [] })

/-- An instruction updates a barrier: with the other updates of its core's cycle, at the cycle's end, which in the last quadrant
is now (R213). -/
def State.barUpdate (s : State) (k : Iss) (loc : Loc) (va : Nat) (kind : BarKind) : State :=
  let s1 := s.modCore k.t.core fun c => { c with bars := c.bars ++ [⟨loc, k.tid, k.g, k.e.pc, k.e.mask, va, kind⟩] }
  if (s.core k.t.core).nextQ = 0 then s1.barFlush k.t.core else s1

/-- Sector credits of a copy, tagged with a phase (R211, R212); a malformed barrier drops them (R210). -/
def State.barCredit (s : State) (core phase n : Nat) (c : Credit) : State :=
  let r := s.barRead core c.loc
  if r.1.bad then r.2
  else if r.1.phase ≠ phase then (r.2.barWrite c.loc (r.1.addOver n)).overrun c.loc r.1.phase (some c)
  else (r.2.setCredit c.loc (some c)).barSettle c.loc r.1.phase { r.1 with sectors := r.1.sectors - n }

/-! ## The instructions (R345-R348) -/

/-- The barrier that sA names, checked (R326, R345): its address and its place. A barrier on remote memory is narrower
than tenant scope (10 R224). -/
def State.barArg (s : State) (k : Iss) (a : Operand) (kind : AccKind) : Except Bail (Nat × Loc) :=
  let va := k.gr.uni a 0
  match s.place k .uni kind va 16 16 with
  | .error e => .error (.t e.cause e.detail e.addr)
  | .ok (.remote _ _) => .error (.t 3 4 0)
  | .ok l => match s.fillWait [⟨0, va, l, 16⟩] with
    | .error b => .error b
    | .ok () => .ok (va, l)

/-- The barrier's bytes, or the trap of a malformed one (R210, R185). -/
def State.barUse (s : State) (k : Iss) (va : Nat) (l : Loc) : Except Bail (Bar × State) :=
  let r := s.barRead k.t.core l
  if r.1.bad then .error (.t 2 0xFF (barAddr va)) else .ok r

/-- A count: IMM, or sB[31:0], 1 to a maximum (R345). -/
def Group.barCount (g : Group) (b : Operand) (imm top : Nat) : Except Bail Nat :=
  match b with
  | .s n =>
    let c := (g.rs n.toNat).toNat % 2 ^ 32
    if 1 ≤ c ∧ c ≤ top then .ok c else .error (.t 3 3 (g.rs n.toNat).toNat)
  | _ => .ok imm

/-- The idempotent flag clears for a barrier outside the team's own allocation (02 R50). -/
def State.idemBar (s : State) (tid : Nat) (l : Loc) : State := s.idemStore tid [⟨0, 0, l, 16⟩]

def execTbinit (i : MemI) (s : State) : Outcome State Fault Refusal :=
  runS 0x244 s i.toSlots (linesOf i.toSlots false 0) fun k =>
    match s.barArg k i.a .atomic with
    | .error b => .error b
    | .ok (va, l) => .ok ((s.barUpdate k l va (.init i.imm.toNat)).idemBar k.tid l)

/-- The updates of a barrier by instructions of the cycles under way. -/
def State.barNow (s : State) (loc : Loc) : List BarUpd := s.cores.flatMap fun c => c.2.bars.filter fun u => u.loc.same loc

/-- How many participants the arrivals on a barrier that have issued and are not yet applied stand for. -/
def State.pendingArrivals (s : State) (loc : Loc) : Nat :=
  (s.teams.flatMap fun e => e.2.groups.flatMap fun g => g.pend.filterMap fun p =>
    match p.kind with
    | .arrive l _ n => if l.same loc then some n else none
    | _ => none).sum + ((s.barNow loc).map fun u => match u.kind with | .arrive n => n | _ => 0).sum

/-- The ARRIVE that an arrival finds: what the arrivals issued before it leave, so that its instruction takes the trap of an
excess one (R212; log 22); in a cycle with a tbinit, of the count that this writes (R213). -/
def State.barOwed (s : State) (loc : Loc) (b : Bar) : Int :=
  ((s.barNow loc).foldl (fun (a : Int) u => match u.kind with | .init n => (n : Int) | _ => a) b.arrive) - s.pendingArrivals loc

/-- The SECTORS that an expectation adds to, with those of the cycle before it. -/
def State.barSectors (s : State) (loc : Loc) (b : Bar) : Int :=
  (s.barNow loc).foldl (fun (a : Int) u => match u.kind with | .expect n => a + n | _ => a)
    (if (s.barNow loc).any fun u => match u.kind with | .init _ => true | _ => false then 0 else b.sectors)

/-- The older accesses and the release steps of an arrival are done, or need none: it is applied at once. -/
def arriveNow (k : Iss) (l : Loc) : Bool :=
  k.gr.lq.all (fun e => e.full) && k.gr.sb.isEmpty && (match l with | .spad _ _ => true | _ => false)

def execTbarrive (i : MemI) (s : State) : Outcome State Fault Refusal :=
  runS 0x245 s i.toSlots (linesOf i.toSlots false 0) fun k =>
    match k.gr.barCount i.b i.imm.toNat 65535 with
    | .error b => .error b
    | .ok n => match s.barArg k i.a .atomic with
      | .error b => .error b
      | .ok (va, l) => match s.barUse k va l with
        | .error b => .error b
        | .ok (bar, s1) =>
          if s1.barOwed l bar < n then .error (.t 10 bar.phase (barAddr va))
          else if !inI32 (bar.arrive - n) then .error (.t 3 (if i.b.isS then 3 else 5) n)
          else
            let s2 := if arriveNow k l then s1.barUpdate k l va (.arrive n)
              else
                let (id, s3) := s1.newOp
                s3.modGroup k.tid k.g fun g => { g with pend := g.pend ++ [⟨id, id, k.e.pc, k.e.mask, .arrive l va n, false⟩] }
            .ok (s2.idemBar k.tid l)

def execTbexpect (i : MemI) (s : State) : Outcome State Fault Refusal :=
  runS 0x246 s i.toSlots (linesOf i.toSlots false 0) fun k =>
    match k.gr.barCount i.b i.imm.toNat (2 ^ 31 - 1) with
    | .error b => .error b
    | .ok n => match s.barArg k i.a .atomic with
      | .error b => .error b
      | .ok (va, l) => match s.barUse k va l with
        | .error b => .error b
        | .ok (bar, s1) =>
          if !inI32 (s1.barSectors l bar + n) then .error (.t 3 (if i.b.isS then 3 else 5) n)
          else .ok ((s1.barUpdate k l va (.expect n)).idemBar k.tid l)

/-- The scope at which a barrier is reached (R345). -/
def barScope (l : Loc) : Scope := match l with | .spad _ _ => .team | _ => .dev

/-- tbwait (R347): completion wins over a time-out; the wait holds the address it named. -/
def execTbwait (i : MemI) (s : State) : Outcome State Fault Refusal :=
  runS 0x247 s i.toSlots (linesOf i.toSlots false 0) fun k =>
    match s.barArg k i.a .load with
    | .error b => .error b
    | .ok (va, l) => match s.barUse k va l with
      | .error b => .error b
      | .ok (bar, s1) =>
        let out (x : State) (v : W64) : State := if i.d.isNil then x else x.modGroup k.tid k.g fun g => g.ws i.d.idx v
        if bar.phase ≠ i.imm.toNat % 16 then .ok (out (s1.acquire k.t.core k.tid (barScope l)) 0)
        else match k.waiting 5 with
          | some h => if h.timedOut then .ok (out s1 1) else .error (.hold { h with ready := false })
          | none =>
            let dl := if i.b.isNil then none else s.deadline k.t (k.gr.uni i.b 0)
            .error (.hold { Hold.wait 5 with started := true, deadline := dl, answer := some (BitVec.ofNat 64 va) })

def execTbtest (i : MemI) (s : State) : Outcome State Fault Refusal :=
  runS 0x248 s i.toSlots (linesOf i.toSlots false 0) fun k =>
    match s.barArg k i.a .load with
    | .error b => .error b
    | .ok (va, l) => match s.barUse k va l with
      | .error b => .error b
      | .ok (bar, s1) =>
        .ok (s1.modGroup k.tid k.g fun g =>
          g.ws i.d.idx (BitVec.ofNat 64 (b2n (bar.phase != i.imm.toNat % 16) + 16 * bar.phase)))

end Sys2Proof.Machine
end

