-- ==== Sys2Proof/Machine/Gather.lean ====
section
/-!
DEFINITION. Machine/Gather.lean: bytes that an instruction reads at its issue (08 R185, 10 R238, R240, 18 R415): its
control record and its arguments, of this device or of another.
-/
namespace Sys2Proof.Machine

open Host (Outcome)

/-! ## Meanings that read at issue -/

/-- A check that leaves the state as it was. -/
def failIn {α : Type} (s : State) (r : Except Bail α) : Except (Bail × State) α :=
  match r with
  | .error b => .error (b, s)
  | .ok x => .ok x

/-- Run a meaning that may leave its instruction waiting after it has begun; one that fails gives the state to take the
trap in. -/
def runH (op : Nat) (s : State) (sl : Slots) (ls : List Nat × List Nat)
    (f : Iss → Except (Bail × State) (State × Option Hold)) : Outcome State Fault Refusal :=
  match s.issuer with
  | none => .fault .noIssuer
  | some k => match k.enter op ls with
    | .error b => .next (s.bail k b)
    | .ok () => match (s.readRegs k ls).2 with
      | some a => .next ((s.readRegs k ls).1.bail k (.t 13 4 a))
      | none => match f k with
        | .error (b, s1) => .next (s1.bail k b)
        | .ok (s1, some h) => .next (s1.bail k (.hold h))
        | .ok (s1, none) =>
          .next (((s1.readRegs k ls).1.modGroup k.tid k.g fun g => { g with gath := [], asked := [] }).retire k sl.hint k.fall none)

/-- The wait for sectors asked for: a matrix operand interlock (02 R33). -/
def gatherHold : Hold := { Hold.wait 2 with started := true }

/-! ## Sectors -/

/-- The place of sector x that a read from address va touches; a failure names the first byte of the read in it. -/
def State.sectorAt (s : State) (k : Iss) (va x : Nat) : Except Bail Loc :=
  match s.place k .uni .load x 32 1 with
  | .error e => .error (.t e.cause e.detail (if e.cause = 2 then e.addr else barAddr (max va x)))
  | .ok l => .ok l

/-- The places of n sectors from x on. -/
def State.sectorsAt (s : State) (k : Iss) (va : Nat) : Nat → Nat → Except Bail (List (Nat × Loc))
  | 0, _ => .ok []
  | n + 1, x => match s.sectorAt k va x with
    | .error b => .error b
    | .ok l => match s.sectorsAt k va n (x + 32) with
      | .error b => .error b
      | .ok ls => .ok ((x, l) :: ls)

/-- The bytes of a remote sector that the core's write-combining buffer holds (10 R228 rule 4). -/
def State.wcSector (s : State) (core dev pa : Nat) : List (Option Byte) :=
  (List.range 32).map fun i => (s.core core).wcByte dev (pa + i)

/-- One sector as a copy source (10 R238): of this device, or a remote one that the core's write-combining buffer holds
whole or that has come in; none for one still to be asked for. -/
def State.sectorBytes (s : State) (k : Iss) (va : Nat) (x : Nat × Loc) : Except (Bail × State) (Option (List Byte) × State) :=
  let er := s.readErr k.t.core k.t.part x.2 32 x.1
  match er.2 with
  | some kind => .error (.t 13 kind (errAddr kind (max va x.1)), er.1)
  | none => match x.2 with
    | .spad t off => .ok (some (er.1.spadBytes t off 32), er.1)
    | .mem pa key => let r := er.1.readMem k.t.core key pa 32 false; .ok (some r.1, r.2)
    | .remote d pa =>
      match k.gr.gath.find? fun e => e.1 % 2 ^ 64 == x.1 with
      | some e => if 2 ^ 64 ≤ e.1 then .error (.t 8 (e.1 / 2 ^ 64) (max va x.1), er.1) else .ok (some e.2, er.1)
      | none =>
        let here := s.wcSector k.t.core d pa
        if here.all fun b => b.isSome then .ok (some (here.map fun b => b.getD 0), er.1)
        else if (s.pathsTo d 0).isEmpty then .error (.t 8 6 (max va x.1), er.1) else .ok (none, er.1)

/-- The bytes of some sectors, none while a remote one is missing. -/
def State.sectorsBytes (k : Iss) (va : Nat) :
    List (Nat × Loc) → State → Except (Bail × State) (Option (List Byte) × State)
  | [], s => .ok (some [], s)
  | x :: xs, s => match s.sectorBytes k va x with
    | .error b => .error b
    | .ok (b, s1) => match State.sectorsBytes k va xs s1 with
      | .error e => .error e
      | .ok (r, s2) => .ok ((match b, r with | some u, some v => some (u ++ v) | _, _ => none), s2)

/-- Remote sectors are asked for, once each; what the write-combining buffer holds of one is read now. -/
def State.askSectors (s : State) (k : Iss) (xs : List (Nat × Loc)) : State :=
  xs.foldl (fun (y : State) x => match x.2 with
    | .remote d pa =>
      let why : ReqFor := .gather k.tid k.g x.1
      let here := y.wcSector k.t.core d pa
      if y.reqs.any (fun r => r.why == why) || k.gr.gath.any (fun e => e.1 % 2 ^ 64 == x.1) || here.all fun b => b.isSome then y
      else match y.request k.t.core 0 (mkPacket 1 k.t.part d k.t.core pa 32 []) why with
        | some z => z.modGroup k.tid k.g fun g => { g with asked := g.asked ++ [(x.1, here)] }
        | none => y
    | _ => y) s

/-- A remote sector has come in for a read at issue, or is refused with a status. -/
def Group.gathered (g : Group) (va status : Nat) (answer : List Byte) : Group :=
  let here := ((g.asked.find? fun e => e.1 == va).map Prod.snd).getD []
  { g with gath := g.gath ++ [if status ≠ 0 then (va + 2 ^ 64 * status, [])
      else (va, (List.range 32).map fun i => match here.getD i none with | some b => b | none => answer.getD i 0)] }

/-! ## Reads -/

/-- n bytes at a unified address read at issue as a copy source, aligned to al: none while remote sectors are awaited
(the state has asked for them). -/
def State.gather (s : State) (k : Iss) (va n al : Nat) : Except (Bail × State) (Option (List Byte) × State) :=
  match s.sectorsAt k va (ceilDiv (va % 32 + n) 32) (va - va % 32) with
  | .error b => .error (b, s)
  | .ok xs =>
    if va % al ≠ 0 then .error (.t 9 (Nat.log2 al) (barAddr va), s)
    else match s.fillWait (xs.map fun x => ⟨0, x.1, x.2, 32⟩) with
      | .error b => .error (b, s)
      | .ok () => match State.sectorsBytes k va xs s with
        | .error b => .error b
        | .ok (some bs, s1) => .ok (some (sliceD 0#8 bs (va % 32) n), s1)
        | .ok (none, s1) => .ok (none, s1.askSectors k xs)

/-- A control record's trap names the record (08 R185), but for a bad entry of a page table (07 R161). -/
def recTrap (va : Nat) (b : Bail) : Bail :=
  match b with
  | .trap c d a f => .trap c d (if c = 2 then a else if c = 13 then errAddr d va else barAddr va) f
  | b => b

/-- A control record of n bytes read at issue as a load of the instruction (08 R184, R185): none while it is awaited.
own asks for the team's own allocation, where the record is in scratchpad (16 R354). -/
def State.readRec (s : State) (k : Iss) (va n al : Nat) (own : Bool) :
    Except (Bail × State) (Option (List Byte) × State) :=
  if own && decide (va / 2 ^ 32 = 0xFFFFFFFF) && bits va 27 24 != 15 then .error (.t 8 5 (barAddr va), s)
  else match s.gather k va n al with
    | .error (b, s1) => .error (recTrap va b, s1)
    | .ok r => .ok r

end Sys2Proof.Machine
end

