-- ==== Sys2Proof/Machine/Copy.lean ====
section
/-!
DEFINITION. Machine/Copy.lean: row 0xC (17 R375-R384): tensor copies, gathers and scatters, starting and stopping DXP
programs: their issue; and the copies' tables (08 R193-R195) and gates (06 R153, 08 R197).
-/
namespace Sys2Proof.Machine

open Host (Outcome)

/-! ## The tensor layout record (R193-R195) -/

/-- A tensor layout record's fields; box holds extents, stride the byte stride of every dimension but 0. -/
structure TRec where
  base : Nat
  entry : Nat
  ndim : Nat
  tag : Nat
  oor : Nat
  swz : Nat
  gate : Nat
  box : List Nat
  size : List Nat
  stride : List Nat
  rest : Bool
  deriving DecidableEq, Repr

/-- The record that 64 bytes hold; rest is set where a reserved bit is. -/
def tensorRec (bs : List Byte) : TRec :=
  let w (o n : Nat) : Nat := ofBytes (sliceD 0#8 bs o n)
  let x := w 0x10 4
  { base := w 0 8, entry := w 8 8, ndim := bits x 2 0, tag := bits x 15 8, oor := bits x 17 16, swz := bits x 21 18
    gate := bits x 28 22, box := (List.range 5).map fun i => w (0x14 + i) 1 + 1
    size := (List.range 5).map fun i => w (0x1C + 4 * i) 4
    stride := 0 :: (List.range 4).map fun i => 16 * w (0x30 + 4 * i) 4
    rest := bits x 7 3 != 0 || bits x 31 29 != 0 || w 0x19 3 != 0 || decide (2 ^ 56 ≤ w 0 8) || decide (2 ^ 56 ≤ w 8 8) }

/-- The bits of an element. -/
def TRec.w (r : TRec) : Nat := tagWidth r.tag
/-- The bytes of a box row: one line of dimension 0. -/
def TRec.row (r : TRec) : Nat := r.box.getD 0 1 * r.w / 8
/-- The box rows. -/
def TRec.rows (r : TRec) : Nat := (List.range (r.ndim - 1)).foldl (fun n i => n * r.box.getD (i + 1) 1) 1
/-- The bytes of the box (R378). -/
def TRec.bytes (r : TRec) : Nat := r.row * r.rows

/-- What breaks a record (R185, R193, R195). -/
def TRec.bad (r : TRec) : Bool :=
  r.rest || r.ndim == 0 || decide (5 < r.ndim) || !tagDefined r.tag || r.tag == 0xE0 || r.tag == 0xE1 || decide (1 < r.oor)
    || decide (2 < r.swz) || decide (64 < r.gate)
    || (List.range 5).any (fun i => decide (r.ndim ≤ i) && (r.box.getD i 1 != 1 || r.size.getD i 0 != 0 || r.stride.getD i 0 != 0))
    || r.box.getD 0 1 * r.w % 128 != 0 || (r.swz != 0 && r.row % 128 != 0)

/-- The coordinates in dimensions 1 and up of box row n: dimension 1 fastest (R194). -/
def TRec.coords (r : TRec) (c : List Int) (n : Nat) : List Int :=
  ((List.range (r.ndim - 1)).foldl (fun (x : List Int × Nat) i =>
    let e := r.box.getD (i + 1) 1
    (x.1 ++ [c.getD (i + 1) 0 + (x.2 % e : Nat)], x.2 / e)) ([], n)).1

/-- A coordinate is in range in dimension i. -/
def TRec.inDim (r : TRec) (i : Nat) (x : Int) : Bool := decide (0 ≤ x) && decide (x < (r.size.getD i 0 : Nat))

/-- A box row lies in range in dimensions 1 and up. -/
def TRec.rowIn (r : TRec) (c : List Int) (n : Nat) : Bool :=
  (r.coords c n).zipIdx.all fun x => r.inDim (x.2 + 1) x.1

/-- The address of byte x of box row n, at the first element's coordinates (R194). -/
def TRec.addr (r : TRec) (c : List Int) (n x : Nat) : Nat :=
  wrapI 64 ((r.base : Int) + (c.getD 0 0) * r.w / 8 + x
    + (r.coords c n).zipIdx.foldl (fun (a : Int) y => a + y.1 * (r.stride.getD (y.2 + 1) 0 : Nat)) 0)

/-- The bits of byte x of box row n that belong to elements in range. -/
def TRec.keep (r : TRec) (c : List Int) (n x : Nat) : Byte :=
  if !r.rowIn c n then 0
  else if 8 ≤ r.w then (if r.inDim 0 (c.getD 0 0 + (8 * x / r.w : Nat)) then 0xFF else 0)
  else (List.range (8 / r.w)).foldl (fun (m : Byte) j =>
    if r.inDim 0 (c.getD 0 0 + (8 * x / r.w + j : Nat)) then m ||| BitVec.ofNat 8 ((2 ^ r.w - 1) * 2 ^ (r.w * j)) else m) 0

/-- The byte of the box that lies at byte q of the local box: the rotation of R194 undone. -/
def TRec.place (r : TRec) (swz : Bool) (q : Nat) : Nat :=
  if !swz || r.swz = 0 then q
  else
    let u := 16 * r.swz
    let n := q / r.row
    let x := q % r.row
    r.row * n + x / 128 * 128 + (((x % 128) / u) ^^^ (n % (8 / r.swz))) * u + x % u

/-- The address of the first out-of-range element in box order (R378). -/
def TRec.firstOut (r : TRec) (c : List Int) : Option Nat :=
  (List.range r.rows).findSome? fun n =>
    ((List.range (r.box.getD 0 1)).find? fun j => !r.rowIn c n || !r.inDim 0 (c.getD 0 0 + (j : Nat))).map fun j =>
      r.addr c n (j * r.w / 8)

/-! ## Gates (R153, R197) -/

/-- A gate entry's fields. -/
structure GateE where
  v : Bool
  both : Bool
  srcc : Nat
  dstc : Nat
  srcBase : Nat
  srcLen : Nat
  dstBase : Nat
  dstLen : Nat
  budget : Nat
  bad : Bool
  deriving DecidableEq, Repr

/-- The address of a gate entry; gate is its index plus one. -/
def State.gateAddr (s : State) (part gate : Nat) : Nat := (s.part part).gates + 64 * (gate - 1)

/-- A gate entry as memory holds it. -/
def State.gateAt (s : State) (part gate : Nat) : GateE :=
  let a := s.gateAddr part gate
  let w (i : Nat) : Nat := s.devWord part (a + 8 * i)
  let x := w 0
  let srcc := bits x 6 4
  let dstc := bits x 10 8
  { v := bit x 0, both := bit x 1, srcc := srcc, dstc := dstc, srcBase := w 1, srcLen := w 2, dstBase := w 3, dstLen := w 4
    budget := w 5
    bad := bits x 3 2 != 0 || bit x 7 || decide (2 ^ 11 ≤ x) || srcc == 0 || dstc == 0 || srcc == dstc
      || [w 1, w 2, w 3, w 4].any (fun y => decide (2 ^ 56 ≤ y)) || w 6 != 0 || w 7 != 0 }

/-- Byte ranges lie within a range. -/
def within (rs : List (Nat × Nat)) (base len : Nat) : Bool :=
  rs.all fun r => decide (base ≤ r.1) && decide (r.1 + r.2 ≤ base + len)

/-- One side of a transfer against a side of a gate: a local side belongs to the team's compartment. -/
def sideOk (side : Option (List (Nat × Nat))) (comp c base len : Nat) : Bool :=
  match side with
  | none => comp == c
  | some rs => within rs base len

/-- A transfer of size bytes through a gate, or the fault that refuses it: the state with its budget lowered, and the
compartments of the two sides (R153). A side is its byte ranges, or none for scratchpad and tile registers. An entry with V 0 is
refused whatever its reserved bits hold (DESIGN CHOICE, log 12: the spec gives no order of the two checks). -/
def State.passGate (s : State) (t : Team) (gate : Nat) (src dst : Option (List (Nat × Nat))) (size : Nat) :
    Except Trap (State × Nat × Nat) :=
  if gate = 0 then .ok (s, t.comp, t.comp)
  else
    let a := s.gateAddr t.part gate
    let e := s.gateAt t.part gate
    let no : Except Trap (State × Nat × Nat) := .error ⟨8, 2, a⟩
    if (s.part t.part).gates = 0 || !e.v then no
    else if e.bad then .error ⟨2, 0xFF, a⟩
    else if !(t.comp == e.srcc || t.comp == e.dstc) || decide (e.budget < size) then no
    else
      let fwd := sideOk src t.comp e.srcc e.srcBase e.srcLen && sideOk dst t.comp e.dstc e.dstBase e.dstLen
      let rev := e.both && sideOk src t.comp e.dstc e.dstBase e.dstLen && sideOk dst t.comp e.srcc e.srcBase e.srcLen
      let b := localPa (a + 40)
      let key := if s.keyAt b = 0 then 0 else keyOf (s.part t.part) 0
      let s1 := s.homeWrite key b (toBytes 8 (e.budget - size))
      if fwd then .ok (s1, e.srcc, e.dstc) else if rev then .ok (s1, e.dstc, e.srcc) else no

/-! ## Issue -/

/-- The barrier that a copy names: alignment, a local address, and, where it can be reached, its phase (R377, R211); one
that is malformed traps (09 R210). A mapped scratchpad line is filled first (06 R144). -/
def State.copyBar (s : State) (k : Iss) (bar : Nat) : Except Bail (Option Loc × Option Nat × State) :=
  if bar = 0 then .ok (none, none, s)
  else if bar % 16 ≠ 0 then .error (.t 9 4 (barAddr bar))
  else match s.place k .uni .atomic bar 16 16 with
    | .error e => if bar / 2 ^ 32 = 0xFFFFFFFF then .error (.t e.cause e.detail e.addr) else .ok (none, none, s)
    | .ok (.remote _ _) => .error (.t 3 2 bar)
    | .ok l => match s.fillWait [⟨0, bar, l, 16⟩] with
      | .error b => .error b
      | .ok () =>
        let r := s.barRead k.t.core l
        if r.1.bad then .error (.t 2 0xFF (barAddr bar)) else .ok (some l, some r.1.phase, r.2)

/-- A copy issues: it enters the engine and its counter. -/
def State.copyIssue (s : State) (k : Iss) (cls : OpClass) (f : Nat → CopyOp) : State :=
  let (id, s1) := s.newOp
  (s1.modGroup k.tid k.g fun g => g.addOp id cls).modCore k.t.core fun c => { c with copies := c.copies ++ [f id] }

/-- A copy of a group's instruction with what every form has. -/
def Iss.copyOp (k : Iss) (id : Nat) (cls : OpClass) (spec : CopySpec) (tag bar size : Nat) (loc : Option Loc) (phase : Option Nat)
    (gate : Except Trap (Nat × Nat)) : CopyOp :=
  { id := id, tid := k.tid, g := k.g, opId := id, cls := cls, dx := false, pc := k.e.pc
    thread := 32 * k.g + lowLane k.e.mask, mask := k.e.mask, spec := spec, tag := tag
    scomp := match gate with | .ok c => c.1 | .error _ => 0
    dcomp := match gate with | .ok c => c.2 | .error _ => 0
    named := decide (bar ≠ 0), bar := bar, barLoc := loc, phase := phase, size := size, draft := [], plan := none
    capt := [], reads := [], wrote := [], acks := [], credited := []
    failed := match gate with | .ok _ => none | .error t => some t }

/-- The gate's answer with the state it leaves. -/
def gateOut (s : State) (r : Except Trap (State × Nat × Nat)) : State × Except Trap (Nat × Nat) :=
  match r with
  | .ok (s1, c) => (s1, .ok c)
  | .error t => (s, .error t)

/-- A command enters the DXP command queue; with 16 queued the group waits (07 R169). -/
def State.dxPost (s : State) (k : Iss) (entry : W64) (words : List W64) : Except Bail State :=
  match k.gr.counterWait .cpy with
  | .error b => .error b
  | .ok () =>
    if 16 ≤ (s.core k.t.core).dxp.cmds.length then .error (.hold (Hold.wait 2))
    else
      let (id, s1) := s.newOp
      .ok (((s1.modGroup k.tid k.g fun g => g.addOp id .cpy).modDxp k.t.core fun x =>
        { x with cmds := x.cmds ++ [⟨k.tid, k.g, id, k.e.pc, k.e.mask, entry, words⟩] }).clearIdem k.tid)

/-- The signed coordinates that s registers n to n+2 hold (R378). -/
def Group.coords (g : Group) (n : Nat) : List W32 :=
  [(g.rs n).setWidth 32, (g.rs n >>> 32).setWidth 32, (g.rs (n + 1)).setWidth 32, (g.rs (n + 1) >>> 32).setWidth 32,
   (g.rs (n + 2)).setWidth 32]

/-- Step 9 of the local side of a copy in scratchpad (R377): its bytes inside the allocation, its base aligned. -/
def State.copyLocal (s : State) (k : Iss) (a n al : Nat) : Except Bail Loc :=
  match s.spadLoc k.tid k.t a n with
  | none => .error (.t 8 5 a)
  | some l => if a % al ≠ 0 then .error (.t 9 5 a) else .ok l

/-- The local base of a copy. -/
def Iss.localBase (k : Iss) (d : Operand) : Nat := (k.gr.rs d.idx).toNat % 2 ^ 32

/-- The engine's cpyt (R378, R379). -/
def cpytEngine (i : Slots) (s : State) (k : Iss) (r : TRec) (bs : List Byte) (bar : Nat) : Except Bail State :=
  let dir := bit i.imm.toNat 0
  let cs := k.gr.coords i.b.idx
  let c : List Int := cs.map fun x => x.toInt
  match s.copyBar k bar with
  | .error b => .error b
  | .ok (loc, phase, s1) =>
    match (if i.d.isM then .ok none else (match s.copyLocal k (k.localBase i.d) r.bytes (if r.swz = 0 then 32 else 128) with
        | .ok l => .ok (some l)
        | .error b => .error b) : Except Bail (Option Loc)) with
    | .error b => .error b
    | .ok lo => match k.gr.counterWait .cpy with
      | .error b => .error b
      | .ok () =>
        let ranges := (List.range r.bytes).filterMap fun q =>
          if r.keep c (q / r.row) (q % r.row) = 0 then none else some (r.addr c (q / r.row) (q % r.row), 1)
        let out := if r.oor = 1 then r.firstOut c else none
        let gt : State × Except Trap (Nat × Nat) := match out with
          | some a => (s1, .error ⟨8, 1, a⟩)
          | none => gateOut s1 (if dir then s1.passGate k.t r.gate none (some ranges) r.bytes
              else s1.passGate k.t r.gate (some ranges) none r.bytes)
        let spec : CopySpec := .tensor bs cs dir (if i.d.isM then some i.d.idx else none) (k.localBase i.d)
          (if i.d.isM && dir then k.t.tile i.d.idx else [])
        let s2 := gt.1.copyIssue k .cpy fun id => k.copyOp id .cpy spec r.tag bar r.bytes loc phase gt.2
        let own := match lo with | some (.spad u _) => u == k.tid | _ => true
        .ok (if dir || !own then s2.clearIdem k.tid else s2)

/-- The checks of cpyt that its record decides: tile tag, tile shape, first coordinate (R195, R379, R380). -/
def cpytShape (i : Slots) (k : Iss) (r : TRec) : Except Bail Unit :=
  let c0 := (k.gr.rs i.b.idx).toNat
  match (if i.d.isM && bit i.imm.toNat 0 && r.entry == 0 then k.t.checkTile i.d.idx r.tag 3 else .ok ()) with
  | .error b => .error b
  | .ok () =>
    if i.d.isM && (r.entry != 0 || r.row != 64 || r.bytes != 8192) then .error (.t 3 1 (opCode i.d))
    else if r.entry = 0 ∧ r.w < 8 ∧ c0 % 2 ^ 32 % (8 / r.w) ≠ 0 then .error (.t 3 3 c0)
    else .ok ()

/-- What cpyt does once its record is in: the copy engine carries it out, or a command is posted (R375, R378). -/
def cpytGo (i : Slots) (s : State) (k : Iss) (bs : List Byte) : Except Bail State :=
  let n := i.a.idx
  let bar := (k.gr.rs (n + 1)).toNat
  let r := tensorRec bs
  if r.bad then .error (.t 2 0xFF (barAddr (k.gr.rs n).toNat))
  else match cpytShape i k r with
    | .error b => .error b
    | .ok () =>
      if r.entry = 0 then cpytEngine i s k r bs bar
      else if bar % 16 ≠ 0 then .error (.t 9 4 (barAddr bar))
      else match s.copyLocal k (k.localBase i.d) r.bytes (if r.swz = 0 then 32 else 128) with
        | .error b => .error b
        | .ok _ => s.dxPost k (BitVec.ofNat 64 r.entry)
            [BitVec.ofNat 64 (k.localBase i.d), k.gr.rs n, k.gr.rs (n + 1), k.gr.rs i.b.idx, k.gr.rs (i.b.idx + 1),
             k.gr.rs (i.b.idx + 2), i.imm.setWidth 64]

/-- cpyt: its record is read as a load, then checked (08 R185, R377). -/
def execCpyt (i : Slots) (s : State) : Outcome State Fault Refusal :=
  runH 0x301 s i (linesOf i false 2) fun k =>
    match s.readRec k (k.gr.rs i.a.idx).toNat 64 64 false with
    | .error b => .error b
    | .ok (none, s1) => .ok (s1, some gatherHold)
    | .ok (some bs, s1) => match cpytGo i s1 k bs with
      | .error b => .error (b, s)
      | .ok s2 => .ok (s2, none)

/-- The local ranges of the active lanes of a gather or scatter (R381): the lanes outside, and the places. -/
def State.rowPlaces (s : State) (k : Iss) (base len : Nat) : List (Nat × Option Loc) :=
  (lanesOf k.e.mask).map fun l => (l, s.spadLoc k.tid k.t ((base + l * len) % 2 ^ 32) len)

/-- cpyg and cpys (R381). -/
def gatherInstr (op : Nat) (scatter : Bool) (i : Slots) (s : State) : Outcome State Fault Refusal :=
  runS op s i (linesOf i false 2) fun k =>
    let imm := i.imm.toNat
    let len := 32 * (imm % 16 + 1)
    let gate := bits imm 12 6
    let n := i.b.idx
    let base := (k.gr.rs n).toNat
    let bar := (k.gr.rs (n + 1)).toNat
    let x := (k.gr.rs (n + 2)).toNat
    let count := bits x 31 0
    let pitch := 16 * bits x 47 32
    let tag := bits x 63 56
    let cls : OpClass := if scatter then .cpy else .gth
    let lanes := lanesOf k.e.mask
    let undef : Bool := !tagDefined tag || tag == 0xE0 || tag == 0xE1
    match k.gr.checkTag i.a 0x10 false 1, (if i.d.isM && scatter then k.t.checkTile i.d.idx tag 3 else .ok ()) with
    | .error b, _ => .error b
    | .ok (), .error b => .error b
    | .ok (), .ok () =>
      if bits x 55 48 ≠ 0 ∨ bits x 47 32 % 2 = 1 ∨ undef then .error (.t 3 3 x)
      else match s.copyBar k bar with
        | .error b => .error b
        | .ok (loc, phase, s1) =>
          let lb := k.localBase i.d
          let places := if i.d.isM then [] else s.rowPlaces k lb len
          let out := places.filter fun p => p.2.isNone
          if !out.isEmpty then
            .error (.trap 8 5 ((lb + ((out.head?).map Prod.fst).getD 0 * len) % 2 ^ 32) (some (maskOf (out.map Prod.fst))))
          else if base % 32 ≠ 0 then .error (.t 9 5 base)
          else if !i.d.isM ∧ lb % 32 ≠ 0 then .error (.t 9 5 lb)
          else match k.gr.counterWait cls with
            | .error b => .error b
            | .ok () =>
              let idx := lanes.map fun l => (l, k.gr.src i.a 0x10 false 0 l)
              let ranges := idx.filterMap fun y =>
                if y.2 < count then some ((base + y.2 * pitch) % 2 ^ 64, len) else none
              let size := lanes.length * len
              let gt := gateOut s1 (if scatter then s1.passGate k.t gate none (some ranges) size
                else s1.passGate k.t gate (some ranges) none size)
              let spec : CopySpec := .rows scatter base count pitch idx len (if i.d.isM then some i.d.idx else none)
                (bits imm 5 4) lb (if i.d.isM && scatter then k.t.tile i.d.idx else [])
              let s2 := gt.1.copyIssue k cls fun id => k.copyOp id cls spec tag bar size loc phase gt.2
              let own := places.all fun p => match p.2 with | some (.spad u _) => u == k.tid | _ => true
              .ok (if scatter || !own then s2.clearIdem k.tid else s2)

def execCpyg (i : Slots) (s : State) : Outcome State Fault Refusal := gatherInstr 0x302 false i s
def execCpys (i : Slots) (s : State) : Outcome State Fault Refusal := gatherInstr 0x303 true i s

/-- dxrun: post a command with an argument (R383). -/
def execDxrun (i : Slots) (s : State) : Outcome State Fault Refusal :=
  runS 0x304 s i (linesOf i false 0) fun k =>
    s.dxPost k (k.gr.rs i.a.idx) [BitVec.ofNat 64 (k.gr.uni i.b 0)]

/-- dxsig: the team's running program, else its oldest queued command, ends with a software fault (R384). -/
def execDxsig (i : Slots) (s : State) : Outcome State Fault Refusal :=
  runS 0x305 s i (linesOf i false 0) fun k =>
    let core := k.t.core
    let x := (s.core core).dxp
    let tr : Trap := ⟨15, i.imm.toNat % 256, 0⟩
    let out (y : State) (v : W64) : State := (y.modGroup k.tid k.g fun g => g.ws i.d.idx v).clearIdem k.tid
    let running := match x.run with | some r => r.cmd.tid == k.tid && r.ending.isNone | none => false
    if running then
      .ok (out (s.modDxp core fun x => { x with run := x.run.map fun r => { r with stop := some (r.stop.getD tr) } }) 0)
    else match x.cmds.findIdx? fun c => c.tid == k.tid with
      | none => .ok (out s 1)
      | some j => match x.cmds[j]? with
        | none => .ok (out s 1)
        | some c =>
          let pc : Pc := c.entry.setWidth 56
          let s1 := s.modDxp core fun x => { x with cmds := x.cmds.eraseIdx j }
          .ok (out ((s1.dxRecord core c.tid pc 0 tr).postDxFault core c.tid c.g c.opId pc tr true) 0)

end Sys2Proof.Machine
end

