-- ==== Sys2Proof/Machine/Convert.lean ====
section
/-!
DEFINITION. Machine/Convert.lean: row 0x5, conversion, scales, tags and saturation (14 R314-R325).
-/
namespace Sys2Proof.Machine

open Host (Outcome)

/-- The register lines of an instruction whose destination and sources have widths of their own. -/
def lines2 (sl : Slots) (wideD wideS : Bool) : List Nat × List Nat :=
  let d := linesOf { sl with a := .nil, b := .nil } wideD 0
  let r := linesOf { sl with d := .nil } wideS 0
  (d.1 ++ r.1, d.2 ++ r.2)

/-- Elements in a tile row of a format (R318). -/
def rowElems (tag : Nat) : Nat := 512 / tagWidth tag

/-! ## cvt (R316-R318) -/

/-- The register form of cvt. -/
def cvtLane (src dst rnd : Nat) (sat : Bool) (a : Nat) (seed : W32) : LaneOut :=
  let n := min (tagElems src) (tagElems dst)
  let r := drawElems rnd (fun j draw => convert src dst rnd sat draw (elemAt (tagWidth src) a j)) n 0 seed
  ⟨ofElems (tagWidth dst) r.1, r.2.1, r.2.2⟩

/-- A row of the tile form: its bits and flags. -/
def cvtRow (src dst rnd : Nat) (sat : Bool) (x : Nat) : Nat × Nat :=
  let n := min (rowElems src) (rowElems dst)
  let rs := (List.range n).map fun j => convert src dst rnd sat 0 (elemAt (tagWidth src) x j)
  (ofElems (tagWidth dst) (rs.map Prod.fst), (rs.map Prod.snd).foldl flagsOr 0)

/-- The tile form: every row converted, its flags in every lane of the entry; the tile counts as being written until
TILE_CVT_COMPLETE (R318). -/
def cvtTile (i : RdI) (s : State) (k : Iss) : Except Bail State :=
  let src := i.imm.toNat % 256
  let dst := tagOf i.ty i.var.toNat
  match k.t.checkTile i.a.idx src 1 with
  | .error x => .error x
  | .ok () =>
    let rows := (List.range 128).map fun r => cvtRow src dst (rndCode i.rnd) i.sat (k.t.row i.a.idx r).toNat
    let fl := (rows.map Prod.snd).foldl flagsOr 0
    .ok ((s.modTeam k.tid fun t =>
      { ((t.wtile i.d.idx (fun r => BitVec.ofNat 512 (rows.getD r (0, 0)).1) dst).modGroup k.g fun g =>
          g.wflags k.e.mask fun _ => fl) with tileCvts := t.tileCvts ++ [⟨s.nextOp, i.d.idx, k.g⟩] }).newOp.2)

def execCvt (i : RdI) (s : State) : Outcome State Fault Refusal :=
  let src := i.imm.toNat % 256
  let dst := tagOf i.ty i.var.toNat
  runS 0x141 s i.toSlots (lines2 i.toSlots (tagWide dst) (tagWide src)) fun k =>
    if i.d.isM then cvtTile i s k
    else match k.gr.checkTag i.a src (tagWide src) 1 with
      | .error x => .error x
      | .ok () =>
        .ok (s.modGroup k.tid k.g fun g => g.wout i.d.idx (tagWide dst) k.e.mask (fun l =>
          cvtLane src dst (rndCode i.rnd) i.sat (g.src i.a src (tagWide src) 0 l) (g.rseed l)) dst)

/-- TILE_CVT_COMPLETE: the last row is written, and the groups that wait on the tile go on (R318). -/
def execTileCvtComplete (tid id : Nat) (s : State) : Outcome State Fault Refusal :=
  match s.team? tid with
  | none => .fault .notEnabled
  | some t =>
    if t.tileCvts.any fun c => c.id == id then
      .next (s.setTeam tid { t with tileCvts := t.tileCvts.filter fun c => c.id != id })
    else .fault .notEnabled

/-! ## pack and unpk (R319, R320) -/

/-- A lane of pack. -/
def packLane (src dst rnd k : Nat) (sat : Bool) (a b d : Nat) (seed : W32) : LaneOut :=
  let ns := tagElems src
  let w := tagWidth src
  let r := drawElems rnd (fun j draw =>
    convert src dst rnd sat draw (if j < ns then elemAt w a j else elemAt w b (j - ns))) (2 * ns) 0 seed
  let es := (List.range (tagElems dst)).map fun j =>
    if k ≤ j ∧ j < k + 2 * ns then r.1.getD (j - k) 0 else elemAt (tagWidth dst) d j
  ⟨ofElems (tagWidth dst) es, r.2.1, r.2.2⟩

def packGroup (i : RdI) (k : Iss) : Except Bail Group :=
  let src := i.imm.toNat % 256
  let dst := tagOf i.ty i.var.toNat
  let g := k.gr
  match g.checkTags i.a i.b .nil src (tagWide src) false with
  | .error x => .error x
  | .ok () => match g.checkTag i.d dst (tagWide dst) 3 with
    | .error x => .error x
    | .ok () =>
      .ok (g.wout i.d.idx (tagWide dst) k.e.mask (fun l =>
        packLane src dst (rndCode i.rnd) (bits i.imm.toNat 11 8) i.sat (g.src i.a src (tagWide src) 0 l)
          (g.src i.b src (tagWide src) 0 l) (g.src i.d dst (tagWide dst) 0 l) (g.rseed l)) dst)

def execPack (i : RdI) (s : State) : Outcome State Fault Refusal :=
  runG 0x142 s i.toSlots (lines2 i.toSlots (tagWide (tagOf i.ty i.var.toNat)) (tagWide (i.imm.toNat % 256)))
    fun k => packGroup i k

/-- A lane of unpk. -/
def unpkLane (src dst rnd k : Nat) (sat : Bool) (a : Nat) (seed : W32) : LaneOut :=
  let r := drawElems rnd (fun j draw => convert src dst rnd sat draw (elemAt (tagWidth src) a (k + j))) (tagElems dst) 0 seed
  ⟨ofElems (tagWidth dst) r.1, r.2.1, r.2.2⟩

def unpkGroup (i : RdI) (k : Iss) : Except Bail Group :=
  let src := i.imm.toNat % 256
  let dst := tagOf i.ty i.var.toNat
  let g := k.gr
  match g.checkTag i.a src (tagWide src) 1 with
  | .error x => .error x
  | .ok () =>
    .ok (g.wout i.d.idx (tagWide dst) k.e.mask (fun l =>
      unpkLane src dst (rndCode i.rnd) (bits i.imm.toNat 11 8) i.sat (g.src i.a src (tagWide src) 0 l) (g.rseed l)) dst)

def execUnpk (i : RdI) (s : State) : Outcome State Fault Refusal :=
  runG 0x143 s i.toSlots (lines2 i.toSlots (tagWide (tagOf i.ty i.var.toNat)) (tagWide (i.imm.toNat % 256)))
    fun k => unpkGroup i k

/-! ## scl and sclf (R321, R322) -/

/-- The largest finite value of a target, as m x 2^e (R321, 04 R82). -/
def sclMax (tag : Nat) : Nat × Int :=
  if tag / 16 = 6 then (127, 0) else if tag / 16 = 12 then (7, 0)
  else match fdecode (fmtOf tag) (maxCode (fmtOf tag)) with
    | .num _ m e => (m, e)
    | _ => (1, 0)

/-- a x 2^e at most b x 2^f. -/
def leScaled (a : Nat) (e : Int) (b : Nat) (f : Int) : Bool :=
  if e ≤ f then decide (a ≤ b * 2 ^ (f - e).toNat) else decide (a * 2 ^ (e - f).toNat ≤ b)

/-- The block scale of one element (R321). -/
def sclElem (target src a : Nat) : Nat × Nat :=
  match fdecode (fmtOf src) a with
  | .nan sig => (0xFF, if sig then flagNV else 0)
  | .inf _ => (0xFF, flagNV)
  | .num _ m e =>
    let big := sclMax target
    match (List.range 255).find? fun (x : Nat) => leScaled m e big.1 (big.2 + x - 127) with
    | some x => (x, 0)
    | none => (0xFE, flagOF)

/-- The nearest e8s code of one element (R322). -/
def sclfElem (src rnd draw a : Nat) : Nat × Nat :=
  match fdecode (fmtOf src) a with
  | .nan sig => (0xFF, if sig then flagNV else 0)
  | .inf neg => if neg then (0xFF, flagNV) else (0xFE, flagOF + flagNX)
  | .num neg m e =>
    let top : Int := e + blen m - 1
    if m = 0 then (0, flagUF + flagNX)
    else if neg then (0xFF, flagNV)
    else if top < -127 then (0, flagUF + flagNX)
    else
      let lo := (top + 127).toNat
      let x := scaleTo m e top false
      let code := lo + b2n (roundsUp rnd false (lo % 2 == 1) draw x)
      if 254 < code then (0xFE, flagOF + flagNX) else (code, if x.inexact then flagNX else 0)

/-- A lane whose elements become e8s codes, the rest zero. -/
def scaleLane (src rnd : Nat) (f : Nat → Nat → Nat × Nat) (a : Nat) (seed : W32) : LaneOut :=
  let r := drawElems rnd (fun j draw => f (elemAt (tagWidth src) a j) draw) (tagElems src) 0 seed
  ⟨ofElems 8 r.1, r.2.1, r.2.2⟩

/-- An instruction that writes e8s codes. -/
def scaleGroup (i : RdI) (src rnd : Nat) (f : Nat → Nat → Nat × Nat) (k : Iss) : Except Bail Group :=
  let g := k.gr
  match g.checkTag i.a src false 1 with
  | .error x => .error x
  | .ok () => .ok (g.wout i.d.idx false k.e.mask (fun l =>
      scaleLane src rnd f (g.src i.a src false 0 l) (g.rseed l)) 0x71)

def execScl (i : RdI) (s : State) : Outcome State Fault Refusal :=
  runG 0x144 s i.toSlots (linesOf i.toSlots false 0) fun k =>
    let src := i.imm.toNat % 256
    scaleGroup i src 0 (fun a _ => sclElem (tagOf i.ty i.var.toNat) src a) k

def execSclf (i : RdI) (s : State) : Outcome State Fault Refusal :=
  runG 0x145 s i.toSlots (linesOf i.toSlots false 0) fun k =>
    let src := 16 * tyCode i.ty
    scaleGroup i src (rndCode i.rnd) (fun a draw => sclfElem src (rndCode i.rnd) draw a) k

/-! ## Tags (R323, R324) -/

def execTagrd (i : FnI) (s : State) : Outcome State Fault Refusal :=
  runG 0x146 s i.toSlots (linesOf i.toSlots false 0) fun k =>
    let tag := match i.a with
      | .m n => k.t.rmtag n.toNat
      | o => k.gr.rtag o.idx
    .ok (k.gr.ws i.d.idx (BitVec.ofNat 64 tag))

/-- The tile register that a copy writes. -/
def CopyOp.tileDst (o : CopyOp) : Option Nat :=
  match o.spec with
  | .tensor _ _ dir tile _ _ => if dir then none else tile
  | .rows scatter _ _ _ _ _ tile _ _ _ => if scatter then none else tile
  | _ => none

/-- An incomplete load has written some of v register n already (10 R229). -/
def Group.earlyIn (g : Group) (n : Nat) : Bool :=
  g.lq.any fun e => match e.dest with | .v m => e.written.any fun u => m.toNat + u / 32 == n | _ => false

/-- tagset's tag, on a v register; one that an incomplete load has written early reads as the load's result, whose tag goes
with it (R324). -/
def Group.setTag (g : Group) (n tag : Nat) : Group := if g.earlyIn n then g else g.wtag n tag

/-- An incomplete load or copy has written some of tile n of a team already. -/
def State.earlyTile (s : State) (tid : Nat) (t : Team) (n : Nat) : Bool :=
  t.groups.any (fun g => g.lq.any fun e => !e.written.isEmpty && (match e.dest with | .m m => m.toNat == n | _ => false))
    || (s.core t.core).copies.any fun o => o.tid == tid && o.tileDst == some n && !o.wrote.isEmpty && t.rmtag n == o.tag

def execTagset (i : FnI) (s : State) : Outcome State Fault Refusal :=
  let tag := i.imm.toNat % 256
  runS 0x147 s i.toSlots (linesOf i.toSlots false 0) fun k =>
    match i.d with
    | .m n => .ok (s.modTeam k.tid fun t =>
        if s.earlyTile k.tid t n.toNat then t else { t with mtag := SMap.set 0#8 t.mtag n.toNat (BitVec.ofNat 8 tag) })
    | o =>
      .ok (s.modGroup k.tid k.g fun g =>
        if tagWide tag then (g.setTag o.idx tag).setTag (o.idx + 1) tag else g.setTag o.idx tag)

/-! ## Saturation (R325) -/

/-- A float element clamped to [+0, 1]. -/
def satFloat (tag a : Nat) : Nat × Nat :=
  let f := fmtOf tag
  let one := f.bias * 2 ^ f.fb
  match fdecode f a with
  | .nan sig => (0, if sig then flagNV else 0)
  | .inf neg => (if neg then 0 else one, 0)
  | .num neg _ _ => (if neg then 0 else if one < a then one else a, 0)

/-- An integer element clamped to the range of n bits. -/
def satInt (tag b a : Nat) : Nat × Nat :=
  let w := tagWidth tag
  let n := min b w
  let x := intOf tag a
  let lo : Int := if n = 0 then 0 else if tagSigned tag then -((2 ^ (n - 1) : Nat) : Int) else 0
  let hi : Int := if n = 0 then 0 else if tagSigned tag then ((2 ^ (n - 1) : Nat) : Int) - 1 else ((2 ^ n : Nat) : Int) - 1
  if x.1 < lo then (wrapI w lo, flagsOr x.2 flagISAT)
  else if hi < x.1 then (wrapI w hi, flagsOr x.2 flagISAT)
  else (wrapI w x.1, x.2)

def satGroup (i : RdI) (k : Iss) : Except Bail Group :=
  let tag := 16 * tyCode i.ty
  let wide := tagWide tag
  let g := k.gr
  match g.checkTag i.a tag wide 1 with
  | .error x => .error x
  | .ok () => match (if tagInt tag then g.checkTag i.b 0x10 false 2 else .ok ()) with
    | .error x => .error x
    | .ok () =>
      .ok (g.wout i.d.idx wide k.e.mask (fun l =>
        let a := g.src i.a tag wide i.imm.toNat l
        let b := if i.b.isImm then i.imm.toNat else g.src i.b 0 false 0 l
        let rs := (List.range (tagElems tag)).map fun j =>
          if tagInt tag then satInt tag b (elemAt (tagWidth tag) a j) else satFloat tag (elemAt (tagWidth tag) a j)
        ⟨ofElems (tagWidth tag) (rs.map Prod.fst), (rs.map Prod.snd).foldl flagsOr 0, g.rseed l⟩) tag)

def execSat (i : RdI) (s : State) : Outcome State Fault Refusal :=
  runG 0x148 s i.toSlots (linesOf i.toSlots (tagWide (16 * tyCode i.ty)) 0) fun k => satGroup i k

end Sys2Proof.Machine
end

