-- ==== Sys2Proof/Machine/Matrix.lean ====
section
/-!
DEFINITION. Machine/Matrix.lean: row 0xA (16 R354-R364): signing a convergence register (02 R41, R42, 13 R287), the tile
products, the vat copies, transposition and quantisation: their issue. What they compute when they complete stands in
Machine/MatrixRun.lean.
-/
namespace Sys2Proof.Machine

open Host (Outcome)

/-! ## Operations of the engine (10 R239) -/

/-- An operation of a team with nothing read yet. -/
def MxOp.base (tid g id op : Nat) : MxOp :=
  { tid := tid, g := g, id := id, pc := 0, mask := 0, op := op, d := 0, a := 0, b := 0, md := 0, imm := 0, sv := [], tagA := 0, tagB := 0
    tileA := [], tileB := [], scaleA := [], scaleB := [], descA := none, descB := none, rule := [], capt := []
    captured := [], wrote := [] }

/-! ## Issue -/

/-- An operation issues: it takes its place in the engine order of the core, and its group counts it (R354, 09 R207). -/
def State.mxIssue (s : State) (k : Iss) (f : Nat → MxOp) : State :=
  let (id, s1) := s.newOp
  let s2 := (s1.modGroup k.tid k.g fun g => g.addOp id .mtx).modCore k.t.core fun c =>
    { c with engine := c.engine ++ [{ f id with pc := k.e.pc, mask := k.e.mask }] }
  s2.count k.t.core 2 (b2n (decide ((f id).op / 64 = 10)))

/-- The engine's order goes on: the operation that starts, if it is a vatld, reads its tile now (R361; DESIGN CHOICE, log 14:
R239 says at issue). -/
def State.engineNext (s : State) (core : Nat) (ops : List MxOp) : State :=
  s.modCore core fun c => { c with engine := match ops with
    | [] => []
    | o :: rest =>
      (if o.op = 0x283 then (match s.team? o.tid with | some t => { o with tileA := t.tile o.a } | none => o) else o) :: rest }

/-- The vat tiles that an instruction names are the team's own (05 R113). -/
def State.vatHere (s : State) (core tid : Nat) (ns : List Nat) : Bool :=
  ns.all fun n => SMap.get 0 (s.core core).vatTid n == tid + 1

/-- A full counter, then a vat slot that holds another team's tile, hold the issue (09 R208, 05 R113). -/
def State.vatWait (s : State) (k : Iss) (ns : List Nat) : Except Bail Unit :=
  match k.gr.counterWait .mtx with
  | .error b => .error b
  | .ok () => if s.vatHere k.t.core k.tid ns then .ok () else .error (.hold (Hold.wait 2))

/-- A vat tile's tag against the accumulator kind (R111). code is 1 for A and 3 for D. -/
def Team.checkVat (t : Team) (n want code : Nat) : Except Bail Unit :=
  if t.rvtag n = want then .ok () else .error (.t 5 want (t.rvtag n + 2 ^ 8 * code))

/-! ## Operands of mma and mmab (R356, R357) -/

/-- A scratchpad matrix operand's descriptor (12 R265), or its trap; slot is 2 for A and 3 for B. -/
def Group.descOf (g : Group) (o : Operand) (slot : Nat) : Except Bail (Option Desc) :=
  match o with
  | .s n =>
    let x := (g.rs n.toNat).toNat
    let y := (g.rs (n.toNat + 1)).toNat
    let rowp := bits x 47 32
    if bits x 63 48 ≠ 0 ∨ rowp % 16 ≠ 0 ∨ rowp < 64 then .error (.t 3 slot x)
    else if bits y 63 36 ≠ 0 ∨ 2 < bits y 35 32 ∨ bits y 31 0 % 16 ≠ 0 then .error (.t 3 slot y)
    else .ok (some ⟨bits x 31 0, rowp, bits y 35 32, bits y 31 0⟩)
  | _ => .ok none

/-- The byte of row r at which its byte x lies (R356). -/
def Desc.place (d : Desc) (r x : Nat) : Nat :=
  if d.rot = 0 then x
  else
    let u := 16 * d.rot
    ((x / u) ^^^ (r % (8 / d.rot))) * u + x % u

/-- The offset in the allocation of byte x of row r. -/
def Desc.off (d : Desc) (r x : Nat) : Nat := d.base % 2 ^ 21 + r * d.rowp + d.place r x

/-- The offset of byte b of row r of the scale table. -/
def Desc.scaleOff (d : Desc) (r b : Nat) : Nat := d.base % 2 ^ 21 + d.tilep + 4 * r + b

/-- Step 9 of a descriptor: the team's own allocation (R354), every byte inside it (06 R142), BASE a multiple of 16. -/
def Team.checkDesc (t : Team) (sc : Bool) (d : Option Desc) : Except Bail Unit :=
  match d with
  | none => .ok ()
  | some x =>
    let top := (List.range 128).foldl (fun m r =>
      (List.range 4).foldl (fun m c => max m (x.off r (16 * c) + 16)) m) (if sc then x.scaleOff 127 4 else 0)
    if bits x.base 31 28 ≠ 0 ∨ bits x.base 23 21 ≠ 0 ∨ bits x.base 27 24 ≠ 15 ∨ t.spadSize < top then .error (.t 8 5 x.base)
    else if x.base % 16 ≠ 0 then .error (.t 9 4 x.base)
    else .ok ()

/-- B's format (12 R273). -/
def mxTagB (i : MtxI) (tagA : Nat) : Nat :=
  let bty := bits i.imm.toNat 15 12
  if bty = 0 then tagA else 16 * bty + bits i.imm.toNat 11 8

/-- The accumulator kind that the vat tile must carry (R357, R360). -/
def mxReq (op tagA : Nat) (sc : Bool) : Nat := if op = 0x282 then 0xE1 else if tagInt tagA && !sc then 0xE1 else 0xE0

/-- Step 7: a tile operand's tag, then its scale table's. -/
def Team.checkMx (t : Team) (o : Operand) (tag code : Nat) (sc : Bool) : Except Bail Unit :=
  match o with
  | .m n => match t.checkTile n.toNat tag code with
    | .error b => .error b
    | .ok () => if sc then t.checkTile (n.toNat + 1) 0x71 code else .ok ()
  | _ => .ok ()

/-- Steps 7 to 9 of a signing entry, but the signature: the descriptors. -/
def Iss.mxChecks (k : Iss) (op : Nat) (i : MtxI) : Except Bail (Option Desc × Option Desc) :=
  let tagA := tagOf i.ty i.var.toNat
  let sc := op == 0x281 && i.sc
  match k.t.checkMx i.a tagA 1 sc, k.t.checkMx i.b (mxTagB i tagA) 2 sc, k.t.checkVat i.d.idx (mxReq op tagA sc) 3 with
  | .ok (), .ok (), .ok () =>
    (match k.gr.descOf i.a 2, k.gr.descOf i.b 3 with
    | .ok da, .ok db => .ok (da, db)
    | .error b, _ => .error b
    | _, .error b => .error b)
  | .error b, _, _ => .error b
  | _, .error b, _ => .error b
  | _, _, .error b => .error b

/-! ## What an operation reads (06 R154, R356, R372) -/

/-- The sectors of n bytes from an offset. -/
def sectorsOf (off n : Nat) : List Nat := (List.range (ceilDiv (off % 32 + n) 32)).map fun i => off / 32 + i

/-- The sectors of a descriptor operand. -/
def Desc.sectors (d : Desc) (sc : Bool) : List Nat :=
  ((List.range 128).flatMap fun r =>
    ((List.range 4).flatMap fun c => sectorsOf (d.off r (16 * c)) 16) ++ (if sc then sectorsOf (d.scaleOff r 0) 4 else [])).eraseDups

/-- SAT, SC or AND of an operation, and its RND. -/
def MxOp.flag (o : MxOp) : Bool := o.md % 2 == 1
def MxOp.rnd (o : MxOp) : Nat := o.md / 2
/-- Offset of a scratchpad address that the operation holds. -/
def MxOp.spadAt (o : MxOp) (n : Nat) : Nat := (o.sv.getD n 0).toNat % 2 ^ 21

/-- The scratchpad sectors that an operation reads. -/
def MxOp.reads (o : MxOp) : List Nat :=
  match o.op with
  | 0x281 => ((o.descA.map fun d => d.sectors o.flag).getD [] ++ (o.descB.map fun d => d.sectors o.flag).getD []).eraseDups
  | 0x282 => ((o.descA.map fun d => d.sectors false).getD [] ++ (o.descB.map fun d => d.sectors false).getD []).eraseDups
  | 0x2C3 => sectorsOf (o.spadAt 0) 0x2C0
  | 0x2C4 => if o.imm < 2 then sectorsOf (o.spadAt 0 + 0x280) 12 else sectorsOf (o.spadAt 1) 1216
  | 0x2C5 => sectorsOf (o.spadAt 1) 4096
  | _ => []

/-- The vat slots that an operation works on. -/
def MxOp.vats (o : MxOp) : List Nat :=
  match o.op with
  | 0x281 => [o.d] | 0x282 => [o.d] | 0x283 => [o.d] | 0x284 => [o.a] | 0x285 => [o.d] | 0x286 => [o.a, o.d] | _ => []

/-- The vat slots that an operation reads. -/
def MxOp.vatReads (o : MxOp) : List Nat :=
  match o.op with
  | 0x281 => [o.d] | 0x282 => [o.d] | 0x284 => [o.a] | 0x286 => [o.a] | _ => []

/-- The checked reads of an operation (06 R154): its scratchpad sectors and its vat tiles. A lasting error is counted and
posted; the record's DETAIL and ADDR are answered. -/
def State.mxErr (s : State) (core : Nat) (o : MxOp) (t : Team) : State × Option (Nat × Nat) :=
  if s.errs.isEmpty then (s, none)
  else
    let r := o.reads.foldl (fun (r : State × Option (Nat × Nat)) x => match r.2 with
      | some _ => r
      | none =>
        let e := r.1.readErr core t.part (.spad o.tid (32 * x)) 32 0
        (e.1, e.2.map fun kind => (kind, 0))) (s, none)
    o.vatReads.foldl (fun (r : State × Option (Nat × Nat)) n => match r.2 with
      | some _ => r
      | none =>
        let c := r.1.checkRead t.part (coreStack core) 5 (t.imageBase + 0x20000 + 0x18000 * n) 0x18000
        if c.2 then (c.1.postError core t.part 5 0 0 false, some (5, 0)) else (c.1, none)) r

/-- The same at the issue of an operation: its trap is precise (07 R157). -/
def Iss.mxReads (k : Iss) (o : MxOp) : Reads := fun s =>
  let r := s.mxErr k.t.core o k.t
  (r.1, r.2.map fun e => .t 13 e.1 e.2)

/-! ## Signing (02 R41, R42, 13 R287) -/

/-- The threads of an entry's lanes. -/
def Iss.threads (k : Iss) : BitVec 512 := (k.e.mask.setWidth 512) <<< (32 * k.g)

/-- A word but for GUARD and HINT (R42). -/
def signWord (w : IWord) : IWord := w &&& ~~~((0x1F#96 <<< 81) ||| (0x7F#96 <<< 44))

/-- The lanes of the entry whose signature breaks the rule (R42). -/
def Iss.signBad (k : Iss) (c : Cv) (w : IWord) : Mask :=
  let mine : BitVec 512 := k.threads
  if (match c.word with | some x => x != w | none => false) then k.e.mask
  else ((((mine &&& ~~~c.declared) ||| (mine &&& c.signed)) >>> (32 * k.g)).setWidth 32)

/-- The operation of a set of recorded word w that completes (R41, R359): tiles and tables read now. -/
def Team.mxOp (t : Team) (tid g id : Nat) (w : IWord) (da db : Option Desc) : MxOp :=
  let r := rawOf w.toNat
  let tagA := 16 * tyF r + subF r
  let a := r.a % 16
  let b := r.b % 16
  let sc := r.op == 0x281 && satF r == 1
  let bty := bits r.imm 15 12
  { MxOp.base tid g id r.op with
    d := r.d % 16, a := a, b := b, md := satF r + 2 * rndF r, imm := r.imm
    tagA := tagA, tagB := if bty = 0 then tagA else 16 * bty + bits r.imm 11 8
    tileA := if da.isNone then t.tile a else [], tileB := if db.isNone then t.tile b else []
    scaleA := if sc && da.isNone then t.tile (a + 1) else [], scaleB := if sc && db.isNone then t.tile (b + 1) else []
    descA := da, descB := db }

/-- The set completes: the register clears, its phase flips and its operation issues (R41). -/
def State.setComplete (s : State) (k : Iss) (n : Nat) (w : IWord) (da db : Option Desc) : State :=
  (s.modTeam k.tid fun t =>
    let c := t.cv n
    t.setCv n { c with signed := 0, word := none, phase := !c.phase }).mxIssue k fun id => k.t.mxOp k.tid k.g id w da db

/-- The tile lines that the operation of a word reads: its operands and, with SC, their scale tables. -/
def wordTiles (w : IWord) : List Nat :=
  let r := rawOf w.toNat
  let n := if r.op = 0x281 ∧ satF r = 1 then 128 else 64
  let one (f : Nat) : List Nat := if f / 256 % 4 = 1 then [] else (List.range n).map (64 * (f % 16) + ·)
  one r.a ++ one r.b

/-- The lines that a signing entry needs: its descriptors' registers, and the tiles where its signature completes the set,
for signing itself never waits (R41, R359). -/
def State.signLines (s : State) (i : MtxI) (ins : Instr) : List Nat × List Nat :=
  let own := (linesOf i.toSlots false 1).1
  let w := signWord ((encode ins).getD 0)
  match s.issuer with
  | none => (own, [])
  | some k =>
    let c := k.t.cv (i.imm.toNat % 8)
    (own, if k.signBad c w = 0 ∧ (c.signed ||| k.threads) = c.declared then wordTiles w else [])

/-- mma or mmab: sign, and issue the operation where the set completes (R359). -/
def mxSign (op : Nat) (i : MtxI) (ins : Instr) (s : State) : Outcome State Fault Refusal :=
  runE op s i.toSlots (s.signLines i ins) fun k =>
    let n := i.imm.toNat % 8
    let sc := op == 0x281 && i.sc
    match k.mxChecks op i with
    | .error b => .error b
    | .ok (da, db) =>
      let c := k.t.cv n
      let w := signWord ((encode ins).getD 0)
      let bad := k.signBad c w
      if bad ≠ 0 then .error (.trap 3 6 n (some bad))
      else match k.t.checkDesc sc da, k.t.checkDesc sc db with
        | .error b, _ => .error b
        | _, .error b => .error b
        | .ok (), .ok () =>
          let signed := c.signed ||| k.threads
          let s1 := s.modTeam k.tid fun t => t.setCv n { c with signed := signed, word := some w, last := k.g }
          if signed ≠ c.declared then .ok (s1, noReads)
          else match s.vatWait k [i.d.idx] with
            | .error b => .error b
            | .ok () => .ok (s1.setComplete k n w da db, k.mxReads (k.t.mxOp k.tid k.g 0 w da db))

def execMma (i : MtxI) (s : State) : Outcome State Fault Refusal := mxSign 0x281 i (.mma i) s
def execMmab (i : MtxI) (s : State) : Outcome State Fault Refusal := mxSign 0x282 i (.mmab i) s

/-- The descriptor that an operand field names in a group's registers as they stand now (R359). -/
def Group.descNow (g : Group) (field slot : Nat) : Except Bail (Option Desc) :=
  if field / 256 % 4 = 1 then g.descOf (.s (BitVec.ofNat 6 field)) slot else .ok none

/-- The lanes of an entry whose cvsign breaks the rule (13 R287). -/
def Iss.leaveBad (k : Iss) (c : Cv) : Mask :=
  ((((k.threads &&& ~~~c.declared) ||| (k.threads &&& c.signed)) >>> (32 * k.g)).setWidth 32)

/-- The tile lines that a cvsign needs: those of the operation, where it completes the set (14 R318, R359). -/
def State.leaveLines (s : State) (n : Nat) : List Nat × List Nat :=
  match s.issuer with
  | none => ([], [])
  | some k =>
    let c := k.t.cv n
    match c.word with
    | none => ([], [])
    | some w => ([], if k.leaveBad c = 0 ∧ c.signed = (c.declared &&& ~~~k.threads) then wordTiles w else [])

/-- cvsign: the entry's lanes leave the declared set, which may complete it (13 R287). The descriptors of the operation are
checked as those of its signers were (R354, R356). -/
def execCvsign (i : Slots) (s : State) : Outcome State Fault Refusal :=
  runE 0x04A s i (s.leaveLines i.d.idx) fun k =>
    let n := i.d.idx
    let c := k.t.cv n
    let mine : BitVec 512 := k.threads
    let bad := k.leaveBad c
    if bad ≠ 0 then .error (.trap 3 6 n (some bad))
    else
      let left := c.declared &&& ~~~mine
      let s1 := s.modTeam k.tid fun t => t.setCv n { c with declared := left }
      match c.word with
      | none => .ok (s1, noReads)
      | some w =>
        if c.signed ≠ left then .ok (s1, noReads)
        else
          let r := rawOf w.toNat
          let g := (k.t.groups[c.last]?).getD k.gr
          let sc := r.op == 0x281 && satF r == 1
          match g.descNow r.a 2, g.descNow r.b 3 with
          | .error b, _ => .error b
          | _, .error b => .error b
          | .ok da, .ok db =>
            (match k.t.checkDesc sc da, k.t.checkDesc sc db, s.vatWait k [r.d % 16] with
            | .error b, _, _ => .error b
            | _, .error b, _ => .error b
            | _, _, .error b => .error b
            | .ok (), .ok (), .ok () => .ok (s1.setComplete k n w da db, k.mxReads (k.t.mxOp k.tid k.g 0 w da db)))

/-! ## Vat copies, transposition, quantisation: issue (R361-R363) -/

def execVatld (i : RdI) (s : State) : Outcome State Fault Refusal :=
  runS 0x283 s i.toSlots (linesOf i.toSlots false 0) fun k =>
    let tag := 16 * tyCode i.ty
    match k.t.checkTile i.a.idx tag 1, k.t.checkVat i.d.idx (if tagInt tag then 0xE1 else 0xE0) 3 with
    | .error b, _ => .error b
    | _, .error b => .error b
    | .ok (), .ok () => match s.vatWait k [i.d.idx] with
      | .error b => .error b
      | .ok () => .ok (s.mxIssue k fun id =>
          { MxOp.base k.tid k.g id 0x283 with d := i.d.idx, a := i.a.idx, imm := i.imm.toNat, tagA := tag, tileA := k.t.tile i.a.idx })

/-- vatst: an integer-to-integer conversion needs RND 0 (R316, R361). -/
def execVatst (i : RdI) (s : State) : Outcome State Fault Refusal :=
  runE 0x284 s i.toSlots (linesOf i.toSlots false 0) fun k =>
    let tag := tagOf i.ty i.var.toNat
    if tagInt tag && tagInt (k.t.rvtag i.a.idx) && rndCode i.rnd != 0 then
      .error (.t 3 4 (rdView 0x284 i).md)
    else match s.vatWait k [i.a.idx] with
      | .error b => .error b
      | .ok () =>
        let op : MxOp := { MxOp.base k.tid k.g 0 0x284 with
          d := i.d.idx, a := i.a.idx, imm := i.imm.toNat, md := b2n i.sat + 2 * rndCode i.rnd, tagA := tag }
        .ok (s.mxIssue k fun id => { op with id := id }, k.mxReads op)

def execVatclr (i : RdI) (s : State) : Outcome State Fault Refusal :=
  runS 0x285 s i.toSlots (linesOf i.toSlots false 0) fun k =>
    match s.vatWait k [i.d.idx] with
    | .error b => .error b
    | .ok () => .ok (s.mxIssue k fun id =>
        { MxOp.base k.tid k.g id 0x285 with d := i.d.idx, tagA := if i.var = 0 then 0xE0 else 0xE1 })

def execVatcp (i : RdI) (s : State) : Outcome State Fault Refusal :=
  runE 0x286 s i.toSlots (linesOf i.toSlots false 0) fun k =>
    match s.vatWait k [i.a.idx, i.d.idx] with
    | .error b => .error b
    | .ok () =>
      let op : MxOp := { MxOp.base k.tid k.g 0 0x286 with d := i.d.idx, a := i.a.idx }
      .ok (s.mxIssue k fun id => { op with id := id }, k.mxReads op)

/-- mtrans: A's tag must name a format of TYPE's width (R362). -/
def execMtrans (i : FnI) (s : State) : Outcome State Fault Refusal :=
  runS 0x287 s i.toSlots (linesOf i.toSlots false 0) fun k =>
    let tag := 16 * tyCode i.ty
    let found := k.t.rmtag i.a.idx
    if tagWidth found ≠ tagWidth tag then .error (.t 5 tag (found + 2 ^ 8))
    else match k.gr.counterWait .mtx with
      | .error b => .error b
      | .ok () => .ok (s.mxIssue k fun id =>
          { MxOp.base k.tid k.g id 0x287 with
            d := i.d.idx, md := i.sub.toNat, tagA := tag, tagB := found, tileA := k.t.tile i.a.idx })

/-- mscale: the source tile carries the tag that IMM names (R363); m(D+1) is written too. -/
def execMscale (i : RdI) (s : State) : Outcome State Fault Refusal :=
  let ls := linesOf i.toSlots false 0
  runS 0x288 s i.toSlots (ls.1, ls.2 ++ (List.range 64).map (64 * (i.d.idx + 1) + ·)) fun k =>
    let src := i.imm.toNat % 256
    match k.t.checkTile i.a.idx src 1 with
    | .error b => .error b
    | .ok () => match k.gr.counterWait .mtx with
      | .error b => .error b
      | .ok () => .ok (s.mxIssue k fun id =>
          { MxOp.base k.tid k.g id 0x288 with
            d := i.d.idx, md := b2n i.sat + 2 * rndCode i.rnd, imm := i.imm.toNat, tagA := src
            tagB := tagOf i.ty i.var.toNat, tileA := k.t.tile i.a.idx })

end Sys2Proof.Machine
end

