-- ==== Sys2Proof/Machine/Wavefront.lean ====
section
/-!
DEFINITION. Machine/Wavefront.lean: row 0xB (16 R365-R374): rules, bands, tile runs, edges, traceback walks and scores:
their issue, and what they compute from a block's bytes.
-/
namespace Sys2Proof.Machine

open Host (Outcome)

/-! ## The rule record (08 R196) -/

/-- A signed 16-bit field of some bytes. -/
def s16At (bs : List Byte) (o : Nat) : Int := sextI 16 (ofBytes (sliceD 0#8 bs o 2))
/-- A 32-bit field. -/
def u32At (bs : List Byte) (o : Nat) : Nat := ofBytes (sliceD 0#8 bs o 4)
/-- SEL. -/
def ruleSel (r : List Byte) : Bool := bit (u32At r 0) 0
/-- FLOOR under SEL 0. -/
def ruleFloor (r : List Byte) : Bool := !ruleSel r && bit (u32At r 0) 1
/-- The worst score. -/
def ruleWorst (r : List Byte) : Int := if ruleSel r then 32767 else -32768
/-- sat16. -/
def sat16 (x : Int) : Int := if x < -32768 then -32768 else if 32767 < x then 32767 else x
/-- What breaks a rule record (R366). -/
def ruleBad (r : List Byte) : Bool :=
  let w := u32At r 0
  decide (2 ≤ bits w 3 2) || (bit w 0 && bit w 1) || decide (bits w 31 4 ≠ 0) || (sliceD 0#8 r 8 56).any fun b => b != 0

/-! ## Issue -/

/-- A row 0xB operation takes its place in the engine order; wfcfg and wfband count in no counter (R354). -/
def State.wfIssue (s : State) (k : Iss) (op : MxOp) (counted : Bool) : State :=
  if counted then s.mxIssue k fun id => { op with id := id }
  else
    let (id, s1) := s.newOp
    s1.modCore k.t.core fun c => { c with engine := c.engine ++ [{ op with id := id }] }

/-- A value of an s register operand. -/
def Iss.sval (k : Iss) (o : Operand) : W64 := k.gr.rs o.idx

/-- A scratchpad address of n bytes of the team's own allocation, aligned to al (R354, 06 R142). -/
def Team.ownAddr (t : Team) (x : W64) (n al : Nat) : Except Bail Unit :=
  let a := x.toNat
  if 2 ^ 28 ≤ a ∨ bits a 27 24 ≠ 15 ∨ bits a 23 21 ≠ 0 ∨ t.spadSize < a % 2 ^ 21 + n then .error (.t 8 5 a)
  else if a % al ≠ 0 then .error (.t 9 (Nat.log2 al) a)
  else .ok ()

/-- wfcfg: the record is read and checked at issue (R366). -/
def execWfcfg (i : Slots) (s : State) : Outcome State Fault Refusal :=
  runH 0x2C1 s i (linesOf i false 0) fun k =>
    let a := (k.sval i.a).toNat
    match s.readRec k a 576 64 true with
    | .error b => .error b
    | .ok (none, s1) => .ok (s1, some gatherHold)
    | .ok (some bs, s1) =>
      if ruleBad bs then .error (.t 2 0xFF (barAddr a), s1)
      else
        let op : MxOp := { MxOp.base k.tid k.g 0 0x2C1 with rule := bs }
        .ok ((s1.wfIssue k op false).modTeam k.tid fun t => { t with wave := { t.wave with issuedRule := true } }, none)

/-- wfband (R367). -/
def execWfband (i : Slots) (s : State) : Outcome State Fault Refusal :=
  runS 0x2C2 s i (linesOf i false 0) fun k =>
    let x := k.sval i.a
    let lo : W32 := x.setWidth 32
    let hi : W32 := (x >>> 32).setWidth 32
    if hi.toInt < lo.toInt then .error (.t 3 2 x.toNat)
    else
      .ok ((s.wfIssue k { MxOp.base k.tid k.g 0 0x2C2 with sv := [x] } false).modTeam k.tid fun t =>
        { t with wave := { t.wave with issuedLo := lo, issuedHi := hi } })

/-- The rest of an issue: a full counter holds it. -/
def State.wfCounted (s : State) (k : Iss) (op : MxOp) : Except Bail (State × Reads) :=
  match k.gr.counterWait .mtx with
  | .error b => .error b
  | .ok () => .ok (s.wfIssue k op true, k.mxReads op)

/-- wfrun (R370). -/
def execWfrun (i : Slots) (s : State) : Outcome State Fault Refusal :=
  runE 0x2C3 s i (linesOf i false 0) fun k =>
    let x := k.sval i.a
    let y := k.sval i.b
    if !k.t.wave.issuedRule then .error (.t 3 2 (opCode i.a))
    else match k.t.ownAddr x 1216 64, k.t.ownAddr y 4096 32 with
      | .error b, _ => .error b
      | _, .error b => .error b
      | .ok (), .ok () => match s.wfCounted k { MxOp.base k.tid k.g 0 0x2C3 with sv := [x, y] } with
        | .error b => .error b
        | .ok (s1, rd) => .ok (s1.count k.t.core 0x0E 1, rd)

/-- wfedge (R372). -/
def execWfedge (i : Slots) (s : State) : Outcome State Fault Refusal :=
  runE 0x2C4 s i (linesOf i false 0) fun k =>
    let form := i.imm.toNat % 4
    let x := k.sval i.d
    let y := if 2 ≤ form then k.sval i.a else x
    if form < 2 ∧ !k.t.wave.issuedRule then .error (.t 3 2 (opCode i.a))
    else match k.t.ownAddr x 1216 64, k.t.ownAddr y 1216 64 with
      | .error b, _ => .error b
      | _, .error b => .error b
      | .ok (), .ok () => s.wfCounted k { MxOp.base k.tid k.g 0 0x2C4 with imm := form, sv := [x, y] }

/-- tbwalk (R373). -/
def execTbwalk (i : Slots) (s : State) : Outcome State Fault Refusal :=
  runE 0x2C5 s i (linesOf i false 0) fun k =>
    let x := k.sval i.d
    let y := k.sval i.a
    let c := (k.sval i.b).toNat
    if 2 ^ 16 ≤ c ∨ 127 < c % 256 ∨ 127 < c / 256 then .error (.t 3 3 c)
    else match k.t.ownAddr x 72 8, k.t.ownAddr y 4096 32 with
      | .error b, _ => .error b
      | _, .error b => .error b
      | .ok (), .ok () => s.wfCounted k { MxOp.base k.tid k.g 0 0x2C5 with sv := [x, y, BitVec.ofNat 64 c] }

/-- wfscore (R374). -/
def execWfscore (i : Slots) (s : State) : Outcome State Fault Refusal :=
  runE 0x2C6 s i (linesOf i false 1) fun k =>
    s.wfCounted k { MxOp.base k.tid k.g 0 0x2C6 with d := i.d.idx, imm := i.imm.toNat % 4 }

/-! ## A tile run (R368-R371) -/

/-- A cell of a run: its score, its code, whether the chosen candidate was clamped, and whether it was computed. -/
structure WfCell where
  h : Int
  code : Nat
  clamped : Bool
  comp : Bool
  deriving DecidableEq, Repr

/-- What a run reads: its rule, band and block. -/
structure WfIn where
  rule : List Byte
  lo : Int
  hi : Int
  blk : List Byte

/-- The extent and origin of a block. -/
def WfIn.nr (x : WfIn) : Nat := u32At x.blk 0x280 / 2 ^ 16 % 256 + 1
def WfIn.nc (x : WfIn) : Nat := u32At x.blk 0x280 / 2 ^ 24 + 1
def WfIn.row0 (x : WfIn) : Int := u32At x.blk 0x284
def WfIn.col0 (x : WfIn) : Int := u32At x.blk 0x288
/-- Symbol i of a string at an offset. -/
def WfIn.sym (x : WfIn) (o i : Nat) : Nat := (x.blk.getD (o + i / 2) 0).toNat / 16 ^ (i % 2) % 16
/-- A global cell is in band (R367). -/
def WfIn.inBand (x : WfIn) (gi gj : Int) : Bool := decide (x.lo ≤ gj - gi) && decide (gj - gi ≤ x.hi)

/-- One cell, from its three neighbours. -/
def WfIn.cell (x : WfIn) (i j : Nat) (up left dg : Int) : WfCell :=
  if x.nr ≤ i ∨ x.nc ≤ j ∨ !x.inBand (x.row0 + i) (x.col0 + j) then ⟨ruleWorst x.rule, 3, false, false⟩
  else
    let raw : List Int := [dg + s16At x.rule (0x40 + 2 * (16 * x.sym 0 i + x.sym 0x40 j)), up + s16At x.rule 6, left + s16At x.rule 4]
    let val (c : Nat) : Int := sat16 (raw.getD c 0)
    let better (p q : Int) : Bool := if ruleSel x.rule then decide (p < q) else decide (q < p)
    let h := [1, 2].foldl (fun m c => if better (val c) m then val c else m) (val 0)
    let order := if bits (u32At x.rule 0) 3 2 = 0 then [0, 1, 2] else [0, 2, 1]
    let c := (order.find? fun c => val c == h).getD 0
    let cl := val c != raw.getD c 0
    if ruleFloor x.rule && decide (h < 0) then ⟨0, 3, cl, true⟩ else ⟨h, c, cl, true⟩

/-- Row i, from the row above it, its left edge and the corner. -/
def WfIn.rowOf (x : WfIn) (i : Nat) (ups : List Int) (left0 dg0 : Int) : List WfCell :=
  ((List.range 128).foldl (fun (r : List WfCell × Int × Int) j =>
    let up := ups.getD j 0
    let c := x.cell i j up r.2.1 r.2.2
    (c :: r.1, c.h, up)) ([], left0, dg0)).1.reverse

/-- The 128 rows of a run. -/
def WfIn.run (x : WfIn) : List (List WfCell) :=
  ((List.range 128).foldl (fun (r : List (List WfCell) × List Int) i =>
    let left := s16At x.blk (0x180 + 2 * i)
    let dg := if i = 0 then s16At x.blk 0x280 else s16At x.blk (0x180 + 2 * (i - 1))
    let row := x.rowOf i r.2 left dg
    (row :: r.1, row.map fun c => c.h)) ([], (List.range 128).map fun j => s16At x.blk (0x80 + 2 * j))).1.reverse

/-- Codes four to a byte (R369). -/
def packCodes : List WfCell → List Byte
  | a :: b :: c :: d :: rest => BitVec.ofNat 8 (a.code + 4 * b.code + 16 * c.code + 64 * d.code) :: packCodes rest
  | _ => []

/-- A signed 16-bit number's bytes. -/
def b16 (x : Int) : List Byte := toBytes 2 (wrapI 16 x)

/-- The last row of cells a run computed, and its last column (BOTTOM and RIGHT). -/
def WfIn.bottom (x : WfIn) (rows : List (List WfCell)) : List Byte := ((rows.getD (x.nr - 1) []).flatMap fun c => b16 c.h)
def WfIn.right (x : WfIn) (rows : List (List WfCell)) : List Byte :=
  rows.flatMap fun r => b16 (((r[x.nc - 1]?).map fun c => c.h).getD 0)

/-- The best cell of a run: its score, row and column, the first in row-major order among equals (R371). -/
def WfIn.best (x : WfIn) (rows : List (List WfCell)) : Option (Int × Nat × Nat) :=
  (rows.zipIdx).foldl (fun m r => (r.1.zipIdx).foldl (fun m c =>
    if !c.1.comp then m
    else match m with
      | none => some (c.1.h, r.2, c.2)
      | some b => if (if ruleSel x.rule then decide (c.1.h < b.1) else decide (b.1 < c.1.h)) then some (c.1.h, r.2, c.2) else m) m) none

/-- A cell by its global row and column (R365). -/
def WfIn.cellWord (x : WfIn) (i j : Nat) : W64 :=
  BitVec.ofNat 64 (wrapI 32 (x.row0 + i) + 2 ^ 32 * wrapI 32 (x.col0 + j))

/-- BEST and LAST after a run (R371). -/
def WfIn.after (x : WfIn) (rows : List (List WfCell)) (w : Wave) : Wave :=
  let w1 := match x.best rows with
    | none => w
    | some (h, i, j) =>
      let old := w.best.toInt
      if !w.hasBest || (if ruleSel x.rule then decide (h < old) else decide (old < h)) then
        { w with hasBest := true, best := ofI 16 h, bestCell := x.cellWord i j }
      else w
  match (rows[x.nr - 1]?).bind fun r => r[x.nc - 1]? with
  | some c => if c.comp then { w1 with hasLast := true, lastScore := ofI 16 c.h, lastCell := x.cellWord (x.nr - 1) (x.nc - 1) }
    else { w1 with hasLast := false }
  | none => { w1 with hasLast := false }

/-! ## Edges (R372) -/

/-- bound. -/
def wfBound (r : List Byte) (x : Int) : Int := if ruleFloor r && decide (sat16 x < 0) then 0 else sat16 x

/-- The bytes that a form writes: pairs of an offset in the destination block and its bytes. src is the source block's
bytes, or the destination's for .top and .left. -/
def WfIn.edge (x : WfIn) (form : Nat) : List (Nat × List Byte) :=
  let gapL := s16At x.rule 4
  let gapU := s16At x.rule 6
  let pick (gi gj v : Int) : List Byte := b16 (if x.inBand gi gj then wfBound x.rule v else ruleWorst x.rule)
  match form with
  | 0 => [(0x80, (List.range 128).flatMap fun (j : Nat) => pick (-1) (x.col0 + j) ((x.col0 + j + 1) * gapL)),
          (0x280, pick (-1) (x.col0 - 1) (x.col0 * gapL))]
  | 1 => [(0x180, (List.range 128).flatMap fun (i : Nat) => pick (x.row0 + i) (-1) ((x.row0 + i + 1) * gapU)),
          (0x280, pick (x.row0 - 1) (-1) (x.row0 * gapU))]
  | 2 => [(0x80, sliceD 0 x.blk 0x2C0 256), (0x280, sliceD 0 x.blk (0x180 + 2 * (x.nr - 1)) 2)]
  | _ => [(0x180, sliceD 0 x.blk 0x3C0 256), (0x280, sliceD 0 x.blk (0x80 + 2 * (x.nc - 1)) 2)]

/-! ## The walk (R373) -/

/-- A walk's steps so far (oldest first), where it stands, and whether it met a code of none. -/
structure Walk where
  codes : List Nat
  i : Int
  j : Int
  none_ : Bool
  deriving DecidableEq, Repr

/-- The code of a cell in a plane's bytes. -/
def planeCode (pl : List Byte) (i j : Int) : Nat :=
  (pl.getD (32 * i.toNat + j.toNat / 4) 0).toNat / 4 ^ (j.toNat % 4) % 4

/-- Walk for at most n more steps. -/
def walkFrom (pl : List Byte) : Nat → Walk → Walk
  | 0, w => w
  | n + 1, w =>
    if w.i < 0 ∨ w.j < 0 then w
    else match planeCode pl w.i w.j with
      | 3 => { w with none_ := true }
      | 0 => walkFrom pl n { w with codes := w.codes ++ [0], i := w.i - 1, j := w.j - 1 }
      | 1 => walkFrom pl n { w with codes := w.codes ++ [1], i := w.i - 1 }
      | c => walkFrom pl n { w with codes := w.codes ++ [c], j := w.j - 1 }

/-- The 72 bytes of a walk record. -/
def Walk.bytes (w : Walk) : List Byte :=
  toBytes 8 (w.codes.length + 2 ^ 16 * wrapI 8 w.i + 2 ^ 24 * wrapI 8 w.j + 2 ^ 32 * b2n (decide (w.i < 0))
    + 2 ^ 33 * b2n (decide (w.j < 0)) + 2 ^ 34 * b2n w.none_)
  ++ toBytes 64 (ofElems 2 w.codes)

/-- The record of a walk from a start cell (R373). -/
def walkRecord (pl : List Byte) (start : Nat) : List Byte :=
  (walkFrom pl 256 ⟨[], ((start % 256 : Nat) : Int), ((start / 256 : Nat) : Int), false⟩).bytes

end Sys2Proof.Machine
end

