-- ==== Sys2Proof/Machine/MatrixRun.lean ====
section
/-!
DEFINITION. Machine/MatrixRun.lean: what the matrix engine computes (16 R356-R374, 04 R103-R107) and MATRIX_OP_COMPLETE:
scratchpad sectors read early, and the completion of the head of a core's engine order (10 R239).
-/
namespace Sys2Proof.Machine

open Host (Outcome)

/-! ## Operand bytes (R356, R239) -/

/-- A byte of the team's allocation as the operation reads it: captured early, or now. -/
def MxOp.byte (o : MxOp) (s : State) (off : Nat) : Byte :=
  if o.captured.contains (off / 32) then byteAt (SMap.get 0#256 o.capt (off / 32)).toNat (off % 32)
  else match s.team? o.tid with
    | some t => SMap.get 0#8 t.spad off
    | none => 0

/-- n bytes from an offset. -/
def MxOp.bytes (o : MxOp) (s : State) (off n : Nat) : List Byte := (List.range n).map fun i => o.byte s (off + i)

/-- Row r of an operand as a number. -/
def MxOp.row (o : MxOp) (s : State) (tile : SMap (BitVec 512)) (d : Option Desc) (r : Nat) : Nat :=
  match d with
  | none => (SMap.get 0#512 tile r).toNat
  | some x => ofBytes ((List.range 64).map fun y => o.byte s (x.off r y))

/-- The scale code of block b of row r. -/
def MxOp.scale (o : MxOp) (s : State) (tab : SMap (BitVec 512)) (d : Option Desc) (r b : Nat) : Nat :=
  match d with
  | none => (byteAt (SMap.get 0#512 tab r).toNat b).toNat
  | some x => (o.byte s (x.scaleOff r b)).toNat

/-! ## Products (R358, R360) -/

/-- The exact value of an operand's element, and its flags: INT4RSV (R77). -/
def elemVal (tag code : Nat) : FVal × Nat :=
  if tagInt tag then
    let (x, fl) := intOf tag code
    (.num (decide (x < 0)) x.natAbs 0, fl)
  else (fdecode (fmtOf tag) code, 0)

/-- The elements of an operand row. -/
def rowVals (tag x : Nat) : List (FVal × Nat) := (elemsOf (tagWidth tag) (512 / tagWidth tag) x).map (elemVal tag)

/-- A product under two block scales (R103): a NaN scale makes it NaN and sets NV. -/
def scaleX (p : XVal × Nat) (ea eb : Nat) : XVal × Nat :=
  if ea = 255 ∨ eb = 255 then (.nan, flagsOr p.2 flagNV)
  else match p.1 with
    | .fin n m e st => (.fin n m (e + ea + eb - 254) st, p.2)
    | x => (x, p.2)

/-- One step of an FP48 cell: round(a + S), rounded once (R104, R105). -/
def cellFloat (rnd a : Nat) (ps : List (XVal × Nat)) : Nat × Nat :=
  let f := fmtOf 0xE0
  let sm := sumProducts ps
  let av := (fdecode f a).toX
  let x := accX rnd av.1 sm.1
  let r := deliver f rnd false 0 x.1
  (r.1, flagsOr (flagsOr sm.2 av.2) (flagsOr x.2 r.2))

/-- The integer that a finite product holds. -/
def xInt : XVal → Int
  | .fin n m _ _ => if n then -(m : Int) else m
  | _ => 0

/-- One step of an INT48 cell: one saturation (R106). -/
def cellInt (a : Nat) (x : Int) : Nat × Nat := fitInt 0xE1 true (sextI 48 a + x)

/-- The old cells of a vat tile, or zeros where ACC is 0. -/
def MxOp.old (o : MxOp) (t : Team) (i j : Nat) : Nat :=
  if bit o.imm 3 then (SMap.get 0#48 t.vat (16384 * o.d + 128 * i + j)).toNat else 0

/-- The cells of a tile product in row-major order, and the flags (R358). -/
def MxOp.product (o : MxOp) (s : State) (t : Team) : List Nat × Nat :=
  let rows (tag : Nat) (tile tab : SMap (BitVec 512)) (d : Option Desc) : List (List (FVal × Nat) × List Nat) :=
    (List.range 128).map fun r => (rowVals tag (o.row s tile d r), (List.range 4).map fun b => o.scale s tab d r b)
  let as_ := rows o.tagA o.tileA o.scaleA o.descA
  let bs := rows o.tagB o.tileB o.scaleB o.descB
  let int := tagInt o.tagA && !o.flag
  let fl0 := (as_ ++ bs).foldl (fun f r => r.1.foldl (fun f e => flagsOr f e.2) f) 0
  let cells := (as_.zipIdx).flatMap fun a => (bs.zipIdx).map fun b =>
    let ps := (List.zipWith (fun x y => mulE (tagInt o.tagA) x.1 y.1) a.1.1 b.1.1).zipIdx.map fun p =>
      if o.flag then scaleX p.1 (a.1.2.getD (p.2 / 32) 0) (b.1.2.getD (p.2 / 32) 0) else p.1
    let old := o.old t a.2 b.2
    if int then cellInt old (ps.foldl (fun x p => x + xInt p.1) 0) else cellFloat o.rnd old ps
  (cells.map Prod.fst, cells.foldl (fun f c => flagsOr f c.2) fl0)

/-- The number of set bits of a number below 2^n. -/
def bitsSet (n x : Nat) : Nat := ((List.range n).filter fun i => bit x i).length

/-- The cells of a binary product (R360). -/
def MxOp.binary (o : MxOp) (s : State) (t : Team) : List Nat × Nat :=
  let as_ := (List.range 128).map fun r => o.row s o.tileA o.descA r
  let bs := (List.range 128).map fun r => o.row s o.tileB o.descB r
  let cells := (as_.zipIdx).flatMap fun a => (bs.zipIdx).map fun b =>
    cellInt (o.old t a.2 b.2) (bitsSet 512 (if o.flag then a.1 &&& b.1 else a.1 ^^^ b.1))
  (cells.map Prod.fst, cells.foldl (fun f c => flagsOr f c.2) 0)

/-! ## Writing results -/

/-- All cells of a vat tile and its tag: the tile is dirty. -/
def Team.wvat (t : Team) (n : Nat) (cells : List Nat) (tag : Nat) : Team :=
  let lo := 16384 * n
  { t with
    vat := t.vat.filter (fun e => decide (e.1 < lo))
      ++ (((cells.zipIdx lo).map fun c => (c.2, BitVec.ofNat 48 c.1)).filter fun e => decide (e.2 ≠ 0))
      ++ t.vat.filter (fun e => decide (lo + cells.length ≤ e.1))
    vattag := SMap.set 0xE0#8 t.vattag n (BitVec.ofNat 8 tag)
    vatClean := t.vatClean.filter fun m => m != n }

/-- The cells of a vat tile. -/
def Team.vatCells (t : Team) (n : Nat) : List Nat := (SMap.range 0#48 t.vat (16384 * n) 16384).map fun c => c.toNat

/-- vatld: the column block takes the tile's elements, converted exactly (R361). -/
def MxOp.vatld (o : MxOp) (t : Team) : Team :=
  let dst := if tagInt o.tagA then 0xE1 else 0xE0
  let w := tagWidth o.tagA
  let n := 512 / w
  let blk := o.imm % 16
  let rows := (List.range 128).map fun r =>
    ((elemsOf w n (SMap.get 0#512 o.tileA r).toNat).map fun c => convert o.tagA dst 0 false 0 c)
  let cells := (rows.zipIdx).flatMap fun r => (List.range 128).map fun j =>
    if n * blk ≤ j ∧ j < n * blk + n then ((r.1[j - n * blk]?).map Prod.fst).getD 0
    else (SMap.get 0#48 t.vat (16384 * o.d + 128 * r.2 + j)).toNat
  (t.wvat o.d cells (t.rvtag o.d)).wflags (rows.foldl (fun f r => r.foldl (fun f c => flagsOr f c.2) f) 0)

/-- vatst: the tile takes the column block, each element rounded once (R361, 14 R316). -/
def MxOp.vatst (o : MxOp) (t : Team) : Team :=
  let w := tagWidth o.tagA
  let n := 512 / w
  let blk := o.imm % 16
  let rows := (List.range 128).map fun r => (List.range n).map fun c =>
    convert (t.rvtag o.a) o.tagA o.rnd o.flag 0 (SMap.get 0#48 t.vat (16384 * o.a + 128 * r + n * blk + c)).toNat
  (t.wtile o.d (fun r => BitVec.ofNat 512 (ofElems w ((rows.getD r []).map Prod.fst))) o.tagA).wflags
    (rows.foldl (fun f r => r.foldl (fun f c => flagsOr f c.2) f) 0)

/-- mtrans: a square block transposed; the other rows keep their bits (R362). -/
def MxOp.mtrans (o : MxOp) (t : Team) : Team :=
  let w := tagWidth o.tagA
  let c := 512 / w
  let src := (List.range c).map fun j => elemsOf w c (SMap.get 0#512 o.tileA (c * (o.md % 4) + j)).toNat
  t.wtile o.d (fun r =>
    let lo := c * (o.md / 4)
    if lo ≤ r ∧ r < lo + c then BitVec.ofNat 512 (ofElems w (src.map fun row => row.getD (r - lo) 0)) else t.row o.d r) o.tagB

/-- The rank of a magnitude: a NaN above infinity, infinity above every finite value (R363). -/
def magAbove (a b : FVal) : Bool :=
  match a, b with
  | .nan _, .nan _ => false
  | .nan _, _ => true
  | _, .nan _ => false
  | .inf _, .inf _ => false
  | .inf _, _ => true
  | _, .inf _ => false
  | .num _ m e, .num _ n g => !leScaled m e n g

/-- The elements of a row of mscale: their codes, the scale, the flags (R363). -/
def scaleRow (src dst rnd : Nat) (sat : Bool) (x : Nat) : List Nat × Nat × Nat :=
  let codes := elemsOf 16 32 x
  let f := fmtOf src
  let top := codes.foldl (fun m c => if magAbove (fdecode f c) (fdecode f m) then c else m) (codes.headD 0)
  let e := sclElem dst src top
  let sig := if codes.any fun c => (fdecode f c).isSig then flagNV else 0
  let one (v : FVal) : Nat × Nat :=
    if tagInt dst then floatToInt dst rnd 0 v else deliver (fmtOf dst) rnd sat 0 v.toX.1
  let qs := codes.map fun c =>
    if e.1 = 255 then one (.nan false)
    else one (match fdecode f c with
      | .num s m g => .num s m (g + 127 - e.1)
      | v => v)
  (qs.map Prod.fst, e.1, qs.foldl (fun f q => flagsOr f q.2) (flagsOr e.2 sig))

/-- Bytes of a 64-byte row replaced from a byte. -/
def rowSet (x : BitVec 512) (off : Nat) (bs : List Byte) : BitVec 512 :=
  let m : Nat := (2 ^ (8 * bs.length) - 1) * 2 ^ (8 * off)
  (x &&& ~~~(BitVec.ofNat 512 m)) ||| BitVec.ofNat 512 (ofBytes bs * 2 ^ (8 * off))

/-- mscale: one block of mD and one byte column of m(D+1) (R363). -/
def MxOp.mscale (o : MxOp) (t : Team) : Team :=
  let w := tagWidth o.tagB
  let h := bits o.imm 9 8
  let bw := 32 * w / 8
  let rows := (List.range 128).map fun r => scaleRow o.tagA o.tagB o.rnd o.flag (SMap.get 0#512 o.tileA r).toNat
  let t1 := t.wtile o.d (fun r =>
    rowSet (t.row o.d r) (bw * h) (toBytes bw (ofElems w ((rows.getD r ([], 0, 0)).1)))) o.tagB
  (t1.wtile (o.d + 1) (fun r => rowSet (t.row (o.d + 1) r) h [BitVec.ofNat 8 (rows.getD r ([], 0, 0)).2.1]) 0x71).wflags
    (rows.foldl (fun f r => flagsOr f r.2.2) 0)

/-- The scratchpad bytes that an operation may write before it completes, with their place: a run's traceback, a walk's
record (10 R239). -/
def MxOp.traceback (o : MxOp) (s : State) (t : Team) : Nat × List Byte :=
  match o.op with
  | 0x2C3 => (o.spadAt 1, (WfIn.run ⟨t.wave.rule, t.wave.lo.toInt, t.wave.hi.toInt, o.bytes s (o.spadAt 0) 0x2C0⟩).flatMap packCodes)
  | 0x2C5 => (o.spadAt 0, walkRecord (o.bytes s (o.spadAt 1) 4096) (o.sv.getD 2 0).toNat)
  | _ => (0, [])

/-- The bytes of one sector among some at an offset. -/
def State.putSector (s : State) (tid off : Nat) (bs : List Byte) (x : Nat) : State :=
  let lo := max off (32 * x)
  let hi := min (off + bs.length) (32 * x + 32)
  s.spadWrite tid lo (sliceD 0#8 bs (lo - off) (hi - lo))

/-- Bytes at an offset are written, but those of sectors written before. -/
def State.putBut (s : State) (tid off : Nat) (bs : List Byte) (wrote : List Nat) : State :=
  if wrote.isEmpty then s.spadWrite tid off bs
  else ((sectorsOf off bs.length).filter fun x => !wrote.contains x).foldl (fun (y : State) x => y.putSector tid off bs x) s

/-- The input of a run or an edge. -/
def MxOp.wfIn (_o : MxOp) (t : Team) (blk : List Byte) : WfIn := ⟨t.wave.rule, t.wave.lo.toInt, t.wave.hi.toInt, blk⟩

/-- What wfscore writes (R374). -/
def Wave.score (w : Wave) (last : Bool) : W64 × W64 :=
  if last then (if w.hasLast then (w.lastScore.signExtend 64, w.lastCell)
    else (ofI 64 (if w.hasRule then ruleWorst w.rule else -32768), -1))
  else if w.hasBest then (w.best.signExtend 64, w.bestCell)
  else (ofI 64 (if w.hasRule then ruleWorst w.rule else -32768), -1)

/-- An operation writes its results (R358-R374). -/
def State.mxRun (s : State) (o : MxOp) (t : Team) : State :=
  let put (u : Team) : State := s.setTeam o.tid u
  match o.op with
  | 0x281 => let r := o.product s t
             put ((t.wvat o.d r.1 (mxReq 0x281 o.tagA o.flag)).wflags r.2)
  | 0x282 => let r := o.binary s t
             put ((t.wvat o.d r.1 0xE1).wflags r.2)
  | 0x283 => put (o.vatld t)
  | 0x284 => put (o.vatst t)
  | 0x285 => put (t.wvat o.d (List.replicate 16384 0) o.tagA)
  | 0x286 => put (t.wvat o.d (t.vatCells o.a) (t.rvtag o.a))
  | 0x287 => put (o.mtrans t)
  | 0x288 => put (o.mscale t)
  | 0x2C1 => put { t with wave := { t.wave with rule := o.rule, hasRule := true, hasBest := false, hasLast := false } }
  | 0x2C2 =>
    let x := o.sv.getD 0 0
    put { t with wave := { t.wave with lo := x.setWidth 32, hi := (x >>> 32).setWidth 32 } }
  | 0x2C3 =>
    let a := o.spadAt 0
    let x := o.wfIn t (o.bytes s a 0x2C0)
    let rows := x.run
    let fl := if rows.any (fun r => r.any fun c => c.clamped) then flagISAT else 0
    let s1 := put ({ t with wave := x.after rows t.wave }.wflags fl)
    ((s1.putBut o.tid (o.spadAt 1) (rows.flatMap packCodes) o.wrote).spadWrite o.tid (a + 0x2C0) (x.bottom rows)).spadWrite o.tid
      (a + 0x3C0) (x.right rows)
  | 0x2C4 =>
    let a := o.spadAt 0
    let blk := if o.imm < 2 then List.replicate 0x280 0#8 ++ o.bytes s (a + 0x280) 12 else o.bytes s (o.spadAt 1) 1216
    ((o.wfIn t blk).edge o.imm).foldl (fun (x : State) w => x.spadWrite o.tid (a + w.1) w.2) s
  | 0x2C5 => s.putBut o.tid (o.spadAt 0) (walkRecord (o.bytes s (o.spadAt 1) 4096) (o.sv.getD 2 0).toNat) o.wrote
  | _ =>
    let r := t.wave.score (bit o.imm 0)
    (s.modTeam o.tid fun u => { u with wave := if bit o.imm 1 then { u.wave with hasBest := false } else u.wave }).modGroup
      o.tid o.g fun g => (g.ws o.d r.1).ws (o.d + 1) r.2

/-! ## MATRIX_OP_COMPLETE -/

/-- The registers that an operation writes. -/
def MxOp.dests (o : MxOp) : List Operand :=
  match o.op with
  | 0x284 => [.m (BitVec.ofNat 4 o.d)]
  | 0x287 => [.m (BitVec.ofNat 4 o.d)]
  | 0x288 => [.m (BitVec.ofNat 4 o.d), .m (BitVec.ofNat 4 (o.d + 1))]
  | 0x2C6 => [.s (BitVec.ofNat 6 o.d)]
  | _ => []

/-- The mapped scratchpad lines that an operation writes: stores to them need them filled (06 R144). -/
def MxOp.writes (o : MxOp) : List Nat :=
  match o.op with
  | 0x2C3 => sectorsOf (o.spadAt 1) 4096 ++ sectorsOf (o.spadAt 0 + 0x2C0) 512
  | 0x2C4 => sectorsOf (o.spadAt 0 + 0x80) 0x204
  | 0x2C5 => sectorsOf (o.spadAt 0) 72
  | _ => []

/-- The mapped lines of some sectors are valid. -/
def Team.sectorsFilled (t : Team) (secs : List Nat) : Bool := secs.all fun x => !(t.missing (32 * x) 32)

/-- The head of a core's engine order completes: all its results are written (R354, R358). -/
def State.mxEnd (s : State) (core : Nat) (o : MxOp) (rest : List MxOp) (t : Team) : Outcome State Fault Refusal :=
  let secs := o.reads
  if !s.vatHere core o.tid o.vats || !(o.dests.all fun d => s.destHere o.tid o.g d false)
      || !t.sectorsFilled (secs ++ o.writes) then .fault .notEnabled
  else .next (((s.mxRun o t).engineNext core rest).endOp o.tid o.g o.id)

/-- The head of the order reads scratchpad sectors early, each once: an operation starts its reads only after every earlier one
has finished writing (R354). -/
def State.mxCapture (s : State) (core : Nat) (o : MxOp) (t : Team) (secs : List Nat) : Outcome State Fault Refusal :=
  if !(secs.all fun x => o.reads.contains x && !o.captured.contains x) || !t.sectorsFilled secs then .fault .notEnabled
  else .next (s.modCore core fun c => { c with engine := modAt c.engine 0 fun x => { x with
      captured := x.captured ++ secs
      capt := secs.foldl (fun m y => SMap.set 0#256 m y (BitVec.ofNat 256 (ofBytes (t.spadBytes (32 * y) 32)))) x.capt } })

/-- The head, all its sectors read, writes sectors of its traceback early. -/
def State.mxWriteEarly (s : State) (core : Nat) (o : MxOp) (t : Team) (secs : List Nat) : Outcome State Fault Refusal :=
  let w := o.traceback s t
  let mine := sectorsOf w.1 w.2.length
  if w.2.isEmpty || !(o.reads.all fun x => o.captured.contains x)
      || !(secs.all fun x => mine.contains x && !o.wrote.contains x) || !t.sectorsFilled secs then .fault .notEnabled
  else .next ((secs.foldl (fun (x : State) y => x.putSector o.tid w.1 w.2 y) s).modCore core fun c =>
    { c with engine := modAt c.engine 0 fun x => { x with wrote := x.wrote ++ secs } })

/-- MATRIX_OP_COMPLETE (R354, R358, 10 R239): the head of a core's engine order completes; or, with final not set, it
reads scratchpad sectors early, or writes sectors of its traceback early. capture lists sectors, 2^40 added to
each for a write (log 14). -/
def execMatrixOpComplete (core : Nat) (capture : List Nat) (final : Bool) (s : State) : Outcome State Fault Refusal :=
  let ops := (s.core core).engine
  let kind := match capture with | [] => 0 | x :: _ => x / 2 ^ 40
  match ops.head? with
  | none => .fault .notEnabled
  | some o => match s.team? o.tid with
    | none => .fault .notEnabled
    | some t =>
      if final then s.mxEnd core o (ops.drop 1) t
      else if capture.isEmpty || !(capture.all fun x => x / 2 ^ 32 == 256 * kind) then .fault .notEnabled
      else
        let secs := capture.map fun x => x % 2 ^ 32
        if kind = 0 then s.mxCapture core o t secs
        else if kind = 1 then s.mxWriteEarly core o t secs
        else .fault .notEnabled

end Sys2Proof.Machine
end

