-- ==== Sys2Proof/Machine/CopyRun.lean ====
section
/-!
DEFINITION. Machine/CopyRun.lean: what the copy engine does after issue (17 R377-R382, R391, 10 R238): the checking pass,
reading source sectors once, writing destination sectors, credits, completion; and the starts and drain bound of DXP
programs (17 R383-R385, R396).
-/
namespace Sys2Proof.Machine

open Host (Outcome)

/-! ## Copies in flight -/

/-- A copy of a core. -/
def State.copy? (s : State) (core id : Nat) : Option CopyOp := (s.core core).copies.find? fun o => o.id == id

/-- Change a copy of a core. -/
def State.modCopy (s : State) (core id : Nat) (f : CopyOp → CopyOp) : State :=
  s.modCore core fun c => { c with copies := c.copies.map fun o => if o.id = id then f o else o }

/-- The sector of a place, as a number. -/
def Loc.sectorKey : Loc → Nat
  | .spad t off => 3 * (t * 2 ^ 17 + off / 32)
  | .mem pa key => 3 * (key * 2 ^ 47 + pa / 32) + 1
  | .remote d pa => 3 * (d * 2 ^ 47 + pa / 32) + 2

/-- The 32-byte sector that a place lies in. -/
def Loc.sector : Loc → Loc
  | .spad t off => .spad t (off / 32 * 32)
  | .mem pa key => .mem (pa / 32 * 32) key
  | .remote d pa => .remote d (pa / 32 * 32)

/-- The byte of its sector that a place is. -/
def Loc.inSector : Loc → Nat
  | .spad _ off => off % 32
  | .mem pa _ => pa % 32
  | .remote _ pa => pa % 32

/-! ## The checking pass (R377, R378) -/

/-- All of some results, or the first fault. -/
def collect {α : Type} : List (Except Trap α) → Except Trap (List α)
  | [] => .ok []
  | .error t :: _ => .error t
  | .ok x :: rest => match collect rest with
    | .ok xs => .ok (x :: xs)
    | .error t => .error t

/-- A byte of a global or unified address on one side of a transfer (R378): its place, or the fault. -/
def State.sidePlace (s : State) (tid : Nat) (t : Team) (comp : Nat) (kind : AccKind) (uni : Bool) (va : Nat) : Except Trap Loc :=
  if uni && va / 2 ^ 32 == 0xFFFFFFFF then
    match s.spadLoc tid t (va % 2 ^ 32) 1 with
    | some l => .ok l
    | none => .error ⟨8, 5, va % 2 ^ 32⟩
  else match s.translate t.part t.ctx comp kind va with
    | .error e => .error ⟨e.cause, e.detail, e.addr⟩
    | .ok (.remote d pa) => if (s.pathsTo d 0).isEmpty then .error ⟨8, 6, va⟩ else .ok (.remote d pa)
    | .ok l => .ok l

/-- Byte q of a local scratchpad box. -/
def State.localPlace (s : State) (tid : Nat) (t : Team) (base q : Nat) : Except Trap Loc :=
  let a := (base + q) % 2 ^ 32
  match s.spadLoc tid t a 1 with
  | some l => .ok l
  | none => .error ⟨8, 5, a⟩

/-- Byte q of the local side as a source: a tile read at issue, or scratchpad. -/
def State.localSrc (s : State) (o : CopyOp) (t : Team) (tile : Option Nat) (data : SMap (BitVec 512)) (base q : Nat) :
    Except Trap Src :=
  match tile with
  | some _ => .ok (.val (byteAt (SMap.get 0#512 data (q / 64)).toNat (q % 64)))
  | none => match s.localPlace o.tid t base q with
    | .ok l => .ok (.loc l ((base + q) % 2 ^ 32))
    | .error e => .error e

/-- Byte q of the local side as a destination. -/
def State.localDst (s : State) (o : CopyOp) (t : Team) (tile : Option Nat) (base q : Nat) : Except Trap Dst :=
  match tile with
  | some m => .ok (.tile m q)
  | none => match s.localPlace o.tid t base q with
    | .ok l => .ok (.loc l ((base + q) % 2 ^ 32))
    | .error e => .error e

/-- A planned byte of a local sector from its two sides. -/
def cpByte (lsec : Nat) (src : Except Trap Src) (dst : Except Trap Dst) (keep : Byte) : Except Trap CpByte :=
  match src, dst with
  | .ok a, .ok b => .ok ⟨a, b, keep, lsec⟩
  | .error t, _ => .error t
  | _, .error t => .error t

/-- A global byte as a source. -/
def State.globSrc (s : State) (o : CopyOp) (t : Team) (uni : Bool) (va : Nat) : Except Trap Src :=
  match s.sidePlace o.tid t o.scomp .load uni va with
  | .ok l => .ok (.loc l va)
  | .error e => .error e

/-- A global byte as a destination. -/
def State.globDst (s : State) (o : CopyOp) (t : Team) (uni : Bool) (va : Nat) : Except Trap Dst :=
  match s.sidePlace o.tid t o.dcomp .store uni va with
  | .ok l => .ok (.loc l va)
  | .error e => .error e

/-- The sectors of a copy's local box. -/
def CopyOp.nsec (o : CopyOp) : Nat := ceilDiv o.size 32

/-- The bytes of sector x of a copy's local box, each looked up and checked. -/
def State.copySector (s : State) (o : CopyOp) (t : Team) (x : Nat) : Except Trap (List CpByte) :=
  let qs := (List.range (min 32 (o.size - 32 * x))).map (32 * x + ·)
  match o.spec with
  | .tensor rec coords dir tile base data =>
    let r := tensorRec rec
    let c : List Int := coords.map fun x => x.toInt
    collect (qs.map fun q =>
      let b := r.place tile.isNone q
      let n := b / r.row
      let y := b % r.row
      let keep := r.keep c n y
      if dir then
        cpByte x (s.localSrc o t tile data base q) (if keep = 0 then .ok .none else s.globDst o t false (r.addr c n y)) keep
      else
        cpByte x (if keep = 0 then .ok .zero else s.globSrc o t false (r.addr c n y)) (s.localDst o t tile base q) keep)
  | .rows scatter base n pitch idx len tile q lb data =>
    collect (qs.map fun z =>
      let y := idx.getD (z / len) (0, 0)
      let here := if tile.isSome then 64 * (32 * q + y.1) + z % len else y.1 * len + z % len
      let va := (base + y.2 * pitch + z % len) % 2 ^ 64
      if scatter then
        let drop := decide (n ≤ y.2) || idx.any fun w => decide (y.1 < w.1) && w.2 == y.2
        cpByte x (s.localSrc o t tile data lb here) (if drop then .ok .none else s.globDst o t false va) 0xFF
      else
        cpByte x (if n ≤ y.2 then .ok .zero else s.globSrc o t false va) (s.localDst o t tile lb here) 0xFF)
  | .xfer dst src _ zero =>
    collect (qs.map fun q =>
      cpByte x (if zero then .ok .zero else s.globSrc o t true ((src + q) % 2 ^ 64)) (s.globDst o t true ((dst + q) % 2 ^ 64)) 0xFF)

/-- The copy writes single bits of its destination (a scatter of sub-byte elements), at addresses that no rule aligns to a
sector: DIR 1 of cpyt. -/
def CopyOp.bitwise (o : CopyOp) : Bool := match o.spec with | .tensor _ _ dir _ _ _ => dir | _ => false

/-- What a planned byte is written with: its destination sector, or, where nothing is written, its local sector. -/
def CpByte.run (b : CpByte) : Nat × Nat :=
  match b.dst with
  | .loc l _ => (0, l.sectorKey)
  | _ => (1, b.lsec)

/-- The runs of bytes written together: a destination sector is never written in two parts (R382). The destinations of every
copy but a DIR 1 tensor copy are aligned as its local box is. -/
def CopyOp.runs (o : CopyOp) (secs : List (List CpByte)) : List (List CpByte) :=
  if !o.bitwise then secs
  else
    let bs := secs.flatten
    (bs.map CpByte.run).eraseDups.map fun r => bs.filter fun b => b.run == r

/-- The barrier in the checking pass (R377): its place and phase, or the fault. A barrier that could not be reached at
issue gives its phase here (log 14). -/
def State.checkBar (s : State) (core : Nat) (o : CopyOp) (t : Team) : Except Trap (Option (Loc × Nat)) × State :=
  if !o.named then (.ok none, s)
  else match s.sidePlace o.tid t t.comp .atomic true o.bar with
    | .ok (.remote _ _) => (.error ⟨3, 2, o.bar⟩, s)
    | .ok l => match o.phase with
      | some p => (.ok (some (l, p)), s)
      | none =>
        let r := s.barRead core l
        if r.1.bad then (.error ⟨2, 0xFF, barAddr o.bar⟩, s) else (.ok (some (l, r.1.phase)), r.2)
    | .error e => (.error ⟨e.cause, if e.cause = 7 then 1 else e.detail, if e.cause = 7 then o.bar else e.addr⟩, s)

/-- A copy's fault after issue. -/
def State.copyFails (s : State) (core id : Nat) (tr : Trap) : State := s.modCopy core id fun x => { x with failed := some tr }

/-- A move of the checking pass of a copy (R377): its barrier first, then its sectors up to number upto, each under the
generation current now (06 R137). With the last its plan is made. -/
def State.checkCopy (s : State) (core : Nat) (o : CopyOp) (t : Team) (upto : Nat) : State :=
  let b := if o.draft.isEmpty then s.checkBar core o t else (.ok (o.barLoc.map fun l => (l, o.phase.getD 0)), s)
  match b.1 with
  | .error e => b.2.copyFails core o.id e
  | .ok l =>
    let n := o.draft.length
    match collect ((List.range (min (upto + 1) o.nsec - n)).map fun i => b.2.copySector o t (n + i)) with
    | .error e => b.2.copyFails core o.id e
    | .ok more =>
      let d := o.draft ++ more
      b.2.modCopy core o.id fun x =>
        { x with draft := if d.length < o.nsec then d else [], plan := if d.length < o.nsec then none else some (o.runs d)
                 barLoc := l.map Prod.fst, phase := l.map Prod.snd }

/-! ## Reading source sectors (10 R238) -/

/-- Known bytes of a sector as a number: a mask of 32 bits, then their values. -/
def packSector (bs : List (Option Byte)) : Nat :=
  ofBytes (bs.map fun b => b.getD 0) * 2 ^ 32
    + ((List.range bs.length).foldl (fun m i => m + b2n ((bs.getD i none).isSome) * 2 ^ i) 0)

/-- A sector once its answer is in. -/
def mergeSector (packed : Nat) (answer : List Byte) : List Byte :=
  (List.range 32).map fun i => if bit packed i then byteAt (packed / 2 ^ 32) i else answer.getD i 0

/-- A sector that a copy has read. -/
def CopyOp.have_ (o : CopyOp) (key : Nat) : Bool := (SMap.find o.capt key).isSome

/-- A source sector is read, once: from scratchpad, or as a plain load that skips the store buffers; of remote memory it
is asked for. -/
def State.captureSector (s : State) (core id part : Nat) (l : Loc) (va : Nat) : State :=
  match s.copy? core id with
  | none => s
  | some o =>
    let key := l.sectorKey
    if o.failed.isSome || o.have_ key || o.reads.any fun r => r.1 == key then s
    else
      let er := s.readErr core part l.sector 32 va
      match er.2 with
      | some kind => er.1.modCopy core id fun x => { x with failed := some ⟨13, kind, errAddr kind va⟩ }
      | none =>
        let put (y : State) (bs : List Byte) : State := y.modCopy core id fun x => { x with capt := SMap.put x.capt key bs }
        match l.sector with
        | .spad t off => put er.1 (er.1.spadBytes t off 32)
        | .mem pa k => let r := er.1.readMem core k pa 32 false; put r.2 r.1
        | .remote d pa =>
          let known := (List.range 32).map fun i => (er.1.core core).wcByte d (pa + i)
          if known.all fun b => b.isSome then put er.1 (known.map fun b => b.getD 0)
          else match er.1.request core 0 (mkPacket 1 part d core pa 32 []) (.copyRead core id key) with
            | some y => y.modCopy core id fun x => { x with reads := x.reads ++ [(key, packSector known)] }
            | none => er.1.modCopy core id fun x => { x with failed := some ⟨8, 6, va⟩ }

/-- The places that a planned byte needs read: its source, and a remote destination of which only some bits change. -/
def CpByte.needs (b : CpByte) (part_ : Bool) : List (Loc × Nat) :=
  (match b.src with | .loc l va => [(l, va)] | _ => [])
  ++ (if part_ && b.keep != 0xFF then (match b.dst with | .loc (.remote d pa) va => [(.remote d pa, va)] | _ => []) else [])

/-- A byte of a sector that has been read. -/
def CopyOp.captured (o : CopyOp) (l : Loc) : Option Byte := (SMap.find o.capt l.sectorKey).map fun bs => bs.getD l.inSector 0

/-- The value of a planned byte, once known. -/
def CopyOp.value (o : CopyOp) (b : CpByte) : Option Byte :=
  match b.src with
  | .zero => some 0
  | .val x => some x
  | .loc l _ => o.captured l

/-- The sectors written together: of a tile register, a row's two. -/
def CopyOp.unit (o : CopyOp) (sector : Nat) : List Nat := if o.tileDst.isSome then [sector / 2 * 2, sector / 2 * 2 + 1] else [sector]

/-! ## Writing destination sectors -/

/-- A planned byte's value goes to a place of this device. -/
def State.putByte (s : State) (core : Nat) (o : CopyOp) (b : CpByte) (v : Byte) : State :=
  let mix (old : Byte) : Byte := if o.bitwise then (old &&& ~~~b.keep) ||| (v &&& b.keep) else v &&& b.keep
  match b.dst with
  | .loc (.spad t off) _ => s.spadWrite t off [mix (((s.spadBytes t off 1).head?).getD 0)]
  | .loc (.mem pa key) _ => s.engineWrite core key pa [mix (s.cvByte core key pa)]
  | _ => s

/-- The planned bytes of a tile register go there, with the copy's tag. -/
def State.putTile (s : State) (o : CopyOp) (m : Nat) (bs : List CpByte) : State :=
  s.modTeam o.tid fun t =>
    let t1 := bs.foldl (fun (u : Team) b => match b.dst, o.value b with
      | .tile _ q, some v => u.wrow m (q / 64) (rowSet (u.row m (q / 64)) (q % 64) [v &&& b.keep])
      | _, _ => u) t
    { t1 with mtag := SMap.set 0#8 t1.mtag m (BitVec.ofNat 8 o.tag) }

/-- What a step of a copy writes of its tile register (10 R229): with its last rows all of it, so that what another instruction
has written in the meantime gives way to the result; before that the rows at hand, where the register has the copy's tag
already, since a row that reads as the result reads with the matching tag. -/
def State.tileStep (s : State) (o : CopyOp) (plan : List (List CpByte)) (us : List Nat) : State :=
  match o.tileDst, s.team? o.tid with
  | some m, some t =>
    if plan.length ≤ o.wrote.length + us.length then s.putTile o m plan.flatten
    else if t.rmtag m = o.tag then s.putTile o m (us.flatMap fun u => plan.getD u [])
    else s
  | _, _ => s

/-- The remote bytes of a sector: device, address, value, and the address they were named by. -/
def CopyOp.remote (o : CopyOp) (bs : List CpByte) : List (Nat × Nat × Byte × Nat) :=
  bs.filterMap fun b => match b.dst, o.value b with
    | .loc (.remote d pa) va, some v =>
      let old := (o.captured (.remote d pa)).getD 0
      some (d, pa, (if o.bitwise then (old &&& ~~~b.keep) ||| (v &&& b.keep) else v &&& b.keep), va)
    | _, _ => none

/-- The remote bytes of one line travel as a packet of their own (10 R234, R238): an engine's packet has no colours. -/
def State.putRemote (s : State) (core part : Nat) (o : CopyOp) (sector : Nat) (xs : List (Nat × Nat × Byte × Nat)) : State :=
  let lines := (xs.map fun x => (x.1, x.2.1 / 128)).eraseDups
  lines.foldl (fun (y : State) ln =>
    let mine := xs.filter fun x => x.1 == ln.1 && x.2.1 / 128 == ln.2
    let mask := mine.foldl (fun m x => m ||| 2 ^ (x.2.1 % 128)) 0
    let data := mine.foldl (fun (d : BitVec 1024) x => lineSet d (x.2.1 % 128) [x.2.2.1]) 0
    let p := mkPacket 3 part ln.1 core (128 * ln.2) 0 (toBytes 16 mask ++ toBytes 128 data.toNat)
    match y.request core 0 p (.copyWrite core o.id sector) with
    | some z => z.modCopy core o.id fun x => { x with acks := x.acks ++ [sector] }
    | none => y.modCopy core o.id fun x => { x with failed := some ⟨8, 6, mine.foldl (fun m x => min m x.2.2.2) (2 ^ 64)⟩ }) s

/-- The credit of a sector of a copy's local box (R378, R391, 09 R211). Where the barrier's core has been reset the copy
learns that its target is gone. -/
def State.copyCredit (s : State) (core : Nat) (o : CopyOp) : State :=
  match o.barLoc with
  | some l =>
    if s.barGone l then s.copyFails core o.id ⟨8, 8, barAddr o.bar⟩
    else s.barCredit core (o.phase.getD 0) 1 ⟨l, o.tid, o.g, o.pc, o.mask, o.bar⟩
  | none => s

/-- A local sector is done: every run with a byte of it is written, and no remote write of one is unacknowledged. -/
def CopyOp.sectorDone (o : CopyOp) (x : Nat) : Bool :=
  (o.plan.getD []).zipIdx.all fun r => !(r.1.any fun b => b.lsec == x) || (o.wrote.contains r.2 && !o.acks.contains r.2)

/-- The local sectors of a run that are done and not yet credited are credited, each once. -/
def State.creditRun (s : State) (core id run : Nat) : State :=
  match s.copy? core id with
  | none => s
  | some o =>
    let secs := ((((o.plan.getD []).getD run []).map CpByte.lsec).eraseDups).filter fun x =>
      !o.credited.contains x && o.sectorDone x
    secs.foldl (fun (y : State) _ => y.copyCredit core o)
      (s.modCopy core id fun x => { x with credited := x.credited ++ secs })

/-- The checked transfers of a run to memory of this device (06 R154): the first that meets a lasting error fails the copy. -/
def State.runErr (s : State) (core part : Nat) (bs : List CpByte) : State × Option Trap :=
  if s.errs.isEmpty then (s, none)
  else bs.foldl (fun (r : State × Option Trap) b => match r.2, b.dst with
    | none, .loc l va => let e := r.1.edgeErr core part l 1 va; (e.1, if e.2 then some ⟨13, 6, va⟩ else none)
    | _, _ => r) (s, none)

/-- A run whose bytes are known is written; the sectors it ends are credited unless a remote write is to be acknowledged
first. A run whose transfer fails or whose packet finds no path is not written, and no sector of it is credited (10 R238). -/
def State.writeSector (s : State) (core part : Nat) (o : CopyOp) (sector : Nat) (bs : List CpByte) : State :=
  let er := s.runErr core part bs
  match er.2 with
  | some tr => er.1.copyFails core o.id tr
  | none =>
  let s1 := bs.foldl (fun (x : State) b => match o.value b with | some v => x.putByte core o b v | none => x) er.1
  let s2 := s1.putRemote core part o sector (o.remote bs)
  if (s2.copy? core o.id).any fun x => x.failed.isSome then s2
  else
    let s3 := s2.modCopy core o.id fun x => { x with wrote := x.wrote ++ [sector] }
    (if o.dx then s3.count core 9 1 else s3).creditRun core o.id sector

/-- The barrier of a copy lies in no mapped line whose valid bit is clear (06 R144). -/
def State.barHere (s : State) (o : CopyOp) : Bool :=
  match o.barLoc with
  | some l => s.filled ⟨0, o.bar, l, 16⟩
  | none => true

/-- The scratchpad bytes that planned bytes touch lie in valid mapped lines (06 R144). -/
def State.plannedHere (s : State) (bs : List CpByte) : Bool :=
  bs.all fun b =>
    (match b.src with | .loc l va => s.filled ⟨0, va, l, 1⟩ | _ => true)
    && (match b.dst with | .loc l va => s.filled ⟨0, va, l, 1⟩ | _ => true)

/-- A sector's step: its source sectors are read, and, where their bytes are in and writing is asked for, it is
written. -/
def State.sectorStep (s : State) (core part : Nat) (o : CopyOp) (plan : List (List CpByte)) (sector : Nat) (readOnly : Bool) :
    State :=
  let us := o.unit sector
  let bs := us.flatMap fun u => plan.getD u []
  let s1 := (bs.flatMap fun b => b.needs o.bitwise).foldl (fun (x : State) n => x.captureSector core o.id part n.1 n.2) s
  match s1.copy? core o.id with
  | none => s1
  | some o1 =>
    let ready := bs.all fun b => (o1.value b).isSome && (b.needs o.bitwise).all fun n => o1.have_ n.1.sectorKey
    if readOnly || o1.failed.isSome || !ready then s1
    else us.foldl (fun (x : State) u => x.writeSector core part o1 u (plan.getD u [])) (s1.tileStep o1 plan us)

/-- Some byte of a sector still needs its source asked for. -/
def CopyOp.unasked (o : CopyOp) (bs : List CpByte) : Bool :=
  bs.any fun b => (b.needs o.bitwise).any fun n => !o.have_ n.1.sectorKey && !(o.reads.any fun r => r.1 == n.1.sectorKey)

/-- The COPY_SECTOR_WRITE of a copy: the first ones make the checking pass (17 R377), up to the sector that the move names; then
it names a run of the plan. With readOnly set source sectors are read early, without writing. A run is written once. An
engine that holds a record starts no copy (07 R166). -/
def State.copyMove (s : State) (core id sector : Nat) (readOnly : Bool) : Outcome State Fault Refusal :=
  match s.copy? core id with
  | none => .fault .notEnabled
  | some o => match s.team? o.tid with
    | none => .fault .notEnabled
    | some t =>
      if o.failed.isSome then .fault .notEnabled
      else match o.plan with
        | none =>
          if ((s.core core).held.any fun h => h.fromDxp == o.dx) || decide (sector < o.draft.length) || decide (o.nsec ≤ sector) then
            .fault .notEnabled
          else .next (s.checkCopy core o t sector)
        | some plan =>
          let bs := (o.unit sector).flatMap fun u => plan.getD u []
          let known := bs.all fun b => (b.needs o.bitwise).all fun n => o.have_ n.1.sectorKey
          let tileHere := match o.tileDst with | some m => s.destHere o.tid o.g (.m (BitVec.ofNat 4 m)) false | none => true
          if plan.length ≤ sector ∨ o.wrote.contains sector ∨ !s.plannedHere bs ∨ !tileHere
              ∨ (!readOnly && !s.barHere o) then .fault .notEnabled
          else if !o.unasked bs && (readOnly || !known) then .fault .notEnabled
          else .next (s.sectorStep core t.part o plan sector readOnly)

/-! ## Completion (R377, R382) -/

/-- A dxfer that failed stops its program, one that waits at its dend too; the program's first fault stands (R395). -/
def State.dxCopyFault (s : State) (core : Nat) (tr : Trap) : State :=
  (s.modDxp core fun x => { x with run := x.run.map fun r =>
    match r.ending with
    | some (some _) => r
    | _ => { r with ending := some (some tr), hold := none } }).dxSettle core

/-- A copy leaves the engine. -/
def State.dropCopy (s : State) (core id : Nat) : State :=
  s.modCore core fun c => { c with copies := c.copies.filter fun o => o.id != id }

/-- COPY_COMPLETE: every sector is written and credited, or the copy has failed and no write of it is unacknowledged. -/
def execCopyComplete (core id : Nat) (s : State) : Outcome State Fault Refusal :=
  match s.copy? core id with
  | none => .fault .notEnabled
  | some o => match s.team? o.tid with
    | none => .fault .notEnabled
    | some t =>
      if !o.acks.isEmpty then .fault .notEnabled
      else match o.failed with
        | some tr =>
          let s1 := s.dropCopy core id
          if o.dx then .next (s1.dxCopyFault core tr)
          else .next ((s1.dxRecord core o.tid o.pc o.thread tr).postDxFault core o.tid o.g o.opId o.pc tr false)
        | none => match o.plan with
          | none => .fault .notEnabled
          | some plan =>
            if o.wrote.length < plan.length then .fault .notEnabled
            else
              let s1 := s.dropCopy core id
              if o.dx then .next (s1.dxSettle core)
              else
                let s2 := s1.endOp o.tid o.g o.opId
                if !o.named then .next s2
                else .next (s2.postHeld core 1 (BitVec.ofNat 64 o.bar) (BitVec.ofNat 64 (t.launch + 2 ^ 32 * t.index))
                  (BitVec.ofNat 64 (o.size + 2 ^ 48 * o.thread)) o.tid o.g o.opId false)

/-! ## Starting programs and the drain bound (R383, R385, R396) -/

/-- The fault that a program's entry takes at its start (R383). -/
def entryFault (e : W64) : Option Trap :=
  if 2 ^ 56 ≤ e.toNat then some ⟨8, 9, e.toNat⟩ else if e.toNat % 4 ≠ 0 then some ⟨9, 2, e.toNat⟩ else none

/-- DXP_PROGRAM_START: the DXP takes the next command: d registers and loop counts 0, DXPPC the entry (R385, 05 R125).
Within a stop interval nothing starts (R396), nor while the DXP holds a record (07 R166). -/
def execDxpProgramStart (core : Nat) (s : State) : Outcome State Fault Refusal :=
  let c := s.core core
  match c.dxp.run, c.dxp.cmds with
  | none, cmd :: rest => match s.team? cmd.tid with
    | none => .fault .notEnabled
    | some t =>
      if s.stopped t.part t.ctx || c.held.any fun h => h.fromDxp then .fault .notEnabled
      else
        let s1 := (s.modDxp core fun x =>
          { x with cmds := rest, run := some ⟨cmd, none, none, none⟩, d := [], loops := [], pc := cmd.entry.setWidth 56 }).modTeam
            cmd.tid fun t => { t with running := true }
        .next (match entryFault cmd.entry with
          | some tr => s1.dxFault core tr
          | none => s1)
  | _, _ => .fault .notEnabled

/-- A thousand real ticks in units of RCLK. -/
def drainBound : Nat := 1000 * 65536

/-- A program has ended but for its transfers by a fault; one that waits for them at its dend has not ended (R392, R396). -/
def DxRun.faulting (r : DxRun) : Bool := match r.ending with | some (some _) => true | _ => false

/-- DXP_DRAIN_TIMEOUT: a program that has not ended 1,000 real ticks after the halt request is stopped (R396). -/
def execDxpDrainTimeout (core : Nat) (s : State) : Outcome State Fault Refusal :=
  match (s.core core).dxp.run with
  | none => .fault .notEnabled
  | some r => match s.team? r.cmd.tid with
    | none => .fault .notEnabled
    | some t => match (s.ctx t.part t.ctx).stop with
      | none => .fault .notEnabled
      | some st =>
        if r.faulting || decide ((s.rclk - st.opened).toNat < drainBound) then .fault .notEnabled
        else .next (s.dxFault core ⟨15, 0xFF, 0⟩)

end Sys2Proof.Machine
end

