-- ==== Sys2Proof/Machine/Cache.lean ====
section
/-!
DEFINITION. Machine/Cache.lean: the lines of a core's register cache (01 R18, 02 R56, 05 R113, R114, 25 R451): those in use,
those pinned, which may be evicted, and eviction.
-/
namespace Sys2Proof.Machine

/-! ## Teams of a core -/

/-- The team still runs DXP programs or has work in its core's engines (17 R396). -/
def State.teamBusy (s : State) (tid : Nat) (t : Team) : Bool :=
  let c := s.core t.core
  c.dxp.cmds.any (fun x => x.tid == tid) || (match c.dxp.run with | some r => r.cmd.tid == tid | none => false)
    || c.copies.any (fun o => o.tid == tid) || c.engine.any (fun o => o.tid == tid) || c.held.any (fun h => h.tid == tid)
    || !t.dxArea.isEmpty

/-- Every group of the team has exited and nothing of it runs on. -/
def State.teamOver (s : State) (tid : Nat) (t : Team) : Bool := t.groups.all (fun g => g.exited) && !s.teamBusy tid t

/-- The teams resident on a core. -/
def State.onCore (s : State) (core : Nat) : List (Nat × Team) := s.teams.filter fun e => e.2.core == core

/-! ## The register cache -/

/-- The lines that a team pins, for itself and its groups that have not exited (05 R113). -/
def Team.pins (t : Team) : Nat := 32 + 26 * (t.groups.filter fun g => !g.exited).length

/-- The pinned lines of a core's teams, those that come back to it among them (05 R113, 02 R43). -/
def State.pinned (s : State) (core : Nat) : Nat :=
  ((s.onCore core).filter fun e => !s.teamOver e.1 e.2).foldl (fun n e => n + e.2.pins) 0

/-- The lines of a group's image in the register cache that may be evicted. -/
def Group.cached (g : Group) (l : LaunchRec) : List Nat :=
  if g.exited || g.halted then [] else (groupLines l).filter fun n => !g.fresh.contains n && !g.evicted.contains n

/-- The tile lines of a team in the register cache. -/
def Team.cached (t : Team) : List Nat :=
  if t.mast then [] else (List.range 1024).filter fun n => !t.fresh.contains n && !t.evicted.contains n

/-- The lines of a core's register cache in use. Of a team that has left its core its pinned lines are in the rind store (R115),
and only those that met a lasting error stay (R114). -/
def State.linesUsed (s : State) (core : Nat) : Nat :=
  ((s.onCore core).filter fun e => !s.teamOver e.1 e.2).foldl (fun n e =>
    n + (if e.2.parked then 0 else e.2.pins) + e.2.cached.length
      + e.2.groups.foldl (fun k g => k + (g.cached e.2.lrec).length) 0) 0

/-- The 4,096 lines of a core's register cache (01 R18) have room for n more. -/
def State.lineRoom (s : State) (core n : Nat) : Bool := decide (s.linesUsed core + n ≤ 4096)

/-- The image that a line belongs to. -/
def Team.lineBase (t : Team) (g : Option Nat) : Nat :=
  match g with
  | none => t.imageBase
  | some i => t.groupBase i

/-- The address of a line. -/
def Team.lineVa (t : Team) (g : Option Nat) (line : Nat) : Nat := t.lineBase g + 128 * line

/-- Nothing that a group issued is outstanding. -/
def Group.nothingOut (g : Group) : Bool := g.ops.all fun o => o.done

/-- A line that may be evicted: in the cache of the core, none of the destinations still to be written, and its place in
memory can be written. -/
def State.evictable (s : State) (core : Nat) (v : Line) : Bool :=
  match s.team? v.tid with
  | none => false
  | some t =>
    let here := match v.g with
      | none => t.cached.contains v.line && t.tileCvts.isEmpty && t.groups.all fun g => g.nothingOut
      | some i => match t.groups[i]? with
        | some g => (g.cached t.lrec).contains v.line && g.nothingOut
        | none => false
    t.core == core && here && (match s.xlate t .image (t.lineVa v.g v.line) with | .ok (.mem _ _) => true | _ => false)

/-- Write a line back and evict it; one that meets a lasting error stays, and the error is posted (R114). The answer says
whether it left. -/
def State.evict (s : State) (v : Line) : State × Bool :=
  match s.team? v.tid with
  | none => (s, false)
  | some t =>
    let bs := match v.g with
      | none => t.tileLine v.line
      | some i => match t.groups[i]? with | some g => g.lineBytes v.line | none => []
    let r := s.writeLines t (t.lineBase v.g) [(128 * v.line, bs)]
    if !r.bad.isEmpty then (r.s, false)
    else
      let s1 := r.s.count t.core 5 1
      (match v.g with
       | none => s1.modTeam v.tid fun u => { u with evicted := v.line :: u.evicted }
       | some i => s1.modGroup v.tid i fun g => { g with evicted := v.line :: g.evicted }, true)

/-- The lines of a core that may be evicted. -/
def State.victims (s : State) (core : Nat) : List Line :=
  let all : List Line := (s.onCore core).flatMap fun e =>
    let ofGroups : List Line := e.2.groups.zipIdx.flatMap fun (x : Group × Nat) =>
      (x.1.cached e.2.lrec).map fun n => ⟨e.1, some x.2, n⟩
    e.2.cached.map (fun n => ⟨e.1, none, n⟩) ++ ofGroups
  all.filter fun v => s.evictable core v

/-- Lines are evicted in turn until n more have room. -/
def State.evictSome (core n : Nat) : List Line → State → State
  | [], s => s
  | v :: vs, s => if s.lineRoom core n then s else State.evictSome core n vs (s.evict v).1

/-- A core has room for n pinned lines, or can make it. -/
def State.mayRoom (s : State) (core n : Nat) : Bool :=
  s.lineRoom core n || decide (s.linesUsed core + n ≤ 4096 + (s.victims core).length)

/-- Room for n pinned lines: where every line is in use, others are evicted first (25 R451), in an order that is a free choice
(log 4). -/
def State.makeRoom (s : State) (core n : Nat) : State :=
  if s.lineRoom core n then s
  else
    let (c, s1) := s.drawChoice
    let vs := s1.victims core
    State.evictSome core n (vs.rotateLeft (c % max vs.length 1)) s1

end Sys2Proof.Machine
end

