-- ==== Sys2Proof/Machine/Crypto.lean ====
section
/-!
DEFINITION. Machine/Crypto.lean: SHA-512 (FIPS 180-4) and Ed25519 (RFC 8032), the algorithms of 01 R24 and 19 R441, and what the
device computes with them. The keys, and which bytes of an image are its signature, the spec does not state (log 9).
-/
namespace Sys2Proof.Machine

/-! ## SHA-512 -/

/-- K0 to K19 of SHA-512. -/
def shaK0 : List W64 := [
  0x428A2F98D728AE22, 0x7137449123EF65CD, 0xB5C0FBCFEC4D3B2F, 0xE9B5DBA58189DBBC,
  0x3956C25BF348B538, 0x59F111F1B605D019, 0x923F82A4AF194F9B, 0xAB1C5ED5DA6D8118,
  0xD807AA98A3030242, 0x12835B0145706FBE, 0x243185BE4EE4B28C, 0x550C7DC3D5FFB4E2,
  0x72BE5D74F27B896F, 0x80DEB1FE3B1696B1, 0x9BDC06A725C71235, 0xC19BF174CF692694,
  0xE49B69C19EF14AD2, 0xEFBE4786384F25E3, 0x0FC19DC68B8CD5B5, 0x240CA1CC77AC9C65]

/-- K20 to K39 of SHA-512. -/
def shaK1 : List W64 := [
  0x2DE92C6F592B0275, 0x4A7484AA6EA6E483, 0x5CB0A9DCBD41FBD4, 0x76F988DA831153B5,
  0x983E5152EE66DFAB, 0xA831C66D2DB43210, 0xB00327C898FB213F, 0xBF597FC7BEEF0EE4,
  0xC6E00BF33DA88FC2, 0xD5A79147930AA725, 0x06CA6351E003826F, 0x142929670A0E6E70,
  0x27B70A8546D22FFC, 0x2E1B21385C26C926, 0x4D2C6DFC5AC42AED, 0x53380D139D95B3DF,
  0x650A73548BAF63DE, 0x766A0ABB3C77B2A8, 0x81C2C92E47EDAEE6, 0x92722C851482353B]

/-- K40 to K59 of SHA-512. -/
def shaK2 : List W64 := [
  0xA2BFE8A14CF10364, 0xA81A664BBC423001, 0xC24B8B70D0F89791, 0xC76C51A30654BE30,
  0xD192E819D6EF5218, 0xD69906245565A910, 0xF40E35855771202A, 0x106AA07032BBD1B8,
  0x19A4C116B8D2D0C8, 0x1E376C085141AB53, 0x2748774CDF8EEB99, 0x34B0BCB5E19B48A8,
  0x391C0CB3C5C95A63, 0x4ED8AA4AE3418ACB, 0x5B9CCA4F7763E373, 0x682E6FF3D6B2B8A3,
  0x748F82EE5DEFB2FC, 0x78A5636F43172F60, 0x84C87814A1F0AB72, 0x8CC702081A6439EC]

/-- K60 to K79 of SHA-512. -/
def shaK3 : List W64 := [
  0x90BEFFFA23631E28, 0xA4506CEBDE82BDE9, 0xBEF9A3F7B2C67915, 0xC67178F2E372532B,
  0xCA273ECEEA26619C, 0xD186B8C721C0C207, 0xEADA7DD6CDE0EB1E, 0xF57D4F7FEE6ED178,
  0x06F067AA72176FBA, 0x0A637DC5A2C898A6, 0x113F9804BEF90DAE, 0x1B710B35131C471B,
  0x28DB77F523047D84, 0x32CAAB7B40C72493, 0x3C9EBE0A15C9BEBC, 0x431D67C49C100D4C,
  0x4CC5D4BECB3E42B6, 0x597F299CFC657E2A, 0x5FCB6FAB3AD6FAEC, 0x6C44198C4A475817]

/-- The eight working variables. -/
structure Sha where
  a : W64
  b : W64
  c : W64
  d : W64
  e : W64
  f : W64
  g : W64
  h : W64

/-- The initial hash value. -/
def Sha.init : Sha :=
  ⟨0x6A09E667F3BCC908, 0xBB67AE8584CAA73B, 0x3C6EF372FE94F82B, 0xA54FF53A5F1D36F1,
   0x510E527FADE682D1, 0x9B05688C2B3E6C1F, 0x1F83D9ABFB41BD6B, 0x5BE0CD19137E2179⟩

/-- Componentwise sum. -/
def Sha.add (x y : Sha) : Sha :=
  ⟨x.a + y.a, x.b + y.b, x.c + y.c, x.d + y.d, x.e + y.e, x.f + y.f, x.g + y.g, x.h + y.h⟩

/-- One round, with K + W. -/
def Sha.round (x : Sha) (kw : W64) : Sha :=
  let s1 := x.e.rotateRight 14 ^^^ x.e.rotateRight 18 ^^^ x.e.rotateRight 41
  let s0 := x.a.rotateRight 28 ^^^ x.a.rotateRight 34 ^^^ x.a.rotateRight 39
  let t1 := x.h + s1 + ((x.e &&& x.f) ^^^ (~~~x.e &&& x.g)) + kw
  let t2 := s0 + ((x.a &&& x.b) ^^^ (x.a &&& x.c) ^^^ (x.b &&& x.c))
  ⟨t1 + t2, x.a, x.b, x.c, x.d + t1, x.e, x.f, x.g⟩

/-- The message schedule of sixteen words, newest first. -/
def shaWords (ws : List W64) : List W64 :=
  (List.range 64).foldl (fun (r : List W64) _ =>
    let w (i : Nat) : W64 := r.getD i 0
    let s0 := (w 14).rotateRight 1 ^^^ (w 14).rotateRight 8 ^^^ (w 14 >>> 7)
    let s1 := (w 1).rotateRight 19 ^^^ (w 1).rotateRight 61 ^^^ (w 1 >>> 6)
    (s1 + w 6 + s0 + w 15) :: r) ws.reverse

/-- A block of sixteen words. -/
def Sha.block (x : Sha) (ws : List W64) : Sha :=
  x.add (((shaK0 ++ shaK1 ++ shaK2 ++ shaK3).zip (shaWords ws).reverse).foldl (fun (y : Sha) p => y.round (p.1 + p.2)) x)

/-- A number from bytes, the most significant first. -/
def ofBytesBE (bs : List Byte) : Nat := ofBytes bs.reverse

/-- The message with its padding. -/
def shaPad (m : List Byte) : List Byte :=
  m ++ [0x80#8] ++ List.replicate ((128 - (m.length + 17) % 128) % 128) 0#8 ++ (toBytes 16 (8 * m.length)).reverse

/-- SHA-512 of some bytes. -/
def sha512 (m : List Byte) : List Byte :=
  let p := shaPad m
  let x := (List.range (p.length / 128)).foldl (fun (y : Sha) i =>
    y.block ((List.range 16).map fun j => BitVec.ofNat 64 (ofBytesBE (sliceD 0#8 p (128 * i + 8 * j) 8)))) Sha.init
  [x.a, x.b, x.c, x.d, x.e, x.f, x.g, x.h].flatMap fun w => (toBytes 8 w.toNat).reverse

/-! ## Ed25519 -/

/-- The field's prime. -/
def edP : Nat := 2 ^ 255 - 19
/-- The order of the base point. -/
def edL : Nat := 2 ^ 252 + 27742317777372353535851937790883648493

/-- A power in the field: n low bits of the exponent. -/
def edPow (n x e : Nat) : Nat :=
  (List.range n).foldr (fun i r => (if bit e i then r * r % edP * x else r * r) % edP) 1

/-- An inverse in the field. -/
def edInv (x : Nat) : Nat := edPow 255 x (edP - 2)

/-- The curve's constant d. -/
def edD : Nat := (edP - 121665) * edInv 121666 % edP

/-- A point in extended coordinates. -/
structure EdPt where
  x : Nat
  y : Nat
  z : Nat
  t : Nat

/-- The neutral point. -/
def EdPt.zero : EdPt := ⟨0, 1, 1, 0⟩

/-- The sum of two points. -/
def EdPt.add (p q : EdPt) : EdPt :=
  let a := (p.y + edP - p.x) * (q.y + edP - q.x) % edP
  let b := (p.y + p.x) * (q.y + q.x) % edP
  let c := 2 * p.t * q.t * edD % edP
  let d := 2 * p.z * q.z % edP
  let e := b + edP - a
  let f := d + edP - c
  let g := d + c
  let h := b + a
  ⟨e * f % edP, g * h % edP, f * g % edP, e * h % edP⟩

/-- A multiple of a point: n low bits of the factor. -/
def EdPt.mul (n k : Nat) (p : EdPt) : EdPt :=
  (List.range n).foldr (fun i (r : EdPt) => let q := r.add r; if bit k i then q.add p else q) EdPt.zero

/-- Two points are one. -/
def EdPt.same (p q : EdPt) : Bool := p.x * q.z % edP == q.x * p.z % edP && p.y * q.z % edP == q.y * p.z % edP

/-- The x of a y with a sign, none where there is none. -/
def edX (y : Nat) (odd : Bool) : Option Nat :=
  let x2 := (y * y + edP - 1) * edInv (edD * y * y + 1) % edP
  if edP ≤ y then none
  else if x2 = 0 then (if odd then none else some 0)
  else
    let r := edPow 253 x2 ((edP + 3) / 8)
    let x := if r * r % edP = x2 then r else r * edPow 254 2 ((edP - 1) / 4) % edP
    if x * x % edP ≠ x2 then none
    else some (if decide (x % 2 = 1) = odd then x else edP - x)

/-- The point that 32 bytes name. -/
def edDecode (bs : List Byte) : Option EdPt :=
  let n := ofBytes bs
  let y := n % 2 ^ 255
  if bs.length ≠ 32 then none else (edX y (bit n 255)).map fun x => ⟨x, y, 1, x * y % edP⟩

/-- The 32 bytes of a point. -/
def EdPt.bytes (p : EdPt) : List Byte :=
  let zi := edInv p.z
  toBytes 32 (p.y * zi % edP + 2 ^ 255 * (p.x * zi % edP % 2))

/-- The base point. -/
def edBase : EdPt :=
  let y := 4 * edInv 5 % edP
  let x := (edX y false).getD 0
  ⟨x, y, 1, x * y % edP⟩

/-- A hash as a number modulo the order. -/
def edHash (m : List Byte) : Nat := ofBytes (sha512 m) % edL

/-- Verification of a signature of a message by a public key. -/
def ed25519Verify (pub msg sig : List Byte) : Bool :=
  match edDecode pub, edDecode (sig.take 32) with
  | some a, some r =>
    let s := ofBytes (sig.drop 32)
    sig.length == 64 && decide (s < edL) && (edBase.mul 253 s).same (r.add (a.mul 253 (edHash (sig.take 32 ++ pub ++ msg))))
  | _, _ => false

/-- The signature of a message by a secret of 32 bytes. -/
def ed25519Sign (seed msg : List Byte) : List Byte :=
  let h := sha512 seed
  let n := ofBytes (h.take 32)
  let a := n % 2 ^ 254 - n % 8 + 2 ^ 254
  let pub := (edBase.mul 255 a).bytes
  let r := edHash (h.drop 32 ++ msg)
  let rs := (edBase.mul 253 r).bytes
  rs ++ toBytes 32 ((r + edHash (rs ++ pub ++ msg) * a) % edL)

/-! ## The device's keys -/

/-- The image that its signer's key has signed verifies (R24, R440). -/
def imageVerifies (im : List Byte) : Bool :=
  ed25519Verify Config.imageKey (Config.imageParts im).1 (Config.imageParts im).2

/-- A signature by the device's private key (R441). -/
def deviceSign (m : List Byte) : List Byte := ed25519Sign Config.deviceSeed m

end Sys2Proof.Machine
end

