-- ==== Sys2Proof/Machine/Start.lean ====
section
/-!
DEFINITION. Machine/Start.lean: groups and teams as they start (02 R28, R50, 03 R66, 04 R90, R94, 05 R109, R119, R130,
09 R209, 16 R365).
-/
namespace Sys2Proof.Machine

/-- The start values of sr.seed: the thread index plus 1; 1 in a mast core's program (04 R94, 05 R130). -/
def seedStart (mast : Bool) (g : Nat) : SMap W32 :=
  (if mast then [0] else List.range 32).map fun l => (l, if mast then 1#32 else BitVec.ofNat 32 (32 * g + l + 1))

/-- Group g of a starting team. -/
def Group.start (l : LaunchRec) (prios : List PrioRange) (mast : Bool) (g slot : Nat) : Group :=
  { role := l.roles.getD g .vector, slot := slot, v := [], vtag := [], s := SMap.set 0#64 [] 0 (BitVec.ofNat 64 l.args)
    p := [], seed := seedStart mast g, fflags := []
    front := [⟨prioOf prios l.entry, BitVec.ofNat 56 l.entry, if mast then 1#32 else 0xFFFFFFFF#32⟩], yieldPc := none
    calls := [], spill := [], alarms := [], phase := 0, ops := [], lq := [], sb := [], pend := [], trapq := [], trapcause := 0
    lastCause := 0, handler := none, halted := false, exited := false, hold := none, stall := 0, yieldHint := false
    age := 0, cycle := 0, retired := 0, stalls := [], ovf := 0, fresh := groupLines l, evicted := [], gath := []
    asked := [], redBad := [], unsaved := [] }

/-- A starting team; rule is what the loaded wavefront rule's bytes happen to be (16 R365, log 4). -/
def Team.start (part launch index : Nat) (l : LaunchRec) (prios : List PrioRange) (core origin cpos : Nat)
    (slots : List Nat) (rule : List Byte) (spmap : List SpMapE) (mast : Bool) : Team :=
  { mast := mast, part := part, launch := launch, index := index, lrec := l, core := core, origin := origin, cpos := cpos
    prios := prios, groups := (List.range l.groups).map fun g => Group.start l prios mast g (slots.getD g 0)
    mreg := [], mtag := [], cvs := [], vat := [], vattag := [], mflags := 0, idem := l.idem, rot := 0, turnHeld := false, turnOn := false
    rings := [], barWave := none, faults := 0, lastCode := 0, faulted := false, running := false, wave := Wave.start rule
    spad := [], spmap := spmap, lines := [], tileCvts := [], fresh := List.range 1024, evicted := [], unsaved := [], vatClean := []
    saved := false, imaged := false, parked := false, dxArea := [], moving := false
    lastStage := [], lastGroup := [], reported := false }

end Sys2Proof.Machine
end

