-- ==== Sys2Proof/Machine/Launch.lean ====
section
/-!
DEFINITION. Machine/Launch.lean: the work distributor (02 R27, R28, R43, R52, 06 R143, 07 R176-R179, 08 R186-R189):
address-space records, launch records, doorbells, launch checks, placement and completion.
-/
namespace Sys2Proof.Machine

open Host (Outcome)

/-! ## Address-space records (R188, R189) -/

/-- The physical address of a context's address-space record. -/
def State.ctxRec (s : State) (p c : Nat) : Nat := (s.part p).recAt + 0x900 + 64 * c

/-- The record's words. -/
def State.ctxWords (s : State) (p c : Nat) : List Nat := (List.range 8).map fun i => s.devWord p (s.ctxRec p c + 8 * i)

/-- VALID of a record as memory holds it; one with a reserved bit set is not valid (00 R10). -/
def State.ctxValid (s : State) (p c : Nat) : Bool :=
  let ws := s.ctxWords p c
  let x := ws.getD 0 0
  let r := ws.getD 1 0
  (s.part p).en && bit x 0 && bits x 15 1 == 0 && decide (x < 2 ^ 32) && bits r 63 52 == 0 && bits r 11 0 == 0
    && (ws.drop 2).all fun w => w == 0

/-- The device reads the record of a context (R188): a context that becomes valid is created, its clock at 0 and its counters
clear (03 R57, R58, 09 R220), stopped where its partition is halted or stepped, a step's pause that GO ends (05 R128, 18
R410). -/
def State.loadCtx (s : State) (p c : Nat) : State :=
  if decide (64 ≤ c) then s
  else
    let ws := s.ctxWords p c
    let x := s.ctx p c
    if !s.ctxValid p c then (if x.valid then s.setCtx p c { x with valid := false } else s)
    else
      let q := s.part p
      let why : List StopWhy := (if q.halt then [.halt] else []) ++ (if q.dbgStep then [.step] else [])
      let y := if x.valid then x else
        { Context.off with
          valid := true, created := s.rclk, deferred := x.deferred
          stop := if why.isEmpty then none else some ⟨0, s.rclk, why, false, false, []⟩ }
      (if !x.valid && q.dbgStep then s.modPart p fun q => { q with dbgStopped := true } else s).setCtx p c
        { y with root := bits (ws.getD 1 0) 51 0
                 gen := BitVec.ofNat 16 (bits (ws.getD 0 0) 31 16) }

/-! ## Launch records (02 R28, 08 R186) -/

/-- The fields of a record's sixteen words. -/
def launchFields (w : Nat → Nat) : LaunchRec :=
  let x := w 0
  let groups := bits x 35 32 + 1
  let rings := bits x 42 39
  let rd := w 4 + 2 ^ 64 * bits (w 5) 15 0
  { teams := bits x 31 0 + 1, groups := groups, stages := bits x 38 36 + 1
    rings := (List.range rings).map fun n =>
      ⟨bits rd (10 * n + 2) (10 * n), bits rd (10 * n + 5) (10 * n + 3), bits rd (10 * n + 9) (10 * n + 6) + 1⟩
    det := bit x 43, idem := bit x 44, footW := bits x 46 45 + 1, footH := bits x 48 47 + 1, comp := bits x 51 49
    scratch := bits (w 1) 8 0, spill := bits (w 1) 21 9, kernel := bits (w 1) 63 32
    roles := (List.range groups).map fun g =>
      match bits (w 2) (2 * g + 1) (2 * g) with | 0 => .copy | 1 => .matrix | _ => .vector
    stageOf := (List.range groups).map fun g => bits (w 3) (3 * g + 2) (3 * g)
    entry := bits (w 6) 55 0, handler := bits (w 7) 55 0, priomap := bits (w 8) 55 0, imageBase := bits (w 9) 55 0
    spmap := bits (w 10) 55 0, args := bits (w 11) 55 0, ctx := bits (w 12) 5 0 }

/-- The bits that R186 names no field for, and the fields of unused groups, stages and rings, are 0. -/
def launchZero (w : Nat → Nat) (l : LaunchRec) : Bool :=
  bits (w 0) 63 52 == 0 && bits (w 1) 31 22 == 0 && bits (w 2) 63 (2 * l.groups) == 0 && bits (w 3) 63 (3 * l.groups) == 0
    && (w 4 + 2 ^ 64 * w 5) / 2 ^ (10 * l.rings.length) == 0
    && ((List.range 6).all fun i => bits (w (6 + i)) 63 56 == 0) && bits (w 12) 63 6 == 0
    && w 13 == 0 && w 14 == 0 && w 15 == 0

/-- The limits of R28 and R186. -/
def launchOk (w : Nat → Nat) (l : LaunchRec) : Bool :=
  decide (l.rings.length ≤ 8) && decide (l.footH ≤ 3) && decide (l.scratch ≤ 384) && decide (l.spill ≤ 4096)
    && ((List.range l.groups).all fun g => bits (w 2) (2 * g + 1) (2 * g) != 3)
    && (l.stageOf.all fun st => decide (st < l.stages))
    && ((List.range l.stages).all fun st =>
        match ((List.range l.groups).filter fun g => l.stageOf.getD g 0 == st).map fun g => l.roles.getD g .vector with
        | [] => false
        | r :: rs => rs.all fun x => x == r)
    && (l.rings.all fun r => decide (r.prod < l.stages) && decide (r.cons < l.stages))

/-- A launch record's 128 bytes, none where R28 or R186 rejects it. -/
def parseLaunch (bs : List Byte) : Option LaunchRec :=
  let w (i : Nat) : Nat := wordAt bs i
  let l := launchFields w
  if launchZero w l && launchOk w l then some l else none

/-! ## Doorbells and checks (R176-R178) -/

/-- The partition's next launch number is taken (R177). -/
def State.takeLaunch (s : State) (p : Nat) : Nat × State :=
  let n := (s.part p).nextLaunch
  (n.toNat, s.modPart p fun q => { q with nextLaunch := n + 1 })

/-- LAUNCH_DOORBELL (R176-R178). -/
def execLaunchDoorbell (part : Nat) (addr : W64) (s : State) : Outcome State Fault Refusal :=
  let q := s.part part
  if !q.en || q.busy then .next s
  else if 64 ≤ q.launchq.length then
    .next ((s.modPart part fun q => { q with launchDrop := satAdd q.launchDrop 1 }).postNotice part 5 0 addr.toNat 0 0)
  else
    let (n, s1) := s.takeLaunch part
    .next (s1.modPart part fun q => { q with launchq := q.launchq ++ [⟨n, addr.toNat⟩] })

/-- The digest of a grid's entry page joins the partition's log, where the page is EXO (06 R147, 19 R441; log 9). -/
def State.measure (s : State) (p : Nat) (l : LaunchRec) : State :=
  match s.walk p (s.ctx p l.ctx).root .fetch l.entry with
  | .error _ => s
  | .ok lf =>
    if !bit lf.entry 6 then s
    else
      let key := keyOf (s.part p) (bits lf.entry 10 8)
      s.modPart p fun q => { q with measured := q.measured ++ [sha512 (s.homeBytes key (4096 * bits lf.entry 63 12) lf.size)] }

/-- A checked grid joins the placement queue, or the launch is rejected and completes as invalid (R28, R179); invoked is
its handle entry plus one. The answer says whether it was started. -/
def State.startGrid (s : State) (p launch recAddr : Nat) (l : Option LaunchRec) (invoked : Nat) : State × Bool :=
  let s0 := match l with | some x => s.loadCtx p x.ctx | none => s
  let reject : State × Bool := (s0.postNotice p 1 1 launch recAddr 0, false)
  match l with
  | none => reject
  | some x =>
    if !(s0.ctx p x.ctx).valid then reject
    else match s0.readPrios p x.ctx x.comp x.priomap with
      | .error _ => reject
      | .ok prios =>
        ((s0.measure p x).modPart p fun q =>
          { q with grids := q.grids ++ [⟨launch, x, recAddr, prios, 0, 0, 0, invoked, none, false⟩] }, true)

/-- LAUNCH_CHECK: the record at the doorbell's physical address is read and checked (R176, R186). -/
def execLaunchCheck (part : Nat) (s : State) : Outcome State Fault Refusal :=
  let q := s.part part
  match q.launchq with
  | [] => .fault .notEnabled
  | x :: rest =>
    if !q.en || q.busy then .fault .notEnabled
    else
      let s1 := s.modPart part fun q => { q with launchq := rest }
      let l := if x.addr % 128 ≠ 0 ∨ !mappable x.addr then none
        else parseLaunch ((List.range 128).map fun i => s1.devByte part (x.addr + i))
      .next (s1.startGrid part x.launch x.addr l 0).1

/-! ## Placement (R27, R43, R143) -/

/-- The team's allocation is free: every team of its cluster set has exited (R143). -/
def State.setOver (s : State) (t : Team) : Bool :=
  s.teams.all fun e => e.2.mast || e.2.part != t.part || e.2.launch != t.launch
    || e.2.index / t.setSize != t.index / t.setSize || s.teamOver e.1 e.2

/-- The group slots in use on a core: a pre-empted group has left its own (R27). -/
def State.slotsUsed (s : State) (core : Nat) : List Nat :=
  ((s.onCore core).filter fun e => !e.2.parked).flatMap fun e => (e.2.groups.filter fun g => !g.exited).map fun g => g.slot

/-- The groups of a core that come back to it when their stop intervals close. -/
def State.slotsDue (s : State) (core : Nat) : Nat :=
  ((s.onCore core).filter fun e => e.2.parked).foldl (fun n e => n + (e.2.groups.filter fun g => !g.exited).length) 0

/-- A free slot for group g of a team: in quadrant g mod 4, else in the next one that has any (R27); the lowest of a
quadrant. -/
def slotFor (used : List Nat) (g : Nat) : Option Nat :=
  ((List.range 4).flatMap fun j => (List.range 16).map fun i => 4 * i + (g + j) % 4).find? fun x => !used.contains x

/-- The slots of a team's groups. -/
def assignSlots (used : List Nat) : Nat → Nat → Option (List Nat)
  | 0, _ => some []
  | n + 1, g =>
    match slotFor used g with
    | none => none
    | some x => match assignSlots (x :: used) n (g + 1) with
      | none => none
      | some xs => some (x :: xs)

/-- Scratchpad units of 4 KiB in use on a core. -/
def State.spadUsed (s : State) (core : Nat) : Nat :=
  ((s.onCore core).filter fun e => !e.2.mast && !s.setOver e.2).foldl (fun n e => n + e.2.lrec.scratch) 0

/-- A core has room for a team of a launch and is not hot-excluded (R43). Room is kept for the teams that come back to it
(log 12). -/
def State.hasRoom (s : State) (core : Nat) (l : LaunchRec) : Bool :=
  (assignSlots (s.slotsUsed core) l.groups 0).isSome && decide ((s.slotsUsed core).length + s.slotsDue core + l.groups ≤ 64)
    && decide (s.spadUsed core + l.scratch ≤ 384)
    && decide (s.pinned core + 32 + 26 * l.groups ≤ 4096) && !(s.core core).hot

/-- The core at a position of the rectangle whose lower-left core is given (R143). -/
def rectCore (l : LaunchRec) (origin pos : Nat) : Nat := origin + 4 * (pos / l.footW) + pos % l.footW

/-- The rectangle fits in the cluster and every core of it is eligible. -/
def State.rectOk (s : State) (l : LaunchRec) (origin : Nat) : Bool :=
  let q := origin % 12
  decide (q % 4 + l.footW ≤ 4) && decide (q / 4 + l.footH ≤ 3)
    && (List.range (l.footW * l.footH)).all fun p => s.hasRoom (rectCore l origin p) l

/-- The place of a team or cluster set: lowest temperature, then lowest droop where the difference is not below DROOPW,
then lowest core number (R43, R45). -/
def State.bestCore (s : State) (p : Nat) (ok : Nat → Bool) : Option Nat :=
  let cs := (List.range 192).filter fun k =>
    (s.cluster (clusterOf k)).valid && (s.cluster (clusterOf k)).part.toNat == p && ok k
  let t (k : Nat) : Int := (s.core k).temp.toInt
  match cs with
  | [] => none
  | k0 :: _ =>
    let low := cs.foldl (fun m k => min m (t k)) (t k0)
    let cold := cs.filter fun k => t k == low
    let d := cold.foldl (fun m k => min m (s.core k).droop.toNat) 255
    cold.find? fun k =>
      let x := (s.core k).droop.toNat - d
      x == 0 || decide (x < (s.cluster (clusterOf k)).droopw.toNat)

/-- One team starts (R28, R90, R109). -/
def State.startTeam (s : State) (p : Nat) (gr : Grid) (index origin pos : Nat) : State :=
  let core := rectCore gr.lrec origin pos
  let slots := (assignSlots (s.slotsUsed core) gr.lrec.groups 0).getD []
  let (rule, s1) := s.drawBytes 576
  let t := Team.start p gr.launch index gr.lrec gr.prios core origin pos slots rule
    (s1.readSpmap p gr.lrec.ctx gr.lrec.comp gr.lrec.spmap) false
  let s2 : State := { (s1.setTeam s1.nextTid t) with nextTid := s1.nextTid + 1 }
  let s3 := if index = 0 ∧ gr.invoked ≠ 0 then
      let h := SMap.get HEntry.freeE s2.handles (gr.invoked - 1)
      { s2 with handles := SMap.set HEntry.freeE s2.handles (gr.invoked - 1) { h with loccore := core } }
    else s2
  s3.optDecide (clusterOf core)

/-- The next cluster set of a grid, or none: its first team, and how many teams it has. -/
def Grid.nextSet (g : Grid) : Option (Nat × Nat) :=
  if g.placed < g.lrec.teams then some (g.placed, min (g.lrec.footW * g.lrec.footH) (g.lrec.teams - g.placed)) else none

/-- The place for a grid's next set. -/
def State.placeFor (s : State) (p : Nat) (g : Grid) : Option Nat :=
  if g.status.isSome || s.stopped p g.lrec.ctx || g.nextSet.isNone then none
  else s.bestCore p fun k => s.rectOk g.lrec k

/-- TEAM_PLACEMENT: the first grid of the placement queue that has a place starts its next team, or its next cluster set
whole (R43, R55, R143). Where the register cache of a core has no room for the pinned lines, lines are evicted first (25 R451);
with no room after that the start waits. -/
def execTeamPlacement (part : Nat) (s : State) : Outcome State Fault Refusal :=
  let q := s.part part
  if !q.en || q.busy then .fault .notEnabled
  else match q.grids.find? fun g => (s.placeFor part g).isSome with
    | none => .fault .notEnabled
    | some g => match s.placeFor part g, g.nextSet with
      | some origin, some (first, n) =>
        let pins := 32 + 26 * g.lrec.groups
        let cores := (List.range n).map fun i => rectCore g.lrec origin i
        if !(cores.all fun k => s.mayRoom k pins) then .fault .notEnabled
        else
          let s0 := cores.foldl (fun (x : State) k => x.makeRoom k pins) s
          if !(cores.all fun k => s0.lineRoom k pins) then .next s0
          else
            let s1 := s0.modPart part fun q => { q with grids := q.grids.map fun x =>
              if x.launch = g.launch then { x with placed := x.placed + n } else x }
            .next ((List.range n).foldl (fun (x : State) i => x.startTeam part g (first + i) origin i) s1)
      | _, _ => .fault .notEnabled

/-! ## Completion (R163, R179) -/

/-- The teams of a grid. -/
def State.gridTeams (s : State) (p launch : Nat) : List (Nat × Team) :=
  s.teams.filter fun e => !e.2.mast && e.2.part == p && e.2.launch == launch

/-- Everything that the teams' groups issued is done. -/
def Team.drained (t : Team) : Bool :=
  t.groups.all fun g => g.sb.isEmpty && g.lq.isEmpty && g.pend.isEmpty && g.ops.all fun o => o.done

/-- The grid has started every team, and every group has exited or halted (R163). -/
def State.gridOver (s : State) (p : Nat) (g : Grid) : Bool :=
  g.placed == g.lrec.teams && g.exited + g.halted == g.lrec.teams * g.lrec.groups
    && (s.gridTeams p g.launch).all fun e => !s.teamBusy e.1 e.2 && e.2.drained

/-- A grid's record and its exited teams leave; a team that holds a halted group stays until a partition reset. -/
def State.dropGrid (s : State) (p launch : Nat) : State :=
  let gone := ((s.gridTeams p launch).filter fun e => e.2.groups.all fun g => g.exited).map Prod.fst
  let s1 : State := { s with teams := s.teams.filter fun e => !gone.contains e.1 }
  s1.modPart p fun q => { q with grids := q.grids.filter fun g => g.launch != launch }

/-- The lines of a team's groups that met a lasting error at their exits or halts, and those of groups that had operations
outstanding then, are written again (05 R114, 23 R448). -/
def State.retryLines (s : State) (tid : Nat) (t : Team) : State :=
  (List.range t.groups.length).foldl (fun (x : State) i =>
    match t.groups[i]? with | some g => if (g.exited || g.halted) && !g.unsaved.isEmpty then x.saveGroup tid t i g else x | none => x) s

/-- What the grid's teams hold is written back: mapped lines that stores have made dirty since the last exit (06 R145), lines
still dirty, and what a team holds beside its groups; with the team gone its lines leave the register cache and the vat (02
R56, 05 R113, log 12). -/
def State.saveGrid (s : State) (p launch : Nat) : State :=
  (s.gridTeams p launch).foldl (fun (x : State) e =>
    let y := x.writeMap e.1
    match y.team? e.1 with
    | some t => (y.retryLines e.1 t).saveTiles e.1 t
    | none => y) s

/-- LAUNCH_COMPLETE: the teams' images are written, then the launch-complete notice is posted (R179). A grid that an
invocation started stays until its stores are released (18 R417). -/
def execLaunchComplete (part launch : Nat) (s : State) : Outcome State Fault Refusal :=
  match (s.part part).grids.find? fun g => g.launch == launch with
  | none => .fault .notEnabled
  | some g =>
    if g.status.isSome || !s.gridOver part g then .fault .notEnabled
    else
      let st := if g.halted = 0 then 0 else 3
      let s1 := (s.saveGrid part launch).postNotice part 1 st launch g.recAddr 0
      .next (if g.invoked = 0 then s1.dropGrid part launch
        else s1.modPart part fun q => { q with grids := q.grids.map fun x =>
          if x.launch = launch then { x with status := some st } else x })

end Sys2Proof.Machine
end

