-- ==== Sys2Proof/Machine/System.lean ====
section
/-!
DEFINITION. Machine/System.lean: row 0x0, system and time (18 R398-R412).
-/
namespace Sys2Proof.Machine

open Host (Outcome)

def execNop (i : Slots) (s : State) : Outcome State Fault Refusal :=
  match s.cur with
  | some (.dxp _) => runDx s fun k => .ok k.x
  | _ => runS 0x001 s i ([], []) fun _ => .ok s

/-- exit: the entry's lanes leave the frontier (R400). -/
def execExit (i : Slots) (s : State) : Outcome State Fault Refusal := runJ 0x002 s i ([], []) fun _ => .ok (s, [])

/-- trap: a precise software trap (R401). -/
def execTrap (i : Slots) (s : State) : Outcome State Fault Refusal :=
  runS 0x003 s i ([], []) fun _ => .error (.t 15 (i.imm.toNat % 256) i.imm.toNat)

/-- yield: the entry ranks last for the group's next issue (02 R38). -/
def execYield (i : Slots) (s : State) : Outcome State Fault Refusal :=
  match s.issuer with
  | none => .fault .noIssuer
  | some k =>
    match k.enter 0x00D ([], []) with
    | .error b => .next (s.bail k b)
    | .ok () => .next (s.retire k i.hint k.fall (some (k.e.pc + 12)))

/-! ## Returning from a trap (R404) -/

/-- tret: RETURN FROM A TRAP, or the halt of a partial handler entry (R402, R404, 07 R159). -/
def execTret (i : Slots) (s : State) : Outcome State Fault Refusal :=
  match s.issuer with
  | none => .fault .noIssuer
  | some k =>
    let ls := linesOf i false 0
    match k.enter 0x004 (if bit i.imm.toNat 2 then (261 :: ls.1, ls.2) else ls) with
    | .error b => .next (s.bail k b)
    | .ok () =>
      let whole := k.gr.running.foldl (fun (m : Mask) e => m ||| e.mask) 0
      if k.e.mask ≠ whole then .next (s.bail k .halt)
      else
        let rpc : Pc := match i.a with | .s n => (k.gr.rs n.toNat).setWidth 56 | _ => 0
        let s1 := (s.modGroup k.tid k.g fun x => x.issued k.t i.hint none).count k.t.core 1 1
        .next (s1.endHandler k.tid k.g (i.imm.toNat % 4) rpc (bit i.imm.toNat 2)).done

/-! ## Trap records (R403) -/

/-- Write eight consecutive s registers. -/
def Group.ws8 (g : Group) (n : Nat) (ws : List Nat) : Group :=
  (List.range 8).foldl (fun x j => x.ws (n + j) (BitVec.ofNat 64 (ws.getD j 0))) g

def execTqrd (i : Slots) (s : State) : Outcome State Fault Refusal :=
  runG 0x005 s i (linesOf i false 7) fun k =>
    .ok (k.gr.ws8 i.d.idx (if k.gr.handler.isSome then
      (match k.gr.trapq with | r :: _ => r.words | [] => []) else []))

def execTqrdDxp (i : Slots) (s : State) : Outcome State Fault Refusal :=
  runS 0x005 s i (linesOf i false 7) fun k =>
    let q := (s.core k.t.core).dxp.trapq
    let wr (ws : List Nat) : State := s.modGroup k.tid k.g fun g => g.ws8 i.d.idx ws
    if k.gr.handler.isNone then .ok (wr [])
    else match q.findIdx? fun x => x.1 == k.tid with
      | none => .ok (wr [])
      | some j => .ok ((wr (((q[j]?).map fun x => x.2.words).getD [])).modDxp k.t.core fun x =>
          { x with trapq := x.trapq.eraseIdx j })

/-! ## Special registers (R405, 05 R116-R124) -/

/-- DXPSTAT (05 R122). -/
def Team.dxpstat (t : Team) : W64 :=
  BitVec.ofNat 64 (b2n t.running + 2 * b2n t.faulted + 2 ^ 8 * t.lastCode.toNat + 2 ^ 32 * t.faults.toNat)

/-- EVQSTAT (07 R167). -/
def Cluster.evqstat (c : Cluster) : Nat := c.evq.length + 2 ^ 16 * c.lost.toNat

/-- The instructions a team has retired (02 R53, 09 R214). -/
def Team.retiredSum (t : Team) : W64 := t.groups.foldl (fun (n : W64) g => n + g.retired) 0

/-- A word of the frontier (05 R119). -/
def Group.frontWord (g : Group) (n : Nat) : Nat :=
  match g.front[n / 2]? with
  | some e => e.words.getD (n % 2) 0
  | none => 0

/-- The value of a special register that is not lane-scoped (R116). -/
def State.specialReg (s : State) (k : Iss) (x : Nat) : W64 :=
  let g := k.gr
  let t := k.t
  match x with
  | 0x000 => g.trapcause.setWidth 64
  | 0x002 => BitVec.ofNat 64 g.front.length
  | 0x005 => t.mflags.setWidth 64
  | 0x006 => s.vclk t.part t.ctx
  | 0x007 => if t.lrec.det then t.retiredSum else g.cycle
  | 0x008 => if t.lrec.det then t.retiredSum else g.retired
  | 0x00A => BitVec.ofNat 64 g.alarmBits
  | 0x00B => g.phase.setWidth 64
  | 0x00C => BitVec.ofNat 64 (b2n t.idem)
  | 0x00D => BitVec.ofNat 64 (if t.lrec.det then t.rot else 0)
  | 0x00E => t.dxpstat
  | 0x00F => s.reefCause t.part
  | 0x010 => BitVec.ofNat 64 g.trapq.length
  | 0x011 => BitVec.ofNat 64 g.ocnt
  | 0x012 => BitVec.ofNat 64 (s.cluster (clusterOf t.core)).evqstat
  | _ =>
    if 0x20 ≤ x ∧ x < 0x30 then
      BitVec.ofNat 64 ((SMap.get 0#32 g.stalls (x - 0x20)).toNat + 2 ^ 32 * b2n (g.ovf.getLsbD (x - 0x20)))
    else if 0x100 ≤ x ∧ x < 0x140 then BitVec.ofNat 64 (g.frontWord (x - 0x100))
    else 0

def execSrd (i : Slots) (s : State) : Outcome State Fault Refusal :=
  let x := i.imm.toNat % 4096
  runS 0x006 s i (linesOf i false 0) fun k =>
    match i.d with
    | .s n =>
      let s1 := s.modGroup k.tid k.g fun g => g.ws n.toNat (s.specialReg k x)
      .ok (if x = 0x12 then s1.modCluster (clusterOf k.t.core) fun c => { c with lost := 0 } else s1)
    | o =>
      .ok (s.modGroup k.tid k.g fun g => g.wv o.idx false k.e.mask (fun l =>
        if x = 3 then (k.gr.rseed l).toNat else (SMap.get 0#8 k.gr.fflags l).toNat) 0x10)

/-- Write one lane's special register: sr.seed, or sr.fflags by W1C. -/
def Group.wlaneReg (g : Group) (x l v : Nat) : Group :=
  if x = 3 then { g with seed := SMap.set 0#32 g.seed l (BitVec.ofNat 32 v) }
  else { g with fflags := SMap.set 0#8 g.fflags l (SMap.get 0#8 g.fflags l &&& ~~~(BitVec.ofNat 8 v)) }

def execSwr (i : Slots) (s : State) : Outcome State Fault Refusal :=
  let x := i.imm.toNat % 4096
  runS 0x007 s i (linesOf i false 0) fun k =>
    let v := k.gr.uni i.a 0
    if x = 0x009 then match s.ctlsync k.tid with
      | .error a => .error (.t 2 0xFF a)
      | .ok s1 => .ok s1
    else .ok (match x with
      | 0x003 => s.modGroup k.tid k.g fun g =>
          (lanesOf k.e.mask).foldl (fun y l => y.wlaneReg 3 l (k.gr.src i.a 0 false 0 l)) g
      | 0x004 => s.modGroup k.tid k.g fun g =>
          (lanesOf k.e.mask).foldl (fun y l => y.wlaneReg 4 l (k.gr.src i.a 0 false 0 l)) g
      | 0x005 => s.modTeam k.tid fun t => { t with mflags := t.mflags &&& ~~~(BitVec.ofNat 8 v) }
      | 0x00E =>
        if k.gr.handler.isSome && bit v 1 then s.modTeam k.tid fun t => { t with faulted := false } else s
      | _ => s)

def execVclk (i : Slots) (s : State) : Outcome State Fault Refusal :=
  runG 0x008 s i (linesOf i false 0) fun k =>
    let v := s.vclk k.t.part k.t.ctx
    .ok (k.gr.ws i.d.idx (if bit i.imm.toNat 0 then v >>> 16 else v))

/-! ## Alarms (R407, R408) -/

/-- An alarm slot. -/
def Group.alarm (g : Group) (n : Nat) : Alarm := SMap.get Alarm.off g.alarms n
/-- Set an alarm slot. -/
def Group.setAlarm (g : Group) (n : Nat) (a : Alarm) : Group := { g with alarms := SMap.set Alarm.off g.alarms n a }

def execAlarm (i : Slots) (s : State) : Outcome State Fault Refusal :=
  runG 0x009 s i (linesOf i false 0) fun k =>
    let a := k.gr.uni i.a 0
    let dl := if bit i.imm.toNat 2 then min ((s.vclk k.t.part k.t.ctx).toNat + a) (2 ^ 64 - 1) else a
    .ok (k.gr.setAlarm (i.imm.toNat % 4) ⟨true, false, BitVec.ofNat 64 dl⟩)

def execAlcan (i : Slots) (s : State) : Outcome State Fault Refusal :=
  runG 0x00B s i ([], []) fun k =>
    .ok ((List.range 4).foldl (fun g n =>
      if bit i.imm.toNat n then g.setAlarm n { g.alarm n with armed := false, expired := false } else g) k.gr)

def execAlwait (i : Slots) (s : State) : Outcome State Fault Refusal :=
  runG 0x00A s i (linesOf i false 0) fun k =>
    let m := (List.range 4).filter fun n => bit i.imm.toNat n
    match m.find? fun n => (k.gr.alarm n).expired with
    | some n => .ok ((k.gr.setAlarm n { k.gr.alarm n with armed := false, expired := false }).ws i.d.idx (BitVec.ofNat 64 n))
    | none =>
      match k.waiting 10 with
      | some h => if h.timedOut then .ok (k.gr.ws i.d.idx 4) else .error (.hold { h with ready := false })
      | none =>
        if (m.all fun n => !(k.gr.alarm n).armed) && i.b.isNil then .ok (k.gr.ws i.d.idx 5)
        else
          let dl := if i.b.isNil then none else s.deadline k.t (k.gr.uni i.b 0)
          .error (.hold { Hold.wait 10 with started := true, deadline := dl })

/-! ## Phase, breakpoints, idempotence and context (R409-R412) -/

def execPhase (i : Slots) (s : State) : Outcome State Fault Refusal :=
  runS 0x00C s i ([], []) fun k =>
    .ok ((s.modGroup k.tid k.g fun g => { g with phase := i.imm.setWidth 16 }).optDecide (clusterOf k.t.core))

def execBrkpt (i : Slots) (s : State) : Outcome State Fault Refusal :=
  runS 0x00E s i ([], []) fun k =>
    if k.gr.handler.isSome || !(s.part k.t.part).dbgBrken then .ok s
    else
      .ok ((s.modPart k.t.part fun p => { p with dbgCode := i.imm.setWidth 8, dbgStopped := true }).openStop
        k.t.part k.t.ctx .brk)

def execIdem (i : Slots) (s : State) : Outcome State Fault Refusal :=
  runG 0x00F s i (linesOf i false 0) fun k => .ok (k.gr.ws i.d.idx (if k.t.idem && !k.t.mast then 1 else 0))

def execIdemClr (i : Slots) (s : State) : Outcome State Fault Refusal :=
  runS 0x00F s i ([], []) fun k => .ok (s.clearIdem k.tid)

def execRdctx (i : Slots) (s : State) : Outcome State Fault Refusal :=
  runG 0x010 s i (linesOf i false 0) fun k =>
    .ok (k.gr.ws i.d.idx (match i.imm.toNat % 16 with
      | 0 => BitVec.ofNat 64 k.t.ctx
      | 1 => BitVec.ofNat 64 k.t.part
      | 2 => BitVec.ofNat 64 k.t.comp
      | 3 => (s.ctx k.t.part k.t.ctx).gen.setWidth 64
      | 4 => Config.devNum.setWidth 64
      | _ => (s.part k.t.part).epoch.setWidth 64))

end Sys2Proof.Machine
end

