-- ==== Sys2Proof/Machine/Handles.lean ====
section
/-!
DEFINITION. Machine/Handles.lean: invocations and handles (18 R413-R421, 07 R175, 08 R200, R201, 06 R456): fabric windows,
descriptors, the handle resolution table, and invk, invh, hwait, htest, hrel and hget.
-/
namespace Sys2Proof.Machine

open Host (Outcome)

/-! ## Fabric windows (08 R200, 06 R456) -/

/-- A fabric window's fields; ok where it may take something. -/
structure Window where
  ok : Bool
  perm : Nat
  dev : Nat
  part : Nat
  anyPart : Bool
  base : Nat
  len : Nat
  deriving DecidableEq, Repr

/-- A range lies within populated, mappable memory (06 R135). -/
def populated (base len : Nat) : Bool :=
  let last := base + len - 1
  mappable base && mappable last && isFar base == isFar last && (isFar base || base / 0xC00000000 == last / 0xC00000000)

/-- Window i of a partition's record. -/
def State.window (s : State) (p i : Nat) : Window :=
  let a := (s.part p).recAt + 0x100 + 32 * i
  let w (j : Nat) : Nat := s.devWord p (a + 8 * j)
  let base := bits (w 1) 51 16 * 65536
  let len := bits (w 2) 51 16 * 65536
  { ok := bit (w 0) 0 && len != 0 && bits (w 0) 7 4 == 0 && decide (w 0 < 2 ^ 25) && bits (w 1) 63 52 == 0
      && bits (w 1) 15 0 == 0 && bits (w 2) 63 52 == 0 && bits (w 2) 15 0 == 0 && w 3 == 0 && populated base len
    perm := bits (w 0) 3 1, dev := bits (w 0) 19 8, part := bits (w 0) 23 20, anyPart := bit (w 0) 24, base := base, len := len }

/-- The valid windows of a partition. -/
def State.windows (s : State) (p : Nat) : List Window :=
  ((List.range 64).map (s.window p)).filter fun w => w.ok

/-- A window covers a range. -/
def Window.covers (w : Window) (pa n : Nat) : Bool := decide (w.base ≤ pa) && decide (pa + n ≤ w.base + w.len)

/-- A window admits a source with a permission, 0 read, 1 write, 2 atomic, over a range. -/
def Window.admits (w : Window) (dev part perm pa n : Nat) : Bool :=
  bit w.perm perm && w.dev == dev && (w.anyPart || w.part == part) && w.covers pa n

/-- The entries of a page table whose V bit is set. -/
def State.validEntries (s : State) (part table n : Nat) : List Nat :=
  ((List.range n).filter fun i => (s.devByte part (table + 8 * i)).getLsbD 0).map fun i => s.devWord part (table + 8 * i)

/-- A leaf is a resident page with a bit set that a range of this device's memory reaches into. -/
def leafHits (b e size pa n : Nat) : Bool :=
  let base := localPa (4096 * bits e 63 12)
  bit e 2 && bit e b && decide (pa < base + size) && decide (base < pa + n)

/-- Some page of an address space has a bit of its leaf set and lies where a range does. -/
def State.pageIn (s : State) (b part root pa n : Nat) : Bool :=
  let next (e k : Nat) : List Nat := if bit e 2 then s.validEntries part (4096 * bits e 63 12) k else []
  (s.validEntries part root 256).any fun e3 => (next e3 512).any fun e2 => (next e2 512).any fun e1 =>
    (next e1 512).any fun e0 =>
      if bit e0 1 then leafHits b e0 (2 ^ 21) pa n else (next e0 32).any fun e => leafHits b e (2 ^ 16) pa n

/-- Some page of a valid context of a partition has a bit of its leaf set and lies where a range does. -/
def State.pageOf (s : State) (b p pa n : Nat) : Bool := (s.part p).ctxs.any fun c => c.2.valid && s.pageIn b p c.2.root pa n

/-- No valid context of a partition has an execute-only page there: no remote request may read or write one (06 R147). -/
def State.open_ (s : State) (p pa n : Nat) : Bool := !s.pageOf 6 p pa n

/-- R456: the target partition of a remote request, or the DETAIL that refuses it. -/
def State.admitWin (s : State) (dev part perm pa n : Nat) : Except Nat Nat :=
  let ps := List.range 16
  if ps.any fun p => (s.part p).busy && (s.windows p).any fun w => w.covers pa n then .error 8
  else match ps.find? fun p => (s.part p).en && !(s.part p).busy && (s.windows p).any (fun w => w.admits dev part perm pa n)
      && s.open_ p pa n with
    | some p => .ok p
    | none => .error 6

/-! ## Handles (R414, R420, 08 R201) -/

def hDev (h : Nat) : Nat := bits h 63 52
def hIdx (h : Nat) : Nat := bits h 51 36
def hGen (h : Nat) : Nat := bits h 35 20
/-- A handle's word. -/
def mkHandle (dev idx gen : Nat) : Nat := dev * 2 ^ 52 + idx * 2 ^ 36 + gen * 2 ^ 20
/-- A synthesized broken handle (R414). -/
def synth (dev cause : Nat) : Nat := mkHandle dev 0xFFFF cause
/-- An entry of the handle resolution table. -/
def State.hEntry (s : State) (i : Nat) : HEntry := SMap.get HEntry.freeE s.handles i
def State.setEntry (s : State) (i : Nat) (e : HEntry) : State := { s with handles := SMap.set HEntry.freeE s.handles i e }
/-- The entry that a handle of this device resolves to. -/
def State.hresolve (s : State) (h : Nat) : Option (Nat × HEntry) :=
  let i := hIdx h
  let e := s.hEntry i
  if i < 4096 ∧ e.st ≠ 0 ∧ e.gen.toNat = hGen h then some (i, e) else none
/-- A broken status word. -/
def brokenWord (cause : Nat) : Nat := 3 + 2 ^ 8 * (cause % 256)
/-- The status word of a handle of this device, or of a synthesized one (R414). -/
def State.statusWord (s : State) (h : Nat) : Nat :=
  if hIdx h = 0xFFFF then brokenWord (hGen h)
  else match s.hresolve h with
    | none => brokenWord 3
    | some (_, e) => if e.st = 3 then brokenWord e.bcause else e.st.toNat
/-- QCOUNT. -/
def HEntry.qcount (e : HEntry) : Nat := (e.queue.filter fun q => decide (q.entry < 4096)).length
/-- Word w of the entry that a handle of this device names (R420). -/
def State.handleWord (s : State) (h w : Nat) : Nat :=
  match s.hresolve h with
  | none => (match w with | 0 => 3 | 2 => 2 ^ 32 * (s.statusWord h / 2 ^ 8) | _ => 0)
  | some (_, e) => match w with
    | 0 => e.st.toNat + 2 ^ 4 * e.part + 2 ^ 8 * e.qcount + 2 ^ 16 * e.gen.toNat + 2 ^ 32 * e.locdev + 2 ^ 44 * e.loccore
    | 1 => e.result
    | 2 => e.rlen + 2 ^ 32 * e.bcause
    | _ => 0
/-- An entry is freed. -/
def State.freeEntry (s : State) (i : Nat) : State := s.setEntry i { HEntry.freeE with gen := (s.hEntry i).gen + 1 }

/-! ## Descriptors (R415) -/

/-- An invocation descriptor. -/
structure InvDesc where
  dev : Nat
  part : Nat
  ctx : Nat
  lrec : Nat
  frame : Nat
  arglen : Nat
  rlen : Nat
  argsrc : Nat
  rest : Bool
  deriving DecidableEq, Repr

/-- The fields of 64 bytes; rest where a bit that must be 0 is set. -/
def invDesc (bs : List Byte) : InvDesc :=
  let w (i : Nat) : Nat := wordAt bs i
  { dev := bits (w 0) 11 0, part := bits (w 0) 15 12, ctx := bits (w 0) 21 16, lrec := w 1, frame := w 2
    arglen := bits (w 3) 8 0, rlen := bits (w 3) 47 32, argsrc := w 4
    rest := decide (2 ^ 22 ≤ w 0) || decide (2 ^ 56 ≤ w 1) || decide (2 ^ 56 ≤ w 2) || bits (w 3) 31 9 != 0
      || bits (w 3) 63 48 != 0 || decide (2 ^ 56 ≤ w 4) || w 5 != 0 || w 6 != 0 || w 7 != 0 }

/-- A field out of its range (08 R185, R415). -/
def InvDesc.bad (d : InvDesc) : Bool := d.frame % 64 != 0 || decide (256 < d.arglen)

/-! ## Acceptance (R416, R417) -/

/-- Bytes written to a context's memory by the device, in pieces within 32-byte sectors; none where a page is absent. -/
def State.writeCtx (s : State) (p c va : Nat) (bs : List Byte) : Option State :=
  (List.range (ceilDiv bs.length 32)).foldl (fun (r : Option State) i => match r with
    | none => none
    | some x => match x.translate p c 0 .image (va + 32 * i) with
      | .ok (.mem pa key) => some (x.homeWrite key pa ((bs.drop (32 * i)).take 32))
      | _ => none) (some s)

/-- 128 bytes of a context's memory read by the device. -/
def State.readCtx (s : State) (p c va : Nat) : Option (List Byte) :=
  (List.range 4).foldl (fun (r : Option (List Byte)) i => match r with
    | none => none
    | some bs => match s.translate p c 0 .image (va + 32 * i) with
      | .ok (.mem pa key) => some (bs ++ s.homeBytes key pa 32)
      | _ => none) (some [])

/-- The page of a frame is exported with write permission to the invoker (R416). -/
def State.frameOpen (s : State) (q : QInv) (d : InvDesc) : Bool :=
  match s.walk d.part (s.ctx d.part d.ctx).root .image d.frame with
  | .error _ => false
  | .ok lf =>
    let pa := 4096 * bits lf.entry 63 12
    !(bit pa 51) && (s.windows d.part).any fun w => w.admits q.src q.spart 1 pa lf.size

/-- An invocation is accepted into the lowest free entry, or refused with a cause of R414 (R416, R177). -/
def State.accept (s : State) (q : QInv) : Except Nat (State × QInv) :=
  let d := invDesc q.desc
  if (s.part d.part).busy then .error 7
  else
    let s0 := s.loadCtx d.part d.ctx
    if !(s0.ctx d.part d.ctx).valid || d.rest || d.bad || !s0.frameOpen q d then .error 6
    else match (List.range 4096).find? fun i => (s0.hEntry i).st = 0 with
      | none => .error 5
      | some i =>
        let (n, s1) := s0.takeLaunch d.part
        let e := { HEntry.freeE with
          st := 1, gen := (s1.hEntry i).gen, part := d.part, locdev := Config.devNum.toNat
          result := (d.frame + 0x140) % 2 ^ 56, rlen := d.rlen }
        .ok (s1.setEntry i e, { q with entry := i, launch := n })

/-- The handle of an entry of this device. -/
def State.handleOf (s : State) (i : Nat) : Nat := mkHandle Config.devNum.toNat i (s.hEntry i).gen.toNat

/-- An accepted invocation runs: its frame header is written and its grid started (R417). The answer says whether the
grid was started. -/
def State.runInv (s : State) (q : QInv) : State × Bool :=
  let d := invDesc q.desc
  let up := q.up.getD 0
  let ue := q.up.bind s.hresolve
  let hdr := toBytes 8 (s.handleOf q.entry) ++ toBytes 8 up ++ toBytes 8 ((ue.map fun e => e.2.result).getD 0)
    ++ toBytes 8 ((ue.map fun e => e.2.rlen).getD 0)
  let w := (s.writeCtx d.part d.ctx d.frame hdr).bind fun x => x.writeCtx d.part d.ctx (d.frame + 0x40) q.args
  let s1 := w.getD s
  let bs := if w.isNone ∨ d.lrec % 128 ≠ 0 then none else s1.readCtx d.part d.ctx d.lrec
  let l := (bs.bind parseLaunch).map fun x => { x with ctx := d.ctx, args := d.frame }
  s1.startGrid d.part q.launch d.lrec l (q.entry + 1)

/-! ## Order queues (07 R175, R418) -/

/-- The order of an issuer at an entry. -/
def HEntry.order (e : HEntry) (src issuer : Nat) : HOrder :=
  (e.orders.find? fun o => o.src == src && o.issuer == issuer).getD ⟨src, issuer, 0, none⟩

def HEntry.setOrder (e : HEntry) (o : HOrder) : HEntry :=
  { e with orders := o :: e.orders.filter fun x => !(x.src == o.src && x.issuer == o.issuer) }

/-- An entry of the handle table still to become ready or broken: index, state, cause. -/
abbrev HTask := Nat × Nat × Nat

/-- The queued invocations that are due run, in queue order and each issuer's in sequence order (R175). -/
def State.deliver_ : Nat → Nat → State → List HTask → State × List HTask
  | 0, _, s, ts => (s, ts)
  | n + 1, i, s, ts =>
    let e := s.hEntry i
    match e.queue.find? fun q => (e.order q.src q.issuer).next == q.seqNo with
    | none => (s, ts)
    | some q =>
      let o := e.order q.src q.issuer
      let s1 := s.setEntry i
        ({ e with queue := e.queue.filter fun x => x != q }.setOrder { o with next := (o.next + 1) % 65536 })
      if (s1.hEntry q.entry).st ≠ 1 ∨ 4096 ≤ q.entry then State.deliver_ n i s1 ts
      else
        let r := s1.runInv q
        State.deliver_ n i r.1 (if r.2 then ts else ts ++ [(q.entry, 3, 1)])

/-- All of them: no more run than the queue holds. -/
def State.deliverAll (s : State) (i : Nat) : State × List HTask := State.deliver_ (s.hEntry i).queue.length i s []

/-- The handle of an operation of this device's own group is final (R413, 09 R207). -/
def State.giveHandle (s : State) (w : Nat × Nat × Nat × Operand) (h : Nat) : State :=
  (s.modGroup w.1 w.2.1 fun g => g.ws w.2.2.2.idx (BitVec.ofNat 64 h)).endOp w.1 w.2.1 w.2.2.1

/-- An invocation reaches its upstream entry (R418): what is still to settle, and its handle; none where it is refused
with busy (R175). -/
def State.arriveUp (s : State) (q : QInv) : State × List HTask × Option Nat :=
  let up := q.up.getD 0
  let lost (c : Nat) : State × List HTask × Option Nat := (s, [], some (synth Config.devNum.toNat c))
  match s.hresolve up with
  | none => lost 3
  | some (i, e) =>
    if e.st = 3 then lost 3
    else match e.queue.find? fun x => x.src == q.src && x.issuer == q.issuer && x.seqNo == q.seqNo with
      | some x => (s, [], some (s.handleOf x.entry))
      | none =>
        let o := e.order q.src q.issuer
        let held : Bool := match o.back with | some b => b != q.seqNo | none => false
        if 32 ≤ e.qcount ∨ held then
          (s.setEntry i (e.setOrder { o with back := some (o.back.getD q.seqNo) }), [], none)
        else
          let r := s.accept q
          let s1 := match r with | .ok (x, _) => x | .error _ => s
          let item : QInv := match r with | .ok (_, y) => y | .error _ => { q with entry := 4096 }
          let h := match r with | .ok (x, y) => x.handleOf y.entry | .error c => synth Config.devNum.toNat c
          let e1 := s1.hEntry i
          let s2 := s1.setEntry i ({ e1 with queue := e1.queue ++ [item] }.setOrder { o with back := none })
          if e.st = 2 then
            let d := s2.deliverAll i
            (d.1, d.2, some h)
          else (s2, [], some h)

/-- A local invocation that is refused with busy waits at the entry to arrive again (07 R175). -/
def State.waitOver (s : State) (q : QInv) : State :=
  let i := hIdx (q.up.getD 0)
  let e := s.hEntry i
  s.setEntry i { e with late := e.late ++ [q] }

/-- Local arrivals that found the queue full arrive again, in order. -/
def State.lateAgain (late : List QInv) (d : State × List HTask) : State × List HTask :=
  late.foldl (fun (x : State × List HTask) q =>
    let r := x.1.arriveUp q
    match r.2.2, q.who with
    | some h, some w => (r.1.giveHandle w h, x.2 ++ r.2.1)
    | some _, none => (r.1, x.2 ++ r.2.1)
    | none, _ => (r.1.waitOver q, x.2)) d

/-- The device answers a query of another device about a handle (R419). -/
def State.answerQuery (s : State) (req : Packet) (payload : List Byte) : State :=
  s.respond req 0x0C (s.hEntry (hIdx req.addr.toNat)).part req.addr.toNat (s.statusWord req.addr.toNat) 0 payload

/-- An entry becomes ready or broken (R417, R418): its watchers are answered, its queue starts or breaks, and local
arrivals that found the queue full arrive again. -/
def State.settle1 (s : State) (t : HTask) : State × List HTask :=
  let e := s.hEntry t.1
  if e.st ≠ 1 ∧ ¬(e.st = 2 ∧ t.2.1 = 3) then (s, [])
  else
    let s1 := s.setEntry t.1 { e with
      st := BitVec.ofNat 2 t.2.1, bcause := t.2.2, late := [], watch := []
      queue := if t.2.1 = 3 then [] else e.queue }
    let s2 := e.watch.foldl (fun (x : State) p => x.answerQuery p []) s1
    let d := if t.2.1 = 3 then (s2, (e.queue.filter fun q => decide (q.entry < 4096)).map fun q => (q.entry, 3, 3))
      else s2.deliverAll t.1
    State.lateAgain e.late d

/-- Settle entries, and those that settle with them, in turn. -/
def State.settleAll_ : Nat → List HTask → State → State
  | 0, _, s => s
  | _, [], s => s
  | n + 1, t :: ts, s =>
    let r := s.settle1 t
    State.settleAll_ n (r.2 ++ ts) r.1

/-- Entries become ready or broken. -/
def State.hSettle (s : State) (ts : List HTask) : State := State.settleAll_ 16384 ts s

/-- Entries settle after an arrival at a handle, and with room in its queue its late arrivals come again. -/
def State.settleLate (s : State) (i : Nat) (ts : List HTask) : State :=
  let s1 := s.hSettle ts
  let e := s1.hEntry i
  if e.st ≠ 2 ∨ e.late.isEmpty then s1
  else
    let r := State.lateAgain e.late (s1.setEntry i { e with late := [] }, [])
    r.1.hSettle r.2

/-- An accepted invocation that waits for nothing runs at once. -/
def State.runNow (s : State) (q : QInv) : State :=
  let r := s.runInv q
  if r.2 then r.1 else r.1.hSettle [(q.entry, 3, 1)]

/-! ## invk and invh (R413-R418) -/

/-- The descriptor of an instruction, checked (R415). -/
def State.readDesc (s : State) (k : Iss) (va : Nat) (inv : Bool) : Except (Bail × State) (Option (List Byte) × State) :=
  match s.readRec k va 64 64 false with
  | .error b => .error b
  | .ok (none, s1) => .ok (none, s1)
  | .ok (some bs, s1) =>
    let d := invDesc bs
    if d.rest || d.bad || (inv && d.dev != 0) then .error (.t 2 0xFF (barAddr va), s1) else .ok (some bs, s1)

/-- The invocation packet (R436). -/
def invPacket (t : Team) (kind dev addr arg part : Nat) (payload : List Byte) : Packet :=
  { mkPacket kind t.part dev t.core addr arg payload with dpart := BitVec.ofNat 4 part }

/-! ## Reads after issue (10 R238, R240, R415) -/

/-- The sectors of such a read. -/
def SrcRead.count (r : SrcRead) : Nat := if r.n = 0 then 0 else ceilDiv (r.va % 32 + r.n) 32
/-- Every sector is in. -/
def SrcRead.whole (r : SrcRead) : Bool := (List.range r.count).all fun i => (SMap.find r.got i).isSome
/-- Its bytes, once whole. -/
def SrcRead.bytes (r : SrcRead) : List Byte :=
  sliceD 0#8 ((List.range r.count).flatMap fun i => SMap.get [] r.got i) (r.va % 32) r.n
/-- It leads to an invocation. -/
def SrcRead.invokes (r : SrcRead) : Bool := match r.work with | .invoke _ _ _ => true | .coll => false
/-- It is of an earlier invocation of the same group to the same handle, which goes first (07 R175). -/
def SrcRead.leads (e r : SrcRead) : Bool :=
  e.tid == r.tid && e.g == r.g && match e.work, r.work with
    | .invoke _ _ (some h), .invoke _ _ (some h') => h == h'
    | _, _ => false

/-- The number of a group that forwards an invocation, and the state that remembers it. -/
def State.issuerNo (s : State) (tid g : Nat) : Nat × State :=
  match s.issuers.findIdx? fun x => x == (tid, g) with
  | some n => (n % 65536, s)
  | none => (s.issuers.length % 65536, { s with issuers := s.issuers ++ [(tid, g)] })

/-- The key of the sequence of a number's invocations to a handle. -/
def seqKey (n h : Nat) : Nat := n * 2 ^ 64 + h
/-- The sequence number that an issuer's next invocation to a handle takes (07 R175). -/
def State.invSeq (s : State) (n h : Nat) : Nat := (SMap.get (0 : BitVec 16) s.invSeqs (seqKey n h)).toNat
/-- Set it. -/
def State.setInvSeq (s : State) (n h seq : Nat) : State :=
  { s with invSeqs := SMap.set 0 s.invSeqs (seqKey n h) (BitVec.ofNat 16 seq) }

/-- The sequence number and the number of the issuing group that a forwarded invocation's ARG carries: the group keeps it
wherever it runs (log 13). -/
def forwardArg (issuer seq : Nat) : Nat := seq + 2 ^ 16 * (issuer % 2 ^ 16)

/-- An invocation whose argument bytes are in goes to its device, or is served here (R416, R418). -/
def State.invSend (s : State) (t : Team) (r : SrcRead) (bs : List Byte) (od : Operand) (up : Option Nat) : State :=
  let d := invDesc bs
  let who := (r.tid, r.g, r.id, od)
  let args := r.bytes
  match up with
  | none =>
    if d.dev = Config.devNum.toNat then
      match s.accept ⟨d.dev, t.part, 16 * r.tid + r.g, 0, bs, args, none, 0, 0, none⟩ with
      | .error c => s.giveHandle who (synth d.dev c)
      | .ok (s1, q) => (s1.giveHandle who (s1.handleOf q.entry)).runNow q
    else
      (s.request t.core 2 (invPacket t 0x0A d.dev 0 0 d.part (bs ++ args)) (.invoke r.tid r.g r.id od none 0 (bs ++ args))).getD
        (s.giveHandle who (synth d.dev 4))
  | some h =>
    let no := s.issuerNo r.tid r.g
    let seq := no.2.invSeq no.1 h
    let s1 := no.2.setInvSeq no.1 h (seq + 1)
    if hDev h = Config.devNum.toNat then
      let q : QInv := ⟨hDev h, t.part, no.1, seq, bs, args, some h, 0, 0, some who⟩
      match s1.arriveUp q with
      | (s2, ts, some x) => (s2.giveHandle who x).settleLate (hIdx h) ts
      | (s2, _, none) => s2.waitOver q
    else
      (s1.request t.core 2 (invPacket t 0x0B (hDev h) h (forwardArg no.1 seq) d.part (bs ++ args))
        (.invoke r.tid r.g r.id od (some h) seq (bs ++ args))).getD (s.giveHandle who (synth (hDev h) 4))

/-- The first invocation whose arguments are in and that no earlier one of its group to its handle leads. -/
def State.invReady (s : State) : Option SrcRead :=
  (s.srcs.zipIdx.find? fun x => x.1.invokes && x.1.whole && !((s.srcs.take x.2).any fun e => e.leads x.1)).map Prod.fst

/-- A read after issue ends. -/
def State.dropSrc (s : State) (id : Nat) : State := { s with srcs := s.srcs.filter fun r => r.id != id }

/-- Every invocation that may go does. -/
def State.invGo : Nat → State → State
  | 0, s => s
  | n + 1, s => match s.invReady with
    | none => s
    | some r =>
      let s1 := s.dropSrc r.id
      State.invGo n (match r.work, s.team? r.tid with
        | .invoke bs d up, some t => s1.invSend t r bs d up
        | _, _ => s1)

/-- The operation of an invocation begins: its argument bytes are still to be read. -/
def State.invStart (s : State) (k : Iss) (od : Operand) (bs : List Byte) (up : Option Nat) : State :=
  let (id, s1) := s.newOp
  let s2 := (s1.modGroup k.tid k.g fun g => g.addOp id .col).clearIdem k.tid
  let d := invDesc bs
  let s3 : State := { s2 with srcs := s2.srcs ++ [⟨k.tid, k.g, id, d.argsrc, d.arglen, [], [], .invoke bs od up⟩] }
  State.invGo s3.srcs.length s3

def execInvk (i : Slots) (s : State) : Outcome State Fault Refusal :=
  runH 0x341 s i (linesOf i false 0) fun k =>
    match s.readDesc k (k.gr.uni i.a 0) false with
    | .error b => .error b
    | .ok (none, s1) => .ok (s1, some gatherHold)
    | .ok (some bs, s1) => match k.gr.counterWait .col with
      | .error b => .error (b, s)
      | .ok () => .ok (s1.invStart k i.d bs none, none)

/-- A malformed handle takes illegal operand (R414). -/
def handleArg (k : Iss) (a : Operand) : Except Bail Nat :=
  let h := k.gr.uni a 0
  if h % 2 ^ 20 ≠ 0 then .error (.t 3 2 h) else .ok h

def execInvh (i : Slots) (s : State) : Outcome State Fault Refusal :=
  runH 0x342 s i (linesOf i false 0) fun k =>
    match handleArg k i.a with
    | .error b => .error (b, s)
    | .ok h => match s.readDesc k (k.gr.uni i.b 0) true with
      | .error b => .error b
      | .ok (none, s1) => .ok (s1, some gatherHold)
      | .ok (some bs, s1) => match k.gr.counterWait .col with
        | .error b => .error (b, s)
        | .ok () => .ok (s1.invStart k i.d bs (some h), none)

/-! ## Waiting, testing, reading and freeing (R419, R420) -/

/-- Word w of a handle whose device no INVK path reaches: broken, cause 4 (R419). -/
def noPathWord (w : Nat) : Nat := match w with | 0 => 3 | 2 => 2 ^ 32 * 4 | _ => 0

/-- The tag of a query as a wait holds it until the answer comes. -/
def tagWord (t : W32) : W64 := t.setWidth 64 + 0x10000000000

/-- The device that must be asked about a handle; none where this device answers. -/
def remoteHandle (h : Nat) : Option Nat :=
  if hIdx h = 0xFFFF ∨ hDev h = Config.devNum.toNat then none else some (hDev h)

/-- A query about a handle of another device: 1 wait, 2 status, 3 free, 4 and up a word (log 13); none without an INVK
path. -/
def State.query (s : State) (k : Iss) (dev h code : Nat) (why : ReqFor) : Option State :=
  s.request k.t.core 2 (invPacket k.t 0x0C dev h (4 * code) 0 []) why

/-- What hwait does with a status word that is not pending (R419). -/
def hwaitEnd (s : State) (k : Iss) (i : Slots) (h w : Nat) : Except Bail (State × Option Hold) :=
  let out (x : State) : State := if i.d.isNil then x else x.modGroup k.tid k.g fun g => g.ws i.d.idx (BitVec.ofNat 64 w)
  if w % 4 = 2 then .ok (out (s.acquire k.t.core k.tid .sys), none)
  else if w % 4 = 3 ∧ !(bit i.imm.toNat 0) then .error (.t 11 0 h)
  else .ok (out s, none)

/-- The wait that hwait begins. -/
def hwaitHold (s : State) (k : Iss) (i : Slots) (answer : Option W64) : Hold :=
  { Hold.wait 11 with
    started := true, answer := answer, deadline := if i.b.isNil then none else s.deadline k.t (k.gr.uni i.b 0) }

/-- Queries of a group that it no longer waits for. -/
def State.dropQueries (s : State) (tid g : Nat) : State :=
  { s with reqs := s.reqs.filter fun r => match r.why with | .handle t x _ code => code == 2 || !(t == tid && x == g) | _ => true }

/-- hwait (R419): ready or broken wins over a time-out. -/
def execHwait (i : Slots) (s : State) : Outcome State Fault Refusal :=
  runH 0x343 s i (linesOf i false 0) fun k => failIn s <|
    match handleArg k i.a with
    | .error b => .error b
    | .ok h => match remoteHandle h with
      | none =>
        let w := s.statusWord h
        if w % 4 ≠ 1 then hwaitEnd s k i h w
        else match k.waiting 11 with
          | some x => if x.timedOut then hwaitEnd s k i h (w + 2 ^ 16) else .error (.hold { x with ready := false })
          | none => .error (.hold (hwaitHold s k i none))
      | some dev => match k.waiting 11 with
        | some x =>
          if x.passed then hwaitEnd s k i h (x.answer.getD 0).toNat
          else if x.timedOut then hwaitEnd (s.dropQueries k.tid k.g) k i h (1 + 2 ^ 16)
          else .error (.hold { x with ready := false })
        | none => match s.query k dev h 1 (.handle k.tid k.g i.d 1) with
          | none => hwaitEnd s k i h (brokenWord 4)
          | some s1 => .ok (s1, some (hwaitHold s k i (some (tagWord s.nextTag))))

/-- htest (R419): never waits; of a remote handle the answer is written when it arrives. -/
def execHtest (i : Slots) (s : State) : Outcome State Fault Refusal :=
  runH 0x344 s i (linesOf i false 0) fun k => failIn s <|
    match handleArg k i.a with
    | .error b => .error b
    | .ok h =>
      let out (w : Nat) : Except Bail (State × Option Hold) :=
        let x := if w % 4 = 2 then s.acquire k.t.core k.tid .sys else s
        .ok (x.modGroup k.tid k.g fun g => g.ws i.d.idx (BitVec.ofNat 64 w), none)
      match remoteHandle h with
      | none => out (s.statusWord h)
      | some dev => match s.query k dev h 2 (.handle k.tid k.g i.d 2) with
        | none => out (brokenWord 4)
        | some s1 => .ok (s1, none)

/-- A handle is freed where its entry is ready or broken (R420). -/
def State.release_ (s : State) (h : Nat) : State :=
  match s.hresolve h with
  | some (i, e) => if e.st = 2 ∨ e.st = 3 then s.freeEntry i else s
  | none => s

/-- The handle is no longer one of this partition's running invocations elsewhere (19 R435). -/
def State.home_ (s : State) (part dev h : Nat) : State :=
  s.modPart part fun p => { p with abroad := p.abroad.filter fun x => x != (dev, h) }

def execHrel (i : Slots) (s : State) : Outcome State Fault Refusal :=
  runH 0x345 s i (linesOf i false 0) fun k => failIn s <|
    match handleArg k i.a with
    | .error b => .error b
    | .ok h =>
      let s1 := s.clearIdem k.tid
      match remoteHandle h with
      | none => .ok (if hIdx h = 0xFFFF then s1 else s1.release_ h, none)
      | some dev =>
        let p := { invPacket k.t 0x0C dev h 12 0 [] with rtag := s1.nextTag }
        .ok ((({ s1 with nextTag := s1.nextTag + 1 } : State).send k.t.core 2 p).getD s1, none)

def execHget (i : Slots) (s : State) : Outcome State Fault Refusal :=
  runH 0x346 s i (linesOf i false 0) fun k => failIn s <|
    match handleArg k i.a with
    | .error b => .error b
    | .ok h =>
      let w := i.imm.toNat % 4
      let out (v : Nat) : Except Bail (State × Option Hold) :=
        .ok (s.modGroup k.tid k.g fun g => g.ws i.d.idx (BitVec.ofNat 64 v), none)
      match remoteHandle h with
      | none => out (s.handleWord h w)
      | some dev => match k.waiting 12 with
        | some x => if x.passed then out (x.answer.getD 0).toNat else .error (.hold { x with ready := false })
        | none => match s.query k dev h (4 + w) (.handle k.tid k.g i.d (4 + w)) with
          | none => out (noPathWord w)
          | some s1 => .ok (s1, some { Hold.wait 12 with started := true, answer := some (tagWord s.nextTag) })

/-! ## Results (R417) -/

/-- A release of an invoked grid's stores is under way. -/
def State.gridReleasing (s : State) (part launch : Nat) : Bool := s.releases.any fun r => r.why == .grid part launch

/-- The cores that a grid's teams are on, each with one of the teams. -/
def State.gridCores (s : State) (part launch : Nat) : List (Nat × Nat) :=
  ((s.gridTeams part launch).map fun e => (e.2.core, e.1)).foldl
    (fun (r : List (Nat × Nat)) c => if r.any fun y => y.1 == c.1 then r else r ++ [c]) []

/-- The release at system scope of the stores of a grid's groups (R417): on each core its teams are on, and, in a partition
limited to tenant scope, one release demoted (09 R220). -/
def State.releaseGrid (s : State) (part launch : Nat) : State :=
  let ts := s.gridTeams part launch
  let s1 := ts.foldl (fun (x : State) e => x.writeMap e.1) s
  let cores := s.gridCores part launch
  let n := satAdd (s1.part part).demote (b2n ((s1.part part).tenlim && !cores.isEmpty))
  (cores.foldl (fun (x : State) c =>
    x.releaseSteps c.1 c.2 0 part 0 0 .sys 255 [] (.grid part launch)) s1).modPart part fun p => { p with demote := n }

/-- INVOCATION_RESULT_READY: the grid of an invocation has completed (R417). Its stores are released, which may await
acknowledgements, and waits while a path update to one of its destinations is pending (08 R199); then its entry becomes
ready, or broken, and the grid leaves. -/
def execInvocationResultReady (part launch : Nat) (s : State) : Outcome State Fault Refusal :=
  match (s.part part).grids.find? fun g => g.launch == launch with
  | none => .fault .notEnabled
  | some g => match g.status with
    | none => .fault .notEnabled
    | some st =>
      let starts := !g.releasing && st == 0
      if s.gridReleasing part launch || (starts && (s.gridCores part launch).any fun c => s.updatePending c.1 255 []) then
        .fault .notEnabled
      else
        let s1 := if !starts then s else
          (s.releaseGrid part launch).modPart part fun q => { q with grids := q.grids.map fun x =>
            if x.launch = launch then { x with releasing := true } else x }
        if s1.gridReleasing part launch then .next s1
        else .next ((s1.dropGrid part launch).hSettle [(g.invoked - 1, if st = 0 then 2 else 3, if st = 0 then 0 else 1)])

end Sys2Proof.Machine
end

