-- ==== Sys2Proof/Machine/Endpoints.lean ====
section
/-!
DEFINITION. Machine/Endpoints.lean: endpoints, the brine queue and patience (03 R68-R75, 07 R171, R172, 08 R202,
18 R422-R424, 19 R433, 25 R452, R453): arrivals, stand-ins, epsend, eprecv and epstand, and the host's posts.
-/
namespace Sys2Proof.Machine

open Host (Outcome)

/-! ## Entries and peers (R202, R422) -/

/-- An endpoint entry of a context. -/
def State.ep (s : State) (p c e : Nat) : Ep := SMap.get Ep.unbound (s.ctx p c).eps e

/-- The peer is an endpoint of another context. -/
def Ep.isEnd (x : Ep) : Bool := bit x.peer.toNat 63
/-- The mailbox of a host peer (R433). -/
def Ep.mailbox (x : Ep) : Nat := bits x.peer.toNat 55 12 * 4096
/-- The word that names an endpoint as a peer. -/
def peerWord (dev part ctx ep : Nat) : Nat := dev + 2 ^ 12 * part + 2 ^ 16 * ctx + 2 ^ 22 * ep + 2 ^ 63

/-- A slot of a mailbox is free. -/
def State.mailFree (s : State) (base : Nat) : Bool :=
  decide ((s.hostWord base + 2 ^ 64 - s.hostWord (base + 8)) % 2 ^ 64 < 14)
/-- Write the next slot of a mailbox and its posting count (R433). -/
def State.mailPut (s : State) (base w0 : Nat) (body : List Byte) : State :=
  let n := s.hostWord base
  (s.hostWrite (base + 0x100 + 272 * (n % 14)) (toBytes 8 w0 ++ List.replicate 8 0#8 ++ body)).hostWrite base (toBytes 8 (n + 1))
/-- Word 0 of a slot. -/
def slotWord (len : Nat) (ask reply mark : Bool) (status ident : Nat) : Nat :=
  len + 2 ^ 9 * b2n ask + 2 ^ 10 * b2n reply + 2 ^ 11 * b2n mark + 2 ^ 12 * status + 2 ^ 16 * ident

/-- The oldest held slot of a context whose mailbox has room, with its place: the slots of one mailbox go in the order in which
they were held, and those of another do not wait for them (R433, R453). -/
def State.owedSlot (s : State) (p c : Nat) : Option (Nat × Deferred) :=
  (((s.ctx p c).deferred.zipIdx).find? fun x => s.mailFree x.1.ep).map fun x => (x.2, x.1)

/-- The held slots of a context that can be written are written, oldest first (R453). -/
def State.flushMail (s : State) (p c : Nat) : Nat → State
  | 0 => s
  | n + 1 => match s.owedSlot p c with
    | none => s
    | some (i, d) =>
      ((s.mailPut d.ep d.word0.toNat d.body).modCtx p c fun x =>
        { x with deferred := x.deferred.eraseIdx i, standins := satAdd x.standins (b2n d.counts) }).flushMail p c n

/-- A slot that the device owes a mailbox is written, or held while the mailbox is full. Deferred.ep names the mailbox. -/
def State.owePost (s : State) (p c base w0 : Nat) (body : List Byte) (counts : Bool) : State :=
  (s.modCtx p c fun x => { x with deferred := x.deferred ++ [⟨base, BitVec.ofNat 64 w0, body, counts⟩] }).flushMail p c 64

/-! ## Arrivals (R69, R72, R74, R172, R452) -/

/-- A message as it is sent, before it arrives. -/
def mkMsg (ep : Nat) (bytes : List Byte) (ask reply standin : Bool) (status : Nat) (peer : Peer) : Msg :=
  { ident := 0, ep := ep, bytes := bytes, ask := ask, reply := reply, standin := standin, status := status, stamp := 0
    real := false, born := 0, patience := 0, mode := 0, peer := peer }

/-- A packet that a unit of the device sends. -/
def State.unitSend (s : State) (p : Packet) : State :=
  match s.pathsTo p.ddev.toNat 0 with
  | [] => s
  | q :: qs =>
    let (c, s1) := s.drawChoice
    ({ s1 with nextTag := s1.nextTag + 1 } : State).sendAny { p with rtag := s1.nextTag } (((q :: qs)[c % (q :: qs).length]?).getD q)

/-- The packet of an endpoint message (R436); ADDR holds what the spec places nowhere (log 13). -/
def epPacket (part core dev dpart dctx dep sctx sep : Nat) (m : Msg) (ident : Nat) : Packet :=
  { mkPacket 0x0D part dev core (dctx + 2 ^ 8 * sctx + 2 ^ 16 * sep + 2 ^ 24 * b2n m.standin + 2 ^ 32 * m.status)
      (dep + 2 ^ 6 * b2n m.reply + 2 ^ 7 * b2n m.ask + 2 ^ 16 * ident) m.bytes with dpart := BitVec.ofNat 4 dpart }

/-- A message enters a queue of its endpoint, or is refused with a status of R422: the status, the identifier and the
state. -/
def State.enterQueue (s : State) (p c : Nat) (m : Msg) : Nat × Nat × State :=
  let x := s.ctx p c
  let e := s.ep p c m.ep
  let stopped := x.stop.isSome
  let q := SMap.get [] x.recvq m.ep
  let brine := stopped || !x.brine.isEmpty || decide (32 ≤ q.length)
  if stopped && e.mode = 2 then (2, 0, s)
  else if brine && decide (64 ≤ x.brine.length) then
    (3, 0, s.modCtx p c fun y => { y with brineDrop := satAdd y.brineDrop 1 })
  else
    let v := vclkOf s x
    let prev := (x.brine.getLast?).map fun b => b.stamp
    let stamp := if stopped then s.rclk else match prev with
      | some b => if v < b then b else v
      | none => v
    let m1 := { m with
      ident := x.nextId, stamp := stamp, real := stopped, born := s.rclk
      patience := if m.ask then e.patience.toNat else 0, mode := e.mode.toNat }
    (0, x.nextId.toNat, s.modCtx p c fun y =>
      if brine then { y with nextId := y.nextId + 1, brine := y.brine ++ [m1] }
      else { y with nextId := y.nextId + 1, recvq := SMap.set [] y.recvq m.ep (q ++ [m1]) })

/-- The message of a context with an identifier, that waits or has been taken. -/
def Context.allMsgs (x : Context) : List Msg := x.brine ++ x.recvq.flatMap (fun e => e.2) ++ x.taken

/-- Change the messages with an identifier. -/
def Context.modMsg (x : Context) (ident : Nat) (f : Msg → Msg) : Context :=
  let g (m : Msg) : Msg := if m.ident.toNat = ident then f m else m
  { x with brine := x.brine.map g, taken := x.taken.map g, recvq := x.recvq.map fun e => (e.1, e.2.map g) }

/-- A message from an endpoint of another context may arrive: its endpoint is valid, and the entry's PEER names the sender
(R202, R422). -/
def State.takes (s : State) (p c : Nat) (m : Msg) : Bool :=
  match m.peer with
  | .endpoint dev part ctx ep _ =>
    let e := s.ep p c m.ep
    (s.ctx p c).valid && e.v && e.isEnd && e.peer.toNat % 2 ^ 28 + 2 ^ 63 == peerWord dev part ctx ep
  | .host _ => false

/-- A stand-in or notice goes to an endpoint of another context (R453). Of this device it arrives at once, where it may. -/
def State.toPeer (s : State) (p c : Nat) (m : Msg) (bytes : List Byte) (standin : Bool) (status : Nat) : State :=
  match m.peer with
  | .host _ => s
  | .endpoint dev part ctx ep tag =>
    let n := mkMsg ep bytes false true standin status (.endpoint Config.devNum.toNat p c m.ep m.ident.toNat)
    if dev = Config.devNum.toNat then (if s.takes part ctx n then (s.enterQueue part ctx n).2.2 else s)
    else s.unitSend (epPacket p 0 dev part ctx ep c m.ep n tag)

/-- A read that a unit of the device asks of another device. -/
def State.unitRead (s : State) (part dev pa : Nat) (why : ReqFor) : State :=
  match s.pathsTo dev 0 with
  | [] => s
  | q :: qs =>
    let (c, s1) := s.drawChoice
    let tag := s1.nextTag
    ({ s1 with nextTag := tag + 1, reqs := s1.reqs ++ [⟨tag, dev, why⟩] } : State).sendAny
      { mkPacket 1 part dev 0 pa 32 [] with rtag := tag } (((q :: qs)[c % (q :: qs).length]?).getD q)

/-- A stand-in, or in place of one that cannot be read the status target stopped, goes to a message's peer (R70, R453). -/
def State.standinOut (s : State) (p c : Nat) (m : Msg) (bs : Option (List Byte)) : State :=
  match m.peer with
  | .host _ =>
    let box := (s.ep p c m.ep).mailbox
    (match bs with
    | some b => s.owePost p c box (slotWord b.length false true true 0 m.ident.toNat) b true
    | none => s.owePost p c box (slotWord 0 false true false 2 m.ident.toNat) [] false)
  | .endpoint _ _ _ _ _ => match bs with
    | some b => (s.modCtx p c fun x => { x with standins := satAdd x.standins 1 }).toPeer p c m b true 0
    | none => s.toPeer p c m [] false 2

/-- The places of a stand-in's sectors, none where it has none or some sector cannot be read (R70). -/
def State.standinLocs (s : State) (p c : Nat) (e : Ep) : Option (List Loc) :=
  let a := e.standin.toNat
  let n := ceilDiv (a % 32 + min e.standlen.toNat 256) 32
  let ls := (List.range n).filterMap fun i => match s.translate p c 0 .load (a - a % 32 + 32 * i) with
    | .ok (.remote d pa) => if (s.pathsTo d 0).isEmpty then none else some (Loc.remote d pa)
    | .ok l => some l
    | .error _ => none
  if a = 0 ∨ ls.length ≠ n then none else some ls

/-- The stand-in leaves once every sector is here. -/
def State.standinGo (s : State) (p c : Nat) (r : StandRead) : State :=
  if r.got.length < r.sectors then s.modCtx p c fun x => { x with standing := x.standing ++ [r] }
  else s.standinOut p c r.msg (some (sliceD 0#8 ((List.range r.sectors).flatMap fun i => SMap.get [] r.got i) r.lead r.len))

/-- A message gets its stand-in, or its peer the status target stopped, and is flagged: each sector of the buffer is read
once now, one of another device by a request (R70, R453). A buffer that meets a lasting error cannot be read (06 R154). -/
def State.sendStandin (s : State) (p c : Nat) (m : Msg) : State :=
  let s1 := s.modCtx p c fun x => x.modMsg m.ident.toNat fun y => { y with standin := true, patience := 0 }
  let e := s.ep p c m.ep
  match s.standinLocs p c e with
  | none => s1.standinOut p c m none
  | some ls =>
    let here := ls.zipIdx.filterMap fun x => match x.1 with
      | .mem pa key => some (x.2, s.homeBytes key pa 32)
      | _ => none
    let er := ls.foldl (fun (r : State × Bool) l => match r.2, l with
      | false, .mem pa _ => r.1.servedErr p pa 32
      | _, _ => r) (s1, false)
    if er.2 then er.1.standinOut p c m none
    else
    let s2 := ls.zipIdx.foldl (fun (y : State) x => match x.1 with
      | .remote d pa => y.unitRead p d pa (.standin p c m.ident.toNat x.2)
      | _ => y) er.1
    s2.standinGo p c ⟨m, e.standin.toNat % 32, min e.standlen.toNat 256, ls.length, here⟩

/-- A sector of a stand-in has come from another device, or its read was refused. -/
def State.standinSector (s : State) (p c ident sector status : Nat) (bs : List Byte) : State :=
  match (s.ctx p c).standing.find? fun r => r.msg.ident.toNat == ident with
  | none => s
  | some r =>
    let s1 := s.modCtx p c fun x => { x with standing := x.standing.filter fun q => q.msg.ident.toNat != ident }
    if status ≠ 0 then s1.standinOut p c r.msg none
    else s1.standinGo p c { r with got := SMap.put r.got sector bs }

/-- A message arrives at an endpoint that may take it (R69, R72, R74): status, identifier, state. In ANSWER mode inside a
stop interval the stand-in of one that asks is sent at once. -/
def State.arrive (s : State) (p c : Nat) (m : Msg) : Nat × Nat × State :=
  if !(s.ctx p c).valid || !(s.ep p c m.ep).v then (4, 0, s)
  else
    let r := s.enterQueue p c m
    if r.1 = 0 ∧ s.stopped p c ∧ m.ask ∧ (s.ep p c m.ep).mode = 1 then
      match (r.2.2.ctx p c).allMsgs.find? fun x => x.ident.toNat == r.2.1 with
      | some x => (0, r.2.1, r.2.2.sendStandin p c x)
      | none => r
    else r

/-- A message from an endpoint of another context: the receiving entry's PEER must name the sender (R422). -/
def State.arriveFrom (s : State) (p c : Nat) (m : Msg) : Nat × Nat × State :=
  if s.takes p c m then s.arrive p c m else (4, 0, s)

/-! ## Sending (R422) -/

/-- Forget a message of an endpoint that has been answered. -/
def Context.answered (x : Context) (ep ident : Nat) : Context :=
  { x with taken := x.taken.filter fun m => !(m.ep == ep && m.ident.toNat == ident) }

/-- The status of a send is known: it is written at completion. -/
def State.sendDone (s : State) (tid g id : Nat) (d : Operand) (v : Nat) : State :=
  { s with colDone := s.colDone ++ [⟨tid, g, id, d, BitVec.ofNat 64 v⟩] }

/-- What epsend does with a message that may go (R422): the state, and its status where it is known at once. -/
def State.epGo (s : State) (k : Iss) (id ep : Nat) (d : Operand) (ask reply : Bool) (ident : Nat) (bs : List Byte) :
    State × Option Nat :=
  let p := k.t.part
  let c := k.t.ctx
  let e := s.ep p c ep
  let (w, s0) := s.draw
  let out := if reply then ident else w.toNat % 2 ^ 16
  let ok (x : State) : State := if reply then x.modCtx p c fun y => y.answered ep ident else x
  if !e.isEnd then
    let s1 := s0.flushMail p c 64
    if (s1.ctx p c).deferred.any (fun x => x.ep == e.mailbox) || !s1.mailFree e.mailbox then (s1, some 3)
    else
      let s2 := s1.mailPut e.mailbox (slotWord bs.length ask reply false 0 out) bs
      (if ask then (ok s2).modCtx p c fun y => { y with asked := y.asked ++ [(ep, out)] } else ok s2, some 0)
  else
    let x := e.peer.toNat
    let dev := bits x 11 0
    let tag := match (s.ctx p c).taken.find? fun m => m.ep == ep && m.ident.toNat == ident with
      | some m => (match m.peer with | .endpoint _ _ _ _ t => t | .host _ => 0)
      | none => 0
    let m := mkMsg (bits x 27 22) bs ask reply false 0 (.endpoint Config.devNum.toNat p c ep out)
    if dev = Config.devNum.toNat then
      let r := s0.arriveFrom (bits x 15 12) (bits x 21 16) m
      (if r.1 = 0 then ok r.2.2 else r.2.2, some r.1)
    else
      let pk := epPacket p k.t.core dev (bits x 15 12) (bits x 21 16) (bits x 27 22) c ep m (if reply then tag else out)
      match s0.request k.t.core 0 pk (.send k.tid k.g id d (ident + 2 ^ 16 * ep) reply) with
      | none => (s0, some 4)
      | some s1 => (s1, none)

/-- epsend (R422). -/
def execEpsend (i : Slots) (s : State) : Outcome State Fault Refusal :=
  runH 0x347 s i (linesOf i false 0) fun k =>
    let imm := i.imm.toNat
    let ep := imm % 64
    let reply := bit imm 6
    let b := k.gr.uni i.b 0
    let n := bits b 8 0
    let ident := bits b 31 16
    if n = 0 ∨ 256 < n ∨ bits b 15 9 ≠ 0 ∨ 2 ^ 32 ≤ b ∨ (ident ≠ 0 ∧ !reply) then .error (.t 3 3 b, s)
    else match s.gather k (k.gr.uni i.a 0) n 32 with
      | .error x => .error x
      | .ok (none, s1) => .ok (s1, some gatherHold)
      | .ok (some bs, s1) => match k.gr.counterWait .col with
        | .error x => .error (x, s)
        | .ok () =>
          let (id, s2) := s1.newOp
          let s3 := (s2.modGroup k.tid k.g fun g => g.addOp id .col).clearIdem k.tid
          let done (x : State) (v : Nat) : State := x.sendDone k.tid k.g id i.d v
          let p := k.t.part
          let c := k.t.ctx
          let go (_ : Unit) : State := match s3.epGo k id ep i.d (bit imm 7) reply ident bs with
            | (x, some v) => done x v
            | (x, none) => x
          if !(s3.ep p c ep).v then .ok (done s3 4, none)
          else if reply then
            match (s3.ctx p c).taken.find? fun m => m.ep == ep && m.ident.toNat == ident with
            | none => .ok (done s3 5, none)
            | some m =>
              if m.standin then
                .ok (done (s3.modCtx p c fun y => { (y.answered ep ident) with lateReply := satAdd y.lateReply 1 }) 1, none)
              else .ok (go (), none)
          else .ok (go (), none)

/-- EPSEND_COMPLETE: the status of a send is written (R422). -/
def execEpsendComplete (tid g id : Nat) (s : State) : Outcome State Fault Refusal :=
  match s.colDone.find? fun c => c.tid == tid && c.g == g && c.id == id with
  | none => .fault .notEnabled
  | some c =>
    .next (({ s with colDone := s.colDone.filter fun x => x != c } : State).giveHandle (tid, g, id, c.d) c.val.toNat)

/-! ## Receiving (R423) -/

/-- Bytes written as a copy destination (10 R238): scratchpad, or home memory and the core's view. -/
def State.putLocal (s : State) (core : Nat) (l : Loc) (bs : List Byte) : State :=
  match l with
  | .spad t off => s.spadWrite t off bs
  | .mem pa key => s.engineWrite core key pa bs
  | .remote _ _ => s

/-- The bytes of one 32-byte sector of another device are written by a packet (10 R234, R238). -/
def State.putFar (s : State) (core part dev pa : Nat) (bs : List Byte) (why : ReqFor) : State :=
  let off := pa % 128
  let p := mkPacket 3 part dev core (pa - off) 0
    (toBytes 16 ((2 ^ bs.length - 1) * 2 ^ off) ++ toBytes 128 (ofBytes bs * 2 ^ (8 * off)))
  (s.request core 0 p why).getD s

/-- The places of the 256 bytes of a buffer, checked (R423). -/
def State.bufferAt (s : State) (k : Iss) (a : Nat) : Except Bail (List Loc) :=
  let rs := (List.range 8).map fun i => s.place k .uni .store (a + 32 * i) 32 1
  let errs := rs.filterMap fun r => match r with | .error e => some ((0 : Nat), e) | .ok _ => none
  match errs with
  | e0 :: rest =>
    let e := rest.foldl (fun m x => if x.2.rank < m.2.rank then x else m) e0
    .error (.t e.2.cause e.2.detail e.2.addr)
  | [] =>
    let ls := rs.filterMap fun r => match r with | .ok l => some l | .error _ => none
    if a % 32 ≠ 0 then .error (.t 9 5 (barAddr a))
    else if ls.any fun l => match l.dev? with | some d => (s.pathsTo d 0).isEmpty | none => false then .error (.t 8 6 a)
    else match s.fillWait (ls.map fun l => ⟨0, a, l, 32⟩) with
      | .error b => .error b
      | .ok () => .ok ls

/-- The status word of a message (R423). -/
def Msg.word (m : Msg) : Nat :=
  m.bytes.length + 2 ^ 9 * b2n m.ask + 2 ^ 10 * b2n (m.standin) + 2 ^ 12 * m.status + 2 ^ 16 * m.ident.toNat

/-- The registers of a received message. -/
def State.recvRegs (s : State) (k : Iss) (n : Nat) (w stamp : W64) : State :=
  s.modGroup k.tid k.g fun g => (g.ws n w).ws (n + 1) stamp

/-- A message is taken: its bytes go to the buffer, and it awaits a reply (R423). -/
def State.takeMsg (s : State) (k : Iss) (ep va : Nat) (ls : List Loc) (m : Msg) (rest : List Msg) : State :=
  let s1 := (s.modCtx k.t.part k.t.ctx fun x =>
    { x with recvq := SMap.set [] x.recvq ep rest
             taken := (x.taken.filter fun y => y.ident != m.ident) ++ (if m.status = 0 then [m] else []) }).clearIdem k.tid
  (List.range (ceilDiv m.bytes.length 32)).foldl (fun (x : State) i =>
    let bs := (m.bytes.drop (32 * i)).take 32
    match ls[i]? with
    | some (.remote d pa) => x.putFar k.t.core k.t.part d pa bs
        (.recvWrite ⟨k.tid, k.g, m.ident.toNat, k.e.pc, k.e.mask, k.e.mask, barAddr (va + 32 * i)⟩)
    | some l => x.putLocal k.t.core l bs
    | none => x) s1

/-- Writes of a received message on other devices that are not acknowledged. -/
def State.farWrites (s : State) (tid g ident : Nat) : Bool :=
  s.reqs.any fun r => match r.why with | .recvWrite x => x.tid == tid && x.g == g && x.id == ident | _ => false

/-- eprecv (R423): a message wins over a time-out; sD+1 is not stated on a time-out (a free value, log 4). -/
def execEprecv (i : Slots) (s : State) : Outcome State Fault Refusal :=
  runH 0x348 s i (linesOf i false 1) fun k => failIn s <|
    let ep := i.imm.toNat % 64
    let n := i.d.idx
    match s.bufferAt k (k.gr.uni i.a 0) with
    | .error b => .error b
    | .ok ls =>
      let fin (x : State) (m : Msg) : State := x.recvRegs k n (BitVec.ofNat 64 m.word) m.stamp
      let idle (h : Hold) : Except Bail (State × Option Hold) :=
        match SMap.get [] (s.ctx k.t.part k.t.ctx).recvq ep with
        | m :: rest =>
          let s1 := s.takeMsg k ep (k.gr.uni i.a 0) ls m rest
          if s1.farWrites k.tid k.g m.ident.toNat then
            .ok (s1, some { h with ready := false, passed := true, answer := some (m.ident.setWidth 64) })
          else .ok (fin s1 m, none)
        | [] =>
          if h.timedOut then
            let (w, s1) := s.draw
            .ok (s1.recvRegs k n 0x800 w, none)
          else .ok (s, some { h with ready := false })
      match k.waiting 12 with
      | none => idle { Hold.wait 12 with started := true, deadline := if i.b.isNil then none else s.deadline k.t (k.gr.uni i.b 0) }
      | some h =>
        if !h.passed then idle h
        else
          let ident := (h.answer.getD 0).toNat
          if s.farWrites k.tid k.g ident then .ok (s, some { h with ready := false })
          else match (s.ctx k.t.part k.t.ctx).taken.find? fun m => m.ident.toNat == ident with
            | some m => .ok (fin s m, none)
            | none => .ok (s, none)

/-- epstand (R424). -/
def execEpstand (i : Slots) (s : State) : Outcome State Fault Refusal :=
  runS 0x349 s i (linesOf i false 0) fun k =>
    let a := k.gr.uni i.a 0
    let b := k.gr.uni i.b 0
    let ep := i.imm.toNat % 64
    if 2 ^ 56 ≤ a then .error (.t 3 2 a)
    else if 256 < b then .error (.t 3 3 b)
    else .ok ((s.modCtx k.t.part k.t.ctx fun x =>
      let e := SMap.get Ep.unbound x.eps ep
      let e' : Ep := { e with standin := BitVec.ofNat 56 a, standlen := BitVec.ofNat 9 b }
      { x with eps := SMap.set Ep.unbound x.eps ep e' }).clearIdem k.tid)

/-! ## Events (R70, R73, R433, R453) -/

/-- The head of the brine queue becomes visible now: its stamp is reached, be it at the stop value of a stop interval, and
its receive queue has room (R73, R172). -/
def State.brineDue (s : State) (p c : Nat) : Option Msg :=
  let x := s.ctx p c
  match x.brine with
  | [] => none
  | m :: _ =>
    if m.real || decide (vclkOf s x < m.stamp) || decide (32 ≤ (SMap.get [] x.recvq m.ep).length) then none
    else some m

/-- How long a message's patience has run past its end, in fraction units of RCLK; none where it has not ended. -/
def Msg.overdue (m : Msg) (rclk : W64) : Option Nat :=
  let n := (rclk - m.born).toNat
  if m.patience ≠ 0 ∧ 65536 * m.patience ≤ n then some (n - 65536 * m.patience) else none

/-- The head of the brine queue moves to its receive queue; a patience that ends in this cycle of the reference clock ends
without a stand-in (R70, R73). -/
def State.showMsg (s : State) (p c : Nat) (m : Msg) : State :=
  let m1 := match m.overdue s.rclk with
    | some n => if n < 512 then { m with patience := 0 } else m
    | none => m
  s.modCtx p c fun x =>
    { x with brine := x.brine.drop 1, recvq := SMap.set [] x.recvq m.ep (SMap.get [] x.recvq m.ep ++ [m1]) }

/-- BRINE_VISIBLE. -/
def execBrineVisible (part ctx : Nat) (s : State) : Outcome State Fault Refusal :=
  match s.brineDue part ctx with
  | none => .fault .notEnabled
  | some m => .next (s.showMsg part ctx m)

/-- A patience that has ended (R70): a message not taken gets a stand-in; one that has been taken only where the expiry falls
inside a stop interval. -/
def State.expire (s : State) (p c : Nat) (m : Msg) : State :=
  let x := s.ctx p c
  let end_ : W64 := m.born + BitVec.ofNat 64 (65536 * m.patience)
  let taken := x.taken.any fun y => y.ident == m.ident
  let inside := match x.stop with | some st => decide (st.opened ≤ end_) | none => false
  if taken && !inside then s.modCtx p c fun y => y.modMsg m.ident.toNat fun z => { z with patience := 0 }
  else s.sendStandin p c m

/-- PATIENCE_EXPIRY (R70): not of a message that becomes visible in this cycle. -/
def execPatienceExpiry (part ctx ident : Nat) (s : State) : Outcome State Fault Refusal :=
  match (s.ctx part ctx).allMsgs.find? fun m => m.ident.toNat == ident && m.patience != 0 with
  | none => .fault .notEnabled
  | some m =>
    let visible := match s.brineDue part ctx with | some d => d.ident == m.ident | none => false
    if (m.overdue s.rclk).isNone || visible then .fault .notEnabled else .next (s.expire part ctx m)

/-- Every entry of a context's brine queue that becomes visible now does so. -/
def State.showDue (s : State) (p c : Nat) : Nat → State
  | 0 => s
  | n + 1 => match s.brineDue p c with
    | none => s
    | some m => (s.showMsg p c m).showDue p c n

/-- What a cycle of the reference clock does to a context's messages: entries become visible, then patience that has ended
expires (R70, R73). -/
def State.msgCycle (s : State) (p c : Nat) : State :=
  let s1 := s.showDue p c 64
  ((s1.ctx p c).allMsgs.filter fun m => (m.overdue s.rclk).isSome).foldl (fun (x : State) m => x.expire p c m) s1

/-- That of every context. -/
def State.msgCycles (s : State) : State :=
  s.parts.foldl (fun (x : State) e => e.2.ctxs.foldl (fun (y : State) d => if d.2.valid then y.msgCycle e.1 d.1 else y) x) s

/-- STANDIN_DEFERRED_WRITE: a held slot is written once its mailbox has a free one (R433, R453). -/
def execStandinDeferredWrite (part ctx : Nat) (s : State) : Outcome State Fault Refusal :=
  match s.owedSlot part ctx with
  | none => .fault .notEnabled
  | some _ => .next (s.flushMail part ctx 1)

/-- The host's record is answered: word 1 (R433, R452). -/
def State.hostAnswer (s : State) (rec status ident : Nat) : State :=
  s.hostWrite (rec + 8) (toBytes 8 (2 ^ 63 + 2 ^ 16 * ident + status))

/-- EPPOST_WRITE: the host's record of 288 bytes arrives at its endpoint (R433). -/
def execEppostWrite (part : Nat) (addr : W64) (s : State) : Outcome State Fault Refusal :=
  let a := addr.toNat
  let w := s.hostWord a
  let n := bits w 8 0
  let c := bits w 37 32
  let ep := bits w 43 38
  let ident := bits w 31 16
  let x := s.ctx part c
  if !x.valid || decide (256 < n) || !(s.ep part c ep).v || (s.ep part c ep).isEnd then .next (s.hostAnswer a 4 0)
  else if bit w 10 && !x.asked.contains (ep, ident) then .next (s.hostAnswer a 5 0)
  else
    let m := mkMsg ep (s.hostBytes (a + 16) n) (bit w 9) (bit w 10) false 0 (.host a)
    let r := s.arrive part c m
    let s1 := if r.1 = 0 ∧ bit w 10 then
        r.2.2.modCtx part c fun y => { y with asked := y.asked.filter fun q => q != (ep, ident) }
      else r.2.2
    .next (s1.hostAnswer a r.1 r.2.1)

/-- A partition reset answers the messages that await a reply with target gone (07 R182, 19 R433); the slots still owed
to mailboxes are kept. -/
def State.epReset (s : State) (p : Nat) : State :=
  (s.part p).ctxs.foldl (fun (y : State) e =>
    let x := e.2
    let waiting := (x.allMsgs.filter fun m => m.ask && !m.standin) ++ x.standing.map fun r => r.msg
    let y1 := waiting.foldl (fun (z : State) m => match m.peer with
      | .host _ => z.owePost p e.1 (s.ep p e.1 m.ep).mailbox (slotWord 0 false true false 4 m.ident.toNat) [] false
      | .endpoint _ _ _ _ _ => if x.taken.any fun t => t.ident == m.ident then z else z.toPeer p e.1 m [] false 4) y
    y1.modCtx p e.1 fun z => { Context.off with deferred := z.deferred }) s

end Sys2Proof.Machine
end

