-- ==== Sys2Proof/Machine/Collect.lean ====
section
/-!
DEFINITION. Machine/Collect.lean: collectives (18 R425-R427, 10 R240, 19 R435, R436): the descriptor, joining,
contributions and results, the elements' sums and orders, and completion.
-/
namespace Sys2Proof.Machine

open Host (Outcome)

/-! ## The descriptor (R425) -/

/-- The fields of a collective descriptor; rest where a bit that must be 0 is set. -/
structure CollDesc where
  gen : Nat
  nm1 : Nat
  self : Nat
  root : Nat
  memb : Nat
  src : Nat
  dst : Nat
  count : Nat
  rest : Bool
  deriving DecidableEq, Repr

/-- The fields of 64 bytes. -/
def collDesc (bs : List Byte) : CollDesc :=
  let w (i : Nat) : Nat := wordAt bs i
  { gen := bits (w 0) 15 0, nm1 := bits (w 0) 27 16, self := bits (w 0) 43 32, root := bits (w 0) 55 44
    memb := bits (w 1) 55 0, src := bits (w 2) 55 0, dst := bits (w 3) 55 0, count := bits (w 4) 31 0
    rest := bits (w 0) 31 28 != 0 || bits (w 0) 63 56 != 0 || decide (2 ^ 56 ≤ w 1) || decide (2 ^ 56 ≤ w 2)
      || decide (2 ^ 56 ≤ w 3) || decide (2 ^ 32 ≤ w 4) || w 5 != 0 || w 6 != 0 || w 7 != 0 }

/-- A field out of its range (R425, 08 R185): op is the operation, esz the element size. -/
def CollDesc.bad (d : CollDesc) (op esz : Nat) : Bool :=
  d.nm1 == 0 || decide (d.nm1 < d.self) || decide (d.nm1 < d.root) || (op == 4) != (d.count == 0)
    || (op != 4 && (d.src % esz != 0 || d.dst % esz != 0))

/-- A member list word's device, partition and epoch. -/
def memDev (w : Nat) : Nat := bits w 11 0
def memPart (w : Nat) : Nat := bits w 15 12
def memEpoch (w : Nat) : Nat := bits w 31 16

/-! ## Elements (R426) -/

/-- The result element of the members' elements, and its flags. -/
def collElem (op tag rnd : Nat) (sat : Bool) (xs : List Nat) : Nat × Nat :=
  if tagInt tag then
    let vs := xs.map fun x => (intOf tag x).1
    match vs with
    | [] => (0, 0)
    | v :: rest =>
      if op = 0 then fitInt tag sat (vs.foldl (fun a b => a + b) 0)
      else (wrapI (tagWidth tag) (rest.foldl (fun a b => if op = 1 then max a b else min a b) v), 0)
  else match xs with
    | [] => (0, 0)
    | x :: rest =>
      if op = 0 then
        let r := sumProducts (xs.map fun c => (floatOf tag c).toX)
        let v := match r.1 with
          | .fin neg m e st => if m = 0 ∧ !st ∧ rnd = 3 ∧ xs.any (fun c => c != 0) then XVal.fin true 0 0 false else .fin neg m e st
          | y => y
        let o := deliver (fmtOf tag) rnd false 0 v
        (o.1, flagsOr r.2 o.2)
      else rest.foldl (fun (a : Nat × Nat) c =>
        let o := minMaxElem (op == 1) false tag a.1 c
        (o.1, flagsOr a.2 o.2)) (x, if (floatOf tag x).isSig then flagNV else 0)

/-! ## A joined collective -/

/-- The bytes of an element. -/
def Coll.esz (c : Coll) : Nat := max 1 (tagWidth c.tag / 8)
/-- The bytes of the result. -/
def Coll.total (c : Coll) : Nat := c.count * c.esz
/-- The bytes that a member's contribution carries: none for a broadcast or a barrier. -/
def Coll.carried (c : Coll) : Nat := if c.op < 3 then c.total else 0
/-- The key of a member's elements from an offset. -/
def collKey (m off : Nat) : Nat := m * 2 ^ 40 + off

/-- The bytes that have arrived in runs from an offset, none while some are missing. -/
def runBytes (got : SMap (List Byte)) (m esz total : Nat) : Nat → Nat → Option (List Byte)
  | 0, _ => none
  | n + 1, off => match SMap.find got (collKey m (off / esz)) with
    | none => none
    | some bs =>
      if total ≤ off + bs.length then some bs
      else if bs.isEmpty then none
      else (runBytes got m esz total n (off + bs.length)).map fun r => bs ++ r

/-- A member's contribution, once whole. -/
def Coll.from_ (c : Coll) (m : Nat) : Option (List Byte) := runBytes c.got m c.esz c.carried (c.count + 1) 0

/-- A result received whole. -/
def Coll.received (c : Coll) : Option (List Byte) := runBytes c.got 4096 c.esz c.total (c.count + 1) 0

/-- Every member has joined. -/
def Coll.joined (c : Coll) : Bool := (List.range c.members.length).all fun m => (c.from_ m).isSome

/-- The result and its flags, of contributions that are in (R426). -/
def Coll.compute (c : Coll) : List Byte × Nat :=
  if c.op = 4 then ([], 0)
  else if c.op = 3 then (((SMap.find c.got (collKey 4097 0)).getD []), 0)
  else
    let ds := (List.range c.members.length).map fun m => (c.from_ m).getD []
    let es := (List.range c.count).map fun j =>
      collElem c.op c.tag c.rnd c.sat (ds.map fun d => ofBytes (sliceD 0#8 d (c.esz * j) c.esz))
    (es.flatMap fun e => toBytes c.esz e.1, es.foldl (fun f e => flagsOr f e.2) 0)

/-- Change a collective. -/
def State.modColl (s : State) (tid g id : Nat) (f : Coll → Coll) : State :=
  { s with colls := s.colls.map fun c => if c.tid = tid ∧ c.g = g ∧ c.id = id then f c else c }

/-- A collective. -/
def State.coll? (s : State) (tid g id : Nat) : Option Coll := s.colls.find? fun c => c.tid == tid && c.g == g && c.id == id

/-- A collective still waits for its result. -/
def Coll.open_ (c : Coll) : Bool := c.status == 0 && c.result.isNone

/-! ## Packets (R436; log 13) -/

/-- Runs of 128 bytes, with their offsets; one empty run for none. -/
def collRuns (bs : List Byte) : List (Nat × List Byte) :=
  if bs.isEmpty then [(0, [])]
  else (List.range (ceilDiv bs.length 128)).map fun i => (128 * i, (bs.drop (128 * i)).take 128)

/-- A digest of a member list, of 20 bits. -/
def listDigest (ms : List Nat) : Nat := ms.foldl (fun d w => (d * 65599 + w + 1) % 1048573) 0

/-- Which collective of its generation, between which members, a packet is of: RTAG[27:0]. -/
def Coll.key (c : Coll) : Nat := c.ord % 256 + 2 ^ 8 * listDigest c.members

/-- The packet of a run of elements. -/
def collPacket (c : Coll) (core kind whom extra : Nat) (r : Nat × List Byte) : Packet :=
  { mkPacket kind c.part (memDev (c.members.getD whom 0)) core
      (r.1 / c.esz + 2 ^ 32 * (c.tag / 16) + 2 ^ 36 * (c.count % 2 ^ 28)) (c.gen + 2 ^ 16 * c.op + 2 ^ 20 * extra) r.2 with
    dpart := BitVec.ofNat 4 (memPart (c.members.getD whom 0))
    rtag := BitVec.ofNat 32 (c.key + 2 ^ 28 * (c.count / 2 ^ 28)) }

/-- COUNT as a collective's packet carries it. -/
def collCount (p : Packet) : Nat := p.addr.toNat / 2 ^ 36 + 2 ^ 28 * (p.rtag.toNat / 2 ^ 28)

/-- The packet that ends the collective at other members (R435, R436). -/
def abortPacket (part dev dpart gen : Nat) : Packet :=
  { mkPacket 0x11 part dev 0 0 (1 + 2 ^ 16 * gen) [] with dpart := BitVec.ofNat 4 dpart }

/-- Members of this device that wait in a collective of a generation with a given member end with status 1 (R427). -/
def State.abortColls (s : State) (part gen dev mpart : Nat) (keep : Nat) : State :=
  { s with colls := s.colls.map fun c =>
      if c.part = part ∧ c.gen = gen ∧ c.id ≠ keep ∧ c.open_ ∧ c.members.any (fun w => memDev w == dev && memPart w == mpart)
      then { c with status := 1 } else c }

/-- A member's collective ends with a status, and the others are told (R427, R435). -/
def State.failColl (s : State) (c : Coll) (status : Nat) : State :=
  let s1 := s.modColl c.tid c.g c.id fun x => { x with status := status }
  let who := ((c.members.map fun w => (memDev w, memPart w)).eraseDups)
  who.foldl (fun (x : State) w =>
    if w.1 = Config.devNum.toNat then x.abortColls w.2 c.gen Config.devNum.toNat c.part c.id
    else x.unitSend (abortPacket c.part w.1 w.2 c.gen)) s1

/-- The index of the member that a packet comes from: its list entry must name the sender. -/
def Coll.sender (c : Coll) (p : Packet) : Option Nat :=
  let m := p.arg.toNat / 2 ^ 20
  let w := c.members.getD m (2 ^ 40)
  if m < c.members.length ∧ memDev w = p.sdev.toNat ∧ memPart w = p.spart.toNat then some m else none

/-- The collective that a member of a partition here has joined and whose packet this is: generation, list and ordinal are the
same (R426). -/
def Coll.takes (c : Coll) (p : Packet) : Bool :=
  c.open_ && c.part == p.dpart.toNat && c.gen == p.arg.toNat % 2 ^ 16 && c.key == p.rtag.toNat % 2 ^ 28

/-- The collective that takes a packet: the k-th of a member joins the k-th of the others (R426). -/
def State.collFor (s : State) (p : Packet) : Option Coll :=
  let off := p.addr.toNat % 2 ^ 32
  s.colls.find? fun c => c.takes p &&
    (if p.kind = 0x0F then c.self == c.root && (match c.sender p with
        | some m => (SMap.find c.got (collKey m off)).isNone && (c.from_ m).isNone
        | none => false)
      else memDev (c.members.getD c.root 0) == p.sdev.toNat && memPart (c.members.getD c.root 0) == p.spart.toNat
        && (SMap.find c.got (collKey 4096 off)).isNone)

/-- A run is added; its operation, TYPE and COUNT must be the collective's (R427). -/
def Coll.agrees (c : Coll) (p : Packet) : Bool :=
  bits p.arg.toNat 18 16 == c.op && bits p.addr.toNat 35 32 == c.tag / 16 && collCount p == c.count

/-- A result run arrives. -/
def Coll.addResult (c : Coll) (p : Packet) : Coll :=
  let c1 := { c with
    got := SMap.put c.got (collKey 4096 (p.addr.toNat % 2 ^ 32)) p.payload
    flags := flagsOr c.flags (p.arg.toNat / 2 ^ 20 % 128) }
  if p.status ≠ 0 then { c1 with status := 1 }
  else match c1.received with
    | some bs => { c1 with result := some bs }
    | none => c1

/-- A packet that reaches a collective, or waits for one of its members to join. -/
def State.collArrive1 (s : State) (p : Packet) : State :=
  if p.kind = 0x11 then
    let gen := p.arg.toNat / 2 ^ 16
    if s.colls.any fun c => c.open_ && c.part == p.dpart.toNat && c.gen == gen
        && c.members.any (fun w => memDev w == p.sdev.toNat && memPart w == p.spart.toNat) then
      s.abortColls p.dpart.toNat gen p.sdev.toNat p.spart.toNat s.nextOp
    else { s with collQ := s.collQ ++ [p] }
  else match s.collFor p with
    | none => { s with collQ := s.collQ ++ [p] }
    | some c =>
      if !c.agrees p then s.failColl c 1
      else if p.kind = 0x0F then
        s.modColl c.tid c.g c.id fun x =>
          { x with got := SMap.put x.got (collKey ((x.sender p).getD 0) (p.addr.toNat % 2 ^ 32)) p.payload }
      else s.modColl c.tid c.g c.id fun x => x.addResult p

/-- The core of a collective's member. -/
def State.collCore (s : State) (c : Coll) : Nat := ((s.team? c.tid).map fun t => t.core).getD 0

/-- The root of a collective that every member has joined has its result, and sends it (R426). -/
def State.collRoot (s : State) (c : Coll) : State :=
  if !c.open_ || c.self != c.root || !c.joined then s
  else
    let r := c.compute
    let s1 := s.modColl c.tid c.g c.id fun x => { x with result := some r.1, flags := r.2 }
    (List.range c.members.length).foldl (fun (x : State) m =>
      if m = c.self then x
      else (collRuns r.1).foldl (fun (y : State) run =>
        let p := collPacket c (s.collCore c) 0x10 m r.2 run
        if p.ddev = Config.devNum then y.collArrive1 p else (y.send (s.collCore c) 3 p).getD y) x) s1

/-- Every root that can gives its result. -/
def State.collRoots (s : State) : State := s.colls.foldl (fun (x : State) c =>
  match x.coll? c.tid c.g c.id with
  | some c1 => x.collRoot c1
  | none => x) s

/-- A packet of a collective arrives. -/
def State.collArrive (s : State) (p : Packet) : State := (s.collArrive1 p).collRoots

/-- The packets that waited for a member to join arrive again. -/
def State.collAgain (s : State) : State :=
  (s.collQ.foldl (fun (x : State) p => x.collArrive1 p) { s with collQ := [] }).collRoots

/-! ## Issue -/

/-- The pieces of a range within 32-byte sectors: address, offset, bytes. -/
def pieces (va n : Nat) : List (Nat × Nat × Nat) :=
  (List.range (ceilDiv (va % 32 + n) 32)).filterMap fun i =>
    let lo := if i = 0 then 0 else 32 * i - va % 32
    let hi := min n (32 * (i + 1) - va % 32)
    if lo < hi then some (va + lo, lo, hi - lo) else none

/-- The places of a destination, none where some sector cannot be written. -/
def State.collDst (s : State) (tid va n : Nat) : Option (List (Loc × Nat × Nat)) :=
  match s.team? tid with
  | none => none
  | some t => (pieces va n).foldl (fun (r : Option (List (Loc × Nat × Nat))) p => match r with
    | none => none
    | some ls => match s.sidePlace tid t t.comp .store true p.1 with
      | .ok l => some (ls ++ [(l, p.2.1, p.2.2)])
      | .error _ => none) (some [])

/-- The members of this device have their current epochs, and this member is where the list says. -/
def State.collEpochs (s : State) (c : Coll) : Bool :=
  let me := c.members.getD c.self 0
  memDev me == Config.devNum.toNat && memPart me == c.part &&
    c.members.all fun w => memDev w != Config.devNum.toNat || (s.part (memPart w)).epoch.toNat == memEpoch w

/-- The devices that a member sends to: the root's, or every other member's. -/
def Coll.peers (c : Coll) : List Nat :=
  ((if c.self = c.root then c.members else [c.members.getD c.root 0]).map memDev).filter fun d => d != Config.devNum.toNat

/-- A member whose elements are read, or cannot be, joins (R426): the root keeps its own elements, the others send theirs to
it. -/
def State.joinColl (s1 : State) (core : Nat) (c : Coll) (data : Option (List Byte)) : State :=
  if c.status ≠ 0 then s1
  else if data.isNone || (s1.collDst c.tid c.dst c.total).isNone then s1.failColl c 3
  else if !s1.collEpochs c then s1.failColl c 1
  else if c.peers.any fun d => (s1.pathsTo d 3).isEmpty then s1.failColl c 2
  else
    let bs := data.getD []
    let mine := collRuns (if c.op < 3 then bs else [])
    let s2 :=
      if c.self = c.root then
        s1.modColl c.tid c.g c.id fun x =>
          let g1 := mine.foldl (fun (m : SMap (List Byte)) r => SMap.put m (collKey x.self (r.1 / x.esz)) r.2) x.got
          { x with got := if x.op = 3 then SMap.put g1 (collKey 4097 0) bs else g1 }
      else mine.foldl (fun (x : State) r =>
        let p := collPacket c core 0x0F c.root c.self r
        if p.ddev = Config.devNum then x.collArrive1 p else (x.send core 3 p).getD x) s1
    s2.collAgain

/-- Which collective of its generation and list this is for the member, counted when it issues (R426). -/
def State.collOrd (s : State) (part gen : Nat) (ms : List Nat) (self : Nat) : Nat :=
  (((s.part part).collOrds.find? fun e => e.1 == (gen, ms, self)).map Prod.snd).getD 0

/-- The next one counts on. -/
def State.countColl (s : State) (part gen : Nat) (ms : List Nat) (self : Nat) : State :=
  let n := s.collOrd part gen ms self
  s.modPart part fun q =>
    { q with collOrds := ((gen, ms, self), n + 1) :: q.collOrds.filter fun e => e.1 != (gen, ms, self) }

/-- A collective begins: its elements, where it has any, are still to be read (10 R240). -/
def State.collStart (s : State) (k : Iss) (c : Coll) (va n : Nat) : State :=
  let s1 : State := { s with colls := s.colls ++ [c] }
  if n = 0 then s1.joinColl k.t.core c (some [])
  else { s1 with srcs := s1.srcs ++ [⟨c.tid, c.g, c.id, va, n, [], [], .coll⟩] }

/-- coll (R425, R426). -/
def execColl (i : RdI) (s : State) : Outcome State Fault Refusal :=
  runH 0x34A s i.toSlots (linesOf i.toSlots false 0) fun k =>
    let op := i.imm.toNat % 8
    let tag := 16 * tyCode i.ty
    let va := k.gr.uni i.a 0
    match s.readRec k va 64 64 false with
    | .error b => .error b
    | .ok (none, s1) => .ok (s1, some gatherHold)
    | .ok (some bs, s1) =>
      let d := collDesc bs
      if d.rest || d.bad op (tagWidth tag / 8) then .error (.t 2 0xFF (barAddr va), s1)
      else match s1.gather k d.memb (8 * (d.nm1 + 1)) 8 with
        | .error b => .error b
        | .ok (none, s2) => .ok (s2, some gatherHold)
        | .ok (some ms, s2) =>
          let ws := (List.range (d.nm1 + 1)).map fun j => wordAt ms j
          match (List.range (d.nm1 + 1)).find? fun j => decide (2 ^ 32 ≤ ws.getD j 0) with
          | some j => .error (.t 2 0xFF (barAddr (d.memb + 8 * j)), s2)
          | none => match k.gr.counterWait .col with
            | .error b => .error (b, s)
            | .ok () =>
              let n := d.count * (tagWidth tag / 8)
              let (id, s4) := s2.newOp
              let s5 := ((s4.modGroup k.tid k.g fun g => g.addOp id .col).clearIdem k.tid).countColl k.t.part d.gen ws d.self
              let c : Coll :=
                { tid := k.tid, g := k.g, id := id, part := k.t.part, mask := k.e.mask, d := i.d, op := op, tag := tag
                  rnd := rndCode i.rnd, sat := i.sat, gen := d.gen, members := ws, self := d.self
                  root := if op = 3 then d.root else 0, dst := d.dst, count := d.count, got := [], result := none, flags := 0
                  status := 0, wrote := false, acks := 0, ord := s2.collOrd k.t.part d.gen ws d.self }
              .ok (s5.collStart k c d.src (if op < 3 ∨ (op = 3 ∧ d.self = d.root) then n else 0), none)

/-! ## Completion (R426, R427) -/

/-- The result is written as a copy destination (10 R238); remote sectors await their acknowledgements. -/
def State.collWrite (s : State) (core : Nat) (c : Coll) (ps : List (Loc × Nat × Nat)) (bs : List Byte) : State :=
  ps.foldl (fun (x : State) p =>
    let b := (bs.drop p.2.1).take p.2.2
    match p.1 with
    | .remote d pa => (x.putFar core c.part d pa b (.collWrite c.tid c.g c.id)).modColl c.tid c.g c.id fun y =>
        { y with acks := y.acks + 1 }
    | l => x.putLocal core l b) (s.modColl c.tid c.g c.id fun y => { y with wrote := true })

/-- The status is delivered and the operation completes (R427, 09 R207): COLLABORT counts a member's status 1. -/
def State.collEnd (s : State) (c : Coll) : State :=
  let s1 : State := { s.dropSrc c.id with colls := s.colls.filter fun x => !(x.tid == c.tid && x.g == c.g && x.id == c.id) }
  let s2 := if c.status = 1 then s1.modPart c.part fun p => { p with collAbort := satAdd p.collAbort 1 } else s1
  let s3 := if c.status = 0 then s2.modGroup c.tid c.g fun x => x.wflags c.mask fun _ => c.flags else s2
  s3.giveHandle (c.tid, c.g, c.id, c.d) c.status

/-- COLL_COMPLETE: a collective with its result writes DST; then, every write acknowledged, or with another status, it
completes. -/
def execCollComplete (tid g id : Nat) (s : State) : Outcome State Fault Refusal :=
  match s.coll? tid g id with
  | none => .fault .notEnabled
  | some c =>
    if c.acks ≠ 0 then .fault .notEnabled
    else if c.status ≠ 0 ∨ c.wrote then .next (s.collEnd c)
    else match c.result with
      | none => .fault .notEnabled
      | some bs => match s.collDst tid c.dst c.total with
        | none => .next (s.failColl c 3)
        | some ps =>
          if !(ps.all fun p => s.filled ⟨0, 0, p.1, p.2.2⟩) then .fault .notEnabled
          else
            let s1 := s.collWrite (s.collCore c) c ps bs
            match s1.coll? tid g id with
            | some c1 => .next (if c1.acks = 0 then s1.collEnd c1 else s1)
            | none => .next s1

end Sys2Proof.Machine
end

