-- ==== Sys2Proof/Machine/Sources.lean ====
section
/-!
DEFINITION. Machine/Sources.lean: the moves that read copy sources (10 R238, R240): the sectors of a copy, and those of an
invocation's arguments and of a member's elements, which are read after issue (18 R415, R426).
-/
namespace Sys2Proof.Machine

open Host (Outcome)

/-- A read after issue. -/
def State.src? (s : State) (id : Nat) : Option SrcRead := s.srcs.find? fun r => r.id == id

/-- Change one. -/
def State.modSrc (s : State) (id : Nat) (f : SrcRead → SrcRead) : State :=
  { s with srcs := s.srcs.map fun r => if r.id = id then f r else r }

/-- The address of a sector. -/
def SrcRead.sectorVa (r : SrcRead) (i : Nat) : Nat := r.va - r.va % 32 + 32 * i

/-- The place of a sector, or the fault: translated when it is read. -/
def State.srcPlace (s : State) (t : Team) (r : SrcRead) (i : Nat) : Except Trap Loc :=
  s.sidePlace r.tid t t.comp .load true (r.sectorVa i)

/-- A sector is still to be read or asked for. -/
def SrcRead.wants (r : SrcRead) (i : Nat) : Bool :=
  decide (i < r.count) && (SMap.find r.got i).isNone && !r.asked.any fun a => a.1 == i

/-- Bytes that cannot be read: the invocation is not sent, and its handle is synthesized with cause 8 (R415); a collective
ends with status 3 (R427). -/
def State.srcFails (s : State) (r : SrcRead) : State :=
  let s1 := s.dropSrc r.id
  match r.work with
  | .invoke bs d up =>
    let s2 := s1.giveHandle (r.tid, r.g, r.id, d) (synth (match up with | some h => hDev h | none => (invDesc bs).dev) 8)
    State.invGo s2.srcs.length s2
  | .coll => match s1.coll? r.tid r.g r.id with
    | some c => s1.joinColl (s1.collCore c) c none
    | none => s1

/-- With its last sector a read does what it is for. -/
def State.srcGo (s : State) (id : Nat) : State :=
  match s.src? id with
  | none => s
  | some r =>
    if !r.whole then s
    else match r.work with
      | .invoke _ _ _ => State.invGo s.srcs.length s
      | .coll => match s.coll? r.tid r.g r.id with
        | some c => (s.dropSrc id).joinColl (s.collCore c) c (some r.bytes)
        | none => s.dropSrc id

/-- A sector is in. -/
def State.srcPut (s : State) (id i : Nat) (bs : List Byte) : State :=
  (s.modSrc id fun r => { r with got := SMap.put r.got i bs }).srcGo id

/-- A sector is read, once, as a plain load that skips the store buffers; of remote memory it is asked for (10 R238). -/
def State.srcSector (s : State) (t : Team) (r : SrcRead) (i : Nat) : State :=
  match s.srcPlace t r i with
  | .error _ => s.srcFails r
  | .ok l =>
    let er := s.readErr t.core t.part l 32 (r.sectorVa i)
    match er.2, l with
    | some _, _ => er.1.srcFails r
    | none, .spad o off => er.1.srcPut r.id i (er.1.spadBytes o off 32)
    | none, .mem pa key => let x := er.1.readMem t.core key pa 32 false; x.2.srcPut r.id i x.1
    | none, .remote d pa =>
      let known := er.1.wcSector t.core d pa
      if known.all fun b => b.isSome then er.1.srcPut r.id i (known.map fun b => b.getD 0)
      else match er.1.request t.core 0 (mkPacket 1 t.part d t.core pa 32 []) (.srcRead r.tid r.id i) with
        | some y => y.modSrc r.id fun x => { x with asked := x.asked ++ [(i, packSector known)] }
        | none => er.1.srcFails r

/-- A remote sector has come in, or its read was refused. -/
def State.srcAnswer (s : State) (id i status : Nat) (bs : List Byte) : State :=
  match s.src? id with
  | none => s
  | some r =>
    if status ≠ 0 then s.srcFails r
    else s.srcPut id i (mergeSector (((r.asked.find? fun a => a.1 == i).map Prod.snd).getD 0) bs)

/-- The move of one sector of a read after issue: not of one that lies in a mapped line still to be filled (06 R144). -/
def State.srcMove (s : State) (core i : Nat) (r : SrcRead) : Outcome State Fault Refusal :=
  match s.team? r.tid with
  | none => .fault .notEnabled
  | some t =>
    let here := match s.srcPlace t r i with | .ok l => s.filled ⟨0, r.sectorVa i, l, 32⟩ | .error _ => true
    if t.core ≠ core ∨ !r.wants i ∨ !here then .fault .notEnabled else .next (s.srcSector t r i)

/-- COPY_SECTOR_WRITE (R238): the step of a copy, or, with readOnly set, one sector of an invocation's arguments or of a
member's elements, which R240 reads as copy sources. -/
def execCopySectorWrite (core id sector : Nat) (readOnly : Bool) (s : State) : Outcome State Fault Refusal :=
  match s.src? id with
  | some r => if readOnly then s.srcMove core sector r else .fault .notEnabled
  | none => s.copyMove core id sector readOnly

end Sys2Proof.Machine
end

