-- ==== Sys2Proof/Machine/Packets.lean ====
section
/-!
DEFINITION. Machine/Packets.lean: what arrives over Lornan (19 R434-R436, R456, R457; 06 R140, R141, R456; 10 R232-R235,
R450): each packet kind at its destination. What the spec does not place in a packet is placed by log 13.
-/
namespace Sys2Proof.Machine

open Host (Outcome)

/-! ## Ingress (R436) -/

/-- AOP, TYPE, ORDER and SCOPE of an atomic request are ones that R336 to R338 give. -/
def atomArgOk (arg : Nat) : Bool :=
  let aop := bits arg 4 0
  let ty := bits arg 11 8
  (if 8 ≤ ty then decide (ty ≤ 10) && decide (1 ≤ aop) && decide (aop ≤ 3) else decide (ty ≤ 3) && decide (aop ≤ 9))
    && decide (4 ≤ bits arg 18 16) && decide (bits arg 18 16 ≤ 5) && bits arg 7 5 == 0 && bits arg 15 14 == 0
    && decide (arg < 2 ^ 19)

/-- The header and payload keep to the table of R436. -/
def pktOk (p : Packet) : Bool :=
  let k := p.kind.toNat
  let req := k == 1 || k == 3 || k == 5 || k == 7
  let arg := p.arg.toNat
  p.rsv == 0 && p.len.toNat == p.payload.length && p.ddev == Config.devNum && decide (1 ≤ k) && decide (k ≤ 0x11)
    && decide (p.score.toNat < 192) && p.cont == decide (192 < p.payload.length)
    && (!(req || k == 0x0A || k == 0x0B || k == 0x0D || k == 0x0F || k == 0x11) || p.status == 0)
    && (match k with
      | 1 => decide (1 ≤ arg) && decide (arg ≤ 128) && p.payload.isEmpty && decide (p.addr.toNat < 2 ^ 52)
      | 2 => p.status == 0 || p.status == 6 || p.status == 8
      | 4 => p.status == 0
      | 6 => p.status == 0 || p.status == 6 || p.status == 8
      | 3 => p.payload.length == 144 && p.addr.toNat % 128 == 0 && decide (p.addr.toNat < 2 ^ 52)
      | 5 => p.payload.length == 16 && decide (p.addr.toNat < 2 ^ 52) && atomArgOk arg
      | 7 => p.payload.isEmpty
      | 8 => p.status == 0 || p.status == 8
      | 9 => p.status == 6 || p.status == 8
      | 0x0A => decide (64 ≤ p.payload.length) && decide (p.payload.length ≤ 320)
      | 0x0B => decide (64 ≤ p.payload.length) && decide (p.payload.length ≤ 320)
      | 0x0D => decide (p.payload.length ≤ 256)
      | 0x0E => decide (p.status.toNat ≤ 5)
      | 0x0F => decide (bits arg 18 16 ≤ 4)
      | 0x10 => decide (bits arg 18 16 ≤ 4)
      | 0x11 => bits arg 1 0 == 1 || bits arg 1 0 == 2
      | _ => true)

/-- A packet of a kind that keeps to the table; any other move of that name does not take place. -/
def onPacket (kind : Nat) (p : Packet) (f : Unit → State) : Outcome State Fault Refusal :=
  if p.kind.toNat = kind ∧ pktOk p then .next (f ()) else .fault .notEnabled

/-- MALFORMED_PACKET: discarded, and not answered (R436). -/
def execMalformedPacket (p : Packet) (s : State) : Outcome State Fault Refusal :=
  if pktOk p then .fault .notEnabled else .next s

/-! ## Requests on this device's memory (06 R140, R456) -/

/-- The key under which a remote request reaches a line: the partition's key that it is written under, else the
partition's memory key (log 6). -/
def State.winKey (s : State) (part pa : Nat) : Nat :=
  let q := s.part part
  let k := s.keyAt pa
  if q.keyGen ≠ 0 ∧ k / 8 = q.keyGen then k else keyOf q 0

/-- What a remote request's key says of the path: the forerunner's where a page there has FRP set (06 R150). -/
def State.winPath (s : State) (part pa n : Nat) : Nat := if s.pageOf 7 part pa n then frpKey else 0

/-- Promotion before a read from outside the cores' own (10 R232): no core is its own. -/
def State.promoteRange (s : State) (pa n : Nat) : State := (List.range n).foldl (fun (x : State) i => x.promote 4096 (pa + i)) s

/-- The 128-byte lines that a request touches. -/
def pktLines (p : Packet) : List Nat :=
  let n := if p.kind = 1 then p.arg.toNat else 1
  (List.range ((p.addr.toNat % 128 + n + 127) / 128)).map (p.addr.toNat / 128 + ·)

/-- The key of the order of one source core's packets to one line. -/
def pktLineKey (p : Packet) (line : Nat) : Nat := (p.sdev.toNat * 256 + p.score.toNat) * 2 ^ 48 + line

/-- A packet of the same source core and line with a later number has been applied (10 R234). -/
def State.overtaken (s : State) (p : Packet) : Bool :=
  (pktLines p).any fun ln => match SMap.find s.lineSeq (pktLineKey p ln) with
    | some q => decide ((p.seq - q).toNat = 0) || decide (2 ^ 31 ≤ (p.seq - q).toNat)
    | none => false

/-- A request on this device's memory is taken: it is the last of its source core to its lines. One that a later packet of its
core to a line of its has overtaken is not applied after it (10 R234). -/
def State.onRequest (s : State) (kind : Nat) (p : Packet) (f : State → State) : Outcome State Fault Refusal :=
  if s.overtaken p then .fault .notEnabled
  else onPacket kind p fun _ =>
    f { s with lineSeq := (pktLines p).foldl (fun m ln => SMap.put m (pktLineKey p ln) p.seq) s.lineSeq }

/-- READ_REQUEST: home memory when it arrives, after promotion (10 R228, R232). A read that meets a lasting error is refused
with DETAIL 6 (06 R154; log 7). -/
def execReadRequest (p : Packet) (s : State) : Outcome State Fault Refusal :=
  s.onRequest 1 p fun s =>
    let pa := p.addr.toNat
    let n := p.arg.toNat
    match s.admitWin p.sdev.toNat p.spart.toNat 0 pa n with
    | .error d => s.respond p 2 0 pa 0 d []
    | .ok part =>
      let er := s.servedErr part pa n
      if er.2 then er.1.respond p 2 part pa 0 6 []
      else
      let s1 := er.1.promoteRange pa n
      s1.respond p 2 part pa 0 0 ((List.range n).map fun i => s1.homeByte (s1.winKey part (pa + i)) (pa + i))

/-- The masked bytes of a write packet go to home memory. -/
def State.applyWrite (s : State) (part : Nat) (p : Packet) : State :=
  let mask := ofBytes (p.payload.take 16)
  let pa := p.addr.toNat
  let path := s.winPath part pa 128
  (List.range 128).foldl (fun (x : State) i =>
    if bit mask i then x.homeSet (x.winKey part pa + path) (pa + i) (p.payload.getD (16 + i) 0) else x) s

/-- WRITE: checked against the windows and applied (10 R234); an engine's (no colours) is acknowledged (R238). -/
def execWritePacket (p : Packet) (s : State) : Outcome State Fault Refusal :=
  s.onRequest 3 p fun s0 =>
    let pa := p.addr.toNat
    match s0.admitWin p.sdev.toNat p.spart.toNat 1 pa 128 with
    | .error d =>
      let s1 : State := if d = 8 then
          { s0 with ticket := s0.ticket + 1, goneW := s0.goneW ++ [⟨p.sdev.toNat, p.score.toNat, 0, 2 ^ p.path.toNat, s0.ticket⟩] }
        else s0
      s1.respond p 9 0 pa 0 d []
    | .ok part =>
      let s1 := s0.applyWrite part p
      if p.colours = 0 then s1.respond p 4 part pa 0 0 [] else s1

/-- ATOMIC_REQUEST: the step on home memory, on arrival (10 R233). -/
def execAtomicRequest (p : Packet) (s : State) : Outcome State Fault Refusal :=
  s.onRequest 5 p fun s =>
    let pa := p.addr.toNat
    let aop := bits p.arg.toNat 4 0
    let tag := 16 * bits p.arg.toNat 11 8
    let n := if tagWide tag then 8 else 4
    match s.admitWin p.sdev.toNat p.spart.toNat 2 pa n with
    | .error d => s.respond p 6 0 pa 0 d []
    | .ok part =>
      let er := s.servedErr part pa n
      if er.2 then er.1.respond p 6 part pa 0 6 []
      else
      let s1 := er.1.promoteRange pa n
      let key := s1.winKey part pa
      let old := ofBytes (s1.homeBytes key pa n)
      let new := (atomNew aop tag old (ofBytes (p.payload.take 8)) (ofBytes (p.payload.drop 8))).1
      (s1.homeWrite (key + s1.winPath part pa n) pa (toBytes n new)).respond p 6 part pa 0 0 (toBytes 8 old)

/-! ## Markers (10 R235) -/

/-- The copies of a marker that have come in. -/
def MarkCopy.of_ (m : MarkCopy) (p : Packet) : Bool :=
  m.dev == p.sdev.toNat && m.core == p.score.toNat && m.no == p.arg.toNat

/-- A refused write stood ahead of a copy on a path that it took. -/
def MarkCopy.behind (m w : MarkCopy) : Bool :=
  w.dev == m.dev && w.core == m.core && decide (w.paths &&& m.paths ≠ 0) && decide (w.at_ < m.at_)

/-- SHROUD_MARKER: the last copy is acknowledged, with target gone where a write ahead of a copy met a resetting partition.
Each copy counts at the port that it passes, for the partition that sent it; the packet does not name that port (a free
choice, log 4). ADDR holds the number of the copies and, above it, the paths that this one was queued on before (log 13). -/
def execShroudMarker (p : Packet) (s : State) : Outcome State Fault Refusal :=
  onPacket 7 p fun _ =>
    let m : MarkCopy := ⟨p.sdev.toNat, p.score.toNat, p.arg.toNat, 2 ^ p.path.toNat ||| bits p.addr.toNat 15 8, s.ticket⟩
    let (c, s0) := s.drawChoice
    let s1 : State := { (s0.countUnit (8 + c % 24) p.spart.toNat 0x46 1) with marks := s.marks ++ [m], ticket := s.ticket + 1 }
    let mine := s1.marks.filter fun x => x.of_ p
    if mine.length < bits p.addr.toNat 7 0 then s1
    else
      let hit (w : MarkCopy) : Bool := mine.any fun x => x.behind w
      let gone := s1.goneW.any hit
      ({ s1 with marks := s1.marks.filter fun x => !(x.of_ p), goneW := s1.goneW.filter fun w => !(hit w) } : State).respond p 8 0
        0 p.arg.toNat (if gone then 8 else 0) []

/-- A device has answered a release's markers (R235 step 4, R450): it leaves the owed sets of the release's colours but
those sent to it since. -/
def State.marked (s : State) (r : Release) (dev : Nat) : State :=
  let s1 := s.unowe r.core dev fun c => bit r.colours.toNat c && !r.since.contains (c, dev)
  { s1 with releases := s1.releases.map fun x => if x.id = r.id then { x with acked := x.acked ++ [dev] } else x }

/-- MARKER_ACKNOWLEDGEMENT. -/
def execMarkerAcknowledgement (p : Packet) (s : State) : Outcome State Fault Refusal :=
  onPacket 8 p fun _ =>
    let dev := p.sdev.toNat
    match s.releases.find? fun r => r.tag == p.rtag && r.no == p.arg && r.devs.contains dev && !r.acked.contains dev with
    | none => s
    | some r =>
      let s1 := s.marked r dev
      let s2 := if p.status = 8 then s1.raiseLater r.tid r.g r.pc r.mask r.mask 8 8 dev else s1
      s2.relAdvance r.id

/-! ## Answers to this device's requests (06 R141, R457) -/

/-- The requests that a response answers. -/
def State.answered (s : State) (p : Packet) : List Req := s.reqs.filter fun r => r.tag == p.rtag && r.dev == p.sdev.toNat

/-- They are no longer outstanding. -/
def State.dropReqs (s : State) (p : Packet) : State :=
  { s with reqs := s.reqs.filter fun r => !(r.tag == p.rtag && r.dev == p.sdev.toNat) }

/-- The answer to a load's request: its lane's value, and that of every lane that waits with it. -/
def State.loadAnswer (s : State) (tid g id lane : Nat) (bs : List Byte) : State :=
  (s.modGroup tid g fun x => x.modLq id fun e =>
    let ws := e.waiting.filter fun w => w.1 == lane || (e.uniform && !e.tile)
    { e with
      vals := e.vals ++ ws.map fun w => (w.1, mergeKnown w.2 bs.length bs)
      waiting := e.waiting.filter fun w => !ws.contains w }).acquired tid g id

/-- The address that a copy's sector was planned for. -/
def CopyOp.sectorVa (o : CopyOp) (key : Nat) : Nat :=
  ((o.plan.getD []).findSome? fun bs => bs.findSome? fun b => (b.needs o.bitwise).findSome? fun n =>
    if n.1.sectorKey = key then some n.2 else none).getD 0

/-- The answer to a copy's read. -/
def State.copyAnswer (s : State) (core id key status : Nat) (bs : List Byte) : State :=
  s.modCopy core id fun o =>
    let o1 := { o with reads := o.reads.filter fun r => r.1 != key }
    if status ≠ 0 then { o1 with failed := some (o.failed.getD ⟨8, status, o.sectorVa key⟩) }
    else match o.reads.find? fun r => r.1 == key with
      | some r => { o1 with capt := SMap.put o.capt key (mergeSector r.2 bs) }
      | none => o1

/-- The answer to a didx. -/
def State.didxAnswer (s : State) (core known status : Nat) (bs : List Byte) : State :=
  s.modDxp core fun x => { x with run := x.run.map fun r => { r with hold := r.hold.map fun h =>
    { h with passed := decide (status ≠ 0), ready := true
             answer := some (if status ≠ 0 then BitVec.ofNat 64 status else BitVec.ofNat 64 (mergeKnown known bs.length bs)) } } }

/-- READ_RESPONSE. -/
def execReadResponse (p : Packet) (s : State) : Outcome State Fault Refusal :=
  onPacket 2 p fun _ =>
    let st := p.status.toNat
    (s.answered p).foldl (fun (x : State) r => match r.why with
      | .load tid g id lane => if st ≠ 0 then x.refuseLoad tid g id lane 8 st else x.loadAnswer tid g id lane p.payload
      | .copyRead core id key => x.copyAnswer core id key st p.payload
      | .didx core known => x.didxAnswer core known st p.payload
      | .gather tid g va => x.modGroup tid g fun y => y.gathered va st p.payload
      | .srcRead _ id i => x.srcAnswer id i st p.payload
      | .standin part c ident sector => x.standinSector part c ident sector st p.payload
      | _ => x) (s.dropReqs p)

/-- One remote write of a copy's run has been applied: with the last, the sectors it ends are credited (R238). -/
def State.copyApplied (s : State) (core id sector : Nat) : State :=
  (s.modCopy core id fun x => { x with acks := x.acks.erase sector }).creditRun core id sector

/-- The barriers that an acknowledgement may credit are at hand (06 R144): until then it is not taken. -/
def State.creditsHere (s : State) (p : Packet) : Bool :=
  (s.answered p).all fun r => match r.why with
    | .copyWrite core id _ => (match s.copy? core id with | some o => s.barHere o | none => true)
    | _ => true

/-- WRITE_APPLIED. -/
def execWriteApplied (p : Packet) (s : State) : Outcome State Fault Refusal :=
  if !s.creditsHere p then .fault .notEnabled
  else onPacket 4 p fun _ =>
    (s.answered p).foldl (fun (x : State) r => match r.why with
      | .copyWrite core id sector => x.copyApplied core id sector
      | .collWrite tid g id => x.modColl tid g id fun c => { c with acks := c.acks - 1 }
      | _ => x) (s.dropReqs p)

/-- ATOMIC_RESPONSE: an atomic's value, or the end of a red's step (06 R141). -/
def execAtomicResponse (p : Packet) (s : State) : Outcome State Fault Refusal :=
  onPacket 6 p fun _ =>
    let st := p.status.toNat
    (s.answered p).foldl (fun (x : State) r => match r.why with
      | .red y => (if st ≠ 0 then x.redFails y 8 st else x).redSettle y.tid y.g y.id
      | .atomic tid g id lane =>
        if st ≠ 0 then x.refuseLoad tid g id lane 8 st
        else (x.modGroup tid g fun y => y.modLq id fun e =>
          { e with vals := e.vals ++ [(lane, ofBytes p.payload)], waiting := e.waiting.filter fun w => w.1 != lane }).acquired tid g id
      | _ => x) (s.dropReqs p)

/-- A refused write of a collective's destination (R427). -/
def State.refuseColl (s : State) (tid g id : Nat) : State :=
  match s.coll? tid g id with
  | some c => (s.modColl tid g id fun x => { x with acks := x.acks - 1 }).failColl c 3
  | none => s

/-- REFUSAL of a write (06 R141, 17 R378). -/
def execRefusal (p : Packet) (s : State) : Outcome State Fault Refusal :=
  onPacket 9 p fun _ =>
    let st := p.status.toNat
    (s.answered p).foldl (fun (x : State) r => match r.why with
      | .store ref => x.refuseRef st ref
      | .copyWrite core id sector => x.modCopy core id fun o =>
          let va := (((o.plan.getD []).getD sector []).findSome? fun b => match b.dst with
            | .loc (.remote _ pa) va => if pa / 128 = p.addr.toNat / 128 then some va else none
            | _ => none).getD 0
          { o with acks := o.acks.erase sector, wrote := o.wrote.erase sector, failed := some (o.failed.getD ⟨8, st, va⟩) }
      | .collWrite tid g id => x.refuseColl tid g id
      | .recvWrite ref => x.refuseRef st ref
      | _ => x) (s.dropReqs p)

/-! ## Invocations and handles (18 R416-R421, 07 R175) -/

/-- The answer to an invocation: the handle it gives. -/
def State.answerInv (s : State) (p : Packet) (h : Nat) : State :=
  s.respond p 0x0C p.dpart.toNat h (s.statusWord h) 0 []

/-- INVOCATION. -/
def execInvocation (p : Packet) (s : State) : Outcome State Fault Refusal :=
  onPacket 0x0A p fun _ =>
    let q : QInv := ⟨p.sdev.toNat, p.spart.toNat, 0, 0, p.payload.take 64, p.payload.drop 64, none, 0, 0, none⟩
    match s.accept q with
    | .error c => s.answerInv p (synth Config.devNum.toNat c)
    | .ok (s1, q1) => (s1.answerInv p (s1.handleOf q1.entry)).runNow q1

/-- FORWARDED_INVOCATION: busy where 32 are queued (07 R175); its number and the number of its issuing group are placed by
log 13. -/
def execForwardedInvocation (p : Packet) (s : State) : Outcome State Fault Refusal :=
  onPacket 0x0B p fun _ =>
    let arg := p.arg.toNat
    let q : QInv := ⟨p.sdev.toNat, p.spart.toNat, arg / 2 ^ 16, arg % 2 ^ 16, p.payload.take 64,
      p.payload.drop 64, some p.addr.toNat, 0, 0, none⟩
    match s.arriveUp q with
    | (s1, ts, some h) => (s1.answerInv p h).settleLate (hIdx p.addr.toNat) ts
    | (s1, _, none) => s1.respond p 0x0C p.dpart.toNat p.addr.toNat 1 1 []

/-- A query about a handle of this device (log 13). -/
def State.handleQuery (s : State) (p : Packet) : State :=
  let h := p.addr.toNat
  match p.arg.toNat / 4 with
  | 1 =>
    if s.statusWord h % 4 = 1 then
      let i := hIdx h
      let e := s.hEntry i
      s.setEntry i { e with watch := e.watch ++ [p] }
    else s.answerQuery p []
  | 3 => s.release_ h
  | n => s.answerQuery p (if 4 ≤ n then toBytes 8 (s.handleWord h (n - 4)) else [])

/-- The wait of a group, or of the instruction that its running handler interrupted, that a tag answers. -/
def Group.heard (g : Group) (tag v : W64) : Group :=
  let f (h : Hold) : Hold :=
    if (h.why = 11 ∨ h.why = 12) ∧ h.started ∧ !h.passed ∧ h.answer = some tag then
      { h with passed := true, ready := true, answer := some v }
    else h
  g.mapHolds f

/-- Invocations of a group to a handle from a sequence number on go again, in order, under new tags (07 R175); with no path
left they fail, and the numbers, none of which the handle has taken, are given again. -/
def State.resend (s0 : State) (core part : Nat) (r : Req) (tid g seq up : Nat) : State :=
  let no := (s0.issuerNo tid g).1
  let s := if (s0.pathsTo r.dev 2).isEmpty then s0.setInvSeq no up seq else s0
  let mine := s.reqs.filter fun q => match q.why with
    | .invoke t x _ _ u n _ => (s.issuerNo t x).1 == no && u == some up && decide ((n + 65536 - seq) % 65536 < 32768)
    | _ => false
  let rest := s.reqs.filter fun q => !mine.contains q
  mine.foldl (fun (x : State) q => match q.why with
    | .invoke t y id d u n payload =>
      let p := { mkPacket 0x0B part r.dev core up (forwardArg no n) payload with dpart := BitVec.ofNat 4 (invDesc payload).part }
      (match x.request core 2 p (.invoke t y id d u n payload) with
      | some z => z
      | none => x.giveHandle (t, y, id, d) (synth r.dev 4))
    | _ => x) { s with reqs := rest }

/-- The packet that ends an invocation of a partition that has been reset (19 R435, R436). -/
def invAbort (part dev h : Nat) : Packet := mkPacket 0x11 part dev 0 h 2 []

/-- HANDLE_ANSWER: a query from another device, or the answer to an invocation or query of this one. -/
def execHandleAnswer (p : Packet) (s : State) : Outcome State Fault Refusal :=
  onPacket 0x0C p fun _ =>
    let w := p.arg.toNat
    if w % 4 = 0 then s.handleQuery p
    else match (s.answered p).head? with
      | none => s
      | some r => match r.why with
        | .invoke tid g id d up seq _ => (match s.team? tid with
          | none => s.dropReqs p
          | some t =>
            if p.status ≠ 0 then s.resend t.core t.part r tid g seq (up.getD 0)
            else
              let s1 := (s.dropReqs p).giveHandle (tid, g, id, d) p.addr.toNat
              if w % 4 = 1 then s1.modPart t.part fun q => { q with abroad := q.abroad ++ [(r.dev, p.addr.toNat)] } else s1)
        | .orphan part =>
          let s1 := s.dropReqs p
          if p.status = 0 ∧ w % 4 = 1 then s1.unitSend (invAbort part r.dev p.addr.toNat) else s1
        | .handle tid g d code => (match s.team? tid with
          | none => s.dropReqs p
          | some t =>
            let s0 := s.dropReqs p
            let s1 := if w % 4 = 1 then s0 else s0.home_ t.part r.dev p.addr.toNat
            if code = 2 then
              let s2 := if w % 4 = 2 then s1.acquire t.core tid .sys else s1
              s2.modGroup tid g fun x => x.ws d.idx (BitVec.ofNat 64 w)
            else
              let v := if p.payload.isEmpty then w else ofBytes p.payload
              s1.modGroup tid g fun x => x.heard (tagWord p.rtag) (BitVec.ofNat 64 v))
        | _ => s

/-! ## Endpoints and collectives (18 R422-R427) -/

/-- ENDPOINT_MESSAGE. -/
def execEndpointMessage (p : Packet) (s : State) : Outcome State Fault Refusal :=
  onPacket 0x0D p fun _ =>
    let arg := p.arg.toNat
    let a := p.addr.toNat
    let m := mkMsg (bits arg 5 0) p.payload (bit arg 7) (bit arg 6) (bit a 24) (bits a 35 32)
      (.endpoint p.sdev.toNat p.spart.toNat (bits a 13 8) (bits a 21 16) (bits arg 31 16))
    let r := s.arriveFrom p.dpart.toNat (bits a 5 0) m
    r.2.2.respond p 0x0E p.dpart.toNat a arg r.1 []

/-- ENDPOINT_STATUS. -/
def execEndpointStatus (p : Packet) (s : State) : Outcome State Fault Refusal :=
  onPacket 0x0E p fun _ =>
    (s.answered p).foldl (fun (x : State) r => match r.why with
      | .send tid g id d ident isReply => (match x.team? tid with
        | none => x
        | some t =>
          let x1 := if isReply && p.status == 0 then
              x.modCtx t.part t.ctx fun y => y.answered (ident / 2 ^ 16) (ident % 2 ^ 16)
            else x
          x1.sendDone tid g id d p.status.toNat)
      | _ => x) (s.dropReqs p)

/-- COLLECTIVE_CONTRIBUTION. -/
def execCollectiveContribution (p : Packet) (s : State) : Outcome State Fault Refusal :=
  onPacket 0x0F p fun _ => s.collArrive p

/-- COLLECTIVE_RESULT. -/
def execCollectiveResult (p : Packet) (s : State) : Outcome State Fault Refusal :=
  onPacket 0x10 p fun _ => s.collArrive p

/-- An invocation of a resetting partition still in an order queue of this device fails under R418. -/
def State.abortInv (s : State) (p : Packet) : State :=
  match s.hresolve p.addr.toNat with
  | none => s
  | some (i, e) =>
    let up := (List.range 4096).find? fun j => (s.hEntry j).queue.any fun q =>
      q.entry == i && q.src == p.sdev.toNat && q.spart == p.spart.toNat
    match up with
    | some j =>
      if e.st ≠ 1 then s
      else
        let u := s.hEntry j
        (s.setEntry j { u with queue := u.queue.filter fun q => q.entry != i }).hSettle [(i, 3, 3)]
    | none => s

/-- ABORT (R435): 1 ends a collective with status 1, 2 an invocation that is still queued. -/
def execAbort (p : Packet) (s : State) : Outcome State Fault Refusal :=
  onPacket 0x11 p fun _ => if p.arg.toNat % 4 = 1 then s.collArrive p else s.abortInv p

end Sys2Proof.Machine
end

