-- ==== Sys2Proof/Machine/DxpIsa.lean ====
section
/-!
DEFINITION. Machine/DxpIsa.lean: row 0xE, the transfer processor's own instructions (17 R387-R395).
-/
namespace Sys2Proof.Machine

open Host (Outcome)

/-- The signed offset in IMM[28:0] from a PC (R388). -/
def dxOff (pc : Pc) (imm : BitVec 32) : Pc := pc + ofI 56 (sextI 29 imm.toNat)

/-- The loop level. -/
def dxLevel (imm : BitVec 32) : Nat := imm.toNat / 2 ^ 29

/-- dloop (R388). -/
def execDloop (i : Slots) (s : State) : Outcome State Fault Refusal :=
  runD s fun k =>
    let n := k.x.val i.a
    if 2 ^ 32 ≤ n then .error (.t 3 2 n)
    else if n = 0 then .ok (s, dxOff k.x.pc i.imm)
    else .ok (s.modDxp k.core fun x => { x with loops := SMap.set 0#32 x.loops (dxLevel i.imm) (BitVec.ofNat 32 n) }, k.x.pc + 12)

/-- dnext (R388). -/
def execDnext (i : Slots) (s : State) : Outcome State Fault Refusal :=
  runD s fun k =>
    let l := dxLevel i.imm
    let n := SMap.get 0#32 k.x.loops l
    if n = 0 then .error (.t 3 5 i.imm.toNat)
    else .ok (s.modDxp k.core fun x => { x with loops := SMap.set 0#32 x.loops l (n - 1) },
      if n = 1 then k.x.pc + 12 else dxOff k.x.pc i.imm)

/-- A unified address of n bytes as a DXP's program names it (R385, R389): its place, or the fault. -/
def State.dxPlace (s : State) (k : Dss) (kind : AccKind) (va n al : Nat) : Except Bail Loc :=
  if va / 2 ^ 32 = 0xFFFFFFFF then
    let a := va % 2 ^ 32
    match s.spadLoc k.run.cmd.tid k.t a n with
    | none => .error (.t 8 5 a)
    | some l => if a % al = 0 then .ok l else .error (.t 9 (Nat.log2 al) a)
  else match s.xlate k.t kind va with
    | .error e => .error (.t e.cause e.detail e.addr)
    | .ok l =>
      if va % al ≠ 0 then .error (.t 9 (Nat.log2 al) va)
      else match l with
        | .remote d _ => if (s.pathsTo d 0).isEmpty then .error (.t 8 6 va) else .ok l
        | _ => .ok l

/-- The bytes of a width code of didx: n32, i32, n64, n16. -/
def dxWidth (w : Nat) : Nat := match w with | 2 => 8 | 3 => 2 | _ => 4

/-- The value of a didx from its bytes. -/
def dxLoaded (w : Nat) (bs : List Byte) : W64 := if w = 1 then ofI 64 (sextI 32 (ofBytes bs)) else BitVec.ofNat 64 (ofBytes bs)

/-- A wait of a DXP instruction. -/
def dxWait (n : Nat) : Bail := .hold { Hold.wait n with started := true }

/-- didx: the value is read once, as a copy source is (R389); of remote memory it is asked for. -/
def execDidx (i : Slots) (s : State) : Outcome State Fault Refusal :=
  runDW s fun k =>
    let w := i.imm.toNat / 2 ^ 30
    let n := dxWidth w
    let va := wrapI 64 ((k.x.val i.a : Int) + sextI 28 i.imm.toNat)
    let out (y : State) (bs : List Byte) : Except Bail (State × Pc × Option Hold) :=
      .ok (y.modDxp k.core fun x => x.wop i.d (dxLoaded w bs), k.x.pc + 12, none)
    match s.dxPlace k .load va n n with
    | .error b => .error b
    | .ok l =>
      match k.waiting with
      | some h => (match h.answer with
        | some v => if h.passed then .error (.t 8 v.toNat va) else out s (toBytes n v.toNat)
        | none => .error (.hold h))
      | none =>
        match s.fillWait [⟨0, va, l, n⟩] with
        | .error b => .error b
        | .ok () =>
          let er := s.readErr k.core k.t.part l n va
          match er.2 with
          | some kind => .ok (er.1.dxFault k.core ⟨13, kind, errAddr kind va⟩, k.x.pc, none)
          | none => match l with
            | .spad t off => out er.1 (er.1.spadBytes t off n)
            | .mem pa key => let r := er.1.readMem k.core key pa n false; out r.2 r.1
            | .remote d pa =>
              let known := (List.range n).map fun j => (s.core k.core).wcByte d (pa + j)
              if known.all fun b => b.isSome then out er.1 (known.map fun b => b.getD 0)
              else match er.1.request k.core 0 (mkPacket 1 k.t.part d k.core pa n []) (.didx k.core (packKnown known)) with
              | none => .error (.t 8 6 va)
              | some y => .ok (y, k.x.pc, some { Hold.wait 12 with started := true })

/-- The sum of coordinates times strides (R390). -/
def dxAddress (x : Dxp) (a n : Nat) : Int :=
  (List.range n).foldl (fun (t : Int) j =>
    t + sextI 32 (x.rd (a + 2 * j)).toNat * (x.rd (a + 2 * j + 1)).toNat) 0

/-- daddr, form 0 (R390). -/
def execDaddr (i : Slots) (s : State) : Outcome State Fault Refusal :=
  runDx s fun k => .ok (k.x.wop i.d (ofI 64 ((k.x.val i.b : Int) + dxAddress k.x i.a.idx (i.imm.toNat % 8))))

/-- daddr.cmd: a command word (R385, R390). -/
def execDaddrCmd (i : Slots) (s : State) : Outcome State Fault Refusal :=
  runDx s fun k => .ok (k.x.wop i.d (k.run.cmd.words.getD (i.imm.toNat % 8) 0))

/-- A barrier that a DXP instruction names, read (R392, R393); slot is that of its operand. On a non-resident page the DETAIL
says which side of R395 it is on: 0 for dwaitev, which reads it as tbwait does, and 1 for those that write it. -/
def State.dxBar (s : State) (k : Dss) (kind : AccKind) (va slot : Nat) : Except Bail (Loc × Bar × State) :=
  match s.dxPlace k kind va 16 16 with
  | .error (.trap 7 _ _ _) => .error (.t 7 (if kind = .load then 0 else 1) va)
  | .error b => .error b
  | .ok (.remote _ _) => .error (.t 3 slot va)
  | .ok l =>
    match s.fillWait [⟨0, va, l, 16⟩] with
    | .error b => .error b
    | .ok () =>
      let r := s.barRead k.core l
      if r.1.bad then .error (.t 2 0xFF (barAddr va)) else .ok (l, r.1, r.2)

/-- The copy that a dxfer starts. -/
def Dss.xfer (k : Dss) (id dst src sectors bar : Nat) (phase : Option Nat) (named zero : Bool)
    (loc : Option Loc) (gate : Except Trap (Nat × Nat)) :
    CopyOp :=
  { id := id, tid := k.run.cmd.tid, g := k.run.cmd.g, opId := id, cls := .cpy, dx := true, pc := k.run.cmd.pc, thread := 0
    mask := k.run.cmd.mask, spec := .xfer dst src sectors zero, tag := 0
    scomp := match gate with | .ok c => c.1 | .error _ => 0
    dcomp := match gate with | .ok c => c.2 | .error _ => 0
    named := named, bar := bar, barLoc := loc, phase := phase, size := 32 * sectors, draft := [], plan := none, capt := []
    reads := [], wrote := [], acks := [], credited := [], failed := match gate with | .ok _ => none | .error t => some t }

/-- The side of a transfer that a unified address gives: none for scratchpad. -/
def xferSide (va n : Nat) : Option (List (Nat × Nat)) := if va / 2 ^ 32 = 0xFFFFFFFF then none else some [(va, n)]

/-- dxfer: a transfer starts; a seventeenth waits (R391). -/
def execDxfer (i : Slots) (s : State) : Outcome State Fault Refusal :=
  runD s fun k =>
    let imm := i.imm.toNat
    let dst := k.x.val i.d
    let src := k.x.val i.a
    let n := imm % 256 + 1
    let zero := bit imm 8
    if 16 ≤ (s.core k.core).dxfers.length then .error (dxWait 2)
    else if dst % 32 ≠ 0 then .error (.t 9 5 (barAddr dst))
    else if !zero ∧ src % 32 ≠ 0 then .error (.t 9 5 (barAddr src))
    else
      let bar := k.x.val i.b
      match (if i.b.isNil then .ok (none, none, s) else match s.dxBar k .atomic bar 3 with
          | .error b => .error b
          | .ok (l, b, s1) => .ok (some l, some b.phase, s1) : Except Bail (Option Loc × Option Nat × State)) with
      | .error b => .error b
      | .ok (loc, phase, s1) =>
        let gt := gateOut s1 (s1.passGate k.t (bits imm 15 9) (if zero then some [] else xferSide src (32 * n))
          (xferSide dst (32 * n)) (32 * n))
        let (id, s2) := gt.1.newOp
        let op := k.xfer id dst src n (if i.b.isNil then 0 else bar) phase (!i.b.isNil) zero loc gt.2
        .ok (s2.modCore k.core fun c => { c with copies := c.copies ++ [op] }, k.x.pc + 12)

/-- darrive: waits for the program's transfers, then lowers ARRIVE (R392). -/
def execDarrive (i : Slots) (s : State) : Outcome State Fault Refusal :=
  runD s fun k =>
    let va := k.x.val i.a
    let n := i.imm.toNat
    if !(s.core k.core).dxfers.isEmpty then .error (dxWait 2)
    else match s.dxBar k .atomic va 2 with
      | .error b => .error b
      | .ok (l, b, s1) =>
        if s1.barOwed l b < n then .error (.t 10 b.phase (barAddr va))
        else if !inI32 (b.arrive - n) then .error (.t 3 5 n)
        else .ok (s1.barApply k.core l fun b => { b with arrive := b.arrive - n }, k.x.pc + 12)

/-- dwaitev: waits for a barrier to leave a phase, or for a time-out (R393); completion wins. -/
def execDwaitev (i : Slots) (s : State) : Outcome State Fault Refusal :=
  runD s fun k =>
    match s.dxBar k .load (k.x.val i.a) 2 with
    | .error b => .error b
    | .ok (l, b, s1) =>
      let out (y : State) (v : W64) : Except Bail (State × Pc) := .ok (y.modDxp k.core fun x => x.wop i.d v, k.x.pc + 12)
      if b.phase ≠ i.imm.toNat % 16 then out (s1.acquire k.core k.run.cmd.tid (barScope l)) 0
      else match k.waiting with
        | some h => if h.timedOut then out s1 1 else .error (.hold h)
        | none =>
          .error (.hold { Hold.wait 5 with
            started := true, deadline := if i.b.isNil then none else s.deadline k.t (k.x.val i.b) })

/-- dend: the program ends once its transfers are complete (R392). -/
def execDend (_ : Slots) (s : State) : Outcome State Fault Refusal :=
  match s.dxIssuer with
  | none => .fault .noIssuer
  | some k => match k.run.stop with
    | some tr => .next (s.dxFault k.core tr).done
    | none => .next (s.dxEnd k.core).done

end Sys2Proof.Machine
end

