-- ==== Sys2Proof/Machine/Sync.lean ====
section
/-!
DEFINITION. Machine/Sync.lean: the rest of row 0x9 (15 R340-R344, R349-R353): fences, waitc, the team barrier, stage
rings, the cluster event queue, markers and write-combining drains.
-/
namespace Sys2Proof.Machine

open Host (Outcome)

/-! ## Fences (R340, 10 R231, R237) -/

/-- The order and scope codes and the colours of a fence, as its wait holds them: [7:0], [15:8], [23:16]. -/
def fenceWord (i : MemI) : Nat := i.imm.toNat % 256 + 2 ^ 8 * scopeCode i.scope + 2 ^ 16 * orderCode i.order

/-- Every older load and atomic has its value and no store or red of some colours is left (R340 ORDER 0). -/
def Group.quiet (g : Group) (colours : Nat) : Bool :=
  g.lq.all (fun e => e.full) && g.sb.all fun e => !(bit colours e.colour)

/-- The fence's parts are complete: an acquire once every older load has its value, a release once its steps are done. -/
def Group.fenceDone (g : Group) (i : MemI) (released : Bool) : Bool :=
  match i.order with
  | .plain => g.quiet i.imm.toNat
  | .acq => g.quiet 0
  | _ => released

def execFence (i : MemI) (s : State) : Outcome State Fault Refusal :=
  runS 0x241 s i.toSlots ([], []) fun k =>
    if i.order ≠ .plain ∧ i.scope = .lane then .ok s
    else
      let h := (k.waiting 12).getD { Hold.wait 12 with started := true, answer := some (BitVec.ofNat 64 (fenceWord i)) }
      if k.gr.fenceDone i h.passed then
        .ok (if i.order = .acq ∨ i.order = .ar then s.acquire k.t.core k.tid i.scope else s)
      else .error (.hold { h with ready := false })

/-! ## waitc (R343) -/

/-- The counters in the order of the thresholds. -/
def Group.counters (g : Group) : List Nat :=
  [ocOf g.ops .ld, ocOf g.ops .st, ocOf g.ops .cpy, ocOf g.ops .mtx, ocOf g.ops .gth, ocOf g.ops .col]

/-- Every counter is at or below its threshold; 15 sets none. -/
def Group.waitcOk (g : Group) (imm : Nat) : Bool :=
  (List.range 6).all fun n => bits imm (4 * n + 3) (4 * n) == 15 || decide (g.counters.getD n 0 ≤ bits imm (4 * n + 3) (4 * n))

def execWaitc (i : MemI) (s : State) : Outcome State Fault Refusal :=
  runS 0x242 s i.toSlots ([], []) fun k =>
    if k.gr.waitcOk i.imm.toNat then .ok s
    else .error (.hold { Hold.wait 6 with started := true })

/-! ## The team barrier (R344) -/

/-- bar: the fence part, then the arrival, which may open the barrier; released in its wave (02 R46). -/
def execBar (i : MemI) (s : State) : Outcome State Fault Refusal :=
  match s.issuer with
  | none => .fault .noIssuer
  | some k => match k.enter 0x243 ([], []) with
    | .error b => .next (s.bail k b)
    | .ok () => match k.waiting 4 with
      | some h => if h.passed then .next (s.retire k i.hint k.fall none) else .next (s.bail k (.hold { h with ready := false }))
      | none =>
        if k.gr.quiet 255 then
          .next ((s.bail k (.hold { Hold.wait 4 with started := true })).modTeam k.tid fun t => t.barCheck)
        else .next (s.bail k (.hold (Hold.wait 4)))

/-! ## Stage rings (R349-R351, 07 R168) -/

/-- A ring of a team. -/
def Team.ring (t : Team) (n : Nat) : Ring := SMap.get Ring.empty t.rings n
/-- Set a ring. -/
def Team.setRing (t : Team) (n : Nat) (r : Ring) : Team := { t with rings := SMap.set Ring.empty t.rings n r }

/-- The slots of the ring that IMM names, or its trap (R349), which the fetched word has taken at step 5d (Iss.ringWord). -/
def Iss.ringSize (k : Iss) (imm : Nat) : Except Bail Nat :=
  match k.t.lrec.rings[imm % 8]? with
  | some d => .ok d.size
  | none => .error (.t 3 5 imm)

/-- Another group of the team began to wait for the same index earlier (R350). An index serves one group a cycle: in a cycle in
which it has served another the instruction waits (07 R168). -/
def Iss.ringAhead (k : Iss) (why ring : Nat) : Bool :=
  let mine := (k.waiting why).map fun h => h.since
  (List.range k.t.groups.length).any fun j =>
    j != k.g && (match k.t.groups[j]? with
    | some g => !g.halted && g.holds.any fun h => h.why == why && h.started && (h.answer.getD 0).toNat == ring
        && (match mine with | some m => decide (h.since < m) | none => true)
    | none => false)

/-- The wait of a ring instruction. -/
def ringHold (why ring : Nat) : Bail := .hold { Hold.wait why with started := true, answer := some (BitVec.ofNat 64 ring) }

def execRingput (i : MemI) (s : State) : Outcome State Fault Refusal :=
  runS 0x249 s i.toSlots (linesOf i.toSlots false 0) fun k =>
    match k.ringSize i.imm.toNat with
    | .error b => .error b
    | .ok n =>
      let q := i.imm.toNat % 8
      let r := k.t.ring q
      if r.full.getLsbD r.put || r.putNow || k.ringAhead 7 q then .error (ringHold 7 q)
      else .ok ((s.modTeam k.tid fun t => t.setRing q { r with put := (r.put + 1) % n, putNow := true }).modGroup k.tid k.g fun g =>
        g.ws i.d.idx (BitVec.ofNat 64 r.put))

def execRingget (i : MemI) (s : State) : Outcome State Fault Refusal :=
  runS 0x24A s i.toSlots (linesOf i.toSlots false 0) fun k =>
    match k.ringSize i.imm.toNat with
    | .error b => .error b
    | .ok n =>
      let q := i.imm.toNat % 8
      let r := k.t.ring q
      if !r.full.getLsbD r.get || r.getNow || k.ringAhead 8 q then .error (ringHold 8 q)
      else .ok ((s.modTeam k.tid fun t => t.setRing q { r with get := (r.get + 1) % n, getNow := true }).modGroup k.tid k.g fun g =>
        g.ws i.d.idx (BitVec.ofNat 64 (r.get + 2 ^ 16 * b2n (r.phase.getLsbD r.get))))

/-- A slot becomes full and flips its phase bit, or becomes empty; in that state already, nothing changes (R351). -/
def Team.ringSet (t : Team) (q slot : Nat) (fill : Bool) : Team :=
  let r := t.ring q
  let m : BitVec 16 := 1#16 <<< slot
  if fill then (if r.full.getLsbD slot then t else t.setRing q { r with full := r.full ||| m, phase := r.phase ^^^ m })
  else (if r.full.getLsbD slot then t.setRing q { r with full := r.full &&& ~~~m } else t)

/-- A ringrel of either form (R351): the slot's state is judged now; the effect waits for the group's older accesses. -/
def ringrel (fill : Bool) (i : MemI) (s : State) (k : Iss) : Except Bail State :=
  match k.ringSize i.imm.toNat with
  | .error b => .error b
  | .ok n =>
    let q := i.imm.toNat % 8
    let a := (k.gr.uni i.a 0) % 2 ^ 64
    let slot := a % 16
    if bits a 15 4 ≠ 0 ∨ n ≤ slot then .error (.t 3 2 a)
    else if (k.t.ring q).full.getLsbD slot == fill then .error (.t 3 2 a)
    else if k.gr.quiet (if fill then 255 else 0) then .ok (s.modTeam k.tid fun t => t.ringSet q slot fill)
    else
      let (id, s1) := s.newOp
      .ok (s1.modGroup k.tid k.g fun g =>
        { g with pend := g.pend ++ [⟨id, id, k.e.pc, k.e.mask, if fill then .ringFill q slot else .ringFree q slot, false⟩] })

def execRingrelFill (i : MemI) (s : State) : Outcome State Fault Refusal :=
  runS 0x24B s i.toSlots (linesOf i.toSlots false 0) fun k => ringrel true i s k

def execRingrelFree (i : MemI) (s : State) : Outcome State Fault Refusal :=
  runS 0x24B s i.toSlots (linesOf i.toSlots false 0) fun k => ringrel false i s k

/-! ## The cluster event queue (R352, R353, 07 R165, R166) -/

def execEvpost (i : MemI) (s : State) : Outcome State Fault Refusal :=
  runS 0x24C s i.toSlots (linesOf i.toSlots false 1) fun k =>
    let n := i.a.idx
    let s1 := s.clearIdem k.tid
    let full := decide (224 ≤ s.evCount k.t.core)
    let s2 := if full then s1 else s1.pushEv k.t.core 3 (k.gr.rs n) (k.gr.rs (n + 1)) (k.gr.rs i.b.idx)
    .ok (s2.modGroup k.tid k.g fun g => g.ws i.d.idx (if full then 1 else 0))

/-- Groups that wait at evget on a cluster's queue, by when they began. -/
def State.evWaiters (s : State) (cl : Nat) : List (Nat × Nat × Nat) :=
  s.teams.flatMap fun e =>
    if clusterOf e.2.core ≠ cl then []
    else (List.range e.2.groups.length).filterMap fun g =>
      match e.2.groups[g]? with
      | none => none
      | some gr => match gr.holds.find? fun h => h.why == 9 && h.started with
        | some h => if gr.halted then none else some (e.1, g, h.since)
        | none => none

/-- The head record leaves the queue into four registers, with COUNT and LOST in its first word (R353). -/
def State.evTake (s : State) (k : Iss) (n : Nat) (r : EvRec) (rest : List EvRec) : State :=
  let cl := clusterOf k.t.core
  let c := s.cluster cl
  let w0 := r.w0 ||| BitVec.ofNat 64 (2 ^ 12 * rest.length + 2 ^ 21 * b2n (c.lost != 0))
  ((s.setCluster cl { c with evq := rest }).modGroup k.tid k.g fun g =>
    (((g.ws n w0).ws (n + 1) r.w1).ws (n + 2) r.w2).ws (n + 3) r.w3).clearIdem k.tid

def execEvget (i : MemI) (s : State) : Outcome State Fault Refusal :=
  runS 0x24D s i.toSlots (linesOf i.toSlots false 3) fun k =>
    let cl := clusterOf k.t.core
    let ws := (s.evWaiters cl).filter fun w => !(w.1 == k.tid && w.2.1 == k.g)
    let n := i.d.idx
    let try_ := bit i.imm.toNat 0
    let ahead := match k.waiting 9 with
      | some h => ws.any fun w => decide (w.2.2 < h.since)
      | none => !ws.isEmpty
    match (s.cluster cl).evq with
    | r :: rest =>
      if !ahead then .ok (s.evTake k n r rest)
      else if try_ then .ok (s.modGroup k.tid k.g fun g => (((g.ws n 0).ws (n + 1) 0).ws (n + 2) 0).ws (n + 3) 0)
      else .error (.hold { Hold.wait 9 with started := true })
    | [] =>
      if try_ then .ok (s.modGroup k.tid k.g fun g => (((g.ws n 0).ws (n + 1) 0).ws (n + 2) 0).ws (n + 3) 0)
      else .error (.hold { Hold.wait 9 with started := true })

/-! ## Markers and drains (R341, R342, 10 R235, R237) -/

def execMarker (i : MemI) (s : State) : Outcome State Fault Refusal :=
  runS 0x24E s i.toSlots (linesOf i.toSlots false 0) fun k =>
    let colours := i.imm.toNat % 256
    let core := k.t.core
    let a := k.gr.uni i.a 0
    if i.a.isS ∧ 4096 ≤ a then .error (.t 3 2 a)
    else if i.a.isS ∧ a ≠ Config.devNum.toNat ∧ (s.pathsTo a 0).isEmpty then .error (.t 8 6 a)
    else match k.gr.counterWait .st with
      | .error b => .error b
      | .ok () =>
        let (id, s1) := s.newOp
        let s2 := s1.modGroup k.tid k.g fun g => g.addOp id .st
        if i.a.isS ∧ a = Config.devNum.toNat then .ok (s2.endOp k.tid k.g id)
        else
          let s3 := s2.wcDrainAll core fun e => decide (e.colours.toNat &&& colours ≠ 0)
          let devs := if i.a.isS then [a] else (s3.core core).owedDevs colours []
          .ok (s3.startMarkers core k.tid k.g k.t.part k.e.pc k.e.mask colours devs [] (.marker id))

def execWcdrain (i : MemI) (s : State) : Outcome State Fault Refusal :=
  runS 0x24F s i.toSlots ([], []) fun k =>
    .ok (s.wcDrainAll k.t.core fun e => e.owners.contains (k.t.part, k.t.ctx))

end Sys2Proof.Machine
end

