-- ==== Sys2Proof/Machine/Issue.lean ====
section
/-!
DEFINITION. Machine/Issue.lean: the meaning of an encodable instruction, for the moves that ask whether an agent's next
instruction would be held (02 R33); no event is issued by an agent.
-/
namespace Sys2Proof.Machine

open Host (Outcome)

/-- What an instruction does when its agent issues it. -/
def issue (i : Instr) (s : State) : Outcome State Fault Refusal :=
  match i with
  | .nop i => execNop i s
  | .exit i => execExit i s
  | .trap i => execTrap i s
  | .tret i => execTret i s
  | .tqrd i => execTqrd i s
  | .tqrdDxp i => execTqrdDxp i s
  | .srd i => execSrd i s
  | .swr i => execSwr i s
  | .vclk i => execVclk i s
  | .alarm i => execAlarm i s
  | .alwait i => execAlwait i s
  | .alcan i => execAlcan i s
  | .phase i => execPhase i s
  | .yield i => execYield i s
  | .brkpt i => execBrkpt i s
  | .idem i => execIdem i s
  | .idemClr i => execIdemClr i s
  | .rdctx i => execRdctx i s
  | .bra i => execBra i s
  | .brx i => execBrx i s
  | .call i => execCall i s
  | .calli i => execCalli i s
  | .ret i => execRet i s
  | .vote i => execVote i s
  | .shfl i => execShfl i s
  | .actmask i => execActmask i s
  | .cvdecl i => execCvdecl i s
  | .cvsign i => execCvsign i s
  | .cvtest i => execCvtest i s
  | .iadd i => execIadd i s
  | .isub i => execIsub i s
  | .imul i => execImul i s
  | .imulh i => execImulh i s
  | .imad i => execImad i s
  | .idiv i => execIdiv i s
  | .irem i => execIrem i s
  | .imin i => execImin i s
  | .imax i => execImax i s
  | .iabs i => execIabs i s
  | .ineg i => execIneg i s
  | .and i => execAnd i s
  | .or i => execOr i s
  | .xor i => execXor i s
  | .not i => execNot i s
  | .shl i => execShl i s
  | .shr i => execShr i s
  | .sar i => execSar i s
  | .rotl i => execRotl i s
  | .popc i => execPopc i s
  | .clz i => execClz i s
  | .brev i => execBrev i s
  | .bfx i => execBfx i s
  | .bfi i => execBfi i s
  | .icmp i => execIcmp i s
  | .sel i => execSel i s
  | .mov i => execMov i s
  | .lea i => execLea i s
  | .sadd i => execSadd i s
  | .isad i => execIsad i s
  | .bcast i => execBcast i s
  | .extract i => execExtract i s
  | .getid i => execGetid i s
  | .ldk i => execLdk i s
  | .movp i => execMovp i s
  | .fadd i => execFadd i s
  | .fsub i => execFsub i s
  | .fmul i => execFmul i s
  | .ffma i => execFfma i s
  | .fmin i => execFmin i s
  | .fmax i => execFmax i s
  | .fabs i => execFabs i s
  | .fneg i => execFneg i s
  | .fcmp i => execFcmp i s
  | .frcp i => execFrcp i s
  | .frsq i => execFrsq i s
  | .fsqrt i => execFsqrt i s
  | .fexp2 i => execFexp2 i s
  | .flog2 i => execFlog2 i s
  | .fsin i => execFsin i s
  | .fcos i => execFcos i s
  | .ftanh i => execFtanh i s
  | .fdiv i => execFdiv i s
  | .ffloor i => execFfloor i s
  | .fround i => execFround i s
  | .fclass i => execFclass i s
  | .fdot2 i => execFdot2 i s
  | .fdot4 i => execFdot4 i s
  | .cvt i => execCvt i s
  | .tileCvtComplete _ _ => .fault .noIssuer
  | .pack i => execPack i s
  | .unpk i => execUnpk i s
  | .scl i => execScl i s
  | .sclf i => execSclf i s
  | .tagrd i => execTagrd i s
  | .tagset i => execTagset i s
  | .sat i => execSat i s
  | .ldg i => execLdg i s
  | .lds i => execLds i s
  | .ldun i => execLdun i s
  | .ldm i => execLdm i s
  | .pgreq i => execPgreq i s
  | .pref i => execPref i s
  | .stg i => execStg i s
  | .sts i => execSts i s
  | .stun i => execStun i s
  | .stm i => execStm i s
  | .atom i => execAtom i s
  | .atoms i => execAtoms i s
  | .red i => execRed i s
  | .atomf i => execAtomf i s
  | .fence i => execFence i s
  | .waitc i => execWaitc i s
  | .bar i => execBar i s
  | .tbinit i => execTbinit i s
  | .tbarrive i => execTbarrive i s
  | .tbexpect i => execTbexpect i s
  | .tbwait i => execTbwait i s
  | .tbtest i => execTbtest i s
  | .ringput i => execRingput i s
  | .ringget i => execRingget i s
  | .ringrelFill i => execRingrelFill i s
  | .ringrelFree i => execRingrelFree i s
  | .evpost i => execEvpost i s
  | .evget i => execEvget i s
  | .marker i => execMarker i s
  | .wcdrain i => execWcdrain i s
  | .mma i => execMma i s
  | .mmab i => execMmab i s
  | .vatld i => execVatld i s
  | .vatst i => execVatst i s
  | .vatclr i => execVatclr i s
  | .vatcp i => execVatcp i s
  | .mtrans i => execMtrans i s
  | .mscale i => execMscale i s
  | .matrixOpComplete _ _ _ => .fault .noIssuer
  | .wfcfg i => execWfcfg i s
  | .wfband i => execWfband i s
  | .wfrun i => execWfrun i s
  | .wfedge i => execWfedge i s
  | .tbwalk i => execTbwalk i s
  | .wfscore i => execWfscore i s
  | .cpyt i => execCpyt i s
  | .cpyg i => execCpyg i s
  | .cpys i => execCpys i s
  | .dxrun i => execDxrun i s
  | .dxsig i => execDxsig i s
  | .copySectorWrite _ _ _ _ => .fault .noIssuer
  | .copyComplete _ _ => .fault .noIssuer
  | .dxpProgramStart _ => .fault .noIssuer
  | .dloop i => execDloop i s
  | .dnext i => execDnext i s
  | .didx i => execDidx i s
  | .daddr i => execDaddr i s
  | .daddrCmd i => execDaddrCmd i s
  | .dxfer i => execDxfer i s
  | .darrive i => execDarrive i s
  | .dwaitev i => execDwaitev i s
  | .dend i => execDend i s
  | .dxpBra i => execDxpBra i s
  | .dxpCall i => execDxpCall i s
  | .dxpRet i => execDxpRet i s
  | .dxpDrainTimeout _ => .fault .noIssuer
  | .invk i => execInvk i s
  | .invh i => execInvh i s
  | .hwait i => execHwait i s
  | .htest i => execHtest i s
  | .hrel i => execHrel i s
  | .hget i => execHget i s
  | .epsend i => execEpsend i s
  | .eprecv i => execEprecv i s
  | .epstand i => execEpstand i s
  | .coll i => execColl i s
  | .collComplete _ _ _ => .fault .noIssuer
  | .epsendComplete _ _ _ => .fault .noIssuer
  | .invocationResultReady _ _ => .fault .noIssuer
  | .trapDelivery _ _ => .fault .noIssuer
  | .stallHintExpiry _ _ => .fault .noIssuer
  | .alarmExpiry _ _ _ => .fault .noIssuer
  | .timeoutExpiry _ => .fault .noIssuer
  | .waitReleased _ => .fault .noIssuer
  | .barReleaseWave _ => .fault .noIssuer
  | .storePerform _ _ _ => .fault .noIssuer
  | .releasePerform _ _ _ => .fault .noIssuer
  | .coreViewWriteback _ _ => .fault .noIssuer
  | .coreViewFill _ _ => .fault .noIssuer
  | .coreViewDrop _ _ => .fault .noIssuer
  | .loadValueTake _ _ _ => .fault .noIssuer
  | .atomicStep _ _ _ => .fault .noIssuer
  | .loadComplete _ _ _ _ _ => .fault .noIssuer
  | .wcAgeDrain _ _ => .fault .noIssuer
  | .backInvalidationResponse _ => .fault .noIssuer
  | .registerLineFill _ _ _ _ => .fault .noIssuer
  | .vatTileSwap _ _ _ => .fault .noIssuer
  | .spmapLineFill _ _ _ => .fault .noIssuer
  | .spmapSpaceWriteback _ => .fault .noIssuer
  | .launchDoorbell _ _ => .fault .noIssuer
  | .launchCheck _ => .fault .noIssuer
  | .teamPlacement _ => .fault .noIssuer
  | .launchComplete _ _ => .fault .noIssuer
  | .hotspotMigration _ _ => .fault .noIssuer
  | .preemption _ _ => .fault .noIssuer
  | .partitionSwap _ => .fault .noIssuer
  | .stopIntervalClose _ _ => .fault .noIssuer
  | .brineVisible _ _ => .fault .noIssuer
  | .patienceExpiry _ _ _ => .fault .noIssuer
  | .standinDeferredWrite _ _ => .fault .noIssuer
  | .evqHeldRecordPost _ => .fault .noIssuer
  | .recordsLostPost _ => .fault .noIssuer
  | .noticesLostPost _ => .fault .noIssuer
  | .temperatureSample _ _ _ => .fault .noIssuer
  | .droopEvent _ => .fault .noIssuer
  | .droopCapExpiry _ => .fault .noIssuer
  | .powerGood => .fault .noIssuer
  | .clpartWrite _ _ => .fault .noIssuer
  | .partctlEnSet _ => .fault .noIssuer
  | .partctlEnClear _ => .fault .noIssuer
  | .partitionResetComplete _ => .fault .noIssuer
  | .partctlHaltSet _ => .fault .noIssuer
  | .partctlHaltClear _ => .fault .noIssuer
  | .mastctlGo _ _ => .fault .noIssuer
  | .dbgctlGo _ => .fault .noIssuer
  | .dbgctlStepSet _ => .fault .noIssuer
  | .dbgctlStepClear _ => .fault .noIssuer
  | .pmselClr _ _ _ => .fault .noIssuer
  | .pmselWrite _ _ _ _ => .fault .noIssuer
  | .pmcntWrite _ _ _ _ => .fault .noIssuer
  | .pfcmdRaiseGeneration _ => .fault .noIssuer
  | .generationWrapInvalidate => .fault .noIssuer
  | .pfcmdWriteEndpoint _ => .fault .noIssuer
  | .pfcmdClearOpt _ => .fault .noIssuer
  | .pfcmdClearPartitionOpt _ => .fault .noIssuer
  | .pfcmdSetLock _ => .fault .noIssuer
  | .pfcmdClearLock _ => .fault .noIssuer
  | .pfcmdSupplyFirmware _ => .fault .noIssuer
  | .pfcmdUnknownOp _ => .fault .noIssuer
  | .eppostWrite _ _ => .fault .noIssuer
  | .evqstatRead _ => .fault .noIssuer
  | .dxpTrapqRead _ => .fault .noIssuer
  | .registerWrite _ _ _ => .fault .noIssuer
  | .vfFunctionLevelReset _ => .fault .noIssuer
  | .cxlMemRead _ _ _ => .fault .noIssuer
  | .cxlMemWrite _ _ _ => .fault .noIssuer
  | .readRequest _ => .fault .noIssuer
  | .readResponse _ => .fault .noIssuer
  | .writePacket _ => .fault .noIssuer
  | .writeApplied _ => .fault .noIssuer
  | .atomicRequest _ => .fault .noIssuer
  | .atomicResponse _ => .fault .noIssuer
  | .shroudMarker _ => .fault .noIssuer
  | .markerAcknowledgement _ => .fault .noIssuer
  | .refusal _ => .fault .noIssuer
  | .invocation _ => .fault .noIssuer
  | .forwardedInvocation _ => .fault .noIssuer
  | .handleAnswer _ => .fault .noIssuer
  | .endpointMessage _ => .fault .noIssuer
  | .endpointStatus _ => .fault .noIssuer
  | .collectiveContribution _ => .fault .noIssuer
  | .collectiveResult _ => .fault .noIssuer
  | .abort _ => .fault .noIssuer
  | .malformedPacket _ => .fault .noIssuer
  | .lornanPortDown _ => .fault .noIssuer
  | .lornanPortRetrain _ => .fault .noIssuer
  | .zaronReefFrame _ => .fault .noIssuer
  | .zaronPathUpdate _ => .fault .noIssuer
  | .pathUpdateApply => .fault .noIssuer
  | .zaronTelemetryRequest _ => .fault .noIssuer
  | .zaronUnknownFrame _ => .fault .noIssuer
  | .setEndpointId _ => .fault .noIssuer
  | .getEndpointId _ => .fault .noIssuer
  | .getMctpVersionSupport _ => .fault .noIssuer
  | .getMessageTypeSupport _ => .fault .noIssuer
  | .mctpUnsupportedCommand _ => .fault .noIssuer
  | .getVersion _ => .fault .noIssuer
  | .getCapabilities _ => .fault .noIssuer
  | .negotiateAlgorithms _ => .fault .noIssuer
  | .getDigests _ => .fault .noIssuer
  | .getCertificate _ => .fault .noIssuer
  | .challenge _ => .fault .noIssuer
  | .getMeasurements _ => .fault .noIssuer
  | .keyExchange _ => .fault .noIssuer
  | .finish _ => .fault .noIssuer
  | .endSession _ => .fault .noIssuer
  | .spdmUnsupportedRequest _ => .fault .noIssuer
  | .quadrantCycle _ _ => .fault .noIssuer
  | .referenceClockPeriod => .fault .noIssuer
  | .lossOfPower _ => .fault .noIssuer
  | .lornanLinkTraining _ => .fault .noIssuer
  | .cxlLinkTraining _ _ _ => .fault .noIssuer

end Sys2Proof.Machine
end

