-- ==== Sys2Proof/Machine/Program.lean ====
section
/-!
DEFINITION. Machine/Program.lean: which instruction the next step executes, and a state with a given instruction word
placed as the next one (assumption log 1).
-/
namespace Sys2Proof.Machine

/-- What comes next: nothing the selected agent can issue, a trap of the fetch or the word, or an instruction. -/
inductive Next where
  | idle
  | trapped (s : State)
  | run (i : Instr) (s : State)

/-- The instruction at the PC of the DXP's program, and the fault of steps 1 to 5 (17 R385, R386, R395). -/
def State.fetchDx (s : State) (k : Dss) : Decoded :=
  match s.fetch k.t.part k.t.ctx k.t.comp k.x.pc.toNat with
  | .error t => .trap t
  | .ok bs => decodeBytes .dxp bs

/-- The checked read of an instruction word, of both pages that it spans, once nothing of step 1 of 12 R261 has failed (06
R154): a lasting error is counted and posted, and its kind answered. -/
def State.fetchErr (s : State) (core part ctx comp : Nat) (pc : Nat) : State × Option Nat :=
  if s.errs.isEmpty then (s, none)
  else match s.fetch part ctx comp pc with
    | .error _ => (s, none)
    | .ok _ =>
      let n := min 12 (65536 - pc % 65536)
      [(pc, n), (pc + n, 12 - n)].foldl (fun (r : State × Option Nat) p =>
        match r.2, s.translate part ctx comp .fetch (p.1 % 2 ^ 56) with
        | none, .ok (.mem pa _) =>
          let c := r.1.checkRead part (stackOf pa) (memKind pa) pa p.2
          if c.2 then (c.1.postError core part (memKind pa) pc pa false, some (memKind pa)) else (c.1, none)
        | _, _ => r) (s, none)

/-- What the next step does. A program that a dxsig stops ends at its instruction boundary, before its next word is fetched
(17 R384). -/
def State.next (s : State) : Next :=
  match s.cur with
  | some (.group _ _) =>
    (match s.issuer with
    | none => .idle
    | some k =>
      let er := s.fetchErr k.t.core k.t.part k.t.ctx k.t.comp k.e.pc.toNat
      match er.2 with
      | some kind => .trapped (er.1.bail k (.t 13 kind k.e.pc.toNat))
      | none => match s.fetchIss k with
        | .trap t => .trapped (s.bail k (.t t.cause t.detail t.addr))
        | .instr i => .run i er.1)
  | some (.dxp _) =>
    (match s.dxIssuer with
    | none => .idle
    | some k => match k.run.stop with
      | some tr => .trapped (s.dxFault k.core tr).done
      | none =>
        let er := s.fetchErr k.core k.t.part k.t.ctx k.t.comp k.x.pc.toNat
        match er.2 with
        | some kind => .trapped (er.1.dxFault k.core ⟨13, kind, k.x.pc.toNat⟩).done
        | none => match s.fetchDx k with
          | .trap t => .trapped (s.dxFault k.core t).done
          | .instr i => .run i er.1)
  | none =>
    match s.agenda with
    | [] => .run .referenceClockPeriod s
    | i :: rest => .run i { s with agenda := rest }

/-! ## An instruction placed as the next one -/

/-- The role that may issue an opcode's row. -/
def roleFor (op : Nat) : Role := if op / 64 = 12 then .copy else if op / 64 = 10 ∨ op / 64 = 11 then .matrix else .vector

/-- A launch record of one team with one group of a role. -/
def oneGroup (r : Role) : LaunchRec :=
  { teams := 1, groups := 1, stages := 1, rings := [⟨0, 0, 4⟩], det := false, idem := false, footW := 1, footH := 1
    comp := 0, scratch := 1, spill := 0, kernel := 0, roles := [r], stageOf := [0], entry := 0x200000, handler := 0
    priomap := 0, imageBase := 0x400000, spmap := 0, args := 0, ctx := 0 }

/-- A running group of one lane whose PC names the placed word; a handler's when the word is only a handler's. -/
def placedGroup (r : Role) (inHandler : Bool) : Group :=
  let e : Entry := ⟨0, 0x200000, 1⟩
  let g : Group := { Group.start (oneGroup r) [] false 0 0 with front := [e], fresh := [] }
  if inHandler then
    let t : Team := Team.start 0 0 0 (oneGroup r) [] 0 0 0 [0] [] [] false
    { g with handler := some ⟨[⟨0xFF, 0x200000, 1⟩], 1, [], none⟩, trapq := [mkRec t 0 4 0 0 false 0 0x200000 1 1] }
  else g

/-- Page tables that map the 2 MiB at 0x200000 to themselves, readable, writable and executable, and the word there. -/
def placedHome (w : Nat) (m : SMap Byte) : SMap Byte :=
  let put (m : SMap Byte) (a x n : Nat) : SMap Byte := SMap.setRange 0#8 m a (toBytes n x)
  put (put (put (put (put m 0x10000 0x11005 8) 0x11000 0x12005 8) 0x12000 0x13005 8) 0x13008 0x20003F 8) 0x200000 w 12

/-- s with partition 0 and its context 0 running one team whose group, or whose core's DXP, has the word at its PC. -/
def State.placed (s : State) (_nbits w : Nat) : State :=
  let r := rawOf (w % 2 ^ 96)
  let asGroup := match decodeRaw (.group false) r with | .instr _ => true | .trap _ => false
  let asHandler := match decodeRaw (.group true) r with | .instr _ => true | .trap _ => false
  let role := roleFor r.op
  let g := placedGroup role (!asGroup && asHandler)
  let t : Team := { Team.start 0 0 0 (oneGroup role) [] 0 0 0 [0] [] [] false with groups := [g], fresh := [] }
  let cmd : DxCmd := ⟨0, 0, 0, 0, 1, 0x200000, []⟩
  let dxp : Dxp := { Dxp.reset with pc := 0x200000, run := some ⟨cmd, none, none, none⟩ }
  let isDx := !asGroup && !asHandler
  { s with
    home := placedHome (w % 2 ^ 96) s.home, lineKey := SMap.set 0 s.lineKey 0x4000 8
    parts := SMap.set Partition.reset s.parts 0
      { Partition.reset with en := true, keyGen := 1, ctxs := [(0, { Context.off with valid := true, root := 0x10000 })] }
    teams := [(0, t)], nextTid := 1
    cores := SMap.set Core.reset s.cores 0 { Core.reset with dxp := if isDx then dxp else Dxp.reset }
    cur := some (if isDx then .dxp 0 else .group 0 0) }

end Sys2Proof.Machine
end

