-- ==== Sys2Proof/Machine/Waits.lean ====
section
/-!
DEFINITION. Machine/Waits.lean: waiting, and what ends it (02 R33, R46, 03 R60, R63, R67, 07 R158, 12 R269): trap delivery,
stall hints, alarms, time-outs, released waits and the waves of a team barrier.
-/
namespace Sys2Proof.Machine

open Host (Outcome)

/-! ## Whether a group may issue now -/

/-- A DXP runs a program of a context, on any core: its drain goes on (17 R396). -/
def State.dxDraining (s : State) (part ctx : Nat) : Bool :=
  s.cores.any fun c => match c.2.dxp.run with
    | some r => (match s.team? r.cmd.tid with
      | some t => t.part == part && t.ctx == ctx
      | none => false)
    | none => false

/-- A core has resumed a context before the last core does (03 R59). -/
def State.resumedOn (s : State) (p c core : Nat) : Bool :=
  match (s.ctx p c).stop with
  | some st => st.resumed.contains core
  | none => false

/-- The context runs, or drains toward a halt while a DXP runs a program of it (03 R59, 17 R396), or its core has resumed; a
deterministic team begins no turn in a drain, but completes the turn that is in progress (22 R445). -/
def State.mayRun (s : State) (t : Team) : Bool :=
  !t.moving && !t.saved && (!s.stopped t.part t.ctx || s.resumedOn t.part t.ctx t.core
    || (if t.lrec.det then t.turnOn else s.dxDraining t.part t.ctx))

/-- In single-step mode only the groups of the step issue (18 R410). -/
def State.mayIssue (s : State) (t : Team) (tid g : Nat) : Bool :=
  s.mayRun t && (!(s.part t.part).dbgStep || (s.stopped t.part t.ctx && !s.resumedOn t.part t.ctx t.core)
    || (s.ctx t.part t.ctx).stepped.contains (tid, g))

/-- What a group's next instruction would wait for if it issued now: none where it would complete or trap. -/
def State.probe (s : State) (tid g : Nat) : Option Hold :=
  match ({ s with cur := some (.group tid g) } : State).next with
  | .run i s1 => (match issue i s1 with
    | .next s2 => (match s2.group? tid g with | some x => x.hold | none => none)
    | _ => none)
  | _ => none

/-- What a group's next instruction waits for, and whether that wait is still to begin: none where it would complete or
trap. -/
def State.waitNow (s : State) (tid g : Nat) (gr : Group) : Option (Nat × Bool) :=
  match gr.hold with
  | some h =>
    if h.started && !h.ready then some (h.why, false)
    else (s.probe tid g).map fun x => (x.why, x.started && !h.started)
  | none => (s.probe tid g).map fun x => (x.why, x.started)

/-- The lowest of some reasons. -/
def lowest : List Nat → Option Nat
  | [] => none
  | r :: more => some (more.foldl min r)

/-- The reasons of R215 for which a group cannot issue now (R33), by its index; may says that a wait may begin now. -/
def State.reasons (s : State) (tid g : Nat) (t : Team) (gr : Group) (may : Bool) : List Nat :=
  (if !gr.trapq.isEmpty && gr.handler.isNone then [0] else [])
    ++ (match s.waitNow tid g gr with | some (n, begins) => if begins && !may then [] else [n] | none => [])
    ++ (if t.tileCvts.any fun c => c.g == g then [2] else []) ++ (if gr.stall ≠ 0 then [3] else [])

/-- Why a group cannot issue now: the lowest reason of R215 that holds, none where it is ready (R33). -/
def State.whyNot (s : State) (tid g : Nat) (t : Team) (gr : Group) : Option Nat := lowest (s.reasons tid g t gr true)

/-! ## Trap delivery (R158) -/

/-- A group's head record waits to be delivered. -/
def Group.awaits (g : Group) : Bool := !g.trapq.isEmpty && g.handler.isNone && !g.exited && !g.halted

/-- A line of a group is not in the register cache. -/
def Group.lineOut (g : Group) (line : Nat) : Bool := g.fresh.contains line || g.evicted.contains line

/-- TRAP_DELIVERY: the head record is delivered where no handler runs, once the line of s62 and s63 is in the register cache
(02 R56, 05 R114). -/
def execTrapDelivery (tid g : Nat) (s : State) : Outcome State Fault Refusal :=
  match s.team? tid with
  | none => .fault .notEnabled
  | some t => match t.groups[g]? with
    | none => .fault .notEnabled
    | some gr =>
      if !gr.awaits || !s.mayRun t || (t.lrec.handler != 0 && gr.lineOut 261) then .fault .notEnabled
      else .next (s.deliver tid g)

/-! ## Stall hints (12 R269) -/

/-- The count that a stall hint's cycles leave when they have run out. -/
def stallOver : Nat := 8

/-- A stall hint that has run out ends. -/
def Group.hintEnd (g : Group) : Group := if g.stall = stallOver then { g with stall := 0 } else g

/-- STALL_HINT_EXPIRY. -/
def execStallHintExpiry (tid g : Nat) (s : State) : Outcome State Fault Refusal :=
  match s.group? tid g with
  | none => .fault .notEnabled
  | some gr => if gr.stall = stallOver then .next (s.modGroup tid g Group.hintEnd) else .fault .notEnabled

/-! ## Alarms (03 R67) -/

/-- An alarm slot is due. -/
def Alarm.due (a : Alarm) (v : W64) : Bool := a.armed && decide (a.deadline.toNat ≤ v.toNat)

/-- The due alarms of a group expire. -/
def Group.alarmsAt (g : Group) (v : W64) : Group :=
  (List.range 4).foldl (fun (x : Group) n =>
    let a := SMap.get Alarm.off x.alarms n
    if a.due v then { x with alarms := SMap.set Alarm.off x.alarms n { a with armed := false, expired := true } } else x) g

/-- ALARM_EXPIRY. -/
def execAlarmExpiry (tid g slot : Nat) (s : State) : Outcome State Fault Refusal :=
  match s.team? tid with
  | none => .fault .notEnabled
  | some t => match t.groups[g]? with
    | none => .fault .notEnabled
    | some gr =>
      let a := SMap.get Alarm.off gr.alarms slot
      if a.due (s.vclk t.part t.ctx) then
        .next (s.modGroup tid g fun x => { x with alarms := SMap.set Alarm.off x.alarms slot { a with armed := false, expired := true } })
      else .fault .notEnabled

/-! ## Time-outs (03 R63) -/

/-- A wait's time-out is due. -/
def Hold.due (h : Hold) (v : W64) : Bool :=
  h.started && !h.timedOut && (match h.deadline with | some d => decide (d.toNat ≤ v.toNat) | none => false)

/-- A due time-out fires. -/
def Hold.atTime (h : Hold) (v : W64) : Hold := if h.due v then { h with timedOut := true, ready := true } else h

/-- TIMEOUT_EXPIRY. -/
def execTimeoutExpiry (who : Issuer) (s : State) : Outcome State Fault Refusal :=
  match who with
  | .group tid g => (match s.team? tid with
    | none => .fault .notEnabled
    | some t => match (t.groups[g]?).bind fun x => x.hold with
      | none => .fault .notEnabled
      | some h =>
        let v := s.vclk t.part t.ctx
        if s.stopped t.part t.ctx || !h.due v then .fault .notEnabled
        else .next (s.modGroup tid g fun x => { x with hold := some (h.atTime v) }))
  | .dxp core => match (s.core core).dxp.run with
    | none => .fault .notEnabled
    | some r => match s.team? r.cmd.tid, r.hold with
      | some t, some h =>
        let v := s.vclk t.part t.ctx
        if s.stopped t.part t.ctx || !h.due v then .fault .notEnabled
        else .next (s.modDxp core fun x => { x with run := some { r with hold := some (h.atTime v) } })
      | _, _ => .fault .notEnabled

/-- The due alarms of a team expire, in a stop interval too, where VCLK reads S (R59, R67). -/
def Team.alarmsDue (t : Team) (v : W64) : Team :=
  { t with groups := t.groups.map fun (g : Group) => if g.exited || g.halted then g else g.alarmsAt v }

/-- Everything of a team that its clock makes due takes place, outside stop intervals (R63, R67). -/
def Team.atTime (t : Team) (v : W64) : Team :=
  let gs := t.groups.map fun (g : Group) =>
    if g.exited || g.halted then g else (g.alarmsAt v).mapHolds fun h => h.atTime v
  { t with groups := gs }

/-- A DXP's held wait at its context's virtual clock. -/
def State.dueDxp (s : State) (c : Core) : Core :=
  match c.dxp.run with
  | none => c
  | some r => match s.team? r.cmd.tid with
    | none => c
    | some t =>
      if s.stopped t.part t.ctx then c
      else
        let r1 : DxRun := { r with hold := r.hold.map fun h => h.atTime (s.vclk t.part t.ctx) }
        let d : Dxp := { c.dxp with run := some r1 }
        { c with dxp := d }

/-- Everything of the machine that a cycle of its clock makes due: messages become visible and patience expires (R70, R73), then
alarms and time-outs. -/
def State.dueAll (s : State) : State :=
  let s0 := s.msgCycles
  let ts := s0.teams.map fun e =>
    let v := s0.vclk e.2.part e.2.ctx
    (e.1, if s0.stopped e.2.part e.2.ctx then e.2.alarmsDue v else e.2.atTime v)
  let s1 : State := { s0 with teams := ts }
  let cs := s1.cores.map fun e => (e.1, s1.dueDxp e.2)
  { s1 with cores := cs }

/-! ## Waits released (R33) -/

/-- The condition that a held instruction waits for has come true: issued now it would complete. -/
def State.released (s : State) (tid g : Nat) (h : Hold) : Bool :=
  h.started && !h.ready && (match s.probe tid g with | none => true | some x => x.passed && !h.passed)

/-- A group whose wait is over is ready. -/
def State.freeGroup (s : State) (tid g : Nat) : State :=
  s.modGroup tid g fun x => { x with hold := x.hold.map fun h => { h with ready := true } }

/-- A DXP's held instruction would complete now, or its program is to stop. -/
def State.dxReleased (s : State) (core : Nat) : Bool :=
  match (s.core core).dxp.run with
  | none => false
  | some r => match r.hold with
    | none => false
    | some h => !h.ready && r.ending.isNone && (r.stop.isSome ||
      (match ({ s with cur := some (.dxp core) } : State).next with
      | .run i s1 => (match issue i s1 with
        | .next s2 => (match (s2.core core).dxp.run with
          | some x => x.hold.isNone
          | none => true)
        | _ => false)
      | _ => false))

/-- WAIT_RELEASED. -/
def execWaitReleased (who : Issuer) (s : State) : Outcome State Fault Refusal :=
  match who with
  | .group tid g => (match (s.group? tid g).bind fun x => x.hold with
    | none => .fault .notEnabled
    | some h => if s.released tid g h then .next (s.freeGroup tid g) else .fault .notEnabled)
  | .dxp core =>
    if s.dxReleased core then
      .next (s.modDxp core fun x => { x with run := x.run.map fun r => { r with hold := r.hold.map fun h => { h with ready := true } } })
    else .fault .notEnabled

/-! ## Barrier waves (02 R46) -/

/-- The next wave of an opened team barrier is released. With the last one the barrier may open again: every group that has
neither exited nor halted may have arrived once more (15 R344). -/
def State.barWave (s : State) (tid : Nat) : State :=
  match s.team? tid with
  | none => s
  | some t => match t.barWave with
    | none => s
    | some w =>
      let c := s.cluster (clusterOf t.core)
      let n := if c.gap = 0 then w.left.length else c.widthm1.toNat + 1
      let now := w.left.take n
      let rest := w.left.drop n
      let free (g : Group) : Group :=
        g.mapHolds fun h => if h.why = 4 ∧ h.started then { h with passed := true, ready := true } else h
      let t1 : Team := { t with
        groups := now.foldl (fun gs i => modAt gs i free) t.groups
        barWave := if rest.isEmpty then none else some ⟨rest, c.gap.toNat⟩ }
      s.setTeam tid (if rest.isEmpty then t1.barCheck else t1)

/-- BAR_RELEASE_WAVE: once the gap since the previous wave has passed. -/
def execBarReleaseWave (tid : Nat) (s : State) : Outcome State Fault Refusal :=
  match s.team? tid with
  | none => .fault .notEnabled
  | some t => match t.barWave with
    | none => .fault .notEnabled
    | some w => if w.gap = 0 then .next (s.barWave tid) else .fault .notEnabled

/-- A cycle of a core passes for its teams' barrier waves. -/
def State.waveCycle (s : State) (tid : Nat) : State :=
  match s.team? tid with
  | none => s
  | some t => match t.barWave with
    | none => s
    | some w =>
      if s.stopped t.part t.ctx then s
      else if w.gap ≤ 1 then (s.setTeam tid { t with barWave := some { w with gap := 0 } }).barWave tid
      else s.setTeam tid { t with barWave := some { w with gap := w.gap - 1 } }

end Sys2Proof.Machine
end

