-- ==== Sys2Proof/Machine/Drain.lean ====
section
/-!
DEFINITION. Machine/Drain.lean: what every stop of a context waits for and does before its halt is complete (10 R242, 07 R173,
R181, 22 R444, R445).
-/
namespace Sys2Proof.Machine

/-- A deterministic team's turn is held until its group's load, atomic, store or red is done (R444), whether or not the group
has exited or halted since (R241). A marker, which counts in oc.st too, holds it alike (log 23, DEDUCED: else a waitc on
oc.st would end a turn without issue, which R444 excludes). -/
def Group.turnBusy (g : Group) : Bool := ocOf g.ops .ld != 0 || ocOf g.ops .st != 0

/-- The turn in progress ends, if it may (R52, R444): the pointer moves to the next live group. -/
def Team.turnEnd (t : Team) : Team :=
  if !t.lrec.det || !t.turnHeld then t
  else match t.groups[t.rot]? with
    | some g => if g.turnBusy then t else { t with rot := t.nextTurn (t.rot + 1), turnHeld := false }
    | none => { t with turnHeld := false }

/-- The teams of a context, those of a running grid that have exited among them; a mast core's program only while it runs. -/
def State.ctxTeams (s : State) (p c : Nat) : List (Nat × Team) :=
  s.teams.filter fun e => e.2.part == p && e.2.ctx == c && (!e.2.mast || e.2.groups.any (fun g => !g.exited) || s.teamBusy e.1 e.2)

/-- A request of a team is on its way to a handle or an endpoint of another device, or to a collective's member. -/
def ReqFor.ofTeam (w : ReqFor) (tid : Nat) : Bool :=
  match w with
  | .invoke t _ _ _ _ _ _ => t == tid
  | .send t _ _ _ _ _ => t == tid
  | .collWrite t _ _ => t == tid
  | _ => false

/-- Nothing of a team is still to perform: its store buffers are empty, its loads done, its engine operations complete, its
invocations and sends answered, the results it has written, its turn over. A collective whose other members have not all joined,
and a DXP command not started, are not waited for (log 12): R242 names neither. -/
def State.teamIdle (s : State) (e : Nat × Team) : Bool :=
  let c := s.core e.2.core
  e.2.groups.all (fun g => g.sb.isEmpty && g.lq.isEmpty && g.ops.all fun o => o.done || o.cls == .col || o.cls == .cpy)
    && e.2.tileCvts.isEmpty && !e.2.turnEnd.turnHeld && !e.2.turnOn
    && !c.engine.any (fun o => o.tid == e.1) && !c.copies.any (fun o => o.tid == e.1)
    && (match c.dxp.run with | some r => r.cmd.tid != e.1 | none => true)
    && !s.reqs.any (fun r => r.why.ofTeam e.1) && !s.srcs.any (fun r => r.tid == e.1)
    && !s.colls.any (fun x => x.tid == e.1 && x.result.isSome)
    && !s.colDone.any (fun d => d.tid == e.1) && !c.bars.any (fun u => u.tid == e.1)

/-- The cores that hold teams of a context. -/
def State.ctxCores (s : State) (p c : Nat) : List Nat := ((s.ctxTeams p c).map fun e => e.2.core).eraseDups

/-- The write-combining entry holds a store of a context. -/
def WcEntry.holds (e : WcEntry) (p c : Nat) : Bool := e.owners.contains (p, c)

/-- The cores that a context's stop drains: those that hold its teams, and those whose write-combining buffers hold stores of it
(07 R173). -/
def State.drainCores (s : State) (p c : Nat) : List Nat :=
  (s.ctxCores p c ++ (s.cores.filter fun e => e.2.wc.any fun w => w.holds p c).map Prod.fst).eraseDups

/-- A core's dirty bytes go to home memory, its view holds nothing, its write-combining entries with stores of the context
drain, and markers of all colours go to every device owed one. -/
def State.emptyCore (s : State) (p c core : Nat) : State :=
  let s1 := (s.writeBack core fun _ _ => true).modCore core Core.dropClean
  let s2 := s1.wcDrainAll core fun w => w.holds p c
  s2.startMarkers core s2.nextTid 0 p 0 0 255 ((s2.core core).owedDevs 255 []) [] (.stop p c)

/-- One more move of the drain of a context's stop interval, none where it must wait. -/
def State.drainMore (s : State) (p c : Nat) : Option State :=
  match (s.ctx p c).stop with
  | none => none
  | some st =>
    let cores := s.drainCores p c
    if st.drained then none
    else if !((s.ctxTeams p c).all s.teamIdle) then none
    else if !st.marked then
      if cores.any fun k => s.updatePending k 255 [] then none
      else some ((cores.foldl (fun (x : State) k => x.emptyCore p c k) s).modCtx p c fun x =>
        { x with stop := x.stop.map fun t => { t with marked := true } })
    else if s.releases.any fun r => r.why == .stop p c then none
    else some (s.modCtx p c fun x => { x with stop := x.stop.map fun t => { t with drained := true } })

/-- The debugger alone stops the context: a brkpt or a step's pause. -/
def State.dbgOnly (s : State) (p c : Nat) : Bool :=
  match (s.ctx p c).stop with
  | some st => !st.why.isEmpty && st.why.all fun w => w == .brk || w == .step
  | none => false

/-- The drains of the stops that the debugger opened go on, in the cycles of the cores that hold their contexts. -/
def State.dbgDrain (s : State) (core : Nat) : State :=
  ((s.onCore core).map fun e => (e.2.part, e.2.ctx)).eraseDups.foldl (fun (x : State) pc =>
    if x.dbgOnly pc.1 pc.2 then (x.drainMore pc.1 pc.2).getD x else x) s

end Sys2Proof.Machine
end

