-- ==== Sys2Proof/Machine/Cycle.lean ====
section
/-!
DEFINITION. Machine/Cycle.lean: a cycle of a quadrant (02 R34, R52, 09 R214, R215, 22 R444) and a period of the reference
clock (03 R57, 09 R218, R220).
-/
namespace Sys2Proof.Machine

open Host (Outcome)

/-! ## Groups of a quadrant -/

/-- A group of a quadrant with the reasons of R215 for which it cannot issue now, the lowest of all that hold, and whether
all it does not do is to begin its wait. -/
structure QGroup where
  tid : Nat
  g : Nat
  t : Team
  gr : Group
  rs : List Nat
  why : Option Nat
  begins : Bool

/-- The groups of a quadrant that have neither exited nor halted (02 R27). Reasons 13 and 15 of R215 are those of a
deterministic team's other groups, and of its group while a turn is held; in neither does a wait begin. -/
def State.quadrant (s : State) (core q : Nat) : List QGroup :=
  (s.onCore core).flatMap fun e => (List.range e.2.groups.length).filterMap fun g =>
    match e.2.groups[g]? with
    | none => none
    | some gr =>
      if gr.exited || gr.halted || e.2.parked || gr.slot % 4 != q then none
      else
        let off := e.2.lrec.det && e.2.rot != g
        let may := !off && !(e.2.lrec.det && e.2.turnHeld) && s.mayIssue e.2 e.1 g
        let rs := s.reasons e.1 g e.2 gr may
        some ⟨e.1, g, e.2, gr, rs, lowest (rs ++ (if off then [13] else if may then [] else [15])),
          may && rs.length == 1 && (match s.waitNow e.1 g gr with | some w => w.2 | none => false)⟩

/-! ## The choice (R34) -/

/-- The first of a list whose key is above a mark, else the first: round robin after the mark. -/
def nextAfter {α : Type} (key : α → Nat) (mark : Nat) (xs : List α) : Option α :=
  match xs.find? fun x => decide (mark < key x) with
  | some x => some x
  | none => xs.head?

/-- Full slots of a ring. -/
def Ring.fullCount (r : Ring) : Nat := ((List.range 16).filter fun i => r.full.getLsbD i).length

/-- A stage is open, and its input occupancy. -/
def Team.stageState (t : Team) (st : Nat) : Bool × Nat :=
  let rs := t.lrec.rings.zipIdx
  (rs.all fun r => r.1.prod != st || decide ((t.ring r.2).fullCount < r.1.size),
   rs.foldl (fun m r => if r.1.cons = st then max m (t.ring r.2).fullCount else m) 0)

/-- Step 3: the stage that a team issues from on a quadrant, among some. -/
def Team.pickStage (t : Team) (q : Nat) (sts : List Nat) : Option Nat :=
  let rank (st : Nat) : Nat := let x := t.stageState st; (if x.1 then 1000 else 0) + x.2
  match sts with
  | [] => none
  | s0 :: more =>
    let top := more.foldl (fun m st => max m (rank st)) (rank s0)
    nextAfter (fun st => st + 1) (SMap.get 0 t.lastStage q) ((List.range 8).filter fun st => sts.contains st && rank st == top)

/-- Step 4, and steps 3 and 4 together: the group of a team that issues. -/
def pickGroup (q : Nat) (t : Team) (xs : List QGroup) : Option QGroup :=
  if t.lrec.det then xs.head?
  else match t.pickStage q (xs.map fun x => t.lrec.stageOf.getD x.g 0) with
    | none => xs.head?
    | some st => nextAfter (fun x => x.g + 1) (SMap.get 0 t.lastGroup (4 * st + q)) (xs.filter fun x => t.lrec.stageOf.getD x.g 0 == st)

/-- The longest wait at or above the age guard's 64 cycles, ties to the lower slot (step 1). -/
def pickOld (xs : List QGroup) : Option QGroup :=
  (xs.filter fun x => decide (64 ≤ x.gr.age) && !x.t.lrec.det).foldl (fun (b : Option QGroup) x => match b with
    | none => some x
    | some y => if y.gr.age < x.gr.age ∨ (y.gr.age = x.gr.age ∧ x.gr.slot < y.gr.slot) then some x else some y) none

/-- The group that a quadrant issues from (R34). -/
def State.pick (s : State) (core q : Nat) (xs : List QGroup) : Option QGroup :=
  let ready := xs.filter fun x => x.why.isNone
  match pickOld ready with
  | some x => some x
  | none =>
    let ys := ready.filter fun x => !x.gr.yieldHint || x.t.lrec.det
    let tids := (ys.map fun x => x.tid).eraseDups
    match nextAfter (fun n => n + 1) (SMap.get 0 (s.core core).rrTeam q) tids with
    | none => none
    | some tid => match ys.find? fun x => x.tid == tid with
      | none => none
      | some y => pickGroup q y.t (ys.filter fun x => x.tid == tid)

/-! ## The cycle -/

/-- What a cycle of its quadrant without issue leaves of a group's age and hints, in a stop interval too (R34, R269). -/
def Group.hintCycle (g : Group) : Group :=
  { g.aged with
    stall := if g.stall = 0 ∨ g.stall = stallOver then g.stall else if g.stall = 1 then stallOver else g.stall - 1 }

/-- What a cycle without issue leaves of a group outside stop intervals: a stall reason too (R215). -/
def Group.idleCycle (g : Group) (why : Nat) : Group := (g.stallUp (g.stallCode why)).hintCycle

/-- A group whose next instruction would wait begins to (R33): it does not take part in the choice. -/
def State.beginWait (s : State) (x : QGroup) : Option State :=
  match ({ s with cur := some (.group x.tid x.g) } : State).next with
  | .run i s1 => (match issue i s1 with
    | .next s2 => (match (s2.group? x.tid x.g).bind fun y => y.hold with
      | some h => if h.started then some s2 else none
      | none => none)
    | _ => none)
  | _ => none

/-- A cycle without issue of a group counts, but within a stop interval, where its quadrant's cycles go on for its age and hints
alone (R34, R64, R269). -/
def State.idle (s : State) (core : Nat) (x : QGroup) : State :=
  if s.stopped x.t.part x.t.ctx then s.modGroup x.tid x.g Group.hintCycle
  else
    let why := match x.why with | some n => n | none => if x.gr.yieldHint && !x.t.lrec.det then 14 else 15
    let s1 := s.modGroup x.tid x.g fun y => y.idleCycle why
    if x.rs.contains 7 || x.rs.contains 8 then s1.count core 0x0D 1 else s1

/-- A group that was not chosen. A deterministic group that waits for anything but a fill, an interlock or a hint ends its
turn with this cycle; for one that waits for these alone, or that another team was chosen before, its quadrant holds the turn,
which a stop interval lets complete (R52, 22 R445). -/
def State.passBy (s : State) (core : Nat) (x : QGroup) : State :=
  let s1 := match (if x.begins then s.beginWait x else none) with
    | some y => y
    | none => s.idle core x
  if x.t.lrec.det && x.t.rot == x.g && !x.t.turnHeld
      && (x.t.turnOn || !s.stopped x.t.part x.t.ctx || s.resumedOn x.t.part x.t.ctx core) then
    let ends := x.rs.any fun n => n == 0 || (decide (4 ≤ n) && decide (n ≤ 12))
    s1.modTeam x.tid fun t => { t with turnHeld := ends, turnOn := !ends && s.mayIssue x.t x.tid x.g }
  else s1

/-- The group that was chosen: it issues in the next step. A choice by the age guard, too, is the one after which the round
robins of R34 go on (DESIGN CHOICE, log 23). -/
def State.choose (s : State) (core q : Nat) (x : QGroup) : State :=
  let st := x.t.lrec.stageOf.getD x.g 0
  let s1 := (s.modTeam x.tid fun t =>
    { t with turnHeld := t.lrec.det || t.turnHeld, turnOn := false
             lastStage := SMap.set 0 t.lastStage q (st + 1)
             lastGroup := SMap.set 0 t.lastGroup (4 * st + q) (x.g + 1) }).modGroup x.tid x.g fun y => { y with yieldHint := false }
  { (s1.modCore core fun c => { c with rrTeam := SMap.set 0 c.rrTeam q (x.tid + 1) }) with cur := some (.group x.tid x.g) }

/-- A cycle begins for a team's rings: their indices may serve a group each (15 R350). -/
def Team.ringCycle (t : Team) : Team :=
  { t with rings := t.rings.map fun e => (e.1, { e.2 with putNow := false, getNow := false }) }

/-- What a cycle begins with: hints that ran out, alarms and time-outs due, waits over, turns ended, barrier waves, the drain
of the debugger's stops. A core's cycle begins at its quadrant 0: a deterministic team issues at most once in it (R52). An alarm
whose deadline the stop value has passed expires in a stop interval too (R67). -/
def State.cycleStart (s : State) (core q : Nat) : State :=
  let ids := (s.onCore core).map Prod.fst
  let s1 := ids.foldl (fun (x : State) tid => match x.team? tid with
    | none => x
    | some t =>
      let gs := t.groups.map fun g => if g.slot % 4 = q then g.hintEnd else g
      let t0 := ({ t with groups := gs } : Team)
      let t1 := if q = 0 then t0.ringCycle else t0
      let v := s.vclk t.part t.ctx
      let t2 := if s.stopped t.part t.ctx then t1.alarmsDue v else t1.atTime v
      x.setTeam tid (if q = 0 then t2.turnEnd else t2)) s
  let s2 := if q = 0 then ids.foldl (fun (x : State) tid => x.waveCycle tid) (s1.dbgDrain core) else s1
  (s2.onCore core).foldl (fun (x : State) e => (List.range e.2.groups.length).foldl (fun (y : State) g =>
    match e.2.groups[g]? with
    | none => y
    | some gr => match gr.hold with
      | none => y
      | some h => if gr.slot % 4 = q && s.mayRun e.2 && y.released e.1 g h then y.freeGroup e.1 g else y) x) s2

/-- A core's cycle begins: for its counters (R221), and with the core's cycle-kind events (R218, R219). -/
def State.coreCycle (s : State) (core : Nat) : State :=
  let s1 := if (s.core core).pm.isEmpty then s else s.modCore core fun c => { c with pm := c.pm.map fun e => (e.1, e.2.roll) }
  if (s.onCore core).any fun e => !e.2.mast && !s.stopped e.2.part e.2.ctx then
    (s1.count core 0 1).count core 3 (b2n (!(s.core core).engine.isEmpty))
  else s1

/-- QUADRANT_CYCLE: a cycle of quadrant q of a core: the quadrants of one core cycle act in increasing order (13 R289); q 4
is its transfer processor, which issues if it can. -/
def execQuadrantCycle (core q : Nat) (s : State) : Outcome State Fault Refusal :=
  if s.cur.isSome || decide (4 < q) || decide (208 ≤ core) then .fault .notEnabled
  else if q = 4 then
    match (s.core core).dxp.run with
    | some r => .next (if r.ending.isSome then s else { s with cur := some (.dxp core) })
    | none => .next s
  else if (s.core core).nextQ ≠ q then .fault .notEnabled
  else
    let s0 := (if q = 0 then s.barFlush core else s).modCore core fun c => { c with nextQ := (q + 1) % 4 }
    let s1 := s0.cycleStart core q
    let s2 := if q = 0 then s1.coreCycle core else s1
    let xs := s2.quadrant core q
    match s2.pick core q xs with
    | none =>
      let s3 := xs.foldl (fun (x : State) y => x.passBy core y) s2
      .next (if q = 3 then s3.barFlush core else s3)
    | some c =>
      let s3 := (xs.filter fun y => !(y.tid == c.tid && y.g == c.g)).foldl (fun (x : State) y => x.passBy core y) s2
      .next (s3.choose core q c)

/-! ## The reference clock (03 R57) -/

/-- A whole real tick passes: each partition's time under its cause (09 R220). -/
def State.realTick (s : State) : State :=
  (List.range 16).foldl (fun (x : State) p =>
    let c := x.capCause p
    if c = 0 then x
    else x.modPart p fun q => { q with reefTime := SMap.set 0#64 q.reefTime c (satAdd (SMap.get 0#64 q.reefTime c) 1) }) s

/-- A partition has valid contexts and all are inside stop intervals: no cycle of a unit counts for it (03 R64). -/
def State.allStopped (s : State) (p : Nat) : Bool :=
  let cs := (s.part p).ctxs.filter fun e => e.2.valid
  !cs.isEmpty && cs.all fun e => e.2.stop.isSome

/-- A shared-unit event whose amounts the machine's timing and traffic decide: all but retries, and the flits that leave by a
Lornan port and the markers that pass it (log 4). -/
def timed (unit event : Nat) : Bool := event != 0x47 && (decide (unit < 8) || !(event == 0x44 || event == 0x46))

/-- Such events count free amounts. -/
def State.unitNoise (s : State) : State :=
  s.units.foldl (fun (x : State) e =>
    let ev := e.2.cyc.event.toNat
    if e.2.cyc.en && timed (e.1 / 4) ev && !(ev == 0x43 && s.allStopped e.2.cyc.vf.toNat) then
      let (w, y) := x.draw
      { y with units := SMap.upd y.units e.1 fun u => u.add (w.toNat % 2 ^ 16) }
    else x) s

/-- The sealed traffic of a period over the edges between dies and, under an IDE key, over the CXL link: each transfer takes
the edge's next counter value (01 R23). How many there are the spec does not state (free amounts, log 4). -/
def State.edgeTraffic (s : State) : State :=
  (List.range 13).foldl (fun (x : State) n =>
    let e := SMap.get Edge.start x.edges n
    if n = 12 ∧ e.key = 0 then x
    else
      let (w, y) := x.draw
      { y with edges := SMap.set Edge.start y.edges n { e with ctr := e.ctr + BitVec.ofNat 96 (w.toNat % 2 ^ 16) } }) s

/-- REFERENCE_CLOCK_PERIOD: RCLK advances by 512 fraction units, and with it VCLK of every running context. RCLK counts
from READY. -/
def execReferenceClockPeriod (s : State) : Outcome State Fault Refusal :=
  if !s.ready then .next s
  else
    let s1 : State := { s with rclk := s.rclk + 512 }
    let s2 := if s1.rclk.toNat % 65536 = 0 then s1.realTick else s1
    let s3 : State := { s2 with units := s2.units.map fun e => (e.1, e.2.roll) }
    .next s3.unitNoise.edgeTraffic.dueAll

end Sys2Proof.Machine
end

