-- ==== Sys2Proof/Machine/Lines.lean ====
section
/-!
DEFINITION. Machine/Lines.lean: the traffic of the register cache, the vat and mapped scratchpad lines: REGISTER_LINE_FILL
(02 R56, 25 R451, 05 R114), VAT_TILE_SWAP (05 R113), SPMAP_LINE_FILL (06 R144, 08 R192) and SPMAP_SPACE_WRITEBACK (R145).
-/
namespace Sys2Proof.Machine

open Host (Outcome)

/-! ## Fills of the register cache -/

/-- A team with no line out of the register cache but one. -/
def Team.onlyOut (t : Team) (g : Option Nat) (line : Nat) : Team :=
  let gs := t.groups.zipIdx.map fun (x : Group × Nat) => { x.1 with fresh := if g = some x.2 then [line] else [], evicted := [] }
  { t with fresh := if g.isNone then [line] else [], evicted := [], groups := gs }

/-- A group's next instruction needs the line (R56). -/
def State.needsLine (s : State) (tid : Nat) (g : Option Nat) (line who : Nat) : Bool :=
  match (s.modTeam tid fun t => t.onlyOut g line).probe tid who with
  | some h => h.why == 1
  | none => false

/-- The delivery of a group's record needs the line of s62 and s63 (07 R158). -/
def Team.deliveryNeeds (t : Team) (g : Option Nat) (line : Nat) : Bool :=
  line == 261 && t.lrec.handler != 0 && (match g.bind fun i => t.groups[i]? with | some x => x.awaits | none => false)

/-- The groups whose next instruction, or the delivery of whose record, needs the line. -/
def State.lineUsers (s : State) (tid : Nat) (t : Team) (g : Option Nat) (line : Nat) : List Nat :=
  (List.range t.groups.length).filter fun w =>
    (g.isNone || g == some w) && (s.needsLine tid g line w || t.deliveryNeeds g line)

/-- The line is not in the register cache. -/
def Team.lineOut (t : Team) (g : Option Nat) (line : Nat) : Bool :=
  match g with
  | none => t.fresh.contains line || t.evicted.contains line
  | some i => match t.groups[i]? with
    | some x => x.lineOut line
    | none => false

/-- A line comes in for a group: a lasting error or a page that is not there is the group's trap (R114, 06 R139). -/
def State.fillLine (s : State) (tid : Nat) (t : Team) (g : Option Nat) (line user : Nat) : State :=
  let va := t.lineVa g line
  match s.imageLine t va with
  | .error e => s.raiseHeld tid user e.cause e.detail e.addr
  | .ok (pa, bs) =>
    let er := s.readErr t.core t.part (.mem pa 0) 128 va
    match er.2 with
    | some kind => er.1.raiseHeld tid user 13 kind va
    | none =>
      let s1 := er.1.count t.core 4 1
      match g with
      | some i => s1.modGroup tid i fun x => x.refill line (some bs)
      | none => s1.modTeam tid fun u =>
          let u1 := if u.evicted.contains line then u.setTileLine line bs else u
          { u1 with fresh := u1.fresh.filter fun n => n != line, evicted := u1.evicted.filter fun n => n != line }

/-- REGISTER_LINE_FILL: on a use, with a victim only where every line of the cache is in use (R451). -/
def execRegisterLineFill (tid : Nat) (g : Option Nat) (line : Nat) (victim : Option Line) (s : State) :
    Outcome State Fault Refusal :=
  match s.team? tid with
  | none => .fault .notEnabled
  | some t => match t.lineOut g line, s.lineUsers tid t g line with
    | true, user :: _ =>
      let full := !s.lineRoom t.core 1
      (match victim with
      | none => if full then .fault .notEnabled else .next (s.fillLine tid t g line user)
      | some v =>
        if !full || !s.evictable t.core v then .fault .notEnabled
        else
          let r := s.evict v
          match r.1.team? tid with
          | some t1 => .next (if r.2 && r.1.lineRoom t.core 1 then r.1.fillLine tid t1 g line user else r.1)
          | none => .next r.1)
    | _, _ => .fault .notEnabled

/-! ## The vat (R113) -/

/-- A team with all its tiles in the vat of its core but those of one slot, or all. -/
def State.vatAll (s : State) (core tid : Nat) (out : Option Nat) : State :=
  s.modCore core fun c => { c with vatTid := (List.range 4).foldl (fun m n =>
    SMap.set 0 m n (if out = some n then 0 else tid + 1)) c.vatTid }

/-- A group's next instruction waits for the tile of a slot. -/
def State.needsVat (s : State) (core slot tid g : Nat) : Bool :=
  let waits (x : State) : Bool := match x.probe tid g with | some h => h.why == 2 | none => false
  waits (s.vatAll core tid (some slot)) && !waits (s.vatAll core tid none)

/-- The bytes of lines of a team's image, with the checks of their reads. -/
def State.imageLines (s : State) (t : Team) : Nat → Nat → State × Except (Nat × Nat × Nat) (List Byte)
  | 0, _ => (s, .ok [])
  | n + 1, va => match s.imageLine t va with
    | .error e => (s, .error (e.cause, e.detail, e.addr))
    | .ok (pa, bs) =>
      let er := s.readErr t.core t.part (.mem pa 0) 128 va
      match er.2 with
      | some kind => (er.1, .error (13, kind, va))
      | none => match er.1.imageLines t n (va + 128) with
        | (s2, .ok more) => (s2, .ok (bs ++ more))
        | (s2, .error e) => (s2, .error e)

/-- The cells of a vat tile from its bytes. -/
def Team.setVatBytes (t : Team) (n : Nat) (bs : List Byte) : Team :=
  let cells := (List.range 16384).map fun i => BitVec.ofNat 48 (ofBytes (sliceD 0#8 bs (6 * i) 6))
  { t with vat := SMap.setRange 0#48 t.vat (16384 * n) cells }

/-- The tile that a slot holds is written back, if it is dirty; with a lasting error it stays (R113, R114). A tile that has left
is line 1024 + n of those evicted. -/
def State.vatOut (s : State) (core slot : Nat) : State × Bool :=
  match SMap.get 0 (s.core core).vatTid slot with
  | 0 => (s, true)
  | o + 1 => match s.team? o with
    | none => (s, true)
    | some t =>
      let s1 := if t.vatClean.contains slot then s else s.writeVat o t slot
      match s1.team? o with
      | none => (s1, true)
      | some u =>
        if u.vatClean.contains slot then (s1.setTeam o { u with evicted := (1024 + slot) :: u.evicted }, true) else (s1, false)

/-- The named tile is filled. -/
def State.vatIn (s : State) (core slot tid user : Nat) : State :=
  match s.team? tid with
  | none => s
  | some t => match s.imageLines t 768 (t.imageBase + 0x20000 + 0x18000 * slot) with
    | (s1, .error e) => s1.raiseHeld tid user e.1 e.2.1 e.2.2
    | (s1, .ok bs) =>
      let s2 := s1.modTeam tid fun u =>
        let u1 := if u.evicted.contains (1024 + slot) then u.setVatBytes slot bs else u
        { u1 with evicted := u1.evicted.filter fun n => n != 1024 + slot }
      s2.modCore core fun c => { c with vatTid := SMap.set 0 c.vatTid slot (tid + 1) }

/-- VAT_TILE_SWAP: an instruction of the team names a slot that holds another team's tile, which no operation of the
engine still works on. -/
def execVatTileSwap (core slot tid : Nat) (s : State) : Outcome State Fault Refusal :=
  match s.team? tid with
  | none => .fault .notEnabled
  | some t =>
    let held := SMap.get 0 (s.core core).vatTid slot
    let busy := (s.core core).engine.any fun o => o.tid + 1 == held && o.vats.contains slot
    match (List.range t.groups.length).find? fun g => s.needsVat core slot tid g with
    | none => .fault .notEnabled
    | some user =>
      if t.mast || t.core != core || decide (4 ≤ slot) || held == tid + 1 || busy then .fault .notEnabled
      else
        let r := s.vatOut core slot
        .next (if r.2 then ((r.1.modCore core fun c => { c with vatTid := SMap.set 0 c.vatTid slot 0 }).vatIn core slot tid user)
          else r.1)

/-! ## Mapped scratchpad lines (06 R144, R145, 08 R192) -/

/-- An access touches a line of an allocation. -/
def Acc.onLine (a : Acc) (owner ln : Nat) : Bool :=
  match a.loc with
  | .spad tid off => tid == owner && decide (off < 128 * (ln + 1)) && decide (128 * ln < off + a.n)
  | _ => false

/-- A byte of a copy lies on a line. -/
def CpByte.onLine (b : CpByte) (owner ln : Nat) : Bool :=
  (match b.src with | .loc l _ => Acc.onLine ⟨0, 0, l, 1⟩ owner ln | _ => false)
    || (match b.dst with | .loc l _ => Acc.onLine ⟨0, 0, l, 1⟩ owner ln | _ => false)

/-- A pending arrival's barrier lies on a line. -/
def Pend.onLine (p : Pend) (owner ln : Nat) : Bool :=
  match p.kind with
  | .arrive l _ _ => Acc.onLine ⟨0, 0, l, 16⟩ owner ln
  | _ => false

/-- Who waits for a line: the group's next instruction, an access of it in flight, a copy of it, an
arrival that waits, its DXP program, its matrix operation, bytes that it reads after issue, or the result of a collective. -/
inductive LineUse where
  | next
  | pend (id : Nat)
  | access (id owner line : Nat)
  | copy (id : Nat)
  | dxp
  | engine
  | src (id : Nat)
  | coll (id : Nat)

/-- The first such use by a group. -/
def State.lineUse (s : State) (tid g : Nat) (t : Team) (gr : Group) (owner ln : Nat) : Option LineUse :=
  let key : W64 := BitVec.ofNat 64 (ln + 2 ^ 32 * owner)
  let c := s.core t.core
  if (match s.probe tid g with | some h => h.why == 12 && !h.started && h.answer == some key | none => false) then some .next
  else match gr.lq.find? fun e => e.accs.any fun a => a.onLine owner ln && e.lacks a with
    | some e => some (.access e.id owner ln)
    | none => match gr.sb.find? fun e => e.puts.any fun p => p.acc.onLine owner ln with
      | some e => some (.access e.id owner ln)
      | none => match c.copies.find? fun o => o.tid == tid && o.g == g
          && ((o.plan.getD []).any fun sec => sec.any fun b => b.onLine owner ln) with
        | some o => some (.copy o.id)
        | none => match c.copies.find? fun o => o.tid == tid && o.g == g
            && (match o.barLoc with | some l => Acc.onLine ⟨0, 0, l, 16⟩ owner ln | none => false) with
          | some o => some (.copy o.id)
          | none => match gr.pend.find? fun p => p.onLine owner ln with
          | some p => some (.pend p.id)
          | none =>
          if (match c.dxp.run with
            | some r => r.cmd.tid == tid && r.cmd.g == g
                && (match r.hold with | some h => h.why == 12 && !h.started && h.answer == some key | none => false)
            | none => false) then some .dxp
          else if owner == tid && (match c.engine with
            | o :: _ => o.tid == tid && o.g == g && (o.reads ++ o.writes).any fun x => x / 4 == ln
            | [] => false) then some .engine
          else match s.srcs.find? fun r => r.tid == tid && r.g == g && ((List.range r.count).any fun i => r.wants i
              && (match s.srcPlace t r i with | .ok l => Acc.onLine ⟨0, 0, l, 32⟩ owner ln | .error _ => false)) with
            | some r => some (.src r.id)
            | none => match s.colls.find? fun x => x.tid == tid && x.g == g && x.result.isSome && !x.wrote
                && ((s.collDst tid x.dst x.total).getD []).any fun p => Acc.onLine ⟨0, 0, p.1, p.2.2⟩ owner ln with
              | some x => some (.coll x.id)
              | none => none

/-- What a failed fill does to its use: the group that caused it takes the trap, precise where its instruction has had no
effect (06 R139, 08 R185); a copy or a DXP program fails (17 R378, R395), and so do bytes read after issue and a collective
(18 R415, R427). -/
def State.fillFails (s : State) (tid g : Nat) (t : Team) (u : LineUse) (cause detail addr : Nat) : State :=
  match u with
  | .next => s.raiseHeld tid g cause detail addr
  | .pend id => match (s.group? tid g).bind fun gr => gr.pend.find? fun p => p.id == id with
    | some p => (s.raiseLater tid g p.pc p.mask p.mask cause detail addr).modGroup tid g fun x =>
        { x with pend := x.pend.filter fun q => q.id != id }
    | none => s
  | .access id owner ln => match s.group? tid g with
    | none => s
    | some gr => match gr.lq.find? fun e => e.id == id with
      | some e => (e.accs.filter fun a => a.onLine owner ln && e.lacks a).foldl
          (fun (x : State) a => x.refuseLane tid g id a.lane ⟨cause, detail, addr⟩) s
      | none => match gr.sb.find? fun e => e.id == id with
        | some e => ((s.raiseLater tid g e.pc e.mask e.mask cause detail addr).modGroup tid g fun x =>
            { x with sb := x.sb.filter fun y => y.id != id }).endOp tid g id
        | none => s
  | .copy id => s.modCore t.core fun c => { c with copies := c.copies.map fun o =>
      if o.id = id then { o with failed := some ⟨cause, detail, addr⟩ } else o }
  | .dxp => s.dxFault t.core ⟨cause, detail, addr⟩
  | .engine => match (s.core t.core).engine with
    | o :: rest => ((s.engineNext t.core rest).raiseLater tid g o.pc o.mask o.mask cause detail addr).endOp
        tid g o.id
    | [] => s
  | .src id => match s.src? id with | some r => s.srcFails r | none => s
  | .coll id => match s.coll? tid g id with | some c => s.failColl c 3 | none => s

/-- The entry that serves a line, or the record of a bad one (R192, R185). -/
def Team.spEntry (u : Team) (ln : Nat) : Option (Except Trap SpMapE) :=
  match u.spmap.findIdx? fun m => m.holds ln with
  | none => none
  | some i => match u.spmap[i]? with
    | none => none
    | some m =>
      let others := u.spmap.zipIdx.any fun x => x.2 != i && m.overlap x.1
      some (if m.bad || others then .error ⟨2, 0xFF, u.lrec.spmap + 16 * i⟩ else .ok m)

/-- SPMAP_LINE_FILL: the map unit fills a line that a group's access waits for. line is the number of the line in its
allocation plus 2^32 times the team that owns it. A page that names another device's memory fails it with protection DETAIL 7
(DESIGN CHOICE, log 12). -/
def execSpmapLineFill (tid g line : Nat) (s : State) : Outcome State Fault Refusal :=
  let owner := line / 2 ^ 32
  let ln := line % 2 ^ 32
  match s.team? tid, s.group? tid g, s.team? owner with
  | some t, some gr, some u =>
    if !u.mapped (128 * ln) || (SMap.get MapLine.off u.lines ln).valid then .fault .notEnabled
    else match s.lineUse tid g t gr owner ln, u.spEntry ln with
      | some use, some (.error tr) => .next (s.fillFails tid g t use tr.cause tr.detail tr.addr)
      | some use, some (.ok m) =>
        let va := m.vbase + u.index * m.tstride * 4096 + 128 * ln - 4096 * m.off
        (match s.xlate u .fill va with
        | .error e => .next (s.fillFails tid g t use e.cause e.detail e.addr)
        | .ok (.mem pa key) =>
          let er := s.readErr u.core u.part (.mem pa key) 128 va
          (match er.2 with
          | some kind => .next (er.1.fillFails tid g t use 13 kind va)
          | none =>
            let s1 := (List.range 128).foldl (fun (x : State) i => x.promote 4096 (pa + i)) er.1
            let bs := s1.homeBytes key pa 128
            .next ((s1.count u.core 6 1).modTeam owner fun v =>
              { v with spad := SMap.setRange 0#8 v.spad (128 * ln) bs
                       lines := SMap.set MapLine.off v.lines ln ⟨true, 0, 0⟩ }))
        | .ok _ => .next (s.fillFails tid g t use 8 7 va))
      | _, _ => .fault .notEnabled
  | _, _, _ => .fault .notEnabled

/-- The dirty line that has been so longest. -/
def Team.oldestDirty (t : Team) : Option Nat :=
  (t.lines.foldl (fun (b : Option (Nat × Nat)) e =>
    if e.2.dirty = 0#128 then b
    else match b with
      | none => some (e.1, e.2.since)
      | some x => if e.2.since < x.2 then some (e.1, e.2.since) else b) none).map Prod.fst

/-- SPMAP_SPACE_WRITEBACK: the oldest dirty line, at any time (R145). -/
def execSpmapSpaceWriteback (tid : Nat) (s : State) : Outcome State Fault Refusal :=
  match (s.team? tid).bind fun t => t.oldestDirty with
  | none => .fault .notEnabled
  | some ln => .next (s.writeMapLine tid ln)

end Sys2Proof.Machine
end

