-- ==== Sys2Proof/Machine/Preempt.lean ====
section
/-!
DEFINITION. Machine/Preempt.lean: stopping a context (03 R59-R62, 02 R48, R49, R51, R54, 05 R115, 07 R181, 17 R396, 22
R445): PREEMPTION, PARTITION_SWAP, HOTSPOT_MIGRATION and STOP_INTERVAL_CLOSE. Each takes place in several moves: the interval
opens, the cores drain, the state is written back.
-/
namespace Sys2Proof.Machine

open Host (Outcome)

/-! ## Writing a context back (05 R115) -/

/-- The group's exits are taken out of its grid's count: the team starts again. -/
def State.uncount (s : State) (t : Team) : State :=
  let n := (t.groups.filter fun g => g.exited).length
  s.modPart t.part fun p => { p with grids := p.grids.map fun gr =>
    if gr.launch = t.launch then { gr with exited := gr.exited - n } else gr }

/-- A team gives up its places in the vat of a core, but those of some tiles. -/
def State.leaveVat (s : State) (core tid : Nat) (but : List Nat) : State :=
  s.modCore core fun c => { c with vatTid := c.vatTid.filter fun e => e.2 != tid + 1 || but.contains e.1 }

/-- IDEMPOTENT_RESTART: the team is flushed and starts again from its entry on a core (R51); the caps of the cluster it leaves
and of that where it starts are decided again (08 R204). -/
def State.restartTeam (s : State) (tid core : Nat) (slots : List Nat) : State :=
  match s.team? tid with
  | none => s
  | some t =>
    let (rule, s1) := s.drawBytes 576
    let u := Team.start t.part t.launch t.index t.lrec t.prios core t.origin t.cpos slots rule
      (s1.readSpmap t.part t.ctx t.comp t.lrec.spmap) false
    [clusterOf t.core, clusterOf core].eraseDups.foldl (fun (x : State) c => x.optDecide c)
      (((s1.uncount t).leaveVat t.core tid []).setTeam tid { u with saved := true })

/-- The team may be restarted: its flag is set, a group of it has not exited, none has halted, and no DXP program of it runs
or waits (R51, 17 R396). -/
def State.mayRestart (s : State) (tid : Nat) (t : Team) : Bool :=
  t.idem && !t.mast && t.groups.any (fun g => !g.exited) && t.groups.all (fun g => !g.halted) && !s.teamBusy tid t

/-- A team's DXP commands not started leave the core's queue for the team image's DXP area (07 R181). -/
def State.takeCmds (s : State) (tid : Nat) (t : Team) : State :=
  let mine := (s.core t.core).dxp.cmds.filter fun c => c.tid == tid
  if mine.isEmpty then s
  else (s.modDxp t.core fun d => { d with cmds := d.cmds.filter fun c => c.tid != tid }).modTeam tid fun u =>
    { u with dxArea := u.dxArea ++ mine }

/-- A team is written back: a deterministic team's turn is over, its mapped lines, its DXP commands and its image are saved (06
R145, R115, 07 R181, 22 R445). -/
def State.storeTeam (s : State) (tid : Nat) : State :=
  let s1 := (s.modTeam tid Team.turnEnd).writeMap tid
  match s1.team? tid with
  | none => s1
  | some t => ((s1.takeCmds tid t).saveTeam tid t).modTeam tid fun u => { u with saved := true, imaged := true }

/-! ## The rind store (05 R115, 06 R146, R151) -/

/-- The physical address of a cluster's slot (06 R134). -/
def rindSlot (cluster : Nat) : Nat := cluster / 4 * 0xC00000000 + 0xBF2000000 + cluster % 4 * 0x800000

/-- A team's pinned lines are copied to its cluster's slot under the partition's memory key. -/
def State.rindPut (s : State) (tid : Nat) (t : Team) : State :=
  s.modCluster (clusterOf t.core) fun c =>
    { c with rind := c.rind ++ [⟨t.part, keyOf (s.part t.part) 0, tid, t.imageBase,
        t.pinnedLines (s.imageBytes t (t.imageBase + 0x80D00) 6)⟩] }

/-- What a cluster's slot holds of contexts during their stops: their brine queues and endpoint binding tables, under the
partition's memory key. The model keeps each once, in Context, where messages that arrive in the stop still join it (R75). -/
def State.rindCtxs (s : State) (cl : Nat) : List (Nat × Nat × Nat × List Msg × SMap Ep) :=
  ((s.teams.filter fun e => clusterOf e.2.core == cl && s.stopped e.2.part e.2.ctx).map fun e => (e.2.part, e.2.ctx)).eraseDups.map
    fun x => (x.1, x.2, keyOf (s.part x.1) 0, (s.ctx x.1 x.2).brine, (s.ctx x.1 x.2).eps)

/-- A cluster's slot is read back (06 R154, memory kind 7). A lasting error is counted and posted; no instruction caused the
read, so no group takes a record (DESIGN CHOICE, log 7). -/
def State.rindRead (s : State) (p cl : Nat) : State :=
  let c := s.checkRead p (cl / 4) 7 (rindSlot cl) 0x800000
  if c.2 then c.1.postError (12 * cl) p 7 0 (rindSlot cl) false else c.1

/-- A team leaves its core: its slots are free, its pinned lines in the rind store (02 R27, R115). -/
def State.park (s : State) (tid : Nat) : State :=
  match s.team? tid with
  | none => s
  | some t => if t.parked then s else (s.rindPut tid t).setTeam tid { t with parked := true }

/-- Every team of a context is put away and off its core. -/
def State.allSaved (s : State) (p c : Nat) : Bool := (s.ctxTeams p c).all fun e => e.2.saved && e.2.parked

/-- Every team of a context has its image written for the stop. -/
def State.allImaged (s : State) (p c : Nat) : Bool := (s.ctxTeams p c).all fun e => e.2.imaged

/-- A group's lines leave the register cache, where nothing is still to be written to them: all but those that met a lasting
error. -/
def Group.linesOut (g : Group) (l : LaunchRec) : Group :=
  if g.nothingOut then
    let spill := g.fresh.filter fun n => decide (262 ≤ n)
    { g with fresh := spill, evicted := (groupLines l).filter fun n => !spill.contains n && !g.unsaved.contains n }
  else g

/-- A team's lines leave its core: of its groups, its tiles and the vat. -/
def State.teamOut (s : State) (tid : Nat) : State :=
  match s.team? tid with
  | none => s
  | some t =>
    let gs := t.groups.map fun (g : Group) => g.linesOut t.lrec
    let dirty := t.vatDirty
    let out := ((List.range 1024).filter fun n => !t.unsaved.contains n)
      ++ (((List.range 4).filter fun n => !dirty.contains n).map (1024 + ·))
    let t1 := if t.groups.all fun g => g.nothingOut then { t with fresh := [], evicted := out } else t
    (s.setTeam tid { t1 with groups := gs }).leaveVat t.core tid dirty

/-- At pre-emption a team is saved, or restarted where the X9 chooses to; then it leaves its core, a saved one with all its
lines. -/
def State.putAway (s : State) (tid : Nat) : State :=
  match s.team? tid with
  | none => s
  | some t =>
    let s1 := if t.saved then s
      else if s.mayRestart tid t then
        let (c, x) := s.drawChoice
        if c % 2 = 1 then x.restartTeam tid t.core (t.groups.map fun g => g.slot) else x.storeTeam tid
      else s.storeTeam tid
    (match s1.team? tid with
    | some u => if u.imaged then s1.teamOut tid else s1
    | none => s1).park tid

/-- Every team of a context is put away. -/
def State.putAwayAll (s : State) (p c : Nat) : State := (s.ctxTeams p c).foldl (fun (x : State) e => x.putAway e.1) s

/-- The contexts of a partition. -/
def State.ctxsOf (s : State) (p : Nat) : List Nat := ((s.part p).ctxs.filter fun e => e.2.valid).map Prod.fst

/-! ## Counters at a world switch (09 R219) -/

/-- The cores of a cluster, its mast core among them. -/
def clusterCores (c : Nat) : List Nat := (List.range 12).map (12 * c + ·) ++ [192 + c]

/-- The cores of a partition, its mast cores among them (log 12). -/
def State.coresOf (s : State) (p : Nat) : List Nat := (s.clustersOf p).flatMap clusterCores

/-- The counters of some cores are saved with the partitions that own them, each with the last cycle's increments. -/
def State.pmOut (s : State) (ks : List Nat) : State :=
  ks.foldl (fun (x : State) k =>
    let c := x.cluster (clusterOf k)
    let pm := (x.core k).pm.map fun e => (e.1, e.2.roll)
    if !c.valid || (x.pmCopy k).isSome then x
    else (x.modPart c.part.toNat fun q => { q with pmSaved := q.pmSaved ++ [(k, pm)] }).modCore k
      fun y => { y with pm := [] }) s

/-- The counters of some cores are restored from their owners' copies; a core whose owner has none starts from the At reset
values where fresh says so. -/
def State.pmIn (s : State) (ks : List Nat) (fresh : Bool) : State :=
  ks.foldl (fun (x : State) k =>
    match x.pmCopy k with
    | some m => (x.modCore k fun y => { y with pm := m }).modPart (x.cluster (clusterOf k)).part.toNat fun q =>
        { q with pmSaved := q.pmSaved.filter fun e => e.1 != k }
    | none => if fresh then x.modCore k fun y => { y with pm := [] } else x) s

/-! ## Resuming -/

/-- The slots of a team's groups that have not exited, as it comes back to its core (R27). -/
def Team.reslot (t : Team) (used : List Nat) : Team :=
  let r := t.groups.zipIdx.foldl (fun (a : List Nat × List Group) (x : Group × Nat) =>
    if x.1.exited then (a.1, a.2 ++ [x.1])
    else match slotFor a.1 x.2 with
      | some n => (n :: a.1, a.2 ++ [{ x.1 with slot := n }])
      | none => (a.1, a.2 ++ [x.1])) (used, [])
  { t with groups := r.2 }

/-- A command goes back to its place in a DXP's queue, which is in the order of issue. -/
def requeueCmd (q : List DxCmd) (c : DxCmd) : List DxCmd :=
  (q.takeWhile fun x => decide (x.opId < c.opId)) ++ c :: q.dropWhile fun x => decide (x.opId < c.opId)

/-- A team is back: in slots of its core, its pinned lines out of the rind store, its DXP commands in their places in the queue
again (R27, R115, 07 R181). -/
def State.unpark (s : State) (tid : Nat) (t : Team) : State :=
  let s1 := if t.parked then s.modCluster (clusterOf t.core) fun x => { x with rind := x.rind.filter fun r => r.tid != tid } else s
  let s2 := if t.dxArea.isEmpty then s1 else s1.modDxp t.core fun d => { d with cmds := t.dxArea.foldl requeueCmd d.cmds }
  let used := s2.slotsUsed t.core
  s2.modTeam tid fun u =>
    { (if t.parked then u.reslot used else u) with saved := false, imaged := false, parked := false, dxArea := [] }

/-- The clusters of a context's cores. -/
def State.ctxClusters (s : State) (p c : Nat) : List Nat := ((s.ctxCores p c).map clusterOf).eraseDups

/-- The teams of a context are back, with what the rind store holds of it (06 R146); the core views there hold none of its lines
(10 R242). -/
def State.wake (s : State) (p c : Nat) : State :=
  let s0 := (s.ctxClusters p c).foldl (fun (x : State) k => x.rindRead p k) s
  let s1 := (s0.ctxTeams p c).foldl (fun (x : State) e => if e.2.saved then x.unpark e.1 e.2 else x) s0
  (s.ctxCores p c).foldl (fun (x : State) k => x.modCore k Core.dropClean) s1

/-- The interval closes (R59); a brine entry whose stamp VCLK has reached then becomes visible in the same cycle (R73). -/
def State.closeStop (s : State) (p c : Nat) : State :=
  let s1 := s.closeNow p c
  s1.showDue p c (s1.ctx p c).brine.length

/-- The context's cores resume issue (R59): all in one cycle, or some of them before the last (a free choice, log 4). A
context whose step or debugger halt is released resumes at once. -/
def State.resume (s : State) (p c : Nat) (atOnce : Bool) : State :=
  let cores := s.ctxCores p c
  if atOnce || decide (cores.length ≤ 1) then s.closeStop p c
  else
    let (n, s1) := s.drawChoice
    let now := (cores.zipIdx.filter fun x => bit n x.2).map Prod.fst
    if now.length = cores.length then s1.closeStop p c
    else s1.modCtx p c fun x => { x with stop := x.stop.map fun st => { st with resumed := now } }

/-- The lines that the teams of a context that come back to a core pin there. -/
def State.backPins (s : State) (p c core : Nat) : Nat :=
  ((s.ctxTeams p c).filter fun e => e.2.parked && e.2.core == core && !s.teamOver e.1 e.2).foldl (fun n e => n + e.2.pins) 0

/-- The teams of a context are back, once the register caches of their cores have room for their pinned lines, others being
evicted first where one is full (25 R451); with them the partition's counters (09 R219). Then the context resumes. -/
def State.comeBack (s : State) (p c : Nat) (atOnce : Bool) : State :=
  let cores := s.ctxCores p c
  if !(cores.all fun k => s.mayRoom k (s.backPins p c k)) then s
  else
    let s1 := cores.foldl (fun (x : State) k => x.makeRoom k (x.backPins p c k)) s
    if !(cores.all fun k => s1.lineRoom k (s1.backPins p c k)) then s1
    else ((s1.wake p c).pmIn (s1.coresOf p) false).resume p c atOnce

/-- A reason for the stop goes; with the last the context comes back. -/
def State.endStop (s : State) (p c : Nat) (why : StopWhy) : State :=
  if !s.stopped p c || s.noWhy p c then s
  else
    let s1 := s.dropWhy p c why
    if s1.noWhy p c then s1.comeBack p c (why == .brk || why == .step) else s1

/-- A reason is among those of the open interval. -/
def State.stopsFor (s : State) (p c : Nat) (why : StopWhy) : Bool :=
  match (s.ctx p c).stop with
  | some st => st.why.contains why
  | none => false

/-- The drain is complete. -/
def State.drainDone (s : State) (p c : Nat) : Bool :=
  match (s.ctx p c).stop with
  | some st => st.drained
  | none => false

/-! ## The events -/

/-- PREEMPTION: the interval opens; then the drain goes on; then the teams are put away. -/
def execPreemption (p c : Nat) (s : State) : Outcome State Fault Refusal :=
  if !(s.part p).en || (s.part p).busy || !(s.ctx p c).valid then .fault .notEnabled
  else if !s.stopsFor p c .preempt then .next (s.openStop p c .preempt)
  else match s.drainMore p c with
    | some s1 => .next s1
    | none => if s.drainDone p c && !s.allSaved p c then .next (s.putAwayAll p c) else .fault .notEnabled

/-- Every team of a context is written back and off its core. -/
def State.swappedOut (s : State) (p c : Nat) : Bool := (s.ctxTeams p c).all fun e => e.2.imaged && e.2.parked

/-- At a swap a team is written back, never restarted (R51), and leaves its core with all its lines. -/
def State.swapOut (s : State) (tid : Nat) : State :=
  match s.team? tid with
  | none => s
  | some t => ((if t.imaged then s else s.storeTeam tid).teamOut tid).park tid

/-- Every team of a context is swapped out. -/
def State.swapOutAll (s : State) (p c : Nat) : State := (s.ctxTeams p c).foldl (fun (x : State) e => x.swapOut e.1) s

/-- One more move toward the swap of a context. -/
def State.swapMore (s : State) (p c : Nat) : Option State :=
  if !s.stopsFor p c .swap then some (s.openStop p c .swap)
  else match s.drainMore p c with
    | some s1 => some s1
    | none =>
      if s.drainDone p c && !s.swappedOut p c then
        let s1 := s.swapOutAll p c
        some (if (s1.ctxsOf p).all fun x => s1.drainDone p x && s1.swappedOut p x then s1.pmOut (s1.coresOf p) else s1)
      else none

/-- PARTITION_SWAP: the contexts of a partition, one move of the first that can make one. -/
def execPartitionSwap (p : Nat) (s : State) : Outcome State Fault Refusal :=
  if !(s.part p).en || (s.part p).busy then .fault .notEnabled
  else match (s.ctxsOf p).findSome? fun c => s.swapMore p c with
    | some s1 => .next s1
    | none => .fault .notEnabled

/-- The group waits at bar or tbwait. -/
def Group.atWait (g : Group) : Bool :=
  match g.hold with
  | some h => h.started && !h.ready && !h.passed && (h.why == 4 || h.why == 5)
  | none => false

/-- The team may be moved (R48): its groups wait at bar or tbwait or have exited, and nothing of any of them is outstanding. -/
def State.mayMove (s : State) (tid : Nat) (t : Team) : Bool :=
  t.groups.all (fun g => g.nothingOut && g.pend.isEmpty && (g.exited || (!g.halted && g.atWait)))
    && !s.teamBusy tid t && !s.srcs.any (fun r => r.tid == tid) && !s.colls.any (fun c => c.tid == tid)
    && !s.reqs.any (fun r => r.why.ofTeam tid)

/-- The team goes to a core (R49): restarted, or with its state as it stands. Records of its DXP programs stay in the trap
queue of the core it leaves (DESIGN CHOICE, log 12: R181 speaks of the commands alone). It ends on the one cluster and starts
on the other, so both caps are decided again (08 R204). The view of that core holds no line of the context then (10 R242). -/
def State.moveTeam (s : State) (tid core : Nat) (slots : List Nat) : State :=
  match s.team? tid with
  | none => s
  | some t =>
    let (ch, s0) := s.drawChoice
    let s1 := if s.mayRestart tid t && decide (ch % 2 = 1) then s0.restartTeam tid core slots
      else
        let x := (s0.storeTeam tid).teamOut tid
        let y := x.modTeam tid fun u =>
          let gs := u.groups.zipIdx.map fun (e : Group × Nat) => { e.1 with slot := slots.getD e.2 0 }
          { u with core := core, groups := gs }
        [clusterOf t.core, clusterOf core].eraseDups.foldl (fun (z : State) c => z.optDecide c) y
    let s2 := ((s1.writeBack core fun _ _ => true).modCore core Core.dropClean).modTeam tid fun u =>
      { u with moving := false, saved := false, imaged := false }
    match (s.part t.part).grids.find? fun g => g.launch == t.launch with
    | some g =>
      if t.index = 0 ∧ g.invoked ≠ 0 then
        let h := SMap.get HEntry.freeE s2.handles (g.invoked - 1)
        { s2 with handles := SMap.set HEntry.freeE s2.handles (g.invoked - 1) { h with loccore := core } }
      else s2
    | none => s2

/-- The core may take the team (R43, R48): of a team of a larger footprint the destination lies in the same cluster, in or
out of the rectangle of its set (DESIGN CHOICE, log 12: R48 asks for the cluster alone, R43 places a set in a rectangle). -/
def State.mayTake (s : State) (t : Team) (core : Nat) : Bool :=
  let a := clusterOf t.core
  let b := clusterOf core
  decide (core < 192) && core != t.core && (s.cluster b).valid && (s.cluster b).part.toNat == t.part
    && (decide (t.setSize = 1) || a == b) && s.hasRoom core t.lrec

/-- A core is there that may take the team. -/
def State.mayGo (s : State) (t : Team) : Bool := (List.range 192).any fun k => s.mayTake t k

/-- The teams of a context that were to move stay where they are. -/
def State.stay (s : State) (p c : Nat) : State :=
  (s.ctxTeams p c).foldl (fun (x : State) e => x.modTeam e.1 fun u => { u with moving := false }) s

/-- HOTSPOT_MIGRATION: the interval opens and the team is to move; then the drain goes on; then the team moves, once the
register cache of its new core has room for its pinned lines (25 R451). A team that is to move does, also where its core has
cooled since. -/
def execHotspotMigration (tid core : Nat) (s : State) : Outcome State Fault Refusal :=
  match s.team? tid with
  | none => .fault .notEnabled
  | some t =>
    let p := t.part
    let c := t.ctx
    if t.mast || !((s.core t.core).hot || t.moving) || !s.mayMove tid t || !s.mayTake t core then .fault .notEnabled
    else if !t.moving then
      .next ((s.modTeam tid fun u => { u with moving := true }).openStop p c .migrate)
    else match s.drainMore p c with
      | some s1 => .next s1
      | none => match s.drainDone p c, assignSlots (s.slotsUsed core) t.groups.length 0 with
        | true, some slots =>
          if !s.mayRoom core t.pins then .fault .notEnabled
          else
            let s1 := s.makeRoom core t.pins
            .next (if s1.lineRoom core t.pins then s1.moveTeam tid core slots else s1)
        | _, _ => .fault .notEnabled

/-- STOP_INTERVAL_CLOSE: an interval that the X9 opened, its work done, closes: the context resumes (R59). Where some cores have
resumed, the last ones do; where no reason is left but teams are still to come back, they do once they can. A swap ends with the
whole partition out; a migration with its teams moved, or where no core is left that may take one. -/
def execStopIntervalClose (p c : Nat) (s : State) : Outcome State Fault Refusal :=
  if s.noWhy p c then
    if (s.ctxTeams p c).any fun e => e.2.parked then
      if (s.ctxCores p c).all fun k => s.mayRoom k (s.backPins p c k) then .next (s.comeBack p c false) else .fault .notEnabled
    else .next (s.closeStop p c)
  else if !s.drainDone p c then .fault .notEnabled
  else if s.stopsFor p c .preempt && s.allSaved p c then .next (s.endStop p c .preempt)
  else if s.stopsFor p c .swap && (s.ctxsOf p).all (fun x => s.swappedOut p x) then .next (s.endStop p c .swap)
  else if s.stopsFor p c .migrate && (s.ctxTeams p c).all fun e => !e.2.moving || !s.mayGo e.2 then
    .next ((s.stay p c).endStop p c .migrate)
  else .fault .notEnabled

end Sys2Proof.Machine
end

