-- ==== Sys2Proof/Machine/Posts.lean ====
section
/-!
DEFINITION. Machine/Posts.lean: records and notices that waited for space (07 R166, R180), the sensors and caps of a cluster (02
R44, 19 R439), and power (19 R440): start-up and the loss of power.
-/
namespace Sys2Proof.Machine

open Host (Outcome)

/-! ## Held and lost records -/

/-- EVQ_HELD_RECORD_POST: the record that an engine of the core holds is posted, and its operation completes (R166). -/
def execEvqHeldRecordPost (core : Nat) (s : State) : Outcome State Fault Refusal :=
  match (s.core core).held with
  | [] => .fault .notEnabled
  | h :: rest =>
    if 256 ≤ s.evCount core then .fault .notEnabled
    else
      let s1 := s.modCore core fun c => { c with held := rest }
      .next ((s1.pushEv core (h.ev.w0.toNat % 256) h.ev.w1 h.ev.w2 h.ev.w3).endOp h.tid h.g h.opId)

/-- RECORDS_LOST_POST: one record for all that were lost since the last (R164, R166). Its core position is a free value
(log 4). -/
def execRecordsLostPost (cluster : Nat) (s : State) : Outcome State Fault Refusal :=
  let c := s.cluster cluster
  if c.lostPend = 0 ∨ 256 ≤ c.evq.length ∨ 16 ≤ cluster then .fault .notEnabled
  else
    let s1 := s.pushEv (192 + cluster) 6 (BitVec.ofNat 64 c.lostPend) 0 0
    .next ({ s1.modCluster cluster fun x => { x with lostPend := 0 } with free := s1.free + 1 })

/-- NOTICES_LOST_POST (R180). -/
def execNoticesLostPost (part : Nat) (s : State) : Outcome State Fault Refusal :=
  let n := (s.part part).noticeLost
  if n = 0 ∨ s.noticeRoom part = 0 then .fault .notEnabled
  else .next ((s.modPart part fun q => { q with noticeLost := 0 }).pushNotice part 6 0 n 0 0)

/-! ## Sensors and caps (R44, R439) -/

/-- PLACECFG.HOT: values below 40 are treated as 40 (02 R45). -/
def Cluster.hotAt (c : Cluster) : Int := max c.hotT.toNat 40

/-- A core takes its sample: hot-excluded above HOT, no longer at HOT - 4 or below (R44). -/
def Core.sample (c : Core) (hot : Int) (temp droop : Byte) : Core :=
  { c with temp := temp, droop := droop
           hot := if hot < temp.toInt then true else if temp.toInt ≤ hot - 4 then false else c.hot }

/-- TEMPERATURE_SAMPLE: the cores of a cluster are sampled; the hottest moves the thermal cap (R439). -/
def execTemperatureSample (cluster : Nat) (temps droops : List Byte) (s : State) : Outcome State Fault Refusal :=
  if 16 ≤ cluster ∨ temps.length ≠ 12 ∨ droops.length ≠ 12 then .fault .notEnabled
  else
    let hot := (s.cluster cluster).hotAt
    let s1 := (List.range 12).foldl (fun (x : State) i =>
      x.modCore (12 * cluster + i) fun c => c.sample hot (temps.getD i 0) (droops.getD i 0)) s
    let top := temps.foldl (fun (m : Int) t => max m t.toInt) (-128)
    let s2 := s1.modCluster cluster fun c =>
      { c with thermal := if hot + 10 ≤ top then c.thermal - 4 else if top ≤ hot then min 46 (c.thermal + 1) else c.thermal }
    .next (s2.settle cluster)

/-- A hundred real ticks in units of RCLK. -/
def droopTime : W64 := 100 * 65536

/-- DROOP_EVENT: two steps below the current step, for 100 real ticks. -/
def execDroopEvent (cluster : Nat) (s : State) : Outcome State Fault Refusal :=
  if 16 ≤ cluster then .fault .notEnabled
  else .next ((s.modCluster cluster fun c => { c with droopCap := some (c.step.toNat - 2, s.rclk + droopTime) }).settle cluster)

/-- DROOP_CAP_EXPIRY. -/
def execDroopCapExpiry (cluster : Nat) (s : State) : Outcome State Fault Refusal :=
  match (s.cluster cluster).droopCap with
  | none => .fault .notEnabled
  | some x =>
    if s.rclk.toNat < x.2.toNat then .fault .notEnabled
    else .next ((s.modCluster cluster fun c => { c with droopCap := none }).settle cluster)

/-! ## Power (R440, 05 R126, 06 R155) -/

/-- Operand word i of PFCMD (R431). -/
def State.pfArg (s : State) (i : Nat) : Nat := (SMap.get 0#64 s.pfOps i).toNat

/-- The image that words 1 and 2 of a firmware supply name in host memory. -/
def State.pfImage (s : State) : List Byte := s.hostBytes (s.pfArg 1) (s.pfArg 2)

/-- POWER_GOOD: the steps of start-up in order: the image is verified and calibration done; memory is initialised; READY.
Where a host has supplied the image, PFCMD's words stay as its command left them, OP 7 among them, when READY is set (DESIGN
CHOICE, log 16: R9 and R431 would also allow their At reset value 0 then). -/
def execPowerGood (s : State) : Outcome State Fault Refusal :=
  if s.ready || s.imgfail then .fault .notEnabled
  else if !s.caldone then
    if s.slotOk && imageVerifies s.slot then .next { s with runImage := s.slot, caldone := true }
    else .next { s with imgfail := true }
  else if !s.memdone then .next { s with home := [], lineKey := [], packed := [], memdone := true }
  else .next { s with ready := true, rclk := 0 }

/-- The module without power: all state but the slot is gone; what is not the module's (host memory, the environment,
what has left the device) and the model's counters stay. -/
def State.unpowered (s : State) (slotOk : Bool) : State :=
  { State.reset with
    memdone := false, caldone := false, ready := false, slot := s.slot, slotOk := slotOk, keyNext := s.keyNext, errs := s.errs
    agenda := s.agenda, out := s.out, hostMem := s.hostMem, free := s.free, nextTid := s.nextTid, nextOp := s.nextOp
    ticket := s.ticket }

/-- LOSS_OF_POWER: a slot write under way (writing) is left incomplete; an image that does not verify is never written
(R440). -/
def execLossOfPower (writing : Bool) (s : State) : Outcome State Fault Refusal :=
  if writing && !(s.pfBusy && s.pfWord.toNat % 256 == 7 && imageVerifies s.pfImage) then .fault .notEnabled
  else .next (s.unpowered (s.slotOk && !writing))

end Sys2Proof.Machine
end

