-- ==== Sys2Proof/Machine/PartReset.lean ====
section
/-!
DEFINITION. Machine/PartReset.lean: enabling, resetting and halting a partition (05 R127, R128, R130, 06 R151, R155, 07 R177,
R182, 08 R203, R205, 09 R217-R220, 00 R9, 19 R428, R435).
-/
namespace Sys2Proof.Machine

open Host (Outcome)

/-- A register write that is refused (R127, R128, R130). -/
def State.clpartErr (s : State) : State := { s with clparterr := true }

/-- A register access takes place: while the device is not READY the physical function offers only READY and PFCMD (19
R440), and the write is ignored. -/
def State.onReg (s : State) (t : State) : Outcome State Fault Refusal := if s.ready then .next t else .next s

/-- CLPARTn.INRST (R127). -/
def State.inReset (s : State) (cluster : Nat) : Bool :=
  let c := s.cluster cluster
  !c.valid || !(s.part c.part.toNat).en

/-- CLPART_WRITE: refused while INRST reads 0; a stopped mast core's STATE returns to 0 as the cluster is in reset. -/
def execClpartWrite (cluster : Nat) (val : W32) (s : State) : Outcome State Fault Refusal :=
  if 16 ≤ cluster then .fault .notEnabled
  else s.onReg (if !s.inReset cluster then s.clpartErr
    else
      let s1 := s.pmOut (clusterCores cluster)
      ((s1.modCluster cluster fun c => { c with valid := val.getLsbD 7, part := val.setWidth 4 }).pmIn
        (clusterCores cluster) true).settle cluster)

/-! ## Enabling (R128, R205, 08 R188, 09 R219, R220) -/

/-- The counters of a partition and its selects, saved copies among them, take their At reset values. -/
def State.clearCounters (s : State) (p : Nat) : State :=
  let s1 := (s.coresOf p).foldl (fun (x : State) k => x.modCore k fun c => { c with pm := [] }) s
  { (s1.modPart p fun q => { q with pmSaved := [] }) with units := s1.units.filter fun e => e.2.vf.toNat != p }

/-- EN is set: fresh keys, the record read, counters at 0, launch numbers from 0 (R177). Bits of the record that must be 0
and that no unit uses, 0x018 to 0x0FF, are not looked at (DESIGN CHOICE, log 12: R188 says no consequence of a non-zero one).
-/
def State.enable (s : State) (p : Nat) : State :=
  let base := (s.part p).recBase
  let s0 : State := { s with keyNext := s.keyNext + 1 }
  let s1 := s0.modPart p fun q =>
    { q with
      en := true, keyGen := s.keyNext, present := 0x3FF, epoch := satAdd q.epoch 1, recAt := base
      demote := 0, pgreqDrop := 0, noticeDrop := 0, launchDrop := 0, collAbort := 0, reefFrame := 0, reefTime := []
      nextLaunch := 0, measured := [] }
  let s2 := s1.modPart p fun q =>
    { q with ringBase := s1.devWord p base, ringSize := s1.devWord p (base + 8), gates := s1.devWord p (base + 16) }
  (s2.clearCounters p).settleAll

/-- PARTCTL_EN_SET: ignored, and an error, while BUSY reads 1. -/
def execPartctlEnSet (part : Nat) (s : State) : Outcome State Fault Refusal :=
  if 16 ≤ part then .fault .notEnabled
  else
    let q := s.part part
    s.onReg (if q.busy then s.clpartErr else if q.en then s else s.enable part)

/-! ## Partition reset (R128, R155, R182, R435) -/

/-- The teams of a partition, its mast programs among them. -/
def State.teamsOf (s : State) (p : Nat) : List Nat := (s.teams.filter fun e => e.2.part == p).map Prod.fst

/-- Its collectives end: other members are told (R435), and the devices that have sent contributions to a member of it that
has not joined; peers here end with status 1, those that wait for a member of it to join too (18 R427). -/
def State.resetColls (s : State) (p : Nat) : State :=
  let s1 := (s.colls.filter fun c => c.part == p).foldl (fun (x : State) c => x.failColl c 1) s
  let gens := ((s1.colls.filter fun c => c.part != p).map fun c => (c.part, c.gen)).eraseDups
  let s2 := gens.foldl (fun (x : State) e => x.abortColls e.1 e.2 Config.devNum.toNat p x.nextOp) s1
  let from_ := ((s2.collQ.filter fun k => k.dpart.toNat == p && k.kind == 0x0F).map fun k =>
    (k.sdev.toNat, k.spart.toNat, k.arg.toNat % 2 ^ 16)).eraseDups
  let s3 := from_.foldl (fun (x : State) e =>
    if e.1 = Config.devNum.toNat then x.abortColls e.2.1 e.2.2 e.1 p x.nextOp
    else x.unitSend (abortPacket p e.1 e.2.1 e.2.2)) s2
  { s3 with colls := s3.colls.filter fun c => c.part != p
            collQ := s3.collQ.filter fun k => k.dpart.toNat != p }

/-- Its invocations on other devices are aborted (R435), those in order queues here fail (07 R182, 18 R418). -/
def State.resetAbroad (s : State) (p : Nat) : State :=
  let s1 := (s.part p).abroad.foldl (fun (x : State) a =>
    x.unitSend (invAbort p a.1 a.2)) s
  let own (q : QInv) : Bool := q.src == Config.devNum.toNat && q.spart == p
  let hit := s1.handles.flatMap fun e => (e.2.queue.filter own).map fun q => q.entry
  let s2 : State := { s1 with handles := s1.handles.map fun e =>
    (e.1, { e.2 with queue := e.2.queue.filter fun q => !own q, late := e.2.late.filter fun q => !own q }) }
  s2.hSettle ((hit.filter fun i => decide (i < 4096)).map fun i => (i, 3, 3))

/-- Every handle that the partition owns breaks, with BCAUSE 2, and its entry is freed (08 R201). Its invocations that
another handle's queue holds keep their numbers there and run no more (07 R175, R182). -/
def State.resetHandles (s : State) (p : Nat) : State :=
  let mine := (s.handles.filter fun e => e.2.part == p && decide (e.2.st ≠ 0)).map Prod.fst
  let s1 := s.hSettle (mine.map fun i => (i, 3, 2))
  let dead (q : QInv) : QInv := if mine.contains q.entry then { q with entry := 4096 } else q
  let s2 : State := { s1 with handles := s1.handles.map fun e => (e.1, { e.2 with queue := e.2.queue.map dead }) }
  mine.foldl (fun (x : State) i => x.setEntry i { HEntry.freeE with gen := (x.hEntry i).gen + 1 }) s2

/-- Its cores hold nothing of it: operations, copies, commands, records, views, write-combining entries. -/
def State.resetCores (s : State) (p : Nat) : State :=
  (s.coresOf p).foldl (fun (x : State) k => x.modCore k fun c =>
    { c with view := [], rank := 0, wc := [], owed := [], engine := [], copies := [], held := [], dxp := Dxp.reset
             vatTid := [], rrTeam := [] }) s

/-- What it asked of other devices is forgotten (10 R234); an invocation that another device has not answered yet is aborted
once the answer names its handle (R435). -/
def State.resetFabric (s : State) (p : Nat) : State :=
  let tids := s.teamsOf p
  let cores := s.coresOf p
  let mine (w : ReqFor) : Bool := match w with
    | .load t _ _ _ => tids.contains t
    | .atomic t _ _ _ => tids.contains t
    | .store r => tids.contains r.tid
    | .red r => tids.contains r.tid
    | .copyRead c _ _ => cores.contains c
    | .copyWrite c _ _ => cores.contains c
    | .didx c _ => cores.contains c
    | .invoke _ _ _ _ _ _ _ => false
    | .handle t _ _ _ => tids.contains t
    | .gather t _ _ => tids.contains t
    | .collWrite t _ _ => tids.contains t
    | .recvWrite r => tids.contains r.tid
    | .send t _ _ _ _ _ => tids.contains t
    | .standin q _ _ _ => q == p
    | .srcRead t _ _ => tids.contains t
    | .orphan _ => false
  let kept (r : Req) : Option Req := match r.why with
    | .invoke t _ _ _ _ _ _ => some (if tids.contains t then { r with why := .orphan p } else r)
    | w => if mine w then none else some r
  { s with reqs := s.reqs.filterMap kept, srcs := s.srcs.filter (fun r => !tids.contains r.tid)
           releases := s.releases.filter fun r => !cores.contains r.core
           colDone := s.colDone.filter fun d => !tids.contains d.tid }

/-- Its clusters: event queues cleared, mast cores stopped, no operating point (R130, 07 R182); their registers return to
their At reset values (00 R9). -/
def State.resetClusters (s : State) (p : Nat) : State :=
  (s.clustersOf p).foldl (fun (x : State) c => x.modCluster c fun y =>
    { Cluster.reset with
      valid := y.valid, part := y.part, evSeq := y.evSeq, step := y.step, thermal := y.thermal, droopCap := y.droopCap
      rind := y.rind }) s

/-- Every queued or running launch completes with status 0x02. -/
def State.resetLaunches (s : State) (p : Nat) : State :=
  let q := s.part p
  let s1 := q.launchq.foldl (fun (x : State) l => x.postNotice p 1 2 l.launch l.addr 0) s
  (q.grids.filter fun g => g.status.isNone).foldl (fun (x : State) g => x.postNotice p 1 2 g.launch g.recAddr 0) s1

/-- The partition's unlocked operating point entries clear (08 R203). -/
def State.resetOpt (s : State) (p : Nat) : State :=
  { s with opt := s.opt.filter fun e => e.2.lock || e.2.part.toNat != p }

/-- The partition's own fields: those that the registers' Effect columns say nothing of return to their At reset values (00
R9); the notices posted, the key generations, the mailbox slots still owed and, until EN is set, the measurement log (R441)
stay. -/
def Partition.cleared (q : Partition) : Partition :=
  { Partition.reset with
    busy := true, measured := q.measured, recAt := q.recAt, epoch := q.epoch, ringBase := q.ringBase
    ringSize := q.ringSize, noticeLost := q.noticeLost
    ctxs := q.ctxs }

/-- A partition reset starts: everything but BUSY is done at once. -/
def State.resetPart (s : State) (p : Nat) : State :=
  let s1 := ((s.epReset p).resetColls p).resetAbroad p
  let s2 := ((s1.resetHandles p).resetFabric p).resetCores p
  let s3 := ((s2.resetClusters p).resetLaunches p).resetOpt p
  let tids := s3.teamsOf p
  let s4 : State := { s3 with teams := s3.teams.filter fun e => !tids.contains e.1 }
  ((s4.modPart p Partition.cleared).clearCounters p).settleAll

/-- PARTCTL_EN_CLEAR: with EN already 0 the write changes nothing. -/
def execPartctlEnClear (part : Nat) (s : State) : Outcome State Fault Refusal :=
  if 16 ≤ part then .fault .notEnabled
  else s.onReg (if (s.part part).en then s.resetPart part else s)

/-- PARTITION_RESET_COMPLETE: BUSY clears. -/
def execPartitionResetComplete (part : Nat) (s : State) : Outcome State Fault Refusal :=
  if (s.part part).busy then .next (s.modPart part fun q => { q with busy := false }) else .fault .notEnabled

/-- VF_FUNCTION_LEVEL_RESET: acts as clearing EN and then, once BUSY reads 0, setting it (19 R428): one move for each. -/
def execVfFunctionLevelReset (part : Nat) (s : State) : Outcome State Fault Refusal :=
  let q := s.part part
  if decide (16 ≤ part) || q.busy then .fault .notEnabled
  else s.onReg (if q.en then s.resetPart part else s.enable part)

/-! ## HALT (R128) -/

/-- One more move toward the halt of a context. -/
def State.haltMore (s : State) (p c : Nat) : Option State :=
  match s.drainMore p c with
  | some s1 => some s1
  | none => if s.drainDone p c && !s.allImaged p c then some ((s.ctxTeams p c).foldl (fun (x : State) e =>
      if e.2.imaged then x else x.storeTeam e.1) s) else none

/-- PARTCTL_HALT_SET: HALT opens a stop interval of every context; then the drains go on and the images are written; then
HALTED reads 1. With EN 0 the write is refused. -/
def execPartctlHaltSet (part : Nat) (s : State) : Outcome State Fault Refusal :=
  let q := s.part part
  if 16 ≤ part then .fault .notEnabled
  else if !s.ready then .next s
  else if !q.en then .next s.clpartErr
  else if !q.halt then
    .next ((s.ctxsOf part).foldl (fun (x : State) c => x.openStop part c .halt) (s.modPart part fun x => { x with halt := true }))
  else match (s.ctxsOf part).findSome? fun c => s.haltMore part c with
    | some s1 => .next s1
    | none =>
      if !q.halted && (s.ctxsOf part).all fun c => s.drainDone part c && s.allImaged part c then
        .next ((s.pmOut (s.coresOf part)).modPart part fun x => { x with halted := true })
      else .next s

/-- PARTCTL_HALT_CLEAR: closes the halt's intervals. -/
def execPartctlHaltClear (part : Nat) (s : State) : Outcome State Fault Refusal :=
  let q := s.part part
  if 16 ≤ part then .fault .notEnabled
  else s.onReg (if !q.en then s.clpartErr
    else if !q.halt then s
    else
      let s1 := s.pmIn (s.coresOf part) false
      (s1.ctxsOf part).foldl (fun (x : State) c => x.endStop part c .halt)
        (s1.modPart part fun x => { x with halt := false, halted := false }))

end Sys2Proof.Machine
end

