-- ==== Sys2Proof/Machine/Registers.lean ====
section
/-!
DEFINITION. Machine/Registers.lean: registers as S, the host software V of a partition and M write them (00 R7, 19 R430):
performance counters (09 R217, R221), the debugger (18 R410), mast core programs (05 R130), the reads that clear (07
R167, R169), and every register that has no row of its own.
-/
namespace Sys2Proof.Machine

open Host (Outcome)

/-! ## Performance counters (R217, R221) -/

/-- Who writes a counter: S every one, V those of its own partition's cores and every shared unit's, M none. -/
def State.pmWriter (s : State) (agent : HostAgent) (u : PmUnit) (n : Nat) : Bool :=
  let inRange := match u with
    | .core k => decide (k < 192) && decide (n < 8)
    | .shared k => decide (k < 32) && decide (n < 4)
  inRange && match agent, u with
    | .sysSw, _ => true
    | .virt p, .core k => (s.cluster (clusterOf k)).valid && (s.cluster (clusterOf k)).part.toNat == p
    | .virt _, .shared _ => true
    | .mgmt, _ => false

/-- The counters of a core that a read or a write reaches: the copy that a world switch has saved, while there is one (R219). -/
def State.corePm (s : State) (k : Nat) : SMap Pm :=
  match s.pmCopy k with
  | some m => m
  | none => (s.core k).pm

/-- Change a counter. -/
def State.modPm (s : State) (u : PmUnit) (n : Nat) (f : Pm → Pm) : State :=
  match u with
  | .core k =>
    let m := SMap.set Pm.reset (s.corePm k) n (f (SMap.get Pm.reset (s.corePm k) n))
    if (s.pmCopy k).isSome then s.modPart (s.cluster (clusterOf k)).part.toNat fun q => { q with pmSaved := SMap.put q.pmSaved k m }
    else s.modCore k fun c => { c with pm := m }
  | .shared k =>
    let i := 4 * k + n
    { s with units := SMap.set Pm.reset s.units i (f (SMap.get Pm.reset s.units i)) }

/-- The virtual function of a write: forced to the writer's own for V. -/
def agentVf (agent : HostAgent) (v : W32) : BitVec 4 :=
  match agent with
  | .virt p => BitVec.ofNat 4 p
  | _ => (v >>> 8).setWidth 4

/-- The events that a unit can see (R218): every core event of a core; sectors, compression and retries of a DRAM interface;
flits, markers and retries of a link; whether it is busy of each. -/
def unitSees (u : PmUnit) (event : Nat) : Bool :=
  match u with
  | .core _ => decide (event ≤ 0x0F)
  | .shared k => if k < 4 then [0x40, 0x41, 0x42, 0x43, 0x47].contains event else decide (0x43 ≤ event) && decide (event ≤ 0x47)

/-- A value of COUNT is set: the cycle's increments are lost (R221). -/
def Pm.program (x : Pm) (v : BitVec 48) : Pm := { x with count := v, cyc := { x.cyc with prog := true } }

/-- A write of a select register (R217, R218, R221): OVF cleared, unless the cycle's increments wrap the counter; EN 0 for an
event the unit cannot see; a reprogramming, where CLR is set or EVENT, EN or VF changes, sets COUNT or leaves it as it stood. -/
def Pm.select (x : Pm) (agent : HostAgent) (u : PmUnit) (v : W32) : Pm :=
  let en := v.getLsbD 12 && unitSees u (v.toNat % 128)
  let vf := agentVf agent v
  let event : BitVec 7 := v.setWidth 7
  let y : Pm := { x with ovf := if v.getLsbD 31 then x.wraps else x.ovf, en := en, vf := vf, event := event }
  if v.getLsbD 30 then y.program 0
  else if en = x.en ∧ vf = x.vf ∧ event = x.event then y
  else y.program x.seen

/-- A counter's write by one who may not write it is ignored. -/
def State.onPm (s : State) (agent : HostAgent) (u : PmUnit) (n : Nat) (f : Pm → Pm) : Outcome State Fault Refusal :=
  s.onReg (if s.pmWriter agent u n then s.modPm u n f else s)

/-- PMSEL_CLR. -/
def execPmselClr (agent : HostAgent) (u : PmUnit) (n : Nat) (s : State) : Outcome State Fault Refusal :=
  s.onPm agent u n fun x => x.program 0

/-- PMSEL_WRITE. -/
def execPmselWrite (agent : HostAgent) (u : PmUnit) (n : Nat) (val : W32) (s : State) : Outcome State Fault Refusal :=
  s.onPm agent u n fun x => x.select agent u val

/-- PMCNT_WRITE. -/
def execPmcntWrite (agent : HostAgent) (u : PmUnit) (n : Nat) (val : W64) (s : State) : Outcome State Fault Refusal :=
  s.onPm agent u n fun x => x.program (val.setWidth 48)

/-! ## The debugger (R410, 03 R60) -/

/-- The groups of a context that can issue now: each issues one instruction in the step. -/
def State.readyGroups (s : State) (p c : Nat) : List (Nat × Nat) :=
  (s.ctxTeams p c).flatMap fun e => ((List.range e.2.groups.length).filter fun g =>
    match e.2.groups[g]? with
    | some x => !x.exited && !x.halted && (s.whyNot e.1 g e.2 x).isNone
    | none => false).map fun g => (e.1, g)

/-- GO for a context: a debugger halt closes; in step mode its interval closes for the groups that issue, or stays where
none is ready. -/
def State.goCtx (s : State) (p c : Nat) : State :=
  let s1 := s.endStop p c .brk
  if !s1.stopsFor p c .step then s1
  else if !(s1.part p).dbgStep then s1.endStop p c .step
  else match s1.readyGroups p c with
    | [] => s1.modPart p fun q => { q with dbgStopped := true }
    | gs => (s1.modCtx p c fun x => { x with stepped := gs }).endStop p c .step

/-- GO: ignored while STOPPED is 0. -/
def State.dbgGo (s : State) (p : Nat) : State :=
  if !(s.part p).dbgStopped then s
  else (s.ctxsOf p).foldl (fun (x : State) c => x.goCtx p c) (s.modPart p fun q => { q with dbgStopped := false })

/-- STEP is set: every context stops. -/
def State.stepSet (s : State) (p : Nat) : State :=
  if (s.part p).dbgStep then s
  else
    let s1 := s.modPart p fun q => { q with dbgStep := true, dbgStopped := true }
    (s1.ctxsOf p).foldl (fun (x : State) c => (x.openStop p c .step).modCtx p c fun y => { y with stepped := [] }) s1

/-- DBGCTL_GO. -/
def execDbgctlGo (part : Nat) (s : State) : Outcome State Fault Refusal :=
  if 16 ≤ part then .fault .notEnabled else s.onReg (s.dbgGo part)

/-- DBGCTL_STEP_SET. -/
def execDbgctlStepSet (part : Nat) (s : State) : Outcome State Fault Refusal :=
  if 16 ≤ part then .fault .notEnabled else s.onReg (s.stepSet part)

/-- DBGCTL_STEP_CLEAR: the contexts resume at the next GO. -/
def execDbgctlStepClear (part : Nat) (s : State) : Outcome State Fault Refusal :=
  if 16 ≤ part then .fault .notEnabled else s.onReg (s.modPart part fun q => { q with dbgStep := false })

/-! ## Mast core programs (R130) -/

/-- The launch record that a mast program's fields stand for. -/
def Cluster.mastRec (c : Cluster) : LaunchRec :=
  { teams := 1, groups := 1, stages := 1, rings := [], det := false, idem := false, footW := 1, footH := 1, comp := c.mComp.toNat
    scratch := 0, spill := 16, kernel := 0, roles := [.vector], stageOf := [0], entry := c.mEntry.toNat
    handler := c.mHandler.toNat, priomap := 0, imageBase := c.mImage.toNat, spmap := 0, args := c.mArgs.toNat, ctx := c.mCtx.toNat }

/-- A program starts on a cluster's mast core. -/
def State.startMast (s : State) (cluster : Nat) : State :=
  let c := s.cluster cluster
  let core := 192 + cluster
  let (rule, s1) := s.drawBytes 576
  let s2 : State := { s1 with teams := s1.teams.filter fun e => !(e.2.mast && e.2.core == core) }
  let t := Team.start c.part.toNat 0 0 c.mastRec [] core core 0 [0] rule [] true
  ({ (s2.setTeam s2.nextTid t) with nextTid := s2.nextTid + 1 } : State).modCluster cluster fun x => { x with mState := 1 }

/-- COMP and CTX of a write of MASTCTL. -/
def Cluster.mastFields (c : Cluster) (val : Nat) : Cluster :=
  { c with mComp := BitVec.ofNat 3 (bits val 18 16), mCtx := BitVec.ofNat 6 (bits val 13 8) }

/-- MASTCTL_GO: a write with GO set: refused while INRST or STATE reads 1, or the context is not valid. -/
def execMastctlGo (cluster : Nat) (val : W32) (s : State) : Outcome State Fault Refusal :=
  if decide (16 ≤ cluster) || !val.getLsbD 0 then .fault .notEnabled
  else
    let c := s.cluster cluster
    let p := c.part.toNat
    let s1 := s.modCluster cluster fun x => x.mastFields val.toNat
    let ctx := ((s1.cluster cluster).mCtx).toNat
    let s2 := s1.loadCtx p ctx
    s.onReg (if s.inReset cluster || c.mState == 1 || !s.ctxValid p ctx then s.clpartErr else s2.startMast cluster)

/-! ## Reads that change something -/

/-- EVQSTAT_READ: LOST clears (R167). -/
def execEvqstatRead (cluster : Nat) (s : State) : Outcome State Fault Refusal :=
  if 16 ≤ cluster then .fault .notEnabled
  else
    let c := s.cluster cluster
    s.onReg ((s.modCluster cluster fun x => { x with lost := 0 }).emit (.regRead (BitVec.ofNat 64 c.evqstat)))

/-- DXP_TRAPQ_READ: S takes the head record (R169); with none there is nothing to take. -/
def execDxpTrapqRead (core : Nat) (s : State) : Outcome State Fault Refusal :=
  match (s.core core).dxp.trapq with
  | [] => .fault .notEnabled
  | x :: rest => s.onReg ((s.modDxp core fun d => { d with trapq := rest }).emit (.trapRead x.2))

/-! ## REGISTER_WRITE (R7, R430) -/

/-- A register of a partition's block. -/
def State.writePartReg (s : State) (p off : Nat) (v : W64) : State :=
  match off with
  | 0x08 => if (s.part p).en then s else s.modPart p fun q => { q with recBase := bits v.toNat 51 8 * 256 }
  | 0x18 =>
    let s1 := s.modPart p fun q => { q with dbgBrken := v.getLsbD 0 }
    let s2 := if v.getLsbD 1 then s1.stepSet p else s1.modPart p fun q => { q with dbgStep := false }
    if v.getLsbD 3 then s2.dbgGo p else s2
  | 0x28 => (s.modPart p fun q => { q with tenlim := v.getLsbD 4, rank := v.setWidth 4 }).settleAll
  | _ => s

/-- A register of a cluster's block. The mast registers are ignored while STATE reads 1 (R130). -/
def State.writeClusterReg (s : State) (n off : Nat) (v : W64) : State :=
  let mast (f : Cluster → Cluster) : State := if (s.cluster n).mState = 1 then s else s.modCluster n f
  match off with
  | 0x08 => s.modCluster n fun c => { c with droopw := (v >>> 8).setWidth 8, hotT := v.setWidth 8 }
  | 0x10 => s.modCluster n fun c => { c with gap := (v >>> 8).setWidth 8, widthm1 := v.setWidth 4 }
  | 0x18 => s.modCluster n fun c => { c with wcage := v.setWidth 16 }
  | 0x30 => if v.getLsbD 0 then s else mast fun c => c.mastFields v.toNat
  | 0x38 => mast fun c => { c with mEntry := v.setWidth 56 }
  | 0x40 => mast fun c => { c with mHandler := v.setWidth 56 }
  | 0x48 => mast fun c => { c with mArgs := v }
  | 0x50 => mast fun c => { c with mImage := v.setWidth 56 }
  | _ => s

/-- A register of the physical function by its offset. -/
def State.writePfReg (s : State) (off : Nat) (v : W64) : State :=
  if off = 0x08 then (if v.getLsbD 0 then { s with clparterr := false } else s)
  else if 0x48 ≤ off ∧ off ≤ 0x60 ∧ off % 8 = 0 then { s with pfOps := SMap.set 0#64 s.pfOps ((off - 0x40) / 8) v }
  else if 0x10000 ≤ off ∧ off < 0x11000 then s.writePartReg ((off - 0x10000) / 0x100) (off % 0x100) v
  else if 0x20000 ≤ off ∧ off < 0x21000 then s.writeClusterReg ((off - 0x20000) / 0x100) (off % 0x100) v
  else s

/-- The offset is of a register with a row of its own. -/
def ownRow (off : Nat) : Bool :=
  off == 0x40 || (decide (0x10000 ≤ off) && decide (off < 0x11000) && off % 0x100 == 0)
    || (decide (0x20000 ≤ off) && decide (off < 0x21000) && off % 0x100 == 0)
    || (decide (0x30000 ≤ off) && decide (off < 0x3C000) && decide (off % 0x100 < 0x80))
    || (decide (0x80000 ≤ off) && decide (off < 0x82000) && decide (off % 0x100 < 0x40))

/-- The offset in a virtual function's BAR0 is of a register with a row of its own: the doorbell, EPPOST, and the counters of
the partition's own cores and of the shared units (R430). -/
def State.ownVfRow (s : State) (p off : Nat) : Bool :=
  off == 0 || off == 8
    || (decide (0x1000 ≤ off) && decide (off < 0xD000) && decide (off % 0x100 < 0x80)
      && (s.coresOf p).contains ((off - 0x1000) / 0x100))
    || (decide (0x10000 ≤ off) && decide (off < 0x12000) && decide (off % 0x100 < 0x40))

/-- REGISTER_WRITE: S writes the fields that are its own; for V and M every register without a row of its own is read only,
and a name that the table does not give is ignored. A write of MASTCTL with GO set is MASTCTL_GO. -/
def execRegisterWrite (agent : HostAgent) (off : Nat) (val : W64) (s : State) : Outcome State Fault Refusal :=
  match agent with
  | .sysSw =>
    if ownRow off || (decide (0x20000 ≤ off) && decide (off < 0x21000) && off % 0x100 == 0x30 && val.getLsbD 0) then .fault .notEnabled
    else if s.ready then .next (s.writePfReg off val)
    else if s.imgfail && decide (0x48 ≤ off) && decide (off ≤ 0x60) then .next (s.writePfReg off val)
    else .next s
  | .virt p => if s.ownVfRow p off then .fault .notEnabled else .next s
  | .mgmt => .next s

end Sys2Proof.Machine
end

