-- ==== Sys2Proof/Machine/Reads.lean ====
section
/-!
DEFINITION. Machine/Reads.lean: what a read of a register returns (00 R7, 05 R126-R130, 09 R217, R219-R221, 19 R430): to
S and M in the physical function's layout, to the host software V of a partition in that of its virtual function. A field
of access W, a reserved field and an offset that the layout does not name read 0. A read changes nothing but EVQSTAT
(EVQSTAT_READ), so no other read is a move.
-/
namespace Sys2Proof.Machine

/-! ## The device (05 R126, R129, 19 R431) -/

/-- READY (R126). -/
def State.readyReg (s : State) : Nat := b2n s.ready + 2 * b2n s.imgfail + 4 * b2n s.caldone + 8 * b2n s.memdone
/-- DEVID (R129). -/
def devidReg : Nat := 0x0A91 * 2 ^ 48 + Config.stepping.toNat * 2 ^ 40 + Config.serial.toNat
/-- Word 0 of PFCMD (R431). -/
def State.pfcmdReg (s : State) : Nat := s.pfWord.toNat % 2 ^ 26 + 2 ^ 62 * b2n s.pfErr + 2 ^ 63 * b2n s.pfBusy

/-! ## A partition's block (05 R128, 08 R187, R205, 18 R410, 19 R432) -/

/-- PARTCTL (R128). -/
def Partition.ctlReg (q : Partition) : Nat := b2n q.en + 2 * b2n q.halt + 4 * b2n q.halted + 8 * b2n q.busy
/-- PARTCFG (R432). -/
def Partition.cfgReg (q : Partition) : Nat := q.rank.toNat + 16 * b2n q.tenlim
/-- KEYSTAT (R205). -/
def Partition.keyReg (q : Partition) : Nat := q.present.toNat + 2 ^ 16 * q.epoch.toNat
/-- DBGCTL (R410): GO reads 0. -/
def Partition.dbgReg (q : Partition) : Nat :=
  b2n q.dbgBrken + 2 * b2n q.dbgStep + 4 * b2n q.dbgStopped + 2 ^ 8 * q.dbgCode.toNat

/-- A register of a partition's block. -/
def State.readPartReg (s : State) (p off : Nat) : Nat :=
  let q := s.part p
  match off with
  | 0x00 => q.ctlReg
  | 0x08 => q.recBase
  | 0x10 => q.keyReg
  | 0x18 => q.dbgReg
  | 0x20 => (s.reefCause p).toNat
  | 0x28 => q.cfgReg
  | 0x30 => q.demote.toNat
  | 0x38 => q.pgreqDrop.toNat
  | 0x40 => q.noticeDrop.toNat
  | 0x48 => q.launchDrop.toNat
  | 0x50 => q.collAbort.toNat
  | 0x58 => q.reefFrame.toNat
  | 0x60 => (SMap.get 0#64 q.reefTime 1).toNat
  | 0x68 => (SMap.get 0#64 q.reefTime 2).toNat
  | 0x70 => (SMap.get 0#64 q.reefTime 3).toNat
  | 0x78 => (SMap.get 0#64 q.reefTime 4).toNat
  | _ => 0

/-! ## A cluster's block (05 R127, R129, R130, 02 R45, R47, 07 R167, R174) -/

/-- CLPART (R127). -/
def State.clpartReg (s : State) (n : Nat) : Nat :=
  (s.cluster n).part.toNat + 2 ^ 7 * b2n (s.cluster n).valid + 2 ^ 31 * b2n (s.inReset n)
/-- MASTCTL (R130): GO reads 0. -/
def Cluster.mastReg (c : Cluster) : Nat := 2 ^ 8 * c.mCtx.toNat + 2 ^ 16 * c.mComp.toNat + 2 ^ 30 * c.mState.toNat

/-- A register of a cluster's block. The owning partition's handler, which R45 names beside S as a reader of PLACECFG, is
given no other way to it: no rule names one (DESIGN CHOICE, log 21). -/
def State.readClusterReg (s : State) (n off : Nat) : Nat :=
  let c := s.cluster n
  match off with
  | 0x00 => s.clpartReg n
  | 0x08 => c.hotT.toNat + 2 ^ 8 * c.droopw.toNat
  | 0x10 => c.widthm1.toNat + 2 ^ 8 * c.gap.toNat
  | 0x18 => c.wcage.toNat
  | 0x20 => c.evqstat
  | 0x28 => c.step.toNat
  | 0x30 => c.mastReg
  | 0x38 => c.mEntry.toNat
  | 0x40 => c.mHandler.toNat
  | 0x48 => c.mArgs.toNat
  | 0x50 => c.mImage.toNat
  | _ => 0

/-! ## Counters (09 R217-R221) -/

/-- The events of cycle kind (R218). -/
def cycleKind (event : Nat) : Bool := [0x00, 0x03, 0x0D, 0x43].contains event

/-- A select register: CLR reads 0. -/
def Pm.selReg (x : Pm) : Nat :=
  x.event.toNat + 2 ^ 7 * b2n (cycleKind x.event.toNat) + 2 ^ 8 * x.vf.toNat + 2 ^ 12 * b2n x.en + 2 ^ 31 * b2n x.ovf
/-- A count register: COUNT before the cycle's increments, with OVF as it stands after them (R221). The cycle is the one in
progress, or the last: of a core whose quadrants have not all had their cycle yet the read is not at its end (DESIGN CHOICE, log
21). -/
def Pm.cntReg (x : Pm) : Nat := x.seen.toNat + 2 ^ 63 * b2n x.ovf

/-- A register of a core's block; the DXP's are S's alone (05 R125). d0 to d31, which R109 and R125 let S read, have no
offset in R430 and are not read here (DESIGN CHOICE, log 21). -/
def State.readCoreReg (s : State) (k off : Nat) : Nat :=
  let m := s.corePm k
  let x := (s.core k).dxp
  if off % 8 ≠ 0 then 0
  else if off < 0x40 then (SMap.get Pm.reset m (off / 8)).selReg
  else if off < 0x80 then (SMap.get Pm.reset m ((off - 0x40) / 8)).cntReg
  else if off = 0x80 then x.pc.toNat
  else if 0x88 ≤ off ∧ off < 0xB0 then (SMap.get 0#32 x.loops ((off - 0x88) / 8)).toNat
  else if off = 0xB0 then x.trapq.length
  else 0

/-- A register of a shared unit's block. -/
def State.readUnitReg (s : State) (u off : Nat) : Nat :=
  if off % 8 ≠ 0 ∨ 0x40 ≤ off then 0
  else
    let x := SMap.get Pm.reset s.units (4 * u + off / 8 % 4)
    if off < 0x20 then x.selReg else x.cntReg

/-- A counter of a context (09 R220). -/
def State.readCtxReg (s : State) (p c off : Nat) : Nat :=
  let x := s.ctx p c
  match off with
  | 0x00 => x.brineDrop.toNat
  | 0x08 => x.standins.toNat
  | 0x10 => x.lateReply.toNat
  | _ => 0

/-! ## Tables (08 R198, R203) -/

/-- The two words of an entry of the operating point table. -/
def OptEntry.word (e : OptEntry) (n : Nat) : Nat :=
  if n = 0 then b2n e.v + 2 * b2n e.lock + 4 * e.part.toNat + 2 ^ 6 * e.step.toNat + 2 ^ 16 * e.phase.toNat
    + 2 ^ 32 * e.kernel.toNat
  else e.best.toNat + 2 ^ 32 * e.uses.toNat

/-! ## The layouts (R430) -/

/-- A read by S, or by M, of the physical function. Until READY is set it offers only READY and PFCMD (19 R440). VCLK, RCLK
and VSTOPSUM of a context (R57), the handle resolution table and the endpoint table (R183), which the spec lets S or M read
and for which R430 and R438 name no offset and no selector, are not read here: an offset that R430 does not name reads 0
(DESIGN CHOICE, log 21). -/
def State.readPf (s : State) (off : Nat) : W64 :=
  BitVec.ofNat 64 <|
    if off = 0 then s.readyReg
    else if off = 0x40 then s.pfcmdReg
    else if 0x48 ≤ off ∧ off ≤ 0x60 ∧ off % 8 = 0 then (SMap.get 0#64 s.pfOps ((off - 0x40) / 8)).toNat
    else if !s.ready then 0
    else if off = 0x08 then b2n s.clparterr
    else if off = 0x10 then devidReg
    else if 0x10000 ≤ off ∧ off < 0x11000 then s.readPartReg ((off - 0x10000) / 0x100) (off % 0x100)
    else if 0x20000 ≤ off ∧ off < 0x21000 then s.readClusterReg ((off - 0x20000) / 0x100) (off % 0x100)
    else if 0x30000 ≤ off ∧ off < 0x3C000 then s.readCoreReg ((off - 0x30000) / 0x100) (off % 0x100)
    else if 0x80000 ≤ off ∧ off < 0x82000 then s.readUnitReg ((off - 0x80000) / 0x100) (off % 0x100)
    else if 0xA0000 ≤ off ∧ off < 0xA0100 ∧ off % 8 = 0 then (SMap.get 0#64 s.errcnt ((off - 0xA0000) / 8)).toNat
    else if 0xB0000 ≤ off ∧ off < 0xB8000 then
      s.readCtxReg ((off - 0xB0000) / 0x800) ((off - 0xB0000) / 0x20 % 64) (off % 0x20)
    else if 0x1000000 ≤ off ∧ off < 0x1040000 ∧ off % 8 = 0 then (SMap.get 0#64 s.paths ((off - 0x1000000) / 8)).toNat
    else if 0x1400000 ≤ off ∧ off < 0x1401000 ∧ off % 8 = 0 then
      (s.optEntry ((off - 0x1400000) / 0x10)).word (off / 8 % 2)
    else 0

/-- A read by V of its partition's virtual function: the launch doorbell and EPPOST read 0, cores of clusters that the
partition does not own read 0, and a shared unit's VF reads its own (R217). -/
def State.readVf (s : State) (p off : Nat) : W64 :=
  BitVec.ofNat 64 <|
    if !s.ready then 0
    else if 0x100 ≤ off ∧ off < 0x200 then s.readPartReg p (off - 0x100)
    else if 0x1000 ≤ off ∧ off < 0xD000 then
      let k := (off - 0x1000) / 0x100
      let c := s.cluster (clusterOf k)
      if c.valid && c.part.toNat == p && decide (off % 0x100 < 0x80) then s.readCoreReg k (off % 0x100) else 0
    else if 0x10000 ≤ off ∧ off < 0x12000 then s.readUnitReg ((off - 0x10000) / 0x100) (off % 0x100)
    else 0

/-- A read of a register by a host agent or the management controller. -/
def State.readReg (s : State) (agent : HostAgent) (off : Nat) : W64 :=
  match agent with
  | .virt p => s.readVf p off
  | _ => s.readPf off

end Sys2Proof.Machine
end

