-- ==== Sys2Proof/Machine/Pfcmd.lean ====
section
/-!
DEFINITION. Machine/Pfcmd.lean: the commands of the physical function (19 R431, 06 R137, R138, 08 R202, R203, 19 R440).
-/
namespace Sys2Proof.Machine

open Host (Outcome)

/-! ## Fields (R431) -/

def pfOp (w : W64) : Nat := bits w.toNat 7 0
def pfPart (w : W64) : Nat := bits w.toNat 11 8
def pfCtx (w : W64) : Nat := bits w.toNat 17 12
def pfIndex (w : W64) : Nat := bits w.toNat 25 18

/-- A command has started and ended: word 0 keeps its fields, ERR says whether it was refused. -/
def State.pfDone (s : State) (w : W64) (err : Bool) : State :=
  { s with pfWord := w &&& 0x3FFFFFF, pfErr := err, pfBusy := false }

/-- A write of word 0 with an operation: ignored while BUSY, and while the device is not READY (R440). f is none where the
command is refused. -/
def State.pfRun (s : State) (op : Nat) (w : W64) (f : Option State) : Outcome State Fault Refusal :=
  if pfOp w ≠ op then .fault .notEnabled
  else if s.pfBusy || !s.ready then .next s
  else .next (match f with
    | some t => t.pfDone w false
    | none => s.pfDone w true)

/-- The partition that a command names is enabled. -/
def State.pfPartOk (s : State) (w : W64) : Bool := (s.part (pfPart w)).en
/-- The context that a command names is valid, as its record says. -/
def State.pfCtxOk (s : State) (w : W64) : Bool := s.pfPartOk w && s.ctxValid (pfPart w) (pfCtx w)

/-! ## Generations (R137, R138) -/

/-- The record's GEN is written under the key that its line has. -/
def State.writeGen (s : State) (p c gen : Nat) : State :=
  let a := localPa (s.ctxRec p c)
  let key := if s.keyAt a = 0 then 0 else keyOf (s.part p) 0
  s.homeWrite key (a + 2) (toBytes 2 gen)

/-- The effect of a raise: the record, the context, and what its teams and its grids hold of control records (08 R184). A
priority map that is bad then is taken as one that cannot be read (log 12): no instruction fetched it. -/
def State.raiseGen (s : State) (p c : Nat) : State :=
  let g := ((s.ctx p c).gen + 1).toNat
  let s1 := (s.writeGen p c g).modCtx p c fun x => { x with gen := BitVec.ofNat 16 g }
  let now (l : LaunchRec) : List PrioRange := (s1.readPrios p l.ctx l.comp l.priomap).toOption.getD []
  let s2 := s1.modPart p fun q =>
    { q with grids := q.grids.map fun g => if g.lrec.ctx = c then { g with prios := now g.lrec } else g }
  let tids := (s2.teams.filter fun e => e.2.part == p && e.2.ctx == c).map Prod.fst
  tids.foldl (fun (x : State) t =>
    (x.modTeam t fun u => if u.mast then u else { u with prios := now u.lrec }).newSpmap t) s2

/-- PFCMD_RAISE_GENERATION: a raise past 0xFFFF keeps BUSY until the invalidation ends. -/
def execPfcmdRaiseGeneration (word : W64) (s : State) : Outcome State Fault Refusal :=
  let p := pfPart word
  let c := pfCtx word
  if pfOp word ≠ 1 then .fault .notEnabled
  else if s.pfBusy || !s.ready then .next s
  else if !s.pfCtxOk word then .next (s.pfDone word true)
  else
    let s1 := s.loadCtx p c
    if (s1.ctx p c).gen = 0xFFFF then .next { s1 with pfWord := word &&& 0x3FFFFFF, pfErr := false, pfBusy := true }
    else .next ((s1.raiseGen p c).pfDone word false)

/-- GENERATION_WRAP_INVALIDATE: every cached entry of the address space is invalid; the raise takes effect. -/
def execGenerationWrapInvalidate (s : State) : Outcome State Fault Refusal :=
  let w := s.pfWord
  if s.pfBusy && pfOp w == 1 then .next ((s.raiseGen (pfPart w) (pfCtx w)).pfDone w false) else .fault .notEnabled

/-! ## Endpoints (R202) -/

/-- The entry that words 1 to 4 hold, none where it is refused. -/
def State.pfEp (s : State) : Option Ep :=
  let w0 := s.pfArg 1
  let len := bits (s.pfArg 3) 8 0
  if bits w0 2 1 = 3 ∨ 256 < len then none
  else some { v := bit w0 0, mode := BitVec.ofNat 2 (bits w0 2 1), patience := BitVec.ofNat 16 (bits w0 31 16)
              standin := BitVec.ofNat 56 (s.pfArg 2), standlen := BitVec.ofNat 9 len, peer := BitVec.ofNat 64 (s.pfArg 4) }

/-- PFCMD_WRITE_ENDPOINT: an INDEX of no endpoint is refused (log 12). -/
def execPfcmdWriteEndpoint (word : W64) (s : State) : Outcome State Fault Refusal :=
  let s1 := s.loadCtx (pfPart word) (pfCtx word)
  s.pfRun 2 word (if !s.pfCtxOk word || decide (64 ≤ pfIndex word) then none
    else match s.pfEp with
      | none => none
      | some e => some (s1.modCtx (pfPart word) (pfCtx word) fun x => { x with eps := SMap.set Ep.unbound x.eps (pfIndex word) e }))

/-! ## The operating point table (R203) -/

/-- PFCMD_CLEAR_OPT. -/
def execPfcmdClearOpt (word : W64) (s : State) : Outcome State Fault Refusal :=
  s.pfRun 3 word (some { s with opt := [] })

/-- PFCMD_CLEAR_PARTITION_OPT. -/
def execPfcmdClearPartitionOpt (word : W64) (s : State) : Outcome State Fault Refusal :=
  s.pfRun 4 word (if !s.pfPartOk word then none else some { s with opt := s.opt.filter fun e => e.2.part.toNat != pfPart word })

/-- Set or clear LOCK of an entry. -/
def State.optLock (s : State) (i : Nat) (b : Bool) : State := s.setOpt i { s.optEntry i with lock := b }

/-- PFCMD_SET_LOCK. -/
def execPfcmdSetLock (word : W64) (s : State) : Outcome State Fault Refusal :=
  s.pfRun 5 word (if !s.pfPartOk word then none else some (s.optLock (pfIndex word) true))

/-- PFCMD_CLEAR_LOCK. -/
def execPfcmdClearLock (word : W64) (s : State) : Outcome State Fault Refusal :=
  s.pfRun 6 word (if !s.pfPartOk word then none else some (s.optLock (pfIndex word) false))

/-! ## Firmware (R440) -/

/-- PFCMD_SUPPLY_FIRMWARE: the write starts the command, which stays BUSY; its next move verifies the image and writes the
slot, after which, in a device that awaits an image, start-up goes on. 01 R22 names firmware supply as a use of the management
interface, to which R24, R437 and R440 give no such request: this command alone supplies an image (DESIGN CHOICE, log 9). -/
def execPfcmdSupplyFirmware (word : W64) (s : State) : Outcome State Fault Refusal :=
  if pfOp word ≠ 7 then .fault .notEnabled
  else if !s.ready && !s.imgfail then .next s
  else if !s.pfBusy then .next { s with pfWord := word &&& 0x3FFFFFF, pfErr := false, pfBusy := true }
  else if pfOp s.pfWord ≠ 7 then .next s
  else
    let im := s.pfImage
    if !imageVerifies im then .next (s.pfDone s.pfWord true)
    else
      let s1 : State := { s with slot := im, slotOk := true }
      .next ((if s.imgfail then { s1 with imgfail := false, runImage := im, caldone := true } else s1).pfDone s.pfWord false)

/-- PFCMD_UNKNOWN_OP. -/
def execPfcmdUnknownOp (word : W64) (s : State) : Outcome State Fault Refusal :=
  if 1 ≤ pfOp word ∧ pfOp word ≤ 7 then .fault .notEnabled
  else if s.pfBusy || !s.ready then .next s
  else .next (s.pfDone word true)

end Sys2Proof.Machine
end

