-- ==== Sys2Proof/Machine/Cxl.lean ====
section
/-!
DEFINITION. Machine/Cxl.lean: the host link (19 R428, R429) and the Lornan ports (19 R434, 24 R449): CXL.mem accesses, training,
a port that goes down and one that trains again.
-/
namespace Sys2Proof.Machine

open Host (Outcome)

/-! ## CXL.mem (R429, 06 R147): over a link that has trained -/

/-- The place of an access to a partition's range: in context 0, compartment 0, on this device. -/
def State.cxlLoc (s : State) (p off : Nat) (k : AccKind) : Option (Nat × Nat) :=
  if !(s.part p).en || !s.ctxValid p 0 then none
  else match (s.loadCtx p 0).translate p 0 0 k off with
    | .ok (.mem pa key) => some (pa, key)
    | _ => none

/-- The pieces of an access in lines of 64 bytes, the unit of CXL.mem: offset and length. -/
def cxlPieces (off n : Nat) : List (Nat × Nat) :=
  (List.range (ceilDiv (off % 64 + n) 64)).map fun i =>
    let lo := max off (64 * (off / 64 + i))
    (lo, min (off + n) (64 * (off / 64 + i + 1)) - lo)

/-- Where the pieces lie, with their keys and lengths; none where the context forbids one. -/
def State.cxlPlaces (s : State) (p off n : Nat) (k : AccKind) : Option (List (Nat × Nat × Nat)) :=
  (cxlPieces off n).foldr (fun x r => match s.cxlLoc p x.1 k, r with
    | some a, some l => some ((a.1, a.2, x.2) :: l)
    | _, _ => none) (some [])

/-- Write the pieces of an access. -/
def State.cxlPut (s : State) : List (Nat × Nat × Nat) → List Byte → State
  | [], _ => s
  | (pa, key, n) :: rest, bs => (s.homeWrite key pa (bs.take n)).cxlPut rest (bs.drop n)

/-- TotalVFs and InitialVFs, and the only NumVFs that is accepted (19 R428). -/
def numVfs : Nat := 16

/-- CXL_MEM_READ: home memory, after promotion (10 R228, R232), or an error completion, on a lasting error too (06 R154). -/
def execCxlMemRead (part off n : Nat) (s : State) : Outcome State Fault Refusal :=
  if n = 0 ∨ numVfs ≤ part ∨ s.cxlWidth = 0 then .fault .notEnabled
  else match s.cxlPlaces part off n .load with
    | none => .next (s.emit (.cxlError part off))
    | some ps =>
      let er := ps.foldl (fun (r : State × Bool) a =>
        let e := r.1.servedErr part a.1 a.2.2
        (e.1, r.2 || e.2)) (s.loadCtx part 0, false)
      let s1 := ps.foldl (fun (x : State) a => x.promoteRange a.1 a.2.2) er.1
      if er.2 then .next (er.1.emit (.cxlError part off)) else
      .next (s1.emit (.cxlData part off (ps.flatMap fun a => s1.homeBytes a.2.1 a.1 a.2.2)))

/-- CXL_MEM_WRITE: home memory, or an error completion with nothing written. -/
def execCxlMemWrite (part off : Nat) (bytes : List Byte) (s : State) : Outcome State Fault Refusal :=
  if bytes = [] ∨ numVfs ≤ part ∨ s.cxlWidth = 0 then .fault .notEnabled
  else match s.cxlPlaces part off bytes.length .store with
    | none => .next (s.emit (.cxlError part off))
    | some ps => .next (((s.loadCtx part 0).cxlPut ps bytes).emit (.cxlDone part off))

/-- CXL_LINK_TRAINING: x16, x8 or x4 in that order of preference; none leaves the link down. -/
def execCxlLinkTraining (ok16 ok8 ok4 : Bool) (s : State) : Outcome State Fault Refusal :=
  .next { s with cxlWidth := if ok16 then 16 else if ok8 then 8 else if ok4 then 4 else 0 }

/-! ## Ports (R434) -/

/-- LORNAN_LINK_TRAINING: a fresh link key, the counter from 0, the port up. -/
def execLornanLinkTraining (port : Nat) (s : State) : Outcome State Fault Refusal :=
  if decide (24 ≤ port) || s.portUp port then .fault .notEnabled
  else .next (s.freshPort port)

/-- LORNAN_PORT_RETRAIN: at the limit of its counter a port trains again under a fresh key. -/
def execLornanPortRetrain (port : Nat) (s : State) : Outcome State Fault Refusal :=
  let x := SMap.get Port.down s.ports port
  if !x.up || decide (x.ctr.toNat < portLimit) then .fault .notEnabled
  else .next (s.freshPort port)

/-- What a packet needs of its path (08 R198). -/
def needOf (kind : Nat) : Nat :=
  if kind = 5 ∨ kind = 6 then 1 else if kind = 0x0A ∨ kind = 0x0B ∨ kind = 0x0C then 2
  else if kind = 0x0F ∨ kind = 0x10 then 3 else 0

/-- A request that no path is left for fails as at its issue: as a refusal of a load, store or atomic with DETAIL 6 (10
R234), an invocation with cause 4, a message or a collective with no capable path. -/
def State.failReq (s : State) (r : Req) : State :=
  match r.why with
  | .load tid g id lane => s.refuseLoad tid g id lane 8 6
  | .atomic tid g id lane => s.refuseLoad tid g id lane 12 0
  | .store x => s.refuseRef 6 x
  | .red x => (s.redFails x 12 0).redSettle x.tid x.g x.id
  | .copyRead core id key => s.copyAnswer core id key 6 []
  | .copyWrite core id sector => s.modCopy core id fun o =>
      let va := (((o.plan.getD []).getD sector []).findSome? fun b => match b.dst with
        | .loc (.remote _ _) va => some va
        | _ => none).getD 0
      { o with acks := o.acks.erase sector, wrote := o.wrote.erase sector, failed := some (o.failed.getD ⟨8, 6, va⟩) }
  | .didx core known => s.didxAnswer core known 6 []
  | .invoke tid g id d _ _ _ => s.giveHandle (tid, g, id, d) (synth r.dev 4)
  | .handle tid g d code =>
    if code = 2 then s.modGroup tid g fun x => x.ws d.idx (BitVec.ofNat 64 (brokenWord 4))
    else s.modGroup tid g fun x => x.heard (tagWord r.tag)
      (BitVec.ofNat 64 (if code = 1 then brokenWord 4 else noPathWord (code - 4)))
  | .srcRead _ id i => s.srcAnswer id i 6 []
  | .orphan _ => s
  | .gather tid g va => s.modGroup tid g fun x => x.gathered va 6 []
  | .collWrite tid g id => s.refuseColl tid g id
  | .recvWrite x => s.refuseRef 6 x
  | .send tid g id d _ _ => s.sendDone tid g id d 4
  | .standin part ctx ident sector => s.standinSector part ctx ident sector 6 []

/-- The packet answers a request of another device: it has no request of its own. -/
def isAnswer (p : Packet) : Bool :=
  [2, 4, 6, 8, 9, 0x0E, 0x10, 0x11].contains p.kind.toNat || (p.kind == 0x0C && decide (p.arg.toNat % 4 ≠ 0))

/-- A packet that was queued on the port and finds no path of its capability left: an answer is not sent (R457), a request
fails, and a marker's destination that is still awaited counts as answered with DETAIL 6 (R449). -/
def State.stranded (s : State) (p : Packet) : State :=
    if isAnswer p then s
    else if p.kind = 7 then
      match s.releases.find? fun r => r.tag == p.rtag && r.devs.contains p.ddev.toNat && !r.acked.contains p.ddev.toNat with
      | some r =>
        let s1 := s.raiseLater r.tid r.g r.pc r.mask r.mask 8 6 p.ddev.toNat
        (s1.marked r p.ddev.toNat).relAdvance r.id
      | none => s
    else if p.kind = 0x0F then
      { s with colls := s.colls.map fun c =>
          if c.open_ ∧ c.part = p.spart.toNat ∧ c.gen = p.arg.toNat % 65536 ∧ c.key = p.rtag.toNat % 2 ^ 28
            ∧ memDev (c.members.getD c.root 0) = p.ddev.toNat then { c with status := 2 } else c }
    else
      let rs := s.reqs.filter fun r => r.tag == p.rtag && r.dev == p.ddev.toNat
      rs.foldl (fun (x : State) r => x.failReq r)
        { s with reqs := s.reqs.filter fun r => !(r.tag == p.rtag && r.dev == p.ddev.toNat) }

/-- What a packet is sent again as: a marker copy names the paths that it has been queued on (R449; log 13). -/
def resent (p : Packet) : Packet :=
  if p.kind = 7 then { p with addr := p.addr ||| (1#64 <<< (8 + p.path.toNat)) } else p

/-- The queue of one path on the failing port: its destination, its index, and the choice of the path that takes it over. -/
abbrev Detour := (Nat × Nat) × Nat

/-- The path that takes a packet over: for all packets of a queue the same, where one has every capability they need. -/
def State.detour (s : State) (all : List Packet) (c : Nat) (p : Packet) : Option Nat :=
  let fit (need : List Nat) : List Nat := (s.pathsTo p.ddev.toNat 0).filter fun i => need.all fun n => bit (s.pathEntry p.ddev.toNat i) n
  let whole := fit (all.map fun x => needOf x.kind.toNat)
  let ps := if whole.isEmpty then fit [needOf p.kind.toNat] else whole
  ps[c % ps.length]?

/-- A packet that was queued on the port goes again, behind the queue of another valid path of the same capability (R434,
R449). -/
def State.requeue (s : State) (all : List Packet) (ds : List Detour) (p : Packet) : State :=
  let same (x : Packet) : Bool := x.ddev == p.ddev && x.path == p.path
  let c := ((ds.find? fun e => e.1 == (p.ddev.toNat, p.path.toNat)).map Prod.snd).getD 0
  match s.detour (all.filter same) c p with
  | some q => s.depart (resent p) q
  | none => s.stranded p

/-- The packet left through a port. -/
def State.viaPort (s : State) (port : Nat) (o : Out) : Bool :=
  match o with
  | .packet p => bits (s.pathEntry p.ddev.toNat p.path.toNat) 23 16 == port
  | _ => false

/-- LORNAN_PORT_DOWN: its paths are not valid; packets still queued on it, a free choice of how many of those last handed
to it (log 13), go again, oldest first. -/
def execLornanPortDown (port : Nat) (s : State) : Outcome State Fault Refusal :=
  if decide (24 ≤ port) || !s.portUp port then .fault .notEnabled
  else
    let sent := s.out.filter fun o => s.viaPort port o
    let (c, s1) := s.drawChoice
    let back := sent.take (c % (sent.length + 1))
    let s2 : State := { s1 with
      ports := SMap.set Port.down s1.ports port { SMap.get Port.down s1.ports port with up := false }
      out := back.foldl (fun o x => o.erase x) s1.out }
    let ps := back.reverse.filterMap fun o => match o with | .packet p => some p | _ => none
    let ds := ((ps.map fun p => (p.ddev.toNat, p.path.toNat)).eraseDups).foldl (fun (r : State × List Detour) k =>
      let (n, x) := r.1.drawChoice
      (x, r.2 ++ [(k, n)])) (s2, [])
    .next (ps.foldl (fun (x : State) p => x.requeue ps ds.2 p) ds.1)

end Sys2Proof.Machine
end

