-- ==== Sys2Proof/Machine/Zaron.lean ====
section
/-!
DEFINITION. Machine/Zaron.lean: the management port (19 R437, R438, 08 R199): reef frames, path updates and telemetry.
-/
namespace Sys2Proof.Machine

open Host (Outcome)

/-! ## Frames -/

/-- The X9's station address: 02-0A-91, then DEVID.SERIAL[23:0] (R438). -/
def ownStation : BitVec 48 := BitVec.ofNat 48 (0x020A91 * 2 ^ 24 + Config.serial.toNat % 2 ^ 24)

/-- A frame addressed to the X9 or to all. -/
def zAccepts (f : ZFrame) : Bool := f.dst == 0xFFFFFFFFFFFF#48 || f.dst == ownStation

/-- Byte i of a payload. -/
def zByte (f : ZFrame) (i : Nat) : Nat := (f.payload.getD i 0).toNat

/-- SEQ of a frame. -/
def zSeq (f : ZFrame) : W32 := BitVec.ofNat 32 (ofBytes ((f.payload.drop 1).take 4))

/-- An answer to a frame: the request's type plus 0x80, its SEQ, to its source (R438). -/
def State.zAnswer (s : State) (src : BitVec 48) (type : Nat) (seq : W32) (bs : List Byte) : State :=
  s.emit (.zaron ⟨src, ownStation, BitVec.ofNat 8 (0x80 + type) :: (toBytes 4 seq.toNat ++ bs)⟩)

/-- The length of a type's layout. -/
def zLen (type : Nat) : Nat := match type with | 1 => 21 | 2 => 71 | 3 => 6 | _ => 0

/-- A frame of a type, long enough: one that is not for the X9 changes nothing. -/
def onFrame (type : Nat) (f : ZFrame) (s : State) (t : State) : Outcome State Fault Refusal :=
  if zByte f 0 ≠ type ∨ f.payload.length < zLen type then .fault .notEnabled
  else if zAccepts f then .next t else .next s

/-- Serial arithmetic modulo 2^32: the number is after the last (R437). -/
def seqAfter (last : Option W32) (n : W32) : Bool :=
  match last with
  | none => true
  | some l => decide (0 < (n - l).toNat) && decide ((n - l).toNat < 2 ^ 31)

/-! ## Reef frames (R437) -/

/-- A frame's levels take effect: each partition whose level changes counts it. -/
def State.reef (s : State) (seq : W32) (levels : List Nat) : State :=
  let s1 : State := { s with reefSeq := some seq, reefLevels := levels }
  let s2 := (List.range 16).foldl (fun (x : State) p =>
    if s.reefOf p = s1.reefOf p then x else x.modPart p fun q => { q with reefFrame := satAdd q.reefFrame 1 }) s1
  s2.settleAll

/-- ZARON_REEF_FRAME: stale, refused for a level above 15, or applied. -/
def execZaronReefFrame (f : ZFrame) (s : State) : Outcome State Fault Refusal :=
  let seq := zSeq f
  let levels := (List.range 16).map fun k => zByte f (5 + k)
  onFrame 1 f s (if !seqAfter s.reefSeq seq then s.zAnswer f.src 1 seq [2]
    else if levels.any fun l => decide (15 < l) then s.zAnswer f.src 1 seq [1]
    else (s.reef seq levels).zAnswer f.src 1 seq [0])

/-! ## Path updates (R198, R199) -/

/-- The field rules of a path entry. -/
def pathOk (e : Nat) : Bool :=
  let hops := bits e 9 8
  bits e 63 48 == 0 && bits e 15 10 == 0 && bits e 7 4 == 0 && decide (bits e 23 16 < 24)
    && (decide (1 ≤ hops) || bits e 31 24 == 0) && (decide (2 ≤ hops) || bits e 39 32 == 0)
    && (decide (3 ≤ hops) || bits e 47 40 == 0)

/-- ZARON_PATH_UPDATE: stale, of no destination, refused, or accepted, to be applied and answered later. -/
def execZaronPathUpdate (f : ZFrame) (s : State) : Outcome State Fault Refusal :=
  let seq := zSeq f
  let dst := ofBytes ((f.payload.drop 5).take 2)
  let es := (List.range 8).map fun i => ofBytes ((f.payload.drop (7 + 8 * i)).take 8)
  let no (st : Byte) : State := s.zAnswer f.src 2 seq (st :: toBytes 2 dst)
  onFrame 2 f s (if !seqAfter s.pathSeq seq then no 3
    else if 4095 < dst then no 2
    else if !(es.all pathOk) || (f.payload.drop 71).any fun b => decide (b ≠ 0) then no 1
    else { s with pathUpds := s.pathUpds ++ [⟨seq, f.src, dst, es.map (BitVec.ofNat 64)⟩] })

/-- A release to a destination awaits marker acknowledgements. -/
def State.awaits (s : State) (d : Nat) : Bool := s.releases.any fun r => r.devs.contains d && !r.acked.contains d

/-- PATH_UPDATE_APPLY: the eight entries change in one step. The last applied SEQ never goes back (R438). -/
def execPathUpdateApply (s : State) : Outcome State Fault Refusal :=
  match s.pathUpds.findIdx? fun u => !s.awaits u.dst with
  | none => .fault .notEnabled
  | some i => match s.pathUpds[i]? with
    | none => .fault .notEnabled
    | some u =>
      if (s.pathUpds.take i).any fun x => x.dst == u.dst then .fault .notEnabled
      else
        let s1 : State := { s with
          pathUpds := s.pathUpds.eraseIdx i, pathSeq := if seqAfter s.pathSeq u.seq then some u.seq else s.pathSeq
          paths := SMap.setRange 0#64 s.paths (8 * u.dst) ((List.range 8).map fun k => u.entries.getD k 0) }
        .next (s1.zAnswer u.src 2 u.seq (0 :: toBytes 2 u.dst))

/-! ## Telemetry (R438) -/

/-- The values of a selector, none for an unknown one. -/
def State.telemetry (s : State) (sel : Nat) : Option (List Byte) :=
  let w (x : Nat) : List Byte := toBytes 8 x
  match sel with
  | 0 => some (w s.readyReg ++ w (b2n s.clparterr) ++ w devidReg)
  | 1 => some ((List.range 16).flatMap fun p => w (s.part p).ctlReg ++ w (s.part p).cfgReg ++ w (s.reefCause p).toNat)
  | 2 => some ((List.range 16).map fun c => (s.cluster c).step.setWidth 8)
  | 3 => some ((List.range 192).map fun k => (s.core k).temp)
  | 4 => some ((List.range 16).flatMap fun p =>
      w (s.part p).reefFrame.toNat ++ (List.range 4).flatMap fun c => w (SMap.get 0#64 (s.part p).reefTime (c + 1)).toNat)
  | 5 => some ((List.range 4).flatMap fun st => (List.range 7).flatMap fun k => w (SMap.get 0#64 s.errcnt (8 * st + k + 1)).toNat)
  | _ => none

/-- ZARON_TELEMETRY_REQUEST. -/
def execZaronTelemetryRequest (f : ZFrame) (s : State) : Outcome State Fault Refusal :=
  let sel := zByte f 5
  let vs := (s.telemetry sel).getD []
  onFrame 3 f s (s.zAnswer f.src 3 (zSeq f)
    ([BitVec.ofNat 8 sel, if (s.telemetry sel).isSome then 0 else 1] ++ toBytes 2 vs.length ++ vs))

/-- ZARON_UNKNOWN_FRAME: dropped without an answer. -/
def execZaronUnknownFrame (f : ZFrame) (s : State) : Outcome State Fault Refusal :=
  let type := zByte f 0
  if 1 ≤ type ∧ type ≤ 3 ∧ zLen type ≤ f.payload.length then .fault .notEnabled else .next s

end Sys2Proof.Machine
end

