-- ==== Sys2Proof/Machine/Manage.lean ====
section
/-!
DEFINITION. Machine/Manage.lean: MCTP control (19 R437) and SPDM (R441). Codes and layouts are those of the standards that the
spec names (log 10); cryptography and what a responder chooses are opaque (log 9).
-/
namespace Sys2Proof.Machine

open Host (Outcome)

/-! ## MCTP control (R437) -/

/-- A response: message type 0x00, the instance, the command, a completion code and data. -/
def State.mctpAnswer (s : State) (m : Mctp) (cc : Byte) (data : List Byte) : State :=
  s.emit (.mctp m.src ([0x00, m.inst.setWidth 8, m.command, cc] ++ data))

/-- A command of a code; a wrong length is answered as such. -/
def onMctp (code len : Nat) (m : Mctp) (s : State) (t : State) : Outcome State Fault Refusal :=
  if m.command.toNat ≠ code then .fault .notEnabled
  else if m.data.length ≠ len then .next (s.mctpAnswer m 0x03 [])
  else .next t

/-- SET_ENDPOINT_ID: set or forced; another operation, or an ID that no endpoint may have, is invalid data. -/
def execSetEndpointId (m : Mctp) (s : State) : Outcome State Fault Refusal :=
  let op := (m.data.getD 0 0).toNat % 4
  let e := m.data.getD 1 0
  onMctp 1 2 m s (if 2 ≤ op ∨ e.toNat < 8 ∨ e = 0xFF then s.mctpAnswer m 0x02 []
    else ({ s with eid := e } : State).mctpAnswer m 0x00 [0x00, e, 0x00])

/-- GET_ENDPOINT_ID: a simple endpoint. -/
def execGetEndpointId (m : Mctp) (s : State) : Outcome State Fault Refusal :=
  onMctp 2 0 m s (s.mctpAnswer m 0x00 [s.eid, 0x00, 0x00])

/-- GET_MCTP_VERSION_SUPPORT: 1.3 for the base and control protocols. -/
def execGetMctpVersionSupport (m : Mctp) (s : State) : Outcome State Fault Refusal :=
  let t := m.data.getD 0 0
  onMctp 4 1 m s (if t = 0xFF ∨ t = 0x00 then s.mctpAnswer m 0x00 [1, 0xF1, 0xF3, 0xFF, 0x00]
    else if t = 0x05 then s.mctpAnswer m 0x00 [1, 0xF1, 0xF0, 0xFF, 0x00]
    else s.mctpAnswer m 0x80 [])

/-- GET_MESSAGE_TYPE_SUPPORT: SPDM. -/
def execGetMessageTypeSupport (m : Mctp) (s : State) : Outcome State Fault Refusal :=
  onMctp 5 0 m s (s.mctpAnswer m 0x00 [1, 0x05])

/-- MCTP_UNSUPPORTED_COMMAND. -/
def execMctpUnsupportedCommand (m : Mctp) (s : State) : Outcome State Fault Refusal :=
  let c := m.command.toNat
  if c = 1 ∨ c = 2 ∨ c = 4 ∨ c = 5 then .fault .notEnabled else .next (s.mctpAnswer m 0x05 [])

/-! ## SPDM (R441) -/

/-- The bytes of a response. -/
def spdmResp (code p1 p2 : Byte) (bs : List Byte) : List Byte := [0x13, code, p1, p2] ++ bs

/-- A response with its header. -/
def State.spdmAnswer (s : State) (m : Spdm) (code p1 p2 : Byte) (bs : List Byte) : State :=
  s.emit (.spdm m.doe (spdmResp code p1 p2 bs))

/-- An error response: its code and datum. -/
def State.spdmError (s : State) (m : Spdm) (code datum : Byte) : State := s.spdmAnswer m 0x7F code datum []

/-- The bytes of a request. -/
def spdmReq (m : Spdm) : List Byte := [m.version, m.code, m.param1, m.param2] ++ m.data

/-- Any request but GET_MEASUREMENTS begins the transcript of the measurements anew. -/
def State.spdmAnew (s : State) (code : Nat) : State :=
  if code = 0xE0 then s else { s with spdm := { s.spdm with meas := [] } }

/-- A request of a code, in its place of the exchange; out of place it is an unexpected request. One of another SPDM version
than 1.3 (GET_VERSION: 1.0, as the standard has it) is a version mismatch (00 R14; log 10). -/
def onSpdm (code : Nat) (m : Spdm) (ok : Bool) (s : State) (t : State) : Outcome State Fault Refusal :=
  if m.code.toNat ≠ code then .fault .notEnabled
  else if m.version ≠ (if code = 0x84 then 0x10 else 0x13) then .next ((s.spdmError m 0x41 0).spdmAnew code)
  else .next ((if ok then t else s.spdmError m 0x04 0).spdmAnew code)

/-- ASCII bytes. -/
def ascii (x : String) : List Byte := x.toList.map fun c => BitVec.ofNat 8 c.toNat

/-- SPDM 1.3's signature of a transcript: over the four-fold version prefix, the context padded with zeros in front to 36
bytes, and the digest of the transcript (log 10). -/
def spdmSign (context : String) (transcript : List Byte) : List Byte :=
  let v := ascii "dmtf-spdm-v1.3.*"
  let c := ascii context
  deviceSign (v ++ v ++ v ++ v ++ List.replicate (36 - c.length) 0#8 ++ c ++ sha512 transcript)

/-- Bytes that the standard leaves to the responder. -/
def State.spdmFree (s : State) (kind : Nat) : List Byte × State := (Config.spdmBytes s.free kind, { s with free := s.free + 1 })

/-- GET_VERSION: 1.3; the exchange begins again. -/
def execGetVersion (m : Spdm) (s : State) : Outcome State Fault Refusal :=
  let resp : List Byte := [0x10, 0x04, 0, 0, 0, 1, 0x00, 0x13]
  onSpdm 0x84 m true s (({ s with spdm := ⟨true, false, false, none, false, spdmReq m ++ resp, [], []⟩ } : State).emit
    (.spdm m.doe resp))

/-- GET_CAPABILITIES. -/
def execGetCapabilities (m : Spdm) (s : State) : Outcome State Fault Refusal :=
  let r := s.spdmFree 1
  onSpdm 0xE1 m s.spdm.version s (({ r.2 with spdm := { s.spdm with
      caps := true, vca := s.spdm.vca ++ spdmReq m ++ spdmResp 0x61 0 0 r.1 } } : State).spdmAnswer m 0x61 0 0 r.1)

/-- NEGOTIATE_ALGORITHMS: Ed25519 and SHA-512, where the requester offers them. -/
def execNegotiateAlgorithms (m : Spdm) (s : State) : Outcome State Fault Refusal :=
  let asym := ofBytes ((m.data.drop 4).take 4)
  let hash := ofBytes ((m.data.drop 8).take 4)
  let sel := toBytes 2 36 ++ [1, 0] ++ toBytes 4 8 ++ toBytes 4 (if bit asym 9 then 0x200 else 0)
    ++ toBytes 4 (if bit hash 2 then 4 else 0) ++ List.replicate 16 0#8
  onSpdm 0xE3 m s.spdm.caps s (({ s with spdm := { s.spdm with
      algs := true, vca := s.spdm.vca ++ spdmReq m ++ spdmResp 0x63 0 0 sel } } : State).spdmAnswer m 0x63 0 0 sel)

/-- A request about the certificate chain and its response join the transcript of those. -/
def State.spdmCerts (s : State) (m : Spdm) (resp : List Byte) : State :=
  { s with spdm := { s.spdm with certs := s.spdm.certs ++ spdmReq m ++ resp } }

/-- GET_DIGESTS: slot 0. -/
def execGetDigests (m : Spdm) (s : State) : Outcome State Fault Refusal :=
  let d := sha512 Config.certChain
  onSpdm 0x81 m s.spdm.algs s ((s.spdmCerts m (spdmResp 0x01 1 1 d)).spdmAnswer m 0x01 1 1 d)

/-- GET_CERTIFICATE: a portion of slot 0's chain. -/
def execGetCertificate (m : Spdm) (s : State) : Outcome State Fault Refusal :=
  let off := ofBytes (m.data.take 2)
  let len := ofBytes ((m.data.drop 2).take 2)
  let rest := Config.certChain.drop off
  let portion := rest.take len
  let body := toBytes 2 portion.length ++ toBytes 2 (rest.length - portion.length) ++ portion
  onSpdm 0x82 m s.spdm.algs s (if m.param1.toNat % 16 ≠ 0 ∨ Config.certChain.length ≤ off then s.spdmError m 0x01 0
    else (s.spdmCerts m (spdmResp 0x02 0 0 body)).spdmAnswer m 0x02 0 0 body)

/-- CHALLENGE: signed with the device's key, over the negotiation, the certificate messages and this exchange. -/
def execChallenge (m : Spdm) (s : State) : Outcome State Fault Refusal :=
  let r := s.spdmFree 2
  let body := sha512 Config.certChain ++ r.1
  onSpdm 0x83 m s.spdm.algs s (if m.param1.toNat % 16 ≠ 0 then s.spdmError m 0x01 0
    else
      let sig := spdmSign "responder-challenge_auth signing" (s.spdm.vca ++ s.spdm.certs ++ spdmReq m ++ spdmResp 0x03 0 1 body)
      ({ r.2 with spdm := { s.spdm with certs := [] } } : State).spdmAnswer m 0x03 0 1 (body ++ sig))

/-- The measurement of an index: the digests of R441. -/
def State.measurement (s : State) (i : Nat) : Option (List Byte) :=
  if i = 1 then some (sha512 s.runImage)
  else if i = 2 then some (sha512 ((List.range 16).flatMap fun n => toBytes 4 (s.clpartReg n)))
  else if 16 ≤ i ∧ i < 32 then some (sha512 ((s.part (i - 16)).measured.flatMap id))
  else none

/-- The indices with a measurement. -/
def measureIndices : List Nat := [1, 2] ++ (List.range 16).map (16 + ·)

/-- A measurement block. -/
def measureBlock (i : Nat) (d : List Byte) : List Byte :=
  [BitVec.ofNat 8 i, 1] ++ toBytes 2 (3 + d.length) ++ [BitVec.ofNat 8 (if i = 1 then 1 else 3)] ++ toBytes 2 d.length ++ d

/-- GET_MEASUREMENTS: their number, one, or all; signed where asked. -/
def execGetMeasurements (m : Spdm) (s : State) : Outcome State Fault Refusal :=
  let op := m.param2.toNat
  let all := measureIndices.flatMap fun i => match s.measurement i with | some d => measureBlock i d | none => []
  let r := s.spdmFree 3
  let send (n : Nat) (blocks : List Byte) : State :=
    let body := [BitVec.ofNat 8 n] ++ toBytes 3 blocks.length ++ blocks ++ r.1
    let p1 : Byte := if op = 0 then BitVec.ofNat 8 measureIndices.length else 0
    let log := s.spdm.meas ++ spdmReq m ++ spdmResp 0x60 p1 0 body
    let signed := m.param1.getLsbD 0
    ({ r.2 with spdm := { s.spdm with meas := if signed then [] else log } } : State).spdmAnswer m 0x60 p1 0
      (if signed then body ++ spdmSign "responder-measurements signing" (s.spdm.vca ++ log) else body)
  onSpdm 0xE0 m s.spdm.algs s (if op = 0 then send 0 []
    else if op = 255 then send measureIndices.length all
    else match s.measurement op with
      | some d => send 1 (measureBlock op d)
      | none => s.spdmError m 0x01 0)

/-- KEY_EXCHANGE: a session opens. -/
def execKeyExchange (m : Spdm) (s : State) : Outcome State Fault Refusal :=
  let r := s.spdmFree 4
  let th := s.spdm.vca ++ sha512 Config.certChain ++ spdmReq m ++ spdmResp 0x64 0 0 r.1
  let sig := spdmSign "responder-key_exchange_rsp signing" th
  let s1 : State := { r.2 with spdm := { s.spdm with session := some (th ++ sig), finished := false } }
  onSpdm 0xE4 m s.spdm.algs s (if s.spdm.session.isSome then s.spdmError m 0x0A 0
    else s1.spdmAnswer m 0x64 0 0 (r.1 ++ sig))

/-- A session over DOE has been established: the CXL link's IDE key is set through it (R428). The spec does not say by which
messages; DESIGN CHOICE (log 9): the key is fresh from then on, and its counter begins at 0. -/
def State.ideKey (s : State) (doe : Bool) : State :=
  if doe then { s with edges := SMap.set Edge.start s.edges 12 ⟨s.keyNext, 0⟩, keyNext := s.keyNext + 1 } else s

/-- FINISH: the session is established where the requester's proof verifies. -/
def execFinish (m : Spdm) (s : State) : Outcome State Fault Refusal :=
  onSpdm 0xE5 m (s.spdm.session.isSome && !s.spdm.finished) s (
    if Config.finishVerifies ((s.spdm.session.getD []) ++ spdmReq m) then
      let r := s.spdmFree 5
      (({ r.2 with spdm := { s.spdm with finished := true } } : State).ideKey m.doe).spdmAnswer m 0x65 0 0 r.1
    else ({ s with spdm := { s.spdm with session := none } } : State).spdmError m 0x06 0)

/-- END_SESSION. -/
def execEndSession (m : Spdm) (s : State) : Outcome State Fault Refusal :=
  onSpdm 0xEC m (s.spdm.session.isSome && s.spdm.finished) s
    (({ s with spdm := { s.spdm with session := none, finished := false } } : State).spdmAnswer m 0x6C 0 0 [])

/-- The requests that R441 names. -/
def spdmKnown : List Nat := [0x81, 0x82, 0x83, 0x84, 0xE0, 0xE1, 0xE3, 0xE4, 0xE5, 0xEC]

/-- SPDM_UNSUPPORTED_REQUEST: the standard's error, with the request's code. -/
def execSpdmUnsupportedRequest (m : Spdm) (s : State) : Outcome State Fault Refusal :=
  if spdmKnown.contains m.code.toNat then .fault .notEnabled else .next (s.spdmError m 0x07 m.code)

end Sys2Proof.Machine
end

