-- ==== Sys2Proof/Machine/Ordering.lean ====
section
/-!
DEFINITION. Machine/Ordering.lean: the steps of the ordering machine that no instruction takes (10 R222-R243): releases,
core views, ageing drains and back-invalidation answers.
-/
namespace Sys2Proof.Machine

open Host (Outcome)

/-- A release of a group is under way for a purpose. -/
def State.releasing (s : State) (tid g : Nat) (why : RelFor) : Bool :=
  s.releases.any fun r => r.tid == tid && r.g == g && r.why == why

/-- The release of a store or red (R230): its steps, and, unless answers are awaited, its own bytes. -/
def State.releaseStore (s : State) (tid g : Nat) (t : Team) (e : SbEntry) : State :=
  let s1 := s.releaseSteps t.core tid g t.part e.pc e.mask e.scope (2 ^ e.colour) e.devs (.store e.id)
  if s1.releasing tid g (.store e.id) then s1
  else match s1.team? tid with
    | some t1 => s1.performEntry tid g t1 { e with released := true }
    | none => s1

/-- What waits takes effect (15 R346, R351): an arrival that finds its barrier malformed is dropped (09 R210), and
one that would take ARRIVE below 0, or whose target is gone, posts an imprecise record, its instruction having issued (R211,
R212; log 22). -/
def State.applyPend (s : State) (tid g core : Nat) (p : Pend) : State :=
  let s1 := s.modGroup tid g fun x => { x with pend := x.pend.filter fun q => q.id != p.id }
  match p.kind with
  | .arrive l va n =>
    let r := s1.barRead core l
    let late (y : State) (cause detail : Nat) : State := y.raiseLater tid g p.pc p.mask p.mask cause detail (barAddr va)
    if s1.barGone l then late s1 8 8
    else if r.1.bad then r.2
    else if r.1.arrive < n then late r.2 10 r.1.phase
    else r.2.barApply core l fun b => { b with arrive := b.arrive - n }
  | .ringFill q slot => s1.modTeam tid fun t => t.ringSet q slot true
  | .ringFree q slot => s1.modTeam tid fun t => t.ringSet q slot false

/-- Older stores and loads that a pending effect waits for are done, and a barrier's mapped line is filled (06 R144). -/
def State.mayApply (s : State) (g : Group) (p : Pend) : Bool :=
  match p.kind with
  | .ringFree _ _ => g.mayRelease p.id 0
  | .arrive l _ _ => g.mayRelease p.id 255 && s.filled ⟨0, 0, l, 16⟩
  | .ringFill _ _ => g.mayRelease p.id 255

/-- A pending effect's release (R238): an arrival at device scope takes the release's steps first. -/
def State.releasePend (s : State) (tid g : Nat) (t : Team) (p : Pend) : State :=
  match p.kind with
  | .arrive (.mem pa key) va n =>
    let s1 := s.releaseSteps t.core tid g t.part p.pc p.mask .dev 255 [] (.pend p.id)
    s1.applyPend tid g t.core { p with kind := .arrive (.mem pa key) va n }
  | _ => s.applyPend tid g t.core p

/-- The fence that has waited since id, of the frontier a group runs or of the one its handler interrupted, with its entry. -/
def Group.fenceOf (g : Group) (id : Nat) : Option (Hold × Entry) :=
  let is (h : Hold) : Bool := h.why == 12 && h.started && h.since == id
  match g.hold.filter is, g.selected with
  | some h, some e => some (h, e)
  | _, _ => match (g.handler.bind fun x => x.stash).filter is, g.selectedOf g.front with
    | some h, some e => some (h, e)
    | _, _ => none

/-- RELEASE_PERFORM: a release of the group performs (R230): a store or red at the head of its buffer, an atomic's release
part, a fence's, or an effect that waits. A fence is named by when it began to wait. -/
def execReleasePerform (tid g id : Nat) (s : State) : Outcome State Fault Refusal :=
  match s.team? tid with
  | none => .fault .notEnabled
  | some t => match t.groups[g]? with
    | none => .fault .notEnabled
    | some gr => match gr.sb.find? fun e => e.id == id with
      | some e =>
        let c := 2 ^ e.colour
        if !e.rel || e.released || gr.sbHead e.colour != some e || !gr.mayPerform e || !gr.mayRelease id c
            || s.releasing tid g (.store id) || s.updatePending t.core c e.devs || !(e.puts.all fun p => s.filled p.acc) then
          .fault .notEnabled
        else .next (s.releaseStore tid g t e)
      | none => match gr.lq.find? fun e => e.id == id with
        | some e =>
          let c := 2 ^ e.colour
          let devs := (e.accs.filterMap fun a => a.loc.dev?).eraseDups
          if !e.rel || e.released || !gr.mayRelease id c || s.releasing tid g (.atomic id) || s.updatePending t.core c devs then
            .fault .notEnabled
          else .next (s.releaseSteps t.core tid g t.part e.pc e.mask e.scope c devs (.atomic id))
        | none => match gr.pend.find? fun p => p.id == id with
          | some p => if s.mayApply gr p then .next (s.releasePend tid g t p) else .fault .notEnabled
          | none => match gr.fenceOf id with
            | some (h, e) =>
              let w := (h.answer.getD 0).toNat
              let order := bits w 23 16
              let colours := bits w 7 0
              if h.passed ∨ order < 2 ∨ !gr.quiet colours ∨ s.releasing tid g (.fence id) ∨ s.updatePending t.core colours [] then
                .fault .notEnabled
              else
                let sc : Scope := match bits w 15 8 with | 1 => .team | 2 => .clus | 3 => .dev | 4 => .ten | 5 => .sys | _ => .lane
                .next (s.releaseSteps t.core tid g t.part e.pc e.mask sc colours [] (.fence id))
            | none => .fault .notEnabled

/-- CORE_VIEW_WRITEBACK: some dirty bytes are written to home memory and become clean (R227). -/
def execCoreViewWriteback (core : Nat) (addrs : List Nat) (s : State) : Outcome State Fault Refusal :=
  let v := (s.core core).view
  if addrs.isEmpty || !(addrs.all fun a => (SMap.get CvByte.absent v a).dirty) then .fault .notEnabled
  else .next (s.writeBack core fun a _ => addrs.contains a)

/-- CORE_VIEW_FILL: the clean bytes of a line are copied from home memory (R227). -/
def execCoreViewFill (core line : Nat) (s : State) : Outcome State Fault Refusal :=
  if !mappable (128 * line) then .fault .notEnabled
  else
    let key := match (s.core core).view.find? fun e => decide (e.1 / 128 = line) with
      | some e => e.2.key
      | none => s.keyAt (128 * line)
    .next (s.cvFill core line key)

/-- CORE_VIEW_DROP: a line without dirty bytes leaves the core view (R227). -/
def execCoreViewDrop (core line : Nat) (s : State) : Outcome State Fault Refusal :=
  let c := s.core core
  if c.lineAbsent line || c.view.any fun e => decide (e.1 / 128 = line) && e.2.dirty then .fault .notEnabled
  else .next (s.modCore core fun x => { x with view := x.view.filter fun e => decide (e.1 / 128 ≠ line) })

/-- WC_AGE_DRAIN: an entry's age in 1/64 real ticks reaches WCAGE.AGE (07 R173, R174). -/
def execWcAgeDrain (core idx : Nat) (s : State) : Outcome State Fault Refusal :=
  match (s.core core).wc[idx]? with
  | none => .fault .notEnabled
  | some e =>
    let age := (s.cluster (clusterOf core)).wcage.toNat
    if age = 0 ∨ (s.rclk - e.born).toNat < 1024 * age then .fault .notEnabled else .next (s.wcDrain core idx)

/-- BACK_INVALIDATION_RESPONSE: the host answers one (R236); the release that awaits it goes on. -/
def execBackInvalidationResponse (id : Nat) (s : State) : Outcome State Fault Refusal :=
  match s.releases.find? fun r => r.told && r.lines.contains id with
  | none => .fault .notEnabled
  | some r =>
    .next (({ s with releases := s.releases.map fun q =>
      if q.id = r.id then { q with lines := q.lines.filter fun n => n != id } else q } : State).relAdvance r.id)

end Sys2Proof.Machine
end

