-- ==== Sys2Proof/Machine/Dispatch.lean ====
section
/-!
DEFINITION. Machine/Dispatch.lean: one arm for each constructor of Instr.
-/
namespace Sys2Proof.Machine

def exec (i : Instr) (s : State) : Host.Outcome State Fault Refusal :=
  match i with
  | .nop x => Sys2Proof.Machine.execNop x s
  | .exit x => Sys2Proof.Machine.execExit x s
  | .trap x => Sys2Proof.Machine.execTrap x s
  | .tret x => Sys2Proof.Machine.execTret x s
  | .tqrd x => Sys2Proof.Machine.execTqrd x s
  | .tqrdDxp x => Sys2Proof.Machine.execTqrdDxp x s
  | .srd x => Sys2Proof.Machine.execSrd x s
  | .swr x => Sys2Proof.Machine.execSwr x s
  | .vclk x => Sys2Proof.Machine.execVclk x s
  | .alarm x => Sys2Proof.Machine.execAlarm x s
  | .alwait x => Sys2Proof.Machine.execAlwait x s
  | .alcan x => Sys2Proof.Machine.execAlcan x s
  | .phase x => Sys2Proof.Machine.execPhase x s
  | .yield x => Sys2Proof.Machine.execYield x s
  | .brkpt x => Sys2Proof.Machine.execBrkpt x s
  | .idem x => Sys2Proof.Machine.execIdem x s
  | .idemClr x => Sys2Proof.Machine.execIdemClr x s
  | .rdctx x => Sys2Proof.Machine.execRdctx x s
  | .bra x => Sys2Proof.Machine.execBra x s
  | .brx x => Sys2Proof.Machine.execBrx x s
  | .call x => Sys2Proof.Machine.execCall x s
  | .calli x => Sys2Proof.Machine.execCalli x s
  | .ret x => Sys2Proof.Machine.execRet x s
  | .vote x => Sys2Proof.Machine.execVote x s
  | .shfl x => Sys2Proof.Machine.execShfl x s
  | .actmask x => Sys2Proof.Machine.execActmask x s
  | .cvdecl x => Sys2Proof.Machine.execCvdecl x s
  | .cvsign x => Sys2Proof.Machine.execCvsign x s
  | .cvtest x => Sys2Proof.Machine.execCvtest x s
  | .iadd x => Sys2Proof.Machine.execIadd x s
  | .isub x => Sys2Proof.Machine.execIsub x s
  | .imul x => Sys2Proof.Machine.execImul x s
  | .imulh x => Sys2Proof.Machine.execImulh x s
  | .imad x => Sys2Proof.Machine.execImad x s
  | .idiv x => Sys2Proof.Machine.execIdiv x s
  | .irem x => Sys2Proof.Machine.execIrem x s
  | .imin x => Sys2Proof.Machine.execImin x s
  | .imax x => Sys2Proof.Machine.execImax x s
  | .iabs x => Sys2Proof.Machine.execIabs x s
  | .ineg x => Sys2Proof.Machine.execIneg x s
  | .and x => Sys2Proof.Machine.execAnd x s
  | .or x => Sys2Proof.Machine.execOr x s
  | .xor x => Sys2Proof.Machine.execXor x s
  | .not x => Sys2Proof.Machine.execNot x s
  | .shl x => Sys2Proof.Machine.execShl x s
  | .shr x => Sys2Proof.Machine.execShr x s
  | .sar x => Sys2Proof.Machine.execSar x s
  | .rotl x => Sys2Proof.Machine.execRotl x s
  | .popc x => Sys2Proof.Machine.execPopc x s
  | .clz x => Sys2Proof.Machine.execClz x s
  | .brev x => Sys2Proof.Machine.execBrev x s
  | .bfx x => Sys2Proof.Machine.execBfx x s
  | .bfi x => Sys2Proof.Machine.execBfi x s
  | .icmp x => Sys2Proof.Machine.execIcmp x s
  | .sel x => Sys2Proof.Machine.execSel x s
  | .mov x => Sys2Proof.Machine.execMov x s
  | .lea x => Sys2Proof.Machine.execLea x s
  | .sadd x => Sys2Proof.Machine.execSadd x s
  | .isad x => Sys2Proof.Machine.execIsad x s
  | .bcast x => Sys2Proof.Machine.execBcast x s
  | .extract x => Sys2Proof.Machine.execExtract x s
  | .getid x => Sys2Proof.Machine.execGetid x s
  | .ldk x => Sys2Proof.Machine.execLdk x s
  | .movp x => Sys2Proof.Machine.execMovp x s
  | .fadd x => Sys2Proof.Machine.execFadd x s
  | .fsub x => Sys2Proof.Machine.execFsub x s
  | .fmul x => Sys2Proof.Machine.execFmul x s
  | .ffma x => Sys2Proof.Machine.execFfma x s
  | .fmin x => Sys2Proof.Machine.execFmin x s
  | .fmax x => Sys2Proof.Machine.execFmax x s
  | .fabs x => Sys2Proof.Machine.execFabs x s
  | .fneg x => Sys2Proof.Machine.execFneg x s
  | .fcmp x => Sys2Proof.Machine.execFcmp x s
  | .frcp x => Sys2Proof.Machine.execFrcp x s
  | .frsq x => Sys2Proof.Machine.execFrsq x s
  | .fsqrt x => Sys2Proof.Machine.execFsqrt x s
  | .fexp2 x => Sys2Proof.Machine.execFexp2 x s
  | .flog2 x => Sys2Proof.Machine.execFlog2 x s
  | .fsin x => Sys2Proof.Machine.execFsin x s
  | .fcos x => Sys2Proof.Machine.execFcos x s
  | .ftanh x => Sys2Proof.Machine.execFtanh x s
  | .fdiv x => Sys2Proof.Machine.execFdiv x s
  | .ffloor x => Sys2Proof.Machine.execFfloor x s
  | .fround x => Sys2Proof.Machine.execFround x s
  | .fclass x => Sys2Proof.Machine.execFclass x s
  | .fdot2 x => Sys2Proof.Machine.execFdot2 x s
  | .fdot4 x => Sys2Proof.Machine.execFdot4 x s
  | .cvt x => Sys2Proof.Machine.execCvt x s
  | .tileCvtComplete tid id => Sys2Proof.Machine.execTileCvtComplete tid id s
  | .pack x => Sys2Proof.Machine.execPack x s
  | .unpk x => Sys2Proof.Machine.execUnpk x s
  | .scl x => Sys2Proof.Machine.execScl x s
  | .sclf x => Sys2Proof.Machine.execSclf x s
  | .tagrd x => Sys2Proof.Machine.execTagrd x s
  | .tagset x => Sys2Proof.Machine.execTagset x s
  | .sat x => Sys2Proof.Machine.execSat x s
  | .ldg x => Sys2Proof.Machine.execLdg x s
  | .lds x => Sys2Proof.Machine.execLds x s
  | .ldun x => Sys2Proof.Machine.execLdun x s
  | .ldm x => Sys2Proof.Machine.execLdm x s
  | .pgreq x => Sys2Proof.Machine.execPgreq x s
  | .pref x => Sys2Proof.Machine.execPref x s
  | .stg x => Sys2Proof.Machine.execStg x s
  | .sts x => Sys2Proof.Machine.execSts x s
  | .stun x => Sys2Proof.Machine.execStun x s
  | .stm x => Sys2Proof.Machine.execStm x s
  | .atom x => Sys2Proof.Machine.execAtom x s
  | .atoms x => Sys2Proof.Machine.execAtoms x s
  | .red x => Sys2Proof.Machine.execRed x s
  | .atomf x => Sys2Proof.Machine.execAtomf x s
  | .fence x => Sys2Proof.Machine.execFence x s
  | .waitc x => Sys2Proof.Machine.execWaitc x s
  | .bar x => Sys2Proof.Machine.execBar x s
  | .tbinit x => Sys2Proof.Machine.execTbinit x s
  | .tbarrive x => Sys2Proof.Machine.execTbarrive x s
  | .tbexpect x => Sys2Proof.Machine.execTbexpect x s
  | .tbwait x => Sys2Proof.Machine.execTbwait x s
  | .tbtest x => Sys2Proof.Machine.execTbtest x s
  | .ringput x => Sys2Proof.Machine.execRingput x s
  | .ringget x => Sys2Proof.Machine.execRingget x s
  | .ringrelFill x => Sys2Proof.Machine.execRingrelFill x s
  | .ringrelFree x => Sys2Proof.Machine.execRingrelFree x s
  | .evpost x => Sys2Proof.Machine.execEvpost x s
  | .evget x => Sys2Proof.Machine.execEvget x s
  | .marker x => Sys2Proof.Machine.execMarker x s
  | .wcdrain x => Sys2Proof.Machine.execWcdrain x s
  | .mma x => Sys2Proof.Machine.execMma x s
  | .mmab x => Sys2Proof.Machine.execMmab x s
  | .vatld x => Sys2Proof.Machine.execVatld x s
  | .vatst x => Sys2Proof.Machine.execVatst x s
  | .vatclr x => Sys2Proof.Machine.execVatclr x s
  | .vatcp x => Sys2Proof.Machine.execVatcp x s
  | .mtrans x => Sys2Proof.Machine.execMtrans x s
  | .mscale x => Sys2Proof.Machine.execMscale x s
  | .matrixOpComplete core capture final => Sys2Proof.Machine.execMatrixOpComplete core capture final s
  | .wfcfg x => Sys2Proof.Machine.execWfcfg x s
  | .wfband x => Sys2Proof.Machine.execWfband x s
  | .wfrun x => Sys2Proof.Machine.execWfrun x s
  | .wfedge x => Sys2Proof.Machine.execWfedge x s
  | .tbwalk x => Sys2Proof.Machine.execTbwalk x s
  | .wfscore x => Sys2Proof.Machine.execWfscore x s
  | .cpyt x => Sys2Proof.Machine.execCpyt x s
  | .cpyg x => Sys2Proof.Machine.execCpyg x s
  | .cpys x => Sys2Proof.Machine.execCpys x s
  | .dxrun x => Sys2Proof.Machine.execDxrun x s
  | .dxsig x => Sys2Proof.Machine.execDxsig x s
  | .copySectorWrite core id sector readOnly => Sys2Proof.Machine.execCopySectorWrite core id sector readOnly s
  | .copyComplete core id => Sys2Proof.Machine.execCopyComplete core id s
  | .dxpProgramStart core => Sys2Proof.Machine.execDxpProgramStart core s
  | .dloop x => Sys2Proof.Machine.execDloop x s
  | .dnext x => Sys2Proof.Machine.execDnext x s
  | .didx x => Sys2Proof.Machine.execDidx x s
  | .daddr x => Sys2Proof.Machine.execDaddr x s
  | .daddrCmd x => Sys2Proof.Machine.execDaddrCmd x s
  | .dxfer x => Sys2Proof.Machine.execDxfer x s
  | .darrive x => Sys2Proof.Machine.execDarrive x s
  | .dwaitev x => Sys2Proof.Machine.execDwaitev x s
  | .dend x => Sys2Proof.Machine.execDend x s
  | .dxpBra x => Sys2Proof.Machine.execDxpBra x s
  | .dxpCall x => Sys2Proof.Machine.execDxpCall x s
  | .dxpRet x => Sys2Proof.Machine.execDxpRet x s
  | .dxpDrainTimeout core => Sys2Proof.Machine.execDxpDrainTimeout core s
  | .invk x => Sys2Proof.Machine.execInvk x s
  | .invh x => Sys2Proof.Machine.execInvh x s
  | .hwait x => Sys2Proof.Machine.execHwait x s
  | .htest x => Sys2Proof.Machine.execHtest x s
  | .hrel x => Sys2Proof.Machine.execHrel x s
  | .hget x => Sys2Proof.Machine.execHget x s
  | .epsend x => Sys2Proof.Machine.execEpsend x s
  | .eprecv x => Sys2Proof.Machine.execEprecv x s
  | .epstand x => Sys2Proof.Machine.execEpstand x s
  | .coll x => Sys2Proof.Machine.execColl x s
  | .collComplete tid g id => Sys2Proof.Machine.execCollComplete tid g id s
  | .epsendComplete tid g id => Sys2Proof.Machine.execEpsendComplete tid g id s
  | .invocationResultReady part launch => Sys2Proof.Machine.execInvocationResultReady part launch s
  | .trapDelivery tid g => Sys2Proof.Machine.execTrapDelivery tid g s
  | .stallHintExpiry tid g => Sys2Proof.Machine.execStallHintExpiry tid g s
  | .alarmExpiry tid g slot => Sys2Proof.Machine.execAlarmExpiry tid g slot s
  | .timeoutExpiry who => Sys2Proof.Machine.execTimeoutExpiry who s
  | .waitReleased who => Sys2Proof.Machine.execWaitReleased who s
  | .barReleaseWave tid => Sys2Proof.Machine.execBarReleaseWave tid s
  | .storePerform tid g colour => Sys2Proof.Machine.execStorePerform tid g colour s
  | .releasePerform tid g id => Sys2Proof.Machine.execReleasePerform tid g id s
  | .coreViewWriteback core addrs => Sys2Proof.Machine.execCoreViewWriteback core addrs s
  | .coreViewFill core line => Sys2Proof.Machine.execCoreViewFill core line s
  | .coreViewDrop core line => Sys2Proof.Machine.execCoreViewDrop core line s
  | .loadValueTake tid g id => Sys2Proof.Machine.execLoadValueTake tid g id s
  | .atomicStep tid g id => Sys2Proof.Machine.execAtomicStep tid g id s
  | .loadComplete tid g id early final => Sys2Proof.Machine.execLoadComplete tid g id early final s
  | .wcAgeDrain core idx => Sys2Proof.Machine.execWcAgeDrain core idx s
  | .backInvalidationResponse id => Sys2Proof.Machine.execBackInvalidationResponse id s
  | .registerLineFill tid g line victim => Sys2Proof.Machine.execRegisterLineFill tid g line victim s
  | .vatTileSwap core slot tid => Sys2Proof.Machine.execVatTileSwap core slot tid s
  | .spmapLineFill tid g line => Sys2Proof.Machine.execSpmapLineFill tid g line s
  | .spmapSpaceWriteback tid => Sys2Proof.Machine.execSpmapSpaceWriteback tid s
  | .launchDoorbell part addr => Sys2Proof.Machine.execLaunchDoorbell part addr s
  | .launchCheck part => Sys2Proof.Machine.execLaunchCheck part s
  | .teamPlacement part => Sys2Proof.Machine.execTeamPlacement part s
  | .launchComplete part launch => Sys2Proof.Machine.execLaunchComplete part launch s
  | .hotspotMigration tid core => Sys2Proof.Machine.execHotspotMigration tid core s
  | .preemption part ctx => Sys2Proof.Machine.execPreemption part ctx s
  | .partitionSwap part => Sys2Proof.Machine.execPartitionSwap part s
  | .stopIntervalClose part ctx => Sys2Proof.Machine.execStopIntervalClose part ctx s
  | .brineVisible part ctx => Sys2Proof.Machine.execBrineVisible part ctx s
  | .patienceExpiry part ctx ident => Sys2Proof.Machine.execPatienceExpiry part ctx ident s
  | .standinDeferredWrite part ctx => Sys2Proof.Machine.execStandinDeferredWrite part ctx s
  | .evqHeldRecordPost core => Sys2Proof.Machine.execEvqHeldRecordPost core s
  | .recordsLostPost cluster => Sys2Proof.Machine.execRecordsLostPost cluster s
  | .noticesLostPost part => Sys2Proof.Machine.execNoticesLostPost part s
  | .temperatureSample cluster temps droops => Sys2Proof.Machine.execTemperatureSample cluster temps droops s
  | .droopEvent cluster => Sys2Proof.Machine.execDroopEvent cluster s
  | .droopCapExpiry cluster => Sys2Proof.Machine.execDroopCapExpiry cluster s
  | .powerGood => Sys2Proof.Machine.execPowerGood s
  | .clpartWrite cluster val => Sys2Proof.Machine.execClpartWrite cluster val s
  | .partctlEnSet part => Sys2Proof.Machine.execPartctlEnSet part s
  | .partctlEnClear part => Sys2Proof.Machine.execPartctlEnClear part s
  | .partitionResetComplete part => Sys2Proof.Machine.execPartitionResetComplete part s
  | .partctlHaltSet part => Sys2Proof.Machine.execPartctlHaltSet part s
  | .partctlHaltClear part => Sys2Proof.Machine.execPartctlHaltClear part s
  | .mastctlGo cluster val => Sys2Proof.Machine.execMastctlGo cluster val s
  | .dbgctlGo part => Sys2Proof.Machine.execDbgctlGo part s
  | .dbgctlStepSet part => Sys2Proof.Machine.execDbgctlStepSet part s
  | .dbgctlStepClear part => Sys2Proof.Machine.execDbgctlStepClear part s
  | .pmselClr agent unit n => Sys2Proof.Machine.execPmselClr agent unit n s
  | .pmselWrite agent unit n val => Sys2Proof.Machine.execPmselWrite agent unit n val s
  | .pmcntWrite agent unit n val => Sys2Proof.Machine.execPmcntWrite agent unit n val s
  | .pfcmdRaiseGeneration word => Sys2Proof.Machine.execPfcmdRaiseGeneration word s
  | .generationWrapInvalidate => Sys2Proof.Machine.execGenerationWrapInvalidate s
  | .pfcmdWriteEndpoint word => Sys2Proof.Machine.execPfcmdWriteEndpoint word s
  | .pfcmdClearOpt word => Sys2Proof.Machine.execPfcmdClearOpt word s
  | .pfcmdClearPartitionOpt word => Sys2Proof.Machine.execPfcmdClearPartitionOpt word s
  | .pfcmdSetLock word => Sys2Proof.Machine.execPfcmdSetLock word s
  | .pfcmdClearLock word => Sys2Proof.Machine.execPfcmdClearLock word s
  | .pfcmdSupplyFirmware word => Sys2Proof.Machine.execPfcmdSupplyFirmware word s
  | .pfcmdUnknownOp word => Sys2Proof.Machine.execPfcmdUnknownOp word s
  | .eppostWrite part addr => Sys2Proof.Machine.execEppostWrite part addr s
  | .evqstatRead cluster => Sys2Proof.Machine.execEvqstatRead cluster s
  | .dxpTrapqRead core => Sys2Proof.Machine.execDxpTrapqRead core s
  | .registerWrite agent off val => Sys2Proof.Machine.execRegisterWrite agent off val s
  | .vfFunctionLevelReset part => Sys2Proof.Machine.execVfFunctionLevelReset part s
  | .cxlMemRead part off n => Sys2Proof.Machine.execCxlMemRead part off n s
  | .cxlMemWrite part off bytes => Sys2Proof.Machine.execCxlMemWrite part off bytes s
  | .readRequest pkt => Sys2Proof.Machine.execReadRequest pkt s
  | .readResponse pkt => Sys2Proof.Machine.execReadResponse pkt s
  | .writePacket pkt => Sys2Proof.Machine.execWritePacket pkt s
  | .writeApplied pkt => Sys2Proof.Machine.execWriteApplied pkt s
  | .atomicRequest pkt => Sys2Proof.Machine.execAtomicRequest pkt s
  | .atomicResponse pkt => Sys2Proof.Machine.execAtomicResponse pkt s
  | .shroudMarker pkt => Sys2Proof.Machine.execShroudMarker pkt s
  | .markerAcknowledgement pkt => Sys2Proof.Machine.execMarkerAcknowledgement pkt s
  | .refusal pkt => Sys2Proof.Machine.execRefusal pkt s
  | .invocation pkt => Sys2Proof.Machine.execInvocation pkt s
  | .forwardedInvocation pkt => Sys2Proof.Machine.execForwardedInvocation pkt s
  | .handleAnswer pkt => Sys2Proof.Machine.execHandleAnswer pkt s
  | .endpointMessage pkt => Sys2Proof.Machine.execEndpointMessage pkt s
  | .endpointStatus pkt => Sys2Proof.Machine.execEndpointStatus pkt s
  | .collectiveContribution pkt => Sys2Proof.Machine.execCollectiveContribution pkt s
  | .collectiveResult pkt => Sys2Proof.Machine.execCollectiveResult pkt s
  | .abort pkt => Sys2Proof.Machine.execAbort pkt s
  | .malformedPacket pkt => Sys2Proof.Machine.execMalformedPacket pkt s
  | .lornanPortDown port => Sys2Proof.Machine.execLornanPortDown port s
  | .lornanPortRetrain port => Sys2Proof.Machine.execLornanPortRetrain port s
  | .zaronReefFrame frame => Sys2Proof.Machine.execZaronReefFrame frame s
  | .zaronPathUpdate frame => Sys2Proof.Machine.execZaronPathUpdate frame s
  | .pathUpdateApply => Sys2Proof.Machine.execPathUpdateApply s
  | .zaronTelemetryRequest frame => Sys2Proof.Machine.execZaronTelemetryRequest frame s
  | .zaronUnknownFrame frame => Sys2Proof.Machine.execZaronUnknownFrame frame s
  | .setEndpointId msg => Sys2Proof.Machine.execSetEndpointId msg s
  | .getEndpointId msg => Sys2Proof.Machine.execGetEndpointId msg s
  | .getMctpVersionSupport msg => Sys2Proof.Machine.execGetMctpVersionSupport msg s
  | .getMessageTypeSupport msg => Sys2Proof.Machine.execGetMessageTypeSupport msg s
  | .mctpUnsupportedCommand msg => Sys2Proof.Machine.execMctpUnsupportedCommand msg s
  | .getVersion msg => Sys2Proof.Machine.execGetVersion msg s
  | .getCapabilities msg => Sys2Proof.Machine.execGetCapabilities msg s
  | .negotiateAlgorithms msg => Sys2Proof.Machine.execNegotiateAlgorithms msg s
  | .getDigests msg => Sys2Proof.Machine.execGetDigests msg s
  | .getCertificate msg => Sys2Proof.Machine.execGetCertificate msg s
  | .challenge msg => Sys2Proof.Machine.execChallenge msg s
  | .getMeasurements msg => Sys2Proof.Machine.execGetMeasurements msg s
  | .keyExchange msg => Sys2Proof.Machine.execKeyExchange msg s
  | .finish msg => Sys2Proof.Machine.execFinish msg s
  | .endSession msg => Sys2Proof.Machine.execEndSession msg s
  | .spdmUnsupportedRequest msg => Sys2Proof.Machine.execSpdmUnsupportedRequest msg s
  | .quadrantCycle core q => Sys2Proof.Machine.execQuadrantCycle core q s
  | .referenceClockPeriod => Sys2Proof.Machine.execReferenceClockPeriod s
  | .lossOfPower writing => Sys2Proof.Machine.execLossOfPower writing s
  | .lornanLinkTraining port => Sys2Proof.Machine.execLornanLinkTraining port s
  | .cxlLinkTraining ok16 ok8 ok4 => Sys2Proof.Machine.execCxlLinkTraining ok16 ok8 ok4 s

end Sys2Proof.Machine
end

