-- ==== Sys2Proof/Machine/Step.lean ====
section
/-!
DEFINITION. Machine/Step.lean: one step. The agent that State.cur names issues the instruction at its PC; with none,
the oldest move of the agenda takes place, and with an empty agenda a period of the reference clock passes
(assumption log 1).
-/
namespace Sys2Proof.Machine

open Host (Outcome)

/-- The instruction that the next step executes: fetched, taken from the agenda, or the reference clock's. -/
def step (s : State) : Outcome State Fault Refusal :=
  match s.next with
  | .idle => .fault .noIssuer
  | .trapped s1 => .next s1
  | .run i s1 => exec i s1

/-- s with an instruction placed where step fetches the next one (Machine/Program.lean; log 1). -/
def State.withFetchWord (s : State) (nbits w : Nat) : State := s.placed nbits w

end Sys2Proof.Machine
end

