-- ==== Sys2Proof/Safety.lean ====
section
/-!
DEFINITION. Safety.lean: the terms that claims use: states whose memories are in canonical form, an instruction that
can issue, what an issue leaves alone, and steps that are taken.
-/
namespace Sys2Proof.Machine

open Host (Outcome)

/-- Memory is in its one canonical form: home memory, the keys of its lines, host memory. -/
def State.memOk (s : State) : Bool := SMap.ok 0#8 s.home && SMap.ok 0 s.lineKey && SMap.ok 0#8 s.hostMem

/-- Memory.wf: the canonical form of memory. -/
abbrev Memory.wf (s : State) : Prop := s.memOk = true

/-- The step answers a next state. -/
def Completes (o : Outcome State Fault Refusal) : Prop := ∃ t, o = .next t

/-! ## What an issue leaves alone -/

/-- Every byte of memory reads as before: home memory under every key, every team's scratchpad, every core's view of
home memory, host memory. -/
def SameMemory (s t : State) : Prop :=
  (∀ key pa, t.homeByte key pa = s.homeByte key pa) ∧ (∀ tid off n, t.spadBytes tid off n = s.spadBytes tid off n)
    ∧ (∀ c key pa, t.cvByte c key pa = s.cvByte c key pa) ∧ (∀ a n, t.hostBytes a n = s.hostBytes a n)

/-- The state without its teams, cores and partitions, and without the selection of the cycle. -/
def State.rest (s : State) : State := { s with teams := [], cores := [], parts := [], cur := none }
/-- A team without its groups. -/
def Team.rest (t : Team) : Team := { t with groups := [] }
/-- A core without its performance counters. -/
def Core.rest (c : Core) : Core := { c with pm := [] }
/-- A partition without the single-step halt and without its contexts (18 R410). -/
def Partition.rest (p : Partition) : Partition := { p with dbgStopped := false, ctxs := [] }
/-- A context without its stop interval and its single steps (03 R59, 18 R410). -/
def Context.rest (c : Context) : Context := { c with stop := none, stepped := [] }

/-- Nothing changes but one group, the performance counters and the single-step bookkeeping: no byte of memory, no
other group, no register of its team (tiles, accumulators, convergence registers, flags), no other core, cluster,
partition or context state, no table, and nothing leaves the device. -/
def OnlyGroup (tid g : Nat) (s t : State) : Prop :=
  SameMemory s t ∧ t.rest = s.rest ∧ (∀ k, (t.core k).rest = (s.core k).rest)
    ∧ (∀ k j, ¬ (k = tid ∧ j = g) → t.group? k j = s.group? k j)
    ∧ (∀ k, (t.team? k).map Team.rest = (s.team? k).map Team.rest)
    ∧ (∀ p, (t.part p).rest = (s.part p).rest) ∧ (∀ p c, (t.ctx p c).rest = (s.ctx p c).rest)

/-! ## An instruction that can issue -/

/-- The selected group k can issue an instruction of opcode op that needs the register lines ls: the role is allowed
(02 R29), the lines are in the register cache and no needed tile is being written (02 R56, 14 R318), and no memory error
is about to strike (06 R154). -/
def Ready (s : State) (k : Iss) (op : Nat) (ls : List Nat × List Nat) : Prop :=
  s.issuer = some k ∧ (k.t.mast = true ∨ roleOk k.gr.role op = true) ∧ k.missing ls = false ∧ k.converting ls = false
    ∧ s.errs = []

/-- The instruction of group k completes with effect s1: a next state, its lanes moved on to tg, as retire says. -/
def Issues (o : Outcome State Fault Refusal) (s1 : State) (k : Iss) (hint : Hint) (tg : List (Pc × Mask)) : Prop :=
  o = .next (s1.retire k hint tg none)

/-- The instruction of group k completes, every lane going on to the next instruction, and of the state it writes the
group alone, which becomes g1. -/
def IssuesGroup (o : Outcome State Fault Refusal) (s : State) (k : Iss) (hint : Hint) (g1 : Group) : Prop :=
  Issues o (s.modGroup k.tid k.g fun _ => g1) k hint k.fall

/-- The transfer processor's instruction completes: the program goes on at pc, with no wait left (17 R385). -/
def IssuesDxp (o : Outcome State Fault Refusal) (s1 : State) (core : Nat) (pc : Pc) : Prop :=
  o = .next (s1.modDxp core fun x => { x with pc := pc, run := x.run.map fun r => { r with hold := none } }).done

/-- The program of core k.core can issue its next instruction: no dxsig waits to stop it (17 R384). -/
def ReadyDxp (s : State) (k : Dss) : Prop := s.dxIssuer = some k ∧ k.run.stop = none

/-! ## Results -/

/-- A lane-by-lane result in register n: each lane of the mask takes its value, a 64-bit one in the pair, and the tag is
the destination's; every other lane of every v register, every other tag, every s register and predicate is as before
(05 R110, 13 R280). -/
def LaneResult (g g1 : Group) (n : Nat) (wide : Bool) (m : Mask) (f : Nat → Nat) (tag : Nat) : Prop :=
  (∀ j, ∀ l < 32, g1.rv j l =
    if m.getLsbD l = true ∧ j = n then BitVec.ofNat 32 (f l)
    else if m.getLsbD l = true ∧ wide = true ∧ j = n + 1 then BitVec.ofNat 32 (f l / 2 ^ 32) else g.rv j l)
  ∧ (∀ j, g1.rtag j = if m ≠ 0 ∧ (j = n ∨ (wide = true ∧ j = n + 1)) then tag else g.rtag j)
  ∧ (∀ j, g1.rs j = g.rs j) ∧ (∀ j, g1.rp j = g.rp j)

end Sys2Proof.Machine
end

