-- ==== Sys2Proof/Certificates/Slice0/Obligations.lean ====
section
/-!
DEFINITION. Certificates/Slice0/Obligations.lean: the statements for the provers. A statement Issues … s1 k hint tg says
that the instruction answers a next state: that of the effect s1, moved on as retire says; IssuesGroup says so of an
effect on the issuing group alone. A statement in parts is the conjunction of the parts named in it.
-/
open Sys2Proof Sys2Proof.Machine
open Host (Outcome)

/-! ## Row 0x0: system and time (18 R398-R412) -/

/-- nop, exit, yield, idem.clr (R400, 02 R38, R411): they complete; exit moves its lanes nowhere, yield makes the next
entry of its lanes rank last, idem.clr clears the team's flag. -/
def SystemControlRun : Prop :=
  ∀ (s : State) (k : Iss) (i : Slots),
    (Ready s k 0x001 ([], []) → Issues (exec (.nop i) s) s k i.hint k.fall)
    ∧ (Ready s k 0x002 ([], []) → Issues (exec (.exit i) s) s k i.hint [])
    ∧ (Ready s k 0x00D ([], []) → exec (.yield i) s = .next (s.retire k i.hint k.fall (some (k.e.pc + 12))))
    ∧ (Ready s k 0x00F ([], []) → Issues (exec (.idemClr i) s) (s.modTeam k.tid fun t => { t with idem := false }) k i.hint k.fall)

/-- vclk, idem, rdctx, alarm, alcan, alwait, tqrd (R403, R406-R412): the register or slot each writes; alwait completes on
an expired slot, at its time-out and with no slot armed and no time-out, and else waits. -/
def Obligations.SystemReads : Prop :=
  ∀ (s : State) (k : Iss) (i : Slots),
    (Ready s k 0x008 (linesOf i false 0) → IssuesGroup (exec (.vclk i) s) s k i.hint
      (k.gr.ws i.d.idx (if i.imm.getLsbD 0 then s.vclk k.t.part k.t.ctx >>> 16 else s.vclk k.t.part k.t.ctx)))
    ∧ (Ready s k 0x00F (linesOf i false 0) →
        IssuesGroup (exec (.idem i) s) s k i.hint (k.gr.ws i.d.idx (if k.t.idem && !k.t.mast then 1 else 0)))
    ∧ (Ready s k 0x010 (linesOf i false 0) → ∃ x, IssuesGroup (exec (.rdctx i) s) s k i.hint (k.gr.ws i.d.idx x)
        ∧ (i.imm = 0 → x = BitVec.ofNat 64 k.t.ctx) ∧ (i.imm = 1 → x = BitVec.ofNat 64 k.t.part)
        ∧ (i.imm = 2 → x = BitVec.ofNat 64 k.t.comp) ∧ (i.imm = 3 → x = (s.ctx k.t.part k.t.ctx).gen.setWidth 64)
        ∧ (i.imm = 5 → x = (s.part k.t.part).epoch.setWidth 64))
    ∧ (Ready s k 0x009 (linesOf i false 0) → ∀ n, i.a = .s n → IssuesGroup (exec (.alarm i) s) s k i.hint
        (k.gr.setAlarm (i.imm.toNat % 4) ⟨true, false,
          if i.imm.getLsbD 2 then
            BitVec.ofNat 64 (min ((s.vclk k.t.part k.t.ctx).toNat + (k.gr.rs n.toNat).toNat) (2 ^ 64 - 1))
          else k.gr.rs n.toNat⟩))
    ∧ (Ready s k 0x00B ([], []) → ∃ g1, IssuesGroup (exec (.alcan i) s) s k i.hint g1
        ∧ ∀ n < 4, g1.alarm n = if i.imm.getLsbD n then { k.gr.alarm n with armed := false, expired := false } else k.gr.alarm n)
    ∧ (Ready s k 0x00A (linesOf i false 0) → ∀ n < 4, i.imm.getLsbD n = true → (k.gr.alarm n).expired = true →
        (∀ m < n, i.imm.getLsbD m = true → (k.gr.alarm m).expired = false) →
        IssuesGroup (exec (.alwait i) s) s k i.hint
          ((k.gr.setAlarm n { k.gr.alarm n with armed := false, expired := false }).ws i.d.idx (BitVec.ofNat 64 n)))
    ∧ (Ready s k 0x00A (linesOf i false 0) →
        (∀ n < 4, i.imm.getLsbD n = true → (k.gr.alarm n).expired = false) →
        (∀ h, k.gr.hold = some h → h.started = true → h.why = 10 → h.timedOut = true →
          IssuesGroup (exec (.alwait i) s) s k i.hint (k.gr.ws i.d.idx 4))
        ∧ (k.gr.hold = none → i.b = .nil → (∀ n < 4, i.imm.getLsbD n = true → (k.gr.alarm n).armed = false) →
          IssuesGroup (exec (.alwait i) s) s k i.hint (k.gr.ws i.d.idx 5))
        ∧ (k.gr.hold = none → (i.b.isNil = false ∨ ∃ n < 4, i.imm.getLsbD n = true ∧ (k.gr.alarm n).armed = true) →
          ∃ h, h.why = 10 ∧ exec (.alwait i) s = .next (s.bail k (.hold h))))
    ∧ (Ready s k 0x005 (linesOf i false 7) → ∃ g1, IssuesGroup (exec (.tqrd i) s) s k i.hint g1
        ∧ (∀ r q, k.gr.handler.isSome = true → k.gr.trapq = r :: q →
          ∀ j < 8, g1.rs (i.d.idx + j) = BitVec.ofNat 64 (r.words.getD j 0))
        ∧ ((k.gr.handler = none ∨ k.gr.trapq = []) → ∀ j < 8, g1.rs (i.d.idx + j) = 0))

/-- srd and swr (R405, 05 R116): both complete for every special register; one that is not lane-scoped is read whole into sD,
and reading EVQSTAT on a mast core clears its LOST; a lane-scoped one is read and written lane by lane, fflags by writing
ones; a write of sr.ctlsync completes once the team's maps are read again, and traps where they are malformed. -/
def Obligations.SpecialRegisters : Prop :=
  ∀ (s : State) (k : Iss) (i : Slots),
    (Ready s k 0x006 (linesOf i false 0) → ∃ s1, Issues (exec (.srd i) s) s1 k i.hint k.fall
      ∧ (i.d.isS = false → i.imm.toNat % 4096 = 4 → s1 = s.modGroup k.tid k.g fun g =>
          g.wv i.d.idx false k.e.mask (fun l => (SMap.get 0#8 k.gr.fflags l).toNat) 0x10))
    ∧ (Ready s k 0x007 (linesOf i false 0) →
      (i.imm.toNat % 4096 ≠ 9 → ∃ s1, Issues (exec (.swr i) s) s1 k i.hint k.fall ∧ SameMemory s s1)
      ∧ (i.imm.toNat % 4096 = 9 → ∀ s1, s.ctlsync k.tid = .ok s1 → Issues (exec (.swr i) s) s1 k i.hint k.fall)
      ∧ (i.imm.toNat % 4096 = 9 → ∀ a, s.ctlsync k.tid = .error a →
        exec (.swr i) s = .next (s.raise k.tid k.g k.e 2 0xFF a k.e.mask).done)
      ∧ (i.imm.toNat % 4096 = 4 → ∃ g1, Issues (exec (.swr i) s) (s.modGroup k.tid k.g fun _ => g1) k i.hint k.fall
        ∧ ∀ l < 32, SMap.get 0#8 g1.fflags l = if k.e.mask.getLsbD l
            then SMap.get 0#8 k.gr.fflags l &&& ~~~(BitVec.ofNat 8 (k.gr.src i.a 0 false 0 l)) else SMap.get 0#8 k.gr.fflags l)
      ∧ (i.imm.toNat % 4096 = 14 → k.gr.handler.isSome = true → bit (k.gr.uni i.a 0) 1 = true →
        Issues (exec (.swr i) s) (s.modTeam k.tid fun t => { t with faulted := false }) k i.hint k.fall))
    ∧ (Ready s k 0x006 (linesOf i false 0) → ∀ n, i.d = .s n → i.imm ≠ 0x12 → i.imm.toNat < 0x1000 →
      Issues (exec (.srd i) s) (s.modGroup k.tid k.g fun g => g.ws n.toNat (s.specialReg k i.imm.toNat)) k i.hint k.fall)
    ∧ (Ready s k 0x006 (linesOf i false 0) → ∀ n, i.d = .s n → i.imm = 0x12 →
      Issues (exec (.srd i) s)
        ((s.modGroup k.tid k.g fun g => g.ws n.toNat (BitVec.ofNat 64 (s.cluster (clusterOf k.t.core)).evqstat)).modCluster
          (clusterOf k.t.core) fun c => { c with lost := 0 }) k i.hint k.fall)
    ∧ (Ready s k 0x006 (linesOf i false 0) → ∀ n, i.d = .v n → i.imm = 3 →
      Issues (exec (.srd i) s) (s.modGroup k.tid k.g fun g =>
        g.wv n.toNat false k.e.mask (fun l => (k.gr.rseed l).toNat) 0x10) k i.hint k.fall)
    ∧ (Ready s k 0x007 (linesOf i false 0) → ∀ n, i.a = .s n → i.imm = 5 →
      Issues (exec (.swr i) s) (s.modTeam k.tid fun t =>
        { t with mflags := t.mflags &&& ~~~((k.gr.rs n.toNat).setWidth 8) }) k i.hint k.fall)
    ∧ (Ready s k 0x007 (linesOf i false 0) → i.imm = 3 → ∃ g1, Issues (exec (.swr i) s)
        (s.modGroup k.tid k.g fun _ => g1) k i.hint k.fall
        ∧ ∀ l < 32, g1.rseed l = if k.e.mask.getLsbD l then BitVec.ofNat 32 (k.gr.src i.a 0 false 0 l) else k.gr.rseed l)

/-- phase, brkpt, tqrd.dxp (R403, R409, R410). -/
def SystemEffects : Prop :=
  ∀ (s : State) (k : Iss) (i : Slots),
    (Ready s k 0x00C ([], []) → ∃ s1, Issues (exec (.phase i) s) s1 k i.hint k.fall
      ∧ (s1.group? k.tid k.g).map Group.phase = some (i.imm.setWidth 16))
    ∧ (Ready s k 0x00E ([], []) → (k.gr.handler.isSome = true ∨ (s.part k.t.part).dbgBrken = false) →
      Issues (exec (.brkpt i) s) s k i.hint k.fall)
    ∧ (Ready s k 0x00E ([], []) → k.gr.handler = none → (s.part k.t.part).dbgBrken = true →
      ∃ s1, Issues (exec (.brkpt i) s) s1 k i.hint k.fall ∧ (s1.part k.t.part).dbgCode = i.imm.setWidth 8
        ∧ s1.stopped k.t.part k.t.ctx = true)
    ∧ (Ready s k 0x005 (linesOf i false 7) → ∃ s1, Issues (exec (.tqrdDxp i) s) s1 k i.hint k.fall
      ∧ (∀ x q, k.gr.handler.isSome = true → (s.core k.t.core).dxp.trapq = (k.tid, x) :: q →
        (s1.core k.t.core).dxp.trapq = q
        ∧ ∀ g1, s1.group? k.tid k.g = some g1 → ∀ j < 8, g1.rs (i.d.idx + j) = BitVec.ofNat 64 (x.words.getD j 0))
      ∧ ((k.gr.handler = none ∨ ∀ x ∈ (s.core k.t.core).dxp.trapq, x.1 ≠ k.tid) →
        s1.core k.t.core = s.core k.t.core
        ∧ ∀ g1, s1.group? k.tid k.g = some g1 → ∀ j < 8, g1.rs (i.d.idx + j) = 0))

/-- nop, exit, yield, idem.clr, phase, brkpt, tqrd.dxp (R400, R403, R409-R411, 02 R38). -/
def Obligations.SystemControl : Prop := SystemControlRun ∧ SystemEffects

/-! ## Row 0x1: control, lane exchange, convergence (13 R281-R288) -/

/-- Where a lane is: the PC of the first entry that holds it. -/
def laneAt (fr : List Entry) (l : Nat) : Option Pc := (fr.find? fun x => x.mask.getLsbD l).map Entry.pc

/-- A frontier as R35 describes it: entries of distinct PCs and disjoint lanes, none empty, in the order of priority,
highest first, then PC, lowest first. -/
def FrontierOk (fr : List Entry) : Prop :=
  fr.Pairwise (fun x y => x.pc ≠ y.pc ∧ x.mask &&& y.mask = 0 ∧ x.before y = true) ∧ ∀ x ∈ fr, x.mask ≠ 0

/-- The frontier after an issue (R35, R37): each lane of the entry is where its next PC says, or gone; every other lane is
where it was; and the frontier keeps its form. -/
def Obligations.LanesMove : Prop :=
  ∀ (prio : Nat → Byte) (fr : List Entry) (e : Entry) (next : Nat → Option Pc), FrontierOk fr → e ∈ fr →
    FrontierOk (rebuild prio fr e (targets e.mask next))
    ∧ ∀ l < 32, laneAt (rebuild prio fr e (targets e.mask next)) l
        = if e.mask.getLsbD l then next l else laneAt fr l

/-- bra, brx (R281): each active lane goes to the target, every other lane of the entry past the instruction. -/
def Obligations.Branches : Prop :=
  ∀ (s : State) (k : Iss) (i : Slots),
    (Ready s k 0x041 ([], []) → Issues (exec (.bra i) s) s k i.hint (targets k.e.mask fun l =>
      some (if (k.gr.guard i.guard k.e.mask).getLsbD l then k.e.pc + i.imm.signExtend 56 else k.e.pc + 12)))
    ∧ (Ready s k 0x042 (linesOf i true 0) → ∀ n, i.a = .s n → Issues (exec (.brx i) s) s k i.hint
      (targets k.e.mask fun l =>
        some (if (k.gr.guard i.guard k.e.mask).getLsbD l then (k.gr.rs n.toNat).setWidth 56 else k.e.pc + 12)))
    ∧ (Ready s k 0x042 (linesOf i true 0) → ∀ n, i.a = .v n → tagMatch 0x30 (k.gr.rtag n.toNat) = true →
        tagMatch 0x30 (k.gr.rtag (n.toNat + 1)) = true → Issues (exec (.brx i) s) s k i.hint
      (targets k.e.mask fun l => some (if (k.gr.guard i.guard k.e.mask).getLsbD l then
        BitVec.ofNat 56 ((k.gr.rv n.toNat l).toNat + 2 ^ 32 * (k.gr.rv (n.toNat + 1) l).toNat) else k.e.pc + 12)))

/-- A lane's push has room: on chip, or in its spill region, with the line of the entry in the register cache (02 R39, R56). -/
def Roomy (k : Iss) (l : Nat) : Prop :=
  (k.gr.stack l).chip.length < 16
    ∨ ((k.gr.stack l).chip.length = 16 ∧ (k.gr.stack l).spilled < k.t.lrec.spill
      ∧ k.missing ([320 + 2 * (k.gr.stack l).spilled + l / 16], []) = false)

/-- What pushing pc + 12 leaves of the stacks: a lane with 16 on chip writes the oldest as the next entry of its spill
region, entry 32k + l for lane l's entry k (23 R447); another lane's region, and a lane that does not push, stay. -/
def Pushed (k : Iss) (act : Mask) (g1 : Group) : Prop :=
  (∀ l < 32, g1.stack l = if act.getLsbD l then
      (if (k.gr.stack l).chip.length < 16 then ⟨(k.e.pc + 12) :: (k.gr.stack l).chip, (k.gr.stack l).spilled⟩
       else ⟨(k.e.pc + 12) :: (k.gr.stack l).chip.take 15, (k.gr.stack l).spilled + 1⟩)
    else k.gr.stack l)
  ∧ ∀ n, ∀ l < 32, SMap.get 0#64 g1.spill (32 * n + l) =
      if act.getLsbD l ∧ (k.gr.stack l).chip.length = 16 ∧ n = (k.gr.stack l).spilled
      then ((k.gr.stack l).chip.getLastD 0).setWidth 64 else SMap.get 0#64 k.gr.spill (32 * n + l)

/-- Some lane that pushes spills (23 R447). -/
def spillsOne (k : Iss) (act : Mask) : Nat := if ∃ l ∈ lanesOf act, (k.gr.stack l).chip.length = 16 then 1 else 0

/-- call and calli (R281, 02 R39) with room for every active lane: pc + 12 is pushed, the lanes go to the target, each lane to
its own where A of calli is a v pair (R283), and event 0x0F counts an issue that spills. -/
def CallsRun : Prop :=
  ∀ (s : State) (k : Iss) (i : Slots),
    (∀ l ∈ lanesOf (k.gr.guard i.guard k.e.mask), Roomy k l) →
    (Ready s k 0x043 ([], []) → ∃ g1, Pushed k (k.gr.guard i.guard k.e.mask) g1
      ∧ Issues (exec (.call i) s) ((s.modGroup k.tid k.g fun _ => g1).count k.t.core 0x0F
          (spillsOne k (k.gr.guard i.guard k.e.mask))) k i.hint (k.go i.guard fun _ => some (k.e.pc + i.imm.signExtend 56)))
    ∧ (Ready s k 0x044 (linesOf i true 0) → ∀ n, i.a = .s n → ∃ g1, Pushed k (k.gr.guard i.guard k.e.mask) g1
      ∧ Issues (exec (.calli i) s) ((s.modGroup k.tid k.g fun _ => g1).count k.t.core 0x0F
          (spillsOne k (k.gr.guard i.guard k.e.mask))) k i.hint (k.go i.guard fun _ => some ((k.gr.rs n.toNat).setWidth 56)))
    ∧ (Ready s k 0x044 (linesOf i true 0) → ∀ n, i.a = .v n → tagMatch 0x30 (k.gr.rtag n.toNat) = true →
        tagMatch 0x30 (k.gr.rtag (n.toNat + 1)) = true → ∃ g1, Pushed k (k.gr.guard i.guard k.e.mask) g1
      ∧ Issues (exec (.calli i) s) ((s.modGroup k.tid k.g fun _ => g1).count k.t.core 0x0F
          (spillsOne k (k.gr.guard i.guard k.e.mask))) k i.hint (k.go i.guard fun l => some
            (BitVec.ofNat 56 ((k.gr.rv n.toNat l).toNat + 2 ^ 32 * (k.gr.rv (n.toNat + 1) l).toNat))))

/-- ret (R281, 02 R39): each active lane goes to its newest return address, on chip or spilled, which leaves its stack; a
lane whose stack is empty exits, and a refill leaves the spill region as it stands (23 R447). -/
def RetRun : Prop :=
  ∀ (s : State) (k : Iss) (i : Slots), Ready s k 0x045 ([], []) →
    (∀ l ∈ lanesOf (k.gr.guard i.guard k.e.mask), (k.gr.stack l).chip = [] → ∀ n, (k.gr.stack l).spilled = n + 1 →
      k.missing ([320 + 2 * n + l / 16], []) = false) →
    ∃ g1, Issues (exec (.ret i) s) (s.modGroup k.tid k.g fun _ => g1) k i.hint
        (k.go i.guard fun l => match (k.gr.stack l).chip, (k.gr.stack l).spilled with
          | p :: _, _ => some p
          | [], n + 1 => some ((SMap.get 0#64 k.gr.spill (32 * n + l)).setWidth 56)
          | [], 0 => none)
      ∧ g1.spill = k.gr.spill
      ∧ ∀ l < 32, g1.stack l = if (k.gr.guard i.guard k.e.mask).getLsbD l then
          (if (k.gr.stack l).chip = [] then ⟨[], (k.gr.stack l).spilled - 1⟩
           else ⟨(k.gr.stack l).chip.tail, (k.gr.stack l).spilled⟩)
        else k.gr.stack l

/-- A call with no room: where any active lane's push would pass the end of its spill region, the entry takes spill
region exhausted (cause 14) and nothing moves (R282). -/
def SpillExhausted : Prop :=
  ∀ (s : State) (k : Iss) (i : Slots) (l : Nat),
    l ∈ lanesOf (k.gr.guard i.guard k.e.mask) → 16 ≤ (k.gr.stack l).chip.length →
    k.t.lrec.spill ≤ (k.gr.stack l).spilled →
    (Ready s k 0x043 ([], []) →
      exec (.call i) s = .next (s.raise k.tid k.g k.e 14 0 k.t.lrec.spill k.e.mask).done)
    ∧ (Ready s k 0x044 (linesOf i true 0) → ∀ n, i.a = .s n →
      exec (.calli i) s = .next (s.raise k.tid k.g k.e 14 0 k.t.lrec.spill k.e.mask).done)
    ∧ (Ready s k 0x044 (linesOf i true 0) → ∀ n, i.a = .v n → tagMatch 0x30 (k.gr.rtag n.toNat) = true →
        tagMatch 0x30 (k.gr.rtag (n.toNat + 1)) = true →
      exec (.calli i) s = .next (s.raise k.tid k.g k.e 14 0 k.t.lrec.spill k.e.mask).done)

/-- call, calli, ret: where they complete, and where a call traps (R281, R282, 02 R39). -/
def Obligations.Calls : Prop := CallsRun ∧ RetRun ∧ SpillExhausted

/-- The lanes of the entry whose predicate A is true. -/
def trueLanes (k : Iss) (a : Operand) : Mask := k.e.mask &&& k.gr.rp a.idx

/-- vote, actmask, shfl (R284, R285), of every form: vote of the lanes whose predicate A is true, into a predicate or as a
mask, their number, the lowest or the highest of them, 32 where there is none; shfl, its control word in range in every
lane, from the lane that the word names, and of 32-bit values by a rotation of the whole group from (l + amount) mod 32. -/
def Obligations.LaneExchange : Prop :=
  ∀ (s : State) (k : Iss) (i : FnI),
    (∀ j : Slots, Ready s k 0x048 (linesOf j false 0) →
      IssuesGroup (exec (.actmask j) s) s k j.hint (k.gr.ws j.d.idx (k.e.mask.setWidth 64)))
    ∧ (Ready s k 0x046 (linesOf i.toSlots false 0) →
      (i.sub = 0 → IssuesGroup (exec (.vote i) s) s k i.hint (k.gr.wp i.d.idx k.e.mask
          (if trueLanes k i.a = k.e.mask then k.e.mask else 0)))
      ∧ (i.sub = 1 → IssuesGroup (exec (.vote i) s) s k i.hint (k.gr.wp i.d.idx k.e.mask
          (if trueLanes k i.a = 0 then 0 else k.e.mask)))
      ∧ (i.sub = 2 → IssuesGroup (exec (.vote i) s) s k i.hint (k.gr.wp i.d.idx k.e.mask
          (if trueLanes k i.a = k.e.mask ∨ trueLanes k i.a = 0 then k.e.mask else 0)))
      ∧ (i.sub = 3 → IssuesGroup (exec (.vote i) s) s k i.hint (k.gr.ws i.d.idx ((trueLanes k i.a).setWidth 64)))
      ∧ (i.sub = 4 → IssuesGroup (exec (.vote i) s) s k i.hint (k.gr.ws i.d.idx
          (BitVec.ofNat 64 ((List.range 32).filter fun l => (trueLanes k i.a).getLsbD l).length)))
      ∧ (i.sub = 5 → ∃ n, IssuesGroup (exec (.vote i) s) s k i.hint (k.gr.ws i.d.idx (BitVec.ofNat 64 n))
        ∧ (trueLanes k i.a = 0 → n = 32)
        ∧ ∀ l < 32, (trueLanes k i.a).getLsbD l = true → (∀ j < l, (trueLanes k i.a).getLsbD j = false) → n = l)
      ∧ (i.sub = 6 → ∃ n, IssuesGroup (exec (.vote i) s) s k i.hint (k.gr.ws i.d.idx (BitVec.ofNat 64 n))
        ∧ (trueLanes k i.a = 0 → n = 32)
        ∧ ∀ l < 32, (trueLanes k i.a).getLsbD l = true → (∀ j < 32, l < j → (trueLanes k i.a).getLsbD j = false) → n = l))
    ∧ (∀ (d a : BitVec 8) (wide : Bool) (c : Nat → Nat), wide = tagWide (16 * tyCode i.ty) →
        (∀ l, c l = k.gr.src i.b 0 false i.imm.toNat l) → i.d = .v d → i.a = .v a →
        Ready s k 0x047 (linesOf i.toSlots wide 0) → k.gr.checkTag i.b 0x10 false 2 = .ok () →
        (∀ l < 32, k.e.mask.getLsbD l = true → bits (c l) 10 8 ≤ 4 ∧ c l < 4096) →
        ∃ g1, IssuesGroup (exec (.shfl i) s) s k i.hint g1
          ∧ ∀ l < 32, k.e.mask.getLsbD l = true → g1.rv d.toNat l = (match shflFrom i.sub.toNat (c l) l with
              | some j => k.gr.rv a.toNat j
              | none => if bit (c l) 11 then 0 else k.gr.rv a.toNat l))
    ∧ (Ready s k 0x047 (linesOf i.toSlots false 0) → ∀ d a b, i.ty = .n32 → i.d = .v d → i.a = .v a → i.b = .s b →
        i.sub = 3 → (k.gr.rs b.toNat).toNat < 32 → ∃ g1, IssuesGroup (exec (.shfl i) s) s k i.hint g1
          ∧ ∀ l < 32, k.e.mask.getLsbD l = true →
            g1.rv d.toNat l = k.gr.rv a.toNat ((l + (k.gr.rs b.toNat).toNat) % 32))

/-- The members of a signature set: its bits that are 1. -/
def members (m : BitVec 512) : Nat := ((List.range 512).filter fun n => m.getLsbD n).length

/-- cvdecl and cvtest (R286-R288, 02 R41): a declaration replaces the set, and clears the signatures and the recorded
word; one with bits 31:16 not 0, no group, no lane or a group that the team has not traps; cvtest reads the status word,
with the members signed and declared, or 64 bits of the declared or of the signed set. -/
def Obligations.Convergence : Prop :=
  ∀ (s : State) (k : Iss) (i : Slots),
    (Ready s k 0x049 (linesOf i false 0) → ∀ n, i.a = .s n → bits (k.gr.rs n.toNat).toNat 31 16 = 0 →
        bits (k.gr.rs n.toNat).toNat 15 0 ≠ 0 → bits (k.gr.rs n.toNat).toNat 63 32 ≠ 0 →
        bits (k.gr.rs n.toNat).toNat 15 0 < 2 ^ k.t.groups.length → ∃ c,
      Issues (exec (.cvdecl i) s) (s.modTeam k.tid fun t => t.setCv i.d.idx c) k i.hint k.fall
        ∧ c.signed = 0 ∧ c.word = none ∧ c.phase = (k.t.cv i.d.idx).phase
        ∧ ∀ g < 16, ∀ l < 32, c.declared.getLsbD (32 * g + l)
            = ((k.gr.rs n.toNat).getLsbD g && (k.gr.rs n.toNat).getLsbD (32 + l)))
    ∧ (Ready s k 0x049 (linesOf i false 0) → ∀ n, i.a = .s n →
        (bits (k.gr.rs n.toNat).toNat 31 16 ≠ 0 ∨ bits (k.gr.rs n.toNat).toNat 15 0 = 0
          ∨ bits (k.gr.rs n.toNat).toNat 63 32 = 0
          ∨ ∃ g < 16, k.t.groups.length ≤ g ∧ (k.gr.rs n.toNat).getLsbD g = true) →
      exec (.cvdecl i) s = .next (s.raise k.tid k.g k.e 3 2 (k.gr.rs n.toNat).toNat k.e.mask).done)
    ∧ (Ready s k 0x04B (linesOf i false 0) → ∃ x, IssuesGroup (exec (.cvtest i) s) s k i.hint (k.gr.ws i.d.idx x)
        ∧ (i.imm = 0 → x.getLsbD 0 = (k.t.cv i.a.idx).phase ∧ x.getLsbD 1 = decide ((k.t.cv i.a.idx).declared ≠ 0)
          ∧ x.getLsbD 2 = (k.t.cv i.a.idx).word.isSome
          ∧ bits x.toNat 25 16 = members (k.t.cv i.a.idx).signed ∧ bits x.toNat 41 32 = members (k.t.cv i.a.idx).declared
          ∧ ∀ b, (2 < b ∧ b < 16) ∨ (25 < b ∧ b < 32) ∨ 41 < b → x.getLsbD b = false)
        ∧ ∀ n < 8, ∀ b < 64,
          (i.imm.toNat = n + 1 → x.getLsbD b = (k.t.cv i.a.idx).declared.getLsbD (64 * n + b))
          ∧ (i.imm.toNat = n + 9 → x.getLsbD b = (k.t.cv i.a.idx).signed.getLsbD (64 * n + b)))

/-! ## Row 0x2: integers (13 R278-R297) -/

/-- The instruction of each operation of R290 to R293. -/
def intInstrOf : IntOp → FnI → Instr
  | .add => .iadd | .sub => .isub | .mul => .imul | .mulh => .imulh | .mad => .imad | .div => .idiv | .rem => .irem
  | .min => .imin | .max => .imax | .abs => .iabs | .neg => .ineg | .and => .and | .or => .or | .xor => .xor | .not => .not
  | .shl => .shl | .shr => .shr | .sar => .sar | .rotl => .rotl | .popc => .popc | .clz => .clz | .brev => .brev
  | .bfx => .bfx | .bfi => .bfi | .sadd => .sadd

/-- Its opcode (12 R274). -/
def intOpcode : IntOp → Nat
  | .add => 0x081 | .sub => 0x082 | .mul => 0x083 | .mulh => 0x084 | .mad => 0x085 | .div => 0x086 | .rem => 0x087
  | .min => 0x088 | .max => 0x089 | .abs => 0x08A | .neg => 0x08B | .and => 0x08C | .or => 0x08D | .xor => 0x08E
  | .not => 0x08F | .shl => 0x090 | .shr => 0x091 | .sar => 0x092 | .rotl => 0x093 | .popc => 0x094 | .clz => 0x095
  | .brev => 0x096 | .bfx => 0x097 | .bfi => 0x098 | .sadd => 0x09D

/-- D is a source of imad and bfi (R290, R293). -/
def intReadsD : IntOp → Bool
  | .mad => true | .bfi => true | _ => false

/-- The vector form of every operation of R290 to R293, of every format and modifier: with the sources under their tags it
completes, and each lane takes the result of its own elements (R278, R279, R280). -/
def VectorForms : Prop :=
  ∀ (s : State) (k : Iss) (op : IntOp) (i : FnI) (d : BitVec 8),
    Ready s k (intOpcode op) (linesOf i.toSlots (tagWide (16 * tyCode i.ty)) 0) → i.d = .v d →
    k.gr.checkTags i.a i.b i.d (16 * tyCode i.ty) (tagWide (16 * tyCode i.ty)) (intReadsD op) = .ok () →
    ∃ g1, IssuesGroup (exec (intInstrOf op i) s) s k i.hint g1
      ∧ LaneResult k.gr g1 d.toNat (tagWide (16 * tyCode i.ty)) k.e.mask (fun l =>
          (intLane op (16 * tyCode i.ty) i.sat i.sub.toNat
            (k.gr.src i.a (16 * tyCode i.ty) (tagWide (16 * tyCode i.ty)) i.imm.toNat l)
            (k.gr.src i.b (16 * tyCode i.ty) (tagWide (16 * tyCode i.ty)) i.imm.toNat l)
            (k.gr.src i.d (16 * tyCode i.ty) (tagWide (16 * tyCode i.ty)) i.imm.toNat l)).1) (16 * tyCode i.ty)

/-- What intLane is on 32-bit elements without SAT: arithmetic modulo 2^32, bitwise operations, shifts that give 0 at 32
and more, unsigned quotient and remainder with all ones and the dividend for a divisor of 0 (R290-R292). -/
def IntegerWords : Prop :=
  ∀ (x y z : W32) (sub : Nat),
    let r := fun op tag => BitVec.ofNat 32 (intLane op tag false sub x.toNat y.toNat z.toNat).1
    (∀ tag, tag = 0x00 ∨ tag = 0x10 →
      r .add tag = x + y ∧ r .sub tag = x - y ∧ r .mul tag = x * y ∧ r .mad tag = x * y + z ∧ r .neg tag = -x
      ∧ r .and tag = x &&& y ∧ r .or tag = x ||| y ∧ r .xor tag = x ^^^ y ∧ r .not tag = ~~~x
      ∧ r .shl tag = x <<< y.toNat ∧ r .shr tag = x >>> y.toNat ∧ r .sadd tag = x * BitVec.ofNat 32 (2 ^ sub) + y)
    ∧ r .div 0x10 = (if y = 0 then -1 else x / y) ∧ r .rem 0x10 = x % y
    ∧ r .min 0x10 = (if x ≤ y then x else y) ∧ r .max 0x10 = (if x ≤ y then y else x)
    ∧ r .min 0x00 = (if x.toInt ≤ y.toInt then x else y) ∧ r .max 0x00 = (if x.toInt ≤ y.toInt then y else x)
    ∧ r .abs 0x00 = (if x.toInt < 0 then -x else x) ∧ r .mulh 0x10 = BitVec.ofNat 32 (x.toNat * y.toNat / 2 ^ 32)

/-- The vector forms of row 0x2 and their 32-bit results (R278-R280, R290-R293). -/
def Obligations.IntegerVector : Prop := VectorForms ∧ IntegerWords

/-- The uniform form (R278) of every operation of R290 to R293, of every format, and a transfer processor's form (17 R386):
it completes, and D takes the result, of the s registers, the d registers, IMM or zero (R278). -/
def UniformForms : Prop :=
  ∀ (s : State) (op : IntOp) (i : FnI) (d : BitVec 6), i.d = .s d →
    (∀ k : Iss, Ready s k (intOpcode op) (linesOf i.toSlots (tagWide (16 * tyCode i.ty)) 0) →
      ∃ g1, IssuesGroup (exec (intInstrOf op i) s) s k i.hint g1
        ∧ g1.rs d.toNat = (intUniform op (16 * tyCode i.ty) i.sat i.sub.toNat
            (k.gr.uniSrc i.a (16 * tyCode i.ty) i.imm.toNat) (k.gr.uniSrc i.b (16 * tyCode i.ty) i.imm.toNat)
            (k.gr.rs d.toNat).toNat).1)
    ∧ ∀ k : Dss, ReadyDxp s k →
      IssuesDxp (exec (intInstrOf op i) s) (s.modDxp k.core fun _ => k.x.wd d.toNat
        (intUniform op (16 * tyCode i.ty) i.sat i.sub.toNat (k.x.uniSrc i.a (16 * tyCode i.ty) i.imm.toNat)
          (k.x.uniSrc i.b (16 * tyCode i.ty) i.imm.toNat) (k.x.rd d.toNat).toNat).1) k.core (k.x.pc + 12)

/-- The uniform form (R278) of 64-bit operations on s registers, and a transfer processor's form on d registers (17 R386):
computed once, into the whole register. -/
def UniformWords : Prop :=
  ∀ (s : State) (op : IntOp) (i : FnI) (d a b : BitVec 6), i.ty = .n64 → i.sat = false → i.d = .s d → i.a = .s a → i.b = .s b →
    ∀ f : W64 → W64 → W64,
      ((op = .add ∧ f = (· + ·)) ∨ (op = .sub ∧ f = (· - ·)) ∨ (op = .mul ∧ f = (· * ·)) ∨ (op = .and ∧ f = (· &&& ·))
        ∨ (op = .or ∧ f = (· ||| ·)) ∨ (op = .xor ∧ f = (· ^^^ ·)) ∨ (op = .rem ∧ f = (· % ·))) →
    (∀ k : Iss, Ready s k (intOpcode op) (linesOf i.toSlots true 0) →
      IssuesGroup (exec (intInstrOf op i) s) s k i.hint (k.gr.ws d.toNat (f (k.gr.rs a.toNat) (k.gr.rs b.toNat))))
    ∧ (∀ k : Dss, ReadyDxp s k →
      IssuesDxp (exec (intInstrOf op i) s)
        (s.modDxp k.core fun _ => k.x.wd d.toNat (f (k.x.rd a.toNat) (k.x.rd b.toNat))) k.core (k.x.pc + 12))

/-- The uniform forms of row 0x2 (R278, 17 R386). -/
def Obligations.IntegerUniform : Prop := UniformForms ∧ UniformWords

/-- isad, icmp, sel, mov, lea (R294-R297), of every format and every form of their operands: with the sources under their tags
they complete; the value that a lane, a predicate or an s register takes is that of the sources' elements, and that of a
transfer processor's mov and lea of its d registers (17 R386), IMM or zero. -/
def IntegerForms : Prop :=
  (∀ (s : State) (k : Iss) (i : FnI) (tag : Nat) (wide : Bool), tag = 16 * tyCode i.ty → wide = tagWide tag →
    (∀ d : BitVec 8, i.d = .v d → Ready s k 0x09E (linesOf i.toSlots false 0) → k.gr.checkTags i.a i.b i.d tag false false = .ok () →
      k.gr.checkTag i.d 0x10 false 3 = .ok () → ∃ g1, IssuesGroup (exec (.isad i) s) s k i.hint g1
      ∧ LaneResult k.gr g1 d.toNat false k.e.mask (fun l => (fitInt 0x10 i.sat ((k.gr.src i.d 0x10 false i.imm.toNat l
          + ((List.range (32 / intWidth tag)).map fun j =>
              (intVal tag (elemAt (intWidth tag) (k.gr.src i.a tag false i.imm.toNat l) j)
                - intVal tag (elemAt (intWidth tag) (k.gr.src i.b tag false i.imm.toNat l) j)).natAbs).sum : Nat) : Int)).1) 0x10)
    ∧ (∀ p : BitVec 3, i.d = .p p → Ready s k 0x099 (linesOf i.toSlots wide 0) →
      k.gr.checkTags i.a i.b .nil tag wide false = .ok () →
      ∃ m, IssuesGroup (exec (.icmp i) s) s k i.hint (k.gr.wp p.toNat k.e.mask m)
        ∧ ∀ l < 32, k.e.mask.getLsbD l = true → ∀ x y : Int, x = intVal tag (k.gr.src i.a tag wide i.imm.toNat l) →
          y = intVal tag (k.gr.src i.b tag wide i.imm.toNat l) →
          (i.sub = 0 → m.getLsbD l = decide (x = y)) ∧ (i.sub = 1 → m.getLsbD l = decide (x ≠ y))
          ∧ (i.sub = 2 → m.getLsbD l = decide (x < y)) ∧ (i.sub = 3 → m.getLsbD l = decide (x ≤ y))
          ∧ (i.sub = 4 → m.getLsbD l = decide (y < x)) ∧ (i.sub = 5 → m.getLsbD l = decide (y ≤ x)))
    ∧ (∀ d : BitVec 8, i.d = .v d → Ready s k 0x09A (linesOf i.toSlots wide 0) →
      (∀ a b : BitVec 8, i.a = .v a → i.b = .v b → k.gr.rtag a.toNat = k.gr.rtag b.toNat
        ∧ (wide = true → k.gr.rtag (a.toNat + 1) = k.gr.rtag (b.toNat + 1))) →
      ∃ g1, IssuesGroup (exec (.sel i) s) s k i.hint g1 ∧ ∀ l < 32, k.e.mask.getLsbD l = true →
        g1.rv d.toNat l = BitVec.ofNat 32 (k.gr.src (if (k.gr.guard i.guard k.e.mask).getLsbD l then i.a else i.b) tag wide i.imm.toNat l))
    ∧ (∀ d : BitVec 8, i.d = .v d → Ready s k 0x09B (linesOf i.toSlots wide 0) →
      ∃ g1, IssuesGroup (exec (.mov i) s) s k i.hint g1 ∧ ∀ l < 32, k.e.mask.getLsbD l = true →
        g1.rv d.toNat l = BitVec.ofNat 32 (k.gr.src i.a tag wide i.imm.toNat l))
    ∧ (∀ d : BitVec 6, i.d = .s d → Ready s k 0x09B (linesOf i.toSlots wide 0) →
      ∃ v, IssuesGroup (exec (.mov i) s) s k i.hint (k.gr.ws d.toNat v)
        ∧ v = uniOut tag (uniBits tag (k.gr.uniSrc i.a tag i.imm.toNat)) ∧ (i.a = .nil → v = 0)
        ∧ (wide = true → ∀ a, i.a = .s a → v = k.gr.rs a.toNat)
        ∧ (i.ty = .n32 → ∀ a, i.a = .s a → v = ((k.gr.rs a.toNat).setWidth 32).setWidth 64)
        ∧ (i.ty = .i32 → ∀ a, i.a = .s a → v = ((k.gr.rs a.toNat).setWidth 32).signExtend 64))
    ∧ (Ready s k 0x09C (linesOf i.toSlots true 0) → k.gr.checkTag i.a 0x30 true 1 = .ok () → k.gr.checkTag i.b tag wide 2 = .ok () →
      (∀ d : BitVec 8, i.d = .v d → ∃ g1, IssuesGroup (exec (.lea i) s) s k i.hint g1
        ∧ LaneResult k.gr g1 d.toNat true k.e.mask (fun l => leaAddr tag i.sub.toNat
            (if i.a.isImm then i.imm.toNat else k.gr.src i.a 0x30 true i.imm.toNat l) (k.gr.src i.b tag wide i.imm.toNat l)) 0x30)
      ∧ ∀ d : BitVec 6, i.d = .s d → IssuesGroup (exec (.lea i) s) s k i.hint (k.gr.ws d.toNat (BitVec.ofNat 64
          (leaAddr tag i.sub.toNat (k.gr.uni i.a i.imm.toNat) (k.gr.uniSrc i.b tag i.imm.toNat))))))
  ∧ ∀ (s : State) (k : Dss) (i : FnI) (d : BitVec 6), i.d = .s d → ReadyDxp s k →
    (∃ v, IssuesDxp (exec (.mov i) s) (s.modDxp k.core fun _ => k.x.wd d.toNat v) k.core (k.x.pc + 12)
      ∧ v = uniOut (16 * tyCode i.ty) (uniBits (16 * tyCode i.ty) (k.x.uniSrc i.a (16 * tyCode i.ty) i.imm.toNat))
      ∧ (tagWide (16 * tyCode i.ty) = true → ∀ a, i.a = .s a → v = k.x.rd a.toNat)
      ∧ (i.ty = .n32 → ∀ a, i.a = .s a → v = ((k.x.rd a.toNat).setWidth 32).setWidth 64)
      ∧ (i.ty = .i32 → ∀ a, i.a = .s a → v = ((k.x.rd a.toNat).setWidth 32).signExtend 64))
    ∧ ∃ v, IssuesDxp (exec (.lea i) s) (s.modDxp k.core fun _ => k.x.wd d.toNat v) k.core (k.x.pc + 12)
      ∧ v = BitVec.ofNat 64 (leaAddr (16 * tyCode i.ty) i.sub.toNat
          (if i.a.isImm then i.imm.toNat else k.x.val i.a) (k.x.uniSrc i.b (16 * tyCode i.ty) i.imm.toNat))
      ∧ (i.ty = .n64 → ∀ a b, i.a = .s a → i.b = .s b → v = k.x.rd a.toNat + k.x.rd b.toNat * BitVec.ofNat 64 (2 ^ i.sub.toNat))

/-- isad, icmp, sel, mov, lea (R294-R297) in their vector forms on registers; sel takes A where its guard holds and B elsewhere,
and mov and sel carry the sources' tags. -/
def IntegerMoves : Prop :=
  ∀ (s : State) (k : Iss) (i : FnI) (d a b : BitVec 8), i.a = .v a → i.b = .v b →
    (Ready s k 0x09E (linesOf i.toSlots false 0) → i.ty = .n8 → i.sat = false → i.d = .v d → k.gr.rtag a.toNat = 0x70 →
        k.gr.rtag b.toNat = 0x70 → k.gr.rtag d.toNat = 0x10 → ∃ g1, IssuesGroup (exec (.isad i) s) s k i.hint g1
      ∧ LaneResult k.gr g1 d.toNat false k.e.mask (fun l => (k.gr.rv d.toNat l).toNat
          + ((List.range 4).map fun j => ((((k.gr.rv a.toNat l) >>> (8 * j)).setWidth 8).toNat
            - (((k.gr.rv b.toNat l) >>> (8 * j)).setWidth 8).toNat : Int).natAbs).sum) 0x10)
    ∧ (Ready s k 0x099 (linesOf i.toSlots false 0) → i.ty = .i32 → ∀ p : BitVec 3, i.d = .p p → k.gr.rtag a.toNat = 0x00 →
        k.gr.rtag b.toNat = 0x00 → ∃ m, IssuesGroup (exec (.icmp i) s) s k i.hint (k.gr.wp p.toNat k.e.mask m)
      ∧ ∀ l < 32, k.e.mask.getLsbD l = true →
          (i.sub = 0 → m.getLsbD l = (k.gr.rv a.toNat l == k.gr.rv b.toNat l))
          ∧ (i.sub = 2 → m.getLsbD l = decide ((k.gr.rv a.toNat l).toInt < (k.gr.rv b.toNat l).toInt)))
    ∧ (Ready s k 0x09A (linesOf i.toSlots false 0) → i.ty = .f32 → i.d = .v d → k.gr.rtag a.toNat = k.gr.rtag b.toNat →
        ∃ g1, IssuesGroup (exec (.sel i) s) s k i.hint g1 ∧ LaneResult k.gr g1 d.toNat false k.e.mask (fun l =>
          if (k.gr.guard i.guard k.e.mask).getLsbD l then (k.gr.rv a.toNat l).toNat else (k.gr.rv b.toNat l).toNat)
          (k.gr.rtag a.toNat))
    ∧ (Ready s k 0x09B (linesOf i.toSlots false 0) → i.ty = .f32 → i.d = .v d →
        ∃ g1, IssuesGroup (exec (.mov i) s) s k i.hint g1
          ∧ LaneResult k.gr g1 d.toNat false k.e.mask (fun l => (k.gr.rv a.toNat l).toNat) (k.gr.rtag a.toNat))
    ∧ (Ready s k 0x09C (linesOf i.toSlots true 0) → i.ty = .n32 → i.d = .v d → k.gr.rtag a.toNat = 0x30 →
        k.gr.rtag (a.toNat + 1) = 0x30 → k.gr.rtag b.toNat = 0x10 → ∃ g1, IssuesGroup (exec (.lea i) s) s k i.hint g1
          ∧ LaneResult k.gr g1 d.toNat true k.e.mask (fun l =>
            ((k.gr.rv a.toNat l).toNat + 2 ^ 32 * (k.gr.rv (a.toNat + 1) l).toNat
              + (k.gr.rv b.toNat l).toNat * 2 ^ i.sub.toNat) % 2 ^ 64) 0x30)

/-! ## Row 0x3: moves (13 R298-R301) -/

/-- bcast, extract, getid, ldk, movp (R298-R301); a lane number of 32 or more traps with DETAIL 3. -/
def MovesRun : Prop :=
  ∀ (s : State) (k : Iss) (i : FnI) (d a : BitVec 8), i.a = .v a →
    (∀ b : BitVec 6, Ready s k 0x0C1 (linesOf i.toSlots false 0) → i.ty = .n32 → i.d = .v d → i.b = .s b →
        (k.gr.rs b.toNat).toNat < 32 → ∃ g1, IssuesGroup (exec (.bcast i) s) s k i.hint g1
          ∧ LaneResult k.gr g1 d.toNat false k.e.mask (fun _ => (k.gr.rv a.toNat (k.gr.rs b.toNat).toNat).toNat)
            (k.gr.rtag a.toNat))
    ∧ (∀ b : BitVec 6, Ready s k 0x0C1 (linesOf i.toSlots false 0) → i.ty = .n32 → i.b = .s b →
        32 ≤ (k.gr.rs b.toNat).toNat →
        exec (.bcast i) s = .next (s.raise k.tid k.g k.e 3 3 (k.gr.rs b.toNat).toNat k.e.mask).done)
    ∧ (∀ x b : BitVec 6, Ready s k 0x0C2 (linesOf i.toSlots false 0) → i.ty = .n32 → i.d = .s x → i.b = .s b →
        k.gr.rtag a.toNat = 0x10 → (k.gr.rs b.toNat).toNat < 32 →
        IssuesGroup (exec (.extract i) s) s k i.hint
          (k.gr.ws x.toNat ((k.gr.rv a.toNat (k.gr.rs b.toNat).toNat).setWidth 64)))
    ∧ (∀ x : BitVec 6, Ready s k 0x0C3 (linesOf i.toSlots false 0) → i.d = .s x → k.t.mast = false →
        IssuesGroup (exec (.getid i) s) s k i.hint (k.gr.ws x.toNat (BitVec.ofNat 64 (match i.sub.toNat with
          | 0 => 32 * k.g | 1 => 0 | 2 => k.g | 3 => k.t.index | 4 => k.t.launch | 5 => k.t.core
          | 6 => clusterOf k.t.core | 7 => k.t.cpos | _ => k.t.lrec.teams - 1))))
    ∧ (∀ x : BitVec 6, Ready s k 0x0C4 (linesOf i.toSlots true 0) → i.d = .s x →
        IssuesGroup (exec (.ldk i) s) s k i.hint (k.gr.ws x.toNat
          (if i.sub = 1 then (k.gr.rs x.toNat >>> 32 <<< 32) ||| i.imm.setWidth 64
            else (i.imm.setWidth 64 <<< 32) ||| ((k.gr.rs x.toNat).setWidth 32).setWidth 64)))
    ∧ (∀ j : FnI, Ready s k 0x0C5 (linesOf j.toSlots false 0) →
        (∀ p q : BitVec 3, j.d = .p p → j.a = .p q →
          (j.sub = 0 → IssuesGroup (exec (.movp j) s) s k j.hint (k.gr.wp p.toNat k.e.mask (k.gr.rp q.toNat)))
          ∧ (j.sub = 4 → IssuesGroup (exec (.movp j) s) s k j.hint (k.gr.wp p.toNat k.e.mask (~~~(k.gr.rp q.toNat))))
          ∧ ∀ r : BitVec 3, j.b = .p r →
            (j.sub = 1 → IssuesGroup (exec (.movp j) s) s k j.hint
              (k.gr.wp p.toNat k.e.mask (k.gr.rp q.toNat &&& k.gr.rp r.toNat)))
            ∧ (j.sub = 2 → IssuesGroup (exec (.movp j) s) s k j.hint
              (k.gr.wp p.toNat k.e.mask (k.gr.rp q.toNat ||| k.gr.rp r.toNat)))
            ∧ (j.sub = 3 → IssuesGroup (exec (.movp j) s) s k j.hint
              (k.gr.wp p.toNat k.e.mask (k.gr.rp q.toNat ^^^ k.gr.rp r.toNat))))
        ∧ (∀ (x : BitVec 6) (q : BitVec 3), j.d = .s x → j.a = .p q → j.sub = 5 →
          IssuesGroup (exec (.movp j) s) s k j.hint (k.gr.ws x.toNat ((k.gr.rp q.toNat &&& k.e.mask).setWidth 64)))
        ∧ ∀ p : BitVec 3, j.d = .p p → j.sub = 6 →
          (∀ a : BitVec 6, j.a = .s a → IssuesGroup (exec (.movp j) s) s k j.hint
            (k.gr.wp p.toNat k.e.mask ((k.gr.rs a.toNat).setWidth 32)))
          ∧ (j.a = .imm → IssuesGroup (exec (.movp j) s) s k j.hint (k.gr.wp p.toNat k.e.mask j.imm)))

/-- bcast, extract, getid, ldk (R298-R300), of every format and every form of their operands: with the lane number, of an s
register or IMM, below 32, and the source under its tag, they complete; getid gives a mast core's values too; ldk writes one
half of an s register or of each active lane's pair. -/
def MoveForms : Prop :=
  ∀ (s : State) (k : Iss) (i : FnI) (tag : Nat) (wide : Bool), tag = 16 * tyCode i.ty → wide = tagWide tag →
    (∀ (d : BitVec 8) (n : Nat), i.d = .v d → n = k.gr.uni i.b i.imm.toNat → n < 32 → Ready s k 0x0C1 (linesOf i.toSlots wide 0) →
      ∃ g1, IssuesGroup (exec (.bcast i) s) s k i.hint g1 ∧ ∀ l < 32, k.e.mask.getLsbD l = true →
        g1.rv d.toNat l = BitVec.ofNat 32 (k.gr.src i.a tag wide 0 n)
        ∧ (wide = true → g1.rv (d.toNat + 1) l = BitVec.ofNat 32 (k.gr.src i.a tag wide 0 n / 2 ^ 32)))
    ∧ (∀ (d : BitVec 6) (n : Nat), i.d = .s d → n = k.gr.uni i.b i.imm.toNat → n < 32 → Ready s k 0x0C2 (linesOf i.toSlots wide 0) →
      k.gr.checkTag i.a tag wide 1 = .ok () → ∃ v, IssuesGroup (exec (.extract i) s) s k i.hint (k.gr.ws d.toNat v)
        ∧ (wide = true → v = BitVec.ofNat 64 (k.gr.src i.a tag wide 0 n))
        ∧ (i.ty = .n32 → v = (BitVec.ofNat 32 (k.gr.src i.a tag wide 0 n)).setWidth 64)
        ∧ (i.ty = .i32 → v = (BitVec.ofNat 32 (k.gr.src i.a tag wide 0 n)).signExtend 64))
    ∧ (Ready s k 0x0C3 (linesOf i.toSlots false 0) → ∀ id : Nat → Nat, (∀ l, id l = if k.t.mast
          then (match i.sub.toNat with | 5 => 0xFFFFFFFF | 6 => clusterOf k.t.core | _ => 0)
          else match i.sub.toNat with
            | 0 => 32 * k.g + l | 1 => l | 2 => k.g | 3 => k.t.index | 4 => k.t.launch | 5 => k.t.core
            | 6 => clusterOf k.t.core | 7 => k.t.cpos | _ => k.t.lrec.teams - 1) →
      (∀ d : BitVec 8, i.d = .v d → ∃ g1, IssuesGroup (exec (.getid i) s) s k i.hint g1
        ∧ LaneResult k.gr g1 d.toNat false k.e.mask id tag)
      ∧ ∀ d : BitVec 6, i.d = .s d → IssuesGroup (exec (.getid i) s) s k i.hint (k.gr.ws d.toNat (BitVec.ofNat 64 (id 0))))
    ∧ (∀ d : BitVec 6, i.d = .s d → Ready s k 0x0C4 (linesOf i.toSlots true 0) →
      IssuesGroup (exec (.ldk i) s) s k i.hint (k.gr.ws d.toNat
        (if i.sub = 1 then (k.gr.rs d.toNat >>> 32 <<< 32) ||| i.imm.setWidth 64
          else (i.imm.setWidth 64 <<< 32) ||| ((k.gr.rs d.toNat).setWidth 32).setWidth 64)))
    ∧ ∀ d : BitVec 8, i.d = .v d → Ready s k 0x0C4 (linesOf i.toSlots true 0) →
      ∃ g1, IssuesGroup (exec (.ldk i) s) s k i.hint g1
        ∧ LaneResult k.gr g1 d.toNat true k.e.mask (fun l =>
          if i.sub = 1 then (k.gr.rv (d.toNat + 1) l).toNat * 2 ^ 32 + i.imm.toNat
          else i.imm.toNat * 2 ^ 32 + (k.gr.rv d.toNat l).toNat) tag

/-- mov, sel, icmp, isad, lea, bcast, extract, getid, ldk, movp (13 R294-R301). -/
def Obligations.Moves : Prop := IntegerMoves ∧ IntegerForms ∧ MovesRun ∧ MoveForms

/-! ## Row 0x4: floating point (14 R302-R313) -/

/-- The instructions of R307. -/
def floatInstrOf : FloatOp → RdI → Instr
  | .add => .fadd | .sub => .fsub | .mul => .fmul | .div => .fdiv | .fma => .ffma

def floatOpcode : FloatOp → Nat
  | .add => 0x101 | .sub => 0x102 | .mul => 0x103 | .div => 0x112 | .fma => 0x104

/-- The elementary functions of R308, with their opcodes. -/
def elementaryOf : List (Nat × Nat × (RdI → Instr)) :=
  [(0, 0x10A, .frcp), (1, 0x10B, .frsq), (2, 0x10C, .fsqrt), (3, 0x10D, .fexp2), (4, 0x10E, .flog2), (5, 0x10F, .fsin),
    (6, 0x110, .fcos), (7, 0x111, .ftanh)]

/-- The value of each lane of an element-by-element float instruction: the elements in increasing index, each taking one
draw under stochastic rounding (R303). -/
def floatLane (k : Iss) (i : Slots) (tag rnd : Nat) (f : Nat → Nat → Nat → Nat → Nat × Nat) (l : Nat) : Nat :=
  (laneElems tag rnd (k.gr.rseed l) fun j draw => f
    (elemAt (tagWidth tag) (k.gr.src i.a tag false i.imm.toNat l) j)
    (elemAt (tagWidth tag) (k.gr.src i.b tag false i.imm.toNat l) j)
    (elemAt (tagWidth tag) (k.gr.src i.d tag false 0 l) j) draw).val

/-- fadd, fsub, fmul, fdiv, ffma, the elementary functions and fround, of every format, rounding and SAT (R307-R309): with
the sources under their tags they complete, every element rounded once. -/
def Obligations.FloatArithmetic : Prop :=
  ∀ (s : State) (k : Iss) (i : RdI) (d : BitVec 8), i.d = .v d →
    (∀ op, Ready s k (floatOpcode op) (linesOf i.toSlots false 0) →
      k.gr.checkTags i.a i.b i.d (16 * tyCode i.ty) false (op == .fma) = .ok () →
      ∃ g1, IssuesGroup (exec (floatInstrOf op i) s) s k i.hint g1 ∧ LaneResult k.gr g1 d.toNat false k.e.mask
        (floatLane k i.toSlots (16 * tyCode i.ty) (rndCode i.rnd)
          (floatElem op (16 * tyCode i.ty) (rndCode i.rnd) i.sat)) (16 * tyCode i.ty))
    ∧ (∀ fn opc con, (fn, opc, con) ∈ elementaryOf → Ready s k opc (linesOf i.toSlots false 0) →
      k.gr.checkTags i.a i.b i.d (16 * tyCode i.ty) false false = .ok () →
      ∃ g1, IssuesGroup (exec (con i) s) s k i.hint g1 ∧ LaneResult k.gr g1 d.toNat false k.e.mask
        (floatLane k i.toSlots (16 * tyCode i.ty) (rndCode i.rnd)
          (fun a _ _ draw => elementary fn (16 * tyCode i.ty) (rndCode i.rnd) i.sat draw a)) (16 * tyCode i.ty))
    ∧ (Ready s k 0x114 (linesOf i.toSlots false 0) →
      k.gr.checkTags i.a i.b i.d (16 * tyCode i.ty) false false = .ok () →
      ∃ g1, IssuesGroup (exec (.fround i) s) s k i.hint g1 ∧ LaneResult k.gr g1 d.toNat false k.e.mask
        (floatLane k i.toSlots (16 * tyCode i.ty) (rndCode i.rnd)
          (fun a _ _ draw => roundElem (16 * tyCode i.ty) (rndCode i.rnd) true draw a)) (16 * tyCode i.ty))

/-- fmin, fmax, fabs, fneg, ffloor, fclass, fcmp, fdot2, fdot4 (R309-R313), of every format and every form of their sources:
fabs and fneg of numbers of binary32 clear and invert the sign bit, fclass sets the bit of the class in a word of tag 0x10,
and the dot products round once into binary32. -/
def Obligations.FloatOther : Prop :=
  ∀ (s : State) (k : Iss) (i : FnI) (d : BitVec 8), i.d = .v d →
    k.gr.checkTags i.a i.b i.d (16 * tyCode i.ty) false false = .ok () →
    (Ready s k 0x107 (linesOf i.toSlots false 0) → ∃ g1, IssuesGroup (exec (.fabs i) s) s k i.hint g1
      ∧ LaneResult k.gr g1 d.toNat false k.e.mask (floatLane k i.toSlots (16 * tyCode i.ty) 0
          fun a _ _ _ => signElem false (16 * tyCode i.ty) a) (16 * tyCode i.ty)
      ∧ ∀ a, i.ty = .f32 → i.a = .v a →
        ∀ l < 32, k.e.mask.getLsbD l = true → (k.gr.rv a.toNat l &&& 0x7FFFFFFF).toNat ≤ 0x7F800000 →
        g1.rv d.toNat l = k.gr.rv a.toNat l &&& 0x7FFFFFFF)
    ∧ (Ready s k 0x108 (linesOf i.toSlots false 0) → ∃ g1, IssuesGroup (exec (.fneg i) s) s k i.hint g1
      ∧ LaneResult k.gr g1 d.toNat false k.e.mask (floatLane k i.toSlots (16 * tyCode i.ty) 0
          fun a _ _ _ => signElem true (16 * tyCode i.ty) a) (16 * tyCode i.ty)
      ∧ ∀ a, i.ty = .f32 → i.a = .v a →
        ∀ l < 32, k.e.mask.getLsbD l = true → (k.gr.rv a.toNat l &&& 0x7FFFFFFF).toNat ≤ 0x7F800000 →
        g1.rv d.toNat l = k.gr.rv a.toNat l ^^^ 0x80000000)
    ∧ (Ready s k 0x105 (linesOf i.toSlots false 0) → ∃ g1, IssuesGroup (exec (.fmin i) s) s k i.hint g1
      ∧ LaneResult k.gr g1 d.toNat false k.e.mask (floatLane k i.toSlots (16 * tyCode i.ty) 0
          fun a b _ _ => minMaxElem false (i.sub == 1) (16 * tyCode i.ty) a b) (16 * tyCode i.ty))
    ∧ (Ready s k 0x106 (linesOf i.toSlots false 0) → ∃ g1, IssuesGroup (exec (.fmax i) s) s k i.hint g1
      ∧ LaneResult k.gr g1 d.toNat false k.e.mask (floatLane k i.toSlots (16 * tyCode i.ty) 0
          fun a b _ _ => minMaxElem true (i.sub == 1) (16 * tyCode i.ty) a b) (16 * tyCode i.ty))
    ∧ (Ready s k 0x113 (linesOf i.toSlots false 0) → ∃ g1, IssuesGroup (exec (.ffloor i) s) s k i.hint g1
      ∧ LaneResult k.gr g1 d.toNat false k.e.mask (floatLane k i.toSlots (16 * tyCode i.ty) 0
          fun a _ _ _ => roundElem (16 * tyCode i.ty) (if i.sub = 0 then 3 else if i.sub = 1 then 2 else 1) false 0 a)
          (16 * tyCode i.ty))
    ∧ (Ready s k 0x115 (linesOf i.toSlots false 0) → ∃ g1, IssuesGroup (exec (.fclass i) s) s k i.hint g1
      ∧ LaneResult k.gr g1 d.toNat false k.e.mask (floatLane k i.toSlots (16 * tyCode i.ty) 0
          fun a _ _ _ => (2 ^ classBit (fmtOf (16 * tyCode i.ty)) a, 0)) 0x10)
    ∧ (∀ j : FnI, ∀ p : BitVec 3, Ready s k 0x109 (linesOf j.toSlots false 0) → j.d = .p p →
        k.gr.checkTags j.a j.b .nil (16 * tyCode j.ty) false false = .ok () →
        ∃ g1, IssuesGroup (exec (.fcmp j) s) s k j.hint g1
          ∧ ∀ l < 32, k.e.mask.getLsbD l = true → p ≠ 7 → (g1.rp p.toNat).getLsbD l
            = (fcmpElem j.sub.toNat (fdecode (fmtOf (16 * tyCode j.ty)) (k.gr.src j.a (16 * tyCode j.ty) false j.imm.toNat l))
                (fdecode (fmtOf (16 * tyCode j.ty)) (k.gr.src j.b (16 * tyCode j.ty) false j.imm.toNat l))).1)
    ∧ (∀ j : RdI, j.d = .v d → k.gr.checkTags j.a j.b .nil (tagOf j.ty j.var.toNat) false false = .ok () →
        k.gr.checkTag j.d 0x80 false 3 = .ok () → ∀ n opc con, ((n, opc, con) = (2, 0x116, Instr.fdot2) ∨ (n, opc, con) = (4, 0x117, Instr.fdot4)) →
        Ready s k opc (linesOf j.toSlots false 0) → ∃ g1, IssuesGroup (exec (con j) s) s k j.hint g1
          ∧ LaneResult k.gr g1 d.toNat false k.e.mask (fun l => (dotLane (tagOf j.ty j.var.toNat) n (rndCode j.rnd) j.sat
              (k.gr.src j.a (tagOf j.ty j.var.toNat) false j.imm.toNat l)
              (k.gr.src j.b (tagOf j.ty j.var.toNat) false j.imm.toNat l) (k.gr.src j.d 0x80 false 0 l) (k.gr.rseed l)).val) 0x80)

/-! ## Row 0x5: conversion (14 R314-R325) -/

/-- cvt, pack, unpk, scl, sclf, sat in register form, of every format and every form of their sources (R316, R319-R322,
R325): with the sources under the tags they name they complete, and each lane takes the converted elements under the
destination's tag. -/
def Obligations.Conversions : Prop :=
  ∀ (s : State) (k : Iss) (i : RdI) (d : BitVec 8) (src dst : Nat), i.d = .v d → src = i.imm.toNat % 256 →
    dst = tagOf i.ty i.var.toNat → dst < 256 →
    (Ready s k 0x141 (lines2 i.toSlots (tagWide dst) (tagWide src)) → k.gr.checkTag i.a src (tagWide src) 1 = .ok () →
      ∃ g1, IssuesGroup (exec (.cvt i) s) s k i.hint g1 ∧ LaneResult k.gr g1 d.toNat (tagWide dst) k.e.mask
        (fun l => (cvtLane src dst (rndCode i.rnd) i.sat (k.gr.src i.a src (tagWide src) 0 l) (k.gr.rseed l)).val) dst)
    ∧ (Ready s k 0x142 (lines2 i.toSlots (tagWide dst) (tagWide src)) →
      k.gr.checkTags i.a i.b .nil src (tagWide src) false = .ok () → k.gr.checkTag i.d dst (tagWide dst) 3 = .ok () →
      ∃ g1, IssuesGroup (exec (.pack i) s) s k i.hint g1 ∧ LaneResult k.gr g1 d.toNat (tagWide dst) k.e.mask
        (fun l => (packLane src dst (rndCode i.rnd) (bits i.imm.toNat 11 8) i.sat (k.gr.src i.a src (tagWide src) 0 l)
          (k.gr.src i.b src (tagWide src) 0 l) (k.gr.src i.d dst (tagWide dst) 0 l) (k.gr.rseed l)).val) dst)
    ∧ (Ready s k 0x143 (lines2 i.toSlots (tagWide dst) (tagWide src)) → k.gr.checkTag i.a src (tagWide src) 1 = .ok () →
      ∃ g1, IssuesGroup (exec (.unpk i) s) s k i.hint g1 ∧ LaneResult k.gr g1 d.toNat (tagWide dst) k.e.mask
        (fun l => (unpkLane src dst (rndCode i.rnd) (bits i.imm.toNat 11 8) i.sat (k.gr.src i.a src (tagWide src) 0 l)
          (k.gr.rseed l)).val) dst)
    ∧ (Ready s k 0x144 (linesOf i.toSlots false 0) → k.gr.checkTag i.a src false 1 = .ok () →
      ∃ g1, IssuesGroup (exec (.scl i) s) s k i.hint g1 ∧ LaneResult k.gr g1 d.toNat false k.e.mask
        (fun l => (scaleLane src 0 (fun a _ => sclElem dst src a) (k.gr.src i.a src false 0 l) (k.gr.rseed l)).val) 0x71)
    ∧ (Ready s k 0x145 (linesOf i.toSlots false 0) → k.gr.checkTag i.a (16 * tyCode i.ty) false 1 = .ok () →
      ∃ g1, IssuesGroup (exec (.sclf i) s) s k i.hint g1 ∧ LaneResult k.gr g1 d.toNat false k.e.mask
        (fun l => (scaleLane (16 * tyCode i.ty) (rndCode i.rnd) (fun a draw => sclfElem (16 * tyCode i.ty) (rndCode i.rnd) draw a)
          (k.gr.src i.a (16 * tyCode i.ty) false 0 l) (k.gr.rseed l)).val) 0x71)
    ∧ (Ready s k 0x148 (linesOf i.toSlots false 0) → i.ty = .f32 → i.b = .nil → k.gr.checkTag i.a 0x80 false 1 = .ok () →
      ∃ g1, IssuesGroup (exec (.sat i) s) s k i.hint g1 ∧ LaneResult k.gr g1 d.toNat false k.e.mask
        (fun l => (satFloat 0x80 (k.gr.src i.a 0x80 false i.imm.toNat l % 2 ^ 32)).1) 0x80)
    ∧ ∀ (tag : Nat) (wide : Bool), tag = 16 * tyCode i.ty → wide = tagWide tag →
      Ready s k 0x148 (linesOf i.toSlots wide 0) → k.gr.checkTag i.a tag wide 1 = .ok () →
      (tagInt tag = true → k.gr.checkTag i.b 0x10 false 2 = .ok ()) →
      ∃ g1, IssuesGroup (exec (.sat i) s) s k i.hint g1 ∧ LaneResult k.gr g1 d.toNat wide k.e.mask
        (fun l => ofElems (tagWidth tag) ((List.range (tagElems tag)).map fun j => (
          if tagInt tag then satInt tag (if i.b.isImm then i.imm.toNat else k.gr.src i.b 0 false 0 l)
            (elemAt (tagWidth tag) (k.gr.src i.a tag wide i.imm.toNat l) j)
          else satFloat tag (elemAt (tagWidth tag) (k.gr.src i.a tag wide i.imm.toNat l) j)).1)) tag

/-- tagrd, tagset and the tile form of cvt with its completion (R318, R323, R324): tagrd reads a v or tile tag; tagset
writes one without touching the data, but of a register that an incomplete load or copy has written in part the tag stays
that of the result (R229); a tile counts as being written until its completion event. -/
def Obligations.TagsAndTiles : Prop :=
  ∀ (s : State) (k : Iss),
    (∀ (i : FnI) (x : BitVec 6) (n : BitVec 8), Ready s k 0x146 (linesOf i.toSlots false 0) → i.d = .s x → i.a = .v n →
      IssuesGroup (exec (.tagrd i) s) s k i.hint (k.gr.ws x.toNat (BitVec.ofNat 64 (k.gr.rtag n.toNat))))
    ∧ (∀ (i : FnI) (x : BitVec 6) (n : BitVec 4), Ready s k 0x146 (linesOf i.toSlots false 0) → i.d = .s x → i.a = .m n →
      IssuesGroup (exec (.tagrd i) s) s k i.hint (k.gr.ws x.toNat (BitVec.ofNat 64 (k.t.rmtag n.toNat))))
    ∧ (∀ (i : FnI) (n : BitVec 8), Ready s k 0x147 (linesOf i.toSlots false 0) → i.d = .v n →
      ∀ g1, g1 = (if k.gr.earlyIn n.toNat then k.gr else k.gr.wtag n.toNat (i.imm.toNat % 256)) →
      (tagWide (i.imm.toNat % 256) = false → IssuesGroup (exec (.tagset i) s) s k i.hint g1)
      ∧ (tagWide (i.imm.toNat % 256) = true → IssuesGroup (exec (.tagset i) s) s k i.hint
          (if k.gr.earlyIn (n.toNat + 1) then g1 else g1.wtag (n.toNat + 1) (i.imm.toNat % 256))))
    ∧ (∀ (i : FnI) (n : BitVec 4), Ready s k 0x147 (linesOf i.toSlots false 0) → i.d = .m n →
      ∃ s1 t1, Issues (exec (.tagset i) s) s1 k i.hint k.fall ∧ s1.team? k.tid = some t1
        ∧ t1.rmtag n.toNat = (if s.earlyTile k.tid k.t n.toNat then k.t.rmtag n.toNat else i.imm.toNat % 256) ∧ (∀ m, m ≠ n.toNat → t1.rmtag m = k.t.rmtag m) ∧ t1.mreg = k.t.mreg)
    ∧ (∀ (i : RdI) (n a : BitVec 4),
      Ready s k 0x141 (lines2 i.toSlots (tagWide (tagOf i.ty i.var.toNat)) (tagWide (i.imm.toNat % 256))) → i.d = .m n →
      i.a = .m a → k.t.checkTile a.toNat (i.imm.toNat % 256) 1 = .ok () → ∃ s1, Issues (exec (.cvt i) s) s1 k i.hint k.fall
        ∧ ∃ t1, s1.team? k.tid = some t1 ∧ t1.tileCvts = k.t.tileCvts ++ [⟨s.nextOp, n.toNat, k.g⟩]
          ∧ t1.rmtag n.toNat = tagOf i.ty i.var.toNat % 256)
    ∧ (∀ (tid id : Nat) (t : Team), s.team? tid = some t → (t.tileCvts.any fun c => c.id == id) = true →
      exec (.tileCvtComplete tid id) s = .next (s.setTeam tid { t with tileCvts := t.tileCvts.filter fun c => c.id != id }))

/-! ## Rows 0x6 to 0x8: loads, stores, atomics (15 R326-R339, 10 R226-R233) -/

/-- The load of R330 or R331 has entered the load queue and counts in oc.ld; no byte of memory and no register of its
destination has changed yet. Its accesses are accs; the lanes of absent read 0. -/
def LoadEnters (s s1 : State) (k : Iss) (i : MemI) (accs : List Acc) (absent : Mask) : Prop :=
  ∃ g1 e, s1 = s.newOp.2.modGroup k.tid k.g (fun _ => g1) ∧ g1.lq = k.gr.lq ++ [e]
    ∧ g1.ops = k.gr.ops ++ [⟨s.nextOp, .ld, false⟩] ∧ e.id = s.nextOp ∧ e.accs = accs ∧ e.zeroed = absent
    ∧ e.dest = i.d ∧ e.tag = memTag i ∧ e.acq = (i.order == .acq) ∧ e.scope = i.scope ∧ e.aop = 0 ∧ e.vals = []
    ∧ (∀ j l, g1.rv j l = k.gr.rv j l) ∧ (∀ j, g1.rs j = k.gr.rs j)
    ∧ ∀ j : BitVec 3, g1.rp j.toNat = if i.b = .p j ∧ j ≠ 7 then k.gr.rp j.toNat &&& ~~~absent else k.gr.rp j.toNat

/-- ldg, lds, ldun (R326-R330), of every form: where no lane fails a check, oc.ld is below 63 and every mapped line is
filled, the load enters the queue with one access for each active lane, or one for an s destination; and where a base is
an s register, each access names (base + sext(offset)) modulo the space's width. -/
def Obligations.Loads : Prop :=
  ∀ (s : State) (k : Iss) (i : MemI) (op : Nat) (sp : Space) (con : MemI → Instr),
    (op, sp, con) ∈ [(0x181, Space.glob, Instr.ldg), (0x182, Space.spad, Instr.lds), (0x183, Space.uni, Instr.ldun)] →
    Ready s k op (memLines i.toSlots (memSize i == 8) (sp != .spad) false) → k.gr.checkBase sp i.a = .ok () →
    ∀ pl, s.placeLanes k sp .load i.a (memOff i) (memSize i) k.e.mask i.b.isP = .ok pl →
    s.pathCheck pl.accs false = .ok () → ocOf k.gr.ops .ld < 63 → s.unfilled pl.accs = none →
    (∃ s1, Issues (exec (con i) s) s1 k i.hint k.fall
      ∧ LoadEnters s s1 k i (if i.d.isS then pl.accs.take 1 else pl.accs) (maskOf pl.absent))
    ∧ ∀ n, i.a = .s n → ∀ a ∈ pl.accs, a.n = memSize i ∧ k.e.mask.getLsbD a.lane = true ∧
        a.va = (match sp with
          | .spad => wrapI 32 (((k.gr.rs n.toNat).toNat % 2 ^ 32 : Nat) + memOff i)
          | _ => wrapI 64 ((k.gr.rs n.toNat).toNat + memOff i))

/-- ldm and pgreq (R331, R332): ldm enters the queue with the 128 rows; pgreq whose addresses are all below 2^56 and whose
pages are resident posts nothing. -/
def Obligations.TileLoadsAndPages : Prop :=
  ∀ (s : State) (k : Iss) (i : MemI),
    (Ready s k 0x184 (linesOf i.toSlots false 0) → ∀ pitch accs, k.gr.pitch i.b 3 = .ok pitch →
      s.tileRows k .load i.a (memOff i) pitch = .ok accs → ocOf k.gr.ops .ld < 63 → s.unfilled accs = none →
      ∃ s1 g1 e, Issues (exec (.ldm i) s) s1 k i.hint k.fall ∧ s1 = s.newOp.2.modGroup k.tid k.g (fun _ => g1)
        ∧ g1.lq = k.gr.lq ++ [e] ∧ e.accs = accs ∧ e.dest = i.d ∧ e.tag = memTag i ∧ accs.length = 512)
    ∧ (Ready s k 0x185 (linesOf i.toSlots true 0) → k.gr.checkBase .glob i.a = .ok () →
      (∀ l, k.e.mask.getLsbD l = true → k.gr.addr .glob i.a (memOff i) l < 2 ^ 56) → ∃ s1, Issues (exec (.pgreq i) s) s1 k i.hint k.fall
        ∧ s1.home = s.home ∧ s1.group? k.tid k.g = some k.gr
        ∧ ((∀ l, k.e.mask.getLsbD l = true → ∃ lf, s.walk k.t.part (s.ctx k.t.part k.t.ctx).root .load
            (k.gr.addr .glob i.a (memOff i) l) = .ok lf) → s1.hostMem = s.hostMem))

/-- pref (R333): whatever its lanes' addresses are, it completes, and changes no register and no memory. -/
def Obligations.Prefetch : Prop :=
  ∀ (s : State) (k : Iss) (i : MemI), Ready s k 0x186 (linesOf i.toSlots true 0) → k.gr.checkBase .glob i.a = .ok () →
    ∃ s1, Issues (exec (.pref i) s) s1 k i.hint k.fall ∧ s1.teams = s.teams ∧ s1.home = s.home ∧ s1.hostMem = s.hostMem

/-- LOAD_VALUE_TAKE (10 R228): a load whose accesses may take their values takes them; where it has one access left, no
older store of its group writes it and it lies in scratchpad or, for a load that is no acquire, in memory, its value is
that of the scratchpad's bytes or of the core view's. -/
def LoadValues : Prop :=
  ∀ (s : State) (t : Team) (gr : Group) (tid g id : Nat) (e : LqEntry), s.team? tid = some t → t.groups[g]? = some gr →
    gr.lq.find? (fun x => x.id == id) = some e → e.aop = 0 → s.errs = [] →
    ∀ todo, todo = (e.accs.filter fun a => e.lacks a && !(e.waiting.any fun w => w.1 == a.lane)) → todo ≠ [] →
    (∀ a ∈ todo, gr.mayTake e a = true ∧ s.filled a = true) →
    Completes (exec (.loadValueTake tid g id) s)
    ∧ ∀ a, todo = [a] → e.acq = false → (∀ i < a.n, gr.forward id e.tile a i = none) →
      (∀ u off, a.loc = .spad u off → ∃ s1 e1, exec (.loadValueTake tid g id) s = .next s1
        ∧ (s1.group? tid g).map (fun x => x.lq.find? fun y => y.id == id) = some (some e1)
        ∧ e1.vals = e.vals ++ [(a.lane, ofBytes (s.spadBytes u off a.n))])
      ∧ (∀ pa key, a.loc = .mem pa key → pa % 128 + a.n ≤ 128 →
          (∀ j < a.n, ∀ m < a.n, (SMap.get CvByte.absent (s.core t.core).view (pa + j)).present
            = (SMap.get CvByte.absent (s.core t.core).view (pa + m)).present) →
          ∃ s1 e1, exec (.loadValueTake tid g id) s = .next s1
        ∧ (s1.group? tid g).map (fun x => x.lq.find? fun y => y.id == id) = some (some e1)
        ∧ e1.vals = e.vals ++ [(a.lane, ofBytes ((List.range a.n).map fun i => s.cvByte t.core key (pa + i)))])

/-- LOAD_COMPLETE (10 R229, 15 R330): with every value in, the destination register is written under its tag, the entry
leaves the queue and the operation is complete; an s destination takes 32 bits sign- or zero-extended, or all 64. -/
def LoadCompletes : Prop :=
  ∀ (s : State) (t : Team) (gr : Group) (tid g id : Nat) (e : LqEntry), s.team? tid = some t → t.groups[g]? = some gr →
    gr.lq.find? (fun x => x.id == id) = some e → e.full = true → (e.rel = true → e.released = true) → e.gone = false →
    s.destHere tid g e.dest (tagWide e.tag) = true → e.written = [] →
    Completes (exec (.loadComplete tid g id [] true) s)
    ∧ (∀ early, e.earlyOk t gr early = true → Completes (exec (.loadComplete tid g id early false) s))
    ∧ (∀ n, e.dest = .v n → e.aop = 0 → (e.acq = true → e.accs ≠ []) → ∃ s1 g1,
      exec (.loadComplete tid g id [] true) s = .next s1 ∧ s1.group? tid g = some g1 ∧ SameMemory s s1
        ∧ g1.lq = gr.lq.filter (fun x => x.id != id)
        ∧ ∀ l < 32, l ∈ e.units → g1.rv n.toNat l = BitVec.ofNat 32 (e.laneVal l) ∧ g1.rtag n.toNat = e.tag % 256
          ∧ (tagWide e.tag = true → g1.rv (n.toNat + 1) l = BitVec.ofNat 32 (e.laneVal l / 2 ^ 32)))
    ∧ (∀ n, e.dest = .s n → e.aop = 0 → e.accs ≠ [] → ∃ s1 g1, exec (.loadComplete tid g id [] true) s = .next s1
      ∧ s1.group? tid g = some g1 ∧ ∀ v, (e.vals.head?).map Prod.snd = some v →
        (e.tag / 16 = 0 → v < 2 ^ 32 → g1.rs n.toNat = BitVec.signExtend 64 (BitVec.ofNat 32 v))
        ∧ (e.tag / 16 ≠ 0 → g1.rs n.toNat = BitVec.ofNat 64 v))

/-- LOAD_VALUE_TAKE and LOAD_COMPLETE: the value that a load takes, and its destination (10 R228, R229, 15 R330). -/
def Obligations.LoadSteps : Prop := LoadValues ∧ LoadCompletes

/-- The store of R334 or R335 has entered the buffer of its colour and counts in oc.st; no byte of memory has changed
yet. -/
def StoreEnters (s s1 : State) (k : Iss) (i : MemI) (puts : List Put) (aop : Nat) : Prop :=
  SameMemory s s1 ∧ ∃ g1 e, s1.group? k.tid k.g = some g1 ∧ g1.sb = k.gr.sb ++ [e]
    ∧ g1.ops = k.gr.ops ++ [⟨s.nextOp, .st, false⟩] ∧ e.id = s.nextOp ∧ e.puts = puts ∧ e.colour = i.colour.toNat
    ∧ e.rel = (i.order == .rel) ∧ e.scope = i.scope ∧ e.aop = aop
    ∧ (∀ j l, g1.rv j l = k.gr.rv j l) ∧ (∀ j, g1.rs j = k.gr.rs j) ∧ ∀ j, g1.rp j = k.gr.rp j

/-- stg, sts, stun (R334), of every form: where no lane fails a check, oc.st is below 63 and every mapped line is filled,
the store enters the buffer with the value of B of each active lane, low byte first; with no lane active it enters too, and
needs no register line (R268). -/
def StoresRun : Prop :=
  ∀ (s : State) (k : Iss) (i : MemI) (op : Nat) (sp : Space) (con : MemI → Instr),
    (op, sp, con) ∈ [(0x1C1, Space.glob, Instr.stg), (0x1C2, Space.spad, Instr.sts), (0x1C3, Space.uni, Instr.stun)] →
    Ready s k op (s.guardLines i.guard (memLines i.toSlots false (sp != .spad) (memSize i == 8))) → ocOf k.gr.ops .st < 63 →
    (k.gr.guard i.guard k.e.mask = 0 →
      ∃ s1, Issues (exec (con i) s) s1 k i.hint k.fall ∧ StoreEnters s s1 k i [] 0)
    ∧ (k.gr.guard i.guard k.e.mask ≠ 0 → k.gr.checkBase sp i.a = .ok () →
      k.gr.checkTag i.b (memTag i) (memSize i == 8) 2 = .ok () →
      ∀ pl, s.placeLanes k sp .store i.a (memOff i) (memSize i) (k.gr.guard i.guard k.e.mask) false = .ok pl →
      s.pathCheck pl.accs false = .ok () → s.unfilled pl.accs = none →
      ∃ s1, Issues (exec (con i) s) s1 k i.hint k.fall ∧ StoreEnters s s1 k i
        (pl.accs.map fun a => ⟨a, toBytes (memSize i) (k.gr.src i.b (memTag i) (memSize i == 8) 0 a.lane)⟩) 0)

/-- stm (R335): the 128 rows of the tile enter as one entry, 16 bytes of row r at its address plus 16 times the chunk. -/
def TileStores : Prop :=
  ∀ (s : State) (k : Iss) (i : MemI), Ready s k 0x1C4 (s.guardLines i.guard (linesOf i.toSlots false 0)) → ocOf k.gr.ops .st < 63 →
    (k.gr.guard i.guard k.e.mask = 0 → ∃ s1, Issues (exec (.stm i) s) s1 k i.hint k.fall ∧ StoreEnters s s1 k i [] 0)
    ∧ (k.gr.guard i.guard k.e.mask ≠ 0 → ∀ m, i.b = .m m → k.t.checkTile m.toNat (memTag i) 2 = .ok () →
      ∀ pitch accs, k.gr.pitch i.d 1 = .ok pitch → s.tileRows k .store i.a (memOff i) pitch = .ok accs →
      s.unfilled accs = none → ∃ s1, Issues (exec (.stm i) s) s1 k i.hint k.fall ∧ StoreEnters s s1 k i
        (accs.map fun a => ⟨a, toBytes 16 ((k.t.row m.toNat (a.lane / 4)).toNat / 2 ^ (128 * (a.lane % 4)))⟩) 0)

/-- stg, sts, stun, stm enter the store buffers (R334, R335). -/
def Obligations.Stores : Prop := StoresRun ∧ TileStores

/-- A byte that a store entry writes: of a scratchpad allocation, or of memory. -/
def putsAt (puts : List Put) (l : Loc) : Bool :=
  puts.any fun p => match p.acc.loc, l with
    | .spad u off, .spad v x => u == v && decide (off ≤ x) && decide (x < off + p.bytes.length)
    | .mem pa _, .mem x _ => decide (pa ≤ x) && decide (x < pa + p.bytes.length)
    | _, _ => false

/-- STORE_PERFORM (10 R226, R233): the head of a colour's buffer, a plain store, a red's next lane with no earlier lane's
step under way, or a release whose steps are done, completes. An unordered store completes at the head of its colour's
buffer; where its bytes are this device's, they are in its scratchpad or its core's view, dirty, at the addresses that its
puts name, and every other byte of every scratchpad, of every core's view, of home memory and of host memory is as before. -/
def Obligations.StorePerforms : Prop :=
  ∀ (s : State) (t : Team) (gr : Group) (tid g c : Nat) (e : SbEntry), s.team? tid = some t → t.groups[g]? = some gr →
    gr.sbHead c = some e → gr.mayPerform e = true → (∀ p ∈ e.puts, s.filled p.acc = true) →
    s.redOpen tid g e.id = false →
    ((e.rel = true → e.released = true) → Completes (exec (.storePerform tid g c) s))
    ∧ (e.aop = 0 → e.rel = false → ∃ s1, exec (.storePerform tid g c) s = .next s1
      ∧ ((∀ p ∈ e.puts, p.acc.loc.dev? = none) →
        (∀ key pa, s1.homeByte key pa = s.homeByte key pa) ∧ (∀ a n, s1.hostBytes a n = s.hostBytes a n)
        ∧ (∀ u off, putsAt e.puts (.spad u off) = false → s1.spadBytes u off 1 = s.spadBytes u off 1)
        ∧ (∀ k key pa, (k ≠ t.core ∨ putsAt e.puts (.mem pa key) = false) → s1.cvByte k key pa = s.cvByte k key pa)
        ∧ ∀ p, e.puts = [p] → (∀ j < p.bytes.length,
          (∀ u off, p.acc.loc = .spad u off → (s.team? u).isSome = true → s1.spadBytes u (off + j) 1 = [p.bytes.getD j 0])
          ∧ (∀ pa key, p.acc.loc = .mem pa key → s1.cvByte t.core key (pa + j) = p.bytes.getD j 0))))

/-- The integer operations of R336 on 32-bit words, signed or unsigned by tag 0x00 or 0x10. -/
def AtomicOperations : Prop :=
  ∀ (x b d : W32),
    let new := fun aop tag => BitVec.ofNat 32 (atomNew aop tag x.toNat b.toNat d.toNat).1
    new 0 0x00 = b ∧ new 1 0x00 = x + b ∧ new 2 0x00 = (if b.toInt < x.toInt then b else x)
    ∧ new 3 0x00 = (if x.toInt < b.toInt then b else x) ∧ new 2 0x10 = (if b < x then b else x)
    ∧ new 3 0x10 = (if x < b then b else x) ∧ new 4 0x10 = x &&& b ∧ new 5 0x10 = x ||| b ∧ new 6 0x10 = x ^^^ b
    ∧ new 7 0x10 = (if x = d then b else x) ∧ new 8 0x10 = (if b ≤ x then 0 else x + 1)
    ∧ new 9 0x10 = (if x = 0 ∨ b < x then b else x - 1)

/-- atom, atoms, atomf, red (R337-R339): with no lane active, or every active lane's checks passed, they complete: an
atomic in the load queue, a red in the buffer of its colour, both with their operation; no byte of memory changes at
issue. -/
def Obligations.Atomics : Prop :=
  ∀ (s : State) (k : Iss) (i : MemI) (accs : List Acc) (op : Nat) (sp : Space),
    (if k.gr.guard i.guard k.e.mask = 0 then accs = [] else atomChecks op sp i s k (k.gr.guard i.guard k.e.mask) = .ok accs) →
    s.unfilled accs = none →
    (∀ con, (op, sp, con) ∈ [(0x201, Space.glob, Instr.atom), (0x202, Space.spad, Instr.atoms), (0x204, Space.uni, Instr.atomf)] →
      Ready s k op (s.guardLines i.guard (memLines i.toSlots (memSize i == 8) (sp != .spad) (memSize i == 8))) →
      ocOf k.gr.ops .ld < 63 → ∃ s1 g1 e, Issues (exec (con i) s) s1 k i.hint k.fall ∧ SameMemory s s1 ∧ s1.group? k.tid k.g = some g1
        ∧ g1.lq = k.gr.lq ++ [e] ∧ g1.ops = k.gr.ops ++ [⟨s.nextOp, .ld, false⟩] ∧ e.accs = accs ∧ e.aop = memAop i + 1
        ∧ e.dest = i.d ∧ e.tag = memTag i ∧ e.scope = i.scope ∧ e.vals = []
        ∧ e.data = accs.map fun a => (a.lane, k.gr.src i.b (memTag i) (memSize i == 8) 0 a.lane))
    ∧ (op = 0x203 → sp = .uni → Ready s k 0x203 (s.guardLines i.guard (memLines i.toSlots false true (memSize i == 8))) →
      ocOf k.gr.ops .st < 63 → ∃ s1, Issues (exec (.red i) s) s1 k i.hint k.fall ∧ StoreEnters s s1 k i
        (accs.map fun a => ⟨a, toBytes (memSize i) (k.gr.src i.b (memTag i) (memSize i == 8) 0 a.lane)⟩) (memAop i + 1))

/-- The bytes a lane's atomic finds in scratchpad: each byte of an older store of the lane still in the buffer is that store's
(10 R228). -/
def oldSpad (s : State) (gr : Group) (id : Nat) (a : Acc) (u off : Nat) : Nat :=
  ofBytes ((s.spadBytes u off a.n).zipIdx.map fun b => (gr.forward id false a b.2).getD b.1)

/-- ATOMIC_STEP (10 R228, R233, 15 R337): the next lane's step of an atomic; in scratchpad it takes the old value, writes the
new one and leaves every other byte of every scratchpad as it was. -/
def AtomicStepsRun : Prop :=
  ∀ (s : State) (t : Team) (gr : Group) (tid g id : Nat) (e : LqEntry) (a : Acc), s.team? tid = some t →
    t.groups[g]? = some gr → gr.lq.find? (fun x => x.id == id) = some e → e.aop ≠ 0 → (e.rel = true → e.released = true) →
    e.nextLane = some a → gr.mayTake e a = true → s.filled a = true →
    Completes (exec (.atomicStep tid g id) s)
    ∧ ∀ u off, a.loc = .spad u off → s.errs = [] → e.acq = false → (s.team? u).isSome = true →
      ∃ s1 e1, exec (.atomicStep tid g id) s = .next s1
        ∧ (s1.group? tid g).map (fun x => x.lq.find? fun y => y.id == id) = some (some e1)
        ∧ e1.vals = e.vals ++ [(a.lane, oldSpad s gr id a u off)]
        ∧ s1.spadBytes u off a.n = toBytes a.n (atomNew (e.aop - 1) e.tag (oldSpad s gr id a u off)
            (laneOf e.data a.lane) (laneOf e.cmp a.lane)).1
        ∧ ∀ v x, (v ≠ u ∨ x < off ∨ off + a.n ≤ x) → s1.spadBytes v x 1 = s.spadBytes v x 1

/-- What an atomic operation computes, and ATOMIC_STEP (R336, R337, 10 R233). -/
def Obligations.AtomicSteps : Prop := AtomicOperations ∧ AtomicStepsRun

/-! ## Row 0x9: synchronisation (15 R340-R353) -/

/-- fence, waitc, wcdrain (R340, R341, R343): an ordered fence of lane scope waits for nothing; a plain fence and an
acquire complete once the group's older accesses are done, and else wait, counted in OTHERW; waitc completes when each
counter is at or below its threshold, 15 setting none, and else waits, counted in WAITC; wcdrain leaves no entry of the
context in the buffer. -/
def FencesRun : Prop :=
  ∀ (s : State) (k : Iss) (i : MemI),
    (Ready s k 0x241 ([], []) →
      (i.order ≠ .plain → i.scope = .lane → Issues (exec (.fence i) s) s k i.hint k.fall)
      ∧ (i.order = .plain → k.gr.quiet i.imm.toNat = true → Issues (exec (.fence i) s) s k i.hint k.fall)
      ∧ (i.order = .acq → i.scope ≠ .lane → k.gr.quiet 0 = true → ∃ s1, Issues (exec (.fence i) s) s1 k i.hint k.fall
        ∧ s1.group? k.tid k.g = some k.gr)
      ∧ (∀ h, (i.order = .rel ∨ i.order = .ar) → k.gr.hold = some h → h.started = true → h.why = 12 → h.passed = true →
        ∃ s1, Issues (exec (.fence i) s) s1 k i.hint k.fall ∧ s1.group? k.tid k.g = some k.gr)
      ∧ (i.order = .plain → k.gr.quiet i.imm.toNat = false → ∃ h, h.why = 12 ∧ exec (.fence i) s = .next (s.bail k (.hold h))))
    ∧ (Ready s k 0x242 ([], []) →
      ((∀ n < 6, bits i.imm.toNat (4 * n + 3) (4 * n) = 15 ∨ k.gr.counters.getD n 0 ≤ bits i.imm.toNat (4 * n + 3) (4 * n)) →
        Issues (exec (.waitc i) s) s k i.hint k.fall)
      ∧ (∀ n < 6, bits i.imm.toNat (4 * n + 3) (4 * n) ≠ 15 → bits i.imm.toNat (4 * n + 3) (4 * n) < k.gr.counters.getD n 0 →
        ∃ h, h.why = 6 ∧ exec (.waitc i) s = .next (s.bail k (.hold h))))
    ∧ (Ready s k 0x24F ([], []) → ∃ s1, Issues (exec (.wcdrain i) s) s1 k i.hint k.fall
      ∧ ∀ e ∈ (s1.core k.t.core).wc, e.owners.contains (k.t.part, k.t.ctx) = false)

/-- bar and BAR_RELEASE_WAVE (R344, 02 R46): a group whose older accesses are done arrives and waits, counted in BAR; a
wave releases the next groups of the opened barrier, all of them where GAP is 0 and WIDTHM1 + 1 otherwise; a released
group's bar completes; and after the last wave the barrier opens again where every live group waits at it. -/
def TeamBarrier : Prop :=
  (∀ (s : State) (k : Iss) (i : MemI), Ready s k 0x243 ([], []) →
    (∀ h, k.gr.hold = some h → h.started = true → h.why = 4 → h.passed = true → Issues (exec (.bar i) s) s k i.hint k.fall)
    ∧ (k.gr.hold = none → k.gr.quiet 255 = true → ∃ s1 g1 h, exec (.bar i) s = .next s1
        ∧ s1.group? k.tid k.g = some g1 ∧ g1.hold = some h ∧ h.why = 4 ∧ h.started = true ∧ h.passed = false))
  ∧ ∀ (s : State) (tid : Nat) (t : Team) (w : BarWave), s.team? tid = some t → t.barWave = some w → w.gap = 0 →
    ∃ s1 t1, exec (.barReleaseWave tid) s = .next s1 ∧ s1.team? tid = some t1
      ∧ ∀ n, n = (if (s.cluster (clusterOf t.core)).gap = 0 then w.left.length
          else (s.cluster (clusterOf t.core)).widthm1.toNat + 1) →
        (w.left.length ≤ n → t1.barWave = none ∨ (t1.barWave = some ⟨t1.atBar, 0⟩ ∧ t1.atBar ≠ []
          ∧ t1.atBar.length = (t1.groups.filter fun x => !x.exited && !x.halted).length))
        ∧ (n < w.left.length → t1.barWave = some ⟨w.left.drop n, (s.cluster (clusterOf t.core)).gap.toNat⟩)
        ∧ ∀ j ∈ w.left.take n, ∀ gr h, t.groups[j]? = some gr → gr.hold = some h → h.why = 4 → h.started = true →
            (t1.groups[j]?).bind (fun x => x.hold) = some { h with passed := true, ready := true }

/-- fence, waitc, wcdrain, bar and the waves of a barrier (R340-R344, 02 R46). -/
def Obligations.Fences : Prop := FencesRun ∧ TeamBarrier

/-- A barrier's 16 bytes hold its fields (09 R210), and its phase turns exactly when ARRIVE and SECTORS are both 0
(R211). -/
def BarrierWords : Prop :=
  ∀ b : Bar, b.phase < 16 → b.resv < 2 ^ 12 → b.init < 2 ^ 16 → inI32 b.arrive = true → inI32 b.sectors = true →
    b.excess < 2 ^ 32 →
    barOf b.bytes = b ∧ b.bytes.length = 16
    ∧ (b.arrive = 0 → b.sectors = 0 → b.settle.1 = { b with arrive := b.init, phase := (b.phase + 1) % 16 })
    ∧ (b.arrive ≠ 0 ∨ 0 < b.sectors → b.settle.1 = b)

/-- What an instruction's update leaves of a barrier (09 R213): before the core's last quadrant it joins those of the cycle, and
no byte of scratchpad changes; in the last, alone, it leaves the barrier in scratchpad as b, settled (R211). -/
def BarUpdated (s s1 : State) (k : Iss) (l : Loc) (va : Nat) (kind : BarKind) (b : Bar) : Prop :=
  ((s.core k.t.core).nextQ ≠ 0 →
    (s1.core k.t.core).bars = (s.core k.t.core).bars ++ [⟨l, k.tid, k.g, k.e.pc, k.e.mask, va, kind⟩]
    ∧ ∀ u off n, s1.spadBytes u off n = s.spadBytes u off n)
  ∧ ((s.core k.t.core).nextQ = 0 → (s.core k.t.core).bars = [] → s.barNow l = [] → b.settle.2 = false →
    ∀ u off, l = .spad u off → (s.team? u).isSome = true → s1.spadBytes u off 16 = b.settle.1.bytes)

/-- tbinit, tbarrive, tbexpect, tbwait, tbtest (R345-R348) complete where their barrier is reached and well formed and
their counts are in range; in scratchpad they leave the bytes that R210 and R211 give, all of one core cycle together
(R213). -/
def BarriersRun : Prop :=
  ∀ (s : State) (k : Iss) (i : MemI) (va : Nat) (l : Loc) (n : Nat),
    (Ready s k 0x244 (linesOf i.toSlots false 0) → s.barArg k i.a .atomic = .ok (va, l) →
      ∃ s1, Issues (exec (.tbinit i) s) s1 k i.hint k.fall
        ∧ BarUpdated s s1 k l va (.init i.imm.toNat) (Bar.start i.imm.toNat))
    ∧ (Ready s k 0x245 (linesOf i.toSlots false 0) → s.barArg k i.a .atomic = .ok (va, l) →
      k.gr.barCount i.b i.imm.toNat 65535 = .ok n → ∀ b s0, s.barRead k.t.core l = (b, s0) → b.bad = false →
      (n : Int) ≤ s0.barOwed l b → inI32 (b.arrive - n) = true →
      ∃ s1, Issues (exec (.tbarrive i) s) s1 k i.hint k.fall
        ∧ (arriveNow k l = true → BarUpdated s s1 k l va (.arrive n) { b with arrive := b.arrive - n })
        ∧ ∀ u off, l = .spad u off →
          (arriveNow k l = false → ∃ g1, s1.group? k.tid k.g = some g1 ∧ s1.spadBytes u off 16 = s.spadBytes u off 16
            ∧ g1.pend = k.gr.pend ++ [⟨s.nextOp, s.nextOp, k.e.pc, k.e.mask, .arrive l va n, false⟩]))
    ∧ (Ready s k 0x246 (linesOf i.toSlots false 0) → s.barArg k i.a .atomic = .ok (va, l) →
      k.gr.barCount i.b i.imm.toNat (2 ^ 31 - 1) = .ok n → ∀ b s0, s.barRead k.t.core l = (b, s0) → b.bad = false →
      inI32 (s0.barSectors l b + n) = true →
      ∃ s1, Issues (exec (.tbexpect i) s) s1 k i.hint k.fall
        ∧ BarUpdated s s1 k l va (.expect n) { b with sectors := b.sectors + n })
    ∧ (Ready s k 0x247 (linesOf i.toSlots false 0) → s.barArg k i.a .load = .ok (va, l) →
      ∀ b s0, s.barRead k.t.core l = (b, s0) → b.bad = false →
      (b.phase ≠ i.imm.toNat % 16 → ∃ s1, Issues (exec (.tbwait i) s) s1 k i.hint k.fall
        ∧ s1.group? k.tid k.g = some (if i.d.isNil then k.gr else k.gr.ws i.d.idx 0))
      ∧ (b.phase = i.imm.toNat % 16 → ∀ h, k.gr.hold = some h → h.started = true → h.why = 5 → h.timedOut = true →
        ∃ s1, Issues (exec (.tbwait i) s) s1 k i.hint k.fall
          ∧ s1.group? k.tid k.g = some (if i.d.isNil then k.gr else k.gr.ws i.d.idx 1))
      ∧ (b.phase = i.imm.toNat % 16 → k.gr.hold = none →
        ∃ h, h.why = 5 ∧ exec (.tbwait i) s = .next (s.bail k (.hold h))))
    ∧ (Ready s k 0x248 (linesOf i.toSlots false 0) → s.barArg k i.a .load = .ok (va, l) →
      ∀ b s0, s.barRead k.t.core l = (b, s0) → b.bad = false → ∃ s1, Issues (exec (.tbtest i) s) s1 k i.hint k.fall
        ∧ s1.group? k.tid k.g
          = some (k.gr.ws i.d.idx (BitVec.ofNat 64 ((if b.phase = i.imm.toNat % 16 then 0 else 1) + 16 * b.phase))))

/-- A barrier's bytes and the five instructions on barriers (09 R210, R211, R345-R348). -/
def Obligations.Barriers : Prop := BarrierWords ∧ BarriersRun

/-- ringput, ringget, ringrel (R349-R351, 07 R168): each index is handed out in order, to one group in a core's cycle; a fill
marks the slot full and flips its phase bit, a free marks it empty, at once where the group's older accesses are done. -/
def Obligations.Rings : Prop :=
  ∀ (s : State) (k : Iss) (i : MemI) (d : RingDef) (q : Nat), q = i.imm.toNat % 8 → k.t.lrec.rings[q]? = some d →
    (Ready s k 0x249 (linesOf i.toSlots false 0) → ∀ n, i.d = .s n →
      (k.t.ring q).full.getLsbD (k.t.ring q).put = false → (k.t.ring q).putNow = false → k.ringAhead 7 q = false →
      ∃ s1 t1 g1, Issues (exec (.ringput i) s) s1 k i.hint k.fall ∧ s1.team? k.tid = some t1 ∧ s1.group? k.tid k.g = some g1
        ∧ t1.ring q = { k.t.ring q with put := ((k.t.ring q).put + 1) % d.size, putNow := true }
        ∧ g1 = k.gr.ws n.toNat (BitVec.ofNat 64 (k.t.ring q).put))
    ∧ (Ready s k 0x24A (linesOf i.toSlots false 0) → ∀ n, i.d = .s n →
      (k.t.ring q).full.getLsbD (k.t.ring q).get = true → (k.t.ring q).getNow = false → k.ringAhead 8 q = false →
      ∃ s1 t1 g1, Issues (exec (.ringget i) s) s1 k i.hint k.fall ∧ s1.team? k.tid = some t1 ∧ s1.group? k.tid k.g = some g1
        ∧ t1.ring q = { k.t.ring q with get := ((k.t.ring q).get + 1) % d.size, getNow := true }
        ∧ g1 = k.gr.ws n.toNat (BitVec.ofNat 64 ((k.t.ring q).get
          + 2 ^ 16 * (if (k.t.ring q).phase.getLsbD (k.t.ring q).get then 1 else 0))))
    ∧ ∀ n slot, i.a = .s n → slot = (k.gr.rs n.toNat).toNat % 16 → bits (k.gr.rs n.toNat).toNat 15 4 = 0 → slot < d.size →
      (Ready s k 0x24B (linesOf i.toSlots false 0) → (k.t.ring q).full.getLsbD slot = false → k.gr.quiet 255 = true →
        ∃ s1 t1, Issues (exec (.ringrelFill i) s) s1 k i.hint k.fall ∧ s1.team? k.tid = some t1
          ∧ t1.ring q = { k.t.ring q with full := (k.t.ring q).full ||| (1#16 <<< slot)
                                          phase := (k.t.ring q).phase ^^^ (1#16 <<< slot) })
      ∧ (Ready s k 0x24B (linesOf i.toSlots false 0) → (k.t.ring q).full.getLsbD slot = true → k.gr.quiet 0 = true →
        ∃ s1 t1, Issues (exec (.ringrelFree i) s) s1 k i.hint k.fall ∧ s1.team? k.tid = some t1
          ∧ t1.ring q = { k.t.ring q with full := (k.t.ring q).full &&& ~~~(1#16 <<< slot) })
      ∧ (Ready s k 0x24B (linesOf i.toSlots false 0) → (k.t.ring q).full.getLsbD slot = true →
        exec (.ringrelFill i) s = .next (s.raise k.tid k.g k.e 3 2 (k.gr.rs n.toNat).toNat k.e.mask).done)

/-- marker (R342): with oc.st below 63 it completes, to one device that has a valid path, or to every device owed one; to
the device itself it is done at once and nothing is sent. -/
def MarkersRun : Prop :=
  ∀ (s : State) (k : Iss) (i : MemI), Ready s k 0x24E (linesOf i.toSlots false 0) → ocOf k.gr.ops .st < 63 →
    (∀ a, i.a = .s a → (k.gr.rs a.toNat).toNat < 4096 →
      (k.gr.rs a.toNat = Config.devNum.setWidth 64 ∨ s.pathsTo (k.gr.rs a.toNat).toNat 0 ≠ []) →
      ∃ s1, Issues (exec (.marker i) s) s1 k i.hint k.fall)
    ∧ (i.a = .nil → ∃ s1, Issues (exec (.marker i) s) s1 k i.hint k.fall)
    ∧ ∀ a, i.a = .s a → k.gr.rs a.toNat = Config.devNum.setWidth 64 → ∃ s1 g1, Issues (exec (.marker i) s) s1 k i.hint k.fall
        ∧ s1.out = s.out ∧ s1.group? k.tid k.g = some g1 ∧ ocOf g1.ops .st ≤ ocOf k.gr.ops .st + 1

/-- evpost, evget (R352, R353): evpost posts while fewer than 224 records are present and else answers 1; evget takes the
head, with COUNT and LOST in the first word, or waits, or answers zeros. -/
def QueueRuns : Prop :=
  ∀ (s : State) (k : Iss) (i : MemI) (n : BitVec 6), i.d = .s n →
    (Ready s k 0x24C (linesOf i.toSlots false 1) → ∀ a b, i.a = .s a → i.b = .s b →
      (s.evCount k.t.core < 224 → ∃ s1 w, Issues (exec (.evpost i) s) s1 k i.hint k.fall
        ∧ (s1.cluster (clusterOf k.t.core)).evq = (s.cluster (clusterOf k.t.core)).evq
            ++ [⟨w, k.gr.rs a.toNat, k.gr.rs (a.toNat + 1), k.gr.rs b.toNat⟩]
        ∧ bits w.toNat 7 0 = 3 ∧ (s1.group? k.tid k.g).map (fun x => x.rs n.toNat) = some 0)
      ∧ (224 ≤ s.evCount k.t.core → ∃ s1, Issues (exec (.evpost i) s) s1 k i.hint k.fall
        ∧ s1.clusters = s.clusters ∧ (s1.group? k.tid k.g).map (fun x => x.rs n.toNat) = some 1))
    ∧ (Ready s k 0x24D (linesOf i.toSlots false 3) → n.toNat % 4 = 0 →
      (∀ w ∈ s.evWaiters (clusterOf k.t.core), w.1 = k.tid ∧ w.2.1 = k.g) →
      (∀ r rest, (s.cluster (clusterOf k.t.core)).evq = r :: rest → ∃ s1 g1, Issues (exec (.evget i) s) s1 k i.hint k.fall
        ∧ (s1.cluster (clusterOf k.t.core)).evq = rest ∧ s1.group? k.tid k.g = some g1
        ∧ g1.rs n.toNat = r.w0 ||| BitVec.ofNat 64 (2 ^ 12 * rest.length
            + (if (s.cluster (clusterOf k.t.core)).lost = 0 then 0 else 2 ^ 21))
        ∧ g1.rs (n.toNat + 1) = r.w1 ∧ g1.rs (n.toNat + 2) = r.w2 ∧ g1.rs (n.toNat + 3) = r.w3)
      ∧ ((s.cluster (clusterOf k.t.core)).evq = [] → i.imm.getLsbD 0 = true → ∃ g1, IssuesGroup (exec (.evget i) s) s k i.hint g1
        ∧ ∀ j < 4, g1.rs (n.toNat + j) = 0)
      ∧ ((s.cluster (clusterOf k.t.core)).evq = [] → i.imm.getLsbD 0 = false →
        ∃ h, h.why = 9 ∧ exec (.evget i) s = .next (s.bail k (.hold h))))

/-- evpost, evget, marker (R342, R352, R353). -/
def Obligations.EventQueue : Prop := QueueRuns ∧ MarkersRun

/-! ## Rows 0xA and 0xB: the matrix engine (16 R354-R374) -/

/-- An operation o has taken its place at the end of the core's engine order, named from what the entry read at issue; no
byte of memory changes at issue; where it counts, it counts in oc.mtx. -/
def EngineTakes (s s1 : State) (k : Iss) (o : MxOp) (counted : Bool) : Prop :=
  SameMemory s s1 ∧ (s1.core k.t.core).engine = (s.core k.t.core).engine ++ [o] ∧ o.tid = k.tid ∧ o.g = k.g
    ∧ o.id = s.nextOp ∧ (s1.group? k.tid k.g).map Group.ops
      = some (if counted then k.gr.ops ++ [⟨s.nextOp, .mtx, false⟩] else k.gr.ops)

/-- mma and mmab (R359, 02 R41, R42): an entry that passes every check signs; where its signature completes the declared
set, the register clears, its phase flips and the operation issues; where the recorded word or the lanes do not match, it
traps with DETAIL 6. -/
def Signing : Prop :=
  ∀ (s : State) (k : Iss) (i : MtxI) (op : Nat) (con : MtxI → Instr), (op, con) ∈ [(0x281, Instr.mma), (0x282, Instr.mmab)] →
    Ready s k op (s.signLines i (con i)) → ∀ da db, k.mxChecks op i = .ok (da, db) →
    ∀ c w, c = k.t.cv (i.imm.toNat % 8) → w = signWord ((encode (con i)).getD 0) →
    (k.signBad c w ≠ 0 → exec (con i) s = .next (s.raise k.tid k.g k.e 3 6 (i.imm.toNat % 8) (k.signBad c w)).done)
    ∧ (k.signBad c w = 0 → k.t.checkDesc (op == 0x281 && i.sc) da = .ok () → k.t.checkDesc (op == 0x281 && i.sc) db = .ok () →
      (c.signed ||| k.threads ≠ c.declared → ∃ s1 t1, Issues (exec (con i) s) s1 k i.hint k.fall ∧ s1.team? k.tid = some t1
        ∧ SameMemory s s1 ∧ t1.cv (i.imm.toNat % 8) = { c with signed := c.signed ||| k.threads, word := some w, last := k.g })
      ∧ (c.signed ||| k.threads = c.declared → ocOf k.gr.ops .mtx < 63 → s.vatHere k.t.core k.tid [i.d.idx] = true →
        ∃ s1 t1 o, Issues (exec (con i) s) s1 k i.hint k.fall ∧ EngineTakes s s1 k o true ∧ s1.team? k.tid = some t1
          ∧ (t1.cv (i.imm.toNat % 8)).signed = 0 ∧ (t1.cv (i.imm.toNat % 8)).word = none
          ∧ (t1.cv (i.imm.toNat % 8)).phase = !c.phase ∧ o.descA = da ∧ o.descB = db))

/-- vatld, vatst, vatclr, vatcp, mtrans, mscale (R361-R363) with their operands as the spec asks
complete, and each puts its
operation into the engine order, with the tile that it reads at issue in the model (10 R239; log 14, DESIGN CHOICE). -/
def MatrixIssueRun : Prop :=
  ∀ (s : State) (k : Iss), ocOf k.gr.ops .mtx < 63 →
    (∀ (i : RdI) (tag : Nat), tag = 16 * tyCode i.ty → Ready s k 0x283 (linesOf i.toSlots false 0) →
      k.t.checkTile i.a.idx tag 1 = .ok () → k.t.rvtag i.d.idx = (if tagInt tag then 0xE1 else 0xE0) →
      s.vatHere k.t.core k.tid [i.d.idx] = true → ∃ s1 o, Issues (exec (.vatld i) s) s1 k i.hint k.fall
        ∧ EngineTakes s s1 k o true ∧ o.op = 0x283 ∧ o.d = i.d.idx ∧ o.tagA = tag ∧ o.tileA = k.t.tile i.a.idx)
    ∧ (∀ i : RdI, Ready s k 0x284 (linesOf i.toSlots false 0) → s.vatHere k.t.core k.tid [i.a.idx] = true →
      ¬ (tagInt (tagOf i.ty i.var.toNat) = true ∧ tagInt (k.t.rvtag i.a.idx) = true ∧ rndCode i.rnd ≠ 0) →
      ∃ s1 o, Issues (exec (.vatst i) s) s1 k i.hint k.fall ∧ EngineTakes s s1 k o true ∧ o.op = 0x284 ∧ o.a = i.a.idx
        ∧ o.d = i.d.idx ∧ o.tagA = tagOf i.ty i.var.toNat)
    ∧ (∀ i : RdI, Ready s k 0x285 (linesOf i.toSlots false 0) → s.vatHere k.t.core k.tid [i.d.idx] = true →
      ∃ s1 o, Issues (exec (.vatclr i) s) s1 k i.hint k.fall ∧ EngineTakes s s1 k o true ∧ o.op = 0x285 ∧ o.d = i.d.idx
        ∧ o.tagA = if i.var = 0 then 0xE0 else 0xE1)
    ∧ (∀ i : RdI, Ready s k 0x286 (linesOf i.toSlots false 0) → s.vatHere k.t.core k.tid [i.a.idx, i.d.idx] = true →
      ∃ s1 o, Issues (exec (.vatcp i) s) s1 k i.hint k.fall ∧ EngineTakes s s1 k o true ∧ o.op = 0x286 ∧ o.d = i.d.idx
        ∧ o.a = i.a.idx)
    ∧ (∀ i : FnI, Ready s k 0x287 (linesOf i.toSlots false 0) →
      tagWidth (k.t.rmtag i.a.idx) = tagWidth (16 * tyCode i.ty) → ∃ s1 o, Issues (exec (.mtrans i) s) s1 k i.hint k.fall
        ∧ EngineTakes s s1 k o true ∧ o.op = 0x287 ∧ o.d = i.d.idx ∧ o.tileA = k.t.tile i.a.idx)
    ∧ (∀ i : RdI, Ready s k 0x288 ((linesOf i.toSlots false 0).1,
        (linesOf i.toSlots false 0).2 ++ (List.range 64).map (64 * (i.d.idx + 1) + ·)) →
      k.t.checkTile i.a.idx (i.imm.toNat % 256) 1 = .ok () → ∃ s1 o, Issues (exec (.mscale i) s) s1 k i.hint k.fall
        ∧ EngineTakes s s1 k o true ∧ o.op = 0x288 ∧ o.d = i.d.idx ∧ o.tileA = k.t.tile i.a.idx)

/-- cvsign (13 R287): lanes that are declared and have not signed leave the declared set; where the signed lanes are then
all of it, the register clears, its phase flips and the recorded operation issues. -/
def LeavesRun : Prop :=
  ∀ (s : State) (k : Iss) (i : Slots) (c : Cv), Ready s k 0x04A (s.leaveLines i.d.idx) → c = k.t.cv i.d.idx →
    k.threads &&& ~~~c.declared = 0 → k.threads &&& c.signed = 0 →
    ((c.word = none ∨ c.signed ≠ c.declared &&& ~~~k.threads) →
      ∃ s1 t1, Issues (exec (.cvsign i) s) s1 k i.hint k.fall ∧ s1.team? k.tid = some t1
        ∧ t1.cv i.d.idx = { c with declared := c.declared &&& ~~~k.threads })
    ∧ ∀ w r g da db, c.word = some w → c.signed = c.declared &&& ~~~k.threads → r = rawOf w.toNat →
      g = (k.t.groups[c.last]?).getD k.gr → g.descNow r.a 2 = .ok da → g.descNow r.b 3 = .ok db →
      k.t.checkDesc (r.op == 0x281 && satF r == 1) da = .ok () → k.t.checkDesc (r.op == 0x281 && satF r == 1) db = .ok () →
      ocOf k.gr.ops .mtx < 63 → s.vatHere k.t.core k.tid [r.d % 16] = true →
      ∃ s1 t1 o, Issues (exec (.cvsign i) s) s1 k i.hint k.fall ∧ EngineTakes s s1 k o true ∧ s1.team? k.tid = some t1
        ∧ t1.cv i.d.idx = { c with declared := c.declared &&& ~~~k.threads, signed := 0, word := none, phase := !c.phase }
        ∧ o.descA = da ∧ o.descB = db

/-- mma, mmab and their signatures; vatld, vatst, vatclr, vatcp, mtrans, mscale, cvsign (R359-R363, 13 R287). -/
def Obligations.MatrixIssue : Prop := Signing ∧ MatrixIssueRun ∧ LeavesRun

/-- Row 0xB at issue (R366-R374): each instruction whose addresses lie in the team's own allocation and whose values are in
range takes its place in the engine order; a band with HI below LO traps with DETAIL 2. -/
def Obligations.WavefrontIssue : Prop :=
  ∀ (s : State) (k : Iss) (i : Slots),
    (Ready s k 0x2C1 (linesOf i false 0) → ∀ r, s.readRec k (k.gr.rs i.a.idx).toNat 576 64 true = .ok r →
      (r.1 = none → exec (.wfcfg i) s = .next (r.2.bail k (.hold gatherHold)))
      ∧ ∀ bs, r.1 = some bs → ruleBad bs = false → ∃ s1 o, Issues (exec (.wfcfg i) s) s1 k i.hint k.fall
        ∧ EngineTakes r.2 s1 k o false ∧ o.op = 0x2C1 ∧ o.rule = bs)
    ∧ (Ready s k 0x2C2 (linesOf i false 0) →
      let lo := (k.gr.rs i.a.idx).setWidth 32
      let hi := (k.gr.rs i.a.idx >>> 32).setWidth 32
      (lo.toInt ≤ hi.toInt → ∃ s1 o, Issues (exec (.wfband i) s) s1 k i.hint k.fall ∧ EngineTakes s s1 k o false
        ∧ o.op = 0x2C2 ∧ o.sv = [k.gr.rs i.a.idx])
      ∧ (hi.toInt < lo.toInt →
        exec (.wfband i) s = .next (s.raise k.tid k.g k.e 3 2 (k.gr.rs i.a.idx).toNat k.e.mask).done))
    ∧ (Ready s k 0x2C3 (linesOf i false 0) → ocOf k.gr.ops .mtx < 63 → k.t.wave.issuedRule = true →
      k.t.ownAddr (k.gr.rs i.a.idx) 1216 64 = .ok () → k.t.ownAddr (k.gr.rs i.b.idx) 4096 32 = .ok () →
      ∃ s1 o, Issues (exec (.wfrun i) s) s1 k i.hint k.fall ∧ EngineTakes s s1 k o true ∧ o.op = 0x2C3
        ∧ o.sv = [k.gr.rs i.a.idx, k.gr.rs i.b.idx])
    ∧ (Ready s k 0x2C4 (linesOf i false 0) → ocOf k.gr.ops .mtx < 63 → (k.t.wave.issuedRule = true ∨ 2 ≤ i.imm.toNat % 4) →
      k.t.ownAddr (k.gr.rs i.d.idx) 1216 64 = .ok () →
      (2 ≤ i.imm.toNat % 4 → k.t.ownAddr (k.gr.rs i.a.idx) 1216 64 = .ok ()) →
      ∃ s1 o, Issues (exec (.wfedge i) s) s1 k i.hint k.fall ∧ EngineTakes s s1 k o true ∧ o.op = 0x2C4
        ∧ o.imm = i.imm.toNat % 4)
    ∧ (Ready s k 0x2C5 (linesOf i false 0) → ocOf k.gr.ops .mtx < 63 → (k.gr.rs i.b.idx).toNat < 2 ^ 16 → (k.gr.rs i.b.idx).toNat % 256 ≤ 127 →
      (k.gr.rs i.b.idx).toNat / 256 ≤ 127 → k.t.ownAddr (k.gr.rs i.d.idx) 72 8 = .ok () →
      k.t.ownAddr (k.gr.rs i.a.idx) 4096 32 = .ok () → ∃ s1 o, Issues (exec (.tbwalk i) s) s1 k i.hint k.fall
        ∧ EngineTakes s s1 k o true ∧ o.op = 0x2C5)
    ∧ (Ready s k 0x2C6 (linesOf i false 1) → ocOf k.gr.ops .mtx < 63 → ∃ s1 o, Issues (exec (.wfscore i) s) s1 k i.hint k.fall
        ∧ EngineTakes s s1 k o true ∧ o.op = 0x2C6 ∧ o.d = i.d.idx)

/-- Row r of operand A and of operand B of an operation: of the tile it read, or of its descriptor's bytes (R356). -/
def rowA (o : MxOp) (s : State) (r : Nat) : Nat := o.row s o.tileA o.descA r
def rowB (o : MxOp) (s : State) (r : Nat) : Nat := o.row s o.tileB o.descB r

/-- A cell of an integer tile product (R358, 04 R106): the old cell plus the exact sum of the products of row i of A and
row j of B, saturated once to 48 bits. -/
def IntegerProduct : Prop :=
  ∀ (o : MxOp) (s : State) (t : Team) (i j : Nat), i < 128 → j < 128 → o.flag = false →
    tagInt o.tagA = true → tagInt o.tagB = true → tagWidth o.tagB = tagWidth o.tagA →
    (o.product s t).1.getD (128 * i + j) 0 = (fitInt 0xE1 true (sextI 48 (o.old t i j)
      + ((List.range (512 / tagWidth o.tagA)).map fun x =>
          (intOf o.tagA (elemAt (tagWidth o.tagA) (rowA o s i) x)).1
            * (intOf o.tagB (elemAt (tagWidth o.tagA) (rowB o s j) x)).1).sum)).1

/-- A cell of a float tile product, and of one under block scales (R358, 04 R103-R105): the exact sum of the products of row
i of A and row j of B, each under the scales of its blocks where SC is set, and the old cell, rounded once into FP48. -/
def FloatProduct : Prop :=
  ∀ (o : MxOp) (s : State) (t : Team) (i j : Nat), i < 128 → j < 128 → (tagInt o.tagA = false ∨ o.flag = true) →
    tagWidth o.tagB = tagWidth o.tagA → 4 ≤ tagWidth o.tagA →
    (o.product s t).1.getD (128 * i + j) 0 = (cellFloat o.rnd (o.old t i j)
      ((List.range (512 / tagWidth o.tagA)).map fun x =>
        let p := mulE (tagInt o.tagA) (elemVal o.tagA (elemAt (tagWidth o.tagA) (rowA o s i) x)).1
          (elemVal o.tagB (elemAt (tagWidth o.tagA) (rowB o s j) x)).1
        if o.flag then scaleX p (o.scale s o.scaleA o.descA i (x / 32)) (o.scale s o.scaleB o.descB j (x / 32)) else p)).1

/-- A cell of a binary product (R360): the old cell plus the number of bits at which row i of A and row j of B are both 1, or
differ, saturated once to 48 bits. -/
def BinaryProduct : Prop :=
  ∀ (o : MxOp) (s : State) (t : Team) (i j : Nat), i < 128 → j < 128 →
    (o.binary s t).1.getD (128 * i + j) 0 = (fitInt 0xE1 true (sextI 48 (o.old t i j)
      + (((List.range 512).filter fun n => if o.flag then (rowA o s i).testBit n && (rowB o s j).testBit n
          else (rowA o s i).testBit n != (rowB o s j).testBit n).length : Nat))).1

/-- One cell of a wavefront tile (R370, 08 R196): inside the block and the band, under maximum without a floor, the greatest
of the three saturated candidates, with the code of the first that equals it, diagonal, then up, then left; elsewhere the
worst score and code 3. -/
def WavefrontCell : Prop :=
  ∀ (x : WfIn) (i j : Nat) (up left dg : Int), ruleSel x.rule = false → ruleFloor x.rule = false →
    let d := sat16 (dg + s16At x.rule (0x40 + 2 * (16 * x.sym 0 i + x.sym 0x40 j)))
    let u := sat16 (up + s16At x.rule 6)
    let l := sat16 (left + s16At x.rule 4)
    (i < x.nr → j < x.nc → x.inBand (x.row0 + i) (x.col0 + j) = true →
      (x.cell i j up left dg).h = max d (max u l) ∧ (x.cell i j up left dg).comp = true
      ∧ (max u l ≤ d → (x.cell i j up left dg).code = 0)
      ∧ (d < max u l → bits (u32At x.rule 0) 3 2 = 0 → (x.cell i j up left dg).code = if l ≤ u then 1 else 2)
      ∧ (d < max u l → bits (u32At x.rule 0) 3 2 ≠ 0 → (x.cell i j up left dg).code = if u ≤ l then 2 else 1))
    ∧ ((x.nr ≤ i ∨ x.nc ≤ j ∨ x.inBand (x.row0 + i) (x.col0 + j) = false) →
      x.cell i j up left dg = ⟨-32768, 3, false, false⟩)

/-- A traceback walk (R373) from a cell of the plane: at each cell whose code is no none it takes that code and goes up, left or
both; it ends outside the plane or at a none, and its record says how many steps it took, where it stands, how it ended and
each code. -/
def TracebackWalk : Prop :=
  ∀ (pl : List Byte) (i j : Nat), i < 128 → j < 128 → ∃ (codes : List Nat) (pos : Nat → Int × Int),
    pos 0 = ((i : Int), (j : Int)) ∧ codes.length ≤ 255
    ∧ (∀ n < codes.length, 0 ≤ (pos n).1 ∧ 0 ≤ (pos n).2 ∧ codes.getD n 3 = planeCode pl (pos n).1 (pos n).2 ∧ codes.getD n 3 ≠ 3
        ∧ pos (n + 1) = ((pos n).1 - (if codes.getD n 3 = 2 then 0 else 1), (pos n).2 - (if codes.getD n 3 = 1 then 0 else 1)))
    ∧ ∀ p, p = pos codes.length →
      (p.1 < 0 ∨ p.2 < 0 ∨ planeCode pl p.1 p.2 = 3)
      ∧ ∀ r, r = walkRecord pl (i + 256 * j) → r.length = 72
        ∧ ofBytes (r.take 8) = codes.length + 2 ^ 16 * wrapI 8 p.1 + 2 ^ 24 * wrapI 8 p.2 + 2 ^ 32 * (if p.1 < 0 then 1 else 0)
            + 2 ^ 33 * (if p.2 < 0 then 1 else 0) + 2 ^ 34 * (if 0 ≤ p.1 ∧ 0 ≤ p.2 then 1 else 0)
        ∧ ∀ m < 256, elemAt 2 (ofBytes (r.drop 8)) m = codes.getD m 0

/-- A cell of an integer (R358, 04 R106), a float (04 R103-R105) and a binary product (R360), a cell of a wavefront tile (R370,
08 R196) and a walk (R373). -/
def Obligations.EngineArithmetic : Prop := IntegerProduct ∧ FloatProduct ∧ BinaryProduct ∧ WavefrontCell ∧ TracebackWalk

/-- MATRIX_OP_COMPLETE (10 R239, R354): the head of a core's engine order may read sectors of its operands early, once each and
only in lines that are filled, as their bytes then are; and, all of them read, it may write sectors of its traceback early. -/
def EngineReads : Prop :=
  ∀ (s : State) (core : Nat) (o : MxOp) (rest : List MxOp) (t : Team) (secs : List Nat), (s.core core).engine = o :: rest →
    s.team? o.tid = some t → secs ≠ [] → t.sectorsFilled secs = true → (∀ x ∈ secs, x < 2 ^ 32) →
    ((∀ x ∈ secs, x ∈ o.reads ∧ x ∉ o.captured) → ∃ s1 o1, exec (.matrixOpComplete core secs false) s = .next s1
      ∧ s1.teams = s.teams ∧ (s1.core core).engine = o1 :: rest ∧ o1.captured = o.captured ++ secs
      ∧ ∀ x ∈ secs, SMap.get 0#256 o1.capt x = BitVec.ofNat 256 (ofBytes (s.spadBytes o.tid (32 * x) 32)))
    ∧ ((∀ x ∈ o.reads, x ∈ o.captured) → (o.traceback s t).2 ≠ [] →
        (∀ x ∈ secs, x ∈ sectorsOf (o.traceback s t).1 (o.traceback s t).2.length ∧ x ∉ o.wrote) →
      Completes (exec (.matrixOpComplete core (secs.map fun x => x + 2 ^ 40) false) s))

/-- MATRIX_OP_COMPLETE (10 R239): the head of a core's engine order, with its registers and lines at hand, completes and
leaves the order, and a vatld that is then the head reads its tile (16 R361); vatclr leaves a tile of zeros, vatcp a copy,
wfband its band, wfscore its two registers. -/
def EngineEnds : Prop :=
  ∀ (s : State) (core : Nat) (o : MxOp) (rest : List MxOp) (t : Team), (s.core core).engine = o :: rest →
    s.team? o.tid = some t → s.errs = [] → s.vatHere core o.tid o.vats = true →
    (∀ d ∈ o.dests, s.destHere o.tid o.g d false = true) → t.sectorsFilled (o.reads ++ o.writes) = true →
    ∃ s1, exec (.matrixOpComplete core [] true) s = .next s1
      ∧ ((∀ x more, rest = x :: more → x.op ≠ 0x283) → (s1.core core).engine = rest)
      ∧ (∀ x more, rest = x :: more → x.op = 0x283 → ∀ t1, s1.team? x.tid = some t1 →
          (s1.core core).engine = { x with tileA := t1.tile x.a } :: more)
      ∧ (o.op = 0x285 → ∀ t1, s1.team? o.tid = some t1 → o.tagA < 256 →
          t1.rvtag o.d = o.tagA ∧ ∀ x < 16384, SMap.get 0#48 t1.vat (16384 * o.d + x) = 0)
      ∧ (o.op = 0x286 → ∀ t1, s1.team? o.tid = some t1 → SMap.ok 0#48 t.vat = true →
          ∀ x < 16384, SMap.get 0#48 t1.vat (16384 * o.d + x) = SMap.get 0#48 t.vat (16384 * o.a + x))
      ∧ (o.op = 0x2C2 → ∀ t1, s1.team? o.tid = some t1 → t1.wave.lo = (o.sv.getD 0 0).setWidth 32
          ∧ t1.wave.hi = (o.sv.getD 0 0 >>> 32).setWidth 32)
      ∧ (o.op = 0x2C6 → ∀ g1 g0, s1.group? o.tid o.g = some g1 → s.group? o.tid o.g = some g0 →
          g1.rs o.d = (t.wave.score (bit o.imm 0)).1 ∧ g1.rs (o.d + 1) = (t.wave.score (bit o.imm 0)).2)

/-- vatld (R361): the column block takes the elements of the tile, converted; the other cells and the tag stay. -/
def VatLoaded (o : MxOp) (t t1 : Team) : Prop :=
  ∀ w n lo, w = tagWidth o.tagA → n = 512 / w → lo = n * (o.imm % 16) → t1.rvtag o.d = t.rvtag o.d
    ∧ ∀ r < 128, ∀ j < 128, SMap.get 0#48 t1.vat (16384 * o.d + 128 * r + j) =
      if lo ≤ j ∧ j < lo + n then BitVec.ofNat 48 (convert o.tagA (if tagInt o.tagA then 0xE1 else 0xE0) 0 false 0
          (elemAt w (SMap.get 0#512 o.tileA r).toNat (j - lo))).1
      else SMap.get 0#48 t.vat (16384 * o.d + 128 * r + j)

/-- vatst (R361): every element of the tile is the column block's cell, converted once; the tile's tag is the target's. -/
def VatStored (o : MxOp) (t t1 : Team) : Prop :=
  ∀ w n, w = tagWidth o.tagA → n = 512 / w → t1.rmtag o.d = o.tagA % 256
    ∧ ∀ r < 128, ∀ c < n, elemAt w (t1.row o.d r).toNat c = (convert (t.rvtag o.a) o.tagA o.rnd o.flag 0
        (SMap.get 0#48 t.vat (16384 * o.a + 128 * r + n * (o.imm % 16) + c)).toNat).1 % 2 ^ w

/-- mtrans (R362): block SUB div 4 of D is block SUB mod 4 of the tile that it read, transposed; the other rows stay. -/
def Transposed (o : MxOp) (t t1 : Team) : Prop :=
  ∀ w c lo, w = tagWidth o.tagA → c = 512 / w → lo = c * (o.md / 4) → t1.rmtag o.d = o.tagB % 256
    ∧ ∀ r < 128, (lo ≤ r ∧ r < lo + c → ∀ k < c, elemAt w (t1.row o.d r).toNat k =
        elemAt w (SMap.get 0#512 o.tileA (c * (o.md % 4) + k)).toNat (r - lo))
      ∧ (r < lo ∨ lo + c ≤ r → t1.row o.d r = t.row o.d r)

/-- One element of mscale under the row's scale code (R363): a NaN under 0xFF, else the value times 2^(127 - E), converted. -/
def quantised (o : MxOp) (e : Nat) (v : FVal) : Nat :=
  let x := if e = 255 then .nan false else match v with | .num s m g => .num s m (g + 127 - (e : Int)) | y => y
  if tagInt o.tagB then (floatToInt o.tagB o.rnd 0 x).1 else (deliver (fmtOf o.tagB) o.rnd o.flag 0 x.toX.1).1

/-- mscale (R363): the scale code of each row is that of an element of greatest magnitude; the block of D takes the row's
elements under it, byte h of the row of the next tile the code; every other byte of both tiles stays. -/
def Quantised (o : MxOp) (t t1 : Team) : Prop :=
  ∀ w h, w = tagWidth o.tagB → h = bits o.imm 9 8 → (w = 4 ∧ h < 4 ∨ w = 8 ∧ h < 2) →
    t1.rmtag o.d = o.tagB % 256 ∧ t1.rmtag (o.d + 1) = 0x71
    ∧ ∀ r < 128, ∀ xs, xs = elemsOf 16 32 (SMap.get 0#512 o.tileA r).toNat → ∃ top e, top ∈ xs
      ∧ (∀ c ∈ xs, magAbove (fdecode (fmtOf o.tagA) c) (fdecode (fmtOf o.tagA) top) = false)
      ∧ e = (sclElem o.tagB o.tagA top).1
      ∧ (∀ k < 32, elemAt w (t1.row o.d r).toNat (32 * h + k) = quantised o e (fdecode (fmtOf o.tagA) (xs.getD k 0)) % 2 ^ w)
      ∧ byteAt (t1.row (o.d + 1) r).toNat h = BitVec.ofNat 8 e
      ∧ ∀ b < 64, ((b < 4 * w * h ∨ 4 * w * (h + 1) ≤ b) → byteAt (t1.row o.d r).toNat b = byteAt (t.row o.d r).toNat b)
        ∧ (b ≠ h → byteAt (t1.row (o.d + 1) r).toNat b = byteAt (t.row (o.d + 1) r).toNat b)

/-- The score that a .top or .left edge takes at a global cell (R372): the bound, or the worst outside the band. -/
def edgeScore (w : Wave) (gi gj x : Int) : Nat :=
  wrapI 16 (if w.lo.toInt ≤ gj - gi ∧ gj - gi ≤ w.hi.toInt then wfBound w.rule x else ruleWorst w.rule)

/-- wfedge (R372): the edge that each form writes, and the corner; the rest of the block stays. -/
def EdgeWritten (o : MxOp) (s s1 : State) (t : Team) : Prop :=
  ∀ (a b : Nat) (row col : Int) (at_ : Nat → Nat), a = o.spadAt 0 → b = o.spadAt 1 →
    row = ofBytes (o.bytes s (a + 0x284) 4) → col = ofBytes (o.bytes s (a + 0x288) 4) →
    (∀ n, at_ n = ofBytes (s1.spadBytes o.tid (a + n) 2)) →
    (o.imm = 0 → at_ 0x280 = edgeScore t.wave (-1) (col - 1) (col * s16At t.wave.rule 4)
      ∧ ∀ j : Nat, j < 128 → at_ (0x80 + 2 * j) = edgeScore t.wave (-1) (col + j) ((col + j + 1) * s16At t.wave.rule 4))
    ∧ (o.imm = 1 → at_ 0x280 = edgeScore t.wave (row - 1) (-1) (row * s16At t.wave.rule 6)
      ∧ ∀ i : Nat, i < 128 → at_ (0x180 + 2 * i) = edgeScore t.wave (row + i) (-1) ((row + i + 1) * s16At t.wave.rule 6))
    ∧ (o.imm = 2 → s1.spadBytes o.tid (a + 0x80) 256 = o.bytes s (b + 0x2C0) 256
      ∧ s1.spadBytes o.tid (a + 0x280) 2 = o.bytes s (b + 0x180 + 2 * (ofBytes (o.bytes s (b + 0x280) 4) / 2 ^ 16 % 256)) 2)
    ∧ (o.imm = 3 → s1.spadBytes o.tid (a + 0x180) 256 = o.bytes s (b + 0x3C0) 256
      ∧ s1.spadBytes o.tid (a + 0x280) 2 = o.bytes s (b + 0x80 + 2 * (ofBytes (o.bytes s (b + 0x280) 4) / 2 ^ 24)) 2)
    ∧ ∀ x, (x < a + 0x80 ∨ a + 0x282 ≤ x) → s1.spadBytes o.tid x 1 = s.spadBytes o.tid x 1

/-- What mma, mmab, vatld, vatst, mtrans, mscale, wfedge and tbwalk leave (R358-R363, R372, R373): a product's cells are
those of EngineArithmetic, and a walk's record is its. -/
def EngineResults : Prop :=
  ∀ (s : State) (core : Nat) (o : MxOp) (rest : List MxOp) (t : Team), (s.core core).engine = o :: rest →
    s.team? o.tid = some t → s.errs = [] → s.vatHere core o.tid o.vats = true →
    (∀ d ∈ o.dests, s.destHere o.tid o.g d false = true) → t.sectorsFilled (o.reads ++ o.writes) = true → o.wrote = [] →
    ∃ s1 t1, exec (.matrixOpComplete core [] true) s = .next s1 ∧ s1.team? o.tid = some t1
      ∧ (o.op = 0x281 → t1.rvtag o.d = mxReq 0x281 o.tagA o.flag ∧ ∀ n < 16384,
          SMap.get 0#48 t1.vat (16384 * o.d + n) = BitVec.ofNat 48 ((o.product s t).1.getD n 0))
      ∧ (o.op = 0x282 → t1.rvtag o.d = 0xE1 ∧ ∀ n < 16384,
          SMap.get 0#48 t1.vat (16384 * o.d + n) = BitVec.ofNat 48 ((o.binary s t).1.getD n 0))
      ∧ (o.op = 0x283 → VatLoaded o t t1) ∧ (o.op = 0x284 → VatStored o t t1) ∧ (o.op = 0x287 → Transposed o t t1)
      ∧ (o.op = 0x288 → Quantised o t t1) ∧ (o.op = 0x2C4 → EdgeWritten o s s1 t)
      ∧ (o.op = 0x2C5 → s1.spadBytes o.tid (o.spadAt 0) 72
          = walkRecord (o.bytes s (o.spadAt 1) 4096) (o.sv.getD 2 0).toNat)

/-- MATRIX_OP_COMPLETE: early reads and writes, completion in the engine's order, and results (10 R239, R354-R373). -/
def Obligations.EngineCompletes : Prop := EngineReads ∧ EngineEnds ∧ EngineResults

/-! ## Rows 0xC and 0xE: copies and the transfer processor (17 R375-R396) -/

/-- A copy c has entered the engine of the group's core and its counter; nothing of it has been read or written. -/
def CopyStarts (s s1 : State) (k : Iss) (cls : OpClass) (c : CopyOp) : Prop :=
  (s1.core k.t.core).copies = (s.core k.t.core).copies ++ [c] ∧ c.tid = k.tid ∧ c.g = k.g ∧ c.cls = cls ∧ c.dx = false
    ∧ c.plan = none ∧ c.wrote = [] ∧ (s1.group? k.tid k.g).map Group.ops = some (k.gr.ops ++ [⟨c.opId, cls, false⟩])
    ∧ ∀ tid off n, s1.spadBytes tid off n = s.spadBytes tid off n

/-- cpyt (R375-R379): a record that breaks no rule, whose local side is inside the allocation and aligned, either starts a
copy of the box's bytes or, with an ENTRY, posts a command of seven words to the transfer processor. -/
def TensorCopies : Prop :=
  ∀ (s : State) (k : Iss) (i : Slots), Ready s k 0x301 (linesOf i false 2) → ocOf k.gr.ops .cpy < 63 →
    ∀ bs s0, s.readRec k (k.gr.rs i.a.idx).toNat 64 64 false = .ok (some bs, s0) → (tensorRec bs).bad = false →
    cpytShape i k (tensorRec bs) = .ok () →
    (∀ l, i.d.isM = true ∨ s0.copyLocal k (k.localBase i.d) (tensorRec bs).bytes (if (tensorRec bs).swz = 0 then 32 else 128) = .ok l →
      ((tensorRec bs).entry = 0 → ∀ r, s0.copyBar k (k.gr.rs (i.a.idx + 1)).toNat = .ok r →
        ∃ s1 c, Issues (exec (.cpyt i) s) s1 k i.hint k.fall ∧ CopyStarts s s1 k .cpy c ∧ c.size = (tensorRec bs).bytes
          ∧ c.bar = (k.gr.rs (i.a.idx + 1)).toNat
          ∧ c.spec = .tensor bs (k.gr.coords i.b.idx) (bit i.imm.toNat 0) (if i.d.isM then some i.d.idx else none)
              (k.localBase i.d) (if i.d.isM && bit i.imm.toNat 0 then k.t.tile i.d.idx else []))
      ∧ ((tensorRec bs).entry ≠ 0 → i.d.isM = false → (k.gr.rs (i.a.idx + 1)).toNat % 16 = 0 →
        (s.core k.t.core).dxp.cmds.length < 16 → ∃ s1 c, Issues (exec (.cpyt i) s) s1 k i.hint k.fall
          ∧ (s1.core k.t.core).dxp.cmds = (s.core k.t.core).dxp.cmds ++ [c] ∧ c.tid = k.tid ∧ c.words.length = 7
          ∧ c.entry = BitVec.ofNat 64 (tensorRec bs).entry))

/-- cpyg, cpys (R381), with the index register under tag 0x10 and a control word that breaks no rule: a copy of the active
lanes' rows starts, to or from a tile register or a scratchpad range that lies in an allocation, aligned to 32. -/
def GatherScatter : Prop :=
  ∀ (s : State) (k : Iss) (i : Slots) (op : Nat) (sc : Bool) (con : Slots → Instr) (a : BitVec 8),
    (op, sc, con) ∈ [(0x302, false, Instr.cpyg), (0x303, true, Instr.cpys)] → Ready s k op (linesOf i false 2) →
    i.a = .v a → tagMatch 0x10 (k.gr.rtag a.toNat) = true →
    ∀ x, x = (k.gr.rs (i.b.idx + 2)).toNat → bits x 55 48 = 0 → bits x 47 32 % 2 = 0 → tagDefined (bits x 63 56) = true →
    bits x 63 56 ≠ 0xE0 → bits x 63 56 ≠ 0xE1 →
    (i.d.isM = true → sc = true → k.t.checkTile i.d.idx (bits x 63 56) 3 = .ok ()) →
    (i.d.isM = false → k.localBase i.d % 32 = 0 ∧
      ∀ p ∈ s.rowPlaces k (k.localBase i.d) (32 * (i.imm.toNat % 16 + 1)), p.2.isSome = true) →
    ∀ r, s.copyBar k (k.gr.rs (i.b.idx + 1)).toNat = .ok r → (k.gr.rs i.b.idx).toNat % 32 = 0 →
    ocOf k.gr.ops (if sc then .cpy else .gth) < 63 →
    ∃ s1 c, Issues (exec (con i) s) s1 k i.hint k.fall ∧ CopyStarts s s1 k (if sc then .cpy else .gth) c
      ∧ c.size = (lanesOf k.e.mask).length * (32 * (i.imm.toNat % 16 + 1)) ∧ c.bar = (k.gr.rs (i.b.idx + 1)).toNat

/-- cpyt, cpyg, cpys start their copies (R375-R381). -/
def Obligations.Copies : Prop := TensorCopies ∧ GatherScatter

/-- dxrun and dxsig (R383, R384): dxrun posts a command; dxsig with no program of the team answers 1, and with one running
stops it with a software fault and answers 0; it always completes. -/
def Obligations.DxpCommands : Prop :=
  ∀ (s : State) (k : Iss) (i : Slots),
    (Ready s k 0x304 (linesOf i false 0) → ocOf k.gr.ops .cpy < 63 → (s.core k.t.core).dxp.cmds.length < 16 →
      ∃ s1 c, Issues (exec (.dxrun i) s) s1 k i.hint k.fall
        ∧ (s1.core k.t.core).dxp.cmds = (s.core k.t.core).dxp.cmds ++ [c] ∧ c.entry = k.gr.rs i.a.idx ∧ c.tid = k.tid
        ∧ (s1.group? k.tid k.g).map Group.ops = some (k.gr.ops ++ [⟨c.opId, .cpy, false⟩]))
    ∧ (Ready s k 0x305 (linesOf i false 0) → ∃ s1, Issues (exec (.dxsig i) s) s1 k i.hint k.fall)
    ∧ (Ready s k 0x305 (linesOf i false 0) → (s.core k.t.core).dxp.run = none →
      (∀ c ∈ (s.core k.t.core).dxp.cmds, c.tid ≠ k.tid) → ∃ s1, Issues (exec (.dxsig i) s) s1 k i.hint k.fall
        ∧ s1.group? k.tid k.g = some (k.gr.ws i.d.idx 1))
    ∧ (Ready s k 0x305 (linesOf i false 0) → ∀ r, (s.core k.t.core).dxp.run = some r → r.cmd.tid = k.tid → r.ending = none →
      r.stop = none → ∃ s1, Issues (exec (.dxsig i) s) s1 k i.hint k.fall ∧ s1.group? k.tid k.g = some (k.gr.ws i.d.idx 0)
        ∧ ((s1.core k.t.core).dxp.run.bind fun x => x.stop) = some ⟨15, i.imm.toNat % 256, 0⟩)

/-- The events of a copy (R377, R382), in the moves that the model cuts it into (DESIGN CHOICE, log 14): the first sector
writes make the checking pass; after it a sector that is not yet written, whose places and barrier are at hand, is asked for
or, its bytes here, written; a copy whose sectors are all written and acknowledged leaves the engine and, without a barrier,
its operation completes. -/
def CopyEventsRun : Prop :=
  ∀ (s : State) (core id : Nat) (o : CopyOp) (t : Team), s.copy? core id = some o → s.team? o.tid = some t → s.src? id = none →
    (o.failed = none → o.plan = none → (s.core core).held = [] → ∀ sector ro,
      (o.draft.length ≤ sector → sector < o.nsec) → Completes (exec (.copySectorWrite core id sector ro) s))
    ∧ (o.failed = none → ∀ plan sector bs, o.plan = some plan → sector < plan.length → sector ∉ o.wrote →
      bs = (o.unit sector).flatMap (fun u => plan.getD u []) → s.plannedHere bs = true →
      (∀ m, o.tileDst = some m → s.destHere o.tid o.g (.m (BitVec.ofNat 4 m)) false = true) →
      (o.unasked bs = true → Completes (exec (.copySectorWrite core id sector true) s))
      ∧ (s.barHere o = true → (o.unasked bs = true ∨ ∀ b ∈ bs, ∀ n ∈ b.needs o.bitwise, o.have_ n.1.sectorKey = true) →
        Completes (exec (.copySectorWrite core id sector false) s)))
    ∧ (o.failed = none → ∀ plan, o.plan = some plan → o.acks = [] → plan.length ≤ o.wrote.length →
      ∃ s1, exec (.copyComplete core id) s = .next s1 ∧ (∀ c ∈ (s1.core core).copies, c.id ≠ id)
        ∧ (o.dx = false → o.named = false → ∀ g1 g0, s.group? o.tid o.g = some g0 → s1.group? o.tid o.g = some g1 →
          g1 = g0.endOp o.opId))
    ∧ ∀ tr, o.failed = some tr → o.acks = [] → Completes (exec (.copyComplete core id) s)

/-- DXP_PROGRAM_START and DXP_DRAIN_TIMEOUT (R385, R396): an idle transfer processor takes its oldest command, with every
d register and loop count 0 and the PC at the command's entry; a program that has not ended 1,000 real ticks after its
context was stopped, one that waits at its dend for its transfers too, takes a software fault. -/
def DxpStartAndDrain : Prop :=
  ∀ (s : State) (core : Nat),
    (∀ cmd rest t, (s.core core).dxp.run = none → (s.core core).dxp.cmds = cmd :: rest → s.team? cmd.tid = some t →
      s.stopped t.part t.ctx = false → (s.core core).held = [] → ∃ s1, exec (.dxpProgramStart core) s = .next s1
        ∧ (cmd.entry.toNat < 2 ^ 56 → cmd.entry.toNat % 4 = 0 → (s1.core core).dxp =
          { (s.core core).dxp with cmds := rest, run := some ⟨cmd, none, none, none⟩, d := [], loops := []
                                   pc := cmd.entry.setWidth 56 }))
    ∧ ∀ r t st, (s.core core).dxp.run = some r → s.team? r.cmd.tid = some t → (s.ctx t.part t.ctx).stop = some st →
      (∀ tr, r.ending ≠ some (some tr)) → 65536000 ≤ (s.rclk - st.opened).toNat → ∃ s1, exec (.dxpDrainTimeout core) s = .next s1
        ∧ ((s.core core).dxfers = [] → (s1.core core).dxp.run = none)

/-- The events of a copy, and a program's start and drain (R377, R382, R385, R396). -/
def Obligations.CopyEvents : Prop := CopyEventsRun ∧ DxpStartAndDrain

/-- The transfer processor's instructions (R386-R393): loops, command words, coordinates, branches, calls, returns. -/
def DxpProgramsRun : Prop :=
  ∀ (s : State) (k : Dss) (i : Slots), ReadyDxp s k →
    (∀ n, n = k.x.val i.a →
      (n = 0 → IssuesDxp (exec (.dloop i) s) s k.core (dxOff k.x.pc i.imm))
      ∧ (0 < n → n < 2 ^ 32 → ∃ x1, IssuesDxp (exec (.dloop i) s) (s.modDxp k.core fun _ => x1) k.core (k.x.pc + 12)
        ∧ SMap.get 0#32 x1.loops (i.imm.toNat / 2 ^ 29) = BitVec.ofNat 32 n)
      ∧ (2 ^ 32 ≤ n → exec (.dloop i) s = .next (s.dxFault k.core ⟨3, 2, n⟩).done))
    ∧ (∀ n, n = SMap.get 0#32 k.x.loops (i.imm.toNat / 2 ^ 29) →
      (n = 0 → exec (.dnext i) s = .next (s.dxFault k.core ⟨3, 5, i.imm.toNat⟩).done)
      ∧ (n ≠ 0 → ∃ x1, IssuesDxp (exec (.dnext i) s) (s.modDxp k.core fun _ => x1) k.core
          (if n = 1 then k.x.pc + 12 else dxOff k.x.pc i.imm)
        ∧ SMap.get 0#32 x1.loops (i.imm.toNat / 2 ^ 29) = n - 1))
    ∧ (∀ d, i.d = .s d → IssuesDxp (exec (.daddrCmd i) s)
        (s.modDxp k.core fun _ => k.x.wd d.toNat (k.run.cmd.words.getD (i.imm.toNat % 8) 0)) k.core (k.x.pc + 12))
    ∧ (∀ d a, i.d = .s d → i.a = .s a → IssuesDxp (exec (.daddr i) s)
        (s.modDxp k.core fun _ => k.x.wd d.toNat ((List.range (i.imm.toNat % 8)).foldl
          (fun (t : W64) j => t + (((k.x.rd (a.toNat + 2 * j)).setWidth 32).signExtend 64) * k.x.rd (a.toNat + 2 * j + 1))
          (BitVec.ofNat 64 (k.x.val i.b)))) k.core (k.x.pc + 12))
    ∧ (i.a = .nil → IssuesDxp (exec (.dxpBra i) s) s k.core (k.x.pc + i.imm.signExtend 56))
    ∧ (∀ a, i.a = .s a → IssuesDxp (exec (.dxpBra i) s) s k.core
        (if k.x.rd a.toNat ≠ 0 then k.x.pc + i.imm.signExtend 56 else k.x.pc + 12))
    ∧ IssuesDxp (exec (.dxpCall i) s) (s.modDxp k.core fun x => x.wd 31 ((k.x.pc + 12).setWidth 64)) k.core
        (k.x.pc + i.imm.signExtend 56)
    ∧ (k.x.rd 31 ≠ 0 → IssuesDxp (exec (.dxpRet i) s) s k.core ((k.x.rd 31).setWidth 56))
    ∧ (k.x.rd 31 = 0 → (s.core k.core).dxfers = [] → ∃ s1, exec (.dxpRet i) s = .next s1 ∧ (s1.core k.core).dxp.run = none)
    ∧ (k.x.rd 31 = 0 → (s.core k.core).dxfers ≠ [] → ∃ s1, exec (.dxpRet i) s = .next s1
      ∧ (s1.core k.core).dxp.run = some { k.run with ending := some none, hold := none })

/-- didx, dxfer, darrive, dwaitev, dend (R389-R393): didx takes the bytes of its width in scratchpad or in the core's view,
or those that another device has answered, n32, n64 and n16 zero-extended and i32 sign-extended; a program whose transfers
still run ends when they have. -/
def DxpTransfers : Prop :=
  ∀ (s : State) (k : Dss) (i : Slots), ReadyDxp s k →
    (∀ d off va u, i.d = .s d → k.run.hold = none → s.errs = [] → i.imm.toNat / 2 ^ 30 = 0 →
      va = wrapI 64 ((k.x.val i.a : Int) + sextI 28 i.imm.toNat) → s.dxPlace k .load va 4 4 = .ok (.spad u off) →
      s.unfilled [⟨0, va, .spad u off, 4⟩] = none → IssuesDxp (exec (.didx i) s)
        (s.modDxp k.core fun x => x.wd d.toNat (BitVec.ofNat 64 (ofBytes (s.spadBytes u off 4)))) k.core (k.x.pc + 12))
    ∧ (∀ w n va l, k.run.hold = none → s.errs = [] → w = i.imm.toNat / 2 ^ 30 →
      n = (match w with | 2 => 8 | 3 => 2 | _ => 4) → va = wrapI 64 ((k.x.val i.a : Int) + sextI 28 i.imm.toNat) →
      s.dxPlace k .load va n n = .ok l → Loc.dev? l = none → s.unfilled [⟨0, va, l, n⟩] = none →
      ∃ (s1 : State) (bs : List Byte), bs.length = n
        ∧ (∀ u off, l = .spad u off → bs = s.spadBytes u off n)
        ∧ (∀ pa key, l = .mem pa key → pa % 128 + n ≤ 128 →
          (∀ j < n, ∀ m < n, (SMap.get CvByte.absent (s.core k.core).view (pa + j)).present
            = (SMap.get CvByte.absent (s.core k.core).view (pa + m)).present) →
          bs = (List.range n).map fun j => s.cvByte k.core key (pa + j))
        ∧ IssuesDxp (exec (.didx i) s)
        (s1.modDxp k.core fun x => x.wop i.d (if w = 1 then BitVec.ofInt 64 (sextI 32 (ofBytes bs)) else BitVec.ofNat 64 (ofBytes bs)))
        k.core (k.x.pc + 12))
    ∧ (∀ n va l h v, k.run.hold = some h → h.started = true → h.passed = false → h.answer = some v →
      n = (match i.imm.toNat / 2 ^ 30 with | 2 => 8 | 3 => 2 | _ => 4) →
      va = wrapI 64 ((k.x.val i.a : Int) + sextI 28 i.imm.toNat) → s.dxPlace k .load va n n = .ok l →
      IssuesDxp (exec (.didx i) s) (s.modDxp k.core fun x => x.wop i.d (if i.imm.toNat / 2 ^ 30 = 1
          then BitVec.ofInt 64 (sextI 32 (v.toNat % 2 ^ 32)) else BitVec.ofNat 64 (v.toNat % 2 ^ (8 * n)))) k.core (k.x.pc + 12))
    ∧ ((s.core k.core).dxfers.length < 16 → k.x.val i.d % 32 = 0 → (bit i.imm.toNat 8 = true ∨ k.x.val i.a % 32 = 0) →
      (i.b = .nil ∨ ∃ r, s.dxBar k .atomic (k.x.val i.b) 3 = .ok r) → ∃ s1 c, IssuesDxp (exec (.dxfer i) s) s1 k.core (k.x.pc + 12)
        ∧ (s1.core k.core).copies = (s.core k.core).copies ++ [c] ∧ c.dx = true ∧ c.size = 32 * (i.imm.toNat % 256 + 1)
        ∧ c.spec = .xfer (k.x.val i.d) (k.x.val i.a) (i.imm.toNat % 256 + 1) (bit i.imm.toNat 8))
    ∧ (∀ l b s0, (s.core k.core).dxfers = [] → s.dxBar k .atomic (k.x.val i.a) 2 = .ok (l, b, s0) →
      (i.imm.toNat : Int) ≤ s0.barOwed l b → inI32 (b.arrive - i.imm.toNat) = true →
      ∃ s1, IssuesDxp (exec (.darrive i) s) s1 k.core (k.x.pc + 12))
    ∧ (∀ l b s0, s.dxBar k .load (k.x.val i.a) 2 = .ok (l, b, s0) →
      (b.phase ≠ i.imm.toNat % 16 → ∃ s1, IssuesDxp (exec (.dwaitev i) s) s1 k.core (k.x.pc + 12)
        ∧ ∀ d, i.d = .s d → (s1.core k.core).dxp.rd d.toNat = 0)
      ∧ (b.phase = i.imm.toNat % 16 → ∀ h, k.run.hold = some h → h.started = true → h.timedOut = true →
        ∃ s1, IssuesDxp (exec (.dwaitev i) s) s1 k.core (k.x.pc + 12)
          ∧ ∀ d, i.d = .s d → (s1.core k.core).dxp.rd d.toNat = 1))
    ∧ ((s.core k.core).dxfers = [] → ∃ s1, exec (.dend i) s = .next s1 ∧ (s1.core k.core).dxp.run = none
      ∧ ∀ g0 g1, s.group? k.run.cmd.tid k.run.cmd.g = some g0 → s1.group? k.run.cmd.tid k.run.cmd.g = some g1 →
        g1 = g0.endOp k.run.cmd.opId)
    ∧ ((s.core k.core).dxfers ≠ [] → ∃ s1, exec (.dend i) s = .next s1
      ∧ (s1.core k.core).dxp.run = some { k.run with ending := some none, hold := none })

/-- Row 0xE and the control instructions of a DXP (R385-R395). -/
def Obligations.DxpPrograms : Prop := DxpProgramsRun ∧ DxpTransfers

/-! ## Row 0xD: invocations, handles, endpoints, collectives (18 R413-R427) -/

/-- An invocation's operation begins (R413, R415): it counts in oc.col, and its argument bytes, if any, are to be read. -/
def ArgsAwaited (s1 s3 : State) (k : Iss) (d : BitVec 6) (bs : List Byte) (up : Option Nat) : Prop :=
  0 < (invDesc bs).arglen → s1.invReady = none →
    s3.srcs = s1.srcs ++ [⟨k.tid, k.g, s1.nextOp, (invDesc bs).argsrc, (invDesc bs).arglen, [], [], .invoke bs (.s d) up⟩]
    ∧ (s3.group? k.tid k.g).map Group.ops = some (k.gr.ops ++ [⟨s1.nextOp, .col, false⟩])

/-- invk and invh (R413-R418): with the descriptor read, they complete, and their argument bytes are read after issue; where
there are none, and with no INVK path to the other device, the handle is a synthesized one of cause 4, and an upstream handle
of this device that is unknown or broken gives cause 3; a handle with bits below 20 set is an illegal operand. -/
def InvocationsRun : Prop :=
  ∀ (s : State) (k : Iss) (i : Slots) (d : BitVec 6), i.d = .s d → ocOf k.gr.ops .col < 63 →
    (Ready s k 0x341 (linesOf i false 0) → ∀ bs s1, s.readDesc k (k.gr.uni i.a 0) false = .ok (some bs, s1) →
      ∃ s3, Issues (exec (.invk i) s) s3 k i.hint k.fall ∧ ArgsAwaited s1 s3 k d bs none
        ∧ ((invDesc bs).arglen = 0 → s1.srcs = [] → (invDesc bs).dev ≠ Config.devNum.toNat → s1.pathsTo (invDesc bs).dev 2 = [] →
            (s3.group? k.tid k.g).map (fun x => x.rs d.toNat) = some (BitVec.ofNat 64 (synth (invDesc bs).dev 4))))
    ∧ (Ready s k 0x342 (linesOf i false 0) → ∀ h bs s1, h = k.gr.uni i.a 0 → h % 2 ^ 20 = 0 →
      s.readDesc k (k.gr.uni i.b 0) true = .ok (some bs, s1) →
      ∃ s3, Issues (exec (.invh i) s) s3 k i.hint k.fall ∧ ArgsAwaited s1 s3 k d bs (some h)
        ∧ ((invDesc bs).arglen = 0 → s1.srcs = [] → hDev h = Config.devNum.toNat →
            ((s1.hresolve h = none ∧ ((s1.hEntry (hIdx h)).st ≠ 2 ∨ (s1.hEntry (hIdx h)).late = []))
              ∨ ∃ n e, s1.hresolve h = some (n, e) ∧ e.st = 3) →
            (s3.group? k.tid k.g).map (fun x => x.rs d.toNat) = some (BitVec.ofNat 64 (synth Config.devNum.toNat 3))))
    ∧ (Ready s k 0x342 (linesOf i false 0) → ∀ h, h = k.gr.uni i.a 0 → h % 2 ^ 20 ≠ 0 →
      exec (.invh i) s = .next (s.raise k.tid k.g k.e 3 2 h k.e.mask).done)

/-- A sector of an invocation's arguments or of a member's elements is read after issue, once, as copy sources are (10 R238,
R240, R415, R426; the move and its number are the model's own, DESIGN CHOICE, log 14): of scratchpad its bytes are then at
hand; where it cannot be read, the handle is a synthesized one of cause 8, or the collective has status 3 (R427). -/
def SourceReads : Prop :=
  ∀ (s : State) (core id i : Nat) (r : SrcRead) (t : Team), s.src? id = some r → s.team? r.tid = some t → t.core = core →
    r.wants i = true → (∀ l, s.srcPlace t r i = .ok l → s.filled ⟨0, r.sectorVa i, l, 32⟩ = true) →
    Completes (exec (.copySectorWrite core id i true) s)
    ∧ (s.errs = [] → ∀ u off r1, s.srcPlace t r i = .ok (.spad u off) →
        r1 = { r with got := SMap.put r.got i (s.spadBytes u off 32) } → r1.whole = false →
        ∃ s1, exec (.copySectorWrite core id i true) s = .next s1 ∧ s1.src? id = some r1)
    ∧ ∀ tr, s.srcPlace t r i = .error tr →
      (∀ bs (d : BitVec 6) up g0, r.work = .invoke bs (.s d) up → s.group? r.tid r.g = some g0 → (s.dropSrc id).invReady = none →
        ∃ s1, exec (.copySectorWrite core id i true) s = .next s1 ∧ (s1.group? r.tid r.g).map (fun x => x.rs d.toNat)
          = some (BitVec.ofNat 64 (synth (match up with | some h => hDev h | none => (invDesc bs).dev) 8)))
      ∧ ∀ c, r.work = .coll → s.coll? r.tid r.g r.id = some c → c.status = 0 →
        ∃ s1 c1, exec (.copySectorWrite core id i true) s = .next s1 ∧ s1.coll? r.tid r.g r.id = some c1 ∧ c1.status = 3

/-- invk, invh, and the reads of their arguments and of a collective's elements (R413-R418, R426, R427, 10 R238, R240). -/
def Obligations.Invocations : Prop := InvocationsRun ∧ SourceReads

/-- hwait, htest, hrel, hget on handles of this device (R419, R420), which it answers itself: hwait completes on a ready
handle, traps on a broken one unless it asked for the status, waits on a pending one, counted in HWAIT, and gives up at
its time-out; htest and hget read; hrel frees a ready or broken entry, whose generation grows. -/
def LocalQueries : Prop :=
  ∀ (s : State) (k : Iss) (i : Slots) (d : BitVec 6) (h w : Nat), i.d = .s d → h = k.gr.uni i.a 0 → h % 2 ^ 20 = 0 →
    remoteHandle h = none → w = s.statusWord h →
    (Ready s k 0x343 (linesOf i false 0) →
      ((w % 4 = 2 ∨ w % 4 = 0 ∨ (w % 4 = 3 ∧ i.imm.getLsbD 0 = true)) → ∃ s1, Issues (exec (.hwait i) s) s1 k i.hint k.fall
        ∧ (s1.group? k.tid k.g).map (fun x => x.rs d.toNat) = some (BitVec.ofNat 64 w))
      ∧ (w % 4 = 3 → i.imm.getLsbD 0 = false →
        exec (.hwait i) s = .next (s.raise k.tid k.g k.e 11 0 h k.e.mask).done)
      ∧ (w % 4 = 1 → k.gr.hold = none → ∃ x, x.why = 11 ∧ exec (.hwait i) s = .next (s.bail k (.hold x)))
      ∧ (w % 4 = 1 → ∀ x, k.gr.hold = some x → x.started = true → x.why = 11 → x.timedOut = true →
        ∃ s1, Issues (exec (.hwait i) s) s1 k i.hint k.fall
          ∧ (s1.group? k.tid k.g).map (fun x => x.rs d.toNat) = some (BitVec.ofNat 64 (w + 2 ^ 16))))
    ∧ (Ready s k 0x344 (linesOf i false 0) → ∃ s1, Issues (exec (.htest i) s) s1 k i.hint k.fall
        ∧ (s1.group? k.tid k.g).map (fun x => x.rs d.toNat) = some (BitVec.ofNat 64 w))
    ∧ (Ready s k 0x346 (linesOf i false 0) → ∃ s1, Issues (exec (.hget i) s) s1 k i.hint k.fall
        ∧ (s1.group? k.tid k.g).map (fun x => x.rs d.toNat) = some (BitVec.ofNat 64 (s.handleWord h (i.imm.toNat % 4))))
    ∧ (Ready s k 0x345 (linesOf i false 0) → ∃ s1, Issues (exec (.hrel i) s) s1 k i.hint k.fall
        ∧ ∀ n e, s.hresolve h = some (n, e) → hIdx h ≠ 0xFFFF →
          ((e.st = 2 ∨ e.st = 3) → (s1.hEntry n).st = 0 ∧ (s1.hEntry n).gen = e.gen + 1)
          ∧ (e.st = 1 → s1.hEntry n = e))

/-- hwait, htest, hrel, hget on any handle (R419, R420), hwait and hrel with D nil too: htest and hrel always complete; hget
completes with an answer here or, with no INVK path, at once; hwait with the status word w that is here, or that the other
device has sent, or of cause 4 with no INVK path; on a handle of another device it else asks it and waits. -/
def HandleForms : Prop :=
  ∀ (s : State) (k : Iss) (i : Slots) (h : Nat), h = k.gr.uni i.a 0 → h % 2 ^ 20 = 0 →
    (Ready s k 0x344 (linesOf i false 0) → ∃ s1, Issues (exec (.htest i) s) s1 k i.hint k.fall)
    ∧ (Ready s k 0x345 (linesOf i false 0) → ∃ s1, Issues (exec (.hrel i) s) s1 k i.hint k.fall
      ∧ ∀ n e, remoteHandle h = none → s.hresolve h = some (n, e) → hIdx h ≠ 0xFFFF → (e.st = 2 ∨ e.st = 3) →
        (s1.hEntry n).st = 0 ∧ (s1.hEntry n).gen = e.gen + 1)
    ∧ (Ready s k 0x346 (linesOf i false 0) →
      (remoteHandle h = none
        ∨ (∃ x, k.gr.hold = some x ∧ x.started = true ∧ x.why = 12 ∧ x.passed = true)
        ∨ (k.gr.hold = none ∧ ∃ d, remoteHandle h = some d ∧ s.pathsTo d 2 = [])) →
      ∃ s1, Issues (exec (.hget i) s) s1 k i.hint k.fall)
    ∧ (Ready s k 0x343 (linesOf i false 0) → ∀ w,
      ((remoteHandle h = none ∧ w = s.statusWord h ∧ w % 4 ≠ 1)
        ∨ (∃ d x, remoteHandle h = some d ∧ k.gr.hold = some x ∧ x.started = true ∧ x.why = 11 ∧ x.passed = true
          ∧ w = (x.answer.getD 0).toNat)
        ∨ (k.gr.hold = none ∧ ∃ d, remoteHandle h = some d ∧ s.pathsTo d 2 = [] ∧ w = 3 + 2 ^ 8 * 4)) →
      ((w % 4 ≠ 3 ∨ i.imm.getLsbD 0 = true) → ∃ s1, Issues (exec (.hwait i) s) s1 k i.hint k.fall
        ∧ ∀ d, i.d = .s d → (s1.group? k.tid k.g).map (fun x => x.rs d.toNat) = some (BitVec.ofNat 64 w))
      ∧ (w % 4 = 3 → i.imm.getLsbD 0 = false →
        exec (.hwait i) s = .next (s.raise k.tid k.g k.e 11 0 h k.e.mask).done))
    ∧ (Ready s k 0x343 (linesOf i false 0) → k.gr.hold = none → ∀ d, remoteHandle h = some d → s.pathsTo d 2 ≠ [] →
      ∃ (s1 : State) (x : Hold), exec (.hwait i) s = .next (s1.bail k (.hold x)) ∧ x.why = 11 ∧ s1.reqs.length = s.reqs.length + 1)

/-- hwait, htest, hrel, hget on handles of this device and of others (R419, R420). -/
def Obligations.HandleQueries : Prop := LocalQueries ∧ HandleForms

/-- epsend, EPSEND_COMPLETE, eprecv, epstand (R422-R424): a send to an entry that is not bound gets status 4, a reply to a
message that is not taken status 5; the status is written at completion; a waiting message is received with its status
word and stamp; a receive that has timed out sets TIMEOUT alone; a stand-in is set. -/
def Obligations.Endpoints : Prop :=
  (∀ (s : State) (k : Iss) (i : Slots) (d : BitVec 6) (ep : Nat), i.d = .s d → ep = i.imm.toNat % 64 →
    (Ready s k 0x347 (linesOf i false 0) → ocOf k.gr.ops .col < 63 → ∀ b bs s1, b = k.gr.uni i.b 0 → 0 < bits b 8 0 →
      bits b 8 0 ≤ 256 → bits b 15 9 = 0 → b < 2 ^ 32 → (bits b 31 16 = 0 ∨ bit i.imm.toNat 6 = true) →
      s.gather k (k.gr.uni i.a 0) (bits b 8 0) 32 = .ok (some bs, s1) → ∃ s2, Issues (exec (.epsend i) s) s2 k i.hint k.fall
        ∧ ((s.ep k.t.part k.t.ctx ep).v = false → s2.colDone = s.colDone ++ [⟨k.tid, k.g, s.nextOp, i.d, 4⟩])
        ∧ ((s.ep k.t.part k.t.ctx ep).v = true → bit i.imm.toNat 6 = true → (s.ctx k.t.part k.t.ctx).taken = [] →
          s2.colDone = s.colDone ++ [⟨k.tid, k.g, s.nextOp, i.d, 5⟩]))
    ∧ (Ready s k 0x348 (linesOf i false 1) → k.gr.hold = none → ∀ ls, s.bufferAt k (k.gr.uni i.a 0) = .ok ls →
      (∀ l ∈ ls, Loc.dev? l = none) →
      (∀ m rest, SMap.get [] (s.ctx k.t.part k.t.ctx).recvq ep = m :: rest → s.farWrites k.tid k.g m.ident.toNat = false →
        ∃ s1 g1,
        Issues (exec (.eprecv i) s) s1 k i.hint k.fall ∧ s1.group? k.tid k.g = some g1
          ∧ SMap.get [] (s1.ctx k.t.part k.t.ctx).recvq ep = rest ∧ g1.rs d.toNat = BitVec.ofNat 64 m.word
          ∧ g1.rs (d.toNat + 1) = m.stamp)
      ∧ (SMap.get [] (s.ctx k.t.part k.t.ctx).recvq ep = [] → ∃ h : Hold, h.why = 12 ∧
          exec (.eprecv i) s = .next (s.bail k (.hold h))))
    ∧ (Ready s k 0x348 (linesOf i false 1) → ∀ h ls, k.gr.hold = some h → h.started = true → h.why = 12 → h.passed = false →
      h.timedOut = true → s.bufferAt k (k.gr.uni i.a 0) = .ok ls → SMap.get [] (s.ctx k.t.part k.t.ctx).recvq ep = [] →
      ∃ s1 g1, Issues (exec (.eprecv i) s) s1 k i.hint k.fall ∧ s1.group? k.tid k.g = some g1 ∧ g1.rs d.toNat = 0x800)
    ∧ (Ready s k 0x348 (linesOf i false 1) → ∀ h ls n, k.gr.hold = some h → h.started = true → h.why = 12 → h.passed = true →
      n = (h.answer.getD 0).toNat → s.bufferAt k (k.gr.uni i.a 0) = .ok ls → s.farWrites k.tid k.g n = false →
      ∃ s1 g1, Issues (exec (.eprecv i) s) s1 k i.hint k.fall ∧ s1.group? k.tid k.g = some g1
        ∧ ∀ m, (s.ctx k.t.part k.t.ctx).taken.find? (fun m => m.ident.toNat == n) = some m →
          g1.rs d.toNat = BitVec.ofNat 64 m.word ∧ g1.rs (d.toNat + 1) = m.stamp))
  ∧ (∀ (s : State) (k : Iss) (i : Slots) (ep : Nat), ep = i.imm.toNat % 64 → Ready s k 0x349 (linesOf i false 0) →
    k.gr.uni i.a 0 < 2 ^ 56 → k.gr.uni i.b 0 ≤ 256 → ∃ s1, Issues (exec (.epstand i) s) s1 k i.hint k.fall
      ∧ (s1.ep k.t.part k.t.ctx ep).standin = BitVec.ofNat 56 (k.gr.uni i.a 0)
      ∧ (s1.ep k.t.part k.t.ctx ep).standlen = BitVec.ofNat 9 (k.gr.uni i.b 0))
  ∧ ∀ (s : State) (tid g id : Nat) (c : ColDone) (d : BitVec 6) (g0 : Group),
      s.colDone.find? (fun x => x.tid == tid && x.g == g && x.id == id) = some c → c.d = .s d → s.group? tid g = some g0 →
      ∃ s1, exec (.epsendComplete tid g id) s = .next s1 ∧ (s1.group? tid g).map (fun x => x.rs d.toNat) = some c.val

/-- coll, COLL_COMPLETE, INVOCATION_RESULT_READY (R417, R425-R427): a collective with its record and members read begins, its
elements to be read after issue (10 R240); one whose status is known completes and writes it; the grid of an
invocation that has ended with another status leaves its entry broken. -/
def Obligations.Collectives : Prop :=
  (∀ (s : State) (k : Iss) (i : RdI), Ready s k 0x34A (linesOf i.toSlots false 0) → ocOf k.gr.ops .col < 63 →
    ∀ bs s1 ms s2, s.gather k (k.gr.uni i.a 0) 64 64 = .ok (some bs, s1) → (collDesc bs).rest = false →
    (collDesc bs).bad (i.imm.toNat % 8) (tagWidth (16 * tyCode i.ty) / 8) = false →
    s1.gather k (collDesc bs).memb (8 * ((collDesc bs).nm1 + 1)) 8 = .ok (some ms, s2) →
    (∀ j < (collDesc bs).nm1 + 1, wordAt ms j < 2 ^ 32) →
    ∀ n, n = (if i.imm.toNat % 8 < 3 ∨ (i.imm.toNat % 8 = 3 ∧ (collDesc bs).self = (collDesc bs).root)
      then (collDesc bs).count * (tagWidth (16 * tyCode i.ty) / 8) else 0) →
    ∃ s4, Issues (exec (.coll i) s) s4 k i.hint k.fall
      ∧ (n ≠ 0 → ∃ c, s4.colls = s2.colls ++ [c] ∧ c.tid = k.tid ∧ c.g = k.g ∧ c.id = s2.nextOp ∧ c.status = 0 ∧ c.result = none
        ∧ c.members = (List.range ((collDesc bs).nm1 + 1)).map (wordAt ms) ∧ c.count = (collDesc bs).count
        ∧ s4.srcs = s2.srcs ++ [⟨k.tid, k.g, s2.nextOp, (collDesc bs).src, n, [], [], .coll⟩]))
  ∧ (∀ (s : State) (tid g id : Nat) (c : Coll) (d : BitVec 6) (g0 : Group), s.coll? tid g id = some c → c.acks = 0 →
    (c.status ≠ 0 ∨ c.wrote = true) → c.d = .s d → s.group? tid g = some g0 →
    ∃ s1, exec (.collComplete tid g id) s = .next s1
      ∧ (s1.group? tid g).map (fun x => x.rs d.toNat) = some (BitVec.ofNat 64 c.status))
  ∧ ∀ (s : State) (p n st : Nat) (g : Grid), (s.part p).grids.find? (fun g => g.launch == n) = some g → g.status = some st →
    s.gridReleasing p n = false → (g.releasing = true ∨ st ≠ 0 ∨ ∀ c ∈ s.gridCores p n, s.updatePending c.1 255 [] = false) →
    Completes (exec (.invocationResultReady p n) s)


/-! ## Words, steps, reset, memory -/

/-- Operands with no guard and no hint. -/
def plainSlots (d a b : Operand) (imm : W32) : Slots := ⟨.none, d, a, b, ⟨0, false, false, false, false⟩, imm⟩

/-- Words that the spec writes out (12 to 18, worked encodings) decode to the instructions that they stand for. -/
def Obligations.DecodesWords : Prop :=
  decodeWord (.group false) 0x20C0_0180_7801_4000_0000_0003#96
    = .instr (.imul ⟨⟨.none, .v 3, .v 3, .imm, ⟨1, false, true, false, false⟩, 3⟩, .i32, false, 0⟩)
  ∧ decodeWord (.group false) 0x7059_8080_C018_0000_0000_0000#96
    = .instr (.stg ⟨{ plainSlots .nil (.v 6) (.v 3) 0 with guard := .ifP 4 }, .i32, 0, .plain, .lane⟩)
  ∧ decodeWord (.group false) 0x1055_80E0_3808_0000_0000_0030#96
    = .instr (.bra { plainSlots .nil .nil .nil 0x30 with guard := .ifP 2 })
  ∧ decodeWord (.group false) 0x5040_0100_3808_0B89_0000_0080#96
    = .instr (.cvt ⟨plainSlots (.v 2) (.v 1) .nil 0x80, .b8, .rs, false, 9⟩)
  ∧ decodeWord (.group false) 0x8040_0100_8008_0003_0800_0010#96
    = .instr (.atom ⟨plainSlots (.v 2) (.v 4) (.v 1) 0x08000010, .i32, 0, .plain, .dev⟩)
  ∧ decodeWord (.group false) 0xA041_8844_1108_0B09_0000_000A#96
    = .instr (.mma ⟨plainSlots (.vat 0) (.m 0) (.m 1) 0xA, .b8, .rn, false, 9⟩)
  ∧ decodeWord (.group false) 0xD0C0_8221_0848_0000_0000_0001#96 = .instr (.hwait (plainSlots (.s 4) (.s 8) (.s 9) 1))
  ∧ decodeWord .dxp 0xE041_80A0_D808_0000_0000_0054#96 = .instr (.dloop (plainSlots .nil (.s 6) .nil 0x54))
  ∧ decodeWord (.group true) 0x0101_80E0_3808_0000_0000_0005#96 = .instr (.tret (plainSlots .nil .nil .nil 5))

/-- Decoding and encoding undo each other (12 R260, R274): an agent decodes a word as an instruction exactly when the
instruction is well formed for it and that is its word. -/
def Obligations.EncodeDecode : Prop :=
  ∀ (ag : Agent) (w : IWord) (i : Instr), decodeWord ag w = .instr i ↔ encode i = some w ∧ WellFormed ag i = true

/-- A step runs the decoded instruction (12 R261, R277, 17 R385): of the selected group, or of the selected transfer
processor; where the word does not pass a check of R261, the group takes its trap; with no agent selected the oldest move
of the agenda takes place, and with none waiting a period of the reference clock passes (the model's own order of moves,
log 1). -/
def Obligations.StepRuns : Prop :=
  ∀ s : State,
    (∀ k bs, s.issuer = some k → s.errs = [] → s.fetch k.t.part k.t.ctx k.t.comp k.e.pc.toNat = .ok bs →
      (∀ i, decodeBytes k.agent bs = .instr i → step s = exec i s)
      ∧ (∀ t, decodeBytes k.agent bs = .trap t →
        step s = .next (s.raise k.tid k.g k.e t.cause t.detail t.addr k.e.mask).done))
    ∧ (∀ k t, s.issuer = some k → s.errs = [] → s.fetch k.t.part k.t.ctx k.t.comp k.e.pc.toNat = .error t →
      step s = .next (s.raise k.tid k.g k.e t.cause t.detail t.addr k.e.mask).done)
    ∧ (∀ k bs i, s.dxIssuer = some k → s.errs = [] → s.fetch k.t.part k.t.ctx k.t.comp k.x.pc.toNat = .ok bs →
      decodeBytes .dxp bs = .instr i → step s = exec i s)
    ∧ (∀ i rest, s.cur = none → s.agenda = i :: rest → step s = exec i { s with agenda := rest })
    ∧ (s.cur = none → s.agenda = [] → step s = exec .referenceClockPeriod s)

/-- What reset leaves where the spec states it: the device READY with its clock at 0 (05 R126, 03 R57), memory zero (06
R155), no partition enabled, no team, no launch, no handle, no path; the cluster registers at their At reset values (02
R45, R47, 07 R174), the event queues empty and the counters at zero (09 R217). -/
def Obligations.ResetState : Prop :=
  let s := State.reset
  s.ready = true ∧ s.rclk = 0 ∧ (∀ pa, s.homeByte 0 pa = 0) ∧ Memory.wf s
  ∧ (∀ p, (s.part p).en = false ∧ (s.part p).busy = false ∧ (s.part p).halt = false ∧ (s.part p).halted = false
      ∧ (s.part p).rank = 0 ∧ (s.part p).dbgStopped = false ∧ (s.part p).grids = [] ∧ (s.part p).launchq = [])
  ∧ (∀ p c, (s.ctx p c).valid = false) ∧ s.teams = []
  ∧ (∀ n, (s.cluster n).valid = false ∧ (s.cluster n).droopw = 0x10 ∧ (s.cluster n).hotT = 0x5F ∧ (s.cluster n).gap = 0x04
      ∧ (s.cluster n).widthm1 = 0x3 ∧ (s.cluster n).wcage = 0x0080 ∧ (s.cluster n).evq = [] ∧ (s.cluster n).lost = 0
      ∧ (s.cluster n).mState = 0)
  ∧ (∀ k, (s.core k).dxp = Dxp.reset ∧ (s.core k).wc = [] ∧ (s.core k).copies = [] ∧ (s.core k).engine = []
      ∧ ∀ n, (SMap.get Pm.reset (s.core k).pm n).ovf = false ∧ (SMap.get Pm.reset (s.core k).pm n).en = false
        ∧ (SMap.get Pm.reset (s.core k).pm n).event = 0 ∧ (SMap.get Pm.reset (s.core k).pm n).count = 0)
  ∧ (∀ n, (s.optEntry n).v = false) ∧ (∀ n, (s.hEntry n).st = 0) ∧ s.pfBusy = false ∧ s.clparterr = false

/-- Every step keeps memory in its canonical form. -/
def Obligations.StepKeepsMemory : Prop := ∀ s t : State, Memory.wf s → step s = .next t → Memory.wf t

/-- Home memory holds what is written to it (06 R133, R151): after a write under a key, a read under that key gives the
bytes written at their places and elsewhere what it gave before; under another key, a line that the write does not touch
reads as before; host memory is as it was. -/
def Obligations.HomeReadAfterWrite : Prop :=
  ∀ (s : State) (key pa : Nat) (bs : List Byte),
    (∀ a, (s.homeWrite key pa bs).homeByte key a
      = if pa ≤ a ∧ a < pa + bs.length then bs.getD (a - pa) 0 else s.homeByte key a)
    ∧ (∀ k a, (∀ x, pa ≤ x → x < pa + bs.length → a / 128 ≠ x / 128) →
        (s.homeWrite key pa bs).homeByte k a = s.homeByte k a)
    ∧ ∀ a n, (s.homeWrite key pa bs).hostBytes a n = s.hostBytes a n

/-! ## Traps (07 R157-R163, 18 R401-R404) -/

/-- Taking a trap leaves the state alone but for the group, which gains the record at the end of its queue and a cycle of
TRAPD: its registers, frontier, stacks, operations and queues are as before (R157, R160, R162). The age by which its quadrant
chooses begins again (02 R34; log 23). -/
def RaiseRecords : Prop :=
  ∀ (s : State) (tid g : Nat) (t : Team) (gr : Group) (e : Entry) (cause detail addr : Nat) (fail : Mask),
    s.team? tid = some t → t.groups[g]? = some gr → gr.handler = none → gr.halted = false → gr.trapq.length < 8 →
    OnlyGroup tid g s (s.raise tid g e cause detail addr fail)
    ∧ ∃ g1 r, (s.raise tid g e cause detail addr fail).group? tid g = some g1 ∧ g1.trapq = gr.trapq ++ [r]
      ∧ g1 = { gr.stallUp 0 with hold := none, age := 0, trapq := g1.trapq }
      ∧ r.cause = BitVec.ofNat 8 cause ∧ r.detail = BitVec.ofNat 8 detail ∧ r.addr = BitVec.ofNat 64 addr ∧ r.pc = e.pc
      ∧ r.prio = e.prio ∧ r.mask = e.mask ∧ r.fail = fail ∧ r.imprecise = false ∧ r.resume = (if cause = 15 then 1 else 0)
      ∧ r.launch = BitVec.ofNat 32 t.launch ∧ r.team = BitVec.ofNat 32 t.index

/-- With 8 records in the queue, and in a handler, a trap halts the group instead (R163). -/
def RaiseHalts : Prop :=
  ∀ (s : State) (tid g : Nat) (t : Team) (gr : Group) (e : Entry) (cause detail addr : Nat) (fail : Mask),
    s.team? tid = some t → t.groups[g]? = some gr → gr.halted = false → (gr.handler.isSome = true ∨ 8 ≤ gr.trapq.length) →
    ∃ g1, (s.raise tid g e cause detail addr fail).group? tid g = some g1 ∧ g1.halted = true ∧ g1.trapq = gr.trapq

/-- Taking a trap: the record, and the halt where none can be taken (R157-R163). -/
def Obligations.TrapRecords : Prop := RaiseRecords ∧ RaiseHalts

/-- An instruction outside the group's role takes a role violation, whatever its tags, residency, protection and alignment
(02 R30): the record names its PC, and no register, memory, counter, ring, convergence register or array state changes; a
word that a check of R261 rejects takes that check's trap, never this one. -/
def Obligations.RoleTraps : Prop :=
  (∀ (s : State) (k : Iss) (i : Instr) (r : Raw), s.issuer = some k → k.t.mast = false → rawOfInstr i = some r →
    r.op / 64 ≠ 14 → roleOk k.gr.role r.op = false →
    exec i s = .next (s.raise k.tid k.g k.e 6 (roleCode k.gr.role) 0 k.e.mask).done
    ∧ (k.gr.handler = none → k.gr.trapq.length < 8 → ∃ s1 g1 x, exec i s = .next s1 ∧ OnlyGroup k.tid k.g s s1
      ∧ s1.group? k.tid k.g = some g1 ∧ g1.trapq = k.gr.trapq ++ [x] ∧ x.cause = 6 ∧ x.pc = k.e.pc
      ∧ g1 = { k.gr.stallUp 0 with hold := none, age := 0, trapq := g1.trapq }))
  ∧ ∀ (s : State) (k : Iss) (bs : List Byte) (t : Trap), s.issuer = some k → s.errs = [] →
    s.fetch k.t.part k.t.ctx k.t.comp k.e.pc.toNat = .ok bs → decodeBytes k.agent bs = .trap t →
    t.cause ≠ 6 ∧ step s = .next (s.raise k.tid k.g k.e t.cause t.detail t.addr k.e.mask).done

/-- trap takes a precise software trap whose record has the code, its low byte and RESUME 1 (R401); TRAP_DELIVERY starts the
handler with the record's masks in s62 and s63 and TRAPCAUSE set (R158), or halts the group where no handler is set; tret
ends the handler, removes the record and resumes the entry as RESUME says (R159, R404), and halts the group where a part of
the handler's lanes issues it (R402, R163); the cause that the halt's record then gives is the model's (log 18, DEDUCED). -/
def Obligations.TrapsAndReturns : Prop :=
  (∀ (s : State) (k : Iss) (i : Slots), Ready s k 0x003 ([], []) →
    exec (.trap i) s = .next (s.raise k.tid k.g k.e 15 (i.imm.toNat % 256) i.imm.toNat k.e.mask).done
    ∧ (k.gr.handler = none → k.gr.trapq.length < 8 → ∃ s1 g1 x, exec (.trap i) s = .next s1
      ∧ s1.group? k.tid k.g = some g1 ∧ g1.trapq = k.gr.trapq ++ [x] ∧ x.cause = 15 ∧ x.imprecise = false
      ∧ x.detail = i.imm.setWidth 8 ∧ x.addr = i.imm.setWidth 64 ∧ x.resume = 1 ∧ x.pc = k.e.pc))
  ∧ (∀ (s : State) (tid g : Nat) (t : Team) (gr : Group) (r : TrapRec) (q : List TrapRec), s.team? tid = some t →
    t.groups[g]? = some gr → gr.trapq = r :: q → gr.handler = none → gr.exited = false → gr.halted = false →
    s.mayRun t = true →
    (t.lrec.handler ≠ 0 → gr.fresh = [] → gr.evicted = [] → ∃ s1 g1 m, exec (.trapDelivery tid g) s = .next s1
      ∧ s1.group? tid g = some g1 ∧ m = (if r.mask = 0 then gr.live else r.mask)
      ∧ g1.rs 62 = r.mask.setWidth 64 ∧ g1.rs 63 = r.fail.setWidth 64
      ∧ g1.trapq = { r with save62 := gr.rs 62, save63 := gr.rs 63 } :: q
      ∧ g1.trapcause = BitVec.ofNat 16 (2 ^ 8 * r.detail.toNat + r.cause.toNat) ∧ g1.lastCause = r.cause
      ∧ g1.handler.map Handler.front = some [⟨0xFF, BitVec.ofNat 56 t.lrec.handler, m⟩]
      ∧ g1.front = gr.front ∧ g1.v = gr.v ∧ g1.p = gr.p ∧ g1.calls = gr.calls ∧ g1.spill = gr.spill
      ∧ ∀ n, n < 62 → g1.rs n = gr.rs n)
    ∧ (t.lrec.handler = 0 → ∃ s1 g1, exec (.trapDelivery tid g) s = .next s1 ∧ s1.group? tid g = some g1 ∧ g1.halted = true))
  ∧ ∀ (s : State) (k : Iss) (i : Slots) (h : Handler) (r : TrapRec) (q : List TrapRec),
    Ready s k 0x004 (if i.imm.getLsbD 2 then (261 :: (linesOf i false 0).1, (linesOf i false 0).2) else linesOf i false 0) →
    k.gr.handler = some h → k.gr.trapq = r :: q →
    (k.e.mask ≠ h.front.foldl (fun (m : Mask) e => m ||| e.mask) 0 →
      exec (.tret i) s = .next (s.halt k.tid k.g k.gr.lastCause.toNat).done)
    ∧ (k.e.mask = h.front.foldl (fun (m : Mask) e => m ||| e.mask) 0 → r.imprecise = false →
      ∀ e, k.gr.front.find? (fun e => e.pc == r.pc && e.mask == r.mask) = some e → ∀ pc,
      pc = (match i.imm.toNat % 4 with
        | 0 => e.pc | 1 => e.pc + 12 | _ => match i.a with | .s n => (k.gr.rs n.toNat).setWidth 56 | _ => 0) →
      i.imm.toNat % 4 ≠ 3 → ∃ s1 g1, exec (.tret i) s = .next s1 ∧ s1.group? k.tid k.g = some g1
        ∧ g1.handler = none ∧ g1.trapq = q ∧ g1.trapcause = 0
        ∧ g1.front = rebuild (prioOf k.t.prios) k.gr.front e [(pc, e.mask)]
        ∧ (i.imm.getLsbD 2 = true → g1.rs 62 = r.save62 ∧ g1.rs 63 = r.save63)
        ∧ (i.imm.getLsbD 2 = false → ∀ n, g1.rs n = k.gr.rs n) ∧ g1.v = k.gr.v ∧ g1.p = k.gr.p)

/-! ## Frames -/

/-- The destination of an instruction that works on the issuing group's registers alone. -/
def registerOnly : Instr → Option Operand
  | .nop i => some i.d | .vclk i => some i.d | .idem i => some i.d | .rdctx i => some i.d
  | .vote i => some i.d | .shfl i => some i.d | .actmask i => some i.d | .cvtest i => some i.d
  | .iadd i => some i.d | .isub i => some i.d | .imul i => some i.d | .imulh i => some i.d | .imad i => some i.d
  | .idiv i => some i.d | .irem i => some i.d | .imin i => some i.d | .imax i => some i.d | .iabs i => some i.d
  | .ineg i => some i.d | .and i => some i.d | .or i => some i.d | .xor i => some i.d | .not i => some i.d
  | .shl i => some i.d | .shr i => some i.d | .sar i => some i.d | .rotl i => some i.d | .popc i => some i.d
  | .clz i => some i.d | .brev i => some i.d | .bfx i => some i.d | .bfi i => some i.d | .icmp i => some i.d
  | .sel i => some i.d | .mov i => some i.d | .lea i => some i.d | .sadd i => some i.d | .isad i => some i.d
  | .bcast i => some i.d | .extract i => some i.d | .getid i => some i.d | .ldk i => some i.d | .movp i => some i.d
  | .fadd i => some i.d | .fsub i => some i.d | .fmul i => some i.d | .ffma i => some i.d | .fmin i => some i.d
  | .fmax i => some i.d | .fabs i => some i.d | .fneg i => some i.d | .fcmp i => some i.d | .frcp i => some i.d
  | .frsq i => some i.d | .fsqrt i => some i.d | .fexp2 i => some i.d | .flog2 i => some i.d | .fsin i => some i.d
  | .fcos i => some i.d | .ftanh i => some i.d | .fdiv i => some i.d | .ffloor i => some i.d | .fround i => some i.d
  | .fclass i => some i.d | .fdot2 i => some i.d | .fdot4 i => some i.d | .pack i => some i.d | .unpk i => some i.d
  | .scl i => some i.d | .sclf i => some i.d | .tagrd i => some i.d | .sat i => some i.d
  | .cvt i => if i.d.isM then none else some i.d
  | .tagset i => if i.d.isM then none else some i.d
  | _ => none

/-- The rows whose instructions may change a lane's rounding seed and float flags (14 R302-R305). -/
def floatRow (i : Instr) : Bool := match rawOfInstr i with | some r => r.op / 64 == 4 || r.op / 64 == 5 | none => false

/-- An integer instruction with SAT, which may set ISAT (13 R279). -/
def clampRow (i : Instr) : Bool := match rawOfInstr i with | some r => r.op / 64 == 2 && satF r == 1 | none => false

/-- The frame of the register instructions: where one completes (no trap is recorded, it does not wait, the group is not
halted) only its group changes, and of the group's registers only the destination's: a v register and, for a wide type, the
one after it in the lanes of the issuing entry, with their tags; an s register; a predicate. sr.seed changes under rows
0x4 and 0x5 alone; sr.fflags only gains flags, in lanes of the entry, under those rows and under row 0x2 with SAT. -/
def Obligations.FrameRegisterOnly : Prop :=
  ∀ (s s1 : State) (k : Iss) (i : Instr) (d : Operand) (g1 : Group), registerOnly i = some d → s.issuer = some k → s.errs = [] →
    WellFormed k.agent i = true → exec i s = .next s1 → s1.group? k.tid k.g = some g1 → g1.trapq = k.gr.trapq → g1.halted = false → g1.hold = none →
    OnlyGroup k.tid k.g s s1
    ∧ (∀ n l, l < 32 → (¬ ∃ x, d = .v x ∧ (n = x.toNat ∨ n = x.toNat + 1)) ∨ k.e.mask.getLsbD l = false → g1.rv n l = k.gr.rv n l)
    ∧ (∀ n, (¬ ∃ x, d = .v x ∧ (n = x.toNat ∨ n = x.toNat + 1)) → g1.rtag n = k.gr.rtag n)
    ∧ (∀ n, (¬ ∃ x, d = .s x ∧ n = x.toNat) → g1.rs n = k.gr.rs n)
    ∧ (∀ n, (¬ ∃ x, d = .p x ∧ n = x.toNat) → g1.rp n = k.gr.rp n)
    ∧ g1.calls = k.gr.calls ∧ g1.spill = k.gr.spill ∧ g1.alarms = k.gr.alarms ∧ g1.phase = k.gr.phase ∧ g1.ops = k.gr.ops ∧ g1.lq = k.gr.lq
    ∧ g1.sb = k.gr.sb ∧ g1.pend = k.gr.pend ∧ g1.trapcause = k.gr.trapcause ∧ g1.yieldPc = none
    ∧ (∀ l < 32, floatRow i = false ∨ k.e.mask.getLsbD l = false → g1.rseed l = k.gr.rseed l)
    ∧ ∀ l < 32, SMap.get 0#8 g1.fflags l &&& SMap.get 0#8 k.gr.fflags l = SMap.get 0#8 k.gr.fflags l
      ∧ ((floatRow i = false ∧ clampRow i = false) ∨ k.e.mask.getLsbD l = false →
          SMap.get 0#8 g1.fflags l = SMap.get 0#8 k.gr.fflags l)


/-! ## The ordering machine's own steps (10 R222-R243, 07 R173) -/

/-- A dirty byte of a core view is written to home memory and becomes clean (10 R227). -/
def ViewWriteback : Prop :=
  ∀ (s : State) (core : Nat),
    (∀ addrs, addrs ≠ [] → (∀ a ∈ addrs, (SMap.get CvByte.absent (s.core core).view a).dirty = true) →
      Completes (exec (.coreViewWriteback core addrs) s))
    ∧ ∀ a b, SMap.ok CvByte.absent (s.core core).view = true → b = SMap.get CvByte.absent (s.core core).view a →
      b.dirty = true → ∃ s1, exec (.coreViewWriteback core [a]) s = .next s1 ∧ s1.homeByte b.key a = b.val
        ∧ SMap.get CvByte.absent (s1.core core).view a = { b with dirty := false, mark := false }
        ∧ (∀ x, x ≠ a → SMap.get CvByte.absent (s1.core core).view x = SMap.get CvByte.absent (s.core core).view x)
        ∧ ∀ k x, x / 128 ≠ a / 128 → s1.homeByte k x = s.homeByte k x

/-- CORE_VIEW_FILL and CORE_VIEW_DROP (10 R227): a fill copies home memory into the clean bytes of a line and leaves dirty
ones; a line without dirty bytes leaves the view; neither changes home memory. -/
def ViewFillAndDrop : Prop :=
  ∀ (s : State) (core line : Nat),
    (mappable (128 * line) = true → ∃ s1, exec (.coreViewFill core line) s = .next s1 ∧ s1.home = s.home
      ∧ (∀ x, (SMap.get CvByte.absent (s.core core).view x).dirty = true ∨ x / 128 ≠ line →
        SMap.get CvByte.absent (s1.core core).view x = SMap.get CvByte.absent (s.core core).view x)
      ∧ ((s.core core).lineAbsent line = true → ∀ i < 128, SMap.get CvByte.absent (s1.core core).view (128 * line + i)
          = ⟨true, s.homeByte (s.keyAt (128 * line)) (128 * line + i), false, 0, false, s.keyAt (128 * line), 0⟩))
    ∧ ((s.core core).lineAbsent line = false → (∀ e ∈ (s.core core).view, e.1 / 128 = line → e.2.dirty = false) →
      ∃ s1, exec (.coreViewDrop core line) s = .next s1 ∧ s1.home = s.home ∧ (s1.core core).lineAbsent line = true
        ∧ ∀ x, x / 128 ≠ line →
          SMap.get CvByte.absent (s1.core core).view x = SMap.get CvByte.absent (s.core core).view x)

/-- WC_AGE_DRAIN, once WCAGE.AGE sixty-fourths of a real tick have passed (07 R173, R174); BACK_INVALIDATION_RESPONSE (10
R236). -/
def DrainsAndAnswers : Prop :=
  (∀ (s : State) (core idx : Nat) (e : WcEntry), (s.core core).wc[idx]? = some e →
    (s.cluster (clusterOf core)).wcage.toNat ≠ 0 →
    1024 * (s.cluster (clusterOf core)).wcage.toNat ≤ (s.rclk - e.born).toNat →
    Completes (exec (.wcAgeDrain core idx) s)
    ∧ (e.dev < 4096 → s.pathsTo e.dev 0 ≠ [] → ∃ s1, exec (.wcAgeDrain core idx) s = .next s1
      ∧ (s1.core core).wc = (s.core core).wc.eraseIdx idx ∧ s1.home = s.home ∧ s1.out.length = s.out.length + 1))
  ∧ ∀ (s : State) (id : Nat) (r : Release), s.releases.find? (fun r => r.told && r.lines.contains id) = some r →
    Completes (exec (.backInvalidationResponse id) s)
    ∧ (s.releases.find? (fun q => q.id == r.id) = some r → (∃ n ∈ r.lines, n ≠ id) →
      exec (.backInvalidationResponse id) s = .next { s with releases := s.releases.map fun q =>
        if q.id = r.id then { q with lines := q.lines.filter fun n => n != id } else q })

/-- RELEASE_PERFORM (10 R230, R235): a release store or red at the head of its buffer, an atomic's release part, a release
fence, or an effect that waits, once the group's older accesses are done and no path update of a device it marks is
pending; a ring's fill then marks its slot. -/
def Releases : Prop :=
  ∀ (s : State) (t : Team) (gr : Group) (tid g id : Nat), s.team? tid = some t → t.groups[g]? = some gr →
    (∀ e, gr.sb.find? (fun e => e.id == id) = some e → e.rel = true → e.released = false → gr.sbHead e.colour = some e →
      gr.mayPerform e = true → gr.mayRelease id (2 ^ e.colour) = true → s.releasing tid g (.store id) = false →
      s.updatePending t.core (2 ^ e.colour) e.devs = false → (∀ p ∈ e.puts, s.filled p.acc = true) →
      Completes (exec (.releasePerform tid g id) s))
    ∧ (∀ e, gr.sb.find? (fun e => e.id == id) = none → gr.lq.find? (fun e => e.id == id) = some e → e.rel = true →
      e.released = false → gr.mayRelease id (2 ^ e.colour) = true → s.releasing tid g (.atomic id) = false →
      s.updatePending t.core (2 ^ e.colour) (e.accs.filterMap fun a => a.loc.dev?).eraseDups = false →
      Completes (exec (.releasePerform tid g id) s))
    ∧ (∀ p, gr.sb.find? (fun e => e.id == id) = none → gr.lq.find? (fun e => e.id == id) = none →
      gr.pend.find? (fun p => p.id == id) = some p → s.mayApply gr p = true →
      Completes (exec (.releasePerform tid g id) s)
      ∧ ∀ q slot, p.kind = .ringFill q slot → (t.ring q).full.getLsbD slot = false → slot < 16 →
        ∃ s1 t1, exec (.releasePerform tid g id) s = .next s1 ∧ s1.team? tid = some t1
          ∧ t1.ring q = { t.ring q with full := (t.ring q).full ||| (1#16 <<< slot), phase := (t.ring q).phase ^^^ (1#16 <<< slot) })
    ∧ ∀ h e, gr.sb.find? (fun e => e.id == id) = none → gr.lq.find? (fun e => e.id == id) = none →
      gr.pend.find? (fun p => p.id == id) = none → gr.hold = some h → gr.selected = some e → h.why = 12 → h.started = true →
      h.passed = false → h.since = id → 2 ≤ bits (h.answer.getD 0).toNat 23 16 →
      gr.quiet (bits (h.answer.getD 0).toNat 7 0) = true → s.releasing tid g (.fence id) = false →
      s.updatePending t.core (bits (h.answer.getD 0).toNat 7 0) [] = false →
      Completes (exec (.releasePerform tid g id) s)

/-- The moves of the ordering machine that no instruction takes. -/
def Obligations.OrderingMoves : Prop := ViewWriteback ∧ ViewFillAndDrop ∧ DrainsAndAnswers ∧ Releases

/-! ## Waiting and time (02 R33, R34, 03 R57-R67, 12 R269) -/

/-- STALL_HINT_EXPIRY, ALARM_EXPIRY, TIMEOUT_EXPIRY and WAIT_RELEASED (12 R269, 03 R63, R67, 02 R33): each changes one
field of one group, or of the program of one transfer processor. -/
def WaitsEnd : Prop :=
  ∀ s : State,
    (∀ tid g gr, s.group? tid g = some gr → gr.stall = stallOver → ∃ s1, exec (.stallHintExpiry tid g) s = .next s1
      ∧ OnlyGroup tid g s s1 ∧ s1.group? tid g = some { gr with stall := 0 })
    ∧ (∀ tid g slot t gr a, s.team? tid = some t → t.groups[g]? = some gr → a = gr.alarm slot → a.armed = true →
      a.deadline.toNat ≤ (s.vclk t.part t.ctx).toNat → ∃ s1 g1, exec (.alarmExpiry tid g slot) s = .next s1
        ∧ OnlyGroup tid g s s1 ∧ s1.group? tid g = some g1 ∧ g1.alarm slot = { a with armed := false, expired := true }
        ∧ ∀ n, n ≠ slot → g1.alarm n = gr.alarm n)
    ∧ (∀ tid g t gr h d, s.team? tid = some t → t.groups[g]? = some gr → gr.hold = some h → h.started = true →
      h.timedOut = false → h.deadline = some d → d.toNat ≤ (s.vclk t.part t.ctx).toNat → s.stopped t.part t.ctx = false →
      ∃ s1, exec (.timeoutExpiry (.group tid g)) s = .next s1 ∧ OnlyGroup tid g s s1
        ∧ s1.group? tid g = some { gr with hold := some { h with timedOut := true, ready := true } })
    ∧ (∀ tid g gr h, s.group? tid g = some gr → gr.hold = some h → s.released tid g h = true →
      ∃ s1, exec (.waitReleased (.group tid g)) s = .next s1 ∧ OnlyGroup tid g s s1
        ∧ s1.group? tid g = some { gr with hold := some { h with ready := true } })
    ∧ (∀ core r t h d, (s.core core).dxp.run = some r → s.team? r.cmd.tid = some t → r.hold = some h → h.started = true →
      h.timedOut = false → h.deadline = some d → d.toNat ≤ (s.vclk t.part t.ctx).toNat → s.stopped t.part t.ctx = false →
      ∃ s1, exec (.timeoutExpiry (.dxp core)) s = .next s1 ∧ s1.teams = s.teams ∧ s1.home = s.home
        ∧ (s1.core core).dxp.run = some { r with hold := some { h with timedOut := true, ready := true } })
    ∧ (∀ core r h, (s.core core).dxp.run = some r → r.hold = some h → s.dxReleased core = true →
      ∃ s1, exec (.waitReleased (.dxp core)) s = .next s1 ∧ s1.teams = s.teams ∧ s1.home = s.home
        ∧ (s1.core core).dxp.run = some { r with hold := some { h with ready := true } })

/-- A quadrant's cycle (R34, 13 R289): it completes where nothing is selected and the quadrant's part of the core's cycle has
come, 0 to 3 in that order, and cannot take place out of that order; a transfer processor that runs a program issues; the
group chosen is one of the quadrant's that is ready; where a ready group has waited 64 cycles or more, the one that has
waited longest; and some group is chosen where one is ready and has not yielded. That a core's quadrants take their cycles in
that order, and that no other order takes place, is the model's (log 8, log 21, DEDUCED; notEnabled, log 1). -/
def QuadrantCycles : Prop :=
  (∀ (s : State) (core q : Nat), s.cur = none → q ≤ 4 → core < 208 →
    ((q = 4 ∨ (s.core core).nextQ = q) → Completes (exec (.quadrantCycle core q) s))
    ∧ (q < 4 → (s.core core).nextQ ≠ q → exec (.quadrantCycle core q) s = .fault .notEnabled)
    ∧ ∀ r, q = 4 → (s.core core).dxp.run = some r → r.ending = none →
      exec (.quadrantCycle core q) s = .next { s with cur := some (.dxp core) })
  ∧ ∀ (s : State) (core q : Nat) (xs : List QGroup),
    (∀ x, s.pick core q xs = some x → x ∈ xs ∧ x.why = none
      ∧ ∀ y ∈ xs, y.why = none → 64 ≤ y.gr.age → y.t.lrec.det = false → 64 ≤ x.gr.age ∧ y.gr.age ≤ x.gr.age)
    ∧ ∀ y ∈ xs, y.why = none → y.gr.yieldHint = false → (s.pick core q xs).isSome = true

/-- REFERENCE_CLOCK_PERIOD (03 R57-R59): it completes; RCLK counts from READY, and VCLK with it outside a stop interval. What
a period does to messages that wait is in MessagesAndRecords; with none, it leaves home memory as it was. -/
def ClockPeriods : Prop :=
  ∀ s : State, (s.ready = false → exec .referenceClockPeriod s = .next s)
    ∧ (s.ready = true → ∃ s1, exec .referenceClockPeriod s = .next s1
      ∧ ((∀ p c, (s.ctx p c).allMsgs = []) → s1.rclk = s.rclk + 512 ∧ s1.home = s.home
        ∧ ∀ p c, s1.vclk p c = if s.stopped p c then s.vclk p c else s.vclk p c + 512))

/-- Waiting, the choice of a quadrant, and the clock. -/
def Obligations.WaitsAndCycles : Prop := WaitsEnd ∧ QuadrantCycles ∧ ClockPeriods

/-! ## Register lines, vat tiles, mapped lines (02 R56, 05 R113, 06 R144, R145) -/

/-- REGISTER_LINE_FILL brings in a line that a group's next instruction needs, in place of another where the cache is full and
not with fewer than its 4,096 lines in use (25 R451; which lines are in use, log 12); VAT_TILE_SWAP brings in a tile, whose slot
then holds it, and a tile that had left has the cells of its image (05 R113); SPMAP_LINE_FILL fills a mapped line, which is
then valid and clean; its number, that of the line in its allocation plus 2^32 times the team that owns it, is the model's
(log 12, DESIGN CHOICE); SPMAP_SPACE_WRITEBACK writes the line that has been dirty longest, which is then clean. -/
def Obligations.LineMoves : Prop :=
  ∀ s : State,
    (∀ tid t g line user rest, s.team? tid = some t → t.lineOut g line = true → s.lineUsers tid t g line = user :: rest →
      (s.linesUsed t.core < 4096 → Completes (exec (.registerLineFill tid g line none) s)
        ∧ ∀ i gr r, g = some i → t.groups[i]? = some gr → s.errs = [] → s.imageLine t (t.lineVa g line) = .ok r →
          ∃ s1 g1, exec (.registerLineFill tid g line none) s = .next s1 ∧ s1.group? tid i = some g1
            ∧ line ∉ g1.fresh ∧ line ∉ g1.evicted)
      ∧ (s.linesUsed t.core < 4096 → ∀ v, exec (.registerLineFill tid g line (some v)) s = .fault .notEnabled)
      ∧ (4096 ≤ s.linesUsed t.core → ∀ v, s.evictable t.core v = true →
        Completes (exec (.registerLineFill tid g line (some v)) s)))
    ∧ (∀ core slot tid t user, s.team? tid = some t → t.mast = false → t.core = core → slot < 4 →
      SMap.get 0 (s.core core).vatTid slot ≠ tid + 1 →
      ((s.core core).engine.any fun o => o.tid + 1 == SMap.get 0 (s.core core).vatTid slot && o.vats.contains slot) = false →
      (List.range t.groups.length).find? (fun g => s.needsVat core slot tid g) = some user →
      Completes (exec (.vatTileSwap core slot tid) s)
      ∧ (s.errs = [] → SMap.get 0 (s.core core).vatTid slot = 0 → ∀ bs,
        (s.imageLines t 768 (t.imageBase + 0x20000 + 0x18000 * slot)).2 = .ok bs →
        ∃ s1 t1, exec (.vatTileSwap core slot tid) s = .next s1 ∧ SMap.get 0 (s1.core core).vatTid slot = tid + 1
          ∧ s1.team? tid = some t1 ∧ 1024 + slot ∉ t1.evicted
          ∧ (1024 + slot ∈ t.evicted → ∀ i < 16384, SMap.get 0#48 t1.vat (16384 * slot + i)
              = BitVec.ofNat 48 (ofBytes (sliceD 0#8 bs (6 * i) 6)))))
    ∧ (∀ core slot tid o t u user, s.team? tid = some t → s.team? o = some u → o ≠ tid → t.mast = false → t.core = core →
      slot < 4 → SMap.get 0 (s.core core).vatTid slot = o + 1 → u.vatClean.contains slot = true → s.errs = [] →
      ((s.core core).engine.any fun x => x.tid + 1 == o + 1 && x.vats.contains slot) = false →
      (List.range t.groups.length).find? (fun g => s.needsVat core slot tid g) = some user →
      ∃ s1 u1, exec (.vatTileSwap core slot tid) s = .next s1 ∧ s1.team? o = some u1 ∧ 1024 + slot ∈ u1.evicted
        ∧ SMap.get 0 (s1.core core).vatTid slot ≠ o + 1)
    ∧ (∀ tid g owner ln t gr u use x, s.team? tid = some t → s.group? tid g = some gr → s.team? owner = some u → ln < 2 ^ 32 →
      u.mapped (128 * ln) = true → (SMap.get MapLine.off u.lines ln).valid = false →
      s.lineUse tid g t gr owner ln = some use → u.spEntry ln = some x →
      Completes (exec (.spmapLineFill tid g (ln + 2 ^ 32 * owner)) s)
      ∧ ∀ m pa key, x = .ok m → s.errs = [] →
        s.xlate u .fill (m.vbase + u.index * m.tstride * 4096 + 128 * ln - 4096 * m.off) = .ok (.mem pa key) →
        ∃ s1 u1, exec (.spmapLineFill tid g (ln + 2 ^ 32 * owner)) s = .next s1 ∧ s1.team? owner = some u1
          ∧ SMap.get MapLine.off u1.lines ln = ⟨true, 0, 0⟩)
    ∧ ∀ tid t ln, s.team? tid = some t → t.oldestDirty = some ln →
      Completes (exec (.spmapSpaceWriteback tid) s)
      ∧ ((∃ m ∈ t.spmap, 32 * m.off ≤ ln ∧ ln < 32 * (m.off + m.len % 512)) → ∃ s1 t1,
        exec (.spmapSpaceWriteback tid) s = .next s1 ∧ s1.team? tid = some t1
        ∧ (SMap.get MapLine.off t1.lines ln).dirty = 0)


/-! ## Grids (02 R27, R28, R43, 07 R176-R179) -/

/-- LAUNCH_DOORBELL, LAUNCH_CHECK, TEAM_PLACEMENT, LAUNCH_COMPLETE: a doorbell takes the next launch number while fewer than
64 wait, is dropped and counted with 64 waiting, and does nothing in a partition that is not enabled; the oldest waiting
record is checked and leaves the queue, and one that is misaligned or ill-formed makes no grid; a grid's next set of teams
starts where there is room, also in the register caches of its cores (25 R451; log 12); a grid whose groups have all gone,
launched by no other grid, leaves. -/
def Obligations.GridMoves : Prop :=
  ∀ (s : State) (p : Nat),
    (∀ addr : W64,
      (((s.part p).en = false ∨ (s.part p).busy = true) → exec (.launchDoorbell p addr) s = .next s)
      ∧ ((s.part p).en = true → (s.part p).busy = false → (s.part p).launchq.length < 64 →
        ∃ s1, exec (.launchDoorbell p addr) s = .next s1
          ∧ (s1.part p).launchq = (s.part p).launchq ++ [⟨(s.part p).nextLaunch.toNat, addr.toNat⟩]
          ∧ (s1.part p).nextLaunch = (s.part p).nextLaunch + 1 ∧ s1.teams = s.teams ∧ s1.home = s.home)
      ∧ ((s.part p).en = true → (s.part p).busy = false → 64 ≤ (s.part p).launchq.length →
        ∃ s1, exec (.launchDoorbell p addr) s = .next s1 ∧ (s1.part p).launchq = (s.part p).launchq
          ∧ (s1.part p).launchDrop = satAdd (s.part p).launchDrop 1 ∧ (s1.part p).nextLaunch = (s.part p).nextLaunch))
    ∧ (∀ x rest, (s.part p).en = true → (s.part p).busy = false → (s.part p).launchq = x :: rest →
      ∃ s1, exec (.launchCheck p) s = .next s1 ∧ (s1.part p).launchq = rest ∧ s1.teams = s.teams
        ∧ ((x.addr % 128 ≠ 0 ∨ parseLaunch ((List.range 128).map fun i => s.devByte p (x.addr + i)) = none) →
          (s1.part p).grids = (s.part p).grids))
    ∧ (∀ g origin first n, (s.part p).en = true → (s.part p).busy = false →
      (s.part p).grids.find? (fun g => (s.placeFor p g).isSome) = some g → s.placeFor p g = some origin →
      g.nextSet = some (first, n) → (s.part p).grids.find? (fun y => y.launch == g.launch) = some g →
      ((∀ i < n, s.mayRoom (rectCore g.lrec origin i) (32 + 26 * g.lrec.groups) = true) → Completes (exec (.teamPlacement p) s))
      ∧ ((∀ i < n, s.lineRoom (rectCore g.lrec origin i) (32 + 26 * g.lrec.groups) = true) → ∃ s1, exec (.teamPlacement p) s = .next s1 ∧ s1.nextTid = s.nextTid + n
        ∧ ∀ x, (s1.part p).grids.find? (fun y => y.launch == g.launch) = some x → x.placed = g.placed + n))
    ∧ ∀ launch g, (s.part p).grids.find? (fun g => g.launch == launch) = some g → g.status = none →
      s.gridOver p g = true → ∃ s1, exec (.launchComplete p launch) s = .next s1
        ∧ (g.invoked = 0 → ∀ x ∈ (s1.part p).grids, x.launch ≠ launch)

/-! ## Stop intervals (03 R59-R62, 02 R48-R54, 10 R242) -/

/-- PREEMPTION, PARTITION_SWAP, HOTSPOT_MIGRATION, STOP_INTERVAL_CLOSE: the first move of each opens the context's stop
interval at the value its virtual clock has; the drain then goes on; with the drain done the teams are put away or moved;
an interval whose work is done closes, at once or, where some cores resume before the last, with the last, and virtual time
resumes where it stopped. The several moves of a stop and what each does are the model's (log 17, DEDUCED); which cores resume
before the last is a free choice (log 4); teams come back once the register caches have room for their pinned lines (25 R451;
log 12). -/
def Obligations.StopMoves : Prop :=
  ∀ (s : State) (p c : Nat),
    ((s.part p).en = true → (s.part p).busy = false → (s.ctx p c).valid = true →
      ((s.ctx p c).stop = none → ∃ s1, exec (.preemption p c) s = .next s1
        ∧ (s1.ctx p c).stop = some ⟨s.vclk p c, s.rclk, [.preempt], false, false, []⟩ ∧ s1.vclk p c = s.vclk p c
        ∧ s1.teams = s.teams)
      ∧ (s.stopsFor p c .preempt = true → ∀ s1, s.drainMore p c = some s1 → exec (.preemption p c) s = .next s1)
      ∧ (s.stopsFor p c .preempt = true → s.drainMore p c = none → s.drainDone p c = true → s.allSaved p c = false →
        exec (.preemption p c) s = .next (s.putAwayAll p c)))
    ∧ ((s.part p).en = true → (s.part p).busy = false → ∀ s1, (s.ctxsOf p).findSome? (fun c => s.swapMore p c) = some s1 →
      exec (.partitionSwap p) s = .next s1)
    ∧ ((s.part p).en = true → (s.part p).busy = false → ∀ rest, s.ctxsOf p = c :: rest → (s.ctx p c).stop = none →
      ∃ s1, exec (.partitionSwap p) s = .next s1
        ∧ (s1.ctx p c).stop = some ⟨s.vclk p c, s.rclk, [.swap], false, false, []⟩)
    ∧ (∀ tid core t, s.team? tid = some t → t.part = p → t.ctx = c → t.mast = false → (s.core t.core).hot = true →
      s.mayMove tid t = true → s.mayTake t core = true →
      (t.moving = false → ∃ s1, exec (.hotspotMigration tid core) s = .next s1 ∧ s1.stopped p c = true
        ∧ (s1.team? tid).map Team.moving = some true ∧ (s1.team? tid).map Team.groups = some t.groups)
      ∧ (t.moving = true → s.drainMore p c = none → s.drainDone p c = true →
        ∀ slots, assignSlots (s.slotsUsed core) t.groups.length 0 = some slots →
        (s.mayRoom core t.pins = true → Completes (exec (.hotspotMigration tid core) s))
        ∧ (s.lineRoom core t.pins = true → exec (.hotspotMigration tid core) s = .next (s.moveTeam tid core slots)))
      ∧ (t.moving = true → ∀ s1, s.drainMore p c = some s1 → exec (.hotspotMigration tid core) s = .next s1))
    ∧ (s.drainDone p c = true →
      ((s.stopsFor p c .preempt = true ∧ s.allSaved p c = true)
        ∨ (s.stopsFor p c .swap = true ∧ ∀ x ∈ s.ctxsOf p, s.swappedOut p x = true)
        ∨ (s.stopsFor p c .migrate = true ∧ ∀ e ∈ s.ctxTeams p c, e.2.moving = false)) →
      Completes (exec (.stopIntervalClose p c) s))
    ∧ (s.drainDone p c = true → ∀ st, (s.ctx p c).stop = some st → st.why = [.preempt] → s.allSaved p c = true → s.errs = [] →
      ∃ s1, exec (.stopIntervalClose p c) s = .next s1
        ∧ (((s1.ctx p c).stop = none ∧ (s1.ctx p c).stopsum = (s.ctx p c).stopsum + (s.rclk - st.opened))
          ∨ ∃ st1, (s1.ctx p c).stop = some st1 ∧ st1.why = [] ∧ st1.s = st.s ∧ st1.opened = st.opened))
    ∧ ∀ st, (s.ctx p c).stop = some st → st.why = [] →
      ((∀ e ∈ s.ctxTeams p c, e.2.parked = false) → ∃ s1, exec (.stopIntervalClose p c) s = .next s1
        ∧ (s1.ctx p c).stop = none ∧ (s1.ctx p c).stopsum = (s.ctx p c).stopsum + (s.rclk - st.opened)
        ∧ s1.vclk p c = st.opened - (s.ctx p c).stopsum - (s.ctx p c).created)
      ∧ ((∀ k ∈ s.ctxCores p c, s.mayRoom k (s.backPins p c k) = true) → Completes (exec (.stopIntervalClose p c) s))

/-! ## Messages and records that waited (03 R70-R73, 07 R166, R180, 19 R433) -/

/-- BRINE_VISIBLE, PATIENCE_EXPIRY, STANDIN_DEFERRED_WRITE (the first held slot whose mailbox has room, whatever is held before
it for a mailbox that is full; with none it cannot take place), EPPOST_WRITE, EVQ_HELD_RECORD_POST, RECORDS_LOST_POST,
NOTICES_LOST_POST. -/
def Obligations.MessagesAndRecords : Prop :=
  ∀ s : State,
    (∀ p c m, s.brineDue p c = some m → ∃ s1 m1, exec (.brineVisible p c) s = .next s1 ∧ s1.home = s.home
      ∧ (s1.ctx p c).brine = (s.ctx p c).brine.drop 1
      ∧ SMap.get [] (s1.ctx p c).recvq m.ep = SMap.get [] (s.ctx p c).recvq m.ep ++ [m1]
      ∧ m1.bytes = m.bytes ∧ m1.ident = m.ident ∧ m1.stamp = m.stamp)
    ∧ (∀ p c ident m, (s.ctx p c).allMsgs.find? (fun m => m.ident.toNat == ident && m.patience != 0) = some m →
      65536 * m.patience ≤ (s.rclk - m.born).toNat → s.brineDue p c = none →
      Completes (exec (.patienceExpiry p c ident) s))
    ∧ (∀ p c i d, (s.ctx p c).deferred[i]? = some d → s.mailFree d.ep = true →
      (∀ j < i, ∀ e, (s.ctx p c).deferred[j]? = some e → s.mailFree e.ep = false) →
      ∃ s1, exec (.standinDeferredWrite p c) s = .next s1 ∧ (s1.ctx p c).deferred = (s.ctx p c).deferred.eraseIdx i)
    ∧ (∀ p c, (∀ d ∈ (s.ctx p c).deferred, s.mailFree d.ep = false) →
      exec (.standinDeferredWrite p c) s = .fault .notEnabled)
    ∧ (∀ p, ∀ addr : W64, Completes (exec (.eppostWrite p addr) s)
      ∧ ((s.ctx p (bits (s.hostWord addr.toNat) 37 32)).valid = false →
        exec (.eppostWrite p addr) s = .next (s.hostWrite (addr.toNat + 8) (toBytes 8 (2 ^ 63 + 4)))))
    ∧ (∀ core h rest, (s.core core).held = h :: rest → s.evCount core < 256 →
      ∃ s1, exec (.evqHeldRecordPost core) s = .next s1 ∧ (s1.core core).held = rest ∧ s1.evCount core = s.evCount core + 1)
    ∧ (∀ n, n < 16 → (s.cluster n).lostPend ≠ 0 → (s.cluster n).evq.length < 256 →
      ∃ s1 w, exec (.recordsLostPost n) s = .next s1 ∧ (s1.cluster n).lostPend = 0
        ∧ (s1.cluster n).evq = (s.cluster n).evq ++ [⟨w, BitVec.ofNat 64 (s.cluster n).lostPend, 0, 0⟩]
        ∧ bits w.toNat 7 0 = 6)
    ∧ ∀ p, (s.part p).noticeLost ≠ 0 → s.noticeRoom p ≠ 0 →
      ∃ s1, exec (.noticesLostPost p) s = .next s1 ∧ (s1.part p).noticeLost = 0 ∧ s1.home = s.home

/-! ## Sensors, caps, power (02 R44, 19 R439, R440) -/

/-- TEMPERATURE_SAMPLE, DROOP_EVENT, DROOP_CAP_EXPIRY: a core is hot-excluded above HOT and no longer at HOT - 4; the
thermal cap falls by 4 steps with the hottest core at HOT + 10 or more and rises by one with it at HOT or less; a droop caps
the step two below for 100 real ticks; the step is the lowest cap. POWER_GOOD takes the next step of start-up; LOSS_OF_POWER
leaves the device not READY, and takes the slot only while an image that verifies is being written to it. That the cap follows
the hottest sample of the cluster, once per sampling event, and that home memory reads 0 right after a loss of power are the
model's (log 19, DESIGN CHOICE; log 2). -/
def Obligations.SensorsAndPower : Prop :=
  ∀ s : State,
    (∀ n temps droops, n < 16 → temps.length = 12 → droops.length = 12 →
      ∃ s1, exec (.temperatureSample n temps droops) s = .next s1
        ∧ (∀ i < 12, (s1.core (12 * n + i)).temp = temps.getD i 0 ∧ (s1.core (12 * n + i)).droop = droops.getD i 0
          ∧ ((s.cluster n).hotAt < (temps.getD i 0).toInt → (s1.core (12 * n + i)).hot = true)
          ∧ ((temps.getD i 0).toInt ≤ (s.cluster n).hotAt - 4 → (s1.core (12 * n + i)).hot = false))
        ∧ ((∃ x ∈ temps, (s.cluster n).hotAt + 10 ≤ x.toInt) → (s1.cluster n).thermal = (s.cluster n).thermal - 4)
        ∧ ((∀ x ∈ temps, x.toInt ≤ (s.cluster n).hotAt) → (s1.cluster n).thermal = min 46 ((s.cluster n).thermal + 1))
        ∧ (s1.cluster n).step = BitVec.ofNat 6 (s1.stepFor n))
    ∧ (∀ n, n < 16 → ∃ s1, exec (.droopEvent n) s = .next s1
      ∧ (s1.cluster n).droopCap = some ((s.cluster n).step.toNat - 2, s.rclk + 100 * 65536)
      ∧ (s1.cluster n).step.toNat ≤ (s.cluster n).step.toNat - 2)
    ∧ (∀ n x, (s.cluster n).droopCap = some x → x.2.toNat ≤ s.rclk.toNat → ∃ s1, exec (.droopCapExpiry n) s = .next s1
      ∧ (s1.cluster n).droopCap = none ∧ (s1.cluster n).step = BitVec.ofNat 6 (s1.stepFor n))
    ∧ (s.ready = false → s.imgfail = false →
      (s.caldone = false → s.slotOk = true → imageVerifies s.slot = true →
        exec .powerGood s = .next { s with runImage := s.slot, caldone := true })
      ∧ (s.caldone = false → (s.slotOk = false ∨ imageVerifies s.slot = false) →
        exec .powerGood s = .next { s with imgfail := true })
      ∧ (s.caldone = true → s.memdone = false → ∃ s1, exec .powerGood s = .next s1 ∧ s1.memdone = true
        ∧ ∀ pa, s1.homeByte 0 pa = 0)
      ∧ (s.caldone = true → s.memdone = true → exec .powerGood s = .next { s with ready := true, rclk := 0 }))
    ∧ ∀ w, (w = true → s.pfBusy = true ∧ s.pfWord.toNat % 256 = 7 ∧ imageVerifies s.pfImage = true) → ∃ s1, exec (.lossOfPower w) s = .next s1
      ∧ s1.ready = false ∧ s1.memdone = false ∧ s1.slot = s.slot ∧ s1.slotOk = (s.slotOk && !w) ∧ s1.teams = []
      ∧ (∀ pa, s1.homeByte 0 pa = 0) ∧ s1.hostMem = s.hostMem
      ∧ (imageVerifies s.pfImage = false → exec (.lossOfPower true) s = .fault .notEnabled)


/-! ## Registers of S, V and M (05 R126-R130, 09 R217, R221, 18 R410, 19 R428, R430) -/

/-- CLPART_WRITE and the writes of PARTCTL (05 R127, R128, 19 R428): refused, with CLPARTERR, where the spec refuses them; EN
set starts the partition afresh, EN cleared resets it and sets BUSY, and HALT stops every context. That a function-level
reset is two writes of EN, one move each, is the model's (log 16, DEDUCED). -/
def PartitionControl : Prop :=
  ∀ (s : State) (p : Nat), p < 16 → s.ready = true →
    (∀ v : W32, (s.inReset p = false → exec (.clpartWrite p v) s = .next { s with clparterr := true })
      ∧ (s.inReset p = true → ∃ s1, exec (.clpartWrite p v) s = .next s1 ∧ (s1.cluster p).valid = v.getLsbD 7
        ∧ (s1.cluster p).part = v.setWidth 4 ∧ s1.home = s.home))
    ∧ ((s.part p).busy = true → exec (.partctlEnSet p) s = .next { s with clparterr := true })
    ∧ ((s.part p).busy = false → (s.part p).en = false → ∃ s1, exec (.partctlEnSet p) s = .next s1
        ∧ (s1.part p).en = true ∧ (s1.part p).keyGen = s.keyNext ∧ (s1.part p).epoch = satAdd (s.part p).epoch 1
        ∧ (s1.part p).present = 0x3FF ∧ (s1.part p).nextLaunch = 0 ∧ s1.home = s.home)
    ∧ ((s.part p).en = true → ∃ s1, exec (.partctlEnClear p) s = .next s1 ∧ (s1.part p).en = false ∧ (s1.part p).busy = true
        ∧ (s1.part p).grids = [] ∧ (s1.part p).launchq = [] ∧ ∀ e ∈ s1.teams, e.2.part ≠ p)
    ∧ ((s.part p).en = false → exec (.partctlEnClear p) s = .next s)
    ∧ ((s.part p).busy = true → ∃ s1, exec (.partitionResetComplete p) s = .next s1 ∧ (s1.part p).busy = false)
    ∧ ((s.part p).busy = false → exec (.vfFunctionLevelReset p) s
        = if (s.part p).en then exec (.partctlEnClear p) s else exec (.partctlEnSet p) s)
    ∧ ((s.part p).en = false → exec (.partctlHaltSet p) s = .next { s with clparterr := true })
    ∧ ((s.part p).en = true → (s.part p).halt = false → ∃ s1, exec (.partctlHaltSet p) s = .next s1
        ∧ (s1.part p).halt = true ∧ ∀ c ∈ s.ctxsOf p, s1.stopped p c = true)
    ∧ ((s.part p).en = true → (s.part p).halt = true → ∃ s1, exec (.partctlHaltClear p) s = .next s1
        ∧ (s1.part p).halt = false ∧ (s1.part p).halted = false)

/-- MASTCTL_GO and the debugger's control (05 R130, 18 R410). -/
def MastAndDebugger : Prop :=
  ∀ (s : State) (n : Nat), n < 16 → s.ready = true →
    (∀ v : W32, v.getLsbD 0 = true →
      ((s.inReset n = true ∨ (s.cluster n).mState = 1
          ∨ s.ctxValid (s.cluster n).part.toNat (bits v.toNat 13 8) = false) → exec (.mastctlGo n v) s = .next { s with clparterr := true })
      ∧ (s.inReset n = false → (s.cluster n).mState ≠ 1 → s.ctxValid (s.cluster n).part.toNat (bits v.toNat 13 8) = true →
        ∃ s1, exec (.mastctlGo n v) s = .next s1 ∧ (s1.cluster n).mState = 1
          ∧ (s1.team? s.nextTid).map Team.mast = some true))
    ∧ Completes (exec (.dbgctlGo n) s)
    ∧ ((s.part n).dbgStopped = false → exec (.dbgctlGo n) s = .next s)
    ∧ ((s.part n).dbgStopped = true → (s.part n).dbgStep = false → ∃ s1, exec (.dbgctlGo n) s = .next s1
        ∧ (s1.part n).dbgStopped = false)
    ∧ (∃ s1, exec (.dbgctlStepSet n) s = .next s1 ∧ (s1.part n).dbgStep = true)
    ∧ (∃ s1, exec (.dbgctlStepClear n) s = .next s1 ∧ (s1.part n).dbgStep = false ∧ s1.teams = s.teams)

/-- The counters and the reads that clear (09 R217, R218, R221, 07 R167, R169): a writer that R217 lets write clears, selects or
sets a counter of a core, where EN stays 0 for an event a core does not count; another's write changes nothing. -/
def CountersAndReads : Prop :=
  ∀ (s : State) (ag : HostAgent) (k n : Nat), s.ready = true →
    (∀ u, Completes (exec (.pmselClr ag u n) s) ∧ (∀ v, Completes (exec (.pmselWrite ag u n v) s))
      ∧ ∀ v, Completes (exec (.pmcntWrite ag u n v) s))
    ∧ (∀ off v, ownRow off = false → ¬ (0x20000 ≤ off ∧ off < 0x21000 ∧ off % 0x100 = 0x30 ∧ v.getLsbD 0 = true) →
      Completes (exec (.registerWrite .sysSw off v) s))
    ∧ (s.pmWriter ag (.core k) n = true → ∀ x, x = SMap.get Pm.reset (s.corePm k) n →
      (∃ s1, exec (.pmselClr ag (.core k) n) s = .next s1 ∧ SMap.get Pm.reset (s1.corePm k) n = x.program 0)
      ∧ (∀ v, ∃ s1, exec (.pmcntWrite ag (.core k) n v) s = .next s1
        ∧ SMap.get Pm.reset (s1.corePm k) n = x.program (v.setWidth 48) ∧ (x.program (v.setWidth 48)).count = v.setWidth 48)
      ∧ (∀ v, ∃ s1 y, exec (.pmselWrite ag (.core k) n v) s = .next s1 ∧ y = SMap.get Pm.reset (s1.corePm k) n
        ∧ y.event = v.setWidth 7 ∧ y.vf = agentVf ag v ∧ y.en = (v.getLsbD 12 && decide (v.toNat % 128 ≤ 15))
        ∧ (v.getLsbD 31 = false → y.ovf = x.ovf) ∧ (v.getLsbD 31 = true → x.wraps = false → y.ovf = false)
        ∧ (v.getLsbD 30 = true → y.count = 0)))
    ∧ (∀ u, s.pmWriter ag u n = false → (exec (.pmselClr ag u n) s = .next s)
      ∧ (∀ v, exec (.pmcntWrite ag u n v) s = .next s) ∧ ∀ v, exec (.pmselWrite ag u n v) s = .next s)
    ∧ (n < 16 → ∃ s1, exec (.evqstatRead n) s = .next s1 ∧ (s1.cluster n).lost = 0
      ∧ s1.out = .regRead (BitVec.ofNat 64 ((s.cluster n).evq.length + 2 ^ 16 * (s.cluster n).lost.toNat)) :: s.out)
    ∧ (∀ x rest, (s.core k).dxp.trapq = x :: rest → ∃ s1, exec (.dxpTrapqRead k) s = .next s1
      ∧ (s1.core k).dxp.trapq = rest ∧ s1.out = .trapRead x.2 :: s.out)
    ∧ (∀ off v, exec (.registerWrite .mgmt off v) s = .next s)
    ∧ (∀ p off v, (s.ownVfRow p off = false → exec (.registerWrite (.virt p) off v) s = .next s)
      ∧ (s.ownVfRow p off = true → exec (.registerWrite (.virt p) off v) s = .fault .notEnabled))
    ∧ (n < 16 → ∀ v,
      (∃ s1, exec (.registerWrite .sysSw (0x20008 + 0x100 * n) v) s = .next s1
        ∧ (s1.cluster n).hotT = v.setWidth 8 ∧ (s1.cluster n).droopw = (v >>> 8).setWidth 8)
      ∧ (∃ s1, exec (.registerWrite .sysSw (0x20010 + 0x100 * n) v) s = .next s1
        ∧ (s1.cluster n).widthm1 = v.setWidth 4 ∧ (s1.cluster n).gap = (v >>> 8).setWidth 8)
      ∧ (∃ s1, exec (.registerWrite .sysSw (0x20018 + 0x100 * n) v) s = .next s1 ∧ (s1.cluster n).wcage = v.setWidth 16)
      ∧ (∃ s1, exec (.registerWrite .sysSw (0x10008 + 0x100 * n) v) s = .next s1
        ∧ (s1.part n).recBase = if (s.part n).en then (s.part n).recBase else bits v.toNat 51 8 * 256))

/-- While the device is not READY none of these writes changes anything: the model's reading (log 16, DEDUCED: 19 R440 says it
of a failed image). -/
def NotReady : Prop :=
  ∀ (s : State) (p : Nat), p < 16 → s.ready = false →
    exec (.partctlEnSet p) s = .next s ∧ exec (.partctlEnClear p) s = .next s ∧ exec (.partctlHaltSet p) s = .next s
    ∧ exec (.partctlHaltClear p) s = .next s ∧ exec (.dbgctlGo p) s = .next s ∧ exec (.dbgctlStepSet p) s = .next s
    ∧ (∀ v, exec (.clpartWrite p v) s = .next s) ∧ ∀ ag u n v, exec (.pmselWrite ag u n v) s = .next s

/-- The registers that software outside the groups writes and reads. -/
def Obligations.HostRegisters : Prop := PartitionControl ∧ MastAndDebugger ∧ CountersAndReads ∧ NotReady


/-! ## The physical function's commands and the links (19 R428-R434, R440, 06 R137, R138, 08 R202, R203) -/

/-- The commands of PFCMD by their operation. -/
def pfcmdOf : List (Nat × (W64 → Instr)) :=
  [(1, .pfcmdRaiseGeneration), (2, .pfcmdWriteEndpoint), (3, .pfcmdClearOpt), (4, .pfcmdClearPartitionOpt),
    (5, .pfcmdSetLock), (6, .pfcmdClearLock)]

/-- PFCMD (19 R431): a write while BUSY is ignored, and, in the model (log 16, DEDUCED), one while not READY; a command of a
partition that is not enabled, or of no operation, sets ERR; the others take effect and leave BUSY and ERR clear. -/
def PfCommands : Prop :=
  ∀ (s : State) (w : W64),
    (∀ op con, (op, con) ∈ pfcmdOf → pfOp w = op → (s.pfBusy = true ∨ s.ready = false) → exec (con w) s = .next s)
    ∧ (s.pfBusy = false → s.ready = true →
      (∀ op con, (op, con) ∈ pfcmdOf → op ≠ 3 → pfOp w = op → (s.part (pfPart w)).en = false →
        exec (con w) s = .next { s with pfWord := w &&& 0x3FFFFFF, pfErr := true, pfBusy := false })
      ∧ ((pfOp w = 0 ∨ 7 < pfOp w) →
        exec (.pfcmdUnknownOp w) s = .next { s with pfWord := w &&& 0x3FFFFFF, pfErr := true, pfBusy := false })
      ∧ (pfOp w = 1 → s.pfCtxOk w = true → ∀ g, g = ((s.loadCtx (pfPart w) (pfCtx w)).ctx (pfPart w) (pfCtx w)).gen →
        (g ≠ 0xFFFF → ∃ s1, exec (.pfcmdRaiseGeneration w) s = .next s1 ∧ s1.pfErr = false ∧ s1.pfBusy = false
          ∧ (s1.ctx (pfPart w) (pfCtx w)).gen = g + 1)
        ∧ (g = 0xFFFF → ∃ s1, exec (.pfcmdRaiseGeneration w) s = .next s1 ∧ s1.pfBusy = true ∧ s1.home = s.home
          ∧ (s1.ctx (pfPart w) (pfCtx w)).gen = g))
      ∧ (pfOp w = 2 → s.pfCtxOk w = true → pfIndex w < 64 → ∀ e, s.pfEp = some e →
        ∃ s1, exec (.pfcmdWriteEndpoint w) s = .next s1 ∧ s1.pfErr = false
          ∧ s1.ep (pfPart w) (pfCtx w) (pfIndex w) = e)
      ∧ (pfOp w = 3 → ∃ s1, exec (.pfcmdClearOpt w) s = .next s1 ∧ s1.opt = [] ∧ s1.pfErr = false)
      ∧ (pfOp w = 4 → s.pfPartOk w = true → ∃ s1, exec (.pfcmdClearPartitionOpt w) s = .next s1
        ∧ s1.opt = s.opt.filter (fun e => e.2.part.toNat != pfPart w))
      ∧ (pfOp w = 5 → s.pfPartOk w = true → ∃ s1, exec (.pfcmdSetLock w) s = .next s1
        ∧ s1.optEntry (pfIndex w) = { s.optEntry (pfIndex w) with lock := true }
        ∧ ∀ i, i ≠ pfIndex w → s1.optEntry i = s.optEntry i)
      ∧ (pfOp w = 6 → s.pfPartOk w = true → ∃ s1, exec (.pfcmdClearLock w) s = .next s1
        ∧ s1.optEntry (pfIndex w) = { s.optEntry (pfIndex w) with lock := false }
        ∧ ∀ i, i ≠ pfIndex w → s1.optEntry i = s.optEntry i))
    ∧ (pfOp w = 7 → (s.ready = true ∨ s.imgfail = true) →
      (s.pfBusy = false → exec (.pfcmdSupplyFirmware w) s
        = .next { s with pfWord := w &&& 0x3FFFFFF, pfErr := false, pfBusy := true })
      ∧ (s.pfBusy = true → pfOp s.pfWord = 7 → imageVerifies s.pfImage = false →
        ∃ s1, exec (.pfcmdSupplyFirmware w) s = .next s1 ∧ s1.pfErr = true ∧ s1.pfBusy = false ∧ s1.slot = s.slot)
      ∧ (s.pfBusy = true → pfOp s.pfWord = 7 → imageVerifies s.pfImage = true →
        ∃ s1, exec (.pfcmdSupplyFirmware w) s = .next s1 ∧ s1.pfErr = false ∧ s1.pfBusy = false ∧ s1.slot = s.pfImage
          ∧ s1.slotOk = true ∧ s1.imgfail = false))
    ∧ (s.pfBusy = true → pfOp s.pfWord = 1 → ∃ s1, exec .generationWrapInvalidate s = .next s1 ∧ s1.pfBusy = false
      ∧ (s1.ctx (pfPart s.pfWord) (pfCtx s.pfWord)).gen = (s.ctx (pfPart s.pfWord) (pfCtx s.pfWord)).gen + 1)

/-- CXL.mem and the links' training (19 R428, R429, R434, 24 R449): an access that translates reads or writes home memory,
one that does not gets an error completion and nothing changes; the width is the first of 16, 8 and 4 that trains; a port
trains under a fresh key with its counter at 0, trains again at its limit, and is down when it goes down. Over a CXL link that
has not trained there is no access. -/
def Links : Prop :=
  ∀ s : State,
    (s.cxlWidth = 0 → ∀ p off n bs, exec (.cxlMemRead p off n) s = .fault .notEnabled
      ∧ exec (.cxlMemWrite p off bs) s = .fault .notEnabled)
    ∧ (∀ p off n, s.cxlWidth ≠ 0 → p < 16 → 0 < n → Completes (exec (.cxlMemRead p off n) s))
    ∧ (∀ p off bs, s.cxlWidth ≠ 0 → p < 16 → bs ≠ [] → Completes (exec (.cxlMemWrite p off bs) s))
    ∧ (∀ p off n, s.cxlWidth ≠ 0 → p < 16 → 0 < n → off % 64 + n ≤ 64 →
      (s.cxlLoc p off .load = none → exec (.cxlMemRead p off n) s = .next { s with out := .cxlError p off :: s.out })
      ∧ ∀ pa key, s.cxlLoc p off .load = some (pa, key) → s.errs = [] → ∃ s1, exec (.cxlMemRead p off n) s = .next s1
        ∧ s1.out = .cxlData p off (s1.homeBytes key pa n) :: s.out)
    ∧ (∀ p off bs, s.cxlWidth ≠ 0 → p < 16 → 0 < bs.length → off % 64 + bs.length ≤ 64 →
      (s.cxlLoc p off .store = none → exec (.cxlMemWrite p off bs) s = .next { s with out := .cxlError p off :: s.out })
      ∧ ∀ pa key, s.cxlLoc p off .store = some (pa, key) → ∃ s1, exec (.cxlMemWrite p off bs) s = .next s1
        ∧ s1.homeBytes key pa bs.length = bs ∧ s1.out = .cxlDone p off :: s.out)
    ∧ (∀ a b c, exec (.cxlLinkTraining a b c) s
      = .next { s with cxlWidth := if a then 16 else if b then 8 else if c then 4 else 0 })
    ∧ ∀ n, n < 24 →
      (s.portUp n = false → ∃ s1, exec (.lornanLinkTraining n) s = .next s1 ∧ SMap.get Port.down s1.ports n = ⟨true, 0, s.keyNext⟩
        ∧ s1.keyNext = s.keyNext + 1)
      ∧ (s.portUp n = true → 2 ^ 96 - 2 ^ 32 ≤ (SMap.get Port.down s.ports n).ctr.toNat →
        ∃ s1, exec (.lornanPortRetrain n) s = .next s1 ∧ SMap.get Port.down s1.ports n = ⟨true, 0, s.keyNext⟩)
      ∧ (s.portUp n = true → Completes (exec (.lornanPortDown n) s)
        ∧ ((s.out.filter fun o => s.viaPort n o) = [] → ∃ s1, exec (.lornanPortDown n) s = .next s1
          ∧ s1.portUp n = false ∧ s1.out = s.out ∧ s1.paths = s.paths))

/-- The physical function's commands and the links. -/
def Obligations.CommandsAndLinks : Prop := PfCommands ∧ Links


/-! ## Management: Zaron, MCTP, SPDM (19 R437, R438, R441) -/

/-- Zaron frames (08 R199, 19 R437, R438): a frame for another station changes nothing; a reef frame that is newer than the
last and breaks no rule takes effect; each is answered with its status; a path update that is stale, of no destination or
against a field rule (R199) is answered with that status and changes nothing; one that is accepted is applied at once in all
eight entries, and only then answered: that, and that staleness is asked first, is the model's (log 22, DEDUCED). -/
def ZaronFrames : Prop :=
  ∀ (s : State) (f : ZFrame),
    (zAccepts f = false →
      (zByte f 0 = 1 → 21 ≤ f.payload.length → exec (.zaronReefFrame f) s = .next s)
      ∧ (zByte f 0 = 2 → 71 ≤ f.payload.length → exec (.zaronPathUpdate f) s = .next s)
      ∧ (zByte f 0 = 3 → 6 ≤ f.payload.length → exec (.zaronTelemetryRequest f) s = .next s))
    ∧ (zAccepts f = true → zByte f 0 = 1 → 21 ≤ f.payload.length → ∀ ans : Byte → Out, (∀ st, ans st
        = Out.zaron ⟨f.src, ownStation, 0x81#8 :: (toBytes 4 (zSeq f).toNat ++ [st])⟩) →
      (seqAfter s.reefSeq (zSeq f) = false → exec (.zaronReefFrame f) s = .next { s with out := ans 2 :: s.out })
      ∧ (seqAfter s.reefSeq (zSeq f) = true → (∃ k < 16, 15 < zByte f (5 + k)) →
        exec (.zaronReefFrame f) s = .next { s with out := ans 1 :: s.out })
      ∧ (seqAfter s.reefSeq (zSeq f) = true → (∀ k < 16, zByte f (5 + k) ≤ 15) →
        ∃ s1, exec (.zaronReefFrame f) s = .next s1 ∧ s1.reefSeq = some (zSeq f) ∧ s1.out = ans 0 :: s.out
          ∧ (∀ k < 16, s1.reefLevels.getD k 0 = zByte f (5 + k)) ∧ ∀ n < 16, (s1.cluster n).step = BitVec.ofNat 6 (s1.stepFor n)))
    ∧ (zAccepts f = true → zByte f 0 = 2 → 71 ≤ f.payload.length →
      ∀ dst, dst = ofBytes ((f.payload.drop 5).take 2) → ∀ es, es = (List.range 8).map (fun i => ofBytes ((f.payload.drop (7 + 8 * i)).take 8)) →
      ∀ ans : Byte → Out, (∀ st, ans st = .zaron ⟨f.src, ownStation, 0x82#8 :: (toBytes 4 (zSeq f).toNat ++ st :: toBytes 2 dst)⟩) →
      (seqAfter s.pathSeq (zSeq f) = false → exec (.zaronPathUpdate f) s = .next { s with out := ans 3 :: s.out })
      ∧ (seqAfter s.pathSeq (zSeq f) = true → 4095 < dst → exec (.zaronPathUpdate f) s = .next { s with out := ans 2 :: s.out })
      ∧ (seqAfter s.pathSeq (zSeq f) = true → dst ≤ 4095 → ((∃ e ∈ es, pathOk e = false) ∨ ∃ b ∈ f.payload.drop 71, b ≠ 0) →
        exec (.zaronPathUpdate f) s = .next { s with out := ans 1 :: s.out })
      ∧ (seqAfter s.pathSeq (zSeq f) = true → dst ≤ 4095 → (∀ e ∈ es, pathOk e = true) → (∀ b ∈ f.payload.drop 71, b = 0) →
        exec (.zaronPathUpdate f) s
          = .next { s with pathUpds := s.pathUpds ++ [⟨zSeq f, f.src, dst, es.map (BitVec.ofNat 64)⟩] }))
    ∧ (∀ u rest, s.pathUpds = u :: rest → s.awaits u.dst = false → ∃ s1, exec .pathUpdateApply s = .next s1
      ∧ s1.pathUpds = rest
      ∧ s1.pathSeq = (if seqAfter s.pathSeq u.seq = true then some u.seq else s.pathSeq) ∧ (∀ k < 8, s1.pathEntry u.dst k = (u.entries.getD k 0).toNat)
      ∧ (∀ d k, d ≠ u.dst → k < 8 → s1.pathEntry d k = s.pathEntry d k)
      ∧ s1.out = .zaron ⟨u.src, ownStation, 0x82#8 :: (toBytes 4 u.seq.toNat ++ 0#8 :: toBytes 2 u.dst)⟩ :: s.out)
    ∧ (zAccepts f = true → zByte f 0 = 3 → 6 ≤ f.payload.length →
      ∃ bs, exec (.zaronTelemetryRequest f) s = .next { s with out := .zaron ⟨f.src, ownStation, 0x83#8 :: (toBytes 4 (zSeq f).toNat ++ bs)⟩ :: s.out }
        ∧ (5 < zByte f 5 → bs = [BitVec.ofNat 8 (zByte f 5), 1, 0, 0])
        ∧ (zByte f 5 = 2 → bs = [2, 0, 16, 0] ++ (List.range 16).map (fun c => (s.cluster c).step.setWidth 8)))
    ∧ ((zByte f 0 = 0 ∨ 3 < zByte f 0 ∨ f.payload.length < zLen (zByte f 0)) → exec (.zaronUnknownFrame f) s = .next s)

/-- MCTP control messages (19 R437): each is answered, whatever its data; the endpoint ID is set and read, the versions and
types are answered, another command is answered as unsupported, and a wrong length as such; codes and layouts are those of
the standard (log 10). -/
def MctpMessages : Prop :=
  ∀ (s : State) (m : Mctp),
    (m.command = 1 → Completes (exec (.setEndpointId m) s)) ∧ (m.command = 2 → Completes (exec (.getEndpointId m) s))
    ∧ (m.command = 4 → Completes (exec (.getMctpVersionSupport m) s))
    ∧ (m.command = 5 → Completes (exec (.getMessageTypeSupport m) s))
    ∧ (m.command = 1 → m.data.length = 2 → (m.data.getD 0 0).toNat % 4 < 2 → 8 ≤ (m.data.getD 1 0).toNat →
      (m.data.getD 1 0).toNat < 255 → ∃ s1, exec (.setEndpointId m) s = .next s1 ∧ s1.eid = m.data.getD 1 0)
    ∧ (m.command = 2 → m.data = [] → ∃ s1, exec (.getEndpointId m) s = .next s1 ∧ s1.eid = s.eid
      ∧ s1.out = .mctp m.src [0, m.inst.setWidth 8, 2, 0, s.eid, 0, 0] :: s.out)
    ∧ (m.command = 5 → m.data = [] → exec (.getMessageTypeSupport m) s
      = .next { s with out := .mctp m.src [0, m.inst.setWidth 8, 5, 0, 1, 5] :: s.out })
    ∧ (m.command ≠ 1 → m.command ≠ 2 → m.command ≠ 4 → m.command ≠ 5 → exec (.mctpUnsupportedCommand m) s
      = .next { s with out := .mctp m.src [0, m.inst.setWidth 8, m.command, 5] :: s.out })

/-- The SPDM requests (19 R441) by their code, and whether the exchange has come to them. -/
def SpdmOf (s : State) (x : Nat × Bool × (Spdm → Instr)) : Prop :=
  x ∈ [(0x84, true, .getVersion), (0xE1, s.spdm.version, .getCapabilities), (0xE3, s.spdm.caps, .negotiateAlgorithms),
    (0x81, s.spdm.algs, .getDigests), (0x82, s.spdm.algs, .getCertificate), (0x83, s.spdm.algs, .challenge),
    (0xE0, s.spdm.algs, .getMeasurements), (0xE4, s.spdm.algs, .keyExchange),
    (0xE5, s.spdm.session.isSome && !s.spdm.finished, .finish), (0xEC, s.spdm.session.isSome && s.spdm.finished, .endSession)]

/-- SPDM (19 R441): every request of SPDM 1.3 that R441 names is answered; one out of its place, or of another version (00 R14),
gets the standard's error (log 10) and changes nothing else but the transcript of measurements; the exchange goes on as its
requests are answered; any other request is answered as unsupported. -/
def SpdmRequests : Prop :=
  ∀ (s : State) (m : Spdm),
    (∀ code ok con, SpdmOf s (code, ok, con) → m.code.toNat = code →
      ∀ err : Byte → State, (∀ x, err x = { s with out := .spdm m.doe [0x13, 0x7F, x, 0] :: s.out
                                                   spdm := { s.spdm with meas := if code = 0xE0 then s.spdm.meas else [] } }) →
      (m.version ≠ (if code = 0x84 then 0x10 else 0x13) → exec (con m) s = .next (err 0x41))
      ∧ (m.version = (if code = 0x84 then 0x10 else 0x13) → ok = true → ∃ s1, exec (con m) s = .next s1 ∧ s1.out.length = s.out.length + 1 ∧ s1.home = s.home ∧ s1.teams = s.teams)
      ∧ (m.version = (if code = 0x84 then 0x10 else 0x13) → ok = false → exec (con m) s = .next (err 4)))
    ∧ (m.code = 0x84 → m.version = 0x10 → ∃ s1 vca, exec (.getVersion m) s = .next s1
      ∧ s1.spdm = ⟨true, false, false, none, false, vca, [], []⟩
      ∧ vca = [m.version, m.code, m.param1, m.param2] ++ m.data ++ [0x10, 0x04, 0, 0, 0, 1, 0x00, 0x13])
    ∧ (m.code = 0xE0 → m.version = 0x13 → s.spdm.algs = true → m.param2 = 0 → m.param1.getLsbD 0 = false →
      ∃ s1 rest, exec (.getMeasurements m) s = .next s1 ∧ s1.out = .spdm m.doe ([0x13, 0x60, 18, 0, 0, 0, 0, 0] ++ rest) :: s.out)
    ∧ (m.code = 0xEC → m.version = 0x13 → s.spdm.session.isSome = true → s.spdm.finished = true → ∃ s1, exec (.endSession m) s = .next s1
      ∧ s1.spdm.session = none)
    ∧ (m.code.toNat ∉ spdmKnown → Completes (exec (.spdmUnsupportedRequest m) s))

/-- What the device answers to its management. -/
def Obligations.Management : Prop := ZaronFrames ∧ MctpMessages ∧ SpdmRequests


/-! ## Packets (19 R436, R456, R457, 06 R140, 10 R232-R235) -/

/-- Read, write and atomic requests of other devices (06 R140, R456, 10 R232-R234): one that no window admits changes no byte
of home memory; a write that is admitted puts its masked bytes there and no others; an atomic request's step is on home
memory. A packet that a later one of its core to a line of its has overtaken is not applied after it: the model's reading of
10 R234 (log 22, DEDUCED). -/
def MemoryRequests : Prop :=
  ∀ (s : State) (p : Packet), pktOk p = true →
    (p.kind = 1 → s.overtaken p = false → ∃ s1, exec (.readRequest p) s = .next s1 ∧ s1.teams = s.teams
      ∧ ∀ d, s.admitWin p.sdev.toNat p.spart.toNat 0 p.addr.toNat p.arg.toNat = .error d → s1.home = s.home)
    ∧ (p.kind = 3 → s.overtaken p = false → ∃ s1, exec (.writePacket p) s = .next s1
      ∧ (∀ d, s.admitWin p.sdev.toNat p.spart.toNat 1 p.addr.toNat 128 = .error d → s1.home = s.home)
      ∧ ∀ part, s.admitWin p.sdev.toNat p.spart.toNat 1 p.addr.toNat 128 = .ok part → (s.part part).keyGen < 2 ^ 60 → ∀ i < 128,
        s1.homeByte (s.winKey part p.addr.toNat) (p.addr.toNat + i)
          = if bit (ofBytes (p.payload.take 16)) i then p.payload.getD (16 + i) 0
            else s.homeByte (s.winKey part p.addr.toNat) (p.addr.toNat + i))
    ∧ (s.overtaken p = true → (p.kind = 1 → exec (.readRequest p) s = .fault .notEnabled)
      ∧ (p.kind = 3 → exec (.writePacket p) s = .fault .notEnabled)
      ∧ (p.kind = 5 → exec (.atomicRequest p) s = .fault .notEnabled))
    ∧ (p.kind = 5 → s.overtaken p = false → ∃ s1, exec (.atomicRequest p) s = .next s1
      ∧ (∀ d n, n = (if tagWide (16 * bits p.arg.toNat 11 8) then 8 else 4) →
        s.admitWin p.sdev.toNat p.spart.toNat 2 p.addr.toNat n = .error d → s1.home = s.home)
      ∧ ∀ part n, n = (if tagWide (16 * bits p.arg.toNat 11 8) then 8 else 4) →
        s.admitWin p.sdev.toNat p.spart.toNat 2 p.addr.toNat n = .ok part → (∀ e ∈ s.cores, e.2.view = []) → s.errs = [] →
        (s.part part).keyGen < 2 ^ 60 →
        s1.homeBytes (s.winKey part p.addr.toNat) p.addr.toNat n
          = toBytes n (atomNew (bits p.arg.toNat 4 0) (16 * bits p.arg.toNat 11 8)
              (ofBytes (s.homeBytes (s.winKey part p.addr.toNat) p.addr.toNat n)) (ofBytes (p.payload.take 8))
              (ofBytes (p.payload.drop 8))).1)

/-- The answers to this device's requests by their kind (19 R436). -/
def AnswerOf (x : BitVec 8 × (Packet → Instr)) : Prop :=
  x ∈ [(2, .readResponse), (4, .writeApplied), (6, .atomicResponse), (9, .refusal), (0x0E, .endpointStatus)]

/-- The other packets by their kind. -/
def PacketOf (x : BitVec 8 × (Packet → Instr)) : Prop :=
  x ∈ [(7, .shroudMarker), (8, .markerAcknowledgement), (0x0A, .invocation), (0x0B, .forwardedInvocation), (0x0C, .handleAnswer),
    (0x0D, .endpointMessage), (0x0F, .collectiveContribution), (0x10, .collectiveResult), (0x11, .abort)]

/-- Every packet that keeps to the table of R436 is taken, an acknowledgement once the barriers it may credit are at hand (06
R144); one that does not is discarded; an answer that no request awaits changes nothing; a marker copy that is not the last
waits, and the last makes the device forget them. That ADDR of a copy holds the number of the copies, in its low byte, is the
model's (log 13, DESIGN CHOICE). -/
def PacketsArrive : Prop :=
  ∀ (s : State) (p : Packet),
    (pktOk p = false → exec (.malformedPacket p) s = .next s)
    ∧ (pktOk p = true → ∀ k con, AnswerOf (k, con) ∨ PacketOf (k, con) → p.kind = k → (k = 4 → s.creditsHere p = true) →
      Completes (exec (con p) s))
    ∧ (pktOk p = true → s.answered p = [] → ∀ k con, AnswerOf (k, con) → p.kind = k → exec (con p) s = .next s)
    ∧ (pktOk p = true → p.kind = 8 → s.releases = [] → exec (.markerAcknowledgement p) s = .next s)
    ∧ (pktOk p = true → p.kind = 7 → ∀ n, n = (s.marks.filter fun m => m.of_ p).length + 1 →
      (n < bits p.addr.toNat 7 0 → ∃ s1 m, exec (.shroudMarker p) s = .next s1 ∧ s1.marks = s.marks ++ [m] ∧ m.of_ p = true ∧ s1.out = s.out)
      ∧ (bits p.addr.toNat 7 0 ≤ n → ∃ s1, exec (.shroudMarker p) s = .next s1
        ∧ s1.marks = s.marks.filter (fun m => !m.of_ p)
        ∧ (s.pathsTo p.sdev.toNat 0 ≠ [] → s1.out.length = s.out.length + 1)))

/-- What arrives over Lornan. -/
def Obligations.Packets : Prop := MemoryRequests ∧ PacketsArrive
end

