-- ==== Sys2Proof/Laws/Dispatch.lean ====
section
/-!
SUPPORT. Laws/Dispatch.lean: exec of each constructor is its meaning.
-/
namespace Sys2Proof.Machine

@[simp] theorem exec_nop (i : Slots) (s : State) : exec (.nop i) s = execNop i s := rfl
@[simp] theorem exec_exit (i : Slots) (s : State) : exec (.exit i) s = execExit i s := rfl
@[simp] theorem exec_trap (i : Slots) (s : State) : exec (.trap i) s = execTrap i s := rfl
@[simp] theorem exec_tret (i : Slots) (s : State) : exec (.tret i) s = execTret i s := rfl
@[simp] theorem exec_tqrd (i : Slots) (s : State) : exec (.tqrd i) s = execTqrd i s := rfl
@[simp] theorem exec_tqrdDxp (i : Slots) (s : State) : exec (.tqrdDxp i) s = execTqrdDxp i s := rfl
@[simp] theorem exec_srd (i : Slots) (s : State) : exec (.srd i) s = execSrd i s := rfl
@[simp] theorem exec_swr (i : Slots) (s : State) : exec (.swr i) s = execSwr i s := rfl
@[simp] theorem exec_vclk (i : Slots) (s : State) : exec (.vclk i) s = execVclk i s := rfl
@[simp] theorem exec_alarm (i : Slots) (s : State) : exec (.alarm i) s = execAlarm i s := rfl
@[simp] theorem exec_alwait (i : Slots) (s : State) : exec (.alwait i) s = execAlwait i s := rfl
@[simp] theorem exec_alcan (i : Slots) (s : State) : exec (.alcan i) s = execAlcan i s := rfl
@[simp] theorem exec_phase (i : Slots) (s : State) : exec (.phase i) s = execPhase i s := rfl
@[simp] theorem exec_yield (i : Slots) (s : State) : exec (.yield i) s = execYield i s := rfl
@[simp] theorem exec_brkpt (i : Slots) (s : State) : exec (.brkpt i) s = execBrkpt i s := rfl
@[simp] theorem exec_idem (i : Slots) (s : State) : exec (.idem i) s = execIdem i s := rfl
@[simp] theorem exec_idemClr (i : Slots) (s : State) : exec (.idemClr i) s = execIdemClr i s := rfl
@[simp] theorem exec_rdctx (i : Slots) (s : State) : exec (.rdctx i) s = execRdctx i s := rfl
@[simp] theorem exec_bra (i : Slots) (s : State) : exec (.bra i) s = execBra i s := rfl
@[simp] theorem exec_brx (i : Slots) (s : State) : exec (.brx i) s = execBrx i s := rfl
@[simp] theorem exec_call (i : Slots) (s : State) : exec (.call i) s = execCall i s := rfl
@[simp] theorem exec_calli (i : Slots) (s : State) : exec (.calli i) s = execCalli i s := rfl
@[simp] theorem exec_ret (i : Slots) (s : State) : exec (.ret i) s = execRet i s := rfl
@[simp] theorem exec_vote (i : FnI) (s : State) : exec (.vote i) s = execVote i s := rfl
@[simp] theorem exec_shfl (i : FnI) (s : State) : exec (.shfl i) s = execShfl i s := rfl
@[simp] theorem exec_actmask (i : Slots) (s : State) : exec (.actmask i) s = execActmask i s := rfl
@[simp] theorem exec_cvdecl (i : Slots) (s : State) : exec (.cvdecl i) s = execCvdecl i s := rfl
@[simp] theorem exec_cvsign (i : Slots) (s : State) : exec (.cvsign i) s = execCvsign i s := rfl
@[simp] theorem exec_cvtest (i : Slots) (s : State) : exec (.cvtest i) s = execCvtest i s := rfl
@[simp] theorem exec_iadd (i : FnI) (s : State) : exec (.iadd i) s = execIadd i s := rfl
@[simp] theorem exec_isub (i : FnI) (s : State) : exec (.isub i) s = execIsub i s := rfl
@[simp] theorem exec_imul (i : FnI) (s : State) : exec (.imul i) s = execImul i s := rfl
@[simp] theorem exec_imulh (i : FnI) (s : State) : exec (.imulh i) s = execImulh i s := rfl
@[simp] theorem exec_imad (i : FnI) (s : State) : exec (.imad i) s = execImad i s := rfl
@[simp] theorem exec_idiv (i : FnI) (s : State) : exec (.idiv i) s = execIdiv i s := rfl
@[simp] theorem exec_irem (i : FnI) (s : State) : exec (.irem i) s = execIrem i s := rfl
@[simp] theorem exec_imin (i : FnI) (s : State) : exec (.imin i) s = execImin i s := rfl
@[simp] theorem exec_imax (i : FnI) (s : State) : exec (.imax i) s = execImax i s := rfl
@[simp] theorem exec_iabs (i : FnI) (s : State) : exec (.iabs i) s = execIabs i s := rfl
@[simp] theorem exec_ineg (i : FnI) (s : State) : exec (.ineg i) s = execIneg i s := rfl
@[simp] theorem exec_and (i : FnI) (s : State) : exec (.and i) s = execAnd i s := rfl
@[simp] theorem exec_or (i : FnI) (s : State) : exec (.or i) s = execOr i s := rfl
@[simp] theorem exec_xor (i : FnI) (s : State) : exec (.xor i) s = execXor i s := rfl
@[simp] theorem exec_not (i : FnI) (s : State) : exec (.not i) s = execNot i s := rfl
@[simp] theorem exec_shl (i : FnI) (s : State) : exec (.shl i) s = execShl i s := rfl
@[simp] theorem exec_shr (i : FnI) (s : State) : exec (.shr i) s = execShr i s := rfl
@[simp] theorem exec_sar (i : FnI) (s : State) : exec (.sar i) s = execSar i s := rfl
@[simp] theorem exec_rotl (i : FnI) (s : State) : exec (.rotl i) s = execRotl i s := rfl
@[simp] theorem exec_popc (i : FnI) (s : State) : exec (.popc i) s = execPopc i s := rfl
@[simp] theorem exec_clz (i : FnI) (s : State) : exec (.clz i) s = execClz i s := rfl
@[simp] theorem exec_brev (i : FnI) (s : State) : exec (.brev i) s = execBrev i s := rfl
@[simp] theorem exec_bfx (i : FnI) (s : State) : exec (.bfx i) s = execBfx i s := rfl
@[simp] theorem exec_bfi (i : FnI) (s : State) : exec (.bfi i) s = execBfi i s := rfl
@[simp] theorem exec_icmp (i : FnI) (s : State) : exec (.icmp i) s = execIcmp i s := rfl
@[simp] theorem exec_sel (i : FnI) (s : State) : exec (.sel i) s = execSel i s := rfl
@[simp] theorem exec_mov (i : FnI) (s : State) : exec (.mov i) s = execMov i s := rfl
@[simp] theorem exec_lea (i : FnI) (s : State) : exec (.lea i) s = execLea i s := rfl
@[simp] theorem exec_sadd (i : FnI) (s : State) : exec (.sadd i) s = execSadd i s := rfl
@[simp] theorem exec_isad (i : FnI) (s : State) : exec (.isad i) s = execIsad i s := rfl
@[simp] theorem exec_bcast (i : FnI) (s : State) : exec (.bcast i) s = execBcast i s := rfl
@[simp] theorem exec_extract (i : FnI) (s : State) : exec (.extract i) s = execExtract i s := rfl
@[simp] theorem exec_getid (i : FnI) (s : State) : exec (.getid i) s = execGetid i s := rfl
@[simp] theorem exec_ldk (i : FnI) (s : State) : exec (.ldk i) s = execLdk i s := rfl
@[simp] theorem exec_movp (i : FnI) (s : State) : exec (.movp i) s = execMovp i s := rfl
@[simp] theorem exec_fadd (i : RdI) (s : State) : exec (.fadd i) s = execFadd i s := rfl
@[simp] theorem exec_fsub (i : RdI) (s : State) : exec (.fsub i) s = execFsub i s := rfl
@[simp] theorem exec_fmul (i : RdI) (s : State) : exec (.fmul i) s = execFmul i s := rfl
@[simp] theorem exec_ffma (i : RdI) (s : State) : exec (.ffma i) s = execFfma i s := rfl
@[simp] theorem exec_fmin (i : FnI) (s : State) : exec (.fmin i) s = execFmin i s := rfl
@[simp] theorem exec_fmax (i : FnI) (s : State) : exec (.fmax i) s = execFmax i s := rfl
@[simp] theorem exec_fabs (i : FnI) (s : State) : exec (.fabs i) s = execFabs i s := rfl
@[simp] theorem exec_fneg (i : FnI) (s : State) : exec (.fneg i) s = execFneg i s := rfl
@[simp] theorem exec_fcmp (i : FnI) (s : State) : exec (.fcmp i) s = execFcmp i s := rfl
@[simp] theorem exec_frcp (i : RdI) (s : State) : exec (.frcp i) s = execFrcp i s := rfl
@[simp] theorem exec_frsq (i : RdI) (s : State) : exec (.frsq i) s = execFrsq i s := rfl
@[simp] theorem exec_fsqrt (i : RdI) (s : State) : exec (.fsqrt i) s = execFsqrt i s := rfl
@[simp] theorem exec_fexp2 (i : RdI) (s : State) : exec (.fexp2 i) s = execFexp2 i s := rfl
@[simp] theorem exec_flog2 (i : RdI) (s : State) : exec (.flog2 i) s = execFlog2 i s := rfl
@[simp] theorem exec_fsin (i : RdI) (s : State) : exec (.fsin i) s = execFsin i s := rfl
@[simp] theorem exec_fcos (i : RdI) (s : State) : exec (.fcos i) s = execFcos i s := rfl
@[simp] theorem exec_ftanh (i : RdI) (s : State) : exec (.ftanh i) s = execFtanh i s := rfl
@[simp] theorem exec_fdiv (i : RdI) (s : State) : exec (.fdiv i) s = execFdiv i s := rfl
@[simp] theorem exec_ffloor (i : FnI) (s : State) : exec (.ffloor i) s = execFfloor i s := rfl
@[simp] theorem exec_fround (i : RdI) (s : State) : exec (.fround i) s = execFround i s := rfl
@[simp] theorem exec_fclass (i : FnI) (s : State) : exec (.fclass i) s = execFclass i s := rfl
@[simp] theorem exec_fdot2 (i : RdI) (s : State) : exec (.fdot2 i) s = execFdot2 i s := rfl
@[simp] theorem exec_fdot4 (i : RdI) (s : State) : exec (.fdot4 i) s = execFdot4 i s := rfl
@[simp] theorem exec_cvt (i : RdI) (s : State) : exec (.cvt i) s = execCvt i s := rfl
@[simp] theorem exec_tileCvtComplete (tid id : Nat) (s : State) : exec (.tileCvtComplete tid id) s = execTileCvtComplete tid id s := rfl
@[simp] theorem exec_pack (i : RdI) (s : State) : exec (.pack i) s = execPack i s := rfl
@[simp] theorem exec_unpk (i : RdI) (s : State) : exec (.unpk i) s = execUnpk i s := rfl
@[simp] theorem exec_scl (i : RdI) (s : State) : exec (.scl i) s = execScl i s := rfl
@[simp] theorem exec_sclf (i : RdI) (s : State) : exec (.sclf i) s = execSclf i s := rfl
@[simp] theorem exec_tagrd (i : FnI) (s : State) : exec (.tagrd i) s = execTagrd i s := rfl
@[simp] theorem exec_tagset (i : FnI) (s : State) : exec (.tagset i) s = execTagset i s := rfl
@[simp] theorem exec_sat (i : RdI) (s : State) : exec (.sat i) s = execSat i s := rfl
@[simp] theorem exec_ldg (i : MemI) (s : State) : exec (.ldg i) s = execLdg i s := rfl
@[simp] theorem exec_lds (i : MemI) (s : State) : exec (.lds i) s = execLds i s := rfl
@[simp] theorem exec_ldun (i : MemI) (s : State) : exec (.ldun i) s = execLdun i s := rfl
@[simp] theorem exec_ldm (i : MemI) (s : State) : exec (.ldm i) s = execLdm i s := rfl
@[simp] theorem exec_pgreq (i : MemI) (s : State) : exec (.pgreq i) s = execPgreq i s := rfl
@[simp] theorem exec_pref (i : MemI) (s : State) : exec (.pref i) s = execPref i s := rfl
@[simp] theorem exec_stg (i : MemI) (s : State) : exec (.stg i) s = execStg i s := rfl
@[simp] theorem exec_sts (i : MemI) (s : State) : exec (.sts i) s = execSts i s := rfl
@[simp] theorem exec_stun (i : MemI) (s : State) : exec (.stun i) s = execStun i s := rfl
@[simp] theorem exec_stm (i : MemI) (s : State) : exec (.stm i) s = execStm i s := rfl
@[simp] theorem exec_atom (i : MemI) (s : State) : exec (.atom i) s = execAtom i s := rfl
@[simp] theorem exec_atoms (i : MemI) (s : State) : exec (.atoms i) s = execAtoms i s := rfl
@[simp] theorem exec_red (i : MemI) (s : State) : exec (.red i) s = execRed i s := rfl
@[simp] theorem exec_atomf (i : MemI) (s : State) : exec (.atomf i) s = execAtomf i s := rfl
@[simp] theorem exec_fence (i : MemI) (s : State) : exec (.fence i) s = execFence i s := rfl
@[simp] theorem exec_waitc (i : MemI) (s : State) : exec (.waitc i) s = execWaitc i s := rfl
@[simp] theorem exec_bar (i : MemI) (s : State) : exec (.bar i) s = execBar i s := rfl
@[simp] theorem exec_tbinit (i : MemI) (s : State) : exec (.tbinit i) s = execTbinit i s := rfl
@[simp] theorem exec_tbarrive (i : MemI) (s : State) : exec (.tbarrive i) s = execTbarrive i s := rfl
@[simp] theorem exec_tbexpect (i : MemI) (s : State) : exec (.tbexpect i) s = execTbexpect i s := rfl
@[simp] theorem exec_tbwait (i : MemI) (s : State) : exec (.tbwait i) s = execTbwait i s := rfl
@[simp] theorem exec_tbtest (i : MemI) (s : State) : exec (.tbtest i) s = execTbtest i s := rfl
@[simp] theorem exec_ringput (i : MemI) (s : State) : exec (.ringput i) s = execRingput i s := rfl
@[simp] theorem exec_ringget (i : MemI) (s : State) : exec (.ringget i) s = execRingget i s := rfl
@[simp] theorem exec_ringrelFill (i : MemI) (s : State) : exec (.ringrelFill i) s = execRingrelFill i s := rfl
@[simp] theorem exec_ringrelFree (i : MemI) (s : State) : exec (.ringrelFree i) s = execRingrelFree i s := rfl
@[simp] theorem exec_evpost (i : MemI) (s : State) : exec (.evpost i) s = execEvpost i s := rfl
@[simp] theorem exec_evget (i : MemI) (s : State) : exec (.evget i) s = execEvget i s := rfl
@[simp] theorem exec_marker (i : MemI) (s : State) : exec (.marker i) s = execMarker i s := rfl
@[simp] theorem exec_wcdrain (i : MemI) (s : State) : exec (.wcdrain i) s = execWcdrain i s := rfl
@[simp] theorem exec_mma (i : MtxI) (s : State) : exec (.mma i) s = execMma i s := rfl
@[simp] theorem exec_mmab (i : MtxI) (s : State) : exec (.mmab i) s = execMmab i s := rfl
@[simp] theorem exec_vatld (i : RdI) (s : State) : exec (.vatld i) s = execVatld i s := rfl
@[simp] theorem exec_vatst (i : RdI) (s : State) : exec (.vatst i) s = execVatst i s := rfl
@[simp] theorem exec_vatclr (i : RdI) (s : State) : exec (.vatclr i) s = execVatclr i s := rfl
@[simp] theorem exec_vatcp (i : RdI) (s : State) : exec (.vatcp i) s = execVatcp i s := rfl
@[simp] theorem exec_mtrans (i : FnI) (s : State) : exec (.mtrans i) s = execMtrans i s := rfl
@[simp] theorem exec_mscale (i : RdI) (s : State) : exec (.mscale i) s = execMscale i s := rfl
@[simp] theorem exec_matrixOpComplete (core : Nat) (capture : List Nat) (final : Bool) (s : State) : exec (.matrixOpComplete core capture final) s = execMatrixOpComplete core capture final s := rfl
@[simp] theorem exec_wfcfg (i : Slots) (s : State) : exec (.wfcfg i) s = execWfcfg i s := rfl
@[simp] theorem exec_wfband (i : Slots) (s : State) : exec (.wfband i) s = execWfband i s := rfl
@[simp] theorem exec_wfrun (i : Slots) (s : State) : exec (.wfrun i) s = execWfrun i s := rfl
@[simp] theorem exec_wfedge (i : Slots) (s : State) : exec (.wfedge i) s = execWfedge i s := rfl
@[simp] theorem exec_tbwalk (i : Slots) (s : State) : exec (.tbwalk i) s = execTbwalk i s := rfl
@[simp] theorem exec_wfscore (i : Slots) (s : State) : exec (.wfscore i) s = execWfscore i s := rfl
@[simp] theorem exec_cpyt (i : Slots) (s : State) : exec (.cpyt i) s = execCpyt i s := rfl
@[simp] theorem exec_cpyg (i : Slots) (s : State) : exec (.cpyg i) s = execCpyg i s := rfl
@[simp] theorem exec_cpys (i : Slots) (s : State) : exec (.cpys i) s = execCpys i s := rfl
@[simp] theorem exec_dxrun (i : Slots) (s : State) : exec (.dxrun i) s = execDxrun i s := rfl
@[simp] theorem exec_dxsig (i : Slots) (s : State) : exec (.dxsig i) s = execDxsig i s := rfl
@[simp] theorem exec_copySectorWrite (core id sector : Nat) (readOnly : Bool) (s : State) : exec (.copySectorWrite core id sector readOnly) s = execCopySectorWrite core id sector readOnly s := rfl
@[simp] theorem exec_copyComplete (core id : Nat) (s : State) : exec (.copyComplete core id) s = execCopyComplete core id s := rfl
@[simp] theorem exec_dxpProgramStart (core : Nat) (s : State) : exec (.dxpProgramStart core) s = execDxpProgramStart core s := rfl
@[simp] theorem exec_dloop (i : Slots) (s : State) : exec (.dloop i) s = execDloop i s := rfl
@[simp] theorem exec_dnext (i : Slots) (s : State) : exec (.dnext i) s = execDnext i s := rfl
@[simp] theorem exec_didx (i : Slots) (s : State) : exec (.didx i) s = execDidx i s := rfl
@[simp] theorem exec_daddr (i : Slots) (s : State) : exec (.daddr i) s = execDaddr i s := rfl
@[simp] theorem exec_daddrCmd (i : Slots) (s : State) : exec (.daddrCmd i) s = execDaddrCmd i s := rfl
@[simp] theorem exec_dxfer (i : Slots) (s : State) : exec (.dxfer i) s = execDxfer i s := rfl
@[simp] theorem exec_darrive (i : Slots) (s : State) : exec (.darrive i) s = execDarrive i s := rfl
@[simp] theorem exec_dwaitev (i : Slots) (s : State) : exec (.dwaitev i) s = execDwaitev i s := rfl
@[simp] theorem exec_dend (i : Slots) (s : State) : exec (.dend i) s = execDend i s := rfl
@[simp] theorem exec_dxpBra (i : Slots) (s : State) : exec (.dxpBra i) s = execDxpBra i s := rfl
@[simp] theorem exec_dxpCall (i : Slots) (s : State) : exec (.dxpCall i) s = execDxpCall i s := rfl
@[simp] theorem exec_dxpRet (i : Slots) (s : State) : exec (.dxpRet i) s = execDxpRet i s := rfl
@[simp] theorem exec_dxpDrainTimeout (core : Nat) (s : State) : exec (.dxpDrainTimeout core) s = execDxpDrainTimeout core s := rfl
@[simp] theorem exec_invk (i : Slots) (s : State) : exec (.invk i) s = execInvk i s := rfl
@[simp] theorem exec_invh (i : Slots) (s : State) : exec (.invh i) s = execInvh i s := rfl
@[simp] theorem exec_hwait (i : Slots) (s : State) : exec (.hwait i) s = execHwait i s := rfl
@[simp] theorem exec_htest (i : Slots) (s : State) : exec (.htest i) s = execHtest i s := rfl
@[simp] theorem exec_hrel (i : Slots) (s : State) : exec (.hrel i) s = execHrel i s := rfl
@[simp] theorem exec_hget (i : Slots) (s : State) : exec (.hget i) s = execHget i s := rfl
@[simp] theorem exec_epsend (i : Slots) (s : State) : exec (.epsend i) s = execEpsend i s := rfl
@[simp] theorem exec_eprecv (i : Slots) (s : State) : exec (.eprecv i) s = execEprecv i s := rfl
@[simp] theorem exec_epstand (i : Slots) (s : State) : exec (.epstand i) s = execEpstand i s := rfl
@[simp] theorem exec_coll (i : RdI) (s : State) : exec (.coll i) s = execColl i s := rfl
@[simp] theorem exec_collComplete (tid g id : Nat) (s : State) : exec (.collComplete tid g id) s = execCollComplete tid g id s := rfl
@[simp] theorem exec_epsendComplete (tid g id : Nat) (s : State) : exec (.epsendComplete tid g id) s = execEpsendComplete tid g id s := rfl
@[simp] theorem exec_invocationResultReady (part launch : Nat) (s : State) : exec (.invocationResultReady part launch) s = execInvocationResultReady part launch s := rfl
@[simp] theorem exec_trapDelivery (tid g : Nat) (s : State) : exec (.trapDelivery tid g) s = execTrapDelivery tid g s := rfl
@[simp] theorem exec_stallHintExpiry (tid g : Nat) (s : State) : exec (.stallHintExpiry tid g) s = execStallHintExpiry tid g s := rfl
@[simp] theorem exec_alarmExpiry (tid g slot : Nat) (s : State) : exec (.alarmExpiry tid g slot) s = execAlarmExpiry tid g slot s := rfl
@[simp] theorem exec_timeoutExpiry (who : Issuer) (s : State) : exec (.timeoutExpiry who) s = execTimeoutExpiry who s := rfl
@[simp] theorem exec_waitReleased (who : Issuer) (s : State) : exec (.waitReleased who) s = execWaitReleased who s := rfl
@[simp] theorem exec_barReleaseWave (tid : Nat) (s : State) : exec (.barReleaseWave tid) s = execBarReleaseWave tid s := rfl
@[simp] theorem exec_storePerform (tid g colour : Nat) (s : State) : exec (.storePerform tid g colour) s = execStorePerform tid g colour s := rfl
@[simp] theorem exec_releasePerform (tid g id : Nat) (s : State) : exec (.releasePerform tid g id) s = execReleasePerform tid g id s := rfl
@[simp] theorem exec_coreViewWriteback (core : Nat) (addrs : List Nat) (s : State) : exec (.coreViewWriteback core addrs) s = execCoreViewWriteback core addrs s := rfl
@[simp] theorem exec_coreViewFill (core line : Nat) (s : State) : exec (.coreViewFill core line) s = execCoreViewFill core line s := rfl
@[simp] theorem exec_coreViewDrop (core line : Nat) (s : State) : exec (.coreViewDrop core line) s = execCoreViewDrop core line s := rfl
@[simp] theorem exec_loadValueTake (tid g id : Nat) (s : State) : exec (.loadValueTake tid g id) s = execLoadValueTake tid g id s := rfl
@[simp] theorem exec_atomicStep (tid g id : Nat) (s : State) : exec (.atomicStep tid g id) s = execAtomicStep tid g id s := rfl
@[simp] theorem exec_loadComplete (tid g id : Nat) (early : List Nat) (final : Bool) (s : State) : exec (.loadComplete tid g id early final) s = execLoadComplete tid g id early final s := rfl
@[simp] theorem exec_wcAgeDrain (core idx : Nat) (s : State) : exec (.wcAgeDrain core idx) s = execWcAgeDrain core idx s := rfl
@[simp] theorem exec_backInvalidationResponse (id : Nat) (s : State) : exec (.backInvalidationResponse id) s = execBackInvalidationResponse id s := rfl
@[simp] theorem exec_registerLineFill (tid : Nat) (g : Option Nat) (line : Nat) (victim : Option Line) (s : State) : exec (.registerLineFill tid g line victim) s = execRegisterLineFill tid g line victim s := rfl
@[simp] theorem exec_vatTileSwap (core slot tid : Nat) (s : State) : exec (.vatTileSwap core slot tid) s = execVatTileSwap core slot tid s := rfl
@[simp] theorem exec_spmapLineFill (tid g line : Nat) (s : State) : exec (.spmapLineFill tid g line) s = execSpmapLineFill tid g line s := rfl
@[simp] theorem exec_spmapSpaceWriteback (tid : Nat) (s : State) : exec (.spmapSpaceWriteback tid) s = execSpmapSpaceWriteback tid s := rfl
@[simp] theorem exec_launchDoorbell (part : Nat) (addr : W64) (s : State) : exec (.launchDoorbell part addr) s = execLaunchDoorbell part addr s := rfl
@[simp] theorem exec_launchCheck (part : Nat) (s : State) : exec (.launchCheck part) s = execLaunchCheck part s := rfl
@[simp] theorem exec_teamPlacement (part : Nat) (s : State) : exec (.teamPlacement part) s = execTeamPlacement part s := rfl
@[simp] theorem exec_launchComplete (part launch : Nat) (s : State) : exec (.launchComplete part launch) s = execLaunchComplete part launch s := rfl
@[simp] theorem exec_hotspotMigration (tid core : Nat) (s : State) : exec (.hotspotMigration tid core) s = execHotspotMigration tid core s := rfl
@[simp] theorem exec_preemption (part ctx : Nat) (s : State) : exec (.preemption part ctx) s = execPreemption part ctx s := rfl
@[simp] theorem exec_partitionSwap (part : Nat) (s : State) : exec (.partitionSwap part) s = execPartitionSwap part s := rfl
@[simp] theorem exec_stopIntervalClose (part ctx : Nat) (s : State) : exec (.stopIntervalClose part ctx) s = execStopIntervalClose part ctx s := rfl
@[simp] theorem exec_brineVisible (part ctx : Nat) (s : State) : exec (.brineVisible part ctx) s = execBrineVisible part ctx s := rfl
@[simp] theorem exec_patienceExpiry (part ctx ident : Nat) (s : State) : exec (.patienceExpiry part ctx ident) s = execPatienceExpiry part ctx ident s := rfl
@[simp] theorem exec_standinDeferredWrite (part ctx : Nat) (s : State) : exec (.standinDeferredWrite part ctx) s = execStandinDeferredWrite part ctx s := rfl
@[simp] theorem exec_evqHeldRecordPost (core : Nat) (s : State) : exec (.evqHeldRecordPost core) s = execEvqHeldRecordPost core s := rfl
@[simp] theorem exec_recordsLostPost (cluster : Nat) (s : State) : exec (.recordsLostPost cluster) s = execRecordsLostPost cluster s := rfl
@[simp] theorem exec_noticesLostPost (part : Nat) (s : State) : exec (.noticesLostPost part) s = execNoticesLostPost part s := rfl
@[simp] theorem exec_temperatureSample (cluster : Nat) (temps droops : List Byte) (s : State) : exec (.temperatureSample cluster temps droops) s = execTemperatureSample cluster temps droops s := rfl
@[simp] theorem exec_droopEvent (cluster : Nat) (s : State) : exec (.droopEvent cluster) s = execDroopEvent cluster s := rfl
@[simp] theorem exec_droopCapExpiry (cluster : Nat) (s : State) : exec (.droopCapExpiry cluster) s = execDroopCapExpiry cluster s := rfl
@[simp] theorem exec_powerGood (s : State) : exec (.powerGood) s = execPowerGood s := rfl
@[simp] theorem exec_clpartWrite (cluster : Nat) (val : W32) (s : State) : exec (.clpartWrite cluster val) s = execClpartWrite cluster val s := rfl
@[simp] theorem exec_partctlEnSet (part : Nat) (s : State) : exec (.partctlEnSet part) s = execPartctlEnSet part s := rfl
@[simp] theorem exec_partctlEnClear (part : Nat) (s : State) : exec (.partctlEnClear part) s = execPartctlEnClear part s := rfl
@[simp] theorem exec_partitionResetComplete (part : Nat) (s : State) : exec (.partitionResetComplete part) s = execPartitionResetComplete part s := rfl
@[simp] theorem exec_partctlHaltSet (part : Nat) (s : State) : exec (.partctlHaltSet part) s = execPartctlHaltSet part s := rfl
@[simp] theorem exec_partctlHaltClear (part : Nat) (s : State) : exec (.partctlHaltClear part) s = execPartctlHaltClear part s := rfl
@[simp] theorem exec_mastctlGo (cluster : Nat) (val : W32) (s : State) : exec (.mastctlGo cluster val) s = execMastctlGo cluster val s := rfl
@[simp] theorem exec_dbgctlGo (part : Nat) (s : State) : exec (.dbgctlGo part) s = execDbgctlGo part s := rfl
@[simp] theorem exec_dbgctlStepSet (part : Nat) (s : State) : exec (.dbgctlStepSet part) s = execDbgctlStepSet part s := rfl
@[simp] theorem exec_dbgctlStepClear (part : Nat) (s : State) : exec (.dbgctlStepClear part) s = execDbgctlStepClear part s := rfl
@[simp] theorem exec_pmselClr (agent : HostAgent) (unit : PmUnit) (n : Nat) (s : State) : exec (.pmselClr agent unit n) s = execPmselClr agent unit n s := rfl
@[simp] theorem exec_pmselWrite (agent : HostAgent) (unit : PmUnit) (n : Nat) (val : W32) (s : State) : exec (.pmselWrite agent unit n val) s = execPmselWrite agent unit n val s := rfl
@[simp] theorem exec_pmcntWrite (agent : HostAgent) (unit : PmUnit) (n : Nat) (val : W64) (s : State) : exec (.pmcntWrite agent unit n val) s = execPmcntWrite agent unit n val s := rfl
@[simp] theorem exec_pfcmdRaiseGeneration (word : W64) (s : State) : exec (.pfcmdRaiseGeneration word) s = execPfcmdRaiseGeneration word s := rfl
@[simp] theorem exec_generationWrapInvalidate (s : State) : exec (.generationWrapInvalidate) s = execGenerationWrapInvalidate s := rfl
@[simp] theorem exec_pfcmdWriteEndpoint (word : W64) (s : State) : exec (.pfcmdWriteEndpoint word) s = execPfcmdWriteEndpoint word s := rfl
@[simp] theorem exec_pfcmdClearOpt (word : W64) (s : State) : exec (.pfcmdClearOpt word) s = execPfcmdClearOpt word s := rfl
@[simp] theorem exec_pfcmdClearPartitionOpt (word : W64) (s : State) : exec (.pfcmdClearPartitionOpt word) s = execPfcmdClearPartitionOpt word s := rfl
@[simp] theorem exec_pfcmdSetLock (word : W64) (s : State) : exec (.pfcmdSetLock word) s = execPfcmdSetLock word s := rfl
@[simp] theorem exec_pfcmdClearLock (word : W64) (s : State) : exec (.pfcmdClearLock word) s = execPfcmdClearLock word s := rfl
@[simp] theorem exec_pfcmdSupplyFirmware (word : W64) (s : State) : exec (.pfcmdSupplyFirmware word) s = execPfcmdSupplyFirmware word s := rfl
@[simp] theorem exec_pfcmdUnknownOp (word : W64) (s : State) : exec (.pfcmdUnknownOp word) s = execPfcmdUnknownOp word s := rfl
@[simp] theorem exec_eppostWrite (part : Nat) (addr : W64) (s : State) : exec (.eppostWrite part addr) s = execEppostWrite part addr s := rfl
@[simp] theorem exec_evqstatRead (cluster : Nat) (s : State) : exec (.evqstatRead cluster) s = execEvqstatRead cluster s := rfl
@[simp] theorem exec_dxpTrapqRead (core : Nat) (s : State) : exec (.dxpTrapqRead core) s = execDxpTrapqRead core s := rfl
@[simp] theorem exec_registerWrite (agent : HostAgent) (off : Nat) (val : W64) (s : State) : exec (.registerWrite agent off val) s = execRegisterWrite agent off val s := rfl
@[simp] theorem exec_vfFunctionLevelReset (part : Nat) (s : State) : exec (.vfFunctionLevelReset part) s = execVfFunctionLevelReset part s := rfl
@[simp] theorem exec_cxlMemRead (part off n : Nat) (s : State) : exec (.cxlMemRead part off n) s = execCxlMemRead part off n s := rfl
@[simp] theorem exec_cxlMemWrite (part off : Nat) (bytes : List Byte) (s : State) : exec (.cxlMemWrite part off bytes) s = execCxlMemWrite part off bytes s := rfl
@[simp] theorem exec_readRequest (pkt : Packet) (s : State) : exec (.readRequest pkt) s = execReadRequest pkt s := rfl
@[simp] theorem exec_readResponse (pkt : Packet) (s : State) : exec (.readResponse pkt) s = execReadResponse pkt s := rfl
@[simp] theorem exec_writePacket (pkt : Packet) (s : State) : exec (.writePacket pkt) s = execWritePacket pkt s := rfl
@[simp] theorem exec_writeApplied (pkt : Packet) (s : State) : exec (.writeApplied pkt) s = execWriteApplied pkt s := rfl
@[simp] theorem exec_atomicRequest (pkt : Packet) (s : State) : exec (.atomicRequest pkt) s = execAtomicRequest pkt s := rfl
@[simp] theorem exec_atomicResponse (pkt : Packet) (s : State) : exec (.atomicResponse pkt) s = execAtomicResponse pkt s := rfl
@[simp] theorem exec_shroudMarker (pkt : Packet) (s : State) : exec (.shroudMarker pkt) s = execShroudMarker pkt s := rfl
@[simp] theorem exec_markerAcknowledgement (pkt : Packet) (s : State) : exec (.markerAcknowledgement pkt) s = execMarkerAcknowledgement pkt s := rfl
@[simp] theorem exec_refusal (pkt : Packet) (s : State) : exec (.refusal pkt) s = execRefusal pkt s := rfl
@[simp] theorem exec_invocation (pkt : Packet) (s : State) : exec (.invocation pkt) s = execInvocation pkt s := rfl
@[simp] theorem exec_forwardedInvocation (pkt : Packet) (s : State) : exec (.forwardedInvocation pkt) s = execForwardedInvocation pkt s := rfl
@[simp] theorem exec_handleAnswer (pkt : Packet) (s : State) : exec (.handleAnswer pkt) s = execHandleAnswer pkt s := rfl
@[simp] theorem exec_endpointMessage (pkt : Packet) (s : State) : exec (.endpointMessage pkt) s = execEndpointMessage pkt s := rfl
@[simp] theorem exec_endpointStatus (pkt : Packet) (s : State) : exec (.endpointStatus pkt) s = execEndpointStatus pkt s := rfl
@[simp] theorem exec_collectiveContribution (pkt : Packet) (s : State) : exec (.collectiveContribution pkt) s = execCollectiveContribution pkt s := rfl
@[simp] theorem exec_collectiveResult (pkt : Packet) (s : State) : exec (.collectiveResult pkt) s = execCollectiveResult pkt s := rfl
@[simp] theorem exec_abort (pkt : Packet) (s : State) : exec (.abort pkt) s = execAbort pkt s := rfl
@[simp] theorem exec_malformedPacket (pkt : Packet) (s : State) : exec (.malformedPacket pkt) s = execMalformedPacket pkt s := rfl
@[simp] theorem exec_lornanPortDown (port : Nat) (s : State) : exec (.lornanPortDown port) s = execLornanPortDown port s := rfl
@[simp] theorem exec_lornanPortRetrain (port : Nat) (s : State) : exec (.lornanPortRetrain port) s = execLornanPortRetrain port s := rfl
@[simp] theorem exec_zaronReefFrame (frame : ZFrame) (s : State) : exec (.zaronReefFrame frame) s = execZaronReefFrame frame s := rfl
@[simp] theorem exec_zaronPathUpdate (frame : ZFrame) (s : State) : exec (.zaronPathUpdate frame) s = execZaronPathUpdate frame s := rfl
@[simp] theorem exec_pathUpdateApply (s : State) : exec (.pathUpdateApply) s = execPathUpdateApply s := rfl
@[simp] theorem exec_zaronTelemetryRequest (frame : ZFrame) (s : State) : exec (.zaronTelemetryRequest frame) s = execZaronTelemetryRequest frame s := rfl
@[simp] theorem exec_zaronUnknownFrame (frame : ZFrame) (s : State) : exec (.zaronUnknownFrame frame) s = execZaronUnknownFrame frame s := rfl
@[simp] theorem exec_setEndpointId (msg : Mctp) (s : State) : exec (.setEndpointId msg) s = execSetEndpointId msg s := rfl
@[simp] theorem exec_getEndpointId (msg : Mctp) (s : State) : exec (.getEndpointId msg) s = execGetEndpointId msg s := rfl
@[simp] theorem exec_getMctpVersionSupport (msg : Mctp) (s : State) : exec (.getMctpVersionSupport msg) s = execGetMctpVersionSupport msg s := rfl
@[simp] theorem exec_getMessageTypeSupport (msg : Mctp) (s : State) : exec (.getMessageTypeSupport msg) s = execGetMessageTypeSupport msg s := rfl
@[simp] theorem exec_mctpUnsupportedCommand (msg : Mctp) (s : State) : exec (.mctpUnsupportedCommand msg) s = execMctpUnsupportedCommand msg s := rfl
@[simp] theorem exec_getVersion (msg : Spdm) (s : State) : exec (.getVersion msg) s = execGetVersion msg s := rfl
@[simp] theorem exec_getCapabilities (msg : Spdm) (s : State) : exec (.getCapabilities msg) s = execGetCapabilities msg s := rfl
@[simp] theorem exec_negotiateAlgorithms (msg : Spdm) (s : State) : exec (.negotiateAlgorithms msg) s = execNegotiateAlgorithms msg s := rfl
@[simp] theorem exec_getDigests (msg : Spdm) (s : State) : exec (.getDigests msg) s = execGetDigests msg s := rfl
@[simp] theorem exec_getCertificate (msg : Spdm) (s : State) : exec (.getCertificate msg) s = execGetCertificate msg s := rfl
@[simp] theorem exec_challenge (msg : Spdm) (s : State) : exec (.challenge msg) s = execChallenge msg s := rfl
@[simp] theorem exec_getMeasurements (msg : Spdm) (s : State) : exec (.getMeasurements msg) s = execGetMeasurements msg s := rfl
@[simp] theorem exec_keyExchange (msg : Spdm) (s : State) : exec (.keyExchange msg) s = execKeyExchange msg s := rfl
@[simp] theorem exec_finish (msg : Spdm) (s : State) : exec (.finish msg) s = execFinish msg s := rfl
@[simp] theorem exec_endSession (msg : Spdm) (s : State) : exec (.endSession msg) s = execEndSession msg s := rfl
@[simp] theorem exec_spdmUnsupportedRequest (msg : Spdm) (s : State) : exec (.spdmUnsupportedRequest msg) s = execSpdmUnsupportedRequest msg s := rfl
@[simp] theorem exec_quadrantCycle (core q : Nat) (s : State) : exec (.quadrantCycle core q) s = execQuadrantCycle core q s := rfl
@[simp] theorem exec_referenceClockPeriod (s : State) : exec (.referenceClockPeriod) s = execReferenceClockPeriod s := rfl
@[simp] theorem exec_lossOfPower (writing : Bool) (s : State) : exec (.lossOfPower writing) s = execLossOfPower writing s := rfl
@[simp] theorem exec_lornanLinkTraining (port : Nat) (s : State) : exec (.lornanLinkTraining port) s = execLornanLinkTraining port s := rfl
@[simp] theorem exec_cxlLinkTraining (ok16 ok8 ok4 : Bool) (s : State) : exec (.cxlLinkTraining ok16 ok8 ok4) s = execCxlLinkTraining ok16 ok8 ok4 s := rfl

end Sys2Proof.Machine
end

