-- ==== Sys2Proof/Laws/Encoding.lean ====
section
/-!
SUPPORT. Laws/Encoding.lean: the fields of a word and the word of fields undo each other (12 R260), and the fields of a
decoded instruction are the instruction's.
-/
namespace Sys2Proof.Machine

/-- Every field fits its width (12 R260). -/
def Raw.fits (r : Raw) : Prop :=
  r.op < 2 ^ 10 ∧ r.mode < 4 ∧ r.pred < 8 ∧ r.d < 2 ^ 10 ∧ r.a < 2 ^ 10 ∧ r.b < 2 ^ 10 ∧ r.hint < 128 ∧ r.md < 2 ^ 12
    ∧ r.imm < 2 ^ 32

theorem wordOf_lt {r : Raw} (h : r.fits) : wordOf r < 2 ^ 96 := by
  obtain ⟨h1, h2, h3, h4, h5, h6, h7, h8, h9⟩ := h
  unfold wordOf
  omega

/-- The fields of the word of some fields. -/
theorem rawOf_wordOf {r : Raw} (h : r.fits) : rawOf (wordOf r) = r := by
  obtain ⟨h1, h2, h3, h4, h5, h6, h7, h8, h9⟩ := h
  obtain ⟨op, mode, pred, d, a, b, hint, md, imm⟩ := r
  simp only at h1 h2 h3 h4 h5 h6 h7 h8 h9
  simp only [rawOf, wordOf, bits, Raw.mk.injEq]
  refine ⟨?_, ?_, ?_, ?_, ?_, ?_, ?_, ?_, ?_⟩ <;> omega

theorem rawOf_fits (w : Nat) : (rawOf w).fits := by
  refine ⟨?_, ?_, ?_, ?_, ?_, ?_, ?_, ?_, ?_⟩ <;> exact Nat.mod_lt _ (by decide)

/-- The word of the fields of a word. -/
theorem wordOf_rawOf (w : Nat) (h : w < 2 ^ 96) : wordOf (rawOf w) = w := by
  simp only [rawOf, wordOf, bits]
  omega

/-! ## Operands -/

theorem opCode_lt (o : Operand) : opCode o < 2 ^ 10 := by
  cases o <;> simp only [opCode] <;> omega

/-- A field that names an operand names the one whose code it is. -/
theorem opd_opCode {ag : Agent} {o o' : Operand} (h : opd ag (opCode o) = some o') : o' = o := by
  cases o with
  | v n =>
    have hn := n.isLt
    have h1 : n.toNat / 256 = 0 := by omega
    have h2 : n.toNat % 256 = n.toNat := by omega
    simp only [opd, opCode, h1, h2] at h
    split at h <;> simp at h
    rw [← h]
  | s n =>
    have hn := n.isLt
    have h1 : (0x100 + n.toNat) / 256 = 1 := by omega
    have h2 : (0x100 + n.toNat) % 256 = n.toNat := by omega
    simp only [opd, opCode, h1, h2] at h
    repeat' split at h
    all_goals simp_all
  | p n =>
    have hn := n.isLt
    have h1 : (0x200 + n.toNat) / 256 = 2 := by omega
    have h2 : (0x200 + n.toNat) % 256 = n.toNat := by omega
    have h3 : n.toNat < 8 := by omega
    simp only [opd, opCode, h1, h2, h3, if_true] at h
    repeat' split at h
    all_goals simp_all
  | cv n =>
    have hn := n.isLt
    have h1 : (0x210 + n.toNat) / 256 = 2 := by omega
    have h2 : (0x210 + n.toNat) % 256 = 16 + n.toNat := by omega
    have h3 : ¬ 16 + n.toNat < 8 := by omega
    have h4 : (16 + n.toNat < 24) := by omega
    simp only [opd, opCode, h1, h2, h3, h4] at h
    repeat' split at h
    all_goals simp_all
  | m n =>
    have hn := n.isLt
    have h1 : (0x220 + n.toNat) / 256 = 2 := by omega
    have h2 : (0x220 + n.toNat) % 256 = 32 + n.toNat := by omega
    have h3 : ¬ 32 + n.toNat < 8 := by omega
    have h4 : ¬ (32 + n.toNat < 24) := by omega
    have h5 : (32 + n.toNat < 48) := by omega
    simp only [opd, opCode, h1, h2, h3, h4, h5] at h
    repeat' split at h
    all_goals simp_all
  | imm => simp [opd, opCode] at h; exact h.symm
  | nil => simp [opd, opCode] at h; exact h.symm
  | vat n =>
    have hn := n.isLt
    have h1 : (0x310 + n.toNat) / 256 = 3 := by omega
    have h2 : (0x310 + n.toNat) % 256 = 16 + n.toNat := by omega
    have h3 : ¬ 16 + n.toNat = 0 := by omega
    have h4 : ¬ 16 + n.toNat = 1 := by omega
    have h5 : (16 + n.toNat < 20) := by omega
    simp only [opd, opCode, h1, h2, h3, h4, h5] at h
    repeat' split at h
    all_goals simp_all

theorem opd_getD {ag : Agent} {o : Operand} (h : (opd ag (opCode o)).isSome = true) : (opd ag (opCode o)).getD .nil = o := by
  obtain ⟨o', ho⟩ := Option.isSome_iff_exists.1 h
  rw [ho]
  exact opd_opCode ho

/-- A field that an agent reads as an operand is that operand's code. -/
theorem opCode_opd {ag : Agent} {x : Nat} {o : Operand} (hx : x < 2 ^ 10) (h : opd ag x = some o) : opCode o = x := by
  have hq : x / 256 < 4 := by omega
  have hi : x % 256 < 256 := Nat.mod_lt _ (by decide)
  have hx2 : x = 256 * (x / 256) + x % 256 := by omega
  generalize hk : x / 256 = q at *
  generalize x % 256 = i at *
  unfold opd at h
  simp only [hk] at h
  have hm : x % 256 = i := by omega
  rw [hm] at h
  rcases (by omega : q = 0 ∨ q = 1 ∨ q = 2 ∨ q = 3) with rfl | rfl | rfl | rfl <;> simp only at h
  all_goals (repeat' split at h)
  all_goals first
    | (simp at h; done)
    | (simp only [Option.some.injEq] at h; subst h
       simp only [opCode, BitVec.toNat_ofNat, Nat.reducePow, Bool.and_eq_true, decide_eq_true_eq] at *; omega)

/-! ## Guard, hint and MOD -/

theorem guard_fits (g : Guard) : guardMode g < 4 ∧ guardPred g < 8 := by
  cases g <;> simp only [guardMode, guardPred] <;> omega

theorem hintCode_lt (h : Hint) : hintCode h < 128 := by
  obtain ⟨st, y, a, b, z⟩ := h
  have := st.isLt
  cases y <;> cases a <;> cases b <;> cases z <;> simp [hintCode, b2n] <;> omega

theorem hintOf_hintCode_fin (y a b z : Bool) :
    ∀ n : Fin 8, hintOf (hintCode ⟨BitVec.ofNat 3 n, y, a, b, z⟩) = ⟨BitVec.ofNat 3 n, y, a, b, z⟩ := by
  cases y <;> cases a <;> cases b <;> cases z <;> decide

theorem hintOf_hintCode (h : Hint) : hintOf (hintCode h) = h := by
  obtain ⟨st, y, a, b, z⟩ := h
  have h1 := hintOf_hintCode_fin y a b z ⟨st.toNat, st.isLt⟩
  simpa using h1

theorem hintCode_hintOf_fin : ∀ n : Fin 128, hintCode (hintOf n) = n := by decide

theorem hintCode_hintOf (n : Nat) (h : n < 128) : hintCode (hintOf n) = n := hintCode_hintOf_fin ⟨n, h⟩

theorem tyOf_tyCode (t : Ty) : tyOf (tyCode t) = t := by cases t <;> rfl
theorem tyCode_lt (t : Ty) : tyCode t < 16 := by cases t <;> decide
theorem tyCode_tyOf (n : Nat) (h : n < 16) : tyCode (tyOf n) = n := by
  rcases (by omega : n = 0 ∨ n = 1 ∨ n = 2 ∨ n = 3 ∨ n = 4 ∨ n = 5 ∨ n = 6 ∨ n = 7 ∨ n = 8 ∨ n = 9 ∨ n = 10 ∨ n = 11 ∨
    n = 12 ∨ n = 13 ∨ n = 14 ∨ n = 15) with h | h | h | h | h | h | h | h | h | h | h | h | h | h | h | h <;> subst h <;> rfl
theorem rndOf_rndCode (t : Rnd) : rndOf (rndCode t) = t := by cases t <;> rfl
theorem rndCode_lt (t : Rnd) : rndCode t < 5 := by cases t <;> decide
theorem orderOf_orderCode (t : Order) : orderOf (orderCode t) = t := by cases t <;> rfl
theorem orderCode_lt (t : Order) : orderCode t < 4 := by cases t <;> decide
theorem scopeOf_scopeCode (t : Scope) : scopeOf (scopeCode t) = t := by cases t <;> rfl
theorem scopeCode_lt (t : Scope) : scopeCode t < 6 := by cases t <;> decide

theorem b2n_lt (b : Bool) : b2n b < 2 := by cases b <;> decide

theorem plRaw_fits {op : Nat} (hop : op < 2 ^ 10) (i : Slots) {md : Nat} (hmd : md < 2 ^ 12) : (plRaw op i md).fits :=
  ⟨hop, (guard_fits _).1, (guard_fits _).2, opCode_lt _, opCode_lt _, opCode_lt _, hintCode_lt _, hmd, i.imm.isLt⟩

/-- What a word without a trap says of its fields. -/
theorem wordTrap_none {ag : Agent} {r : Raw} (h : wordTrap ag r = none) :
    assigned r.op = true ∧ executes ag r.op = true ∧ reservedBits ag r = []
      ∧ (opd ag r.d).isSome = true ∧ (opd ag r.a).isSome = true ∧ (opd ag r.b).isSome = true := by
  unfold wordTrap at h
  split at h
  · simp at h
  rename_i h1
  simp only [Bool.not_eq_true', Bool.not_eq_false, Bool.and_eq_true] at h1
  split at h
  · simp at h
  rename_i h2
  have h2' : reservedBits ag r = [] := by
    cases hr : reservedBits ag r with
    | nil => rfl
    | cons x xs => rw [hr] at h2; simp [listMin] at h2
  split at h
  · simp at h
  simp only at h
  split at h
  · simp at h
  rename_i h3
  split at h
  · simp at h
  rename_i h4
  split at h
  · simp at h
  rename_i h5
  simp only [Bool.not_eq_true', Bool.not_eq_false, Bool.and_eq_true] at h3 h4 h5
  exact ⟨h1.1, h1.2, h2', h3.1, h4.1, h5.1⟩

theorem guardOf_plRaw (op : Nat) (i : Slots) (md : Nat) : guardOf (plRaw op i md) = i.guard := by
  simp only [guardOf, plRaw]
  cases i.guard <;> simp [guardMode, guardPred]

/-- The plain fields read back. -/
theorem slotsOf_plRaw {ag : Agent} {op : Nat} {i : Slots} {md : Nat} (h : wordTrap ag (plRaw op i md) = none) :
    slotsOf ag (plRaw op i md) = i := by
  obtain ⟨-, -, -, hd, ha, hb⟩ := wordTrap_none h
  unfold slotsOf
  rw [guardOf_plRaw]
  simp only [plRaw] at hd ha hb ⊢
  rw [opd_getD hd, opd_getD ha, opd_getD hb, hintOf_hintCode]
  simp

theorem fnOf_fnView {ag : Agent} {op : Nat} {i : FnI} (h : wordTrap ag (fnView op i) = none) : fnOf ag (fnView op i) = i := by
  obtain ⟨sl, ty, sat, sub⟩ := i
  have hs := sub.isLt
  have ht := tyCode_lt ty
  unfold fnOf
  unfold fnView at h ⊢
  rw [slotsOf_plRaw h]
  have e1 : tyF (plRaw op sl (tyCode ty * 256 + b2n sat * 16 + sub.toNat)) = tyCode ty := by
    have := b2n_lt sat
    simp only [tyF, plRaw]
    omega
  have e2 : satF (plRaw op sl (tyCode ty * 256 + b2n sat * 16 + sub.toNat)) = b2n sat := by
    have := b2n_lt sat
    simp only [satF, plRaw]
    omega
  have e3 : subF (plRaw op sl (tyCode ty * 256 + b2n sat * 16 + sub.toNat)) = sub.toNat := by
    simp only [subF, plRaw]
    omega
  simp only [e1, e2, e3, tyOf_tyCode]
  cases sat <;> simp [b2n]

theorem rdOf_rdView {ag : Agent} {op : Nat} {i : RdI} (h : wordTrap ag (rdView op i) = none) : rdOf ag (rdView op i) = i := by
  obtain ⟨sl, ty, rnd, sat, var⟩ := i
  have hs := var.isLt
  have ht := tyCode_lt ty
  have hr := rndCode_lt rnd
  have hb := b2n_lt sat
  unfold rdOf
  unfold rdView at h ⊢
  rw [slotsOf_plRaw h]
  simp only
  generalize hmd : tyCode ty * 256 + rndCode rnd * 32 + b2n sat * 16 + var.toNat = md
  have e1 : tyF (plRaw op sl md) = tyCode ty := by simp only [tyF, plRaw]; omega
  have e2 : satF (plRaw op sl md) = b2n sat := by simp only [satF, plRaw]; omega
  have e3 : subF (plRaw op sl md) = var.toNat := by simp only [subF, plRaw]; omega
  have e4 : rndF (plRaw op sl md) = rndCode rnd := by simp only [rndF, plRaw]; omega
  simp only [e1, e2, e3, e4, tyOf_tyCode, rndOf_rndCode]
  cases sat <;> simp [b2n]

theorem mtxOf_mtxView {ag : Agent} {op : Nat} {i : MtxI} (h : wordTrap ag (mtxView op i) = none) :
    mtxOf ag (mtxView op i) = i := by
  obtain ⟨sl, ty, rnd, sat, var⟩ := i
  have hs := var.isLt
  have ht := tyCode_lt ty
  have hr := rndCode_lt rnd
  have hb := b2n_lt sat
  unfold mtxOf
  unfold mtxView at h ⊢
  rw [slotsOf_plRaw h]
  simp only
  generalize hmd : tyCode ty * 256 + rndCode rnd * 32 + b2n sat * 16 + var.toNat = md
  have e1 : tyF (plRaw op sl md) = tyCode ty := by simp only [tyF, plRaw]; omega
  have e2 : satF (plRaw op sl md) = b2n sat := by simp only [satF, plRaw]; omega
  have e3 : subF (plRaw op sl md) = var.toNat := by simp only [subF, plRaw]; omega
  have e4 : rndF (plRaw op sl md) = rndCode rnd := by simp only [rndF, plRaw]; omega
  simp only [e1, e2, e3, e4, tyOf_tyCode, rndOf_rndCode]
  cases sat <;> simp [b2n]

theorem memOf_memView {ag : Agent} {op : Nat} {i : MemI} (h : wordTrap ag (memView op i) = none) :
    memOf ag (memView op i) = i := by
  obtain ⟨sl, ty, col, od, sc⟩ := i
  have hs := col.isLt
  have ht := tyCode_lt ty
  have hr := orderCode_lt od
  have hb := scopeCode_lt sc
  unfold memOf
  unfold memView at h ⊢
  rw [slotsOf_plRaw h]
  simp only
  generalize hmd : tyCode ty * 256 + col.toNat * 32 + orderCode od * 8 + scopeCode sc = md
  have e1 : tyF (plRaw op sl md) = tyCode ty := by simp only [tyF, plRaw]; omega
  have e2 : colourF (plRaw op sl md) = col.toNat := by simp only [colourF, plRaw]; omega
  have e3 : orderF (plRaw op sl md) = orderCode od := by simp only [orderF, plRaw]; omega
  have e4 : scopeF (plRaw op sl md) = scopeCode sc := by simp only [scopeF, plRaw]; omega
  simp only [e1, e2, e3, e4, tyOf_tyCode, orderOf_orderCode, scopeOf_scopeCode]
  simp

theorem plView_fits {op : Nat} (hop : op < 2 ^ 10) (i : Slots) : (plView op i).fits := plRaw_fits hop i (by decide)
theorem fnView_fits {op : Nat} (hop : op < 2 ^ 10) (i : FnI) : (fnView op i).fits :=
  plRaw_fits hop _ (by have := tyCode_lt i.ty; have := b2n_lt i.sat; have := i.sub.isLt; omega)
theorem rdView_fits {op : Nat} (hop : op < 2 ^ 10) (i : RdI) : (rdView op i).fits :=
  plRaw_fits hop _ (by
    have := tyCode_lt i.ty; have := b2n_lt i.sat; have := i.var.isLt; have := rndCode_lt i.rnd; omega)
theorem memView_fits {op : Nat} (hop : op < 2 ^ 10) (i : MemI) : (memView op i).fits :=
  plRaw_fits hop _ (by
    have := tyCode_lt i.ty; have := i.colour.isLt; have := orderCode_lt i.order; have := scopeCode_lt i.scope; omega)
theorem mtxView_fits {op : Nat} (hop : op < 2 ^ 10) (i : MtxI) : (mtxView op i).fits :=
  plRaw_fits hop _ (by
    have := tyCode_lt i.ty; have := b2n_lt i.sc; have := i.var.isLt; have := rndCode_lt i.rnd; omega)

/-! ## The word of a decoded instruction -/

theorem noBits (n x : Nat) (hx : x < 2 ^ n) (h : (List.range n).filter (fun i => bit x i) = []) : x = 0 := by
  apply Nat.eq_of_testBit_eq
  intro i
  rw [Nat.zero_testBit, Nat.testBit_eq_decide_div_mod_eq]
  by_cases hi : i < n
  · have h1 := List.filter_eq_nil_iff.1 h i (List.mem_range.2 hi)
    simpa [bit] using h1
  · have h2 : x < 2 ^ i := Nat.lt_of_lt_of_le hx (Nat.pow_le_pow_right (by decide) (by omega))
    simp [Nat.div_eq_of_lt h2]

/-- Which bits a word without reserved bits has clear: those of its layout, and the predicate of an unguarded word. -/
theorem reserved_nil {ag : Agent} {r : Raw} (hf : r.fits) (h : reservedBits ag r = []) :
    (r.mode = 0 → r.pred = 0) ∧ r.mode < 3 ∧ (layoutOf r.op = .pl → r.md = 0)
      ∧ (layoutOf r.op = .fn → r.md / 32 % 8 = 0) ∧ (layoutOf r.op = .mem → r.md % 8 < 6)
      ∧ (layoutOf r.op = .rd ∨ layoutOf r.op = .mtx → r.md / 32 % 8 < 5) := by
  obtain ⟨h1, h2, h3, h4, h5, h6, h7, h8, h9⟩ := hf
  unfold reservedBits at h
  simp only [List.append_eq_nil_iff] at h
  obtain ⟨⟨⟨-, hm⟩, hp⟩, h3m⟩ := h
  refine ⟨?_, ?_, ?_, ?_, ?_, ?_⟩
  · intro h0
    rw [if_pos h0, List.map_eq_nil_iff] at hp
    exact noBits 3 _ (by omega) hp
  · by_cases h0 : r.mode = 3
    · rw [if_pos h0] at h3m; simp at h3m
    · omega
  · intro hl
    rw [hl] at hm
    simp only [List.map_eq_nil_iff] at hm
    exact noBits 12 _ h8 hm
  · intro hl
    rw [hl] at hm
    simp only [List.map_eq_nil_iff] at hm
    exact noBits 3 _ (by omega) hm
  · intro hl
    rw [hl] at hm
    simp only at hm
    by_cases h0 : 6 ≤ r.md % 8
    · rw [if_pos h0] at hm; simp at hm
    · omega
  · intro hl
    rcases hl with hl | hl <;>
    · rw [hl] at hm
      simp only [List.append_eq_nil_iff] at hm
      by_cases h0 : 5 ≤ r.md / 32 % 8
      · rw [if_pos h0] at hm; simp at hm
      · omega

theorem guard_of_raw {r : Raw} (hp : r.pred < 8) (h0 : r.mode = 0 → r.pred = 0) (h3 : r.mode < 3) :
    guardMode (guardOf r) = r.mode ∧ guardPred (guardOf r) = r.pred := by
  unfold guardOf
  rcases (by omega : r.mode = 0 ∨ r.mode = 1 ∨ r.mode = 2) with h | h | h
  · simp [h, guardMode, guardPred, h0 h]
  · simp [h, guardMode, guardPred]; omega
  · simp [h, guardMode, guardPred]; omega

/-- The fields of the decoded plain fields are the word's. -/
theorem plRaw_slotsOf {ag : Agent} {r : Raw} (hf : r.fits) (h : wordTrap ag r = none) (op md : Nat) :
    plRaw op (slotsOf ag r) md = { r with op := op, md := md } := by
  obtain ⟨-, -, hr, hd, ha, hb⟩ := wordTrap_none h
  obtain ⟨hp0, hm3, -⟩ := reserved_nil hf hr
  obtain ⟨h1, h2, h3, h4, h5, h6, h7, h8, h9⟩ := hf
  obtain ⟨d, hd⟩ := Option.isSome_iff_exists.1 hd
  obtain ⟨a, ha⟩ := Option.isSome_iff_exists.1 ha
  obtain ⟨b, hb⟩ := Option.isSome_iff_exists.1 hb
  have hg := guard_of_raw h3 hp0 hm3
  unfold plRaw slotsOf
  simp only [hd, ha, hb, Option.getD_some, hg.1, hg.2, opCode_opd h4 hd, opCode_opd h5 ha, opCode_opd h6 hb,
    hintCode_hintOf _ h7, BitVec.toNat_ofNat, Nat.mod_eq_of_lt h9]

theorem b2n_one (x : Nat) (h : x < 2) : b2n (x == 1) = x := by
  rcases (by omega : x = 0 ∨ x = 1) with h | h <;> subst h <;> rfl

theorem rndCode_rndOf (n : Nat) (h : n < 5) : rndCode (rndOf n) = n := by
  rcases (by omega : n = 0 ∨ n = 1 ∨ n = 2 ∨ n = 3 ∨ n = 4) with h | h | h | h | h <;> subst h <;> rfl
theorem orderCode_orderOf (n : Nat) (h : n < 4) : orderCode (orderOf n) = n := by
  rcases (by omega : n = 0 ∨ n = 1 ∨ n = 2 ∨ n = 3) with h | h | h | h <;> subst h <;> rfl
theorem scopeCode_scopeOf (n : Nat) (h : n < 6) : scopeCode (scopeOf n) = n := by
  rcases (by omega : n = 0 ∨ n = 1 ∨ n = 2 ∨ n = 3 ∨ n = 4 ∨ n = 5) with h | h | h | h | h | h <;> subst h <;> rfl

section
variable {ag : Agent} {r : Raw} (hf : r.fits) (h : wordTrap ag r = none)
include hf h

theorem plView_slotsOf (hl : layoutOf r.op = .pl) : plView r.op (slotsOf ag r) = r := by
  unfold plView
  rw [plRaw_slotsOf hf h]
  have := (reserved_nil hf (wordTrap_none h).2.2.1).2.2.1 hl
  rw [← this]

theorem fnView_fnOf (hl : layoutOf r.op = .fn) : fnView r.op (fnOf ag r) = r := by
  have h0 := (reserved_nil hf (wordTrap_none h).2.2.1).2.2.2.1 hl
  have h8 := hf.2.2.2.2.2.2.2.1
  unfold fnView
  have hs : (fnOf ag r).toSlots = slotsOf ag r := rfl
  rw [hs, plRaw_slotsOf hf h]
  have : tyCode (fnOf ag r).ty * 256 + b2n (fnOf ag r).sat * 16 + (fnOf ag r).sub.toNat = r.md := by
    simp only [fnOf]
    rw [tyCode_tyOf _ (by simp only [tyF]; omega), b2n_one _ (by simp only [satF]; omega)]
    simp only [tyF, satF, subF, BitVec.toNat_ofNat]
    omega
  rw [this]

theorem rdView_rdOf (hl : layoutOf r.op = .rd) : rdView r.op (rdOf ag r) = r := by
  have h0 := (reserved_nil hf (wordTrap_none h).2.2.1).2.2.2.2.2 (Or.inl hl)
  have h8 := hf.2.2.2.2.2.2.2.1
  unfold rdView
  have hs : (rdOf ag r).toSlots = slotsOf ag r := rfl
  rw [hs, plRaw_slotsOf hf h]
  have : tyCode (rdOf ag r).ty * 256 + rndCode (rdOf ag r).rnd * 32 + b2n (rdOf ag r).sat * 16 + (rdOf ag r).var.toNat
      = r.md := by
    simp only [rdOf]
    rw [tyCode_tyOf _ (by simp only [tyF]; omega), b2n_one _ (by simp only [satF]; omega),
      rndCode_rndOf _ (by simp only [rndF]; omega)]
    simp only [tyF, satF, subF, rndF, BitVec.toNat_ofNat]
    omega
  rw [this]

theorem mtxView_mtxOf (hl : layoutOf r.op = .mtx) : mtxView r.op (mtxOf ag r) = r := by
  have h0 := (reserved_nil hf (wordTrap_none h).2.2.1).2.2.2.2.2 (Or.inr hl)
  have h8 := hf.2.2.2.2.2.2.2.1
  unfold mtxView
  have hs : (mtxOf ag r).toSlots = slotsOf ag r := rfl
  rw [hs, plRaw_slotsOf hf h]
  have : tyCode (mtxOf ag r).ty * 256 + rndCode (mtxOf ag r).rnd * 32 + b2n (mtxOf ag r).sc * 16
      + (mtxOf ag r).var.toNat = r.md := by
    simp only [mtxOf]
    rw [tyCode_tyOf _ (by simp only [tyF]; omega), b2n_one _ (by simp only [satF]; omega),
      rndCode_rndOf _ (by simp only [rndF]; omega)]
    simp only [tyF, satF, subF, rndF, BitVec.toNat_ofNat]
    omega
  rw [this]

theorem memView_memOf (hl : layoutOf r.op = .mem) : memView r.op (memOf ag r) = r := by
  have h0 := (reserved_nil hf (wordTrap_none h).2.2.1).2.2.2.2.1 hl
  have h8 := hf.2.2.2.2.2.2.2.1
  unfold memView
  have hs : (memOf ag r).toSlots = slotsOf ag r := rfl
  rw [hs, plRaw_slotsOf hf h]
  have : tyCode (memOf ag r).ty * 256 + (memOf ag r).colour.toNat * 32 + orderCode (memOf ag r).order * 8
      + scopeCode (memOf ag r).scope = r.md := by
    simp only [memOf]
    rw [tyCode_tyOf _ (by simp only [tyF]; omega), orderCode_orderOf _ (by simp only [orderF]; omega),
      scopeCode_scopeOf _ (by simp only [scopeF]; omega)]
    simp only [tyF, colourF, orderF, scopeF, BitVec.toNat_ofNat]
    omega
  rw [this]

end

/-- The word of fields that fit, decoded. -/
theorem decodeWord_wordOf {ag : Agent} {r : Raw} (h : r.fits) :
    decodeWord ag (BitVec.ofNat 96 (wordOf r)) = decodeRaw ag r := by
  unfold decodeWord
  rw [BitVec.toNat_ofNat, Nat.mod_eq_of_lt (wordOf_lt h), rawOf_wordOf h]

end Sys2Proof.Machine
end

