-- ==== Sys2Proof/Laws/Map.lean ====
section
/-!
SUPPORT. Laws/Map.lean: the laws of maps held in canonical form: a read after a write, and that every operation keeps
the form.
-/
namespace Sys2Proof.Machine

section
variable {β : Type} (d : β) (m : SMap β) (j k : Nat) (x : β)

@[simp] theorem SMap.get_nil : SMap.get d [] k = d := rfl
@[simp] theorem SMap.find_nil : SMap.find ([] : SMap β) k = none := rfl

theorem SMap.get_cons (p : Nat × β) : SMap.get d (p :: m) k = if p.1 = k then p.2 else SMap.get d m k := rfl
theorem SMap.find_cons (p : Nat × β) : SMap.find (p :: m) k = if p.1 = k then some p.2 else SMap.find m k := rfl

theorem SMap.get_del : SMap.get d (SMap.del j m) k = if k = j then d else SMap.get d m k := by
  induction m with
  | nil => simp [SMap.del]
  | cons p m ih =>
    obtain ⟨i, y⟩ := p
    simp only [SMap.del, SMap.get_cons]
    by_cases h : i = j <;> by_cases h2 : k = j <;> by_cases h3 : i = k <;> simp_all [SMap.get_cons]

theorem SMap.find_del : SMap.find (SMap.del j m) k = if k = j then none else SMap.find m k := by
  induction m with
  | nil => simp [SMap.del]
  | cons p m ih =>
    obtain ⟨i, y⟩ := p
    simp only [SMap.del, SMap.find_cons]
    by_cases h : i = j <;> by_cases h2 : k = j <;> by_cases h3 : i = k <;> simp_all [SMap.find_cons]

theorem SMap.get_ins (h : SMap.find m j = none) :
    SMap.get d (SMap.ins j x m) k = if k = j then x else SMap.get d m k := by
  induction m with
  | nil =>
    simp only [SMap.ins, SMap.get_cons, SMap.get_nil]
    by_cases h : j = k
    · subst h; simp
    · rw [if_neg h, if_neg (fun e => h e.symm)]
  | cons p m ih =>
    obtain ⟨i, y⟩ := p
    simp only [SMap.ins, SMap.find_cons] at h ⊢
    by_cases h4 : i = j
    · simp [h4] at h
    · simp only [h4, if_false] at h
      by_cases h1 : j < i
      · simp only [h1, if_true, SMap.get_cons]
        by_cases h2 : j = k
        · subst h2; simp
        · have h5 : ¬ k = j := fun e => h2 e.symm
          simp [h2, h5]
      · simp only [h1, if_false, SMap.get_cons]
        rw [ih h]
        by_cases h3 : i = k
        · subst h3; simp [h4]
        · simp [h3]

theorem SMap.find_ins (h : SMap.find m j = none) :
    SMap.find (SMap.ins j x m) k = if k = j then some x else SMap.find m k := by
  induction m with
  | nil => simp only [SMap.ins, SMap.find_cons, SMap.find_nil]; by_cases h : j = k <;> simp_all [eq_comm]
  | cons p m ih =>
    obtain ⟨i, y⟩ := p
    simp only [SMap.ins, SMap.find_cons] at h ⊢
    by_cases h4 : i = j
    · simp [h4] at h
    · simp only [h4, if_false] at h
      by_cases h1 : j < i
      · simp only [h1, if_true, SMap.find_cons]
        by_cases h2 : j = k <;> by_cases h3 : i = k <;> simp_all [eq_comm]
      · simp only [h1, if_false, SMap.find_cons]
        rw [ih h]
        by_cases h3 : i = k
        · subst h3; simp_all
        · simp_all

/-- Read after put. -/
theorem SMap.find_put : SMap.find (SMap.put m j x) k = if k = j then some x else SMap.find m k := by
  unfold SMap.put
  rw [SMap.find_ins _ _ _ _ (by simp [SMap.find_del]), SMap.find_del]
  by_cases h : k = j <;> simp [h]

@[simp] theorem SMap.find_put_same : SMap.find (SMap.put m k x) k = some x := by simp [SMap.find_put]
theorem SMap.find_put_ne (h : k ≠ j) : SMap.find (SMap.put m j x) k = SMap.find m k := by simp [SMap.find_put, h]

variable [DecidableEq β]

/-- Read after write. -/
theorem SMap.get_set : SMap.get d (SMap.set d m j x) k = if k = j then x else SMap.get d m k := by
  unfold SMap.set
  by_cases hx : x = d
  · simp [hx, SMap.get_del]
  · rw [if_neg hx, SMap.get_ins _ _ _ _ _ (by simp [SMap.find_del]), SMap.get_del]
    by_cases h : k = j <;> simp [h]

@[simp] theorem SMap.get_set_same : SMap.get d (SMap.set d m k x) k = x := by simp [SMap.get_set]
theorem SMap.get_set_ne (h : k ≠ j) : SMap.get d (SMap.set d m j x) k = SMap.get d m k := by simp [SMap.get_set, h]

/-! ## The canonical form is kept -/

theorem SMap.okFrom_cons (lo : Nat) (p : Nat × β) :
    SMap.okFrom d lo (p :: m) = true ↔ lo ≤ p.1 ∧ p.2 ≠ d ∧ SMap.okFrom d (p.1 + 1) m = true := by
  obtain ⟨i, y⟩ := p
  simp [SMap.okFrom, and_assoc]

theorem SMap.okFrom_mono {lo lo' : Nat} (h : lo' ≤ lo) (hm : SMap.okFrom d lo m = true) :
    SMap.okFrom d lo' m = true := by
  cases m with
  | nil => rfl
  | cons p m =>
    rw [SMap.okFrom_cons] at hm ⊢
    exact ⟨by omega, hm.2⟩

theorem SMap.okFrom_del (lo : Nat) (hm : SMap.okFrom d lo m = true) : SMap.okFrom d lo (SMap.del j m) = true := by
  induction m generalizing lo with
  | nil => rfl
  | cons p m ih =>
    obtain ⟨i, y⟩ := p
    rw [SMap.okFrom_cons] at hm
    simp only [SMap.del]
    split
    · exact SMap.okFrom_mono _ _ (by omega) (ih _ hm.2.2)
    · rw [SMap.okFrom_cons]
      exact ⟨hm.1, hm.2.1, ih _ hm.2.2⟩

theorem SMap.okFrom_ins (lo : Nat) (hj : lo ≤ j) (hx : x ≠ d) (hf : SMap.get d m j = d) (hm : SMap.okFrom d lo m = true) :
    SMap.okFrom d lo (SMap.ins j x m) = true := by
  induction m generalizing lo with
  | nil => simp [SMap.ins, SMap.okFrom, hj, hx]
  | cons p m ih =>
    obtain ⟨i, y⟩ := p
    rw [SMap.okFrom_cons] at hm
    simp only [SMap.ins, SMap.get_cons] at hf ⊢
    split
    · rw [SMap.okFrom_cons, SMap.okFrom_cons]
      exact ⟨hj, hx, by simp only; omega, hm.2⟩
    · have hne : i ≠ j := by
        intro h
        subst h
        simp at hf
        exact hm.2.1 hf
      rw [if_neg hne] at hf
      rw [SMap.okFrom_cons]
      exact ⟨hm.1, hm.2.1, ih (i + 1) (by omega) hf hm.2.2⟩

/-- A write keeps the canonical form. -/
theorem SMap.ok_set (hm : SMap.ok d m = true) : SMap.ok d (SMap.set d m j x) = true := by
  unfold SMap.set SMap.ok
  split
  · exact SMap.okFrom_del _ _ _ _ hm
  · rename_i hx
    exact SMap.okFrom_ins _ _ _ _ _ (Nat.zero_le _) hx (by simp [SMap.get_del]) (SMap.okFrom_del _ _ _ _ hm)

/-- A run of writes keeps the canonical form. -/
theorem SMap.ok_setRange (xs : List β) (hm : SMap.ok d m = true) : SMap.ok d (SMap.setRange d m k xs) = true := by
  induction xs generalizing m k with
  | nil => exact hm
  | cons y ys ih => exact ih _ _ (SMap.ok_set _ _ _ _ hm)

theorem SMap.ok_nil : SMap.ok d ([] : SMap β) = true := rfl

/-- Two maps in canonical form that read alike are the same list. -/
theorem SMap.okFrom_get_lt (lo : Nat) (hm : SMap.okFrom d lo m = true) (h : k < lo) : SMap.get d m k = d := by
  induction m generalizing lo with
  | nil => rfl
  | cons p m ih =>
    obtain ⟨i, y⟩ := p
    rw [SMap.okFrom_cons] at hm
    rw [SMap.get_cons, if_neg (by simp only; omega)]
    exact ih (i + 1) hm.2.2 (by simp only at hm; omega)

theorem SMap.okFrom_ext (m' : SMap β) (lo : Nat) (hm : SMap.okFrom d lo m = true) (hm' : SMap.okFrom d lo m' = true)
    (h : ∀ k, SMap.get d m k = SMap.get d m' k) : m = m' := by
  induction m generalizing lo m' with
  | nil =>
    cases m' with
    | nil => rfl
    | cons p m' =>
      rw [SMap.okFrom_cons] at hm'
      have := h p.1
      simp [SMap.get_cons] at this
      exact absurd this.symm hm'.2.1
  | cons p m ih =>
    rw [SMap.okFrom_cons] at hm
    cases m' with
    | nil =>
      have := h p.1
      simp [SMap.get_cons] at this
      exact absurd this hm.2.1
    | cons q m' =>
      rw [SMap.okFrom_cons] at hm'
      have hkey : p.1 = q.1 := by
        rcases Nat.lt_trichotomy p.1 q.1 with hlt | heq | hgt
        · have h1 := h p.1
          rw [SMap.get_cons, if_pos rfl, SMap.get_cons, if_neg (by omega),
            SMap.okFrom_get_lt d m' p.1 _ hm'.2.2 (by omega)] at h1
          exact absurd h1 hm.2.1
        · exact heq
        · have h1 := h q.1
          rw [SMap.get_cons, if_neg (by omega), SMap.okFrom_get_lt d m q.1 _ hm.2.2 (by omega), SMap.get_cons,
            if_pos rfl] at h1
          exact absurd h1.symm hm'.2.1
      have hval : p.2 = q.2 := by
        have h1 := h p.1
        rw [SMap.get_cons, if_pos rfl, SMap.get_cons, if_pos hkey.symm] at h1
        exact h1
      have hpq : p = q := Prod.ext hkey hval
      subst hpq
      congr 1
      apply ih m' (p.1 + 1) hm.2.2 hm'.2.2
      intro k
      by_cases hk : p.1 = k
      · subst hk
        rw [SMap.okFrom_get_lt d m _ _ hm.2.2 (by omega), SMap.okFrom_get_lt d m' _ _ hm'.2.2 (by omega)]
      · have h1 := h k
        rwa [SMap.get_cons, if_neg hk, SMap.get_cons, if_neg hk] at h1

theorem SMap.ok_ext (m' : SMap β) (hm : SMap.ok d m = true) (hm' : SMap.ok d m' = true)
    (h : ∀ k, SMap.get d m k = SMap.get d m' k) : m = m' := SMap.okFrom_ext d m m' 0 hm hm' h

end

end Sys2Proof.Machine
end

