-- ==== Sys2Proof/Laws/Memory.lean ====
section
/-!
SUPPORT. Laws/Memory.lean: every operation over home and host memory keeps the canonical form, which reset has, and a
byte reads as it was last written.
-/
namespace Sys2Proof.Machine

/-! ## The one pass over a range -/

section
variable {β : Type} [DecidableEq β] (d : β)

theorem SMap.get_tabulate_go (lo n k : Nat) (f : Nat → β) :
    SMap.get d (((List.range n).map fun i => (lo + i, f (lo + i))).filter fun e => decide (e.2 ≠ d)) k
      = if lo ≤ k ∧ k < lo + n then f k else d := by
  induction n generalizing lo with
  | zero => simp [show ¬ (lo ≤ k ∧ k < lo) by omega]
  | succ n ih =>
    have hr : ((List.range n).map Nat.succ).map (fun i => (lo + i, f (lo + i)))
        = (List.range n).map (fun i => (lo + 1 + i, f (lo + 1 + i))) := by
      rw [List.map_map]
      apply List.map_congr_left
      intro i _
      simp only [Function.comp]
      rw [show lo + Nat.succ i = lo + 1 + i by omega]
    rw [List.range_succ_eq_map, List.map_cons, hr, List.filter_cons]
    simp only [Nat.add_zero]
    by_cases hk : k = lo
    · subst hk
      by_cases hf : f k = d
      · have h1 := ih (k + 1)
        rw [if_neg (by omega)] at h1
        rw [if_neg (by simp [hf]), h1, if_pos (by omega), hf]
      · rw [if_pos (by simp [hf]), SMap.get_cons, if_pos rfl, if_pos (by omega)]
    · have h1 := ih (lo + 1)
      have hiff : (lo + 1 ≤ k ∧ k < lo + 1 + n) ↔ (lo ≤ k ∧ k < lo + (n + 1)) := by omega
      simp only [hiff] at h1
      by_cases hf : f lo = d
      · rw [if_neg (by simp [hf]), h1]
      · rw [if_pos (by simp [hf]), SMap.get_cons, if_neg (by simp only; omega), h1]

theorem SMap.get_tabulate (lo n k : Nat) (f : Nat → β) :
    SMap.get d (SMap.tabulate d lo n f) k = if lo ≤ k ∧ k < lo + n then f k else d := SMap.get_tabulate_go d lo n k f

theorem SMap.okFrom_filter (p : Nat × β → Bool) (m : SMap β) (lo : Nat) (h : SMap.okFrom d lo m = true) :
    SMap.okFrom d lo (m.filter p) = true := by
  induction m generalizing lo with
  | nil => rfl
  | cons q m ih =>
    rw [SMap.okFrom_cons] at h
    rw [List.filter_cons]
    split
    · rw [SMap.okFrom_cons]
      exact ⟨h.1, h.2.1, ih _ h.2.2⟩
    · exact SMap.okFrom_mono _ _ (by omega) (ih _ h.2.2)

/-- Filtering keeps the canonical form. -/
theorem SMap.ok_filter (p : Nat × β → Bool) (m : SMap β) (h : SMap.ok d m = true) : SMap.ok d (m.filter p) = true :=
  SMap.okFrom_filter d p m 0 h

/-- Two maps, the second above a bound that the first stays below, joined. -/
theorem SMap.okFrom_append (m n : SMap β) (lo hi : Nat) (hm : SMap.okFrom d lo m = true) (hb : ∀ e ∈ m, e.1 < hi)
    (hlo : lo ≤ hi) (hn : SMap.okFrom d hi n = true) : SMap.okFrom d lo (m ++ n) = true := by
  induction m generalizing lo with
  | nil => exact SMap.okFrom_mono _ _ hlo hn
  | cons p m ih =>
    rw [SMap.okFrom_cons] at hm
    rw [List.cons_append, SMap.okFrom_cons]
    have h1 := hb p List.mem_cons_self
    exact ⟨hm.1, hm.2.1, ih (p.1 + 1) hm.2.2 (fun e he => hb e (List.mem_cons_of_mem _ he)) (by omega)⟩

theorem SMap.okFrom_tabulate (lo n : Nat) (f : Nat → β) : SMap.okFrom d lo (SMap.tabulate d lo n f) = true := by
  induction n generalizing lo with
  | zero => rfl
  | succ n ih =>
    have hr : ((List.range n).map Nat.succ).map (fun i => (lo + i, f (lo + i)))
        = (List.range n).map (fun i => (lo + 1 + i, f (lo + 1 + i))) := by
      rw [List.map_map]
      apply List.map_congr_left
      intro i _
      simp only [Function.comp]
      rw [show lo + Nat.succ i = lo + 1 + i by omega]
    unfold SMap.tabulate
    rw [List.range_succ_eq_map, List.map_cons, hr, List.filter_cons]
    have h2 := ih (lo + 1)
    unfold SMap.tabulate at h2
    split
    · rename_i hf
      rw [SMap.okFrom_cons]
      exact ⟨by simp, by simpa using hf, h2⟩
    · exact SMap.okFrom_mono _ _ (by omega) h2

theorem SMap.okFrom_above (m : SMap β) (hi lo : Nat) (h : SMap.okFrom d lo m = true) :
    SMap.okFrom d hi (m.filter fun e => decide (hi ≤ e.1)) = true := by
  induction m generalizing lo with
  | nil => rfl
  | cons p m ih =>
    rw [SMap.okFrom_cons] at h
    rw [List.filter_cons]
    split
    · rename_i hp
      rw [SMap.okFrom_cons]
      exact ⟨by simpa using hp, h.2.1, SMap.okFrom_filter d _ m _ h.2.2⟩
    · exact ih _ h.2.2

theorem SMap.mem_tabulate_lt (lo n : Nat) (f : Nat → β) : ∀ e ∈ SMap.tabulate d lo n f, e.1 < lo + n := by
  intro e he
  unfold SMap.tabulate at he
  obtain ⟨i, hi, rfl⟩ := List.mem_map.1 (List.mem_filter.1 he).1
  have := List.mem_range.1 hi
  simp only
  omega

/-- The one pass over a range keeps the canonical form. -/
theorem SMap.ok_replace (m : SMap β) (lo n : Nat) (f : Nat → β) (h : SMap.ok d m = true) :
    SMap.ok d (SMap.replace d m lo n f) = true := by
  unfold SMap.replace SMap.ok
  apply SMap.okFrom_append d _ _ 0 (lo + n)
  · apply SMap.okFrom_append d _ _ 0 lo
    · exact SMap.okFrom_filter d _ m 0 h
    · intro e he
      simpa using (List.mem_filter.1 he).2
    · omega
    · exact SMap.okFrom_tabulate d lo n f
  · intro e he
    rcases List.mem_append.1 he with h1 | h1
    · have h2 := (List.mem_filter.1 h1).2
      simp only [decide_eq_true_eq] at h2
      omega
    · exact SMap.mem_tabulate_lt d lo n f e h1
  · omega
  · exact SMap.okFrom_above d m _ 0 h

omit [DecidableEq β] in
theorem SMap.get_filter_key (p : Nat → Bool) (m : SMap β) (k : Nat) :
    SMap.get d (m.filter fun e => p e.1) k = if p k then SMap.get d m k else d := by
  induction m with
  | nil => simp
  | cons q m ih =>
    rw [List.filter_cons]
    by_cases hq : q.1 = k
    · subst hq
      by_cases hp : p q.1 <;> simp_all [SMap.get_cons]
    · by_cases hp : p q.1 <;> simp_all [SMap.get_cons]

omit [DecidableEq β] in
theorem SMap.get_append (m n : SMap β) (k : Nat) :
    SMap.get d (m ++ n) k = if m.any (fun e => e.1 == k) then SMap.get d m k else SMap.get d n k := by
  induction m with
  | nil => simp
  | cons q m ih =>
    rw [List.cons_append, SMap.get_cons, SMap.get_cons, ih, List.any_cons]
    by_cases hq : q.1 = k
    · simp [hq]
    · rw [if_neg hq, if_neg hq, show (q.1 == k) = false by simpa using hq, Bool.false_or]

omit [DecidableEq β] in
theorem SMap.get_eq_of_none (m : SMap β) (k : Nat) (h : m.any (fun e => e.1 == k) = false) : SMap.get d m k = d := by
  induction m with
  | nil => rfl
  | cons q m ih =>
    rw [List.any_cons, Bool.or_eq_false_iff] at h
    rw [SMap.get_cons, if_neg (by simpa using h.1), ih h.2]

theorem SMap.get_replace (m : SMap β) (lo n k : Nat) (f : Nat → β) :
    SMap.get d (SMap.replace d m lo n f) k = if lo ≤ k ∧ k < lo + n then f k else SMap.get d m k := by
  have h1 := SMap.get_filter_key d (fun j => decide (j < lo)) m k
  have h3 := SMap.get_filter_key d (fun j => decide (lo + n ≤ j)) m k
  have h2 := SMap.get_tabulate d lo n k f
  unfold SMap.replace
  rw [SMap.get_append, SMap.get_append, h1, h2, h3]
  have ha : (m.filter fun e => decide (e.1 < lo)).any (fun e => e.1 == k) = true → k < lo := by
    intro h
    obtain ⟨e, he, hk⟩ := List.any_eq_true.1 h
    have h4 := (List.mem_filter.1 he).2
    simp only [decide_eq_true_eq, beq_iff_eq] at h4 hk
    omega
  have hb : (SMap.tabulate d lo n f).any (fun e => e.1 == k) = true → lo ≤ k ∧ k < lo + n := by
    intro h
    obtain ⟨e, he, hk⟩ := List.any_eq_true.1 h
    unfold SMap.tabulate at he
    obtain ⟨i, hi, rfl⟩ := List.mem_map.1 (List.mem_filter.1 he).1
    have := List.mem_range.1 hi
    simp only [beq_iff_eq] at hk
    omega
  have hna : (m.filter fun e => decide (e.1 < lo)).any (fun e => e.1 == k) = false →
      k < lo → SMap.get d m k = d := by
    intro h hk
    have h5 := SMap.get_eq_of_none d _ k h
    rw [h1, if_pos (by simpa using hk)] at h5
    exact h5
  have hnb : (SMap.tabulate d lo n f).any (fun e => e.1 == k) = false → lo ≤ k ∧ k < lo + n → f k = d := by
    intro h hk
    have h5 := SMap.get_eq_of_none d _ k h
    rw [h2, if_pos hk] at h5
    exact h5
  rw [List.any_append]
  cases hA : (m.filter fun e => decide (e.1 < lo)).any (fun e => e.1 == k)
  · cases hB : (SMap.tabulate d lo n f).any (fun e => e.1 == k)
    · by_cases hr : lo ≤ k ∧ k < lo + n
      · have := hnb hB hr
        simp [hr, this, show ¬ (lo + n ≤ k) by omega]
      · by_cases hl : k < lo
        · simp [hr, hna hA hl, show ¬ (lo + n ≤ k) by omega]
        · simp [hr, show lo + n ≤ k by omega]
    · have hr := hb hB
      simp [hr]
  · have hl := ha hA
    simp [hl, show ¬ (lo ≤ k ∧ k < lo + n) by omega]

end

/-! ## Home memory -/

theorem Memory.wf_reset : Memory.wf State.reset := rfl

theorem Memory.wf_iff (s : State) :
    Memory.wf s ↔ SMap.ok 0#8 s.home = true ∧ SMap.ok 0 s.lineKey = true ∧ SMap.ok 0#8 s.hostMem = true := by
  simp [Memory.wf, State.memOk, and_assoc]

theorem Memory.wf_congr {s t : State} (h1 : t.home = s.home) (h2 : t.lineKey = s.lineKey) (h3 : t.hostMem = s.hostMem) :
    Memory.wf t ↔ Memory.wf s := by simp [Memory.wf_iff, h1, h2, h3]

theorem Memory.wf_rekey {s : State} (h : Memory.wf s) (key pa : Nat) : Memory.wf (s.rekey key pa) := by
  rw [Memory.wf_iff] at h
  unfold State.rekey
  simp only
  split
  · exact (Memory.wf_iff s).2 h
  · exact (Memory.wf_iff _).2 ⟨SMap.ok_replace _ _ _ _ _ h.1, SMap.ok_set _ _ _ _ h.2.1, h.2.2⟩

theorem Memory.wf_homeSet {s : State} (h : Memory.wf s) (key pa : Nat) (b : Byte) : Memory.wf (s.homeSet key pa b) := by
  have h1 := (Memory.wf_iff _).1 (Memory.wf_rekey h key pa)
  exact (Memory.wf_iff _).2 ⟨SMap.ok_set _ _ _ _ h1.1, h1.2⟩

theorem Memory.wf_homeWrite {s : State} (h : Memory.wf s) (key pa : Nat) (bs : List Byte) :
    Memory.wf (s.homeWrite key pa bs) := by
  induction bs generalizing s pa with
  | nil => exact h
  | cons b bs ih => exact ih (Memory.wf_homeSet h key pa b) (pa + 1)

theorem Memory.wf_hostWrite {s : State} (h : Memory.wf s) (a : Nat) (bs : List Byte) : Memory.wf (s.hostWrite a bs) := by
  rw [Memory.wf_iff] at h
  exact (Memory.wf_iff _).2 ⟨h.1, h.2.1, SMap.ok_setRange _ _ _ _ h.2.2⟩

/-- A line that a write does not touch keeps its key. -/
theorem State.keyAt_homeSet (s : State) (key pa a : Nat) (b : Byte) :
    (s.homeSet key pa b).keyAt a = if a / 128 = pa / 128 then keyName key else s.keyAt a := by
  unfold State.keyAt State.homeSet State.rekey
  simp only
  split
  · rename_i h
    by_cases ha : a / 128 = pa / 128
    · simp [ha, h]
    · simp [ha]
  · simp [SMap.get_set]

theorem State.homeByte_rekey (s : State) (key pa a : Nat) (h : a / 128 ≠ pa / 128 ∨ s.keyAt a = keyName key) :
    (s.rekey key pa).homeByte key a = s.homeByte key a := by
  unfold State.rekey
  simp only
  split
  · rfl
  · rename_i hne
    have hl : a / 128 ≠ pa / 128 := by
      rcases h with h | h
      · exact h
      · intro e
        exact hne (by rw [← e]; exact h)
    have hout : ¬ (128 * (pa / 128) ≤ a ∧ a < 128 * (pa / 128) + 128) := by omega
    simp only [State.homeByte, State.keyAt, SMap.get_set, if_neg hl, SMap.get_replace, if_neg hout]
    rfl

/-- Bringing a line under a key changes no byte as that key reads it. -/
theorem State.homeByte_rekey_same (s : State) (key pa a : Nat) :
    (s.rekey key pa).homeByte key a = s.homeByte key a := by
  by_cases h : a / 128 ≠ pa / 128 ∨ s.keyAt a = keyName key
  · exact State.homeByte_rekey s key pa a h
  · have hl : a / 128 = pa / 128 := by
      by_cases e : a / 128 = pa / 128
      · exact e
      · exact absurd (Or.inl e) h
    have hk : ¬ s.keyAt a = keyName key := fun e => h (Or.inr e)
    have hk2 : ¬ SMap.get 0 s.lineKey (pa / 128) = keyName key := by rw [← hl]; exact hk
    have hin : 128 * (pa / 128) ≤ a ∧ a < 128 * (pa / 128) + 128 := by omega
    unfold State.homeByte
    unfold State.rekey State.keyAt
    simp [hk2, hl, SMap.get_replace, hin]

/-- A byte of home memory after a write, read under the key of the write: what was written at its place, and elsewhere
what it was. -/
theorem State.homeByte_homeSet (s : State) (key pa a : Nat) (b : Byte) :
    (s.homeSet key pa b).homeByte key a = if a = pa then b else s.homeByte key a := by
  have hk := State.keyAt_homeSet s key pa a b
  by_cases ha : a = pa
  · subst ha
    unfold State.homeByte
    simp only [hk]
    simp [State.homeSet]
  · rw [if_neg ha, ← State.homeByte_rekey_same s key pa a]
    unfold State.homeByte State.homeSet State.keyAt
    simp [SMap.get_set_ne, ha]

/-- Under another key, a byte of a line that a write does not touch is what it was. -/
theorem State.homeByte_homeSet_other (s : State) (key k pa a : Nat) (b : Byte) (h : a / 128 ≠ pa / 128) :
    (s.homeSet key pa b).homeByte k a = s.homeByte k a := by
  have hk := State.keyAt_homeSet s key pa a b
  rw [if_neg h] at hk
  have ha : a ≠ pa := fun e => h (by rw [e])
  have hout : ¬ (128 * (pa / 128) ≤ a ∧ a < 128 * (pa / 128) + 128) := by omega
  unfold State.homeByte
  rw [hk]
  have hm : SMap.get 0#8 (s.homeSet key pa b).home a = SMap.get 0#8 s.home a := by
    unfold State.homeSet
    simp only [SMap.get_set_ne _ _ _ _ _ ha]
    unfold State.rekey
    simp only
    split
    · rfl
    · simp [SMap.get_replace, hout]
  simp only [hm]

end Sys2Proof.Machine
end

