-- ==== Sys2Proof/Laws/State.lean ====
section
/-!
SUPPORT. Laws/State.lean: one lemma for each field and each update of the state, of a team and of a group: what the
update leaves, and what it writes.
-/
namespace Sys2Proof.Machine

/-! ## State.setTeam -/

@[simp] theorem State.setTeam_rclk (s : State) (n : Nat) (t : Team) : (s.setTeam n t).rclk = s.rclk := rfl
@[simp] theorem State.setTeam_home (s : State) (n : Nat) (t : Team) : (s.setTeam n t).home = s.home := rfl
@[simp] theorem State.setTeam_lineKey (s : State) (n : Nat) (t : Team) : (s.setTeam n t).lineKey = s.lineKey := rfl
@[simp] theorem State.setTeam_packed (s : State) (n : Nat) (t : Team) : (s.setTeam n t).packed = s.packed := rfl
@[simp] theorem State.setTeam_memdone (s : State) (n : Nat) (t : Team) : (s.setTeam n t).memdone = s.memdone := rfl
@[simp] theorem State.setTeam_caldone (s : State) (n : Nat) (t : Team) : (s.setTeam n t).caldone = s.caldone := rfl
@[simp] theorem State.setTeam_imgfail (s : State) (n : Nat) (t : Team) : (s.setTeam n t).imgfail = s.imgfail := rfl
@[simp] theorem State.setTeam_ready (s : State) (n : Nat) (t : Team) : (s.setTeam n t).ready = s.ready := rfl
@[simp] theorem State.setTeam_clparterr (s : State) (n : Nat) (t : Team) : (s.setTeam n t).clparterr = s.clparterr := rfl
@[simp] theorem State.setTeam_pfBusy (s : State) (n : Nat) (t : Team) : (s.setTeam n t).pfBusy = s.pfBusy := rfl
@[simp] theorem State.setTeam_pfErr (s : State) (n : Nat) (t : Team) : (s.setTeam n t).pfErr = s.pfErr := rfl
@[simp] theorem State.setTeam_pfWord (s : State) (n : Nat) (t : Team) : (s.setTeam n t).pfWord = s.pfWord := rfl
@[simp] theorem State.setTeam_pfOps (s : State) (n : Nat) (t : Team) : (s.setTeam n t).pfOps = s.pfOps := rfl
@[simp] theorem State.setTeam_cores (s : State) (n : Nat) (t : Team) : (s.setTeam n t).cores = s.cores := rfl
@[simp] theorem State.setTeam_clusters (s : State) (n : Nat) (t : Team) : (s.setTeam n t).clusters = s.clusters := rfl
@[simp] theorem State.setTeam_parts (s : State) (n : Nat) (t : Team) : (s.setTeam n t).parts = s.parts := rfl
@[simp] theorem State.setTeam_paths (s : State) (n : Nat) (t : Team) : (s.setTeam n t).paths = s.paths := rfl
@[simp] theorem State.setTeam_pathUpds (s : State) (n : Nat) (t : Team) : (s.setTeam n t).pathUpds = s.pathUpds := rfl
@[simp] theorem State.setTeam_handles (s : State) (n : Nat) (t : Team) : (s.setTeam n t).handles = s.handles := rfl
@[simp] theorem State.setTeam_opt (s : State) (n : Nat) (t : Team) : (s.setTeam n t).opt = s.opt := rfl
@[simp] theorem State.setTeam_units (s : State) (n : Nat) (t : Team) : (s.setTeam n t).units = s.units := rfl
@[simp] theorem State.setTeam_errcnt (s : State) (n : Nat) (t : Team) : (s.setTeam n t).errcnt = s.errcnt := rfl
@[simp] theorem State.setTeam_ports (s : State) (n : Nat) (t : Team) : (s.setTeam n t).ports = s.ports := rfl
@[simp] theorem State.setTeam_edges (s : State) (n : Nat) (t : Team) : (s.setTeam n t).edges = s.edges := rfl
@[simp] theorem State.setTeam_slot (s : State) (n : Nat) (t : Team) : (s.setTeam n t).slot = s.slot := rfl
@[simp] theorem State.setTeam_slotOk (s : State) (n : Nat) (t : Team) : (s.setTeam n t).slotOk = s.slotOk := rfl
@[simp] theorem State.setTeam_runImage (s : State) (n : Nat) (t : Team) : (s.setTeam n t).runImage = s.runImage := rfl
@[simp] theorem State.setTeam_reefSeq (s : State) (n : Nat) (t : Team) : (s.setTeam n t).reefSeq = s.reefSeq := rfl
@[simp] theorem State.setTeam_reefLevels (s : State) (n : Nat) (t : Team) : (s.setTeam n t).reefLevels = s.reefLevels := rfl
@[simp] theorem State.setTeam_pathSeq (s : State) (n : Nat) (t : Team) : (s.setTeam n t).pathSeq = s.pathSeq := rfl
@[simp] theorem State.setTeam_eid (s : State) (n : Nat) (t : Team) : (s.setTeam n t).eid = s.eid := rfl
@[simp] theorem State.setTeam_spdm (s : State) (n : Nat) (t : Team) : (s.setTeam n t).spdm = s.spdm := rfl
@[simp] theorem State.setTeam_cxlWidth (s : State) (n : Nat) (t : Team) : (s.setTeam n t).cxlWidth = s.cxlWidth := rfl
@[simp] theorem State.setTeam_reqs (s : State) (n : Nat) (t : Team) : (s.setTeam n t).reqs = s.reqs := rfl
@[simp] theorem State.setTeam_nextTag (s : State) (n : Nat) (t : Team) : (s.setTeam n t).nextTag = s.nextTag := rfl
@[simp] theorem State.setTeam_releases (s : State) (n : Nat) (t : Team) : (s.setTeam n t).releases = s.releases := rfl
@[simp] theorem State.setTeam_marks (s : State) (n : Nat) (t : Team) : (s.setTeam n t).marks = s.marks := rfl
@[simp] theorem State.setTeam_goneW (s : State) (n : Nat) (t : Team) : (s.setTeam n t).goneW = s.goneW := rfl
@[simp] theorem State.setTeam_lineSeq (s : State) (n : Nat) (t : Team) : (s.setTeam n t).lineSeq = s.lineSeq := rfl
@[simp] theorem State.setTeam_colls (s : State) (n : Nat) (t : Team) : (s.setTeam n t).colls = s.colls := rfl
@[simp] theorem State.setTeam_srcs (s : State) (n : Nat) (t : Team) : (s.setTeam n t).srcs = s.srcs := rfl
@[simp] theorem State.setTeam_issuers (s : State) (n : Nat) (t : Team) : (s.setTeam n t).issuers = s.issuers := rfl
@[simp] theorem State.setTeam_invSeqs (s : State) (n : Nat) (t : Team) : (s.setTeam n t).invSeqs = s.invSeqs := rfl
@[simp] theorem State.setTeam_colDone (s : State) (n : Nat) (t : Team) : (s.setTeam n t).colDone = s.colDone := rfl
@[simp] theorem State.setTeam_collQ (s : State) (n : Nat) (t : Team) : (s.setTeam n t).collQ = s.collQ := rfl
@[simp] theorem State.setTeam_credits (s : State) (n : Nat) (t : Team) : (s.setTeam n t).credits = s.credits := rfl
@[simp] theorem State.setTeam_keyNext (s : State) (n : Nat) (t : Team) : (s.setTeam n t).keyNext = s.keyNext := rfl
@[simp] theorem State.setTeam_errs (s : State) (n : Nat) (t : Team) : (s.setTeam n t).errs = s.errs := rfl
@[simp] theorem State.setTeam_agenda (s : State) (n : Nat) (t : Team) : (s.setTeam n t).agenda = s.agenda := rfl
@[simp] theorem State.setTeam_cur (s : State) (n : Nat) (t : Team) : (s.setTeam n t).cur = s.cur := rfl
@[simp] theorem State.setTeam_out (s : State) (n : Nat) (t : Team) : (s.setTeam n t).out = s.out := rfl
@[simp] theorem State.setTeam_hostMem (s : State) (n : Nat) (t : Team) : (s.setTeam n t).hostMem = s.hostMem := rfl
@[simp] theorem State.setTeam_free (s : State) (n : Nat) (t : Team) : (s.setTeam n t).free = s.free := rfl
@[simp] theorem State.setTeam_nextTid (s : State) (n : Nat) (t : Team) : (s.setTeam n t).nextTid = s.nextTid := rfl
@[simp] theorem State.setTeam_nextOp (s : State) (n : Nat) (t : Team) : (s.setTeam n t).nextOp = s.nextOp := rfl
@[simp] theorem State.setTeam_ticket (s : State) (n : Nat) (t : Team) : (s.setTeam n t).ticket = s.ticket := rfl

/-! ## State.modTeam -/

@[simp] theorem State.modTeam_rclk (s : State) (n : Nat) (f : Team → Team) : (s.modTeam n f).rclk = s.rclk := by unfold State.modTeam; split <;> rfl
@[simp] theorem State.modTeam_home (s : State) (n : Nat) (f : Team → Team) : (s.modTeam n f).home = s.home := by unfold State.modTeam; split <;> rfl
@[simp] theorem State.modTeam_lineKey (s : State) (n : Nat) (f : Team → Team) : (s.modTeam n f).lineKey = s.lineKey := by unfold State.modTeam; split <;> rfl
@[simp] theorem State.modTeam_packed (s : State) (n : Nat) (f : Team → Team) : (s.modTeam n f).packed = s.packed := by unfold State.modTeam; split <;> rfl
@[simp] theorem State.modTeam_memdone (s : State) (n : Nat) (f : Team → Team) : (s.modTeam n f).memdone = s.memdone := by unfold State.modTeam; split <;> rfl
@[simp] theorem State.modTeam_caldone (s : State) (n : Nat) (f : Team → Team) : (s.modTeam n f).caldone = s.caldone := by unfold State.modTeam; split <;> rfl
@[simp] theorem State.modTeam_imgfail (s : State) (n : Nat) (f : Team → Team) : (s.modTeam n f).imgfail = s.imgfail := by unfold State.modTeam; split <;> rfl
@[simp] theorem State.modTeam_ready (s : State) (n : Nat) (f : Team → Team) : (s.modTeam n f).ready = s.ready := by unfold State.modTeam; split <;> rfl
@[simp] theorem State.modTeam_clparterr (s : State) (n : Nat) (f : Team → Team) : (s.modTeam n f).clparterr = s.clparterr := by unfold State.modTeam; split <;> rfl
@[simp] theorem State.modTeam_pfBusy (s : State) (n : Nat) (f : Team → Team) : (s.modTeam n f).pfBusy = s.pfBusy := by unfold State.modTeam; split <;> rfl
@[simp] theorem State.modTeam_pfErr (s : State) (n : Nat) (f : Team → Team) : (s.modTeam n f).pfErr = s.pfErr := by unfold State.modTeam; split <;> rfl
@[simp] theorem State.modTeam_pfWord (s : State) (n : Nat) (f : Team → Team) : (s.modTeam n f).pfWord = s.pfWord := by unfold State.modTeam; split <;> rfl
@[simp] theorem State.modTeam_pfOps (s : State) (n : Nat) (f : Team → Team) : (s.modTeam n f).pfOps = s.pfOps := by unfold State.modTeam; split <;> rfl
@[simp] theorem State.modTeam_cores (s : State) (n : Nat) (f : Team → Team) : (s.modTeam n f).cores = s.cores := by unfold State.modTeam; split <;> rfl
@[simp] theorem State.modTeam_clusters (s : State) (n : Nat) (f : Team → Team) : (s.modTeam n f).clusters = s.clusters := by unfold State.modTeam; split <;> rfl
@[simp] theorem State.modTeam_parts (s : State) (n : Nat) (f : Team → Team) : (s.modTeam n f).parts = s.parts := by unfold State.modTeam; split <;> rfl
@[simp] theorem State.modTeam_paths (s : State) (n : Nat) (f : Team → Team) : (s.modTeam n f).paths = s.paths := by unfold State.modTeam; split <;> rfl
@[simp] theorem State.modTeam_pathUpds (s : State) (n : Nat) (f : Team → Team) : (s.modTeam n f).pathUpds = s.pathUpds := by unfold State.modTeam; split <;> rfl
@[simp] theorem State.modTeam_handles (s : State) (n : Nat) (f : Team → Team) : (s.modTeam n f).handles = s.handles := by unfold State.modTeam; split <;> rfl
@[simp] theorem State.modTeam_opt (s : State) (n : Nat) (f : Team → Team) : (s.modTeam n f).opt = s.opt := by unfold State.modTeam; split <;> rfl
@[simp] theorem State.modTeam_units (s : State) (n : Nat) (f : Team → Team) : (s.modTeam n f).units = s.units := by unfold State.modTeam; split <;> rfl
@[simp] theorem State.modTeam_errcnt (s : State) (n : Nat) (f : Team → Team) : (s.modTeam n f).errcnt = s.errcnt := by unfold State.modTeam; split <;> rfl
@[simp] theorem State.modTeam_ports (s : State) (n : Nat) (f : Team → Team) : (s.modTeam n f).ports = s.ports := by unfold State.modTeam; split <;> rfl
@[simp] theorem State.modTeam_edges (s : State) (n : Nat) (f : Team → Team) : (s.modTeam n f).edges = s.edges := by unfold State.modTeam; split <;> rfl
@[simp] theorem State.modTeam_slot (s : State) (n : Nat) (f : Team → Team) : (s.modTeam n f).slot = s.slot := by unfold State.modTeam; split <;> rfl
@[simp] theorem State.modTeam_slotOk (s : State) (n : Nat) (f : Team → Team) : (s.modTeam n f).slotOk = s.slotOk := by unfold State.modTeam; split <;> rfl
@[simp] theorem State.modTeam_runImage (s : State) (n : Nat) (f : Team → Team) : (s.modTeam n f).runImage = s.runImage := by unfold State.modTeam; split <;> rfl
@[simp] theorem State.modTeam_reefSeq (s : State) (n : Nat) (f : Team → Team) : (s.modTeam n f).reefSeq = s.reefSeq := by unfold State.modTeam; split <;> rfl
@[simp] theorem State.modTeam_reefLevels (s : State) (n : Nat) (f : Team → Team) : (s.modTeam n f).reefLevels = s.reefLevels := by unfold State.modTeam; split <;> rfl
@[simp] theorem State.modTeam_pathSeq (s : State) (n : Nat) (f : Team → Team) : (s.modTeam n f).pathSeq = s.pathSeq := by unfold State.modTeam; split <;> rfl
@[simp] theorem State.modTeam_eid (s : State) (n : Nat) (f : Team → Team) : (s.modTeam n f).eid = s.eid := by unfold State.modTeam; split <;> rfl
@[simp] theorem State.modTeam_spdm (s : State) (n : Nat) (f : Team → Team) : (s.modTeam n f).spdm = s.spdm := by unfold State.modTeam; split <;> rfl
@[simp] theorem State.modTeam_cxlWidth (s : State) (n : Nat) (f : Team → Team) : (s.modTeam n f).cxlWidth = s.cxlWidth := by unfold State.modTeam; split <;> rfl
@[simp] theorem State.modTeam_reqs (s : State) (n : Nat) (f : Team → Team) : (s.modTeam n f).reqs = s.reqs := by unfold State.modTeam; split <;> rfl
@[simp] theorem State.modTeam_nextTag (s : State) (n : Nat) (f : Team → Team) : (s.modTeam n f).nextTag = s.nextTag := by unfold State.modTeam; split <;> rfl
@[simp] theorem State.modTeam_releases (s : State) (n : Nat) (f : Team → Team) : (s.modTeam n f).releases = s.releases := by unfold State.modTeam; split <;> rfl
@[simp] theorem State.modTeam_marks (s : State) (n : Nat) (f : Team → Team) : (s.modTeam n f).marks = s.marks := by unfold State.modTeam; split <;> rfl
@[simp] theorem State.modTeam_goneW (s : State) (n : Nat) (f : Team → Team) : (s.modTeam n f).goneW = s.goneW := by unfold State.modTeam; split <;> rfl
@[simp] theorem State.modTeam_lineSeq (s : State) (n : Nat) (f : Team → Team) : (s.modTeam n f).lineSeq = s.lineSeq := by unfold State.modTeam; split <;> rfl
@[simp] theorem State.modTeam_colls (s : State) (n : Nat) (f : Team → Team) : (s.modTeam n f).colls = s.colls := by unfold State.modTeam; split <;> rfl
@[simp] theorem State.modTeam_srcs (s : State) (n : Nat) (f : Team → Team) : (s.modTeam n f).srcs = s.srcs := by unfold State.modTeam; split <;> rfl
@[simp] theorem State.modTeam_issuers (s : State) (n : Nat) (f : Team → Team) : (s.modTeam n f).issuers = s.issuers := by unfold State.modTeam; split <;> rfl
@[simp] theorem State.modTeam_invSeqs (s : State) (n : Nat) (f : Team → Team) : (s.modTeam n f).invSeqs = s.invSeqs := by unfold State.modTeam; split <;> rfl
@[simp] theorem State.modTeam_colDone (s : State) (n : Nat) (f : Team → Team) : (s.modTeam n f).colDone = s.colDone := by unfold State.modTeam; split <;> rfl
@[simp] theorem State.modTeam_collQ (s : State) (n : Nat) (f : Team → Team) : (s.modTeam n f).collQ = s.collQ := by unfold State.modTeam; split <;> rfl
@[simp] theorem State.modTeam_credits (s : State) (n : Nat) (f : Team → Team) : (s.modTeam n f).credits = s.credits := by unfold State.modTeam; split <;> rfl
@[simp] theorem State.modTeam_keyNext (s : State) (n : Nat) (f : Team → Team) : (s.modTeam n f).keyNext = s.keyNext := by unfold State.modTeam; split <;> rfl
@[simp] theorem State.modTeam_errs (s : State) (n : Nat) (f : Team → Team) : (s.modTeam n f).errs = s.errs := by unfold State.modTeam; split <;> rfl
@[simp] theorem State.modTeam_agenda (s : State) (n : Nat) (f : Team → Team) : (s.modTeam n f).agenda = s.agenda := by unfold State.modTeam; split <;> rfl
@[simp] theorem State.modTeam_cur (s : State) (n : Nat) (f : Team → Team) : (s.modTeam n f).cur = s.cur := by unfold State.modTeam; split <;> rfl
@[simp] theorem State.modTeam_out (s : State) (n : Nat) (f : Team → Team) : (s.modTeam n f).out = s.out := by unfold State.modTeam; split <;> rfl
@[simp] theorem State.modTeam_hostMem (s : State) (n : Nat) (f : Team → Team) : (s.modTeam n f).hostMem = s.hostMem := by unfold State.modTeam; split <;> rfl
@[simp] theorem State.modTeam_free (s : State) (n : Nat) (f : Team → Team) : (s.modTeam n f).free = s.free := by unfold State.modTeam; split <;> rfl
@[simp] theorem State.modTeam_nextTid (s : State) (n : Nat) (f : Team → Team) : (s.modTeam n f).nextTid = s.nextTid := by unfold State.modTeam; split <;> rfl
@[simp] theorem State.modTeam_nextOp (s : State) (n : Nat) (f : Team → Team) : (s.modTeam n f).nextOp = s.nextOp := by unfold State.modTeam; split <;> rfl
@[simp] theorem State.modTeam_ticket (s : State) (n : Nat) (f : Team → Team) : (s.modTeam n f).ticket = s.ticket := by unfold State.modTeam; split <;> rfl

/-! ## State.modGroup -/

@[simp] theorem State.modGroup_rclk (s : State) (n g : Nat) (f : Group → Group) : (s.modGroup n g f).rclk = s.rclk := State.modTeam_rclk s n _
@[simp] theorem State.modGroup_home (s : State) (n g : Nat) (f : Group → Group) : (s.modGroup n g f).home = s.home := State.modTeam_home s n _
@[simp] theorem State.modGroup_lineKey (s : State) (n g : Nat) (f : Group → Group) : (s.modGroup n g f).lineKey = s.lineKey := State.modTeam_lineKey s n _
@[simp] theorem State.modGroup_packed (s : State) (n g : Nat) (f : Group → Group) : (s.modGroup n g f).packed = s.packed := State.modTeam_packed s n _
@[simp] theorem State.modGroup_memdone (s : State) (n g : Nat) (f : Group → Group) : (s.modGroup n g f).memdone = s.memdone := State.modTeam_memdone s n _
@[simp] theorem State.modGroup_caldone (s : State) (n g : Nat) (f : Group → Group) : (s.modGroup n g f).caldone = s.caldone := State.modTeam_caldone s n _
@[simp] theorem State.modGroup_imgfail (s : State) (n g : Nat) (f : Group → Group) : (s.modGroup n g f).imgfail = s.imgfail := State.modTeam_imgfail s n _
@[simp] theorem State.modGroup_ready (s : State) (n g : Nat) (f : Group → Group) : (s.modGroup n g f).ready = s.ready := State.modTeam_ready s n _
@[simp] theorem State.modGroup_clparterr (s : State) (n g : Nat) (f : Group → Group) : (s.modGroup n g f).clparterr = s.clparterr := State.modTeam_clparterr s n _
@[simp] theorem State.modGroup_pfBusy (s : State) (n g : Nat) (f : Group → Group) : (s.modGroup n g f).pfBusy = s.pfBusy := State.modTeam_pfBusy s n _
@[simp] theorem State.modGroup_pfErr (s : State) (n g : Nat) (f : Group → Group) : (s.modGroup n g f).pfErr = s.pfErr := State.modTeam_pfErr s n _
@[simp] theorem State.modGroup_pfWord (s : State) (n g : Nat) (f : Group → Group) : (s.modGroup n g f).pfWord = s.pfWord := State.modTeam_pfWord s n _
@[simp] theorem State.modGroup_pfOps (s : State) (n g : Nat) (f : Group → Group) : (s.modGroup n g f).pfOps = s.pfOps := State.modTeam_pfOps s n _
@[simp] theorem State.modGroup_cores (s : State) (n g : Nat) (f : Group → Group) : (s.modGroup n g f).cores = s.cores := State.modTeam_cores s n _
@[simp] theorem State.modGroup_clusters (s : State) (n g : Nat) (f : Group → Group) : (s.modGroup n g f).clusters = s.clusters := State.modTeam_clusters s n _
@[simp] theorem State.modGroup_parts (s : State) (n g : Nat) (f : Group → Group) : (s.modGroup n g f).parts = s.parts := State.modTeam_parts s n _
@[simp] theorem State.modGroup_paths (s : State) (n g : Nat) (f : Group → Group) : (s.modGroup n g f).paths = s.paths := State.modTeam_paths s n _
@[simp] theorem State.modGroup_pathUpds (s : State) (n g : Nat) (f : Group → Group) : (s.modGroup n g f).pathUpds = s.pathUpds := State.modTeam_pathUpds s n _
@[simp] theorem State.modGroup_handles (s : State) (n g : Nat) (f : Group → Group) : (s.modGroup n g f).handles = s.handles := State.modTeam_handles s n _
@[simp] theorem State.modGroup_opt (s : State) (n g : Nat) (f : Group → Group) : (s.modGroup n g f).opt = s.opt := State.modTeam_opt s n _
@[simp] theorem State.modGroup_units (s : State) (n g : Nat) (f : Group → Group) : (s.modGroup n g f).units = s.units := State.modTeam_units s n _
@[simp] theorem State.modGroup_errcnt (s : State) (n g : Nat) (f : Group → Group) : (s.modGroup n g f).errcnt = s.errcnt := State.modTeam_errcnt s n _
@[simp] theorem State.modGroup_ports (s : State) (n g : Nat) (f : Group → Group) : (s.modGroup n g f).ports = s.ports := State.modTeam_ports s n _
@[simp] theorem State.modGroup_edges (s : State) (n g : Nat) (f : Group → Group) : (s.modGroup n g f).edges = s.edges := State.modTeam_edges s n _
@[simp] theorem State.modGroup_slot (s : State) (n g : Nat) (f : Group → Group) : (s.modGroup n g f).slot = s.slot := State.modTeam_slot s n _
@[simp] theorem State.modGroup_slotOk (s : State) (n g : Nat) (f : Group → Group) : (s.modGroup n g f).slotOk = s.slotOk := State.modTeam_slotOk s n _
@[simp] theorem State.modGroup_runImage (s : State) (n g : Nat) (f : Group → Group) : (s.modGroup n g f).runImage = s.runImage := State.modTeam_runImage s n _
@[simp] theorem State.modGroup_reefSeq (s : State) (n g : Nat) (f : Group → Group) : (s.modGroup n g f).reefSeq = s.reefSeq := State.modTeam_reefSeq s n _
@[simp] theorem State.modGroup_reefLevels (s : State) (n g : Nat) (f : Group → Group) : (s.modGroup n g f).reefLevels = s.reefLevels := State.modTeam_reefLevels s n _
@[simp] theorem State.modGroup_pathSeq (s : State) (n g : Nat) (f : Group → Group) : (s.modGroup n g f).pathSeq = s.pathSeq := State.modTeam_pathSeq s n _
@[simp] theorem State.modGroup_eid (s : State) (n g : Nat) (f : Group → Group) : (s.modGroup n g f).eid = s.eid := State.modTeam_eid s n _
@[simp] theorem State.modGroup_spdm (s : State) (n g : Nat) (f : Group → Group) : (s.modGroup n g f).spdm = s.spdm := State.modTeam_spdm s n _
@[simp] theorem State.modGroup_cxlWidth (s : State) (n g : Nat) (f : Group → Group) : (s.modGroup n g f).cxlWidth = s.cxlWidth := State.modTeam_cxlWidth s n _
@[simp] theorem State.modGroup_reqs (s : State) (n g : Nat) (f : Group → Group) : (s.modGroup n g f).reqs = s.reqs := State.modTeam_reqs s n _
@[simp] theorem State.modGroup_nextTag (s : State) (n g : Nat) (f : Group → Group) : (s.modGroup n g f).nextTag = s.nextTag := State.modTeam_nextTag s n _
@[simp] theorem State.modGroup_releases (s : State) (n g : Nat) (f : Group → Group) : (s.modGroup n g f).releases = s.releases := State.modTeam_releases s n _
@[simp] theorem State.modGroup_marks (s : State) (n g : Nat) (f : Group → Group) : (s.modGroup n g f).marks = s.marks := State.modTeam_marks s n _
@[simp] theorem State.modGroup_goneW (s : State) (n g : Nat) (f : Group → Group) : (s.modGroup n g f).goneW = s.goneW := State.modTeam_goneW s n _
@[simp] theorem State.modGroup_lineSeq (s : State) (n g : Nat) (f : Group → Group) : (s.modGroup n g f).lineSeq = s.lineSeq := State.modTeam_lineSeq s n _
@[simp] theorem State.modGroup_colls (s : State) (n g : Nat) (f : Group → Group) : (s.modGroup n g f).colls = s.colls := State.modTeam_colls s n _
@[simp] theorem State.modGroup_srcs (s : State) (n g : Nat) (f : Group → Group) : (s.modGroup n g f).srcs = s.srcs := State.modTeam_srcs s n _
@[simp] theorem State.modGroup_issuers (s : State) (n g : Nat) (f : Group → Group) : (s.modGroup n g f).issuers = s.issuers := State.modTeam_issuers s n _
@[simp] theorem State.modGroup_invSeqs (s : State) (n g : Nat) (f : Group → Group) : (s.modGroup n g f).invSeqs = s.invSeqs := State.modTeam_invSeqs s n _
@[simp] theorem State.modGroup_colDone (s : State) (n g : Nat) (f : Group → Group) : (s.modGroup n g f).colDone = s.colDone := State.modTeam_colDone s n _
@[simp] theorem State.modGroup_collQ (s : State) (n g : Nat) (f : Group → Group) : (s.modGroup n g f).collQ = s.collQ := State.modTeam_collQ s n _
@[simp] theorem State.modGroup_credits (s : State) (n g : Nat) (f : Group → Group) : (s.modGroup n g f).credits = s.credits := State.modTeam_credits s n _
@[simp] theorem State.modGroup_keyNext (s : State) (n g : Nat) (f : Group → Group) : (s.modGroup n g f).keyNext = s.keyNext := State.modTeam_keyNext s n _
@[simp] theorem State.modGroup_errs (s : State) (n g : Nat) (f : Group → Group) : (s.modGroup n g f).errs = s.errs := State.modTeam_errs s n _
@[simp] theorem State.modGroup_agenda (s : State) (n g : Nat) (f : Group → Group) : (s.modGroup n g f).agenda = s.agenda := State.modTeam_agenda s n _
@[simp] theorem State.modGroup_cur (s : State) (n g : Nat) (f : Group → Group) : (s.modGroup n g f).cur = s.cur := State.modTeam_cur s n _
@[simp] theorem State.modGroup_out (s : State) (n g : Nat) (f : Group → Group) : (s.modGroup n g f).out = s.out := State.modTeam_out s n _
@[simp] theorem State.modGroup_hostMem (s : State) (n g : Nat) (f : Group → Group) : (s.modGroup n g f).hostMem = s.hostMem := State.modTeam_hostMem s n _
@[simp] theorem State.modGroup_free (s : State) (n g : Nat) (f : Group → Group) : (s.modGroup n g f).free = s.free := State.modTeam_free s n _
@[simp] theorem State.modGroup_nextTid (s : State) (n g : Nat) (f : Group → Group) : (s.modGroup n g f).nextTid = s.nextTid := State.modTeam_nextTid s n _
@[simp] theorem State.modGroup_nextOp (s : State) (n g : Nat) (f : Group → Group) : (s.modGroup n g f).nextOp = s.nextOp := State.modTeam_nextOp s n _
@[simp] theorem State.modGroup_ticket (s : State) (n g : Nat) (f : Group → Group) : (s.modGroup n g f).ticket = s.ticket := State.modTeam_ticket s n _

/-! ## State.setCore -/

@[simp] theorem State.setCore_rclk (s : State) (n : Nat) (c : Core) : (s.setCore n c).rclk = s.rclk := rfl
@[simp] theorem State.setCore_home (s : State) (n : Nat) (c : Core) : (s.setCore n c).home = s.home := rfl
@[simp] theorem State.setCore_lineKey (s : State) (n : Nat) (c : Core) : (s.setCore n c).lineKey = s.lineKey := rfl
@[simp] theorem State.setCore_packed (s : State) (n : Nat) (c : Core) : (s.setCore n c).packed = s.packed := rfl
@[simp] theorem State.setCore_memdone (s : State) (n : Nat) (c : Core) : (s.setCore n c).memdone = s.memdone := rfl
@[simp] theorem State.setCore_caldone (s : State) (n : Nat) (c : Core) : (s.setCore n c).caldone = s.caldone := rfl
@[simp] theorem State.setCore_imgfail (s : State) (n : Nat) (c : Core) : (s.setCore n c).imgfail = s.imgfail := rfl
@[simp] theorem State.setCore_ready (s : State) (n : Nat) (c : Core) : (s.setCore n c).ready = s.ready := rfl
@[simp] theorem State.setCore_clparterr (s : State) (n : Nat) (c : Core) : (s.setCore n c).clparterr = s.clparterr := rfl
@[simp] theorem State.setCore_pfBusy (s : State) (n : Nat) (c : Core) : (s.setCore n c).pfBusy = s.pfBusy := rfl
@[simp] theorem State.setCore_pfErr (s : State) (n : Nat) (c : Core) : (s.setCore n c).pfErr = s.pfErr := rfl
@[simp] theorem State.setCore_pfWord (s : State) (n : Nat) (c : Core) : (s.setCore n c).pfWord = s.pfWord := rfl
@[simp] theorem State.setCore_pfOps (s : State) (n : Nat) (c : Core) : (s.setCore n c).pfOps = s.pfOps := rfl
@[simp] theorem State.setCore_teams (s : State) (n : Nat) (c : Core) : (s.setCore n c).teams = s.teams := rfl
@[simp] theorem State.setCore_clusters (s : State) (n : Nat) (c : Core) : (s.setCore n c).clusters = s.clusters := rfl
@[simp] theorem State.setCore_parts (s : State) (n : Nat) (c : Core) : (s.setCore n c).parts = s.parts := rfl
@[simp] theorem State.setCore_paths (s : State) (n : Nat) (c : Core) : (s.setCore n c).paths = s.paths := rfl
@[simp] theorem State.setCore_pathUpds (s : State) (n : Nat) (c : Core) : (s.setCore n c).pathUpds = s.pathUpds := rfl
@[simp] theorem State.setCore_handles (s : State) (n : Nat) (c : Core) : (s.setCore n c).handles = s.handles := rfl
@[simp] theorem State.setCore_opt (s : State) (n : Nat) (c : Core) : (s.setCore n c).opt = s.opt := rfl
@[simp] theorem State.setCore_units (s : State) (n : Nat) (c : Core) : (s.setCore n c).units = s.units := rfl
@[simp] theorem State.setCore_errcnt (s : State) (n : Nat) (c : Core) : (s.setCore n c).errcnt = s.errcnt := rfl
@[simp] theorem State.setCore_ports (s : State) (n : Nat) (c : Core) : (s.setCore n c).ports = s.ports := rfl
@[simp] theorem State.setCore_edges (s : State) (n : Nat) (c : Core) : (s.setCore n c).edges = s.edges := rfl
@[simp] theorem State.setCore_slot (s : State) (n : Nat) (c : Core) : (s.setCore n c).slot = s.slot := rfl
@[simp] theorem State.setCore_slotOk (s : State) (n : Nat) (c : Core) : (s.setCore n c).slotOk = s.slotOk := rfl
@[simp] theorem State.setCore_runImage (s : State) (n : Nat) (c : Core) : (s.setCore n c).runImage = s.runImage := rfl
@[simp] theorem State.setCore_reefSeq (s : State) (n : Nat) (c : Core) : (s.setCore n c).reefSeq = s.reefSeq := rfl
@[simp] theorem State.setCore_reefLevels (s : State) (n : Nat) (c : Core) : (s.setCore n c).reefLevels = s.reefLevels := rfl
@[simp] theorem State.setCore_pathSeq (s : State) (n : Nat) (c : Core) : (s.setCore n c).pathSeq = s.pathSeq := rfl
@[simp] theorem State.setCore_eid (s : State) (n : Nat) (c : Core) : (s.setCore n c).eid = s.eid := rfl
@[simp] theorem State.setCore_spdm (s : State) (n : Nat) (c : Core) : (s.setCore n c).spdm = s.spdm := rfl
@[simp] theorem State.setCore_cxlWidth (s : State) (n : Nat) (c : Core) : (s.setCore n c).cxlWidth = s.cxlWidth := rfl
@[simp] theorem State.setCore_reqs (s : State) (n : Nat) (c : Core) : (s.setCore n c).reqs = s.reqs := rfl
@[simp] theorem State.setCore_nextTag (s : State) (n : Nat) (c : Core) : (s.setCore n c).nextTag = s.nextTag := rfl
@[simp] theorem State.setCore_releases (s : State) (n : Nat) (c : Core) : (s.setCore n c).releases = s.releases := rfl
@[simp] theorem State.setCore_marks (s : State) (n : Nat) (c : Core) : (s.setCore n c).marks = s.marks := rfl
@[simp] theorem State.setCore_goneW (s : State) (n : Nat) (c : Core) : (s.setCore n c).goneW = s.goneW := rfl
@[simp] theorem State.setCore_lineSeq (s : State) (n : Nat) (c : Core) : (s.setCore n c).lineSeq = s.lineSeq := rfl
@[simp] theorem State.setCore_colls (s : State) (n : Nat) (c : Core) : (s.setCore n c).colls = s.colls := rfl
@[simp] theorem State.setCore_srcs (s : State) (n : Nat) (c : Core) : (s.setCore n c).srcs = s.srcs := rfl
@[simp] theorem State.setCore_issuers (s : State) (n : Nat) (c : Core) : (s.setCore n c).issuers = s.issuers := rfl
@[simp] theorem State.setCore_invSeqs (s : State) (n : Nat) (c : Core) : (s.setCore n c).invSeqs = s.invSeqs := rfl
@[simp] theorem State.setCore_colDone (s : State) (n : Nat) (c : Core) : (s.setCore n c).colDone = s.colDone := rfl
@[simp] theorem State.setCore_collQ (s : State) (n : Nat) (c : Core) : (s.setCore n c).collQ = s.collQ := rfl
@[simp] theorem State.setCore_credits (s : State) (n : Nat) (c : Core) : (s.setCore n c).credits = s.credits := rfl
@[simp] theorem State.setCore_keyNext (s : State) (n : Nat) (c : Core) : (s.setCore n c).keyNext = s.keyNext := rfl
@[simp] theorem State.setCore_errs (s : State) (n : Nat) (c : Core) : (s.setCore n c).errs = s.errs := rfl
@[simp] theorem State.setCore_agenda (s : State) (n : Nat) (c : Core) : (s.setCore n c).agenda = s.agenda := rfl
@[simp] theorem State.setCore_cur (s : State) (n : Nat) (c : Core) : (s.setCore n c).cur = s.cur := rfl
@[simp] theorem State.setCore_out (s : State) (n : Nat) (c : Core) : (s.setCore n c).out = s.out := rfl
@[simp] theorem State.setCore_hostMem (s : State) (n : Nat) (c : Core) : (s.setCore n c).hostMem = s.hostMem := rfl
@[simp] theorem State.setCore_free (s : State) (n : Nat) (c : Core) : (s.setCore n c).free = s.free := rfl
@[simp] theorem State.setCore_nextTid (s : State) (n : Nat) (c : Core) : (s.setCore n c).nextTid = s.nextTid := rfl
@[simp] theorem State.setCore_nextOp (s : State) (n : Nat) (c : Core) : (s.setCore n c).nextOp = s.nextOp := rfl
@[simp] theorem State.setCore_ticket (s : State) (n : Nat) (c : Core) : (s.setCore n c).ticket = s.ticket := rfl

/-! ## State.modCore -/

@[simp] theorem State.modCore_rclk (s : State) (n : Nat) (f : Core → Core) : (s.modCore n f).rclk = s.rclk := rfl
@[simp] theorem State.modCore_home (s : State) (n : Nat) (f : Core → Core) : (s.modCore n f).home = s.home := rfl
@[simp] theorem State.modCore_lineKey (s : State) (n : Nat) (f : Core → Core) : (s.modCore n f).lineKey = s.lineKey := rfl
@[simp] theorem State.modCore_packed (s : State) (n : Nat) (f : Core → Core) : (s.modCore n f).packed = s.packed := rfl
@[simp] theorem State.modCore_memdone (s : State) (n : Nat) (f : Core → Core) : (s.modCore n f).memdone = s.memdone := rfl
@[simp] theorem State.modCore_caldone (s : State) (n : Nat) (f : Core → Core) : (s.modCore n f).caldone = s.caldone := rfl
@[simp] theorem State.modCore_imgfail (s : State) (n : Nat) (f : Core → Core) : (s.modCore n f).imgfail = s.imgfail := rfl
@[simp] theorem State.modCore_ready (s : State) (n : Nat) (f : Core → Core) : (s.modCore n f).ready = s.ready := rfl
@[simp] theorem State.modCore_clparterr (s : State) (n : Nat) (f : Core → Core) : (s.modCore n f).clparterr = s.clparterr := rfl
@[simp] theorem State.modCore_pfBusy (s : State) (n : Nat) (f : Core → Core) : (s.modCore n f).pfBusy = s.pfBusy := rfl
@[simp] theorem State.modCore_pfErr (s : State) (n : Nat) (f : Core → Core) : (s.modCore n f).pfErr = s.pfErr := rfl
@[simp] theorem State.modCore_pfWord (s : State) (n : Nat) (f : Core → Core) : (s.modCore n f).pfWord = s.pfWord := rfl
@[simp] theorem State.modCore_pfOps (s : State) (n : Nat) (f : Core → Core) : (s.modCore n f).pfOps = s.pfOps := rfl
@[simp] theorem State.modCore_teams (s : State) (n : Nat) (f : Core → Core) : (s.modCore n f).teams = s.teams := rfl
@[simp] theorem State.modCore_clusters (s : State) (n : Nat) (f : Core → Core) : (s.modCore n f).clusters = s.clusters := rfl
@[simp] theorem State.modCore_parts (s : State) (n : Nat) (f : Core → Core) : (s.modCore n f).parts = s.parts := rfl
@[simp] theorem State.modCore_paths (s : State) (n : Nat) (f : Core → Core) : (s.modCore n f).paths = s.paths := rfl
@[simp] theorem State.modCore_pathUpds (s : State) (n : Nat) (f : Core → Core) : (s.modCore n f).pathUpds = s.pathUpds := rfl
@[simp] theorem State.modCore_handles (s : State) (n : Nat) (f : Core → Core) : (s.modCore n f).handles = s.handles := rfl
@[simp] theorem State.modCore_opt (s : State) (n : Nat) (f : Core → Core) : (s.modCore n f).opt = s.opt := rfl
@[simp] theorem State.modCore_units (s : State) (n : Nat) (f : Core → Core) : (s.modCore n f).units = s.units := rfl
@[simp] theorem State.modCore_errcnt (s : State) (n : Nat) (f : Core → Core) : (s.modCore n f).errcnt = s.errcnt := rfl
@[simp] theorem State.modCore_ports (s : State) (n : Nat) (f : Core → Core) : (s.modCore n f).ports = s.ports := rfl
@[simp] theorem State.modCore_edges (s : State) (n : Nat) (f : Core → Core) : (s.modCore n f).edges = s.edges := rfl
@[simp] theorem State.modCore_slot (s : State) (n : Nat) (f : Core → Core) : (s.modCore n f).slot = s.slot := rfl
@[simp] theorem State.modCore_slotOk (s : State) (n : Nat) (f : Core → Core) : (s.modCore n f).slotOk = s.slotOk := rfl
@[simp] theorem State.modCore_runImage (s : State) (n : Nat) (f : Core → Core) : (s.modCore n f).runImage = s.runImage := rfl
@[simp] theorem State.modCore_reefSeq (s : State) (n : Nat) (f : Core → Core) : (s.modCore n f).reefSeq = s.reefSeq := rfl
@[simp] theorem State.modCore_reefLevels (s : State) (n : Nat) (f : Core → Core) : (s.modCore n f).reefLevels = s.reefLevels := rfl
@[simp] theorem State.modCore_pathSeq (s : State) (n : Nat) (f : Core → Core) : (s.modCore n f).pathSeq = s.pathSeq := rfl
@[simp] theorem State.modCore_eid (s : State) (n : Nat) (f : Core → Core) : (s.modCore n f).eid = s.eid := rfl
@[simp] theorem State.modCore_spdm (s : State) (n : Nat) (f : Core → Core) : (s.modCore n f).spdm = s.spdm := rfl
@[simp] theorem State.modCore_cxlWidth (s : State) (n : Nat) (f : Core → Core) : (s.modCore n f).cxlWidth = s.cxlWidth := rfl
@[simp] theorem State.modCore_reqs (s : State) (n : Nat) (f : Core → Core) : (s.modCore n f).reqs = s.reqs := rfl
@[simp] theorem State.modCore_nextTag (s : State) (n : Nat) (f : Core → Core) : (s.modCore n f).nextTag = s.nextTag := rfl
@[simp] theorem State.modCore_releases (s : State) (n : Nat) (f : Core → Core) : (s.modCore n f).releases = s.releases := rfl
@[simp] theorem State.modCore_marks (s : State) (n : Nat) (f : Core → Core) : (s.modCore n f).marks = s.marks := rfl
@[simp] theorem State.modCore_goneW (s : State) (n : Nat) (f : Core → Core) : (s.modCore n f).goneW = s.goneW := rfl
@[simp] theorem State.modCore_lineSeq (s : State) (n : Nat) (f : Core → Core) : (s.modCore n f).lineSeq = s.lineSeq := rfl
@[simp] theorem State.modCore_colls (s : State) (n : Nat) (f : Core → Core) : (s.modCore n f).colls = s.colls := rfl
@[simp] theorem State.modCore_srcs (s : State) (n : Nat) (f : Core → Core) : (s.modCore n f).srcs = s.srcs := rfl
@[simp] theorem State.modCore_issuers (s : State) (n : Nat) (f : Core → Core) : (s.modCore n f).issuers = s.issuers := rfl
@[simp] theorem State.modCore_invSeqs (s : State) (n : Nat) (f : Core → Core) : (s.modCore n f).invSeqs = s.invSeqs := rfl
@[simp] theorem State.modCore_colDone (s : State) (n : Nat) (f : Core → Core) : (s.modCore n f).colDone = s.colDone := rfl
@[simp] theorem State.modCore_collQ (s : State) (n : Nat) (f : Core → Core) : (s.modCore n f).collQ = s.collQ := rfl
@[simp] theorem State.modCore_credits (s : State) (n : Nat) (f : Core → Core) : (s.modCore n f).credits = s.credits := rfl
@[simp] theorem State.modCore_keyNext (s : State) (n : Nat) (f : Core → Core) : (s.modCore n f).keyNext = s.keyNext := rfl
@[simp] theorem State.modCore_errs (s : State) (n : Nat) (f : Core → Core) : (s.modCore n f).errs = s.errs := rfl
@[simp] theorem State.modCore_agenda (s : State) (n : Nat) (f : Core → Core) : (s.modCore n f).agenda = s.agenda := rfl
@[simp] theorem State.modCore_cur (s : State) (n : Nat) (f : Core → Core) : (s.modCore n f).cur = s.cur := rfl
@[simp] theorem State.modCore_out (s : State) (n : Nat) (f : Core → Core) : (s.modCore n f).out = s.out := rfl
@[simp] theorem State.modCore_hostMem (s : State) (n : Nat) (f : Core → Core) : (s.modCore n f).hostMem = s.hostMem := rfl
@[simp] theorem State.modCore_free (s : State) (n : Nat) (f : Core → Core) : (s.modCore n f).free = s.free := rfl
@[simp] theorem State.modCore_nextTid (s : State) (n : Nat) (f : Core → Core) : (s.modCore n f).nextTid = s.nextTid := rfl
@[simp] theorem State.modCore_nextOp (s : State) (n : Nat) (f : Core → Core) : (s.modCore n f).nextOp = s.nextOp := rfl
@[simp] theorem State.modCore_ticket (s : State) (n : Nat) (f : Core → Core) : (s.modCore n f).ticket = s.ticket := rfl

/-! ## State.modDxp -/

@[simp] theorem State.modDxp_rclk (s : State) (n : Nat) (f : Dxp → Dxp) : (s.modDxp n f).rclk = s.rclk := rfl
@[simp] theorem State.modDxp_home (s : State) (n : Nat) (f : Dxp → Dxp) : (s.modDxp n f).home = s.home := rfl
@[simp] theorem State.modDxp_lineKey (s : State) (n : Nat) (f : Dxp → Dxp) : (s.modDxp n f).lineKey = s.lineKey := rfl
@[simp] theorem State.modDxp_packed (s : State) (n : Nat) (f : Dxp → Dxp) : (s.modDxp n f).packed = s.packed := rfl
@[simp] theorem State.modDxp_memdone (s : State) (n : Nat) (f : Dxp → Dxp) : (s.modDxp n f).memdone = s.memdone := rfl
@[simp] theorem State.modDxp_caldone (s : State) (n : Nat) (f : Dxp → Dxp) : (s.modDxp n f).caldone = s.caldone := rfl
@[simp] theorem State.modDxp_imgfail (s : State) (n : Nat) (f : Dxp → Dxp) : (s.modDxp n f).imgfail = s.imgfail := rfl
@[simp] theorem State.modDxp_ready (s : State) (n : Nat) (f : Dxp → Dxp) : (s.modDxp n f).ready = s.ready := rfl
@[simp] theorem State.modDxp_clparterr (s : State) (n : Nat) (f : Dxp → Dxp) : (s.modDxp n f).clparterr = s.clparterr := rfl
@[simp] theorem State.modDxp_pfBusy (s : State) (n : Nat) (f : Dxp → Dxp) : (s.modDxp n f).pfBusy = s.pfBusy := rfl
@[simp] theorem State.modDxp_pfErr (s : State) (n : Nat) (f : Dxp → Dxp) : (s.modDxp n f).pfErr = s.pfErr := rfl
@[simp] theorem State.modDxp_pfWord (s : State) (n : Nat) (f : Dxp → Dxp) : (s.modDxp n f).pfWord = s.pfWord := rfl
@[simp] theorem State.modDxp_pfOps (s : State) (n : Nat) (f : Dxp → Dxp) : (s.modDxp n f).pfOps = s.pfOps := rfl
@[simp] theorem State.modDxp_teams (s : State) (n : Nat) (f : Dxp → Dxp) : (s.modDxp n f).teams = s.teams := rfl
@[simp] theorem State.modDxp_clusters (s : State) (n : Nat) (f : Dxp → Dxp) : (s.modDxp n f).clusters = s.clusters := rfl
@[simp] theorem State.modDxp_parts (s : State) (n : Nat) (f : Dxp → Dxp) : (s.modDxp n f).parts = s.parts := rfl
@[simp] theorem State.modDxp_paths (s : State) (n : Nat) (f : Dxp → Dxp) : (s.modDxp n f).paths = s.paths := rfl
@[simp] theorem State.modDxp_pathUpds (s : State) (n : Nat) (f : Dxp → Dxp) : (s.modDxp n f).pathUpds = s.pathUpds := rfl
@[simp] theorem State.modDxp_handles (s : State) (n : Nat) (f : Dxp → Dxp) : (s.modDxp n f).handles = s.handles := rfl
@[simp] theorem State.modDxp_opt (s : State) (n : Nat) (f : Dxp → Dxp) : (s.modDxp n f).opt = s.opt := rfl
@[simp] theorem State.modDxp_units (s : State) (n : Nat) (f : Dxp → Dxp) : (s.modDxp n f).units = s.units := rfl
@[simp] theorem State.modDxp_errcnt (s : State) (n : Nat) (f : Dxp → Dxp) : (s.modDxp n f).errcnt = s.errcnt := rfl
@[simp] theorem State.modDxp_ports (s : State) (n : Nat) (f : Dxp → Dxp) : (s.modDxp n f).ports = s.ports := rfl
@[simp] theorem State.modDxp_edges (s : State) (n : Nat) (f : Dxp → Dxp) : (s.modDxp n f).edges = s.edges := rfl
@[simp] theorem State.modDxp_slot (s : State) (n : Nat) (f : Dxp → Dxp) : (s.modDxp n f).slot = s.slot := rfl
@[simp] theorem State.modDxp_slotOk (s : State) (n : Nat) (f : Dxp → Dxp) : (s.modDxp n f).slotOk = s.slotOk := rfl
@[simp] theorem State.modDxp_runImage (s : State) (n : Nat) (f : Dxp → Dxp) : (s.modDxp n f).runImage = s.runImage := rfl
@[simp] theorem State.modDxp_reefSeq (s : State) (n : Nat) (f : Dxp → Dxp) : (s.modDxp n f).reefSeq = s.reefSeq := rfl
@[simp] theorem State.modDxp_reefLevels (s : State) (n : Nat) (f : Dxp → Dxp) : (s.modDxp n f).reefLevels = s.reefLevels := rfl
@[simp] theorem State.modDxp_pathSeq (s : State) (n : Nat) (f : Dxp → Dxp) : (s.modDxp n f).pathSeq = s.pathSeq := rfl
@[simp] theorem State.modDxp_eid (s : State) (n : Nat) (f : Dxp → Dxp) : (s.modDxp n f).eid = s.eid := rfl
@[simp] theorem State.modDxp_spdm (s : State) (n : Nat) (f : Dxp → Dxp) : (s.modDxp n f).spdm = s.spdm := rfl
@[simp] theorem State.modDxp_cxlWidth (s : State) (n : Nat) (f : Dxp → Dxp) : (s.modDxp n f).cxlWidth = s.cxlWidth := rfl
@[simp] theorem State.modDxp_reqs (s : State) (n : Nat) (f : Dxp → Dxp) : (s.modDxp n f).reqs = s.reqs := rfl
@[simp] theorem State.modDxp_nextTag (s : State) (n : Nat) (f : Dxp → Dxp) : (s.modDxp n f).nextTag = s.nextTag := rfl
@[simp] theorem State.modDxp_releases (s : State) (n : Nat) (f : Dxp → Dxp) : (s.modDxp n f).releases = s.releases := rfl
@[simp] theorem State.modDxp_marks (s : State) (n : Nat) (f : Dxp → Dxp) : (s.modDxp n f).marks = s.marks := rfl
@[simp] theorem State.modDxp_goneW (s : State) (n : Nat) (f : Dxp → Dxp) : (s.modDxp n f).goneW = s.goneW := rfl
@[simp] theorem State.modDxp_lineSeq (s : State) (n : Nat) (f : Dxp → Dxp) : (s.modDxp n f).lineSeq = s.lineSeq := rfl
@[simp] theorem State.modDxp_colls (s : State) (n : Nat) (f : Dxp → Dxp) : (s.modDxp n f).colls = s.colls := rfl
@[simp] theorem State.modDxp_srcs (s : State) (n : Nat) (f : Dxp → Dxp) : (s.modDxp n f).srcs = s.srcs := rfl
@[simp] theorem State.modDxp_issuers (s : State) (n : Nat) (f : Dxp → Dxp) : (s.modDxp n f).issuers = s.issuers := rfl
@[simp] theorem State.modDxp_invSeqs (s : State) (n : Nat) (f : Dxp → Dxp) : (s.modDxp n f).invSeqs = s.invSeqs := rfl
@[simp] theorem State.modDxp_colDone (s : State) (n : Nat) (f : Dxp → Dxp) : (s.modDxp n f).colDone = s.colDone := rfl
@[simp] theorem State.modDxp_collQ (s : State) (n : Nat) (f : Dxp → Dxp) : (s.modDxp n f).collQ = s.collQ := rfl
@[simp] theorem State.modDxp_credits (s : State) (n : Nat) (f : Dxp → Dxp) : (s.modDxp n f).credits = s.credits := rfl
@[simp] theorem State.modDxp_keyNext (s : State) (n : Nat) (f : Dxp → Dxp) : (s.modDxp n f).keyNext = s.keyNext := rfl
@[simp] theorem State.modDxp_errs (s : State) (n : Nat) (f : Dxp → Dxp) : (s.modDxp n f).errs = s.errs := rfl
@[simp] theorem State.modDxp_agenda (s : State) (n : Nat) (f : Dxp → Dxp) : (s.modDxp n f).agenda = s.agenda := rfl
@[simp] theorem State.modDxp_cur (s : State) (n : Nat) (f : Dxp → Dxp) : (s.modDxp n f).cur = s.cur := rfl
@[simp] theorem State.modDxp_out (s : State) (n : Nat) (f : Dxp → Dxp) : (s.modDxp n f).out = s.out := rfl
@[simp] theorem State.modDxp_hostMem (s : State) (n : Nat) (f : Dxp → Dxp) : (s.modDxp n f).hostMem = s.hostMem := rfl
@[simp] theorem State.modDxp_free (s : State) (n : Nat) (f : Dxp → Dxp) : (s.modDxp n f).free = s.free := rfl
@[simp] theorem State.modDxp_nextTid (s : State) (n : Nat) (f : Dxp → Dxp) : (s.modDxp n f).nextTid = s.nextTid := rfl
@[simp] theorem State.modDxp_nextOp (s : State) (n : Nat) (f : Dxp → Dxp) : (s.modDxp n f).nextOp = s.nextOp := rfl
@[simp] theorem State.modDxp_ticket (s : State) (n : Nat) (f : Dxp → Dxp) : (s.modDxp n f).ticket = s.ticket := rfl

/-! ## State.setCluster -/

@[simp] theorem State.setCluster_rclk (s : State) (n : Nat) (c : Cluster) : (s.setCluster n c).rclk = s.rclk := rfl
@[simp] theorem State.setCluster_home (s : State) (n : Nat) (c : Cluster) : (s.setCluster n c).home = s.home := rfl
@[simp] theorem State.setCluster_lineKey (s : State) (n : Nat) (c : Cluster) : (s.setCluster n c).lineKey = s.lineKey := rfl
@[simp] theorem State.setCluster_packed (s : State) (n : Nat) (c : Cluster) : (s.setCluster n c).packed = s.packed := rfl
@[simp] theorem State.setCluster_memdone (s : State) (n : Nat) (c : Cluster) : (s.setCluster n c).memdone = s.memdone := rfl
@[simp] theorem State.setCluster_caldone (s : State) (n : Nat) (c : Cluster) : (s.setCluster n c).caldone = s.caldone := rfl
@[simp] theorem State.setCluster_imgfail (s : State) (n : Nat) (c : Cluster) : (s.setCluster n c).imgfail = s.imgfail := rfl
@[simp] theorem State.setCluster_ready (s : State) (n : Nat) (c : Cluster) : (s.setCluster n c).ready = s.ready := rfl
@[simp] theorem State.setCluster_clparterr (s : State) (n : Nat) (c : Cluster) : (s.setCluster n c).clparterr = s.clparterr := rfl
@[simp] theorem State.setCluster_pfBusy (s : State) (n : Nat) (c : Cluster) : (s.setCluster n c).pfBusy = s.pfBusy := rfl
@[simp] theorem State.setCluster_pfErr (s : State) (n : Nat) (c : Cluster) : (s.setCluster n c).pfErr = s.pfErr := rfl
@[simp] theorem State.setCluster_pfWord (s : State) (n : Nat) (c : Cluster) : (s.setCluster n c).pfWord = s.pfWord := rfl
@[simp] theorem State.setCluster_pfOps (s : State) (n : Nat) (c : Cluster) : (s.setCluster n c).pfOps = s.pfOps := rfl
@[simp] theorem State.setCluster_teams (s : State) (n : Nat) (c : Cluster) : (s.setCluster n c).teams = s.teams := rfl
@[simp] theorem State.setCluster_cores (s : State) (n : Nat) (c : Cluster) : (s.setCluster n c).cores = s.cores := rfl
@[simp] theorem State.setCluster_parts (s : State) (n : Nat) (c : Cluster) : (s.setCluster n c).parts = s.parts := rfl
@[simp] theorem State.setCluster_paths (s : State) (n : Nat) (c : Cluster) : (s.setCluster n c).paths = s.paths := rfl
@[simp] theorem State.setCluster_pathUpds (s : State) (n : Nat) (c : Cluster) : (s.setCluster n c).pathUpds = s.pathUpds := rfl
@[simp] theorem State.setCluster_handles (s : State) (n : Nat) (c : Cluster) : (s.setCluster n c).handles = s.handles := rfl
@[simp] theorem State.setCluster_opt (s : State) (n : Nat) (c : Cluster) : (s.setCluster n c).opt = s.opt := rfl
@[simp] theorem State.setCluster_units (s : State) (n : Nat) (c : Cluster) : (s.setCluster n c).units = s.units := rfl
@[simp] theorem State.setCluster_errcnt (s : State) (n : Nat) (c : Cluster) : (s.setCluster n c).errcnt = s.errcnt := rfl
@[simp] theorem State.setCluster_ports (s : State) (n : Nat) (c : Cluster) : (s.setCluster n c).ports = s.ports := rfl
@[simp] theorem State.setCluster_edges (s : State) (n : Nat) (c : Cluster) : (s.setCluster n c).edges = s.edges := rfl
@[simp] theorem State.setCluster_slot (s : State) (n : Nat) (c : Cluster) : (s.setCluster n c).slot = s.slot := rfl
@[simp] theorem State.setCluster_slotOk (s : State) (n : Nat) (c : Cluster) : (s.setCluster n c).slotOk = s.slotOk := rfl
@[simp] theorem State.setCluster_runImage (s : State) (n : Nat) (c : Cluster) : (s.setCluster n c).runImage = s.runImage := rfl
@[simp] theorem State.setCluster_reefSeq (s : State) (n : Nat) (c : Cluster) : (s.setCluster n c).reefSeq = s.reefSeq := rfl
@[simp] theorem State.setCluster_reefLevels (s : State) (n : Nat) (c : Cluster) : (s.setCluster n c).reefLevels = s.reefLevels := rfl
@[simp] theorem State.setCluster_pathSeq (s : State) (n : Nat) (c : Cluster) : (s.setCluster n c).pathSeq = s.pathSeq := rfl
@[simp] theorem State.setCluster_eid (s : State) (n : Nat) (c : Cluster) : (s.setCluster n c).eid = s.eid := rfl
@[simp] theorem State.setCluster_spdm (s : State) (n : Nat) (c : Cluster) : (s.setCluster n c).spdm = s.spdm := rfl
@[simp] theorem State.setCluster_cxlWidth (s : State) (n : Nat) (c : Cluster) : (s.setCluster n c).cxlWidth = s.cxlWidth := rfl
@[simp] theorem State.setCluster_reqs (s : State) (n : Nat) (c : Cluster) : (s.setCluster n c).reqs = s.reqs := rfl
@[simp] theorem State.setCluster_nextTag (s : State) (n : Nat) (c : Cluster) : (s.setCluster n c).nextTag = s.nextTag := rfl
@[simp] theorem State.setCluster_releases (s : State) (n : Nat) (c : Cluster) : (s.setCluster n c).releases = s.releases := rfl
@[simp] theorem State.setCluster_marks (s : State) (n : Nat) (c : Cluster) : (s.setCluster n c).marks = s.marks := rfl
@[simp] theorem State.setCluster_goneW (s : State) (n : Nat) (c : Cluster) : (s.setCluster n c).goneW = s.goneW := rfl
@[simp] theorem State.setCluster_lineSeq (s : State) (n : Nat) (c : Cluster) : (s.setCluster n c).lineSeq = s.lineSeq := rfl
@[simp] theorem State.setCluster_colls (s : State) (n : Nat) (c : Cluster) : (s.setCluster n c).colls = s.colls := rfl
@[simp] theorem State.setCluster_srcs (s : State) (n : Nat) (c : Cluster) : (s.setCluster n c).srcs = s.srcs := rfl
@[simp] theorem State.setCluster_issuers (s : State) (n : Nat) (c : Cluster) : (s.setCluster n c).issuers = s.issuers := rfl
@[simp] theorem State.setCluster_invSeqs (s : State) (n : Nat) (c : Cluster) : (s.setCluster n c).invSeqs = s.invSeqs := rfl
@[simp] theorem State.setCluster_colDone (s : State) (n : Nat) (c : Cluster) : (s.setCluster n c).colDone = s.colDone := rfl
@[simp] theorem State.setCluster_collQ (s : State) (n : Nat) (c : Cluster) : (s.setCluster n c).collQ = s.collQ := rfl
@[simp] theorem State.setCluster_credits (s : State) (n : Nat) (c : Cluster) : (s.setCluster n c).credits = s.credits := rfl
@[simp] theorem State.setCluster_keyNext (s : State) (n : Nat) (c : Cluster) : (s.setCluster n c).keyNext = s.keyNext := rfl
@[simp] theorem State.setCluster_errs (s : State) (n : Nat) (c : Cluster) : (s.setCluster n c).errs = s.errs := rfl
@[simp] theorem State.setCluster_agenda (s : State) (n : Nat) (c : Cluster) : (s.setCluster n c).agenda = s.agenda := rfl
@[simp] theorem State.setCluster_cur (s : State) (n : Nat) (c : Cluster) : (s.setCluster n c).cur = s.cur := rfl
@[simp] theorem State.setCluster_out (s : State) (n : Nat) (c : Cluster) : (s.setCluster n c).out = s.out := rfl
@[simp] theorem State.setCluster_hostMem (s : State) (n : Nat) (c : Cluster) : (s.setCluster n c).hostMem = s.hostMem := rfl
@[simp] theorem State.setCluster_free (s : State) (n : Nat) (c : Cluster) : (s.setCluster n c).free = s.free := rfl
@[simp] theorem State.setCluster_nextTid (s : State) (n : Nat) (c : Cluster) : (s.setCluster n c).nextTid = s.nextTid := rfl
@[simp] theorem State.setCluster_nextOp (s : State) (n : Nat) (c : Cluster) : (s.setCluster n c).nextOp = s.nextOp := rfl
@[simp] theorem State.setCluster_ticket (s : State) (n : Nat) (c : Cluster) : (s.setCluster n c).ticket = s.ticket := rfl

/-! ## State.modCluster -/

@[simp] theorem State.modCluster_rclk (s : State) (n : Nat) (f : Cluster → Cluster) : (s.modCluster n f).rclk = s.rclk := rfl
@[simp] theorem State.modCluster_home (s : State) (n : Nat) (f : Cluster → Cluster) : (s.modCluster n f).home = s.home := rfl
@[simp] theorem State.modCluster_lineKey (s : State) (n : Nat) (f : Cluster → Cluster) : (s.modCluster n f).lineKey = s.lineKey := rfl
@[simp] theorem State.modCluster_packed (s : State) (n : Nat) (f : Cluster → Cluster) : (s.modCluster n f).packed = s.packed := rfl
@[simp] theorem State.modCluster_memdone (s : State) (n : Nat) (f : Cluster → Cluster) : (s.modCluster n f).memdone = s.memdone := rfl
@[simp] theorem State.modCluster_caldone (s : State) (n : Nat) (f : Cluster → Cluster) : (s.modCluster n f).caldone = s.caldone := rfl
@[simp] theorem State.modCluster_imgfail (s : State) (n : Nat) (f : Cluster → Cluster) : (s.modCluster n f).imgfail = s.imgfail := rfl
@[simp] theorem State.modCluster_ready (s : State) (n : Nat) (f : Cluster → Cluster) : (s.modCluster n f).ready = s.ready := rfl
@[simp] theorem State.modCluster_clparterr (s : State) (n : Nat) (f : Cluster → Cluster) : (s.modCluster n f).clparterr = s.clparterr := rfl
@[simp] theorem State.modCluster_pfBusy (s : State) (n : Nat) (f : Cluster → Cluster) : (s.modCluster n f).pfBusy = s.pfBusy := rfl
@[simp] theorem State.modCluster_pfErr (s : State) (n : Nat) (f : Cluster → Cluster) : (s.modCluster n f).pfErr = s.pfErr := rfl
@[simp] theorem State.modCluster_pfWord (s : State) (n : Nat) (f : Cluster → Cluster) : (s.modCluster n f).pfWord = s.pfWord := rfl
@[simp] theorem State.modCluster_pfOps (s : State) (n : Nat) (f : Cluster → Cluster) : (s.modCluster n f).pfOps = s.pfOps := rfl
@[simp] theorem State.modCluster_teams (s : State) (n : Nat) (f : Cluster → Cluster) : (s.modCluster n f).teams = s.teams := rfl
@[simp] theorem State.modCluster_cores (s : State) (n : Nat) (f : Cluster → Cluster) : (s.modCluster n f).cores = s.cores := rfl
@[simp] theorem State.modCluster_parts (s : State) (n : Nat) (f : Cluster → Cluster) : (s.modCluster n f).parts = s.parts := rfl
@[simp] theorem State.modCluster_paths (s : State) (n : Nat) (f : Cluster → Cluster) : (s.modCluster n f).paths = s.paths := rfl
@[simp] theorem State.modCluster_pathUpds (s : State) (n : Nat) (f : Cluster → Cluster) : (s.modCluster n f).pathUpds = s.pathUpds := rfl
@[simp] theorem State.modCluster_handles (s : State) (n : Nat) (f : Cluster → Cluster) : (s.modCluster n f).handles = s.handles := rfl
@[simp] theorem State.modCluster_opt (s : State) (n : Nat) (f : Cluster → Cluster) : (s.modCluster n f).opt = s.opt := rfl
@[simp] theorem State.modCluster_units (s : State) (n : Nat) (f : Cluster → Cluster) : (s.modCluster n f).units = s.units := rfl
@[simp] theorem State.modCluster_errcnt (s : State) (n : Nat) (f : Cluster → Cluster) : (s.modCluster n f).errcnt = s.errcnt := rfl
@[simp] theorem State.modCluster_ports (s : State) (n : Nat) (f : Cluster → Cluster) : (s.modCluster n f).ports = s.ports := rfl
@[simp] theorem State.modCluster_edges (s : State) (n : Nat) (f : Cluster → Cluster) : (s.modCluster n f).edges = s.edges := rfl
@[simp] theorem State.modCluster_slot (s : State) (n : Nat) (f : Cluster → Cluster) : (s.modCluster n f).slot = s.slot := rfl
@[simp] theorem State.modCluster_slotOk (s : State) (n : Nat) (f : Cluster → Cluster) : (s.modCluster n f).slotOk = s.slotOk := rfl
@[simp] theorem State.modCluster_runImage (s : State) (n : Nat) (f : Cluster → Cluster) : (s.modCluster n f).runImage = s.runImage := rfl
@[simp] theorem State.modCluster_reefSeq (s : State) (n : Nat) (f : Cluster → Cluster) : (s.modCluster n f).reefSeq = s.reefSeq := rfl
@[simp] theorem State.modCluster_reefLevels (s : State) (n : Nat) (f : Cluster → Cluster) : (s.modCluster n f).reefLevels = s.reefLevels := rfl
@[simp] theorem State.modCluster_pathSeq (s : State) (n : Nat) (f : Cluster → Cluster) : (s.modCluster n f).pathSeq = s.pathSeq := rfl
@[simp] theorem State.modCluster_eid (s : State) (n : Nat) (f : Cluster → Cluster) : (s.modCluster n f).eid = s.eid := rfl
@[simp] theorem State.modCluster_spdm (s : State) (n : Nat) (f : Cluster → Cluster) : (s.modCluster n f).spdm = s.spdm := rfl
@[simp] theorem State.modCluster_cxlWidth (s : State) (n : Nat) (f : Cluster → Cluster) : (s.modCluster n f).cxlWidth = s.cxlWidth := rfl
@[simp] theorem State.modCluster_reqs (s : State) (n : Nat) (f : Cluster → Cluster) : (s.modCluster n f).reqs = s.reqs := rfl
@[simp] theorem State.modCluster_nextTag (s : State) (n : Nat) (f : Cluster → Cluster) : (s.modCluster n f).nextTag = s.nextTag := rfl
@[simp] theorem State.modCluster_releases (s : State) (n : Nat) (f : Cluster → Cluster) : (s.modCluster n f).releases = s.releases := rfl
@[simp] theorem State.modCluster_marks (s : State) (n : Nat) (f : Cluster → Cluster) : (s.modCluster n f).marks = s.marks := rfl
@[simp] theorem State.modCluster_goneW (s : State) (n : Nat) (f : Cluster → Cluster) : (s.modCluster n f).goneW = s.goneW := rfl
@[simp] theorem State.modCluster_lineSeq (s : State) (n : Nat) (f : Cluster → Cluster) : (s.modCluster n f).lineSeq = s.lineSeq := rfl
@[simp] theorem State.modCluster_colls (s : State) (n : Nat) (f : Cluster → Cluster) : (s.modCluster n f).colls = s.colls := rfl
@[simp] theorem State.modCluster_srcs (s : State) (n : Nat) (f : Cluster → Cluster) : (s.modCluster n f).srcs = s.srcs := rfl
@[simp] theorem State.modCluster_issuers (s : State) (n : Nat) (f : Cluster → Cluster) : (s.modCluster n f).issuers = s.issuers := rfl
@[simp] theorem State.modCluster_invSeqs (s : State) (n : Nat) (f : Cluster → Cluster) : (s.modCluster n f).invSeqs = s.invSeqs := rfl
@[simp] theorem State.modCluster_colDone (s : State) (n : Nat) (f : Cluster → Cluster) : (s.modCluster n f).colDone = s.colDone := rfl
@[simp] theorem State.modCluster_collQ (s : State) (n : Nat) (f : Cluster → Cluster) : (s.modCluster n f).collQ = s.collQ := rfl
@[simp] theorem State.modCluster_credits (s : State) (n : Nat) (f : Cluster → Cluster) : (s.modCluster n f).credits = s.credits := rfl
@[simp] theorem State.modCluster_keyNext (s : State) (n : Nat) (f : Cluster → Cluster) : (s.modCluster n f).keyNext = s.keyNext := rfl
@[simp] theorem State.modCluster_errs (s : State) (n : Nat) (f : Cluster → Cluster) : (s.modCluster n f).errs = s.errs := rfl
@[simp] theorem State.modCluster_agenda (s : State) (n : Nat) (f : Cluster → Cluster) : (s.modCluster n f).agenda = s.agenda := rfl
@[simp] theorem State.modCluster_cur (s : State) (n : Nat) (f : Cluster → Cluster) : (s.modCluster n f).cur = s.cur := rfl
@[simp] theorem State.modCluster_out (s : State) (n : Nat) (f : Cluster → Cluster) : (s.modCluster n f).out = s.out := rfl
@[simp] theorem State.modCluster_hostMem (s : State) (n : Nat) (f : Cluster → Cluster) : (s.modCluster n f).hostMem = s.hostMem := rfl
@[simp] theorem State.modCluster_free (s : State) (n : Nat) (f : Cluster → Cluster) : (s.modCluster n f).free = s.free := rfl
@[simp] theorem State.modCluster_nextTid (s : State) (n : Nat) (f : Cluster → Cluster) : (s.modCluster n f).nextTid = s.nextTid := rfl
@[simp] theorem State.modCluster_nextOp (s : State) (n : Nat) (f : Cluster → Cluster) : (s.modCluster n f).nextOp = s.nextOp := rfl
@[simp] theorem State.modCluster_ticket (s : State) (n : Nat) (f : Cluster → Cluster) : (s.modCluster n f).ticket = s.ticket := rfl

/-! ## State.setPart -/

@[simp] theorem State.setPart_rclk (s : State) (n : Nat) (p : Partition) : (s.setPart n p).rclk = s.rclk := rfl
@[simp] theorem State.setPart_home (s : State) (n : Nat) (p : Partition) : (s.setPart n p).home = s.home := rfl
@[simp] theorem State.setPart_lineKey (s : State) (n : Nat) (p : Partition) : (s.setPart n p).lineKey = s.lineKey := rfl
@[simp] theorem State.setPart_packed (s : State) (n : Nat) (p : Partition) : (s.setPart n p).packed = s.packed := rfl
@[simp] theorem State.setPart_memdone (s : State) (n : Nat) (p : Partition) : (s.setPart n p).memdone = s.memdone := rfl
@[simp] theorem State.setPart_caldone (s : State) (n : Nat) (p : Partition) : (s.setPart n p).caldone = s.caldone := rfl
@[simp] theorem State.setPart_imgfail (s : State) (n : Nat) (p : Partition) : (s.setPart n p).imgfail = s.imgfail := rfl
@[simp] theorem State.setPart_ready (s : State) (n : Nat) (p : Partition) : (s.setPart n p).ready = s.ready := rfl
@[simp] theorem State.setPart_clparterr (s : State) (n : Nat) (p : Partition) : (s.setPart n p).clparterr = s.clparterr := rfl
@[simp] theorem State.setPart_pfBusy (s : State) (n : Nat) (p : Partition) : (s.setPart n p).pfBusy = s.pfBusy := rfl
@[simp] theorem State.setPart_pfErr (s : State) (n : Nat) (p : Partition) : (s.setPart n p).pfErr = s.pfErr := rfl
@[simp] theorem State.setPart_pfWord (s : State) (n : Nat) (p : Partition) : (s.setPart n p).pfWord = s.pfWord := rfl
@[simp] theorem State.setPart_pfOps (s : State) (n : Nat) (p : Partition) : (s.setPart n p).pfOps = s.pfOps := rfl
@[simp] theorem State.setPart_teams (s : State) (n : Nat) (p : Partition) : (s.setPart n p).teams = s.teams := rfl
@[simp] theorem State.setPart_cores (s : State) (n : Nat) (p : Partition) : (s.setPart n p).cores = s.cores := rfl
@[simp] theorem State.setPart_clusters (s : State) (n : Nat) (p : Partition) : (s.setPart n p).clusters = s.clusters := rfl
@[simp] theorem State.setPart_paths (s : State) (n : Nat) (p : Partition) : (s.setPart n p).paths = s.paths := rfl
@[simp] theorem State.setPart_pathUpds (s : State) (n : Nat) (p : Partition) : (s.setPart n p).pathUpds = s.pathUpds := rfl
@[simp] theorem State.setPart_handles (s : State) (n : Nat) (p : Partition) : (s.setPart n p).handles = s.handles := rfl
@[simp] theorem State.setPart_opt (s : State) (n : Nat) (p : Partition) : (s.setPart n p).opt = s.opt := rfl
@[simp] theorem State.setPart_units (s : State) (n : Nat) (p : Partition) : (s.setPart n p).units = s.units := rfl
@[simp] theorem State.setPart_errcnt (s : State) (n : Nat) (p : Partition) : (s.setPart n p).errcnt = s.errcnt := rfl
@[simp] theorem State.setPart_ports (s : State) (n : Nat) (p : Partition) : (s.setPart n p).ports = s.ports := rfl
@[simp] theorem State.setPart_edges (s : State) (n : Nat) (p : Partition) : (s.setPart n p).edges = s.edges := rfl
@[simp] theorem State.setPart_slot (s : State) (n : Nat) (p : Partition) : (s.setPart n p).slot = s.slot := rfl
@[simp] theorem State.setPart_slotOk (s : State) (n : Nat) (p : Partition) : (s.setPart n p).slotOk = s.slotOk := rfl
@[simp] theorem State.setPart_runImage (s : State) (n : Nat) (p : Partition) : (s.setPart n p).runImage = s.runImage := rfl
@[simp] theorem State.setPart_reefSeq (s : State) (n : Nat) (p : Partition) : (s.setPart n p).reefSeq = s.reefSeq := rfl
@[simp] theorem State.setPart_reefLevels (s : State) (n : Nat) (p : Partition) : (s.setPart n p).reefLevels = s.reefLevels := rfl
@[simp] theorem State.setPart_pathSeq (s : State) (n : Nat) (p : Partition) : (s.setPart n p).pathSeq = s.pathSeq := rfl
@[simp] theorem State.setPart_eid (s : State) (n : Nat) (p : Partition) : (s.setPart n p).eid = s.eid := rfl
@[simp] theorem State.setPart_spdm (s : State) (n : Nat) (p : Partition) : (s.setPart n p).spdm = s.spdm := rfl
@[simp] theorem State.setPart_cxlWidth (s : State) (n : Nat) (p : Partition) : (s.setPart n p).cxlWidth = s.cxlWidth := rfl
@[simp] theorem State.setPart_reqs (s : State) (n : Nat) (p : Partition) : (s.setPart n p).reqs = s.reqs := rfl
@[simp] theorem State.setPart_nextTag (s : State) (n : Nat) (p : Partition) : (s.setPart n p).nextTag = s.nextTag := rfl
@[simp] theorem State.setPart_releases (s : State) (n : Nat) (p : Partition) : (s.setPart n p).releases = s.releases := rfl
@[simp] theorem State.setPart_marks (s : State) (n : Nat) (p : Partition) : (s.setPart n p).marks = s.marks := rfl
@[simp] theorem State.setPart_goneW (s : State) (n : Nat) (p : Partition) : (s.setPart n p).goneW = s.goneW := rfl
@[simp] theorem State.setPart_lineSeq (s : State) (n : Nat) (p : Partition) : (s.setPart n p).lineSeq = s.lineSeq := rfl
@[simp] theorem State.setPart_colls (s : State) (n : Nat) (p : Partition) : (s.setPart n p).colls = s.colls := rfl
@[simp] theorem State.setPart_srcs (s : State) (n : Nat) (p : Partition) : (s.setPart n p).srcs = s.srcs := rfl
@[simp] theorem State.setPart_issuers (s : State) (n : Nat) (p : Partition) : (s.setPart n p).issuers = s.issuers := rfl
@[simp] theorem State.setPart_invSeqs (s : State) (n : Nat) (p : Partition) : (s.setPart n p).invSeqs = s.invSeqs := rfl
@[simp] theorem State.setPart_colDone (s : State) (n : Nat) (p : Partition) : (s.setPart n p).colDone = s.colDone := rfl
@[simp] theorem State.setPart_collQ (s : State) (n : Nat) (p : Partition) : (s.setPart n p).collQ = s.collQ := rfl
@[simp] theorem State.setPart_credits (s : State) (n : Nat) (p : Partition) : (s.setPart n p).credits = s.credits := rfl
@[simp] theorem State.setPart_keyNext (s : State) (n : Nat) (p : Partition) : (s.setPart n p).keyNext = s.keyNext := rfl
@[simp] theorem State.setPart_errs (s : State) (n : Nat) (p : Partition) : (s.setPart n p).errs = s.errs := rfl
@[simp] theorem State.setPart_agenda (s : State) (n : Nat) (p : Partition) : (s.setPart n p).agenda = s.agenda := rfl
@[simp] theorem State.setPart_cur (s : State) (n : Nat) (p : Partition) : (s.setPart n p).cur = s.cur := rfl
@[simp] theorem State.setPart_out (s : State) (n : Nat) (p : Partition) : (s.setPart n p).out = s.out := rfl
@[simp] theorem State.setPart_hostMem (s : State) (n : Nat) (p : Partition) : (s.setPart n p).hostMem = s.hostMem := rfl
@[simp] theorem State.setPart_free (s : State) (n : Nat) (p : Partition) : (s.setPart n p).free = s.free := rfl
@[simp] theorem State.setPart_nextTid (s : State) (n : Nat) (p : Partition) : (s.setPart n p).nextTid = s.nextTid := rfl
@[simp] theorem State.setPart_nextOp (s : State) (n : Nat) (p : Partition) : (s.setPart n p).nextOp = s.nextOp := rfl
@[simp] theorem State.setPart_ticket (s : State) (n : Nat) (p : Partition) : (s.setPart n p).ticket = s.ticket := rfl

/-! ## State.modPart -/

@[simp] theorem State.modPart_rclk (s : State) (n : Nat) (f : Partition → Partition) : (s.modPart n f).rclk = s.rclk := rfl
@[simp] theorem State.modPart_home (s : State) (n : Nat) (f : Partition → Partition) : (s.modPart n f).home = s.home := rfl
@[simp] theorem State.modPart_lineKey (s : State) (n : Nat) (f : Partition → Partition) : (s.modPart n f).lineKey = s.lineKey := rfl
@[simp] theorem State.modPart_packed (s : State) (n : Nat) (f : Partition → Partition) : (s.modPart n f).packed = s.packed := rfl
@[simp] theorem State.modPart_memdone (s : State) (n : Nat) (f : Partition → Partition) : (s.modPart n f).memdone = s.memdone := rfl
@[simp] theorem State.modPart_caldone (s : State) (n : Nat) (f : Partition → Partition) : (s.modPart n f).caldone = s.caldone := rfl
@[simp] theorem State.modPart_imgfail (s : State) (n : Nat) (f : Partition → Partition) : (s.modPart n f).imgfail = s.imgfail := rfl
@[simp] theorem State.modPart_ready (s : State) (n : Nat) (f : Partition → Partition) : (s.modPart n f).ready = s.ready := rfl
@[simp] theorem State.modPart_clparterr (s : State) (n : Nat) (f : Partition → Partition) : (s.modPart n f).clparterr = s.clparterr := rfl
@[simp] theorem State.modPart_pfBusy (s : State) (n : Nat) (f : Partition → Partition) : (s.modPart n f).pfBusy = s.pfBusy := rfl
@[simp] theorem State.modPart_pfErr (s : State) (n : Nat) (f : Partition → Partition) : (s.modPart n f).pfErr = s.pfErr := rfl
@[simp] theorem State.modPart_pfWord (s : State) (n : Nat) (f : Partition → Partition) : (s.modPart n f).pfWord = s.pfWord := rfl
@[simp] theorem State.modPart_pfOps (s : State) (n : Nat) (f : Partition → Partition) : (s.modPart n f).pfOps = s.pfOps := rfl
@[simp] theorem State.modPart_teams (s : State) (n : Nat) (f : Partition → Partition) : (s.modPart n f).teams = s.teams := rfl
@[simp] theorem State.modPart_cores (s : State) (n : Nat) (f : Partition → Partition) : (s.modPart n f).cores = s.cores := rfl
@[simp] theorem State.modPart_clusters (s : State) (n : Nat) (f : Partition → Partition) : (s.modPart n f).clusters = s.clusters := rfl
@[simp] theorem State.modPart_paths (s : State) (n : Nat) (f : Partition → Partition) : (s.modPart n f).paths = s.paths := rfl
@[simp] theorem State.modPart_pathUpds (s : State) (n : Nat) (f : Partition → Partition) : (s.modPart n f).pathUpds = s.pathUpds := rfl
@[simp] theorem State.modPart_handles (s : State) (n : Nat) (f : Partition → Partition) : (s.modPart n f).handles = s.handles := rfl
@[simp] theorem State.modPart_opt (s : State) (n : Nat) (f : Partition → Partition) : (s.modPart n f).opt = s.opt := rfl
@[simp] theorem State.modPart_units (s : State) (n : Nat) (f : Partition → Partition) : (s.modPart n f).units = s.units := rfl
@[simp] theorem State.modPart_errcnt (s : State) (n : Nat) (f : Partition → Partition) : (s.modPart n f).errcnt = s.errcnt := rfl
@[simp] theorem State.modPart_ports (s : State) (n : Nat) (f : Partition → Partition) : (s.modPart n f).ports = s.ports := rfl
@[simp] theorem State.modPart_edges (s : State) (n : Nat) (f : Partition → Partition) : (s.modPart n f).edges = s.edges := rfl
@[simp] theorem State.modPart_slot (s : State) (n : Nat) (f : Partition → Partition) : (s.modPart n f).slot = s.slot := rfl
@[simp] theorem State.modPart_slotOk (s : State) (n : Nat) (f : Partition → Partition) : (s.modPart n f).slotOk = s.slotOk := rfl
@[simp] theorem State.modPart_runImage (s : State) (n : Nat) (f : Partition → Partition) : (s.modPart n f).runImage = s.runImage := rfl
@[simp] theorem State.modPart_reefSeq (s : State) (n : Nat) (f : Partition → Partition) : (s.modPart n f).reefSeq = s.reefSeq := rfl
@[simp] theorem State.modPart_reefLevels (s : State) (n : Nat) (f : Partition → Partition) : (s.modPart n f).reefLevels = s.reefLevels := rfl
@[simp] theorem State.modPart_pathSeq (s : State) (n : Nat) (f : Partition → Partition) : (s.modPart n f).pathSeq = s.pathSeq := rfl
@[simp] theorem State.modPart_eid (s : State) (n : Nat) (f : Partition → Partition) : (s.modPart n f).eid = s.eid := rfl
@[simp] theorem State.modPart_spdm (s : State) (n : Nat) (f : Partition → Partition) : (s.modPart n f).spdm = s.spdm := rfl
@[simp] theorem State.modPart_cxlWidth (s : State) (n : Nat) (f : Partition → Partition) : (s.modPart n f).cxlWidth = s.cxlWidth := rfl
@[simp] theorem State.modPart_reqs (s : State) (n : Nat) (f : Partition → Partition) : (s.modPart n f).reqs = s.reqs := rfl
@[simp] theorem State.modPart_nextTag (s : State) (n : Nat) (f : Partition → Partition) : (s.modPart n f).nextTag = s.nextTag := rfl
@[simp] theorem State.modPart_releases (s : State) (n : Nat) (f : Partition → Partition) : (s.modPart n f).releases = s.releases := rfl
@[simp] theorem State.modPart_marks (s : State) (n : Nat) (f : Partition → Partition) : (s.modPart n f).marks = s.marks := rfl
@[simp] theorem State.modPart_goneW (s : State) (n : Nat) (f : Partition → Partition) : (s.modPart n f).goneW = s.goneW := rfl
@[simp] theorem State.modPart_lineSeq (s : State) (n : Nat) (f : Partition → Partition) : (s.modPart n f).lineSeq = s.lineSeq := rfl
@[simp] theorem State.modPart_colls (s : State) (n : Nat) (f : Partition → Partition) : (s.modPart n f).colls = s.colls := rfl
@[simp] theorem State.modPart_srcs (s : State) (n : Nat) (f : Partition → Partition) : (s.modPart n f).srcs = s.srcs := rfl
@[simp] theorem State.modPart_issuers (s : State) (n : Nat) (f : Partition → Partition) : (s.modPart n f).issuers = s.issuers := rfl
@[simp] theorem State.modPart_invSeqs (s : State) (n : Nat) (f : Partition → Partition) : (s.modPart n f).invSeqs = s.invSeqs := rfl
@[simp] theorem State.modPart_colDone (s : State) (n : Nat) (f : Partition → Partition) : (s.modPart n f).colDone = s.colDone := rfl
@[simp] theorem State.modPart_collQ (s : State) (n : Nat) (f : Partition → Partition) : (s.modPart n f).collQ = s.collQ := rfl
@[simp] theorem State.modPart_credits (s : State) (n : Nat) (f : Partition → Partition) : (s.modPart n f).credits = s.credits := rfl
@[simp] theorem State.modPart_keyNext (s : State) (n : Nat) (f : Partition → Partition) : (s.modPart n f).keyNext = s.keyNext := rfl
@[simp] theorem State.modPart_errs (s : State) (n : Nat) (f : Partition → Partition) : (s.modPart n f).errs = s.errs := rfl
@[simp] theorem State.modPart_agenda (s : State) (n : Nat) (f : Partition → Partition) : (s.modPart n f).agenda = s.agenda := rfl
@[simp] theorem State.modPart_cur (s : State) (n : Nat) (f : Partition → Partition) : (s.modPart n f).cur = s.cur := rfl
@[simp] theorem State.modPart_out (s : State) (n : Nat) (f : Partition → Partition) : (s.modPart n f).out = s.out := rfl
@[simp] theorem State.modPart_hostMem (s : State) (n : Nat) (f : Partition → Partition) : (s.modPart n f).hostMem = s.hostMem := rfl
@[simp] theorem State.modPart_free (s : State) (n : Nat) (f : Partition → Partition) : (s.modPart n f).free = s.free := rfl
@[simp] theorem State.modPart_nextTid (s : State) (n : Nat) (f : Partition → Partition) : (s.modPart n f).nextTid = s.nextTid := rfl
@[simp] theorem State.modPart_nextOp (s : State) (n : Nat) (f : Partition → Partition) : (s.modPart n f).nextOp = s.nextOp := rfl
@[simp] theorem State.modPart_ticket (s : State) (n : Nat) (f : Partition → Partition) : (s.modPart n f).ticket = s.ticket := rfl

/-! ## State.setCtx -/

@[simp] theorem State.setCtx_rclk (s : State) (p n : Nat) (c : Context) : (s.setCtx p n c).rclk = s.rclk := rfl
@[simp] theorem State.setCtx_home (s : State) (p n : Nat) (c : Context) : (s.setCtx p n c).home = s.home := rfl
@[simp] theorem State.setCtx_lineKey (s : State) (p n : Nat) (c : Context) : (s.setCtx p n c).lineKey = s.lineKey := rfl
@[simp] theorem State.setCtx_packed (s : State) (p n : Nat) (c : Context) : (s.setCtx p n c).packed = s.packed := rfl
@[simp] theorem State.setCtx_memdone (s : State) (p n : Nat) (c : Context) : (s.setCtx p n c).memdone = s.memdone := rfl
@[simp] theorem State.setCtx_caldone (s : State) (p n : Nat) (c : Context) : (s.setCtx p n c).caldone = s.caldone := rfl
@[simp] theorem State.setCtx_imgfail (s : State) (p n : Nat) (c : Context) : (s.setCtx p n c).imgfail = s.imgfail := rfl
@[simp] theorem State.setCtx_ready (s : State) (p n : Nat) (c : Context) : (s.setCtx p n c).ready = s.ready := rfl
@[simp] theorem State.setCtx_clparterr (s : State) (p n : Nat) (c : Context) : (s.setCtx p n c).clparterr = s.clparterr := rfl
@[simp] theorem State.setCtx_pfBusy (s : State) (p n : Nat) (c : Context) : (s.setCtx p n c).pfBusy = s.pfBusy := rfl
@[simp] theorem State.setCtx_pfErr (s : State) (p n : Nat) (c : Context) : (s.setCtx p n c).pfErr = s.pfErr := rfl
@[simp] theorem State.setCtx_pfWord (s : State) (p n : Nat) (c : Context) : (s.setCtx p n c).pfWord = s.pfWord := rfl
@[simp] theorem State.setCtx_pfOps (s : State) (p n : Nat) (c : Context) : (s.setCtx p n c).pfOps = s.pfOps := rfl
@[simp] theorem State.setCtx_teams (s : State) (p n : Nat) (c : Context) : (s.setCtx p n c).teams = s.teams := rfl
@[simp] theorem State.setCtx_cores (s : State) (p n : Nat) (c : Context) : (s.setCtx p n c).cores = s.cores := rfl
@[simp] theorem State.setCtx_clusters (s : State) (p n : Nat) (c : Context) : (s.setCtx p n c).clusters = s.clusters := rfl
@[simp] theorem State.setCtx_paths (s : State) (p n : Nat) (c : Context) : (s.setCtx p n c).paths = s.paths := rfl
@[simp] theorem State.setCtx_pathUpds (s : State) (p n : Nat) (c : Context) : (s.setCtx p n c).pathUpds = s.pathUpds := rfl
@[simp] theorem State.setCtx_handles (s : State) (p n : Nat) (c : Context) : (s.setCtx p n c).handles = s.handles := rfl
@[simp] theorem State.setCtx_opt (s : State) (p n : Nat) (c : Context) : (s.setCtx p n c).opt = s.opt := rfl
@[simp] theorem State.setCtx_units (s : State) (p n : Nat) (c : Context) : (s.setCtx p n c).units = s.units := rfl
@[simp] theorem State.setCtx_errcnt (s : State) (p n : Nat) (c : Context) : (s.setCtx p n c).errcnt = s.errcnt := rfl
@[simp] theorem State.setCtx_ports (s : State) (p n : Nat) (c : Context) : (s.setCtx p n c).ports = s.ports := rfl
@[simp] theorem State.setCtx_edges (s : State) (p n : Nat) (c : Context) : (s.setCtx p n c).edges = s.edges := rfl
@[simp] theorem State.setCtx_slot (s : State) (p n : Nat) (c : Context) : (s.setCtx p n c).slot = s.slot := rfl
@[simp] theorem State.setCtx_slotOk (s : State) (p n : Nat) (c : Context) : (s.setCtx p n c).slotOk = s.slotOk := rfl
@[simp] theorem State.setCtx_runImage (s : State) (p n : Nat) (c : Context) : (s.setCtx p n c).runImage = s.runImage := rfl
@[simp] theorem State.setCtx_reefSeq (s : State) (p n : Nat) (c : Context) : (s.setCtx p n c).reefSeq = s.reefSeq := rfl
@[simp] theorem State.setCtx_reefLevels (s : State) (p n : Nat) (c : Context) : (s.setCtx p n c).reefLevels = s.reefLevels := rfl
@[simp] theorem State.setCtx_pathSeq (s : State) (p n : Nat) (c : Context) : (s.setCtx p n c).pathSeq = s.pathSeq := rfl
@[simp] theorem State.setCtx_eid (s : State) (p n : Nat) (c : Context) : (s.setCtx p n c).eid = s.eid := rfl
@[simp] theorem State.setCtx_spdm (s : State) (p n : Nat) (c : Context) : (s.setCtx p n c).spdm = s.spdm := rfl
@[simp] theorem State.setCtx_cxlWidth (s : State) (p n : Nat) (c : Context) : (s.setCtx p n c).cxlWidth = s.cxlWidth := rfl
@[simp] theorem State.setCtx_reqs (s : State) (p n : Nat) (c : Context) : (s.setCtx p n c).reqs = s.reqs := rfl
@[simp] theorem State.setCtx_nextTag (s : State) (p n : Nat) (c : Context) : (s.setCtx p n c).nextTag = s.nextTag := rfl
@[simp] theorem State.setCtx_releases (s : State) (p n : Nat) (c : Context) : (s.setCtx p n c).releases = s.releases := rfl
@[simp] theorem State.setCtx_marks (s : State) (p n : Nat) (c : Context) : (s.setCtx p n c).marks = s.marks := rfl
@[simp] theorem State.setCtx_goneW (s : State) (p n : Nat) (c : Context) : (s.setCtx p n c).goneW = s.goneW := rfl
@[simp] theorem State.setCtx_lineSeq (s : State) (p n : Nat) (c : Context) : (s.setCtx p n c).lineSeq = s.lineSeq := rfl
@[simp] theorem State.setCtx_colls (s : State) (p n : Nat) (c : Context) : (s.setCtx p n c).colls = s.colls := rfl
@[simp] theorem State.setCtx_srcs (s : State) (p n : Nat) (c : Context) : (s.setCtx p n c).srcs = s.srcs := rfl
@[simp] theorem State.setCtx_issuers (s : State) (p n : Nat) (c : Context) : (s.setCtx p n c).issuers = s.issuers := rfl
@[simp] theorem State.setCtx_invSeqs (s : State) (p n : Nat) (c : Context) : (s.setCtx p n c).invSeqs = s.invSeqs := rfl
@[simp] theorem State.setCtx_colDone (s : State) (p n : Nat) (c : Context) : (s.setCtx p n c).colDone = s.colDone := rfl
@[simp] theorem State.setCtx_collQ (s : State) (p n : Nat) (c : Context) : (s.setCtx p n c).collQ = s.collQ := rfl
@[simp] theorem State.setCtx_credits (s : State) (p n : Nat) (c : Context) : (s.setCtx p n c).credits = s.credits := rfl
@[simp] theorem State.setCtx_keyNext (s : State) (p n : Nat) (c : Context) : (s.setCtx p n c).keyNext = s.keyNext := rfl
@[simp] theorem State.setCtx_errs (s : State) (p n : Nat) (c : Context) : (s.setCtx p n c).errs = s.errs := rfl
@[simp] theorem State.setCtx_agenda (s : State) (p n : Nat) (c : Context) : (s.setCtx p n c).agenda = s.agenda := rfl
@[simp] theorem State.setCtx_cur (s : State) (p n : Nat) (c : Context) : (s.setCtx p n c).cur = s.cur := rfl
@[simp] theorem State.setCtx_out (s : State) (p n : Nat) (c : Context) : (s.setCtx p n c).out = s.out := rfl
@[simp] theorem State.setCtx_hostMem (s : State) (p n : Nat) (c : Context) : (s.setCtx p n c).hostMem = s.hostMem := rfl
@[simp] theorem State.setCtx_free (s : State) (p n : Nat) (c : Context) : (s.setCtx p n c).free = s.free := rfl
@[simp] theorem State.setCtx_nextTid (s : State) (p n : Nat) (c : Context) : (s.setCtx p n c).nextTid = s.nextTid := rfl
@[simp] theorem State.setCtx_nextOp (s : State) (p n : Nat) (c : Context) : (s.setCtx p n c).nextOp = s.nextOp := rfl
@[simp] theorem State.setCtx_ticket (s : State) (p n : Nat) (c : Context) : (s.setCtx p n c).ticket = s.ticket := rfl

/-! ## State.modCtx -/

@[simp] theorem State.modCtx_rclk (s : State) (p n : Nat) (f : Context → Context) : (s.modCtx p n f).rclk = s.rclk := rfl
@[simp] theorem State.modCtx_home (s : State) (p n : Nat) (f : Context → Context) : (s.modCtx p n f).home = s.home := rfl
@[simp] theorem State.modCtx_lineKey (s : State) (p n : Nat) (f : Context → Context) : (s.modCtx p n f).lineKey = s.lineKey := rfl
@[simp] theorem State.modCtx_packed (s : State) (p n : Nat) (f : Context → Context) : (s.modCtx p n f).packed = s.packed := rfl
@[simp] theorem State.modCtx_memdone (s : State) (p n : Nat) (f : Context → Context) : (s.modCtx p n f).memdone = s.memdone := rfl
@[simp] theorem State.modCtx_caldone (s : State) (p n : Nat) (f : Context → Context) : (s.modCtx p n f).caldone = s.caldone := rfl
@[simp] theorem State.modCtx_imgfail (s : State) (p n : Nat) (f : Context → Context) : (s.modCtx p n f).imgfail = s.imgfail := rfl
@[simp] theorem State.modCtx_ready (s : State) (p n : Nat) (f : Context → Context) : (s.modCtx p n f).ready = s.ready := rfl
@[simp] theorem State.modCtx_clparterr (s : State) (p n : Nat) (f : Context → Context) : (s.modCtx p n f).clparterr = s.clparterr := rfl
@[simp] theorem State.modCtx_pfBusy (s : State) (p n : Nat) (f : Context → Context) : (s.modCtx p n f).pfBusy = s.pfBusy := rfl
@[simp] theorem State.modCtx_pfErr (s : State) (p n : Nat) (f : Context → Context) : (s.modCtx p n f).pfErr = s.pfErr := rfl
@[simp] theorem State.modCtx_pfWord (s : State) (p n : Nat) (f : Context → Context) : (s.modCtx p n f).pfWord = s.pfWord := rfl
@[simp] theorem State.modCtx_pfOps (s : State) (p n : Nat) (f : Context → Context) : (s.modCtx p n f).pfOps = s.pfOps := rfl
@[simp] theorem State.modCtx_teams (s : State) (p n : Nat) (f : Context → Context) : (s.modCtx p n f).teams = s.teams := rfl
@[simp] theorem State.modCtx_cores (s : State) (p n : Nat) (f : Context → Context) : (s.modCtx p n f).cores = s.cores := rfl
@[simp] theorem State.modCtx_clusters (s : State) (p n : Nat) (f : Context → Context) : (s.modCtx p n f).clusters = s.clusters := rfl
@[simp] theorem State.modCtx_paths (s : State) (p n : Nat) (f : Context → Context) : (s.modCtx p n f).paths = s.paths := rfl
@[simp] theorem State.modCtx_pathUpds (s : State) (p n : Nat) (f : Context → Context) : (s.modCtx p n f).pathUpds = s.pathUpds := rfl
@[simp] theorem State.modCtx_handles (s : State) (p n : Nat) (f : Context → Context) : (s.modCtx p n f).handles = s.handles := rfl
@[simp] theorem State.modCtx_opt (s : State) (p n : Nat) (f : Context → Context) : (s.modCtx p n f).opt = s.opt := rfl
@[simp] theorem State.modCtx_units (s : State) (p n : Nat) (f : Context → Context) : (s.modCtx p n f).units = s.units := rfl
@[simp] theorem State.modCtx_errcnt (s : State) (p n : Nat) (f : Context → Context) : (s.modCtx p n f).errcnt = s.errcnt := rfl
@[simp] theorem State.modCtx_ports (s : State) (p n : Nat) (f : Context → Context) : (s.modCtx p n f).ports = s.ports := rfl
@[simp] theorem State.modCtx_edges (s : State) (p n : Nat) (f : Context → Context) : (s.modCtx p n f).edges = s.edges := rfl
@[simp] theorem State.modCtx_slot (s : State) (p n : Nat) (f : Context → Context) : (s.modCtx p n f).slot = s.slot := rfl
@[simp] theorem State.modCtx_slotOk (s : State) (p n : Nat) (f : Context → Context) : (s.modCtx p n f).slotOk = s.slotOk := rfl
@[simp] theorem State.modCtx_runImage (s : State) (p n : Nat) (f : Context → Context) : (s.modCtx p n f).runImage = s.runImage := rfl
@[simp] theorem State.modCtx_reefSeq (s : State) (p n : Nat) (f : Context → Context) : (s.modCtx p n f).reefSeq = s.reefSeq := rfl
@[simp] theorem State.modCtx_reefLevels (s : State) (p n : Nat) (f : Context → Context) : (s.modCtx p n f).reefLevels = s.reefLevels := rfl
@[simp] theorem State.modCtx_pathSeq (s : State) (p n : Nat) (f : Context → Context) : (s.modCtx p n f).pathSeq = s.pathSeq := rfl
@[simp] theorem State.modCtx_eid (s : State) (p n : Nat) (f : Context → Context) : (s.modCtx p n f).eid = s.eid := rfl
@[simp] theorem State.modCtx_spdm (s : State) (p n : Nat) (f : Context → Context) : (s.modCtx p n f).spdm = s.spdm := rfl
@[simp] theorem State.modCtx_cxlWidth (s : State) (p n : Nat) (f : Context → Context) : (s.modCtx p n f).cxlWidth = s.cxlWidth := rfl
@[simp] theorem State.modCtx_reqs (s : State) (p n : Nat) (f : Context → Context) : (s.modCtx p n f).reqs = s.reqs := rfl
@[simp] theorem State.modCtx_nextTag (s : State) (p n : Nat) (f : Context → Context) : (s.modCtx p n f).nextTag = s.nextTag := rfl
@[simp] theorem State.modCtx_releases (s : State) (p n : Nat) (f : Context → Context) : (s.modCtx p n f).releases = s.releases := rfl
@[simp] theorem State.modCtx_marks (s : State) (p n : Nat) (f : Context → Context) : (s.modCtx p n f).marks = s.marks := rfl
@[simp] theorem State.modCtx_goneW (s : State) (p n : Nat) (f : Context → Context) : (s.modCtx p n f).goneW = s.goneW := rfl
@[simp] theorem State.modCtx_lineSeq (s : State) (p n : Nat) (f : Context → Context) : (s.modCtx p n f).lineSeq = s.lineSeq := rfl
@[simp] theorem State.modCtx_colls (s : State) (p n : Nat) (f : Context → Context) : (s.modCtx p n f).colls = s.colls := rfl
@[simp] theorem State.modCtx_srcs (s : State) (p n : Nat) (f : Context → Context) : (s.modCtx p n f).srcs = s.srcs := rfl
@[simp] theorem State.modCtx_issuers (s : State) (p n : Nat) (f : Context → Context) : (s.modCtx p n f).issuers = s.issuers := rfl
@[simp] theorem State.modCtx_invSeqs (s : State) (p n : Nat) (f : Context → Context) : (s.modCtx p n f).invSeqs = s.invSeqs := rfl
@[simp] theorem State.modCtx_colDone (s : State) (p n : Nat) (f : Context → Context) : (s.modCtx p n f).colDone = s.colDone := rfl
@[simp] theorem State.modCtx_collQ (s : State) (p n : Nat) (f : Context → Context) : (s.modCtx p n f).collQ = s.collQ := rfl
@[simp] theorem State.modCtx_credits (s : State) (p n : Nat) (f : Context → Context) : (s.modCtx p n f).credits = s.credits := rfl
@[simp] theorem State.modCtx_keyNext (s : State) (p n : Nat) (f : Context → Context) : (s.modCtx p n f).keyNext = s.keyNext := rfl
@[simp] theorem State.modCtx_errs (s : State) (p n : Nat) (f : Context → Context) : (s.modCtx p n f).errs = s.errs := rfl
@[simp] theorem State.modCtx_agenda (s : State) (p n : Nat) (f : Context → Context) : (s.modCtx p n f).agenda = s.agenda := rfl
@[simp] theorem State.modCtx_cur (s : State) (p n : Nat) (f : Context → Context) : (s.modCtx p n f).cur = s.cur := rfl
@[simp] theorem State.modCtx_out (s : State) (p n : Nat) (f : Context → Context) : (s.modCtx p n f).out = s.out := rfl
@[simp] theorem State.modCtx_hostMem (s : State) (p n : Nat) (f : Context → Context) : (s.modCtx p n f).hostMem = s.hostMem := rfl
@[simp] theorem State.modCtx_free (s : State) (p n : Nat) (f : Context → Context) : (s.modCtx p n f).free = s.free := rfl
@[simp] theorem State.modCtx_nextTid (s : State) (p n : Nat) (f : Context → Context) : (s.modCtx p n f).nextTid = s.nextTid := rfl
@[simp] theorem State.modCtx_nextOp (s : State) (p n : Nat) (f : Context → Context) : (s.modCtx p n f).nextOp = s.nextOp := rfl
@[simp] theorem State.modCtx_ticket (s : State) (p n : Nat) (f : Context → Context) : (s.modCtx p n f).ticket = s.ticket := rfl

/-! ## State.emit -/

@[simp] theorem State.emit_rclk (s : State) (o : Out) : (s.emit o).rclk = s.rclk := rfl
@[simp] theorem State.emit_home (s : State) (o : Out) : (s.emit o).home = s.home := rfl
@[simp] theorem State.emit_lineKey (s : State) (o : Out) : (s.emit o).lineKey = s.lineKey := rfl
@[simp] theorem State.emit_packed (s : State) (o : Out) : (s.emit o).packed = s.packed := rfl
@[simp] theorem State.emit_memdone (s : State) (o : Out) : (s.emit o).memdone = s.memdone := rfl
@[simp] theorem State.emit_caldone (s : State) (o : Out) : (s.emit o).caldone = s.caldone := rfl
@[simp] theorem State.emit_imgfail (s : State) (o : Out) : (s.emit o).imgfail = s.imgfail := rfl
@[simp] theorem State.emit_ready (s : State) (o : Out) : (s.emit o).ready = s.ready := rfl
@[simp] theorem State.emit_clparterr (s : State) (o : Out) : (s.emit o).clparterr = s.clparterr := rfl
@[simp] theorem State.emit_pfBusy (s : State) (o : Out) : (s.emit o).pfBusy = s.pfBusy := rfl
@[simp] theorem State.emit_pfErr (s : State) (o : Out) : (s.emit o).pfErr = s.pfErr := rfl
@[simp] theorem State.emit_pfWord (s : State) (o : Out) : (s.emit o).pfWord = s.pfWord := rfl
@[simp] theorem State.emit_pfOps (s : State) (o : Out) : (s.emit o).pfOps = s.pfOps := rfl
@[simp] theorem State.emit_teams (s : State) (o : Out) : (s.emit o).teams = s.teams := rfl
@[simp] theorem State.emit_cores (s : State) (o : Out) : (s.emit o).cores = s.cores := rfl
@[simp] theorem State.emit_clusters (s : State) (o : Out) : (s.emit o).clusters = s.clusters := rfl
@[simp] theorem State.emit_parts (s : State) (o : Out) : (s.emit o).parts = s.parts := rfl
@[simp] theorem State.emit_paths (s : State) (o : Out) : (s.emit o).paths = s.paths := rfl
@[simp] theorem State.emit_pathUpds (s : State) (o : Out) : (s.emit o).pathUpds = s.pathUpds := rfl
@[simp] theorem State.emit_handles (s : State) (o : Out) : (s.emit o).handles = s.handles := rfl
@[simp] theorem State.emit_opt (s : State) (o : Out) : (s.emit o).opt = s.opt := rfl
@[simp] theorem State.emit_units (s : State) (o : Out) : (s.emit o).units = s.units := rfl
@[simp] theorem State.emit_errcnt (s : State) (o : Out) : (s.emit o).errcnt = s.errcnt := rfl
@[simp] theorem State.emit_ports (s : State) (o : Out) : (s.emit o).ports = s.ports := rfl
@[simp] theorem State.emit_edges (s : State) (o : Out) : (s.emit o).edges = s.edges := rfl
@[simp] theorem State.emit_slot (s : State) (o : Out) : (s.emit o).slot = s.slot := rfl
@[simp] theorem State.emit_slotOk (s : State) (o : Out) : (s.emit o).slotOk = s.slotOk := rfl
@[simp] theorem State.emit_runImage (s : State) (o : Out) : (s.emit o).runImage = s.runImage := rfl
@[simp] theorem State.emit_reefSeq (s : State) (o : Out) : (s.emit o).reefSeq = s.reefSeq := rfl
@[simp] theorem State.emit_reefLevels (s : State) (o : Out) : (s.emit o).reefLevels = s.reefLevels := rfl
@[simp] theorem State.emit_pathSeq (s : State) (o : Out) : (s.emit o).pathSeq = s.pathSeq := rfl
@[simp] theorem State.emit_eid (s : State) (o : Out) : (s.emit o).eid = s.eid := rfl
@[simp] theorem State.emit_spdm (s : State) (o : Out) : (s.emit o).spdm = s.spdm := rfl
@[simp] theorem State.emit_cxlWidth (s : State) (o : Out) : (s.emit o).cxlWidth = s.cxlWidth := rfl
@[simp] theorem State.emit_reqs (s : State) (o : Out) : (s.emit o).reqs = s.reqs := rfl
@[simp] theorem State.emit_nextTag (s : State) (o : Out) : (s.emit o).nextTag = s.nextTag := rfl
@[simp] theorem State.emit_releases (s : State) (o : Out) : (s.emit o).releases = s.releases := rfl
@[simp] theorem State.emit_marks (s : State) (o : Out) : (s.emit o).marks = s.marks := rfl
@[simp] theorem State.emit_goneW (s : State) (o : Out) : (s.emit o).goneW = s.goneW := rfl
@[simp] theorem State.emit_lineSeq (s : State) (o : Out) : (s.emit o).lineSeq = s.lineSeq := rfl
@[simp] theorem State.emit_colls (s : State) (o : Out) : (s.emit o).colls = s.colls := rfl
@[simp] theorem State.emit_srcs (s : State) (o : Out) : (s.emit o).srcs = s.srcs := rfl
@[simp] theorem State.emit_issuers (s : State) (o : Out) : (s.emit o).issuers = s.issuers := rfl
@[simp] theorem State.emit_invSeqs (s : State) (o : Out) : (s.emit o).invSeqs = s.invSeqs := rfl
@[simp] theorem State.emit_colDone (s : State) (o : Out) : (s.emit o).colDone = s.colDone := rfl
@[simp] theorem State.emit_collQ (s : State) (o : Out) : (s.emit o).collQ = s.collQ := rfl
@[simp] theorem State.emit_credits (s : State) (o : Out) : (s.emit o).credits = s.credits := rfl
@[simp] theorem State.emit_keyNext (s : State) (o : Out) : (s.emit o).keyNext = s.keyNext := rfl
@[simp] theorem State.emit_errs (s : State) (o : Out) : (s.emit o).errs = s.errs := rfl
@[simp] theorem State.emit_agenda (s : State) (o : Out) : (s.emit o).agenda = s.agenda := rfl
@[simp] theorem State.emit_cur (s : State) (o : Out) : (s.emit o).cur = s.cur := rfl
@[simp] theorem State.emit_hostMem (s : State) (o : Out) : (s.emit o).hostMem = s.hostMem := rfl
@[simp] theorem State.emit_free (s : State) (o : Out) : (s.emit o).free = s.free := rfl
@[simp] theorem State.emit_nextTid (s : State) (o : Out) : (s.emit o).nextTid = s.nextTid := rfl
@[simp] theorem State.emit_nextOp (s : State) (o : Out) : (s.emit o).nextOp = s.nextOp := rfl
@[simp] theorem State.emit_ticket (s : State) (o : Out) : (s.emit o).ticket = s.ticket := rfl

/-! ## State.count -/

@[simp] theorem State.count_rclk (s : State) (core event n : Nat) : (s.count core event n).rclk = s.rclk := by unfold State.count; split <;> rfl
@[simp] theorem State.count_home (s : State) (core event n : Nat) : (s.count core event n).home = s.home := by unfold State.count; split <;> rfl
@[simp] theorem State.count_lineKey (s : State) (core event n : Nat) : (s.count core event n).lineKey = s.lineKey := by unfold State.count; split <;> rfl
@[simp] theorem State.count_packed (s : State) (core event n : Nat) : (s.count core event n).packed = s.packed := by unfold State.count; split <;> rfl
@[simp] theorem State.count_memdone (s : State) (core event n : Nat) : (s.count core event n).memdone = s.memdone := by unfold State.count; split <;> rfl
@[simp] theorem State.count_caldone (s : State) (core event n : Nat) : (s.count core event n).caldone = s.caldone := by unfold State.count; split <;> rfl
@[simp] theorem State.count_imgfail (s : State) (core event n : Nat) : (s.count core event n).imgfail = s.imgfail := by unfold State.count; split <;> rfl
@[simp] theorem State.count_ready (s : State) (core event n : Nat) : (s.count core event n).ready = s.ready := by unfold State.count; split <;> rfl
@[simp] theorem State.count_clparterr (s : State) (core event n : Nat) : (s.count core event n).clparterr = s.clparterr := by unfold State.count; split <;> rfl
@[simp] theorem State.count_pfBusy (s : State) (core event n : Nat) : (s.count core event n).pfBusy = s.pfBusy := by unfold State.count; split <;> rfl
@[simp] theorem State.count_pfErr (s : State) (core event n : Nat) : (s.count core event n).pfErr = s.pfErr := by unfold State.count; split <;> rfl
@[simp] theorem State.count_pfWord (s : State) (core event n : Nat) : (s.count core event n).pfWord = s.pfWord := by unfold State.count; split <;> rfl
@[simp] theorem State.count_pfOps (s : State) (core event n : Nat) : (s.count core event n).pfOps = s.pfOps := by unfold State.count; split <;> rfl
@[simp] theorem State.count_teams (s : State) (core event n : Nat) : (s.count core event n).teams = s.teams := by unfold State.count; split <;> rfl
@[simp] theorem State.count_clusters (s : State) (core event n : Nat) : (s.count core event n).clusters = s.clusters := by unfold State.count; split <;> rfl
@[simp] theorem State.count_parts (s : State) (core event n : Nat) : (s.count core event n).parts = s.parts := by unfold State.count; split <;> rfl
@[simp] theorem State.count_paths (s : State) (core event n : Nat) : (s.count core event n).paths = s.paths := by unfold State.count; split <;> rfl
@[simp] theorem State.count_pathUpds (s : State) (core event n : Nat) : (s.count core event n).pathUpds = s.pathUpds := by unfold State.count; split <;> rfl
@[simp] theorem State.count_handles (s : State) (core event n : Nat) : (s.count core event n).handles = s.handles := by unfold State.count; split <;> rfl
@[simp] theorem State.count_opt (s : State) (core event n : Nat) : (s.count core event n).opt = s.opt := by unfold State.count; split <;> rfl
@[simp] theorem State.count_units (s : State) (core event n : Nat) : (s.count core event n).units = s.units := by unfold State.count; split <;> rfl
@[simp] theorem State.count_errcnt (s : State) (core event n : Nat) : (s.count core event n).errcnt = s.errcnt := by unfold State.count; split <;> rfl
@[simp] theorem State.count_ports (s : State) (core event n : Nat) : (s.count core event n).ports = s.ports := by unfold State.count; split <;> rfl
@[simp] theorem State.count_edges (s : State) (core event n : Nat) : (s.count core event n).edges = s.edges := by unfold State.count; split <;> rfl
@[simp] theorem State.count_slot (s : State) (core event n : Nat) : (s.count core event n).slot = s.slot := by unfold State.count; split <;> rfl
@[simp] theorem State.count_slotOk (s : State) (core event n : Nat) : (s.count core event n).slotOk = s.slotOk := by unfold State.count; split <;> rfl
@[simp] theorem State.count_runImage (s : State) (core event n : Nat) : (s.count core event n).runImage = s.runImage := by unfold State.count; split <;> rfl
@[simp] theorem State.count_reefSeq (s : State) (core event n : Nat) : (s.count core event n).reefSeq = s.reefSeq := by unfold State.count; split <;> rfl
@[simp] theorem State.count_reefLevels (s : State) (core event n : Nat) : (s.count core event n).reefLevels = s.reefLevels := by unfold State.count; split <;> rfl
@[simp] theorem State.count_pathSeq (s : State) (core event n : Nat) : (s.count core event n).pathSeq = s.pathSeq := by unfold State.count; split <;> rfl
@[simp] theorem State.count_eid (s : State) (core event n : Nat) : (s.count core event n).eid = s.eid := by unfold State.count; split <;> rfl
@[simp] theorem State.count_spdm (s : State) (core event n : Nat) : (s.count core event n).spdm = s.spdm := by unfold State.count; split <;> rfl
@[simp] theorem State.count_cxlWidth (s : State) (core event n : Nat) : (s.count core event n).cxlWidth = s.cxlWidth := by unfold State.count; split <;> rfl
@[simp] theorem State.count_reqs (s : State) (core event n : Nat) : (s.count core event n).reqs = s.reqs := by unfold State.count; split <;> rfl
@[simp] theorem State.count_nextTag (s : State) (core event n : Nat) : (s.count core event n).nextTag = s.nextTag := by unfold State.count; split <;> rfl
@[simp] theorem State.count_releases (s : State) (core event n : Nat) : (s.count core event n).releases = s.releases := by unfold State.count; split <;> rfl
@[simp] theorem State.count_marks (s : State) (core event n : Nat) : (s.count core event n).marks = s.marks := by unfold State.count; split <;> rfl
@[simp] theorem State.count_goneW (s : State) (core event n : Nat) : (s.count core event n).goneW = s.goneW := by unfold State.count; split <;> rfl
@[simp] theorem State.count_lineSeq (s : State) (core event n : Nat) : (s.count core event n).lineSeq = s.lineSeq := by unfold State.count; split <;> rfl
@[simp] theorem State.count_colls (s : State) (core event n : Nat) : (s.count core event n).colls = s.colls := by unfold State.count; split <;> rfl
@[simp] theorem State.count_srcs (s : State) (core event n : Nat) : (s.count core event n).srcs = s.srcs := by unfold State.count; split <;> rfl
@[simp] theorem State.count_issuers (s : State) (core event n : Nat) : (s.count core event n).issuers = s.issuers := by unfold State.count; split <;> rfl
@[simp] theorem State.count_invSeqs (s : State) (core event n : Nat) : (s.count core event n).invSeqs = s.invSeqs := by unfold State.count; split <;> rfl
@[simp] theorem State.count_colDone (s : State) (core event n : Nat) : (s.count core event n).colDone = s.colDone := by unfold State.count; split <;> rfl
@[simp] theorem State.count_collQ (s : State) (core event n : Nat) : (s.count core event n).collQ = s.collQ := by unfold State.count; split <;> rfl
@[simp] theorem State.count_credits (s : State) (core event n : Nat) : (s.count core event n).credits = s.credits := by unfold State.count; split <;> rfl
@[simp] theorem State.count_keyNext (s : State) (core event n : Nat) : (s.count core event n).keyNext = s.keyNext := by unfold State.count; split <;> rfl
@[simp] theorem State.count_errs (s : State) (core event n : Nat) : (s.count core event n).errs = s.errs := by unfold State.count; split <;> rfl
@[simp] theorem State.count_agenda (s : State) (core event n : Nat) : (s.count core event n).agenda = s.agenda := by unfold State.count; split <;> rfl
@[simp] theorem State.count_cur (s : State) (core event n : Nat) : (s.count core event n).cur = s.cur := by unfold State.count; split <;> rfl
@[simp] theorem State.count_out (s : State) (core event n : Nat) : (s.count core event n).out = s.out := by unfold State.count; split <;> rfl
@[simp] theorem State.count_hostMem (s : State) (core event n : Nat) : (s.count core event n).hostMem = s.hostMem := by unfold State.count; split <;> rfl
@[simp] theorem State.count_free (s : State) (core event n : Nat) : (s.count core event n).free = s.free := by unfold State.count; split <;> rfl
@[simp] theorem State.count_nextTid (s : State) (core event n : Nat) : (s.count core event n).nextTid = s.nextTid := by unfold State.count; split <;> rfl
@[simp] theorem State.count_nextOp (s : State) (core event n : Nat) : (s.count core event n).nextOp = s.nextOp := by unfold State.count; split <;> rfl
@[simp] theorem State.count_ticket (s : State) (core event n : Nat) : (s.count core event n).ticket = s.ticket := by unfold State.count; split <;> rfl

/-! ## State.countUnit -/

@[simp] theorem State.countUnit_rclk (s : State) (u part event n : Nat) : (s.countUnit u part event n).rclk = s.rclk := rfl
@[simp] theorem State.countUnit_home (s : State) (u part event n : Nat) : (s.countUnit u part event n).home = s.home := rfl
@[simp] theorem State.countUnit_lineKey (s : State) (u part event n : Nat) : (s.countUnit u part event n).lineKey = s.lineKey := rfl
@[simp] theorem State.countUnit_packed (s : State) (u part event n : Nat) : (s.countUnit u part event n).packed = s.packed := rfl
@[simp] theorem State.countUnit_memdone (s : State) (u part event n : Nat) : (s.countUnit u part event n).memdone = s.memdone := rfl
@[simp] theorem State.countUnit_caldone (s : State) (u part event n : Nat) : (s.countUnit u part event n).caldone = s.caldone := rfl
@[simp] theorem State.countUnit_imgfail (s : State) (u part event n : Nat) : (s.countUnit u part event n).imgfail = s.imgfail := rfl
@[simp] theorem State.countUnit_ready (s : State) (u part event n : Nat) : (s.countUnit u part event n).ready = s.ready := rfl
@[simp] theorem State.countUnit_clparterr (s : State) (u part event n : Nat) : (s.countUnit u part event n).clparterr = s.clparterr := rfl
@[simp] theorem State.countUnit_pfBusy (s : State) (u part event n : Nat) : (s.countUnit u part event n).pfBusy = s.pfBusy := rfl
@[simp] theorem State.countUnit_pfErr (s : State) (u part event n : Nat) : (s.countUnit u part event n).pfErr = s.pfErr := rfl
@[simp] theorem State.countUnit_pfWord (s : State) (u part event n : Nat) : (s.countUnit u part event n).pfWord = s.pfWord := rfl
@[simp] theorem State.countUnit_pfOps (s : State) (u part event n : Nat) : (s.countUnit u part event n).pfOps = s.pfOps := rfl
@[simp] theorem State.countUnit_teams (s : State) (u part event n : Nat) : (s.countUnit u part event n).teams = s.teams := rfl
@[simp] theorem State.countUnit_cores (s : State) (u part event n : Nat) : (s.countUnit u part event n).cores = s.cores := rfl
@[simp] theorem State.countUnit_clusters (s : State) (u part event n : Nat) : (s.countUnit u part event n).clusters = s.clusters := rfl
@[simp] theorem State.countUnit_parts (s : State) (u part event n : Nat) : (s.countUnit u part event n).parts = s.parts := rfl
@[simp] theorem State.countUnit_paths (s : State) (u part event n : Nat) : (s.countUnit u part event n).paths = s.paths := rfl
@[simp] theorem State.countUnit_pathUpds (s : State) (u part event n : Nat) : (s.countUnit u part event n).pathUpds = s.pathUpds := rfl
@[simp] theorem State.countUnit_handles (s : State) (u part event n : Nat) : (s.countUnit u part event n).handles = s.handles := rfl
@[simp] theorem State.countUnit_opt (s : State) (u part event n : Nat) : (s.countUnit u part event n).opt = s.opt := rfl
@[simp] theorem State.countUnit_errcnt (s : State) (u part event n : Nat) : (s.countUnit u part event n).errcnt = s.errcnt := rfl
@[simp] theorem State.countUnit_ports (s : State) (u part event n : Nat) : (s.countUnit u part event n).ports = s.ports := rfl
@[simp] theorem State.countUnit_edges (s : State) (u part event n : Nat) : (s.countUnit u part event n).edges = s.edges := rfl
@[simp] theorem State.countUnit_slot (s : State) (u part event n : Nat) : (s.countUnit u part event n).slot = s.slot := rfl
@[simp] theorem State.countUnit_slotOk (s : State) (u part event n : Nat) : (s.countUnit u part event n).slotOk = s.slotOk := rfl
@[simp] theorem State.countUnit_runImage (s : State) (u part event n : Nat) : (s.countUnit u part event n).runImage = s.runImage := rfl
@[simp] theorem State.countUnit_reefSeq (s : State) (u part event n : Nat) : (s.countUnit u part event n).reefSeq = s.reefSeq := rfl
@[simp] theorem State.countUnit_reefLevels (s : State) (u part event n : Nat) : (s.countUnit u part event n).reefLevels = s.reefLevels := rfl
@[simp] theorem State.countUnit_pathSeq (s : State) (u part event n : Nat) : (s.countUnit u part event n).pathSeq = s.pathSeq := rfl
@[simp] theorem State.countUnit_eid (s : State) (u part event n : Nat) : (s.countUnit u part event n).eid = s.eid := rfl
@[simp] theorem State.countUnit_spdm (s : State) (u part event n : Nat) : (s.countUnit u part event n).spdm = s.spdm := rfl
@[simp] theorem State.countUnit_cxlWidth (s : State) (u part event n : Nat) : (s.countUnit u part event n).cxlWidth = s.cxlWidth := rfl
@[simp] theorem State.countUnit_reqs (s : State) (u part event n : Nat) : (s.countUnit u part event n).reqs = s.reqs := rfl
@[simp] theorem State.countUnit_nextTag (s : State) (u part event n : Nat) : (s.countUnit u part event n).nextTag = s.nextTag := rfl
@[simp] theorem State.countUnit_releases (s : State) (u part event n : Nat) : (s.countUnit u part event n).releases = s.releases := rfl
@[simp] theorem State.countUnit_marks (s : State) (u part event n : Nat) : (s.countUnit u part event n).marks = s.marks := rfl
@[simp] theorem State.countUnit_goneW (s : State) (u part event n : Nat) : (s.countUnit u part event n).goneW = s.goneW := rfl
@[simp] theorem State.countUnit_lineSeq (s : State) (u part event n : Nat) : (s.countUnit u part event n).lineSeq = s.lineSeq := rfl
@[simp] theorem State.countUnit_colls (s : State) (u part event n : Nat) : (s.countUnit u part event n).colls = s.colls := rfl
@[simp] theorem State.countUnit_srcs (s : State) (u part event n : Nat) : (s.countUnit u part event n).srcs = s.srcs := rfl
@[simp] theorem State.countUnit_issuers (s : State) (u part event n : Nat) : (s.countUnit u part event n).issuers = s.issuers := rfl
@[simp] theorem State.countUnit_invSeqs (s : State) (u part event n : Nat) : (s.countUnit u part event n).invSeqs = s.invSeqs := rfl
@[simp] theorem State.countUnit_colDone (s : State) (u part event n : Nat) : (s.countUnit u part event n).colDone = s.colDone := rfl
@[simp] theorem State.countUnit_collQ (s : State) (u part event n : Nat) : (s.countUnit u part event n).collQ = s.collQ := rfl
@[simp] theorem State.countUnit_credits (s : State) (u part event n : Nat) : (s.countUnit u part event n).credits = s.credits := rfl
@[simp] theorem State.countUnit_keyNext (s : State) (u part event n : Nat) : (s.countUnit u part event n).keyNext = s.keyNext := rfl
@[simp] theorem State.countUnit_errs (s : State) (u part event n : Nat) : (s.countUnit u part event n).errs = s.errs := rfl
@[simp] theorem State.countUnit_agenda (s : State) (u part event n : Nat) : (s.countUnit u part event n).agenda = s.agenda := rfl
@[simp] theorem State.countUnit_cur (s : State) (u part event n : Nat) : (s.countUnit u part event n).cur = s.cur := rfl
@[simp] theorem State.countUnit_out (s : State) (u part event n : Nat) : (s.countUnit u part event n).out = s.out := rfl
@[simp] theorem State.countUnit_hostMem (s : State) (u part event n : Nat) : (s.countUnit u part event n).hostMem = s.hostMem := rfl
@[simp] theorem State.countUnit_free (s : State) (u part event n : Nat) : (s.countUnit u part event n).free = s.free := rfl
@[simp] theorem State.countUnit_nextTid (s : State) (u part event n : Nat) : (s.countUnit u part event n).nextTid = s.nextTid := rfl
@[simp] theorem State.countUnit_nextOp (s : State) (u part event n : Nat) : (s.countUnit u part event n).nextOp = s.nextOp := rfl
@[simp] theorem State.countUnit_ticket (s : State) (u part event n : Nat) : (s.countUnit u part event n).ticket = s.ticket := rfl

/-! ## State.hostWrite -/

@[simp] theorem State.hostWrite_rclk (s : State) (a : Nat) (bs : List Byte) : (s.hostWrite a bs).rclk = s.rclk := rfl
@[simp] theorem State.hostWrite_home (s : State) (a : Nat) (bs : List Byte) : (s.hostWrite a bs).home = s.home := rfl
@[simp] theorem State.hostWrite_lineKey (s : State) (a : Nat) (bs : List Byte) : (s.hostWrite a bs).lineKey = s.lineKey := rfl
@[simp] theorem State.hostWrite_packed (s : State) (a : Nat) (bs : List Byte) : (s.hostWrite a bs).packed = s.packed := rfl
@[simp] theorem State.hostWrite_memdone (s : State) (a : Nat) (bs : List Byte) : (s.hostWrite a bs).memdone = s.memdone := rfl
@[simp] theorem State.hostWrite_caldone (s : State) (a : Nat) (bs : List Byte) : (s.hostWrite a bs).caldone = s.caldone := rfl
@[simp] theorem State.hostWrite_imgfail (s : State) (a : Nat) (bs : List Byte) : (s.hostWrite a bs).imgfail = s.imgfail := rfl
@[simp] theorem State.hostWrite_ready (s : State) (a : Nat) (bs : List Byte) : (s.hostWrite a bs).ready = s.ready := rfl
@[simp] theorem State.hostWrite_clparterr (s : State) (a : Nat) (bs : List Byte) : (s.hostWrite a bs).clparterr = s.clparterr := rfl
@[simp] theorem State.hostWrite_pfBusy (s : State) (a : Nat) (bs : List Byte) : (s.hostWrite a bs).pfBusy = s.pfBusy := rfl
@[simp] theorem State.hostWrite_pfErr (s : State) (a : Nat) (bs : List Byte) : (s.hostWrite a bs).pfErr = s.pfErr := rfl
@[simp] theorem State.hostWrite_pfWord (s : State) (a : Nat) (bs : List Byte) : (s.hostWrite a bs).pfWord = s.pfWord := rfl
@[simp] theorem State.hostWrite_pfOps (s : State) (a : Nat) (bs : List Byte) : (s.hostWrite a bs).pfOps = s.pfOps := rfl
@[simp] theorem State.hostWrite_teams (s : State) (a : Nat) (bs : List Byte) : (s.hostWrite a bs).teams = s.teams := rfl
@[simp] theorem State.hostWrite_cores (s : State) (a : Nat) (bs : List Byte) : (s.hostWrite a bs).cores = s.cores := rfl
@[simp] theorem State.hostWrite_clusters (s : State) (a : Nat) (bs : List Byte) : (s.hostWrite a bs).clusters = s.clusters := rfl
@[simp] theorem State.hostWrite_parts (s : State) (a : Nat) (bs : List Byte) : (s.hostWrite a bs).parts = s.parts := rfl
@[simp] theorem State.hostWrite_paths (s : State) (a : Nat) (bs : List Byte) : (s.hostWrite a bs).paths = s.paths := rfl
@[simp] theorem State.hostWrite_pathUpds (s : State) (a : Nat) (bs : List Byte) : (s.hostWrite a bs).pathUpds = s.pathUpds := rfl
@[simp] theorem State.hostWrite_handles (s : State) (a : Nat) (bs : List Byte) : (s.hostWrite a bs).handles = s.handles := rfl
@[simp] theorem State.hostWrite_opt (s : State) (a : Nat) (bs : List Byte) : (s.hostWrite a bs).opt = s.opt := rfl
@[simp] theorem State.hostWrite_units (s : State) (a : Nat) (bs : List Byte) : (s.hostWrite a bs).units = s.units := rfl
@[simp] theorem State.hostWrite_errcnt (s : State) (a : Nat) (bs : List Byte) : (s.hostWrite a bs).errcnt = s.errcnt := rfl
@[simp] theorem State.hostWrite_ports (s : State) (a : Nat) (bs : List Byte) : (s.hostWrite a bs).ports = s.ports := rfl
@[simp] theorem State.hostWrite_edges (s : State) (a : Nat) (bs : List Byte) : (s.hostWrite a bs).edges = s.edges := rfl
@[simp] theorem State.hostWrite_slot (s : State) (a : Nat) (bs : List Byte) : (s.hostWrite a bs).slot = s.slot := rfl
@[simp] theorem State.hostWrite_slotOk (s : State) (a : Nat) (bs : List Byte) : (s.hostWrite a bs).slotOk = s.slotOk := rfl
@[simp] theorem State.hostWrite_runImage (s : State) (a : Nat) (bs : List Byte) : (s.hostWrite a bs).runImage = s.runImage := rfl
@[simp] theorem State.hostWrite_reefSeq (s : State) (a : Nat) (bs : List Byte) : (s.hostWrite a bs).reefSeq = s.reefSeq := rfl
@[simp] theorem State.hostWrite_reefLevels (s : State) (a : Nat) (bs : List Byte) : (s.hostWrite a bs).reefLevels = s.reefLevels := rfl
@[simp] theorem State.hostWrite_pathSeq (s : State) (a : Nat) (bs : List Byte) : (s.hostWrite a bs).pathSeq = s.pathSeq := rfl
@[simp] theorem State.hostWrite_eid (s : State) (a : Nat) (bs : List Byte) : (s.hostWrite a bs).eid = s.eid := rfl
@[simp] theorem State.hostWrite_spdm (s : State) (a : Nat) (bs : List Byte) : (s.hostWrite a bs).spdm = s.spdm := rfl
@[simp] theorem State.hostWrite_cxlWidth (s : State) (a : Nat) (bs : List Byte) : (s.hostWrite a bs).cxlWidth = s.cxlWidth := rfl
@[simp] theorem State.hostWrite_reqs (s : State) (a : Nat) (bs : List Byte) : (s.hostWrite a bs).reqs = s.reqs := rfl
@[simp] theorem State.hostWrite_nextTag (s : State) (a : Nat) (bs : List Byte) : (s.hostWrite a bs).nextTag = s.nextTag := rfl
@[simp] theorem State.hostWrite_releases (s : State) (a : Nat) (bs : List Byte) : (s.hostWrite a bs).releases = s.releases := rfl
@[simp] theorem State.hostWrite_marks (s : State) (a : Nat) (bs : List Byte) : (s.hostWrite a bs).marks = s.marks := rfl
@[simp] theorem State.hostWrite_goneW (s : State) (a : Nat) (bs : List Byte) : (s.hostWrite a bs).goneW = s.goneW := rfl
@[simp] theorem State.hostWrite_lineSeq (s : State) (a : Nat) (bs : List Byte) : (s.hostWrite a bs).lineSeq = s.lineSeq := rfl
@[simp] theorem State.hostWrite_colls (s : State) (a : Nat) (bs : List Byte) : (s.hostWrite a bs).colls = s.colls := rfl
@[simp] theorem State.hostWrite_srcs (s : State) (a : Nat) (bs : List Byte) : (s.hostWrite a bs).srcs = s.srcs := rfl
@[simp] theorem State.hostWrite_issuers (s : State) (a : Nat) (bs : List Byte) : (s.hostWrite a bs).issuers = s.issuers := rfl
@[simp] theorem State.hostWrite_invSeqs (s : State) (a : Nat) (bs : List Byte) : (s.hostWrite a bs).invSeqs = s.invSeqs := rfl
@[simp] theorem State.hostWrite_colDone (s : State) (a : Nat) (bs : List Byte) : (s.hostWrite a bs).colDone = s.colDone := rfl
@[simp] theorem State.hostWrite_collQ (s : State) (a : Nat) (bs : List Byte) : (s.hostWrite a bs).collQ = s.collQ := rfl
@[simp] theorem State.hostWrite_credits (s : State) (a : Nat) (bs : List Byte) : (s.hostWrite a bs).credits = s.credits := rfl
@[simp] theorem State.hostWrite_keyNext (s : State) (a : Nat) (bs : List Byte) : (s.hostWrite a bs).keyNext = s.keyNext := rfl
@[simp] theorem State.hostWrite_errs (s : State) (a : Nat) (bs : List Byte) : (s.hostWrite a bs).errs = s.errs := rfl
@[simp] theorem State.hostWrite_agenda (s : State) (a : Nat) (bs : List Byte) : (s.hostWrite a bs).agenda = s.agenda := rfl
@[simp] theorem State.hostWrite_cur (s : State) (a : Nat) (bs : List Byte) : (s.hostWrite a bs).cur = s.cur := rfl
@[simp] theorem State.hostWrite_out (s : State) (a : Nat) (bs : List Byte) : (s.hostWrite a bs).out = s.out := rfl
@[simp] theorem State.hostWrite_free (s : State) (a : Nat) (bs : List Byte) : (s.hostWrite a bs).free = s.free := rfl
@[simp] theorem State.hostWrite_nextTid (s : State) (a : Nat) (bs : List Byte) : (s.hostWrite a bs).nextTid = s.nextTid := rfl
@[simp] theorem State.hostWrite_nextOp (s : State) (a : Nat) (bs : List Byte) : (s.hostWrite a bs).nextOp = s.nextOp := rfl
@[simp] theorem State.hostWrite_ticket (s : State) (a : Nat) (bs : List Byte) : (s.hostWrite a bs).ticket = s.ticket := rfl

/-! ## State.rekey -/

@[simp] theorem State.rekey_rclk (s : State) (key pa : Nat) : (s.rekey key pa).rclk = s.rclk := by unfold State.rekey; simp only; split <;> rfl
@[simp] theorem State.rekey_packed (s : State) (key pa : Nat) : (s.rekey key pa).packed = s.packed := by unfold State.rekey; simp only; split <;> rfl
@[simp] theorem State.rekey_memdone (s : State) (key pa : Nat) : (s.rekey key pa).memdone = s.memdone := by unfold State.rekey; simp only; split <;> rfl
@[simp] theorem State.rekey_caldone (s : State) (key pa : Nat) : (s.rekey key pa).caldone = s.caldone := by unfold State.rekey; simp only; split <;> rfl
@[simp] theorem State.rekey_imgfail (s : State) (key pa : Nat) : (s.rekey key pa).imgfail = s.imgfail := by unfold State.rekey; simp only; split <;> rfl
@[simp] theorem State.rekey_ready (s : State) (key pa : Nat) : (s.rekey key pa).ready = s.ready := by unfold State.rekey; simp only; split <;> rfl
@[simp] theorem State.rekey_clparterr (s : State) (key pa : Nat) : (s.rekey key pa).clparterr = s.clparterr := by unfold State.rekey; simp only; split <;> rfl
@[simp] theorem State.rekey_pfBusy (s : State) (key pa : Nat) : (s.rekey key pa).pfBusy = s.pfBusy := by unfold State.rekey; simp only; split <;> rfl
@[simp] theorem State.rekey_pfErr (s : State) (key pa : Nat) : (s.rekey key pa).pfErr = s.pfErr := by unfold State.rekey; simp only; split <;> rfl
@[simp] theorem State.rekey_pfWord (s : State) (key pa : Nat) : (s.rekey key pa).pfWord = s.pfWord := by unfold State.rekey; simp only; split <;> rfl
@[simp] theorem State.rekey_pfOps (s : State) (key pa : Nat) : (s.rekey key pa).pfOps = s.pfOps := by unfold State.rekey; simp only; split <;> rfl
@[simp] theorem State.rekey_teams (s : State) (key pa : Nat) : (s.rekey key pa).teams = s.teams := by unfold State.rekey; simp only; split <;> rfl
@[simp] theorem State.rekey_cores (s : State) (key pa : Nat) : (s.rekey key pa).cores = s.cores := by unfold State.rekey; simp only; split <;> rfl
@[simp] theorem State.rekey_clusters (s : State) (key pa : Nat) : (s.rekey key pa).clusters = s.clusters := by unfold State.rekey; simp only; split <;> rfl
@[simp] theorem State.rekey_parts (s : State) (key pa : Nat) : (s.rekey key pa).parts = s.parts := by unfold State.rekey; simp only; split <;> rfl
@[simp] theorem State.rekey_paths (s : State) (key pa : Nat) : (s.rekey key pa).paths = s.paths := by unfold State.rekey; simp only; split <;> rfl
@[simp] theorem State.rekey_pathUpds (s : State) (key pa : Nat) : (s.rekey key pa).pathUpds = s.pathUpds := by unfold State.rekey; simp only; split <;> rfl
@[simp] theorem State.rekey_handles (s : State) (key pa : Nat) : (s.rekey key pa).handles = s.handles := by unfold State.rekey; simp only; split <;> rfl
@[simp] theorem State.rekey_opt (s : State) (key pa : Nat) : (s.rekey key pa).opt = s.opt := by unfold State.rekey; simp only; split <;> rfl
@[simp] theorem State.rekey_units (s : State) (key pa : Nat) : (s.rekey key pa).units = s.units := by unfold State.rekey; simp only; split <;> rfl
@[simp] theorem State.rekey_errcnt (s : State) (key pa : Nat) : (s.rekey key pa).errcnt = s.errcnt := by unfold State.rekey; simp only; split <;> rfl
@[simp] theorem State.rekey_ports (s : State) (key pa : Nat) : (s.rekey key pa).ports = s.ports := by unfold State.rekey; simp only; split <;> rfl
@[simp] theorem State.rekey_edges (s : State) (key pa : Nat) : (s.rekey key pa).edges = s.edges := by unfold State.rekey; simp only; split <;> rfl
@[simp] theorem State.rekey_slot (s : State) (key pa : Nat) : (s.rekey key pa).slot = s.slot := by unfold State.rekey; simp only; split <;> rfl
@[simp] theorem State.rekey_slotOk (s : State) (key pa : Nat) : (s.rekey key pa).slotOk = s.slotOk := by unfold State.rekey; simp only; split <;> rfl
@[simp] theorem State.rekey_runImage (s : State) (key pa : Nat) : (s.rekey key pa).runImage = s.runImage := by unfold State.rekey; simp only; split <;> rfl
@[simp] theorem State.rekey_reefSeq (s : State) (key pa : Nat) : (s.rekey key pa).reefSeq = s.reefSeq := by unfold State.rekey; simp only; split <;> rfl
@[simp] theorem State.rekey_reefLevels (s : State) (key pa : Nat) : (s.rekey key pa).reefLevels = s.reefLevels := by unfold State.rekey; simp only; split <;> rfl
@[simp] theorem State.rekey_pathSeq (s : State) (key pa : Nat) : (s.rekey key pa).pathSeq = s.pathSeq := by unfold State.rekey; simp only; split <;> rfl
@[simp] theorem State.rekey_eid (s : State) (key pa : Nat) : (s.rekey key pa).eid = s.eid := by unfold State.rekey; simp only; split <;> rfl
@[simp] theorem State.rekey_spdm (s : State) (key pa : Nat) : (s.rekey key pa).spdm = s.spdm := by unfold State.rekey; simp only; split <;> rfl
@[simp] theorem State.rekey_cxlWidth (s : State) (key pa : Nat) : (s.rekey key pa).cxlWidth = s.cxlWidth := by unfold State.rekey; simp only; split <;> rfl
@[simp] theorem State.rekey_reqs (s : State) (key pa : Nat) : (s.rekey key pa).reqs = s.reqs := by unfold State.rekey; simp only; split <;> rfl
@[simp] theorem State.rekey_nextTag (s : State) (key pa : Nat) : (s.rekey key pa).nextTag = s.nextTag := by unfold State.rekey; simp only; split <;> rfl
@[simp] theorem State.rekey_releases (s : State) (key pa : Nat) : (s.rekey key pa).releases = s.releases := by unfold State.rekey; simp only; split <;> rfl
@[simp] theorem State.rekey_marks (s : State) (key pa : Nat) : (s.rekey key pa).marks = s.marks := by unfold State.rekey; simp only; split <;> rfl
@[simp] theorem State.rekey_goneW (s : State) (key pa : Nat) : (s.rekey key pa).goneW = s.goneW := by unfold State.rekey; simp only; split <;> rfl
@[simp] theorem State.rekey_lineSeq (s : State) (key pa : Nat) : (s.rekey key pa).lineSeq = s.lineSeq := by unfold State.rekey; simp only; split <;> rfl
@[simp] theorem State.rekey_colls (s : State) (key pa : Nat) : (s.rekey key pa).colls = s.colls := by unfold State.rekey; simp only; split <;> rfl
@[simp] theorem State.rekey_srcs (s : State) (key pa : Nat) : (s.rekey key pa).srcs = s.srcs := by unfold State.rekey; simp only; split <;> rfl
@[simp] theorem State.rekey_issuers (s : State) (key pa : Nat) : (s.rekey key pa).issuers = s.issuers := by unfold State.rekey; simp only; split <;> rfl
@[simp] theorem State.rekey_invSeqs (s : State) (key pa : Nat) : (s.rekey key pa).invSeqs = s.invSeqs := by unfold State.rekey; simp only; split <;> rfl
@[simp] theorem State.rekey_colDone (s : State) (key pa : Nat) : (s.rekey key pa).colDone = s.colDone := by unfold State.rekey; simp only; split <;> rfl
@[simp] theorem State.rekey_collQ (s : State) (key pa : Nat) : (s.rekey key pa).collQ = s.collQ := by unfold State.rekey; simp only; split <;> rfl
@[simp] theorem State.rekey_credits (s : State) (key pa : Nat) : (s.rekey key pa).credits = s.credits := by unfold State.rekey; simp only; split <;> rfl
@[simp] theorem State.rekey_keyNext (s : State) (key pa : Nat) : (s.rekey key pa).keyNext = s.keyNext := by unfold State.rekey; simp only; split <;> rfl
@[simp] theorem State.rekey_errs (s : State) (key pa : Nat) : (s.rekey key pa).errs = s.errs := by unfold State.rekey; simp only; split <;> rfl
@[simp] theorem State.rekey_agenda (s : State) (key pa : Nat) : (s.rekey key pa).agenda = s.agenda := by unfold State.rekey; simp only; split <;> rfl
@[simp] theorem State.rekey_cur (s : State) (key pa : Nat) : (s.rekey key pa).cur = s.cur := by unfold State.rekey; simp only; split <;> rfl
@[simp] theorem State.rekey_out (s : State) (key pa : Nat) : (s.rekey key pa).out = s.out := by unfold State.rekey; simp only; split <;> rfl
@[simp] theorem State.rekey_hostMem (s : State) (key pa : Nat) : (s.rekey key pa).hostMem = s.hostMem := by unfold State.rekey; simp only; split <;> rfl
@[simp] theorem State.rekey_free (s : State) (key pa : Nat) : (s.rekey key pa).free = s.free := by unfold State.rekey; simp only; split <;> rfl
@[simp] theorem State.rekey_nextTid (s : State) (key pa : Nat) : (s.rekey key pa).nextTid = s.nextTid := by unfold State.rekey; simp only; split <;> rfl
@[simp] theorem State.rekey_nextOp (s : State) (key pa : Nat) : (s.rekey key pa).nextOp = s.nextOp := by unfold State.rekey; simp only; split <;> rfl
@[simp] theorem State.rekey_ticket (s : State) (key pa : Nat) : (s.rekey key pa).ticket = s.ticket := by unfold State.rekey; simp only; split <;> rfl

/-! ## State.homeSet -/

@[simp] theorem State.homeSet_rclk (s : State) (key pa : Nat) (b : Byte) : (s.homeSet key pa b).rclk = s.rclk := State.rekey_rclk s key pa
@[simp] theorem State.homeSet_memdone (s : State) (key pa : Nat) (b : Byte) : (s.homeSet key pa b).memdone = s.memdone := State.rekey_memdone s key pa
@[simp] theorem State.homeSet_caldone (s : State) (key pa : Nat) (b : Byte) : (s.homeSet key pa b).caldone = s.caldone := State.rekey_caldone s key pa
@[simp] theorem State.homeSet_imgfail (s : State) (key pa : Nat) (b : Byte) : (s.homeSet key pa b).imgfail = s.imgfail := State.rekey_imgfail s key pa
@[simp] theorem State.homeSet_ready (s : State) (key pa : Nat) (b : Byte) : (s.homeSet key pa b).ready = s.ready := State.rekey_ready s key pa
@[simp] theorem State.homeSet_clparterr (s : State) (key pa : Nat) (b : Byte) : (s.homeSet key pa b).clparterr = s.clparterr := State.rekey_clparterr s key pa
@[simp] theorem State.homeSet_pfBusy (s : State) (key pa : Nat) (b : Byte) : (s.homeSet key pa b).pfBusy = s.pfBusy := State.rekey_pfBusy s key pa
@[simp] theorem State.homeSet_pfErr (s : State) (key pa : Nat) (b : Byte) : (s.homeSet key pa b).pfErr = s.pfErr := State.rekey_pfErr s key pa
@[simp] theorem State.homeSet_pfWord (s : State) (key pa : Nat) (b : Byte) : (s.homeSet key pa b).pfWord = s.pfWord := State.rekey_pfWord s key pa
@[simp] theorem State.homeSet_pfOps (s : State) (key pa : Nat) (b : Byte) : (s.homeSet key pa b).pfOps = s.pfOps := State.rekey_pfOps s key pa
@[simp] theorem State.homeSet_teams (s : State) (key pa : Nat) (b : Byte) : (s.homeSet key pa b).teams = s.teams := State.rekey_teams s key pa
@[simp] theorem State.homeSet_cores (s : State) (key pa : Nat) (b : Byte) : (s.homeSet key pa b).cores = s.cores := State.rekey_cores s key pa
@[simp] theorem State.homeSet_clusters (s : State) (key pa : Nat) (b : Byte) : (s.homeSet key pa b).clusters = s.clusters := State.rekey_clusters s key pa
@[simp] theorem State.homeSet_parts (s : State) (key pa : Nat) (b : Byte) : (s.homeSet key pa b).parts = s.parts := State.rekey_parts s key pa
@[simp] theorem State.homeSet_paths (s : State) (key pa : Nat) (b : Byte) : (s.homeSet key pa b).paths = s.paths := State.rekey_paths s key pa
@[simp] theorem State.homeSet_pathUpds (s : State) (key pa : Nat) (b : Byte) : (s.homeSet key pa b).pathUpds = s.pathUpds := State.rekey_pathUpds s key pa
@[simp] theorem State.homeSet_handles (s : State) (key pa : Nat) (b : Byte) : (s.homeSet key pa b).handles = s.handles := State.rekey_handles s key pa
@[simp] theorem State.homeSet_opt (s : State) (key pa : Nat) (b : Byte) : (s.homeSet key pa b).opt = s.opt := State.rekey_opt s key pa
@[simp] theorem State.homeSet_units (s : State) (key pa : Nat) (b : Byte) : (s.homeSet key pa b).units = s.units := State.rekey_units s key pa
@[simp] theorem State.homeSet_errcnt (s : State) (key pa : Nat) (b : Byte) : (s.homeSet key pa b).errcnt = s.errcnt := State.rekey_errcnt s key pa
@[simp] theorem State.homeSet_ports (s : State) (key pa : Nat) (b : Byte) : (s.homeSet key pa b).ports = s.ports := State.rekey_ports s key pa
@[simp] theorem State.homeSet_edges (s : State) (key pa : Nat) (b : Byte) : (s.homeSet key pa b).edges = s.edges := State.rekey_edges s key pa
@[simp] theorem State.homeSet_slot (s : State) (key pa : Nat) (b : Byte) : (s.homeSet key pa b).slot = s.slot := State.rekey_slot s key pa
@[simp] theorem State.homeSet_slotOk (s : State) (key pa : Nat) (b : Byte) : (s.homeSet key pa b).slotOk = s.slotOk := State.rekey_slotOk s key pa
@[simp] theorem State.homeSet_runImage (s : State) (key pa : Nat) (b : Byte) : (s.homeSet key pa b).runImage = s.runImage := State.rekey_runImage s key pa
@[simp] theorem State.homeSet_reefSeq (s : State) (key pa : Nat) (b : Byte) : (s.homeSet key pa b).reefSeq = s.reefSeq := State.rekey_reefSeq s key pa
@[simp] theorem State.homeSet_reefLevels (s : State) (key pa : Nat) (b : Byte) : (s.homeSet key pa b).reefLevels = s.reefLevels := State.rekey_reefLevels s key pa
@[simp] theorem State.homeSet_pathSeq (s : State) (key pa : Nat) (b : Byte) : (s.homeSet key pa b).pathSeq = s.pathSeq := State.rekey_pathSeq s key pa
@[simp] theorem State.homeSet_eid (s : State) (key pa : Nat) (b : Byte) : (s.homeSet key pa b).eid = s.eid := State.rekey_eid s key pa
@[simp] theorem State.homeSet_spdm (s : State) (key pa : Nat) (b : Byte) : (s.homeSet key pa b).spdm = s.spdm := State.rekey_spdm s key pa
@[simp] theorem State.homeSet_cxlWidth (s : State) (key pa : Nat) (b : Byte) : (s.homeSet key pa b).cxlWidth = s.cxlWidth := State.rekey_cxlWidth s key pa
@[simp] theorem State.homeSet_reqs (s : State) (key pa : Nat) (b : Byte) : (s.homeSet key pa b).reqs = s.reqs := State.rekey_reqs s key pa
@[simp] theorem State.homeSet_nextTag (s : State) (key pa : Nat) (b : Byte) : (s.homeSet key pa b).nextTag = s.nextTag := State.rekey_nextTag s key pa
@[simp] theorem State.homeSet_releases (s : State) (key pa : Nat) (b : Byte) : (s.homeSet key pa b).releases = s.releases := State.rekey_releases s key pa
@[simp] theorem State.homeSet_marks (s : State) (key pa : Nat) (b : Byte) : (s.homeSet key pa b).marks = s.marks := State.rekey_marks s key pa
@[simp] theorem State.homeSet_goneW (s : State) (key pa : Nat) (b : Byte) : (s.homeSet key pa b).goneW = s.goneW := State.rekey_goneW s key pa
@[simp] theorem State.homeSet_lineSeq (s : State) (key pa : Nat) (b : Byte) : (s.homeSet key pa b).lineSeq = s.lineSeq := State.rekey_lineSeq s key pa
@[simp] theorem State.homeSet_colls (s : State) (key pa : Nat) (b : Byte) : (s.homeSet key pa b).colls = s.colls := State.rekey_colls s key pa
@[simp] theorem State.homeSet_srcs (s : State) (key pa : Nat) (b : Byte) : (s.homeSet key pa b).srcs = s.srcs := State.rekey_srcs s key pa
@[simp] theorem State.homeSet_issuers (s : State) (key pa : Nat) (b : Byte) : (s.homeSet key pa b).issuers = s.issuers := State.rekey_issuers s key pa
@[simp] theorem State.homeSet_invSeqs (s : State) (key pa : Nat) (b : Byte) : (s.homeSet key pa b).invSeqs = s.invSeqs := State.rekey_invSeqs s key pa
@[simp] theorem State.homeSet_colDone (s : State) (key pa : Nat) (b : Byte) : (s.homeSet key pa b).colDone = s.colDone := State.rekey_colDone s key pa
@[simp] theorem State.homeSet_collQ (s : State) (key pa : Nat) (b : Byte) : (s.homeSet key pa b).collQ = s.collQ := State.rekey_collQ s key pa
@[simp] theorem State.homeSet_credits (s : State) (key pa : Nat) (b : Byte) : (s.homeSet key pa b).credits = s.credits := State.rekey_credits s key pa
@[simp] theorem State.homeSet_keyNext (s : State) (key pa : Nat) (b : Byte) : (s.homeSet key pa b).keyNext = s.keyNext := State.rekey_keyNext s key pa
@[simp] theorem State.homeSet_errs (s : State) (key pa : Nat) (b : Byte) : (s.homeSet key pa b).errs = s.errs := State.rekey_errs s key pa
@[simp] theorem State.homeSet_agenda (s : State) (key pa : Nat) (b : Byte) : (s.homeSet key pa b).agenda = s.agenda := State.rekey_agenda s key pa
@[simp] theorem State.homeSet_cur (s : State) (key pa : Nat) (b : Byte) : (s.homeSet key pa b).cur = s.cur := State.rekey_cur s key pa
@[simp] theorem State.homeSet_out (s : State) (key pa : Nat) (b : Byte) : (s.homeSet key pa b).out = s.out := State.rekey_out s key pa
@[simp] theorem State.homeSet_hostMem (s : State) (key pa : Nat) (b : Byte) : (s.homeSet key pa b).hostMem = s.hostMem := State.rekey_hostMem s key pa
@[simp] theorem State.homeSet_free (s : State) (key pa : Nat) (b : Byte) : (s.homeSet key pa b).free = s.free := State.rekey_free s key pa
@[simp] theorem State.homeSet_nextTid (s : State) (key pa : Nat) (b : Byte) : (s.homeSet key pa b).nextTid = s.nextTid := State.rekey_nextTid s key pa
@[simp] theorem State.homeSet_nextOp (s : State) (key pa : Nat) (b : Byte) : (s.homeSet key pa b).nextOp = s.nextOp := State.rekey_nextOp s key pa
@[simp] theorem State.homeSet_ticket (s : State) (key pa : Nat) (b : Byte) : (s.homeSet key pa b).ticket = s.ticket := State.rekey_ticket s key pa

/-! ## State.homeWrite -/

@[simp] theorem State.homeWrite_rclk (s : State) (key pa : Nat) (bs : List Byte) : (s.homeWrite key pa bs).rclk = s.rclk := by
  induction bs generalizing s pa with
  | nil => rfl
  | cons b bs ih => exact (ih _ _).trans (State.homeSet_rclk s key pa b)
@[simp] theorem State.homeWrite_memdone (s : State) (key pa : Nat) (bs : List Byte) : (s.homeWrite key pa bs).memdone = s.memdone := by
  induction bs generalizing s pa with
  | nil => rfl
  | cons b bs ih => exact (ih _ _).trans (State.homeSet_memdone s key pa b)
@[simp] theorem State.homeWrite_caldone (s : State) (key pa : Nat) (bs : List Byte) : (s.homeWrite key pa bs).caldone = s.caldone := by
  induction bs generalizing s pa with
  | nil => rfl
  | cons b bs ih => exact (ih _ _).trans (State.homeSet_caldone s key pa b)
@[simp] theorem State.homeWrite_imgfail (s : State) (key pa : Nat) (bs : List Byte) : (s.homeWrite key pa bs).imgfail = s.imgfail := by
  induction bs generalizing s pa with
  | nil => rfl
  | cons b bs ih => exact (ih _ _).trans (State.homeSet_imgfail s key pa b)
@[simp] theorem State.homeWrite_ready (s : State) (key pa : Nat) (bs : List Byte) : (s.homeWrite key pa bs).ready = s.ready := by
  induction bs generalizing s pa with
  | nil => rfl
  | cons b bs ih => exact (ih _ _).trans (State.homeSet_ready s key pa b)
@[simp] theorem State.homeWrite_clparterr (s : State) (key pa : Nat) (bs : List Byte) : (s.homeWrite key pa bs).clparterr = s.clparterr := by
  induction bs generalizing s pa with
  | nil => rfl
  | cons b bs ih => exact (ih _ _).trans (State.homeSet_clparterr s key pa b)
@[simp] theorem State.homeWrite_pfBusy (s : State) (key pa : Nat) (bs : List Byte) : (s.homeWrite key pa bs).pfBusy = s.pfBusy := by
  induction bs generalizing s pa with
  | nil => rfl
  | cons b bs ih => exact (ih _ _).trans (State.homeSet_pfBusy s key pa b)
@[simp] theorem State.homeWrite_pfErr (s : State) (key pa : Nat) (bs : List Byte) : (s.homeWrite key pa bs).pfErr = s.pfErr := by
  induction bs generalizing s pa with
  | nil => rfl
  | cons b bs ih => exact (ih _ _).trans (State.homeSet_pfErr s key pa b)
@[simp] theorem State.homeWrite_pfWord (s : State) (key pa : Nat) (bs : List Byte) : (s.homeWrite key pa bs).pfWord = s.pfWord := by
  induction bs generalizing s pa with
  | nil => rfl
  | cons b bs ih => exact (ih _ _).trans (State.homeSet_pfWord s key pa b)
@[simp] theorem State.homeWrite_pfOps (s : State) (key pa : Nat) (bs : List Byte) : (s.homeWrite key pa bs).pfOps = s.pfOps := by
  induction bs generalizing s pa with
  | nil => rfl
  | cons b bs ih => exact (ih _ _).trans (State.homeSet_pfOps s key pa b)
@[simp] theorem State.homeWrite_teams (s : State) (key pa : Nat) (bs : List Byte) : (s.homeWrite key pa bs).teams = s.teams := by
  induction bs generalizing s pa with
  | nil => rfl
  | cons b bs ih => exact (ih _ _).trans (State.homeSet_teams s key pa b)
@[simp] theorem State.homeWrite_cores (s : State) (key pa : Nat) (bs : List Byte) : (s.homeWrite key pa bs).cores = s.cores := by
  induction bs generalizing s pa with
  | nil => rfl
  | cons b bs ih => exact (ih _ _).trans (State.homeSet_cores s key pa b)
@[simp] theorem State.homeWrite_clusters (s : State) (key pa : Nat) (bs : List Byte) : (s.homeWrite key pa bs).clusters = s.clusters := by
  induction bs generalizing s pa with
  | nil => rfl
  | cons b bs ih => exact (ih _ _).trans (State.homeSet_clusters s key pa b)
@[simp] theorem State.homeWrite_parts (s : State) (key pa : Nat) (bs : List Byte) : (s.homeWrite key pa bs).parts = s.parts := by
  induction bs generalizing s pa with
  | nil => rfl
  | cons b bs ih => exact (ih _ _).trans (State.homeSet_parts s key pa b)
@[simp] theorem State.homeWrite_paths (s : State) (key pa : Nat) (bs : List Byte) : (s.homeWrite key pa bs).paths = s.paths := by
  induction bs generalizing s pa with
  | nil => rfl
  | cons b bs ih => exact (ih _ _).trans (State.homeSet_paths s key pa b)
@[simp] theorem State.homeWrite_pathUpds (s : State) (key pa : Nat) (bs : List Byte) : (s.homeWrite key pa bs).pathUpds = s.pathUpds := by
  induction bs generalizing s pa with
  | nil => rfl
  | cons b bs ih => exact (ih _ _).trans (State.homeSet_pathUpds s key pa b)
@[simp] theorem State.homeWrite_handles (s : State) (key pa : Nat) (bs : List Byte) : (s.homeWrite key pa bs).handles = s.handles := by
  induction bs generalizing s pa with
  | nil => rfl
  | cons b bs ih => exact (ih _ _).trans (State.homeSet_handles s key pa b)
@[simp] theorem State.homeWrite_opt (s : State) (key pa : Nat) (bs : List Byte) : (s.homeWrite key pa bs).opt = s.opt := by
  induction bs generalizing s pa with
  | nil => rfl
  | cons b bs ih => exact (ih _ _).trans (State.homeSet_opt s key pa b)
@[simp] theorem State.homeWrite_units (s : State) (key pa : Nat) (bs : List Byte) : (s.homeWrite key pa bs).units = s.units := by
  induction bs generalizing s pa with
  | nil => rfl
  | cons b bs ih => exact (ih _ _).trans (State.homeSet_units s key pa b)
@[simp] theorem State.homeWrite_errcnt (s : State) (key pa : Nat) (bs : List Byte) : (s.homeWrite key pa bs).errcnt = s.errcnt := by
  induction bs generalizing s pa with
  | nil => rfl
  | cons b bs ih => exact (ih _ _).trans (State.homeSet_errcnt s key pa b)
@[simp] theorem State.homeWrite_ports (s : State) (key pa : Nat) (bs : List Byte) : (s.homeWrite key pa bs).ports = s.ports := by
  induction bs generalizing s pa with
  | nil => rfl
  | cons b bs ih => exact (ih _ _).trans (State.homeSet_ports s key pa b)
@[simp] theorem State.homeWrite_edges (s : State) (key pa : Nat) (bs : List Byte) : (s.homeWrite key pa bs).edges = s.edges := by
  induction bs generalizing s pa with
  | nil => rfl
  | cons b bs ih => exact (ih _ _).trans (State.homeSet_edges s key pa b)
@[simp] theorem State.homeWrite_slot (s : State) (key pa : Nat) (bs : List Byte) : (s.homeWrite key pa bs).slot = s.slot := by
  induction bs generalizing s pa with
  | nil => rfl
  | cons b bs ih => exact (ih _ _).trans (State.homeSet_slot s key pa b)
@[simp] theorem State.homeWrite_slotOk (s : State) (key pa : Nat) (bs : List Byte) : (s.homeWrite key pa bs).slotOk = s.slotOk := by
  induction bs generalizing s pa with
  | nil => rfl
  | cons b bs ih => exact (ih _ _).trans (State.homeSet_slotOk s key pa b)
@[simp] theorem State.homeWrite_runImage (s : State) (key pa : Nat) (bs : List Byte) : (s.homeWrite key pa bs).runImage = s.runImage := by
  induction bs generalizing s pa with
  | nil => rfl
  | cons b bs ih => exact (ih _ _).trans (State.homeSet_runImage s key pa b)
@[simp] theorem State.homeWrite_reefSeq (s : State) (key pa : Nat) (bs : List Byte) : (s.homeWrite key pa bs).reefSeq = s.reefSeq := by
  induction bs generalizing s pa with
  | nil => rfl
  | cons b bs ih => exact (ih _ _).trans (State.homeSet_reefSeq s key pa b)
@[simp] theorem State.homeWrite_reefLevels (s : State) (key pa : Nat) (bs : List Byte) : (s.homeWrite key pa bs).reefLevels = s.reefLevels := by
  induction bs generalizing s pa with
  | nil => rfl
  | cons b bs ih => exact (ih _ _).trans (State.homeSet_reefLevels s key pa b)
@[simp] theorem State.homeWrite_pathSeq (s : State) (key pa : Nat) (bs : List Byte) : (s.homeWrite key pa bs).pathSeq = s.pathSeq := by
  induction bs generalizing s pa with
  | nil => rfl
  | cons b bs ih => exact (ih _ _).trans (State.homeSet_pathSeq s key pa b)
@[simp] theorem State.homeWrite_eid (s : State) (key pa : Nat) (bs : List Byte) : (s.homeWrite key pa bs).eid = s.eid := by
  induction bs generalizing s pa with
  | nil => rfl
  | cons b bs ih => exact (ih _ _).trans (State.homeSet_eid s key pa b)
@[simp] theorem State.homeWrite_spdm (s : State) (key pa : Nat) (bs : List Byte) : (s.homeWrite key pa bs).spdm = s.spdm := by
  induction bs generalizing s pa with
  | nil => rfl
  | cons b bs ih => exact (ih _ _).trans (State.homeSet_spdm s key pa b)
@[simp] theorem State.homeWrite_cxlWidth (s : State) (key pa : Nat) (bs : List Byte) : (s.homeWrite key pa bs).cxlWidth = s.cxlWidth := by
  induction bs generalizing s pa with
  | nil => rfl
  | cons b bs ih => exact (ih _ _).trans (State.homeSet_cxlWidth s key pa b)
@[simp] theorem State.homeWrite_reqs (s : State) (key pa : Nat) (bs : List Byte) : (s.homeWrite key pa bs).reqs = s.reqs := by
  induction bs generalizing s pa with
  | nil => rfl
  | cons b bs ih => exact (ih _ _).trans (State.homeSet_reqs s key pa b)
@[simp] theorem State.homeWrite_nextTag (s : State) (key pa : Nat) (bs : List Byte) : (s.homeWrite key pa bs).nextTag = s.nextTag := by
  induction bs generalizing s pa with
  | nil => rfl
  | cons b bs ih => exact (ih _ _).trans (State.homeSet_nextTag s key pa b)
@[simp] theorem State.homeWrite_releases (s : State) (key pa : Nat) (bs : List Byte) : (s.homeWrite key pa bs).releases = s.releases := by
  induction bs generalizing s pa with
  | nil => rfl
  | cons b bs ih => exact (ih _ _).trans (State.homeSet_releases s key pa b)
@[simp] theorem State.homeWrite_marks (s : State) (key pa : Nat) (bs : List Byte) : (s.homeWrite key pa bs).marks = s.marks := by
  induction bs generalizing s pa with
  | nil => rfl
  | cons b bs ih => exact (ih _ _).trans (State.homeSet_marks s key pa b)
@[simp] theorem State.homeWrite_goneW (s : State) (key pa : Nat) (bs : List Byte) : (s.homeWrite key pa bs).goneW = s.goneW := by
  induction bs generalizing s pa with
  | nil => rfl
  | cons b bs ih => exact (ih _ _).trans (State.homeSet_goneW s key pa b)
@[simp] theorem State.homeWrite_lineSeq (s : State) (key pa : Nat) (bs : List Byte) : (s.homeWrite key pa bs).lineSeq = s.lineSeq := by
  induction bs generalizing s pa with
  | nil => rfl
  | cons b bs ih => exact (ih _ _).trans (State.homeSet_lineSeq s key pa b)
@[simp] theorem State.homeWrite_colls (s : State) (key pa : Nat) (bs : List Byte) : (s.homeWrite key pa bs).colls = s.colls := by
  induction bs generalizing s pa with
  | nil => rfl
  | cons b bs ih => exact (ih _ _).trans (State.homeSet_colls s key pa b)
@[simp] theorem State.homeWrite_srcs (s : State) (key pa : Nat) (bs : List Byte) : (s.homeWrite key pa bs).srcs = s.srcs := by
  induction bs generalizing s pa with
  | nil => rfl
  | cons b bs ih => exact (ih _ _).trans (State.homeSet_srcs s key pa b)
@[simp] theorem State.homeWrite_issuers (s : State) (key pa : Nat) (bs : List Byte) : (s.homeWrite key pa bs).issuers = s.issuers := by
  induction bs generalizing s pa with
  | nil => rfl
  | cons b bs ih => exact (ih _ _).trans (State.homeSet_issuers s key pa b)
@[simp] theorem State.homeWrite_invSeqs (s : State) (key pa : Nat) (bs : List Byte) : (s.homeWrite key pa bs).invSeqs = s.invSeqs := by
  induction bs generalizing s pa with
  | nil => rfl
  | cons b bs ih => exact (ih _ _).trans (State.homeSet_invSeqs s key pa b)
@[simp] theorem State.homeWrite_colDone (s : State) (key pa : Nat) (bs : List Byte) : (s.homeWrite key pa bs).colDone = s.colDone := by
  induction bs generalizing s pa with
  | nil => rfl
  | cons b bs ih => exact (ih _ _).trans (State.homeSet_colDone s key pa b)
@[simp] theorem State.homeWrite_collQ (s : State) (key pa : Nat) (bs : List Byte) : (s.homeWrite key pa bs).collQ = s.collQ := by
  induction bs generalizing s pa with
  | nil => rfl
  | cons b bs ih => exact (ih _ _).trans (State.homeSet_collQ s key pa b)
@[simp] theorem State.homeWrite_credits (s : State) (key pa : Nat) (bs : List Byte) : (s.homeWrite key pa bs).credits = s.credits := by
  induction bs generalizing s pa with
  | nil => rfl
  | cons b bs ih => exact (ih _ _).trans (State.homeSet_credits s key pa b)
@[simp] theorem State.homeWrite_keyNext (s : State) (key pa : Nat) (bs : List Byte) : (s.homeWrite key pa bs).keyNext = s.keyNext := by
  induction bs generalizing s pa with
  | nil => rfl
  | cons b bs ih => exact (ih _ _).trans (State.homeSet_keyNext s key pa b)
@[simp] theorem State.homeWrite_errs (s : State) (key pa : Nat) (bs : List Byte) : (s.homeWrite key pa bs).errs = s.errs := by
  induction bs generalizing s pa with
  | nil => rfl
  | cons b bs ih => exact (ih _ _).trans (State.homeSet_errs s key pa b)
@[simp] theorem State.homeWrite_agenda (s : State) (key pa : Nat) (bs : List Byte) : (s.homeWrite key pa bs).agenda = s.agenda := by
  induction bs generalizing s pa with
  | nil => rfl
  | cons b bs ih => exact (ih _ _).trans (State.homeSet_agenda s key pa b)
@[simp] theorem State.homeWrite_cur (s : State) (key pa : Nat) (bs : List Byte) : (s.homeWrite key pa bs).cur = s.cur := by
  induction bs generalizing s pa with
  | nil => rfl
  | cons b bs ih => exact (ih _ _).trans (State.homeSet_cur s key pa b)
@[simp] theorem State.homeWrite_out (s : State) (key pa : Nat) (bs : List Byte) : (s.homeWrite key pa bs).out = s.out := by
  induction bs generalizing s pa with
  | nil => rfl
  | cons b bs ih => exact (ih _ _).trans (State.homeSet_out s key pa b)
@[simp] theorem State.homeWrite_hostMem (s : State) (key pa : Nat) (bs : List Byte) : (s.homeWrite key pa bs).hostMem = s.hostMem := by
  induction bs generalizing s pa with
  | nil => rfl
  | cons b bs ih => exact (ih _ _).trans (State.homeSet_hostMem s key pa b)
@[simp] theorem State.homeWrite_free (s : State) (key pa : Nat) (bs : List Byte) : (s.homeWrite key pa bs).free = s.free := by
  induction bs generalizing s pa with
  | nil => rfl
  | cons b bs ih => exact (ih _ _).trans (State.homeSet_free s key pa b)
@[simp] theorem State.homeWrite_nextTid (s : State) (key pa : Nat) (bs : List Byte) : (s.homeWrite key pa bs).nextTid = s.nextTid := by
  induction bs generalizing s pa with
  | nil => rfl
  | cons b bs ih => exact (ih _ _).trans (State.homeSet_nextTid s key pa b)
@[simp] theorem State.homeWrite_nextOp (s : State) (key pa : Nat) (bs : List Byte) : (s.homeWrite key pa bs).nextOp = s.nextOp := by
  induction bs generalizing s pa with
  | nil => rfl
  | cons b bs ih => exact (ih _ _).trans (State.homeSet_nextOp s key pa b)
@[simp] theorem State.homeWrite_ticket (s : State) (key pa : Nat) (bs : List Byte) : (s.homeWrite key pa bs).ticket = s.ticket := by
  induction bs generalizing s pa with
  | nil => rfl
  | cons b bs ih => exact (ih _ _).trans (State.homeSet_ticket s key pa b)

/-! ## State.spadWrite -/

@[simp] theorem State.spadWrite_rclk (s : State) (n off : Nat) (bs : List Byte) : (s.spadWrite n off bs).rclk = s.rclk := State.modTeam_rclk s n _
@[simp] theorem State.spadWrite_home (s : State) (n off : Nat) (bs : List Byte) : (s.spadWrite n off bs).home = s.home := State.modTeam_home s n _
@[simp] theorem State.spadWrite_lineKey (s : State) (n off : Nat) (bs : List Byte) : (s.spadWrite n off bs).lineKey = s.lineKey := State.modTeam_lineKey s n _
@[simp] theorem State.spadWrite_packed (s : State) (n off : Nat) (bs : List Byte) : (s.spadWrite n off bs).packed = s.packed := State.modTeam_packed s n _
@[simp] theorem State.spadWrite_memdone (s : State) (n off : Nat) (bs : List Byte) : (s.spadWrite n off bs).memdone = s.memdone := State.modTeam_memdone s n _
@[simp] theorem State.spadWrite_caldone (s : State) (n off : Nat) (bs : List Byte) : (s.spadWrite n off bs).caldone = s.caldone := State.modTeam_caldone s n _
@[simp] theorem State.spadWrite_imgfail (s : State) (n off : Nat) (bs : List Byte) : (s.spadWrite n off bs).imgfail = s.imgfail := State.modTeam_imgfail s n _
@[simp] theorem State.spadWrite_ready (s : State) (n off : Nat) (bs : List Byte) : (s.spadWrite n off bs).ready = s.ready := State.modTeam_ready s n _
@[simp] theorem State.spadWrite_clparterr (s : State) (n off : Nat) (bs : List Byte) : (s.spadWrite n off bs).clparterr = s.clparterr := State.modTeam_clparterr s n _
@[simp] theorem State.spadWrite_pfBusy (s : State) (n off : Nat) (bs : List Byte) : (s.spadWrite n off bs).pfBusy = s.pfBusy := State.modTeam_pfBusy s n _
@[simp] theorem State.spadWrite_pfErr (s : State) (n off : Nat) (bs : List Byte) : (s.spadWrite n off bs).pfErr = s.pfErr := State.modTeam_pfErr s n _
@[simp] theorem State.spadWrite_pfWord (s : State) (n off : Nat) (bs : List Byte) : (s.spadWrite n off bs).pfWord = s.pfWord := State.modTeam_pfWord s n _
@[simp] theorem State.spadWrite_pfOps (s : State) (n off : Nat) (bs : List Byte) : (s.spadWrite n off bs).pfOps = s.pfOps := State.modTeam_pfOps s n _
@[simp] theorem State.spadWrite_cores (s : State) (n off : Nat) (bs : List Byte) : (s.spadWrite n off bs).cores = s.cores := State.modTeam_cores s n _
@[simp] theorem State.spadWrite_clusters (s : State) (n off : Nat) (bs : List Byte) : (s.spadWrite n off bs).clusters = s.clusters := State.modTeam_clusters s n _
@[simp] theorem State.spadWrite_parts (s : State) (n off : Nat) (bs : List Byte) : (s.spadWrite n off bs).parts = s.parts := State.modTeam_parts s n _
@[simp] theorem State.spadWrite_paths (s : State) (n off : Nat) (bs : List Byte) : (s.spadWrite n off bs).paths = s.paths := State.modTeam_paths s n _
@[simp] theorem State.spadWrite_pathUpds (s : State) (n off : Nat) (bs : List Byte) : (s.spadWrite n off bs).pathUpds = s.pathUpds := State.modTeam_pathUpds s n _
@[simp] theorem State.spadWrite_handles (s : State) (n off : Nat) (bs : List Byte) : (s.spadWrite n off bs).handles = s.handles := State.modTeam_handles s n _
@[simp] theorem State.spadWrite_opt (s : State) (n off : Nat) (bs : List Byte) : (s.spadWrite n off bs).opt = s.opt := State.modTeam_opt s n _
@[simp] theorem State.spadWrite_units (s : State) (n off : Nat) (bs : List Byte) : (s.spadWrite n off bs).units = s.units := State.modTeam_units s n _
@[simp] theorem State.spadWrite_errcnt (s : State) (n off : Nat) (bs : List Byte) : (s.spadWrite n off bs).errcnt = s.errcnt := State.modTeam_errcnt s n _
@[simp] theorem State.spadWrite_ports (s : State) (n off : Nat) (bs : List Byte) : (s.spadWrite n off bs).ports = s.ports := State.modTeam_ports s n _
@[simp] theorem State.spadWrite_edges (s : State) (n off : Nat) (bs : List Byte) : (s.spadWrite n off bs).edges = s.edges := State.modTeam_edges s n _
@[simp] theorem State.spadWrite_slot (s : State) (n off : Nat) (bs : List Byte) : (s.spadWrite n off bs).slot = s.slot := State.modTeam_slot s n _
@[simp] theorem State.spadWrite_slotOk (s : State) (n off : Nat) (bs : List Byte) : (s.spadWrite n off bs).slotOk = s.slotOk := State.modTeam_slotOk s n _
@[simp] theorem State.spadWrite_runImage (s : State) (n off : Nat) (bs : List Byte) : (s.spadWrite n off bs).runImage = s.runImage := State.modTeam_runImage s n _
@[simp] theorem State.spadWrite_reefSeq (s : State) (n off : Nat) (bs : List Byte) : (s.spadWrite n off bs).reefSeq = s.reefSeq := State.modTeam_reefSeq s n _
@[simp] theorem State.spadWrite_reefLevels (s : State) (n off : Nat) (bs : List Byte) : (s.spadWrite n off bs).reefLevels = s.reefLevels := State.modTeam_reefLevels s n _
@[simp] theorem State.spadWrite_pathSeq (s : State) (n off : Nat) (bs : List Byte) : (s.spadWrite n off bs).pathSeq = s.pathSeq := State.modTeam_pathSeq s n _
@[simp] theorem State.spadWrite_eid (s : State) (n off : Nat) (bs : List Byte) : (s.spadWrite n off bs).eid = s.eid := State.modTeam_eid s n _
@[simp] theorem State.spadWrite_spdm (s : State) (n off : Nat) (bs : List Byte) : (s.spadWrite n off bs).spdm = s.spdm := State.modTeam_spdm s n _
@[simp] theorem State.spadWrite_cxlWidth (s : State) (n off : Nat) (bs : List Byte) : (s.spadWrite n off bs).cxlWidth = s.cxlWidth := State.modTeam_cxlWidth s n _
@[simp] theorem State.spadWrite_reqs (s : State) (n off : Nat) (bs : List Byte) : (s.spadWrite n off bs).reqs = s.reqs := State.modTeam_reqs s n _
@[simp] theorem State.spadWrite_nextTag (s : State) (n off : Nat) (bs : List Byte) : (s.spadWrite n off bs).nextTag = s.nextTag := State.modTeam_nextTag s n _
@[simp] theorem State.spadWrite_releases (s : State) (n off : Nat) (bs : List Byte) : (s.spadWrite n off bs).releases = s.releases := State.modTeam_releases s n _
@[simp] theorem State.spadWrite_marks (s : State) (n off : Nat) (bs : List Byte) : (s.spadWrite n off bs).marks = s.marks := State.modTeam_marks s n _
@[simp] theorem State.spadWrite_goneW (s : State) (n off : Nat) (bs : List Byte) : (s.spadWrite n off bs).goneW = s.goneW := State.modTeam_goneW s n _
@[simp] theorem State.spadWrite_lineSeq (s : State) (n off : Nat) (bs : List Byte) : (s.spadWrite n off bs).lineSeq = s.lineSeq := State.modTeam_lineSeq s n _
@[simp] theorem State.spadWrite_colls (s : State) (n off : Nat) (bs : List Byte) : (s.spadWrite n off bs).colls = s.colls := State.modTeam_colls s n _
@[simp] theorem State.spadWrite_srcs (s : State) (n off : Nat) (bs : List Byte) : (s.spadWrite n off bs).srcs = s.srcs := State.modTeam_srcs s n _
@[simp] theorem State.spadWrite_issuers (s : State) (n off : Nat) (bs : List Byte) : (s.spadWrite n off bs).issuers = s.issuers := State.modTeam_issuers s n _
@[simp] theorem State.spadWrite_invSeqs (s : State) (n off : Nat) (bs : List Byte) : (s.spadWrite n off bs).invSeqs = s.invSeqs := State.modTeam_invSeqs s n _
@[simp] theorem State.spadWrite_colDone (s : State) (n off : Nat) (bs : List Byte) : (s.spadWrite n off bs).colDone = s.colDone := State.modTeam_colDone s n _
@[simp] theorem State.spadWrite_collQ (s : State) (n off : Nat) (bs : List Byte) : (s.spadWrite n off bs).collQ = s.collQ := State.modTeam_collQ s n _
@[simp] theorem State.spadWrite_credits (s : State) (n off : Nat) (bs : List Byte) : (s.spadWrite n off bs).credits = s.credits := State.modTeam_credits s n _
@[simp] theorem State.spadWrite_keyNext (s : State) (n off : Nat) (bs : List Byte) : (s.spadWrite n off bs).keyNext = s.keyNext := State.modTeam_keyNext s n _
@[simp] theorem State.spadWrite_errs (s : State) (n off : Nat) (bs : List Byte) : (s.spadWrite n off bs).errs = s.errs := State.modTeam_errs s n _
@[simp] theorem State.spadWrite_agenda (s : State) (n off : Nat) (bs : List Byte) : (s.spadWrite n off bs).agenda = s.agenda := State.modTeam_agenda s n _
@[simp] theorem State.spadWrite_cur (s : State) (n off : Nat) (bs : List Byte) : (s.spadWrite n off bs).cur = s.cur := State.modTeam_cur s n _
@[simp] theorem State.spadWrite_out (s : State) (n off : Nat) (bs : List Byte) : (s.spadWrite n off bs).out = s.out := State.modTeam_out s n _
@[simp] theorem State.spadWrite_hostMem (s : State) (n off : Nat) (bs : List Byte) : (s.spadWrite n off bs).hostMem = s.hostMem := State.modTeam_hostMem s n _
@[simp] theorem State.spadWrite_free (s : State) (n off : Nat) (bs : List Byte) : (s.spadWrite n off bs).free = s.free := State.modTeam_free s n _
@[simp] theorem State.spadWrite_nextTid (s : State) (n off : Nat) (bs : List Byte) : (s.spadWrite n off bs).nextTid = s.nextTid := State.modTeam_nextTid s n _
@[simp] theorem State.spadWrite_nextOp (s : State) (n off : Nat) (bs : List Byte) : (s.spadWrite n off bs).nextOp = s.nextOp := State.modTeam_nextOp s n _

/-! ## State.clearIdem -/

@[simp] theorem State.clearIdem_rclk (s : State) (n : Nat) : (s.clearIdem n).rclk = s.rclk := State.modTeam_rclk s n _
@[simp] theorem State.clearIdem_home (s : State) (n : Nat) : (s.clearIdem n).home = s.home := State.modTeam_home s n _
@[simp] theorem State.clearIdem_lineKey (s : State) (n : Nat) : (s.clearIdem n).lineKey = s.lineKey := State.modTeam_lineKey s n _
@[simp] theorem State.clearIdem_packed (s : State) (n : Nat) : (s.clearIdem n).packed = s.packed := State.modTeam_packed s n _
@[simp] theorem State.clearIdem_memdone (s : State) (n : Nat) : (s.clearIdem n).memdone = s.memdone := State.modTeam_memdone s n _
@[simp] theorem State.clearIdem_caldone (s : State) (n : Nat) : (s.clearIdem n).caldone = s.caldone := State.modTeam_caldone s n _
@[simp] theorem State.clearIdem_imgfail (s : State) (n : Nat) : (s.clearIdem n).imgfail = s.imgfail := State.modTeam_imgfail s n _
@[simp] theorem State.clearIdem_ready (s : State) (n : Nat) : (s.clearIdem n).ready = s.ready := State.modTeam_ready s n _
@[simp] theorem State.clearIdem_clparterr (s : State) (n : Nat) : (s.clearIdem n).clparterr = s.clparterr := State.modTeam_clparterr s n _
@[simp] theorem State.clearIdem_pfBusy (s : State) (n : Nat) : (s.clearIdem n).pfBusy = s.pfBusy := State.modTeam_pfBusy s n _
@[simp] theorem State.clearIdem_pfErr (s : State) (n : Nat) : (s.clearIdem n).pfErr = s.pfErr := State.modTeam_pfErr s n _
@[simp] theorem State.clearIdem_pfWord (s : State) (n : Nat) : (s.clearIdem n).pfWord = s.pfWord := State.modTeam_pfWord s n _
@[simp] theorem State.clearIdem_pfOps (s : State) (n : Nat) : (s.clearIdem n).pfOps = s.pfOps := State.modTeam_pfOps s n _
@[simp] theorem State.clearIdem_cores (s : State) (n : Nat) : (s.clearIdem n).cores = s.cores := State.modTeam_cores s n _
@[simp] theorem State.clearIdem_clusters (s : State) (n : Nat) : (s.clearIdem n).clusters = s.clusters := State.modTeam_clusters s n _
@[simp] theorem State.clearIdem_parts (s : State) (n : Nat) : (s.clearIdem n).parts = s.parts := State.modTeam_parts s n _
@[simp] theorem State.clearIdem_paths (s : State) (n : Nat) : (s.clearIdem n).paths = s.paths := State.modTeam_paths s n _
@[simp] theorem State.clearIdem_pathUpds (s : State) (n : Nat) : (s.clearIdem n).pathUpds = s.pathUpds := State.modTeam_pathUpds s n _
@[simp] theorem State.clearIdem_handles (s : State) (n : Nat) : (s.clearIdem n).handles = s.handles := State.modTeam_handles s n _
@[simp] theorem State.clearIdem_opt (s : State) (n : Nat) : (s.clearIdem n).opt = s.opt := State.modTeam_opt s n _
@[simp] theorem State.clearIdem_units (s : State) (n : Nat) : (s.clearIdem n).units = s.units := State.modTeam_units s n _
@[simp] theorem State.clearIdem_errcnt (s : State) (n : Nat) : (s.clearIdem n).errcnt = s.errcnt := State.modTeam_errcnt s n _
@[simp] theorem State.clearIdem_ports (s : State) (n : Nat) : (s.clearIdem n).ports = s.ports := State.modTeam_ports s n _
@[simp] theorem State.clearIdem_edges (s : State) (n : Nat) : (s.clearIdem n).edges = s.edges := State.modTeam_edges s n _
@[simp] theorem State.clearIdem_slot (s : State) (n : Nat) : (s.clearIdem n).slot = s.slot := State.modTeam_slot s n _
@[simp] theorem State.clearIdem_slotOk (s : State) (n : Nat) : (s.clearIdem n).slotOk = s.slotOk := State.modTeam_slotOk s n _
@[simp] theorem State.clearIdem_runImage (s : State) (n : Nat) : (s.clearIdem n).runImage = s.runImage := State.modTeam_runImage s n _
@[simp] theorem State.clearIdem_reefSeq (s : State) (n : Nat) : (s.clearIdem n).reefSeq = s.reefSeq := State.modTeam_reefSeq s n _
@[simp] theorem State.clearIdem_reefLevels (s : State) (n : Nat) : (s.clearIdem n).reefLevels = s.reefLevels := State.modTeam_reefLevels s n _
@[simp] theorem State.clearIdem_pathSeq (s : State) (n : Nat) : (s.clearIdem n).pathSeq = s.pathSeq := State.modTeam_pathSeq s n _
@[simp] theorem State.clearIdem_eid (s : State) (n : Nat) : (s.clearIdem n).eid = s.eid := State.modTeam_eid s n _
@[simp] theorem State.clearIdem_spdm (s : State) (n : Nat) : (s.clearIdem n).spdm = s.spdm := State.modTeam_spdm s n _
@[simp] theorem State.clearIdem_cxlWidth (s : State) (n : Nat) : (s.clearIdem n).cxlWidth = s.cxlWidth := State.modTeam_cxlWidth s n _
@[simp] theorem State.clearIdem_reqs (s : State) (n : Nat) : (s.clearIdem n).reqs = s.reqs := State.modTeam_reqs s n _
@[simp] theorem State.clearIdem_nextTag (s : State) (n : Nat) : (s.clearIdem n).nextTag = s.nextTag := State.modTeam_nextTag s n _
@[simp] theorem State.clearIdem_releases (s : State) (n : Nat) : (s.clearIdem n).releases = s.releases := State.modTeam_releases s n _
@[simp] theorem State.clearIdem_marks (s : State) (n : Nat) : (s.clearIdem n).marks = s.marks := State.modTeam_marks s n _
@[simp] theorem State.clearIdem_goneW (s : State) (n : Nat) : (s.clearIdem n).goneW = s.goneW := State.modTeam_goneW s n _
@[simp] theorem State.clearIdem_lineSeq (s : State) (n : Nat) : (s.clearIdem n).lineSeq = s.lineSeq := State.modTeam_lineSeq s n _
@[simp] theorem State.clearIdem_colls (s : State) (n : Nat) : (s.clearIdem n).colls = s.colls := State.modTeam_colls s n _
@[simp] theorem State.clearIdem_srcs (s : State) (n : Nat) : (s.clearIdem n).srcs = s.srcs := State.modTeam_srcs s n _
@[simp] theorem State.clearIdem_issuers (s : State) (n : Nat) : (s.clearIdem n).issuers = s.issuers := State.modTeam_issuers s n _
@[simp] theorem State.clearIdem_invSeqs (s : State) (n : Nat) : (s.clearIdem n).invSeqs = s.invSeqs := State.modTeam_invSeqs s n _
@[simp] theorem State.clearIdem_colDone (s : State) (n : Nat) : (s.clearIdem n).colDone = s.colDone := State.modTeam_colDone s n _
@[simp] theorem State.clearIdem_collQ (s : State) (n : Nat) : (s.clearIdem n).collQ = s.collQ := State.modTeam_collQ s n _
@[simp] theorem State.clearIdem_credits (s : State) (n : Nat) : (s.clearIdem n).credits = s.credits := State.modTeam_credits s n _
@[simp] theorem State.clearIdem_keyNext (s : State) (n : Nat) : (s.clearIdem n).keyNext = s.keyNext := State.modTeam_keyNext s n _
@[simp] theorem State.clearIdem_errs (s : State) (n : Nat) : (s.clearIdem n).errs = s.errs := State.modTeam_errs s n _
@[simp] theorem State.clearIdem_agenda (s : State) (n : Nat) : (s.clearIdem n).agenda = s.agenda := State.modTeam_agenda s n _
@[simp] theorem State.clearIdem_cur (s : State) (n : Nat) : (s.clearIdem n).cur = s.cur := State.modTeam_cur s n _
@[simp] theorem State.clearIdem_out (s : State) (n : Nat) : (s.clearIdem n).out = s.out := State.modTeam_out s n _
@[simp] theorem State.clearIdem_hostMem (s : State) (n : Nat) : (s.clearIdem n).hostMem = s.hostMem := State.modTeam_hostMem s n _
@[simp] theorem State.clearIdem_free (s : State) (n : Nat) : (s.clearIdem n).free = s.free := State.modTeam_free s n _
@[simp] theorem State.clearIdem_nextTid (s : State) (n : Nat) : (s.clearIdem n).nextTid = s.nextTid := State.modTeam_nextTid s n _
@[simp] theorem State.clearIdem_nextOp (s : State) (n : Nat) : (s.clearIdem n).nextOp = s.nextOp := State.modTeam_nextOp s n _
@[simp] theorem State.clearIdem_ticket (s : State) (n : Nat) : (s.clearIdem n).ticket = s.ticket := State.modTeam_ticket s n _

/-! ## State.endOp -/

@[simp] theorem State.endOp_rclk (s : State) (n g id : Nat) : (s.endOp n g id).rclk = s.rclk := State.modTeam_rclk s n _
@[simp] theorem State.endOp_home (s : State) (n g id : Nat) : (s.endOp n g id).home = s.home := State.modTeam_home s n _
@[simp] theorem State.endOp_lineKey (s : State) (n g id : Nat) : (s.endOp n g id).lineKey = s.lineKey := State.modTeam_lineKey s n _
@[simp] theorem State.endOp_packed (s : State) (n g id : Nat) : (s.endOp n g id).packed = s.packed := State.modTeam_packed s n _
@[simp] theorem State.endOp_memdone (s : State) (n g id : Nat) : (s.endOp n g id).memdone = s.memdone := State.modTeam_memdone s n _
@[simp] theorem State.endOp_caldone (s : State) (n g id : Nat) : (s.endOp n g id).caldone = s.caldone := State.modTeam_caldone s n _
@[simp] theorem State.endOp_imgfail (s : State) (n g id : Nat) : (s.endOp n g id).imgfail = s.imgfail := State.modTeam_imgfail s n _
@[simp] theorem State.endOp_ready (s : State) (n g id : Nat) : (s.endOp n g id).ready = s.ready := State.modTeam_ready s n _
@[simp] theorem State.endOp_clparterr (s : State) (n g id : Nat) : (s.endOp n g id).clparterr = s.clparterr := State.modTeam_clparterr s n _
@[simp] theorem State.endOp_pfBusy (s : State) (n g id : Nat) : (s.endOp n g id).pfBusy = s.pfBusy := State.modTeam_pfBusy s n _
@[simp] theorem State.endOp_pfErr (s : State) (n g id : Nat) : (s.endOp n g id).pfErr = s.pfErr := State.modTeam_pfErr s n _
@[simp] theorem State.endOp_pfWord (s : State) (n g id : Nat) : (s.endOp n g id).pfWord = s.pfWord := State.modTeam_pfWord s n _
@[simp] theorem State.endOp_pfOps (s : State) (n g id : Nat) : (s.endOp n g id).pfOps = s.pfOps := State.modTeam_pfOps s n _
@[simp] theorem State.endOp_cores (s : State) (n g id : Nat) : (s.endOp n g id).cores = s.cores := State.modTeam_cores s n _
@[simp] theorem State.endOp_clusters (s : State) (n g id : Nat) : (s.endOp n g id).clusters = s.clusters := State.modTeam_clusters s n _
@[simp] theorem State.endOp_parts (s : State) (n g id : Nat) : (s.endOp n g id).parts = s.parts := State.modTeam_parts s n _
@[simp] theorem State.endOp_paths (s : State) (n g id : Nat) : (s.endOp n g id).paths = s.paths := State.modTeam_paths s n _
@[simp] theorem State.endOp_pathUpds (s : State) (n g id : Nat) : (s.endOp n g id).pathUpds = s.pathUpds := State.modTeam_pathUpds s n _
@[simp] theorem State.endOp_handles (s : State) (n g id : Nat) : (s.endOp n g id).handles = s.handles := State.modTeam_handles s n _
@[simp] theorem State.endOp_opt (s : State) (n g id : Nat) : (s.endOp n g id).opt = s.opt := State.modTeam_opt s n _
@[simp] theorem State.endOp_units (s : State) (n g id : Nat) : (s.endOp n g id).units = s.units := State.modTeam_units s n _
@[simp] theorem State.endOp_errcnt (s : State) (n g id : Nat) : (s.endOp n g id).errcnt = s.errcnt := State.modTeam_errcnt s n _
@[simp] theorem State.endOp_ports (s : State) (n g id : Nat) : (s.endOp n g id).ports = s.ports := State.modTeam_ports s n _
@[simp] theorem State.endOp_edges (s : State) (n g id : Nat) : (s.endOp n g id).edges = s.edges := State.modTeam_edges s n _
@[simp] theorem State.endOp_slot (s : State) (n g id : Nat) : (s.endOp n g id).slot = s.slot := State.modTeam_slot s n _
@[simp] theorem State.endOp_slotOk (s : State) (n g id : Nat) : (s.endOp n g id).slotOk = s.slotOk := State.modTeam_slotOk s n _
@[simp] theorem State.endOp_runImage (s : State) (n g id : Nat) : (s.endOp n g id).runImage = s.runImage := State.modTeam_runImage s n _
@[simp] theorem State.endOp_reefSeq (s : State) (n g id : Nat) : (s.endOp n g id).reefSeq = s.reefSeq := State.modTeam_reefSeq s n _
@[simp] theorem State.endOp_reefLevels (s : State) (n g id : Nat) : (s.endOp n g id).reefLevels = s.reefLevels := State.modTeam_reefLevels s n _
@[simp] theorem State.endOp_pathSeq (s : State) (n g id : Nat) : (s.endOp n g id).pathSeq = s.pathSeq := State.modTeam_pathSeq s n _
@[simp] theorem State.endOp_eid (s : State) (n g id : Nat) : (s.endOp n g id).eid = s.eid := State.modTeam_eid s n _
@[simp] theorem State.endOp_spdm (s : State) (n g id : Nat) : (s.endOp n g id).spdm = s.spdm := State.modTeam_spdm s n _
@[simp] theorem State.endOp_cxlWidth (s : State) (n g id : Nat) : (s.endOp n g id).cxlWidth = s.cxlWidth := State.modTeam_cxlWidth s n _
@[simp] theorem State.endOp_reqs (s : State) (n g id : Nat) : (s.endOp n g id).reqs = s.reqs := State.modTeam_reqs s n _
@[simp] theorem State.endOp_nextTag (s : State) (n g id : Nat) : (s.endOp n g id).nextTag = s.nextTag := State.modTeam_nextTag s n _
@[simp] theorem State.endOp_releases (s : State) (n g id : Nat) : (s.endOp n g id).releases = s.releases := State.modTeam_releases s n _
@[simp] theorem State.endOp_marks (s : State) (n g id : Nat) : (s.endOp n g id).marks = s.marks := State.modTeam_marks s n _
@[simp] theorem State.endOp_goneW (s : State) (n g id : Nat) : (s.endOp n g id).goneW = s.goneW := State.modTeam_goneW s n _
@[simp] theorem State.endOp_lineSeq (s : State) (n g id : Nat) : (s.endOp n g id).lineSeq = s.lineSeq := State.modTeam_lineSeq s n _
@[simp] theorem State.endOp_colls (s : State) (n g id : Nat) : (s.endOp n g id).colls = s.colls := State.modTeam_colls s n _
@[simp] theorem State.endOp_srcs (s : State) (n g id : Nat) : (s.endOp n g id).srcs = s.srcs := State.modTeam_srcs s n _
@[simp] theorem State.endOp_issuers (s : State) (n g id : Nat) : (s.endOp n g id).issuers = s.issuers := State.modTeam_issuers s n _
@[simp] theorem State.endOp_invSeqs (s : State) (n g id : Nat) : (s.endOp n g id).invSeqs = s.invSeqs := State.modTeam_invSeqs s n _
@[simp] theorem State.endOp_colDone (s : State) (n g id : Nat) : (s.endOp n g id).colDone = s.colDone := State.modTeam_colDone s n _
@[simp] theorem State.endOp_collQ (s : State) (n g id : Nat) : (s.endOp n g id).collQ = s.collQ := State.modTeam_collQ s n _
@[simp] theorem State.endOp_credits (s : State) (n g id : Nat) : (s.endOp n g id).credits = s.credits := State.modTeam_credits s n _
@[simp] theorem State.endOp_keyNext (s : State) (n g id : Nat) : (s.endOp n g id).keyNext = s.keyNext := State.modTeam_keyNext s n _
@[simp] theorem State.endOp_errs (s : State) (n g id : Nat) : (s.endOp n g id).errs = s.errs := State.modTeam_errs s n _
@[simp] theorem State.endOp_agenda (s : State) (n g id : Nat) : (s.endOp n g id).agenda = s.agenda := State.modTeam_agenda s n _
@[simp] theorem State.endOp_cur (s : State) (n g id : Nat) : (s.endOp n g id).cur = s.cur := State.modTeam_cur s n _
@[simp] theorem State.endOp_out (s : State) (n g id : Nat) : (s.endOp n g id).out = s.out := State.modTeam_out s n _
@[simp] theorem State.endOp_hostMem (s : State) (n g id : Nat) : (s.endOp n g id).hostMem = s.hostMem := State.modTeam_hostMem s n _
@[simp] theorem State.endOp_free (s : State) (n g id : Nat) : (s.endOp n g id).free = s.free := State.modTeam_free s n _
@[simp] theorem State.endOp_nextTid (s : State) (n g id : Nat) : (s.endOp n g id).nextTid = s.nextTid := State.modTeam_nextTid s n _
@[simp] theorem State.endOp_nextOp (s : State) (n g id : Nat) : (s.endOp n g id).nextOp = s.nextOp := State.modTeam_nextOp s n _
@[simp] theorem State.endOp_ticket (s : State) (n g id : Nat) : (s.endOp n g id).ticket = s.ticket := State.modTeam_ticket s n _

/-! ## What the updates write -/

@[simp] theorem State.team?_setTeam (s : State) (n k : Nat) (t : Team) :
    (s.setTeam n t).team? k = if k = n then some t else s.team? k := SMap.find_put _ _ _ _

@[simp] theorem State.team?_modTeam (s : State) (n k : Nat) (f : Team → Team) :
    (s.modTeam n f).team? k = if k = n then (s.team? k).map f else s.team? k := by
  unfold State.modTeam
  split
  · rename_i t h
    rw [State.team?_setTeam]
    by_cases e : k = n
    · subst e; simp [h]
    · simp [e]
  · rename_i h
    by_cases e : k = n
    · subst e; simp [h]
    · simp [e]

theorem State.modTeam_eq {s : State} {n : Nat} {t : Team} (h : s.team? n = some t) (f : Team → Team) :
    s.modTeam n f = s.setTeam n (f t) := by simp [State.modTeam, h]

theorem modAt_getElem? {α : Type} (xs : List α) (i j : Nat) (f : α → α) :
    (modAt xs i f)[j]? = if j = i then xs[j]?.map f else xs[j]? := by
  unfold modAt
  rw [List.getElem?_modify]
  by_cases h : j = i
  · subst h; simp
  · have h2 : ¬ i = j := fun e => h e.symm
    simp [h, h2]

@[simp] theorem modAt_length {α : Type} (xs : List α) (i : Nat) (f : α → α) : (modAt xs i f).length = xs.length := by
  simp [modAt]

@[simp] theorem State.group?_modGroup (s : State) (n g k j : Nat) (f : Group → Group) :
    (s.modGroup n g f).group? k j
      = if k = n ∧ j = g then (s.group? k j).map f else s.group? k j := by
  unfold State.group? State.modGroup
  rw [State.team?_modTeam]
  by_cases e : k = n
  · subst e
    cases h : s.team? k with
    | none => simp
    | some t => simp [Team.modGroup, modAt_getElem?]
  · simp [e]

@[simp] theorem State.core_setCore (s : State) (n k : Nat) (c : Core) :
    (s.setCore n c).core k = if k = n then c else s.core k := SMap.get_set _ _ _ _ _

@[simp] theorem State.core_modCore (s : State) (n k : Nat) (f : Core → Core) :
    (s.modCore n f).core k = if k = n then f (s.core k) else s.core k := by
  unfold State.modCore
  rw [State.core_setCore]
  by_cases e : k = n
  · subst e; simp
  · simp [e]

@[simp] theorem State.cluster_setCluster (s : State) (n k : Nat) (c : Cluster) :
    (s.setCluster n c).cluster k = if k = n then c else s.cluster k := SMap.get_set _ _ _ _ _

@[simp] theorem State.cluster_modCluster (s : State) (n k : Nat) (f : Cluster → Cluster) :
    (s.modCluster n f).cluster k = if k = n then f (s.cluster k) else s.cluster k := by
  unfold State.modCluster
  rw [State.cluster_setCluster]
  by_cases e : k = n
  · subst e; simp
  · simp [e]

@[simp] theorem State.part_setPart (s : State) (n k : Nat) (p : Partition) :
    (s.setPart n p).part k = if k = n then p else s.part k := SMap.get_set _ _ _ _ _

@[simp] theorem State.part_modPart (s : State) (n k : Nat) (f : Partition → Partition) :
    (s.modPart n f).part k = if k = n then f (s.part k) else s.part k := by
  unfold State.modPart
  rw [State.part_setPart]
  by_cases e : k = n
  · subst e; simp
  · simp [e]

@[simp] theorem State.ctx_setCtx (s : State) (p n q k : Nat) (c : Context) :
    (s.setCtx p n c).ctx q k = if q = p ∧ k = n then c else s.ctx q k := by
  unfold State.ctx State.setCtx
  rw [State.part_modPart]
  by_cases e : q = p
  · subst e
    simp [SMap.get_set]
  · simp [e]

@[simp] theorem State.ctx_modCtx (s : State) (p n q k : Nat) (f : Context → Context) :
    (s.modCtx p n f).ctx q k = if q = p ∧ k = n then f (s.ctx q k) else s.ctx q k := by
  unfold State.modCtx
  rw [State.ctx_setCtx]
  by_cases e : q = p ∧ k = n
  · obtain ⟨rfl, rfl⟩ := e; simp
  · simp [e]

/-! ## Lookups through updates of other fields -/

@[simp] theorem State.team?_setCore (s : State) (n : Nat) (c : Core) (i : Nat) : (s.setCore n c).team? i = s.team? i := by rw [State.team?, State.setCore_teams s n c, State.team?]
@[simp] theorem State.team?_modCore (s : State) (n : Nat) (f : Core → Core) (i : Nat) : (s.modCore n f).team? i = s.team? i := by rw [State.team?, State.modCore_teams s n f, State.team?]
@[simp] theorem State.team?_modDxp (s : State) (n : Nat) (f : Dxp → Dxp) (i : Nat) : (s.modDxp n f).team? i = s.team? i := by rw [State.team?, State.modDxp_teams s n f, State.team?]
@[simp] theorem State.team?_setCluster (s : State) (n : Nat) (c : Cluster) (i : Nat) : (s.setCluster n c).team? i = s.team? i := by rw [State.team?, State.setCluster_teams s n c, State.team?]
@[simp] theorem State.team?_modCluster (s : State) (n : Nat) (f : Cluster → Cluster) (i : Nat) : (s.modCluster n f).team? i = s.team? i := by rw [State.team?, State.modCluster_teams s n f, State.team?]
@[simp] theorem State.team?_setPart (s : State) (n : Nat) (p : Partition) (i : Nat) : (s.setPart n p).team? i = s.team? i := by rw [State.team?, State.setPart_teams s n p, State.team?]
@[simp] theorem State.team?_modPart (s : State) (n : Nat) (f : Partition → Partition) (i : Nat) : (s.modPart n f).team? i = s.team? i := by rw [State.team?, State.modPart_teams s n f, State.team?]
@[simp] theorem State.team?_setCtx (s : State) (p n : Nat) (c : Context) (i : Nat) : (s.setCtx p n c).team? i = s.team? i := by rw [State.team?, State.setCtx_teams s p n c, State.team?]
@[simp] theorem State.team?_modCtx (s : State) (p n : Nat) (f : Context → Context) (i : Nat) : (s.modCtx p n f).team? i = s.team? i := by rw [State.team?, State.modCtx_teams s p n f, State.team?]
@[simp] theorem State.team?_emit (s : State) (o : Out) (i : Nat) : (s.emit o).team? i = s.team? i := by rw [State.team?, State.emit_teams s o, State.team?]
@[simp] theorem State.team?_count (s : State) (core event n : Nat) (i : Nat) : (s.count core event n).team? i = s.team? i := by rw [State.team?, State.count_teams s core event n, State.team?]
@[simp] theorem State.team?_countUnit (s : State) (u part event n : Nat) (i : Nat) : (s.countUnit u part event n).team? i = s.team? i := by rw [State.team?, State.countUnit_teams s u part event n, State.team?]
@[simp] theorem State.team?_hostWrite (s : State) (a : Nat) (bs : List Byte) (i : Nat) : (s.hostWrite a bs).team? i = s.team? i := by rw [State.team?, State.hostWrite_teams s a bs, State.team?]
@[simp] theorem State.team?_rekey (s : State) (key pa : Nat) (i : Nat) : (s.rekey key pa).team? i = s.team? i := by rw [State.team?, State.rekey_teams s key pa, State.team?]
@[simp] theorem State.team?_homeSet (s : State) (key pa : Nat) (b : Byte) (i : Nat) : (s.homeSet key pa b).team? i = s.team? i := by rw [State.team?, State.homeSet_teams s key pa b, State.team?]
@[simp] theorem State.team?_homeWrite (s : State) (key pa : Nat) (bs : List Byte) (i : Nat) : (s.homeWrite key pa bs).team? i = s.team? i := by rw [State.team?, State.homeWrite_teams s key pa bs, State.team?]
@[simp] theorem State.group?_setCore (s : State) (n : Nat) (c : Core) (i j : Nat) : (s.setCore n c).group? i j = s.group? i j := by rw [State.group?, State.team?_setCore, State.group?]
@[simp] theorem State.group?_modCore (s : State) (n : Nat) (f : Core → Core) (i j : Nat) : (s.modCore n f).group? i j = s.group? i j := by rw [State.group?, State.team?_modCore, State.group?]
@[simp] theorem State.group?_modDxp (s : State) (n : Nat) (f : Dxp → Dxp) (i j : Nat) : (s.modDxp n f).group? i j = s.group? i j := by rw [State.group?, State.team?_modDxp, State.group?]
@[simp] theorem State.group?_setCluster (s : State) (n : Nat) (c : Cluster) (i j : Nat) : (s.setCluster n c).group? i j = s.group? i j := by rw [State.group?, State.team?_setCluster, State.group?]
@[simp] theorem State.group?_modCluster (s : State) (n : Nat) (f : Cluster → Cluster) (i j : Nat) : (s.modCluster n f).group? i j = s.group? i j := by rw [State.group?, State.team?_modCluster, State.group?]
@[simp] theorem State.group?_setPart (s : State) (n : Nat) (p : Partition) (i j : Nat) : (s.setPart n p).group? i j = s.group? i j := by rw [State.group?, State.team?_setPart, State.group?]
@[simp] theorem State.group?_modPart (s : State) (n : Nat) (f : Partition → Partition) (i j : Nat) : (s.modPart n f).group? i j = s.group? i j := by rw [State.group?, State.team?_modPart, State.group?]
@[simp] theorem State.group?_setCtx (s : State) (p n : Nat) (c : Context) (i j : Nat) : (s.setCtx p n c).group? i j = s.group? i j := by rw [State.group?, State.team?_setCtx, State.group?]
@[simp] theorem State.group?_modCtx (s : State) (p n : Nat) (f : Context → Context) (i j : Nat) : (s.modCtx p n f).group? i j = s.group? i j := by rw [State.group?, State.team?_modCtx, State.group?]
@[simp] theorem State.group?_emit (s : State) (o : Out) (i j : Nat) : (s.emit o).group? i j = s.group? i j := by rw [State.group?, State.team?_emit, State.group?]
@[simp] theorem State.group?_count (s : State) (core event n : Nat) (i j : Nat) : (s.count core event n).group? i j = s.group? i j := by rw [State.group?, State.team?_count, State.group?]
@[simp] theorem State.group?_countUnit (s : State) (u part event n : Nat) (i j : Nat) : (s.countUnit u part event n).group? i j = s.group? i j := by rw [State.group?, State.team?_countUnit, State.group?]
@[simp] theorem State.group?_hostWrite (s : State) (a : Nat) (bs : List Byte) (i j : Nat) : (s.hostWrite a bs).group? i j = s.group? i j := by rw [State.group?, State.team?_hostWrite, State.group?]
@[simp] theorem State.group?_rekey (s : State) (key pa : Nat) (i j : Nat) : (s.rekey key pa).group? i j = s.group? i j := by rw [State.group?, State.team?_rekey, State.group?]
@[simp] theorem State.group?_homeSet (s : State) (key pa : Nat) (b : Byte) (i j : Nat) : (s.homeSet key pa b).group? i j = s.group? i j := by rw [State.group?, State.team?_homeSet, State.group?]
@[simp] theorem State.group?_homeWrite (s : State) (key pa : Nat) (bs : List Byte) (i j : Nat) : (s.homeWrite key pa bs).group? i j = s.group? i j := by rw [State.group?, State.team?_homeWrite, State.group?]
@[simp] theorem State.core_setTeam (s : State) (n : Nat) (t : Team) (i : Nat) : (s.setTeam n t).core i = s.core i := by rw [State.core, State.setTeam_cores s n t, State.core]
@[simp] theorem State.core_modTeam (s : State) (n : Nat) (f : Team → Team) (i : Nat) : (s.modTeam n f).core i = s.core i := by rw [State.core, State.modTeam_cores s n f, State.core]
@[simp] theorem State.core_modGroup (s : State) (n g : Nat) (f : Group → Group) (i : Nat) : (s.modGroup n g f).core i = s.core i := by rw [State.core, State.modGroup_cores s n g f, State.core]
@[simp] theorem State.core_setCluster (s : State) (n : Nat) (c : Cluster) (i : Nat) : (s.setCluster n c).core i = s.core i := by rw [State.core, State.setCluster_cores s n c, State.core]
@[simp] theorem State.core_modCluster (s : State) (n : Nat) (f : Cluster → Cluster) (i : Nat) : (s.modCluster n f).core i = s.core i := by rw [State.core, State.modCluster_cores s n f, State.core]
@[simp] theorem State.core_setPart (s : State) (n : Nat) (p : Partition) (i : Nat) : (s.setPart n p).core i = s.core i := by rw [State.core, State.setPart_cores s n p, State.core]
@[simp] theorem State.core_modPart (s : State) (n : Nat) (f : Partition → Partition) (i : Nat) : (s.modPart n f).core i = s.core i := by rw [State.core, State.modPart_cores s n f, State.core]
@[simp] theorem State.core_setCtx (s : State) (p n : Nat) (c : Context) (i : Nat) : (s.setCtx p n c).core i = s.core i := by rw [State.core, State.setCtx_cores s p n c, State.core]
@[simp] theorem State.core_modCtx (s : State) (p n : Nat) (f : Context → Context) (i : Nat) : (s.modCtx p n f).core i = s.core i := by rw [State.core, State.modCtx_cores s p n f, State.core]
@[simp] theorem State.core_emit (s : State) (o : Out) (i : Nat) : (s.emit o).core i = s.core i := by rw [State.core, State.emit_cores s o, State.core]
@[simp] theorem State.core_countUnit (s : State) (u part event n : Nat) (i : Nat) : (s.countUnit u part event n).core i = s.core i := by rw [State.core, State.countUnit_cores s u part event n, State.core]
@[simp] theorem State.core_hostWrite (s : State) (a : Nat) (bs : List Byte) (i : Nat) : (s.hostWrite a bs).core i = s.core i := by rw [State.core, State.hostWrite_cores s a bs, State.core]
@[simp] theorem State.core_rekey (s : State) (key pa : Nat) (i : Nat) : (s.rekey key pa).core i = s.core i := by rw [State.core, State.rekey_cores s key pa, State.core]
@[simp] theorem State.core_homeSet (s : State) (key pa : Nat) (b : Byte) (i : Nat) : (s.homeSet key pa b).core i = s.core i := by rw [State.core, State.homeSet_cores s key pa b, State.core]
@[simp] theorem State.core_homeWrite (s : State) (key pa : Nat) (bs : List Byte) (i : Nat) : (s.homeWrite key pa bs).core i = s.core i := by rw [State.core, State.homeWrite_cores s key pa bs, State.core]
@[simp] theorem State.core_spadWrite (s : State) (n off : Nat) (bs : List Byte) (i : Nat) : (s.spadWrite n off bs).core i = s.core i := by rw [State.core, State.spadWrite_cores s n off bs, State.core]
@[simp] theorem State.core_clearIdem (s : State) (n : Nat) (i : Nat) : (s.clearIdem n).core i = s.core i := by rw [State.core, State.clearIdem_cores s n, State.core]
@[simp] theorem State.core_endOp (s : State) (n g id : Nat) (i : Nat) : (s.endOp n g id).core i = s.core i := by rw [State.core, State.endOp_cores s n g id, State.core]
@[simp] theorem State.cluster_setTeam (s : State) (n : Nat) (t : Team) (i : Nat) : (s.setTeam n t).cluster i = s.cluster i := by rw [State.cluster, State.setTeam_clusters s n t, State.cluster]
@[simp] theorem State.cluster_modTeam (s : State) (n : Nat) (f : Team → Team) (i : Nat) : (s.modTeam n f).cluster i = s.cluster i := by rw [State.cluster, State.modTeam_clusters s n f, State.cluster]
@[simp] theorem State.cluster_modGroup (s : State) (n g : Nat) (f : Group → Group) (i : Nat) : (s.modGroup n g f).cluster i = s.cluster i := by rw [State.cluster, State.modGroup_clusters s n g f, State.cluster]
@[simp] theorem State.cluster_setCore (s : State) (n : Nat) (c : Core) (i : Nat) : (s.setCore n c).cluster i = s.cluster i := by rw [State.cluster, State.setCore_clusters s n c, State.cluster]
@[simp] theorem State.cluster_modCore (s : State) (n : Nat) (f : Core → Core) (i : Nat) : (s.modCore n f).cluster i = s.cluster i := by rw [State.cluster, State.modCore_clusters s n f, State.cluster]
@[simp] theorem State.cluster_modDxp (s : State) (n : Nat) (f : Dxp → Dxp) (i : Nat) : (s.modDxp n f).cluster i = s.cluster i := by rw [State.cluster, State.modDxp_clusters s n f, State.cluster]
@[simp] theorem State.cluster_setPart (s : State) (n : Nat) (p : Partition) (i : Nat) : (s.setPart n p).cluster i = s.cluster i := by rw [State.cluster, State.setPart_clusters s n p, State.cluster]
@[simp] theorem State.cluster_modPart (s : State) (n : Nat) (f : Partition → Partition) (i : Nat) : (s.modPart n f).cluster i = s.cluster i := by rw [State.cluster, State.modPart_clusters s n f, State.cluster]
@[simp] theorem State.cluster_setCtx (s : State) (p n : Nat) (c : Context) (i : Nat) : (s.setCtx p n c).cluster i = s.cluster i := by rw [State.cluster, State.setCtx_clusters s p n c, State.cluster]
@[simp] theorem State.cluster_modCtx (s : State) (p n : Nat) (f : Context → Context) (i : Nat) : (s.modCtx p n f).cluster i = s.cluster i := by rw [State.cluster, State.modCtx_clusters s p n f, State.cluster]
@[simp] theorem State.cluster_emit (s : State) (o : Out) (i : Nat) : (s.emit o).cluster i = s.cluster i := by rw [State.cluster, State.emit_clusters s o, State.cluster]
@[simp] theorem State.cluster_count (s : State) (core event n : Nat) (i : Nat) : (s.count core event n).cluster i = s.cluster i := by rw [State.cluster, State.count_clusters s core event n, State.cluster]
@[simp] theorem State.cluster_countUnit (s : State) (u part event n : Nat) (i : Nat) : (s.countUnit u part event n).cluster i = s.cluster i := by rw [State.cluster, State.countUnit_clusters s u part event n, State.cluster]
@[simp] theorem State.cluster_hostWrite (s : State) (a : Nat) (bs : List Byte) (i : Nat) : (s.hostWrite a bs).cluster i = s.cluster i := by rw [State.cluster, State.hostWrite_clusters s a bs, State.cluster]
@[simp] theorem State.cluster_rekey (s : State) (key pa : Nat) (i : Nat) : (s.rekey key pa).cluster i = s.cluster i := by rw [State.cluster, State.rekey_clusters s key pa, State.cluster]
@[simp] theorem State.cluster_homeSet (s : State) (key pa : Nat) (b : Byte) (i : Nat) : (s.homeSet key pa b).cluster i = s.cluster i := by rw [State.cluster, State.homeSet_clusters s key pa b, State.cluster]
@[simp] theorem State.cluster_homeWrite (s : State) (key pa : Nat) (bs : List Byte) (i : Nat) : (s.homeWrite key pa bs).cluster i = s.cluster i := by rw [State.cluster, State.homeWrite_clusters s key pa bs, State.cluster]
@[simp] theorem State.cluster_spadWrite (s : State) (n off : Nat) (bs : List Byte) (i : Nat) : (s.spadWrite n off bs).cluster i = s.cluster i := by rw [State.cluster, State.spadWrite_clusters s n off bs, State.cluster]
@[simp] theorem State.cluster_clearIdem (s : State) (n : Nat) (i : Nat) : (s.clearIdem n).cluster i = s.cluster i := by rw [State.cluster, State.clearIdem_clusters s n, State.cluster]
@[simp] theorem State.cluster_endOp (s : State) (n g id : Nat) (i : Nat) : (s.endOp n g id).cluster i = s.cluster i := by rw [State.cluster, State.endOp_clusters s n g id, State.cluster]
@[simp] theorem State.part_setTeam (s : State) (n : Nat) (t : Team) (i : Nat) : (s.setTeam n t).part i = s.part i := by rw [State.part, State.setTeam_parts s n t, State.part]
@[simp] theorem State.part_modTeam (s : State) (n : Nat) (f : Team → Team) (i : Nat) : (s.modTeam n f).part i = s.part i := by rw [State.part, State.modTeam_parts s n f, State.part]
@[simp] theorem State.part_modGroup (s : State) (n g : Nat) (f : Group → Group) (i : Nat) : (s.modGroup n g f).part i = s.part i := by rw [State.part, State.modGroup_parts s n g f, State.part]
@[simp] theorem State.part_setCore (s : State) (n : Nat) (c : Core) (i : Nat) : (s.setCore n c).part i = s.part i := by rw [State.part, State.setCore_parts s n c, State.part]
@[simp] theorem State.part_modCore (s : State) (n : Nat) (f : Core → Core) (i : Nat) : (s.modCore n f).part i = s.part i := by rw [State.part, State.modCore_parts s n f, State.part]
@[simp] theorem State.part_modDxp (s : State) (n : Nat) (f : Dxp → Dxp) (i : Nat) : (s.modDxp n f).part i = s.part i := by rw [State.part, State.modDxp_parts s n f, State.part]
@[simp] theorem State.part_setCluster (s : State) (n : Nat) (c : Cluster) (i : Nat) : (s.setCluster n c).part i = s.part i := by rw [State.part, State.setCluster_parts s n c, State.part]
@[simp] theorem State.part_modCluster (s : State) (n : Nat) (f : Cluster → Cluster) (i : Nat) : (s.modCluster n f).part i = s.part i := by rw [State.part, State.modCluster_parts s n f, State.part]
@[simp] theorem State.part_emit (s : State) (o : Out) (i : Nat) : (s.emit o).part i = s.part i := by rw [State.part, State.emit_parts s o, State.part]
@[simp] theorem State.part_count (s : State) (core event n : Nat) (i : Nat) : (s.count core event n).part i = s.part i := by rw [State.part, State.count_parts s core event n, State.part]
@[simp] theorem State.part_countUnit (s : State) (u part event n : Nat) (i : Nat) : (s.countUnit u part event n).part i = s.part i := by rw [State.part, State.countUnit_parts s u part event n, State.part]
@[simp] theorem State.part_hostWrite (s : State) (a : Nat) (bs : List Byte) (i : Nat) : (s.hostWrite a bs).part i = s.part i := by rw [State.part, State.hostWrite_parts s a bs, State.part]
@[simp] theorem State.part_rekey (s : State) (key pa : Nat) (i : Nat) : (s.rekey key pa).part i = s.part i := by rw [State.part, State.rekey_parts s key pa, State.part]
@[simp] theorem State.part_homeSet (s : State) (key pa : Nat) (b : Byte) (i : Nat) : (s.homeSet key pa b).part i = s.part i := by rw [State.part, State.homeSet_parts s key pa b, State.part]
@[simp] theorem State.part_homeWrite (s : State) (key pa : Nat) (bs : List Byte) (i : Nat) : (s.homeWrite key pa bs).part i = s.part i := by rw [State.part, State.homeWrite_parts s key pa bs, State.part]
@[simp] theorem State.part_spadWrite (s : State) (n off : Nat) (bs : List Byte) (i : Nat) : (s.spadWrite n off bs).part i = s.part i := by rw [State.part, State.spadWrite_parts s n off bs, State.part]
@[simp] theorem State.part_clearIdem (s : State) (n : Nat) (i : Nat) : (s.clearIdem n).part i = s.part i := by rw [State.part, State.clearIdem_parts s n, State.part]
@[simp] theorem State.part_endOp (s : State) (n g id : Nat) (i : Nat) : (s.endOp n g id).part i = s.part i := by rw [State.part, State.endOp_parts s n g id, State.part]
@[simp] theorem State.ctx_setTeam (s : State) (n : Nat) (t : Team) (i j : Nat) : (s.setTeam n t).ctx i j = s.ctx i j := by rw [State.ctx, State.part_setTeam, State.ctx]
@[simp] theorem State.ctx_modTeam (s : State) (n : Nat) (f : Team → Team) (i j : Nat) : (s.modTeam n f).ctx i j = s.ctx i j := by rw [State.ctx, State.part_modTeam, State.ctx]
@[simp] theorem State.ctx_modGroup (s : State) (n g : Nat) (f : Group → Group) (i j : Nat) : (s.modGroup n g f).ctx i j = s.ctx i j := by rw [State.ctx, State.part_modGroup, State.ctx]
@[simp] theorem State.ctx_setCore (s : State) (n : Nat) (c : Core) (i j : Nat) : (s.setCore n c).ctx i j = s.ctx i j := by rw [State.ctx, State.part_setCore, State.ctx]
@[simp] theorem State.ctx_modCore (s : State) (n : Nat) (f : Core → Core) (i j : Nat) : (s.modCore n f).ctx i j = s.ctx i j := by rw [State.ctx, State.part_modCore, State.ctx]
@[simp] theorem State.ctx_modDxp (s : State) (n : Nat) (f : Dxp → Dxp) (i j : Nat) : (s.modDxp n f).ctx i j = s.ctx i j := by rw [State.ctx, State.part_modDxp, State.ctx]
@[simp] theorem State.ctx_setCluster (s : State) (n : Nat) (c : Cluster) (i j : Nat) : (s.setCluster n c).ctx i j = s.ctx i j := by rw [State.ctx, State.part_setCluster, State.ctx]
@[simp] theorem State.ctx_modCluster (s : State) (n : Nat) (f : Cluster → Cluster) (i j : Nat) : (s.modCluster n f).ctx i j = s.ctx i j := by rw [State.ctx, State.part_modCluster, State.ctx]
@[simp] theorem State.ctx_emit (s : State) (o : Out) (i j : Nat) : (s.emit o).ctx i j = s.ctx i j := by rw [State.ctx, State.part_emit, State.ctx]
@[simp] theorem State.ctx_count (s : State) (core event n : Nat) (i j : Nat) : (s.count core event n).ctx i j = s.ctx i j := by rw [State.ctx, State.part_count, State.ctx]
@[simp] theorem State.ctx_countUnit (s : State) (u part event n : Nat) (i j : Nat) : (s.countUnit u part event n).ctx i j = s.ctx i j := by rw [State.ctx, State.part_countUnit, State.ctx]
@[simp] theorem State.ctx_hostWrite (s : State) (a : Nat) (bs : List Byte) (i j : Nat) : (s.hostWrite a bs).ctx i j = s.ctx i j := by rw [State.ctx, State.part_hostWrite, State.ctx]
@[simp] theorem State.ctx_rekey (s : State) (key pa : Nat) (i j : Nat) : (s.rekey key pa).ctx i j = s.ctx i j := by rw [State.ctx, State.part_rekey, State.ctx]
@[simp] theorem State.ctx_homeSet (s : State) (key pa : Nat) (b : Byte) (i j : Nat) : (s.homeSet key pa b).ctx i j = s.ctx i j := by rw [State.ctx, State.part_homeSet, State.ctx]
@[simp] theorem State.ctx_homeWrite (s : State) (key pa : Nat) (bs : List Byte) (i j : Nat) : (s.homeWrite key pa bs).ctx i j = s.ctx i j := by rw [State.ctx, State.part_homeWrite, State.ctx]
@[simp] theorem State.ctx_spadWrite (s : State) (n off : Nat) (bs : List Byte) (i j : Nat) : (s.spadWrite n off bs).ctx i j = s.ctx i j := by rw [State.ctx, State.part_spadWrite, State.ctx]
@[simp] theorem State.ctx_clearIdem (s : State) (n : Nat) (i j : Nat) : (s.clearIdem n).ctx i j = s.ctx i j := by rw [State.ctx, State.part_clearIdem, State.ctx]
@[simp] theorem State.ctx_endOp (s : State) (n g id : Nat) (i j : Nat) : (s.endOp n g id).ctx i j = s.ctx i j := by rw [State.ctx, State.part_endOp, State.ctx]

/-- A fold that keeps a property of what it builds keeps it. -/
theorem foldl_keep {α β : Type} (P : β → Prop) (f : β → α → β) (h : ∀ b a, P b → P (f b a)) (xs : List α) (b : β) (hb : P b) :
    P (xs.foldl f b) := by
  induction xs generalizing b with
  | nil => exact hb
  | cons x xs ih => exact ih _ (h _ _ hb)

/-! ## Group.ws -/

@[simp] theorem Group.ws_role (g : Group) (n : Nat) (x : W64) : (g.ws n x).role = g.role := rfl
@[simp] theorem Group.ws_slot (g : Group) (n : Nat) (x : W64) : (g.ws n x).slot = g.slot := rfl
@[simp] theorem Group.ws_v (g : Group) (n : Nat) (x : W64) : (g.ws n x).v = g.v := rfl
@[simp] theorem Group.ws_vtag (g : Group) (n : Nat) (x : W64) : (g.ws n x).vtag = g.vtag := rfl
@[simp] theorem Group.ws_p (g : Group) (n : Nat) (x : W64) : (g.ws n x).p = g.p := rfl
@[simp] theorem Group.ws_seed (g : Group) (n : Nat) (x : W64) : (g.ws n x).seed = g.seed := rfl
@[simp] theorem Group.ws_fflags (g : Group) (n : Nat) (x : W64) : (g.ws n x).fflags = g.fflags := rfl
@[simp] theorem Group.ws_front (g : Group) (n : Nat) (x : W64) : (g.ws n x).front = g.front := rfl
@[simp] theorem Group.ws_yieldPc (g : Group) (n : Nat) (x : W64) : (g.ws n x).yieldPc = g.yieldPc := rfl
@[simp] theorem Group.ws_calls (g : Group) (n : Nat) (x : W64) : (g.ws n x).calls = g.calls := rfl
@[simp] theorem Group.ws_spill (g : Group) (n : Nat) (x : W64) : (g.ws n x).spill = g.spill := rfl
@[simp] theorem Group.ws_alarms (g : Group) (n : Nat) (x : W64) : (g.ws n x).alarms = g.alarms := rfl
@[simp] theorem Group.ws_phase (g : Group) (n : Nat) (x : W64) : (g.ws n x).phase = g.phase := rfl
@[simp] theorem Group.ws_ops (g : Group) (n : Nat) (x : W64) : (g.ws n x).ops = g.ops := rfl
@[simp] theorem Group.ws_lq (g : Group) (n : Nat) (x : W64) : (g.ws n x).lq = g.lq := rfl
@[simp] theorem Group.ws_sb (g : Group) (n : Nat) (x : W64) : (g.ws n x).sb = g.sb := rfl
@[simp] theorem Group.ws_pend (g : Group) (n : Nat) (x : W64) : (g.ws n x).pend = g.pend := rfl
@[simp] theorem Group.ws_trapq (g : Group) (n : Nat) (x : W64) : (g.ws n x).trapq = g.trapq := rfl
@[simp] theorem Group.ws_trapcause (g : Group) (n : Nat) (x : W64) : (g.ws n x).trapcause = g.trapcause := rfl
@[simp] theorem Group.ws_lastCause (g : Group) (n : Nat) (x : W64) : (g.ws n x).lastCause = g.lastCause := rfl
@[simp] theorem Group.ws_handler (g : Group) (n : Nat) (x : W64) : (g.ws n x).handler = g.handler := rfl
@[simp] theorem Group.ws_halted (g : Group) (n : Nat) (x : W64) : (g.ws n x).halted = g.halted := rfl
@[simp] theorem Group.ws_exited (g : Group) (n : Nat) (x : W64) : (g.ws n x).exited = g.exited := rfl
@[simp] theorem Group.ws_hold (g : Group) (n : Nat) (x : W64) : (g.ws n x).hold = g.hold := rfl
@[simp] theorem Group.ws_stall (g : Group) (n : Nat) (x : W64) : (g.ws n x).stall = g.stall := rfl
@[simp] theorem Group.ws_yieldHint (g : Group) (n : Nat) (x : W64) : (g.ws n x).yieldHint = g.yieldHint := rfl
@[simp] theorem Group.ws_age (g : Group) (n : Nat) (x : W64) : (g.ws n x).age = g.age := rfl
@[simp] theorem Group.ws_cycle (g : Group) (n : Nat) (x : W64) : (g.ws n x).cycle = g.cycle := rfl
@[simp] theorem Group.ws_retired (g : Group) (n : Nat) (x : W64) : (g.ws n x).retired = g.retired := rfl
@[simp] theorem Group.ws_stalls (g : Group) (n : Nat) (x : W64) : (g.ws n x).stalls = g.stalls := rfl
@[simp] theorem Group.ws_ovf (g : Group) (n : Nat) (x : W64) : (g.ws n x).ovf = g.ovf := rfl
@[simp] theorem Group.ws_fresh (g : Group) (n : Nat) (x : W64) : (g.ws n x).fresh = g.fresh := rfl
@[simp] theorem Group.ws_evicted (g : Group) (n : Nat) (x : W64) : (g.ws n x).evicted = g.evicted := rfl
@[simp] theorem Group.ws_gath (g : Group) (n : Nat) (x : W64) : (g.ws n x).gath = g.gath := rfl
@[simp] theorem Group.ws_asked (g : Group) (n : Nat) (x : W64) : (g.ws n x).asked = g.asked := rfl
@[simp] theorem Group.ws_redBad (g : Group) (n : Nat) (x : W64) : (g.ws n x).redBad = g.redBad := rfl
@[simp] theorem Group.ws_unsaved (g : Group) (n : Nat) (x : W64) : (g.ws n x).unsaved = g.unsaved := rfl

/-! ## Group.wp -/

@[simp] theorem Group.wp_role (g : Group) (n : Nat) (m x : Mask) : (g.wp n m x).role = g.role := by unfold Group.wp; split <;> rfl
@[simp] theorem Group.wp_slot (g : Group) (n : Nat) (m x : Mask) : (g.wp n m x).slot = g.slot := by unfold Group.wp; split <;> rfl
@[simp] theorem Group.wp_v (g : Group) (n : Nat) (m x : Mask) : (g.wp n m x).v = g.v := by unfold Group.wp; split <;> rfl
@[simp] theorem Group.wp_vtag (g : Group) (n : Nat) (m x : Mask) : (g.wp n m x).vtag = g.vtag := by unfold Group.wp; split <;> rfl
@[simp] theorem Group.wp_s (g : Group) (n : Nat) (m x : Mask) : (g.wp n m x).s = g.s := by unfold Group.wp; split <;> rfl
@[simp] theorem Group.wp_seed (g : Group) (n : Nat) (m x : Mask) : (g.wp n m x).seed = g.seed := by unfold Group.wp; split <;> rfl
@[simp] theorem Group.wp_fflags (g : Group) (n : Nat) (m x : Mask) : (g.wp n m x).fflags = g.fflags := by unfold Group.wp; split <;> rfl
@[simp] theorem Group.wp_front (g : Group) (n : Nat) (m x : Mask) : (g.wp n m x).front = g.front := by unfold Group.wp; split <;> rfl
@[simp] theorem Group.wp_yieldPc (g : Group) (n : Nat) (m x : Mask) : (g.wp n m x).yieldPc = g.yieldPc := by unfold Group.wp; split <;> rfl
@[simp] theorem Group.wp_calls (g : Group) (n : Nat) (m x : Mask) : (g.wp n m x).calls = g.calls := by unfold Group.wp; split <;> rfl
@[simp] theorem Group.wp_spill (g : Group) (n : Nat) (m x : Mask) : (g.wp n m x).spill = g.spill := by unfold Group.wp; split <;> rfl
@[simp] theorem Group.wp_alarms (g : Group) (n : Nat) (m x : Mask) : (g.wp n m x).alarms = g.alarms := by unfold Group.wp; split <;> rfl
@[simp] theorem Group.wp_phase (g : Group) (n : Nat) (m x : Mask) : (g.wp n m x).phase = g.phase := by unfold Group.wp; split <;> rfl
@[simp] theorem Group.wp_ops (g : Group) (n : Nat) (m x : Mask) : (g.wp n m x).ops = g.ops := by unfold Group.wp; split <;> rfl
@[simp] theorem Group.wp_lq (g : Group) (n : Nat) (m x : Mask) : (g.wp n m x).lq = g.lq := by unfold Group.wp; split <;> rfl
@[simp] theorem Group.wp_sb (g : Group) (n : Nat) (m x : Mask) : (g.wp n m x).sb = g.sb := by unfold Group.wp; split <;> rfl
@[simp] theorem Group.wp_pend (g : Group) (n : Nat) (m x : Mask) : (g.wp n m x).pend = g.pend := by unfold Group.wp; split <;> rfl
@[simp] theorem Group.wp_trapq (g : Group) (n : Nat) (m x : Mask) : (g.wp n m x).trapq = g.trapq := by unfold Group.wp; split <;> rfl
@[simp] theorem Group.wp_trapcause (g : Group) (n : Nat) (m x : Mask) : (g.wp n m x).trapcause = g.trapcause := by unfold Group.wp; split <;> rfl
@[simp] theorem Group.wp_lastCause (g : Group) (n : Nat) (m x : Mask) : (g.wp n m x).lastCause = g.lastCause := by unfold Group.wp; split <;> rfl
@[simp] theorem Group.wp_handler (g : Group) (n : Nat) (m x : Mask) : (g.wp n m x).handler = g.handler := by unfold Group.wp; split <;> rfl
@[simp] theorem Group.wp_halted (g : Group) (n : Nat) (m x : Mask) : (g.wp n m x).halted = g.halted := by unfold Group.wp; split <;> rfl
@[simp] theorem Group.wp_exited (g : Group) (n : Nat) (m x : Mask) : (g.wp n m x).exited = g.exited := by unfold Group.wp; split <;> rfl
@[simp] theorem Group.wp_hold (g : Group) (n : Nat) (m x : Mask) : (g.wp n m x).hold = g.hold := by unfold Group.wp; split <;> rfl
@[simp] theorem Group.wp_stall (g : Group) (n : Nat) (m x : Mask) : (g.wp n m x).stall = g.stall := by unfold Group.wp; split <;> rfl
@[simp] theorem Group.wp_yieldHint (g : Group) (n : Nat) (m x : Mask) : (g.wp n m x).yieldHint = g.yieldHint := by unfold Group.wp; split <;> rfl
@[simp] theorem Group.wp_age (g : Group) (n : Nat) (m x : Mask) : (g.wp n m x).age = g.age := by unfold Group.wp; split <;> rfl
@[simp] theorem Group.wp_cycle (g : Group) (n : Nat) (m x : Mask) : (g.wp n m x).cycle = g.cycle := by unfold Group.wp; split <;> rfl
@[simp] theorem Group.wp_retired (g : Group) (n : Nat) (m x : Mask) : (g.wp n m x).retired = g.retired := by unfold Group.wp; split <;> rfl
@[simp] theorem Group.wp_stalls (g : Group) (n : Nat) (m x : Mask) : (g.wp n m x).stalls = g.stalls := by unfold Group.wp; split <;> rfl
@[simp] theorem Group.wp_ovf (g : Group) (n : Nat) (m x : Mask) : (g.wp n m x).ovf = g.ovf := by unfold Group.wp; split <;> rfl
@[simp] theorem Group.wp_fresh (g : Group) (n : Nat) (m x : Mask) : (g.wp n m x).fresh = g.fresh := by unfold Group.wp; split <;> rfl
@[simp] theorem Group.wp_evicted (g : Group) (n : Nat) (m x : Mask) : (g.wp n m x).evicted = g.evicted := by unfold Group.wp; split <;> rfl
@[simp] theorem Group.wp_gath (g : Group) (n : Nat) (m x : Mask) : (g.wp n m x).gath = g.gath := by unfold Group.wp; split <;> rfl
@[simp] theorem Group.wp_asked (g : Group) (n : Nat) (m x : Mask) : (g.wp n m x).asked = g.asked := by unfold Group.wp; split <;> rfl
@[simp] theorem Group.wp_redBad (g : Group) (n : Nat) (m x : Mask) : (g.wp n m x).redBad = g.redBad := by unfold Group.wp; split <;> rfl
@[simp] theorem Group.wp_unsaved (g : Group) (n : Nat) (m x : Mask) : (g.wp n m x).unsaved = g.unsaved := by unfold Group.wp; split <;> rfl

/-! ## Group.wv1 -/

@[simp] theorem Group.wv1_role (g : Group) (n l : Nat) (x : W32) : (g.wv1 n l x).role = g.role := rfl
@[simp] theorem Group.wv1_slot (g : Group) (n l : Nat) (x : W32) : (g.wv1 n l x).slot = g.slot := rfl
@[simp] theorem Group.wv1_vtag (g : Group) (n l : Nat) (x : W32) : (g.wv1 n l x).vtag = g.vtag := rfl
@[simp] theorem Group.wv1_s (g : Group) (n l : Nat) (x : W32) : (g.wv1 n l x).s = g.s := rfl
@[simp] theorem Group.wv1_p (g : Group) (n l : Nat) (x : W32) : (g.wv1 n l x).p = g.p := rfl
@[simp] theorem Group.wv1_seed (g : Group) (n l : Nat) (x : W32) : (g.wv1 n l x).seed = g.seed := rfl
@[simp] theorem Group.wv1_fflags (g : Group) (n l : Nat) (x : W32) : (g.wv1 n l x).fflags = g.fflags := rfl
@[simp] theorem Group.wv1_front (g : Group) (n l : Nat) (x : W32) : (g.wv1 n l x).front = g.front := rfl
@[simp] theorem Group.wv1_yieldPc (g : Group) (n l : Nat) (x : W32) : (g.wv1 n l x).yieldPc = g.yieldPc := rfl
@[simp] theorem Group.wv1_calls (g : Group) (n l : Nat) (x : W32) : (g.wv1 n l x).calls = g.calls := rfl
@[simp] theorem Group.wv1_spill (g : Group) (n l : Nat) (x : W32) : (g.wv1 n l x).spill = g.spill := rfl
@[simp] theorem Group.wv1_alarms (g : Group) (n l : Nat) (x : W32) : (g.wv1 n l x).alarms = g.alarms := rfl
@[simp] theorem Group.wv1_phase (g : Group) (n l : Nat) (x : W32) : (g.wv1 n l x).phase = g.phase := rfl
@[simp] theorem Group.wv1_ops (g : Group) (n l : Nat) (x : W32) : (g.wv1 n l x).ops = g.ops := rfl
@[simp] theorem Group.wv1_lq (g : Group) (n l : Nat) (x : W32) : (g.wv1 n l x).lq = g.lq := rfl
@[simp] theorem Group.wv1_sb (g : Group) (n l : Nat) (x : W32) : (g.wv1 n l x).sb = g.sb := rfl
@[simp] theorem Group.wv1_pend (g : Group) (n l : Nat) (x : W32) : (g.wv1 n l x).pend = g.pend := rfl
@[simp] theorem Group.wv1_trapq (g : Group) (n l : Nat) (x : W32) : (g.wv1 n l x).trapq = g.trapq := rfl
@[simp] theorem Group.wv1_trapcause (g : Group) (n l : Nat) (x : W32) : (g.wv1 n l x).trapcause = g.trapcause := rfl
@[simp] theorem Group.wv1_lastCause (g : Group) (n l : Nat) (x : W32) : (g.wv1 n l x).lastCause = g.lastCause := rfl
@[simp] theorem Group.wv1_handler (g : Group) (n l : Nat) (x : W32) : (g.wv1 n l x).handler = g.handler := rfl
@[simp] theorem Group.wv1_halted (g : Group) (n l : Nat) (x : W32) : (g.wv1 n l x).halted = g.halted := rfl
@[simp] theorem Group.wv1_exited (g : Group) (n l : Nat) (x : W32) : (g.wv1 n l x).exited = g.exited := rfl
@[simp] theorem Group.wv1_hold (g : Group) (n l : Nat) (x : W32) : (g.wv1 n l x).hold = g.hold := rfl
@[simp] theorem Group.wv1_stall (g : Group) (n l : Nat) (x : W32) : (g.wv1 n l x).stall = g.stall := rfl
@[simp] theorem Group.wv1_yieldHint (g : Group) (n l : Nat) (x : W32) : (g.wv1 n l x).yieldHint = g.yieldHint := rfl
@[simp] theorem Group.wv1_age (g : Group) (n l : Nat) (x : W32) : (g.wv1 n l x).age = g.age := rfl
@[simp] theorem Group.wv1_cycle (g : Group) (n l : Nat) (x : W32) : (g.wv1 n l x).cycle = g.cycle := rfl
@[simp] theorem Group.wv1_retired (g : Group) (n l : Nat) (x : W32) : (g.wv1 n l x).retired = g.retired := rfl
@[simp] theorem Group.wv1_stalls (g : Group) (n l : Nat) (x : W32) : (g.wv1 n l x).stalls = g.stalls := rfl
@[simp] theorem Group.wv1_ovf (g : Group) (n l : Nat) (x : W32) : (g.wv1 n l x).ovf = g.ovf := rfl
@[simp] theorem Group.wv1_fresh (g : Group) (n l : Nat) (x : W32) : (g.wv1 n l x).fresh = g.fresh := rfl
@[simp] theorem Group.wv1_evicted (g : Group) (n l : Nat) (x : W32) : (g.wv1 n l x).evicted = g.evicted := rfl
@[simp] theorem Group.wv1_gath (g : Group) (n l : Nat) (x : W32) : (g.wv1 n l x).gath = g.gath := rfl
@[simp] theorem Group.wv1_asked (g : Group) (n l : Nat) (x : W32) : (g.wv1 n l x).asked = g.asked := rfl
@[simp] theorem Group.wv1_redBad (g : Group) (n l : Nat) (x : W32) : (g.wv1 n l x).redBad = g.redBad := rfl
@[simp] theorem Group.wv1_unsaved (g : Group) (n l : Nat) (x : W32) : (g.wv1 n l x).unsaved = g.unsaved := rfl

/-! ## Group.wtag -/

@[simp] theorem Group.wtag_role (g : Group) (n tag : Nat) : (g.wtag n tag).role = g.role := rfl
@[simp] theorem Group.wtag_slot (g : Group) (n tag : Nat) : (g.wtag n tag).slot = g.slot := rfl
@[simp] theorem Group.wtag_v (g : Group) (n tag : Nat) : (g.wtag n tag).v = g.v := rfl
@[simp] theorem Group.wtag_s (g : Group) (n tag : Nat) : (g.wtag n tag).s = g.s := rfl
@[simp] theorem Group.wtag_p (g : Group) (n tag : Nat) : (g.wtag n tag).p = g.p := rfl
@[simp] theorem Group.wtag_seed (g : Group) (n tag : Nat) : (g.wtag n tag).seed = g.seed := rfl
@[simp] theorem Group.wtag_fflags (g : Group) (n tag : Nat) : (g.wtag n tag).fflags = g.fflags := rfl
@[simp] theorem Group.wtag_front (g : Group) (n tag : Nat) : (g.wtag n tag).front = g.front := rfl
@[simp] theorem Group.wtag_yieldPc (g : Group) (n tag : Nat) : (g.wtag n tag).yieldPc = g.yieldPc := rfl
@[simp] theorem Group.wtag_calls (g : Group) (n tag : Nat) : (g.wtag n tag).calls = g.calls := rfl
@[simp] theorem Group.wtag_spill (g : Group) (n tag : Nat) : (g.wtag n tag).spill = g.spill := rfl
@[simp] theorem Group.wtag_alarms (g : Group) (n tag : Nat) : (g.wtag n tag).alarms = g.alarms := rfl
@[simp] theorem Group.wtag_phase (g : Group) (n tag : Nat) : (g.wtag n tag).phase = g.phase := rfl
@[simp] theorem Group.wtag_ops (g : Group) (n tag : Nat) : (g.wtag n tag).ops = g.ops := rfl
@[simp] theorem Group.wtag_lq (g : Group) (n tag : Nat) : (g.wtag n tag).lq = g.lq := rfl
@[simp] theorem Group.wtag_sb (g : Group) (n tag : Nat) : (g.wtag n tag).sb = g.sb := rfl
@[simp] theorem Group.wtag_pend (g : Group) (n tag : Nat) : (g.wtag n tag).pend = g.pend := rfl
@[simp] theorem Group.wtag_trapq (g : Group) (n tag : Nat) : (g.wtag n tag).trapq = g.trapq := rfl
@[simp] theorem Group.wtag_trapcause (g : Group) (n tag : Nat) : (g.wtag n tag).trapcause = g.trapcause := rfl
@[simp] theorem Group.wtag_lastCause (g : Group) (n tag : Nat) : (g.wtag n tag).lastCause = g.lastCause := rfl
@[simp] theorem Group.wtag_handler (g : Group) (n tag : Nat) : (g.wtag n tag).handler = g.handler := rfl
@[simp] theorem Group.wtag_halted (g : Group) (n tag : Nat) : (g.wtag n tag).halted = g.halted := rfl
@[simp] theorem Group.wtag_exited (g : Group) (n tag : Nat) : (g.wtag n tag).exited = g.exited := rfl
@[simp] theorem Group.wtag_hold (g : Group) (n tag : Nat) : (g.wtag n tag).hold = g.hold := rfl
@[simp] theorem Group.wtag_stall (g : Group) (n tag : Nat) : (g.wtag n tag).stall = g.stall := rfl
@[simp] theorem Group.wtag_yieldHint (g : Group) (n tag : Nat) : (g.wtag n tag).yieldHint = g.yieldHint := rfl
@[simp] theorem Group.wtag_age (g : Group) (n tag : Nat) : (g.wtag n tag).age = g.age := rfl
@[simp] theorem Group.wtag_cycle (g : Group) (n tag : Nat) : (g.wtag n tag).cycle = g.cycle := rfl
@[simp] theorem Group.wtag_retired (g : Group) (n tag : Nat) : (g.wtag n tag).retired = g.retired := rfl
@[simp] theorem Group.wtag_stalls (g : Group) (n tag : Nat) : (g.wtag n tag).stalls = g.stalls := rfl
@[simp] theorem Group.wtag_ovf (g : Group) (n tag : Nat) : (g.wtag n tag).ovf = g.ovf := rfl
@[simp] theorem Group.wtag_fresh (g : Group) (n tag : Nat) : (g.wtag n tag).fresh = g.fresh := rfl
@[simp] theorem Group.wtag_evicted (g : Group) (n tag : Nat) : (g.wtag n tag).evicted = g.evicted := rfl
@[simp] theorem Group.wtag_gath (g : Group) (n tag : Nat) : (g.wtag n tag).gath = g.gath := rfl
@[simp] theorem Group.wtag_asked (g : Group) (n tag : Nat) : (g.wtag n tag).asked = g.asked := rfl
@[simp] theorem Group.wtag_redBad (g : Group) (n tag : Nat) : (g.wtag n tag).redBad = g.redBad := rfl
@[simp] theorem Group.wtag_unsaved (g : Group) (n tag : Nat) : (g.wtag n tag).unsaved = g.unsaved := rfl

/-! ## Group.wlane -/

@[simp] theorem Group.wlane_role (g : Group) (n : Nat) (wide : Bool) (l x : Nat) : (g.wlane n wide l x).role = g.role := by unfold Group.wlane; cases wide <;> rfl
@[simp] theorem Group.wlane_slot (g : Group) (n : Nat) (wide : Bool) (l x : Nat) : (g.wlane n wide l x).slot = g.slot := by unfold Group.wlane; cases wide <;> rfl
@[simp] theorem Group.wlane_vtag (g : Group) (n : Nat) (wide : Bool) (l x : Nat) : (g.wlane n wide l x).vtag = g.vtag := by unfold Group.wlane; cases wide <;> rfl
@[simp] theorem Group.wlane_s (g : Group) (n : Nat) (wide : Bool) (l x : Nat) : (g.wlane n wide l x).s = g.s := by unfold Group.wlane; cases wide <;> rfl
@[simp] theorem Group.wlane_p (g : Group) (n : Nat) (wide : Bool) (l x : Nat) : (g.wlane n wide l x).p = g.p := by unfold Group.wlane; cases wide <;> rfl
@[simp] theorem Group.wlane_seed (g : Group) (n : Nat) (wide : Bool) (l x : Nat) : (g.wlane n wide l x).seed = g.seed := by unfold Group.wlane; cases wide <;> rfl
@[simp] theorem Group.wlane_fflags (g : Group) (n : Nat) (wide : Bool) (l x : Nat) : (g.wlane n wide l x).fflags = g.fflags := by unfold Group.wlane; cases wide <;> rfl
@[simp] theorem Group.wlane_front (g : Group) (n : Nat) (wide : Bool) (l x : Nat) : (g.wlane n wide l x).front = g.front := by unfold Group.wlane; cases wide <;> rfl
@[simp] theorem Group.wlane_yieldPc (g : Group) (n : Nat) (wide : Bool) (l x : Nat) : (g.wlane n wide l x).yieldPc = g.yieldPc := by unfold Group.wlane; cases wide <;> rfl
@[simp] theorem Group.wlane_calls (g : Group) (n : Nat) (wide : Bool) (l x : Nat) : (g.wlane n wide l x).calls = g.calls := by unfold Group.wlane; cases wide <;> rfl
@[simp] theorem Group.wlane_spill (g : Group) (n : Nat) (wide : Bool) (l x : Nat) : (g.wlane n wide l x).spill = g.spill := by unfold Group.wlane; cases wide <;> rfl
@[simp] theorem Group.wlane_alarms (g : Group) (n : Nat) (wide : Bool) (l x : Nat) : (g.wlane n wide l x).alarms = g.alarms := by unfold Group.wlane; cases wide <;> rfl
@[simp] theorem Group.wlane_phase (g : Group) (n : Nat) (wide : Bool) (l x : Nat) : (g.wlane n wide l x).phase = g.phase := by unfold Group.wlane; cases wide <;> rfl
@[simp] theorem Group.wlane_ops (g : Group) (n : Nat) (wide : Bool) (l x : Nat) : (g.wlane n wide l x).ops = g.ops := by unfold Group.wlane; cases wide <;> rfl
@[simp] theorem Group.wlane_lq (g : Group) (n : Nat) (wide : Bool) (l x : Nat) : (g.wlane n wide l x).lq = g.lq := by unfold Group.wlane; cases wide <;> rfl
@[simp] theorem Group.wlane_sb (g : Group) (n : Nat) (wide : Bool) (l x : Nat) : (g.wlane n wide l x).sb = g.sb := by unfold Group.wlane; cases wide <;> rfl
@[simp] theorem Group.wlane_pend (g : Group) (n : Nat) (wide : Bool) (l x : Nat) : (g.wlane n wide l x).pend = g.pend := by unfold Group.wlane; cases wide <;> rfl
@[simp] theorem Group.wlane_trapq (g : Group) (n : Nat) (wide : Bool) (l x : Nat) : (g.wlane n wide l x).trapq = g.trapq := by unfold Group.wlane; cases wide <;> rfl
@[simp] theorem Group.wlane_trapcause (g : Group) (n : Nat) (wide : Bool) (l x : Nat) : (g.wlane n wide l x).trapcause = g.trapcause := by unfold Group.wlane; cases wide <;> rfl
@[simp] theorem Group.wlane_lastCause (g : Group) (n : Nat) (wide : Bool) (l x : Nat) : (g.wlane n wide l x).lastCause = g.lastCause := by unfold Group.wlane; cases wide <;> rfl
@[simp] theorem Group.wlane_handler (g : Group) (n : Nat) (wide : Bool) (l x : Nat) : (g.wlane n wide l x).handler = g.handler := by unfold Group.wlane; cases wide <;> rfl
@[simp] theorem Group.wlane_halted (g : Group) (n : Nat) (wide : Bool) (l x : Nat) : (g.wlane n wide l x).halted = g.halted := by unfold Group.wlane; cases wide <;> rfl
@[simp] theorem Group.wlane_exited (g : Group) (n : Nat) (wide : Bool) (l x : Nat) : (g.wlane n wide l x).exited = g.exited := by unfold Group.wlane; cases wide <;> rfl
@[simp] theorem Group.wlane_hold (g : Group) (n : Nat) (wide : Bool) (l x : Nat) : (g.wlane n wide l x).hold = g.hold := by unfold Group.wlane; cases wide <;> rfl
@[simp] theorem Group.wlane_stall (g : Group) (n : Nat) (wide : Bool) (l x : Nat) : (g.wlane n wide l x).stall = g.stall := by unfold Group.wlane; cases wide <;> rfl
@[simp] theorem Group.wlane_yieldHint (g : Group) (n : Nat) (wide : Bool) (l x : Nat) : (g.wlane n wide l x).yieldHint = g.yieldHint := by unfold Group.wlane; cases wide <;> rfl
@[simp] theorem Group.wlane_age (g : Group) (n : Nat) (wide : Bool) (l x : Nat) : (g.wlane n wide l x).age = g.age := by unfold Group.wlane; cases wide <;> rfl
@[simp] theorem Group.wlane_cycle (g : Group) (n : Nat) (wide : Bool) (l x : Nat) : (g.wlane n wide l x).cycle = g.cycle := by unfold Group.wlane; cases wide <;> rfl
@[simp] theorem Group.wlane_retired (g : Group) (n : Nat) (wide : Bool) (l x : Nat) : (g.wlane n wide l x).retired = g.retired := by unfold Group.wlane; cases wide <;> rfl
@[simp] theorem Group.wlane_stalls (g : Group) (n : Nat) (wide : Bool) (l x : Nat) : (g.wlane n wide l x).stalls = g.stalls := by unfold Group.wlane; cases wide <;> rfl
@[simp] theorem Group.wlane_ovf (g : Group) (n : Nat) (wide : Bool) (l x : Nat) : (g.wlane n wide l x).ovf = g.ovf := by unfold Group.wlane; cases wide <;> rfl
@[simp] theorem Group.wlane_fresh (g : Group) (n : Nat) (wide : Bool) (l x : Nat) : (g.wlane n wide l x).fresh = g.fresh := by unfold Group.wlane; cases wide <;> rfl
@[simp] theorem Group.wlane_evicted (g : Group) (n : Nat) (wide : Bool) (l x : Nat) : (g.wlane n wide l x).evicted = g.evicted := by unfold Group.wlane; cases wide <;> rfl
@[simp] theorem Group.wlane_gath (g : Group) (n : Nat) (wide : Bool) (l x : Nat) : (g.wlane n wide l x).gath = g.gath := by unfold Group.wlane; cases wide <;> rfl
@[simp] theorem Group.wlane_asked (g : Group) (n : Nat) (wide : Bool) (l x : Nat) : (g.wlane n wide l x).asked = g.asked := by unfold Group.wlane; cases wide <;> rfl
@[simp] theorem Group.wlane_redBad (g : Group) (n : Nat) (wide : Bool) (l x : Nat) : (g.wlane n wide l x).redBad = g.redBad := by unfold Group.wlane; cases wide <;> rfl
@[simp] theorem Group.wlane_unsaved (g : Group) (n : Nat) (wide : Bool) (l x : Nat) : (g.wlane n wide l x).unsaved = g.unsaved := by unfold Group.wlane; cases wide <;> rfl

/-! ## Group.wflags -/

@[simp] theorem Group.wflags_role (g : Group) (m : Mask) (f : Nat → Nat) : (g.wflags m f).role = g.role := by
  unfold Group.wflags
  exact foldl_keep (fun x => Group.role x = g.role) _ (fun x l hx => by split <;> exact hx) _ g rfl
@[simp] theorem Group.wflags_slot (g : Group) (m : Mask) (f : Nat → Nat) : (g.wflags m f).slot = g.slot := by
  unfold Group.wflags
  exact foldl_keep (fun x => Group.slot x = g.slot) _ (fun x l hx => by split <;> exact hx) _ g rfl
@[simp] theorem Group.wflags_v (g : Group) (m : Mask) (f : Nat → Nat) : (g.wflags m f).v = g.v := by
  unfold Group.wflags
  exact foldl_keep (fun x => Group.v x = g.v) _ (fun x l hx => by split <;> exact hx) _ g rfl
@[simp] theorem Group.wflags_vtag (g : Group) (m : Mask) (f : Nat → Nat) : (g.wflags m f).vtag = g.vtag := by
  unfold Group.wflags
  exact foldl_keep (fun x => Group.vtag x = g.vtag) _ (fun x l hx => by split <;> exact hx) _ g rfl
@[simp] theorem Group.wflags_s (g : Group) (m : Mask) (f : Nat → Nat) : (g.wflags m f).s = g.s := by
  unfold Group.wflags
  exact foldl_keep (fun x => Group.s x = g.s) _ (fun x l hx => by split <;> exact hx) _ g rfl
@[simp] theorem Group.wflags_p (g : Group) (m : Mask) (f : Nat → Nat) : (g.wflags m f).p = g.p := by
  unfold Group.wflags
  exact foldl_keep (fun x => Group.p x = g.p) _ (fun x l hx => by split <;> exact hx) _ g rfl
@[simp] theorem Group.wflags_seed (g : Group) (m : Mask) (f : Nat → Nat) : (g.wflags m f).seed = g.seed := by
  unfold Group.wflags
  exact foldl_keep (fun x => Group.seed x = g.seed) _ (fun x l hx => by split <;> exact hx) _ g rfl
@[simp] theorem Group.wflags_front (g : Group) (m : Mask) (f : Nat → Nat) : (g.wflags m f).front = g.front := by
  unfold Group.wflags
  exact foldl_keep (fun x => Group.front x = g.front) _ (fun x l hx => by split <;> exact hx) _ g rfl
@[simp] theorem Group.wflags_yieldPc (g : Group) (m : Mask) (f : Nat → Nat) : (g.wflags m f).yieldPc = g.yieldPc := by
  unfold Group.wflags
  exact foldl_keep (fun x => Group.yieldPc x = g.yieldPc) _ (fun x l hx => by split <;> exact hx) _ g rfl
@[simp] theorem Group.wflags_calls (g : Group) (m : Mask) (f : Nat → Nat) : (g.wflags m f).calls = g.calls := by
  unfold Group.wflags
  exact foldl_keep (fun x => Group.calls x = g.calls) _ (fun x l hx => by split <;> exact hx) _ g rfl
@[simp] theorem Group.wflags_spill (g : Group) (m : Mask) (f : Nat → Nat) : (g.wflags m f).spill = g.spill := by
  unfold Group.wflags
  exact foldl_keep (fun x => Group.spill x = g.spill) _ (fun x l hx => by split <;> exact hx) _ g rfl
@[simp] theorem Group.wflags_alarms (g : Group) (m : Mask) (f : Nat → Nat) : (g.wflags m f).alarms = g.alarms := by
  unfold Group.wflags
  exact foldl_keep (fun x => Group.alarms x = g.alarms) _ (fun x l hx => by split <;> exact hx) _ g rfl
@[simp] theorem Group.wflags_phase (g : Group) (m : Mask) (f : Nat → Nat) : (g.wflags m f).phase = g.phase := by
  unfold Group.wflags
  exact foldl_keep (fun x => Group.phase x = g.phase) _ (fun x l hx => by split <;> exact hx) _ g rfl
@[simp] theorem Group.wflags_ops (g : Group) (m : Mask) (f : Nat → Nat) : (g.wflags m f).ops = g.ops := by
  unfold Group.wflags
  exact foldl_keep (fun x => Group.ops x = g.ops) _ (fun x l hx => by split <;> exact hx) _ g rfl
@[simp] theorem Group.wflags_lq (g : Group) (m : Mask) (f : Nat → Nat) : (g.wflags m f).lq = g.lq := by
  unfold Group.wflags
  exact foldl_keep (fun x => Group.lq x = g.lq) _ (fun x l hx => by split <;> exact hx) _ g rfl
@[simp] theorem Group.wflags_sb (g : Group) (m : Mask) (f : Nat → Nat) : (g.wflags m f).sb = g.sb := by
  unfold Group.wflags
  exact foldl_keep (fun x => Group.sb x = g.sb) _ (fun x l hx => by split <;> exact hx) _ g rfl
@[simp] theorem Group.wflags_pend (g : Group) (m : Mask) (f : Nat → Nat) : (g.wflags m f).pend = g.pend := by
  unfold Group.wflags
  exact foldl_keep (fun x => Group.pend x = g.pend) _ (fun x l hx => by split <;> exact hx) _ g rfl
@[simp] theorem Group.wflags_trapq (g : Group) (m : Mask) (f : Nat → Nat) : (g.wflags m f).trapq = g.trapq := by
  unfold Group.wflags
  exact foldl_keep (fun x => Group.trapq x = g.trapq) _ (fun x l hx => by split <;> exact hx) _ g rfl
@[simp] theorem Group.wflags_trapcause (g : Group) (m : Mask) (f : Nat → Nat) : (g.wflags m f).trapcause = g.trapcause := by
  unfold Group.wflags
  exact foldl_keep (fun x => Group.trapcause x = g.trapcause) _ (fun x l hx => by split <;> exact hx) _ g rfl
@[simp] theorem Group.wflags_lastCause (g : Group) (m : Mask) (f : Nat → Nat) : (g.wflags m f).lastCause = g.lastCause := by
  unfold Group.wflags
  exact foldl_keep (fun x => Group.lastCause x = g.lastCause) _ (fun x l hx => by split <;> exact hx) _ g rfl
@[simp] theorem Group.wflags_handler (g : Group) (m : Mask) (f : Nat → Nat) : (g.wflags m f).handler = g.handler := by
  unfold Group.wflags
  exact foldl_keep (fun x => Group.handler x = g.handler) _ (fun x l hx => by split <;> exact hx) _ g rfl
@[simp] theorem Group.wflags_halted (g : Group) (m : Mask) (f : Nat → Nat) : (g.wflags m f).halted = g.halted := by
  unfold Group.wflags
  exact foldl_keep (fun x => Group.halted x = g.halted) _ (fun x l hx => by split <;> exact hx) _ g rfl
@[simp] theorem Group.wflags_exited (g : Group) (m : Mask) (f : Nat → Nat) : (g.wflags m f).exited = g.exited := by
  unfold Group.wflags
  exact foldl_keep (fun x => Group.exited x = g.exited) _ (fun x l hx => by split <;> exact hx) _ g rfl
@[simp] theorem Group.wflags_hold (g : Group) (m : Mask) (f : Nat → Nat) : (g.wflags m f).hold = g.hold := by
  unfold Group.wflags
  exact foldl_keep (fun x => Group.hold x = g.hold) _ (fun x l hx => by split <;> exact hx) _ g rfl
@[simp] theorem Group.wflags_stall (g : Group) (m : Mask) (f : Nat → Nat) : (g.wflags m f).stall = g.stall := by
  unfold Group.wflags
  exact foldl_keep (fun x => Group.stall x = g.stall) _ (fun x l hx => by split <;> exact hx) _ g rfl
@[simp] theorem Group.wflags_yieldHint (g : Group) (m : Mask) (f : Nat → Nat) : (g.wflags m f).yieldHint = g.yieldHint := by
  unfold Group.wflags
  exact foldl_keep (fun x => Group.yieldHint x = g.yieldHint) _ (fun x l hx => by split <;> exact hx) _ g rfl
@[simp] theorem Group.wflags_age (g : Group) (m : Mask) (f : Nat → Nat) : (g.wflags m f).age = g.age := by
  unfold Group.wflags
  exact foldl_keep (fun x => Group.age x = g.age) _ (fun x l hx => by split <;> exact hx) _ g rfl
@[simp] theorem Group.wflags_cycle (g : Group) (m : Mask) (f : Nat → Nat) : (g.wflags m f).cycle = g.cycle := by
  unfold Group.wflags
  exact foldl_keep (fun x => Group.cycle x = g.cycle) _ (fun x l hx => by split <;> exact hx) _ g rfl
@[simp] theorem Group.wflags_retired (g : Group) (m : Mask) (f : Nat → Nat) : (g.wflags m f).retired = g.retired := by
  unfold Group.wflags
  exact foldl_keep (fun x => Group.retired x = g.retired) _ (fun x l hx => by split <;> exact hx) _ g rfl
@[simp] theorem Group.wflags_stalls (g : Group) (m : Mask) (f : Nat → Nat) : (g.wflags m f).stalls = g.stalls := by
  unfold Group.wflags
  exact foldl_keep (fun x => Group.stalls x = g.stalls) _ (fun x l hx => by split <;> exact hx) _ g rfl
@[simp] theorem Group.wflags_ovf (g : Group) (m : Mask) (f : Nat → Nat) : (g.wflags m f).ovf = g.ovf := by
  unfold Group.wflags
  exact foldl_keep (fun x => Group.ovf x = g.ovf) _ (fun x l hx => by split <;> exact hx) _ g rfl
@[simp] theorem Group.wflags_fresh (g : Group) (m : Mask) (f : Nat → Nat) : (g.wflags m f).fresh = g.fresh := by
  unfold Group.wflags
  exact foldl_keep (fun x => Group.fresh x = g.fresh) _ (fun x l hx => by split <;> exact hx) _ g rfl
@[simp] theorem Group.wflags_evicted (g : Group) (m : Mask) (f : Nat → Nat) : (g.wflags m f).evicted = g.evicted := by
  unfold Group.wflags
  exact foldl_keep (fun x => Group.evicted x = g.evicted) _ (fun x l hx => by split <;> exact hx) _ g rfl
@[simp] theorem Group.wflags_gath (g : Group) (m : Mask) (f : Nat → Nat) : (g.wflags m f).gath = g.gath := by
  unfold Group.wflags
  exact foldl_keep (fun x => Group.gath x = g.gath) _ (fun x l hx => by split <;> exact hx) _ g rfl
@[simp] theorem Group.wflags_asked (g : Group) (m : Mask) (f : Nat → Nat) : (g.wflags m f).asked = g.asked := by
  unfold Group.wflags
  exact foldl_keep (fun x => Group.asked x = g.asked) _ (fun x l hx => by split <;> exact hx) _ g rfl
@[simp] theorem Group.wflags_redBad (g : Group) (m : Mask) (f : Nat → Nat) : (g.wflags m f).redBad = g.redBad := by
  unfold Group.wflags
  exact foldl_keep (fun x => Group.redBad x = g.redBad) _ (fun x l hx => by split <;> exact hx) _ g rfl
@[simp] theorem Group.wflags_unsaved (g : Group) (m : Mask) (f : Nat → Nat) : (g.wflags m f).unsaved = g.unsaved := by
  unfold Group.wflags
  exact foldl_keep (fun x => Group.unsaved x = g.unsaved) _ (fun x l hx => by split <;> exact hx) _ g rfl

/-! ## Group.wv -/

@[simp] theorem Group.wv_role (g : Group) (n : Nat) (wide : Bool) (m : Mask) (f : Nat → Nat) (tag : Nat) : (g.wv n wide m f tag).role = g.role := by
  unfold Group.wv
  simp only
  split
  · rfl
  · split <;> exact foldl_keep (fun x => Group.role x = g.role) _ (fun x l hx => (Group.wlane_role x n wide l _).trans hx) _ g rfl
@[simp] theorem Group.wv_slot (g : Group) (n : Nat) (wide : Bool) (m : Mask) (f : Nat → Nat) (tag : Nat) : (g.wv n wide m f tag).slot = g.slot := by
  unfold Group.wv
  simp only
  split
  · rfl
  · split <;> exact foldl_keep (fun x => Group.slot x = g.slot) _ (fun x l hx => (Group.wlane_slot x n wide l _).trans hx) _ g rfl
@[simp] theorem Group.wv_s (g : Group) (n : Nat) (wide : Bool) (m : Mask) (f : Nat → Nat) (tag : Nat) : (g.wv n wide m f tag).s = g.s := by
  unfold Group.wv
  simp only
  split
  · rfl
  · split <;> exact foldl_keep (fun x => Group.s x = g.s) _ (fun x l hx => (Group.wlane_s x n wide l _).trans hx) _ g rfl
@[simp] theorem Group.wv_p (g : Group) (n : Nat) (wide : Bool) (m : Mask) (f : Nat → Nat) (tag : Nat) : (g.wv n wide m f tag).p = g.p := by
  unfold Group.wv
  simp only
  split
  · rfl
  · split <;> exact foldl_keep (fun x => Group.p x = g.p) _ (fun x l hx => (Group.wlane_p x n wide l _).trans hx) _ g rfl
@[simp] theorem Group.wv_seed (g : Group) (n : Nat) (wide : Bool) (m : Mask) (f : Nat → Nat) (tag : Nat) : (g.wv n wide m f tag).seed = g.seed := by
  unfold Group.wv
  simp only
  split
  · rfl
  · split <;> exact foldl_keep (fun x => Group.seed x = g.seed) _ (fun x l hx => (Group.wlane_seed x n wide l _).trans hx) _ g rfl
@[simp] theorem Group.wv_fflags (g : Group) (n : Nat) (wide : Bool) (m : Mask) (f : Nat → Nat) (tag : Nat) : (g.wv n wide m f tag).fflags = g.fflags := by
  unfold Group.wv
  simp only
  split
  · rfl
  · split <;> exact foldl_keep (fun x => Group.fflags x = g.fflags) _ (fun x l hx => (Group.wlane_fflags x n wide l _).trans hx) _ g rfl
@[simp] theorem Group.wv_front (g : Group) (n : Nat) (wide : Bool) (m : Mask) (f : Nat → Nat) (tag : Nat) : (g.wv n wide m f tag).front = g.front := by
  unfold Group.wv
  simp only
  split
  · rfl
  · split <;> exact foldl_keep (fun x => Group.front x = g.front) _ (fun x l hx => (Group.wlane_front x n wide l _).trans hx) _ g rfl
@[simp] theorem Group.wv_yieldPc (g : Group) (n : Nat) (wide : Bool) (m : Mask) (f : Nat → Nat) (tag : Nat) : (g.wv n wide m f tag).yieldPc = g.yieldPc := by
  unfold Group.wv
  simp only
  split
  · rfl
  · split <;> exact foldl_keep (fun x => Group.yieldPc x = g.yieldPc) _ (fun x l hx => (Group.wlane_yieldPc x n wide l _).trans hx) _ g rfl
@[simp] theorem Group.wv_calls (g : Group) (n : Nat) (wide : Bool) (m : Mask) (f : Nat → Nat) (tag : Nat) : (g.wv n wide m f tag).calls = g.calls := by
  unfold Group.wv
  simp only
  split
  · rfl
  · split <;> exact foldl_keep (fun x => Group.calls x = g.calls) _ (fun x l hx => (Group.wlane_calls x n wide l _).trans hx) _ g rfl
@[simp] theorem Group.wv_spill (g : Group) (n : Nat) (wide : Bool) (m : Mask) (f : Nat → Nat) (tag : Nat) : (g.wv n wide m f tag).spill = g.spill := by
  unfold Group.wv
  simp only
  split
  · rfl
  · split <;> exact foldl_keep (fun x => Group.spill x = g.spill) _ (fun x l hx => (Group.wlane_spill x n wide l _).trans hx) _ g rfl
@[simp] theorem Group.wv_alarms (g : Group) (n : Nat) (wide : Bool) (m : Mask) (f : Nat → Nat) (tag : Nat) : (g.wv n wide m f tag).alarms = g.alarms := by
  unfold Group.wv
  simp only
  split
  · rfl
  · split <;> exact foldl_keep (fun x => Group.alarms x = g.alarms) _ (fun x l hx => (Group.wlane_alarms x n wide l _).trans hx) _ g rfl
@[simp] theorem Group.wv_phase (g : Group) (n : Nat) (wide : Bool) (m : Mask) (f : Nat → Nat) (tag : Nat) : (g.wv n wide m f tag).phase = g.phase := by
  unfold Group.wv
  simp only
  split
  · rfl
  · split <;> exact foldl_keep (fun x => Group.phase x = g.phase) _ (fun x l hx => (Group.wlane_phase x n wide l _).trans hx) _ g rfl
@[simp] theorem Group.wv_ops (g : Group) (n : Nat) (wide : Bool) (m : Mask) (f : Nat → Nat) (tag : Nat) : (g.wv n wide m f tag).ops = g.ops := by
  unfold Group.wv
  simp only
  split
  · rfl
  · split <;> exact foldl_keep (fun x => Group.ops x = g.ops) _ (fun x l hx => (Group.wlane_ops x n wide l _).trans hx) _ g rfl
@[simp] theorem Group.wv_lq (g : Group) (n : Nat) (wide : Bool) (m : Mask) (f : Nat → Nat) (tag : Nat) : (g.wv n wide m f tag).lq = g.lq := by
  unfold Group.wv
  simp only
  split
  · rfl
  · split <;> exact foldl_keep (fun x => Group.lq x = g.lq) _ (fun x l hx => (Group.wlane_lq x n wide l _).trans hx) _ g rfl
@[simp] theorem Group.wv_sb (g : Group) (n : Nat) (wide : Bool) (m : Mask) (f : Nat → Nat) (tag : Nat) : (g.wv n wide m f tag).sb = g.sb := by
  unfold Group.wv
  simp only
  split
  · rfl
  · split <;> exact foldl_keep (fun x => Group.sb x = g.sb) _ (fun x l hx => (Group.wlane_sb x n wide l _).trans hx) _ g rfl
@[simp] theorem Group.wv_pend (g : Group) (n : Nat) (wide : Bool) (m : Mask) (f : Nat → Nat) (tag : Nat) : (g.wv n wide m f tag).pend = g.pend := by
  unfold Group.wv
  simp only
  split
  · rfl
  · split <;> exact foldl_keep (fun x => Group.pend x = g.pend) _ (fun x l hx => (Group.wlane_pend x n wide l _).trans hx) _ g rfl
@[simp] theorem Group.wv_trapq (g : Group) (n : Nat) (wide : Bool) (m : Mask) (f : Nat → Nat) (tag : Nat) : (g.wv n wide m f tag).trapq = g.trapq := by
  unfold Group.wv
  simp only
  split
  · rfl
  · split <;> exact foldl_keep (fun x => Group.trapq x = g.trapq) _ (fun x l hx => (Group.wlane_trapq x n wide l _).trans hx) _ g rfl
@[simp] theorem Group.wv_trapcause (g : Group) (n : Nat) (wide : Bool) (m : Mask) (f : Nat → Nat) (tag : Nat) : (g.wv n wide m f tag).trapcause = g.trapcause := by
  unfold Group.wv
  simp only
  split
  · rfl
  · split <;> exact foldl_keep (fun x => Group.trapcause x = g.trapcause) _ (fun x l hx => (Group.wlane_trapcause x n wide l _).trans hx) _ g rfl
@[simp] theorem Group.wv_lastCause (g : Group) (n : Nat) (wide : Bool) (m : Mask) (f : Nat → Nat) (tag : Nat) : (g.wv n wide m f tag).lastCause = g.lastCause := by
  unfold Group.wv
  simp only
  split
  · rfl
  · split <;> exact foldl_keep (fun x => Group.lastCause x = g.lastCause) _ (fun x l hx => (Group.wlane_lastCause x n wide l _).trans hx) _ g rfl
@[simp] theorem Group.wv_handler (g : Group) (n : Nat) (wide : Bool) (m : Mask) (f : Nat → Nat) (tag : Nat) : (g.wv n wide m f tag).handler = g.handler := by
  unfold Group.wv
  simp only
  split
  · rfl
  · split <;> exact foldl_keep (fun x => Group.handler x = g.handler) _ (fun x l hx => (Group.wlane_handler x n wide l _).trans hx) _ g rfl
@[simp] theorem Group.wv_halted (g : Group) (n : Nat) (wide : Bool) (m : Mask) (f : Nat → Nat) (tag : Nat) : (g.wv n wide m f tag).halted = g.halted := by
  unfold Group.wv
  simp only
  split
  · rfl
  · split <;> exact foldl_keep (fun x => Group.halted x = g.halted) _ (fun x l hx => (Group.wlane_halted x n wide l _).trans hx) _ g rfl
@[simp] theorem Group.wv_exited (g : Group) (n : Nat) (wide : Bool) (m : Mask) (f : Nat → Nat) (tag : Nat) : (g.wv n wide m f tag).exited = g.exited := by
  unfold Group.wv
  simp only
  split
  · rfl
  · split <;> exact foldl_keep (fun x => Group.exited x = g.exited) _ (fun x l hx => (Group.wlane_exited x n wide l _).trans hx) _ g rfl
@[simp] theorem Group.wv_hold (g : Group) (n : Nat) (wide : Bool) (m : Mask) (f : Nat → Nat) (tag : Nat) : (g.wv n wide m f tag).hold = g.hold := by
  unfold Group.wv
  simp only
  split
  · rfl
  · split <;> exact foldl_keep (fun x => Group.hold x = g.hold) _ (fun x l hx => (Group.wlane_hold x n wide l _).trans hx) _ g rfl
@[simp] theorem Group.wv_stall (g : Group) (n : Nat) (wide : Bool) (m : Mask) (f : Nat → Nat) (tag : Nat) : (g.wv n wide m f tag).stall = g.stall := by
  unfold Group.wv
  simp only
  split
  · rfl
  · split <;> exact foldl_keep (fun x => Group.stall x = g.stall) _ (fun x l hx => (Group.wlane_stall x n wide l _).trans hx) _ g rfl
@[simp] theorem Group.wv_yieldHint (g : Group) (n : Nat) (wide : Bool) (m : Mask) (f : Nat → Nat) (tag : Nat) : (g.wv n wide m f tag).yieldHint = g.yieldHint := by
  unfold Group.wv
  simp only
  split
  · rfl
  · split <;> exact foldl_keep (fun x => Group.yieldHint x = g.yieldHint) _ (fun x l hx => (Group.wlane_yieldHint x n wide l _).trans hx) _ g rfl
@[simp] theorem Group.wv_age (g : Group) (n : Nat) (wide : Bool) (m : Mask) (f : Nat → Nat) (tag : Nat) : (g.wv n wide m f tag).age = g.age := by
  unfold Group.wv
  simp only
  split
  · rfl
  · split <;> exact foldl_keep (fun x => Group.age x = g.age) _ (fun x l hx => (Group.wlane_age x n wide l _).trans hx) _ g rfl
@[simp] theorem Group.wv_cycle (g : Group) (n : Nat) (wide : Bool) (m : Mask) (f : Nat → Nat) (tag : Nat) : (g.wv n wide m f tag).cycle = g.cycle := by
  unfold Group.wv
  simp only
  split
  · rfl
  · split <;> exact foldl_keep (fun x => Group.cycle x = g.cycle) _ (fun x l hx => (Group.wlane_cycle x n wide l _).trans hx) _ g rfl
@[simp] theorem Group.wv_retired (g : Group) (n : Nat) (wide : Bool) (m : Mask) (f : Nat → Nat) (tag : Nat) : (g.wv n wide m f tag).retired = g.retired := by
  unfold Group.wv
  simp only
  split
  · rfl
  · split <;> exact foldl_keep (fun x => Group.retired x = g.retired) _ (fun x l hx => (Group.wlane_retired x n wide l _).trans hx) _ g rfl
@[simp] theorem Group.wv_stalls (g : Group) (n : Nat) (wide : Bool) (m : Mask) (f : Nat → Nat) (tag : Nat) : (g.wv n wide m f tag).stalls = g.stalls := by
  unfold Group.wv
  simp only
  split
  · rfl
  · split <;> exact foldl_keep (fun x => Group.stalls x = g.stalls) _ (fun x l hx => (Group.wlane_stalls x n wide l _).trans hx) _ g rfl
@[simp] theorem Group.wv_ovf (g : Group) (n : Nat) (wide : Bool) (m : Mask) (f : Nat → Nat) (tag : Nat) : (g.wv n wide m f tag).ovf = g.ovf := by
  unfold Group.wv
  simp only
  split
  · rfl
  · split <;> exact foldl_keep (fun x => Group.ovf x = g.ovf) _ (fun x l hx => (Group.wlane_ovf x n wide l _).trans hx) _ g rfl
@[simp] theorem Group.wv_fresh (g : Group) (n : Nat) (wide : Bool) (m : Mask) (f : Nat → Nat) (tag : Nat) : (g.wv n wide m f tag).fresh = g.fresh := by
  unfold Group.wv
  simp only
  split
  · rfl
  · split <;> exact foldl_keep (fun x => Group.fresh x = g.fresh) _ (fun x l hx => (Group.wlane_fresh x n wide l _).trans hx) _ g rfl
@[simp] theorem Group.wv_evicted (g : Group) (n : Nat) (wide : Bool) (m : Mask) (f : Nat → Nat) (tag : Nat) : (g.wv n wide m f tag).evicted = g.evicted := by
  unfold Group.wv
  simp only
  split
  · rfl
  · split <;> exact foldl_keep (fun x => Group.evicted x = g.evicted) _ (fun x l hx => (Group.wlane_evicted x n wide l _).trans hx) _ g rfl
@[simp] theorem Group.wv_gath (g : Group) (n : Nat) (wide : Bool) (m : Mask) (f : Nat → Nat) (tag : Nat) : (g.wv n wide m f tag).gath = g.gath := by
  unfold Group.wv
  simp only
  split
  · rfl
  · split <;> exact foldl_keep (fun x => Group.gath x = g.gath) _ (fun x l hx => (Group.wlane_gath x n wide l _).trans hx) _ g rfl
@[simp] theorem Group.wv_asked (g : Group) (n : Nat) (wide : Bool) (m : Mask) (f : Nat → Nat) (tag : Nat) : (g.wv n wide m f tag).asked = g.asked := by
  unfold Group.wv
  simp only
  split
  · rfl
  · split <;> exact foldl_keep (fun x => Group.asked x = g.asked) _ (fun x l hx => (Group.wlane_asked x n wide l _).trans hx) _ g rfl
@[simp] theorem Group.wv_redBad (g : Group) (n : Nat) (wide : Bool) (m : Mask) (f : Nat → Nat) (tag : Nat) : (g.wv n wide m f tag).redBad = g.redBad := by
  unfold Group.wv
  simp only
  split
  · rfl
  · split <;> exact foldl_keep (fun x => Group.redBad x = g.redBad) _ (fun x l hx => (Group.wlane_redBad x n wide l _).trans hx) _ g rfl
@[simp] theorem Group.wv_unsaved (g : Group) (n : Nat) (wide : Bool) (m : Mask) (f : Nat → Nat) (tag : Nat) : (g.wv n wide m f tag).unsaved = g.unsaved := by
  unfold Group.wv
  simp only
  split
  · rfl
  · split <;> exact foldl_keep (fun x => Group.unsaved x = g.unsaved) _ (fun x l hx => (Group.wlane_unsaved x n wide l _).trans hx) _ g rfl

/-! ## Group.wout -/

@[simp] theorem Group.wout_role (g : Group) (n : Nat) (wide : Bool) (m : Mask) (f : Nat → LaneOut) (tag : Nat) : (g.wout n wide m f tag).role = g.role := by
  unfold Group.wout
  simp only
  split
  · rfl
  · split <;> exact foldl_keep (fun x => Group.role x = g.role) _ (fun x o hx => by
      split <;> exact (Group.wlane_role x n wide _ _).trans hx) _ g rfl
@[simp] theorem Group.wout_slot (g : Group) (n : Nat) (wide : Bool) (m : Mask) (f : Nat → LaneOut) (tag : Nat) : (g.wout n wide m f tag).slot = g.slot := by
  unfold Group.wout
  simp only
  split
  · rfl
  · split <;> exact foldl_keep (fun x => Group.slot x = g.slot) _ (fun x o hx => by
      split <;> exact (Group.wlane_slot x n wide _ _).trans hx) _ g rfl
@[simp] theorem Group.wout_s (g : Group) (n : Nat) (wide : Bool) (m : Mask) (f : Nat → LaneOut) (tag : Nat) : (g.wout n wide m f tag).s = g.s := by
  unfold Group.wout
  simp only
  split
  · rfl
  · split <;> exact foldl_keep (fun x => Group.s x = g.s) _ (fun x o hx => by
      split <;> exact (Group.wlane_s x n wide _ _).trans hx) _ g rfl
@[simp] theorem Group.wout_p (g : Group) (n : Nat) (wide : Bool) (m : Mask) (f : Nat → LaneOut) (tag : Nat) : (g.wout n wide m f tag).p = g.p := by
  unfold Group.wout
  simp only
  split
  · rfl
  · split <;> exact foldl_keep (fun x => Group.p x = g.p) _ (fun x o hx => by
      split <;> exact (Group.wlane_p x n wide _ _).trans hx) _ g rfl
@[simp] theorem Group.wout_front (g : Group) (n : Nat) (wide : Bool) (m : Mask) (f : Nat → LaneOut) (tag : Nat) : (g.wout n wide m f tag).front = g.front := by
  unfold Group.wout
  simp only
  split
  · rfl
  · split <;> exact foldl_keep (fun x => Group.front x = g.front) _ (fun x o hx => by
      split <;> exact (Group.wlane_front x n wide _ _).trans hx) _ g rfl
@[simp] theorem Group.wout_yieldPc (g : Group) (n : Nat) (wide : Bool) (m : Mask) (f : Nat → LaneOut) (tag : Nat) : (g.wout n wide m f tag).yieldPc = g.yieldPc := by
  unfold Group.wout
  simp only
  split
  · rfl
  · split <;> exact foldl_keep (fun x => Group.yieldPc x = g.yieldPc) _ (fun x o hx => by
      split <;> exact (Group.wlane_yieldPc x n wide _ _).trans hx) _ g rfl
@[simp] theorem Group.wout_calls (g : Group) (n : Nat) (wide : Bool) (m : Mask) (f : Nat → LaneOut) (tag : Nat) : (g.wout n wide m f tag).calls = g.calls := by
  unfold Group.wout
  simp only
  split
  · rfl
  · split <;> exact foldl_keep (fun x => Group.calls x = g.calls) _ (fun x o hx => by
      split <;> exact (Group.wlane_calls x n wide _ _).trans hx) _ g rfl
@[simp] theorem Group.wout_spill (g : Group) (n : Nat) (wide : Bool) (m : Mask) (f : Nat → LaneOut) (tag : Nat) : (g.wout n wide m f tag).spill = g.spill := by
  unfold Group.wout
  simp only
  split
  · rfl
  · split <;> exact foldl_keep (fun x => Group.spill x = g.spill) _ (fun x o hx => by
      split <;> exact (Group.wlane_spill x n wide _ _).trans hx) _ g rfl
@[simp] theorem Group.wout_alarms (g : Group) (n : Nat) (wide : Bool) (m : Mask) (f : Nat → LaneOut) (tag : Nat) : (g.wout n wide m f tag).alarms = g.alarms := by
  unfold Group.wout
  simp only
  split
  · rfl
  · split <;> exact foldl_keep (fun x => Group.alarms x = g.alarms) _ (fun x o hx => by
      split <;> exact (Group.wlane_alarms x n wide _ _).trans hx) _ g rfl
@[simp] theorem Group.wout_phase (g : Group) (n : Nat) (wide : Bool) (m : Mask) (f : Nat → LaneOut) (tag : Nat) : (g.wout n wide m f tag).phase = g.phase := by
  unfold Group.wout
  simp only
  split
  · rfl
  · split <;> exact foldl_keep (fun x => Group.phase x = g.phase) _ (fun x o hx => by
      split <;> exact (Group.wlane_phase x n wide _ _).trans hx) _ g rfl
@[simp] theorem Group.wout_ops (g : Group) (n : Nat) (wide : Bool) (m : Mask) (f : Nat → LaneOut) (tag : Nat) : (g.wout n wide m f tag).ops = g.ops := by
  unfold Group.wout
  simp only
  split
  · rfl
  · split <;> exact foldl_keep (fun x => Group.ops x = g.ops) _ (fun x o hx => by
      split <;> exact (Group.wlane_ops x n wide _ _).trans hx) _ g rfl
@[simp] theorem Group.wout_lq (g : Group) (n : Nat) (wide : Bool) (m : Mask) (f : Nat → LaneOut) (tag : Nat) : (g.wout n wide m f tag).lq = g.lq := by
  unfold Group.wout
  simp only
  split
  · rfl
  · split <;> exact foldl_keep (fun x => Group.lq x = g.lq) _ (fun x o hx => by
      split <;> exact (Group.wlane_lq x n wide _ _).trans hx) _ g rfl
@[simp] theorem Group.wout_sb (g : Group) (n : Nat) (wide : Bool) (m : Mask) (f : Nat → LaneOut) (tag : Nat) : (g.wout n wide m f tag).sb = g.sb := by
  unfold Group.wout
  simp only
  split
  · rfl
  · split <;> exact foldl_keep (fun x => Group.sb x = g.sb) _ (fun x o hx => by
      split <;> exact (Group.wlane_sb x n wide _ _).trans hx) _ g rfl
@[simp] theorem Group.wout_pend (g : Group) (n : Nat) (wide : Bool) (m : Mask) (f : Nat → LaneOut) (tag : Nat) : (g.wout n wide m f tag).pend = g.pend := by
  unfold Group.wout
  simp only
  split
  · rfl
  · split <;> exact foldl_keep (fun x => Group.pend x = g.pend) _ (fun x o hx => by
      split <;> exact (Group.wlane_pend x n wide _ _).trans hx) _ g rfl
@[simp] theorem Group.wout_trapq (g : Group) (n : Nat) (wide : Bool) (m : Mask) (f : Nat → LaneOut) (tag : Nat) : (g.wout n wide m f tag).trapq = g.trapq := by
  unfold Group.wout
  simp only
  split
  · rfl
  · split <;> exact foldl_keep (fun x => Group.trapq x = g.trapq) _ (fun x o hx => by
      split <;> exact (Group.wlane_trapq x n wide _ _).trans hx) _ g rfl
@[simp] theorem Group.wout_trapcause (g : Group) (n : Nat) (wide : Bool) (m : Mask) (f : Nat → LaneOut) (tag : Nat) : (g.wout n wide m f tag).trapcause = g.trapcause := by
  unfold Group.wout
  simp only
  split
  · rfl
  · split <;> exact foldl_keep (fun x => Group.trapcause x = g.trapcause) _ (fun x o hx => by
      split <;> exact (Group.wlane_trapcause x n wide _ _).trans hx) _ g rfl
@[simp] theorem Group.wout_lastCause (g : Group) (n : Nat) (wide : Bool) (m : Mask) (f : Nat → LaneOut) (tag : Nat) : (g.wout n wide m f tag).lastCause = g.lastCause := by
  unfold Group.wout
  simp only
  split
  · rfl
  · split <;> exact foldl_keep (fun x => Group.lastCause x = g.lastCause) _ (fun x o hx => by
      split <;> exact (Group.wlane_lastCause x n wide _ _).trans hx) _ g rfl
@[simp] theorem Group.wout_handler (g : Group) (n : Nat) (wide : Bool) (m : Mask) (f : Nat → LaneOut) (tag : Nat) : (g.wout n wide m f tag).handler = g.handler := by
  unfold Group.wout
  simp only
  split
  · rfl
  · split <;> exact foldl_keep (fun x => Group.handler x = g.handler) _ (fun x o hx => by
      split <;> exact (Group.wlane_handler x n wide _ _).trans hx) _ g rfl
@[simp] theorem Group.wout_halted (g : Group) (n : Nat) (wide : Bool) (m : Mask) (f : Nat → LaneOut) (tag : Nat) : (g.wout n wide m f tag).halted = g.halted := by
  unfold Group.wout
  simp only
  split
  · rfl
  · split <;> exact foldl_keep (fun x => Group.halted x = g.halted) _ (fun x o hx => by
      split <;> exact (Group.wlane_halted x n wide _ _).trans hx) _ g rfl
@[simp] theorem Group.wout_exited (g : Group) (n : Nat) (wide : Bool) (m : Mask) (f : Nat → LaneOut) (tag : Nat) : (g.wout n wide m f tag).exited = g.exited := by
  unfold Group.wout
  simp only
  split
  · rfl
  · split <;> exact foldl_keep (fun x => Group.exited x = g.exited) _ (fun x o hx => by
      split <;> exact (Group.wlane_exited x n wide _ _).trans hx) _ g rfl
@[simp] theorem Group.wout_hold (g : Group) (n : Nat) (wide : Bool) (m : Mask) (f : Nat → LaneOut) (tag : Nat) : (g.wout n wide m f tag).hold = g.hold := by
  unfold Group.wout
  simp only
  split
  · rfl
  · split <;> exact foldl_keep (fun x => Group.hold x = g.hold) _ (fun x o hx => by
      split <;> exact (Group.wlane_hold x n wide _ _).trans hx) _ g rfl
@[simp] theorem Group.wout_stall (g : Group) (n : Nat) (wide : Bool) (m : Mask) (f : Nat → LaneOut) (tag : Nat) : (g.wout n wide m f tag).stall = g.stall := by
  unfold Group.wout
  simp only
  split
  · rfl
  · split <;> exact foldl_keep (fun x => Group.stall x = g.stall) _ (fun x o hx => by
      split <;> exact (Group.wlane_stall x n wide _ _).trans hx) _ g rfl
@[simp] theorem Group.wout_yieldHint (g : Group) (n : Nat) (wide : Bool) (m : Mask) (f : Nat → LaneOut) (tag : Nat) : (g.wout n wide m f tag).yieldHint = g.yieldHint := by
  unfold Group.wout
  simp only
  split
  · rfl
  · split <;> exact foldl_keep (fun x => Group.yieldHint x = g.yieldHint) _ (fun x o hx => by
      split <;> exact (Group.wlane_yieldHint x n wide _ _).trans hx) _ g rfl
@[simp] theorem Group.wout_age (g : Group) (n : Nat) (wide : Bool) (m : Mask) (f : Nat → LaneOut) (tag : Nat) : (g.wout n wide m f tag).age = g.age := by
  unfold Group.wout
  simp only
  split
  · rfl
  · split <;> exact foldl_keep (fun x => Group.age x = g.age) _ (fun x o hx => by
      split <;> exact (Group.wlane_age x n wide _ _).trans hx) _ g rfl
@[simp] theorem Group.wout_cycle (g : Group) (n : Nat) (wide : Bool) (m : Mask) (f : Nat → LaneOut) (tag : Nat) : (g.wout n wide m f tag).cycle = g.cycle := by
  unfold Group.wout
  simp only
  split
  · rfl
  · split <;> exact foldl_keep (fun x => Group.cycle x = g.cycle) _ (fun x o hx => by
      split <;> exact (Group.wlane_cycle x n wide _ _).trans hx) _ g rfl
@[simp] theorem Group.wout_retired (g : Group) (n : Nat) (wide : Bool) (m : Mask) (f : Nat → LaneOut) (tag : Nat) : (g.wout n wide m f tag).retired = g.retired := by
  unfold Group.wout
  simp only
  split
  · rfl
  · split <;> exact foldl_keep (fun x => Group.retired x = g.retired) _ (fun x o hx => by
      split <;> exact (Group.wlane_retired x n wide _ _).trans hx) _ g rfl
@[simp] theorem Group.wout_stalls (g : Group) (n : Nat) (wide : Bool) (m : Mask) (f : Nat → LaneOut) (tag : Nat) : (g.wout n wide m f tag).stalls = g.stalls := by
  unfold Group.wout
  simp only
  split
  · rfl
  · split <;> exact foldl_keep (fun x => Group.stalls x = g.stalls) _ (fun x o hx => by
      split <;> exact (Group.wlane_stalls x n wide _ _).trans hx) _ g rfl
@[simp] theorem Group.wout_ovf (g : Group) (n : Nat) (wide : Bool) (m : Mask) (f : Nat → LaneOut) (tag : Nat) : (g.wout n wide m f tag).ovf = g.ovf := by
  unfold Group.wout
  simp only
  split
  · rfl
  · split <;> exact foldl_keep (fun x => Group.ovf x = g.ovf) _ (fun x o hx => by
      split <;> exact (Group.wlane_ovf x n wide _ _).trans hx) _ g rfl
@[simp] theorem Group.wout_fresh (g : Group) (n : Nat) (wide : Bool) (m : Mask) (f : Nat → LaneOut) (tag : Nat) : (g.wout n wide m f tag).fresh = g.fresh := by
  unfold Group.wout
  simp only
  split
  · rfl
  · split <;> exact foldl_keep (fun x => Group.fresh x = g.fresh) _ (fun x o hx => by
      split <;> exact (Group.wlane_fresh x n wide _ _).trans hx) _ g rfl
@[simp] theorem Group.wout_evicted (g : Group) (n : Nat) (wide : Bool) (m : Mask) (f : Nat → LaneOut) (tag : Nat) : (g.wout n wide m f tag).evicted = g.evicted := by
  unfold Group.wout
  simp only
  split
  · rfl
  · split <;> exact foldl_keep (fun x => Group.evicted x = g.evicted) _ (fun x o hx => by
      split <;> exact (Group.wlane_evicted x n wide _ _).trans hx) _ g rfl
@[simp] theorem Group.wout_gath (g : Group) (n : Nat) (wide : Bool) (m : Mask) (f : Nat → LaneOut) (tag : Nat) : (g.wout n wide m f tag).gath = g.gath := by
  unfold Group.wout
  simp only
  split
  · rfl
  · split <;> exact foldl_keep (fun x => Group.gath x = g.gath) _ (fun x o hx => by
      split <;> exact (Group.wlane_gath x n wide _ _).trans hx) _ g rfl
@[simp] theorem Group.wout_asked (g : Group) (n : Nat) (wide : Bool) (m : Mask) (f : Nat → LaneOut) (tag : Nat) : (g.wout n wide m f tag).asked = g.asked := by
  unfold Group.wout
  simp only
  split
  · rfl
  · split <;> exact foldl_keep (fun x => Group.asked x = g.asked) _ (fun x o hx => by
      split <;> exact (Group.wlane_asked x n wide _ _).trans hx) _ g rfl
@[simp] theorem Group.wout_redBad (g : Group) (n : Nat) (wide : Bool) (m : Mask) (f : Nat → LaneOut) (tag : Nat) : (g.wout n wide m f tag).redBad = g.redBad := by
  unfold Group.wout
  simp only
  split
  · rfl
  · split <;> exact foldl_keep (fun x => Group.redBad x = g.redBad) _ (fun x o hx => by
      split <;> exact (Group.wlane_redBad x n wide _ _).trans hx) _ g rfl
@[simp] theorem Group.wout_unsaved (g : Group) (n : Nat) (wide : Bool) (m : Mask) (f : Nat → LaneOut) (tag : Nat) : (g.wout n wide m f tag).unsaved = g.unsaved := by
  unfold Group.wout
  simp only
  split
  · rfl
  · split <;> exact foldl_keep (fun x => Group.unsaved x = g.unsaved) _ (fun x o hx => by
      split <;> exact (Group.wlane_unsaved x n wide _ _).trans hx) _ g rfl

/-! ## Group.addOp -/

@[simp] theorem Group.addOp_role (g : Group) (id : Nat) (c : OpClass) : (g.addOp id c).role = g.role := rfl
@[simp] theorem Group.addOp_slot (g : Group) (id : Nat) (c : OpClass) : (g.addOp id c).slot = g.slot := rfl
@[simp] theorem Group.addOp_v (g : Group) (id : Nat) (c : OpClass) : (g.addOp id c).v = g.v := rfl
@[simp] theorem Group.addOp_vtag (g : Group) (id : Nat) (c : OpClass) : (g.addOp id c).vtag = g.vtag := rfl
@[simp] theorem Group.addOp_s (g : Group) (id : Nat) (c : OpClass) : (g.addOp id c).s = g.s := rfl
@[simp] theorem Group.addOp_p (g : Group) (id : Nat) (c : OpClass) : (g.addOp id c).p = g.p := rfl
@[simp] theorem Group.addOp_seed (g : Group) (id : Nat) (c : OpClass) : (g.addOp id c).seed = g.seed := rfl
@[simp] theorem Group.addOp_fflags (g : Group) (id : Nat) (c : OpClass) : (g.addOp id c).fflags = g.fflags := rfl
@[simp] theorem Group.addOp_front (g : Group) (id : Nat) (c : OpClass) : (g.addOp id c).front = g.front := rfl
@[simp] theorem Group.addOp_yieldPc (g : Group) (id : Nat) (c : OpClass) : (g.addOp id c).yieldPc = g.yieldPc := rfl
@[simp] theorem Group.addOp_calls (g : Group) (id : Nat) (c : OpClass) : (g.addOp id c).calls = g.calls := rfl
@[simp] theorem Group.addOp_spill (g : Group) (id : Nat) (c : OpClass) : (g.addOp id c).spill = g.spill := rfl
@[simp] theorem Group.addOp_alarms (g : Group) (id : Nat) (c : OpClass) : (g.addOp id c).alarms = g.alarms := rfl
@[simp] theorem Group.addOp_phase (g : Group) (id : Nat) (c : OpClass) : (g.addOp id c).phase = g.phase := rfl
@[simp] theorem Group.addOp_lq (g : Group) (id : Nat) (c : OpClass) : (g.addOp id c).lq = g.lq := rfl
@[simp] theorem Group.addOp_sb (g : Group) (id : Nat) (c : OpClass) : (g.addOp id c).sb = g.sb := rfl
@[simp] theorem Group.addOp_pend (g : Group) (id : Nat) (c : OpClass) : (g.addOp id c).pend = g.pend := rfl
@[simp] theorem Group.addOp_trapq (g : Group) (id : Nat) (c : OpClass) : (g.addOp id c).trapq = g.trapq := rfl
@[simp] theorem Group.addOp_trapcause (g : Group) (id : Nat) (c : OpClass) : (g.addOp id c).trapcause = g.trapcause := rfl
@[simp] theorem Group.addOp_lastCause (g : Group) (id : Nat) (c : OpClass) : (g.addOp id c).lastCause = g.lastCause := rfl
@[simp] theorem Group.addOp_handler (g : Group) (id : Nat) (c : OpClass) : (g.addOp id c).handler = g.handler := rfl
@[simp] theorem Group.addOp_halted (g : Group) (id : Nat) (c : OpClass) : (g.addOp id c).halted = g.halted := rfl
@[simp] theorem Group.addOp_exited (g : Group) (id : Nat) (c : OpClass) : (g.addOp id c).exited = g.exited := rfl
@[simp] theorem Group.addOp_hold (g : Group) (id : Nat) (c : OpClass) : (g.addOp id c).hold = g.hold := rfl
@[simp] theorem Group.addOp_stall (g : Group) (id : Nat) (c : OpClass) : (g.addOp id c).stall = g.stall := rfl
@[simp] theorem Group.addOp_yieldHint (g : Group) (id : Nat) (c : OpClass) : (g.addOp id c).yieldHint = g.yieldHint := rfl
@[simp] theorem Group.addOp_age (g : Group) (id : Nat) (c : OpClass) : (g.addOp id c).age = g.age := rfl
@[simp] theorem Group.addOp_cycle (g : Group) (id : Nat) (c : OpClass) : (g.addOp id c).cycle = g.cycle := rfl
@[simp] theorem Group.addOp_retired (g : Group) (id : Nat) (c : OpClass) : (g.addOp id c).retired = g.retired := rfl
@[simp] theorem Group.addOp_stalls (g : Group) (id : Nat) (c : OpClass) : (g.addOp id c).stalls = g.stalls := rfl
@[simp] theorem Group.addOp_ovf (g : Group) (id : Nat) (c : OpClass) : (g.addOp id c).ovf = g.ovf := rfl
@[simp] theorem Group.addOp_fresh (g : Group) (id : Nat) (c : OpClass) : (g.addOp id c).fresh = g.fresh := rfl
@[simp] theorem Group.addOp_evicted (g : Group) (id : Nat) (c : OpClass) : (g.addOp id c).evicted = g.evicted := rfl
@[simp] theorem Group.addOp_gath (g : Group) (id : Nat) (c : OpClass) : (g.addOp id c).gath = g.gath := rfl
@[simp] theorem Group.addOp_asked (g : Group) (id : Nat) (c : OpClass) : (g.addOp id c).asked = g.asked := rfl
@[simp] theorem Group.addOp_redBad (g : Group) (id : Nat) (c : OpClass) : (g.addOp id c).redBad = g.redBad := rfl
@[simp] theorem Group.addOp_unsaved (g : Group) (id : Nat) (c : OpClass) : (g.addOp id c).unsaved = g.unsaved := rfl

/-! ## Group.endOp -/

@[simp] theorem Group.endOp_role (g : Group) (id : Nat) : (g.endOp id).role = g.role := by unfold Group.endOp; simp only; split <;> rfl
@[simp] theorem Group.endOp_slot (g : Group) (id : Nat) : (g.endOp id).slot = g.slot := by unfold Group.endOp; simp only; split <;> rfl
@[simp] theorem Group.endOp_v (g : Group) (id : Nat) : (g.endOp id).v = g.v := by unfold Group.endOp; simp only; split <;> rfl
@[simp] theorem Group.endOp_vtag (g : Group) (id : Nat) : (g.endOp id).vtag = g.vtag := by unfold Group.endOp; simp only; split <;> rfl
@[simp] theorem Group.endOp_s (g : Group) (id : Nat) : (g.endOp id).s = g.s := by unfold Group.endOp; simp only; split <;> rfl
@[simp] theorem Group.endOp_p (g : Group) (id : Nat) : (g.endOp id).p = g.p := by unfold Group.endOp; simp only; split <;> rfl
@[simp] theorem Group.endOp_seed (g : Group) (id : Nat) : (g.endOp id).seed = g.seed := by unfold Group.endOp; simp only; split <;> rfl
@[simp] theorem Group.endOp_fflags (g : Group) (id : Nat) : (g.endOp id).fflags = g.fflags := by unfold Group.endOp; simp only; split <;> rfl
@[simp] theorem Group.endOp_front (g : Group) (id : Nat) : (g.endOp id).front = g.front := by unfold Group.endOp; simp only; split <;> rfl
@[simp] theorem Group.endOp_yieldPc (g : Group) (id : Nat) : (g.endOp id).yieldPc = g.yieldPc := by unfold Group.endOp; simp only; split <;> rfl
@[simp] theorem Group.endOp_calls (g : Group) (id : Nat) : (g.endOp id).calls = g.calls := by unfold Group.endOp; simp only; split <;> rfl
@[simp] theorem Group.endOp_spill (g : Group) (id : Nat) : (g.endOp id).spill = g.spill := by unfold Group.endOp; simp only; split <;> rfl
@[simp] theorem Group.endOp_alarms (g : Group) (id : Nat) : (g.endOp id).alarms = g.alarms := by unfold Group.endOp; simp only; split <;> rfl
@[simp] theorem Group.endOp_phase (g : Group) (id : Nat) : (g.endOp id).phase = g.phase := by unfold Group.endOp; simp only; split <;> rfl
@[simp] theorem Group.endOp_lq (g : Group) (id : Nat) : (g.endOp id).lq = g.lq := by unfold Group.endOp; simp only; split <;> rfl
@[simp] theorem Group.endOp_sb (g : Group) (id : Nat) : (g.endOp id).sb = g.sb := by unfold Group.endOp; simp only; split <;> rfl
@[simp] theorem Group.endOp_pend (g : Group) (id : Nat) : (g.endOp id).pend = g.pend := by unfold Group.endOp; simp only; split <;> rfl
@[simp] theorem Group.endOp_trapq (g : Group) (id : Nat) : (g.endOp id).trapq = g.trapq := by unfold Group.endOp; simp only; split <;> rfl
@[simp] theorem Group.endOp_trapcause (g : Group) (id : Nat) : (g.endOp id).trapcause = g.trapcause := by unfold Group.endOp; simp only; split <;> rfl
@[simp] theorem Group.endOp_lastCause (g : Group) (id : Nat) : (g.endOp id).lastCause = g.lastCause := by unfold Group.endOp; simp only; split <;> rfl
@[simp] theorem Group.endOp_handler (g : Group) (id : Nat) : (g.endOp id).handler = g.handler := by unfold Group.endOp; simp only; split <;> rfl
@[simp] theorem Group.endOp_halted (g : Group) (id : Nat) : (g.endOp id).halted = g.halted := by unfold Group.endOp; simp only; split <;> rfl
@[simp] theorem Group.endOp_exited (g : Group) (id : Nat) : (g.endOp id).exited = g.exited := by unfold Group.endOp; simp only; split <;> rfl
@[simp] theorem Group.endOp_hold (g : Group) (id : Nat) : (g.endOp id).hold = g.hold := by unfold Group.endOp; simp only; split <;> rfl
@[simp] theorem Group.endOp_stall (g : Group) (id : Nat) : (g.endOp id).stall = g.stall := by unfold Group.endOp; simp only; split <;> rfl
@[simp] theorem Group.endOp_yieldHint (g : Group) (id : Nat) : (g.endOp id).yieldHint = g.yieldHint := by unfold Group.endOp; simp only; split <;> rfl
@[simp] theorem Group.endOp_age (g : Group) (id : Nat) : (g.endOp id).age = g.age := by unfold Group.endOp; simp only; split <;> rfl
@[simp] theorem Group.endOp_cycle (g : Group) (id : Nat) : (g.endOp id).cycle = g.cycle := by unfold Group.endOp; simp only; split <;> rfl
@[simp] theorem Group.endOp_retired (g : Group) (id : Nat) : (g.endOp id).retired = g.retired := by unfold Group.endOp; simp only; split <;> rfl
@[simp] theorem Group.endOp_stalls (g : Group) (id : Nat) : (g.endOp id).stalls = g.stalls := by unfold Group.endOp; simp only; split <;> rfl
@[simp] theorem Group.endOp_ovf (g : Group) (id : Nat) : (g.endOp id).ovf = g.ovf := by unfold Group.endOp; simp only; split <;> rfl
@[simp] theorem Group.endOp_fresh (g : Group) (id : Nat) : (g.endOp id).fresh = g.fresh := by unfold Group.endOp; simp only; split <;> rfl
@[simp] theorem Group.endOp_evicted (g : Group) (id : Nat) : (g.endOp id).evicted = g.evicted := by unfold Group.endOp; simp only; split <;> rfl
@[simp] theorem Group.endOp_gath (g : Group) (id : Nat) : (g.endOp id).gath = g.gath := by unfold Group.endOp; simp only; split <;> rfl
@[simp] theorem Group.endOp_asked (g : Group) (id : Nat) : (g.endOp id).asked = g.asked := by unfold Group.endOp; simp only; split <;> rfl
@[simp] theorem Group.endOp_redBad (g : Group) (id : Nat) : (g.endOp id).redBad = g.redBad := by unfold Group.endOp; simp only; split <;> rfl
@[simp] theorem Group.endOp_unsaved (g : Group) (id : Nat) : (g.endOp id).unsaved = g.unsaved := by unfold Group.endOp; simp only; split <;> rfl

end Sys2Proof.Machine
end

