-- ==== Sys2Proof/Laws/Issue.lean ====
section
/-!
SUPPORT. Laws/Issue.lean: what the wrappers of issue answer, what completing an issue leaves alone, and the group after
it. The meanings' laws cite these and never unfold the wrappers.
-/
namespace Sys2Proof.Machine

open Host (Outcome)

/-! ## The wrappers -/

theorem State.readRegs_nil {s : State} (h : s.errs = []) (k : Iss) (ls : List Nat × List Nat) :
    s.readRegs k ls = (s, none) := by
  unfold State.readRegs
  simp [h]

theorem Ready.issuer {s : State} {k : Iss} {op : Nat} {ls : List Nat × List Nat} (h : Ready s k op ls) :
    s.issuer = some k := h.1

theorem Ready.errs {s : State} {k : Iss} {op : Nat} {ls : List Nat × List Nat} (h : Ready s k op ls) : s.errs = [] :=
  h.2.2.2.2

theorem Ready.enter {s : State} {k : Iss} {op : Nat} {ls : List Nat × List Nat} (h : Ready s k op ls) :
    k.enter op ls = .ok () := by
  obtain ⟨-, hr, hm, hc, -⟩ := h
  unfold Iss.enter
  have h1 : (!k.t.mast && !roleOk k.gr.role op) = false := by
    rcases hr with h | h <;> simp [h]
  simp [h1, hm, hc]

/-- A ready instruction answers what its meaning gives. -/
theorem runJ_ready {s : State} {k : Iss} {op : Nat} {ls : List Nat × List Nat} (h : Ready s k op ls) (sl : Slots)
    (f : Iss → Except Bail (State × List (Pc × Mask))) :
    runJ op s sl ls f = match f k with
      | .error b => .next (s.bail k b)
      | .ok (s1, tg) => .next ((s1.readRegs k ls).1.retire k sl.hint tg none) := by
  unfold runJ
  rw [h.issuer]
  first
    | (simp only [h.enter, State.readRegs_nil h.errs]; done)
    | (simp only [h.enter, State.readRegs_nil h.errs]; rfl)

theorem runJ_ok {s s1 : State} {k : Iss} {op : Nat} {ls : List Nat × List Nat} {tg : List (Pc × Mask)}
    (h : Ready s k op ls) (sl : Slots) {f : Iss → Except Bail (State × List (Pc × Mask))} (hf : f k = .ok (s1, tg))
    (he : s1.errs = s.errs) : Issues (runJ op s sl ls f) s1 k sl.hint tg := by
  unfold Issues
  rw [runJ_ready h, hf]
  simp only [State.readRegs_nil (he.trans h.errs)]

theorem runS_ok {s s1 : State} {k : Iss} {op : Nat} {ls : List Nat × List Nat} (h : Ready s k op ls) (sl : Slots)
    {f : Iss → Except Bail State} (hf : f k = .ok s1) (he : s1.errs = s.errs) :
    Issues (runS op s sl ls f) s1 k sl.hint k.fall :=
  runJ_ok h sl (by simp only [hf]) he

theorem runG_ok {s : State} {k : Iss} {op : Nat} {ls : List Nat × List Nat} {g1 : Group} (h : Ready s k op ls) (sl : Slots)
    {f : Iss → Except Bail Group} (hf : f k = .ok g1) : IssuesGroup (runG op s sl ls f) s k sl.hint g1 :=
  runS_ok h sl (by simp only [hf]) (by simp)

/-- A ready instruction whose meaning bails. -/
theorem runJ_bail {s : State} {k : Iss} {op : Nat} {ls : List Nat × List Nat} (h : Ready s k op ls) (sl : Slots)
    {f : Iss → Except Bail (State × List (Pc × Mask))} {b : Bail} (hf : f k = .error b) :
    runJ op s sl ls f = .next (s.bail k b) := by rw [runJ_ready h, hf]

theorem runS_bail {s : State} {k : Iss} {op : Nat} {ls : List Nat × List Nat} (h : Ready s k op ls) (sl : Slots)
    {f : Iss → Except Bail State} {b : Bail} (hf : f k = .error b) : runS op s sl ls f = .next (s.bail k b) :=
  runJ_bail h sl (by simp only [hf])

theorem runG_bail {s : State} {k : Iss} {op : Nat} {ls : List Nat × List Nat} (h : Ready s k op ls) (sl : Slots)
    {f : Iss → Except Bail Group} {b : Bail} (hf : f k = .error b) : runG op s sl ls f = .next (s.bail k b) :=
  runS_bail h sl (by simp only [hf])

/-- Reads at issue that meet nothing while no error is listed (06 R154). -/
def Quiet (rd : Reads) : Prop := ∀ s : State, s.errs = [] → rd s = (s, none)

theorem quiet_noReads : Quiet noReads := fun _ _ => rfl

/-- A ready instruction that reads memory, where no error is listed. -/
theorem runE_ok {s s1 : State} {k : Iss} {op : Nat} {ls : List Nat × List Nat} {rd : Reads} (h : Ready s k op ls) (sl : Slots)
    {f : Iss → Except Bail (State × Reads)} (hf : f k = .ok (s1, rd)) (hq : Quiet rd) (he : s1.errs = s.errs) :
    Issues (runE op s sl ls f) s1 k sl.hint k.fall := by
  have e1 : s1.errs = [] := he.trans h.errs
  unfold Issues runE
  simp only [h.issuer, h.enter, State.readRegs_nil h.errs, hf, hq s h.errs, hq s1 e1, State.readRegs_nil e1]

theorem runE_bail {s : State} {k : Iss} {op : Nat} {ls : List Nat × List Nat} (h : Ready s k op ls) (sl : Slots)
    {f : Iss → Except Bail (State × Reads)} {b : Bail} (hf : f k = .error b) : runE op s sl ls f = .next (s.bail k b) := by
  unfold runE
  simp only [h.issuer, h.enter, State.readRegs_nil h.errs, hf]

theorem runD_ok {s s1 : State} {k : Dss} {pc : Pc} (h : ReadyDxp s k) {f : Dss → Except Bail (State × Pc)}
    (hf : f k = .ok (s1, pc)) : IssuesDxp (runD s f) s1 k.core pc := by
  obtain ⟨h1, h2⟩ := h
  unfold IssuesDxp runD runDW
  simp only [h1, h2, hf]

theorem runDx_ok {s : State} {k : Dss} {x1 : Dxp} (h : ReadyDxp s k) {f : Dss → Except Bail Dxp} (hf : f k = .ok x1) :
    IssuesDxp (runDx s f) (s.modDxp k.core fun _ => x1) k.core (k.x.pc + 12) :=
  runD_ok h (by simp only [hf])

theorem runD_trap {s : State} {k : Dss} {c d a : Nat} {m : Option Mask} (h : ReadyDxp s k)
    {f : Dss → Except Bail (State × Pc)} (hf : f k = .error (.trap c d a m)) :
    runD s f = .next (s.dxFault k.core ⟨c, d, a⟩).done := by
  obtain ⟨h1, h2⟩ := h
  unfold runD runDW
  simp only [h1, h2, hf]

/-! ## The selected group -/

/-- What the issuer is: the group that cur names, running, and its selected entry. -/
theorem State.issuer_eq {s : State} {k : Iss} (h : s.issuer = some k) :
    s.cur = some (.group k.tid k.g) ∧ s.team? k.tid = some k.t ∧ k.t.groups[k.g]? = some k.gr ∧ k.gr.exited = false
      ∧ k.gr.halted = false ∧ k.gr.selected = some k.e := by
  unfold State.issuer at h
  split at h
  · rename_i tid g hc
    split at h
    · simp at h
    rename_i t ht
    split at h
    · simp at h
    rename_i gr hg
    split at h
    · simp at h
    rename_i hx
    split at h
    · rename_i e he
      simp only [Option.some.injEq] at h
      subst h
      simp only [Bool.or_eq_true, not_or, Bool.not_eq_true] at hx
      exact ⟨hc, ht, hg, hx.1, hx.2, he⟩
    · simp at h
  · simp at h

theorem State.group?_issuer {s : State} {k : Iss} (h : s.issuer = some k) : s.group? k.tid k.g = some k.gr := by
  obtain ⟨-, ht, hg, -⟩ := State.issuer_eq h
  rw [State.group?, ht]
  exact hg

/-- A change of the issuing group is the group it gives. -/
theorem State.modGroup_issuer {s : State} {k : Iss} (h : s.issuer = some k) (f : Group → Group) :
    s.modGroup k.tid k.g f = s.modGroup k.tid k.g fun _ => f k.gr := by
  obtain ⟨-, ht, hg, -⟩ := State.issuer_eq h
  unfold State.modGroup
  rw [State.modTeam_eq ht, State.modTeam_eq ht]
  congr 1
  unfold Team.modGroup
  congr 1
  apply List.ext_getElem?
  intro j
  rw [modAt_getElem?, modAt_getElem?]
  by_cases hj : j = k.g
  · subst hj; simp [hg]
  · simp [hj]

/-- A group's instruction is not a transfer processor's. -/
theorem State.cur_issuer {s : State} {k : Iss} (h : s.issuer = some k) : s.cur = some (.group k.tid k.g) :=
  (State.issuer_eq h).1

theorem State.cur_dxIssuer {s : State} {k : Dss} (h : s.dxIssuer = some k) : s.cur = some (.dxp k.core) := by
  unfold State.dxIssuer at h
  split at h
  · rename_i core hc
    simp only at h
    split at h
    · simp at h
    split at h
    · simp at h
    split at h
    · simp only [Option.some.injEq] at h
      subst h
      exact hc
    · simp at h
  · simp at h

/-! ## What an issue leaves alone -/

theorem SameMemory.refl (s : State) : SameMemory s s := ⟨fun _ _ => rfl, fun _ _ _ => rfl, fun _ _ _ => rfl, fun _ _ => rfl⟩

theorem SameMemory.trans {s t u : State} (h : SameMemory s t) (h' : SameMemory t u) : SameMemory s u :=
  ⟨fun a b => (h'.1 a b).trans (h.1 a b), fun a b c => (h'.2.1 a b c).trans (h.2.1 a b c),
    fun a b c => (h'.2.2.1 a b c).trans (h.2.2.1 a b c), fun a b => (h'.2.2.2 a b).trans (h.2.2.2 a b)⟩

theorem OnlyGroup.refl (tid g : Nat) (s : State) : OnlyGroup tid g s s :=
  ⟨SameMemory.refl s, rfl, fun _ => rfl, fun _ _ _ => rfl, fun _ => rfl, fun _ => rfl, fun _ _ => rfl⟩

theorem OnlyGroup.trans {tid g : Nat} {s t u : State} (h : OnlyGroup tid g s t) (h' : OnlyGroup tid g t u) :
    OnlyGroup tid g s u :=
  ⟨h.1.trans h'.1, h'.2.1.trans h.2.1, fun k => (h'.2.2.1 k).trans (h.2.2.1 k),
    fun k j hj => (h'.2.2.2.1 k j hj).trans (h.2.2.2.1 k j hj), fun k => (h'.2.2.2.2.1 k).trans (h.2.2.2.2.1 k),
    fun p => (h'.2.2.2.2.2.1 p).trans (h.2.2.2.2.2.1 p), fun p c => (h'.2.2.2.2.2.2 p c).trans (h.2.2.2.2.2.2 p c)⟩

/-- Memory reads alike where its maps, the views and the scratchpads are alike. -/
theorem SameMemory.of_eq {s t : State} (h1 : t.home = s.home) (h2 : t.lineKey = s.lineKey) (h3 : t.hostMem = s.hostMem)
    (h4 : ∀ k, (t.core k).view = (s.core k).view)
    (h5 : ∀ k, (t.team? k).map Team.spad = (s.team? k).map Team.spad) : SameMemory s t := by
  have hb : ∀ key pa, t.homeByte key pa = s.homeByte key pa := by
    intro key pa
    unfold State.homeByte State.keyAt
    rw [h1, h2]
  refine ⟨hb, ?_, ?_, ?_⟩
  · intro tid off n
    have := h5 tid
    unfold State.spadBytes
    cases ht : t.team? tid <;> cases hs : s.team? tid <;> simp [ht, hs] at this ⊢
    simp [Team.spadBytes, this]
  · intro c key pa
    simp only [State.cvByte, h4, hb]
  · intro a n
    simp only [State.hostBytes, h3]

theorem OnlyGroup.of_eq {tid g : Nat} {s t : State} (h1 : t.rest = s.rest)
    (h2 : ∀ k, (t.core k).rest = (s.core k).rest) (h3 : ∀ k j, ¬ (k = tid ∧ j = g) → t.group? k j = s.group? k j)
    (h4 : ∀ k, (t.team? k).map Team.rest = (s.team? k).map Team.rest)
    (h5 : ∀ p, (t.part p).rest = (s.part p).rest) (h6 : ∀ p c, (t.ctx p c).rest = (s.ctx p c).rest) :
    OnlyGroup tid g s t := by
  refine ⟨SameMemory.of_eq ?_ ?_ ?_ ?_ ?_, h1, h2, h3, h4, h5, h6⟩
  · exact (congrArg State.home h1 :)
  · exact (congrArg State.lineKey h1 :)
  · exact (congrArg State.hostMem h1 :)
  · intro k
    exact (congrArg Core.view (h2 k) :)
  · intro k
    have := congrArg (Option.map Team.spad) (h4 k)
    rw [Option.map_map, Option.map_map] at this
    exact this

theorem onlyGroup_modGroup (s : State) (tid g : Nat) (f : Group → Group) : OnlyGroup tid g s (s.modGroup tid g f) := by
  apply OnlyGroup.of_eq
  · unfold State.rest; simp
  · intro k; simp
  · intro k j h; simp [h]
  · intro k
    unfold State.modGroup
    rw [State.team?_modTeam]
    split
    · cases s.team? k <;> rfl
    · rfl
  · intro p; simp
  · intro p c; simp

theorem Core.count_rest (c : Core) (e n : Nat) : (c.count e n).rest = c.rest := rfl

theorem onlyGroup_count (tid g : Nat) (s : State) (core e n : Nat) : OnlyGroup tid g s (s.count core e n) := by
  apply OnlyGroup.of_eq
  · unfold State.rest; simp
  · intro k
    unfold State.count
    split
    · rfl
    · rw [State.core_modCore]
      split
      · rw [Core.count_rest]
      · rfl
  · intro k j _; simp
  · intro k; simp
  · intro p; simp
  · intro p c; simp

theorem onlyGroup_cur (tid g : Nat) (s : State) (c : Option Issuer) : OnlyGroup tid g s { s with cur := c } :=
  OnlyGroup.of_eq rfl (fun _ => rfl) (fun _ _ _ => rfl) (fun _ => rfl) (fun _ => rfl) (fun _ _ => rfl)

/-- A change of a context that its stop interval and its steps alone take. -/
theorem onlyGroup_modCtx (tid g : Nat) (s : State) (p c : Nat) (f : Context → Context) (hf : ∀ x, (f x).rest = x.rest) :
    OnlyGroup tid g s (s.modCtx p c f) := by
  apply OnlyGroup.of_eq
  · unfold State.rest; simp
  · intro k; simp
  · intro k j _; simp
  · intro k; simp
  · intro q
    unfold State.modCtx State.setCtx
    rw [State.part_modPart]
    split <;> rfl
  · intro q k
    rw [State.ctx_modCtx]
    split
    · exact hf _
    · rfl

theorem onlyGroup_modPart (tid g : Nat) (s : State) (p : Nat) (f : Partition → Partition) (hf : ∀ x, (f x).rest = x.rest)
    (hc : ∀ x, (f x).ctxs = x.ctxs) : OnlyGroup tid g s (s.modPart p f) := by
  apply OnlyGroup.of_eq
  · unfold State.rest; simp
  · intro k; simp
  · intro k j _; simp
  · intro k; simp
  · intro q
    rw [State.part_modPart]
    split
    · exact hf _
    · rfl
  · intro q k
    unfold State.ctx
    rw [State.part_modPart]
    split
    · rw [hc]
    · rfl

theorem onlyGroup_openStop (tid g : Nat) (s : State) (p c : Nat) (w : StopWhy) : OnlyGroup tid g s (s.openStop p c w) := by
  apply onlyGroup_modCtx
  intro x
  split
  · rfl
  · split <;> rfl

/-- What single-step does once the groups left to step are known. -/
theorem onlyGroup_stepTo (i j : Nat) (s : State) (p c : Nat) (left : List (Nat × Nat)) :
    OnlyGroup i j s (let s1 := s.modCtx p c fun x => { x with stepped := left }
      if left.isEmpty then (s1.modPart p fun p => { p with dbgStopped := true }).openStop p c .step else s1) := by
  simp only
  split
  · refine OnlyGroup.trans (onlyGroup_modCtx i j s _ _ _ ?_) (OnlyGroup.trans (onlyGroup_modPart i j _ _ _ ?_ ?_)
      (onlyGroup_openStop i j _ _ _ _)) <;> intro x <;> rfl
  · exact onlyGroup_modCtx i j s _ _ _ (fun x => rfl)

theorem group?_stepTo (i j : Nat) (s : State) (p c : Nat) (left : List (Nat × Nat)) :
    (let s1 := s.modCtx p c fun x => { x with stepped := left }
      if left.isEmpty then (s1.modPart p fun p => { p with dbgStopped := true }).openStop p c .step else s1).group? i j
      = s.group? i j := by
  simp only
  split
  · unfold State.openStop; simp
  · simp

theorem onlyGroup_unstep (i j : Nat) (s : State) (tid g : Nat) : OnlyGroup i j s (s.unstep tid g) := by
  unfold State.unstep
  split
  · exact OnlyGroup.refl _ _ _
  · simp only
    split
    · exact OnlyGroup.refl _ _ _
    · exact onlyGroup_stepTo _ _ _ _ _ _

theorem group?_unstep (i j : Nat) (s : State) (tid g : Nat) : (s.unstep tid g).group? i j = s.group? i j := by
  unfold State.unstep
  split
  · rfl
  · simp only
    split
    · rfl
    · exact group?_stepTo _ _ _ _ _ _

theorem onlyGroup_stepPause (i j : Nat) (s : State) (tid g : Nat) : OnlyGroup i j s (s.stepPause tid g) := by
  unfold State.stepPause
  split
  · exact OnlyGroup.refl _ _ _
  · split
    · exact OnlyGroup.refl _ _ _
    · exact onlyGroup_unstep _ _ _ _ _

theorem group?_stepPause (i j : Nat) (s : State) (tid g : Nat) : (s.stepPause tid g).group? i j = s.group? i j := by
  unfold State.stepPause
  split
  · rfl
  · split
    · rfl
    · exact group?_unstep _ _ _ _ _

theorem onlyGroup_done (i j : Nat) (s : State) : OnlyGroup i j s s.done := by
  unfold State.done
  split
  · exact OnlyGroup.trans (onlyGroup_cur _ _ _ _) (onlyGroup_stepPause _ _ _ _ _)
  · exact onlyGroup_cur _ _ _ _

/-- The group after an issue that completes: its registers as the instruction left them, its counts and hints, its lanes
moved on. -/
def Group.after (x : Group) (k : Iss) (hint : Hint) (tg : List (Pc × Mask)) (y : Option Pc) : Group :=
  { x.issued k.t hint y with
    front := if x.handler.isSome then x.front else rebuild (prioOf k.t.prios) k.gr.running k.e tg
    handler := x.handler.map fun h => { h with front := rebuild (prioOf k.t.prios) k.gr.running k.e tg }
    hold := none }

/-- Completing an issue whose lanes have somewhere to go changes its group alone. -/
theorem onlyGroup_retire (s : State) (k : Iss) (hint : Hint) (tg : List (Pc × Mask)) (y : Option Pc)
    (h : rebuild (prioOf k.t.prios) k.gr.running k.e tg ≠ []) : OnlyGroup k.tid k.g s (s.retire k hint tg y) := by
  unfold State.retire
  have h1 : (!(rebuild (prioOf k.t.prios) k.gr.running k.e tg).isEmpty) = true := by simp [h]
  simp only [h1, if_true]
  exact OnlyGroup.trans (onlyGroup_modGroup _ _ _ _) (OnlyGroup.trans (onlyGroup_count _ _ _ _ _ _)
    (OnlyGroup.trans (onlyGroup_count _ _ _ _ _ _) (OnlyGroup.trans (onlyGroup_count _ _ _ _ _ _) (onlyGroup_done _ _ _))))

theorem State.group?_done (s : State) (i j : Nat) : s.done.group? i j = s.group? i j := by
  unfold State.done
  split
  · rw [group?_stepPause]; rfl
  · rfl

theorem State.group?_retire (s : State) (k : Iss) (hint : Hint) (tg : List (Pc × Mask)) (y : Option Pc)
    (h : rebuild (prioOf k.t.prios) k.gr.running k.e tg ≠ []) :
    (s.retire k hint tg y).group? k.tid k.g = (s.group? k.tid k.g).map fun x => x.after k hint tg y := by
  unfold State.retire
  have h1 : (!(rebuild (prioOf k.t.prios) k.gr.running k.e tg).isEmpty) = true := by simp [h]
  simp only [h1, if_true, State.group?_done, State.group?_count, State.group?_modGroup, and_self]
  rfl

/-! ## The frontier -/

theorem insertEntry_ne (e : Entry) (fr : List Entry) : insertEntry e fr ≠ [] := by
  cases fr with
  | nil => simp [insertEntry]
  | cons x xs =>
    unfold insertEntry
    split <;> simp

theorem mergeAt_ne (prio : Nat → Byte) (fr : List Entry) (p : Pc × Mask) : mergeAt prio fr p ≠ [] := by
  unfold mergeAt
  split
  · rename_i h
    intro hn
    rw [List.map_eq_nil_iff] at hn
    simp [hn] at h
  · exact insertEntry_ne _ _

theorem rebuild_ne (prio : Nat → Byte) (fr : List Entry) (e : Entry) (tg : List (Pc × Mask)) (h : tg ≠ []) :
    rebuild prio fr e tg ≠ [] := by
  unfold rebuild
  have key : ∀ (l : List (Pc × Mask)) (b : List Entry), b ≠ [] ∨ l ≠ [] → l.foldl (mergeAt prio) b ≠ [] := by
    intro l
    induction l with
    | nil => intro b hb; simpa using hb
    | cons x xs ih => intro b _; exact ih _ (Or.inl (mergeAt_ne _ _ _))
  exact key _ _ (Or.inr h)

theorem Iss.fall_ne (k : Iss) : k.fall ≠ [] := by simp [Iss.fall]

/-- Once its instruction has completed, a group that falls through is the group the instruction left, moved on; nothing
else has changed. -/
theorem IssuesGroup.next {o : Outcome State Fault Refusal} {s : State} {k : Iss} {hint : Hint} {g1 : Group}
    (h : IssuesGroup o s k hint g1) (hk : s.issuer = some k) :
    ∃ t, o = .next t ∧ OnlyGroup k.tid k.g s t ∧ t.group? k.tid k.g = some (g1.after k hint k.fall none) := by
  refine ⟨_, h, ?_, ?_⟩
  · exact (onlyGroup_modGroup _ _ _ _).trans (onlyGroup_retire _ _ _ _ _ (rebuild_ne _ _ _ _ k.fall_ne))
  · rw [State.group?_retire _ _ _ _ _ (rebuild_ne _ _ _ _ k.fall_ne), State.group?_modGroup]
    simp [State.group?_issuer hk]

/-! ## What a meaning needs before it answers -/

/-- As runS_ok, from an effect that is only known to exist. -/
theorem runS_ex {s : State} {k : Iss} {op : Nat} {ls : List Nat × List Nat} {P : State → Prop} (h : Ready s k op ls) (sl : Slots)
    {f : Iss → Except Bail State} (hf : ∃ s1, f k = .ok s1 ∧ s1.errs = s.errs ∧ P s1) :
    ∃ s1, Issues (runS op s sl ls f) s1 k sl.hint k.fall ∧ P s1 := by
  obtain ⟨s1, h1, h2, h3⟩ := hf
  exact ⟨s1, runS_ok h sl h1 h2, h3⟩

/-- As runE_ok, from an effect that is only known to exist. -/
theorem runE_ex {s : State} {k : Iss} {op : Nat} {ls : List Nat × List Nat} {P : State → Prop} (h : Ready s k op ls) (sl : Slots)
    {f : Iss → Except Bail (State × Reads)} (hf : ∃ s1 rd, f k = .ok (s1, rd) ∧ Quiet rd ∧ s1.errs = s.errs ∧ P s1) :
    ∃ s1, Issues (runE op s sl ls f) s1 k sl.hint k.fall ∧ P s1 := by
  obtain ⟨s1, rd, h1, hq, h2, h3⟩ := hf
  exact ⟨s1, runE_ok h sl h1 hq h2, h3⟩

/-- A group with fewer than 63 operations of a class outstanding need not wait for a counter (R208). -/
theorem counterWait_ok {g : Group} {c : OpClass} (h : ocOf g.ops c < 63) : g.counterWait c = .ok () := by
  unfold Group.counterWait Group.full
  simp only [decide_eq_true_eq]
  rw [if_neg (by omega)]

/-- Accesses that no mapped line keeps waiting need no fill. -/
theorem fillWait_ok {s : State} {a : List Acc} (h : s.unfilled a = none) : s.fillWait a = .ok () := by
  unfold State.fillWait; rw [h]

/-- A new operation number leaves the issuer as it was. -/
theorem State.newOp_issuer {s : State} {k : Iss} (h : s.issuer = some k) : s.newOp.2.issuer = some k := by
  simpa [State.issuer, State.newOp, State.team?] using h

end Sys2Proof.Machine
end

