-- ==== Sys2Proof/Laws/PerInstr.lean ====
section
/-!
SUPPORT. Laws/PerInstr.lean: for every constructor of Instr, that the decoder reads its word as the instruction itself,
every operand and modifier included (12 R260, R274); an event has no word.
-/
namespace Sys2Proof.Laws.Encoding

open Sys2Proof.Machine

/-- An agent for which the instruction is well formed decodes its word as that instruction. -/
def Statement (i : Instr) : Prop :=
  ∀ (ag : Agent) (w : IWord), encode i = some w → WellFormed ag i = true → decodeWord ag w = .instr i

/-- The word of an encodable instruction whose fields decode to it. -/
theorem of_view {i : Instr} {r : Raw} (hr : rawOfInstr i = some r) (hf : r.fits)
    (h : ∀ ag, wordTrap ag r = none → formOk i = true → agentOk ag i = true → instrOf ag r = some i) : Statement i := by
  intro ag w hw hwf
  unfold encode at hw
  rw [hr] at hw
  simp only [Option.map_some, Option.some.injEq] at hw
  unfold WellFormed at hwf
  rw [hr] at hwf
  simp only [Bool.and_eq_true, Option.isNone_iff_eq_none] at hwf
  rw [← hw, decodeWord_wordOf hf]
  unfold decodeRaw
  rw [hwf.1.1]
  simp only [h ag hwf.1.1 hwf.1.2 hwf.2]

theorem getLsb_bit (x : BitVec 32) (n : Nat) : x.getLsbD n = bit x.toNat n := by
  rw [BitVec.getLsbD, Nat.testBit_eq_decide_div_mod_eq, bit]
  by_cases h : x.toNat / 2 ^ n % 2 = 1 <;> simp [h]

/-- An event has no word. -/
theorem of_event {i : Instr} (h : encode i = none) : Statement i := by
  intro ag w hw
  rw [h] at hw
  cases hw


theorem nop (x : Slots) : Statement (.nop x) :=
  of_view rfl (plView_fits (by decide) x) fun ag h _ _ => congrArg (fun y => some (Instr.nop y)) (slotsOf_plRaw h)

theorem exit (x : Slots) : Statement (.exit x) :=
  of_view rfl (plView_fits (by decide) x) fun ag h _ _ => congrArg (fun y => some (Instr.exit y)) (slotsOf_plRaw h)

theorem trap (x : Slots) : Statement (.trap x) :=
  of_view rfl (plView_fits (by decide) x) fun ag h _ _ => congrArg (fun y => some (Instr.trap y)) (slotsOf_plRaw h)

theorem tret (x : Slots) : Statement (.tret x) :=
  of_view rfl (plView_fits (by decide) x) fun ag h _ _ => congrArg (fun y => some (Instr.tret y)) (slotsOf_plRaw h)

theorem tqrd (x : Slots) : Statement (.tqrd x) :=
  of_view rfl (plView_fits (by decide) x) fun ag h hf _ => by
    have hb : (bit x.imm.toNat 0) = false := (getLsb_bit x.imm 0).symm.trans (by simpa [formOk] using hf)
    show some (if bit x.imm.toNat 0 then _ else Instr.tqrd (slotsOf ag (plRaw 0x005 x 0))) = _
    rw [slotsOf_plRaw h, hb]; rfl

theorem tqrdDxp (x : Slots) : Statement (.tqrdDxp x) :=
  of_view rfl (plView_fits (by decide) x) fun ag h hf _ => by
    have hb : (bit x.imm.toNat 0) = true := (getLsb_bit x.imm 0).symm.trans (by exact hf)
    show some (if bit x.imm.toNat 0 then Instr.tqrdDxp (slotsOf ag (plRaw 0x005 x 0)) else _) = _
    rw [slotsOf_plRaw h, hb]; rfl

theorem srd (x : Slots) : Statement (.srd x) :=
  of_view rfl (plView_fits (by decide) x) fun ag h _ _ => congrArg (fun y => some (Instr.srd y)) (slotsOf_plRaw h)

theorem swr (x : Slots) : Statement (.swr x) :=
  of_view rfl (plView_fits (by decide) x) fun ag h _ _ => congrArg (fun y => some (Instr.swr y)) (slotsOf_plRaw h)

theorem vclk (x : Slots) : Statement (.vclk x) :=
  of_view rfl (plView_fits (by decide) x) fun ag h _ _ => congrArg (fun y => some (Instr.vclk y)) (slotsOf_plRaw h)

theorem alarm (x : Slots) : Statement (.alarm x) :=
  of_view rfl (plView_fits (by decide) x) fun ag h _ _ => congrArg (fun y => some (Instr.alarm y)) (slotsOf_plRaw h)

theorem alwait (x : Slots) : Statement (.alwait x) :=
  of_view rfl (plView_fits (by decide) x) fun ag h _ _ => congrArg (fun y => some (Instr.alwait y)) (slotsOf_plRaw h)

theorem alcan (x : Slots) : Statement (.alcan x) :=
  of_view rfl (plView_fits (by decide) x) fun ag h _ _ => congrArg (fun y => some (Instr.alcan y)) (slotsOf_plRaw h)

theorem phase (x : Slots) : Statement (.phase x) :=
  of_view rfl (plView_fits (by decide) x) fun ag h _ _ => congrArg (fun y => some (Instr.phase y)) (slotsOf_plRaw h)

theorem yield (x : Slots) : Statement (.yield x) :=
  of_view rfl (plView_fits (by decide) x) fun ag h _ _ => congrArg (fun y => some (Instr.yield y)) (slotsOf_plRaw h)

theorem brkpt (x : Slots) : Statement (.brkpt x) :=
  of_view rfl (plView_fits (by decide) x) fun ag h _ _ => congrArg (fun y => some (Instr.brkpt y)) (slotsOf_plRaw h)

theorem idem (x : Slots) : Statement (.idem x) :=
  of_view rfl (plView_fits (by decide) x) fun ag h hf _ => by
    have hb : (bit x.imm.toNat 0) = false := (getLsb_bit x.imm 0).symm.trans (by simpa [formOk] using hf)
    show some (if bit x.imm.toNat 0 then _ else Instr.idem (slotsOf ag (plRaw 0x00f x 0))) = _
    rw [slotsOf_plRaw h, hb]; rfl

theorem idemClr (x : Slots) : Statement (.idemClr x) :=
  of_view rfl (plView_fits (by decide) x) fun ag h hf _ => by
    have hb : (bit x.imm.toNat 0) = true := (getLsb_bit x.imm 0).symm.trans (by exact hf)
    show some (if bit x.imm.toNat 0 then Instr.idemClr (slotsOf ag (plRaw 0x00f x 0)) else _) = _
    rw [slotsOf_plRaw h, hb]; rfl

theorem rdctx (x : Slots) : Statement (.rdctx x) :=
  of_view rfl (plView_fits (by decide) x) fun ag h _ _ => congrArg (fun y => some (Instr.rdctx y)) (slotsOf_plRaw h)

theorem bra (x : Slots) : Statement (.bra x) :=
  of_view rfl (plView_fits (by decide) x) fun ag h _ ha => by
    have hd : (ag == Agent.dxp) = false := by simpa [agentOk, bne] using ha
    show some (if ag == Agent.dxp then _ else Instr.bra (slotsOf ag (plRaw 0x041 x 0))) = _
    rw [slotsOf_plRaw h, hd]; rfl

theorem brx (x : Slots) : Statement (.brx x) :=
  of_view rfl (plView_fits (by decide) x) fun ag h _ _ => congrArg (fun y => some (Instr.brx y)) (slotsOf_plRaw h)

theorem call (x : Slots) : Statement (.call x) :=
  of_view rfl (plView_fits (by decide) x) fun ag h _ ha => by
    have hd : (ag == Agent.dxp) = false := by simpa [agentOk, bne] using ha
    show some (if ag == Agent.dxp then _ else Instr.call (slotsOf ag (plRaw 0x043 x 0))) = _
    rw [slotsOf_plRaw h, hd]; rfl

theorem calli (x : Slots) : Statement (.calli x) :=
  of_view rfl (plView_fits (by decide) x) fun ag h _ _ => congrArg (fun y => some (Instr.calli y)) (slotsOf_plRaw h)

theorem ret (x : Slots) : Statement (.ret x) :=
  of_view rfl (plView_fits (by decide) x) fun ag h _ ha => by
    have hd : (ag == Agent.dxp) = false := by simpa [agentOk, bne] using ha
    show some (if ag == Agent.dxp then _ else Instr.ret (slotsOf ag (plRaw 0x045 x 0))) = _
    rw [slotsOf_plRaw h, hd]; rfl

theorem vote (x : FnI) : Statement (.vote x) :=
  of_view rfl (fnView_fits (by decide) x) fun ag h _ _ => congrArg (fun y => some (Instr.vote y)) (fnOf_fnView h)

theorem shfl (x : FnI) : Statement (.shfl x) :=
  of_view rfl (fnView_fits (by decide) x) fun ag h _ _ => congrArg (fun y => some (Instr.shfl y)) (fnOf_fnView h)

theorem actmask (x : Slots) : Statement (.actmask x) :=
  of_view rfl (plView_fits (by decide) x) fun ag h _ _ => congrArg (fun y => some (Instr.actmask y)) (slotsOf_plRaw h)

theorem cvdecl (x : Slots) : Statement (.cvdecl x) :=
  of_view rfl (plView_fits (by decide) x) fun ag h _ _ => congrArg (fun y => some (Instr.cvdecl y)) (slotsOf_plRaw h)

theorem cvsign (x : Slots) : Statement (.cvsign x) :=
  of_view rfl (plView_fits (by decide) x) fun ag h _ _ => congrArg (fun y => some (Instr.cvsign y)) (slotsOf_plRaw h)

theorem cvtest (x : Slots) : Statement (.cvtest x) :=
  of_view rfl (plView_fits (by decide) x) fun ag h _ _ => congrArg (fun y => some (Instr.cvtest y)) (slotsOf_plRaw h)

theorem iadd (x : FnI) : Statement (.iadd x) :=
  of_view rfl (fnView_fits (by decide) x) fun ag h _ _ => congrArg (fun y => some (Instr.iadd y)) (fnOf_fnView h)

theorem isub (x : FnI) : Statement (.isub x) :=
  of_view rfl (fnView_fits (by decide) x) fun ag h _ _ => congrArg (fun y => some (Instr.isub y)) (fnOf_fnView h)

theorem imul (x : FnI) : Statement (.imul x) :=
  of_view rfl (fnView_fits (by decide) x) fun ag h _ _ => congrArg (fun y => some (Instr.imul y)) (fnOf_fnView h)

theorem imulh (x : FnI) : Statement (.imulh x) :=
  of_view rfl (fnView_fits (by decide) x) fun ag h _ _ => congrArg (fun y => some (Instr.imulh y)) (fnOf_fnView h)

theorem imad (x : FnI) : Statement (.imad x) :=
  of_view rfl (fnView_fits (by decide) x) fun ag h _ _ => congrArg (fun y => some (Instr.imad y)) (fnOf_fnView h)

theorem idiv (x : FnI) : Statement (.idiv x) :=
  of_view rfl (fnView_fits (by decide) x) fun ag h _ _ => congrArg (fun y => some (Instr.idiv y)) (fnOf_fnView h)

theorem irem (x : FnI) : Statement (.irem x) :=
  of_view rfl (fnView_fits (by decide) x) fun ag h _ _ => congrArg (fun y => some (Instr.irem y)) (fnOf_fnView h)

theorem imin (x : FnI) : Statement (.imin x) :=
  of_view rfl (fnView_fits (by decide) x) fun ag h _ _ => congrArg (fun y => some (Instr.imin y)) (fnOf_fnView h)

theorem imax (x : FnI) : Statement (.imax x) :=
  of_view rfl (fnView_fits (by decide) x) fun ag h _ _ => congrArg (fun y => some (Instr.imax y)) (fnOf_fnView h)

theorem iabs (x : FnI) : Statement (.iabs x) :=
  of_view rfl (fnView_fits (by decide) x) fun ag h _ _ => congrArg (fun y => some (Instr.iabs y)) (fnOf_fnView h)

theorem ineg (x : FnI) : Statement (.ineg x) :=
  of_view rfl (fnView_fits (by decide) x) fun ag h _ _ => congrArg (fun y => some (Instr.ineg y)) (fnOf_fnView h)

theorem and (x : FnI) : Statement (.and x) :=
  of_view rfl (fnView_fits (by decide) x) fun ag h _ _ => congrArg (fun y => some (Instr.and y)) (fnOf_fnView h)

theorem or (x : FnI) : Statement (.or x) :=
  of_view rfl (fnView_fits (by decide) x) fun ag h _ _ => congrArg (fun y => some (Instr.or y)) (fnOf_fnView h)

theorem xor (x : FnI) : Statement (.xor x) :=
  of_view rfl (fnView_fits (by decide) x) fun ag h _ _ => congrArg (fun y => some (Instr.xor y)) (fnOf_fnView h)

theorem not (x : FnI) : Statement (.not x) :=
  of_view rfl (fnView_fits (by decide) x) fun ag h _ _ => congrArg (fun y => some (Instr.not y)) (fnOf_fnView h)

theorem shl (x : FnI) : Statement (.shl x) :=
  of_view rfl (fnView_fits (by decide) x) fun ag h _ _ => congrArg (fun y => some (Instr.shl y)) (fnOf_fnView h)

theorem shr (x : FnI) : Statement (.shr x) :=
  of_view rfl (fnView_fits (by decide) x) fun ag h _ _ => congrArg (fun y => some (Instr.shr y)) (fnOf_fnView h)

theorem sar (x : FnI) : Statement (.sar x) :=
  of_view rfl (fnView_fits (by decide) x) fun ag h _ _ => congrArg (fun y => some (Instr.sar y)) (fnOf_fnView h)

theorem rotl (x : FnI) : Statement (.rotl x) :=
  of_view rfl (fnView_fits (by decide) x) fun ag h _ _ => congrArg (fun y => some (Instr.rotl y)) (fnOf_fnView h)

theorem popc (x : FnI) : Statement (.popc x) :=
  of_view rfl (fnView_fits (by decide) x) fun ag h _ _ => congrArg (fun y => some (Instr.popc y)) (fnOf_fnView h)

theorem clz (x : FnI) : Statement (.clz x) :=
  of_view rfl (fnView_fits (by decide) x) fun ag h _ _ => congrArg (fun y => some (Instr.clz y)) (fnOf_fnView h)

theorem brev (x : FnI) : Statement (.brev x) :=
  of_view rfl (fnView_fits (by decide) x) fun ag h _ _ => congrArg (fun y => some (Instr.brev y)) (fnOf_fnView h)

theorem bfx (x : FnI) : Statement (.bfx x) :=
  of_view rfl (fnView_fits (by decide) x) fun ag h _ _ => congrArg (fun y => some (Instr.bfx y)) (fnOf_fnView h)

theorem bfi (x : FnI) : Statement (.bfi x) :=
  of_view rfl (fnView_fits (by decide) x) fun ag h _ _ => congrArg (fun y => some (Instr.bfi y)) (fnOf_fnView h)

theorem icmp (x : FnI) : Statement (.icmp x) :=
  of_view rfl (fnView_fits (by decide) x) fun ag h _ _ => congrArg (fun y => some (Instr.icmp y)) (fnOf_fnView h)

theorem sel (x : FnI) : Statement (.sel x) :=
  of_view rfl (fnView_fits (by decide) x) fun ag h _ _ => congrArg (fun y => some (Instr.sel y)) (fnOf_fnView h)

theorem mov (x : FnI) : Statement (.mov x) :=
  of_view rfl (fnView_fits (by decide) x) fun ag h _ _ => congrArg (fun y => some (Instr.mov y)) (fnOf_fnView h)

theorem lea (x : FnI) : Statement (.lea x) :=
  of_view rfl (fnView_fits (by decide) x) fun ag h _ _ => congrArg (fun y => some (Instr.lea y)) (fnOf_fnView h)

theorem sadd (x : FnI) : Statement (.sadd x) :=
  of_view rfl (fnView_fits (by decide) x) fun ag h _ _ => congrArg (fun y => some (Instr.sadd y)) (fnOf_fnView h)

theorem isad (x : FnI) : Statement (.isad x) :=
  of_view rfl (fnView_fits (by decide) x) fun ag h _ _ => congrArg (fun y => some (Instr.isad y)) (fnOf_fnView h)

theorem bcast (x : FnI) : Statement (.bcast x) :=
  of_view rfl (fnView_fits (by decide) x) fun ag h _ _ => congrArg (fun y => some (Instr.bcast y)) (fnOf_fnView h)

theorem extract (x : FnI) : Statement (.extract x) :=
  of_view rfl (fnView_fits (by decide) x) fun ag h _ _ => congrArg (fun y => some (Instr.extract y)) (fnOf_fnView h)

theorem getid (x : FnI) : Statement (.getid x) :=
  of_view rfl (fnView_fits (by decide) x) fun ag h _ _ => congrArg (fun y => some (Instr.getid y)) (fnOf_fnView h)

theorem ldk (x : FnI) : Statement (.ldk x) :=
  of_view rfl (fnView_fits (by decide) x) fun ag h _ _ => congrArg (fun y => some (Instr.ldk y)) (fnOf_fnView h)

theorem movp (x : FnI) : Statement (.movp x) :=
  of_view rfl (fnView_fits (by decide) x) fun ag h _ _ => congrArg (fun y => some (Instr.movp y)) (fnOf_fnView h)

theorem fadd (x : RdI) : Statement (.fadd x) :=
  of_view rfl (rdView_fits (by decide) x) fun ag h _ _ => congrArg (fun y => some (Instr.fadd y)) (rdOf_rdView h)

theorem fsub (x : RdI) : Statement (.fsub x) :=
  of_view rfl (rdView_fits (by decide) x) fun ag h _ _ => congrArg (fun y => some (Instr.fsub y)) (rdOf_rdView h)

theorem fmul (x : RdI) : Statement (.fmul x) :=
  of_view rfl (rdView_fits (by decide) x) fun ag h _ _ => congrArg (fun y => some (Instr.fmul y)) (rdOf_rdView h)

theorem ffma (x : RdI) : Statement (.ffma x) :=
  of_view rfl (rdView_fits (by decide) x) fun ag h _ _ => congrArg (fun y => some (Instr.ffma y)) (rdOf_rdView h)

theorem fmin (x : FnI) : Statement (.fmin x) :=
  of_view rfl (fnView_fits (by decide) x) fun ag h _ _ => congrArg (fun y => some (Instr.fmin y)) (fnOf_fnView h)

theorem fmax (x : FnI) : Statement (.fmax x) :=
  of_view rfl (fnView_fits (by decide) x) fun ag h _ _ => congrArg (fun y => some (Instr.fmax y)) (fnOf_fnView h)

theorem fabs (x : FnI) : Statement (.fabs x) :=
  of_view rfl (fnView_fits (by decide) x) fun ag h _ _ => congrArg (fun y => some (Instr.fabs y)) (fnOf_fnView h)

theorem fneg (x : FnI) : Statement (.fneg x) :=
  of_view rfl (fnView_fits (by decide) x) fun ag h _ _ => congrArg (fun y => some (Instr.fneg y)) (fnOf_fnView h)

theorem fcmp (x : FnI) : Statement (.fcmp x) :=
  of_view rfl (fnView_fits (by decide) x) fun ag h _ _ => congrArg (fun y => some (Instr.fcmp y)) (fnOf_fnView h)

theorem frcp (x : RdI) : Statement (.frcp x) :=
  of_view rfl (rdView_fits (by decide) x) fun ag h _ _ => congrArg (fun y => some (Instr.frcp y)) (rdOf_rdView h)

theorem frsq (x : RdI) : Statement (.frsq x) :=
  of_view rfl (rdView_fits (by decide) x) fun ag h _ _ => congrArg (fun y => some (Instr.frsq y)) (rdOf_rdView h)

theorem fsqrt (x : RdI) : Statement (.fsqrt x) :=
  of_view rfl (rdView_fits (by decide) x) fun ag h _ _ => congrArg (fun y => some (Instr.fsqrt y)) (rdOf_rdView h)

theorem fexp2 (x : RdI) : Statement (.fexp2 x) :=
  of_view rfl (rdView_fits (by decide) x) fun ag h _ _ => congrArg (fun y => some (Instr.fexp2 y)) (rdOf_rdView h)

theorem flog2 (x : RdI) : Statement (.flog2 x) :=
  of_view rfl (rdView_fits (by decide) x) fun ag h _ _ => congrArg (fun y => some (Instr.flog2 y)) (rdOf_rdView h)

theorem fsin (x : RdI) : Statement (.fsin x) :=
  of_view rfl (rdView_fits (by decide) x) fun ag h _ _ => congrArg (fun y => some (Instr.fsin y)) (rdOf_rdView h)

theorem fcos (x : RdI) : Statement (.fcos x) :=
  of_view rfl (rdView_fits (by decide) x) fun ag h _ _ => congrArg (fun y => some (Instr.fcos y)) (rdOf_rdView h)

theorem ftanh (x : RdI) : Statement (.ftanh x) :=
  of_view rfl (rdView_fits (by decide) x) fun ag h _ _ => congrArg (fun y => some (Instr.ftanh y)) (rdOf_rdView h)

theorem fdiv (x : RdI) : Statement (.fdiv x) :=
  of_view rfl (rdView_fits (by decide) x) fun ag h _ _ => congrArg (fun y => some (Instr.fdiv y)) (rdOf_rdView h)

theorem ffloor (x : FnI) : Statement (.ffloor x) :=
  of_view rfl (fnView_fits (by decide) x) fun ag h _ _ => congrArg (fun y => some (Instr.ffloor y)) (fnOf_fnView h)

theorem fround (x : RdI) : Statement (.fround x) :=
  of_view rfl (rdView_fits (by decide) x) fun ag h _ _ => congrArg (fun y => some (Instr.fround y)) (rdOf_rdView h)

theorem fclass (x : FnI) : Statement (.fclass x) :=
  of_view rfl (fnView_fits (by decide) x) fun ag h _ _ => congrArg (fun y => some (Instr.fclass y)) (fnOf_fnView h)

theorem fdot2 (x : RdI) : Statement (.fdot2 x) :=
  of_view rfl (rdView_fits (by decide) x) fun ag h _ _ => congrArg (fun y => some (Instr.fdot2 y)) (rdOf_rdView h)

theorem fdot4 (x : RdI) : Statement (.fdot4 x) :=
  of_view rfl (rdView_fits (by decide) x) fun ag h _ _ => congrArg (fun y => some (Instr.fdot4 y)) (rdOf_rdView h)

theorem cvt (x : RdI) : Statement (.cvt x) :=
  of_view rfl (rdView_fits (by decide) x) fun ag h _ _ => congrArg (fun y => some (Instr.cvt y)) (rdOf_rdView h)

theorem tileCvtComplete (tid id : Nat) : Statement (.tileCvtComplete tid id) := of_event rfl

theorem pack (x : RdI) : Statement (.pack x) :=
  of_view rfl (rdView_fits (by decide) x) fun ag h _ _ => congrArg (fun y => some (Instr.pack y)) (rdOf_rdView h)

theorem unpk (x : RdI) : Statement (.unpk x) :=
  of_view rfl (rdView_fits (by decide) x) fun ag h _ _ => congrArg (fun y => some (Instr.unpk y)) (rdOf_rdView h)

theorem scl (x : RdI) : Statement (.scl x) :=
  of_view rfl (rdView_fits (by decide) x) fun ag h _ _ => congrArg (fun y => some (Instr.scl y)) (rdOf_rdView h)

theorem sclf (x : RdI) : Statement (.sclf x) :=
  of_view rfl (rdView_fits (by decide) x) fun ag h _ _ => congrArg (fun y => some (Instr.sclf y)) (rdOf_rdView h)

theorem tagrd (x : FnI) : Statement (.tagrd x) :=
  of_view rfl (fnView_fits (by decide) x) fun ag h _ _ => congrArg (fun y => some (Instr.tagrd y)) (fnOf_fnView h)

theorem tagset (x : FnI) : Statement (.tagset x) :=
  of_view rfl (fnView_fits (by decide) x) fun ag h _ _ => congrArg (fun y => some (Instr.tagset y)) (fnOf_fnView h)

theorem sat (x : RdI) : Statement (.sat x) :=
  of_view rfl (rdView_fits (by decide) x) fun ag h _ _ => congrArg (fun y => some (Instr.sat y)) (rdOf_rdView h)

theorem ldg (x : MemI) : Statement (.ldg x) :=
  of_view rfl (memView_fits (by decide) x) fun ag h _ _ => congrArg (fun y => some (Instr.ldg y)) (memOf_memView h)

theorem lds (x : MemI) : Statement (.lds x) :=
  of_view rfl (memView_fits (by decide) x) fun ag h _ _ => congrArg (fun y => some (Instr.lds y)) (memOf_memView h)

theorem ldun (x : MemI) : Statement (.ldun x) :=
  of_view rfl (memView_fits (by decide) x) fun ag h _ _ => congrArg (fun y => some (Instr.ldun y)) (memOf_memView h)

theorem ldm (x : MemI) : Statement (.ldm x) :=
  of_view rfl (memView_fits (by decide) x) fun ag h _ _ => congrArg (fun y => some (Instr.ldm y)) (memOf_memView h)

theorem pgreq (x : MemI) : Statement (.pgreq x) :=
  of_view rfl (memView_fits (by decide) x) fun ag h _ _ => congrArg (fun y => some (Instr.pgreq y)) (memOf_memView h)

theorem pref (x : MemI) : Statement (.pref x) :=
  of_view rfl (memView_fits (by decide) x) fun ag h _ _ => congrArg (fun y => some (Instr.pref y)) (memOf_memView h)

theorem stg (x : MemI) : Statement (.stg x) :=
  of_view rfl (memView_fits (by decide) x) fun ag h _ _ => congrArg (fun y => some (Instr.stg y)) (memOf_memView h)

theorem sts (x : MemI) : Statement (.sts x) :=
  of_view rfl (memView_fits (by decide) x) fun ag h _ _ => congrArg (fun y => some (Instr.sts y)) (memOf_memView h)

theorem stun (x : MemI) : Statement (.stun x) :=
  of_view rfl (memView_fits (by decide) x) fun ag h _ _ => congrArg (fun y => some (Instr.stun y)) (memOf_memView h)

theorem stm (x : MemI) : Statement (.stm x) :=
  of_view rfl (memView_fits (by decide) x) fun ag h _ _ => congrArg (fun y => some (Instr.stm y)) (memOf_memView h)

theorem atom (x : MemI) : Statement (.atom x) :=
  of_view rfl (memView_fits (by decide) x) fun ag h _ _ => congrArg (fun y => some (Instr.atom y)) (memOf_memView h)

theorem atoms (x : MemI) : Statement (.atoms x) :=
  of_view rfl (memView_fits (by decide) x) fun ag h _ _ => congrArg (fun y => some (Instr.atoms y)) (memOf_memView h)

theorem red (x : MemI) : Statement (.red x) :=
  of_view rfl (memView_fits (by decide) x) fun ag h _ _ => congrArg (fun y => some (Instr.red y)) (memOf_memView h)

theorem atomf (x : MemI) : Statement (.atomf x) :=
  of_view rfl (memView_fits (by decide) x) fun ag h _ _ => congrArg (fun y => some (Instr.atomf y)) (memOf_memView h)

theorem fence (x : MemI) : Statement (.fence x) :=
  of_view rfl (memView_fits (by decide) x) fun ag h _ _ => congrArg (fun y => some (Instr.fence y)) (memOf_memView h)

theorem waitc (x : MemI) : Statement (.waitc x) :=
  of_view rfl (memView_fits (by decide) x) fun ag h _ _ => congrArg (fun y => some (Instr.waitc y)) (memOf_memView h)

theorem bar (x : MemI) : Statement (.bar x) :=
  of_view rfl (memView_fits (by decide) x) fun ag h _ _ => congrArg (fun y => some (Instr.bar y)) (memOf_memView h)

theorem tbinit (x : MemI) : Statement (.tbinit x) :=
  of_view rfl (memView_fits (by decide) x) fun ag h _ _ => congrArg (fun y => some (Instr.tbinit y)) (memOf_memView h)

theorem tbarrive (x : MemI) : Statement (.tbarrive x) :=
  of_view rfl (memView_fits (by decide) x) fun ag h _ _ => congrArg (fun y => some (Instr.tbarrive y)) (memOf_memView h)

theorem tbexpect (x : MemI) : Statement (.tbexpect x) :=
  of_view rfl (memView_fits (by decide) x) fun ag h _ _ => congrArg (fun y => some (Instr.tbexpect y)) (memOf_memView h)

theorem tbwait (x : MemI) : Statement (.tbwait x) :=
  of_view rfl (memView_fits (by decide) x) fun ag h _ _ => congrArg (fun y => some (Instr.tbwait y)) (memOf_memView h)

theorem tbtest (x : MemI) : Statement (.tbtest x) :=
  of_view rfl (memView_fits (by decide) x) fun ag h _ _ => congrArg (fun y => some (Instr.tbtest y)) (memOf_memView h)

theorem ringput (x : MemI) : Statement (.ringput x) :=
  of_view rfl (memView_fits (by decide) x) fun ag h _ _ => congrArg (fun y => some (Instr.ringput y)) (memOf_memView h)

theorem ringget (x : MemI) : Statement (.ringget x) :=
  of_view rfl (memView_fits (by decide) x) fun ag h _ _ => congrArg (fun y => some (Instr.ringget y)) (memOf_memView h)

theorem ringrelFill (x : MemI) : Statement (.ringrelFill x) :=
  of_view rfl (memView_fits (by decide) x) fun ag h hf _ => by
    have hb : (bit x.imm.toNat 8) = false := (getLsb_bit x.imm 8).symm.trans (by simpa [formOk] using hf)
    show some (if bit x.imm.toNat 8 then _ else Instr.ringrelFill (memOf ag (memView 0x24b x))) = _
    rw [memOf_memView h, hb]; rfl

theorem ringrelFree (x : MemI) : Statement (.ringrelFree x) :=
  of_view rfl (memView_fits (by decide) x) fun ag h hf _ => by
    have hb : (bit x.imm.toNat 8) = true := (getLsb_bit x.imm 8).symm.trans (by exact hf)
    show some (if bit x.imm.toNat 8 then Instr.ringrelFree (memOf ag (memView 0x24b x)) else _) = _
    rw [memOf_memView h, hb]; rfl

theorem evpost (x : MemI) : Statement (.evpost x) :=
  of_view rfl (memView_fits (by decide) x) fun ag h _ _ => congrArg (fun y => some (Instr.evpost y)) (memOf_memView h)

theorem evget (x : MemI) : Statement (.evget x) :=
  of_view rfl (memView_fits (by decide) x) fun ag h _ _ => congrArg (fun y => some (Instr.evget y)) (memOf_memView h)

theorem marker (x : MemI) : Statement (.marker x) :=
  of_view rfl (memView_fits (by decide) x) fun ag h _ _ => congrArg (fun y => some (Instr.marker y)) (memOf_memView h)

theorem wcdrain (x : MemI) : Statement (.wcdrain x) :=
  of_view rfl (memView_fits (by decide) x) fun ag h _ _ => congrArg (fun y => some (Instr.wcdrain y)) (memOf_memView h)

theorem mma (x : MtxI) : Statement (.mma x) :=
  of_view rfl (mtxView_fits (by decide) x) fun ag h _ _ => congrArg (fun y => some (Instr.mma y)) (mtxOf_mtxView h)

theorem mmab (x : MtxI) : Statement (.mmab x) :=
  of_view rfl (mtxView_fits (by decide) x) fun ag h _ _ => congrArg (fun y => some (Instr.mmab y)) (mtxOf_mtxView h)

theorem vatld (x : RdI) : Statement (.vatld x) :=
  of_view rfl (rdView_fits (by decide) x) fun ag h _ _ => congrArg (fun y => some (Instr.vatld y)) (rdOf_rdView h)

theorem vatst (x : RdI) : Statement (.vatst x) :=
  of_view rfl (rdView_fits (by decide) x) fun ag h _ _ => congrArg (fun y => some (Instr.vatst y)) (rdOf_rdView h)

theorem vatclr (x : RdI) : Statement (.vatclr x) :=
  of_view rfl (rdView_fits (by decide) x) fun ag h _ _ => congrArg (fun y => some (Instr.vatclr y)) (rdOf_rdView h)

theorem vatcp (x : RdI) : Statement (.vatcp x) :=
  of_view rfl (rdView_fits (by decide) x) fun ag h _ _ => congrArg (fun y => some (Instr.vatcp y)) (rdOf_rdView h)

theorem mtrans (x : FnI) : Statement (.mtrans x) :=
  of_view rfl (fnView_fits (by decide) x) fun ag h _ _ => congrArg (fun y => some (Instr.mtrans y)) (fnOf_fnView h)

theorem mscale (x : RdI) : Statement (.mscale x) :=
  of_view rfl (rdView_fits (by decide) x) fun ag h _ _ => congrArg (fun y => some (Instr.mscale y)) (rdOf_rdView h)

theorem matrixOpComplete (core : Nat) (capture : List Nat) (final : Bool) : Statement (.matrixOpComplete core capture final) := of_event rfl

theorem wfcfg (x : Slots) : Statement (.wfcfg x) :=
  of_view rfl (plView_fits (by decide) x) fun ag h _ _ => congrArg (fun y => some (Instr.wfcfg y)) (slotsOf_plRaw h)

theorem wfband (x : Slots) : Statement (.wfband x) :=
  of_view rfl (plView_fits (by decide) x) fun ag h _ _ => congrArg (fun y => some (Instr.wfband y)) (slotsOf_plRaw h)

theorem wfrun (x : Slots) : Statement (.wfrun x) :=
  of_view rfl (plView_fits (by decide) x) fun ag h _ _ => congrArg (fun y => some (Instr.wfrun y)) (slotsOf_plRaw h)

theorem wfedge (x : Slots) : Statement (.wfedge x) :=
  of_view rfl (plView_fits (by decide) x) fun ag h _ _ => congrArg (fun y => some (Instr.wfedge y)) (slotsOf_plRaw h)

theorem tbwalk (x : Slots) : Statement (.tbwalk x) :=
  of_view rfl (plView_fits (by decide) x) fun ag h _ _ => congrArg (fun y => some (Instr.tbwalk y)) (slotsOf_plRaw h)

theorem wfscore (x : Slots) : Statement (.wfscore x) :=
  of_view rfl (plView_fits (by decide) x) fun ag h _ _ => congrArg (fun y => some (Instr.wfscore y)) (slotsOf_plRaw h)

theorem cpyt (x : Slots) : Statement (.cpyt x) :=
  of_view rfl (plView_fits (by decide) x) fun ag h _ _ => congrArg (fun y => some (Instr.cpyt y)) (slotsOf_plRaw h)

theorem cpyg (x : Slots) : Statement (.cpyg x) :=
  of_view rfl (plView_fits (by decide) x) fun ag h _ _ => congrArg (fun y => some (Instr.cpyg y)) (slotsOf_plRaw h)

theorem cpys (x : Slots) : Statement (.cpys x) :=
  of_view rfl (plView_fits (by decide) x) fun ag h _ _ => congrArg (fun y => some (Instr.cpys y)) (slotsOf_plRaw h)

theorem dxrun (x : Slots) : Statement (.dxrun x) :=
  of_view rfl (plView_fits (by decide) x) fun ag h _ _ => congrArg (fun y => some (Instr.dxrun y)) (slotsOf_plRaw h)

theorem dxsig (x : Slots) : Statement (.dxsig x) :=
  of_view rfl (plView_fits (by decide) x) fun ag h _ _ => congrArg (fun y => some (Instr.dxsig y)) (slotsOf_plRaw h)

theorem copySectorWrite (core id sector : Nat) (readOnly : Bool) : Statement (.copySectorWrite core id sector readOnly) := of_event rfl

theorem copyComplete (core id : Nat) : Statement (.copyComplete core id) := of_event rfl

theorem dxpProgramStart (core : Nat) : Statement (.dxpProgramStart core) := of_event rfl

theorem dloop (x : Slots) : Statement (.dloop x) :=
  of_view rfl (plView_fits (by decide) x) fun ag h _ _ => congrArg (fun y => some (Instr.dloop y)) (slotsOf_plRaw h)

theorem dnext (x : Slots) : Statement (.dnext x) :=
  of_view rfl (plView_fits (by decide) x) fun ag h _ _ => congrArg (fun y => some (Instr.dnext y)) (slotsOf_plRaw h)

theorem didx (x : Slots) : Statement (.didx x) :=
  of_view rfl (plView_fits (by decide) x) fun ag h _ _ => congrArg (fun y => some (Instr.didx y)) (slotsOf_plRaw h)

theorem daddr (x : Slots) : Statement (.daddr x) :=
  of_view rfl (plView_fits (by decide) x) fun ag h hf _ => by
    have hb : (x.imm.toNat / 2 ^ 28 == 1) = false := by have hf : (x.imm.toNat / 2 ^ 28 == 0) = true := hf; simp at hf ⊢; omega
    show some (if x.imm.toNat / 2 ^ 28 == 1 then _ else Instr.daddr (slotsOf ag (plRaw 0x384 x 0))) = _
    rw [slotsOf_plRaw h, hb]; rfl

theorem daddrCmd (x : Slots) : Statement (.daddrCmd x) :=
  of_view rfl (plView_fits (by decide) x) fun ag h hf _ => by
    have hb : (x.imm.toNat / 2 ^ 28 == 1) = true := by have hf : (x.imm.toNat / 2 ^ 28 == 1) = true := hf; simp at hf ⊢; omega
    show some (if x.imm.toNat / 2 ^ 28 == 1 then Instr.daddrCmd (slotsOf ag (plRaw 0x384 x 0)) else _) = _
    rw [slotsOf_plRaw h, hb]; rfl

theorem dxfer (x : Slots) : Statement (.dxfer x) :=
  of_view rfl (plView_fits (by decide) x) fun ag h _ _ => congrArg (fun y => some (Instr.dxfer y)) (slotsOf_plRaw h)

theorem darrive (x : Slots) : Statement (.darrive x) :=
  of_view rfl (plView_fits (by decide) x) fun ag h _ _ => congrArg (fun y => some (Instr.darrive y)) (slotsOf_plRaw h)

theorem dwaitev (x : Slots) : Statement (.dwaitev x) :=
  of_view rfl (plView_fits (by decide) x) fun ag h _ _ => congrArg (fun y => some (Instr.dwaitev y)) (slotsOf_plRaw h)

theorem dend (x : Slots) : Statement (.dend x) :=
  of_view rfl (plView_fits (by decide) x) fun ag h _ _ => congrArg (fun y => some (Instr.dend y)) (slotsOf_plRaw h)

theorem dxpBra (x : Slots) : Statement (.dxpBra x) :=
  of_view rfl (plView_fits (by decide) x) fun ag h _ ha => by
    have hd : (ag == Agent.dxp) = true := ha
    show some (if ag == Agent.dxp then Instr.dxpBra (slotsOf ag (plRaw 0x041 x 0)) else _) = _
    rw [slotsOf_plRaw h, hd]; rfl

theorem dxpCall (x : Slots) : Statement (.dxpCall x) :=
  of_view rfl (plView_fits (by decide) x) fun ag h _ ha => by
    have hd : (ag == Agent.dxp) = true := ha
    show some (if ag == Agent.dxp then Instr.dxpCall (slotsOf ag (plRaw 0x043 x 0)) else _) = _
    rw [slotsOf_plRaw h, hd]; rfl

theorem dxpRet (x : Slots) : Statement (.dxpRet x) :=
  of_view rfl (plView_fits (by decide) x) fun ag h _ ha => by
    have hd : (ag == Agent.dxp) = true := ha
    show some (if ag == Agent.dxp then Instr.dxpRet (slotsOf ag (plRaw 0x045 x 0)) else _) = _
    rw [slotsOf_plRaw h, hd]; rfl

theorem dxpDrainTimeout (core : Nat) : Statement (.dxpDrainTimeout core) := of_event rfl

theorem invk (x : Slots) : Statement (.invk x) :=
  of_view rfl (plView_fits (by decide) x) fun ag h _ _ => congrArg (fun y => some (Instr.invk y)) (slotsOf_plRaw h)

theorem invh (x : Slots) : Statement (.invh x) :=
  of_view rfl (plView_fits (by decide) x) fun ag h _ _ => congrArg (fun y => some (Instr.invh y)) (slotsOf_plRaw h)

theorem hwait (x : Slots) : Statement (.hwait x) :=
  of_view rfl (plView_fits (by decide) x) fun ag h _ _ => congrArg (fun y => some (Instr.hwait y)) (slotsOf_plRaw h)

theorem htest (x : Slots) : Statement (.htest x) :=
  of_view rfl (plView_fits (by decide) x) fun ag h _ _ => congrArg (fun y => some (Instr.htest y)) (slotsOf_plRaw h)

theorem hrel (x : Slots) : Statement (.hrel x) :=
  of_view rfl (plView_fits (by decide) x) fun ag h _ _ => congrArg (fun y => some (Instr.hrel y)) (slotsOf_plRaw h)

theorem hget (x : Slots) : Statement (.hget x) :=
  of_view rfl (plView_fits (by decide) x) fun ag h _ _ => congrArg (fun y => some (Instr.hget y)) (slotsOf_plRaw h)

theorem epsend (x : Slots) : Statement (.epsend x) :=
  of_view rfl (plView_fits (by decide) x) fun ag h _ _ => congrArg (fun y => some (Instr.epsend y)) (slotsOf_plRaw h)

theorem eprecv (x : Slots) : Statement (.eprecv x) :=
  of_view rfl (plView_fits (by decide) x) fun ag h _ _ => congrArg (fun y => some (Instr.eprecv y)) (slotsOf_plRaw h)

theorem epstand (x : Slots) : Statement (.epstand x) :=
  of_view rfl (plView_fits (by decide) x) fun ag h _ _ => congrArg (fun y => some (Instr.epstand y)) (slotsOf_plRaw h)

theorem coll (x : RdI) : Statement (.coll x) :=
  of_view rfl (rdView_fits (by decide) x) fun ag h _ _ => congrArg (fun y => some (Instr.coll y)) (rdOf_rdView h)

theorem collComplete (tid g id : Nat) : Statement (.collComplete tid g id) := of_event rfl

theorem epsendComplete (tid g id : Nat) : Statement (.epsendComplete tid g id) := of_event rfl

theorem invocationResultReady (part launch : Nat) : Statement (.invocationResultReady part launch) := of_event rfl

theorem trapDelivery (tid g : Nat) : Statement (.trapDelivery tid g) := of_event rfl

theorem stallHintExpiry (tid g : Nat) : Statement (.stallHintExpiry tid g) := of_event rfl

theorem alarmExpiry (tid g slot : Nat) : Statement (.alarmExpiry tid g slot) := of_event rfl

theorem timeoutExpiry (who : Issuer) : Statement (.timeoutExpiry who) := of_event rfl

theorem waitReleased (who : Issuer) : Statement (.waitReleased who) := of_event rfl

theorem barReleaseWave (tid : Nat) : Statement (.barReleaseWave tid) := of_event rfl

theorem storePerform (tid g colour : Nat) : Statement (.storePerform tid g colour) := of_event rfl

theorem releasePerform (tid g id : Nat) : Statement (.releasePerform tid g id) := of_event rfl

theorem coreViewWriteback (core : Nat) (addrs : List Nat) : Statement (.coreViewWriteback core addrs) := of_event rfl

theorem coreViewFill (core line : Nat) : Statement (.coreViewFill core line) := of_event rfl

theorem coreViewDrop (core line : Nat) : Statement (.coreViewDrop core line) := of_event rfl

theorem loadValueTake (tid g id : Nat) : Statement (.loadValueTake tid g id) := of_event rfl

theorem atomicStep (tid g id : Nat) : Statement (.atomicStep tid g id) := of_event rfl

theorem loadComplete (tid g id : Nat) (early : List Nat) (final : Bool) : Statement (.loadComplete tid g id early final) := of_event rfl

theorem wcAgeDrain (core idx : Nat) : Statement (.wcAgeDrain core idx) := of_event rfl

theorem backInvalidationResponse (id : Nat) : Statement (.backInvalidationResponse id) := of_event rfl

theorem registerLineFill (tid : Nat) (g : Option Nat) (line : Nat) (victim : Option Line) : Statement (.registerLineFill tid g line victim) := of_event rfl

theorem vatTileSwap (core slot tid : Nat) : Statement (.vatTileSwap core slot tid) := of_event rfl

theorem spmapLineFill (tid g line : Nat) : Statement (.spmapLineFill tid g line) := of_event rfl

theorem spmapSpaceWriteback (tid : Nat) : Statement (.spmapSpaceWriteback tid) := of_event rfl

theorem launchDoorbell (part : Nat) (addr : W64) : Statement (.launchDoorbell part addr) := of_event rfl

theorem launchCheck (part : Nat) : Statement (.launchCheck part) := of_event rfl

theorem teamPlacement (part : Nat) : Statement (.teamPlacement part) := of_event rfl

theorem launchComplete (part launch : Nat) : Statement (.launchComplete part launch) := of_event rfl

theorem hotspotMigration (tid core : Nat) : Statement (.hotspotMigration tid core) := of_event rfl

theorem preemption (part ctx : Nat) : Statement (.preemption part ctx) := of_event rfl

theorem partitionSwap (part : Nat) : Statement (.partitionSwap part) := of_event rfl

theorem stopIntervalClose (part ctx : Nat) : Statement (.stopIntervalClose part ctx) := of_event rfl

theorem brineVisible (part ctx : Nat) : Statement (.brineVisible part ctx) := of_event rfl

theorem patienceExpiry (part ctx ident : Nat) : Statement (.patienceExpiry part ctx ident) := of_event rfl

theorem standinDeferredWrite (part ctx : Nat) : Statement (.standinDeferredWrite part ctx) := of_event rfl

theorem evqHeldRecordPost (core : Nat) : Statement (.evqHeldRecordPost core) := of_event rfl

theorem recordsLostPost (cluster : Nat) : Statement (.recordsLostPost cluster) := of_event rfl

theorem noticesLostPost (part : Nat) : Statement (.noticesLostPost part) := of_event rfl

theorem temperatureSample (cluster : Nat) (temps droops : List Byte) : Statement (.temperatureSample cluster temps droops) := of_event rfl

theorem droopEvent (cluster : Nat) : Statement (.droopEvent cluster) := of_event rfl

theorem droopCapExpiry (cluster : Nat) : Statement (.droopCapExpiry cluster) := of_event rfl

theorem powerGood : Statement (.powerGood) := of_event rfl

theorem clpartWrite (cluster : Nat) (val : W32) : Statement (.clpartWrite cluster val) := of_event rfl

theorem partctlEnSet (part : Nat) : Statement (.partctlEnSet part) := of_event rfl

theorem partctlEnClear (part : Nat) : Statement (.partctlEnClear part) := of_event rfl

theorem partitionResetComplete (part : Nat) : Statement (.partitionResetComplete part) := of_event rfl

theorem partctlHaltSet (part : Nat) : Statement (.partctlHaltSet part) := of_event rfl

theorem partctlHaltClear (part : Nat) : Statement (.partctlHaltClear part) := of_event rfl

theorem mastctlGo (cluster : Nat) (val : W32) : Statement (.mastctlGo cluster val) := of_event rfl

theorem dbgctlGo (part : Nat) : Statement (.dbgctlGo part) := of_event rfl

theorem dbgctlStepSet (part : Nat) : Statement (.dbgctlStepSet part) := of_event rfl

theorem dbgctlStepClear (part : Nat) : Statement (.dbgctlStepClear part) := of_event rfl

theorem pmselClr (agent : HostAgent) (unit : PmUnit) (n : Nat) : Statement (.pmselClr agent unit n) := of_event rfl

theorem pmselWrite (agent : HostAgent) (unit : PmUnit) (n : Nat) (val : W32) : Statement (.pmselWrite agent unit n val) := of_event rfl

theorem pmcntWrite (agent : HostAgent) (unit : PmUnit) (n : Nat) (val : W64) : Statement (.pmcntWrite agent unit n val) := of_event rfl

theorem pfcmdRaiseGeneration (word : W64) : Statement (.pfcmdRaiseGeneration word) := of_event rfl

theorem generationWrapInvalidate : Statement (.generationWrapInvalidate) := of_event rfl

theorem pfcmdWriteEndpoint (word : W64) : Statement (.pfcmdWriteEndpoint word) := of_event rfl

theorem pfcmdClearOpt (word : W64) : Statement (.pfcmdClearOpt word) := of_event rfl

theorem pfcmdClearPartitionOpt (word : W64) : Statement (.pfcmdClearPartitionOpt word) := of_event rfl

theorem pfcmdSetLock (word : W64) : Statement (.pfcmdSetLock word) := of_event rfl

theorem pfcmdClearLock (word : W64) : Statement (.pfcmdClearLock word) := of_event rfl

theorem pfcmdSupplyFirmware (word : W64) : Statement (.pfcmdSupplyFirmware word) := of_event rfl

theorem pfcmdUnknownOp (word : W64) : Statement (.pfcmdUnknownOp word) := of_event rfl

theorem eppostWrite (part : Nat) (addr : W64) : Statement (.eppostWrite part addr) := of_event rfl

theorem evqstatRead (cluster : Nat) : Statement (.evqstatRead cluster) := of_event rfl

theorem dxpTrapqRead (core : Nat) : Statement (.dxpTrapqRead core) := of_event rfl

theorem registerWrite (agent : HostAgent) (off : Nat) (val : W64) : Statement (.registerWrite agent off val) := of_event rfl

theorem vfFunctionLevelReset (part : Nat) : Statement (.vfFunctionLevelReset part) := of_event rfl

theorem cxlMemRead (part off n : Nat) : Statement (.cxlMemRead part off n) := of_event rfl

theorem cxlMemWrite (part off : Nat) (bytes : List Byte) : Statement (.cxlMemWrite part off bytes) := of_event rfl

theorem readRequest (pkt : Packet) : Statement (.readRequest pkt) := of_event rfl

theorem readResponse (pkt : Packet) : Statement (.readResponse pkt) := of_event rfl

theorem writePacket (pkt : Packet) : Statement (.writePacket pkt) := of_event rfl

theorem writeApplied (pkt : Packet) : Statement (.writeApplied pkt) := of_event rfl

theorem atomicRequest (pkt : Packet) : Statement (.atomicRequest pkt) := of_event rfl

theorem atomicResponse (pkt : Packet) : Statement (.atomicResponse pkt) := of_event rfl

theorem shroudMarker (pkt : Packet) : Statement (.shroudMarker pkt) := of_event rfl

theorem markerAcknowledgement (pkt : Packet) : Statement (.markerAcknowledgement pkt) := of_event rfl

theorem refusal (pkt : Packet) : Statement (.refusal pkt) := of_event rfl

theorem invocation (pkt : Packet) : Statement (.invocation pkt) := of_event rfl

theorem forwardedInvocation (pkt : Packet) : Statement (.forwardedInvocation pkt) := of_event rfl

theorem handleAnswer (pkt : Packet) : Statement (.handleAnswer pkt) := of_event rfl

theorem endpointMessage (pkt : Packet) : Statement (.endpointMessage pkt) := of_event rfl

theorem endpointStatus (pkt : Packet) : Statement (.endpointStatus pkt) := of_event rfl

theorem collectiveContribution (pkt : Packet) : Statement (.collectiveContribution pkt) := of_event rfl

theorem collectiveResult (pkt : Packet) : Statement (.collectiveResult pkt) := of_event rfl

theorem abort (pkt : Packet) : Statement (.abort pkt) := of_event rfl

theorem malformedPacket (pkt : Packet) : Statement (.malformedPacket pkt) := of_event rfl

theorem lornanPortDown (port : Nat) : Statement (.lornanPortDown port) := of_event rfl

theorem lornanPortRetrain (port : Nat) : Statement (.lornanPortRetrain port) := of_event rfl

theorem zaronReefFrame (frame : ZFrame) : Statement (.zaronReefFrame frame) := of_event rfl

theorem zaronPathUpdate (frame : ZFrame) : Statement (.zaronPathUpdate frame) := of_event rfl

theorem pathUpdateApply : Statement (.pathUpdateApply) := of_event rfl

theorem zaronTelemetryRequest (frame : ZFrame) : Statement (.zaronTelemetryRequest frame) := of_event rfl

theorem zaronUnknownFrame (frame : ZFrame) : Statement (.zaronUnknownFrame frame) := of_event rfl

theorem setEndpointId (msg : Mctp) : Statement (.setEndpointId msg) := of_event rfl

theorem getEndpointId (msg : Mctp) : Statement (.getEndpointId msg) := of_event rfl

theorem getMctpVersionSupport (msg : Mctp) : Statement (.getMctpVersionSupport msg) := of_event rfl

theorem getMessageTypeSupport (msg : Mctp) : Statement (.getMessageTypeSupport msg) := of_event rfl

theorem mctpUnsupportedCommand (msg : Mctp) : Statement (.mctpUnsupportedCommand msg) := of_event rfl

theorem getVersion (msg : Spdm) : Statement (.getVersion msg) := of_event rfl

theorem getCapabilities (msg : Spdm) : Statement (.getCapabilities msg) := of_event rfl

theorem negotiateAlgorithms (msg : Spdm) : Statement (.negotiateAlgorithms msg) := of_event rfl

theorem getDigests (msg : Spdm) : Statement (.getDigests msg) := of_event rfl

theorem getCertificate (msg : Spdm) : Statement (.getCertificate msg) := of_event rfl

theorem challenge (msg : Spdm) : Statement (.challenge msg) := of_event rfl

theorem getMeasurements (msg : Spdm) : Statement (.getMeasurements msg) := of_event rfl

theorem keyExchange (msg : Spdm) : Statement (.keyExchange msg) := of_event rfl

theorem finish (msg : Spdm) : Statement (.finish msg) := of_event rfl

theorem endSession (msg : Spdm) : Statement (.endSession msg) := of_event rfl

theorem spdmUnsupportedRequest (msg : Spdm) : Statement (.spdmUnsupportedRequest msg) := of_event rfl

theorem quadrantCycle (core q : Nat) : Statement (.quadrantCycle core q) := of_event rfl

theorem referenceClockPeriod : Statement (.referenceClockPeriod) := of_event rfl

theorem lossOfPower (writing : Bool) : Statement (.lossOfPower writing) := of_event rfl

theorem lornanLinkTraining (port : Nat) : Statement (.lornanLinkTraining port) := of_event rfl

theorem cxlLinkTraining (ok16 ok8 ok4 : Bool) : Statement (.cxlLinkTraining ok16 ok8 ok4) := of_event rfl


end Sys2Proof.Laws.Encoding
end

