-- ==== Sys2Proof/Laws/Registers.lean ====
section
/-!
SUPPORT. Laws/Registers.lean: reading registers after the writes of Machine/Operands.lean: what a write gives and what
it leaves (05 R109, R110).
-/
namespace Sys2Proof.Machine

theorem bit_toNat (x : BitVec 32) (n : Nat) : bit x.toNat n = x.getLsbD n := by
  rw [BitVec.getLsbD, Nat.testBit_eq_decide_div_mod_eq, bit]
  by_cases h : x.toNat / 2 ^ n % 2 = 1 <;> simp [h]

theorem mem_lanesOf (m : Mask) (l : Nat) : l ∈ lanesOf m ↔ l < 32 ∧ m.getLsbD l = true := by
  simp [lanesOf, List.mem_filter]

theorem Group.rs_ws (g : Group) (n m : Nat) (x : W64) : (g.ws n x).rs m = if m = n then x else g.rs m := by
  simp [Group.rs, Group.ws, SMap.get_set]

theorem Group.rp_wp (g : Group) (n j : Nat) (m x : Mask) :
    (g.wp n m x).rp j = if j = n ∧ n ≠ 7 then (g.rp n &&& ~~~m) ||| (x &&& m) else g.rp j := by
  unfold Group.wp
  by_cases h7 : n = 7
  · simp [h7]
  · rw [if_neg h7]
    unfold Group.rp
    simp only [SMap.get_set]
    by_cases hj : j = 7
    · subst hj; simp; intro e; exact absurd e.symm h7
    · by_cases e : j = n
      · subst e; simp [hj]
      · simp [hj, e]

theorem Group.rs_ws8 (g : Group) (n : Nat) (ws : List Nat) (j : Nat) (hj : j < 8) :
    (g.ws8 n ws).rs (n + j) = BitVec.ofNat 64 (ws.getD j 0) := by
  unfold Group.ws8
  simp only [show List.range 8 = [0, 1, 2, 3, 4, 5, 6, 7] from rfl, List.foldl, Group.rs_ws]
  rcases (by omega : j = 0 ∨ j = 1 ∨ j = 2 ∨ j = 3 ∨ j = 4 ∨ j = 5 ∨ j = 6 ∨ j = 7) with
    h | h | h | h | h | h | h | h <;> subst h <;> simp

theorem Group.rv_wv1 (g : Group) (n l j k : Nat) (x : W32) (hl : l < 32) (hk : k < 32) :
    (g.wv1 n l x).rv j k = if j = n ∧ k = l then x else g.rv j k := by
  unfold Group.rv Group.wv1
  simp only [SMap.get_set]
  by_cases h : j = n ∧ k = l
  · obtain ⟨rfl, rfl⟩ := h; simp
  · have : ¬ 32 * j + k = 32 * n + l := by omega
    simp [h, this]

theorem Group.rtag_wtag (g : Group) (n j tag : Nat) : (g.wtag n tag).rtag j = if j = n then tag % 256 else g.rtag j := by
  unfold Group.rtag Group.wtag
  simp only [SMap.get_set]
  split <;> simp

theorem Group.rtag_wv1 (g : Group) (n l j : Nat) (x : W32) : (g.wv1 n l x).rtag j = g.rtag j := rfl

theorem Group.rv_wtag (g : Group) (n tag j l : Nat) : (g.wtag n tag).rv j l = g.rv j l := rfl

theorem Group.rv_wlane (g : Group) (n : Nat) (wide : Bool) (l x j k : Nat) (hl : l < 32) (hk : k < 32) :
    (g.wlane n wide l x).rv j k
      = if wide = true ∧ j = n + 1 ∧ k = l then BitVec.ofNat 32 (x / 2 ^ 32)
        else if j = n ∧ k = l then BitVec.ofNat 32 x else g.rv j k := by
  unfold Group.wlane
  cases wide
  · simp [Group.rv_wv1 _ _ _ _ _ _ hl hk]
  · simp only [if_true, true_and, Group.rv_wv1 _ _ _ _ _ _ hl hk]

theorem Group.rtag_wlane (g : Group) (n : Nat) (wide : Bool) (l x j : Nat) : (g.wlane n wide l x).rtag j = g.rtag j := by
  unfold Group.wlane
  cases wide <;> rfl

/-- What a lane-by-lane write gives each register: the lanes of the mask of register n (and of n + 1, the upper half of a
64-bit value) take the values, and nothing else does. -/
theorem Group.rv_fold (g : Group) (n : Nat) (wide : Bool) (f : Nat → Nat) (ls : List Nat) (j k : Nat)
    (hls : ∀ l ∈ ls, l < 32) (hk : k < 32) :
    (ls.foldl (fun x l => x.wlane n wide l (f l)) g).rv j k
      = if k ∈ ls then
          (if wide = true ∧ j = n + 1 then BitVec.ofNat 32 (f k / 2 ^ 32) else if j = n then BitVec.ofNat 32 (f k) else g.rv j k)
        else g.rv j k := by
  induction ls generalizing g with
  | nil => simp
  | cons a ls ih =>
    have ha := hls a List.mem_cons_self
    simp only [List.foldl]
    rw [ih _ (fun l hl => hls l (List.mem_cons_of_mem _ hl)), Group.rv_wlane _ _ _ _ _ _ _ ha hk]
    by_cases h1 : k ∈ ls
    · simp only [h1, if_true, List.mem_cons, or_true]
      by_cases h2 : wide = true ∧ j = n + 1
      · simp [h2]
      · by_cases h3 : j = n
        · simp [h3]
        · rw [if_neg h2, if_neg h3, if_neg (fun h => h2 ⟨h.1, h.2.1⟩), if_neg (fun h => h3 h.1), if_neg h2, if_neg h3]
    · by_cases h4 : k = a
      · subst h4
        by_cases h2 : wide = true ∧ j = n + 1
        · simp [h1, h2]
        · simp [h1, h2]
      · simp [h1, h4]

theorem Group.rtag_fold (g : Group) (n : Nat) (wide : Bool) (f : Nat → Nat) (ls : List Nat) (j : Nat) :
    (ls.foldl (fun x l => x.wlane n wide l (f l)) g).rtag j = g.rtag j :=
  foldl_keep (fun x => x.rtag j = g.rtag j) _ (fun x l hx => (Group.rtag_wlane x n wide l _ j).trans hx) _ g rfl

/-- A lane of a register after wv (R110). -/
theorem Group.rv_wv (g : Group) (n : Nat) (wide : Bool) (m : Mask) (f : Nat → Nat) (tag j k : Nat) (hk : k < 32) :
    (g.wv n wide m f tag).rv j k
      = if m.getLsbD k = true then
          (if wide = true ∧ j = n + 1 then BitVec.ofNat 32 (f k / 2 ^ 32) else if j = n then BitVec.ofNat 32 (f k) else g.rv j k)
        else g.rv j k := by
  unfold Group.wv
  simp only
  split
  · rename_i h
    have : ¬ m.getLsbD k = true := by
      intro hm
      have := (mem_lanesOf m k).2 ⟨hk, hm⟩
      simp_all
    simp [this]
  · have hf := Group.rv_fold g n wide f (lanesOf m) j k (fun l hl => ((mem_lanesOf m l).1 hl).1) hk
    have hiff : k ∈ lanesOf m ↔ m.getLsbD k = true := by rw [mem_lanesOf]; simp [hk]
    simp only [hiff] at hf
    split <;> simp only [Group.rv_wtag, hf]

/-- A tag after wv (R110): with no lane nothing changes. -/
theorem Group.rtag_wv (g : Group) (n : Nat) (wide : Bool) (m : Mask) (f : Nat → Nat) (tag j : Nat) :
    (g.wv n wide m f tag).rtag j
      = if (lanesOf m).isEmpty = false ∧ (j = n ∨ (wide = true ∧ j = n + 1)) then tag % 256 else g.rtag j := by
  unfold Group.wv
  simp only
  split
  · rename_i h
    simp [h]
  · rename_i h
    have h' : (lanesOf m).isEmpty = false := by simpa using h
    cases wide
    · simp only [Bool.false_eq_true, if_false, false_and, or_false, Group.rtag_wtag, Group.rtag_fold, h', true_and]
    · simp only [if_true, true_and, Group.rtag_wtag, Group.rtag_fold, h']
      by_cases h1 : j = n <;> by_cases h2 : j = n + 1 <;> simp [h1, h2]

/-! ## wout: a lane-by-lane result with its flags and seeds -/

/-- Two folds whose steps keep a relation keep it. -/
theorem foldl_rel {α β γ : Type} (R : β → γ → Prop) (f : β → α → β) (f' : γ → α → γ) (h : ∀ b c a, R b c → R (f b a) (f' c a))
    (xs : List α) (b : β) (c : γ) (hb : R b c) : R (xs.foldl f b) (xs.foldl f' c) := by
  induction xs generalizing b c with
  | nil => exact hb
  | cons x xs ih => exact ih _ _ (h _ _ _ hb)

theorem Group.wlane_v (x y : Group) (h : x.v = y.v) (n : Nat) (wide : Bool) (l v : Nat) :
    (x.wlane n wide l v).v = (y.wlane n wide l v).v := by
  unfold Group.wlane Group.wv1
  cases wide <;> simp [h]

/-- The values that wout writes are those of wv. -/
theorem Group.wout_v (g : Group) (n : Nat) (wide : Bool) (m : Mask) (f : Nat → LaneOut) (tag : Nat) :
    (g.wout n wide m f tag).v = (g.wv n wide m (fun l => (f l).val) tag).v := by
  unfold Group.wout Group.wv
  simp only [List.isEmpty_map]
  split
  · rfl
  · rw [List.foldl_map]
    have key := foldl_rel (fun x y : Group => x.v = y.v)
      (fun x o => let y := x.wlane n wide o (f o).val
        let z := if (f o).flags = 0 then y
          else { y with fflags := SMap.set 0#8 y.fflags o (SMap.get 0#8 y.fflags o ||| BitVec.ofNat 8 (f o).flags) }
        { z with seed := SMap.set 0#32 z.seed o (f o).seed })
      (fun x l => x.wlane n wide l (f l).val) (by
        intro x y l hxy
        simp only
        split <;> exact Group.wlane_v x y hxy n wide l _) (lanesOf m) g g rfl
    cases wide
    · exact key
    · exact key

theorem Group.wout_vtag (g : Group) (n : Nat) (wide : Bool) (m : Mask) (f : Nat → LaneOut) (tag : Nat) :
    (g.wout n wide m f tag).vtag = (g.wv n wide m (fun l => (f l).val) tag).vtag := by
  unfold Group.wout Group.wv
  simp only [List.isEmpty_map]
  split
  · rfl
  · have h1 : ∀ (ls : List (Nat × LaneOut)), (ls.foldl (fun x o =>
        let y := x.wlane n wide o.1 o.2.val
        let z := if o.2.flags = 0 then y
          else { y with fflags := SMap.set 0#8 y.fflags o.1 (SMap.get 0#8 y.fflags o.1 ||| BitVec.ofNat 8 o.2.flags) }
        { z with seed := SMap.set 0#32 z.seed o.1 o.2.seed }) g).vtag = g.vtag := by
      intro ls
      refine foldl_keep (fun x => Group.vtag x = g.vtag) _ (fun x o hx => ?_) _ g rfl
      simp only
      split <;> exact (Group.wlane_vtag x n wide _ _).trans hx
    have h2 : ∀ (ls : List Nat), (ls.foldl (fun x l => x.wlane n wide l (f l).val) g).vtag = g.vtag := by
      intro ls
      exact foldl_keep (fun x => Group.vtag x = g.vtag) _ (fun x l hx => (Group.wlane_vtag x n wide l _).trans hx) _ g rfl
    cases wide
    · simp only [Bool.false_eq_true, if_false, Group.wtag, h1, h2]
    · simp only [if_true, Group.wtag, h1, h2]

/-- A lane of a register after a lane-by-lane result. -/
theorem Group.rv_wout (g : Group) (n : Nat) (wide : Bool) (m : Mask) (f : Nat → LaneOut) (tag j k : Nat) (hk : k < 32) :
    (g.wout n wide m f tag).rv j k
      = if m.getLsbD k = true then
          (if wide = true ∧ j = n + 1 then BitVec.ofNat 32 ((f k).val / 2 ^ 32)
           else if j = n then BitVec.ofNat 32 (f k).val else g.rv j k)
        else g.rv j k := by
  have h := Group.rv_wv g n wide m (fun l => (f l).val) tag j k hk
  unfold Group.rv at h ⊢
  rw [Group.wout_v]
  exact h

theorem Group.rtag_wout (g : Group) (n : Nat) (wide : Bool) (m : Mask) (f : Nat → LaneOut) (tag j : Nat) :
    (g.wout n wide m f tag).rtag j
      = if (lanesOf m).isEmpty = false ∧ (j = n ∨ (wide = true ∧ j = n + 1)) then tag % 256 else g.rtag j := by
  have h := Group.rtag_wv g n wide m (fun l => (f l).val) tag j
  unfold Group.rtag at h ⊢
  rw [Group.wout_vtag]
  exact h

theorem Group.rs_wout (g : Group) (n : Nat) (wide : Bool) (m : Mask) (f : Nat → LaneOut) (tag j : Nat) :
    (g.wout n wide m f tag).rs j = g.rs j := by unfold Group.rs; rw [Group.wout_s]

theorem Group.rp_wout (g : Group) (n : Nat) (wide : Bool) (m : Mask) (f : Nat → LaneOut) (tag j : Nat) :
    (g.wout n wide m f tag).rp j = g.rp j := by unfold Group.rp; rw [Group.wout_p]

theorem lanesOf_nonempty (m : Mask) : (lanesOf m).isEmpty = false ↔ m ≠ 0 := by
  constructor
  · intro h e
    subst e
    simp [lanesOf] at h
  · intro h
    cases he : (lanesOf m).isEmpty
    · rfl
    · exfalso
      apply h
      apply BitVec.eq_of_getLsbD_eq
      intro i hi
      have : i ∉ lanesOf m := by
        rw [List.isEmpty_iff.1 he]; simp
      rw [mem_lanesOf] at this
      simp at this ⊢
      exact this hi

/-- A lane-by-lane result is what Safety's LaneResult says. -/
theorem laneResult_wout (g : Group) (n : Nat) (wide : Bool) (m : Mask) (f : Nat → LaneOut) (tag : Nat) (ht : tag < 256) :
    LaneResult g (g.wout n wide m f tag) n wide m (fun l => (f l).val) tag := by
  refine ⟨?_, ?_, fun j => Group.rs_wout .., fun j => Group.rp_wout ..⟩
  · intro j l hl
    rw [Group.rv_wout _ _ _ _ _ _ _ _ hl]
    by_cases hm : m.getLsbD l = true
    · simp only [hm, if_true, true_and]
      by_cases hj : j = n
      · subst hj; simp
      · simp [hj]
    · simp [hm]
  · intro j
    simp only [Group.rtag_wout, lanesOf_nonempty, Nat.mod_eq_of_lt ht]

theorem laneResult_wv (g : Group) (n : Nat) (wide : Bool) (m : Mask) (f : Nat → Nat) (tag : Nat) (ht : tag < 256) :
    LaneResult g (g.wv n wide m f tag) n wide m f tag := by
  refine ⟨?_, ?_, fun j => ?_, fun j => ?_⟩
  · intro j l hl
    rw [Group.rv_wv _ _ _ _ _ _ _ _ hl]
    by_cases hm : m.getLsbD l = true
    · simp only [hm, if_true, true_and]
      by_cases hj : j = n
      · subst hj; simp
      · simp [hj]
    · simp [hm]
  · intro j
    simp only [Group.rtag_wv, lanesOf_nonempty, Nat.mod_eq_of_lt ht]
  · unfold Group.rs; rw [Group.wv_s]
  · unfold Group.rp; rw [Group.wv_p]

theorem LaneResult.empty (g : Group) (n : Nat) (wide : Bool) (f : Nat → Nat) (tag : Nat) : LaneResult g g n wide 0 f tag := by
  refine ⟨?_, ?_, fun _ => rfl, fun _ => rfl⟩ <;> simp

/-- A move of one register. -/
theorem laneResult_wmove (g : Group) (n : Nat) (m : Mask) (f : Nat → Nat) (tags : Nat × Nat) (ht : tags.1 < 256) :
    LaneResult g (g.wmove n false m f tags) n false m f tags.1 := by
  unfold Group.wmove
  split
  · rename_i h
    have hm : m = 0 := by
      by_cases e : m = 0
      · exact e
      · have := (lanesOf_nonempty m).2 e; simp_all
    subst hm
    exact LaneResult.empty ..
  · exact laneResult_wv _ _ _ _ _ _ ht

theorem Group.rtag_lt (g : Group) (n : Nat) : g.rtag n < 256 := by
  unfold Group.rtag
  exact BitVec.isLt _

theorem tag_lt (t : Ty) : 16 * tyCode t < 256 := by cases t <;> decide

end Sys2Proof.Machine
end

