-- ==== Sys2Proof/Tests/Slice0.lean ====
section
/-!
SUPPORT. Tests/Slice0.lean: checks of the model on small cases: words that the spec writes out, ill-formed terms, single
steps, and a state for the hypotheses of every statement.
-/
namespace Sys2Proof.Tests

open Sys2Proof.Machine
open Host (Outcome)

/-! ## Small states -/

/-- A group of one lane whose lines are all in the register cache. -/
def grpOf (r : Role) : Group :=
  { Group.start (oneGroup r) [] false 0 0 with front := [⟨0, 0x200000, 1⟩], fresh := [] }

/-- A team of that group. -/
def teamOf (r : Role) (f : Group → Group) (t : Team → Team) : Team :=
  t { Team.start 0 0 0 (oneGroup r) [] 0 0 0 [0] [] [] false with groups := [f (grpOf r)], fresh := [] }

/-- Partition 0 runs that team, and its group is selected. -/
def sysOf (r : Role) (f : Group → Group) (t : Team → Team) (u : State → State) : State :=
  u { State.reset with
    teams := [(0, teamOf r f t)], nextTid := 1, cur := some (.group 0 0)
    parts := [(0, { Partition.reset with en := true, keyGen := 1, ctxs := [(0, { Context.off with valid := true })] })] }

/-- The group as an issuer. -/
def issOf (r : Role) (f : Group → Group) (t : Team → Team) : Iss :=
  ⟨0, 0, teamOf r f t, f (grpOf r), ⟨0, 0x200000, 1⟩⟩

/-- A group with its lines in the cache is ready for any instruction of its role, whatever lines it needs. -/
theorem ready_of {s : State} {k : Iss} {op : Nat} {ls : List Nat × List Nat} (h1 : s.issuer = some k)
    (h2 : roleOk k.gr.role op = true) (h3 : k.gr.fresh = []) (h4 : k.gr.evicted = []) (h5 : k.t.fresh = [])
    (h6 : k.t.evicted = []) (h7 : k.t.tileCvts = []) (h8 : s.errs = []) : Ready s k op ls := by
  refine ⟨h1, Or.inr h2, ?_, ?_, h8⟩
  · simp [Iss.missing, h3, h4, h5, h6]
  · simp [Iss.converting, h7]

/-- A core whose transfer processor runs a program of that team. -/
def dxOf (f : Dxp → Dxp) : State :=
  sysOf .copy id id fun s => { s with
    cur := some (.dxp 0)
    cores := [(0, { Core.reset with dxp := f { Dxp.reset with
      pc := 0x200000, run := some ⟨⟨0, 0, 0, 0, 1, 0x200000, []⟩, none, none, none⟩ } })] }

/-! ## Words of the spec (12 to 18, worked encodings) -/

theorem test_decode_imul : decodeWord (.group false) 0x20C0_0180_7801_4000_0000_0003#96
    = .instr (.imul ⟨⟨.none, .v 3, .v 3, .imm, ⟨1, false, true, false, false⟩, 3⟩, .i32, false, 0⟩) := by decide
theorem test_decode_stg : decodeWord (.group false) 0x7059_8080_C018_0000_0000_0000#96
    = .instr (.stg ⟨{ plainSlots .nil (.v 6) (.v 3) 0 with guard := .ifP 4 }, .i32, 0, .plain, .lane⟩) := by decide
theorem test_decode_ldg_b8 : decodeWord (.group false) 0x6040_0120_9008_0B00_9000_0040#96
    = .instr (.ldg ⟨plainSlots (.v 2) (.s 4) (.p 1) 0x90000040, .b8, 0, .plain, .lane⟩) := by decide
theorem test_decode_getid : decodeWord (.group false) 0x30C0_0060_3808_0100_0000_0000#96
    = .instr (.getid ⟨plainSlots (.v 0) .nil .nil 0, .n32, false, 0⟩) := by decide
theorem test_decode_bra : decodeWord (.group false) 0x1055_80E0_3808_0000_0000_0030#96
    = .instr (.bra { plainSlots .nil .nil .nil 0x30 with guard := .ifP 2 }) := by decide
theorem test_decode_bra_back : decodeWord (.group false) 0x1041_80E0_3808_0000_FFFF_FFD0#96
    = .instr (.bra (plainSlots .nil .nil .nil 0xFFFFFFD0)) := by decide
theorem test_decode_lea : decodeWord (.group false) 0x2700_0320_A008_0000_0000_0000#96
    = .instr (.lea ⟨plainSlots (.v 6) (.s 5) (.v 1) 0, .i32, false, 0⟩) := by decide
theorem test_decode_fadd : decodeWord (.group false) 0x4040_0280_C038_0820_0000_0000#96
    = .instr (.fadd ⟨plainSlots (.v 5) (.v 6) (.v 7) 0, .f32, .rz, false, 0⟩) := by decide
theorem test_decode_fdot4 : decodeWord (.group false) 0x45C0_0401_2050_0B09_0000_0000#96
    = .instr (.fdot4 ⟨plainSlots (.v 8) (.v 9) (.v 10) 0, .b8, .rn, false, 9⟩) := by decide
theorem test_decode_cvt : decodeWord (.group false) 0x5040_0100_3808_0B89_0000_0080#96
    = .instr (.cvt ⟨plainSlots (.v 2) (.v 1) .nil 0x80, .b8, .rs, false, 9⟩) := by decide
theorem test_decode_ldg_n64 : decodeWord (.group false) 0x6040_8520_1808_0300_0000_0020#96
    = .instr (.ldg ⟨plainSlots (.s 10) (.s 0) .nil 0x20, .n64, 0, .plain, .lane⟩) := by decide
theorem test_decode_lds : decodeWord (.group false) 0x6080_0180_3808_0000_0F00_0000#96
    = .instr (.lds ⟨plainSlots (.v 3) (.v 1) .nil 0x0F000000, .i32, 0, .plain, .lane⟩) := by decide
theorem test_decode_atom : decodeWord (.group false) 0x8040_0100_8008_0003_0800_0010#96
    = .instr (.atom ⟨plainSlots (.v 2) (.v 4) (.v 1) 0x08000010, .i32, 0, .plain, .dev⟩) := by decide
theorem test_decode_waitc : decodeWord (.group false) 0x9081_80E0_3808_0000_00FF_FFF0#96
    = .instr (.waitc ⟨plainSlots .nil .nil .nil 0x00FFFFF0, .i32, 0, .plain, .lane⟩) := by decide
theorem test_decode_tbexpect : decodeWord (.group false) 0x9181_80A1_7808_0000_0000_0004#96
    = .instr (.tbexpect ⟨plainSlots .nil (.s 11) .nil 4, .i32, 0, .plain, .lane⟩) := by decide
theorem test_decode_fence : decodeWord (.group false) 0x9041_80E0_3808_001B_0000_00FF#96
    = .instr (.fence ⟨plainSlots .nil .nil .nil 0xFF, .i32, 0, .ar, .dev⟩) := by decide
theorem test_decode_mma : decodeWord (.group false) 0xA041_8844_1108_0B09_0000_000A#96
    = .instr (.mma ⟨plainSlots (.vat 0) (.m 0) (.m 1) 0xA, .b8, .rn, false, 9⟩) := by decide
theorem test_decode_wfrun : decodeWord (.group false) 0xB0C1_80A0_8830_0000_0000_0000#96
    = .instr (.wfrun (plainSlots .nil (.s 4) (.s 6) 0)) := by decide
theorem test_decode_cpyt : decodeWord (.group false) 0xC040_8421_4860_0000_0000_0000#96
    = .instr (.cpyt (plainSlots (.s 8) (.s 10) (.s 12) 0)) := by decide
theorem test_decode_dxrun : decodeWord (.group false) 0xC101_80A1_4858_0000_0000_0000#96
    = .instr (.dxrun (plainSlots .nil (.s 10) (.s 11) 0)) := by decide
theorem test_decode_invk : decodeWord (.group false) 0xD040_8421_5808_0000_0000_0000#96
    = .instr (.invk (plainSlots (.s 8) (.s 10) .nil 0)) := by decide
theorem test_decode_hwait : decodeWord (.group false) 0xD0C0_8221_0848_0000_0000_0001#96
    = .instr (.hwait (plainSlots (.s 4) (.s 8) (.s 9) 1)) := by decide
theorem test_decode_dloop : decodeWord .dxp 0xE041_80A0_D808_0000_0000_0054#96
    = .instr (.dloop (plainSlots .nil (.s 6) .nil 0x54)) := by decide
theorem test_decode_dxfer : decodeWord .dxp 0xE140_8221_4828_0000_0000_0000#96
    = .instr (.dxfer (plainSlots (.s 4) (.s 10) (.s 5) 0)) := by decide
theorem test_decode_tret : decodeWord (.group true) 0x0101_80E0_3808_0000_0000_0005#96
    = .instr (.tret (plainSlots .nil .nil .nil 5)) := by decide
theorem test_decode_srd : decodeWord (.group false) 0x0180_02E0_3808_0000_0000_0004#96
    = .instr (.srd (plainSlots (.v 5) .nil .nil 4)) := by decide
theorem test_decode_alarm : decodeWord (.group false) 0x0241_80A0_D808_0000_0000_0006#96
    = .instr (.alarm (plainSlots .nil (.s 6) .nil 6)) := by decide

/-! ## Words that R261 rejects: the tables of changes of 12, 14, 15, 16 and 18 -/

/-- A word from its fields (12 R260). -/
def wd (op guard d a b md imm : Nat) : IWord :=
  BitVec.ofNat 96 (imm + 2 ^ 32 * md + 2 ^ 51 * b + 2 ^ 61 * a + 2 ^ 71 * d + 2 ^ 81 * guard + 2 ^ 86 * op)

theorem test_illegal_opcode : decodeWord (.group false) (wd 0x09F 0 3 3 0x300 0 3) = .trap ⟨1, 0, 0x09F⟩
    ∧ decodeWord (.group false) (wd 0x09F 0x18 3 3 0x300 0 3) = .trap ⟨1, 0, 0x09F⟩ := by decide
theorem test_reserved_mod : decodeWord (.group false) (wd 0x083 0 3 3 0x300 0xA0 3) = .trap ⟨2, 37, 0⟩
    ∧ decodeWord (.group false) (wd 0x083 2 3 3 0x300 0 3) = .trap ⟨2, 82, 0⟩ := by decide
theorem test_guard_misuse : decodeWord (.group false) (wd 0x083 0x0C 3 3 0x300 0 3) = .trap ⟨4, 1, 0⟩
    ∧ decodeWord (.group false) (wd 0x083 0x0C 3 3 0x300 0xB00 3) = .trap ⟨4, 1, 0⟩ := by decide
theorem test_bad_operand : decodeWord (.group false) (wd 0x083 0 3 3 0x302 0 3) = .trap ⟨3, 3, 0x302⟩
    ∧ decodeWord (.group false) (wd 0x083 0 3 0x140 0x300 0 3) = .trap ⟨3, 2, 0x140⟩
    ∧ decodeWord (.group false) (wd 0x1C1 0x0C 3 6 3 0 0) = .trap ⟨3, 1, 3⟩ := by decide
theorem test_bad_immediate : decodeWord (.group false) (wd 0x083 0 3 3 0x300 0x400 0x10000) = .trap ⟨3, 5, 0x10000⟩ := by decide
theorem test_bad_type : decodeWord (.group false) (wd 0x083 0 3 3 0x300 0xB09 3) = .trap ⟨3, 8, 0xB⟩
    ∧ decodeWord (.group false) (wd 0x101 0 3 3 0x300 0 3) = .trap ⟨3, 8, 0⟩ := by decide
theorem test_float_changes : decodeWord (.group false) (wd 0x101 0 5 6 7 0x821 0) = .trap ⟨2, 32, 0⟩
    ∧ decodeWord (.group false) (wd 0x105 0 5 6 7 0x820 0) = .trap ⟨2, 37, 0⟩
    ∧ decodeWord (.group false) (wd 0x117 0 8 9 10 0xB01 0) = .trap ⟨3, 8, 1⟩ := by decide
theorem test_convert_changes : decodeWord (.group false) (wd 0x141 0 2 1 0x301 0xB89 0xE0) = .trap ⟨3, 5, 0xE0⟩
    ∧ decodeWord (.group false) (wd 0x141 0 0x220 1 0x301 0xB89 0x80) = .trap ⟨3, 2, 1⟩
    ∧ decodeWord (.group false) (wd 0x141 0 0x220 0x221 0x301 0xB89 0x80) = .trap ⟨3, 4, 0xB89⟩ := by decide
theorem test_memory_changes : decodeWord (.group false) (wd 0x182 0 3 1 0x204 0 0x0F000000) = .trap ⟨3, 3, 0x204⟩
    ∧ decodeWord (.group false) (wd 0x181 0 0x10A 0x100 0x301 0x303 0x20) = .trap ⟨3, 4, 0x303⟩ := by decide
theorem test_sync_changes : decodeWord (.group false) (wd 0x242 0 0x301 0x301 0x301 0 0x01FFFFF0) = .trap ⟨2, 24, 0⟩
    ∧ decodeWord (.group false) (wd 0x246 0 0x301 0x10B 0x301 0 0) = .trap ⟨3, 5, 0⟩ := by decide
theorem test_atomic_changes : decodeWord (.group false) (wd 0x201 0 2 4 1 0 0x08000010) = .trap ⟨3, 4, 0⟩
    ∧ decodeWord (.group false) (wd 0x201 0 0x301 4 1 3 0x38000010) = .trap ⟨3, 1, 0x301⟩ := by decide
theorem test_matrix_changes : decodeWord (.group false) (wd 0x281 0 0x310 0x220 0x221 0xB89 0xA) = .trap ⟨3, 4, 0xB89⟩
    ∧ decodeWord (.group false) (wd 0x281 0 0x310 0x22F 0x221 0xB19 0xA) = .trap ⟨3, 2, 0x22F⟩
    ∧ decodeWord (.group false) (wd 0x281 0 0x310 0x220 0x221 0xB09 0x1A) = .trap ⟨2, 4, 0⟩
    ∧ decodeWord (.group false) (wd 0x281 0 0x310 0x220 0x221 0xB09 0x600A) = .trap ⟨3, 8, 0x6⟩
    ∧ decodeWord (.group false) (wd 0x281 0 0x220 0x220 0x221 0xB09 0xA) = .trap ⟨3, 1, 0x220⟩ := by decide
theorem test_system_changes : decodeWord (.group false) (wd 0x341 0 0x108 0x10A 0x301 8 0) = .trap ⟨2, 35, 0⟩
    ∧ decodeWord (.group false) (wd 0x343 0 0x104 0x108 0x109 0 3) = .trap ⟨2, 1, 0⟩
    ∧ decodeWord (.group true) (wd 0x004 0 0x301 0x114 0x301 0 5) = .trap ⟨3, 2, 0x114⟩
    ∧ decodeWord (.group false) (wd 0x004 0 0x301 0x301 0x301 0 5) = .trap ⟨1, 0, 4⟩
    ∧ decodeWord (.group false) (wd 0x006 0 0x105 0x301 0x301 0 4) = .trap ⟨3, 1, 0x105⟩
    ∧ decodeWord .dxp (wd 0x009 0 0x301 0x106 0x301 0 6) = .trap ⟨1, 0, 9⟩ := by decide

/-! ## Ill-formed terms -/

theorem test_wf_imul : WellFormed (.group false)
    (.imul ⟨⟨.none, .v 3, .v 3, .imm, ⟨1, false, true, false, false⟩, 3⟩, .i32, false, 0⟩) = true := by decide
theorem test_ill_guard : WellFormed (.group false)
    (.imul ⟨⟨.ifP 4, .v 3, .v 3, .imm, ⟨1, false, true, false, false⟩, 3⟩, .i32, false, 0⟩) = false := by decide
theorem test_ill_d : WellFormed (.group false) (.imul ⟨plainSlots (.p 3) (.v 3) .imm 3, .i32, false, 0⟩) = false := by decide
theorem test_ill_a : WellFormed (.group false) (.imul ⟨plainSlots (.v 3) (.cv 3) .imm 3, .i32, false, 0⟩) = false := by decide
theorem test_ill_b : WellFormed (.group false) (.imul ⟨plainSlots (.v 3) (.v 3) (.vat 1) 0, .i32, false, 0⟩) = false := by decide
theorem test_ill_type : WellFormed (.group false) (.imul ⟨plainSlots (.v 3) (.v 3) .imm 3, .b8, false, 0⟩) = false := by decide
theorem test_imm_unnamed : WellFormed (.group false) (.imul ⟨plainSlots (.v 3) (.v 3) (.v 4) 3, .i32, false, 0⟩) = true := by decide
theorem test_ill_scope : WellFormed (.group false)
    (.atom ⟨plainSlots (.v 2) (.v 4) (.v 1) 0x08000010, .i32, 0, .plain, .lane⟩) = false := by decide
theorem test_ill_tret : WellFormed (.group false) (.tret (plainSlots .nil .nil .nil 5)) = false := by decide
theorem test_ill_agent : WellFormed (.group false) (.dloop (plainSlots .nil (.s 6) .nil 0x54)) = false := by decide
theorem test_ill_event : WellFormed (.group false) (.copyComplete 0 0) = false := by decide

/-! ## Single steps -/

/-- The group and the state after one step on a word placed where the next fetch is, the group changed by f first. -/
def stepOn (w : Nat) (f : Group → Group) : Option State :=
  match step ((State.reset.withFetchWord 96 w).modGroup 0 0 f) with | .next t => some t | _ => none
def after (w : Nat) (f : Group → Group) : Option Group := (stepOn w f).bind fun t => t.group? 0 0

/-- A vector register's lane 0 and its tag; an s register. -/
def v0 (n : Nat) (g : Option Group) : Option (Nat × Nat) := g.map fun g => ((g.rv n 0).toNat, g.rtag n)
def s0 (n : Nat) (g : Option Group) : Option Nat := g.map fun g => (g.rs n).toNat
/-- Lane 0 of a vector register and its tag, an s register, set. -/
def sv (n x tag : Nat) (g : Group) : Group := (g.wv n false 1 (fun _ => x) tag)
def ss (n x : Nat) (g : Group) : Group := g.ws n (BitVec.ofNat 64 x)
/-- The oldest trap record: cause, DETAIL, ADDR. -/
def trapped (g : Option Group) : Option (Nat × Nat × Nat) :=
  (g.bind fun g => g.trapq.head?).map fun r => (r.cause.toNat, r.detail.toNat, r.addr.toNat)

theorem test_imul_step : v0 3 (after 0x20C0_0180_7801_4000_0000_0003 (sv 3 5 0)) = some (15, 0) := by decide
theorem test_tag_mismatch : trapped (after 0x20C0_0180_7801_4000_0000_0003 (sv 3 5 0x80)) = some (5, 0, 0x180) := by decide
/-! The worked results of 13. -/
theorem test_idiv : v0 2 (after (wd 0x086 0 2 1 0x300 0 0xFFFFFFFE).toNat (sv 1 7 0)) = some (0xFFFFFFFD, 0) := by decide
theorem test_irem_zero : v0 2 (after (wd 0x087 0 2 1 0x301 0 0).toNat (sv 1 0xFFFFFFF9 0)) = some (0xFFFFFFF9, 0) := by decide
theorem test_idiv_sat : (after (wd 0x086 0 2 1 0x300 0x10 0xFFFFFFFF).toNat (sv 1 0x80000000 0)).map
    (fun g => ((g.rv 2 0).toNat, (SMap.get 0#8 g.fflags 0).toNat)) = some (0x7FFFFFFF, 0x20) := by decide
theorem test_iadd_i8 : v0 3 (after (wd 0x081 0 3 1 2 0x600 0).toNat (fun g => sv 2 0x0101FF01 0x60 (sv 1 0x7F0180FF 0x60 g)))
    = some (0x80027F00, 0x60) := by decide
theorem test_iadd_i8_sat : v0 3 (after (wd 0x081 0 3 1 2 0x610 0).toNat
    (fun g => sv 2 0x0101FF01 0x60 (sv 1 0x7F0180FF 0x60 g))) = some (0x7F028000, 0x60) := by decide
theorem test_imulh : v0 3 (after (wd 0x084 0 3 1 1 0x100 0).toNat (sv 1 0xFFFFFFFF 0x10)) = some (0xFFFFFFFE, 0x10) := by decide
theorem test_sar_far : v0 3 (after (wd 0x092 0 3 1 0x300 0 40).toNat (sv 1 0x80000000 0)) = some (0xFFFFFFFF, 0) := by decide
theorem test_rotl : v0 3 (after (wd 0x093 0 3 1 0x300 0 33).toNat (sv 1 0x80000001 0)) = some (3, 0) := by decide
theorem test_bfx_sx : v0 3 (after (wd 0x097 0 3 1 0x300 1 0x408).toNat (sv 1 0xF00 0)) = some (0xFFFFFFFF, 0) := by decide
theorem test_bfi : v0 3 (after (wd 0x098 0 3 1 0x300 0 0x41E).toNat (fun g => sv 3 0 0 (sv 1 5 0 g))) = some (0x40000000, 0) := by
  decide
theorem test_isad : v0 3 (after (wd 0x09E 0 3 1 2 0x700 0).toNat
    (fun g => sv 3 0x10 0x10 (sv 2 0x00050109 0x70 (sv 1 0x0A00FF03 0x70 g)))) = some (0x123, 0x10) := by decide
theorem test_bra_back : (after 0x1041_80E0_3808_0000_FFFF_FFD0 id).map (fun g => g.front.map Entry.pc) = some [0x200000 - 0x30] := by
  decide
theorem test_uniform_extends : s0 5 (after (wd 0x081 0 0x105 0x104 0x300 0 1).toNat (ss 4 0xFFFFFFFF7FFFFFFF))
    = some 0xFFFFFFFF80000000 := by decide
/-! The worked results of 14. -/
theorem test_pack : v0 4 (after (wd 0x142 0 4 1 2 0xB09 0x80).toNat
    (fun g => sv 4 0 0xB9 (sv 2 0xBEC00000 0x80 (sv 1 0x3F800000 0x80 g)))) = some (0xB440, 0xB9) := by decide
theorem test_pack_saturates : (after (wd 0x142 0 4 10 11 0xB09 0x280).toNat
    (fun g => sv 4 0xB440 0xB9 (sv 11 0x3A000000 0x80 (sv 10 0x43960000 0x80 g)))).map
    (fun g => ((g.rv 4 0).toNat, (SMap.get 0#8 g.fflags 0).toNat)) = some (0x007FB440, 7) := by decide
theorem test_unpk : v0 6 (after (wd 0x143 0 6 4 0x301 0x800 0x1B9).toNat (sv 4 0x007FB440 0xB9)) = some (0xBEC00000, 0x80) := by decide
theorem test_cvt : v0 8 (after (wd 0x141 0 8 4 0x301 0x900 0xB9).toNat (sv 4 0x007FB440 0xB9)) = some (0xB6003C00, 0x90) := by decide
theorem test_scl : v0 9 (after (wd 0x144 0 9 10 0x301 0xB09 0x80).toNat (sv 10 0x43960000 0x80)) = some (0x80, 0x71) := by decide
theorem test_sclf_tie : v0 13 (after (wd 0x145 0 13 12 0x301 0x800 0).toNat (sv 12 0x40400000 0x80)) = some (0x80, 0x71) := by decide
theorem test_sclf_stochastic : (after (wd 0x145 0 13 12 0x301 0x880 0).toNat
    (fun g => sv 12 0x40400000 0x80 (g.wlaneReg 3 0 1))).map (fun g => ((g.rv 13 0).toNat, (g.rseed 0).toNat))
    = some (0x81, 0x00042021) := by decide
theorem test_ffloor_up : v0 15 (after (wd 0x113 0 15 2 0x301 0x801 0).toNat (sv 2 0xBEC00000 0x80)) = some (0x80000000, 0x80) := by decide
theorem test_fround : (after (wd 0x114 0 15 2 0x301 0x800 0).toNat (sv 2 0xBEC00000 0x80)).map
    (fun g => ((g.rv 15 0).toNat, (SMap.get 0#8 g.fflags 0).toNat)) = some (0x80000000, 1) := by decide
theorem test_fcmp_mismatch : trapped (after (wd 0x109 0 0x201 1 4 0x802 0).toNat
    (fun g => sv 4 0 0xB9 (sv 1 0x3F800000 0x80 g))) = some (5, 0x80, 0x2B9) := by decide
/-! System, traps, memory. -/
theorem test_trap : trapped (after (wd 0x003 0 0x301 0x301 0x301 0 0x105).toNat id) = some (15, 5, 0x105) := by decide
theorem test_srd_seed : v0 5 (after (wd 0x006 0 5 0x301 0x301 0 3).toNat (fun g => g.wlaneReg 3 0 0x1234)) = some (0x1234, 0x10) := by
  decide
theorem test_alarm_relative : (after 0x0241_80A0_D808_0000_0000_0006 (ss 6 0x50000)).map
    (fun g => ((g.alarm 2).armed, (g.alarm 2).deadline.toNat)) = some (true, 0x50000) := by decide
theorem test_load_enters : (after 0x6080_0180_3808_0000_0000_0000 (sv 1 0 0x10)).map
    (fun g => (g.lq.length, g.ops.length, g.trapq.length)) = some (1, 1, 0) := by decide
theorem test_role : exec (.mma ⟨plainSlots (.vat 0) (.m 0) (.m 1) 0xA, .b8, .rn, false, 9⟩) (sysOf .vector id id id)
    = .next ((sysOf .vector id id id).raise 0 0 ⟨0, 0x200000, 1⟩ 6 2 0 1).done := rfl
/-! The atomic rows of 15: the steps of .cas on x = 20, and .inc with b = 3 on 3. -/
theorem test_cas : [(20, 7, 20), (7, 9, 20), (7, 5, 20), (7, 5, 7)].map (fun t => (atomNew 7 0 t.1 t.2.1 t.2.2).1) = [7, 7, 7, 5] := by
  decide
theorem test_inc : (atomNew 8 0x10 3 3 0).1 = 0 ∧ (atomNew 8 0x10 2 3 0).1 = 3 := by decide

/-! ## The hypotheses of the statements: for each, states and operands that meet them, clause by clause -/

def vs (f : Group → Group) : State := sysOf .vector f id id
def vk (f : Group → Group) : Iss := issOf .vector f id

/-- The plain vector group is ready for every instruction of its role, whatever lines it names. -/
theorem ready_vector (op : Nat) (ls : List Nat × List Nat) (h : roleOk .vector op = true) : Ready (vs id) (vk id) op ls :=
  ready_of rfl h rfl rfl rfl rfl rfl rfl

/-- A trap record, a handler, a wait that has begun. -/
def rec0 : TrapRec := ⟨15, 1, false, 0, 0, 0, 0x200000, 0, 0, 0, 1, 0, 0, 0, 0⟩
def run0 (r : List Entry) : Handler := ⟨r, 1, [], none⟩
def waits (why : Nat) (passed timedOut : Bool) : Hold := ⟨why, false, 0, none, timedOut, true, passed, none⟩
def inHandler (f : Group → Group) (g : Group) : Group :=
  f { g with handler := some (run0 [⟨0xFF, 0x200000, 1⟩]), trapq := [rec0] }
def sl (d a b : Operand) (imm : W32) : Slots := plainSlots d a b imm

theorem witness_SystemControl :
    (∀ op ∈ [0x001, 0x002, 0x00D, 0x00F, 0x00C, 0x00E], Ready (vs id) (vk id) op ([], []))
    ∧ ((vs id).part (vk id).t.part).dbgBrken = false
    ∧ (∃ s : State, Ready s (vk id) 0x00E ([], []) ∧ (vk id).gr.handler = none ∧ (s.part (vk id).t.part).dbgBrken = true)
    ∧ ∃ (s : State) (k : Iss), Ready s k 0x005 (linesOf (sl (.s 8) .nil .nil 1) false 7) ∧ k.gr.handler.isSome = true
      ∧ (s.core k.t.core).dxp.trapq = (k.tid, rec0) :: [] ∧ (vk id).gr.handler = none :=
  ⟨by intro op h; apply ready_vector; revert h op; decide, rfl,
    ⟨{ vs id with parts := [(0, { Partition.reset with en := true, dbgBrken := true })] },
      ready_of rfl rfl rfl rfl rfl rfl rfl rfl, rfl, rfl⟩,
    ⟨sysOf .vector (inHandler id) id fun s => { s with cores := [(0, { Core.reset with dxp := { Dxp.reset with
        trapq := [(0, rec0)] } })] },
      { issOf .vector (inHandler id) id with e := ⟨0xFF, 0x200000, 1⟩ }, ready_of rfl rfl rfl rfl rfl rfl rfl rfl, rfl, rfl, rfl⟩⟩

def alarmed (g : Group) : Group := g.setAlarm 3 ⟨false, true, 5⟩
def armed (g : Group) : Group := g.setAlarm 3 ⟨true, false, 5⟩
def timedOut (g : Group) : Group := { g with hold := some (waits 10 false true) }

theorem witness_SystemReads :
    (∀ op ∈ [0x008, 0x00F, 0x010, 0x009, 0x00B], ∀ ls, Ready (vs id) (vk id) op ls) ∧ (vk id).t.mast = false
    ∧ (Ready (vs alarmed) (vk alarmed) 0x00A (linesOf (sl (.s 4) .nil .nil 15) false 0)
      ∧ (15#32).getLsbD 3 = true ∧ ((vk alarmed).gr.alarm 3).expired = true
      ∧ ∀ m < 3, ((vk alarmed).gr.alarm m).expired = false)
    ∧ (Ready (vs armed) (vk armed) 0x00A (linesOf (sl (.s 4) .nil .nil 15) false 0) ∧ (vk armed).gr.hold = none
      ∧ (∀ n < 4, ((vk armed).gr.alarm n).expired = false) ∧ ((vk armed).gr.alarm 3).armed = true)
    ∧ (Ready (vs id) (vk id) 0x00A (linesOf (sl (.s 4) .nil .nil 15) false 0) ∧ (vk id).gr.hold = none
      ∧ ∀ n < 4, ((vk id).gr.alarm n).expired = false ∧ ((vk id).gr.alarm n).armed = false)
    ∧ (Ready (vs timedOut) (vk timedOut) 0x00A (linesOf (sl (.s 4) .nil .nil 15) false 0)
      ∧ (vk timedOut).gr.hold = some (waits 10 false true) ∧ ∀ n < 4, ((vk timedOut).gr.alarm n).expired = false)
    ∧ (∀ ls, Ready (vs id) (vk id) 0x005 ls) ∧ (vk id).gr.handler = none
    ∧ ∃ (s : State) (k : Iss), Ready s k 0x005 (linesOf (sl (.s 8) .nil .nil 0) false 7) ∧ k.gr.handler.isSome = true
      ∧ k.gr.trapq = rec0 :: [] :=
  ⟨by intro op h ls; apply ready_vector; revert h op; decide, rfl,
    ⟨ready_of rfl rfl rfl rfl rfl rfl rfl rfl, rfl, rfl, by decide⟩, ⟨ready_of rfl rfl rfl rfl rfl rfl rfl rfl, rfl, by decide, rfl⟩,
    ⟨ready_of rfl rfl rfl rfl rfl rfl rfl rfl, rfl, by decide⟩, ⟨ready_of rfl rfl rfl rfl rfl rfl rfl rfl, rfl, by decide⟩,
    fun ls => ready_vector _ ls (by decide), rfl,
    ⟨vs (inHandler id), { vk (inHandler id) with e := ⟨0xFF, 0x200000, 1⟩ }, ready_of rfl rfl rfl rfl rfl rfl rfl rfl, rfl,
      rfl⟩⟩

/-- A priority map of 65,537 ranges, more than it may have (08 R191). -/
def badPrio : State :=
  sysOf .vector id (fun t => { t with lrec := { t.lrec with priomap := 0x200040 } }) fun s => { s with
    home := SMap.setRange 0#8 (placedHome 0 []) 0x200040 (toBytes 8 65537), lineKey := SMap.set 0 [] 0x4000 8
    parts := [(0, { Partition.reset with en := true, keyGen := 1, ctxs := [(0, { Context.off with valid := true, root := 0x10000 })] })] }
def badPrioK : Iss := issOf .vector id fun t => { t with lrec := { t.lrec with priomap := 0x200040 } }
theorem sync_bad : ∃ a, badPrio.ctlsync 0 = .error a := by
  have h : (match badPrio.ctlsync 0 with | .error _ => true | .ok _ => false) = true := by decide +kernel
  split at h
  · exact ⟨_, by assumption⟩
  · cases h

theorem witness_SpecialRegisters : (∀ op ∈ [0x006, 0x007], ∀ ls, Ready (vs id) (vk id) op ls)
    ∧ (sl (.s 5) .nil .nil 0xFFF).imm ≠ 0x12 ∧ (sl (.s 5) .nil .nil 0xFFF).imm.toNat < 0x1000
    ∧ (∃ s1, (vs id).ctlsync (vk id).tid = .ok s1) ∧ (∃ a, badPrio.ctlsync 0 = .error a) ∧ (∀ ls, Ready badPrio badPrioK 0x007 ls)
    ∧ (∃ s k, Ready s k 0x007 ([], []) ∧ k.gr.handler.isSome = true ∧ bit (k.gr.uni (.s 4) 0) 1 = true) :=
  ⟨by intro op h ls; apply ready_vector; revert h op; decide, by decide, by decide, ⟨_, rfl⟩, sync_bad,
    fun ls => ready_of rfl rfl rfl rfl rfl rfl rfl rfl,
    ⟨vs (inHandler (ss 4 2)), { vk (inHandler (ss 4 2)) with e := ⟨0xFF, 0x200000, 1⟩ }, ready_of rfl rfl rfl rfl rfl rfl rfl rfl, rfl, rfl⟩⟩

def split2 : List Entry := [⟨0, 0x200000, 1⟩, ⟨0, 0x20000C, 2⟩]
theorem witness_LanesMove : FrontierOk split2 ∧ ⟨0, 0x20000C, 2⟩ ∈ split2 := by
  unfold FrontierOk; decide

def pair30 (n : Nat) (g : Group) : Group := (g.wtag n 0x30).wtag (n + 1) 0x30
theorem witness_Branches : (∀ op ∈ [0x041, 0x042], ∀ ls, Ready (vs id) (vk id) op ls)
    ∧ Ready (vs (pair30 254)) (vk (pair30 254)) 0x042 (linesOf (sl .nil (.v 254) .nil 0) true 0)
    ∧ tagMatch 0x30 ((vk (pair30 254)).gr.rtag 254) = true ∧ tagMatch 0x30 ((vk (pair30 254)).gr.rtag 255) = true :=
  ⟨by intro op h ls; apply ready_vector; revert h op; decide, ready_of rfl rfl rfl rfl rfl rfl rfl rfl, by decide, by decide⟩

/-- Lane 0's stack with n return addresses on chip and k spilled; a v pair under tag 0x30. -/
def deep (n k : Nat) (g : Group) : Group := { pair30 254 g with calls := SMap.set Calls.empty g.calls 0 ⟨List.replicate n 0x300000, k⟩ }
/-- A launch with spill depth 1. -/
def spill1 (t : Team) : Team := { t with lrec := { t.lrec with spill := 1 } }
def deepS (n k : Nat) : State := sysOf .vector (deep n k) spill1 id
def deepK (n k : Nat) : Iss := issOf .vector (deep n k) spill1

theorem witness_Calls :
    (∀ n ∈ [15, 16], ∀ op ∈ [0x043, 0x044], ∀ ls, Ready (deepS n 0) (deepK n 0) op ls)
    ∧ (∀ n ∈ [15, 16], ∀ l ∈ lanesOf ((deepK n 0).gr.guard .none (deepK n 0).e.mask), Roomy (deepK n 0) l)
    ∧ (∀ ls, Ready (deepS 0 1) (deepK 0 1) 0x045 ls)
    ∧ (∀ l ∈ lanesOf ((deepK 0 1).gr.guard .none (deepK 0 1).e.mask), ∀ n ∈ [0], (deepK 0 1).missing ([320 + 2 * n + l / 16], []) = false)
    ∧ ((deepK 0 1).gr.stack 0).spilled = 0 + 1
    ∧ (∀ op ∈ [0x043, 0x044], ∀ ls, Ready (deepS 16 1) (deepK 16 1) op ls)
    ∧ 0 ∈ lanesOf ((deepK 16 1).gr.guard .none (deepK 16 1).e.mask) ∧ 16 ≤ ((deepK 16 1).gr.stack 0).chip.length
    ∧ (deepK 16 1).t.lrec.spill ≤ ((deepK 16 1).gr.stack 0).spilled
    ∧ ∀ n ∈ [15, 16], ∀ k ∈ [0, 1], tagMatch 0x30 ((deepK n k).gr.rtag 254) = true ∧ tagMatch 0x30 ((deepK n k).gr.rtag 255) = true := by
  refine ⟨?_, ?_, ?_, by decide, by decide, ?_, by decide, by decide, by decide, by decide⟩
  · intro n hn op h ls
    simp only [List.mem_cons, List.not_mem_nil, or_false] at hn h
    rcases hn with rfl | rfl <;> rcases h with rfl | rfl <;> exact ready_of rfl rfl rfl rfl rfl rfl rfl rfl
  · unfold Roomy; decide
  · intro ls; exact ready_of rfl rfl rfl rfl rfl rfl rfl rfl
  · intro op h ls
    simp only [List.mem_cons, List.not_mem_nil, or_false] at h
    rcases h with rfl | rfl <;> exact ready_of rfl rfl rfl rfl rfl rfl rfl rfl

theorem witness_LaneExchange : (∀ op ∈ [0x046, 0x047, 0x048], ∀ ls, Ready (vs (ss 4 31)) (vk (ss 4 31)) op ls)
    ∧ ((vk (ss 4 31)).gr.rs 4).toNat < 32 ∧ (vk (ss 4 31)).e.mask.getLsbD 0 = true
    ∧ (vk (ss 4 31)).gr.checkTag (.s 4) 0x10 false 2 = .ok ()
    ∧ (∀ l < 32, bits ((vk (ss 4 31)).gr.src (.s 4) 0 false 0 l) 10 8 ≤ 4 ∧ (vk (ss 4 31)).gr.src (.s 4) 0 false 0 l < 4096)
    ∧ trueLanes (vk fun g => g.wp 0 1 0) (.p 0) = 0 ∧ (trueLanes (vk (ss 4 31)) (.p 7)).getLsbD 0 = true :=
  ⟨by intro op h ls; exact ready_of rfl (by revert h op; decide) rfl rfl rfl rfl rfl rfl, by decide, by decide, rfl, by decide, by decide, by decide⟩

def declares : Group → Group := ss 4 0x8000000000000001
theorem witness_Convergence : (∀ op ∈ [0x049, 0x04B], ∀ ls, Ready (vs declares) (vk declares) op ls)
    ∧ bits ((vk declares).gr.rs 4).toNat 31 16 = 0 ∧ bits ((vk declares).gr.rs 4).toNat 15 0 ≠ 0
    ∧ bits ((vk declares).gr.rs 4).toNat 63 32 ≠ 0
    ∧ bits ((vk declares).gr.rs 4).toNat 15 0 < 2 ^ (vk declares).t.groups.length
    ∧ (∀ x ls, Ready (vs (ss 4 x)) (vk (ss 4 x)) 0x049 ls)
    ∧ bits ((vk (ss 4 0x100010001)).gr.rs 4).toNat 31 16 ≠ 0 ∧ bits ((vk (ss 4 0x100000000)).gr.rs 4).toNat 15 0 = 0
    ∧ bits ((vk (ss 4 0x1)).gr.rs 4).toNat 63 32 = 0
    ∧ ∃ g < 16, (vk (ss 4 0x100000002)).t.groups.length ≤ g ∧ ((vk (ss 4 0x100000002)).gr.rs 4).getLsbD g = true :=
  ⟨by intro op h ls; exact ready_of rfl (by revert h op; decide) rfl rfl rfl rfl rfl rfl, by decide, by decide, by decide,
    by decide, fun x ls => ready_of rfl rfl rfl rfl rfl rfl rfl rfl, by decide, by decide, by decide, ⟨1, by decide⟩⟩

/-- Operands with a TYPE. -/
def fi (d a b : Operand) (ty : Ty) (sub : BitVec 4) (imm : W32) : FnI := ⟨sl d a b imm, ty, false, sub⟩
def ri (d a b : Operand) (ty : Ty) (var : BitVec 4) (imm : W32) : RdI := ⟨sl d a b imm, ty, .rn, false, var⟩

theorem witness_IntegerVector : (∀ op : IntOp, Ready (vs id) (vk id) (intOpcode op) (linesOf (sl (.v 255) (.v 0) (.v 1) 0) false 0))
    ∧ ∀ rd : Bool, (vk id).gr.checkTags (.v 0) (.v 1) (.v 255) 0 false rd = .ok () :=
  ⟨by intro op; apply ready_vector; cases op <;> decide, by intro rd; cases rd <;> rfl⟩

theorem witness_IntegerUniform : (∀ op : IntOp, ∀ ls, Ready (vs id) (vk id) (intOpcode op) ls)
    ∧ (∃ op : IntOp, ∃ f : W64 → W64 → W64, op = .rem ∧ f = (· % ·)) ∧ ∃ k : Dss, ReadyDxp (dxOf id) k :=
  ⟨by intro op ls; apply ready_vector; cases op <;> decide, ⟨.rem, _, rfl, rfl⟩, ⟨_, rfl, rfl⟩⟩

def sads (g : Group) : Group := ((g.wtag 0 0x70).wtag 1 0x70).wtag 255 0x10
def leas (g : Group) : Group := (pair30 254 g).wtag 1 0x10

theorem witness_Moves :
    (∀ op ∈ [0x09E, 0x099, 0x09A, 0x09B, 0x09C, 0x0C1, 0x0C2, 0x0C3, 0x0C4, 0x0C5], ∀ ls, Ready (vs id) (vk id) op ls)
    ∧ (Ready (vs sads) (vk sads) 0x09E (linesOf (sl (.v 255) (.v 0) (.v 1) 0) false 0) ∧ (vk sads).gr.rtag 0 = 0x70
      ∧ (vk sads).gr.rtag 1 = 0x70 ∧ (vk sads).gr.rtag 255 = 0x10)
    ∧ ((vk id).gr.rtag 0 = 0 ∧ (vk id).gr.rtag 1 = 0 ∧ (vk id).gr.rtag 0 = (vk id).gr.rtag 1 ∧ (vk id).t.mast = false)
    ∧ (Ready (vs leas) (vk leas) 0x09C (linesOf (sl (.v 254) (.v 254) (.v 1) 0) true 0) ∧ (vk leas).gr.rtag 254 = 0x30
      ∧ (vk leas).gr.rtag 255 = 0x30 ∧ (vk leas).gr.rtag 1 = 0x10)
    ∧ (Ready (vs (ss 4 31)) (vk (ss 4 31)) 0x0C1 (linesOf (sl (.v 3) (.v 3) (.s 4) 0) false 0)
      ∧ ((vk (ss 4 31)).gr.rs 4).toNat < 32)
    ∧ (Ready (vs (ss 4 32)) (vk (ss 4 32)) 0x0C1 (linesOf (sl (.v 3) (.v 3) (.s 4) 0) false 0)
      ∧ 32 ≤ ((vk (ss 4 32)).gr.rs 4).toNat)
    ∧ (Ready (vs fun g => ss 4 31 (g.wtag 3 0x10)) (vk fun g => ss 4 31 (g.wtag 3 0x10)) 0x0C2
        (linesOf (sl (.s 5) (.v 3) (.s 4) 0) false 0)
      ∧ (vk fun g => ss 4 31 (g.wtag 3 0x10)).gr.rtag 3 = 0x10 ∧ ((vk fun g => ss 4 31 (g.wtag 3 0x10)).gr.rs 4).toNat < 32
      ∧ (vk fun g => ss 4 31 (g.wtag 3 0x10)).gr.checkTag (.v 3) 0x10 false 1 = .ok ())
    ∧ ((vk sads).gr.checkTags (.v 0) (.v 1) (.v 255) 0x70 false false = .ok () ∧ (vk sads).gr.checkTag (.v 255) 0x10 false 3 = .ok ())
    ∧ ((vk id).gr.checkTags (.v 0) (.v 1) .nil 0 false false = .ok () ∧ (vk id).gr.uni .imm 31 < 32)
    ∧ ((vk leas).gr.checkTag (.v 254) 0x30 true 1 = .ok () ∧ (vk leas).gr.checkTag (.v 1) 0x10 false 2 = .ok ()) ∧ ∃ k, ReadyDxp (dxOf id) k :=
  ⟨by intro op h ls; apply ready_vector; revert h op; decide,
    ⟨ready_of rfl rfl rfl rfl rfl rfl rfl rfl, by decide, by decide, by decide⟩, by decide,
    ⟨ready_of rfl rfl rfl rfl rfl rfl rfl rfl, by decide, by decide, by decide⟩,
    ⟨ready_of rfl rfl rfl rfl rfl rfl rfl rfl, by decide⟩, ⟨ready_of rfl rfl rfl rfl rfl rfl rfl rfl, by decide⟩,
    ⟨ready_of rfl rfl rfl rfl rfl rfl rfl rfl, by decide, by decide, rfl⟩, ⟨rfl, rfl⟩, ⟨rfl, by decide⟩, ⟨rfl, rfl⟩, ⟨_, rfl, rfl⟩⟩

/-- The registers 0, 1 and 255 under one tag. -/
def under (t : Nat) (g : Group) : Group := ((g.wtag 0 t).wtag 1 t).wtag 255 t

theorem witness_FloatArithmetic :
    (∀ op : FloatOp, ∀ ls, Ready (vs (under 0x80)) (vk (under 0x80)) (floatOpcode op) ls
      ∧ (vk (under 0x80)).gr.checkTags (.v 0) (.v 1) (.v 255) (16 * tyCode .f32) false (op == .fma) = .ok ())
    ∧ (∀ x ∈ elementaryOf.map fun x => x.2.1, ∀ ls, Ready (vs (under 0x80)) (vk (under 0x80)) x ls)
    ∧ ∀ ls, Ready (vs (under 0x80)) (vk (under 0x80)) 0x114 ls :=
  ⟨by intro op ls; exact ⟨ready_of rfl (by cases op <;> decide) rfl rfl rfl rfl rfl rfl, by cases op <;> rfl⟩,
    by intro x h ls; exact ready_of rfl (by revert h x; decide) rfl rfl rfl rfl rfl rfl,
    fun ls => ready_of rfl rfl rfl rfl rfl rfl rfl rfl⟩

def dots (t : Nat) (g : Group) : Group := (under t g).wtag 255 0x80
theorem witness_FloatOther :
    (∀ op ∈ [0x107, 0x108, 0x105, 0x106, 0x113, 0x115, 0x109], ∀ ls, Ready (vs (under 0x80)) (vk (under 0x80)) op ls)
    ∧ (vk (under 0x80)).gr.checkTags (.v 0) (.v 1) (.v 255) (16 * tyCode .f32) false false = .ok ()
    ∧ ((vk (under 0x80)).gr.rv 0 0 &&& 0x7FFFFFFF).toNat ≤ 0x7F800000
    ∧ (vk (under 0x80)).gr.checkTags (.v 0) (.v 1) .nil (16 * tyCode .f32) false false = .ok ()
    ∧ (∀ ls, Ready (vs (dots 0x90)) (vk (dots 0x90)) 0x116 ls
      ∧ (vk (dots 0x90)).gr.checkTags (.v 0) (.v 1) .nil (tagOf .f16 0) false false = .ok ()
      ∧ (vk (dots 0x90)).gr.checkTag (.v 255) 0x80 false 3 = .ok ())
    ∧ (∀ ls, Ready (vs (dots 0xB9)) (vk (dots 0xB9)) 0x117 ls
      ∧ (vk (dots 0xB9)).gr.checkTags (.v 0) (.v 1) .nil (tagOf .b8 9) false false = .ok ()) :=
  ⟨by intro op h ls; exact ready_of rfl (by revert h op; decide) rfl rfl rfl rfl rfl rfl, rfl, by decide, rfl,
    fun ls => ⟨ready_of rfl rfl rfl rfl rfl rfl rfl rfl, rfl, rfl⟩, fun ls => ⟨ready_of rfl rfl rfl rfl rfl rfl rfl rfl, rfl⟩⟩

def packs (g : Group) : Group := (under 0x80 g).wtag 255 0xB9
theorem witness_Conversions :
    (∀ op ∈ [0x141, 0x142, 0x143, 0x144, 0x145, 0x148], ∀ ls, Ready (vs (under 0x80)) (vk (under 0x80)) op ls)
    ∧ (vk (under 0x80)).gr.checkTag (.v 0) 0x80 false 1 = .ok ()
    ∧ (Ready (vs packs) (vk packs) 0x142 (lines2 (sl (.v 255) (.v 0) (.v 1) 0x80) false false)
      ∧ (vk packs).gr.checkTags (.v 0) (.v 1) .nil 0x80 false false = .ok ()
      ∧ (vk packs).gr.checkTag (.v 255) 0xB9 false 3 = .ok ()) ∧ tagOf .b8 15 < 256
    ∧ (vk (under 0x80)).gr.checkTag (.v 0) (16 * tyCode .f32) false 1 = .ok ()
    ∧ (Ready (vs id) (vk id) 0x148 (linesOf (sl (.v 3) (.v 0) .imm 8) false 0) ∧ tagInt (16 * tyCode .i32) = true
      ∧ (vk id).gr.checkTag (.v 0) (16 * tyCode .i32) false 1 = .ok () ∧ (vk id).gr.checkTag .imm 0x10 false 2 = .ok ()) :=
  ⟨by intro op h ls; exact ready_of rfl (by revert h op; decide) rfl rfl rfl rfl rfl rfl, rfl,
    ⟨ready_of rfl rfl rfl rfl rfl rfl rfl rfl, rfl, rfl⟩, by decide, rfl,
    ⟨ready_of rfl rfl rfl rfl rfl rfl rfl rfl, by decide, rfl, rfl⟩⟩

theorem witness_TagsAndTiles :
    (∀ op ∈ [0x146, 0x147, 0x141], ∀ ls, Ready (vs id) (vk id) op ls) ∧ tagWide 0x80 = false ∧ tagWide 0x30 = true
    ∧ (vk id).t.checkTile 15 ((vk id).t.rmtag 15) 1 = .ok ()
    ∧ ∃ (s : State) (t : Team), s.team? 0 = some t ∧ (t.tileCvts.any fun c => c.id == 7) = true :=
  ⟨by intro op h ls; apply ready_vector; revert h op; decide, by decide, by decide, rfl,
    ⟨sysOf .vector id (fun t => { t with tileCvts := [⟨7, 3, 0⟩] }) id, _, rfl, by decide⟩⟩

/-- The same system with the 2 MiB at 0x200000 mapped to themselves. -/
def mappedPart : Partition :=
  { Partition.reset with en := true, keyGen := 1, ctxs := [(0, { Context.off with valid := true, root := 0x10000 })] }
def mapped (s : State) : State :=
  { s with home := placedHome 0 [], lineKey := SMap.set 0 [] 0x4000 8, parts := [(0, mappedPart)] }
def gs (f : Group → Group) : State := sysOf .vector f id mapped
def mi (d a b : Operand) (imm : W32) : MemI := ⟨sl d a b imm, .i32, 0, .plain, .lane⟩
def spadBase : Nat := 0xFFFFFFFF00000000

/-- The only team of this system has no mapped scratchpad. -/
theorem unfilled_gs (f : Group → Group) (accs : List Acc) : (gs f).unfilled accs = none := by
  have h : ∀ u t, (gs f).team? u = some t → t.spmap = [] := by
    intro u t ht
    have h1 : (gs f).teams = [(0, teamOf .vector f id)] := rfl
    by_cases hu : u = 0
    · subst hu
      have h2 : (gs f).team? 0 = some (teamOf .vector f id) := rfl
      rw [h2] at ht
      cases ht
      rfl
    · rw [State.team?, h1] at ht
      simp [SMap.find, Ne.symm hu] at ht
  unfold State.unfilled
  rw [List.findSome?_eq_none_iff]
  intro a _
  split
  · split
    · rfl
    · rename_i t ht
      have : ∀ x, t.mapped x = false := by intro x; simp [Team.mapped, h _ _ ht]
      simp [this]
  · rfl

theorem ok_of {α : Type} {x : Except Bail α} (h : x.toBool = true) : ∃ a, x = .ok a := by
  cases x with
  | error e => cases h
  | ok a => exact ⟨a, rfl⟩

theorem witness_Loads :
    (∀ ls, Ready (gs (ss 4 0x300000)) (vk (ss 4 0x300000)) 0x181 ls)
    ∧ (vk (ss 4 0x300000)).gr.checkBase .glob (.s 4) = .ok ()
    ∧ (∃ pl, (gs (ss 4 0x300000)).placeLanes (vk (ss 4 0x300000)) .glob .load (.s 4) 0 4 1 false = .ok pl
      ∧ (gs (ss 4 0x300000)).pathCheck pl.accs false = .ok () ∧ (gs (ss 4 0x300000)).unfilled pl.accs = none)
    ∧ (∀ op ∈ [0x182, 0x183], ∀ ls, Ready (vs (ss 4 spadBase)) (vk (ss 4 spadBase)) op ls)
    ∧ (∀ sp ∈ [Space.spad, Space.uni], (vk (ss 4 spadBase)).gr.checkBase sp (.s 4) = .ok ())
    ∧ (∃ pl, (vs (ss 4 spadBase)).placeLanes (vk (ss 4 spadBase)) .spad .load (.s 4) 4092 4 1 false = .ok pl
      ∧ (vs (ss 4 spadBase)).pathCheck pl.accs false = .ok () ∧ (vs (ss 4 spadBase)).unfilled pl.accs = none)
    ∧ (∃ pl, (vs (ss 4 spadBase)).placeLanes (vk (ss 4 spadBase)) .uni .load (.s 4) 4092 4 1 false = .ok pl
      ∧ (vs (ss 4 spadBase)).pathCheck pl.accs false = .ok () ∧ (vs (ss 4 spadBase)).unfilled pl.accs = none)
    ∧ ocOf (vk (ss 4 spadBase)).gr.ops .ld < 63 :=
  ⟨fun ls => ready_of rfl rfl rfl rfl rfl rfl rfl rfl, rfl, ⟨_, rfl, rfl, rfl⟩,
    by intro op h ls; exact ready_of rfl (by revert h op; decide) rfl rfl rfl rfl rfl rfl,
    by intro sp h; simp only [List.mem_cons, List.not_mem_nil, or_false] at h; rcases h with rfl | rfl <;> rfl,
    ⟨_, rfl, rfl, rfl⟩, ⟨_, rfl, rfl, rfl⟩, by decide⟩

def tiles (g : Group) : Group := ss 4 spadBase (ss 5 0 (ss 6 0x300000 g))
set_option maxRecDepth 100000 in
theorem tile_rows_load : ((gs tiles).tileRows (vk tiles) .load (.s 4) 0 0).toBool = true := by decide +kernel
set_option maxRecDepth 100000 in
theorem tile_rows_store : ((gs tiles).tileRows (vk tiles) .store (.s 4) 0 0).toBool = true := by decide +kernel

theorem tiles_addr (l : Nat) : (vk tiles).gr.addr .glob (.s 5) 0x200000 l = 0x200000 := by
  have h : (vk tiles).gr.addr .glob (.s 5) 0x200000 l = (vk tiles).gr.addr .glob (.s 5) 0x200000 0 := rfl
  rw [h]
  decide

theorem witness_TileLoadsAndPages :
    (∀ op ∈ [0x184, 0x185], ∀ ls, Ready (gs tiles) (vk tiles) op ls)
    ∧ (vk tiles).gr.pitch (.s 5) 3 = .ok 0 ∧ (∃ accs, (gs tiles).tileRows (vk tiles) .load (.s 4) 0 0 = .ok accs)
    ∧ (∀ accs, (gs tiles).unfilled accs = none) ∧ ocOf (vk tiles).gr.ops .ld < 63
    ∧ (vk tiles).gr.checkBase .glob (.s 5) = .ok () ∧ (∀ l, (vk tiles).e.mask.getLsbD l = true → (vk tiles).gr.addr .glob (.s 5) 0x200000 l < 2 ^ 56)
    ∧ ∀ l, (vk tiles).e.mask.getLsbD l = true → ∃ lf, (gs tiles).walk (vk tiles).t.part ((gs tiles).ctx (vk tiles).t.part (vk tiles).t.ctx).root .load
        ((vk tiles).gr.addr .glob (.s 5) 0x200000 l) = .ok lf :=
  ⟨by intro op h ls; exact ready_of rfl (by revert h op; decide) rfl rfl rfl rfl rfl rfl, rfl, ok_of tile_rows_load,
    unfilled_gs tiles, by decide, rfl, fun l _ => by rw [tiles_addr]; decide, fun l _ => by rw [tiles_addr]; exact ⟨_, rfl⟩⟩

theorem witness_Prefetch : (∀ ls, Ready (gs tiles) (vk tiles) 0x186 ls) ∧ (vk tiles).gr.checkBase .glob (.s 5) = .ok () :=
  ⟨fun ls => ready_of rfl (by decide) rfl rfl rfl rfl rfl rfl, rfl⟩

/-- A load of one word of scratchpad; the group that has it. -/
def lqe (dest : Operand) (tag aop : Nat) (loc : Loc) (vals : List (Nat × Nat)) : LqEntry :=
  ⟨7, 0x200000, 1, [⟨0, 0, loc, 4⟩], 0, false, dest, tag, false, false, .lane, 0, aop, [(0, 5)], [], vals, [], [], false, []⟩
def loading (e : LqEntry) (g : Group) : Group := { g with lq := [e], ops := [⟨7, .ld, false⟩] }

theorem witness_LoadSteps :
    (∀ loc ∈ [Loc.spad 0 0, Loc.mem 0x300000 0], ∃ (s : State) (t : Team) (gr : Group) (e : LqEntry), s.team? 0 = some t
      ∧ t.groups[0]? = some gr ∧ gr.lq.find? (fun x => x.id == 7) = some e ∧ e.aop = 0 ∧ s.errs = []
      ∧ (e.accs.filter fun a => e.lacks a && !(e.waiting.any fun w => w.1 == a.lane)) = [⟨0, 0, loc, 4⟩]
      ∧ gr.mayTake e ⟨0, 0, loc, 4⟩ = true ∧ s.filled ⟨0, 0, loc, 4⟩ = true ∧ e.acq = false
      ∧ (∀ i < 4, gr.forward 7 e.tile ⟨0, 0, loc, 4⟩ i = none)
      ∧ ∀ j < 4, ∀ m < 4, (SMap.get CvByte.absent (s.core t.core).view (0x300000 + j)).present
        = (SMap.get CvByte.absent (s.core t.core).view (0x300000 + m)).present)
    ∧ ∀ dest ∈ [Operand.v 255, Operand.s 63], ∃ (s : State) (t : Team) (gr : Group) (e : LqEntry), s.team? 0 = some t
      ∧ t.groups[0]? = some gr ∧ gr.lq.find? (fun x => x.id == 7) = some e ∧ e.full = true ∧ e.rel = false ∧ e.gone = false
      ∧ s.destHere 0 0 e.dest (tagWide e.tag) = true ∧ e.written = [] ∧ e.dest = dest ∧ e.aop = 0 ∧ e.accs ≠ []
      ∧ 0 ∈ e.units ∧ (e.vals.head?).map Prod.snd = some 0xFFFFFFFF ∧ e.earlyOk t gr [0] = true := by
  refine ⟨?_, ?_⟩ <;> intro x h <;> simp only [List.mem_cons, List.not_mem_nil, or_false] at h
  · rcases h with rfl | rfl
    · exact ⟨vs (loading (lqe (.v 255) 0 0 (.spad 0 0) [])), _, _, _, rfl, rfl, rfl, rfl, rfl, by decide, by decide, by decide, rfl,
        by decide, fun _ _ _ _ => rfl⟩
    · exact ⟨vs (loading (lqe (.v 255) 0 0 (.mem 0x300000 0) [])), _, _, _, rfl, rfl, rfl, rfl, rfl, by decide, by decide,
        by decide, rfl, by decide, fun _ _ _ _ => rfl⟩
  · rcases h with rfl | rfl
    · exact ⟨vs (loading (lqe (.v 255) 0 0 (.spad 0 0) [(0, 0xFFFFFFFF)])), _, _, _, rfl, rfl, rfl, by decide, rfl, rfl, by decide,
        rfl, rfl, rfl, by decide, by decide, rfl, by decide⟩
    · exact ⟨vs (loading (lqe (.s 63) 0 0 (.spad 0 0) [(0, 0xFFFFFFFF)])), _, _, _, rfl, rfl, rfl, by decide, rfl, rfl, by decide,
        rfl, rfl, rfl, by decide, by decide, rfl, by decide⟩

theorem witness_Stores :
    (∀ op ∈ [0x1C1, 0x1C2, 0x1C3, 0x1C4], ∀ ls, Ready (gs tiles) (vk tiles) op ls)
    ∧ ocOf (vk tiles).gr.ops .st < 63 ∧ (vk tiles).gr.guard (.ifNotP 7) (vk tiles).e.mask = 0
    ∧ (vk tiles).gr.guard .none (vk tiles).e.mask ≠ 0 ∧ (vk tiles).gr.checkTag (.v 0) (memTag (mi .nil (.s 4) (.v 0) 0)) false 2 = .ok ()
    ∧ (∀ sp ∈ [Space.glob, Space.spad, Space.uni], (vk tiles).gr.checkBase sp (.s 4) = .ok ())
    ∧ (∃ pl, (gs tiles).placeLanes (vk tiles) .glob .store (.s 6) 0 4 1 false = .ok pl
      ∧ (gs tiles).pathCheck pl.accs false = .ok () ∧ (gs tiles).unfilled pl.accs = none)
    ∧ (∃ pl, (gs tiles).placeLanes (vk tiles) .spad .store (.s 4) 4092 4 1 false = .ok pl
      ∧ (gs tiles).pathCheck pl.accs false = .ok () ∧ (gs tiles).unfilled pl.accs = none)
    ∧ (∃ pl, (gs tiles).placeLanes (vk tiles) .uni .store (.s 4) 4092 4 1 false = .ok pl
      ∧ (gs tiles).pathCheck pl.accs false = .ok () ∧ (gs tiles).unfilled pl.accs = none)
    ∧ (vk tiles).t.checkTile 15 (memTag (mi (.s 5) (.s 4) (.m 15) 0)) 2 = .ok () ∧ (vk tiles).gr.pitch (.s 5) 1 = .ok 0
    ∧ (∃ accs, (gs tiles).tileRows (vk tiles) .store (.s 4) 0 0 = .ok accs) ∧ ∀ accs, (gs tiles).unfilled accs = none :=
  ⟨by intro op h ls; exact ready_of rfl (by revert h op; decide) rfl rfl rfl rfl rfl rfl, by decide, by decide, by decide, rfl,
    by intro sp h; simp only [List.mem_cons, List.not_mem_nil, or_false] at h; rcases h with rfl | rfl | rfl <;> rfl,
    ⟨_, rfl, rfl, rfl⟩, ⟨_, rfl, rfl, rfl⟩, ⟨_, rfl, rfl, rfl⟩, rfl, rfl, ok_of tile_rows_store,
    unfilled_gs tiles⟩

/-- A store of one word; the group that has it. -/
def sbe (loc : Loc) (rel : Bool) (scope : Scope) : SbEntry :=
  ⟨7, 0, 0x200000, 1, 0, [⟨⟨0, 0, loc, 4⟩, [1, 2, 3, 4]⟩], rel, scope, 0, 0, false⟩
def storing (e : SbEntry) (g : Group) : Group := { g with sb := [e], ops := [⟨7, .st, false⟩] }

theorem witness_StorePerforms : ∀ loc ∈ [Loc.spad 0 4092, Loc.mem 0x300000 0], ∃ (s : State) (t : Team) (gr : Group) (e : SbEntry),
    s.team? 0 = some t ∧ t.groups[0]? = some gr ∧ gr.sbHead 0 = some e ∧ e.aop = 0 ∧ e.rel = false ∧ gr.mayPerform e = true
    ∧ (∀ p ∈ e.puts, s.filled p.acc = true) ∧ (∀ p ∈ e.puts, p.acc.loc.dev? = none)
    ∧ e.puts = [⟨⟨0, 0, loc, 4⟩, [1, 2, 3, 4]⟩] ∧ s.redOpen 0 0 7 = false ∧ e.id = 7
    ∧ ∃ (s : State) (t : Team) (gr : Group) (e : SbEntry), s.team? 0 = some t ∧ t.groups[0]? = some gr ∧ gr.sbHead 0 = some e
      ∧ gr.mayPerform e = true ∧ (∀ p ∈ e.puts, s.filled p.acc = true) ∧ e.rel = true ∧ e.released = true ∧ e.aop = 1 := by
  intro loc h
  simp only [List.mem_cons, List.not_mem_nil, or_false] at h
  have hr : ∃ (s : State) (t : Team) (gr : Group) (e : SbEntry), s.team? 0 = some t ∧ t.groups[0]? = some gr ∧ gr.sbHead 0 = some e
      ∧ gr.mayPerform e = true ∧ (∀ p ∈ e.puts, s.filled p.acc = true) ∧ e.rel = true ∧ e.released = true ∧ e.aop = 1 :=
    ⟨vs (storing { sbe (.spad 0 0) true .team with released := true, aop := 1 }), _, _, _, rfl, rfl, rfl, by decide, by decide, rfl, rfl, rfl⟩
  rcases h with rfl | rfl
  · exact ⟨vs (storing (sbe (.spad 0 4092) false .lane)), _, _, _, rfl, rfl, rfl, rfl, rfl, by decide, by decide, by decide, rfl, rfl, rfl, hr⟩
  · exact ⟨vs (storing (sbe (.mem 0x300000 0) false .lane)), _, _, _, rfl, rfl, rfl, rfl, rfl, by decide, by decide, by decide, rfl, rfl, rfl, hr⟩

def ai (d a b : Operand) (imm : W32) : MemI := ⟨sl d a b imm, .i32, 0, .plain, .team⟩
theorem witness_Atomics :
    (∀ op ∈ [0x201, 0x202, 0x204, 0x203], ∀ ls, Ready (gs tiles) (vk tiles) op ls)
    ∧ (vk tiles).gr.guard (.ifNotP 7) (vk tiles).e.mask = 0
    ∧ (∃ accs, atomChecks 0x201 .glob (ai (.v 1) (.s 6) (.v 0) 0x08000000) (gs tiles) (vk tiles) 1 = .ok accs
      ∧ (gs tiles).unfilled accs = none)
    ∧ (∃ accs, atomChecks 0x202 .spad (ai (.v 1) (.s 4) (.v 0) 0x08000FFC) (gs tiles) (vk tiles) 1 = .ok accs
      ∧ (gs tiles).unfilled accs = none)
    ∧ (∃ accs, atomChecks 0x203 .uni (ai .nil (.s 4) (.v 0) 0x08000FFC) (gs tiles) (vk tiles) 1 = .ok accs
      ∧ (gs tiles).unfilled accs = none)
    ∧ ocOf (vk tiles).gr.ops .ld < 63 ∧ ocOf (vk tiles).gr.ops .st < 63 :=
  ⟨by intro op h ls; exact ready_of rfl (by revert h op; decide) rfl rfl rfl rfl rfl rfl, by decide, ⟨_, rfl, by decide⟩,
    ⟨_, rfl, by decide⟩, ⟨_, rfl, by decide⟩, by decide, by decide⟩

theorem witness_AtomicSteps : ∃ (s : State) (t : Team) (gr : Group) (e : LqEntry), s.team? 0 = some t ∧ t.groups[0]? = some gr
    ∧ gr.lq.find? (fun x => x.id == 7) = some e ∧ e.aop ≠ 0 ∧ e.rel = false ∧ e.nextLane = some ⟨0, 0, .spad 0 0, 4⟩
    ∧ gr.mayTake e ⟨0, 0, .spad 0 0, 4⟩ = true ∧ s.filled ⟨0, 0, .spad 0 0, 4⟩ = true ∧ s.errs = [] ∧ e.acq = false
    ∧ (s.team? 0).isSome = true :=
  ⟨vs (loading (lqe (.v 255) 0 2 (.spad 0 0) [])), _, _, _, rfl, rfl, rfl, by decide, rfl, by decide, by decide, by decide, rfl, rfl,
    rfl⟩

def holding (why : Nat) (passed timedOut : Bool) (g : Group) : Group := { g with hold := some (waits why passed timedOut) }
def groups (n : Nat) (t : Team) : Team := { t with groups := List.replicate n (holding 4 false false (grpOf .vector)) }

theorem witness_Fences :
    (∀ op ∈ [0x241, 0x242, 0x24F], ∀ ls, Ready (vs id) (vk id) op ls)
    ∧ (vk id).gr.quiet 255 = true ∧ (vk id).gr.quiet 0 = true
    ∧ (Ready (vs (holding 12 true false)) (vk (holding 12 true false)) 0x241 ([], [])
      ∧ (vk (holding 12 true false)).gr.hold = some (waits 12 true false))
    ∧ (Ready (vs (storing (sbe (.spad 0 0) false .lane))) (vk (storing (sbe (.spad 0 0) false .lane))) 0x241 ([], [])
      ∧ (vk (storing (sbe (.spad 0 0) false .lane))).gr.quiet 1 = false)
    ∧ (Ready (vs (loading (lqe (.v 3) 0 0 (.spad 0 0) []))) (vk (loading (lqe (.v 3) 0 0 (.spad 0 0) []))) 0x242 ([], [])
      ∧ (∀ n < 6, bits 0xFFFFF1 (4 * n + 3) (4 * n) = 15
        ∨ (vk (loading (lqe (.v 3) 0 0 (.spad 0 0) []))).gr.counters.getD n 0 ≤ bits 0xFFFFF1 (4 * n + 3) (4 * n))
      ∧ bits 0xFFFFF0 3 0 < (vk (loading (lqe (.v 3) 0 0 (.spad 0 0) []))).gr.counters.getD 0 0)
    ∧ (∀ ls, Ready (vs (holding 4 true false)) (vk (holding 4 true false)) 0x243 ls)
    ∧ (Ready (vs id) (vk id) 0x243 ([], []) ∧ (vk id).gr.hold = none)
    ∧ (∀ n ∈ [4, 5], ∃ (s : State) (t : Team) (w : BarWave), s.team? 0 = some t ∧ t.barWave = some w ∧ w.gap = 0
      ∧ w.left.length = n ∧ (s.cluster (clusterOf t.core)).widthm1.toNat + 1 = 4 ∧ 3 ∈ w.left.take 4
      ∧ ∃ gr, t.groups[3]? = some gr ∧ gr.hold = some (waits 4 false false)) := by
  refine ⟨?_, rfl, rfl, ⟨ready_of rfl rfl rfl rfl rfl rfl rfl rfl, rfl⟩, ⟨ready_of rfl rfl rfl rfl rfl rfl rfl rfl, by decide⟩,
    ⟨ready_of rfl rfl rfl rfl rfl rfl rfl rfl, by decide, by decide⟩, fun ls => ready_of rfl rfl rfl rfl rfl rfl rfl rfl,
    ⟨ready_of rfl rfl rfl rfl rfl rfl rfl rfl, rfl⟩, ?_⟩
  · intro op h ls; apply ready_vector; revert h op; decide
  · intro n h
    simp only [List.mem_cons, List.not_mem_nil, or_false] at h
    rcases h with rfl | rfl
    · exact ⟨sysOf .vector id (fun t => { groups 16 t with barWave := some ⟨[0, 1, 2, 3], 0⟩ }) id, _, _, rfl, rfl, rfl, rfl, rfl,
        by decide, ⟨_, rfl, rfl⟩⟩
    · exact ⟨sysOf .vector id (fun t => { groups 16 t with barWave := some ⟨[0, 1, 2, 3, 4], 0⟩ }) id, _, _, rfl, rfl, rfl, rfl, rfl,
        by decide, ⟨_, rfl, rfl⟩⟩

/-- The allocation holds a barrier at offset 16; s4 names it. -/
def barred (b : Bar) (t : Team) : Team := { t with spad := SMap.setRange 0#8 [] 16 b.bytes }
def atBar (g : Group) : Group := ss 4 (spadBase + 16) g
def bs (b : Bar) (f : Group → Group) : State := sysOf .vector f (barred b) id
def bk (b : Bar) (f : Group → Group) : Iss := issOf .vector f (barred b)
/-- The same in a later quadrant of the core's cycle. -/
def bsQ (b : Bar) (n : Nat) : State := sysOf .vector atBar (barred b) fun s => { s with cores := [(0, { Core.reset with nextQ := n })] }

theorem witness_BarrierWords : ∀ b ∈ [(⟨15, 0, 0xFFFF, 0, 0, 0xFFFFFFFF⟩ : Bar), ⟨0, 0xFFF, 1, -2147483648, 2147483647, 0⟩],
    b.phase < 16 ∧ b.resv < 2 ^ 12 ∧ b.init < 2 ^ 16 ∧ inI32 b.arrive = true ∧ inI32 b.sectors = true ∧ b.excess < 2 ^ 32 := by
  decide

theorem witness_Barriers : let b := Bar.start 0xFFFF
    (∀ op ∈ [0x244, 0x245, 0x246, 0x247, 0x248], ∀ ls, Ready (bs b atBar) (bk b atBar) op ls)
    ∧ (∀ kind, (bs b atBar).barArg (bk b atBar) (.s 4) kind = .ok (spadBase + 16, .spad 0 16))
    ∧ (bs b atBar).barRead (bk b atBar).t.core (.spad 0 16) = (b, bs b atBar) ∧ b.bad = false
    ∧ (bk b atBar).gr.barCount .nil 0xFFFF 65535 = .ok 0xFFFF ∧ (0xFFFF : Int) ≤ (bs b atBar).barOwed (.spad 0 16) b
    ∧ inI32 (b.arrive - 0xFFFF) = true ∧ arriveNow (bk b atBar) (.spad 0 16) = true
    ∧ (({ b with arrive := b.arrive - 0xFFFF } : Bar).settle).2 = false
    ∧ (Ready (bs b fun g => storing (sbe (.spad 0 0) false .lane) (atBar g)) (bk b fun g => storing (sbe (.spad 0 0) false .lane) (atBar g))
        0x245 ([], []) ∧ arriveNow (bk b fun g => storing (sbe (.spad 0 0) false .lane) (atBar g)) (.spad 0 16) = false)
    ∧ inI32 ((bs b atBar).barSectors (.spad 0 16) b + (2 ^ 31 - 1 : Nat)) = true ∧ (({ b with sectors := b.sectors + (2 ^ 31 - 1 : Nat) } : Bar).settle).2 = false
    ∧ b.phase ≠ 15 % 16 ∧ b.phase = 0 % 16
    ∧ (Ready (bs b fun g => holding 5 false true (atBar g)) (bk b fun g => holding 5 false true (atBar g)) 0x247 ([], [])
      ∧ (bk b fun g => holding 5 false true (atBar g)).gr.hold = some (waits 5 false true))
    ∧ (bk b atBar).gr.hold = none
    ∧ (((bs b atBar).core 0).nextQ = 0 ∧ ((bs b atBar).core 0).bars = [] ∧ (bs b atBar).barNow (.spad 0 16) = []
      ∧ b.settle.2 = false ∧ ((bs b atBar).team? 0).isSome = true)
    ∧ (((bsQ b 1).core 0).nextQ ≠ 0 ∧ ∀ op ∈ [0x244, 0x245, 0x246], ∀ ls, Ready (bsQ b 1) (bk b atBar) op ls) := by
  refine ⟨?_, ?_, rfl, rfl, rfl, by decide, by decide, by decide, by decide,
    ⟨ready_of rfl rfl rfl rfl rfl rfl rfl rfl, by decide⟩, by decide, by decide, by decide, by decide,
    ⟨ready_of rfl rfl rfl rfl rfl rfl rfl rfl, rfl⟩, rfl, ⟨rfl, rfl, rfl, by decide, rfl⟩, by decide, ?_⟩
  · intro op h ls; exact ready_of rfl (by revert h op; decide) rfl rfl rfl rfl rfl rfl
  · intro kind; cases kind <;> rfl
  · intro op h ls; exact ready_of rfl (by revert h op; decide) rfl rfl rfl rfl rfl rfl

def ringed (full : BitVec 16) (t : Team) : Team := { t with rings := SMap.put [] 0 ⟨full, 0, 3, 3, false, false⟩ }
def rs' (full : BitVec 16) (f : Group → Group) : State := sysOf .vector f (ringed full) id
def rk (full : BitVec 16) (f : Group → Group) : Iss := issOf .vector f (ringed full)

theorem witness_Rings : (∀ full, (rk full (ss 4 3)).t.lrec.rings[0]? = some ⟨0, 0, 4⟩)
    ∧ (∀ op ∈ [0x249, 0x24A, 0x24B], ∀ ls full, Ready (rs' full (ss 4 3)) (rk full (ss 4 3)) op ls)
    ∧ (((rk 7 (ss 4 3)).t.ring 0).full.getLsbD ((rk 7 (ss 4 3)).t.ring 0).put = false ∧ ((rk 7 (ss 4 3)).t.ring 0).putNow = false ∧ (rk 7 (ss 4 3)).ringAhead 7 0 = false)
    ∧ (((rk 8 (ss 4 3)).t.ring 0).full.getLsbD ((rk 8 (ss 4 3)).t.ring 0).get = true ∧ ((rk 8 (ss 4 3)).t.ring 0).getNow = false ∧ (rk 8 (ss 4 3)).ringAhead 8 0 = false)
    ∧ (((rk 8 (ss 4 3)).gr.rs 4).toNat % 16 = 3 ∧ bits ((rk 8 (ss 4 3)).gr.rs 4).toNat 15 4 = 0 ∧ 3 < 4)
    ∧ (((rk 7 (ss 4 3)).t.ring 0).full.getLsbD 3 = false ∧ (rk 7 (ss 4 3)).gr.quiet 255 = true)
    ∧ (((rk 8 (ss 4 3)).t.ring 0).full.getLsbD 3 = true ∧ (rk 8 (ss 4 3)).gr.quiet 0 = true) :=
  ⟨fun _ => rfl, by intro op h ls full; exact ready_of rfl (show roleOk .vector op = true by revert h op; decide) rfl rfl rfl rfl rfl rfl, by decide, by decide,
    by decide, by decide, by decide⟩

/-- Paths to devices 0 and 1 over port 0. -/
def joined (s : State) : State := { s with paths := [(0, 7), (8, 7)], ports := [(0, { Port.down with up := true })] }

/-- The queue of cluster 0 with n records. -/
def ev0 : EvRec := ⟨3, 0, 0, 0⟩
def queued (n : Nat) : State := sysOf .vector id id fun s => { s with clusters := [(0, { Cluster.reset with evq := List.replicate n ev0 })] }

theorem witness_EventQueue :
    (∀ n, ∀ op ∈ [0x24C, 0x24D, 0x24E], ∀ ls, Ready (queued n) (vk id) op ls)
    ∧ (queued 223).evCount 0 < 224 ∧ 224 ≤ (queued 224).evCount 0
    ∧ (∀ w ∈ (queued 2).evWaiters 0, w.1 = 0 ∧ w.2.1 = 0) ∧ (60#6).toNat % 4 = 0
    ∧ ((queued 2).cluster 0).evq = ev0 :: [ev0] ∧ ((queued 0).cluster 0).evq = []
    ∧ (Ready (vs fun g => g.ws 4 (Config.devNum.setWidth 64)) (vk fun g => g.ws 4 (Config.devNum.setWidth 64)) 0x24E
        (linesOf (sl .nil (.s 4) .nil 0) false 0) ∧ ocOf (vk id).gr.ops .st < 63
      ∧ (vk fun g => g.ws 4 (Config.devNum.setWidth 64)).gr.rs 4 = Config.devNum.setWidth 64)
    ∧ (∀ ls, Ready (sysOf .vector (ss 4 1) id joined) (vk (ss 4 1)) 0x24E ls) ∧ ((vk (ss 4 1)).gr.rs 4).toNat = 1
    ∧ (sysOf .vector (ss 4 1) id joined).pathsTo 1 0 ≠ [] :=
  ⟨by intro n op h ls; exact ready_of rfl (by revert h op; decide) rfl rfl rfl rfl rfl rfl, by decide +kernel, by decide +kernel,
    by decide, by decide, rfl, rfl, ⟨ready_of rfl rfl rfl rfl rfl rfl rfl rfl, by decide, (Group.rs_ws _ 4 4 _).trans (if_pos rfl)⟩,
    fun ls => ready_of rfl rfl rfl rfl rfl rfl rfl rfl, by decide, by decide⟩

/-- A matrix group on a core whose vat slots hold its team's tiles. -/
def withVat (s : State) : State := { s with cores := [(0, { Core.reset with vatTid := [(0, 1), (1, 1), (2, 1), (3, 1)] })] }
def ms (f : Group → Group) (t : Team → Team) : State := sysOf .matrix f t withVat
def mk (f : Group → Group) (t : Team → Team) : Iss := issOf .matrix f t
def signing (declared : BitVec 512) (t : Team) : Team :=
  { t with mtag := [(0, 0x60), (1, 0x60)], vattag := [(0, 0xE1)], cvs := [(2, ⟨declared, 0, false, none, 0⟩)] }
def mm : MtxI := ⟨sl (.vat 0) (.m 0) (.m 1) 0xA, .i8, .rn, false, 0⟩
def bb : MtxI := ⟨sl (.vat 0) (.m 0) (.m 1) 0xA, .b1, .rn, false, 0⟩
def signing1 (declared : BitVec 512) (t : Team) : Team :=
  { t with mtag := [(0, 0xD0), (1, 0xD0)], vattag := [(0, 0xE1)], cvs := [(2, ⟨declared, 0, false, none, 0⟩)] }

/-- The word of mm as a convergence register records it, and one where lane 1 has signed and lane 0 has not. -/
def mmWord : IWord := signWord ((encode (.mma mm)).getD 0)
def leaving (t : Team) : Team := { signing 3 t with cvs := [(2, ⟨3, 2, false, some mmWord, 0⟩)] }

theorem witness_MatrixIssue :
    (∀ d ∈ [0, 1, 3], Ready (ms id (signing d)) (mk id (signing d)) 0x281 ((ms id (signing d)).signLines mm (.mma mm))
      ∧ (mk id (signing d)).mxChecks 0x281 mm = .ok (none, none))
    ∧ (∀ d ∈ [0, 3], Ready (ms id (signing1 d)) (mk id (signing1 d)) 0x282 ((ms id (signing1 d)).signLines bb (.mmab bb))
      ∧ (mk id (signing1 d)).mxChecks 0x282 bb = .ok (none, none))
    ∧ (mk id (signing 0)).signBad ((mk id (signing 0)).t.cv 2) (signWord ((encode (.mma mm)).getD 0)) ≠ 0
    ∧ ((mk id (signing 3)).signBad ((mk id (signing 3)).t.cv 2) (signWord ((encode (.mma mm)).getD 0)) = 0
      ∧ ((mk id (signing 3)).t.cv 2).signed ||| (mk id (signing 3)).threads ≠ ((mk id (signing 3)).t.cv 2).declared)
    ∧ ((mk id (signing 1)).signBad ((mk id (signing 1)).t.cv 2) (signWord ((encode (.mma mm)).getD 0)) = 0
      ∧ (mk id (signing 1)).t.checkDesc false none = .ok ()
      ∧ ((mk id (signing 1)).t.cv 2).signed ||| (mk id (signing 1)).threads = ((mk id (signing 1)).t.cv 2).declared)
    ∧ (∀ d, ocOf (mk id (signing d)).gr.ops .mtx < 63 ∧ (ms id (signing d)).vatHere (mk id (signing d)).t.core 0 [0, 3] = true)
    ∧ (∀ op ∈ [0x283, 0x284, 0x285, 0x286, 0x287, 0x288, 0x04A], ∀ ls, Ready (ms id id) (mk id id) op ls)
    ∧ ((mk id (signing 0)).t.rvtag 0 = 0xE1 ∧ (mk id (signing 0)).t.rvtag 1 = 0xE0
      ∧ (mk id (signing 0)).t.checkTile 15 0x00 1 = .ok () ∧ (mk id (signing 0)).t.checkTile 0 0x60 1 = .ok ()
      ∧ tagWidth ((mk id (signing 0)).t.rmtag 15) = tagWidth (16 * tyCode .f32))
    ∧ ((mk id fun t => { t with mtag := [(14, 0x90)] }).t.checkTile 14 0x90 1 = .ok ())
    ∧ ((mk id (signing 3)).threads &&& ~~~((mk id (signing 3)).t.cv 2).declared = 0
      ∧ (mk id (signing 3)).threads &&& ((mk id (signing 3)).t.cv 2).signed = 0 ∧ ((mk id (signing 3)).t.cv 2).word = none)
    ∧ ((mk id leaving).threads &&& ~~~((mk id leaving).t.cv 2).declared = 0 ∧ (mk id leaving).threads &&& ((mk id leaving).t.cv 2).signed = 0
      ∧ ((mk id leaving).t.cv 2).signed = ((mk id leaving).t.cv 2).declared &&& ~~~(mk id leaving).threads
      ∧ (((mk id leaving).t.cv 2).word = some mmWord ∧ (mk id leaving).gr.descNow (rawOf mmWord.toNat).a 2 = .ok none
        ∧ (mk id leaving).gr.descNow (rawOf mmWord.toNat).b 3 = .ok none) ∧ (mk id leaving).t.checkDesc false none = .ok ()
      ∧ (∀ ls, Ready (ms id leaving) (mk id leaving) 0x04A ls) ∧ (ms id leaving).vatHere (mk id leaving).t.core 0 [(rawOf mmWord.toNat).d % 16] = true) :=
  ⟨by
      intro d h
      simp only [List.mem_cons, List.not_mem_nil, or_false] at h
      rcases h with rfl | rfl | rfl <;> exact ⟨ready_of rfl rfl rfl rfl rfl rfl rfl rfl, rfl⟩,
    by
      intro d h
      simp only [List.mem_cons, List.not_mem_nil, or_false] at h
      rcases h with rfl | rfl <;> exact ⟨ready_of rfl rfl rfl rfl rfl rfl rfl rfl, rfl⟩,
    by decide +kernel, by decide +kernel,
    ⟨by decide +kernel, rfl, by decide +kernel⟩, fun t => ⟨by show 0 < 63; decide, rfl⟩,
    by intro op h ls; exact ready_of rfl (by revert h op; decide) rfl rfl rfl rfl rfl rfl, ⟨rfl, rfl, rfl, rfl, rfl⟩, rfl, by decide +kernel, ⟨by decide +kernel, by decide +kernel, by decide +kernel, ⟨rfl, rfl, rfl⟩, rfl,
      fun ls => ready_of rfl rfl rfl rfl rfl rfl rfl rfl, rfl⟩⟩

/-- s4 and, as a unified address, s7 name a block of the allocation, s9 a walk that starts at cell (127, 127), s10 a band of one diagonal. -/
def walks (g : Group) : Group :=
  ss 4 0x0F000000 (ss 7 (spadBase + 0x0F000000) (ss 9 0x7F7F (ss 10 0xFFFFFFFFFFFFFFFF g)))
def ruled (t : Team) : Team := { t with wave := { t.wave with issuedRule := true } }

/-- A check that passes with a value that p takes. -/
def okAnd {ε α : Type} (x : Except ε α) (p : α → Bool) : Bool := match x with | .ok a => p a | .error _ => false

theorem good_of {ε α : Type} {x : Except ε α} {p : α → Bool} (h : okAnd x p = true) : ∃ a, x = .ok a ∧ p a = true := by
  cases x with
  | error e => cases h
  | ok a => exact ⟨a, rfl, h⟩

theorem walks_rule : okAnd ((ms walks ruled).readRec (mk walks ruled) ((mk walks ruled).gr.rs 7).toNat 576 64 true)
    (fun r => r.1.any fun bs => !ruleBad bs) = true := by decide +kernel

theorem witness_WavefrontIssue :
    (∀ op ∈ [0x2C1, 0x2C2, 0x2C3, 0x2C4, 0x2C5, 0x2C6], ∀ ls, Ready (ms walks ruled) (mk walks ruled) op ls)
    ∧ ocOf (mk walks ruled).gr.ops .mtx < 63
    ∧ (∃ r, (ms walks ruled).readRec (mk walks ruled) ((mk walks ruled).gr.rs 7).toNat 576 64 true = .ok r ∧ (r.1.any fun bs => !ruleBad bs) = true)
    ∧ (((mk walks ruled).gr.rs 10).setWidth 32).toInt ≤ (((mk walks ruled).gr.rs 10) >>> 32 |>.setWidth 32).toInt
    ∧ (((mk (ss 10 0xFFFFFFFF00000000) ruled).gr.rs 10) >>> 32 |>.setWidth 32 : W32).toInt
        < (((mk (ss 10 0xFFFFFFFF00000000) ruled).gr.rs 10).setWidth 32 : W32).toInt
    ∧ (mk walks ruled).t.wave.issuedRule = true ∧ (mk walks ruled).t.ownAddr ((mk walks ruled).gr.rs 4) 1216 64 = .ok ()
    ∧ (mk walks ruled).t.ownAddr ((mk walks ruled).gr.rs 4) 4096 32 = .ok ()
    ∧ ((mk walks ruled).gr.rs 9).toNat < 2 ^ 16 ∧ ((mk walks ruled).gr.rs 9).toNat % 256 ≤ 127
    ∧ ((mk walks ruled).gr.rs 9).toNat / 256 ≤ 127 ∧ (mk walks ruled).t.ownAddr ((mk walks ruled).gr.rs 4) 72 8 = .ok () :=
  ⟨by intro op h ls; exact ready_of rfl (by revert h op; decide) rfl rfl rfl rfl rfl rfl, by decide, good_of walks_rule,
    by decide, by decide, rfl, rfl, rfl, by decide, by decide, by decide, rfl⟩

/-- An engine operation. -/
def mo (op d a tagA tagB : Nat) (sv : List W64) : MxOp :=
  ⟨0, 0, 7, 0x200000, 1, op, d, a, 0, 0, 0, sv, tagA, tagB, [], [], [], [], none, none, [], [], [], []⟩

theorem witness_EngineArithmetic : ((127 < 128 ∧ (mo 0x281 0 0 0x60 0x70 []).flag = false
      ∧ tagInt 0x60 = true ∧ tagInt 0x70 = true ∧ tagWidth 0x70 = tagWidth 0x60))
    ∧ (∀ o ∈ [mo 0x281 0 0 0xB9 0xBA [], { mo 0x281 0 0 0x60 0x70 [] with md := 1 }, mo 0x281 0 0 0x80 0x80 []],
      (tagInt o.tagA = false ∨ o.flag = true) ∧ tagWidth o.tagB = tagWidth o.tagA ∧ 4 ≤ tagWidth o.tagA)
    ∧ ∃ x : WfIn, ruleSel x.rule = false ∧ ruleFloor x.rule = false ∧ 0 < x.nr ∧ 0 < x.nc ∧ x.inBand (x.row0 + (0 : Nat)) (x.col0 + (0 : Nat)) = true
      ∧ x.nr ≤ 1 ∧ x.nc ≤ 1 :=
  ⟨by decide, by decide, ⟨⟨[], 0, 0, []⟩, by decide⟩⟩

/-- A walk with its plane captured, and the sectors of its record. -/
def walked : MxOp := { mo 0x2C5 0 0 0 0 [0x2000, 0, 0x7F7F] with captured := sectorsOf 0 4096 }
def engaged (o : MxOp) : State := sysOf .matrix id id fun s => { s with cores := [(0, { Core.reset with
  engine := [o], vatTid := [(0, 1), (1, 1), (2, 1), (3, 1)] })] }

theorem witness_EngineCompletes :
    (∃ s : State, (s.core 0).engine = mo 0x2C3 0 0 0 0 [0] :: [] ∧ s.team? 0 = some (teamOf .matrix id id)
      ∧ [0] ≠ [] ∧ (∀ x ∈ [0], x < 2 ^ 32 ∧ x ∈ (mo 0x2C3 0 0 0 0 [0]).reads ∧ x ∉ (mo 0x2C3 0 0 0 0 [0]).captured)
      ∧ (teamOf .matrix id id).sectorsFilled [0] = true)
    ∧ ((engaged walked).core 0).engine = walked :: [] ∧ (engaged walked).team? 0 = some (teamOf .matrix id id)
    ∧ (walked.reads.all fun x => walked.captured.contains x) = true ∧ (walked.traceback (engaged walked) (teamOf .matrix id id)).2 ≠ []
    ∧ (∀ x ∈ [256, 258], x ∈ sectorsOf (walked.traceback (engaged walked) (teamOf .matrix id id)).1
        (walked.traceback (engaged walked) (teamOf .matrix id id)).2.length ∧ x ∉ walked.wrote)
    ∧ (teamOf .matrix id id).sectorsFilled [256, 258] = true
    ∧ (∃ s : State, (s.core 0).engine = mo 0x2C6 62 0 0 0 [] :: [mo 0x283 2 1 0x60 0 []] ∧ s.team? 0 = some (teamOf .matrix id id)
      ∧ s.errs = [] ∧ s.vatHere 0 0 (mo 0x2C6 62 0 0 0 []).vats = true
      ∧ (∀ d ∈ (mo 0x2C6 62 0 0 0 []).dests, s.destHere 0 0 d false = true)
      ∧ (teamOf .matrix id id).sectorsFilled ((mo 0x2C6 62 0 0 0 []).reads ++ (mo 0x2C6 62 0 0 0 []).writes) = true)
    ∧ ∀ o ∈ [mo 0x285 3 0 0xE0 0 [], mo 0x286 3 0 0 0 [], mo 0x2C2 0 0 0 0 [0xFFFFFFFFFFFFFFFF], mo 0x2C6 62 0 0 0 [],
      mo 0x281 3 0 0x60 0x60 [], mo 0x282 3 0 0xD0 0xD0 [], mo 0x283 3 0 0x60 0 [], mo 0x284 15 3 0x60 0 [], mo 0x287 15 0 0x60 0x60 [],
      mo 0x288 14 0 0x90 0xB9 [], mo 0x2C4 0 0 0 0 [0, 0x1000], mo 0x2C5 0 0 0 0 [0x2000, 0, 0x7F7F]],
    o.wrote = [] ∧ ∃ (s : State) (t : Team), (s.core 0).engine = o :: [] ∧ s.team? o.tid = some t ∧ s.errs = [] ∧ s.vatHere 0 o.tid o.vats = true
      ∧ (∀ d ∈ o.dests, s.destHere o.tid o.g d false = true) ∧ t.sectorsFilled (o.reads ++ o.writes) = true
      ∧ SMap.ok 0#48 t.vat = true := by
  refine ⟨⟨engaged (mo 0x2C3 0 0 0 0 [0]), rfl, rfl, by decide, by decide, by decide⟩, rfl, rfl, by decide +kernel, by decide +kernel,
    by decide +kernel, by decide, ⟨sysOf .matrix id id fun s => { s with cores := [(0, { Core.reset with
      engine := mo 0x2C6 62 0 0 0 [] :: [mo 0x283 2 1 0x60 0 []] })] }, rfl, rfl, rfl, by decide, by decide, by decide⟩, ?_⟩
  intro o h
  refine ⟨?_, engaged o, teamOf .matrix id id, rfl, ?_, rfl, ?_, ?_, ?_, rfl⟩ <;> revert h <;> revert o <;> decide +kernel

/-- A tensor record of one row of 32 i8 elements (08 R193); the allocation holds it at offset 64; s4 names it, s8 the local
row at offset 128. -/
def trec (entry : Nat) : List Byte :=
  toBytes 8 0 ++ toBytes 8 entry ++ toBytes 4 0x6001 ++ [31, 0, 0, 0, 0, 0, 0, 0] ++ toBytes 4 32 ++ List.replicate 32 0
def tensored (entry : Nat) (t : Team) : Team := { t with spad := SMap.setRange 0#8 [] 64 (trec entry) }
def tnames (g : Group) : Group := ss 4 (spadBase + 0x0F000040) (ss 8 0x0F000080 g)
def ts (entry : Nat) : State := sysOf .copy tnames (tensored entry) id
def tk (entry : Nat) : Iss := issOf .copy tnames (tensored entry)

/-- A gather of one row of 32 bytes: s12 the table, s13 no barrier, s14 the control word, v0 the index. -/
def rows (g : Group) : Group := ss 8 0x0F000080 (ss 12 0x300000 (ss 14 0x6000000200000001 (g.wtag 0 0x10)))

theorem tensor_ok : ∀ e ∈ [0, 0x200000], okAnd ((ts e).readRec (tk e) ((tk e).gr.rs 4).toNat 64 64 false)
    (fun r => r.1.any fun bs => bs == trec e && !(tensorRec bs).bad && (tensorRec bs).entry == e) = true := by decide +kernel

theorem witness_Copies :
    (∀ e, ∀ ls, Ready (ts e) (tk e) 0x301 ls) ∧ ocOf (tk 0).gr.ops .cpy < 63
    ∧ (∀ e ∈ [0, 0x200000], ∃ r, (ts e).readRec (tk e) ((tk e).gr.rs 4).toNat 64 64 false = .ok r
      ∧ (r.1.any fun bs => bs == trec e && !(tensorRec bs).bad && (tensorRec bs).entry == e) = true)
    ∧ (cpytShape (sl (.s 8) (.s 4) (.s 12) 0) (tk 0) (tensorRec (trec 0))).toBool = true
    ∧ ((ts 0).copyLocal (tk 0) ((tk 0).localBase (.s 8)) (tensorRec (trec 0)).bytes 32).toBool = true
    ∧ ((ts 0).copyBar (tk 0) ((tk 0).gr.rs 5).toNat).toBool = true ∧ ((tk 0x200000).gr.rs 5).toNat % 16 = 0
    ∧ ((ts 0x200000).core (tk 0x200000).t.core).dxp.cmds.length < 16
    ∧ (∀ op ∈ [0x302, 0x303], ∀ ls, Ready (sysOf .copy rows id id) (issOf .copy rows id) op ls)
    ∧ tagMatch 0x10 ((issOf .copy rows id).gr.rtag 0) = true
    ∧ bits ((issOf .copy rows id).gr.rs 14).toNat 55 48 = 0 ∧ bits ((issOf .copy rows id).gr.rs 14).toNat 47 32 % 2 = 0
    ∧ tagDefined (bits ((issOf .copy rows id).gr.rs 14).toNat 63 56) = true
    ∧ bits ((issOf .copy rows id).gr.rs 14).toNat 63 56 = 0x60
    ∧ (issOf .copy rows id).localBase (.s 8) % 32 = 0
    ∧ (∀ p ∈ (sysOf .copy rows id id).rowPlaces (issOf .copy rows id) ((issOf .copy rows id).localBase (.s 8)) 512, p.2.isSome = true)
    ∧ ((sysOf .copy rows id id).copyBar (issOf .copy rows id) ((issOf .copy rows id).gr.rs 13).toNat).toBool = true
    ∧ ((issOf .copy rows id).gr.rs 12).toNat % 32 = 0 ∧ ocOf (issOf .copy rows id).gr.ops .gth < 63 := by
  refine ⟨fun e ls => ready_of rfl rfl rfl rfl rfl rfl rfl rfl, by decide, ?_, by decide +kernel, by decide +kernel, by decide,
    by decide, by decide, ?_, by decide, by decide, by decide, by decide, by decide, by decide, by decide, by decide, by decide,
    by decide⟩
  · intro e h; exact good_of (tensor_ok e h)
  · intro op h ls; exact ready_of rfl (by revert h op; decide) rfl rfl rfl rfl rfl rfl

def cmd0 : DxCmd := ⟨0, 0, 7, 0x200000, 1, 0x200000, []⟩
def withDxp (f : Dxp → Dxp) (s : State) : State := { s with cores := [(0, { Core.reset with dxp := f Dxp.reset })] }
def dr0 (ending : Option (Option Trap)) (hold : Option Hold) : DxRun := ⟨cmd0, hold, ending, none⟩

theorem witness_DxpCommands :
    (∀ op ∈ [0x304, 0x305], ∀ ls f, Ready (sysOf .copy id id (withDxp f)) (issOf .copy id id) op ls)
    ∧ ocOf (issOf .copy id id).gr.ops .cpy < 63
    ∧ ((sysOf .copy id id (withDxp fun x => { x with cmds := List.replicate 15 cmd0 })).core 0).dxp.cmds.length < 16
    ∧ (((sysOf .copy id id (withDxp id)).core 0).dxp.run = none ∧ ∀ c ∈ ((sysOf .copy id id (withDxp id)).core 0).dxp.cmds, c.tid ≠ 0)
    ∧ (((sysOf .copy id id (withDxp fun x => { x with run := some (dr0 none none) })).core 0).dxp.run = some (dr0 none none)
      ∧ (dr0 none none).cmd.tid = 0 ∧ (dr0 none none).ending = none ∧ (dr0 none none).stop = none) :=
  ⟨by intro op h ls f; exact ready_of rfl (show roleOk .copy op = true by revert h op; decide) rfl rfl rfl rfl rfl rfl, by decide,
    by decide, ⟨rfl, by decide⟩, rfl, rfl, rfl, rfl⟩

/-- A copy of no barrier; the core that has it. -/
def cop (plan : Option (List (List CpByte))) (wrote : List Nat) (failed : Option Trap) : CopyOp :=
  ⟨9, 0, 0, 7, .cpy, false, 0x200000, 0, 1, .xfer 0 0 1 true, 0, 0, 0, false, 0, none, none, 32, [], plan, [], [], wrote, [], [], failed⟩
def withCopy (o : CopyOp) : State := sysOf .copy id id fun s => { s with cores := [(0, { Core.reset with copies := [o] })] }

theorem witness_CopyEvents :
    (∀ o ∈ [cop none [] none, cop (some [[]]) [0] none, cop none [] (some ⟨7, 0, 0⟩)], (withCopy o).copy? 0 9 = some o ∧ (withCopy o).src? 9 = none
      ∧ ((withCopy o).team? o.tid).isSome = true ∧ o.acks = [] ∧ ((withCopy o).core 0).held = [] ∧ o.dx = false ∧ o.named = false
      ∧ ((withCopy o).group? o.tid o.g).isSome = true)
    ∧ (let o := cop none [] none; o.failed = none ∧ o.plan = none ∧ o.draft.length ≤ 0 ∧ 0 < o.nsec)
    ∧ (let o := cop (some [[⟨.loc (.spad 0 64) 64, .loc (.spad 0 0) 0, 0xFF, 0⟩]]) [] none; o.failed = none ∧ o.tileDst = none ∧ 0 ∉ o.wrote
      ∧ (withCopy o).barHere o = true ∧ ∀ bs, bs = (o.unit 0).flatMap (fun u => (o.plan.getD []).getD u []) →
        (withCopy o).plannedHere bs = true ∧ o.unasked bs = true)
    ∧ (∃ s t, (State.core s 0).dxp.run = none ∧ (s.core 0).dxp.cmds = cmd0 :: [] ∧ s.team? 0 = some t ∧ s.stopped t.part t.ctx = false
      ∧ (s.core 0).held = [] ∧ cmd0.entry.toNat < 2 ^ 56 ∧ cmd0.entry.toNat % 4 = 0)
    ∧ ∃ s r t st, (State.core s 0).dxp.run = some r ∧ s.team? r.cmd.tid = some t ∧ (s.ctx t.part t.ctx).stop = some st ∧ (∀ tr, r.ending ≠ some (some tr))
      ∧ 65536000 ≤ (s.rclk - st.opened).toNat ∧ (s.core 0).dxfers = [] := by
  refine ⟨by decide +kernel, by decide, ⟨rfl, rfl, by decide, rfl, by rintro bs rfl; decide +kernel⟩, ⟨sysOf .copy id id (withDxp fun x => { x with cmds := [cmd0] }), _, rfl, rfl, rfl, rfl, rfl, by decide, by decide⟩,
    ⟨sysOf .copy id id fun s => { withDxp (fun x => { x with run := some (dr0 none none) }) s with
        rclk := 65536000, parts := [(0, { Partition.reset with en := true, ctxs := [(0, { Context.off with valid := true, stop := some ⟨0, 0, [.preempt], false, false, []⟩ })] })] },
      _, _, _, rfl, rfl, rfl, by intro tr; simp [dr0], by decide, rfl⟩⟩

/-- A running program with its d registers. -/
def ds (f : Dxp → Dxp) : State := dxOf f
def dk (f : Dxp → Dxp) : Dss :=
  ⟨0, f { Dxp.reset with pc := 0x200000, run := some ⟨⟨0, 0, 0, 0, 1, 0x200000, []⟩, none, none, none⟩ },
    ⟨⟨0, 0, 0, 0, 1, 0x200000, []⟩, none, none, none⟩, teamOf .copy id id⟩
def dd (n x : Nat) (y : Dxp) : Dxp := y.wd n (BitVec.ofNat 64 x)
def dheld (h : Hold) (y : Dxp) : Dxp := { y with run := some ⟨⟨0, 0, 0, 0, 1, 0x200000, []⟩, some h, none, none⟩ }
def dbs (b : Bar) (f : Dxp → Dxp) : State := { ds f with teams := [(0, barred b (teamOf .copy id id))] }
def dbk (b : Bar) (f : Dxp → Dxp) (h : Option Hold) : Dss :=
  { dk f with t := barred b (teamOf .copy id id), run := ⟨⟨0, 0, 0, 0, 1, 0x200000, []⟩, h, none, none⟩ }
def atBarD : Dxp → Dxp := dd 6 (spadBase + 0x0F000010)

def answered : Hold := { Hold.wait 12 with started := true, answer := some 7 }
def dxfering (f : Dxp → Dxp) : State := (ds f).modCore 0 fun c => { c with copies := [{ cop none [] none with dx := true }] }

theorem witness_DxpPrograms :
    (∀ n ∈ [0, 1, 2 ^ 32 - 1, 2 ^ 32], ReadyDxp (ds (dd 6 n)) (dk (dd 6 n)) ∧ (dk (dd 6 n)).x.val (.s 6) = n)
    ∧ (∀ n ∈ [0, 1, 2], ReadyDxp (ds fun y => { y with loops := SMap.set 0#32 [] 7 n }) (dk fun y => { y with loops := SMap.set 0#32 [] 7 n })
      ∧ SMap.get 0#32 (dk fun y => { y with loops := SMap.set 0#32 [] 7 n }).x.loops (0xE0000000 / 2 ^ 29) = n)
    ∧ (∀ n ∈ [0, 0x300000], ReadyDxp (ds (dd 31 n)) (dk (dd 31 n)) ∧ ((dk (dd 31 n)).x.rd 31 = 0 ↔ n = 0) ∧ ((ds (dd 31 n)).core 0).dxfers = [])
    ∧ (ReadyDxp (ds (dd 4 spadBase)) (dk (dd 4 spadBase)) ∧ (dk (dd 4 spadBase)).run.hold = none ∧ (ds (dd 4 spadBase)).errs = []
      ∧ 0x0F000000 / 2 ^ 30 = 0 ∧ wrapI 64 (((dk (dd 4 (spadBase + 0x0F000000))).x.val (.s 4) : Int) + sextI 28 0) = spadBase + 0x0F000000
      ∧ (ds (dd 4 spadBase)).dxPlace (dk (dd 4 spadBase)) .load (spadBase + 0x0F000000) 4 4 = .ok (.spad 0 0)
      ∧ (ds (dd 4 spadBase)).unfilled [⟨0, spadBase + 0x0F000000, .spad 0 0, 4⟩] = none)
    ∧ (0x80000000 / 2 ^ 30 = 2 ∧ (ds (dd 4 spadBase)).dxPlace (dk (dd 4 spadBase)) .load (spadBase + 0x0F000000) 8 8 = .ok (.spad 0 0)
      ∧ (ds (dd 4 spadBase)).unfilled [⟨0, spadBase + 0x0F000000, .spad 0 0, 8⟩] = none
      ∧ (ReadyDxp (dbs (Bar.start 1) (dheld answered)) (dbk (Bar.start 1) (dheld answered) (some answered)) ∧ answered.started = true
        ∧ answered.passed = false ∧ answered.answer = some 7))
    ∧ (∀ n ∈ [0, 4], ReadyDxp (dxfering (dd 31 n)) (dk (dd 31 n)) ∧ ((dxfering (dd 31 n)).core 0).dxfers ≠ [])
    ∧ ((dk (dd 4 spadBase)).x.val .nil = 0 ∧ ∃ r, (dbs (Bar.start 1) atBarD).dxBar (dbk (Bar.start 1) atBarD none) .atomic
        ((dbk (Bar.start 1) atBarD none).x.val (.s 6)) 3 = .ok r)
    ∧ (((ds id).core 0).dxfers.length < 16 ∧ (dk id).x.val (.s 4) % 32 = 0)
    ∧ (let b := Bar.start 0xFFFF
      (∀ h, ReadyDxp (dbs b fun y => { atBarD y with run := some ⟨⟨0, 0, 0, 0, 1, 0x200000, []⟩, h, none, none⟩ })
        (dbk b (fun y => { atBarD y with run := some ⟨⟨0, 0, 0, 0, 1, 0x200000, []⟩, h, none, none⟩ }) h))
      ∧ ((dbs b atBarD).core 0).dxfers = []
      ∧ (∀ kind, (dbs b atBarD).dxBar (dbk b atBarD none) kind ((dbk b atBarD none).x.val (.s 6)) 2 = .ok (.spad 0 16, b, dbs b atBarD))
      ∧ (0xFFFF : Int) ≤ (dbs b atBarD).barOwed (.spad 0 16) b ∧ inI32 (b.arrive - 0xFFFF) = true
      ∧ b.phase ≠ 1 % 16 ∧ b.phase = 0 % 16 ∧ (waits 5 false true).started = true ∧ (waits 5 false true).timedOut = true) := by
  refine ⟨?_, ?_, ?_, ⟨⟨rfl, rfl⟩, rfl, rfl, by decide, by decide, rfl, rfl⟩,
    ⟨by decide, rfl, rfl, ⟨rfl, rfl⟩, rfl, rfl, rfl⟩, ?_, ⟨rfl, _, rfl⟩, by decide, ⟨fun h => ⟨rfl, rfl⟩, rfl, ?_, by decide, by decide,
    by decide, by decide, rfl, rfl⟩⟩
  · intro n h
    simp only [List.mem_cons, List.not_mem_nil, or_false] at h
    rcases h with rfl | rfl | rfl | rfl <;> exact ⟨⟨rfl, rfl⟩, by decide⟩
  · intro n h
    simp only [List.mem_cons, List.not_mem_nil, or_false] at h
    rcases h with rfl | rfl | rfl <;> exact ⟨⟨rfl, rfl⟩, by decide⟩
  · intro n h
    simp only [List.mem_cons, List.not_mem_nil, or_false] at h
    rcases h with rfl | rfl <;> exact ⟨⟨rfl, rfl⟩, by decide, by decide⟩
  · intro n h
    simp only [List.mem_cons, List.not_mem_nil, or_false] at h
    rcases h with rfl | rfl <;> exact ⟨⟨rfl, rfl⟩, by decide⟩
  · intro kind; cases kind <;> rfl

/-! Row 0xD. -/

/-- An invocation descriptor of device dev with no arguments (18 R415); the allocation holds it at offset 64. -/
def invd (dev arglen argsrc : Nat) : List Byte :=
  toBytes 8 dev ++ toBytes 8 0x300000 ++ toBytes 8 0x400000 ++ toBytes 8 arglen ++ toBytes 8 argsrc ++ List.replicate 24 0
def invoking (dev arglen argsrc : Nat) (t : Team) : Team := { t with spad := SMap.setRange 0#8 [] 64 (invd dev arglen argsrc) }
def invN (h : Nat) (g : Group) : Group := ss 4 (spadBase + 0x0F000040) (ss 5 h g)
def is_ (dev arglen argsrc h : Nat) : State := sysOf .vector (invN h) (invoking dev arglen argsrc) id
def ik (dev arglen argsrc h : Nat) : Iss := issOf .vector (invN h) (invoking dev arglen argsrc)

/-- A check that passes leaves a value and a state that p takes. -/
def okPair {ε : Type} (x : Except ε (Option (List Byte) × State)) (p : List Byte → State → Bool) : Bool :=
  match x with | .ok (some b, s) => p b s | _ => false
theorem good_pair {ε : Type} {x : Except ε (Option (List Byte) × State)} {p : List Byte → State → Bool} (h : okPair x p = true) :
    ∃ b s, x = .ok (some b, s) ∧ p b s = true := by
  unfold okPair at h
  split at h
  · exact ⟨_, _, rfl, h⟩
  · cases h

/-- Descriptors of devices 0 and 1, with and without arguments, read for both instructions. -/
theorem desc_read : ∀ dev ∈ [0, 1], ∀ inv ∈ [false, dev == 0], ∀ n ∈ [0, 256],
    okPair ((is_ dev n 0x400001 0).readDesc (ik dev n 0x400001 0) ((ik dev n 0x400001 0).gr.uni (.s 4) 0) inv)
      (fun bs s1 => (invDesc bs).dev == dev && (invDesc bs).arglen == n && s1.srcs.isEmpty && (s1.pathsTo dev 2).isEmpty) = true := by
  decide +kernel

/-- One of two numbers is not this device's. -/
theorem other_dev : ∃ d ∈ [0, 1], d ≠ Config.devNum.toNat := by
  by_cases h : Config.devNum.toNat = 0
  · exact ⟨1, by decide, by omega⟩
  · exact ⟨0, by decide, fun e => h e.symm⟩

theorem inv_read {dev : Nat} (hd : dev ∈ [0, 1]) (inv : Bool) (hi : inv ∈ [false, dev == 0]) (n : Nat) (hn : n ∈ [0, 256]) :
    ∃ bs s1, (is_ dev n 0x400001 0).readDesc (ik dev n 0x400001 0) ((ik dev n 0x400001 0).gr.uni (.s 4) 0) inv = .ok (some bs, s1)
      ∧ (invDesc bs).dev = dev ∧ (invDesc bs).arglen = n ∧ s1.srcs = [] ∧ s1.invReady = none ∧ s1.pathsTo dev 2 = [] := by
  obtain ⟨bs, s1, h1, h2⟩ := good_pair (desc_read dev hd inv hi n hn)
  simp only [Bool.and_eq_true, beq_iff_eq, List.isEmpty_iff] at h2
  exact ⟨bs, s1, h1, h2.1.1.1, h2.1.1.2, h2.1.2, by simp [State.invReady, h2.1.2], h2.2⟩

/-- A handle of this device, as a register holds it. -/
def mine (idx gen : Nat) : Nat := mkHandle Config.devNum.toNat idx gen
theorem mine_val {idx gen : Nat} (hi : idx < 65536) (hg : gen < 65536) :
    (BitVec.ofNat 64 (mine idx gen)).toNat = mine idx gen ∧ mine idx gen % 2 ^ 20 = 0 ∧ hDev (mine idx gen) = Config.devNum.toNat
      ∧ hIdx (mine idx gen) = idx ∧ hGen (mine idx gen) = gen := by
  have h := Config.devNum.isLt
  simp only [mine, mkHandle, BitVec.toNat_ofNat, hDev, hIdx, hGen, bits]
  omega

/-- Entry 5 of the handle table, its generation 7. -/
def ent (st : BitVec 2) : HEntry := ⟨st, 0, 7, 0, 0, 0x400140, 16, 9, [], [], [], []⟩
def hs (st : BitVec 2) (f : Group → Group) (h : Nat) : State :=
  sysOf .vector (fun g => f (ss 4 h g)) id fun s => { s with handles := [(5, ent st)] }
def hk (f : Group → Group) (h : Nat) : Iss := issOf .vector (fun g => f (ss 4 h g)) id

theorem hs_resolves (st : BitVec 2) (h0 : st ≠ 0#2) (f : Group → Group) (h : Nat) :
    (hs st f h).hresolve (mine 5 7) = some (5, ent st) := by
  have hv := mine_val (show 5 < 65536 by decide) (show 7 < 65536 by decide)
  have he : (hs st f h).hEntry 5 = ent st := rfl
  simp [State.hresolve, hv.2.2.2.1, hv.2.2.2.2, he, ent]
  exact h0

theorem hk_val : ∀ h, (hk id h).gr.uni (.s 4) 0 = (BitVec.ofNat 64 h).toNat
    ∧ (hk (holding 11 false true) h).gr.uni (.s 4) 0 = (BitVec.ofNat 64 h).toNat := by
  intro h
  have h1 : ((ss 4 h (grpOf .vector)).rs 4).toNat = (BitVec.ofNat 64 h).toNat := by simp [ss, Group.rs_ws]
  exact ⟨h1, h1⟩

theorem witness_Invocations : ocOf (ik 0 0 0 0).gr.ops .col < 63
    ∧ (∀ dev a b h ls, Ready (is_ dev a b h) (ik dev a b h) 0x341 ls ∧ Ready (is_ dev a b h) (ik dev a b h) 0x342 ls)
    ∧ (∀ inv, ∃ bs s1, (is_ 0 256 0x400001 0).readDesc (ik 0 256 0x400001 0) ((ik 0 256 0x400001 0).gr.uni (.s 4) 0) inv = .ok (some bs, s1)
      ∧ 0 < (invDesc bs).arglen ∧ s1.invReady = none)
    ∧ (∃ dev bs s1, (is_ dev 0 0x400001 0).readDesc (ik dev 0 0x400001 0) ((ik dev 0 0x400001 0).gr.uni (.s 4) 0) false = .ok (some bs, s1)
      ∧ (invDesc bs).arglen = 0 ∧ s1.srcs = [] ∧ (invDesc bs).dev ≠ Config.devNum.toNat ∧ s1.pathsTo (invDesc bs).dev 2 = [])
    ∧ (∃ bs s1, (is_ 0 0 0x400001 0).readDesc (ik 0 0 0x400001 0) ((ik 0 0 0x400001 0).gr.uni (.s 4) 0) true = .ok (some bs, s1)
      ∧ (invDesc bs).arglen = 0 ∧ s1.srcs = [])
    ∧ (∃ h, h % 2 ^ 20 = 0 ∧ hDev h = Config.devNum.toNat ∧ (hs 3 id h).hresolve h = some (5, ent 3)
      ∧ (hk id h).gr.uni (.s 4) 0 = h ∧ (ent 3).st = 3)
    ∧ (ik 0 0 0 0x80000).gr.uni (.s 5) 0 % 2 ^ 20 ≠ 0 := by
  refine ⟨by decide, fun dev a b h ls => ⟨ready_of rfl rfl rfl rfl rfl rfl rfl rfl, ready_of rfl rfl rfl rfl rfl rfl rfl rfl⟩, ?_, ?_, ?_, ?_, by decide⟩
  · intro inv
    obtain ⟨bs, s1, h1, -, h2, -, h3, -⟩ := inv_read (dev := 0) (by decide) inv (by cases inv <;> decide) 256 (by decide)
    exact ⟨bs, s1, h1, by omega, h3⟩
  · obtain ⟨d, hd, hne⟩ := other_dev
    obtain ⟨bs, s1, h1, h2, h3, h4, -, h5⟩ := inv_read hd false (by simp) 0 (by decide)
    exact ⟨d, bs, s1, h1, h3, h4, by rw [h2]; exact hne, by rw [h2]; exact h5⟩
  · obtain ⟨bs, s1, h1, -, h3, h4, -⟩ := inv_read (dev := 0) (by decide) true (by decide) 0 (by decide)
    exact ⟨bs, s1, h1, h3, h4⟩
  · have hv := mine_val (show 5 < 65536 by decide) (show 7 < 65536 by decide)
    exact ⟨mine 5 7, hv.2.1, hv.2.2.1, hs_resolves 3 (by decide) id _, (hk_val _).1.trans hv.1, rfl⟩

/-- A collective of group 0. -/
def coll0 (status : Nat) (wrote : Bool) : Coll :=
  ⟨0, 0, 7, 0, 1, .s 62, 0, 0x10, 0, false, 7, [0, 0], 0, 0, 0x300000, 1, [], none, 0, status, wrote, 0, 0⟩

/-- Bytes that a group's operation 7 reads after issue. -/
def src0 (va : Nat) (work : SrcWork) : SrcRead := ⟨0, 0, 7, va, 33, [], [], work⟩
def inv0 : SrcWork := .invoke (invd 0 33 0) (.s 62) none
def reading (r : SrcRead) : State := sysOf .vector id id fun s => { s with srcs := [r], colls := [coll0 0 false] }

theorem witness_SourceReads :
    (∀ i ∈ [0, 1], ∃ r t, (reading (src0 (spadBase + 0x0F000000) inv0)).src? 7 = some r
      ∧ (reading (src0 (spadBase + 0x0F000000) inv0)).team? r.tid = some t ∧ t.core = 0 ∧ r.wants i = true
      ∧ (reading (src0 (spadBase + 0x0F000000) inv0)).srcPlace t r i = .ok (.spad 0 (32 * i))
      ∧ (reading (src0 (spadBase + 0x0F000000) inv0)).filled ⟨0, r.sectorVa i, .spad 0 (32 * i), 32⟩ = true
      ∧ (reading (src0 (spadBase + 0x0F000000) inv0)).errs = []
      ∧ ({ r with got := SMap.put r.got i ((reading (src0 (spadBase + 0x0F000000) inv0)).spadBytes 0 (32 * i) 32) } : SrcRead).whole = false)
    ∧ ∀ w ∈ [inv0, .coll], ∃ r t tr, (reading (src0 0x80000000000000 w)).src? 7 = some r
      ∧ (reading (src0 0x80000000000000 w)).team? r.tid = some t ∧ t.core = 0 ∧ r.wants 1 = true
      ∧ (reading (src0 0x80000000000000 w)).srcPlace t r 1 = .error tr ∧ r.work = w
      ∧ ((reading (src0 0x80000000000000 w)).group? r.tid r.g).isSome = true
      ∧ ((reading (src0 0x80000000000000 w)).dropSrc 7).invReady = none
      ∧ (reading (src0 0x80000000000000 w)).coll? r.tid r.g r.id = some (coll0 0 false) ∧ (coll0 0 false).status = 0 := by
  refine ⟨?_, ?_⟩ <;> intro x h <;> simp only [List.mem_cons, List.not_mem_nil, or_false] at h
  · rcases h with rfl | rfl <;> exact ⟨_, _, rfl, rfl, rfl, by decide, rfl, by decide, rfl, by decide +kernel⟩
  · rcases h with rfl | rfl <;> exact ⟨_, _, _, rfl, rfl, rfl, by decide, rfl, rfl, rfl, rfl, rfl, rfl⟩

theorem witness_HandleQueries : ∀ st ∈ [1#2, 2#2, 3#2], ∀ f ∈ [id, holding 11 false true], let h := mine 5 7
    (hk f h).gr.uni (.s 4) 0 = h ∧ h % 2 ^ 20 = 0 ∧ remoteHandle h = none ∧ hIdx h ≠ 0xFFFF
    ∧ (∀ op ∈ [0x343, 0x344, 0x345, 0x346], ∀ ls, Ready (hs st f h) (hk f h) op ls)
    ∧ (hs st f h).hresolve h = some (5, ent st) ∧ (hs st f h).statusWord h % 4 = st.toNat
    ∧ (hk id h).gr.hold = none ∧ (hk (holding 11 false true) h).gr.hold = some (waits 11 false true)
    ∧ ∃ d ∈ [0, 1], remoteHandle (mkHandle d 5 7) = some d ∧ mkHandle d 5 7 % 2 ^ 20 = 0
      ∧ (hk id (mkHandle d 5 7)).gr.uni (.s 4) 0 = mkHandle d 5 7
      ∧ (∀ g ∈ [id, holding 11 true false, holding 12 true false], ∀ op ∈ [0x343, 0x344, 0x345, 0x346], ∀ ls,
        Ready (hs st g (mkHandle d 5 7)) (hk g (mkHandle d 5 7)) op ls
          ∧ Ready (joined (hs st g (mkHandle d 5 7))) (hk g (mkHandle d 5 7)) op ls)
      ∧ (hs st id (mkHandle d 5 7)).pathsTo d 2 = [] ∧ (joined (hs st id (mkHandle d 5 7))).pathsTo d 2 ≠ []
      ∧ (hk id (mkHandle d 5 7)).gr.hold = none := by
  intro st hst f hf h
  have hv := mine_val (show 5 < 65536 by decide) (show 7 < 65536 by decide)
  have h0 : st ≠ 0#2 := by revert hst st; decide
  have hr := hs_resolves st h0 f h
  have hi : hIdx h ≠ 0xFFFF := by show hIdx (mine 5 7) ≠ 0xFFFF; rw [hv.2.2.2.1]; decide
  simp only [List.mem_cons, List.not_mem_nil, or_false] at hf hst
  have hu : (hk f h).gr.uni (.s 4) 0 = h := by
    rcases hf with rfl | rfl
    · exact (hk_val _).1.trans hv.1
    · exact (hk_val _).2.trans hv.1
  have hw : (hs st f h).statusWord h % 4 = st.toNat := by
    have h2 : (hs st f h).statusWord h = if (ent st).st = 3 then brokenWord (ent st).bcause else (ent st).st.toNat := by
      rw [State.statusWord, if_neg hi]
      rw [hr]
    rw [h2]
    rcases hst with rfl | rfl | rfl <;> rfl
  refine ⟨hu, hv.2.1, ?_, hi, ?_, hr, hw, rfl, rfl, ?_⟩
  · rw [remoteHandle, if_pos (Or.inr hv.2.2.1)]
  · intro op ho ls
    rcases hf with rfl | rfl <;>
      exact ready_of rfl (show roleOk .vector op = true by revert ho op; decide) rfl rfl rfl rfl rfl rfl
  · obtain ⟨d, hd, hne⟩ := other_dev
    have h5 : hIdx (mkHandle d 5 7) ≠ 0xFFFF ∧ hDev (mkHandle d 5 7) = d ∧ mkHandle d 5 7 % 2 ^ 20 = 0
        ∧ (hk id (mkHandle d 5 7)).gr.uni (.s 4) 0 = mkHandle d 5 7 := by clear hne; revert hd d; decide
    have hp : ∀ e ∈ [0, 1], (hs st id (mkHandle e 5 7)).pathsTo e 2 = [] ∧ (joined (hs st id (mkHandle e 5 7))).pathsTo e 2 = [0] := by
      clear hst h0 hr hw; decide +revert
    refine ⟨d, hd, ?_, h5.2.2.1, h5.2.2.2, ?_, (hp d hd).1, by rw [(hp d hd).2]; decide, rfl⟩
    · rw [remoteHandle, if_neg (by rw [h5.2.1]; exact fun e => e.elim h5.1 hne), h5.2.1]
    · intro g hg op ho ls
      simp only [List.mem_cons, List.not_mem_nil, or_false] at hg
      have hr' : roleOk .vector op = true := by revert ho op; decide
      rcases hg with rfl | rfl | rfl <;>
        exact ⟨ready_of rfl hr' rfl rfl rfl rfl rfl rfl, ready_of rfl hr' rfl rfl rfl rfl rfl rfl⟩

/-- A context whose endpoint 63 has an entry and some waiting messages. -/
def es (e : Ep) (q : List Msg) (b : Nat) (f : Group → Group) : State :=
  sysOf .vector (fun g => f (ss 4 (spadBase + 0x0F000000) (ss 5 b g))) id fun s => { s with
    parts := [(0, { Partition.reset with en := true, ctxs := [(0, { Context.off with
      valid := true, eps := [(63, e)], recvq := [(63, q)] })] })] }
def ek (b : Nat) (f : Group → Group) : Iss := issOf .vector (fun g => f (ss 4 (spadBase + 0x0F000000) (ss 5 b g))) id
def hostEp : Ep := ⟨true, 1, 100, 0, 0, 0x1000⟩
def msg0 : Msg := mkMsg 63 (List.replicate 33 7#8) true false false 0 (.host 0)
/-- The same, with a message taken. -/
def est (f : Group → Group) : State :=
  sysOf .vector (fun g => f (ss 4 (spadBase + 0x0F000000) (ss 5 1 g))) id fun s => { s with
    parts := [(0, { Partition.reset with en := true, ctxs := [(0, { Context.off with
      valid := true, eps := [(63, hostEp)], taken := [msg0] })] })] }
def cd0 : ColDone := ⟨0, 0, 7, .s 62, 4⟩

theorem send_read : ∀ b ∈ [1, 256], okPair ((es hostEp [] b id).gather (ek b id) ((ek b id).gr.uni (.s 4) 0) (bits b 8 0) 32)
    (fun _ _ => true) = true := by decide +kernel

theorem witness_Endpoints :
    (∀ e b ls, Ready (es e [] b id) (ek b id) 0x347 ls) ∧ ocOf (ek 1 id).gr.ops .col < 63
    ∧ (∀ b ∈ [1, 256], (ek b id).gr.uni (.s 5) 0 = b ∧ 0 < bits b 8 0 ∧ bits b 8 0 ≤ 256 ∧ bits b 15 9 = 0 ∧ b < 2 ^ 32
      ∧ bits b 31 16 = 0 ∧ ∃ bs s1, (es hostEp [] b id).gather (ek b id) ((ek b id).gr.uni (.s 4) 0) (bits b 8 0) 32 = .ok (some bs, s1))
    ∧ ((es Ep.unbound [] 1 id).ep 0 0 63).v = false
    ∧ ((es hostEp [] 1 id).ep 0 0 63).v = true ∧ bit (0x7F : W32).toNat 6 = true ∧ ((es hostEp [] 1 id).ctx 0 0).taken = []
    ∧ (∀ q ∈ [[], [msg0]], (∀ ls, Ready (es hostEp q 1 id) (ek 1 id) 0x348 ls) ∧ (ek 1 id).gr.hold = none
      ∧ (∃ ls, (es hostEp q 1 id).bufferAt (ek 1 id) ((ek 1 id).gr.uni (.s 4) 0) = .ok ls ∧ (ls.all fun l => l.dev?.isNone) = true)
      ∧ (∀ n, (es hostEp q 1 id).farWrites 0 0 n = false) ∧ SMap.get [] ((es hostEp q 1 id).ctx 0 0).recvq 63 = q)
    ∧ ((∀ ls, Ready (es hostEp [] 1 (holding 12 false true)) (ek 1 (holding 12 false true)) 0x348 ls)
      ∧ (ek 1 (holding 12 false true)).gr.hold = some (waits 12 false true)
      ∧ (∃ ls, (es hostEp [] 1 (holding 12 false true)).bufferAt (ek 1 (holding 12 false true))
          ((ek 1 (holding 12 false true)).gr.uni (.s 4) 0) = .ok ls)
      ∧ SMap.get [] ((es hostEp [] 1 (holding 12 false true)).ctx 0 0).recvq 63 = [])
    ∧ ((∀ ls, Ready (est (holding 12 true false)) (ek 1 (holding 12 true false)) 0x348 ls)
      ∧ (∃ ls, (est (holding 12 true false)).bufferAt (ek 1 (holding 12 true false))
          ((ek 1 (holding 12 true false)).gr.uni (.s 4) 0) = .ok ls)
      ∧ (est (holding 12 true false)).farWrites 0 0 0 = false
      ∧ ((est (holding 12 true false)).ctx 0 0).taken.find? (fun m => m.ident.toNat == 0) = some msg0)
    ∧ (∀ ls, Ready (vs (ss 4 (2 ^ 56 - 1) ∘ ss 5 256)) (vk (ss 4 (2 ^ 56 - 1) ∘ ss 5 256)) 0x349 ls)
    ∧ (vk (ss 4 (2 ^ 56 - 1) ∘ ss 5 256)).gr.uni (.s 4) 0 < 2 ^ 56 ∧ (vk (ss 4 (2 ^ 56 - 1) ∘ ss 5 256)).gr.uni (.s 5) 0 ≤ 256
    ∧ ∃ s : State, s.colDone.find? (fun x => x.tid == 0 && x.g == 0 && x.id == 7) = some cd0 ∧ cd0.d = .s 62
      ∧ (s.group? 0 0).isSome = true := by
  refine ⟨fun e b ls => ready_of rfl rfl rfl rfl rfl rfl rfl rfl, by decide, ?_, rfl, rfl, by decide, rfl, ?_,
    ⟨fun ls => ready_of rfl rfl rfl rfl rfl rfl rfl rfl, rfl, ok_of (by decide +kernel), rfl⟩,
    ⟨fun ls => ready_of rfl rfl rfl rfl rfl rfl rfl rfl, ok_of (by decide +kernel), rfl, rfl⟩,
    fun ls => ready_of rfl rfl rfl rfl rfl rfl rfl rfl, by decide, by decide,
    ⟨sysOf .vector id id fun s => { s with colDone := [cd0] }, rfl, rfl, rfl⟩⟩
  · intro b h
    have h1 : ∃ bs s1, _ := (good_pair (send_read b h)).imp fun x y => y.imp fun z w => w.1
    revert h
    simp only [List.mem_cons, List.not_mem_nil, or_false]
    rintro (rfl | rfl) <;> exact ⟨by decide, by decide, by decide, by decide, by decide, by decide, h1⟩
  · intro q h
    simp only [List.mem_cons, List.not_mem_nil, or_false] at h
    rcases h with rfl | rfl <;>
      exact ⟨fun ls => ready_of rfl rfl rfl rfl rfl rfl rfl rfl, rfl,
        good_of (p := fun ls : List Loc => ls.all fun l => l.dev?.isNone) (by decide +kernel), fun _ => rfl, rfl⟩

/-- A collective's record of two members, at offset 64; the members' words and the elements of src lie in home memory. -/
def collRec (op src : Nat) : List Byte :=
  toBytes 8 (7 + 2 ^ 16) ++ toBytes 8 0x200040 ++ toBytes 8 src ++ toBytes 8 0x300000
    ++ toBytes 8 (if op = 4 then 0 else 1) ++ List.replicate 24 0
def cls (op src : Nat) : State :=
  sysOf .vector (ss 4 (spadBase + 0x0F000040)) (fun t => { t with spad := SMap.setRange 0#8 [] 64 (collRec op src) }) mapped
def clk (op src : Nat) : Iss :=
  issOf .vector (ss 4 (spadBase + 0x0F000040)) fun t => { t with spad := SMap.setRange 0#8 [] 64 (collRec op src) }
def ci (op : Nat) : RdI := ri (.s 62) (.s 4) .nil .i32 0 (BitVec.ofNat 32 op)

/-- What the hypotheses of a collective ask of its reads, for members 0 and 1 and the root, member 0. -/
def collReads (op src : Nat) : Bool :=
  okPair ((cls op src).gather (clk op src) ((clk op src).gr.uni (.s 4) 0) 64 64) fun bs s1 =>
    !(collDesc bs).rest && !(collDesc bs).bad op (tagWidth (16 * tyCode .i32) / 8)
      && okPair (s1.gather (clk op src) (collDesc bs).memb (8 * ((collDesc bs).nm1 + 1)) 8) fun ms _ =>
        (List.range ((collDesc bs).nm1 + 1)).all (fun j => decide (wordAt ms j < 2 ^ 32)) && decide ((collDesc bs).count ≠ 0) == (op != 4)

theorem coll_reads : ∀ op ∈ [0, 4], collReads op 0x200060 = true := by
  decide +kernel

theorem coll_ok {op src : Nat} (h : collReads op src = true) : ∃ bs s1 ms s2,
    (cls op src).gather (clk op src) ((clk op src).gr.uni (.s 4) 0) 64 64 = .ok (some bs, s1) ∧ (collDesc bs).rest = false
    ∧ (collDesc bs).bad op (tagWidth (16 * tyCode .i32) / 8) = false
    ∧ s1.gather (clk op src) (collDesc bs).memb (8 * ((collDesc bs).nm1 + 1)) 8 = .ok (some ms, s2)
    ∧ (∀ j < (collDesc bs).nm1 + 1, wordAt ms j < 2 ^ 32) := by
  obtain ⟨bs, s1, h1, h2⟩ := good_pair h
  simp only [Bool.and_eq_true, Bool.not_eq_true'] at h2
  obtain ⟨ms, s2, h3, h4⟩ := good_pair h2.2
  simp only [Bool.and_eq_true, List.all_eq_true, List.mem_range, decide_eq_true_eq] at h4
  exact ⟨bs, s1, ms, s2, h1, h2.1.1, h2.1.2, h3, h4.1⟩

/-- A grid of an invocation that has ended. -/
def grid0 (st : Nat) : Grid := ⟨5, oneGroup .vector, 0, [], 1, 1, 0, 6, some st, false⟩

theorem witness_Collectives :
    (∀ op src ls, Ready (cls op src) (clk op src) 0x34A ls) ∧ ocOf (clk 0 0).gr.ops .col < 63
    ∧ (∀ op ∈ [0, 4], (ci op).imm.toNat % 8 = op ∧ collReads op 0x200060 = true)
    ∧ (∀ c ∈ [coll0 3 false, coll0 0 true], ∃ s : State, s.coll? 0 0 7 = some c ∧ c.acks = 0 ∧ (c.status ≠ 0 ∨ c.wrote = true)
      ∧ c.d = .s 62 ∧ (s.group? 0 0).isSome = true)
    ∧ (∀ st ∈ [0, 1], ∃ s : State, (s.part 0).grids.find? (fun g => g.launch == 5) = some (grid0 st) ∧ (grid0 st).status = some st
      ∧ s.gridReleasing 0 5 = false ∧ ∀ c ∈ s.gridCores 0 5, s.updatePending c.1 255 [] = false) := by
  refine ⟨fun op src ls => ready_of rfl rfl rfl rfl rfl rfl rfl rfl, by decide, fun op h => ⟨by revert h op; decide, coll_reads op h⟩,
    ?_, ?_⟩
  · intro c h
    exact ⟨sysOf .vector id id fun s => { s with colls := [c] }, by revert h c; decide +kernel, by revert h c; decide,
      by revert h c; decide, by revert h c; decide, rfl⟩
  · intro st h
    exact ⟨sysOf .vector id id fun s => { s with parts := [(0, { Partition.reset with en := true, grids := [grid0 st] })] },
      rfl, rfl, rfl, fun _ _ => rfl⟩

/-! Words, steps, traps, frames. -/

/-- A fetch whose bytes p takes. -/
def okFetch (x : Except Trap (List Byte)) (p : List Byte → Bool) : Bool := match x with | .ok a => p a | .error _ => false
theorem good_fetch {x : Except Trap (List Byte)} {p : List Byte → Bool} (h : okFetch x p = true) : ∃ a, x = .ok a ∧ p a = true := by
  cases x with
  | error e => cases h
  | ok a => exact ⟨a, rfl, h⟩

def decodes (ag : Agent) (bs : List Byte) (yes : Bool) : Bool := match decodeBytes ag bs with | .instr _ => yes | .trap _ => !yes
theorem decodes_instr {ag : Agent} {bs : List Byte} (h : decodes ag bs true = true) : ∃ i, decodeBytes ag bs = .instr i := by
  unfold decodes at h
  split at h
  · exact ⟨_, ‹_›⟩
  · cases h
theorem decodes_trap {ag : Agent} {bs : List Byte} (h : decodes ag bs false = true) : ∃ t, decodeBytes ag bs = .trap t := by
  unfold decodes at h
  split at h
  · cases h
  · exact ⟨_, ‹_›⟩

/-- A word placed for its agent; with zeros in its place. -/
def placedW (w : Nat) : State := State.reset.withFetchWord 96 w

def zeroed (w : Nat) : State := { placedW w with home := placedHome 0 [] }
def imulW : Nat := 0x20C001807801400000000003
def dloopW : Nat := 0xE04180A0D808000000000054

/-- The selected group's fetch. -/
def fetchOf (s : State) : Except Trap (List Byte) := match s.issuer with
  | some k => s.fetch k.t.part k.t.ctx k.t.comp k.e.pc.toNat
  | none => .error ⟨0, 0, 0⟩
/-- The selected transfer processor's fetch. -/
def dxFetchOf (s : State) : Except Trap (List Byte) := match s.dxIssuer with
  | some k => s.fetch k.t.part k.t.ctx k.t.comp k.x.pc.toNat
  | none => .error ⟨0, 0, 0⟩


theorem fetch_group : okFetch (fetchOf (placedW imulW)) (fun bs => decodes (.group false) bs true) = true := by decide +kernel
theorem fetch_zero : okFetch (fetchOf (zeroed imulW)) (fun bs => decodes (.group false) bs false) = true := by decide +kernel
theorem fetch_dxp : okFetch (dxFetchOf (placedW dloopW)) (fun bs => decodes .dxp bs true) = true := by decide +kernel

theorem witness_StepRuns :
    (∃ k bs i, (placedW imulW).issuer = some k ∧ (placedW imulW).errs = []
      ∧ (placedW imulW).fetch k.t.part k.t.ctx k.t.comp k.e.pc.toNat = .ok bs ∧ decodeBytes k.agent bs = .instr i)
    ∧ (∃ k bs t, (zeroed imulW).issuer = some k ∧ (zeroed imulW).errs = []
      ∧ (zeroed imulW).fetch k.t.part k.t.ctx k.t.comp k.e.pc.toNat = .ok bs ∧ decodeBytes k.agent bs = .trap t)
    ∧ (∃ k t, (vs id).issuer = some k ∧ (vs id).errs = [] ∧ (vs id).fetch k.t.part k.t.ctx k.t.comp k.e.pc.toNat = .error t)
    ∧ (∃ k bs i, (placedW dloopW).dxIssuer = some k ∧ (placedW dloopW).errs = []
      ∧ (placedW dloopW).fetch k.t.part k.t.ctx k.t.comp k.x.pc.toNat = .ok bs ∧ decodeBytes .dxp bs = .instr i)
    ∧ State.reset.cur = none ∧ State.reset.agenda = []
    ∧ ({ State.reset with agenda := [.referenceClockPeriod] } : State).agenda = .referenceClockPeriod :: [] := by
  refine ⟨?_, ?_, ⟨vk id, _, rfl, rfl, rfl⟩, ?_, rfl, rfl, rfl⟩
  · obtain ⟨bs, h1, h2⟩ := good_fetch fetch_group
    obtain ⟨i, hi⟩ := decodes_instr h2
    exact ⟨_, bs, i, rfl, rfl, h1, hi⟩
  · obtain ⟨bs, h1, h2⟩ := good_fetch fetch_zero
    obtain ⟨t, ht⟩ := decodes_trap h2
    exact ⟨_, bs, t, rfl, rfl, h1, ht⟩
  · obtain ⟨bs, h1, h2⟩ := good_fetch fetch_dxp
    obtain ⟨i, hi⟩ := decodes_instr h2
    exact ⟨_, bs, i, rfl, rfl, h1, hi⟩

/-- A step from a state whose next state p takes. -/
def stepsTo (o : Outcome State Fault Refusal) (p : State → Bool) : Bool := match o with | .next t => p t | _ => false
theorem good_step {o : Outcome State Fault Refusal} {p : State → Bool} (h : stepsTo o p = true) : ∃ t, o = .next t ∧ p t = true := by
  unfold stepsTo at h
  split at h
  · exact ⟨_, rfl, h⟩
  · cases h

theorem reset_steps : stepsTo (step State.reset) (fun _ => true) = true := by decide +kernel

theorem witness_StepKeepsMemory : ∃ s t : State, Memory.wf s ∧ step s = .next t := by
  obtain ⟨t, h, -⟩ := good_step reset_steps
  exact ⟨State.reset, t, by decide +kernel, h⟩

def traps (n : Nat) (g : Group) : Group := { g with trapq := List.replicate n rec0 }

theorem witness_TrapRecords :
    (∀ n ∈ [0, 7, 8], (vs (traps n)).team? 0 = some (teamOf .vector (traps n) id)
      ∧ (teamOf .vector (traps n) id).groups[0]? = some (traps n (grpOf .vector)) ∧ (traps n (grpOf .vector)).handler = none
      ∧ (traps n (grpOf .vector)).halted = false ∧ (traps n (grpOf .vector)).trapq.length = n)
    ∧ ((vs (inHandler id)).team? 0 = some (teamOf .vector (inHandler id) id)
      ∧ (teamOf .vector (inHandler id) id).groups[0]? = some (inHandler id (grpOf .vector))
      ∧ (inHandler id (grpOf .vector)).handler.isSome = true ∧ (inHandler id (grpOf .vector)).halted = false) := by
  refine ⟨?_, rfl, rfl, rfl, rfl⟩
  intro n h
  simp only [List.mem_cons, List.not_mem_nil, or_false] at h
  rcases h with rfl | rfl | rfl <;> exact ⟨rfl, rfl, rfl, rfl, rfl⟩

theorem witness_RoleTraps :
    (∀ n ∈ [0, 7], (vs (traps n)).issuer = some (vk (traps n)) ∧ (vk (traps n)).t.mast = false
      ∧ (∃ r, rawOfInstr (.mma mm) = some r ∧ r.op / 64 ≠ 14 ∧ roleOk (vk (traps n)).gr.role r.op = false)
      ∧ (vk (traps n)).gr.handler = none ∧ (vk (traps n)).gr.trapq.length = n)
    ∧ ∃ k bs t, (zeroed imulW).issuer = some k ∧ (zeroed imulW).errs = []
      ∧ (zeroed imulW).fetch k.t.part k.t.ctx k.t.comp k.e.pc.toNat = .ok bs ∧ decodeBytes k.agent bs = .trap t := by
  refine ⟨?_, witness_StepRuns.2.1⟩
  intro n h
  simp only [List.mem_cons, List.not_mem_nil, or_false] at h
  rcases h with rfl | rfl <;> exact ⟨rfl, rfl, ⟨_, rfl, by decide, by decide⟩, rfl, rfl⟩

/-- A trap record of group 0's present entry waits; the launch record names a handler. -/
def recording (pc : Pc) (m : Mask) (g : Group) : Group := { g with trapq := [{ rec0 with pc := pc, mask := m }] }
def handled (n : Nat) (t : Team) : Team := { t with lrec := { t.lrec with handler := n } }
def hst (n : Nat) (m : Mask) : State := sysOf .vector (recording 0x200000 m) (handled n) id
def returning (m : Mask) (g : Group) : Group :=
  { recording 0x200000 1 g with handler := some (run0 [⟨0xFF, 0x300000, m⟩]) }
def rst (m : Mask) : State := sysOf .vector (returning m) (handled 0x300000) id
def rtk (m : Mask) : Iss := { issOf .vector (returning m) (handled 0x300000) with e := ⟨0xFF, 0x300000, m⟩ }
/-- In the handler with two entries, one of lane 0, one of lane 1. -/
def parted (g : Group) : Group := { returning 1 g with handler := some (run0 [⟨0xFF, 0x300000, 1⟩, ⟨0xFF, 0x30000C, 2⟩]) }

theorem witness_TrapsAndReturns :
    (Ready (vs (traps 7)) (vk (traps 7)) 0x003 ([], []) ∧ (vk (traps 7)).gr.handler = none ∧ (vk (traps 7)).gr.trapq.length < 8)
    ∧ (∀ n ∈ [0, 0x300000], ∀ m ∈ [0#32, 1#32], ∃ t gr r, (hst n m).team? 0 = some t ∧ t.groups[0]? = some gr ∧ gr.trapq = r :: []
      ∧ gr.handler = none ∧ gr.exited = false ∧ gr.halted = false ∧ (hst n m).mayRun t = true ∧ t.lrec.handler = n ∧ gr.fresh = []
      ∧ gr.evicted = [])
    ∧ (∀ ls, Ready (rst 1) (rtk 1) 0x004 ls) ∧ (rtk 1).gr.handler = some (run0 [⟨0xFF, 0x300000, 1⟩])
    ∧ (∃ r, (rtk 1).gr.trapq = r :: [] ∧ r.imprecise = false
      ∧ (rtk 1).e.mask = (run0 [⟨0xFF, 0x300000, 1⟩]).front.foldl (fun (m : Mask) e => m ||| e.mask) 0
      ∧ (rtk 1).gr.front.find? (fun e => e.pc == r.pc && e.mask == r.mask) = some ⟨0, 0x200000, 1⟩)
    ∧ (∀ n ∈ [0, 1, 2, 4, 5, 6], (BitVec.ofNat 32 n).toNat % 4 ≠ 3)
    ∧ ∃ s k h r, (∀ ls, Ready s k 0x004 ls) ∧ k.gr.handler = some h ∧ k.gr.trapq = r :: []
      ∧ k.e.mask ≠ h.front.foldl (fun (m : Mask) e => m ||| e.mask) 0 := by
  refine ⟨⟨ready_of rfl rfl rfl rfl rfl rfl rfl rfl, rfl, by decide⟩, ?_, fun ls => ready_of rfl rfl rfl rfl rfl rfl rfl rfl, rfl,
    ⟨{ rec0 with pc := 0x200000, mask := 1 }, rfl, rfl, by decide, by decide⟩, ?_, ?_⟩
  rotate_left
  · decide
  · exact ⟨sysOf .vector parted (handled 0x300000) id,
      { issOf .vector parted (handled 0x300000) with e := ⟨0xFF, 0x300000, 1⟩ },
      run0 [⟨0xFF, 0x300000, 1⟩, ⟨0xFF, 0x30000C, 2⟩], { rec0 with pc := 0x200000, mask := 1 },
      fun ls => ready_of rfl rfl rfl rfl rfl rfl rfl rfl, rfl, rfl, by decide⟩
  intro n hn m hm
  exact ⟨teamOf .vector (recording 0x200000 m) (handled n), recording 0x200000 m (grpOf .vector), { rec0 with pc := 0x200000, mask := m },
    by rfl, by rfl, by rfl, by rfl, by rfl, by rfl, by rfl, by rfl, by rfl, by rfl⟩

theorem frame_runs : ∀ d ∈ [Operand.v 255, .v 0], stepsTo (exec (.iadd (fi d (.v 1) (.v 2) .i32 0 0)) (vs id)) (fun t =>
    match t.group? 0 0 with | some g => decide (g.trapq = []) && !g.halted && g.hold.isNone | none => false) = true := by
  decide +kernel

theorem witness_FrameRegisterOnly : ∀ d ∈ [Operand.v 255, .v 0], ∃ s1 g1, registerOnly (.iadd (fi d (.v 1) (.v 2) .i32 0 0)) = some d
    ∧ (vs id).issuer = some (vk id) ∧ (vs id).errs = [] ∧ WellFormed (vk id).agent (.iadd (fi d (.v 1) (.v 2) .i32 0 0)) = true
    ∧ exec (.iadd (fi d (.v 1) (.v 2) .i32 0 0)) (vs id) = .next s1 ∧ s1.group? 0 0 = some g1 ∧ g1.trapq = (vk id).gr.trapq
    ∧ g1.halted = false ∧ g1.hold = none := by
  intro d h
  have hw : WellFormed (vk id).agent (.iadd (fi d (.v 1) (.v 2) .i32 0 0)) = true := by revert h d; decide
  obtain ⟨t, h1, h2⟩ := good_step (frame_runs d h)
  cases hg : t.group? 0 0 with
  | none => rw [hg] at h2; cases h2
  | some g =>
    rw [hg] at h2
    simp only [Bool.and_eq_true, decide_eq_true_eq, Bool.not_eq_true', Option.isNone_iff_eq_none] at h2
    exact ⟨t, g, rfl, rfl, rfl, hw, h1, hg, h2.1.1, h2.1.2, h2.2⟩

/-! The moves that no instruction takes. -/

/-- A view with one dirty byte. -/
def viewed (c : Core) : Core := { c with view := [(0x300000, ⟨true, 9, true, 1, false, 8, 0⟩)] }
def cleanView (c : Core) : Core := { c with view := [(0x300000, ⟨true, 9, false, 0, false, 8, 0⟩)] }
def withCore (f : Core → Core) (s : State) : State := { s with cores := [(0, f Core.reset)] }
def wce : WcEntry := ⟨1, 0x6000, 1, 5, 1, 0, [], []⟩
def lined (lines : List Nat) : Release := ⟨4, 0, 0, 0, 0, 0, 0, 1, 0xFF, [], [], [], lines, true, .fence 0⟩
def pend0 (k : PendKind) (g : Group) : Group := { g with pend := [⟨7, 0, 0x200000, 1, k, false⟩] }
def relWait (g : Group) : Group := { g with hold := some { waits 12 false false with since := 7, answer := some 0x200FF } }

theorem witness_OrderingMoves :
    (∃ s : State, [0x300000] ≠ [] ∧ (∀ a ∈ [0x300000], (SMap.get CvByte.absent (s.core 0).view a).dirty = true)
      ∧ SMap.ok CvByte.absent (s.core 0).view = true)
    ∧ (mappable (128 * 0x6000) = true ∧ ((vs id).core 0).lineAbsent 0x6000 = true)
    ∧ (∃ s : State, (s.core 0).lineAbsent 0x6000 = false ∧ ∀ e ∈ (s.core 0).view, e.1 / 128 = 0x6000 → e.2.dirty = false)
    ∧ (∃ s : State, (s.core 0).wc[0]? = some wce ∧ (s.cluster (clusterOf 0)).wcage.toNat ≠ 0
      ∧ 1024 * (s.cluster (clusterOf 0)).wcage.toNat ≤ (s.rclk - wce.born).toNat ∧ wce.dev < 4096 ∧ s.pathsTo wce.dev 0 ≠ [])
    ∧ (∃ s : State, s.releases.find? (fun r => r.told && r.lines.contains 3) = some (lined [3])
      ∧ s.releases.find? (fun q => q.id == (lined [3]).id) = some (lined [3]))
    ∧ (∃ s : State, s.releases.find? (fun r => r.told && r.lines.contains 3) = some (lined [3, 4])
      ∧ s.releases.find? (fun q => q.id == (lined [3, 4]).id) = some (lined [3, 4]) ∧ ∃ n ∈ (lined [3, 4]).lines, n ≠ 3)
    ∧ (∃ (s : State) (t : Team) (gr : Group) (e : SbEntry), s.team? 0 = some t ∧ t.groups[0]? = some gr
      ∧ gr.sb.find? (fun e => e.id == 7) = some e ∧ e.rel = true ∧ e.released = false ∧ gr.sbHead e.colour = some e
      ∧ gr.mayPerform e = true ∧ gr.mayRelease 7 (2 ^ e.colour) = true ∧ s.releasing 0 0 (.store 7) = false
      ∧ s.updatePending t.core (2 ^ e.colour) e.devs = false ∧ ∀ p ∈ e.puts, s.filled p.acc = true)
    ∧ (∃ (s : State) (t : Team) (gr : Group) (e : LqEntry), s.team? 0 = some t ∧ t.groups[0]? = some gr
      ∧ gr.sb.find? (fun e => e.id == 7) = none ∧ gr.lq.find? (fun e => e.id == 7) = some e ∧ e.rel = true ∧ e.released = false
      ∧ gr.mayRelease 7 (2 ^ e.colour) = true ∧ s.releasing 0 0 (.atomic 7) = false
      ∧ s.updatePending t.core (2 ^ e.colour) (e.accs.filterMap fun a => a.loc.dev?).eraseDups = false)
    ∧ (∃ (s : State) (t : Team) (gr : Group) (p : Pend), s.team? 0 = some t ∧ t.groups[0]? = some gr
      ∧ gr.sb.find? (fun e => e.id == 7) = none ∧ gr.lq.find? (fun e => e.id == 7) = none
      ∧ gr.pend.find? (fun p => p.id == 7) = some p ∧ s.mayApply gr p = true ∧ p.kind = .ringFill 0 15
      ∧ (t.ring 0).full.getLsbD 15 = false)
    ∧ ∃ (s : State) (t : Team) (gr : Group) (h : Hold) (e : Entry), s.team? 0 = some t ∧ t.groups[0]? = some gr
      ∧ gr.sb.find? (fun e => e.id == 7) = none ∧ gr.lq.find? (fun e => e.id == 7) = none ∧ gr.pend.find? (fun p => p.id == 7) = none
      ∧ gr.hold = some h ∧ gr.selected = some e ∧ h.why = 12 ∧ h.started = true ∧ h.passed = false ∧ h.since = 7
      ∧ 2 ≤ bits (h.answer.getD 0).toNat 23 16 ∧ gr.quiet (bits (h.answer.getD 0).toNat 7 0) = true
      ∧ s.releasing 0 0 (.fence 7) = false ∧ s.updatePending t.core (bits (h.answer.getD 0).toNat 7 0) [] = false := by
  refine ⟨⟨sysOf .vector id id (withCore viewed), by decide, by decide, rfl⟩, ⟨by decide, rfl⟩,
    ⟨sysOf .vector id id (withCore cleanView), by decide +kernel, by decide⟩, ?_,
    ⟨sysOf .vector id id fun s => { s with releases := [lined [3]] }, by decide, by decide⟩,
    ⟨sysOf .vector id id fun s => { s with releases := [lined [3, 4]] }, by decide, by decide, 4, by decide, by decide⟩,
    ⟨vs (storing (sbe (.spad 0 0) true .team)), _, _, _, rfl, rfl, rfl, rfl, rfl, rfl, by decide, by decide, rfl, rfl, by decide⟩,
    ⟨vs (loading { lqe (.v 255) 0 2 (.spad 0 0) [] with rel := true }), _, _, _, rfl, rfl, rfl, rfl, rfl, rfl, by decide, rfl, rfl⟩,
    ⟨sysOf .vector (pend0 (.ringFill 0 15)) (ringed 0x7FFF) id, _, _, _, rfl, rfl, rfl, rfl, rfl, by decide, rfl, by decide⟩,
    ⟨vs relWait, _, _, _, _, rfl, rfl, rfl, rfl, rfl, rfl, rfl, rfl, rfl, rfl, rfl, by decide, by decide, rfl, rfl⟩⟩
  exact ⟨sysOf .vector id id fun s => joined { withCore (fun c => { c with wc := [wce] }) s with rclk := 131072 }, rfl,
    by decide +kernel, by decide +kernel, by decide, by decide +kernel⟩

def alarmOn (g : Group) : Group := g.setAlarm 7 ⟨true, false, 0⟩
def stalled (g : Group) : Group := { g with stall := stallOver }
def waitTill (d : W64) (g : Group) : Group := { g with hold := some { waits 5 false false with deadline := some d } }
def dxWaits (d : Option W64) (y : Dxp) : Dxp := dheld { waits 5 false false with deadline := d } y

theorem group_released : (vs (holding 10 false true)).released 0 0 (waits 10 false true) = true := by decide +kernel

/-- A ready group and one that has waited. -/
def qgroup (age : Nat) : QGroup := ⟨0, 0, teamOf .vector id id, { grpOf .vector with age := age }, [], none, false⟩

/-- A program that waits, stopped by its team's dxsig. -/
def dxStopped (y : Dxp) : Dxp :=
  { y with run := some ⟨⟨0, 0, 0, 0, 1, 0x200000, []⟩, some (waits 5 false false), none, some ⟨15, 0, 0⟩⟩ }
theorem dx_released : (dxOf dxStopped).dxReleased 0 = true := by decide +kernel

theorem witness_WaitsAndCycles :
    ((vs stalled).group? 0 0 = some (stalled (grpOf .vector)) ∧ (stalled (grpOf .vector)).stall = stallOver)
    ∧ (∃ t, (vs alarmOn).team? 0 = some t ∧ t.groups[0]? = some (alarmOn (grpOf .vector)) ∧ ((alarmOn (grpOf .vector)).alarm 7).armed = true
      ∧ ((alarmOn (grpOf .vector)).alarm 7).deadline.toNat ≤ ((vs alarmOn).vclk t.part t.ctx).toNat)
    ∧ (∃ t gr h d, (vs (waitTill 0)).team? 0 = some t ∧ t.groups[0]? = some gr ∧ gr.hold = some h ∧ h.started = true ∧ h.timedOut = false
      ∧ h.deadline = some d ∧ d.toNat ≤ ((vs (waitTill 0)).vclk t.part t.ctx).toNat ∧ (vs (waitTill 0)).stopped t.part t.ctx = false)
    ∧ (∃ gr h, (vs (holding 10 false true)).group? 0 0 = some gr ∧ gr.hold = some h ∧ h = waits 10 false true
      ∧ (vs (holding 10 false true)).released 0 0 (waits 10 false true) = true)
    ∧ (∃ r t h d, ((dxOf (dxWaits (some 0))).core 0).dxp.run = some r ∧ (dxOf (dxWaits (some 0))).team? r.cmd.tid = some t
      ∧ r.hold = some h ∧ h.started = true ∧ h.timedOut = false ∧ h.deadline = some d
      ∧ d.toNat ≤ ((dxOf (dxWaits (some 0))).vclk t.part t.ctx).toNat ∧ (dxOf (dxWaits (some 0))).stopped t.part t.ctx = false)
    ∧ (∃ (s : State) (r : DxRun) (h : Hold), (s.core 0).dxp.run = some r ∧ r.hold = some h ∧ s.dxReleased 0 = true)
    ∧ (∃ (s : State) (r : DxRun), s.cur = none ∧ 4 ≤ 4 ∧ 207 < 208 ∧ (s.core 207).dxp.run = some r ∧ r.ending = none)
    ∧ (∃ s : State, s.cur = none ∧ 3 ≤ 4 ∧ 0 < 208 ∧ (s.core 0).nextQ = 3 ∧ (∀ q < 3, (s.core 0).nextQ ≠ q))
    ∧ (∀ q < 4, (vs id).pick 0 q [qgroup 64] = some (qgroup 64) ∧ (qgroup 64).why = none ∧ 64 ≤ (qgroup 64).gr.age
      ∧ (qgroup 64).t.lrec.det = false ∧ (qgroup 64).gr.yieldHint = false)
    ∧ (∃ s : State, s.ready = true ∧ ∀ p c, (s.ctx p c).allMsgs = []) ∧ (vs id).ready = true ∧ ({ vs id with ready := false } : State).ready = false := by
  refine ⟨⟨rfl, rfl⟩, ⟨_, rfl, rfl, by decide, by decide⟩, ⟨_, _, _, _, rfl, rfl, rfl, rfl, rfl, rfl, by decide, rfl⟩,
    ⟨_, _, rfl, rfl, rfl, group_released⟩, ⟨_, _, _, _, rfl, rfl, rfl, rfl, rfl, rfl, by decide, rfl⟩,
    ⟨_, _, _, rfl, rfl, dx_released⟩, ⟨{ sysOf .vector id id id with
      cur := none, cores := [(207, { Core.reset with dxp := { Dxp.reset with run := some (dr0 none none) } })] }, _, rfl, by decide,
      by decide, rfl, rfl⟩, ⟨{ sysOf .vector id id id with cur := none, cores := [(0, { Core.reset with nextQ := 3 })] }, rfl, by decide, by decide,
      rfl, by decide⟩, ?_, ⟨{ State.reset with ready := true }, rfl, fun _ _ => rfl⟩, rfl, rfl⟩
  intro q h
  match q, h with
  | 0, _ | 1, _ | 2, _ | 3, _ => exact ⟨rfl, rfl, by decide, rfl, rfl⟩

/-- The placed multiplication's team, its image at 0x300000, with some lines out of the register cache. -/
def lineTeam (out : List Nat) (tiles : List Nat) (n : Nat) (t : Team) : Team :=
  { t with lrec := { t.lrec with imageBase := 0x300000 }, fresh := tiles
           groups := t.groups.map (fun g => { g with fresh := out }) ++ List.replicate n (grpOf .vector) }
def lineSt (out tiles : List Nat) (n : Nat) : State := (placedW imulW).modTeam 0 (lineTeam out tiles n)

theorem ok_acc {α : Type} {x : Except AccErr α} (h : x.toBool = true) : ∃ a, x = .ok a := by
  cases x with
  | error e => cases h
  | ok a => exact ⟨a, rfl⟩
theorem line_user : (lineSt [3] [] 0).lineUsers 0 (((lineSt [3] [] 0).team? 0).getD (teamOf .vector id id)) (some 0) 3 = [0] := by
  decide +kernel
theorem line_image : ((lineSt [3] [] 0).imageLine (((lineSt [3] [] 0).team? 0).getD (teamOf .vector id id))
    ((((lineSt [3] [] 0).team? 0).getD (teamOf .vector id id)).lineVa (some 0) 3)).toBool = true := by decide +kernel
theorem line_full : (lineSt [3] [] 16).lineUsers 0 (((lineSt [3] [] 16).team? 0).getD (teamOf .vector id id)) (some 0) 3 = [0] ∧
    4096 ≤ (lineSt [3] [] 16).linesUsed 0 ∧ (lineSt [3] [] 16).evictable 0 ⟨0, some 0, 4⟩ = true := by decide +kernel

/-- A placed mma, its tiles tagged and no vat slot of the core its team's. -/
def vatSt : State := (placedW ((encode (.mma mm)).getD 0).toNat).modTeam 0 (signing 1)
theorem vat_user : (List.range 1).find? (fun g => vatSt.needsVat 0 0 0 g) = some 0 := by decide +kernel

/-- The same with its image at 0x300000 and its tile in slot 0 there alone; and one whose slot 0 holds a tile of team 1. -/
def vatIm : State := vatSt.modTeam 0 fun t => { t with lrec := { t.lrec with imageBase := 0x300000 }, evicted := [1024] }
def vatTwo : State :=
  { vatSt with teams := vatSt.teams ++ [(1, teamOf .matrix id fun t => { t with vatClean := [0] })]
               cores := [(0, { Core.reset with vatTid := [(0, 2)] })] }
theorem vat_im : (List.range 1).find? (fun g => vatIm.needsVat 0 0 0 g) = some 0 := by decide +kernel
theorem vat_two : (List.range 1).find? (fun g => vatTwo.needsVat 0 0 0 g) = some 0 := by decide +kernel

/-- A walk that is good is so for another address of its page. -/
theorem pointer_ok {e : Nat} {k : AccKind} {va vb pa t : Nat} {l : Bool} (h : pointer e k va pa l = .ok t) : pointer e k vb pa l = .ok t := by
  unfold pointer at h ⊢
  repeat' split at h
  all_goals try cases h
  rw [if_neg ‹_›, if_neg ‹_›, if_neg ‹_›]
theorem leaf_ok {e : Nat} {k : AccKind} {va vb pa low size : Nat} {l : Leaf} (h : leafOf e k va pa low size = .ok l) :
    leafOf e k vb pa low size = .ok l ∧ l.size = size := by
  unfold leafOf at h ⊢
  repeat' split at h
  all_goals try cases h
  simp_all
theorem ptrs_ok (s : State) (part : Nat) (k : AccKind) {va vb : Nat} : ∀ (shs : List Nat) (table t : Nat),
    (∀ sh ∈ shs, va / 2 ^ sh = vb / 2 ^ sh) → s.walkPtrs part k va shs table = .ok t → s.walkPtrs part k vb shs table = .ok t
  | [], _, _, _, h => h
  | sh :: shs, table, t, hs, h => by
    have h0 := hs sh (List.mem_cons_self ..)
    simp only [State.walkPtrs, h0] at h ⊢
    split at h
    · rw [pointer_ok ‹_›]
      exact ptrs_ok s part k shs _ t (fun x hx => hs x (List.mem_cons_of_mem _ hx)) h
    · cases h

/-- A walk that ends in a 2 MiB page ends there for every address of the page. -/
theorem walk_page (s : State) (part root : Nat) (k : AccKind) {va vb : Nat} {l : Leaf} (hv : va / 2 ^ 21 = vb / 2 ^ 21)
    (h : s.walk part root k va = .ok l) (hl : l.size = 2 ^ 21) : s.walk part root k vb = .ok l := by
  have hs : ∀ sh ∈ [48, 39, 30], va / 2 ^ sh = vb / 2 ^ sh := by
    intro sh hsh
    simp only [List.mem_cons, List.not_mem_nil, or_false] at hsh
    rcases hsh with rfl | rfl | rfl <;> omega
  unfold State.walk at h ⊢
  split at h
  · cases h
  · rename_i t0 hp
    rw [ptrs_ok s part k _ _ _ hs hp]
    simp only [hv] at h ⊢
    split at h
    · rw [if_pos ‹_›]
      exact (leaf_ok h).1
    · split at h
      · cases h
      · have h2 := (leaf_ok (vb := vb) h).2
        rw [hl] at h2
        exact absurd h2 (by decide)

theorem lines_ok (s : State) (t : Team) (he : s.errs = []) : ∀ n va, (∀ i < n, ∃ r, s.imageLine t (va + 128 * i) = .ok r) →
    ∃ bs, s.imageLines t n va = (s, .ok bs)
  | 0, _, _ => ⟨_, rfl⟩
  | n + 1, va, h => by
    obtain ⟨r, h0⟩ := h 0 (by omega)
    obtain ⟨bs, h1⟩ := lines_ok s t he n (va + 128) fun i hi => by
      have h2 := h (i + 1) (by omega)
      rwa [show va + 128 * (i + 1) = va + 128 + 128 * i by omega] at h2
    rw [show va + 128 * 0 = va from rfl] at h0
    have hr : ∀ c p l n a, s.readErr c p l n a = (s, none) := by
      intro c p l n a
      cases l <;> simp [State.readErr, State.checkRead, he]
    simp only [State.imageLines, h0, hr, h1]
    exact ⟨_, rfl⟩


def isLeaf (x : Except AccErr Leaf) (l : Leaf) : Bool := match x with | .ok y => y == l | .error _ => false
theorem is_leaf {x : Except AccErr Leaf} {l : Leaf} (h : isLeaf x l = true) : x = .ok l := by
  cases x with
  | error e => cases h
  | ok y => rw [beq_iff_eq.mp h]
theorem im_walk : vatIm.walk 0 0x10000 .image 0x320000 = .ok ⟨0x20003F, 2 ^ 21⟩ := is_leaf (by decide +kernel)
theorem im_local : ∀ i < 768, bit (localPa (0x200000 + (0x320000 + 128 * i) % 2 ^ 21)) 51 = false := by decide +kernel
theorem im_ok : ∃ bs, vatIm.imageLines ((vatIm.team? 0).getD (teamOf .vector id id)) 768 0x320000 = (vatIm, .ok bs) := by
  apply lines_ok _ _ rfl
  intro i hi
  have hw := walk_page vatIm 0 0x10000 .image (vb := 0x320000 + 128 * i) (by omega) im_walk rfl
  have hr : (vatIm.ctx 0 0).root = 0x10000 := rfl
  have hc : ∀ va, leafCheck 0x20003F 0 .image va = .ok () := fun _ => rfl
  have hx : vatIm.xlate ((vatIm.team? 0).getD (teamOf .vector id id)) .image (0x320000 + 128 * i)
      = .ok (locOf (0x200000 + (0x320000 + 128 * i) % 2 ^ 21) (keyOf (vatIm.part 0) 0 + frpKey)) := by
    show vatIm.translate 0 0 0 .image _ = _
    rw [State.translate, if_neg (by omega), hr, hw]
    rfl
  simp only [State.imageLine, hx, locOf, im_local i hi]
  exact ⟨_, rfl⟩

/-- A team whose scratchpad's first page is mapped to 0x300000; a load waits for its last line. -/
def mapT (lines : SMap MapLine) (t : Team) : Team := { t with spmap := [⟨0x300000, 0, 1, 0⟩], lines := lines }
def mapSt (lines : SMap MapLine) : State :=
  sysOf .vector (loading (lqe (.v 255) 0 0 (.spad 0 4092) [])) (mapT lines) mapped
theorem map_use : (match (mapSt []).lineUse 0 0 (((mapSt []).team? 0).getD (teamOf .vector id id))
    (((mapSt []).group? 0 0).getD (grpOf .vector)) 0 31 with | some (.access n _ _) => n == 7 | _ => false) = true := by decide +kernel
theorem map_uses : ∃ u, (mapSt []).lineUse 0 0 (((mapSt []).team? 0).getD (teamOf .vector id id))
    (((mapSt []).group? 0 0).getD (grpOf .vector)) 0 31 = some u := by
  have h := map_use
  split at h
  · exact ⟨_, ‹_›⟩
  · cases h

theorem map_place : (match (mapSt []).xlate (((mapSt []).team? 0).getD (teamOf .vector id id)) .fill 0x300F80 with
    | .ok (.mem _ _) => true | _ => false) = true := by decide +kernel
theorem map_placed : ∃ pa key, (mapSt []).xlate (((mapSt []).team? 0).getD (teamOf .vector id id)) .fill 0x300F80
    = .ok (.mem pa key) := by
  have h := map_place
  split at h
  · exact ⟨_, _, ‹_›⟩
  · cases h

theorem witness_LineMoves :
    (∃ t, (lineSt [3] [] 0).team? 0 = some t ∧ t.lineOut (some 0) 3 = true
      ∧ (lineSt [3] [] 0).lineUsers 0 t (some 0) 3 = 0 :: [] ∧ (lineSt [3] [] 0).linesUsed t.core < 4096
      ∧ (t.groups[0]?).isSome = true ∧ (lineSt [3] [] 0).errs = []
      ∧ ∃ r, (lineSt [3] [] 0).imageLine t (t.lineVa (some 0) 3) = .ok r)
    ∧ (∃ t, (lineSt [3] [] 16).team? 0 = some t ∧ t.lineOut (some 0) 3 = true ∧ (lineSt [3] [] 16).lineUsers 0 t (some 0) 3 = 0 :: []
      ∧ 4096 ≤ (lineSt [3] [] 16).linesUsed t.core ∧ (lineSt [3] [] 16).evictable t.core ⟨0, some 0, 4⟩ = true)
    ∧ (∃ t, vatSt.team? 0 = some t ∧ t.mast = false ∧ t.core = 0 ∧ SMap.get 0 (vatSt.core 0).vatTid 0 ≠ 1
      ∧ ((vatSt.core 0).engine.any fun o => o.tid + 1 == SMap.get 0 (vatSt.core 0).vatTid 0 && o.vats.contains 0) = false
      ∧ (List.range t.groups.length).find? (fun g => vatSt.needsVat 0 0 0 g) = some 0)
    ∧ (∃ t bs, vatIm.team? 0 = some t ∧ t.mast = false ∧ t.core = 0 ∧ SMap.get 0 (vatIm.core 0).vatTid 0 = 0 ∧ vatIm.errs = []
      ∧ ((vatIm.core 0).engine.any fun o => o.tid + 1 == SMap.get 0 (vatIm.core 0).vatTid 0 && o.vats.contains 0) = false
      ∧ (List.range t.groups.length).find? (fun g => vatIm.needsVat 0 0 0 g) = some 0 ∧ 1024 ∈ t.evicted
      ∧ (vatIm.imageLines t 768 (t.imageBase + 0x20000 + 0x18000 * 0)).2 = .ok bs)
    ∧ (∃ t u, vatTwo.team? 0 = some t ∧ vatTwo.team? 1 = some u ∧ t.mast = false ∧ t.core = 0 ∧ vatTwo.errs = []
      ∧ SMap.get 0 (vatTwo.core 0).vatTid 0 = 1 + 1 ∧ u.vatClean.contains 0 = true
      ∧ ((vatTwo.core 0).engine.any fun o => o.tid + 1 == 1 + 1 && o.vats.contains 0) = false
      ∧ (List.range t.groups.length).find? (fun g => vatTwo.needsVat 0 0 0 g) = some 0)
    ∧ (∃ t gr x, (mapSt []).team? 0 = some t ∧ (mapSt []).group? 0 0 = some gr ∧ t.mapped (128 * 31) = true
      ∧ (SMap.get MapLine.off t.lines 31).valid = false ∧ (∃ u, (mapSt []).lineUse 0 0 t gr 0 31 = some u)
      ∧ t.spEntry 31 = some (.ok x) ∧ (mapSt []).errs = []
      ∧ ∃ pa key, (mapSt []).xlate t .fill (x.vbase + t.index * x.tstride * 4096 + 128 * 31 - 4096 * x.off) = .ok (.mem pa key))
    ∧ ∃ t, (mapSt [(31, ⟨true, 1, 1⟩)]).team? 0 = some t ∧ t.oldestDirty = some 31
      ∧ ∃ m ∈ t.spmap, 32 * m.off ≤ 31 ∧ 31 < 32 * (m.off + m.len % 512) := by
  refine ⟨⟨_, rfl, by decide, line_user, by decide +kernel, rfl, rfl, ok_acc line_image⟩, ⟨_, rfl, by decide, line_full.1, line_full.2.1, line_full.2.2⟩,
    ⟨_, rfl, rfl, rfl, by decide, by decide, vat_user⟩,
    ⟨_, im_ok.choose, rfl, rfl, rfl, rfl, rfl, rfl, vat_im, by decide, congrArg Prod.snd im_ok.choose_spec⟩,
    ⟨_, _, rfl, rfl, rfl, rfl, rfl, rfl, rfl, rfl, vat_two⟩,
    ⟨_, _, _, rfl, rfl, by decide, by decide, map_uses, rfl, rfl, map_placed⟩,
    ⟨_, rfl, by decide, ⟨0x300000, 0, 1, 0⟩, List.mem_singleton.mpr rfl, by decide, by decide⟩⟩

/-- Partition 0 with its context 0, changed; no group selected. -/
def pst (f : Partition → Partition) (c : Context → Context) (u : State → State) : State :=
  sysOf .vector id id fun s => u { s with cur := none, parts := [(0, f { Partition.reset with
    en := true, ctxs := [(0, c { Context.off with valid := true })] })] }
def gridN (placed exited invoked : Nat) : Grid := ⟨5, oneGroup .vector, 0, [], placed, exited, 0, invoked, none, false⟩
def room (s : State) : State := { s with clusters := [(0, { Cluster.reset with valid := true })] }
/-- A place for the grid on core 0. -/
def placing : State := pst (fun p => { p with grids := [gridN 0 0 0] }) id room
theorem placing_ok : placing.placeFor 0 (gridN 0 0 0) = some 0 := by decide +kernel

theorem witness_GridMoves :
    (State.reset.part 0).en = false ∧ ((pst (fun p => { p with busy := true }) id id).part 0).busy = true
    ∧ (∀ n ∈ [0, 63, 64], ((pst (fun p => { p with launchq := List.replicate n ⟨3, 0x300000⟩ }) id id).part 0).en = true
      ∧ ((pst (fun p => { p with launchq := List.replicate n ⟨3, 0x300000⟩ }) id id).part 0).busy = false
      ∧ ((pst (fun p => { p with launchq := List.replicate n ⟨3, 0x300000⟩ }) id id).part 0).launchq.length = n)
    ∧ (∀ a ∈ [0x300000, 0x300001], ((pst (fun p => { p with launchq := [⟨3, a⟩] }) id id).part 0).launchq = ⟨3, a⟩ :: []
      ∧ ((pst (fun p => { p with launchq := [⟨3, a⟩] }) id id).part 0).en = true
      ∧ ((pst (fun p => { p with launchq := [⟨3, a⟩] }) id id).part 0).busy = false)
    ∧ 0x300001 % 128 ≠ 0
    ∧ ((placing.part 0).en = true ∧ (placing.part 0).busy = false
      ∧ (placing.part 0).grids.find? (fun g => (placing.placeFor 0 g).isSome) = some (gridN 0 0 0)
      ∧ placing.placeFor 0 (gridN 0 0 0) = some 0 ∧ (gridN 0 0 0).nextSet = some (0, 1)
      ∧ (placing.part 0).grids.find? (fun y => y.launch == (gridN 0 0 0).launch) = some (gridN 0 0 0)
      ∧ ∀ i < 1, placing.lineRoom (rectCore (gridN 0 0 0).lrec 0 i) (32 + 26 * (gridN 0 0 0).lrec.groups) = true
        ∧ placing.mayRoom (rectCore (gridN 0 0 0).lrec 0 i) (32 + 26 * (gridN 0 0 0).lrec.groups) = true)
    ∧ ∀ n ∈ [0, 6], ∃ s : State, (s.part 0).grids.find? (fun g => g.launch == 5) = some (gridN 1 1 n) ∧ (gridN 1 1 n).status = none
      ∧ s.gridOver 0 (gridN 1 1 n) = true := by
  refine ⟨rfl, rfl, by decide, by decide, by decide, ⟨rfl, rfl, ?_, placing_ok, by decide, by decide, by decide +kernel⟩, ?_⟩
  · have h : (placing.part 0).grids = [gridN 0 0 0] := rfl
    simp [h, placing_ok]
  · intro n h
    exact ⟨pst (fun p => { p with grids := [gridN 1 1 n] }) id id, rfl, rfl, by revert h n; decide +kernel⟩

/-- Context 0 inside a stop interval. -/
def stopped (why : StopWhy) (marked drained : Bool) (c : Context) : Context := { c with stop := some ⟨0, 0, [why], marked, drained, []⟩ }
def stp (why : StopWhy) (marked drained : Bool) (u : State → State) : State := pst id (stopped why marked drained) u
def savedTeam (s : State) : State := s.modTeam 0 fun t => { t with saved := true, parked := true, imaged := true }
/-- A hot core, its team at a barrier, and core 1 to take it. -/
def hot (moving : Bool) (s : State) : State :=
  { room s with cores := [(0, { Core.reset with hot := true })]
                teams := [(0, teamOf .vector (holding 4 false false) fun t => { t with moving := moving })] }

theorem hot_ok : ∀ m ∈ [false, true], ((pst id id (hot m)).mayMove 0 (teamOf .vector (holding 4 false false) fun t => { t with moving := m }) = true
    ∧ (pst id id (hot m)).mayTake (teamOf .vector (holding 4 false false) fun t => { t with moving := m }) 1 = true) := by decide +kernel

/-- The context goes on, core 0 first. -/
def goingOn (u : State → State) : State := pst id (fun c => { c with stop := some ⟨5, 3, [], true, true, [0]⟩ }) u

theorem witness_StopMoves :
    (((pst id id id).part 0).en = true ∧ ((pst id id id).part 0).busy = false ∧ ((pst id id id).ctx 0 0).valid = true
      ∧ ((pst id id id).ctx 0 0).stop = none ∧ (pst id id id).ctxsOf 0 = 0 :: [])
    ∧ ((stp .preempt false false id).stopsFor 0 0 .preempt = true ∧ ((stp .preempt false false id).drainMore 0 0).isSome = true)
    ∧ ((stp .preempt true true id).stopsFor 0 0 .preempt = true ∧ (stp .preempt true true id).drainMore 0 0 = none
      ∧ (stp .preempt true true id).drainDone 0 0 = true ∧ (stp .preempt true true id).allSaved 0 0 = false)
    ∧ ((stp .swap false false id).ctxsOf 0).findSome? (fun c => (stp .swap false false id).swapMore 0 c) ≠ none
    ∧ (∀ m ∈ [false, true], ∃ t, (pst id id (hot m)).team? 0 = some t ∧ t.part = 0 ∧ t.ctx = 0 ∧ t.mast = false
      ∧ ((pst id id (hot m)).core t.core).hot = true ∧ (pst id id (hot m)).mayMove 0 t = true
      ∧ (pst id id (hot m)).mayTake t 1 = true ∧ t.moving = m)
    ∧ (∃ s t, State.team? s 0 = some t ∧ t.mast = false ∧ (s.core t.core).hot = true ∧ s.mayMove 0 t = true ∧ s.mayTake t 1 = true
      ∧ t.moving = true ∧ s.drainMore 0 0 = none ∧ s.drainDone 0 0 = true
      ∧ (∃ slots, assignSlots (s.slotsUsed 1) t.groups.length 0 = some slots)
      ∧ s.lineRoom 1 t.pins = true ∧ s.mayRoom 1 t.pins = true)
    ∧ ((stp .preempt true true savedTeam).drainDone 0 0 = true
      ∧ ((stp .preempt true true savedTeam).ctx 0 0).stop = some ⟨0, 0, [.preempt], true, true, []⟩
      ∧ (stp .preempt true true savedTeam).allSaved 0 0 = true ∧ (stp .preempt true true savedTeam).errs = [])
    ∧ ((stp .swap true true savedTeam).drainDone 0 0 = true ∧ (stp .swap true true savedTeam).stopsFor 0 0 .swap = true
      ∧ ∀ x ∈ (stp .swap true true savedTeam).ctxsOf 0, (stp .swap true true savedTeam).swappedOut 0 x = true)
    ∧ ((stp .migrate true true id).drainDone 0 0 = true ∧ (stp .migrate true true id).stopsFor 0 0 .migrate = true
      ∧ ∀ e ∈ (stp .migrate true true id).ctxTeams 0 0, e.2.moving = false)
    ∧ (((stp .migrate false false (hot true)).drainMore 0 0).isSome = true
      ∧ (stp .migrate false false (hot true)).mayMove 0 (teamOf .vector (holding 4 false false) fun t => { t with moving := true }) = true
      ∧ (stp .migrate false false (hot true)).mayTake (teamOf .vector (holding 4 false false) fun t => { t with moving := true }) 1 = true)
    ∧ (((goingOn id).ctx 0 0).stop = some ⟨5, 3, [], true, true, [0]⟩ ∧ ∀ e ∈ (goingOn id).ctxTeams 0 0, e.2.parked = false)
    ∧ ((goingOn savedTeam).ctx 0 0).stop = some ⟨5, 3, [], true, true, [0]⟩
    ∧ (goingOn savedTeam).ctxCores 0 0 = [0]
    ∧ ∀ k ∈ (goingOn savedTeam).ctxCores 0 0, (goingOn savedTeam).mayRoom k ((goingOn savedTeam).backPins 0 0 k) = true := by
  refine ⟨⟨rfl, rfl, rfl, rfl, by decide⟩, ⟨rfl, by decide +kernel⟩, ⟨rfl, rfl, rfl, by decide⟩, by decide +kernel, ?_, ?_,
    ⟨rfl, rfl, by decide, rfl⟩, ⟨rfl, rfl, by decide +kernel⟩, ⟨rfl, rfl, by decide +kernel⟩,
    ⟨by decide +kernel, by decide +kernel, by decide +kernel⟩, ⟨rfl, by decide +kernel⟩, rfl, by decide +kernel, by decide +kernel⟩
  · intro m h
    have h1 := hot_ok m h
    exact ⟨_, rfl, rfl, rfl, rfl, rfl, h1.1, h1.2, rfl⟩
  · have h1 := hot_ok true (by decide)
    exact ⟨stp .migrate true true (hot true), _, rfl, rfl, rfl, h1.1, h1.2, rfl, rfl, rfl, ⟨_, rfl⟩, by decide +kernel, by decide +kernel⟩

def brined (m : Msg) (c : Context) : Context := { c with brine := [m] }
def full32 (c : Context) : Context := { brined { msg0 with patience := 1 } c with recvq := [(63, List.replicate 32 msg0)] }
def noticed (p : Partition) : Partition := { p with noticeLost := 3, ringBase := 0x1000, ringSize := 16 }

/-- The mailbox at 0x1000 is full, and slots are held. -/
def fullBox (ds : List Deferred) : State :=
  pst id (fun c => { c with deferred := ds }) fun s => { s with hostMem := [(0x1000, 14)] }

theorem witness_MessagesAndRecords :
    (pst id (brined msg0) id).brineDue 0 0 = some msg0
    ∧ ((((pst id full32 fun s => { s with rclk := 65536 }).ctx 0 0).allMsgs.find? fun m => m.ident.toNat == 0 && m.patience != 0)
        = some { msg0 with patience := 1 }
      ∧ 65536 * 1 ≤ ((pst id full32 fun s => { s with rclk := 65536 }).rclk - msg0.born).toNat
      ∧ (pst id full32 fun s => { s with rclk := 65536 }).brineDue 0 0 = none)
    ∧ (∃ (s : State) (d : Deferred), (s.ctx 0 0).deferred[1]? = some d ∧ s.mailFree d.ep = true
      ∧ ∀ j < 1, ∀ e, (s.ctx 0 0).deferred[j]? = some e → s.mailFree e.ep = false)
    ∧ (∃ s : State, (s.ctx 0 0).deferred ≠ [] ∧ ∀ d ∈ (s.ctx 0 0).deferred, s.mailFree d.ep = false)
    ∧ (State.reset.ctx 0 (bits (State.reset.hostWord (0x1000 : W64).toNat) 37 32)).valid = false
    ∧ (∃ (s : State) (h : HeldRec), (s.core 0).held = h :: [] ∧ s.evCount 0 < 256)
    ∧ (∃ s : State, 0 < 16 ∧ (s.cluster 0).lostPend ≠ 0 ∧ (s.cluster 0).evq.length = 255)
    ∧ (((pst noticed id id).part 0).noticeLost ≠ 0 ∧ (pst noticed id id).noticeRoom 0 ≠ 0) :=
  ⟨by decide +kernel, ⟨by decide +kernel, by decide +kernel, by decide +kernel⟩,
    ⟨fullBox [⟨0x1000, 0, [], false⟩, ⟨0x2000, 0, [], false⟩], _, rfl, by decide +kernel, by
      intro j hj e he
      have h0 : j = 0 := by omega
      subst h0
      cases Option.some.inj he
      decide +kernel⟩,
    ⟨fullBox [⟨0x1000, 0, [], false⟩], by decide, by decide +kernel⟩, rfl,
    ⟨pst id id fun s => { s with cores := [(0, { Core.reset with held := [⟨ev0, 0, 0, 7, false⟩] })] }, _, rfl, by decide +kernel⟩,
    ⟨pst id id fun s => { s with clusters := [(0, { Cluster.reset with lostPend := 3, evq := List.replicate 255 ev0 })] }, by decide +kernel,
      by decide +kernel, by decide +kernel⟩, by decide +kernel, by decide +kernel⟩

/-- Samples of twelve cores, at a temperature; the device at a step of start-up. -/
def temps (t : Int) : List Byte := List.replicate 12 (BitVec.ofInt 8 t)
def starting (cal mem_ : Bool) : State := { State.reset with ready := false, caldone := cal, memdone := mem_ }

theorem witness_SensorsAndPower :
    (15 < 16 ∧ (temps 96).length = 12)
    ∧ ((State.reset.cluster 15).hotAt < ((temps 96).getD 11 0).toInt ∧ ((temps 91).getD 11 0).toInt ≤ (State.reset.cluster 15).hotAt - 4)
    ∧ (∃ x ∈ temps 105, (State.reset.cluster 15).hotAt + 10 ≤ x.toInt) ∧ (∀ x ∈ temps 95, x.toInt ≤ (State.reset.cluster 15).hotAt)
    ∧ (∃ (s : State) (x : Nat × W64), (s.cluster 15).droopCap = some x ∧ x.2.toNat ≤ s.rclk.toNat)
    ∧ (∀ c m, (starting c m).ready = false ∧ (starting c m).imgfail = false ∧ (starting c m).caldone = c ∧ (starting c m).memdone = m)
    ∧ (imageVerifies (starting false false).slot = true ∨ imageVerifies (starting false false).slot = false)
    ∧ ∃ s : State, s.pfBusy = true ∧ s.pfWord.toNat % 256 = 7 ∧ (imageVerifies s.pfImage = true ∨ imageVerifies s.pfImage = false) := by
  refine ⟨by decide, by decide, ⟨_, List.mem_cons_self .., by decide⟩, ?_, ⟨{ State.reset with rclk := 7, clusters := [(15, { Cluster.reset with droopCap := some (3, 7) })] },
    _, rfl, by decide⟩, fun c m => ⟨rfl, rfl, rfl, rfl⟩, by cases imageVerifies (starting false false).slot <;> simp,
    ⟨{ State.reset with pfBusy := true, pfWord := 7 }, rfl, by decide, by cases imageVerifies _ <;> simp⟩⟩
  intro x h
  rw [temps, List.mem_replicate] at h
  rw [h.2]
  decide

/-! What software outside the groups writes; what arrives at the device. -/

/-- Partition 0's record at 0x300000: its window 0 gives device 1 64 KiB at 0x300000, its context 0 has the tables of mapped. -/
def recHome : SMap Byte :=
  let put (m : SMap Byte) (a x : Nat) : SMap Byte := SMap.setRange 0#8 m a (toBytes 8 x)
  put (put (put (put (put (placedHome 0 []) 0x300100 0x100010F) 0x300108 0x300000) 0x300110 0x10000) 0x300900 1) 0x300908 0x10000
def recorded (s : State) : State :=
  { s with home := recHome, parts := [(0, { Partition.reset with en := true, keyGen := 1, recAt := 0x300000 })] }
def rst0 (f : State → State) : State := f (recorded State.reset)
def cl0 (f : Cluster → Cluster) (s : State) : State := { s with clusters := [(0, f { Cluster.reset with valid := true })] }
theorem rec_valid : (rst0 id).ctxValid 0 0 = true := by decide +kernel
theorem rec_mast : (rst0 (cl0 id)).ctxValid ((rst0 (cl0 id)).cluster 0).part.toNat (bits (1 : W32).toNat 13 8) = true := by decide +kernel

theorem witness_HostRegisters :
    State.reset.ready = true ∧ State.reset.inReset 15 = true ∧ (rst0 (cl0 id)).inReset 0 = false
    ∧ ((pst (fun p => { p with busy := true }) id id).part 0).busy = true ∧ (State.reset.part 15).busy = false
    ∧ (State.reset.part 15).en = false ∧ ((rst0 id).part 0).en = true ∧ ((rst0 id).part 0).halt = false
    ∧ ((pst (fun p => { p with halt := true }) id id).part 0).halt = true ∧ ((pst (fun p => { p with halt := true }) id id).part 0).en = true
    ∧ (1 : W32).getLsbD 0 = true ∧ ((rst0 (cl0 fun c => { c with mState := 1 })).cluster 0).mState = 1
    ∧ ((rst0 (cl0 id)).inReset 0 = false ∧ ((rst0 (cl0 id)).cluster 0).mState ≠ 1
      ∧ (rst0 (cl0 id)).ctxValid ((rst0 (cl0 id)).cluster 0).part.toNat (bits (1 : W32).toNat 13 8) = true)
    ∧ ((rst0 (cl0 id)).ctxValid ((rst0 (cl0 id)).cluster 0).part.toNat (bits (0x3F01 : W32).toNat 13 8) = false
      ∧ (0x3F01 : W32).getLsbD 0 = true)
    ∧ (ownRow 0x20008 = false ∧ ¬ (0x20000 ≤ 0x20008 ∧ 0x20008 < 0x21000 ∧ 0x20008 % 0x100 = 0x30))
    ∧ (State.reset.part 15).dbgStopped = false
    ∧ (((pst (fun p => { p with dbgStopped := true }) id id).part 0).dbgStopped = true
      ∧ ((pst (fun p => { p with dbgStopped := true }) id id).part 0).dbgStep = false)
    ∧ (∀ x ∈ [(HostAgent.sysSw, 191, 7), (.virt 0, 11, 7)], (rst0 (cl0 id)).pmWriter x.1 (.core x.2.1) x.2.2 = true)
    ∧ (State.reset.pmWriter .sysSw (.core 192) 0 = false ∧ State.reset.pmWriter .mgmt (.shared 0) 0 = false)
    ∧ (∃ s : State, (s.core 0).dxp.trapq = (0, rec0) :: [])
    ∧ (State.reset.ownVfRow 15 0x100 = false ∧ State.reset.ownVfRow 15 0 = true ∧ (rst0 (cl0 id)).ownVfRow 0 0x1000 = true
      ∧ State.reset.ownVfRow 0 0x1000 = false)
    ∧ ({ State.reset with ready := false } : State).ready = false :=
  ⟨rfl, by decide, by decide, rfl, rfl, rfl, rfl, rfl, rfl, rfl, by decide, rfl, ⟨by decide, by decide, rec_mast⟩,
    ⟨by decide +kernel, by decide⟩, by decide, rfl, ⟨rfl, rfl⟩, by decide, ⟨by decide, by decide⟩,
    ⟨{ State.reset with cores := [(0, { Core.reset with dxp := { Dxp.reset with trapq := [(0, rec0)] } })] }, rfl⟩, by decide +kernel, rfl⟩

/-- A command of PFCMD for index 255 of partition 0; one of partition 15. -/
def cmd (op : Nat) : W64 := BitVec.ofNat 64 (op + 2 ^ 18 * 255)
def genned (n : BitVec 16) (s : State) : State :=
  { s with home := SMap.setRange 0#8 s.home 0x300902 (toBytes 2 n.toNat) }
theorem gens_read : ∀ n ∈ [(0, 0), (0xFFFF, 0xFFFF)],
    (((rst0 (genned (BitVec.ofNat 16 n.1))).loadCtx 0 0).ctx 0 0).gen = BitVec.ofNat 16 n.2
      ∧ (rst0 (genned (BitVec.ofNat 16 n.1))).pfCtxOk (cmd 1) = true := by decide +kernel

/-- The CXL link trained at 16 lanes. -/
def wide (s : State) : State := { s with cxlWidth := 16 }
theorem cxl_reads : ((rst0 wide).cxlLoc 0 0x300FC0 .load).isSome = true ∧ ((rst0 wide).cxlLoc 0 0x300FC0 .store).isSome = true := by
  decide +kernel
theorem cxl_none : (wide State.reset).cxlLoc 0 0 .load = none ∧ (wide State.reset).cxlLoc 0 0 .store = none := by decide +kernel

theorem witness_CommandsAndLinks :
    (∀ x ∈ pfcmdOf.map Prod.fst, pfOp (cmd x) = x) ∧ pfOp (cmd 255) = 255 ∧ pfOp (cmd 0) = 0 ∧ pfOp (cmd 7) = 7
    ∧ ((rst0 id).pfBusy = false ∧ (rst0 id).ready = true ∧ (State.reset.part (pfPart (cmd 1))).en = false)
    ∧ (∀ n ∈ [(0, 0), (0xFFFF, 0xFFFF)], (((rst0 (genned (BitVec.ofNat 16 n.1))).loadCtx 0 0).ctx 0 0).gen = BitVec.ofNat 16 n.2
      ∧ (rst0 (genned (BitVec.ofNat 16 n.1))).pfCtxOk (cmd 1) = true)
    ∧ ((rst0 id).pfCtxOk (cmd 2) = true ∧ pfIndex (2 + 2 ^ 18 * 63) = 63 ∧ (rst0 id).pfCtxOk (2 + 2 ^ 18 * 63) = true
      ∧ ∃ e, (rst0 id).pfEp = some e)
    ∧ (∀ op ∈ [4, 5, 6], (rst0 id).pfPartOk (cmd op) = true)
    ∧ (∃ s : State, s.pfBusy = true ∧ pfOp s.pfWord = 7 ∧ (s.ready = true ∨ s.imgfail = true))
    ∧ (∃ s : State, s.pfBusy = true ∧ pfOp s.pfWord = 1)
    ∧ State.reset.cxlWidth = 0
    ∧ ((15 < 16 ∧ 0 < 64 ∧ 0 % 64 + 64 ≤ 64) ∧ (wide State.reset).cxlWidth ≠ 0 ∧ (wide State.reset).cxlLoc 0 0 .load = none
      ∧ (wide State.reset).cxlLoc 0 0 .store = none)
    ∧ ((rst0 wide).cxlWidth ≠ 0 ∧ (rst0 wide).errs = [] ∧ ∃ pa key, (rst0 wide).cxlLoc 0 0x300FC0 .load = some (pa, key))
    ∧ (∃ pa key, (rst0 wide).cxlLoc 0 0x300FC0 .store = some (pa, key))
    ∧ (State.reset.portUp 23 = false ∧ (joined State.reset).portUp 0 = true)
    ∧ (∃ s : State, s.portUp 23 = true ∧ 2 ^ 96 - 2 ^ 32 ≤ (SMap.get Port.down s.ports 23).ctr.toNat)
    ∧ ((joined State.reset).out.filter fun o => (joined State.reset).viaPort 0 o) = [] := by
  have some2 : ∀ {x : Option (Nat × Nat)}, x.isSome = true → ∃ pa key, x = some (pa, key) := by
    intro x h
    cases x with
    | none => cases h
    | some y => exact ⟨y.1, y.2, rfl⟩
  exact ⟨by decide, by decide, by decide, by decide, ⟨rfl, rfl, by decide⟩, gens_read, ⟨by decide +kernel, by decide, by decide +kernel, ⟨_, rfl⟩⟩,
    by decide, ⟨{ State.reset with pfBusy := true, pfWord := 7 }, rfl, by decide, Or.inl rfl⟩,
    ⟨{ State.reset with pfBusy := true, pfWord := 1 }, rfl, by decide⟩, rfl, ⟨by decide, by decide, cxl_none⟩, ⟨by decide, rfl, some2 cxl_reads.1⟩, some2 cxl_reads.2,
    ⟨by decide, by decide⟩, ⟨{ State.reset with ports := [(23, ⟨true, 0xFFFFFFFFFFFFFFFF00000000, 0⟩)] }, by decide, by decide⟩, by decide⟩

/-- Frames to all stations, and to another. -/
def frame (bs : List Byte) : ZFrame := ⟨0xFFFFFFFFFFFF, 5, bs⟩
def zb (n x : Nat) : List Byte := List.replicate n (BitVec.ofNat 8 x)
def reefF (level : Nat) : ZFrame := frame (1#8 :: toBytes 4 9 ++ zb 16 level)
def pathF (dst hops : Nat) : ZFrame := frame (2#8 :: toBytes 4 9 ++ toBytes 2 dst ++ (List.range 8).flatMap fun _ => toBytes 8 (1 + 2 ^ 8 * hops + 2 ^ 16 * 23))
def askF (x : Nat) : ZFrame := frame (3#8 :: toBytes 4 9 ++ [BitVec.ofNat 8 x])
/-- A frame whose first entry sets a reserved bit; one with a byte after its entries. -/
def badF (n : Nat) : ZFrame :=
  if n = 0 then frame (2#8 :: toBytes 4 9 ++ toBytes 2 0 ++ (List.range 8).flatMap fun _ => toBytes 8 0x170011)
  else { pathF 0 0 with payload := (pathF 0 0).payload ++ [1] }
def upd0 : PathUpd := ⟨9, 5, 4095, List.replicate 8 0x170001⟩
def spdmSt : State := { State.reset with spdm := ⟨true, true, true, some [], false, [], [], []⟩ }

/-- An SPDM request of a version and code. -/
def sreq (v c : Nat) : Spdm := ⟨false, BitVec.ofNat 8 v, BitVec.ofNat 8 c, 0, 0, []⟩

theorem witness_Management :
    (∃ f : ZFrame, zAccepts f = false ∧ zByte f 0 = 1 ∧ 21 ≤ f.payload.length)
    ∧ (∃ f : ZFrame, zAccepts f = false ∧ zByte f 0 = 2 ∧ 71 ≤ f.payload.length)
    ∧ (∃ f : ZFrame, zAccepts f = false ∧ zByte f 0 = 3 ∧ 6 ≤ f.payload.length)
    ∧ (∀ n ∈ [0, 15, 16], zAccepts (reefF n) = true ∧ zByte (reefF n) 0 = 1 ∧ (reefF n).payload.length = 21 ∧ zByte (reefF n) 20 = n
      ∧ seqAfter none (zSeq (reefF n)) = true ∧ seqAfter (some 9) (zSeq (reefF n)) = false)
    ∧ (∀ d ∈ [0, 4095, 4096], zAccepts (pathF d 0) = true ∧ zByte (pathF d 0) 0 = 2 ∧ (pathF d 0).payload.length = 71
      ∧ ofBytes (((pathF d 0).payload.drop 5).take 2) = d ∧ seqAfter none (zSeq (pathF d 0)) = true ∧ seqAfter (some 9) (zSeq (pathF d 0)) = false
      ∧ (∀ e ∈ (List.range 8).map (fun i => ofBytes (((pathF d 0).payload.drop (7 + 8 * i)).take 8)), pathOk e = true)
      ∧ ∀ b ∈ (pathF d 0).payload.drop 71, b = 0)
    ∧ (zAccepts (badF 0) = true ∧ zByte (badF 0) 0 = 2 ∧ 71 ≤ (badF 0).payload.length ∧ seqAfter none (zSeq (badF 0)) = true
      ∧ pathOk (ofBytes (((badF 0).payload.drop 7).take 8)) = false)
    ∧ (zAccepts (badF 1) = true ∧ zByte (badF 1) 0 = 2 ∧ seqAfter none (zSeq (badF 1)) = true ∧ ∃ b ∈ (badF 1).payload.drop 71, b ≠ 0)
    ∧ (∃ s : State, s.pathUpds = upd0 :: [] ∧ s.awaits upd0.dst = false)
    ∧ (∀ x ∈ [2, 6], zAccepts (askF x) = true ∧ zByte (askF x) 0 = 3 ∧ (askF x).payload.length = 6 ∧ zByte (askF x) 5 = x)
    ∧ (zByte (frame [4]) 0 = 4 ∧ zByte (frame [0]) 0 = 0 ∧ (frame [1]).payload.length < zLen (zByte (frame [1]) 0))
    ∧ (∀ x ∈ [8, 254], ([0#8, BitVec.ofNat 8 x].getD 0 0).toNat % 4 < 2 ∧ 8 ≤ ([0#8, BitVec.ofNat 8 x].getD 1 0).toNat
      ∧ ([0#8, BitVec.ofNat 8 x].getD 1 0).toNat < 255)
    ∧ (SpdmOf spdmSt (0xEC, false, .endSession) ∧ SpdmOf spdmSt (0xE5, true, .finish))
    ∧ (∀ c ∈ [0xEC, 0xE5], ∀ v ∈ [0x13, 0x12], (sreq v c).code.toNat = c ∧ ((sreq v c).version ≠ (if c = 0x84 then 0x10 else 0x13) ↔ v = 0x12))
    ∧ ((sreq 0x10 0x84).version = 0x10 ∧ (sreq 0x10 0x84).code = 0x84) ∧ (sreq 0x13 0xE0).param1.getLsbD 0 = false
    ∧ (∃ s : State, s.spdm.session.isSome = true ∧ s.spdm.finished = true) ∧ (0x80 : Byte).toNat ∉ spdmKnown := by
  have other : ∀ bs, ∃ f : ZFrame, zAccepts f = false ∧ f.payload = bs := by
    intro bs
    refine ⟨⟨ownStation ^^^ 1, 5, bs⟩, ?_, rfl⟩
    have h : ownStation.toNat / 2 ^ 24 = 0x020A91 := by
      simp only [ownStation, BitVec.toNat_ofNat]; omega
    have h1 : ownStation ^^^ 1#48 ≠ ownStation := by
      intro e
      have h2 : ownStation ^^^ (ownStation ^^^ 1#48) = ownStation ^^^ ownStation := by rw [e]
      rw [← BitVec.xor_assoc, BitVec.xor_self, BitVec.zero_xor] at h2
      exact absurd h2 (by decide)
    have h3 : ownStation ^^^ 1#48 ≠ 0xFFFFFFFFFFFF#48 := by
      intro e
      have h4 : ownStation = 0xFFFFFFFFFFFF#48 ^^^ 1#48 := by rw [← e, BitVec.xor_assoc, BitVec.xor_self, BitVec.xor_zero]
      rw [h4] at h
      exact absurd h (by decide)
    simp only [zAccepts, Bool.or_eq_false_iff, beq_eq_false_iff_ne]
    exact ⟨h3, h1⟩
  have given : ∀ bs : List Byte, ∃ f : ZFrame, zAccepts f = false ∧ zByte f 0 = (bs.getD 0 0#8).toNat ∧ bs.length ≤ f.payload.length := by
    intro bs
    obtain ⟨f, h1, h2⟩ := other bs
    exact ⟨f, h1, congrArg (fun q => (q.getD 0 0#8).toNat) h2, Nat.le_of_eq (congrArg List.length h2.symm)⟩
  refine ⟨given (1 :: zb 20 0), given (2 :: zb 70 0), given (3 :: zb 5 0), by decide +kernel, by decide +kernel,
    by decide +kernel, ⟨by decide +kernel, by decide +kernel, by decide +kernel, 1, by decide +kernel, by decide⟩,
    ⟨{ State.reset with pathUpds := [upd0] }, rfl, rfl⟩, by decide, by decide, by decide, ⟨?_, ?_⟩, by decide, ⟨rfl, rfl⟩, rfl,
    ⟨{ spdmSt with spdm := ⟨true, true, true, some [], true, [], [], []⟩ }, rfl, rfl⟩, by decide⟩
  · simp [SpdmOf, spdmSt]
  · simp [SpdmOf, spdmSt]

/-- A packet of a kind from device 1 to this one, from core 191. -/
def pkt (kind addr arg : Nat) (payload : List Byte) : Packet :=
  { mkPacket kind 0 0 191 addr arg payload with ddev := Config.devNum, sdev := 1 }
def writeP : Packet := pkt 3 0x300F80 0 (zb 16 255 ++ zb 128 7)
def atomP : Packet := pkt 5 0x300F80 0x40101 (zb 16 1)

/-- The packets of R436 by kind, as short as they may be. -/
def sample (kind : Nat) : Packet :=
  match kind with
  | 1 => pkt 1 0x300F80 128 []
  | 3 => writeP
  | 5 => atomP
  | 9 => { pkt 9 0 0 [] with status := 6 }
  | 0x0A => pkt 0x0A 0 0 (zb 64 0)
  | 0x0B => pkt 0x0B 0 0 (zb 64 0)
  | 0x0F => pkt 0x0F 0 0x40000 []
  | 0x10 => pkt 0x10 0 0x40000 []
  | 0x11 => pkt 0x11 0 2 []
  | n => pkt n 0 0 []

/-- pktOk without the question whether the packet is this device's. -/
theorem ok_sample : ∀ kind ∈ List.range' 1 17, pktOk (sample kind) = true ∧ (sample kind).kind = BitVec.ofNat 8 kind := by
  intro kind h
  rw [show List.range' 1 17 = [1, 2, 3, 4, 5, 6, 7, 8, 9, 10, 11, 12, 13, 14, 15, 16, 17] from rfl] at h
  simp only [List.mem_cons, List.not_mem_nil, or_false] at h
  rcases h with rfl | rfl | rfl | rfl | rfl | rfl | rfl | rfl | rfl | rfl | rfl | rfl | rfl | rfl | rfl | rfl | rfl <;>
    exact ⟨by simp [pktOk, sample, writeP, atomP, pkt, mkPacket, zb, atomArgOk, bits, srcCore], rfl⟩

def winOk (x : Except Nat Nat) : Bool := match x with | .ok _ => true | .error _ => false
theorem admits_ok : winOk ((rst0 id).admitWin 1 0 0 0x300F80 128) = true ∧ winOk ((rst0 id).admitWin 1 0 1 0x300F80 128) = true
    ∧ winOk ((rst0 id).admitWin 1 0 2 0x300F80 4) = true := by decide +kernel
theorem admits_no : winOk (State.reset.admitWin 1 0 0 0x300F80 128) = false ∧ winOk (State.reset.admitWin 1 0 1 0x300F80 128) = false
    ∧ winOk (State.reset.admitWin 1 0 2 0x300F80 4) = false := by decide +kernel
theorem admitted : ∀ x ∈ [(0, 128), (1, 128), (2, 4)], (∃ q, (rst0 id).admitWin 1 0 x.1 0x300F80 x.2 = .ok q)
    ∧ ∃ d, State.reset.admitWin 1 0 x.1 0x300F80 x.2 = .error d := by
  intro x h
  have h1 : winOk ((rst0 id).admitWin 1 0 x.1 0x300F80 x.2) = true := by
    simp only [List.mem_cons, List.not_mem_nil, or_false] at h
    rcases h with rfl | rfl | rfl
    · exact admits_ok.1
    · exact admits_ok.2.1
    · exact admits_ok.2.2
  have h2 : winOk (State.reset.admitWin 1 0 x.1 0x300F80 x.2) = false := by
    simp only [List.mem_cons, List.not_mem_nil, or_false] at h
    rcases h with rfl | rfl | rfl
    · exact admits_no.1
    · exact admits_no.2.1
    · exact admits_no.2.2
  constructor
  · cases hx : (rst0 id).admitWin 1 0 x.1 0x300F80 x.2 with
    | ok q => exact ⟨q, rfl⟩
    | error e => rw [hx] at h1; cases h1
  · cases hx : State.reset.admitWin 1 0 x.1 0x300F80 x.2 with
    | ok q => rw [hx] at h2; cases h2
    | error e => exact ⟨e, rfl⟩

/-- Device 1's core 191 has written the line before. -/
def lineSeen (seq : W32) : State := { rst0 id with lineSeq := SMap.put [] (pktLineKey writeP (0x300F80 / 128)) seq }

theorem witness_Packets :
    (∀ kind ∈ [1, 3, 5, 7, 8, 2, 4, 6, 9, 10, 11, 12, 13, 14, 15, 16, 17], pktOk (sample kind) = true ∧ (sample kind).kind = BitVec.ofNat 8 kind)
    ∧ (∀ x ∈ [(1, 0, 128), (3, 1, 128), (5, 2, 4)], (sample x.1).addr.toNat = 0x300F80 ∧ (sample x.1).sdev.toNat = 1
      ∧ (sample x.1).spart.toNat = 0 ∧ (∃ q, (rst0 id).admitWin 1 0 x.2.1 0x300F80 x.2.2 = .ok q)
      ∧ ∃ d, State.reset.admitWin 1 0 x.2.1 0x300F80 x.2.2 = .error d)
    ∧ (tagWide (16 * bits atomP.arg.toNat 11 8) = false ∧ (∀ e ∈ (rst0 id).cores, e.2.view = []) ∧ (rst0 id).errs = []
      ∧ ∀ q, ((rst0 id).part q).keyGen < 2 ^ 60)
    ∧ (∀ k ∈ [1, 3, 5], (rst0 id).overtaken (sample k) = false ∧ (lineSeen 0).overtaken (sample k) = true
      ∧ (lineSeen 1).overtaken (sample k) = true)
    ∧ pktOk (pkt 0 0 0 []) = false ∧ (rst0 id).answered (sample 2) = [] ∧ (rst0 id).creditsHere (sample 4) = true
    ∧ (rst0 id).releases = []
    ∧ (((rst0 id).marks.filter fun m => m.of_ (sample 7)).length + 1 = 1 ∧ bits (pkt 7 2 0 []).addr.toNat 7 0 = 2
      ∧ bits (pkt 7 0x301 0 []).addr.toNat 7 0 = 1)
    ∧ (joined State.reset).pathsTo (sample 7).sdev.toNat 0 ≠ [] := by
  have hk : ∀ q, ((rst0 id).part q).keyGen < 2 ^ 60 := by
    intro q
    by_cases h : q = 0
    · rw [h]; decide
    · have h1 : (rst0 id).part q = Partition.reset := by
        simp [rst0, recorded, State.part, SMap.get, Ne.symm h]
      rw [h1]; decide
  refine ⟨fun kind h => ok_sample kind (by revert h kind; decide), ?_, ⟨by decide, by decide, rfl, hk⟩, by decide,
    by simp [pktOk, pkt, mkPacket], by decide, by decide, rfl, by decide, by decide +kernel⟩
  intro x h
  have h2 : (sample x.1).addr.toNat = 0x300F80 ∧ (sample x.1).sdev.toNat = 1 ∧ (sample x.1).spart.toNat = 0 := by
    revert h x; decide
  exact ⟨h2.1, h2.2.1, h2.2.2, admitted x.2 (by revert h x; decide)⟩

end Sys2Proof.Tests
end

section
/-!
Management (19 R437, R438, R441, 08 R199): what a frame, a control message or a request is answered with. One lemma for each
way that onFrame, onMctp and onSpdm can answer; what the power controller's settling leaves and writes; then each request by
the lemma of its way.
-/
namespace Sys2Proof.Machine

open Host (Outcome)

/-! ## A range of keys -/

theorem SMap.get_setRange {β : Type} [DecidableEq β] (d : β) (xs : List β) (m : SMap β) (j k : Nat) :
    SMap.get d (SMap.setRange d m j xs) k = if j ≤ k ∧ k < j + xs.length then xs.getD (k - j) d else SMap.get d m k := by
  induction xs generalizing m j with
  | nil =>
    rw [if_neg (by simp)]
    rfl
  | cons x xs ih =>
    simp only [SMap.setRange, ih, SMap.get_set, List.length_cons]
    by_cases hk : k = j
    · subst hk
      rw [if_neg (by omega), if_pos rfl, if_pos (by omega), Nat.sub_self, List.getD_cons_zero]
    · by_cases hr : j + 1 ≤ k ∧ k < j + 1 + xs.length
      · rw [if_pos hr, if_pos (by omega), show k - j = k - (j + 1) + 1 by omega, List.getD_cons_succ]
      · rw [if_neg hr, if_neg hk, if_neg (by omega)]

/-! ## The step of a cluster settles (19 R439) -/

@[simp] theorem State.settle_out (s : State) (c : Nat) : (s.settle c).out = s.out := rfl
@[simp] theorem State.settle_reefSeq (s : State) (c : Nat) : (s.settle c).reefSeq = s.reefSeq := rfl
@[simp] theorem State.settle_reefLevels (s : State) (c : Nat) : (s.settle c).reefLevels = s.reefLevels := rfl

theorem State.step_settle (s : State) (c n : Nat) :
    ((s.settle c).cluster n).step = if n = c then BitVec.ofNat 6 (s.stepFor n) else (s.cluster n).step := by
  simp only [State.settle, State.cluster_modCluster]
  by_cases hn : n = c
  · subst hn
    simp only [if_true]
    split
    · assumption
    · rfl
  · rw [if_neg hn, if_neg hn]

theorem State.stepFor_emit (s : State) (o : Out) (n : Nat) : (s.emit o).stepFor n = s.stepFor n := rfl

/-- The caps of a cluster do not depend on the step that any cluster runs at. -/
@[simp] theorem State.stepFor_settle (s : State) (c n : Nat) : (s.settle c).stepFor n = s.stepFor n := by
  have hx : ∀ p, (s.settle c).reefOf p = s.reefOf p := fun _ => rfl
  simp only [State.stepFor, State.caps, hx]
  simp only [State.settle, State.cluster_modCluster]
  by_cases hn : n = c
  · subst hn
    simp only [if_true]
    split <;> rfl
  · simp only [if_neg hn]

/-- After clusters have settled in turn, each of them runs at the step of its caps. -/
theorem State.step_foldl_settle (cs : List Nat) (s : State) (n : Nat) :
    ((cs.foldl (fun (x : State) c => x.settle c) s).cluster n).step
      = if n ∈ cs then BitVec.ofNat 6 (s.stepFor n) else (s.cluster n).step := by
  induction cs generalizing s with
  | nil => simp
  | cons c cs ih =>
    rw [List.foldl_cons, ih, State.stepFor_settle, State.step_settle]
    by_cases hc : n ∈ cs
    · simp [hc]
    · simp [hc]

/-- What no cluster's settling changes, the settling of all leaves. -/
theorem State.settleAll_keeps {α : Type} (f : State → α) (hf : ∀ s c, f (State.settle s c) = f s) (s : State) :
    f s.settleAll = f s :=
  foldl_keep (fun x => f x = f s) _ (fun x c hx => (hf x c).trans hx) _ s rfl

theorem State.step_settleAll (s : State) (n : Nat) (hn : n < 16) :
    (s.settleAll.cluster n).step = BitVec.ofNat 6 (s.settleAll.stepFor n) := by
  rw [State.settleAll_keeps (fun x => x.stepFor n) (fun x c => State.stepFor_settle x c n)]
  exact (State.step_foldl_settle _ s n).trans (if_pos (List.mem_range.2 hn))

/-! ## Zaron frames (19 R437, R438) -/

theorem State.zAnswer_eq (s : State) (src : BitVec 48) (type : Nat) (seq : W32) (bs : List Byte) :
    s.zAnswer src type seq bs
      = { s with out := .zaron ⟨src, ownStation, BitVec.ofNat 8 (0x80 + type) :: (toBytes 4 seq.toNat ++ bs)⟩ :: s.out } := rfl

section
variable {type : Nat} {f : ZFrame} (s t : State) (htype : zByte f 0 = type) (hlen : zLen type ≤ f.payload.length)
include htype hlen

theorem onFrame_for_another (h : zAccepts f = false) : onFrame type f s t = .next s := by
  rw [onFrame, if_neg (by omega), h]
  rfl

theorem onFrame_accepted (h : zAccepts f = true) : onFrame type f s t = .next t := by
  rw [onFrame, if_neg (by omega), h]
  rfl

end

/-! ### Reef frames -/

/-- The levels that a reef frame carries, one for each rank. -/
def reefLevelsOf (f : ZFrame) : List Nat := (List.range 16).map fun k => zByte f (5 + k)

theorem reefLevelsOf_getD (f : ZFrame) (k : Nat) (hk : k < 16) : (reefLevelsOf f).getD k 0 = zByte f (5 + k) := by
  simp [reefLevelsOf, hk]

theorem reefLevelsOf_any_above (f : ZFrame) :
    ((reefLevelsOf f).any fun l => decide (15 < l)) = true ↔ ∃ k < 16, 15 < zByte f (5 + k) := by
  simp [reefLevelsOf]

/-- What neither the levels' counting nor a cluster's settling changes, a frame that takes effect leaves. -/
theorem State.reef_keeps {α : Type} (f : State → α) (hs : ∀ s c, f (State.settle s c) = f s)
    (hp : ∀ s p g, f (State.modPart s p g) = f s) (s : State) (seq : W32) (levels : List Nat) :
    f (s.reef seq levels) = f { s with reefSeq := some seq, reefLevels := levels } := by
  refine (State.settleAll_keeps f hs _).trans ?_
  refine foldl_keep (fun x => f x = f { s with reefSeq := some seq, reefLevels := levels }) _ (fun x p hx => ?_) _ _ rfl
  split
  · exact hx
  · exact (hp x p _).trans hx

@[simp] theorem State.reef_out (s : State) (seq : W32) (levels : List Nat) : (s.reef seq levels).out = s.out :=
  State.reef_keeps State.out State.settle_out State.modPart_out s seq levels
@[simp] theorem State.reef_reefSeq (s : State) (seq : W32) (levels : List Nat) : (s.reef seq levels).reefSeq = some seq :=
  State.reef_keeps State.reefSeq State.settle_reefSeq State.modPart_reefSeq s seq levels
@[simp] theorem State.reef_reefLevels (s : State) (seq : W32) (levels : List Nat) : (s.reef seq levels).reefLevels = levels :=
  State.reef_keeps State.reefLevels State.settle_reefLevels State.modPart_reefLevels s seq levels

theorem State.step_reef (s : State) (seq : W32) (levels : List Nat) (n : Nat) (hn : n < 16) :
    ((s.reef seq levels).cluster n).step = BitVec.ofNat 6 ((s.reef seq levels).stepFor n) :=
  State.step_settleAll _ n hn

section
variable {f : ZFrame} (s : State) (hacc : zAccepts f = true) (htype : zByte f 0 = 1) (hlen : 21 ≤ f.payload.length)
include hacc htype hlen

theorem execZaronReefFrame_stale (hseq : seqAfter s.reefSeq (zSeq f) = false) :
    execZaronReefFrame f s = .next (s.zAnswer f.src 1 (zSeq f) [2]) := by
  rw [execZaronReefFrame, onFrame_accepted s _ htype hlen hacc, hseq]
  rfl

theorem execZaronReefFrame_level_above (hseq : seqAfter s.reefSeq (zSeq f) = true) (hk : ∃ k < 16, 15 < zByte f (5 + k)) :
    execZaronReefFrame f s = .next (s.zAnswer f.src 1 (zSeq f) [1]) := by
  rw [execZaronReefFrame, onFrame_accepted s _ htype hlen hacc, hseq, Bool.not_true, if_neg Bool.false_ne_true]
  exact congrArg _ (if_pos ((reefLevelsOf_any_above f).2 hk))

theorem execZaronReefFrame_applied (hseq : seqAfter s.reefSeq (zSeq f) = true) (hk : ∀ k < 16, zByte f (5 + k) ≤ 15) :
    execZaronReefFrame f s = .next ((s.reef (zSeq f) (reefLevelsOf f)).zAnswer f.src 1 (zSeq f) [0]) := by
  rw [execZaronReefFrame, onFrame_accepted s _ htype hlen hacc, hseq, Bool.not_true, if_neg Bool.false_ne_true]
  refine congrArg _ (if_neg fun h => ?_)
  obtain ⟨k, h16, habove⟩ := (reefLevelsOf_any_above f).1 h
  exact absurd (hk k h16) (by omega)

end

/-! ### Path updates -/

/-- The destination that a path update names. -/
def pathDst (f : ZFrame) : Nat := ofBytes ((f.payload.drop 5).take 2)

/-- The eight entries that a path update carries. -/
def pathEntries (f : ZFrame) : List Nat := (List.range 8).map fun i => ofBytes ((f.payload.drop (7 + 8 * i)).take 8)

/-- The test of the field rules (08 R199): an entry that breaks one, or a byte after the entries that is not 0. -/
theorem path_rule_broken_iff (es : List Nat) (bs : List Byte) :
    (!(es.all pathOk) || bs.any fun b => decide (b ≠ 0)) = true ↔ (∃ e ∈ es, pathOk e = false) ∨ ∃ b ∈ bs, b ≠ 0 := by
  simp

section
variable {f : ZFrame} (s : State) (hacc : zAccepts f = true) (htype : zByte f 0 = 2) (hlen : 71 ≤ f.payload.length)
include hacc htype hlen

theorem execZaronPathUpdate_stale (hseq : seqAfter s.pathSeq (zSeq f) = false) :
    execZaronPathUpdate f s = .next (s.zAnswer f.src 2 (zSeq f) (3 :: toBytes 2 (pathDst f))) := by
  rw [execZaronPathUpdate, onFrame_accepted s _ htype hlen hacc, hseq]
  rfl

variable (hseq : seqAfter s.pathSeq (zSeq f) = true)
include hseq

theorem execZaronPathUpdate_no_destination (hdst : 4095 < pathDst f) :
    execZaronPathUpdate f s = .next (s.zAnswer f.src 2 (zSeq f) (2 :: toBytes 2 (pathDst f))) := by
  rw [execZaronPathUpdate, onFrame_accepted s _ htype hlen hacc, hseq, Bool.not_true, if_neg Bool.false_ne_true]
  exact congrArg _ (if_pos hdst)

variable (hdst : pathDst f ≤ 4095)
include hdst

theorem execZaronPathUpdate_rule_broken (hbad : (∃ e ∈ pathEntries f, pathOk e = false) ∨ ∃ b ∈ f.payload.drop 71, b ≠ 0) :
    execZaronPathUpdate f s = .next (s.zAnswer f.src 2 (zSeq f) (1 :: toBytes 2 (pathDst f))) := by
  rw [execZaronPathUpdate, onFrame_accepted s _ htype hlen hacc, hseq, Bool.not_true, if_neg Bool.false_ne_true]
  exact congrArg _ ((if_neg (Nat.not_lt.2 hdst)).trans (if_pos ((path_rule_broken_iff _ _).2 hbad)))

theorem execZaronPathUpdate_accepted (hes : ∀ e ∈ pathEntries f, pathOk e = true) (hbs : ∀ b ∈ f.payload.drop 71, b = 0) :
    execZaronPathUpdate f s
      = .next { s with pathUpds := s.pathUpds ++ [⟨zSeq f, f.src, pathDst f, (pathEntries f).map (BitVec.ofNat 64)⟩] } := by
  rw [execZaronPathUpdate, onFrame_accepted s _ htype hlen hacc, hseq, Bool.not_true, if_neg Bool.false_ne_true]
  refine congrArg _ ((if_neg (Nat.not_lt.2 hdst)).trans (if_neg fun h => ?_))
  rcases (path_rule_broken_iff _ _).1 h with ⟨e, he, hbad⟩ | ⟨b, hb, hne⟩
  · exact Bool.false_ne_true (hbad.symm.trans (hes e he))
  · exact hne (hbs b hb)

end

/-- The state in which an update has taken the place of its destination's entries, not yet answered. -/
def State.pathApplied (s : State) (u : PathUpd) (rest : List PathUpd) : State :=
  { s with
    pathUpds := rest, pathSeq := if seqAfter s.pathSeq u.seq then some u.seq else s.pathSeq
    paths := SMap.setRange 0#64 s.paths (8 * u.dst) ((List.range 8).map fun k => u.entries.getD k 0) }

/-- The oldest update is applied where no release to its destination is under way. -/
theorem execPathUpdateApply_head (s : State) {u : PathUpd} {rest : List PathUpd} (hu : s.pathUpds = u :: rest)
    (hw : s.awaits u.dst = false) :
    execPathUpdateApply s = .next ((s.pathApplied u rest).zAnswer u.src 2 u.seq (0 :: toBytes 2 u.dst)) := by
  have hfind : (s.pathUpds.findIdx? fun u => !s.awaits u.dst) = some 0 := by simp [hu, List.findIdx?_cons, hw]
  have hget : s.pathUpds[0]? = some u := by simp [hu]
  have hrest : s.pathUpds.eraseIdx 0 = rest := by simp [hu]
  simp only [execPathUpdateApply, hfind, hget, List.take_zero, List.any_nil, hrest]
  rfl

theorem State.pathEntry_pathApplied (s : State) (u : PathUpd) (rest : List PathUpd) (d k : Nat) (hk : k < 8) :
    (s.pathApplied u rest).pathEntry d k = if d = u.dst then (u.entries.getD k 0).toNat else s.pathEntry d k := by
  have hget := SMap.get_setRange 0#64 ((List.range 8).map fun k => u.entries.getD k 0) s.paths (8 * u.dst) (8 * d + k)
  rw [List.length_map, List.length_range] at hget
  refine (congrArg BitVec.toNat hget).trans ?_
  by_cases hd : d = u.dst
  · subst hd
    simp [hk]
  · rw [if_neg (by omega), if_neg hd]
    rfl

/-! ### Telemetry -/

theorem execZaronTelemetryRequest_accepted {f : ZFrame} (s : State) (hacc : zAccepts f = true) (htype : zByte f 0 = 3)
    (hlen : 6 ≤ f.payload.length) :
    execZaronTelemetryRequest f s = .next (s.zAnswer f.src 3 (zSeq f)
      ([BitVec.ofNat 8 (zByte f 5), if (s.telemetry (zByte f 5)).isSome then 0 else 1]
        ++ toBytes 2 ((s.telemetry (zByte f 5)).getD []).length ++ (s.telemetry (zByte f 5)).getD [])) :=
  onFrame_accepted s _ htype hlen hacc

theorem State.telemetry_unknown (s : State) {sel : Nat} (h : 5 < sel) : s.telemetry sel = none := by
  match sel, h with
  | n + 6, _ => rfl

/-- Selector 2: the steps of the 16 clusters. -/
theorem State.telemetry_steps (s : State) :
    s.telemetry 2 = some ((List.range 16).map fun c => (s.cluster c).step.setWidth 8) := rfl

theorem execZaronUnknownFrame_dropped {f : ZFrame} (s : State)
    (h : zByte f 0 = 0 ∨ 3 < zByte f 0 ∨ f.payload.length < zLen (zByte f 0)) : execZaronUnknownFrame f s = .next s :=
  if_neg (by omega)

/-! ## MCTP control messages (19 R437) -/

/-- A command of its code is answered, with a length error or as it says. -/
theorem onMctp_completes {m : Mctp} (code len : Nat) (s t : State) (h : m.command = BitVec.ofNat 8 code) (hc : code < 256) :
    Completes (onMctp code len m s t) := by
  rw [onMctp, if_neg (by simp [h, Nat.mod_eq_of_lt hc])]
  split
  · exact ⟨_, rfl⟩
  · exact ⟨_, rfl⟩

theorem onMctp_of_length {m : Mctp} {code len : Nat} (s t : State) (h : m.command = BitVec.ofNat 8 code) (hc : code < 256)
    (hl : m.data.length = len) : onMctp code len m s t = .next t := by
  rw [onMctp, if_neg (by simp [h, Nat.mod_eq_of_lt hc]), if_neg (Decidable.not_not.2 hl)]

theorem State.mctpAnswer_eq (s : State) (m : Mctp) (cc : Byte) (data : List Byte) :
    s.mctpAnswer m cc data = { s with out := .mctp m.src ([0x00, m.inst.setWidth 8, m.command, cc] ++ data) :: s.out } := rfl

/-- Setting or forcing an ID that an endpoint may have. -/
theorem execSetEndpointId_sets {m : Mctp} (s : State) (h : m.command = 1) (hl : m.data.length = 2)
    (hop : (m.data.getD 0 0).toNat % 4 < 2) (hlo : 8 ≤ (m.data.getD 1 0).toNat) (hhi : (m.data.getD 1 0).toNat < 255) :
    execSetEndpointId m s
      = .next (({ s with eid := m.data.getD 1 0 } : State).mctpAnswer m 0x00 [0x00, m.data.getD 1 0, 0x00]) := by
  have hff : m.data.getD 1 0 ≠ 0xFF := fun e => by
    rw [e] at hhi
    exact absurd hhi (by decide)
  rw [execSetEndpointId, onMctp_of_length s _ h (by decide) hl, if_neg]
  rintro (h1 | h1 | h1)
  · omega
  · omega
  · exact hff h1

theorem execMctpUnsupportedCommand_answers {m : Mctp} (s : State) (h1 : m.command ≠ 1) (h2 : m.command ≠ 2)
    (h4 : m.command ≠ 4) (h5 : m.command ≠ 5) : execMctpUnsupportedCommand m s = .next (s.mctpAnswer m 0x05 []) := by
  refine if_neg ?_
  rintro (h | h | h | h)
  · exact h1 (BitVec.eq_of_toNat_eq h)
  · exact h2 (BitVec.eq_of_toNat_eq h)
  · exact h4 (BitVec.eq_of_toNat_eq h)
  · exact h5 (BitVec.eq_of_toNat_eq h)

/-! ## SPDM requests (19 R441) -/

section
variable {code : Nat} {m : Spdm} (s t : State) (hcode : m.code.toNat = code)
include hcode

theorem onSpdm_other_version (ok : Bool) (hv : m.version ≠ (if code = 0x84 then 0x10 else 0x13)) :
    onSpdm code m ok s t = .next ((s.spdmError m 0x41 0).spdmAnew code) := by
  rw [onSpdm, if_neg (Decidable.not_not.2 hcode), if_pos hv]

theorem onSpdm_of_version (ok : Bool) (hv : m.version = (if code = 0x84 then 0x10 else 0x13)) :
    onSpdm code m ok s t = .next ((if ok then t else s.spdmError m 0x04 0).spdmAnew code) := by
  rw [onSpdm, if_neg (Decidable.not_not.2 hcode), if_neg (Decidable.not_not.2 hv)]

end

/-- An error is the one answer, and of the exchange it leaves all but the transcript of the measurements. -/
theorem State.spdmAnew_spdmError (s : State) (m : Spdm) (code : Nat) (x : Byte) :
    (s.spdmError m x 0).spdmAnew code
      = { s with out := .spdm m.doe [0x13, 0x7F, x, 0] :: s.out
                 spdm := { s.spdm with meas := if code = 0xE0 then s.spdm.meas else [] } } := by
  rw [State.spdmAnew]
  by_cases h : code = 0xE0
  · rw [if_pos h, if_pos h]
    rfl
  · rw [if_neg h, if_neg h]
    rfl

/-- t has sent what s has, and its home memory and teams are those of s. -/
structure SameOutside (s t : State) : Prop where
  out : t.out = s.out
  home : t.home = s.home
  teams : t.teams = s.teams

/-- t is s after one answer: home memory and the teams are as before. -/
structure Answered (s t : State) : Prop where
  out : t.out.length = s.out.length + 1
  home : t.home = s.home
  teams : t.teams = s.teams

theorem Answered.emit {s t : State} {o : Out} (h : SameOutside s t) : Answered s (t.emit o) :=
  ⟨congrArg (fun l => l.length + 1) h.out, h.home, h.teams⟩

theorem Answered.spdmAnew {s t : State} (h : Answered s t) (code : Nat) : Answered s (t.spdmAnew code) := by
  rw [State.spdmAnew]
  split
  · exact h
  · exact ⟨h.out, h.home, h.teams⟩

theorem Answered.spdmError (s : State) (m : Spdm) (x y : Byte) : Answered s (s.spdmError m x y) :=
  Answered.emit ⟨rfl, rfl, rfl⟩

/-- Setting the link's key sends nothing. -/
theorem SameOutside.ideKey {s t : State} {doe : Bool} (h : SameOutside s t) : SameOutside s (t.ideKey doe) := by
  cases doe with
  | false => exact h
  | true => exact ⟨h.out, h.home, h.teams⟩

theorem execGetVersion_onSpdm (s : State) (m : Spdm) :
    ∃ t, execGetVersion m s = onSpdm 0x84 m true s t ∧ Answered s t :=
  ⟨_, rfl, Answered.emit ⟨rfl, rfl, rfl⟩⟩

theorem execGetCapabilities_onSpdm (s : State) (m : Spdm) :
    ∃ t, execGetCapabilities m s = onSpdm 0xE1 m s.spdm.version s t ∧ Answered s t :=
  ⟨_, rfl, Answered.emit ⟨rfl, rfl, rfl⟩⟩

theorem execNegotiateAlgorithms_onSpdm (s : State) (m : Spdm) :
    ∃ t, execNegotiateAlgorithms m s = onSpdm 0xE3 m s.spdm.caps s t ∧ Answered s t :=
  ⟨_, rfl, Answered.emit ⟨rfl, rfl, rfl⟩⟩

theorem execGetDigests_onSpdm (s : State) (m : Spdm) :
    ∃ t, execGetDigests m s = onSpdm 0x81 m s.spdm.algs s t ∧ Answered s t :=
  ⟨_, rfl, Answered.emit ⟨rfl, rfl, rfl⟩⟩

theorem execGetCertificate_onSpdm (s : State) (m : Spdm) :
    ∃ t, execGetCertificate m s = onSpdm 0x82 m s.spdm.algs s t ∧ Answered s t := by
  refine ⟨_, rfl, ?_⟩
  split
  · exact Answered.spdmError s m _ _
  · exact Answered.emit ⟨rfl, rfl, rfl⟩

theorem execChallenge_onSpdm (s : State) (m : Spdm) :
    ∃ t, execChallenge m s = onSpdm 0x83 m s.spdm.algs s t ∧ Answered s t := by
  refine ⟨_, rfl, ?_⟩
  split
  · exact Answered.spdmError s m _ _
  · exact Answered.emit ⟨rfl, rfl, rfl⟩

theorem execGetMeasurements_onSpdm (s : State) (m : Spdm) :
    ∃ t, execGetMeasurements m s = onSpdm 0xE0 m s.spdm.algs s t ∧ Answered s t := by
  refine ⟨_, rfl, ?_⟩
  split
  · exact Answered.emit ⟨rfl, rfl, rfl⟩
  · split
    · exact Answered.emit ⟨rfl, rfl, rfl⟩
    · split
      · exact Answered.emit ⟨rfl, rfl, rfl⟩
      · exact Answered.spdmError s m _ _

theorem execKeyExchange_onSpdm (s : State) (m : Spdm) :
    ∃ t, execKeyExchange m s = onSpdm 0xE4 m s.spdm.algs s t ∧ Answered s t := by
  refine ⟨_, rfl, ?_⟩
  split
  · exact Answered.spdmError s m _ _
  · exact Answered.emit ⟨rfl, rfl, rfl⟩

theorem execFinish_onSpdm (s : State) (m : Spdm) :
    ∃ t, execFinish m s = onSpdm 0xE5 m (s.spdm.session.isSome && !s.spdm.finished) s t ∧ Answered s t := by
  refine ⟨_, rfl, ?_⟩
  split
  · exact Answered.emit (SameOutside.ideKey ⟨rfl, rfl, rfl⟩)
  · exact Answered.emit ⟨rfl, rfl, rfl⟩

theorem execEndSession_onSpdm (s : State) (m : Spdm) :
    ∃ t, execEndSession m s = onSpdm 0xEC m (s.spdm.session.isSome && s.spdm.finished) s t ∧ Answered s t :=
  ⟨_, rfl, Answered.emit ⟨rfl, rfl, rfl⟩⟩

/-- Each request that R441 names is onSpdm of its code and its place, with one answer. -/
theorem exec_spdmOf {s : State} {m : Spdm} {code : Nat} {ok : Bool} {con : Spdm → Instr} (h : SpdmOf s (code, ok, con)) :
    ∃ t, exec (con m) s = onSpdm code m ok s t ∧ Answered s t := by
  simp only [SpdmOf, List.mem_cons, List.not_mem_nil, or_false, Prod.mk.injEq] at h
  rcases h with ⟨rfl, rfl, rfl⟩ | ⟨rfl, rfl, rfl⟩ | ⟨rfl, rfl, rfl⟩ | ⟨rfl, rfl, rfl⟩ | ⟨rfl, rfl, rfl⟩ | ⟨rfl, rfl, rfl⟩
    | ⟨rfl, rfl, rfl⟩ | ⟨rfl, rfl, rfl⟩ | ⟨rfl, rfl, rfl⟩ | ⟨rfl, rfl, rfl⟩
  · exact execGetVersion_onSpdm s m
  · exact execGetCapabilities_onSpdm s m
  · exact execNegotiateAlgorithms_onSpdm s m
  · exact execGetDigests_onSpdm s m
  · exact execGetCertificate_onSpdm s m
  · exact execChallenge_onSpdm s m
  · exact execGetMeasurements_onSpdm s m
  · exact execKeyExchange_onSpdm s m
  · exact execFinish_onSpdm s m
  · exact execEndSession_onSpdm s m

/-- The version request begins the exchange again: its transcript holds this request and its answer. -/
theorem execGetVersion_spdm {s : State} {m : Spdm} (hc : m.code = 0x84) (hv : m.version = 0x10) :
    ∃ s1, execGetVersion m s = .next s1
      ∧ s1.spdm = ⟨true, false, false, none, false, spdmReq m ++ [0x10, 0x04, 0, 0, 0, 1, 0x00, 0x13], [], []⟩ :=
  ⟨_, onSpdm_of_version s _ (congrArg BitVec.toNat hc) true hv, rfl⟩

/-- With index 0 the number of the measurements is answered, in the first parameter of the answer. -/
theorem execGetMeasurements_number {s : State} {m : Spdm} (hc : m.code = 0xE0) (hv : m.version = 0x13)
    (halgs : s.spdm.algs = true) (hp2 : m.param2 = 0) (hp1 : m.param1.getLsbD 0 = false) :
    ∃ s1 rest, execGetMeasurements m s = .next s1
      ∧ s1.out = .spdm m.doe ([0x13, 0x60, 18, 0, 0, 0, 0, 0] ++ rest) :: s.out := by
  have hop : m.param2.toNat = 0 := congrArg BitVec.toNat hp2
  refine ⟨_, Config.spdmBytes s.free 3, onSpdm_of_version s _ (congrArg BitVec.toNat hc) _ hv, ?_⟩
  simp only [halgs, if_true, hop, hp1]
  rfl

theorem execEndSession_ends {s : State} {m : Spdm} (hc : m.code = 0xEC) (hv : m.version = 0x13)
    (hs : s.spdm.session.isSome = true) (hf : s.spdm.finished = true) :
    ∃ s1, execEndSession m s = .next s1 ∧ s1.spdm.session = none := by
  refine ⟨_, onSpdm_of_version s _ (congrArg BitVec.toNat hc) _ hv, ?_⟩
  rw [hs, hf]
  rfl

theorem execSpdmUnsupportedRequest_answers {s : State} {m : Spdm} (h : m.code.toNat ∉ spdmKnown) :
    execSpdmUnsupportedRequest m s = .next (s.spdmError m 0x07 m.code) :=
  if_neg (by simpa using h)

/-! ## The obligation, part by part -/

theorem zaronReefFrame_answers {f : ZFrame} (s : State) (hacc : zAccepts f = true) (htype : zByte f 0 = 1)
    (hlen : 21 ≤ f.payload.length) (ans : Byte → Out)
    (hans : ∀ st, ans st = Out.zaron ⟨f.src, ownStation, 0x81#8 :: (toBytes 4 (zSeq f).toNat ++ [st])⟩) :
    (seqAfter s.reefSeq (zSeq f) = false → exec (.zaronReefFrame f) s = .next { s with out := ans 2 :: s.out })
    ∧ (seqAfter s.reefSeq (zSeq f) = true → (∃ k < 16, 15 < zByte f (5 + k)) →
      exec (.zaronReefFrame f) s = .next { s with out := ans 1 :: s.out })
    ∧ (seqAfter s.reefSeq (zSeq f) = true → (∀ k < 16, zByte f (5 + k) ≤ 15) →
      ∃ s1, exec (.zaronReefFrame f) s = .next s1 ∧ s1.reefSeq = some (zSeq f) ∧ s1.out = ans 0 :: s.out
        ∧ (∀ k < 16, s1.reefLevels.getD k 0 = zByte f (5 + k)) ∧ ∀ n < 16, (s1.cluster n).step = BitVec.ofNat 6 (s1.stepFor n)) := by
  obtain rfl : ans = _ := funext hans
  refine ⟨execZaronReefFrame_stale s hacc htype hlen, execZaronReefFrame_level_above s hacc htype hlen, fun hseq hk => ?_⟩
  refine ⟨_, execZaronReefFrame_applied s hacc htype hlen hseq hk, ?_, ?_, fun k h => ?_, fun n hn => ?_⟩
  · rw [State.zAnswer, State.emit_reefSeq, State.reef_reefSeq]
  · rw [State.zAnswer_eq, State.reef_out]
  · rw [State.zAnswer, State.emit_reefLevels, State.reef_reefLevels, reefLevelsOf_getD f k h]
  · rw [State.zAnswer, State.cluster_emit, State.stepFor_emit, State.step_reef s _ _ n hn]

theorem zaronPathUpdate_answers {f : ZFrame} (s : State) (hacc : zAccepts f = true) (htype : zByte f 0 = 2)
    (hlen : 71 ≤ f.payload.length) (ans : Byte → Out)
    (hans : ∀ st, ans st = .zaron ⟨f.src, ownStation, 0x82#8 :: (toBytes 4 (zSeq f).toNat ++ st :: toBytes 2 (pathDst f))⟩) :
    (seqAfter s.pathSeq (zSeq f) = false → exec (.zaronPathUpdate f) s = .next { s with out := ans 3 :: s.out })
    ∧ (seqAfter s.pathSeq (zSeq f) = true → 4095 < pathDst f →
      exec (.zaronPathUpdate f) s = .next { s with out := ans 2 :: s.out })
    ∧ (seqAfter s.pathSeq (zSeq f) = true → pathDst f ≤ 4095 →
      ((∃ e ∈ pathEntries f, pathOk e = false) ∨ ∃ b ∈ f.payload.drop 71, b ≠ 0) →
      exec (.zaronPathUpdate f) s = .next { s with out := ans 1 :: s.out })
    ∧ (seqAfter s.pathSeq (zSeq f) = true → pathDst f ≤ 4095 → (∀ e ∈ pathEntries f, pathOk e = true) →
      (∀ b ∈ f.payload.drop 71, b = 0) → exec (.zaronPathUpdate f) s
        = .next { s with pathUpds := s.pathUpds ++ [⟨zSeq f, f.src, pathDst f, (pathEntries f).map (BitVec.ofNat 64)⟩] }) := by
  obtain rfl : ans = _ := funext hans
  exact ⟨execZaronPathUpdate_stale s hacc htype hlen, execZaronPathUpdate_no_destination s hacc htype hlen,
    execZaronPathUpdate_rule_broken s hacc htype hlen, execZaronPathUpdate_accepted s hacc htype hlen⟩

theorem pathUpdateApply_answers (s : State) (u : PathUpd) (rest : List PathUpd) (hu : s.pathUpds = u :: rest)
    (hw : s.awaits u.dst = false) : ∃ s1, exec .pathUpdateApply s = .next s1 ∧ s1.pathUpds = rest
      ∧ s1.pathSeq = (if seqAfter s.pathSeq u.seq = true then some u.seq else s.pathSeq)
      ∧ (∀ k < 8, s1.pathEntry u.dst k = (u.entries.getD k 0).toNat)
      ∧ (∀ d k, d ≠ u.dst → k < 8 → s1.pathEntry d k = s.pathEntry d k)
      ∧ s1.out = .zaron ⟨u.src, ownStation, 0x82#8 :: (toBytes 4 u.seq.toNat ++ 0#8 :: toBytes 2 u.dst)⟩ :: s.out := by
  refine ⟨_, execPathUpdateApply_head s hu hw, rfl, rfl, fun k hk => ?_, fun d k hd hk => ?_, rfl⟩
  · exact (s.pathEntry_pathApplied u rest u.dst k hk).trans (if_pos rfl)
  · exact (s.pathEntry_pathApplied u rest d k hk).trans (if_neg hd)

theorem zaronTelemetryRequest_answers {f : ZFrame} (s : State) (hacc : zAccepts f = true) (htype : zByte f 0 = 3)
    (hlen : 6 ≤ f.payload.length) :
    ∃ bs, exec (.zaronTelemetryRequest f) s
        = .next { s with out := .zaron ⟨f.src, ownStation, 0x83#8 :: (toBytes 4 (zSeq f).toNat ++ bs)⟩ :: s.out }
      ∧ (5 < zByte f 5 → bs = [BitVec.ofNat 8 (zByte f 5), 1, 0, 0])
      ∧ (zByte f 5 = 2 → bs = [2, 0, 16, 0] ++ (List.range 16).map (fun c => (s.cluster c).step.setWidth 8)) := by
  refine ⟨_, execZaronTelemetryRequest_accepted s hacc htype hlen, fun h => ?_, fun h => ?_⟩
  · rw [s.telemetry_unknown h]
    rfl
  · rw [h, State.telemetry_steps, Option.getD_some, List.length_map, List.length_range]
    rfl

theorem zaronFrames : ZaronFrames := by
  intro s f
  refine ⟨fun hno => ⟨fun ht hl => ?_, fun ht hl => ?_, fun ht hl => ?_⟩, fun hacc ht hl => zaronReefFrame_answers s hacc ht hl,
    fun hacc ht hl dst hdst es hes => ?_, pathUpdateApply_answers s, zaronTelemetryRequest_answers s,
    execZaronUnknownFrame_dropped s⟩
  · exact onFrame_for_another s _ ht hl hno
  · exact onFrame_for_another s _ ht hl hno
  · exact onFrame_for_another s _ ht hl hno
  · subst hdst hes
    exact zaronPathUpdate_answers s hacc ht hl

theorem mctpMessages : MctpMessages := by
  intro s m
  refine ⟨fun h => onMctp_completes 1 2 s _ h (by decide), fun h => onMctp_completes 2 0 s _ h (by decide),
    fun h => onMctp_completes 4 1 s _ h (by decide), fun h => onMctp_completes 5 0 s _ h (by decide),
    fun h hl hop hlo hhi => ⟨_, execSetEndpointId_sets s h hl hop hlo hhi, rfl⟩, fun h hd => ?_, fun h hd => ?_,
    execMctpUnsupportedCommand_answers s⟩
  · refine ⟨_, onMctp_of_length s _ h (by decide) (List.length_eq_zero_iff.2 hd), rfl, ?_⟩
    rw [State.mctpAnswer_eq, h]
    rfl
  · rw [exec_getMessageTypeSupport, execGetMessageTypeSupport,
      onMctp_of_length s _ h (by decide) (List.length_eq_zero_iff.2 hd), State.mctpAnswer_eq, h]
    rfl

theorem spdmRequests : SpdmRequests := by
  intro s m
  refine ⟨fun code ok con hof hcode err herr => ?_, fun hc hv => ?_, execGetMeasurements_number, execEndSession_ends,
    fun h => ⟨_, execSpdmUnsupportedRequest_answers h⟩⟩
  · obtain ⟨t, hexec, ht⟩ := exec_spdmOf (m := m) hof
    rw [hexec, herr, herr, ← State.spdmAnew_spdmError, ← State.spdmAnew_spdmError]
    refine ⟨onSpdm_other_version s t hcode ok, fun hv hok => ?_, fun hv hok => ?_⟩
    · obtain ⟨hout, hhome, hteams⟩ := ht.spdmAnew code
      subst hok
      exact ⟨_, onSpdm_of_version s t hcode true hv, hout, hhome, hteams⟩
    · subst hok
      exact onSpdm_of_version s t hcode false hv
  · obtain ⟨s1, hexec, hspdm⟩ := execGetVersion_spdm (s := s) hc hv
    exact ⟨s1, _, hexec, hspdm, rfl⟩

/-- Settles O59: frames, control messages and SPDM requests, each by the lemma of the way in which it is answered. -/
theorem management : Obligations.Management := ⟨zaronFrames, mctpMessages, spdmRequests⟩

end Sys2Proof.Machine
end

section
/-!
Messages and records that waited (03 R70, R73, 07 R166, R180, 19 R433, 25 R453): what each move of a context's messages, of a
cluster's event queue and of a notice ring does where it may take place.
-/
namespace Sys2Proof.Machine

/-! ## The brine queue (03 R70, R73) -/

/-- The head of the brine queue as it enters its receive queue: a patience that ends in this cycle is over. -/
def Msg.shown (m : Msg) (rclk : W64) : Msg :=
  match m.overdue rclk with
  | some n => if n < 512 then { m with patience := 0 } else m
  | none => m

/-- A context whose head message has moved from the brine queue to its receive queue. -/
def Context.withShown (x : Context) (m m1 : Msg) : Context :=
  { x with brine := x.brine.drop 1, recvq := SMap.set [] x.recvq m.ep (SMap.get [] x.recvq m.ep ++ [m1]) }

theorem State.showMsg_eq (s : State) (p c : Nat) (m : Msg) :
    s.showMsg p c m = s.modCtx p c fun x => x.withShown m (m.shown s.rclk) := rfl

/-- Nothing of a message that becomes visible changes but its patience. -/
theorem Msg.shown_eq (m : Msg) (rclk : W64) : ∃ n, m.shown rclk = { m with patience := n } := by
  unfold Msg.shown
  split
  · split
    · exact ⟨0, rfl⟩
    · exact ⟨m.patience, rfl⟩
  · exact ⟨m.patience, rfl⟩

theorem execBrineVisible_of_due {s : State} {p c : Nat} {m : Msg} (h : s.brineDue p c = some m) :
    execBrineVisible p c s = .next (s.showMsg p c m) := by
  rw [execBrineVisible, h]

/-! ## Patience (03 R70) -/

theorem Msg.overdue_of_le {m : Msg} {rclk : W64} (hp : m.patience ≠ 0) (h : 65536 * m.patience ≤ (rclk - m.born).toNat) :
    m.overdue rclk = some ((rclk - m.born).toNat - 65536 * m.patience) :=
  if_pos ⟨hp, h⟩

theorem execPatienceExpiry_of_overdue {s : State} {p c ident : Nat} {m : Msg}
    (hm : (s.ctx p c).allMsgs.find? (fun m => m.ident.toNat == ident && m.patience != 0) = some m)
    (hlate : 65536 * m.patience ≤ (s.rclk - m.born).toNat) (hdue : s.brineDue p c = none) :
    execPatienceExpiry p c ident s = .next (s.expire p c m) := by
  have hp : m.patience ≠ 0 := by
    have h := List.find?_some hm
    simp only [Bool.and_eq_true, bne_iff_ne] at h
    exact h.2
  simp only [execPatienceExpiry, hm, hdue, Msg.overdue_of_le hp hlate]
  rfl

/-! ## Slots held for a mailbox (19 R433, 25 R453) -/

@[simp] theorem State.ctx_mailPut (s : State) (base w0 : Nat) (body : List Byte) (p c : Nat) :
    (s.mailPut base w0 body).ctx p c = s.ctx p c := by
  simp [State.mailPut]

/-- The oldest held slot whose mailbox has room is owed, whatever is held before it. -/
theorem State.owedSlot_of_first {s : State} {p c i : Nat} {d : Deferred} (hd : (s.ctx p c).deferred[i]? = some d)
    (hfree : s.mailFree d.ep = true) (hbefore : ∀ j < i, ∀ e, (s.ctx p c).deferred[j]? = some e → s.mailFree e.ep = false) :
    s.owedSlot p c = some (i, d) := by
  obtain ⟨hi, rfl⟩ := List.getElem?_eq_some_iff.1 hd
  have hfind : (s.ctx p c).deferred.zipIdx.find? (fun x => s.mailFree x.1.ep) = some ((s.ctx p c).deferred[i], i) := by
    refine List.find?_eq_some_iff_getElem.2 ⟨hfree, i, by simpa using hi, by simp, fun j hj => ?_⟩
    have hfull := hbefore j hj _ (List.getElem?_eq_getElem (by omega))
    simpa using hfull
  rw [State.owedSlot, hfind]
  rfl

theorem State.owedSlot_eq_none {s : State} {p c : Nat} (h : ∀ d ∈ (s.ctx p c).deferred, s.mailFree d.ep = false) :
    s.owedSlot p c = none := by
  rw [State.owedSlot, Option.map_eq_none_iff, List.find?_eq_none]
  intro x hx
  rw [h x.1 (List.fst_mem_of_mem_zipIdx hx)]
  exact Bool.false_ne_true

theorem State.deferred_flushMail_one {s : State} {p c i : Nat} {d : Deferred} (h : s.owedSlot p c = some (i, d)) :
    ((s.flushMail p c 1).ctx p c).deferred = (s.ctx p c).deferred.eraseIdx i := by
  simp [State.flushMail, h]

theorem execStandinDeferredWrite_of_owed {s : State} {p c : Nat} {x : Nat × Deferred} (h : s.owedSlot p c = some x) :
    execStandinDeferredWrite p c s = .next (s.flushMail p c 1) := by
  rw [execStandinDeferredWrite, h]

theorem execStandinDeferredWrite_of_none {s : State} {p c : Nat} (h : s.owedSlot p c = none) :
    execStandinDeferredWrite p c s = .fault .notEnabled := by
  rw [execStandinDeferredWrite, h]

/-! ## The host's records (19 R433) -/

theorem execEppostWrite_completes (p : Nat) (addr : W64) (s : State) : Completes (execEppostWrite p addr s) := by
  unfold execEppostWrite
  dsimp only
  split
  · exact ⟨_, rfl⟩
  · split <;> exact ⟨_, rfl⟩

theorem execEppostWrite_no_context {s : State} {p : Nat} {addr : W64}
    (h : (s.ctx p (bits (s.hostWord addr.toNat) 37 32)).valid = false) :
    execEppostWrite p addr s = .next (s.hostAnswer addr.toNat 4 0) := by
  simp [execEppostWrite, h]

/-! ## The event queue of a cluster (07 R164, R166) -/

@[simp] theorem State.core_pushEv (s : State) (core kind : Nat) (w1 w2 w3 : W64) (k : Nat) :
    (s.pushEv core kind w1 w2 w3).core k = s.core k := rfl

theorem State.evq_pushEv (s : State) (core kind : Nat) (w1 w2 w3 : W64) :
    ∃ w0, ((s.pushEv core kind w1 w2 w3).cluster (clusterOf core)).evq
        = (s.cluster (clusterOf core)).evq ++ [⟨w0, w1, w2, w3⟩] ∧ bits w0.toNat 7 0 = kind % 256 := by
  refine ⟨_, by simp only [State.pushEv, State.cluster_setCluster, if_true]; rfl, ?_⟩
  simp only [bits, BitVec.toNat_ofNat]
  omega

theorem State.evCount_pushEv (s : State) (core kind : Nat) (w1 w2 w3 : W64) :
    (s.pushEv core kind w1 w2 w3).evCount core = s.evCount core + 1 := by
  obtain ⟨w0, hevq, -⟩ := s.evq_pushEv core kind w1 w2 w3
  rw [State.evCount, hevq, List.length_append]
  rfl

theorem clusterOf_mast (n : Nat) : clusterOf (192 + n) = n := by
  rw [clusterOf, if_neg (by omega), Nat.add_sub_cancel_left]

/-- The state in which the first record that a core's engines hold is posted. -/
def State.heldPosted (s : State) (core : Nat) (h : HeldRec) (rest : List HeldRec) : State :=
  ((s.modCore core fun c => { c with held := rest }).pushEv core (h.ev.w0.toNat % 256) h.ev.w1 h.ev.w2 h.ev.w3).endOp h.tid h.g
    h.opId

theorem execEvqHeldRecordPost_posts {s : State} {core : Nat} {h : HeldRec} {rest : List HeldRec}
    (hheld : (s.core core).held = h :: rest) (hroom : s.evCount core < 256) :
    execEvqHeldRecordPost core s = .next (s.heldPosted core h rest) := by
  simp only [execEvqHeldRecordPost, hheld]
  exact if_neg (by omega)

theorem State.held_heldPosted (s : State) (core : Nat) (h : HeldRec) (rest : List HeldRec) :
    ((s.heldPosted core h rest).core core).held = rest := by
  simp [State.heldPosted]

theorem State.evCount_heldPosted (s : State) (core : Nat) (h : HeldRec) (rest : List HeldRec) :
    (s.heldPosted core h rest).evCount core = s.evCount core + 1 := by
  rw [State.heldPosted, State.evCount, State.cluster_endOp]
  exact State.evCount_pushEv _ core _ _ _ _

/-- The state in which the records that a cluster has lost are posted as one record. -/
def State.lostPosted (s : State) (n : Nat) : State :=
  let s1 := s.pushEv (192 + n) 6 (BitVec.ofNat 64 (s.cluster n).lostPend) 0 0
  { s1.modCluster n fun x => { x with lostPend := 0 } with free := s1.free + 1 }

theorem execRecordsLostPost_posts {s : State} {n : Nat} (hn : n < 16) (hlost : (s.cluster n).lostPend ≠ 0)
    (hroom : (s.cluster n).evq.length < 256) : execRecordsLostPost n s = .next (s.lostPosted n) :=
  if_neg (by omega)

theorem State.cluster_lostPosted (s : State) (n : Nat) :
    (s.lostPosted n).cluster n
      = { (s.pushEv (192 + n) 6 (BitVec.ofNat 64 (s.cluster n).lostPend) 0 0).cluster n with lostPend := 0 } :=
  (State.cluster_modCluster (s.pushEv (192 + n) 6 (BitVec.ofNat 64 (s.cluster n).lostPend) 0 0) n n
    fun x => { x with lostPend := 0 }).trans (if_pos rfl)

/-! ## The notice ring (07 R180) -/

@[simp] theorem State.part_pushNotice (s : State) (p kind status w1 w2 w3 q : Nat) :
    (s.pushNotice p kind status w1 w2 w3).part q = s.part q := by
  simp [State.pushNotice]

theorem execNoticesLostPost_posts {s : State} {p : Nat} (hlost : (s.part p).noticeLost ≠ 0) (hroom : s.noticeRoom p ≠ 0) :
    execNoticesLostPost p s
      = .next ((s.modPart p fun q => { q with noticeLost := 0 }).pushNotice p 6 0 (s.part p).noticeLost 0 0) :=
  if_neg (by omega)

/-- Settles O55: each move by the lemma of the case in which it takes place. -/
theorem messagesAndRecords : Obligations.MessagesAndRecords := by
  intro s
  refine ⟨fun p c m hdue => ?_, fun p c ident m hm hlate hdue => ⟨_, execPatienceExpiry_of_overdue hm hlate hdue⟩,
    fun p c i d hd hfree hbefore => ?_, fun p c hfull => execStandinDeferredWrite_of_none (State.owedSlot_eq_none hfull),
    fun p addr => ⟨execEppostWrite_completes p addr s, execEppostWrite_no_context⟩, fun core h rest hheld hroom => ?_,
    fun n hn hlost hroom => ?_, fun p hlost hroom => ?_⟩
  · obtain ⟨n, hshown⟩ := m.shown_eq s.rclk
    refine ⟨_, m.shown s.rclk, execBrineVisible_of_due hdue, rfl, ?_, ?_, ?_⟩
    · simp [State.showMsg_eq, Context.withShown]
    · simp [State.showMsg_eq, Context.withShown]
    · simp [hshown]
  · have howed := State.owedSlot_of_first hd hfree hbefore
    exact ⟨_, execStandinDeferredWrite_of_owed howed, State.deferred_flushMail_one howed⟩
  · exact ⟨_, execEvqHeldRecordPost_posts hheld hroom, s.held_heldPosted core h rest, s.evCount_heldPosted core h rest⟩
  · obtain ⟨w, hevq, hkind⟩ := s.evq_pushEv (192 + n) 6 (BitVec.ofNat 64 (s.cluster n).lostPend) 0 0
    rw [clusterOf_mast] at hevq
    refine ⟨_, w, execRecordsLostPost_posts hn hlost hroom, ?_, ?_, hkind⟩
    · rw [State.cluster_lostPosted]
    · rw [State.cluster_lostPosted]
      exact hevq
  · refine ⟨_, execNoticesLostPost_posts hlost hroom, ?_, rfl⟩
    simp

end Sys2Proof.Machine
end

section
/-!
Stop intervals (03 R59, R60, 02 R48, R49, 10 R242, 25 R451): what no move of a context's coming back changes, the contexts and
the clock; how an interval opens and closes; then each move by the lemma of the case in which it takes place.
-/
namespace Sys2Proof.Machine

/-! ## The contexts and the clock -/

/-- Every context is as it was, and RCLK: so is every context's virtual clock. -/
def SameTime (s t : State) : Prop := t.rclk = s.rclk ∧ ∀ p c, t.ctx p c = s.ctx p c

namespace SameTime

theorem refl (s : State) : SameTime s s := ⟨rfl, fun _ _ => rfl⟩

theorem trans {s t u : State} (h : SameTime s t) (h' : SameTime t u) : SameTime s u :=
  ⟨h'.1.trans h.1, fun p c => (h'.2 p c).trans (h.2 p c)⟩

theorem foldl {α : Type} {f : State → α → State} (hf : ∀ s a, SameTime s (f s a)) (xs : List α) (s : State) :
    SameTime s (xs.foldl f s) :=
  foldl_keep (SameTime s) f (fun x a h => h.trans (hf x a)) xs s (refl s)

theorem ite {P : Prop} [Decidable P] {s t u : State} (ht : SameTime s t) (hu : SameTime s u) :
    SameTime s (if P then t else u) := by
  split
  · exact ht
  · exact hu

theorem modTeam (s : State) (tid : Nat) (f : Team → Team) : SameTime s (s.modTeam tid f) := by
  simp [SameTime]

theorem modGroup (s : State) (tid g : Nat) (f : Group → Group) : SameTime s (s.modGroup tid g f) := by
  simp [SameTime]

theorem modCore (s : State) (k : Nat) (f : Core → Core) : SameTime s (s.modCore k f) := by
  simp [SameTime]

theorem modCluster (s : State) (n : Nat) (f : Cluster → Cluster) : SameTime s (s.modCluster n f) := by
  simp [SameTime]

theorem modPart (s : State) (p : Nat) {f : Partition → Partition} (hf : ∀ q, (f q).ctxs = q.ctxs) :
    SameTime s (s.modPart p f) := by
  refine ⟨rfl, fun q c => ?_⟩
  rw [State.ctx, State.part_modPart]
  split
  · rw [hf]
    rfl
  · rfl

theorem hostWrite (s : State) (a : Nat) (bs : List Byte) : SameTime s (s.hostWrite a bs) := ⟨rfl, fun _ _ => rfl⟩

theorem count (s : State) (core event n : Nat) : SameTime s (s.count core event n) := by
  simp [SameTime]

theorem pushEv (s : State) (core kind : Nat) (w1 w2 w3 : W64) : SameTime s (s.pushEv core kind w1 w2 w3) :=
  ⟨rfl, fun _ _ => rfl⟩

theorem postOrLose (s : State) (core kind : Nat) (w1 w2 w3 : W64) : SameTime s (s.postOrLose core kind w1 w2 w3) :=
  .ite (pushEv s core kind w1 w2 w3) (modCluster s _ _)

theorem postNotice (s : State) (p kind status w1 w2 w3 : Nat) : SameTime s (s.postNotice p kind status w1 w2 w3) :=
  .ite (modPart s p fun _ => rfl) ((hostWrite s _ _).trans (hostWrite _ _ _))

theorem postError (s : State) (core part kind addr pa : Nat) (wb : Bool) :
    SameTime s (s.postError core part kind addr pa wb) :=
  (postOrLose s core 4 _ _ _).trans (postNotice _ part 4 kind pa 0 0)

theorem checkRead (s : State) (part stack kind lo n : Nat) : SameTime s (s.checkRead part stack kind lo n).1 := by
  unfold State.checkRead
  split
  · exact refl s
  · split
    · exact refl s
    · dsimp only
      split
      · exact .ite ⟨rfl, fun _ _ => rfl⟩ ⟨rfl, fun _ _ => rfl⟩
      · exact ⟨rfl, fun _ _ => rfl⟩

theorem imageWrite (s : State) (t : Team) (va : Nat) (bs : List Byte) : SameTime s (s.imageWrite t va bs) := by
  unfold State.imageWrite
  split
  · simp [SameTime]
  · exact refl s

theorem lineOut_write (r : LineOut) (t : Team) (base : Nat) (x : Nat × List Byte) : SameTime r.s (r.write t base x).s := by
  have hread := checkRead r.s t.part (clusterOf t.core / 4) 4 (base + 128 * (x.1 / 128)) 128
  simp only [LineOut.write]
  split
  · exact refl r.s
  · split
    · dsimp only
      exact imageWrite r.s t (base + x.1) x.2
    · split
      · dsimp only
        exact hread.trans (postError ..)
      · dsimp only
        exact hread.trans (imageWrite ..)

theorem writeLines (s : State) (t : Team) (base : Nat) (ps : List (Nat × List Byte)) :
    SameTime s (s.writeLines t base ps).s :=
  foldl_keep (fun r : LineOut => SameTime s r.s) _ (fun r x h => h.trans (lineOut_write r t base x)) ps _ (refl s)

/-! ### Room in the register caches (25 R451) -/

theorem evict (s : State) (v : Line) : SameTime s (s.evict v).1 := by
  obtain ⟨tid, g, line⟩ := v
  unfold State.evict
  split
  · exact refl s
  · next t _ =>
    cases g with
    | none =>
      dsimp only
      rw [apply_ite Prod.fst]
      exact .ite (writeLines s t _ _) ((writeLines s t _ _).trans ((count _ t.core 5 1).trans (modTeam _ _ _)))
    | some i =>
      dsimp only
      rw [apply_ite Prod.fst]
      exact .ite (writeLines s t _ _) ((writeLines s t _ _).trans ((count _ t.core 5 1).trans (modGroup _ _ _ _)))

theorem evictSome (core n : Nat) (vs : List Line) (s : State) : SameTime s (State.evictSome core n vs s) := by
  induction vs generalizing s with
  | nil => exact refl s
  | cons v vs ih => exact .ite (refl s) ((evict s v).trans (ih _))

theorem makeRoom (s : State) (core n : Nat) : SameTime s (s.makeRoom core n) :=
  .ite (refl s) (SameTime.trans (t := s.drawChoice.2) ⟨rfl, fun _ _ => rfl⟩ (evictSome _ _ _ _))

/-! ### Teams that come back (05 R115, 06 R146, 09 R219) -/

theorem rindRead (s : State) (p cl : Nat) : SameTime s (s.rindRead p cl) :=
  .ite ((checkRead s ..).trans (postError _ ..)) (checkRead s ..)

theorem unpark (s : State) (tid : Nat) (t : Team) : SameTime s (s.unpark tid t) := by
  unfold State.unpark
  exact (SameTime.ite (modCluster s _ _) (refl s)).trans ((SameTime.ite (refl _) (modCore _ _ _)).trans (modTeam _ _ _))

theorem wake (s : State) (p c : Nat) : SameTime s (s.wake p c) := by
  have hread : SameTime s ((s.ctxClusters p c).foldl (fun (x : State) k => x.rindRead p k) s) :=
    foldl (fun x k => rindRead x p k) _ s
  have hback (x : State) (es : List (Nat × Team)) :
      SameTime x (es.foldl (fun (y : State) e => if e.2.saved then y.unpark e.1 e.2 else y) x) :=
    foldl (fun y e => .ite (unpark y e.1 e.2) (refl y)) es x
  have hdrop (x : State) (ks : List Nat) : SameTime x (ks.foldl (fun (y : State) k => y.modCore k Core.dropClean) x) :=
    foldl (fun y k => modCore y k Core.dropClean) ks x
  exact hread.trans ((hback _ _).trans (hdrop _ _))

theorem pmIn (s : State) (ks : List Nat) (fresh : Bool) : SameTime s (s.pmIn ks fresh) := by
  refine foldl (fun x k => ?_) ks s
  split
  · exact (modCore _ _ _).trans (modPart _ _ fun _ => rfl)
  · exact .ite (modCore _ _ _) (refl x)

end SameTime

/-! ## An interval opens (03 R59) -/

/-- The interval that opens at the value the virtual clock has. -/
def State.openedStop (s : State) (p c : Nat) (why : StopWhy) : Stop := ⟨s.vclk p c, s.rclk, [why], false, false, []⟩

theorem State.stop_openStop {s : State} {p c : Nat} (why : StopWhy) (h : (s.ctx p c).stop = none) :
    ((s.openStop p c why).ctx p c).stop = some (s.openedStop p c why) := by
  simp [State.openStop, h, State.openedStop]

theorem State.vclk_of_stop {s : State} {p c : Nat} {st : Stop} (h : (s.ctx p c).stop = some st) : s.vclk p c = st.s := by
  rw [State.vclk, vclkOf, h]

theorem State.vclk_of_no_stop {s : State} {p c : Nat} (h : (s.ctx p c).stop = none) :
    s.vclk p c = s.rclk - (s.ctx p c).stopsum - (s.ctx p c).created := by
  rw [State.vclk, vclkOf, h]

/-- The interval is open then, whether it opens now or was open for another reason. -/
theorem State.stopped_openStop (s : State) (p c : Nat) (why : StopWhy) : (s.openStop p c why).stopped p c = true := by
  simp only [State.stopped, State.openStop, State.ctx_modCtx, and_self, if_true]
  split
  · rfl
  · split <;> rfl

@[simp] theorem State.team?_openStop (s : State) (p c : Nat) (why : StopWhy) (tid : Nat) :
    (s.openStop p c why).team? tid = s.team? tid := rfl

theorem State.stopsFor_of_stop {s : State} {p c : Nat} {st : Stop} (h : (s.ctx p c).stop = some st) (why : StopWhy) :
    s.stopsFor p c why = st.why.contains why := by
  rw [State.stopsFor, h]

theorem State.stopsFor_of_no_stop {s : State} {p c : Nat} (h : (s.ctx p c).stop = none) (why : StopWhy) :
    s.stopsFor p c why = false := by
  rw [State.stopsFor, h]

theorem State.noWhy_of_stop {s : State} {p c : Nat} {st : Stop} (h : (s.ctx p c).stop = some st) :
    s.noWhy p c = st.why.isEmpty := by
  rw [State.noWhy, h]

/-- An interval that is open for a reason has one left. -/
theorem State.noWhy_of_stopsFor {s : State} {p c : Nat} {why : StopWhy} (h : s.stopsFor p c why = true) :
    s.noWhy p c = false := by
  cases hst : (s.ctx p c).stop with
  | none => rw [State.noWhy, hst]
  | some st =>
    rw [State.stopsFor_of_stop hst, List.contains_iff_mem] at h
    rw [State.noWhy_of_stop hst, List.isEmpty_eq_false_iff]
    exact List.ne_nil_of_mem h

/-! ## An interval closes (03 R59, R73) -/

/-- Messages that become visible change nothing of a context's clock. -/
theorem State.showDue_clock (s : State) (p c n : Nat) :
    (s.showDue p c n).rclk = s.rclk ∧ ((s.showDue p c n).ctx p c).stop = (s.ctx p c).stop
      ∧ ((s.showDue p c n).ctx p c).stopsum = (s.ctx p c).stopsum
      ∧ ((s.showDue p c n).ctx p c).created = (s.ctx p c).created := by
  induction n generalizing s with
  | zero => exact ⟨rfl, rfl, rfl, rfl⟩
  | succ n ih =>
    rw [State.showDue]
    split
    · exact ⟨rfl, rfl, rfl, rfl⟩
    · next m _ =>
      obtain ⟨hrclk, hstop, hsum, hcreated⟩ := ih (s.showMsg p c m)
      simp only [hrclk, hstop, hsum, hcreated]
      simp [State.showMsg_eq, Context.withShown]

/-- The stop interval of a context has closed: virtual time goes on from the stop value. -/
def StopClosed (s t : State) (p c : Nat) (st : Stop) : Prop :=
  t.rclk = s.rclk ∧ (t.ctx p c).stop = none ∧ (t.ctx p c).stopsum = (s.ctx p c).stopsum + (s.rclk - st.opened)
    ∧ (t.ctx p c).created = (s.ctx p c).created

theorem State.closeStop_closed {s : State} {p c : Nat} {st : Stop} (h : (s.ctx p c).stop = some st) :
    StopClosed s (s.closeStop p c) p c st := by
  obtain ⟨hrclk, hstop, hsum, hcreated⟩ := (s.closeNow p c).showDue_clock p c ((s.closeNow p c).ctx p c).brine.length
  simp only [StopClosed, State.closeStop, hrclk, hstop, hsum, hcreated]
  simp [State.closeNow, h]

theorem StopClosed.vclk {s t : State} {p c : Nat} {st : Stop} (h : StopClosed s t p c st) :
    t.vclk p c = st.opened - (s.ctx p c).stopsum - (s.ctx p c).created := by
  obtain ⟨hrclk, hstop, hsum, hcreated⟩ := h
  rw [State.vclk_of_no_stop hstop, hrclk, hsum, hcreated]
  bv_omega

/-- The interval has closed, or some cores go on before the last and it is still open, for no reason, at its stop value. -/
def StopResumes (s t : State) (p c : Nat) (st : Stop) : Prop :=
  StopClosed s t p c st ∨ ∃ st1, (t.ctx p c).stop = some st1 ∧ st1.why = [] ∧ st1.s = st.s ∧ st1.opened = st.opened

theorem StopResumes.of_same {s t : State} {p c : Nat} {st : Stop} (h : SameTime s t) (hst : (s.ctx p c).stop = some st)
    (hwhy : st.why = []) : StopResumes s t p c st :=
  .inr ⟨st, (h.2 p c).symm ▸ hst, hwhy, rfl, rfl⟩

theorem State.stop_resumed (s : State) (p c : Nat) (ks : List Nat) :
    ((s.modCtx p c fun x => { x with stop := x.stop.map fun st => { st with resumed := ks } }).ctx p c).stop
      = (s.ctx p c).stop.map fun st => { st with resumed := ks } := by
  simp

section
variable {s : State} {p c : Nat} {st : Stop} (hst : (s.ctx p c).stop = some st) (hwhy : st.why = [])
include hst hwhy

theorem State.resume_resumes (atOnce : Bool) : StopResumes s (s.resume p c atOnce) p c st := by
  unfold State.resume
  dsimp only
  split
  · exact .inl (State.closeStop_closed hst)
  · split
    · exact .inl (State.closeStop_closed (s := s.drawChoice.2) hst)
    · exact .inr ⟨_, (State.stop_resumed s.drawChoice.2 p c _).trans (congrArg _ hst), hwhy, rfl, rfl⟩

theorem SameTime.resume_resumes {t : State} (h : SameTime s t) (atOnce : Bool) : StopResumes s (t.resume p c atOnce) p c st := by
  obtain ⟨hrclk, hctx⟩ := h
  have hresumes := State.resume_resumes ((hctx p c).symm ▸ hst) hwhy atOnce
  rwa [StopResumes, StopClosed, hrclk, hctx] at hresumes

theorem State.comeBack_resumes (atOnce : Bool) : StopResumes s (s.comeBack p c atOnce) p c st := by
  have hroom : SameTime s ((s.ctxCores p c).foldl (fun (x : State) k => x.makeRoom k (x.backPins p c k)) s) :=
    .foldl (fun x k => .makeRoom x k _) _ s
  unfold State.comeBack
  dsimp only
  split
  · exact .of_same (.refl s) hst hwhy
  · split
    · exact .of_same hroom hst hwhy
    · exact SameTime.resume_resumes hst hwhy (hroom.trans ((SameTime.wake _ p c).trans (SameTime.pmIn _ _ false))) atOnce

end

/-- With the last reason for the interval gone, the context comes back. -/
theorem State.endStop_resumes {s : State} {p c : Nat} {st : Stop} {why : StopWhy} (hst : (s.ctx p c).stop = some st)
    (hwhy : st.why = [why]) : StopResumes s (s.endStop p c why) p c st := by
  have hdrop : ((s.dropWhy p c why).ctx p c).stop = some { st with why := [] } := by
    simp [State.dropWhy, hst, hwhy]
  have hlast : (s.dropWhy p c why).noWhy p c = true := by
    rw [State.noWhy_of_stop hdrop]
    rfl
  have hopen : (!s.stopped p c || s.noWhy p c) = false := by
    simp [State.stopped, hst, State.noWhy_of_stop hst, hwhy]
  have hresumes := State.comeBack_resumes hdrop rfl (why == .brk || why == .step)
  rw [State.endStop, hopen, if_neg Bool.false_ne_true]
  dsimp only
  rw [if_pos hlast]
  simpa [StopResumes, StopClosed, State.dropWhy] using hresumes

/-! ## Pre-emption (03 R59, R60) -/

section
variable {s : State} {p c : Nat} (hen : (s.part p).en = true) (hbusy : (s.part p).busy = false)
  (hvalid : (s.ctx p c).valid = true)
include hen hbusy hvalid

theorem execPreemption_opens (hstop : s.stopsFor p c .preempt = false) :
    execPreemption p c s = .next (s.openStop p c .preempt) := by
  simp [execPreemption, hen, hbusy, hvalid, hstop]

theorem execPreemption_drains (hstop : s.stopsFor p c .preempt = true) {s1 : State} (hmore : s.drainMore p c = some s1) :
    execPreemption p c s = .next s1 := by
  simp [execPreemption, hen, hbusy, hvalid, hstop, hmore]

theorem execPreemption_puts_away (hstop : s.stopsFor p c .preempt = true) (hmore : s.drainMore p c = none)
    (hdone : s.drainDone p c = true) (hsaved : s.allSaved p c = false) :
    execPreemption p c s = .next (s.putAwayAll p c) := by
  simp [execPreemption, hen, hbusy, hvalid, hstop, hmore, hdone, hsaved]

end

/-! ## Partition swap (02 R51, 03 R60) -/

theorem execPartitionSwap_of_more {s s1 : State} {p : Nat} (hen : (s.part p).en = true) (hbusy : (s.part p).busy = false)
    (hmore : (s.ctxsOf p).findSome? (fun c => s.swapMore p c) = some s1) : execPartitionSwap p s = .next s1 := by
  simp [execPartitionSwap, hen, hbusy, hmore]

/-- A swap begins with its first context. -/
theorem State.swapMore_first {s : State} {p c : Nat} {rest : List Nat} (hctxs : s.ctxsOf p = c :: rest)
    (hstop : (s.ctx p c).stop = none) :
    (s.ctxsOf p).findSome? (fun c => s.swapMore p c) = some (s.openStop p c .swap) := by
  have hmore : s.swapMore p c = some (s.openStop p c .swap) := by
    rw [State.swapMore, State.stopsFor_of_no_stop hstop]
    rfl
  rw [hctxs, List.findSome?_cons, hmore]

/-! ## Migration (02 R44, R48, R49) -/

/-- The state in which a team is to move, its context's interval open. -/
def State.toMove (s : State) (tid : Nat) (t : Team) : State :=
  (s.modTeam tid fun u => { u with moving := true }).openStop t.part t.ctx .migrate

section
variable {s : State} {tid core : Nat} {t : Team} (hteam : s.team? tid = some t) (hmast : t.mast = false)
  (hmove : s.mayMove tid t = true) (htake : s.mayTake t core = true)
include hteam hmast hmove htake

theorem execHotspotMigration_opens (hhot : (s.core t.core).hot = true) (hnew : t.moving = false) :
    execHotspotMigration tid core s = .next (s.toMove tid t) := by
  simp [execHotspotMigration, hteam, hmast, hhot, hmove, htake, hnew, State.toMove]

variable (hmoving : t.moving = true)
include hmoving

theorem execHotspotMigration_drains {s1 : State} (hmore : s.drainMore t.part t.ctx = some s1) :
    execHotspotMigration tid core s = .next s1 := by
  simp [execHotspotMigration, hteam, hmast, hmove, htake, hmoving, hmore]

variable (hmore : s.drainMore t.part t.ctx = none) (hdone : s.drainDone t.part t.ctx = true) {slots : List Nat}
  (hslots : assignSlots (s.slotsUsed core) t.groups.length 0 = some slots)
include hmore hdone hslots

theorem execHotspotMigration_makes_room (hroom : s.mayRoom core t.pins = true) :
    execHotspotMigration tid core s = .next (if (s.makeRoom core t.pins).lineRoom core t.pins
      then (s.makeRoom core t.pins).moveTeam tid core slots else s.makeRoom core t.pins) := by
  simp [execHotspotMigration, hteam, hmast, hmove, htake, hmoving, hmore, hdone, hslots, hroom]

theorem execHotspotMigration_moves (hroom : s.lineRoom core t.pins = true) :
    execHotspotMigration tid core s = .next (s.moveTeam tid core slots) := by
  have hmay : s.mayRoom core t.pins = true := by
    rw [State.mayRoom, hroom, Bool.true_or]
  rw [execHotspotMigration_makes_room hteam hmast hmove htake hmoving hmore hdone hslots hmay, State.makeRoom, if_pos hroom,
    if_pos hroom]

end

/-! ## The close (03 R59) -/

/-- Whichever of its reasons has its work done, the first of them goes. -/
theorem execStopIntervalClose_of_done {s : State} {p c : Nat} (hdone : s.drainDone p c = true)
    (hwork : (s.stopsFor p c .preempt = true ∧ s.allSaved p c = true)
      ∨ (s.stopsFor p c .swap = true ∧ ∀ x ∈ s.ctxsOf p, s.swappedOut p x = true)
      ∨ (s.stopsFor p c .migrate = true ∧ ∀ e ∈ s.ctxTeams p c, e.2.moving = false)) :
    Completes (execStopIntervalClose p c s) := by
  have hwhy : s.noWhy p c = false := by
    rcases hwork with h | h | h <;> exact State.noWhy_of_stopsFor h.1
  rw [execStopIntervalClose, hwhy, hdone, if_neg Bool.false_ne_true, Bool.not_true, if_neg Bool.false_ne_true]
  split
  · exact ⟨_, rfl⟩
  · next hpreempt =>
    split
    · exact ⟨_, rfl⟩
    · next hswap =>
      refine ⟨_, if_pos ?_⟩
      rcases hwork with ⟨hstop, hsaved⟩ | ⟨hstop, hout⟩ | ⟨hstop, hmoved⟩
      · exact absurd (by rw [hstop, hsaved]; rfl) hpreempt
      · exact absurd (by rw [hstop, List.all_eq_true.2 hout]; rfl) hswap
      · rw [hstop, List.all_eq_true.2 fun e he => by rw [hmoved e he]; rfl]
        rfl

theorem execStopIntervalClose_preempted {s : State} {p c : Nat} (hdone : s.drainDone p c = true)
    (hstop : s.stopsFor p c .preempt = true) (hsaved : s.allSaved p c = true) :
    execStopIntervalClose p c s = .next (s.endStop p c .preempt) := by
  simp [execStopIntervalClose, State.noWhy_of_stopsFor hstop, hdone, hstop, hsaved]

theorem execStopIntervalClose_last {s : State} {p c : Nat} (hwhy : s.noWhy p c = true)
    (hback : ∀ e ∈ s.ctxTeams p c, e.2.parked = false) : execStopIntervalClose p c s = .next (s.closeStop p c) := by
  have hnone : (s.ctxTeams p c).any (fun e => e.2.parked) = false := by
    simpa using hback
  rw [execStopIntervalClose, if_pos hwhy, hnone, if_neg Bool.false_ne_true]

theorem execStopIntervalClose_completes_of_room {s : State} {p c : Nat} (hwhy : s.noWhy p c = true)
    (hroom : ∀ k ∈ s.ctxCores p c, s.mayRoom k (s.backPins p c k) = true) : Completes (execStopIntervalClose p c s) := by
  rw [execStopIntervalClose, if_pos hwhy, if_pos (List.all_eq_true.2 hroom)]
  split <;> exact ⟨_, rfl⟩

/-- Settles O54: each move by the lemma of the case in which it takes place. -/
theorem stopMoves : Obligations.StopMoves := by
  intro s p c
  refine ⟨fun hen hbusy hvalid => ⟨fun hstop => ?_, fun hstop s1 hmore => execPreemption_drains hen hbusy hvalid hstop hmore,
      fun hstop hmore hdone hsaved => execPreemption_puts_away hen hbusy hvalid hstop hmore hdone hsaved⟩,
    fun hen hbusy s1 hmore => execPartitionSwap_of_more hen hbusy hmore, fun hen hbusy rest hctxs hstop => ?_,
    fun tid core t hteam hp hc hmast hhot hmove htake => ?_, execStopIntervalClose_of_done, fun hdone st hst hwhy hsaved _ => ?_,
    fun st hst hwhy => ⟨fun hback => ?_, execStopIntervalClose_completes_of_room ?_⟩⟩
  · have hopen := State.stop_openStop .preempt hstop
    exact ⟨_, execPreemption_opens hen hbusy hvalid (State.stopsFor_of_no_stop hstop _), hopen, State.vclk_of_stop hopen, rfl⟩
  · exact ⟨_, execPartitionSwap_of_more hen hbusy (State.swapMore_first hctxs hstop), State.stop_openStop .swap hstop⟩
  · subst hp hc
    refine ⟨fun hnew => ⟨_, execHotspotMigration_opens hteam hmast hmove htake hhot hnew, State.stopped_openStop ..,
        ?_, ?_⟩,
      fun hmoving hmore hdone slots hslots =>
        ⟨fun hroom => ⟨_, execHotspotMigration_makes_room hteam hmast hmove htake hmoving hmore hdone hslots hroom⟩,
          execHotspotMigration_moves hteam hmast hmove htake hmoving hmore hdone hslots⟩,
      fun hmoving s1 hmore => execHotspotMigration_drains hteam hmast hmove htake hmoving hmore⟩
    · simp [State.toMove, hteam]
    · simp [State.toMove, hteam]
  · have hstop : s.stopsFor p c .preempt = true := by
      rw [State.stopsFor_of_stop hst, hwhy]
      rfl
    refine ⟨_, execStopIntervalClose_preempted hdone hstop hsaved, ?_⟩
    rcases State.endStop_resumes hst hwhy with ⟨-, hnone, hsum, -⟩ | hopen
    · exact .inl ⟨hnone, hsum⟩
    · exact .inr hopen
  · have hclosed := State.closeStop_closed hst
    have ⟨_, hnone, hsum, _⟩ := hclosed
    exact ⟨_, execStopIntervalClose_last (by rw [State.noWhy_of_stop hst, hwhy]; rfl) hback, hnone, hsum, hclosed.vclk⟩
  · rw [State.noWhy_of_stop hst, hwhy]
    rfl

end Sys2Proof.Machine
end

section
/-!
The arithmetic of the matrix engine (04 R103-R106, 08 R196, 16 R358, R360, R370, R373): the cells of a tile by row and column,
the products that one cell sums and what an integer sum is of; a wavefront cell as the greatest of its candidates; a walk as
the positions that the plane's codes lead through, and its record's bytes read back.
-/
namespace Sys2Proof.Machine

/-! ## Lists over a range -/

theorem zipIdx_map_range {α : Type} (n : Nat) (g : Nat → α) :
    ((List.range n).map g).zipIdx = (List.range n).map fun i => (g i, i) := by
  apply List.ext_getElem <;> simp

theorem getD_map_range {α : Type} {n i : Nat} (h : i < n) (g : Nat → α) (d : α) : ((List.range n).map g).getD i d = g i := by
  simp [List.getD, h]

/-- Element n i + j of n-element rows laid end to end is element j of row i. -/
theorem getD_flatMap_rows {α β : Type} (f : α → List β) {n j : Nat} (hf : ∀ a, (f a).length = n) (hj : j < n) (d : β)
    (e : α) : ∀ (xs : List α) (i : Nat), i < xs.length → (xs.flatMap f).getD (n * i + j) d = (f (xs.getD i e)).getD j d
  | x :: xs, 0, _ => by
    rw [List.flatMap_cons, Nat.mul_zero, Nat.zero_add, List.getD_cons_zero, List.getD_eq_getElem?_getD,
      List.getElem?_append_left (by rw [hf]; exact hj), ← List.getD_eq_getElem?_getD]
  | x :: xs, i + 1, h => by
    rw [List.flatMap_cons, List.getD_eq_getElem?_getD, List.getElem?_append_right (by rw [hf, Nat.mul_succ]; omega), hf,
      show n * (i + 1) + j - n = n * i + j by rw [Nat.mul_succ]; omega, ← List.getD_eq_getElem?_getD, List.getD_cons_succ]
    exact getD_flatMap_rows f hf hj d e xs i (Nat.lt_of_succ_lt_succ h)

/-- The cell in row i and column j of a tile listed in row-major order. -/
theorem getD_tile {α β : Type} (g : Nat → α) (h : Nat → β) (f : α × Nat → β × Nat → Nat × Nat) {i j : Nat} (hi : i < 128)
    (hj : j < 128) :
    (((((List.range 128).map g).zipIdx).flatMap fun a => (((List.range 128).map h).zipIdx).map fun b => f a b).map Prod.fst).getD
      (128 * i + j) 0 = (f (g i, i) (h j, j)).1 := by
  rw [List.map_flatMap, getD_flatMap_rows _ (by simp) hj 0 (g i, i) _ i (by simpa using hi), zipIdx_map_range,
    zipIdx_map_range, getD_map_range hi, List.map_map, List.map_map, getD_map_range hj]
  rfl

/-! ## The cells of a product (16 R358) -/

/-- The products that cell (i, j) sums, each under the scales of its blocks where SC is set. -/
def MxOp.terms (o : MxOp) (s : State) (i j : Nat) : List (XVal × Nat) :=
  (List.range (512 / tagWidth o.tagA)).map fun x =>
    let p := mulE (tagInt o.tagA) (elemVal o.tagA (elemAt (tagWidth o.tagA) (rowA o s i) x)).1
      (elemVal o.tagB (elemAt (tagWidth o.tagA) (rowB o s j) x)).1
    if o.flag then scaleX p (o.scale s o.scaleA o.descA i (x / 32)) (o.scale s o.scaleB o.descB j (x / 32)) else p

/-- The terms of two operand rows of one width, as the engine pairs them, with the four block scales of each row. -/
theorem terms_eq_zipWith (o : MxOp) (s : State) (i j : Nat) (hw : tagWidth o.tagB = tagWidth o.tagA)
    (hsc : o.flag = true → 4 ≤ tagWidth o.tagA) :
    ((List.zipWith (fun x y => mulE (tagInt o.tagA) x.1 y.1) (rowVals o.tagA (rowA o s i)) (rowVals o.tagB (rowB o s j))).zipIdx.map
      fun p => if o.flag then scaleX p.1 (((List.range 4).map fun b => o.scale s o.scaleA o.descA i b).getD (p.2 / 32) 0)
        (((List.range 4).map fun b => o.scale s o.scaleB o.descB j b).getD (p.2 / 32) 0) else p.1) = o.terms s i j := by
  simp only [rowVals, elemsOf, hw, List.map_map, List.zipWith_map, List.zipWith_self, zipIdx_map_range, MxOp.terms]
  refine List.map_congr_left fun x hx => ?_
  have hx := List.mem_range.1 hx
  simp only [Function.comp]
  split
  · next hflag =>
    have hb : x / 32 < 4 := by
      have : 512 / tagWidth o.tagA ≤ 512 / 4 := Nat.div_le_div_left (hsc hflag) (by decide)
      omega
    rw [getD_map_range hb, getD_map_range hb]
  · rfl

theorem product_cell (o : MxOp) (s : State) (t : Team) {i j : Nat} (hi : i < 128) (hj : j < 128)
    (hw : tagWidth o.tagB = tagWidth o.tagA) (hsc : o.flag = true → 4 ≤ tagWidth o.tagA) :
    (o.product s t).1.getD (128 * i + j) 0
      = (if tagInt o.tagA && !o.flag then cellInt (o.old t i j) ((o.terms s i j).foldl (fun x p => x + xInt p.1) 0)
        else cellFloat o.rnd (o.old t i j) (o.terms s i j)).1 := by
  rw [← terms_eq_zipWith o s i j hw hsc]
  unfold MxOp.product
  dsimp only
  rw [getD_tile _ _ _ hi hj]
  rfl

/-- The integer that a product of finite values of exponent 0 holds: the sign of a zero does not matter. -/
theorem xInt_mulE_num (int s t : Bool) (m n : Nat) :
    xInt (mulE int (.num s m 0) (.num t n 0)).1 = (if s then -(m : Int) else m) * (if t then -(n : Int) else n) := by
  by_cases hz : m = 0 ∨ n = 0
  · rcases hz with rfl | rfl <;> simp [mulE, mulX, xInt]
  · have hne : (m * n == 0) = false := beq_false_of_ne fun h => hz (Nat.mul_eq_zero.1 h)
    have hx : xInt (mulE int (.num s m 0) (.num t n 0)).1
        = if s != t && !(int && m * n == 0) then -((m * n : Nat) : Int) else ((m * n : Nat) : Int) := rfl
    rw [hx, hne, Int.natCast_mul]
    cases s <;> cases t <;> simp only [bne_self_eq_false, Bool.false_bne, Bool.true_bne, Bool.not_false, Bool.and_false,
      Bool.and_true, Bool.false_eq_true, if_false, if_true, Int.neg_mul, Int.mul_neg, Int.neg_neg]

/-- The product of two integer elements, held as a finite value, is the product of their integers. -/
theorem xInt_mulE_elemVal {ta tb : Nat} (ha : tagInt ta = true) (hb : tagInt tb = true) (a b : Nat) :
    xInt (mulE true (elemVal ta a).1 (elemVal tb b).1).1 = (intOf ta a).1 * (intOf tb b).1 := by
  have hnum (x : Int) : (if decide (x < 0) then -(x.natAbs : Int) else x.natAbs) = x := by
    simp only [decide_eq_true_eq]
    omega
  rw [elemVal, if_pos ha, elemVal, if_pos hb]
  exact (xInt_mulE_num ..).trans (by rw [hnum, hnum])

theorem integerProduct : IntegerProduct := by
  intro o s t i j hi hj hflag ha hb hw
  rw [product_cell o s t hi hj hw (by simp [hflag]), if_pos (by simp [ha, hflag]), cellInt, MxOp.terms, List.foldl_map]
  simp only [hflag, ha, xInt_mulE_elemVal ha hb, Bool.false_eq_true, if_false]
  rw [List.sum_eq_foldl, List.foldl_map]

theorem floatProduct : FloatProduct := by
  intro o s t i j hi hj hfloat hw h4
  rw [product_cell o s t hi hj hw fun _ => h4, if_neg]
  · rfl
  · rcases hfloat with h | h <;> simp [h]

/-! ## The cells of a binary product (16 R360) -/

theorem bit_eq_testBit (x n : Nat) : bit x n = x.testBit n := by
  rw [bit, Nat.testBit_eq_decide_div_mod_eq]
  rfl

theorem binary_cell (o : MxOp) (s : State) (t : Team) {i j : Nat} (hi : i < 128) (hj : j < 128) :
    (o.binary s t).1.getD (128 * i + j) 0 = (cellInt (o.old t i j)
      (bitsSet 512 (if o.flag then rowA o s i &&& rowB o s j else rowA o s i ^^^ rowB o s j))).1 := by
  unfold MxOp.binary
  dsimp only
  rw [getD_tile _ _ _ hi hj]
  rfl

theorem binaryProduct : BinaryProduct := by
  intro o s t i j hi hj
  rw [binary_cell o s t hi hj, cellInt, bitsSet]
  cases o.flag <;> simp only [bit_eq_testBit, Nat.testBit_and, Nat.testBit_xor, Bool.false_eq_true, if_false, if_true]

/-! ## A wavefront cell (08 R196, 16 R370) -/

/-- The three candidates of a cell before they saturate: diagonal, up, left. -/
def WfIn.raw (x : WfIn) (i j : Nat) (up left dg : Int) : List Int :=
  [dg + s16At x.rule (0x40 + 2 * (16 * x.sym 0 i + x.sym 0x40 j)), up + s16At x.rule 6, left + s16At x.rule 4]

/-- The code of the greatest of three saturated candidates; a rule says whether up or left goes first where they are equal. -/
def ruleChoice (r : List Byte) (d u l : Int) : Nat :=
  if max u l ≤ d then 0 else if bits (u32At r 0) 3 2 = 0 then (if l ≤ u then 1 else 2) else (if u ≤ l then 2 else 1)

/-- The first of three candidates, 0 before a before b, that equals the greatest. -/
theorem find_greatest (val : Nat → Int) (a b : Nat) :
    ([0, a, b].find? fun c => val c == max (val 0) (max (val a) (val b))).getD 0
      = if max (val a) (val b) ≤ val 0 then 0 else if val b ≤ val a then a else b := by
  by_cases h0 : max (val a) (val b) ≤ val 0
  · rw [if_pos h0, show max (val 0) (max (val a) (val b)) = val 0 by omega, List.find?_cons_of_pos (by exact beq_self_eq_true _)]
    rfl
  · rw [if_neg h0, show max (val 0) (max (val a) (val b)) = max (val a) (val b) by omega,
      List.find?_cons_of_neg (by rw [beq_iff_eq]; omega)]
    by_cases hab : val b ≤ val a
    · rw [if_pos hab, show max (val a) (val b) = val a by omega, List.find?_cons_of_pos (by exact beq_self_eq_true _)]
      rfl
    · rw [if_neg hab, show max (val a) (val b) = val b by omega, List.find?_cons_of_neg (by rw [beq_iff_eq]; omega),
        List.find?_cons_of_pos (by exact beq_self_eq_true _)]
      rfl

theorem find_eq_ruleChoice (r : List Byte) (val : Nat → Int) :
    ((if bits (u32At r 0) 3 2 = 0 then [0, 1, 2] else [0, 2, 1]).find? fun c =>
      val c == max (val 0) (max (val 1) (val 2))).getD 0 = ruleChoice r (val 0) (val 1) (val 2) := by
  rw [ruleChoice]
  by_cases htie : bits (u32At r 0) 3 2 = 0
  · rw [if_pos htie, if_pos htie, find_greatest]
  · rw [if_neg htie, if_neg htie, Int.max_comm (val 1), find_greatest]

theorem foldl_greatest (val : Nat → Int) : [1, 2].foldl (fun m c => if decide (m < val c) then val c else m) (val 0)
    = max (val 0) (max (val 1) (val 2)) := by
  simp only [List.foldl_cons, List.foldl_nil, decide_eq_true_eq]
  omega

theorem cell_outside {x : WfIn} {i j : Nat} (hsel : ruleSel x.rule = false) (up left dg : Int)
    (hout : x.nr ≤ i ∨ x.nc ≤ j ∨ x.inBand (x.row0 + i) (x.col0 + j) = false) :
    x.cell i j up left dg = ⟨-32768, 3, false, false⟩ := by
  rw [WfIn.cell, if_pos (by simpa using hout), ruleWorst, hsel]
  rfl

/-- A cell of the block and the band under maximum without a floor: the greatest candidate, and the code that it has. -/
theorem cell_inside {x : WfIn} {i j : Nat} (hsel : ruleSel x.rule = false) (hfloor : ruleFloor x.rule = false)
    (up left dg : Int) (hi : i < x.nr) (hj : j < x.nc) (hband : x.inBand (x.row0 + i) (x.col0 + j) = true) :
    let val c := sat16 ((x.raw i j up left dg).getD c 0)
    ∃ clamped, x.cell i j up left dg
      = ⟨max (val 0) (max (val 1) (val 2)), ruleChoice x.rule (val 0) (val 1) (val 2), clamped, true⟩ := by
  intro val
  rw [WfIn.cell, if_neg (by rw [hband]; simp only [Bool.not_true, Bool.false_eq_true, or_false]; omega)]
  simp only [hsel, hfloor, Bool.false_eq_true, if_false, Bool.false_and]
  rw [← find_eq_ruleChoice, ← foldl_greatest val]
  exact ⟨_, rfl⟩

theorem wavefrontCell : WavefrontCell := by
  intro x i j up left dg hsel hfloor d u l
  refine ⟨fun hi hj hband => ?_, cell_outside hsel up left dg⟩
  obtain ⟨clamped, hcell⟩ := cell_inside hsel hfloor up left dg hi hj hband
  have hcode : (x.cell i j up left dg).code = ruleChoice x.rule d u l := congrArg WfCell.code hcell
  refine ⟨congrArg WfCell.h hcell, congrArg WfCell.comp hcell, fun hle => ?_, fun hlt htie => ?_, fun hlt htie => ?_⟩
  · rw [hcode, ruleChoice, if_pos hle]
  · rw [hcode, ruleChoice, if_neg (Int.not_le.2 hlt), if_pos htie]
  · rw [hcode, ruleChoice, if_neg (Int.not_le.2 hlt), if_neg htie]

/-! ## A walk (16 R373) -/

theorem planeCode_lt (pl : List Byte) (i j : Int) : planeCode pl i j < 4 := Nat.mod_lt _ (by decide)

/-- A walk goes on from a cell of the plane whose code is no none. -/
def goesOn (pl : List Byte) (p : Int × Int) : Prop := 0 ≤ p.1 ∧ 0 ≤ p.2 ∧ planeCode pl p.1 p.2 ≠ 3

/-- Where the code of a cell leads: up, left or both. -/
def stepBy (pl : List Byte) (p : Int × Int) : Int × Int :=
  (p.1 - (if planeCode pl p.1 p.2 = 2 then 0 else 1), p.2 - (if planeCode pl p.1 p.2 = 1 then 0 else 1))

/-- The position to which m steps lead. -/
def stepsBy (pl : List Byte) : Nat → Int × Int → Int × Int
  | 0, p => p
  | m + 1, p => stepsBy pl m (stepBy pl p)

theorem stepsBy_succ (pl : List Byte) (m : Nat) (p : Int × Int) : stepsBy pl (m + 1) p = stepBy pl (stepsBy pl m p) := by
  induction m generalizing p with
  | zero => rfl
  | succ m ih => exact ih (stepBy pl p)

/-- The codes of the first m cells that a walk comes to. -/
def codesOn (pl : List Byte) (m : Nat) (p : Int × Int) : List Nat :=
  (List.range m).map fun k => planeCode pl (stepsBy pl k p).1 (stepsBy pl k p).2

theorem codesOn_succ (pl : List Byte) (m : Nat) (p : Int × Int) :
    codesOn pl (m + 1) p = planeCode pl p.1 p.2 :: codesOn pl m (stepBy pl p) := by
  simp [codesOn, List.range_succ_eq_map, Function.comp_def, stepsBy]

theorem getD_codesOn {pl : List Byte} {m k : Nat} {p : Int × Int} (hk : k < m) (d : Nat) :
    (codesOn pl m p).getD k d = planeCode pl (stepsBy pl k p).1 (stepsBy pl k p).2 :=
  getD_map_range hk _ d

theorem getD_codesOn_lt (pl : List Byte) (m k : Nat) (p : Int × Int) : (codesOn pl m p).getD k 0 < 4 := by
  by_cases hk : k < m
  · exact getD_codesOn hk 0 ▸ planeCode_lt ..
  · simp [codesOn, List.getD, hk]

/-- A walk that stands at a position. -/
def walkAt (codes : List Nat) (p : Int × Int) (none_ : Bool) : Walk := ⟨codes, p.1, p.2, none_⟩

theorem walkFrom_off (pl : List Byte) {p : Int × Int} (h : ¬ (0 ≤ p.1 ∧ 0 ≤ p.2)) (n : Nat) (codes : List Nat) (b : Bool) :
    walkFrom pl n (walkAt codes p b) = walkAt codes p b := by
  cases n with
  | zero => rfl
  | succ n => exact if_pos (show p.1 < 0 ∨ p.2 < 0 by omega)

theorem walkFrom_none {pl : List Byte} {p : Int × Int} (h : 0 ≤ p.1 ∧ 0 ≤ p.2) (hcode : planeCode pl p.1 p.2 = 3) (n : Nat)
    (codes : List Nat) (b : Bool) : walkFrom pl (n + 1) (walkAt codes p b) = walkAt codes p true := by
  rw [walkFrom, if_neg (by simp only [walkAt]; omega)]
  simp only [walkAt, hcode]

theorem walkFrom_goesOn {pl : List Byte} {p : Int × Int} (h : goesOn pl p) (n : Nat) (codes : List Nat) (b : Bool) :
    walkFrom pl (n + 1) (walkAt codes p b) = walkFrom pl n (walkAt (codes ++ [planeCode pl p.1 p.2]) (stepBy pl p) b) := by
  obtain ⟨hi, hj, hcode⟩ := h
  have hlt := planeCode_lt pl p.1 p.2
  rw [walkFrom, if_neg (by simp only [walkAt]; omega)]
  simp only [walkAt, stepBy]
  generalize planeCode pl p.1 p.2 = c at *
  match c with
  | 0 => rfl
  | 1 => simp
  | 2 => simp
  | 3 => exact absurd rfl hcode

theorem walkFrom_stops {pl : List Byte} {p : Int × Int} (hstop : ¬ goesOn pl p) {n : Nat} (h : p.1 + p.2 + 1 ≤ n)
    (codes : List Nat) : walkFrom pl n (walkAt codes p false) = walkAt codes p (decide (0 ≤ p.1 ∧ 0 ≤ p.2)) := by
  by_cases hin : 0 ≤ p.1 ∧ 0 ≤ p.2
  · have hcode : planeCode pl p.1 p.2 = 3 := Decidable.byContradiction fun hne => hstop ⟨hin.1, hin.2, hne⟩
    cases n with
    | zero => omega
    | succ n => rw [walkFrom_none hin hcode, decide_eq_true hin]
  · rw [walkFrom_off pl hin, decide_eq_false hin]

theorem stepBy_sum_lt (pl : List Byte) (p : Int × Int) : (stepBy pl p).1 + (stepBy pl p).2 < p.1 + p.2 := by
  simp only [stepBy]
  split <;> split <;> omega

/-- A walk with steps enough takes those of the cells that it comes to, and ends at the first position from which it does not
go on. -/
theorem walkFrom_ends (pl : List Byte) (n : Nat) (p : Int × Int) (codes : List Nat) (h : p.1 + p.2 + 1 ≤ n) :
    ∃ m ≤ (p.1 + p.2 + 1).toNat, (∀ k < m, goesOn pl (stepsBy pl k p)) ∧ ∀ q, q = stepsBy pl m p → ¬ goesOn pl q
      ∧ walkFrom pl n (walkAt codes p false) = walkAt (codes ++ codesOn pl m p) q (decide (0 ≤ q.1 ∧ 0 ≤ q.2)) := by
  by_cases hgo : goesOn pl p
  · have hlt := stepBy_sum_lt pl p
    have hin : 0 ≤ p.1 ∧ 0 ≤ p.2 := ⟨hgo.1, hgo.2.1⟩
    cases n with
    | zero => omega
    | succ n =>
      obtain ⟨m, hm, hon, hend⟩ := walkFrom_ends pl n (stepBy pl p) (codes ++ [planeCode pl p.1 p.2]) (by omega)
      refine ⟨m + 1, by omega, fun k hk => ?_, fun q hq => ?_⟩
      · cases k with
        | zero => exact hgo
        | succ k => exact hon k (by omega)
      · rw [walkFrom_goesOn hgo, codesOn_succ, List.append_cons codes _ (codesOn pl m (stepBy pl p))]
        exact hend q hq
  · refine ⟨0, Nat.zero_le _, fun k hk => absurd hk k.not_lt_zero, fun q hq => ?_⟩
    rw [show q = p from hq]
    exact ⟨hgo, by rw [walkFrom_stops hgo h, codesOn, List.range_zero, List.map_nil, List.append_nil]⟩

/-! ## A walk's record (00 R6, 16 R373) -/

theorem toBytes_succ (n x : Nat) : toBytes (n + 1) x = byteAt x 0 :: toBytes n (x / 256) := by
  simp only [toBytes, List.range_succ_eq_map, List.map_cons, List.map_map]
  congr 1
  refine List.map_congr_left fun i _ => ?_
  rw [Function.comp, byteAt, byteAt, Nat.mul_succ, Nat.add_comm, Nat.pow_add, ← Nat.div_div_eq_div_mul]

@[simp] theorem length_toBytes (n x : Nat) : (toBytes n x).length = n := by
  simp [toBytes]

theorem ofBytes_toBytes (n x : Nat) : ofBytes (toBytes n x) = x % 256 ^ n := by
  induction n generalizing x with
  | zero => simp [toBytes, ofBytes, Nat.mod_one]
  | succ n ih =>
    rw [toBytes_succ, ofBytes, ih, Nat.pow_succ', Nat.mod_mul]
    simp [byteAt]

theorem ofElems_lt (w : Nat) (es : List Nat) : ofElems w es < (2 ^ w) ^ es.length := by
  induction es with
  | nil => simp [ofElems]
  | cons e es ih =>
    have he : e % 2 ^ w < 2 ^ w := Nat.mod_lt _ (Nat.two_pow_pos w)
    rw [ofElems, List.length_cons, Nat.pow_succ']
    calc e % 2 ^ w + 2 ^ w * ofElems w es < 2 ^ w * (ofElems w es + 1) := by rw [Nat.mul_succ]; omega
      _ ≤ 2 ^ w * (2 ^ w) ^ es.length := Nat.mul_le_mul_left _ ih

theorem elemAt_ofElems (w : Nat) (es : List Nat) (m : Nat) : elemAt w (ofElems w es) m = es.getD m 0 % 2 ^ w := by
  induction es generalizing m with
  | nil => simp [ofElems, elemAt]
  | cons e es ih =>
    cases m with
    | zero => simp [ofElems, elemAt]
    | succ m =>
      rw [List.getD_cons_succ, ← ih, elemAt, elemAt, ofElems, Nat.mul_succ, Nat.add_comm (w * m), Nat.pow_add,
        ← Nat.div_div_eq_div_mul, Nat.add_mul_div_left _ _ (Nat.two_pow_pos w),
        Nat.div_eq_of_lt (Nat.mod_lt _ (Nat.two_pow_pos w)), Nat.zero_add]

theorem wrapI_lt (n : Nat) (x : Int) : wrapI n x < 2 ^ n := by
  have hpos : (0 : Int) < ((2 ^ n : Nat) : Int) := Int.natCast_pos.2 (Nat.two_pow_pos n)
  have hlt := Int.emod_lt_of_pos x hpos
  have hge := Int.emod_nonneg x (Int.ne_of_gt hpos)
  rw [wrapI]
  omega

theorem length_walk_bytes (w : Walk) : w.bytes.length = 72 := by
  simp [Walk.bytes]

/-- The first eight bytes of a record hold the steps, the position and the end. -/
theorem ofBytes_walk_head (w : Walk) (h : w.codes.length ≤ 255) :
    ofBytes (w.bytes.take 8) = w.codes.length + 2 ^ 16 * wrapI 8 w.i + 2 ^ 24 * wrapI 8 w.j + 2 ^ 32 * b2n (decide (w.i < 0))
      + 2 ^ 33 * b2n (decide (w.j < 0)) + 2 ^ 34 * b2n w.none_ := by
  have hflag (b : Bool) : b2n b ≤ 1 := by cases b <;> decide
  have hi := wrapI_lt 8 w.i
  have hj := wrapI_lt 8 w.j
  have hup := hflag (decide (w.i < 0))
  have hleft := hflag (decide (w.j < 0))
  have hnone := hflag w.none_
  rw [Walk.bytes, List.take_left' (length_toBytes ..), ofBytes_toBytes, Nat.mod_eq_of_lt]
  omega

/-- The other 64 bytes hold the codes, two bits each. -/
theorem elemAt_walk_codes (w : Walk) (h : w.codes.length ≤ 255) (m : Nat) :
    elemAt 2 (ofBytes (w.bytes.drop 8)) m = w.codes.getD m 0 % 2 ^ 2 := by
  have hlt : ofElems 2 w.codes < 256 ^ 64 :=
    calc ofElems 2 w.codes < 4 ^ w.codes.length := ofElems_lt 2 w.codes
      _ ≤ 4 ^ 255 := Nat.pow_le_pow_right (by decide) h
      _ ≤ 256 ^ 64 := by decide
  rw [Walk.bytes, List.drop_left' (length_toBytes ..), ofBytes_toBytes, Nat.mod_eq_of_lt hlt, elemAt_ofElems]

theorem tracebackWalk : TracebackWalk := by
  intro pl i j hi hj
  obtain ⟨m, hm, hon, hend⟩ := walkFrom_ends pl 256 (i, j) [] (by dsimp only; omega)
  have hm : m ≤ 255 := by dsimp only at hm; omega
  have hlen : (codesOn pl m (i, j)).length = m := by simp [codesOn]
  have hle : (codesOn pl m (i, j)).length ≤ 255 := by rw [hlen]; exact hm
  refine ⟨codesOn pl m (i, j), fun k => stepsBy pl k (i, j), rfl, hle, fun k hk => ?_, fun p hp => ?_⟩
  · rw [hlen] at hk
    obtain ⟨hi, hj, hcode⟩ := hon k hk
    have hget := getD_codesOn (pl := pl) (p := (i, j)) hk 3
    refine ⟨hi, hj, hget, hget ▸ hcode, ?_⟩
    dsimp only
    rw [stepsBy_succ, hget]
    rfl
  · obtain ⟨hstop, hwalk⟩ := hend p (by rw [hp, hlen])
    refine ⟨by simp only [goesOn] at hstop; omega, ?_⟩
    rintro r rfl
    have hrec : walkRecord pl (i + 256 * j) = (walkAt (codesOn pl m (i, j)) p (decide (0 ≤ p.1 ∧ 0 ≤ p.2))).bytes := by
      rw [walkRecord, show (i + 256 * j) % 256 = i by omega, show (i + 256 * j) / 256 = j by omega]
      exact congrArg Walk.bytes hwalk
    rw [hrec]
    refine ⟨length_walk_bytes _, ?_, fun k _ => ?_⟩
    · rw [ofBytes_walk_head _ hle]
      simp [walkAt, b2n]
    · rw [elemAt_walk_codes _ hle]
      exact Nat.mod_eq_of_lt (getD_codesOn_lt ..)

/-- Settles O30: each kind of cell, and a walk, by its lemma. -/
theorem engineArithmetic : Obligations.EngineArithmetic :=
  ⟨integerProduct, floatProduct, binaryProduct, wavefrontCell, tracebackWalk⟩

end Sys2Proof.Machine
end

section
/-!
Special registers (18 R405, 05 R116): what srd answers for a whole register and lane by lane; what swr answers for each register
that it writes, for one that it leaves, and for sr.ctlsync.
-/
namespace Sys2Proof.Machine

/-! ## No read of a new scratchpad map is a checked one (06 R154) -/

@[simp] theorem State.errs_writeMapLine (s : State) (tid ln : Nat) : (s.writeMapLine tid ln).errs = s.errs := by
  unfold State.writeMapLine
  split
  · rfl
  · dsimp only
    split
    · rfl
    · simp only [State.count_errs, State.setTeam_errs]
      split
      · refine foldl_keep (fun x : State => x.errs = s.errs) _ (fun x b hx => ?_) _ s rfl
        split
        · exact (State.homeSet_errs ..).trans hx
        · exact hx
      · rfl

@[simp] theorem State.errs_newSpmap (s : State) (tid : Nat) : (s.newSpmap tid).errs = s.errs := by
  unfold State.newSpmap
  split
  · rfl
  · split
    · rfl
    · simp only [State.modTeam_errs]
      exact foldl_keep (fun x : State => x.errs = s.errs) _ (fun x ln hx => (State.errs_writeMapLine x tid ln).trans hx) _ s rfl

theorem State.errs_ctlsync {s s1 : State} {tid : Nat} (h : s.ctlsync tid = .ok s1) : s1.errs = s.errs := by
  unfold State.ctlsync at h
  split at h
  · cases h
    rfl
  · split at h
    · cases h
      rfl
    · split at h
      · cases h
      · cases h
        simp
      · cases h
        simp

/-! ## Lanes of a special register -/

theorem lanesOf_nodup (m : Mask) : (lanesOf m).Nodup := List.nodup_range.filter _

theorem Group.rseed_fold_wlaneReg (f : Nat → Nat) (ls : List Nat) (g : Group) (l : Nat) :
    (ls.foldl (fun y l => y.wlaneReg 3 l (f l)) g).rseed l = if l ∈ ls then BitVec.ofNat 32 (f l) else g.rseed l := by
  induction ls generalizing g with
  | nil => rfl
  | cons a ls ih =>
    have hwrite : (g.wlaneReg 3 a (f a)).rseed l = if l = a then BitVec.ofNat 32 (f a) else g.rseed l := SMap.get_set ..
    rw [List.foldl_cons, ih, hwrite]
    by_cases hl : l ∈ ls
    · simp [hl]
    · by_cases ha : l = a
      · simp [ha]
      · simp [hl, ha]

/-- Flags are cleared by writing ones, each lane's once. -/
theorem Group.fflags_fold_wlaneReg (f : Nat → Nat) (ls : List Nat) (hls : ls.Nodup) (g : Group) (l : Nat) :
    SMap.get 0#8 (ls.foldl (fun y l => y.wlaneReg 4 l (f l)) g).fflags l
      = if l ∈ ls then SMap.get 0#8 g.fflags l &&& ~~~(BitVec.ofNat 8 (f l)) else SMap.get 0#8 g.fflags l := by
  induction ls generalizing g with
  | nil => rfl
  | cons a ls ih =>
    obtain ⟨ha, hls⟩ := List.nodup_cons.1 hls
    have hwrite : SMap.get 0#8 (g.wlaneReg 4 a (f a)).fflags l
        = if l = a then SMap.get 0#8 g.fflags a &&& ~~~(BitVec.ofNat 8 (f a)) else SMap.get 0#8 g.fflags l := SMap.get_set ..
    rw [List.foldl_cons, ih hls, hwrite]
    by_cases hl : l = a
    · subst hl
      simp [ha]
    · simp [hl]

/-! ## Memory -/

theorem sameMemory_modTeam (s : State) (tid : Nat) {f : Team → Team} (hf : ∀ t, (f t).spad = t.spad) :
    SameMemory s (s.modTeam tid f) := by
  refine SameMemory.of_eq (by simp) (by simp) (by simp) (fun _ => by simp) (fun j => ?_)
  rw [State.team?_modTeam]
  split
  · cases s.team? j with
    | none => rfl
    | some t => exact congrArg some (hf t)
  · rfl

/-! ## srd -/

section
variable {s : State} {k : Iss} {i : Slots} (h : Ready s k 0x006 (linesOf i false 0))
include h

theorem execSrd_whole {n : BitVec 6} (hd : i.d = .s n) (hx : i.imm.toNat % 4096 ≠ 0x12) :
    Issues (execSrd i s) (s.modGroup k.tid k.g fun g => g.ws n.toNat (s.specialReg k (i.imm.toNat % 4096))) k i.hint k.fall :=
  runS_ok h i (by simp [hd, hx]) (by simp)

/-- A read of EVQSTAT clears its LOST (07 R167). -/
theorem execSrd_evqstat {n : BitVec 6} (hd : i.d = .s n) (hx : i.imm.toNat % 4096 = 0x12) :
    Issues (execSrd i s)
      ((s.modGroup k.tid k.g fun g => g.ws n.toNat (BitVec.ofNat 64 (s.cluster (clusterOf k.t.core)).evqstat)).modCluster
        (clusterOf k.t.core) fun c => { c with lost := 0 }) k i.hint k.fall :=
  runS_ok h i (by simp [hd, hx, State.specialReg]) (by simp)

theorem execSrd_lanes (hd : i.d.isS = false) :
    Issues (execSrd i s) (s.modGroup k.tid k.g fun g => g.wv i.d.idx false k.e.mask (fun l =>
      if i.imm.toNat % 4096 = 3 then (k.gr.rseed l).toNat else (SMap.get 0#8 k.gr.fflags l).toNat) 0x10) k i.hint k.fall := by
  refine runS_ok h i ?_ (by simp)
  dsimp only
  split
  · next n hn =>
    rw [hn] at hd
    cases hd
  · rfl

theorem execSrd_issues : ∃ s1, Issues (execSrd i s) s1 k i.hint k.fall := by
  cases hd : i.d with
  | s n =>
    by_cases hx : i.imm.toNat % 4096 = 0x12
    · exact ⟨_, execSrd_evqstat h hd hx⟩
    · exact ⟨_, execSrd_whole h hd hx⟩
  | _ => exact ⟨_, execSrd_lanes h (by rw [hd]; rfl)⟩

end

/-! ## swr -/

/-- A special register that swr writes lane by lane, x 3 or 4, once it is written. -/
def Iss.laneRegWritten (k : Iss) (i : Slots) (x : Nat) : Group :=
  (lanesOf k.e.mask).foldl (fun y l => y.wlaneReg x l (k.gr.src i.a 0 false 0 l)) k.gr

section
variable {s : State} {k : Iss} {i : Slots} (h : Ready s k 0x007 (linesOf i false 0))
include h

theorem execSwr_lanes {x : Nat} (hx : i.imm.toNat % 4096 = x) (hlane : x = 3 ∨ x = 4) :
    Issues (execSwr i s) (s.modGroup k.tid k.g fun _ => k.laneRegWritten i x) k i.hint k.fall := by
  refine runS_ok h i ?_ (by simp)
  have hgroup := State.modGroup_issuer h.issuer fun g =>
    (lanesOf k.e.mask).foldl (fun y l => y.wlaneReg x l (k.gr.src i.a 0 false 0 l)) g
  rcases hlane with rfl | rfl
  · simp only [hx, hgroup]
    rfl
  · simp only [hx, hgroup]
    rfl

theorem execSwr_mflags (hx : i.imm.toNat % 4096 = 5) :
    Issues (execSwr i s) (s.modTeam k.tid fun t => { t with mflags := t.mflags &&& ~~~(BitVec.ofNat 8 (k.gr.uni i.a 0)) })
      k i.hint k.fall :=
  runS_ok h i (by simp [hx]) (by simp)

theorem execSwr_dxpstat (hx : i.imm.toNat % 4096 = 14) (hhandler : k.gr.handler.isSome = true)
    (hbit : bit (k.gr.uni i.a 0) 1 = true) :
    Issues (execSwr i s) (s.modTeam k.tid fun t => { t with faulted := false }) k i.hint k.fall :=
  runS_ok h i (by simp [hx, hhandler, hbit]) (by simp)

theorem execSwr_dxpstat_kept (hx : i.imm.toNat % 4096 = 14)
    (hkeep : ¬ (k.gr.handler.isSome = true ∧ bit (k.gr.uni i.a 0) 1 = true)) :
    Issues (execSwr i s) s k i.hint k.fall :=
  runS_ok h i (by simp only [hx, Bool.and_eq_true, hkeep]; rfl) rfl

theorem execSwr_read_only (h3 : i.imm.toNat % 4096 ≠ 3) (h4 : i.imm.toNat % 4096 ≠ 4) (h5 : i.imm.toNat % 4096 ≠ 5)
    (h9 : i.imm.toNat % 4096 ≠ 9) (h14 : i.imm.toNat % 4096 ≠ 14) : Issues (execSwr i s) s k i.hint k.fall :=
  runS_ok h i (by simp [h9]) rfl

theorem execSwr_ctlsync (hx : i.imm.toNat % 4096 = 9) {s1 : State} (hsync : s.ctlsync k.tid = .ok s1) :
    Issues (execSwr i s) s1 k i.hint k.fall :=
  runS_ok h i (by simp [hx, hsync]) (State.errs_ctlsync hsync)

theorem execSwr_ctlsync_malformed (hx : i.imm.toNat % 4096 = 9) {a : Nat} (hsync : s.ctlsync k.tid = .error a) :
    execSwr i s = .next (s.raise k.tid k.g k.e 2 0xFF a k.e.mask).done :=
  runS_bail h i (b := .t 2 0xFF a) (by simp [hx, hsync])

/-- Every register but sr.ctlsync is written without a byte of memory changing. -/
theorem execSwr_issues (hx : i.imm.toNat % 4096 ≠ 9) :
    ∃ s1, Issues (execSwr i s) s1 k i.hint k.fall ∧ SameMemory s s1 := by
  by_cases hlane : i.imm.toNat % 4096 = 3 ∨ i.imm.toNat % 4096 = 4
  · exact ⟨_, execSwr_lanes h rfl hlane, (onlyGroup_modGroup ..).1⟩
  by_cases h5 : i.imm.toNat % 4096 = 5
  · exact ⟨_, execSwr_mflags h h5, sameMemory_modTeam s _ fun _ => rfl⟩
  by_cases h14 : i.imm.toNat % 4096 = 14
  · by_cases hclear : k.gr.handler.isSome = true ∧ bit (k.gr.uni i.a 0) 1 = true
    · exact ⟨_, execSwr_dxpstat h h14 hclear.1 hclear.2, sameMemory_modTeam s _ fun _ => rfl⟩
    · exact ⟨s, execSwr_dxpstat_kept h h14 hclear, SameMemory.refl s⟩
  · rw [not_or] at hlane
    exact ⟨s, execSwr_read_only h hlane.1 hlane.2 h5 hx h14, SameMemory.refl s⟩

end

theorem Iss.fflags_laneRegWritten (k : Iss) (i : Slots) {l : Nat} (hl : l < 32) :
    SMap.get 0#8 (k.laneRegWritten i 4).fflags l = if k.e.mask.getLsbD l
      then SMap.get 0#8 k.gr.fflags l &&& ~~~(BitVec.ofNat 8 (k.gr.src i.a 0 false 0 l)) else SMap.get 0#8 k.gr.fflags l := by
  rw [Iss.laneRegWritten, Group.fflags_fold_wlaneReg _ _ (lanesOf_nodup _)]
  simp only [mem_lanesOf, hl, true_and]

theorem Iss.rseed_laneRegWritten (k : Iss) (i : Slots) {l : Nat} (hl : l < 32) :
    (k.laneRegWritten i 3).rseed l
      = if k.e.mask.getLsbD l then BitVec.ofNat 32 (k.gr.src i.a 0 false 0 l) else k.gr.rseed l := by
  rw [Iss.laneRegWritten, Group.rseed_fold_wlaneReg]
  simp only [mem_lanesOf, hl, true_and]

/-- Settles O2: srd and swr, each register by its lemma. -/
theorem specialRegisters : Obligations.SpecialRegisters := by
  intro s k i
  simp only [exec_srd, exec_swr]
  refine ⟨fun h => ?_, fun h => ⟨execSwr_issues h, fun hx s1 => execSwr_ctlsync h hx, fun hx a => execSwr_ctlsync_malformed h hx,
      fun hx => ⟨_, execSwr_lanes h hx (.inr rfl), fun l hl => k.fflags_laneRegWritten i hl⟩, execSwr_dxpstat h⟩,
    fun h n hd hx hlt => ?_, fun h n hd hx => execSrd_evqstat h hd (by simp [hx]), fun h n hd hx => ?_,
    fun h n ha hx => ?_,
    fun h hx => ⟨_, execSwr_lanes h (by simp [hx]) (.inl rfl), fun l hl => k.rseed_laneRegWritten i hl⟩⟩
  · cases hd : i.d.isS with
    | true =>
      obtain ⟨s1, hs1⟩ := execSrd_issues h
      exact ⟨s1, hs1, fun hno => absurd hno (by decide)⟩
    | false => exact ⟨_, execSrd_lanes h hd, fun _ hx => by simp [hx]⟩
  · have hmod : i.imm.toNat % 4096 = i.imm.toNat := Nat.mod_eq_of_lt hlt
    have hne : i.imm.toNat ≠ 0x12 := fun he => hx (BitVec.eq_of_toNat_eq he)
    have hwhole := execSrd_whole h hd (hmod.symm ▸ hne)
    rwa [hmod] at hwhole
  · have hlanes := execSrd_lanes h (by rw [hd]; rfl : i.d.isS = false)
    rw [hd, hx] at hlanes
    exact hlanes
  · have hmflags := execSwr_mflags h (by simp [hx] : i.imm.toNat % 4096 = 5)
    rw [ha] at hmflags
    exact hmflags

end Sys2Proof.Machine
end

section
/-!
What a context's coming back leaves of its partition (03 R59, 05 R128, 18 R410): every field but its contexts, its saved
counters and the counts of notices that are not posted.
-/
namespace Sys2Proof.Machine

/-- A partition without its contexts, its saved counters and the counts of notices not posted. -/
def Partition.settings (q : Partition) : Partition := { q with ctxs := [], pmSaved := [], noticeDrop := 0, noticeLost := 0 }

/-- Every partition's settings are as they were. -/
structure SameSettings (s t : State) : Prop where
  settings : ∀ p, (t.part p).settings = (s.part p).settings

namespace SameSettings

theorem refl (s : State) : SameSettings s s := ⟨fun _ => rfl⟩

theorem trans {s t u : State} (h : SameSettings s t) (h' : SameSettings t u) : SameSettings s u :=
  ⟨fun p => (h'.settings p).trans (h.settings p)⟩

theorem foldl {α : Type} {f : State → α → State} (hf : ∀ s a, SameSettings s (f s a)) (xs : List α) (s : State) :
    SameSettings s (xs.foldl f s) :=
  foldl_keep (SameSettings s) f (fun x a h => h.trans (hf x a)) xs s (refl s)

theorem ite {P : Prop} [Decidable P] {s t u : State} (ht : SameSettings s t) (hu : SameSettings s u) :
    SameSettings s (if P then t else u) := by
  split
  · exact ht
  · exact hu

theorem of_parts {s t : State} (h : t.parts = s.parts) : SameSettings s t :=
  ⟨fun p => by rw [State.part, h, State.part]⟩

theorem modPart (s : State) (p : Nat) {f : Partition → Partition} (hf : ∀ q, (f q).settings = q.settings) :
    SameSettings s (s.modPart p f) := by
  refine ⟨fun q => ?_⟩
  rw [State.part_modPart]
  split
  · exact hf _
  · rfl

theorem modCtx (s : State) (p c : Nat) (f : Context → Context) : SameSettings s (s.modCtx p c f) := by
  unfold State.modCtx State.setCtx
  exact modPart s p fun _ => rfl

section
variable {s t : State} (h : SameSettings s t) (p : Nat)
include h

theorem halt : (t.part p).halt = (s.part p).halt := (congrArg Partition.halt (h.settings p) :)
theorem halted : (t.part p).halted = (s.part p).halted := (congrArg Partition.halted (h.settings p) :)
theorem dbgStep : (t.part p).dbgStep = (s.part p).dbgStep := (congrArg Partition.dbgStep (h.settings p) :)
theorem dbgStopped : (t.part p).dbgStopped = (s.part p).dbgStopped := (congrArg Partition.dbgStopped (h.settings p) :)

end

/-! ## Errors and notices (06 R154, 07 R180) -/

theorem postNotice (s : State) (p kind status w1 w2 w3 : Nat) : SameSettings s (s.postNotice p kind status w1 w2 w3) :=
  .ite (modPart s p fun _ => rfl) (of_parts rfl)

theorem postError (s : State) (core part kind addr pa : Nat) (wb : Bool) :
    SameSettings s (s.postError core part kind addr pa wb) := by
  refine SameSettings.trans (of_parts ?_) (postNotice _ part 4 kind pa 0 0)
  unfold State.postOrLose
  split <;> rfl

theorem checkRead (s : State) (part stack kind lo n : Nat) : SameSettings s (s.checkRead part stack kind lo n).1 := by
  unfold State.checkRead
  split
  · exact refl s
  · split
    · exact refl s
    · dsimp only
      split
      · exact .ite (of_parts rfl) (of_parts rfl)
      · exact of_parts rfl

/-! ## Lines leave the register caches (05 R114, 25 R451) -/

theorem imageWrite (s : State) (t : Team) (va : Nat) (bs : List Byte) : SameSettings s (s.imageWrite t va bs) := by
  unfold State.imageWrite
  split
  · exact of_parts (State.homeWrite_parts ..)
  · exact refl s

theorem lineOut_write (r : LineOut) (t : Team) (base : Nat) (x : Nat × List Byte) :
    SameSettings r.s (r.write t base x).s := by
  have hread := checkRead r.s t.part (clusterOf t.core / 4) 4 (base + 128 * (x.1 / 128)) 128
  simp only [LineOut.write, apply_ite LineOut.s]
  exact .ite (refl _) (.ite (imageWrite ..) (.ite (hread.trans (postError ..)) (hread.trans (imageWrite ..))))

theorem writeLines (s : State) (t : Team) (base : Nat) (ps : List (Nat × List Byte)) :
    SameSettings s (s.writeLines t base ps).s :=
  foldl_keep (fun r : LineOut => SameSettings s r.s) _ (fun r x h => h.trans (lineOut_write r t base x)) ps _ (refl s)

theorem evict (s : State) (v : Line) : SameSettings s (s.evict v).1 := by
  obtain ⟨tid, g, line⟩ := v
  unfold State.evict
  split
  · exact refl s
  · next t _ =>
    dsimp only
    rw [apply_ite Prod.fst]
    cases g with
    | none =>
      exact .ite (writeLines ..)
        ((writeLines s t _ _).trans (of_parts ((State.modTeam_parts ..).trans (State.count_parts ..))))
    | some i =>
      exact .ite (writeLines ..)
        ((writeLines s t _ _).trans (of_parts ((State.modGroup_parts ..).trans (State.count_parts ..))))

theorem evictSome (core n : Nat) (vs : List Line) (s : State) : SameSettings s (State.evictSome core n vs s) := by
  induction vs generalizing s with
  | nil => exact refl s
  | cons v vs ih => exact .ite (refl s) ((evict s v).trans (ih _))

theorem makeRoom (s : State) (core n : Nat) : SameSettings s (s.makeRoom core n) :=
  .ite (refl s) (SameSettings.trans (t := s.drawChoice.2) (of_parts rfl) (evictSome ..))

/-! ## A context comes back (03 R59, R73) -/

theorem rindRead (s : State) (p cl : Nat) : SameSettings s (s.rindRead p cl) :=
  .ite ((checkRead s ..).trans (postError _ ..)) (checkRead s ..)

theorem unpark (s : State) (tid : Nat) (t : Team) : SameSettings s (s.unpark tid t) := by
  unfold State.unpark
  exact (SameSettings.ite (of_parts (State.modCluster_parts ..)) (refl s)).trans
    ((SameSettings.ite (refl _) (of_parts (State.modDxp_parts ..))).trans (of_parts (State.modTeam_parts ..)))

theorem wake (s : State) (p c : Nat) : SameSettings s (s.wake p c) := by
  have hread := foldl (fun x k => rindRead x p k) (s.ctxClusters p c) s
  have hback (x : State) (es : List (Nat × Team)) :
      SameSettings x (es.foldl (fun (y : State) e => if e.2.saved then y.unpark e.1 e.2 else y) x) :=
    foldl (fun y e => .ite (unpark y e.1 e.2) (refl y)) es x
  have hdrop (x : State) (ks : List Nat) : SameSettings x (ks.foldl (fun (y : State) k => y.modCore k Core.dropClean) x) :=
    foldl (fun y k => of_parts (State.modCore_parts y k _)) ks x
  exact hread.trans ((hback _ _).trans (hdrop _ _))

theorem pmIn (s : State) (ks : List Nat) (fresh : Bool) : SameSettings s (s.pmIn ks fresh) := by
  refine foldl (fun x k => ?_) ks s
  split
  · refine SameSettings.trans (of_parts (State.modCore_parts ..)) (modPart _ _ ?_)
    exact fun _ => rfl
  · exact .ite (of_parts rfl) (refl x)

theorem showMsg (s : State) (p c : Nat) (m : Msg) : SameSettings s (s.showMsg p c m) :=
  State.showMsg_eq s p c m ▸ modCtx s p c _

theorem showDue (p c n : Nat) (s : State) : SameSettings s (s.showDue p c n) := by
  induction n generalizing s with
  | zero => exact refl s
  | succ n ih =>
    rw [State.showDue]
    split
    · exact refl s
    · exact (showMsg s p c _).trans (ih _)

theorem closeStop (s : State) (p c : Nat) : SameSettings s (s.closeStop p c) :=
  (modCtx s p c _).trans (showDue p c _ _)

theorem resume (s : State) (p c : Nat) (atOnce : Bool) : SameSettings s (s.resume p c atOnce) :=
  .ite (closeStop s p c)
    (SameSettings.trans (t := s.drawChoice.2) (of_parts rfl) (.ite (closeStop _ p c) (modCtx _ p c _)))

theorem comeBack (s : State) (p c : Nat) (atOnce : Bool) : SameSettings s (s.comeBack p c atOnce) := by
  have hroom := foldl (fun x k => makeRoom x k (x.backPins p c k)) (s.ctxCores p c) s
  exact .ite (refl s) (.ite hroom (hroom.trans ((wake _ p c).trans ((pmIn _ _ false).trans (resume _ p c atOnce)))))

theorem endStop (s : State) (p c : Nat) (why : StopWhy) : SameSettings s (s.endStop p c why) := by
  have hdrop : SameSettings s (s.dropWhy p c why) := modCtx s p c _
  exact .ite (refl s) (.ite (hdrop.trans (comeBack _ p c _)) hdrop)

theorem openStop (s : State) (p c : Nat) (why : StopWhy) : SameSettings s (s.openStop p c why) := modCtx s p c _

end SameSettings

end Sys2Proof.Machine
end

section
/-!
CLPART and PARTCTL (05 R127, R128, 19 R428): what the moves of partition control write, and what they leave.
-/
namespace Sys2Proof.Machine

open Host (Outcome)

/-! ## A register access (19 R440) -/

section
variable {s : State}

theorem State.onReg_ready (h : s.ready = true) (t : State) : s.onReg t = .next t := if_pos h

theorem State.onReg_not_ready (h : s.ready = false) (t : State) : s.onReg t = .next s := by
  rw [State.onReg, h, if_neg Bool.false_ne_true]

end

theorem State.onReg_completes (s t : State) : Completes (s.onReg t) := by
  unfold State.onReg
  split
  · exact ⟨_, rfl⟩
  · exact ⟨_, rfl⟩

/-! ## What moving counters and settling leave (09 R219, 19 R439) -/

theorem State.pmOut_keeps {α : Type} {o : State → α} (hcore : ∀ s k f, o (State.modCore s k f) = o s)
    (hpart : ∀ s p f, o (State.modPart s p f) = o s) (s : State) (ks : List Nat) : o (s.pmOut ks) = o s := by
  refine foldl_keep (fun x => o x = o s) _ (fun x k hx => ?_) ks s rfl
  dsimp only
  split
  · exact hx
  · exact (hcore ..).trans ((hpart ..).trans hx)

theorem State.pmIn_keeps {α : Type} {o : State → α} (hcore : ∀ s k f, o (State.modCore s k f) = o s)
    (hpart : ∀ s p f, o (State.modPart s p f) = o s) (s : State) (ks : List Nat) (fresh : Bool) :
    o (s.pmIn ks fresh) = o s := by
  refine foldl_keep (fun x => o x = o s) _ (fun x k hx => ?_) ks s rfl
  split
  · exact (hpart ..).trans ((hcore ..).trans hx)
  · split
    · exact (hcore ..).trans hx
    · exact hx

/-- Settling changes a cluster's step and its clean interval alone. -/
theorem State.cluster_settle_keeps {α : Type} {o : Cluster → α} (ho : ∀ x st, o { x with step := st, opKey := none } = o x)
    (s : State) (c n : Nat) : o ((s.settle c).cluster n) = o (s.cluster n) := by
  rw [State.settle, State.cluster_modCluster]
  split
  · split
    · rfl
    · exact ho ..
  · rfl

/-! ## CLPART (05 R127) -/

/-- The cluster is placed, or not, in a partition. -/
def State.clpartSet (s : State) (cluster : Nat) (val : W32) : State :=
  (((s.pmOut (clusterCores cluster)).modCluster cluster fun c =>
    { c with valid := val.getLsbD 7, part := val.setWidth 4 }).pmIn (clusterCores cluster) true).settle cluster

section
variable {s : State} {n : Nat} (hn : n < 16) (hready : s.ready = true) (v : W32)
include hn hready

theorem execClpartWrite_refused (h : s.inReset n = false) :
    execClpartWrite n v s = .next { s with clparterr := true } := by
  rw [execClpartWrite, if_neg (by omega), State.onReg_ready hready, h]
  rfl

theorem execClpartWrite_in_reset (h : s.inReset n = true) : execClpartWrite n v s = .next (s.clpartSet n v) := by
  rw [execClpartWrite, if_neg (by omega), State.onReg_ready hready, h]
  rfl

end

theorem State.cluster_clpartSet (s : State) (n : Nat) (v : W32) :
    ((s.clpartSet n v).cluster n).valid = v.getLsbD 7 ∧ ((s.clpartSet n v).cluster n).part = v.setWidth 4 := by
  have hpm (x : State) : (x.pmIn (clusterCores n) true).cluster n = x.cluster n :=
    State.pmIn_keeps (o := fun x => x.cluster n) (fun x k f => State.cluster_modCore x k f n)
      (fun x p f => State.cluster_modPart x p f n) x _ _
  constructor
  · rw [State.clpartSet, State.cluster_settle_keeps (o := Cluster.valid) (fun _ _ => rfl), hpm, State.cluster_modCluster,
      if_pos rfl]
  · rw [State.clpartSet, State.cluster_settle_keeps (o := Cluster.part) (fun _ _ => rfl), hpm, State.cluster_modCluster,
      if_pos rfl]

theorem State.home_clpartSet (s : State) (n : Nat) (v : W32) : (s.clpartSet n v).home = s.home := by
  have hsettle (x : State) : (x.settle n).home = x.home := rfl
  rw [State.clpartSet, hsettle, State.pmIn_keeps (o := State.home) (fun _ _ _ => rfl) (fun _ _ _ => rfl), State.modCluster_home,
    State.pmOut_keeps (o := State.home) (fun _ _ _ => rfl) (fun _ _ _ => rfl)]

/-! ## EN is set (05 R128, 08 R205, 07 R177) -/

theorem State.part_foldl_modCore (f : Nat → Core → Core) (ks : List Nat) (s : State) (p : Nat) :
    (ks.foldl (fun (x : State) k => x.modCore k (f k)) s).part p = s.part p :=
  foldl_keep (fun x : State => x.part p = s.part p) _ (fun x k hx => (State.part_modCore x k _ p).trans hx) ks s rfl

theorem State.part_clearCounters (s : State) (p : Nat) :
    (s.clearCounters p).part p = { s.part p with pmSaved := [] } := by
  have hunits (x : State) (u : SMap Pm) : ({ x with units := u } : State).part p = x.part p := rfl
  unfold State.clearCounters
  dsimp only
  rw [hunits, State.part_modPart, if_pos rfl, State.part_foldl_modCore fun _ c => { c with pm := [] }]

/-- What clearing a partition's counters and settling leave of the state. -/
theorem State.clearCounters_keeps {α : Type} {o : State → α} (hcore : ∀ s k f, o (State.modCore s k f) = o s)
    (hpart : ∀ s p f, o (State.modPart s p f) = o s) (hunits : ∀ (s : State) u, o { s with units := u } = o s)
    (s : State) (p : Nat) : o (s.clearCounters p) = o s :=
  (hunits ..).trans ((hpart ..).trans
    (foldl_keep (fun x => o x = o s) _ (fun _ _ hx => (hcore ..).trans hx) _ s rfl))

theorem State.part_settleAll (s : State) (p : Nat) : s.settleAll.part p = s.part p :=
  State.settleAll_keeps (fun x => x.part p) (fun _ _ => rfl) s

theorem State.part_enable (s : State) (p : Nat) :
    ((s.enable p).part p).en = true ∧ ((s.enable p).part p).keyGen = s.keyNext
      ∧ ((s.enable p).part p).epoch = satAdd (s.part p).epoch 1 ∧ ((s.enable p).part p).present = 0x3FF
      ∧ ((s.enable p).part p).nextLaunch = 0 := by
  unfold State.enable
  dsimp only
  rw [State.part_settleAll, State.part_clearCounters, State.part_modPart, if_pos rfl, State.part_modPart, if_pos rfl]
  exact ⟨rfl, rfl, rfl, rfl, rfl⟩

theorem State.home_enable (s : State) (p : Nat) : (s.enable p).home = s.home :=
  (State.settleAll_keeps State.home (fun _ _ => rfl) _).trans
    (State.clearCounters_keeps (o := State.home) (fun _ _ _ => rfl) (fun _ _ _ => rfl) (fun _ _ => rfl) _ p)

section
variable {s : State} {p : Nat} (hp : p < 16) (hready : s.ready = true)
include hp hready

theorem execPartctlEnSet_busy (hbusy : (s.part p).busy = true) :
    execPartctlEnSet p s = .next { s with clparterr := true } := by
  rw [execPartctlEnSet, if_neg (by omega)]
  dsimp only
  rw [State.onReg_ready hready, hbusy, if_pos rfl]
  rfl

theorem execPartctlEnSet_enables (hbusy : (s.part p).busy = false) (hen : (s.part p).en = false) :
    execPartctlEnSet p s = .next (s.enable p) := by
  rw [execPartctlEnSet, if_neg (by omega)]
  dsimp only
  rw [State.onReg_ready hready, hbusy, hen, if_neg Bool.false_ne_true, if_neg Bool.false_ne_true]

theorem execPartctlEnClear_resets (hen : (s.part p).en = true) : execPartctlEnClear p s = .next (s.resetPart p) := by
  rw [execPartctlEnClear, if_neg (by omega), State.onReg_ready hready, if_pos hen]

theorem execPartctlEnClear_off (hen : (s.part p).en = false) : execPartctlEnClear p s = .next s := by
  rw [execPartctlEnClear, if_neg (by omega), State.onReg_ready hready, hen, if_neg Bool.false_ne_true]

/-- A function-level reset is the write of EN that changes it (19 R428). -/
theorem execVfFunctionLevelReset_is_en_write (hbusy : (s.part p).busy = false) :
    execVfFunctionLevelReset p s = if (s.part p).en then execPartctlEnClear p s else execPartctlEnSet p s := by
  cases hen : (s.part p).en
  · rw [if_neg Bool.false_ne_true, execPartctlEnSet_enables hp hready hbusy hen]
    simp [execVfFunctionLevelReset, hbusy, hen, hp, State.onReg_ready hready]
  · rw [if_pos rfl, execPartctlEnClear_resets hp hready hen]
    simp [execVfFunctionLevelReset, hbusy, hen, hp, State.onReg_ready hready]

end

/-! ## A partition is reset (05 R128, 07 R182) -/

theorem State.part_resetPart (s : State) (p : Nat) :
    ∃ q : Partition, (s.resetPart p).part p = { q.cleared with pmSaved := [] } := by
  unfold State.resetPart
  dsimp only
  rw [State.part_settleAll, State.part_clearCounters, State.part_modPart, if_pos rfl]
  exact ⟨_, rfl⟩

/-- A partition's reset of all but its teams and its own fields. -/
def State.resetUnits (s : State) (p : Nat) : State :=
  (((((((((s.epReset p).resetColls p).resetAbroad p).resetHandles p).resetFabric p).resetCores p).resetClusters p).resetLaunches
    p).resetOpt p)

theorem State.teams_resetPart_eq (s : State) (p : Nat) :
    (s.resetPart p).teams = (s.resetUnits p).teams.filter fun e => !((s.resetUnits p).teamsOf p).contains e.1 := by
  unfold State.resetPart
  dsimp only
  rw [State.settleAll_keeps State.teams (fun _ _ => rfl),
    State.clearCounters_keeps (o := State.teams) (fun _ _ _ => rfl) (fun _ _ _ => rfl) (fun _ _ => rfl), State.modPart_teams,
    State.resetUnits]

theorem State.teams_resetPart (s : State) (p : Nat) : ∀ e ∈ (s.resetPart p).teams, e.2.part ≠ p := by
  intro e he hpart
  rw [State.teams_resetPart_eq] at he
  obtain ⟨hmem, hgone⟩ := List.mem_filter.1 he
  have hof : e.1 ∈ (s.resetUnits p).teamsOf p :=
    List.mem_map_of_mem (List.mem_filter.2 ⟨hmem, by simpa using hpart⟩)
  simp [hof] at hgone

theorem execPartitionResetComplete_clears {s : State} {p : Nat} (hbusy : (s.part p).busy = true) :
    execPartitionResetComplete p s = .next (s.modPart p fun q => { q with busy := false }) := if_pos hbusy

/-! ## HALT (05 R128) -/

/-- HALT is set and every context stops. -/
def State.haltSet (s : State) (p : Nat) : State :=
  (s.ctxsOf p).foldl (fun (x : State) c => x.openStop p c .halt) (s.modPart p fun q => { q with halt := true })

/-- HALT is cleared and the halt's intervals end. -/
def State.haltCleared (s : State) (p : Nat) : State :=
  let s1 := s.pmIn (s.coresOf p) false
  (s1.ctxsOf p).foldl (fun (x : State) c => x.endStop p c .halt)
    (s1.modPart p fun q => { q with halt := false, halted := false })

section
variable {s : State} {p : Nat} (hp : p < 16) (hready : s.ready = true)
include hp hready

theorem execPartctlHaltSet_refused (hen : (s.part p).en = false) :
    execPartctlHaltSet p s = .next { s with clparterr := true } := by
  simp [execPartctlHaltSet, hp, hready, hen, State.clpartErr]

theorem execPartctlHaltSet_halts (hen : (s.part p).en = true) (hhalt : (s.part p).halt = false) :
    execPartctlHaltSet p s = .next (s.haltSet p) := by
  simp [execPartctlHaltSet, hp, hready, hen, hhalt, State.haltSet]

theorem execPartctlHaltClear_resumes (hen : (s.part p).en = true) (hhalt : (s.part p).halt = true) :
    execPartctlHaltClear p s = .next (s.haltCleared p) := by
  simp [execPartctlHaltClear, hp, hen, hhalt, State.haltCleared, State.onReg_ready hready]

end

/-- An open interval stays open when another context's opens. -/
theorem State.stopped_openStop_of_stopped {s : State} {p c : Nat} (h : s.stopped p c = true) (d : Nat) (why : StopWhy) :
    (s.openStop p d why).stopped p c = true := by
  by_cases hc : c = d
  · exact hc ▸ State.stopped_openStop s p c why
  · simpa [State.stopped, State.openStop, hc] using h

theorem State.stopped_foldl_openStop {p c : Nat} {cs : List Nat} (hc : c ∈ cs) (why : StopWhy) (s : State) :
    (cs.foldl (fun (x : State) d => x.openStop p d why) s).stopped p c = true := by
  induction cs generalizing s with
  | nil => cases hc
  | cons d cs ih =>
    rcases List.mem_cons.1 hc with rfl | hmem
    · exact foldl_keep (fun x : State => x.stopped p c = true) _ (fun _ d hx => State.stopped_openStop_of_stopped hx d why) cs _
        (State.stopped_openStop s p c why)
    · exact ih hmem _

theorem State.haltSet_halts (s : State) (p : Nat) :
    ((s.haltSet p).part p).halt = true ∧ ∀ c ∈ s.ctxsOf p, (s.haltSet p).stopped p c = true := by
  refine ⟨?_, fun c hc => State.stopped_foldl_openStop hc .halt _⟩
  have hopen := SameSettings.foldl (fun x c => SameSettings.openStop x p c .halt) (s.ctxsOf p)
    (s.modPart p fun q => { q with halt := true })
  exact (hopen.halt p).trans (by simp)

theorem State.part_haltCleared (s : State) (p : Nat) :
    ((s.haltCleared p).part p).halt = false ∧ ((s.haltCleared p).part p).halted = false := by
  have hend := SameSettings.foldl (fun x c => SameSettings.endStop x p c .halt) ((s.pmIn (s.coresOf p) false).ctxsOf p)
    ((s.pmIn (s.coresOf p) false).modPart p fun q => { q with halt := false, halted := false })
  exact ⟨(hend.halt p).trans (by simp), (hend.halted p).trans (by simp)⟩

theorem partitionControl : PartitionControl := by
  intro s p hp hready
  simp only [exec_clpartWrite, exec_partctlEnSet, exec_partctlEnClear, exec_partitionResetComplete,
    exec_vfFunctionLevelReset, exec_partctlHaltSet, exec_partctlHaltClear]
  refine ⟨fun v => ⟨execClpartWrite_refused hp hready v, fun hreset => ⟨_, execClpartWrite_in_reset hp hready v hreset,
      (s.cluster_clpartSet p v).1, (s.cluster_clpartSet p v).2, s.home_clpartSet p v⟩⟩,
    execPartctlEnSet_busy hp hready, fun hbusy hen => ⟨_, execPartctlEnSet_enables hp hready hbusy hen, ?_⟩,
    fun hen => ⟨_, execPartctlEnClear_resets hp hready hen, ?_⟩, execPartctlEnClear_off hp hready,
    fun hbusy => ⟨_, execPartitionResetComplete_clears hbusy, by simp⟩,
    execVfFunctionLevelReset_is_en_write hp hready, execPartctlHaltSet_refused hp hready,
    fun hen hhalt => ⟨_, execPartctlHaltSet_halts hp hready hen hhalt, s.haltSet_halts p⟩,
    fun hen hhalt => ⟨_, execPartctlHaltClear_resumes hp hready hen hhalt, s.part_haltCleared p⟩⟩
  · obtain ⟨hon, hkey, hepoch, hpresent, hnext⟩ := s.part_enable p
    exact ⟨hon, hkey, hepoch, hpresent, hnext, s.home_enable p⟩
  · obtain ⟨q, hq⟩ := s.part_resetPart p
    rw [hq]
    exact ⟨rfl, rfl, rfl, rfl, s.teams_resetPart p⟩

end Sys2Proof.Machine
end

section
/-!
MASTCTL and DBGCTL (05 R130, 18 R410): a program starts on a mast core; GO, STEP set and STEP cleared.
-/
namespace Sys2Proof.Machine

open Host (Outcome)

/-! ## A program starts on a mast core (05 R130) -/

@[simp] theorem State.nextTid_loadCtx (s : State) (p c : Nat) : (s.loadCtx p c).nextTid = s.nextTid := by
  simp only [State.loadCtx, apply_ite State.nextTid, State.setCtx_nextTid, State.modPart_nextTid, ite_self]

theorem State.mState_startMast (s : State) (n : Nat) : ((s.startMast n).cluster n).mState = 1 := by
  simp [State.startMast]

theorem State.mast_startMast (s : State) (n : Nat) : ((s.startMast n).team? s.nextTid).map Team.mast = some true := by
  have hnext (x : State) (m tid : Nat) : ({ x with nextTid := m } : State).team? tid = x.team? tid := rfl
  unfold State.startMast
  dsimp only [State.drawBytes]
  rw [State.team?_modCluster, hnext, State.team?_setTeam, if_pos rfl]
  rfl

/-- The state in which a program that MASTCTL starts finds its context: the fields written, the record read. -/
def State.mastReady (s : State) (n : Nat) (v : W32) : State :=
  (s.modCluster n fun x => x.mastFields v.toNat).loadCtx (s.cluster n).part.toNat (bits v.toNat 13 8)

theorem Cluster.mCtx_mastFields (c : Cluster) (val : Nat) : (c.mastFields val).mCtx.toNat = bits val 13 8 :=
  Nat.mod_eq_of_lt (Nat.mod_lt _ (by decide))

section
variable {s : State} {n : Nat} {v : W32} (hn : n < 16) (hready : s.ready = true) (hgo : v.getLsbD 0 = true)
include hn hready hgo

theorem execMastctlGo_eq : execMastctlGo n v s = .next
    (if s.inReset n || (s.cluster n).mState == 1 || !s.ctxValid (s.cluster n).part.toNat (bits v.toNat 13 8)
      then { s with clparterr := true } else (s.mastReady n v).startMast n) := by
  have hctx : (((s.modCluster n fun x => x.mastFields v.toNat).cluster n).mCtx).toNat = bits v.toNat 13 8 := by
    rw [State.cluster_modCluster, if_pos rfl, Cluster.mCtx_mastFields]
  have hguard : (decide (16 ≤ n) || !v.getLsbD 0) = false := by
    rw [hgo, decide_eq_false (by omega)]
    rfl
  rw [execMastctlGo, hguard, if_neg Bool.false_ne_true]
  dsimp only
  rw [State.onReg_ready hready, hctx]
  rfl

theorem execMastctlGo_refused (h : s.inReset n = true ∨ (s.cluster n).mState = 1
    ∨ s.ctxValid (s.cluster n).part.toNat (bits v.toNat 13 8) = false) :
    execMastctlGo n v s = .next { s with clparterr := true } := by
  rw [execMastctlGo_eq hn hready hgo, if_pos (by simpa [or_assoc] using h)]

theorem execMastctlGo_starts (hreset : s.inReset n = false) (hstate : (s.cluster n).mState ≠ 1)
    (hvalid : s.ctxValid (s.cluster n).part.toNat (bits v.toNat 13 8) = true) :
    execMastctlGo n v s = .next ((s.mastReady n v).startMast n) := by
  rw [execMastctlGo_eq hn hready hgo, if_neg (by simpa [hreset, hvalid] using hstate)]

end

/-! ## The debugger (18 R410) -/

/-- Outside step mode, GO leaves STOPPED as the write of GO has set it. -/
theorem SameSettings.goCtx {s : State} {p : Nat} (hstep : (s.part p).dbgStep = false) (c : Nat) :
    SameSettings s (s.goCtx p c) := by
  have hbrk := SameSettings.endStop s p c .brk
  unfold State.goCtx
  dsimp only
  rw [hbrk.dbgStep p, hstep]
  exact .ite hbrk (hbrk.trans (SameSettings.endStop _ p c .step))

/-- STOPPED is cleared, and every context goes on. -/
def State.dbgGone (s : State) (p : Nat) : State :=
  (s.ctxsOf p).foldl (fun (x : State) c => x.goCtx p c) (s.modPart p fun q => { q with dbgStopped := false })

theorem State.dbgStopped_dbgGone {s : State} {p : Nat} (hstep : (s.part p).dbgStep = false) :
    ((s.dbgGone p).part p).dbgStopped = false := by
  have hgo : SameSettings (s.modPart p fun q => { q with dbgStopped := false }) (s.dbgGone p) :=
    foldl_keep (SameSettings _) _
      (fun x c hx => hx.trans (SameSettings.goCtx ((hx.dbgStep p).trans (by simpa using hstep)) c)) _ _ (SameSettings.refl _)
  exact (hgo.dbgStopped p).trans (by simp)

theorem State.dbgStep_stepSet (s : State) (p : Nat) : ((s.stepSet p).part p).dbgStep = true := by
  unfold State.stepSet
  split
  · assumption
  · have hstop := SameSettings.foldl (fun x c => (SameSettings.openStop x p c .step).trans
      (SameSettings.modCtx _ p c fun y => { y with stepped := [] }))
      ((s.modPart p fun q => { q with dbgStep := true, dbgStopped := true }).ctxsOf p)
      (s.modPart p fun q => { q with dbgStep := true, dbgStopped := true })
    exact (hstop.dbgStep p).trans (by simp)

section
variable {s : State} {n : Nat} (hn : n < 16) (hready : s.ready = true)
include hn

theorem execDbgctlGo_completes : Completes (execDbgctlGo n s) := by
  rw [execDbgctlGo, if_neg (by omega)]
  exact State.onReg_completes s _

include hready

theorem execDbgctlGo_not_stopped (h : (s.part n).dbgStopped = false) : execDbgctlGo n s = .next s := by
  rw [execDbgctlGo, if_neg (by omega), State.onReg_ready hready, State.dbgGo, h]
  rfl

theorem execDbgctlGo_stopped (h : (s.part n).dbgStopped = true) : execDbgctlGo n s = .next (s.dbgGone n) := by
  rw [execDbgctlGo, if_neg (by omega), State.onReg_ready hready, State.dbgGo, h]
  rfl

theorem execDbgctlStepSet_sets : execDbgctlStepSet n s = .next (s.stepSet n) := by
  rw [execDbgctlStepSet, if_neg (by omega), State.onReg_ready hready]

theorem execDbgctlStepClear_clears : execDbgctlStepClear n s = .next (s.modPart n fun q => { q with dbgStep := false }) := by
  rw [execDbgctlStepClear, if_neg (by omega), State.onReg_ready hready]

end

theorem mastAndDebugger : MastAndDebugger := by
  intro s n hn hready
  simp only [exec_mastctlGo, exec_dbgctlGo, exec_dbgctlStepSet, exec_dbgctlStepClear]
  refine ⟨fun v hgo => ⟨execMastctlGo_refused hn hready hgo, fun hreset hstate hvalid =>
      ⟨_, execMastctlGo_starts hn hready hgo hreset hstate hvalid, State.mState_startMast .., ?_⟩⟩,
    execDbgctlGo_completes hn, execDbgctlGo_not_stopped hn hready,
    fun hstopped hstep => ⟨_, execDbgctlGo_stopped hn hready hstopped, State.dbgStopped_dbgGone hstep⟩,
    ⟨_, execDbgctlStepSet_sets hn hready, State.dbgStep_stepSet s n⟩,
    ⟨_, execDbgctlStepClear_clears hn hready, by simp, rfl⟩⟩
  have hmast := (s.mastReady n v).mast_startMast n
  rwa [show (s.mastReady n v).nextTid = s.nextTid from State.nextTid_loadCtx ..] at hmast

end Sys2Proof.Machine
end

section
/-!
Counters, reads that clear, and the registers without a row of their own (09 R217, R218, R221, 07 R167, R169, 19 R430); what a
write does while the device is not READY (19 R440).
-/
namespace Sys2Proof.Machine

open Host (Outcome)

/-! ## The counters of a core (09 R217, R219) -/

theorem SMap.find?_map_snd {β : Type} (m : SMap β) (k : Nat) : (m.find? fun e => e.1 == k).map Prod.snd = SMap.find m k := by
  induction m with
  | nil => rfl
  | cons e m ih =>
    rw [List.find?_cons, SMap.find_cons]
    by_cases he : e.1 = k
    · simp [he]
    · rw [show (e.1 == k) = false by simpa using he, if_neg he]
      exact ih

theorem State.pmCopy_eq_find (s : State) (k : Nat) :
    s.pmCopy k = if (s.cluster (clusterOf k)).valid
      then SMap.find (s.part (s.cluster (clusterOf k)).part.toNat).pmSaved k else none := by
  simp only [State.pmCopy, SMap.find?_map_snd]

/-- A counter that is written reads as what it was written to, in the core or in the copy that a world switch has saved. -/
theorem State.corePm_modPm (s : State) (k n : Nat) (f : Pm → Pm) :
    SMap.get Pm.reset ((s.modPm (.core k) n f).corePm k) n = f (SMap.get Pm.reset (s.corePm k) n) := by
  have hwrite : (s.modPm (.core k) n f).corePm k = SMap.set Pm.reset (s.corePm k) n (f (SMap.get Pm.reset (s.corePm k) n)) := by
    unfold State.modPm
    dsimp only
    split
    · next hsaved =>
      have hvalid : (s.cluster (clusterOf k)).valid = true := by
        rw [State.pmCopy_eq_find] at hsaved
        cases hv : (s.cluster (clusterOf k)).valid with
        | true => rfl
        | false =>
          rw [hv, if_neg Bool.false_ne_true] at hsaved
          cases hsaved
      rw [State.corePm, State.pmCopy_eq_find]
      simp [hvalid]
    · next hnone =>
      have hcopy (g : Core → Core) : (s.modCore k g).pmCopy k = none := by
        have hsame : (s.modCore k g).pmCopy k = s.pmCopy k := rfl
        rw [hsame]
        simpa using hnone
      rw [State.corePm, hcopy]
      simp
  rw [hwrite, SMap.get_set_same]

section
variable {s : State} {ag : HostAgent} {u : PmUnit} {n : Nat} (f : Pm → Pm)

theorem State.onPm_completes : Completes (s.onPm ag u n f) := State.onReg_completes s _

theorem State.onPm_writer (hready : s.ready = true) (h : s.pmWriter ag u n = true) : s.onPm ag u n f = .next (s.modPm u n f) := by
  rw [State.onPm, State.onReg_ready hready, if_pos h]

theorem State.onPm_ignored (hready : s.ready = true) (h : s.pmWriter ag u n = false) : s.onPm ag u n f = .next s := by
  rw [State.onPm, State.onReg_ready hready, h, if_neg Bool.false_ne_true]

end

/-! ## A select register (09 R217, R218, R221) -/

section
variable (x : Pm) (ag : HostAgent) (u : PmUnit) (v : W32)

/-- A reprogramming or none: all of a select write but its COUNT. -/
theorem Pm.select_fields :
    (x.select ag u v).event = v.setWidth 7 ∧ (x.select ag u v).vf = agentVf ag v
      ∧ (x.select ag u v).en = (v.getLsbD 12 && unitSees u (v.toNat % 128))
      ∧ (x.select ag u v).ovf = if v.getLsbD 31 then x.wraps else x.ovf := by
  unfold Pm.select
  dsimp only
  split
  · exact ⟨rfl, rfl, rfl, rfl⟩
  · split
    · exact ⟨rfl, rfl, rfl, rfl⟩
    · exact ⟨rfl, rfl, rfl, rfl⟩

theorem Pm.count_select_of_clr (h : v.getLsbD 30 = true) : (x.select ag u v).count = 0 := by
  unfold Pm.select
  dsimp only
  rw [if_pos h]
  rfl

end

/-! ## The offsets of the two kinds of block (19 R430) -/

theorem ownRow_cluster {n r : Nat} (hn : n < 16) (hr : 0 < r) (hlt : r < 0x100) :
    ownRow (0x20000 + r + 0x100 * n) = false := by
  simp only [ownRow, Bool.or_eq_false_iff, Bool.and_eq_false_iff, beq_eq_false_iff_ne, decide_eq_false_iff_not]
  omega

theorem ownRow_partition {n r : Nat} (hn : n < 16) (hr : 0 < r) (hlt : r < 0x100) :
    ownRow (0x10000 + r + 0x100 * n) = false := by
  simp only [ownRow, Bool.or_eq_false_iff, Bool.and_eq_false_iff, beq_eq_false_iff_ne, decide_eq_false_iff_not]
  omega

theorem State.writePfReg_cluster (s : State) {n r : Nat} (hn : n < 16) (hlt : r < 0x100) (v : W64) :
    s.writePfReg (0x20000 + r + 0x100 * n) v = s.writeClusterReg n r v := by
  rw [State.writePfReg, if_neg (by omega), if_neg (by omega), if_neg (by omega), if_pos (by omega),
    show (0x20000 + r + 0x100 * n - 0x20000) / 0x100 = n by omega, show (0x20000 + r + 0x100 * n) % 0x100 = r by omega]

theorem State.writePfReg_partition (s : State) {n r : Nat} (hn : n < 16) (hlt : r < 0x100) (v : W64) :
    s.writePfReg (0x10000 + r + 0x100 * n) v = s.writePartReg n r v := by
  rw [State.writePfReg, if_neg (by omega), if_neg (by omega), if_pos (by omega),
    show (0x10000 + r + 0x100 * n - 0x10000) / 0x100 = n by omega, show (0x10000 + r + 0x100 * n) % 0x100 = r by omega]

/-! ## Reads that clear (07 R167, R169) -/

section
variable {s : State} (hready : s.ready = true)
include hready

theorem execEvqstatRead_clears {n : Nat} (hn : n < 16) : execEvqstatRead n s
    = .next ((s.modCluster n fun x => { x with lost := 0 }).emit (.regRead (BitVec.ofNat 64 (s.cluster n).evqstat))) := by
  rw [execEvqstatRead, if_neg (by omega)]
  exact State.onReg_ready hready _

theorem execDxpTrapqRead_takes {k : Nat} {x : Nat × TrapRec} {rest : List (Nat × TrapRec)}
    (hq : (s.core k).dxp.trapq = x :: rest) :
    execDxpTrapqRead k s = .next ((s.modDxp k fun d => { d with trapq := rest }).emit (.trapRead x.2)) := by
  rw [execDxpTrapqRead, hq]
  exact State.onReg_ready hready _

/-! ## Registers without a row of their own (19 R430) -/

/-- S writes a register without a row of its own; a write of MASTCTL with GO set has one. -/
theorem execRegisterWrite_sysSw {off : Nat} {v : W64} (hrow : ownRow off = false)
    (hgo : ¬ (0x20000 ≤ off ∧ off < 0x21000 ∧ off % 0x100 = 0x30 ∧ v.getLsbD 0 = true)) :
    execRegisterWrite .sysSw off v s = .next (s.writePfReg off v) := by
  have hguard : (ownRow off
      || (decide (0x20000 ≤ off) && decide (off < 0x21000) && off % 0x100 == 0x30 && v.getLsbD 0)) = false := by
    rw [hrow, Bool.false_or, Bool.eq_false_iff]
    simpa [and_assoc] using hgo
  simp only [execRegisterWrite]
  rw [hguard, if_neg Bool.false_ne_true, if_pos hready]

/-- Register r of cluster n's block, before MASTCTL. -/
theorem execRegisterWrite_cluster {n r : Nat} (hn : n < 16) (hr : 0 < r) (hlt : r < 0x30) (v : W64) :
    execRegisterWrite .sysSw (0x20000 + r + 0x100 * n) v s = .next (s.writeClusterReg n r v) := by
  rw [execRegisterWrite_sysSw hready (ownRow_cluster hn hr (by omega)) (by omega), State.writePfReg_cluster s hn (by omega)]

/-- Register r of partition n's block. -/
theorem execRegisterWrite_partition {n r : Nat} (hn : n < 16) (hr : 0 < r) (hlt : r < 0x100) (v : W64) :
    execRegisterWrite .sysSw (0x10000 + r + 0x100 * n) v s = .next (s.writePartReg n r v) := by
  rw [execRegisterWrite_sysSw hready (ownRow_partition hn hr hlt) (by omega), State.writePfReg_partition s hn hlt]

end

theorem execRegisterWrite_virt (s : State) (p off : Nat) (v : W64) :
    execRegisterWrite (.virt p) off v s = if s.ownVfRow p off then .fault .notEnabled else .next s := rfl

theorem countersAndReads : CountersAndReads := by
  intro s ag k n hready
  simp only [exec_pmselClr, exec_pmselWrite, exec_pmcntWrite, exec_registerWrite, exec_evqstatRead, exec_dxpTrapqRead]
  refine ⟨fun u => ⟨State.onPm_completes _, fun v => State.onPm_completes _, fun v => State.onPm_completes _⟩,
    fun off v hrow hgo => ⟨_, execRegisterWrite_sysSw hready hrow hgo⟩, fun hwriter x hx => ?_,
    fun u hignored => ⟨State.onPm_ignored _ hready hignored, fun v => State.onPm_ignored _ hready hignored,
      fun v => State.onPm_ignored _ hready hignored⟩,
    fun hn => ⟨_, execEvqstatRead_clears hready hn, by simp, rfl⟩,
    fun x rest hq => ⟨_, execDxpTrapqRead_takes hready hq, by simp [State.modDxp], rfl⟩, fun off v => rfl,
    fun p off v => ⟨fun hrow => by rw [execRegisterWrite_virt, hrow]; rfl, fun hrow => by rw [execRegisterWrite_virt, hrow]; rfl⟩,
    fun hn v => ⟨⟨_, execRegisterWrite_cluster hready hn (r := 0x08) (by decide) (by decide) v, ?_⟩,
      ⟨_, execRegisterWrite_cluster hready hn (r := 0x10) (by decide) (by decide) v, ?_⟩,
      ⟨_, execRegisterWrite_cluster hready hn (r := 0x18) (by decide) (by decide) v, ?_⟩,
      ⟨_, execRegisterWrite_partition hready hn (r := 0x08) (by decide) (by decide) v, ?_⟩⟩⟩
  · subst hx
    refine ⟨⟨_, State.onPm_writer _ hready hwriter, State.corePm_modPm ..⟩,
      fun v => ⟨_, State.onPm_writer _ hready hwriter, State.corePm_modPm .., rfl⟩,
      fun v => ⟨_, _, State.onPm_writer _ hready hwriter, rfl, ?_⟩⟩
    rw [State.corePm_modPm]
    obtain ⟨hevent, hvf, hen, hovf⟩ := Pm.select_fields (SMap.get Pm.reset (s.corePm k) n) ag (.core k) v
    refine ⟨hevent, hvf, hen, fun hclear => ?_, fun hclear hwraps => ?_, Pm.count_select_of_clr _ _ _ _⟩
    · rw [hovf, hclear, if_neg Bool.false_ne_true]
    · rw [hovf, hclear, if_pos rfl, hwraps]
  · simp [State.writeClusterReg]
  · simp [State.writeClusterReg]
  · simp [State.writeClusterReg]
  · cases hen : (s.part n).en <;> simp [State.writePartReg, hen]

/-! ## Not READY (19 R440) -/

theorem notReady : NotReady := by
  intro s p hp hready
  have hoff (t : State) : s.onReg t = .next s := State.onReg_not_ready hready t
  have hin : ¬ 16 ≤ p := by omega
  have hhalt : execPartctlHaltSet p s = .next s := (if_neg hin).trans (if_pos (by rw [hready]; rfl))
  exact ⟨(if_neg hin).trans (hoff _), (if_neg hin).trans (hoff _), hhalt, (if_neg hin).trans (hoff _),
    (if_neg hin).trans (hoff _), (if_neg hin).trans (hoff _), fun _ => (if_neg hin).trans (hoff _), fun _ _ _ _ => hoff _⟩

/-- Settles O57: partition control, the mast cores and the debugger, the counters and the reads that clear, and a device that is
not READY, each by its lemma. -/
theorem hostRegisters : Obligations.HostRegisters := ⟨partitionControl, mastAndDebugger, countersAndReads, notReady⟩

end Sys2Proof.Machine
end

section
/-!
Bytes written to home memory (06 R133, R151): what each key reads after a run of writes, and which keys name one key (06 R150).
-/
namespace Sys2Proof.Machine

/-! ## A run of bytes -/

theorem State.homeByte_homeWrite (s : State) (key pa a : Nat) (bs : List Byte) :
    (s.homeWrite key pa bs).homeByte key a
      = if pa ≤ a ∧ a < pa + bs.length then bs.getD (a - pa) 0 else s.homeByte key a := by
  induction bs generalizing s pa with
  | nil => exact (if_neg (by simp)).symm
  | cons b bs ih =>
    rw [State.homeWrite, ih, State.homeByte_homeSet, List.length_cons]
    by_cases ha : a = pa
    · subst ha
      rw [if_neg (by omega), if_pos rfl, if_pos (by omega), Nat.sub_self, List.getD_cons_zero]
    · by_cases hr : pa + 1 ≤ a ∧ a < pa + 1 + bs.length
      · rw [if_pos hr, if_pos (by omega), show a - pa = a - (pa + 1) + 1 by omega, List.getD_cons_succ]
      · rw [if_neg hr, if_neg ha, if_neg (by omega)]

/-- Under any key, a line that no byte of the run lies in reads as before (log 6). -/
theorem State.homeByte_homeWrite_other (s : State) (key k pa a : Nat) (bs : List Byte)
    (h : ∀ x, pa ≤ x → x < pa + bs.length → a / 128 ≠ x / 128) :
    (s.homeWrite key pa bs).homeByte k a = s.homeByte k a := by
  induction bs generalizing s pa with
  | nil => rfl
  | cons b bs ih =>
    rw [List.length_cons] at h
    rw [State.homeWrite, ih _ _ fun x hx hlt => h x (by omega) (by omega),
      State.homeByte_homeSet_other _ _ _ _ _ _ (h pa (Nat.le_refl pa) (by omega))]

/-- A run is read back whole. -/
theorem State.homeBytes_homeWrite (s : State) (key pa : Nat) (bs : List Byte) :
    (s.homeWrite key pa bs).homeBytes key pa bs.length = bs := by
  refine List.ext_getElem (by simp [State.homeBytes]) fun i hi hlt => ?_
  simp [State.homeBytes, State.homeByte_homeWrite, hlt]

/-- Settles O45: a read under the key of the write, a read of another line under any key (log 6), and host memory. -/
theorem homeReadAfterWrite : Obligations.HomeReadAfterWrite := fun s key pa bs =>
  ⟨fun a => State.homeByte_homeWrite s key pa a bs, fun k a h => State.homeByte_homeWrite_other s key k pa a bs h,
    fun a n => congrArg (SMap.range 0#8 · a n) (State.homeWrite_hostMem s key pa bs)⟩

end Sys2Proof.Machine
end

section
/-!
The physical function's commands (19 R431, R440, 06 R137, R138, 08 R202, R203): when a write of PFCMD is ignored, when it is
refused, and what each command leaves.
-/
namespace Sys2Proof.Machine

open Host (Outcome)

/-! ## A context is read from its record (07 R187) -/

/-- What neither a context's nor a partition's fields are, reading a context's record leaves. -/
theorem State.loadCtx_keeps {α : Type} {o : State → α} (hctx : ∀ s p c x, o (State.setCtx s p c x) = o s)
    (hpart : ∀ s p f, o (State.modPart s p f) = o s) (s : State) (p c : Nat) : o (s.loadCtx p c) = o s := by
  simp only [State.loadCtx, apply_ite o, hctx, hpart, ite_self]

@[simp] theorem State.home_loadCtx (s : State) (p c : Nat) : (s.loadCtx p c).home = s.home :=
  State.loadCtx_keeps State.setCtx_home State.modPart_home s p c
@[simp] theorem State.errs_loadCtx (s : State) (p c : Nat) : (s.loadCtx p c).errs = s.errs :=
  State.loadCtx_keeps State.setCtx_errs State.modPart_errs s p c
@[simp] theorem State.out_loadCtx (s : State) (p c : Nat) : (s.loadCtx p c).out = s.out :=
  State.loadCtx_keeps State.setCtx_out State.modPart_out s p c

/-! ## A raise of the generation (06 R137, R145, 08 R184) -/

theorem SameTime.homeSet (s : State) (key pa : Nat) (b : Byte) : SameTime s (s.homeSet key pa b) := by
  simp [SameTime]

theorem SameTime.setTeam (s : State) (tid : Nat) (t : Team) : SameTime s (s.setTeam tid t) := by
  simp [SameTime]

theorem SameTime.writeMapLine (s : State) (tid ln : Nat) : SameTime s (s.writeMapLine tid ln) := by
  unfold State.writeMapLine
  split
  · exact .refl s
  · dsimp only
    split
    · exact .refl s
    · refine .trans (.trans ?_ (.setTeam _ tid _)) (.count _ _ _ _)
      split
      · exact .foldl (fun x i => .ite (.homeSet x _ _ _) (.refl x)) _ s
      · exact .refl s

theorem SameTime.newSpmap (s : State) (tid : Nat) : SameTime s (s.newSpmap tid) := by
  unfold State.newSpmap
  split
  · exact .refl s
  · exact .ite (.refl s) (.trans (.foldl (fun x ln => .writeMapLine x tid ln) _ s) (.modTeam _ tid _))

theorem State.gen_raiseGen (s : State) (p c : Nat) : ((s.raiseGen p c).ctx p c).gen = (s.ctx p c).gen + 1 := by
  have hafter : SameTime
      ((s.writeGen p c ((s.ctx p c).gen + 1).toNat).modCtx p c fun x =>
        { x with gen := BitVec.ofNat 16 ((s.ctx p c).gen + 1).toNat })
      (s.raiseGen p c) := by
    simp only [State.raiseGen]
    refine .trans ?_ (.foldl (fun x t => ?_) _ _)
    · exact .modPart _ p fun _ => rfl
    · exact .trans (.modTeam x t _) (.newSpmap _ t)
  rw [hafter.2, State.ctx_modCtx, if_pos ⟨rfl, rfl⟩]
  exact (BitVec.ofNat_toNat ..).trans (BitVec.setWidth_eq _)

/-! ## An endpoint is written (08 R202) -/

theorem State.ep_set_eps (s : State) (p c i : Nat) (e : Ep) :
    (s.modCtx p c fun x => { x with eps := SMap.set Ep.unbound x.eps i e }).ep p c i = e := by
  rw [State.ep, State.ctx_modCtx, if_pos ⟨rfl, rfl⟩]
  exact SMap.get_set_same ..

/-! ## When a command runs (19 R431, R440; log 16) -/

section
variable {s : State} {w : W64} {op : Nat} (hop : pfOp w = op)
include hop

theorem State.pfRun_ignored (h : s.pfBusy = true ∨ s.ready = false) (f : Option State) : s.pfRun op w f = .next s := by
  unfold State.pfRun
  rw [if_neg (not_not_intro hop), if_pos (by simpa using h)]

theorem State.pfRun_idle (hbusy : s.pfBusy = false) (hready : s.ready = true) (f : Option State) :
    s.pfRun op w f = .next (f.elim (s.pfDone w true) fun t => t.pfDone w false) := by
  unfold State.pfRun
  rw [if_neg (not_not_intro hop), hbusy, hready, if_neg (by decide)]
  cases f <;> rfl

end

section
variable {s : State} {w : W64}

theorem execPfcmdRaiseGeneration_ignored (hop : pfOp w = 1) (h : s.pfBusy = true ∨ s.ready = false) :
    execPfcmdRaiseGeneration w s = .next s := by
  simp only [execPfcmdRaiseGeneration]
  rw [if_neg (not_not_intro hop), if_pos (by simpa using h)]

/-- A command of a partition that is not enabled, and of no context of it. -/
theorem State.pfCtxOk_of_not_enabled (hen : (s.part (pfPart w)).en = false) : s.pfCtxOk w = false := by
  rw [State.pfCtxOk, State.pfPartOk, hen, Bool.false_and]

/-- A command by its operation is ignored while BUSY or not READY. -/
theorem exec_pfcmdOf_ignored {op : Nat} {con : W64 → Instr} (h : (op, con) ∈ pfcmdOf) (hop : pfOp w = op)
    (hoff : s.pfBusy = true ∨ s.ready = false) : exec (con w) s = .next s := by
  simp only [pfcmdOf, List.mem_cons, List.not_mem_nil, or_false, Prod.mk.injEq] at h
  obtain ⟨rfl, rfl⟩ | ⟨rfl, rfl⟩ | ⟨rfl, rfl⟩ | ⟨rfl, rfl⟩ | ⟨rfl, rfl⟩ | ⟨rfl, rfl⟩ := h
  · exact execPfcmdRaiseGeneration_ignored hop hoff
  · exact State.pfRun_ignored hop hoff _
  · exact State.pfRun_ignored hop hoff (some { s with opt := [] })
  all_goals exact State.pfRun_ignored hop hoff _

end

section
variable {s : State} {w : W64} (hbusy : s.pfBusy = false) (hready : s.ready = true)
include hbusy hready

/-- Every command but PFCMD_CLEAR_OPT names a partition, and is refused where that is not enabled. -/
theorem exec_pfcmdOf_not_enabled {op : Nat} {con : W64 → Instr} (h : (op, con) ∈ pfcmdOf) (h3 : op ≠ 3) (hop : pfOp w = op)
    (hen : (s.part (pfPart w)).en = false) : exec (con w) s = .next (s.pfDone w true) := by
  have hctx := State.pfCtxOk_of_not_enabled hen
  have hpart : s.pfPartOk w = false := hen
  simp only [pfcmdOf, List.mem_cons, List.not_mem_nil, or_false, Prod.mk.injEq] at h
  obtain ⟨rfl, rfl⟩ | ⟨rfl, rfl⟩ | ⟨rfl, rfl⟩ | ⟨rfl, rfl⟩ | ⟨rfl, rfl⟩ | ⟨rfl, rfl⟩ := h
  · simp only [exec_pfcmdRaiseGeneration, execPfcmdRaiseGeneration]
    rw [if_neg (not_not_intro hop), hbusy, hready, if_neg (by decide), hctx, if_pos (by decide)]
  · refine (State.pfRun_idle hop hbusy hready _).trans ?_
    rw [hctx]
    rfl
  · exact absurd rfl h3
  all_goals
    refine (State.pfRun_idle hop hbusy hready _).trans ?_
    rw [hpart]
    rfl

theorem execPfcmdUnknownOp_refused (hop : pfOp w = 0 ∨ 7 < pfOp w) : execPfcmdUnknownOp w s = .next (s.pfDone w true) := by
  rw [execPfcmdUnknownOp, if_neg (by omega), hbusy, hready, if_neg (by decide)]

/-! ## The commands of a context -/

section
variable (hctx : s.pfCtxOk w = true)
include hctx

theorem execPfcmdRaiseGeneration_eq (hop : pfOp w = 1) :
    execPfcmdRaiseGeneration w s
      = if ((s.loadCtx (pfPart w) (pfCtx w)).ctx (pfPart w) (pfCtx w)).gen = 0xFFFF
        then .next { s.loadCtx (pfPart w) (pfCtx w) with pfWord := w &&& 0x3FFFFFF, pfErr := false, pfBusy := true }
        else .next (((s.loadCtx (pfPart w) (pfCtx w)).raiseGen (pfPart w) (pfCtx w)).pfDone w false) := by
  simp only [execPfcmdRaiseGeneration]
  rw [if_neg (not_not_intro hop), hbusy, hready, if_neg (by decide), hctx, if_neg (by decide)]

theorem execPfcmdWriteEndpoint_writes (hop : pfOp w = 2) (hindex : pfIndex w < 64) {e : Ep} (he : s.pfEp = some e) :
    execPfcmdWriteEndpoint w s = .next (((s.loadCtx (pfPart w) (pfCtx w)).modCtx (pfPart w) (pfCtx w) fun x =>
      { x with eps := SMap.set Ep.unbound x.eps (pfIndex w) e }).pfDone w false) := by
  refine (State.pfRun_idle hop hbusy hready _).trans ?_
  rw [hctx, he, if_neg (by simpa using hindex)]
  rfl

end

/-! ## The operating point table (08 R203) -/

theorem execPfcmdClearOpt_clears (hop : pfOp w = 3) :
    execPfcmdClearOpt w s = .next (({ s with opt := [] } : State).pfDone w false) :=
  State.pfRun_idle hop hbusy hready _

section
variable (hpart : s.pfPartOk w = true)
include hpart

theorem execPfcmdClearPartitionOpt_clears (hop : pfOp w = 4) :
    execPfcmdClearPartitionOpt w s
      = .next (({ s with opt := s.opt.filter fun e => e.2.part.toNat != pfPart w } : State).pfDone w false) := by
  refine (State.pfRun_idle hop hbusy hready _).trans ?_
  rw [hpart]
  rfl

theorem execPfcmdSetLock_locks (hop : pfOp w = 5) :
    execPfcmdSetLock w s = .next ((s.optLock (pfIndex w) true).pfDone w false) := by
  refine (State.pfRun_idle hop hbusy hready _).trans ?_
  rw [hpart]
  rfl

theorem execPfcmdClearLock_unlocks (hop : pfOp w = 6) :
    execPfcmdClearLock w s = .next ((s.optLock (pfIndex w) false).pfDone w false) := by
  refine (State.pfRun_idle hop hbusy hready _).trans ?_
  rw [hpart]
  rfl

end

end

theorem State.optEntry_optLock (s : State) (i j : Nat) (b : Bool) :
    (s.optLock i b).optEntry j = if j = i then { s.optEntry i with lock := b } else s.optEntry j := SMap.get_set ..

/-! ## Firmware (19 R440) -/

section
variable {s : State} {w : W64} (hop : pfOp w = 7) (hup : s.ready = true ∨ s.imgfail = true)
include hop hup

theorem execPfcmdSupplyFirmware_starts (hbusy : s.pfBusy = false) : execPfcmdSupplyFirmware w s
    = .next { s with pfWord := w &&& 0x3FFFFFF, pfErr := false, pfBusy := true } := by
  rw [execPfcmdSupplyFirmware, if_neg (not_not_intro hop), if_neg (by simpa [Classical.or_iff_not_imp_left] using hup), hbusy]
  rfl

variable (hbusy : s.pfBusy = true) (hword : pfOp s.pfWord = 7)
include hbusy hword

theorem execPfcmdSupplyFirmware_running : execPfcmdSupplyFirmware w s
    = .next (if imageVerifies s.pfImage then
        (if s.imgfail then
          { s with slot := s.pfImage, slotOk := true, imgfail := false, runImage := s.pfImage, caldone := true }
        else { s with slot := s.pfImage, slotOk := true }).pfDone s.pfWord false
      else s.pfDone s.pfWord true) := by
  simp only [execPfcmdSupplyFirmware]
  rw [if_neg (not_not_intro hop), if_neg (by simpa [Classical.or_iff_not_imp_left] using hup), hbusy, if_neg (by decide),
    if_neg (not_not_intro hword)]
  cases imageVerifies s.pfImage <;> rfl

end

theorem execGenerationWrapInvalidate_raises {s : State} (hbusy : s.pfBusy = true) (hword : pfOp s.pfWord = 1) :
    execGenerationWrapInvalidate s
      = .next ((s.raiseGen (pfPart s.pfWord) (pfCtx s.pfWord)).pfDone s.pfWord false) := by
  simp only [execGenerationWrapInvalidate]
  rw [hbusy, hword]
  rfl

theorem pfCommands : PfCommands := by
  intro s w
  refine ⟨fun op con h hop hoff => exec_pfcmdOf_ignored h hop hoff, fun hbusy hready => ⟨fun op con h h3 hop hen =>
      exec_pfcmdOf_not_enabled hbusy hready h h3 hop hen, fun hop => execPfcmdUnknownOp_refused hbusy hready hop,
      fun hop hctx g hg => ?_,
      fun hop hctx hindex e he => ⟨_, execPfcmdWriteEndpoint_writes hbusy hready hctx hop hindex he, rfl, ?_⟩,
      fun hop => ⟨_, execPfcmdClearOpt_clears hbusy hready hop, rfl, rfl⟩,
      fun hop hpart => ⟨_, execPfcmdClearPartitionOpt_clears hbusy hready hpart hop, rfl⟩,
      fun hop hpart => ⟨_, execPfcmdSetLock_locks hbusy hready hpart hop, ?_, fun i hi => ?_⟩,
      fun hop hpart => ⟨_, execPfcmdClearLock_unlocks hbusy hready hpart hop, ?_, fun i hi => ?_⟩⟩,
    fun hop hup => ⟨execPfcmdSupplyFirmware_starts hop hup, fun hbusy hword hbad => ?_, fun hbusy hword hgood => ?_⟩,
    fun hbusy hword => ⟨_, execGenerationWrapInvalidate_raises hbusy hword, rfl, State.gen_raiseGen ..⟩⟩
  · subst hg
    rw [exec_pfcmdRaiseGeneration, execPfcmdRaiseGeneration_eq hbusy hready hctx hop]
    exact ⟨fun hlow => ⟨_, if_neg hlow, rfl, rfl, State.gen_raiseGen ..⟩,
      fun hwrap => ⟨_, if_pos hwrap, rfl, State.home_loadCtx .., rfl⟩⟩
  · exact State.ep_set_eps ..
  · exact (State.optEntry_optLock ..).trans (if_pos rfl)
  · exact (State.optEntry_optLock ..).trans (if_neg hi)
  · exact (State.optEntry_optLock ..).trans (if_pos rfl)
  · exact (State.optEntry_optLock ..).trans (if_neg hi)
  · refine ⟨_, execPfcmdSupplyFirmware_running hop hup hbusy hword, ?_⟩
    rw [hbad]
    exact ⟨rfl, rfl, rfl⟩
  · refine ⟨_, execPfcmdSupplyFirmware_running hop hup hbusy hword, ?_⟩
    rw [hgood, if_pos rfl]
    split
    · exact ⟨rfl, rfl, rfl, rfl, rfl⟩
    · next himg => exact ⟨rfl, rfl, rfl, rfl, Bool.not_eq_true _ ▸ himg⟩

end Sys2Proof.Machine
end

section
/-!
CXL.mem accesses and the links' training (19 R428, R429, R434, 24 R449): an access within one line of 64 bytes is one piece; what
serving a read of home memory leaves; the ways in which a port trains and goes down.
-/
namespace Sys2Proof.Machine

open Host (Outcome)

/-! ## Serving a read of home memory (06 R154, 10 R232) -/

theorem State.servedErr_of_no_errors {s : State} (h : s.errs = []) (part pa n : Nat) : s.servedErr part pa n = (s, false) := by
  rw [State.servedErr, h]
  rfl

section
variable {α : Type} {o : State → α} (hset : ∀ s key pa b, o (State.homeSet s key pa b) = o s)
  (hcore : ∀ s k f, o (State.modCore s k f) = o s)
include hset hcore

/-- What neither bytes of home memory nor the cores are, writing back leaves. -/
theorem State.writeBack_keeps (s : State) (core : Nat) (p : Nat → CvByte → Bool) : o (s.writeBack core p) = o s := by
  unfold State.writeBack
  refine (hcore ..).trans ?_
  exact foldl_keep (fun x => o x = o s) _ (fun x e hx => (hset x ..).trans hx) _ s rfl

theorem State.promoteRange_keeps (s : State) (pa n : Nat) : o (s.promoteRange pa n) = o s :=
  foldl_keep (fun x => o x = o s) _ (fun x _ hx => foldl_keep (fun y => o y = o s) _
    (fun y _ hy => (State.writeBack_keeps hset hcore y ..).trans hy) _ x hx) _ s rfl

end

theorem State.out_promoteRange (s : State) (pa n : Nat) : (s.promoteRange pa n).out = s.out :=
  State.promoteRange_keeps State.homeSet_out State.modCore_out s pa n

/-! ## An access within one line (19 R429) -/

theorem cxlPieces_of_one_line {off n : Nat} (hn : 0 < n) (hline : off % 64 + n ≤ 64) : cxlPieces off n = [(off, n)] := by
  have hone : ceilDiv (off % 64 + n) 64 = 1 := by
    rw [ceilDiv]
    omega
  rw [cxlPieces, hone]
  simp only [List.range_one, List.map_cons, List.map_nil]
  rw [show max off (64 * (off / 64 + 0)) = off by omega,
    show min (off + n) (64 * (off / 64 + 0 + 1)) - off = n by omega]

theorem State.cxlPlaces_of_one_line (s : State) (p : Nat) {off n : Nat} (k : AccKind) (hn : 0 < n) (hline : off % 64 + n ≤ 64) :
    s.cxlPlaces p off n k = (s.cxlLoc p off k).map fun a => [(a.1, a.2, n)] := by
  rw [State.cxlPlaces, cxlPieces_of_one_line hn hline]
  simp only [List.foldr_cons, List.foldr_nil]
  cases s.cxlLoc p off k <;> rfl

section
variable {s : State} {p off n : Nat} (hwidth : s.cxlWidth ≠ 0) (hp : p < 16) (hn : 0 < n)
include hwidth hp hn

theorem execCxlMemRead_completes : Completes (execCxlMemRead p off n s) := by
  unfold execCxlMemRead
  rw [if_neg (by simp only [numVfs]; omega)]
  split
  · exact ⟨_, rfl⟩
  · dsimp only
    split
    · exact ⟨_, rfl⟩
    · exact ⟨_, rfl⟩

variable (hline : off % 64 + n ≤ 64)
include hline

theorem execCxlMemRead_not_translated (hloc : s.cxlLoc p off .load = none) :
    execCxlMemRead p off n s = .next (s.emit (.cxlError p off)) := by
  unfold execCxlMemRead
  rw [if_neg (by simp only [numVfs]; omega), State.cxlPlaces_of_one_line s p _ hn hline, hloc]
  rfl

theorem execCxlMemRead_translated {pa key : Nat} (hloc : s.cxlLoc p off .load = some (pa, key)) (herrs : s.errs = []) :
    execCxlMemRead p off n s = .next (((s.loadCtx p 0).promoteRange pa n).emit
      (.cxlData p off (((s.loadCtx p 0).promoteRange pa n).homeBytes key pa n))) := by
  unfold execCxlMemRead
  rw [if_neg (by simp only [numVfs]; omega), State.cxlPlaces_of_one_line s p _ hn hline, hloc]
  simp only [Option.map_some, List.foldl_cons, List.foldl_nil, List.flatMap_cons, List.flatMap_nil, List.append_nil,
    State.servedErr_of_no_errors ((State.errs_loadCtx s p 0).trans herrs), Bool.or_false, Bool.false_eq_true, if_false]

end

section
variable {s : State} {p off : Nat} {bs : List Byte} (hwidth : s.cxlWidth ≠ 0) (hp : p < 16) (hbs : bs ≠ [])
include hwidth hp hbs

theorem execCxlMemWrite_completes : Completes (execCxlMemWrite p off bs s) := by
  unfold execCxlMemWrite
  rw [if_neg (by simp only [numVfs, hbs, false_or]; omega)]
  split
  · exact ⟨_, rfl⟩
  · exact ⟨_, rfl⟩

variable (hline : off % 64 + bs.length ≤ 64)
include hline

theorem execCxlMemWrite_not_translated (hloc : s.cxlLoc p off .store = none) :
    execCxlMemWrite p off bs s = .next (s.emit (.cxlError p off)) := by
  unfold execCxlMemWrite
  rw [if_neg (by simp only [numVfs, hbs, false_or]; omega),
    State.cxlPlaces_of_one_line s p _ (List.length_pos_iff.2 hbs) hline, hloc]
  rfl

theorem execCxlMemWrite_translated {pa key : Nat} (hloc : s.cxlLoc p off .store = some (pa, key)) :
    execCxlMemWrite p off bs s = .next (((s.loadCtx p 0).homeWrite key pa bs).emit (.cxlDone p off)) := by
  unfold execCxlMemWrite
  rw [if_neg (by simp only [numVfs, hbs, false_or]; omega),
    State.cxlPlaces_of_one_line s p _ (List.length_pos_iff.2 hbs) hline, hloc]
  simp only [Option.map_some, State.cxlPut, List.take_length]

end

/-- Over a CXL link that has not trained there is no access. -/
theorem cxlMem_of_link_down {s : State} (h : s.cxlWidth = 0) (p off n : Nat) (bs : List Byte) :
    execCxlMemRead p off n s = .fault .notEnabled ∧ execCxlMemWrite p off bs s = .fault .notEnabled :=
  ⟨if_pos (.inr (.inr h)), if_pos (.inr (.inr h))⟩

/-! ## Ports (19 R434) -/

theorem State.port_freshPort (s : State) (n : Nat) : SMap.get Port.down (s.freshPort n).ports n = ⟨true, 0, s.keyNext⟩ :=
  SMap.get_set_same Port.down s.ports n ⟨true, 0, s.keyNext⟩

section
variable {s : State} {n : Nat}

theorem execLornanLinkTraining_trains (hn : n < 24) (hdown : s.portUp n = false) :
    execLornanLinkTraining n s = .next (s.freshPort n) := by
  rw [execLornanLinkTraining, hdown, if_neg (by simpa using hn)]

theorem execLornanPortRetrain_trains (hup : s.portUp n = true) (hlimit : portLimit ≤ (SMap.get Port.down s.ports n).ctr.toNat) :
    execLornanPortRetrain n s = .next (s.freshPort n) := by
  have hguard : (!(SMap.get Port.down s.ports n).up || decide ((SMap.get Port.down s.ports n).ctr.toNat < portLimit)) = false := by
    rw [show (SMap.get Port.down s.ports n).up = true from hup, Bool.not_true, Bool.false_or]
    exact decide_eq_false (by omega)
  simp only [execLornanPortRetrain, hguard]
  exact if_neg Bool.false_ne_true

variable (hn : n < 24) (hup : s.portUp n = true)
include hn hup

theorem execLornanPortDown_completes : Completes (execLornanPortDown n s) := by
  rw [execLornanPortDown, hup, if_neg (by simpa using hn)]
  exact ⟨_, rfl⟩

/-- A port that goes down with no packet queued on it. -/
theorem execLornanPortDown_nothing_queued (hout : (s.out.filter fun o => s.viaPort n o) = []) :
    execLornanPortDown n s = .next { s with
      free := s.free + 1
      ports := SMap.set Port.down s.ports n { SMap.get Port.down s.ports n with up := false } } := by
  rw [execLornanPortDown, hup, if_neg (by simpa using hn)]
  simp only [hout, List.take_nil]
  rfl

end

theorem links : Links := by
  intro s
  refine ⟨fun hwidth p off n bs => cxlMem_of_link_down hwidth p off n bs,
    fun p off n hwidth hp hn => execCxlMemRead_completes hwidth hp hn,
    fun p off bs hwidth hp hbs => execCxlMemWrite_completes hwidth hp hbs,
    fun p off n hwidth hp hn hline => ⟨execCxlMemRead_not_translated hwidth hp hn hline, fun pa key hloc herrs =>
      ⟨_, execCxlMemRead_translated hwidth hp hn hline hloc herrs, ?_⟩⟩,
    fun p off bs hwidth hp hlen hline => ⟨execCxlMemWrite_not_translated hwidth hp (List.length_pos_iff.1 hlen) hline,
      fun pa key hloc => ⟨_, execCxlMemWrite_translated hwidth hp (List.length_pos_iff.1 hlen) hline hloc,
        State.homeBytes_homeWrite .., ?_⟩⟩,
    fun a b c => rfl,
    fun n hn => ⟨fun hdown => ⟨_, execLornanLinkTraining_trains hn hdown, State.port_freshPort s n, rfl⟩,
      fun hup hlimit => ⟨_, execLornanPortRetrain_trains hup hlimit, State.port_freshPort s n⟩,
      fun hup => ⟨execLornanPortDown_completes hn hup, fun hout =>
        ⟨_, execLornanPortDown_nothing_queued hn hup hout, ?_, rfl, rfl⟩⟩⟩⟩
  · exact congrArg (Out.cxlData p off _ :: ·) ((State.out_promoteRange ..).trans (State.out_loadCtx ..))
  · exact congrArg (Out.cxlDone p off :: ·) ((State.homeWrite_out ..).trans (State.out_loadCtx ..))
  · exact congrArg Port.up (SMap.get_set_same ..)

/-- Settles O58: the commands of PFCMD, each by its lemma; the accesses and the links by the lemma of the way in which each goes. -/
theorem commandsAndLinks : Obligations.CommandsAndLinks := ⟨pfCommands, links⟩

end Sys2Proof.Machine
end

section
/-!
Packets that arrive over Lornan (19 R436, 06 R140, R144, R456, 10 R232-R235): what taking a packet and answering it leave; the
bytes that a write packet puts; then each kind of packet by the lemma of the way in which it goes.
-/
namespace Sys2Proof.Machine

open Host (Outcome)

/-! ## A response leaves (19 R436, R457) -/

theorem State.depart_eq (s : State) (p : Packet) (path : Nat) : ∃ units ports keyNext o,
    s.depart p path = { s with units := units, ports := ports, keyNext := keyNext, out := o :: s.out } := by
  have hcount (u n : Nat) : ∃ units, (if p.kind = 7 then (s.countUnit u p.spart.toNat 0x44 n).countUnit u p.spart.toNat 0x46 1
      else s.countUnit u p.spart.toNat 0x44 n) = { s with units := units } := by
    split
    · exact ⟨_, rfl⟩
    · exact ⟨_, rfl⟩
  obtain ⟨units, hunits⟩ := hcount (8 + bits (s.pathEntry p.ddev.toNat path) 23 16) (pktFlits p)
  simp only [State.depart, hunits]
  split
  · exact ⟨units, _, _, _, rfl⟩
  · exact ⟨units, _, _, _, rfl⟩

theorem State.sendAny_eq (s : State) (p : Packet) (path : Nat) : ∃ cores free units ports keyNext o,
    s.sendAny p path = { s with cores := cores, free := free, units := units, ports := ports, keyNext := keyNext
                                out := o :: s.out } := by
  simp only [State.sendAny, State.sendOn]
  obtain ⟨units, ports, keyNext, o, h⟩ := State.depart_eq _ _ path
  exact ⟨_, _, units, ports, keyNext, o, h⟩

section
variable (s : State) (req : Packet) (kind part addr arg status : Nat) (payload : List Byte)

/-- With a path that a response can take, one packet leaves. -/
theorem State.respond_of_path (h : s.pathsTo req.sdev.toNat (if kind = 0x0C ∧ req.kind = 0x0C then 2 else 0) ≠ []) :
    ∃ cores free units ports keyNext o, s.respond req kind part addr arg status payload
      = { s with cores := cores, free := free, units := units, ports := ports, keyNext := keyNext, out := o :: s.out } := by
  unfold State.respond
  dsimp only
  generalize s.pathsTo req.sdev.toNat _ = paths at h ⊢
  cases paths with
  | nil => exact absurd rfl h
  | cons q qs => exact State.sendAny_eq s.drawChoice.2 _ _

/-- What sending a packet does not change, a response leaves. -/
theorem State.respond_keeps {α : Type} {o : State → α}
    (ho : ∀ (s : State) cores free units ports keyNext out, o { s with
      cores := cores, free := free, units := units, ports := ports, keyNext := keyNext, out := out } = o s) :
    o (s.respond req kind part addr arg status payload) = o s := by
  by_cases h : s.pathsTo req.sdev.toNat (if kind = 0x0C ∧ req.kind = 0x0C then 2 else 0) = []
  · unfold State.respond
    dsimp only
    rw [h]
  · obtain ⟨cores, free, units, ports, keyNext, out, hsend⟩ := State.respond_of_path s req kind part addr arg status payload h
    rw [hsend, ho]

@[simp] theorem State.respond_home : (s.respond req kind part addr arg status payload).home = s.home :=
  State.respond_keeps (o := State.home) _ _ _ _ _ _ _ _ fun _ _ _ _ _ _ _ => rfl
@[simp] theorem State.respond_teams : (s.respond req kind part addr arg status payload).teams = s.teams :=
  State.respond_keeps (o := State.teams) _ _ _ _ _ _ _ _ fun _ _ _ _ _ _ _ => rfl
@[simp] theorem State.respond_marks : (s.respond req kind part addr arg status payload).marks = s.marks :=
  State.respond_keeps (o := State.marks) _ _ _ _ _ _ _ _ fun _ _ _ _ _ _ _ => rfl
@[simp] theorem State.homeByte_respond (key a : Nat) :
    (s.respond req kind part addr arg status payload).homeByte key a = s.homeByte key a :=
  State.respond_keeps (o := fun x => x.homeByte key a) _ _ _ _ _ _ _ _ fun _ _ _ _ _ _ _ => rfl

end

/-! ## A request is taken (10 R234; log 22) -/

/-- The state in which a request is the last of its core to its lines. -/
def State.ordered (s : State) (p : Packet) : State :=
  { s with lineSeq := (pktLines p).foldl (fun m ln => SMap.put m (pktLineKey p ln) p.seq) s.lineSeq }

section
variable {s : State} {p : Packet} {kind : Nat}

theorem onPacket_taken (hok : pktOk p = true) (hkind : p.kind.toNat = kind) (f : Unit → State) :
    onPacket kind p f = .next (f ()) := if_pos ⟨hkind, hok⟩

theorem State.onRequest_taken (hok : pktOk p = true) (hkind : p.kind.toNat = kind) (hlast : s.overtaken p = false)
    (f : State → State) : s.onRequest kind p f = .next (f (s.ordered p)) := by
  rw [State.onRequest, hlast, if_neg Bool.false_ne_true]
  exact onPacket_taken hok hkind _

theorem State.admitWin_ordered (dev part perm pa n : Nat) :
    (s.ordered p).admitWin dev part perm pa n = s.admitWin dev part perm pa n := rfl

end

/-! ## The key of a remote request (06 R140, R150; log 6) -/

theorem State.homeByte_congr (s : State) {k k' : Nat} (h : keyName k = keyName k') (a : Nat) :
    s.homeByte k a = s.homeByte k' a := by
  rw [State.homeByte, h]
  rfl

theorem State.winKey_lt {s : State} {part : Nat} (hgen : (s.part part).keyGen < 2 ^ 60) (pa : Nat) :
    s.winKey part pa < frpKey := by
  simp only [State.winKey, keyOf, frpKey]
  split
  · omega
  · split <;> omega

/-- The forerunner path is not part of the name of a key. -/
theorem keyName_add_winPath {s : State} {part : Nat} (hgen : (s.part part).keyGen < 2 ^ 60) (t : State) (pa a n : Nat) :
    keyName (s.winKey part pa + t.winPath part a n) = s.winKey part pa := by
  have hlt := State.winKey_lt hgen pa
  rw [keyName, State.winPath]
  split
  · rw [Nat.add_mod_right, Nat.mod_eq_of_lt hlt]
  · exact Nat.mod_eq_of_lt hlt

/-- A key of the name that a remote request finds reads what that key reads. -/
theorem State.homeByte_of_name {s : State} {part pa key : Nat} (hname : keyName key = s.winKey part pa) (t : State) (a : Nat) :
    t.homeByte key a = t.homeByte (s.winKey part pa) a := by
  refine State.homeByte_congr t ?_ a
  rw [← hname, keyName, keyName, Nat.mod_mod]

/-- A byte written under the key that a remote request finds leaves it that key. -/
theorem State.winKey_homeSet {s : State} {part pa key : Nat} (hname : keyName key = s.winKey part pa) (a : Nat) (b : Byte) :
    (s.homeSet key a b).winKey part pa = s.winKey part pa := by
  have hkey := State.keyAt_homeSet s key a pa b
  rw [hname] at hkey
  by_cases hline : pa / 128 = a / 128
  · rw [if_pos hline] at hkey
    simp only [State.winKey, hkey, State.part_homeSet]
    by_cases hin : (s.part part).keyGen ≠ 0 ∧ s.keyAt pa / 8 = (s.part part).keyGen
    · rw [if_pos hin, if_pos hin]
    · rw [if_neg hin, ite_self]
  · rw [if_neg hline] at hkey
    simp only [State.winKey, hkey, State.part_homeSet]

/-! ## The masked bytes of a write packet (06 R140) -/

/-- The bytes f of the first n places from pa on that a mask selects, as a write packet puts them. -/
def State.putMasked (s : State) (part pa path mask : Nat) (f : Nat → Byte) (n : Nat) : State :=
  (List.range n).foldl (fun (x : State) i =>
    if bit mask i then x.homeSet (x.winKey part pa + path) (pa + i) (f i) else x) s

theorem State.putMasked_succ (s : State) (part pa path mask : Nat) (f : Nat → Byte) (n : Nat) :
    s.putMasked part pa path mask f (n + 1)
      = if bit mask n
        then (s.putMasked part pa path mask f n).homeSet ((s.putMasked part pa path mask f n).winKey part pa + path) (pa + n) (f n)
        else s.putMasked part pa path mask f n := by
  rw [State.putMasked, List.range_succ, List.foldl_append]
  rfl

theorem State.applyWrite_eq (s : State) (part : Nat) (p : Packet) :
    s.applyWrite part p = s.putMasked part p.addr.toNat (s.winPath part p.addr.toNat 128) (ofBytes (p.payload.take 16))
      (fun i => p.payload.getD (16 + i) 0) 128 := rfl

section
variable {s : State} {part pa path : Nat} (hpath : keyName (s.winKey part pa + path) = s.winKey part pa) (mask : Nat)
  (f : Nat → Byte)
include hpath

theorem State.winKey_putMasked (n : Nat) : (s.putMasked part pa path mask f n).winKey part pa = s.winKey part pa := by
  induction n with
  | zero => rfl
  | succ n ih =>
    rw [State.putMasked_succ]
    split
    · rw [State.winKey_homeSet (by rw [ih, hpath]), ih]
    · exact ih

/-- Each selected byte is put, and no other changes, as the key of the request reads them. -/
theorem State.homeByte_putMasked (n i : Nat) :
    (s.putMasked part pa path mask f n).homeByte (s.winKey part pa) (pa + i)
      = if i < n ∧ bit mask i = true then f i else s.homeByte (s.winKey part pa) (pa + i) := by
  induction n with
  | zero => exact (if_neg (by simp)).symm
  | succ n ih =>
    rw [State.putMasked_succ, State.winKey_putMasked hpath]
    split
    · next hbit =>
      rw [← State.homeByte_of_name hpath, State.homeByte_homeSet, State.homeByte_of_name hpath, ih]
      by_cases hi : i = n
      · subst hi
        rw [if_pos rfl, if_pos ⟨by omega, hbit⟩]
      · have hlt : i < n + 1 ↔ i < n := by omega
        rw [if_neg (by omega)]
        simp only [hlt]
    · next hbit =>
      rw [ih]
      by_cases hi : i = n
      · subst hi
        rw [if_neg (by omega), if_neg fun h => hbit h.2]
      · have hlt : i < n + 1 ↔ i < n := by omega
        simp only [hlt]

end

end Sys2Proof.Machine
end

section
/-!
Requests of other devices on this device's memory (06 R140, R456, 10 R232-R234).
-/
namespace Sys2Proof.Machine

open Host (Outcome)

/-! ## What serving a read leaves (06 R154, 10 R232) -/

theorem State.teams_postNotice (s : State) (p kind status w1 w2 w3 : Nat) :
    (s.postNotice p kind status w1 w2 w3).teams = s.teams := by
  rw [State.postNotice]
  split
  · rfl
  · rfl

theorem State.teams_checkRead (s : State) (part stack kind lo n : Nat) : (s.checkRead part stack kind lo n).1.teams = s.teams := by
  unfold State.checkRead
  split
  · rfl
  · split
    · rfl
    · dsimp only
      split
      · split
        · rfl
        · rfl
      · rfl

theorem State.teams_servedErr (s : State) (part pa n : Nat) : (s.servedErr part pa n).1.teams = s.teams := by
  have hread (x : State) (kind : Nat) := State.teams_checkRead x part (stackOf pa) kind pa n
  simp only [State.servedErr]
  split
  · rfl
  · split
    · rw [State.teams_postNotice, hread]
    · rw [apply_ite State.teams, State.teams_postNotice, ite_self, hread, hread]

theorem State.teams_promoteRange (s : State) (pa n : Nat) : (s.promoteRange pa n).teams = s.teams :=
  State.promoteRange_keeps State.homeSet_teams State.modCore_teams s pa n

/-- With nothing in any core's view there is nothing to promote. -/
theorem State.promoteRange_of_empty_views {s : State} (h : ∀ e ∈ s.cores, e.2.view = []) (pa n : Nat) :
    s.promoteRange pa n = s := by
  have hpromote (k a : Nat) : s.promote k a = s := by
    have hnone : (s.cores.filter fun e => decide (e.1 ≠ k) &&
        (let b := SMap.get CvByte.absent e.2.view a; b.dirty && b.mark)) = [] := by
      refine List.filter_eq_nil_iff.2 fun e he => ?_
      simp [h e he, CvByte.absent]
    unfold State.promote
    rw [hnone]
    rfl
  refine foldl_keep (fun x => x = s) _ (fun x i hx => ?_) _ s rfl
  subst hx
  exact hpromote 4096 (pa + i)

/-! ## Reads -/

section
variable {s : State} {p : Packet} (hok : pktOk p = true) (hkind : p.kind = 1) (hlast : s.overtaken p = false)
include hok hkind hlast

theorem execReadRequest_refused {d : Nat}
    (hwin : s.admitWin p.sdev.toNat p.spart.toNat 0 p.addr.toNat p.arg.toNat = .error d) :
    execReadRequest p s = .next ((s.ordered p).respond p 2 0 p.addr.toNat 0 d []) := by
  refine (State.onRequest_taken hok (by rw [hkind]; rfl) hlast _).trans ?_
  dsimp only
  rw [State.admitWin_ordered, hwin]

theorem execReadRequest_admitted {part : Nat}
    (hwin : s.admitWin p.sdev.toNat p.spart.toNat 0 p.addr.toNat p.arg.toNat = .ok part) :
    ∃ s1, execReadRequest p s = .next s1 ∧ s1.teams = s.teams := by
  refine ⟨_, State.onRequest_taken hok (by rw [hkind]; rfl) hlast _, ?_⟩
  dsimp only
  rw [State.admitWin_ordered, hwin]
  dsimp only
  split
  · rw [State.respond_teams, State.teams_servedErr]
    rfl
  · rw [State.respond_teams, State.teams_promoteRange, State.teams_servedErr]
    rfl

end

/-! ## Writes -/

section
variable {s : State} {p : Packet} (hok : pktOk p = true) (hkind : p.kind = 3) (hlast : s.overtaken p = false)
include hok hkind hlast

theorem execWritePacket_refused {d : Nat} (hwin : s.admitWin p.sdev.toNat p.spart.toNat 1 p.addr.toNat 128 = .error d) :
    ∃ s1, execWritePacket p s = .next s1 ∧ s1.home = s.home := by
  refine ⟨_, State.onRequest_taken hok (by rw [hkind]; rfl) hlast _, ?_⟩
  dsimp only
  rw [State.admitWin_ordered, hwin]
  dsimp only
  rw [State.respond_home]
  split
  · rfl
  · rfl

theorem execWritePacket_admitted {part : Nat}
    (hwin : s.admitWin p.sdev.toNat p.spart.toNat 1 p.addr.toNat 128 = .ok part) :
    ∃ s1, execWritePacket p s = .next s1
      ∧ ∀ key a, s1.homeByte key a = ((s.ordered p).applyWrite part p).homeByte key a := by
  refine ⟨_, State.onRequest_taken hok (by rw [hkind]; rfl) hlast _, fun key a => ?_⟩
  dsimp only
  rw [State.admitWin_ordered, hwin]
  dsimp only
  split
  · exact State.homeByte_respond ..
  · rfl

end

/-- The masked bytes of a packet, as the key that the request finds reads them. -/
theorem State.homeByte_applyWrite {s : State} {part : Nat} (hgen : (s.part part).keyGen < 2 ^ 60) (p : Packet) {i : Nat}
    (hi : i < 128) :
    (s.applyWrite part p).homeByte (s.winKey part p.addr.toNat) (p.addr.toNat + i)
      = if bit (ofBytes (p.payload.take 16)) i then p.payload.getD (16 + i) 0
        else s.homeByte (s.winKey part p.addr.toNat) (p.addr.toNat + i) := by
  rw [State.applyWrite_eq, State.homeByte_putMasked (keyName_add_winPath hgen ..)]
  simp only [hi, true_and]

/-! ## Atomics -/

/-- The bytes of an atomic request's operand. -/
def atomBytes (p : Packet) : Nat := if tagWide (16 * bits p.arg.toNat 11 8) then 8 else 4

/-- What an atomic request's step leaves of the bytes old. -/
def atomStep (p : Packet) (old : List Byte) : List Byte :=
  toBytes (atomBytes p) (atomNew (bits p.arg.toNat 4 0) (16 * bits p.arg.toNat 11 8) (ofBytes old) (ofBytes (p.payload.take 8))
    (ofBytes (p.payload.drop 8))).1

theorem length_atomStep (p : Packet) (old : List Byte) : (atomStep p old).length = atomBytes p := length_toBytes ..

section
variable {s : State} {p : Packet} (hok : pktOk p = true) (hkind : p.kind = 5) (hlast : s.overtaken p = false)
include hok hkind hlast

theorem execAtomicRequest_completes : Completes (execAtomicRequest p s) :=
  ⟨_, State.onRequest_taken hok (by rw [hkind]; rfl) hlast _⟩

theorem execAtomicRequest_refused {d : Nat}
    (hwin : s.admitWin p.sdev.toNat p.spart.toNat 2 p.addr.toNat (atomBytes p) = .error d) :
    execAtomicRequest p s = .next ((s.ordered p).respond p 6 0 p.addr.toNat 0 d []) := by
  refine (State.onRequest_taken hok (by rw [hkind]; rfl) hlast _).trans ?_
  rw [← State.admitWin_ordered (p := p)] at hwin
  simp only [atomBytes] at hwin
  dsimp only
  rw [hwin]

/-- An atomic request that a window admits, with no error to come and nothing to promote, steps home memory. -/
theorem execAtomicRequest_admitted {part : Nat}
    (hwin : s.admitWin p.sdev.toNat p.spart.toNat 2 p.addr.toNat (atomBytes p) = .ok part)
    (hviews : ∀ e ∈ s.cores, e.2.view = []) (herrs : s.errs = []) :
    ∃ s1, execAtomicRequest p s = .next s1 ∧ ∀ key a, s1.homeByte key a
      = ((s.ordered p).homeWrite (s.winKey part p.addr.toNat + s.winPath part p.addr.toNat (atomBytes p)) p.addr.toNat
          (atomStep p (s.homeBytes (s.winKey part p.addr.toNat) p.addr.toNat (atomBytes p)))).homeByte key a := by
  refine ⟨_, State.onRequest_taken hok (by rw [hkind]; rfl) hlast _, fun key a => ?_⟩
  rw [← State.admitWin_ordered (p := p)] at hwin
  simp only [atomBytes] at hwin
  dsimp only
  rw [hwin]
  dsimp only
  rw [State.servedErr_of_no_errors (s := s.ordered p) herrs, if_neg Bool.false_ne_true, State.homeByte_respond,
    State.promoteRange_of_empty_views (s := s.ordered p) hviews]
  rfl

end

/-- The bytes that an atomic request leaves, as the key that the request finds reads them. -/
theorem State.homeBytes_atomStep {s t : State} {part : Nat} (hgen : (s.part part).keyGen < 2 ^ 60) (p : Packet) (pa m : Nat)
    (old : List Byte) :
    (t.homeWrite (s.winKey part pa + s.winPath part pa m) pa (atomStep p old)).homeBytes (s.winKey part pa) pa (atomBytes p)
      = atomStep p old := by
  rw [State.homeBytes]
  simp only [← State.homeByte_of_name (keyName_add_winPath hgen s pa pa m)]
  rw [← length_atomStep p old]
  exact State.homeBytes_homeWrite ..

theorem memoryRequests : MemoryRequests := by
  intro s p hok
  refine ⟨fun hkind hlast => ?_, fun hkind hlast => ?_, fun hover =>
    ⟨fun _ => if_pos hover, fun _ => if_pos hover, fun _ => if_pos hover⟩, fun hkind hlast => ?_⟩
  · cases hwin : s.admitWin p.sdev.toNat p.spart.toNat 0 p.addr.toNat p.arg.toNat with
    | error d => exact ⟨_, execReadRequest_refused hok hkind hlast hwin, State.respond_teams .., fun _ _ => State.respond_home ..⟩
    | ok part =>
      obtain ⟨s1, hexec, hteams⟩ := execReadRequest_admitted hok hkind hlast hwin
      exact ⟨s1, hexec, hteams, nofun⟩
  · cases hwin : s.admitWin p.sdev.toNat p.spart.toNat 1 p.addr.toNat 128 with
    | error d =>
      obtain ⟨s1, hexec, hhome⟩ := execWritePacket_refused hok hkind hlast hwin
      exact ⟨s1, hexec, fun _ _ => hhome, nofun⟩
    | ok part =>
      obtain ⟨s1, hexec, hbyte⟩ := execWritePacket_admitted hok hkind hlast hwin
      refine ⟨s1, hexec, nofun, fun q hq hgen i hi => ?_⟩
      cases hq
      rw [hbyte]
      exact State.homeByte_applyWrite (s := s.ordered p) hgen p hi
  · cases hwin : s.admitWin p.sdev.toNat p.spart.toNat 2 p.addr.toNat (atomBytes p) with
    | error d =>
      refine ⟨_, execAtomicRequest_refused hok hkind hlast hwin, fun _ _ _ _ => State.respond_home .., fun part n hn hadmit => ?_⟩
      subst hn
      exact nomatch hwin.symm.trans hadmit
    | ok part =>
      obtain ⟨s1, hexec⟩ := execAtomicRequest_completes hok hkind hlast
      refine ⟨s1, hexec, fun d n hn hrefuse => ?_, fun q n hn hadmit hviews herrs hgen => ?_⟩
      · subst hn
        exact nomatch hwin.symm.trans hrefuse
      · subst hn
        cases hwin.symm.trans hadmit
        obtain ⟨s2, hexec2, hbyte⟩ := execAtomicRequest_admitted hok hkind hlast hwin hviews herrs
        cases hexec.symm.trans hexec2
        simp only [State.homeBytes, hbyte]
        exact State.homeBytes_atomStep hgen p ..

end Sys2Proof.Machine
end

section
/-!
Answers, markers and the other packets that arrive over Lornan (19 R436, R457, 06 R141, R144, 10 R235).
-/
namespace Sys2Proof.Machine

open Host (Outcome)

/-- A packet of each kind is taken; an acknowledgement once the barriers it may credit are at hand. -/
theorem exec_packet_completes {s : State} {p : Packet} {k : BitVec 8} {con : Packet → Instr} (hok : pktOk p = true)
    (h : AnswerOf (k, con) ∨ PacketOf (k, con)) (hkind : p.kind = k) (hcredits : k = 4 → s.creditsHere p = true) :
    Completes (exec (con p) s) := by
  simp only [AnswerOf, PacketOf, List.mem_cons, List.not_mem_nil, or_false, Prod.mk.injEq] at h
  obtain (⟨rfl, rfl⟩ | ⟨rfl, rfl⟩ | ⟨rfl, rfl⟩ | ⟨rfl, rfl⟩ | ⟨rfl, rfl⟩)
    | ⟨rfl, rfl⟩ | ⟨rfl, rfl⟩ | ⟨rfl, rfl⟩ | ⟨rfl, rfl⟩ | ⟨rfl, rfl⟩ | ⟨rfl, rfl⟩ | ⟨rfl, rfl⟩ | ⟨rfl, rfl⟩ | ⟨rfl, rfl⟩ := h
  case inl.inr.inl =>
    rw [exec_writeApplied, execWriteApplied, hcredits rfl, if_neg (by decide)]
    exact ⟨_, if_pos ⟨by rw [hkind]; rfl, hok⟩⟩
  all_goals exact ⟨_, if_pos ⟨by rw [hkind]; rfl, hok⟩⟩

/-! ## Answers that no request awaits (19 R436) -/

section
variable {s : State} {p : Packet} (h : s.answered p = [])
include h

theorem State.dropReqs_of_unanswered : s.dropReqs p = s := by
  have hall : (s.reqs.filter fun r => !(r.tag == p.rtag && r.dev == p.sdev.toNat)) = s.reqs := by
    refine List.filter_eq_self.2 fun r hr => ?_
    have hno := List.filter_eq_nil_iff.1 h r hr
    rw [Bool.not_eq_true] at hno
    rw [hno]
    rfl
  rw [State.dropReqs, hall]

theorem State.creditsHere_of_unanswered : s.creditsHere p = true := by
  rw [State.creditsHere, h]
  rfl

/-- An answer that no request awaits changes nothing. -/
theorem exec_answer_unawaited {k : BitVec 8} {con : Packet → Instr} (hok : pktOk p = true) (hcon : AnswerOf (k, con))
    (hkind : p.kind = k) : exec (con p) s = .next s := by
  simp only [AnswerOf, List.mem_cons, List.not_mem_nil, or_false, Prod.mk.injEq] at hcon
  obtain ⟨rfl, rfl⟩ | ⟨rfl, rfl⟩ | ⟨rfl, rfl⟩ | ⟨rfl, rfl⟩ | ⟨rfl, rfl⟩ := hcon
  case inr.inl =>
    rw [exec_writeApplied, execWriteApplied, State.creditsHere_of_unanswered h, if_neg (by decide),
      onPacket_taken hok (by rw [hkind]; rfl), h, List.foldl_nil, State.dropReqs_of_unanswered h]
  all_goals
    refine (if_pos ⟨by rw [hkind]; rfl, hok⟩).trans ?_
    dsimp only
    rw [h, List.foldl_nil, State.dropReqs_of_unanswered h]

end

/-! ## Markers (10 R235; log 13) -/

theorem State.pathsTo_congr {s t : State} (hpaths : t.paths = s.paths) (hports : t.ports = s.ports) (d need : Nat) :
    t.pathsTo d need = s.pathsTo d need := by
  simp only [State.pathsTo, State.pathEntry, State.portUp, hpaths, hports]

theorem execMarkerAcknowledgement_no_release {s : State} {p : Packet} (hok : pktOk p = true) (hkind : p.kind = 8)
    (h : s.releases = []) : execMarkerAcknowledgement p s = .next s := by
  refine (onPacket_taken hok (by rw [hkind]; rfl) _).trans ?_
  dsimp only
  rw [h]
  rfl

/-- The copy of a marker that a packet is. -/
def State.markOf (s : State) (p : Packet) : MarkCopy :=
  ⟨p.sdev.toNat, p.score.toNat, p.arg.toNat, 2 ^ p.path.toNat ||| bits p.addr.toNat 15 8, s.ticket⟩

theorem State.markOf_of (s : State) (p : Packet) : (s.markOf p).of_ p = true := by
  simp [MarkCopy.of_, State.markOf]

/-- A copy is counted at the port it passes, and kept. -/
def State.markKept (s : State) (p : Packet) : State :=
  { s.drawChoice.2.countUnit (8 + s.drawChoice.1 % 24) p.spart.toNat 0x46 1 with
    marks := s.marks ++ [s.markOf p], ticket := s.ticket + 1 }

@[simp] theorem State.markKept_paths (s : State) (p : Packet) : (s.markKept p).paths = s.paths := by
  simp [State.markKept, State.drawChoice]
@[simp] theorem State.markKept_ports (s : State) (p : Packet) : (s.markKept p).ports = s.ports := by
  simp [State.markKept, State.drawChoice]
@[simp] theorem State.markKept_out (s : State) (p : Packet) : (s.markKept p).out = s.out := by
  simp [State.markKept, State.drawChoice]

/-- The copies of one marker, with the one that has come in. -/
theorem State.filter_of_markKept (s : State) (p : Packet) :
    ((s.markKept p).marks.filter fun m => m.of_ p) = (s.marks.filter fun m => m.of_ p) ++ [s.markOf p] := by
  simp [State.markKept, State.markOf_of]

theorem State.filter_not_of_markKept (s : State) (p : Packet) :
    ((s.markKept p).marks.filter fun m => !m.of_ p) = s.marks.filter fun m => !m.of_ p := by
  simp [State.markKept, State.markOf_of]

/-- The device forgets the copies of a marker, and the refused writes that stood ahead of one but for goneW. -/
def State.marksForgotten (s : State) (p : Packet) (goneW : List MarkCopy) : State :=
  { s.markKept p with marks := (s.markKept p).marks.filter fun m => !m.of_ p, goneW := goneW }

theorem State.pathsTo_marksForgotten (s : State) (p : Packet) (goneW : List MarkCopy) (d need : Nat) :
    (s.marksForgotten p goneW).pathsTo d need = s.pathsTo d need :=
  State.pathsTo_congr (by simp [State.marksForgotten]) (by simp [State.marksForgotten]) d need

theorem State.out_marksForgotten (s : State) (p : Packet) (goneW : List MarkCopy) : (s.marksForgotten p goneW).out = s.out := by
  simp [State.marksForgotten]

section
variable {s : State} {p : Packet} (hok : pktOk p = true) (hkind : p.kind = 7)
include hok hkind

theorem execShroudMarker_waits (h : (s.marks.filter fun m => m.of_ p).length + 1 < bits p.addr.toNat 7 0) :
    execShroudMarker p s = .next (s.markKept p) := by
  have hlen : ((s.markKept p).marks.filter fun m => m.of_ p).length < bits p.addr.toNat 7 0 := by
    rwa [State.filter_of_markKept, List.length_append]
  exact (onPacket_taken hok (by rw [hkind]; rfl) _).trans (congrArg Outcome.next (if_pos hlen))

/-- The last copy is answered, and none of them is kept. -/
theorem execShroudMarker_answers (h : bits p.addr.toNat 7 0 ≤ (s.marks.filter fun m => m.of_ p).length + 1) :
    ∃ goneW status, execShroudMarker p s = .next ((s.marksForgotten p goneW).respond p 8 0 0 p.arg.toNat status []) := by
  have hlen : ¬ ((s.markKept p).marks.filter fun m => m.of_ p).length < bits p.addr.toNat 7 0 := by
    rw [State.filter_of_markKept, List.length_append, List.length_singleton]
    omega
  exact ⟨_, _, (onPacket_taken hok (by rw [hkind]; rfl) _).trans (congrArg Outcome.next (if_neg hlen))⟩

end

theorem packetsArrive : PacketsArrive := by
  intro s p
  refine ⟨fun hbad => ?_, fun hok k con h hkind hcredits => exec_packet_completes hok h hkind hcredits,
    fun hok h k con hcon hkind => exec_answer_unawaited h hok hcon hkind,
    fun hok hkind h => execMarkerAcknowledgement_no_release hok hkind h, fun hok hkind n hn => ?_⟩
  · rw [exec_malformedPacket, execMalformedPacket, hbad, if_neg Bool.false_ne_true]
  · subst hn
    refine ⟨fun hwait => ⟨_, _, execShroudMarker_waits hok hkind hwait, rfl, State.markOf_of s p, State.markKept_out s p⟩, fun hlast => ?_⟩
    obtain ⟨goneW, status, hexec⟩ := execShroudMarker_answers hok hkind hlast
    refine ⟨_, hexec, ?_, fun hpaths => ?_⟩
    · rw [State.respond_marks]
      exact State.filter_not_of_markKept s p
    · have hneed : (if 8 = 0x0C ∧ p.kind = 0x0C then 2 else 0) = 0 := if_neg fun h => absurd h.1 (by decide)
      obtain ⟨cores, free, units, ports, keyNext, o, hsent⟩ := State.respond_of_path (s.marksForgotten p goneW) p 8 0 0
        p.arg.toNat status [] (by rwa [hneed, State.pathsTo_marksForgotten])
      rw [hsent, List.length_cons, State.out_marksForgotten]

/-- Settles O60: requests on this device's memory, and every other packet, each by the lemma of the way in which it goes. -/
theorem packets : Obligations.Packets := ⟨memoryRequests, packetsArrive⟩

end Sys2Proof.Machine
end

section
/-!
Stage rings (15 R349-R351, 07 R168): what a ring reads after it is set, what ringput, ringget and ringrel answer once their ring
is named, and the ring that each of them leaves.
-/
namespace Sys2Proof.Machine

open Host (Outcome)

/-! ## A ring of a team -/

@[simp] theorem Team.ring_setRing (t : Team) (q : Nat) (r : Ring) : (t.setRing q r).ring q = r :=
  SMap.get_set_same Ring.empty t.rings q r

@[simp] theorem Team.ring_modGroup (t : Team) (g : Nat) (f : Group → Group) (q : Nat) : (t.modGroup g f).ring q = t.ring q := rfl

/-- An empty slot is filled: it is full then, and its phase bit has flipped (R351). -/
theorem Team.ring_ringSet_fill {t : Team} {q slot : Nat} (h : (t.ring q).full.getLsbD slot = false) :
    (t.ringSet q slot true).ring q = { t.ring q with
      full := (t.ring q).full ||| (1#16 <<< slot), phase := (t.ring q).phase ^^^ (1#16 <<< slot) } := by
  simp [Team.ringSet, h]

/-- A full slot is freed (R351). -/
theorem Team.ring_ringSet_free {t : Team} {q slot : Nat} (h : (t.ring q).full.getLsbD slot = true) :
    (t.ringSet q slot false).ring q = { t.ring q with full := (t.ring q).full &&& ~~~(1#16 <<< slot) } := by
  simp [Team.ringSet, h]

/-! ## The instructions -/

/-- What ringput and ringget leave: the ring r, and the index in the group's register n. -/
def State.ringServed (s : State) (k : Iss) (q : Nat) (r : Ring) (n : Nat) (x : W64) : State :=
  (s.modTeam k.tid fun t => t.setRing q r).modGroup k.tid k.g fun g => g.ws n x

theorem State.team?_issuer {s : State} {k : Iss} (h : s.issuer = some k) : s.team? k.tid = some k.t :=
  (State.issuer_eq h).2.1

theorem State.ringServed_leaves {s : State} {k : Iss} (h : s.issuer = some k) (q : Nat) (r : Ring) (n : Nat) (x : W64) :
    ∃ t1, (s.ringServed k q r n x).team? k.tid = some t1
      ∧ (s.ringServed k q r n x).group? k.tid k.g = some (k.gr.ws n x) ∧ t1.ring q = r := by
  have hteam := State.team?_issuer h
  have hring : (s.modTeam k.tid fun t => t.setRing q r).team? k.tid = some (k.t.setRing q r) := by simp [hteam]
  have hgroup : (s.modTeam k.tid fun t => t.setRing q r).group? k.tid k.g = some k.gr := by
    rw [State.group?, hring]
    exact (State.issuer_eq h).2.2.1
  refine ⟨(k.t.setRing q r).modGroup k.g fun g => g.ws n x, ?_, ?_, by simp⟩
  · simp [State.ringServed, State.modGroup, hteam]
  · rw [State.ringServed, State.group?_modGroup, hgroup]
    simp

theorem Group.uni_s (g : Group) (n : BitVec 6) (imm : Nat) : g.uni (.s n) imm % 2 ^ 64 = (g.rs n.toNat).toNat :=
  Nat.mod_eq_of_lt (g.rs n.toNat).isLt

section
variable {s : State} {k : Iss} {i : MemI} {d : RingDef} (hd : k.t.lrec.rings[i.imm.toNat % 8]? = some d)
include hd

theorem Iss.ringSize_eq : k.ringSize i.imm.toNat = .ok d.size := by
  rw [Iss.ringSize, hd]

/-- ringput with an empty slot at PUT, served in its turn (R349, R350). -/
theorem execRingput_serves (h : Ready s k 0x249 (linesOf i.toSlots false 0)) {q : Nat} (hq : q = i.imm.toNat % 8)
    (hfull : (k.t.ring q).full.getLsbD (k.t.ring q).put = false) (hnow : (k.t.ring q).putNow = false)
    (hahead : k.ringAhead 7 q = false) :
    Issues (exec (.ringput i) s) (s.ringServed k q { k.t.ring q with put := ((k.t.ring q).put + 1) % d.size, putNow := true }
      i.d.idx (BitVec.ofNat 64 (k.t.ring q).put)) k i.hint k.fall := by
  subst hq
  refine runS_ok h i.toSlots ?_ (by simp [State.ringServed])
  simp [Iss.ringSize_eq hd, hfull, hnow, hahead, State.ringServed]

/-- ringget with a full slot at GET, served in its turn (R349, R350). -/
theorem execRingget_serves (h : Ready s k 0x24A (linesOf i.toSlots false 0)) {q : Nat} (hq : q = i.imm.toNat % 8)
    (hfull : (k.t.ring q).full.getLsbD (k.t.ring q).get = true) (hnow : (k.t.ring q).getNow = false)
    (hahead : k.ringAhead 8 q = false) :
    Issues (exec (.ringget i) s) (s.ringServed k q { k.t.ring q with get := ((k.t.ring q).get + 1) % d.size, getNow := true }
      i.d.idx (BitVec.ofNat 64 ((k.t.ring q).get + 2 ^ 16 * b2n ((k.t.ring q).phase.getLsbD (k.t.ring q).get)))) k i.hint
      k.fall := by
  subst hq
  refine runS_ok h i.toSlots ?_ (by simp [State.ringServed])
  simp [Iss.ringSize_eq hd, hfull, hnow, hahead, State.ringServed]

section
variable {n : BitVec 6} {slot : Nat} (ha : i.a = .s n) (hslot : slot = (k.gr.rs n.toNat).toNat % 16)
  (hbits : bits (k.gr.rs n.toNat).toNat 15 4 = 0) (hlt : slot < d.size)
include ha hslot hbits hlt

/-- A slot of the ring that is not in the state asked for, with the older accesses done: the effect is at once (R351). -/
theorem ringrel_ok {q : Nat} (hq : q = i.imm.toNat % 8) {fill : Bool} (hfull : (k.t.ring q).full.getLsbD slot = !fill)
    (hquiet : k.gr.quiet (if fill then 255 else 0) = true) :
    ringrel fill i s k = .ok (s.modTeam k.tid fun t => t.ringSet q slot fill) := by
  subst hq
  have hne : (!fill) ≠ fill := by cases fill <;> decide
  simp only [ringrel, Iss.ringSize_eq hd, ha, Group.uni_s, hbits, ← hslot, hfull, hquiet, Nat.not_le_of_lt hlt, beq_iff_eq,
    hne, ne_eq, not_true_eq_false, or_false, if_false, if_true]

/-- A slot of the ring that is in the state asked for already (R351). -/
theorem ringrel_traps {q : Nat} (hq : q = i.imm.toNat % 8) {fill : Bool} (hfull : (k.t.ring q).full.getLsbD slot = fill) :
    ringrel fill i s k = .error (.t 3 2 (k.gr.rs n.toNat).toNat) := by
  subst hq
  simp only [ringrel, Iss.ringSize_eq hd, ha, Group.uni_s, hbits, ← hslot, hfull, Nat.not_le_of_lt hlt, beq_self_eq_true,
    ne_eq, not_true_eq_false, or_false, if_false, if_true]

end
end

/-- A ringrel whose effect is at once leaves the team with its slot set. -/
theorem issues_ringSet {s : State} {k : Iss} {i : MemI} (h : Ready s k 0x24B (linesOf i.toSlots false 0))
    {f : Iss → Except Bail State} {q slot : Nat} {fill : Bool}
    (hf : f k = .ok (s.modTeam k.tid fun t => t.ringSet q slot fill)) :
    ∃ s1, Issues (runS 0x24B s i.toSlots (linesOf i.toSlots false 0) f) s1 k i.hint k.fall
      ∧ s1.team? k.tid = some (k.t.ringSet q slot fill) :=
  ⟨_, runS_ok h i.toSlots hf (State.modTeam_errs s _ _), by simp [State.team?_issuer h.issuer]⟩

/-- Settles O26: each instruction by the lemma of the way in which it goes, and the ring by what setting it leaves. -/
theorem rings : Obligations.Rings := by
  intro s k i d q hq hd
  rw [hq] at hd
  refine ⟨fun h n hn hfull hnow hahead => ?_, fun h n hn hfull hnow hahead => ?_, fun n slot ha hslot hbits hlt =>
    ⟨fun h hfull hquiet => ?_, fun h hfull hquiet => ?_, fun h hfull => ?_⟩⟩
  · have hexec := execRingput_serves hd h hq hfull hnow hahead
    rw [hn] at hexec
    obtain ⟨t1, hteam, hgroup, hring⟩ := State.ringServed_leaves h.issuer q _ _ _
    exact ⟨_, t1, _, hexec, hteam, hgroup, hring, rfl⟩
  · have hexec := execRingget_serves hd h hq hfull hnow hahead
    rw [hn] at hexec
    obtain ⟨t1, hteam, hgroup, hring⟩ := State.ringServed_leaves h.issuer q _ _ _
    exact ⟨_, t1, _, hexec, hteam, hgroup, hring, rfl⟩
  · obtain ⟨s1, hexec, hteam⟩ := issues_ringSet h (ringrel_ok hd ha hslot hbits hlt hq (fill := true) hfull hquiet)
    exact ⟨s1, _, hexec, hteam, Team.ring_ringSet_fill hfull⟩
  · obtain ⟨s1, hexec, hteam⟩ := issues_ringSet h (ringrel_ok hd ha hslot hbits hlt hq (fill := false) hfull hquiet)
    exact ⟨s1, _, hexec, hteam, Team.ring_ringSet_free hfull⟩
  · exact runS_bail h i.toSlots (ringrel_traps hd ha hslot hbits hlt hq hfull)

end Sys2Proof.Machine
end

section
/-!
A halt and the groups (07 R163): what writing back, posting and deciding the operating point leave of them. Then a return from a
trap by a part of the handler's lanes, whose cycle counts (09 R215).
-/
namespace Sys2Proof.Machine

open Host (Outcome)

/-! ## What the end of a group leaves of the groups -/

/-- A group without what its exit or halt writes: whether it runs, its wait and stall, and its unsaved lines. -/
def Group.work (g : Group) : Group := { g with halted := false, exited := false, hold := none, stall := 0, unsaved := [] }

/-- Every group is as it was but for that. -/
def SameWork (s t : State) : Prop := ∀ i j, (t.group? i j).map Group.work = (s.group? i j).map Group.work

namespace SameWork

theorem refl (s : State) : SameWork s s := fun _ _ => rfl

theorem trans {s t u : State} (h : SameWork s t) (h' : SameWork t u) : SameWork s u := fun i j => (h' i j).trans (h i j)

theorem of_teams {s t : State} (h : t.teams = s.teams) : SameWork s t := fun i j => by
  rw [State.group?, State.team?, h]
  rfl

theorem foldl {α : Type} {f : State → α → State} (hf : ∀ s a, SameWork s (f s a)) (xs : List α) (s : State) :
    SameWork s (xs.foldl f s) :=
  foldl_keep (SameWork s) f (fun x a h => h.trans (hf x a)) xs s (refl s)

theorem ite {P : Prop} [Decidable P] {s t u : State} (ht : SameWork s t) (hu : SameWork s u) :
    SameWork s (if P then t else u) := by
  split
  · exact ht
  · exact hu

theorem modGroup (s : State) (tid g : Nat) {f : Group → Group} (hf : ∀ x, (f x).work = x.work) :
    SameWork s (s.modGroup tid g f) := by
  intro i j
  rw [State.group?_modGroup]
  split
  · rw [Option.map_map]
    exact congrArg (fun h => Option.map h (s.group? i j)) (funext hf)
  · rfl

/-- A team is put in place of one with the same groups. -/
theorem setTeam {s : State} {tid : Nat} {t u : Team} (ht : s.team? tid = some t) (hu : u.groups = t.groups) :
    SameWork s (s.setTeam tid u) := by
  intro i j
  simp only [State.group?, State.team?_setTeam]
  by_cases hi : i = tid
  · simp only [hi, if_true, ht, hu]
  · rw [if_neg hi]

theorem modTeam (s : State) (tid : Nat) {f : Team → Team} (hf : ∀ t, (f t).groups = t.groups) :
    SameWork s (s.modTeam tid f) := by
  unfold State.modTeam
  split
  · next t ht => exact setTeam ht (hf t)
  · exact refl s

end SameWork

/-! ## Writing back and deciding -/

theorem State.teams_postOrLose (s : State) (core kind : Nat) (w1 w2 w3 : W64) :
    (s.postOrLose core kind w1 w2 w3).teams = s.teams := by
  rw [State.postOrLose]
  split
  · rfl
  · rfl

theorem State.teams_postError (s : State) (core part kind addr pa : Nat) (wb : Bool) :
    (s.postError core part kind addr pa wb).teams = s.teams :=
  (State.teams_postNotice ..).trans (State.teams_postOrLose ..)

theorem State.teams_imageWrite (s : State) (t : Team) (va : Nat) (bs : List Byte) : (s.imageWrite t va bs).teams = s.teams := by
  rw [State.imageWrite]
  split
  · exact State.homeWrite_teams ..
  · rfl

theorem LineOut.teams_write (r : LineOut) (t : Team) (base : Nat) (p : Nat × List Byte) : (r.write t base p).s.teams = r.s.teams := by
  have hread := State.teams_checkRead r.s t.part (clusterOf t.core / 4) 4 (base + 128 * (p.1 / 128)) 128
  simp only [LineOut.write]
  split
  · rfl
  · split
    · exact State.teams_imageWrite ..
    · split
      · dsimp only
        rw [State.teams_postError, hread]
      · dsimp only
        rw [State.teams_imageWrite, hread]

theorem State.teams_writeLines (s : State) (t : Team) (base : Nat) (ps : List (Nat × List Byte)) :
    (s.writeLines t base ps).s.teams = s.teams :=
  foldl_keep (fun r : LineOut => r.s.teams = s.teams) _ (fun r p h => (LineOut.teams_write r t base p).trans h) ps _ rfl

theorem State.teams_optLearn (s : State) (c : Nat) : (s.optLearn c).teams = s.teams := by
  unfold State.optLearn
  split
  · rfl
  · split
    · rfl
    · dsimp only
      split
      · rfl
      · rfl

theorem State.teams_optMiss (s : State) (c : Nat) (key : Nat × Nat × Nat) : (s.optMiss c key).teams = s.teams := by
  unfold State.optMiss
  dsimp only
  split
  · rfl
  · rfl

theorem State.teams_optGone (s : State) (c : Nat) (was now : Nat × Nat × Nat) : (s.optGone c was now).teams = s.teams := by
  unfold State.optGone
  split
  · rfl
  · exact State.teams_optLearn s c

theorem State.teams_settle (s : State) (c : Nat) : (s.settle c).teams = s.teams := rfl

theorem State.teams_optBegin (s : State) (c : Nat) (keys : List (Nat × Nat × Nat)) : (s.optBegin c keys).teams = s.teams := rfl

theorem State.teams_setOpt (s : State) (i : Nat) (e : OptEntry) : (s.setOpt i e).teams = s.teams := rfl

theorem State.teams_optDecide (s : State) (c : Nat) : (s.optDecide c).teams = s.teams := by
  have hlearn := State.teams_optLearn s c
  unfold State.optDecide
  dsimp only
  split
  · rw [State.teams_settle, State.modCluster_teams, hlearn]
  · split
    · rw [State.teams_optBegin, State.teams_settle, State.modCluster_teams]
      exact foldl_keep (fun x : State => x.teams = s.teams) _ (fun x i hx => (State.teams_setOpt x i _).trans hx) _ _ hlearn
    · rw [State.teams_optBegin]
      refine foldl_keep (fun x : State => x.teams = s.teams) _ (fun x k hx => (State.teams_optMiss x c k).trans hx) _ _ ?_
      rw [State.teams_settle, State.modCluster_teams, hlearn]

/-! ## The halt -/

theorem Team.groups_barCheck (t : Team) : t.barCheck.groups = t.groups := by
  unfold Team.barCheck
  dsimp only
  split
  · rfl
  · rfl

namespace SameWork

theorem writeGroup (s : State) (tid : Nat) (t : Team) (g : Nat) (ps : List (Nat × List Byte)) :
    SameWork s (s.writeGroup tid t g ps) :=
  (of_teams (State.teams_writeLines ..)).trans (modGroup _ _ _ fun _ => rfl)

theorem writeMapLine (s : State) (tid ln : Nat) : SameWork s (s.writeMapLine tid ln) := by
  unfold State.writeMapLine
  split
  · exact refl s
  · next t ht =>
    dsimp only
    split
    · exact refl s
    · refine trans ?_ (of_teams (State.count_teams ..))
      split
      · next pa key _ =>
        have hwritten := foldl_keep (fun x : State => x.teams = s.teams) (fun x i =>
            if (SMap.get MapLine.off t.lines ln).dirty.getLsbD i then x.homeSet key (pa + i) (SMap.get 0#8 t.spad (128 * ln + i))
            else x)
          (fun x i hx => by
            split
            · exact (State.homeSet_teams ..).trans hx
            · exact hx)
          (List.range 128) s rfl
        exact (of_teams hwritten).trans (setTeam (t := t) (by rw [State.team?, hwritten]; exact ht) rfl)
      · exact setTeam ht rfl

theorem writeMap (s : State) (tid : Nat) : SameWork s (s.writeMap tid) := by
  unfold State.writeMap
  split
  · exact refl s
  · exact foldl (fun x ln => writeMapLine x tid ln) _ s

theorem countGone (s : State) (t : Team) (halted : Bool) : SameWork s (s.countGone t halted) :=
  ite (of_teams rfl) (of_teams rfl)

theorem groupGone (s : State) (tid g : Nat) (halted : Bool) : SameWork s (s.groupGone tid g halted) := by
  unfold State.groupGone
  split
  · exact refl s
  · split
    · exact refl s
    · next t _ _ gr _ =>
      dsimp only
      have hlines (x : State) (ns : List Nat) : SameWork x (if gr.ops.all fun o => o.done then x
          else x.modGroup tid g fun y => { y with unsaved := y.unsaved ++ ns }) :=
        ite (refl x) (modGroup x tid g fun _ => rfl)
      have hturn (x : State) : SameWork x (x.modTeam tid fun u =>
          (if (u.lrec.det && u.rot == g && !u.turnHeld) = true then { u with rot := u.nextTurn u.rot } else u).barCheck) :=
        modTeam x tid fun u => by
          rw [Team.groups_barCheck]
          split
          · rfl
          · rfl
      have hcount (ps : List (Nat × List Byte)) (ns : List Nat) :=
        (((writeGroup s tid t g ps).trans (hlines _ ns)).trans (countGone _ t halted)).trans (hturn _)
      split
      · exact hcount _ _
      · split
        · exact ((hcount _ _).trans (writeMap _ tid)).trans (of_teams (State.teams_optDecide ..))
        · exact (hcount _ _).trans (of_teams (State.teams_optGone ..))

theorem unstep (s : State) (tid g : Nat) : SameWork s (s.unstep tid g) := fun i j => by rw [group?_unstep]

theorem halt (s : State) (tid g cause : Nat) : SameWork s (s.halt tid g cause) := by
  unfold State.halt
  split
  · exact refl s
  · dsimp only
    refine trans ?_ (unstep _ tid g)
    refine trans ?_ (of_teams (State.teams_postNotice ..))
    refine trans ?_ (of_teams (State.teams_postOrLose ..))
    refine trans ?_ (groupGone _ tid g true)
    exact modGroup s tid g fun _ => rfl

theorem cycle {s t : State} (h : SameWork s t) (i j : Nat) :
    (t.group? i j).map Group.cycle = (s.group? i j).map Group.cycle := by
  have hwork := congrArg (Option.map Group.cycle) (h i j)
  rw [Option.map_map, Option.map_map] at hwork
  exact hwork

end SameWork

/-! ## A return from a trap by a part of the handler's lanes (07 R159, R163) -/

section
variable {s : State} {k : Iss} {i : Slots} {h : Handler}
  (hready : Ready s k 0x004 (if i.imm.getLsbD 2 then (261 :: (linesOf i false 0).1, (linesOf i false 0).2) else linesOf i false 0))
  (hh : k.gr.handler = some h) (hmask : k.e.mask ≠ h.front.foldl (fun (m : Mask) e => m ||| e.mask) 0)
include hready hh hmask

/-- The group halts, and its cycle is one of TRAPD. -/
theorem execTret_halts : exec (.tret i) s = .next (s.bail k .halt) := by
  have henter := hready.enter
  rw [← bit_toNat] at henter
  have hrun : k.gr.running = h.front := by rw [Group.running, hh]
  simp only [exec_tret, execTret, hready.issuer, henter, hrun, ne_eq, hmask, not_false_eq_true, if_true]

/-- The cycle of the tret counts in sr.cycle (09 R214), where a halt alone counts none. -/
theorem execTret_ne_halt : exec (.tret i) s ≠ .next (s.halt k.tid k.g k.gr.lastCause.toNat).done := by
  intro heq
  have hgr := State.group?_issuer hready.issuer
  have hstates := Outcome.next.inj ((execTret_halts hready hh hmask).symm.trans heq)
  have hgroups := congrArg (fun x : State => (x.group? k.tid k.g).map Group.cycle) hstates
  simp only [State.bail, State.group?_done, (SameWork.halt _ k.tid k.g k.gr.lastCause.toNat).cycle, State.group?_modGroup, hgr,
    and_self, if_true, Option.map_some, Option.some.injEq, Group.stallUp] at hgroups
  exact absurd hgroups (by bv_omega)

end

/-- A group that runs a handler of two entries. -/
def partedGroup : Group :=
  { placedGroup .vector true with handler := some ⟨[⟨0xFF, 0x300000, 1⟩, ⟨0xFF, 0x30000C, 2⟩], 3, [], none⟩ }

/-- The team of that group. -/
def partedTeam : Team :=
  { Team.start 0 0 0 (oneGroup .vector) [] 0 0 0 [0] [] [] false with groups := [partedGroup], fresh := [] }

/-- The device with that team alone, its group selected. -/
def partedState : State := { State.reset with teams := [(0, partedTeam)], nextTid := 1, cur := some (.group 0 0) }

/-- The first of the two entries issues. -/
def partedIss : Iss := ⟨0, 0, partedTeam, partedGroup, ⟨0xFF, 0x300000, 1⟩⟩

theorem partedState_ready : Ready partedState partedIss 0x004 ([], []) := ⟨rfl, Or.inr rfl, rfl, rfl, rfl⟩

/-- Refutes O48: a tret by one of the handler's two entries halts the group as R163 says, but its cycle counts in TRAPD (09
R215), so that sr.cycle is one more than where the group halts and no cycle counts. -/
theorem not_trapsAndReturns : ¬ Obligations.TrapsAndReturns := by
  rintro ⟨-, -, htret⟩
  have hmask : (1#32 : Mask) ≠ [⟨0xFF, 0x300000, 1⟩, ⟨0xFF, 0x30000C, 2⟩].foldl (fun (m : Mask) (e : Entry) => m ||| e.mask) 0 := by
    decide
  exact execTret_ne_halt (i := plainSlots .nil .nil .nil 0) partedState_ready rfl hmask
    ((htret partedState partedIss (plainSlots .nil .nil .nil 0) _ _ _ partedState_ready rfl rfl).1 hmask)

end Sys2Proof.Machine
end

section
/-!
The moves of the ordering machine that no instruction takes (10 R227, R230, R235, R236, 07 R173, R174): what writing back, filling
and dropping leave of a core view, what a drained entry leaves, an answer to a back-invalidation, and when a release performs.
-/
namespace Sys2Proof.Machine

open Host (Outcome)

/-! ## Maps in canonical form -/

section
variable {β : Type} (d : β)

theorem SMap.okFrom_le_of_mem {m : SMap β} {lo : Nat} [DecidableEq β] (hm : SMap.okFrom d lo m = true) : ∀ e ∈ m, lo ≤ e.1 := by
  induction m generalizing lo with
  | nil => exact fun e he => absurd he List.not_mem_nil
  | cons p m ih =>
    obtain ⟨hle, -, hrest⟩ := (SMap.okFrom_cons d m lo p).1 hm
    intro e he
    cases he with
    | head => exact hle
    | tail _ he => exact Nat.le_trans (Nat.le_succ_of_le hle) (ih hrest e he)

/-- A key that a canonical map holds stands in it once. -/
theorem SMap.filter_key_eq {m : SMap β} {lo : Nat} [DecidableEq β] (hm : SMap.okFrom d lo m = true) {k : Nat}
    (hk : SMap.get d m k ≠ d) : m.filter (fun e => e.1 == k) = [(k, SMap.get d m k)] := by
  induction m generalizing lo with
  | nil => exact absurd rfl hk
  | cons p m ih =>
    obtain ⟨-, -, hrest⟩ := (SMap.okFrom_cons d m lo p).1 hm
    rw [SMap.get_cons] at hk ⊢
    by_cases hp : p.1 = k
    · have hnone : m.filter (fun e => e.1 == k) = [] := List.filter_eq_nil_iff.2 fun e he => by
        have := SMap.okFrom_le_of_mem d hrest e he
        simp only [beq_iff_eq]
        omega
      rw [List.filter_cons, if_pos (by simpa using hp), hnone, if_pos hp, ← hp]
    · rw [if_neg hp] at hk
      rw [List.filter_cons, if_neg (by simpa using hp), if_neg hp, ih hrest hk]

/-- Values changed in place, the default kept. -/
theorem SMap.get_map (f : Nat → β → β) (m : SMap β) (k : Nat) (hf : f k d = d) :
    SMap.get d (m.map fun e => (e.1, f e.1 e.2)) k = f k (SMap.get d m k) := by
  induction m with
  | nil => exact hf.symm
  | cons p m ih =>
    rw [List.map_cons, SMap.get_cons, SMap.get_cons, ih]
    by_cases hp : p.1 = k
    · simp [hp]
    · simp [hp]

end

/-! ## Bytes of a core view are written back (10 R227) -/

/-- A byte after a write-back that does or does not select it. -/
def CvByte.cleaned (b : CvByte) (selected : Bool) : CvByte :=
  if b.dirty && selected then { b with dirty := false, mark := false } else b

theorem CvByte.cleaned_unselected (b : CvByte) : b.cleaned false = b := by
  rw [CvByte.cleaned, Bool.and_false, if_neg Bool.false_ne_true]

theorem CvByte.cleaned_dirty {b : CvByte} (h : b.dirty = true) : b.cleaned true = { b with dirty := false, mark := false } := by
  rw [CvByte.cleaned, h]
  rfl

/-- The home memory of a write-back: the selected dirty bytes are written in turn. -/
def State.written (s : State) (bs : SMap CvByte) : State := bs.foldl (fun (x : State) e => x.homeSet e.2.key e.1 e.2.val) s

theorem State.core_written (s : State) (bs : SMap CvByte) (k : Nat) : (s.written bs).core k = s.core k :=
  foldl_keep (fun x : State => x.core k = s.core k) _ (fun x _ hx => (State.core_homeSet x ..).trans hx) bs s rfl

section
variable (s : State) (core : Nat) (p : Nat → CvByte → Bool)

theorem State.homeByte_writeBack (key a : Nat) : (s.writeBack core p).homeByte key a
    = (s.written ((s.core core).view.filter fun e => e.2.dirty && p e.1 e.2)).homeByte key a := rfl

theorem State.view_writeBack (x : Nat) : SMap.get CvByte.absent ((s.writeBack core p).core core).view x
    = (SMap.get CvByte.absent (s.core core).view x).cleaned (p x (SMap.get CvByte.absent (s.core core).view x)) := by
  have hcore := State.core_written s ((s.core core).view.filter fun e => e.2.dirty && p e.1 e.2) core
  have hmap (v : SMap CvByte) : (v.map fun e => if e.2.dirty && p e.1 e.2 then (e.1, { e.2 with dirty := false, mark := false }) else e)
      = v.map fun e => (e.1, e.2.cleaned (p e.1 e.2)) :=
    List.map_congr_left fun e _ => by
      rw [CvByte.cleaned]
      split
      · rfl
      · rfl
  rw [← SMap.get_map CvByte.absent (fun a b => b.cleaned (p a b)) _ x rfl, ← hmap, ← hcore]
  simp only [State.writeBack, State.core_modCore, if_true]
  rfl

end

/-- The write-back of a dirty byte alone selects it once. -/
theorem State.view_filter_one {s : State} {core a : Nat} (hok : SMap.ok CvByte.absent (s.core core).view = true)
    (hdirty : (SMap.get CvByte.absent (s.core core).view a).dirty = true) :
    (s.core core).view.filter (fun e => e.2.dirty && [a].contains e.1) = [(a, SMap.get CvByte.absent (s.core core).view a)] := by
  have hhere : SMap.get CvByte.absent (s.core core).view a ≠ CvByte.absent := fun h => by
    rw [h] at hdirty
    exact Bool.false_ne_true hdirty
  have hkey : (fun e : Nat × CvByte => e.2.dirty && [a].contains e.1) = fun e => e.2.dirty && e.1 == a := by
    funext e
    rw [List.contains_cons, List.contains_nil, Bool.or_false]
  rw [hkey, ← List.filter_filter, SMap.filter_key_eq CvByte.absent hok hhere, List.filter_cons, if_pos hdirty, List.filter_nil]

theorem execCoreViewWriteback_eq {s : State} {core : Nat} {addrs : List Nat} (hne : addrs ≠ [])
    (hdirty : ∀ a ∈ addrs, (SMap.get CvByte.absent (s.core core).view a).dirty = true) :
    exec (.coreViewWriteback core addrs) s = .next (s.writeBack core fun a _ => addrs.contains a) := by
  have hempty : addrs.isEmpty = false := by simpa using hne
  have hall : (addrs.all fun a => (SMap.get CvByte.absent (s.core core).view a).dirty) = true := List.all_eq_true.2 hdirty
  rw [exec_coreViewWriteback, execCoreViewWriteback, hempty, hall]
  rfl

theorem viewWriteback : ViewWriteback := by
  intro s core
  refine ⟨fun addrs hne hdirty => ⟨_, execCoreViewWriteback_eq hne hdirty⟩, fun a b hok hb hdirty => ?_⟩
  subst hb
  refine ⟨_, execCoreViewWriteback_eq (List.cons_ne_nil a []) (by simpa using hdirty), ?_, ?_, fun x hx => ?_, fun k x hx => ?_⟩
  · rw [State.homeByte_writeBack, State.view_filter_one hok hdirty]
    exact (State.homeByte_homeSet s _ a a _).trans (if_pos rfl)
  · rw [State.view_writeBack, List.contains_cons, beq_self_eq_true, Bool.true_or, CvByte.cleaned_dirty hdirty]
  · rw [State.view_writeBack, List.contains_cons, beq_false_of_ne hx, List.contains_nil, Bool.or_false, CvByte.cleaned_unselected]
  · rw [State.homeByte_writeBack, State.view_filter_one hok hdirty]
    exact State.homeByte_homeSet_other s _ k a x _ hx

/-! ## A line is filled, a line leaves (10 R227) -/

theorem Core.get_of_lineAbsent {c : Core} {ln x : Nat} (h : c.lineAbsent ln = true) (hx : x / 128 = ln) :
    SMap.get CvByte.absent c.view x = CvByte.absent := by
  refine SMap.get_eq_of_none _ _ _ (List.any_eq_false.2 fun e he => ?_)
  have hne := List.all_eq_true.1 h e he
  simp only [decide_eq_true_eq] at hne
  simp only [beq_iff_eq]
  exact fun hex => hne (hex ▸ hx)

theorem Core.find_of_lineAbsent {c : Core} {ln : Nat} (h : c.lineAbsent ln = true) :
    c.view.find? (fun e => decide (e.1 / 128 = ln)) = none :=
  List.find?_eq_none.2 fun e he => by simpa using List.all_eq_true.1 h e he

/-- A byte of the filled line: a dirty one is left, and a clean one is home memory's. -/
theorem State.view_cvFill (s : State) (core ln key x : Nat) :
    SMap.get CvByte.absent ((s.cvFill core ln key).core core).view x
      = if 128 * ln ≤ x ∧ x < 128 * ln + 128 then
          (if (SMap.get CvByte.absent (s.core core).view x).dirty then SMap.get CvByte.absent (s.core core).view x
           else ⟨true, s.homeByte key x, false, 0, false, key, 0⟩)
        else SMap.get CvByte.absent (s.core core).view x := by
  rw [State.cvFill, State.core_modCore, if_pos rfl]
  exact SMap.get_replace ..

theorem viewFillAndDrop : ViewFillAndDrop := by
  intro s core line
  refine ⟨fun hmap => ?_, fun hhere hclean => ?_⟩
  · have hexec : ∃ key, exec (.coreViewFill core line) s = .next (s.cvFill core line key)
        ∧ ((s.core core).lineAbsent line = true → key = s.keyAt (128 * line)) := by
      rw [exec_coreViewFill, execCoreViewFill, hmap]
      refine ⟨_, rfl, fun habsent => ?_⟩
      rw [Core.find_of_lineAbsent habsent]
    obtain ⟨key, hexec, hkey⟩ := hexec
    refine ⟨_, hexec, State.modCore_home s core _, fun x hx => ?_, fun habsent i hi => ?_⟩
    · rw [State.view_cvFill]
      rcases hx with hdirty | hout
      · rw [if_pos hdirty, ite_self]
      · exact if_neg fun hin => hout (by omega)
    · rw [State.view_cvFill, if_pos (by omega), Core.get_of_lineAbsent habsent (by omega), hkey habsent]
      exact if_neg Bool.false_ne_true
  · have hdirty : ((s.core core).view.any fun e => decide (e.1 / 128 = line) && e.2.dirty) = false :=
      List.any_eq_false.2 fun e he h => by
        rw [Bool.and_eq_true, decide_eq_true_eq] at h
        exact Bool.false_ne_true ((hclean e he h.1).symm.trans h.2)
    refine ⟨_, by rw [exec_coreViewDrop, execCoreViewDrop, hhere, hdirty]; rfl, State.modCore_home s core _, ?_, fun x hx => ?_⟩
    · rw [State.core_modCore, if_pos rfl]
      exact List.all_eq_true.2 fun e he => (List.mem_filter.1 he).2
    · rw [State.core_modCore, if_pos rfl]
      exact (SMap.get_filter_key CvByte.absent (fun a => decide (a / 128 ≠ line)) _ x).trans (if_pos (decide_eq_true hx))

/-! ## An entry drains (07 R173, R174) -/

theorem State.wc_modCore (s : State) (n k : Nat) {f : Core → Core} (hf : ∀ c, (f c).wc = c.wc) :
    ((s.modCore n f).core k).wc = (s.core k).wc := by
  rw [State.core_modCore]
  split
  · exact hf _
  · rfl

theorem State.wc_owe (s : State) (core dev colours k : Nat) : ((s.owe core dev colours).core k).wc = (s.core k).wc :=
  State.wc_modCore s core k fun _ => rfl

theorem State.core_slipped (s : State) (core dev colours k : Nat) : (s.slipped core dev colours).core k = s.core k := rfl

theorem State.wc_count (s : State) (core event n k : Nat) : ((s.count core event n).core k).wc = (s.core k).wc := by
  obtain ⟨-, -, hcore, -⟩ := onlyGroup_count 0 0 s core event n
  exact (congrArg Core.wc (hcore k) :)

theorem State.wc_depart (s : State) (p : Packet) (path k : Nat) : ((s.depart p path).core k).wc = (s.core k).wc := by
  obtain ⟨units, ports, keyNext, o, hdepart⟩ := State.depart_eq s p path
  rw [hdepart]
  rfl

theorem State.home_depart (s : State) (p : Packet) (path : Nat) : (s.depart p path).home = s.home := by
  obtain ⟨units, ports, keyNext, o, hdepart⟩ := State.depart_eq s p path
  rw [hdepart]

theorem State.out_depart (s : State) (p : Packet) (path : Nat) : (s.depart p path).out.length = s.out.length + 1 := by
  obtain ⟨units, ports, keyNext, o, hdepart⟩ := State.depart_eq s p path
  rw [hdepart, List.length_cons]

theorem State.wc_sendOn (s : State) (core : Nat) (p : Packet) (path k : Nat) :
    ((s.sendOn core p path).core k).wc = (s.core k).wc := by
  refine (State.wc_depart _ _ path k).trans ?_
  exact State.wc_modCore s (srcCore core) k fun _ => rfl

theorem State.home_sendOn (s : State) (core : Nat) (p : Packet) (path : Nat) : (s.sendOn core p path).home = s.home :=
  State.home_depart _ _ path

theorem State.out_sendOn (s : State) (core : Nat) (p : Packet) (path : Nat) :
    (s.sendOn core p path).out.length = s.out.length + 1 :=
  State.out_depart _ _ path

section
variable {s : State} {core need : Nat} {p : Packet}

theorem State.send_ne_none (h : s.pathsTo p.ddev.toNat need ≠ []) : s.send core need p ≠ none := by
  unfold State.send
  split
  · next hpaths => exact absurd hpaths h
  · exact Option.some_ne_none _

/-- A packet that is sent leaves the buffers and home memory, and one packet leaves the device. -/
theorem State.send_leaves {s1 : State} (h : s.send core need p = some s1) :
    (∀ k, (s1.core k).wc = (s.core k).wc) ∧ s1.home = s.home ∧ s1.out.length = s.out.length + 1 := by
  unfold State.send at h
  split at h
  · exact absurd h.symm (Option.some_ne_none _)
  · rw [← Option.some.inj h]
    exact ⟨State.wc_sendOn _ core p _, State.home_sendOn _ core p _, State.out_sendOn _ core p _⟩

end

/-- An entry with a path to its device leaves the buffer, in one packet. -/
theorem State.wcDrain_leaves {s : State} {core idx : Nat} {e : WcEntry} (he : (s.core core).wc[idx]? = some e)
    (hdev : e.dev < 4096) (hpath : s.pathsTo e.dev 0 ≠ []) :
    ((s.wcDrain core idx).core core).wc = (s.core core).wc.eraseIdx idx ∧ (s.wcDrain core idx).home = s.home
      ∧ (s.wcDrain core idx).out.length = s.out.length + 1 := by
  have hto (p : Packet) (hp : p.ddev = BitVec.ofNat 12 e.dev) :
      ((s.modCore core fun c => { c with wc := c.wc.eraseIdx idx }).count core 0x0A 1).pathsTo p.ddev.toNat 0 ≠ [] := by
    rw [hp, BitVec.toNat_ofNat, Nat.mod_eq_of_lt hdev, State.pathsTo_congr (s := s) (by simp) (by simp)]
    exact hpath
  unfold State.wcDrain
  rw [he]
  dsimp only
  split
  · next hnone => exact absurd hnone (State.send_ne_none (hto _ rfl))
  · next s2 hsome =>
    obtain ⟨hwc, hhome, hout⟩ := State.send_leaves hsome
    rw [State.count_home, State.modCore_home] at hhome
    rw [State.count_out, State.modCore_out] at hout
    refine ⟨?_, hhome, hout⟩
    rw [State.core_slipped, State.wc_owe]
    refine (hwc core).trans ?_
    rw [State.wc_count, State.core_modCore, if_pos rfl]

/-! ## A back-invalidation is answered (10 R236) -/

/-- The release whose back-invalidation id is answered awaits one less. -/
def Release.answered (r : Release) (rid id : Nat) : Release :=
  if r.id = rid then { r with lines := r.lines.filter fun n => n != id } else r

theorem Release.answered_id (r : Release) (rid id : Nat) : (r.answered rid id).id = r.id := by
  rw [Release.answered]
  split
  · rfl
  · rfl

/-- While answers are awaited, the release does not go on. -/
theorem State.relAdvance_awaits {s : State} {r : Release} {id : Nat} (hr : s.releases.find? (fun q => q.id == id) = some r)
    (htold : r.told = true) (hlines : r.lines ≠ []) : s.relAdvance id = s := by
  have hempty : r.lines.isEmpty = false := by simpa using hlines
  unfold State.relAdvance
  rw [hr]
  simp [htold, hempty]

theorem drainsAndAnswers : DrainsAndAnswers := by
  refine ⟨fun s core idx e he hage hold => ?_, fun s id r hr => ⟨?_, fun hid hmore => ?_⟩⟩
  · have hexec : exec (.wcAgeDrain core idx) s = .next (s.wcDrain core idx) := by
      rw [exec_wcAgeDrain, execWcAgeDrain, he]
      exact if_neg fun h => h.elim hage (Nat.not_lt_of_le hold)
    exact ⟨⟨_, hexec⟩, fun hdev hpath => ⟨_, hexec, State.wcDrain_leaves he hdev hpath⟩⟩
  · rw [exec_backInvalidationResponse, execBackInvalidationResponse, hr]
    exact ⟨_, rfl⟩
  · have htold : r.told = true := by
      have hboth := List.find?_some hr
      exact (Bool.and_eq_true_iff.1 hboth).1
    have hfind : (s.releases.map fun q => q.answered r.id id).find? (fun q => q.id == r.id) = some (r.answered r.id id) := by
      rw [List.find?_map]
      simp only [Function.comp_def, Release.answered_id, hid, Option.map_some]
    have hawaits : (r.answered r.id id).told = true ∧ (r.answered r.id id).lines ≠ [] := by
      rw [Release.answered, if_pos rfl]
      obtain ⟨n, hn, hne⟩ := hmore
      exact ⟨htold, List.ne_nil_of_mem (List.mem_filter.2 ⟨hn, by simpa using hne⟩)⟩
    rw [exec_backInvalidationResponse, execBackInvalidationResponse, hr]
    exact congrArg Outcome.next (State.relAdvance_awaits (s := { s with releases := s.releases.map fun q => q.answered r.id id })
      hfind hawaits.1 hawaits.2)

/-! ## Releases (10 R230, R235) -/

section
variable {s : State} {t : Team} {gr : Group} {tid g id : Nat} (ht : s.team? tid = some t) (hg : t.groups[g]? = some gr)
include ht hg

theorem execReleasePerform_store {e : SbEntry} (he : gr.sb.find? (fun e => e.id == id) = some e) (hrel : e.rel = true)
    (hreleased : e.released = false) (hhead : gr.sbHead e.colour = some e) (hmay : gr.mayPerform e = true)
    (hdone : gr.mayRelease id (2 ^ e.colour) = true) (hnot : s.releasing tid g (.store id) = false)
    (hpath : s.updatePending t.core (2 ^ e.colour) e.devs = false) (hfilled : ∀ p ∈ e.puts, s.filled p.acc = true) :
    exec (.releasePerform tid g id) s = .next (s.releaseStore tid g t e) := by
  have hall : (e.puts.all fun p => s.filled p.acc) = true := List.all_eq_true.2 hfilled
  simp [execReleasePerform, ht, hg, he, hrel, hreleased, hhead, hmay, hdone, hnot, hpath, hall]

theorem execReleasePerform_atomic {e : LqEntry} (hsb : gr.sb.find? (fun e => e.id == id) = none)
    (he : gr.lq.find? (fun e => e.id == id) = some e) (hrel : e.rel = true) (hreleased : e.released = false)
    (hdone : gr.mayRelease id (2 ^ e.colour) = true) (hnot : s.releasing tid g (.atomic id) = false)
    (hpath : s.updatePending t.core (2 ^ e.colour) (e.accs.filterMap fun a => a.loc.dev?).eraseDups = false) :
    exec (.releasePerform tid g id) s = .next (s.releaseSteps t.core tid g t.part e.pc e.mask e.scope (2 ^ e.colour)
      (e.accs.filterMap fun a => a.loc.dev?).eraseDups (.atomic id)) := by
  simp [execReleasePerform, ht, hg, hsb, he, hrel, hreleased, hdone, hnot, hpath]

section
variable (hsb : gr.sb.find? (fun e => e.id == id) = none) (hlq : gr.lq.find? (fun e => e.id == id) = none)
include hsb hlq

theorem execReleasePerform_pend {p : Pend} (hp : gr.pend.find? (fun p => p.id == id) = some p) (hmay : s.mayApply gr p = true) :
    exec (.releasePerform tid g id) s = .next (s.releasePend tid g t p) := by
  simp [execReleasePerform, ht, hg, hsb, hlq, hp, hmay]

theorem execReleasePerform_fence {h : Hold} {e : Entry} (hpend : gr.pend.find? (fun p => p.id == id) = none)
    (hfence : gr.fenceOf id = some (h, e)) (hpassed : h.passed = false) (horder : 2 ≤ bits (h.answer.getD 0).toNat 23 16)
    (hquiet : gr.quiet (bits (h.answer.getD 0).toNat 7 0) = true) (hnot : s.releasing tid g (.fence id) = false)
    (hpath : s.updatePending t.core (bits (h.answer.getD 0).toNat 7 0) [] = false) :
    Completes (exec (.releasePerform tid g id) s) := by
  rw [exec_releasePerform, execReleasePerform]
  simp only [ht, hg, hsb, hlq, hpend, hfence, hpassed, hquiet, hnot, hpath, Nat.not_lt_of_le horder, Bool.false_eq_true,
    or_self]
  exact ⟨_, rfl⟩

end
end

/-- A ring's fill that waited marks its slot (15 R351). -/
theorem State.ring_releasePend {s : State} {t : Team} {tid g q slot : Nat} {p : Pend} (ht : s.team? tid = some t)
    (hp : p.kind = .ringFill q slot) (hfull : (t.ring q).full.getLsbD slot = false) :
    ∃ t1, (s.releasePend tid g t p).team? tid = some t1 ∧ t1.ring q = { t.ring q with
      full := (t.ring q).full ||| (1#16 <<< slot), phase := (t.ring q).phase ^^^ (1#16 <<< slot) } := by
  have hring (f : Group → Group) := Team.ring_ringSet_fill (t := t.modGroup g f) (q := q) (slot := slot) hfull
  refine ⟨_, ?_, hring fun x => { x with pend := x.pend.filter fun q => q.id != p.id }⟩
  simp [State.releasePend, State.applyPend, hp, State.modGroup, ht]

theorem Group.fenceOf_hold {gr : Group} {h : Hold} {e : Entry} {id : Nat} (hh : gr.hold = some h) (he : gr.selected = some e)
    (hwhy : h.why = 12) (hstarted : h.started = true) (hid : h.since = id) : gr.fenceOf id = some (h, e) := by
  have hfence : (some h).filter (fun h : Hold => h.why == 12 && h.started && h.since == id) = some h := by
    simp [Option.filter, hwhy, hstarted, hid]
  simp only [Group.fenceOf, hh, he, hfence]

theorem releases : Releases := by
  intro s t gr tid g id ht hg
  refine ⟨fun e he hrel hreleased hhead hmay hdone hnot hpath hfilled => ?_, fun e hsb he hrel hreleased hdone hnot hpath => ?_,
    fun p hsb hlq hp hmay => ?_, fun h e hsb hlq hpend hh he hwhy hstarted hpassed hid horder hquiet hnot hpath => ?_⟩
  · exact ⟨_, execReleasePerform_store ht hg he hrel hreleased hhead hmay hdone hnot hpath hfilled⟩
  · exact ⟨_, execReleasePerform_atomic ht hg hsb he hrel hreleased hdone hnot hpath⟩
  · have hexec := execReleasePerform_pend ht hg hsb hlq hp hmay
    refine ⟨⟨_, hexec⟩, fun q slot hkind hfull _ => ?_⟩
    obtain ⟨t1, hteam, hring⟩ := State.ring_releasePend (g := g) ht hkind hfull
    exact ⟨_, t1, hexec, hteam, hring⟩
  · exact execReleasePerform_fence ht hg hsb hlq hpend (Group.fenceOf_hold hh he hwhy hstarted hid) hpassed horder hquiet hnot hpath

/-- Settles O50: the moves on a core view, the drains and answers, and the releases, each by the lemma of the way in which it
goes. -/
theorem orderingMoves : Obligations.OrderingMoves := ⟨viewWriteback, viewFillAndDrop, drainsAndAnswers, releases⟩

end Sys2Proof.Machine
end

section
/-!
A tbinit whose count is 0 (09 R210, R211, 15 R345, R346): it would write a malformed barrier, so that the update leaves the
barrier's bytes as they were.
-/
namespace Sys2Proof.Machine

open Host (Outcome)

/-! ## An update alone in its core's cycle (09 R213) -/

@[simp] theorem Loc.same_self (l : Loc) : l.same l = true := by
  cases l <;> simp [Loc.same]

/-- The only update of the cycle, by an instruction of the core's last quadrant, is applied at once; of the state the core's list
of updates alone has changed by then. -/
theorem State.barUpdate_alone {s : State} {k : Iss} {loc : Loc} (hlast : (s.core k.t.core).nextQ = 0)
    (hbars : (s.core k.t.core).bars = []) (hhere : s.barGone loc = false) (va : Nat) (kind : BarKind) :
    ∃ cs, s.barUpdate k loc va kind
      = ({ s with cores := cs } : State).barSum k.t.core loc [⟨loc, k.tid, k.g, k.e.pc, k.e.mask, va, kind⟩] := by
  refine ⟨((s.modCore k.t.core fun c => { c with bars := c.bars ++ [⟨loc, k.tid, k.g, k.e.pc, k.e.mask, va, kind⟩] }).modCore
    k.t.core fun c => { c with bars := [] }).cores, ?_⟩
  have hstays : ∀ f h : Core → Core, ((s.modCore k.t.core f).modCore k.t.core h).barGone loc = false := fun f h => by
    cases loc <;> exact hhere
  simp only [State.barUpdate, hlast, if_true, State.barFlush, State.core_modCore, hbars, List.nil_append, List.isEmpty_cons,
    barPlaces, List.foldl_cons, List.foldl_nil, List.any_nil, hstays, Loc.same_self, List.filter_cons, List.filter_nil,
    Bool.false_eq_true, if_false]
  rfl

/-! ## No participants (09 R210) -/

/-- INIT would be 0, so nothing is written: only the credit that SECTORS was owed is forgotten. -/
theorem State.barSum_init_zero (s : State) (core : Nat) (loc : Loc) {u : BarUpd} (hu : u.kind = .init 0) :
    s.barSum core loc [u] = (s.barRead core loc).2.setCredit loc none := by
  have hbad : (Bar.start 0).bad = true := rfl
  simp only [State.barSum, List.foldl_cons, List.foldl_nil, hu, hbad, Option.isSome_some, if_true]

/-- A tbinit of no participants on a barrier in scratchpad changes the core's updates and the credits alone. -/
theorem State.barUpdate_init_zero {s : State} {k : Iss} {u off : Nat} (hlast : (s.core k.t.core).nextQ = 0)
    (hbars : (s.core k.t.core).bars = []) (hteam : (s.team? u).isSome = true) (va : Nat) :
    ∃ cs ds, s.barUpdate k (.spad u off) va (.init 0) = { s with cores := cs, credits := ds } := by
  have hhere : s.barGone (.spad u off) = false := by
    rw [State.barGone, ← Option.not_isSome, hteam, Bool.not_true]
  obtain ⟨cs, halone⟩ := State.barUpdate_alone hlast hbars hhere va (.init 0)
  rw [halone, State.barSum_init_zero _ _ _ rfl]
  exact ⟨cs, _, rfl⟩

theorem State.errs_idemBar (s : State) (tid : Nat) (l : Loc) : (s.idemBar tid l).errs = s.errs := by
  unfold State.idemBar State.idemStore
  split
  · exact State.clearIdem_errs s tid
  · rfl

theorem sameMemory_idemBar (s : State) (tid : Nat) (l : Loc) : SameMemory s (s.idemBar tid l) := by
  unfold State.idemBar State.idemStore
  split
  · exact sameMemory_modTeam s tid fun _ => rfl
  · exact SameMemory.refl s

/-- A tbinit of no participants completes, and every byte of scratchpad is as before. -/
theorem execTbinit_zero {s : State} {k : Iss} {i : MemI} {va u off : Nat} (h : Ready s k 0x244 (linesOf i.toSlots false 0))
    (harg : s.barArg k i.a .atomic = .ok (va, .spad u off)) (hcount : i.imm = 0) (hlast : (s.core k.t.core).nextQ = 0)
    (hbars : (s.core k.t.core).bars = []) (hteam : (s.team? u).isSome = true) :
    ∃ s1, Issues (exec (.tbinit i) s) s1 k i.hint k.fall ∧ ∀ v x n, s1.spadBytes v x n = s.spadBytes v x n := by
  obtain ⟨cs, ds, hupdate⟩ := State.barUpdate_init_zero (off := off) hlast hbars hteam va
  obtain ⟨-, hspad, -⟩ := sameMemory_idemBar { s with cores := cs, credits := ds } k.tid (.spad u off)
  refine ⟨State.idemBar { s with cores := cs, credits := ds } k.tid (.spad u off), runS_ok h i.toSlots ?_ ?_, hspad⟩
  · simp only [harg, hcount]
    exact congrArg (fun x : State => Except.ok (x.idemBar k.tid (.spad u off))) hupdate
  · exact State.errs_idemBar _ _ _

/-- Two effects with which one instruction completes leave scratchpad alike. -/
theorem Issues.spadBytes_eq {o : Outcome State Fault Refusal} {s1 s2 : State} {k : Iss} {hint : Hint}
    (h1 : Issues o s1 k hint k.fall) (h2 : Issues o s2 k hint k.fall) (u off n : Nat) :
    s1.spadBytes u off n = s2.spadBytes u off n := by
  have hlanes := rebuild_ne (prioOf k.t.prios) k.gr.running k.e k.fall k.fall_ne
  obtain ⟨⟨-, hspad1, -⟩, -⟩ := onlyGroup_retire s1 k hint k.fall none hlanes
  obtain ⟨⟨-, hspad2, -⟩, -⟩ := onlyGroup_retire s2 k hint k.fall none hlanes
  rw [← hspad1, ← hspad2, Outcome.next.inj (h1.symm.trans h2)]

/-! ## A state where such a tbinit issues -/

/-- A group whose s4 names the first byte of its team's scratchpad. -/
def namingGroup : Group := (placedGroup .vector false).ws 4 0xFFFFFFFF0F000000

/-- The team of that group; its scratchpad holds zeros. -/
def namingTeam : Team :=
  { Team.start 0 0 0 (oneGroup .vector) [] 0 0 0 [0] [] [] false with groups := [namingGroup], fresh := [] }

/-- The device with that team alone, its group selected in the last quadrant of the core's cycle. -/
def namingState : State := { State.reset with teams := [(0, namingTeam)], nextTid := 1, cur := some (.group 0 0) }

def namingIss : Iss := ⟨0, 0, namingTeam, namingGroup, ⟨0, 0x200000, 1⟩⟩

/-- tbinit [s4], #0. -/
def tbinitZero : MemI := ⟨plainSlots .nil (.s 4) .nil 0, .i32, 0, .plain, .lane⟩

theorem namingState_ready : Ready namingState namingIss 0x244 (linesOf tbinitZero.toSlots false 0) :=
  ⟨rfl, Or.inr rfl, rfl, rfl, rfl⟩

theorem namingState_barArg :
    namingState.barArg namingIss tbinitZero.a .atomic = .ok (0xFFFFFFFF0F000000, .spad 0 0) := rfl

/-- Refutes O25: of tbinit the statement leaves out the range of its count. Where IMM is 0, an *illegal operand* to R345, the
update writes nothing (R210), so that the zeros of scratchpad stay; the statement asks for the starting state of 0 participants,
its phase turned to 1. -/
theorem not_barriers : ¬ Obligations.Barriers := by
  rintro ⟨-, hrun⟩
  obtain ⟨s1, hissues, -, hwritten⟩ :=
    (hrun namingState namingIss tbinitZero _ _ 0).1 namingState_ready namingState_barArg
  obtain ⟨s2, hissues2, hkept⟩ := execTbinit_zero namingState_ready namingState_barArg rfl rfl rfl rfl
  have hturned : s1.spadBytes 0 0 16 = (Bar.start 0).settle.1.bytes := hwritten rfl rfl rfl rfl 0 0 rfl rfl
  have hzeros : s1.spadBytes 0 0 16 = List.replicate 16 0#8 := by
    rw [hissues.spadBytes_eq hissues2, hkept]
    rfl
  exact absurd (hzeros.symm.trans hturned) (by decide)

end Sys2Proof.Machine
end

section
/-!
Decoding and encoding undo each other (12 R260, R261, R274): the instruction that an opcode row gives has the word's own fields,
the form bit and the agent that its constructor stands for, so that only its word decodes to it.
-/
namespace Sys2Proof.Machine

/-! ## The fields of the instruction that a row gives -/

/-- The fields of a word, read under its opcode's layout and laid out again (12 R270). -/
def layoutView (ag : Agent) (r : Raw) : Raw :=
  match layoutOf r.op with
  | .pl => plView r.op (slotsOf ag r)
  | .fn => fnView r.op (fnOf ag r)
  | .rd => rdView r.op (rdOf ag r)
  | .mem => memView r.op (memOf ag r)
  | .mtx => mtxView r.op (mtxOf ag r)

theorem layoutView_eq {ag : Agent} {r : Raw} (hf : r.fits) (hw : wordTrap ag r = none) : layoutView ag r = r := by
  unfold layoutView
  split
  next hl => exact plView_slotsOf hf hw hl
  next hl => exact fnView_fnOf hf hw hl
  next hl => exact rdView_rdOf hf hw hl
  next hl => exact memView_memOf hf hw hl
  next hl => exact mtxView_mtxOf hf hw hl

/-- Every row of the opcode map gives a constructor that is laid out as the row's opcode; so does each half of a row that a form
bit or the agent splits. -/
theorem rawOfInstr_instrOf {ag : Agent} {r : Raw} {i : Instr} (h : instrOf ag r = some i) :
    rawOfInstr i = some (layoutView ag r) := by
  unfold layoutView
  unfold instrOf at h
  split at h
  all_goals cases h
  all_goals
    rename_i hop
    rw [hop]
  any_goals rfl
  all_goals split <;> rfl

/-! ## The form bit and the agent of the instruction that a row gives -/

theorem wordTrap_none_immBad {ag : Agent} {r : Raw} (hw : wordTrap ag r = none) : (chkOf ag r).immBad = none := by
  unfold wordTrap at hw
  simp only at hw
  repeat' split at hw
  any_goals contradiction
  assumption

/-- Step 5d leaves daddr the forms 0 and 1 alone (17 R387, R390). -/
theorem daddr_form {ag : Agent} {r : Raw} (hop : r.op = 0x384) (hw : wordTrap ag r = none) :
    r.imm / 2 ^ 28 = 0 ∨ r.imm / 2 ^ 28 = 1 := by
  have himm := wordTrap_none_immBad hw
  simp only [chkOf, chkCopy, hop] at himm
  split at himm
  next hform =>
    simp only [Bool.or_eq_true, Bool.and_eq_true, beq_iff_eq] at hform
    exact hform.imp (fun h0 => h0.1.1) (fun h1 => h1.1)
  next => cases himm

theorem toNat_slotsOf_imm {ag : Agent} {r : Raw} (hf : r.fits) : (slotsOf ag r).imm.toNat = r.imm := by
  obtain ⟨-, -, -, -, -, -, -, -, himm⟩ := hf
  exact Nat.mod_eq_of_lt himm

theorem getLsbD_slotsOf_imm {ag : Agent} {r : Raw} (hf : r.fits) (n : Nat) : (slotsOf ag r).imm.getLsbD n = bit r.imm n := by
  rw [← bit_toNat, toNat_slotsOf_imm hf]

theorem formOk_ite {x y : Instr} {b : Bool} (hx : formOk x = b) (hy : formOk y = (b == false)) :
    formOk (if b = true then x else y) = true := by
  cases b
  · exact hy
  · exact hx

/-- A row that a form bit splits gives the constructor of the bit that the word has: the rows of tqrd, idem, ringrel and daddr;
the agent splits those of bra, call and ret. -/
theorem formOk_instrOf {ag : Agent} {r : Raw} {i : Instr} (hf : r.fits) (hw : wordTrap ag r = none)
    (h : instrOf ag r = some i) : formOk i = true := by
  have hbit := getLsbD_slotsOf_imm (ag := ag) hf
  have hnat := toNat_slotsOf_imm (ag := ag) hf
  unfold instrOf at h
  split at h
  all_goals cases h
  any_goals rfl
  · exact formOk_ite (hbit 0) (congrArg (· == false) (hbit 0))
  · exact formOk_ite (hbit 0) (congrArg (· == false) (hbit 0))
  · split <;> rfl
  · split <;> rfl
  · split <;> rfl
  · exact formOk_ite (hbit 8) (congrArg (· == false) (hbit 8))
  next hop =>
    refine formOk_ite (congrArg (· / 2 ^ 28 == 1) hnat) ((congrArg (· / 2 ^ 28 == 0) hnat).trans ?_)
    rcases daddr_form hop hw with h0 | h1
    · rw [h0]; rfl
    · rw [h1]; rfl

/-- A row that the agent splits gives the agent's constructor. -/
theorem agentOk_instrOf {ag : Agent} {r : Raw} {i : Instr} (h : instrOf ag r = some i) : agentOk ag i = true := by
  unfold instrOf at h
  split at h
  all_goals cases h
  any_goals rfl
  all_goals split
  any_goals rfl
  all_goals
    rename_i hag
    simpa [agentOk] using hag

/-! ## Decoding, then encoding -/

theorem decodeRaw_eq_instr_iff {ag : Agent} {r : Raw} {i : Instr} :
    decodeRaw ag r = .instr i ↔ wordTrap ag r = none ∧ instrOf ag r = some i := by
  unfold decodeRaw
  cases wordTrap ag r with
  | some t => simp
  | none => cases instrOf ag r <;> simp

theorem encode_of_rawOfInstr {i : Instr} {w : IWord} (h : rawOfInstr i = some (rawOf w.toNat)) : encode i = some w := by
  unfold encode
  rw [h, Option.map_some, wordOf_rawOf _ w.isLt, BitVec.ofNat_toNat, BitVec.setWidth_eq]

theorem encode_wellFormed_of_decodeWord {ag : Agent} {w : IWord} {i : Instr} (h : decodeWord ag w = .instr i) :
    encode i = some w ∧ WellFormed ag i = true := by
  obtain ⟨hw, hi⟩ := decodeRaw_eq_instr_iff.1 h
  have hf := rawOf_fits w.toNat
  have hr : rawOfInstr i = some (rawOf w.toNat) := by rw [rawOfInstr_instrOf hi, layoutView_eq hf hw]
  refine ⟨encode_of_rawOfInstr hr, ?_⟩
  simp [WellFormed, hr, hw, formOk_instrOf hf hw hi, agentOk_instrOf hi]

/-! ## Encoding, then decoding -/

open Laws.Encoding in
/-- The laws of the constructors, in their order. -/
theorem decodeWord_encode (i : Instr) : Laws.Encoding.Statement i :=
  i.casesOn
    nop exit trap tret tqrd tqrdDxp srd swr vclk alarm alwait alcan phase yield brkpt idem idemClr rdctx bra brx call calli
    ret vote shfl actmask cvdecl cvsign cvtest iadd isub imul imulh imad idiv irem imin imax iabs ineg and or xor not shl shr
    sar rotl popc clz brev bfx bfi icmp sel mov lea sadd isad bcast extract getid ldk movp fadd fsub fmul ffma fmin fmax fabs
    fneg fcmp frcp frsq fsqrt fexp2 flog2 fsin fcos ftanh fdiv ffloor fround fclass fdot2 fdot4 cvt tileCvtComplete pack unpk
    scl sclf tagrd tagset sat ldg lds ldun ldm pgreq pref stg sts stun stm atom atoms red atomf fence waitc bar tbinit
    tbarrive tbexpect tbwait tbtest ringput ringget ringrelFill ringrelFree evpost evget marker wcdrain mma mmab vatld vatst
    vatclr vatcp mtrans mscale matrixOpComplete wfcfg wfband wfrun wfedge tbwalk wfscore cpyt cpyg cpys dxrun dxsig
    copySectorWrite copyComplete dxpProgramStart dloop dnext didx daddr daddrCmd dxfer darrive dwaitev dend dxpBra dxpCall
    dxpRet dxpDrainTimeout invk invh hwait htest hrel hget epsend eprecv epstand coll collComplete epsendComplete
    invocationResultReady trapDelivery stallHintExpiry alarmExpiry timeoutExpiry waitReleased barReleaseWave storePerform
    releasePerform coreViewWriteback coreViewFill coreViewDrop loadValueTake atomicStep loadComplete wcAgeDrain
    backInvalidationResponse registerLineFill vatTileSwap spmapLineFill spmapSpaceWriteback launchDoorbell launchCheck
    teamPlacement launchComplete hotspotMigration preemption partitionSwap stopIntervalClose brineVisible patienceExpiry
    standinDeferredWrite evqHeldRecordPost recordsLostPost noticesLostPost temperatureSample droopEvent droopCapExpiry
    powerGood clpartWrite partctlEnSet partctlEnClear partitionResetComplete partctlHaltSet partctlHaltClear mastctlGo
    dbgctlGo dbgctlStepSet dbgctlStepClear pmselClr pmselWrite pmcntWrite pfcmdRaiseGeneration generationWrapInvalidate
    pfcmdWriteEndpoint pfcmdClearOpt pfcmdClearPartitionOpt pfcmdSetLock pfcmdClearLock pfcmdSupplyFirmware pfcmdUnknownOp
    eppostWrite evqstatRead dxpTrapqRead registerWrite vfFunctionLevelReset cxlMemRead cxlMemWrite readRequest readResponse
    writePacket writeApplied atomicRequest atomicResponse shroudMarker markerAcknowledgement refusal invocation
    forwardedInvocation handleAnswer endpointMessage endpointStatus collectiveContribution collectiveResult abort
    malformedPacket lornanPortDown lornanPortRetrain zaronReefFrame zaronPathUpdate pathUpdateApply zaronTelemetryRequest
    zaronUnknownFrame setEndpointId getEndpointId getMctpVersionSupport getMessageTypeSupport mctpUnsupportedCommand
    getVersion getCapabilities negotiateAlgorithms getDigests getCertificate challenge getMeasurements keyExchange finish
    endSession spdmUnsupportedRequest quadrantCycle referenceClockPeriod lossOfPower lornanLinkTraining cxlLinkTraining

/-- Settles O41: from a word to its instruction row by row, from an instruction to its word by the law of each constructor. -/
theorem encodeDecode : Obligations.EncodeDecode := fun ag w i =>
  ⟨encode_wellFormed_of_decodeWord, fun ⟨hencode, hwf⟩ => decodeWord_encode i ag w hencode hwf⟩

end Sys2Proof.Machine
end

section
/-!
Stores enter the store buffer (12 R268, 15 R334, R335): what entering writes of the issuing group, and that the idempotent flag
and the checked transfers at issue leave it so.
-/
namespace Sys2Proof.Machine

open Host (Outcome)

/-! ## Entering the buffer -/

theorem State.errs_idemStore (s : State) (tid : Nat) (accs : List Acc) : (s.idemStore tid accs).errs = s.errs := by
  unfold State.idemStore
  split
  · exact State.clearIdem_errs s tid
  · rfl

theorem sameMemory_idemStore (s : State) (tid : Nat) (accs : List Acc) : SameMemory s (s.idemStore tid accs) := by
  unfold State.idemStore
  split
  · exact sameMemory_modTeam s tid fun _ => rfl
  · exact SameMemory.refl s

theorem State.group?_clearIdem (s : State) (tid i j : Nat) : (s.clearIdem tid).group? i j = s.group? i j := by
  rw [State.clearIdem, State.group?, State.group?, State.team?_modTeam]
  by_cases hi : i = tid
  · rw [if_pos hi]
    cases s.team? i <;> rfl
  · rw [if_neg hi]

theorem State.group?_idemStore (s : State) (tid : Nat) (accs : List Acc) (i j : Nat) :
    (s.idemStore tid accs).group? i j = s.group? i j := by
  unfold State.idemStore
  split
  · exact State.group?_clearIdem s tid i j
  · rfl

theorem State.errs_enterStore (s : State) (k : Iss) (i : MemI) (puts : List Put) (aop tag : Nat) :
    (s.enterStore k i puts aop tag).errs = s.errs := State.modGroup_errs _ _ _ _

section
variable {s s1 : State} {k : Iss} {i : MemI} {puts : List Put} {aop : Nat}

/-- The entry that a store of the issuing group makes. -/
def Iss.storeEntry (k : Iss) (id : Nat) (i : MemI) (puts : List Put) (aop tag : Nat) : SbEntry :=
  ⟨id, id, k.e.pc, k.e.mask, i.colour.toNat, puts, i.order == .rel, i.scope, aop, tag, false⟩

/-- The issuing group with that entry the newest of its buffer. -/
def Iss.withStore (k : Iss) (id : Nat) (i : MemI) (puts : List Put) (aop tag : Nat) : Group :=
  { k.gr.addOp id .st with sb := k.gr.sb ++ [k.storeEntry id i puts aop tag] }

theorem State.group?_enterStore (hk : s.issuer = some k) (tag : Nat) :
    (s.enterStore k i puts aop tag).group? k.tid k.g = some (k.withStore s.nextOp i puts aop tag) := by
  simp only [State.enterStore, State.group?_modGroup, State.group?_issuer (State.newOp_issuer hk)]
  rfl

theorem storeEnters_enterStore (hk : s.issuer = some k) (tag : Nat) :
    StoreEnters s (s.enterStore k i puts aop tag) k i puts aop := by
  obtain ⟨hmem, -⟩ := onlyGroup_modGroup s.newOp.2 k.tid k.g fun g =>
    { g.addOp s.nextOp .st with sb := g.sb ++ [k.storeEntry s.nextOp i puts aop tag] }
  exact ⟨hmem, _, _, State.group?_enterStore hk tag, rfl, rfl, rfl, rfl, rfl, rfl, rfl, rfl,
    fun _ _ => rfl, fun _ => rfl, fun _ => rfl⟩

theorem storeEnters_idemStore (h : StoreEnters s s1 k i puts aop) (tid : Nat) (accs : List Acc) :
    StoreEnters s (s1.idemStore tid accs) k i puts aop := by
  obtain ⟨hmem, g1, e, hgroup, henters⟩ := h
  exact ⟨hmem.trans (sameMemory_idemStore s1 tid accs), g1, e, (State.group?_idemStore s1 tid accs _ _).trans hgroup, henters⟩

/-! ## Issue -/

theorem quiet_sendAccs (k : Iss) (accs : List Acc) : Quiet (k.sendAccs accs) := fun s h => by
  simp only [Iss.sendAccs, h, List.isEmpty_nil, if_true]

variable {op : Nat} {ls : List Nat × List Nat} {f : Iss → Except Bail (State × Reads)}

theorem runE_enters_nothing (h : Ready s k op ls) (hf : f k = .ok (s.enterStore k i [] 0 (memTag i), noReads)) :
    ∃ s1, Issues (runE op s i.toSlots ls f) s1 k i.hint k.fall ∧ StoreEnters s s1 k i [] 0 :=
  runE_ex h i.toSlots ⟨_, _, hf, quiet_noReads, State.errs_enterStore .., storeEnters_enterStore h.issuer _⟩

theorem runE_enters (h : Ready s k op ls) {accs : List Acc}
    (hf : f k = .ok ((s.enterStore k i puts 0 (memTag i)).idemStore k.tid accs, k.sendAccs accs)) :
    ∃ s1, Issues (runE op s i.toSlots ls f) s1 k i.hint k.fall ∧ StoreEnters s s1 k i puts 0 :=
  runE_ex h i.toSlots ⟨_, _, hf, quiet_sendAccs k accs, (State.errs_idemStore ..).trans (State.errs_enterStore ..),
    storeEnters_idemStore (storeEnters_enterStore h.issuer _) k.tid accs⟩

end

/-! ## The instructions -/

section
variable {s : State} {k : Iss} {i : MemI} {op : Nat} {sp : Space}
  (h : Ready s k op (s.guardLines i.guard (memLines i.toSlots false (sp != .spad) (memSize i == 8))))
  (hroom : ocOf k.gr.ops .st < 63)
include h hroom

theorem storeInstr_inactive (hact : k.gr.guard i.guard k.e.mask = 0) :
    ∃ s1, Issues (storeInstr op sp i s) s1 k i.hint k.fall ∧ StoreEnters s s1 k i [] 0 := by
  refine runE_enters_nothing h ?_
  simp only [hact, if_true, counterWait_ok hroom]

theorem storeInstr_active (hact : k.gr.guard i.guard k.e.mask ≠ 0) (hbase : k.gr.checkBase sp i.a = .ok ())
    (htag : k.gr.checkTag i.b (memTag i) (memSize i == 8) 2 = .ok ()) {pl : Placed}
    (hplace : s.placeLanes k sp .store i.a (memOff i) (memSize i) (k.gr.guard i.guard k.e.mask) false = .ok pl)
    (hpath : s.pathCheck pl.accs false = .ok ()) (hfilled : s.unfilled pl.accs = none) :
    ∃ s1, Issues (storeInstr op sp i s) s1 k i.hint k.fall ∧ StoreEnters s s1 k i
      (pl.accs.map fun a => ⟨a, toBytes (memSize i) (k.gr.src i.b (memTag i) (memSize i == 8) 0 a.lane)⟩) 0 := by
  refine runE_enters (accs := pl.accs) h ?_
  simp only [hact, if_false, hbase, htag, hplace, hpath, counterWait_ok hroom, fillWait_ok hfilled]

end

theorem storesRun : StoresRun := by
  intro s k i op sp con hrow h hroom
  have hcon : exec (con i) s = storeInstr op sp i s := by
    simp only [List.mem_cons, List.not_mem_nil, or_false, Prod.mk.injEq] at hrow
    obtain ⟨rfl, rfl, rfl⟩ | ⟨rfl, rfl, rfl⟩ | ⟨rfl, rfl, rfl⟩ := hrow <;> rfl
  rw [hcon]
  exact ⟨storeInstr_inactive h hroom, fun hact hbase htag _ => storeInstr_active h hroom hact hbase htag⟩

theorem tileStores : TileStores := by
  intro s k i h hroom
  constructor
  · intro hact
    refine runE_enters_nothing h ?_
    simp only [hact, if_true, counterWait_ok hroom]
  · intro hact m hm htile pitch accs hpitch hrows hfilled
    refine runE_enters (accs := accs) h ?_
    simp only [hact, if_false, hm, Operand.idx, htile, hpitch, hrows, counterWait_ok hroom, fillWait_ok hfilled]

/-- Settles O20: a store that no check stops runs to the end of its meaning, where one new entry is written. -/
theorem stores : Obligations.Stores := ⟨storesRun, tileStores⟩

end Sys2Proof.Machine
end

section
/-!
A ring instruction that names a ring its team does not have (12 R261, R455, 15 R349): the trap of step 5d comes before
the instruction can wait for a register line, although the decoder, which sees no team, reads an instruction.
-/
namespace Sys2Proof.Machine

open Host (Outcome)

/-! ## The fetched word and the step -/

theorem State.fetchErr_nil {s : State} (herrs : s.errs = []) (core part ctx comp pc : Nat) :
    s.fetchErr core part ctx comp pc = (s, none) := by
  simp only [State.fetchErr, herrs, List.isEmpty_nil, if_true]

theorem step_of_fetchIss_trap {s : State} {k : Iss} {t : Trap} (hk : s.issuer = some k) (herrs : s.errs = [])
    (ht : s.fetchIss k = .trap t) : step s = .next (s.bail k (.t t.cause t.detail t.addr)) := by
  simp only [step, State.next, State.cur_issuer hk, hk, State.fetchErr_nil herrs, ht]

/-- Of a word that decodes, the ring that it names is checked before the instruction is issued. -/
theorem fetchIss_of_ringWord {s : State} {k : Iss} {bs : List Byte} {i : Instr} {t : Trap}
    (hfetch : s.fetch k.t.part k.t.ctx k.t.comp k.e.pc.toNat = .ok bs) (hdecode : decodeBytes k.agent bs = .instr i)
    (hvatst : k.vatstRnd bs = none) (hring : k.ringWord bs = some t) : s.fetchIss k = .trap t := by
  simp only [State.fetchIss, hfetch, hdecode, hvatst, hring]

/-- An instruction that needs a register line which is not in the register cache waits for it (02 R56). -/
theorem runS_missing {s : State} {k : Iss} {op : Nat} {ls : List Nat × List Nat} (hk : s.issuer = some k)
    (hrole : roleOk k.gr.role op = true) (hmissing : k.missing ls = true) (sl : Slots) (f : Iss → Except Bail State) :
    runS op s sl ls f = .next (s.bail k (.hold (Hold.wait 1))) := by
  have henter : k.enter op ls = .error (.hold (Hold.wait 1)) := by
    simp only [Iss.enter, hrole, hmissing, Bool.not_true, Bool.and_false, Bool.false_eq_true, if_false, if_true]
  simp only [runS, runJ, hk, henter]

/-! ## A team of one ring whose group fetches a ringput of ring 1 -/

/-- ringput s4, #1. -/
def ringputOne : MemI := ⟨plainSlots (.s 4) .nil .nil 1, .i32, 0, .plain, .lane⟩

/-- Its word. -/
def ringputOneWord : Nat := wordOf (memView 0x249 ringputOne)

/-- A group whose line of s0 to s15 is out of the register cache. -/
def evictedGroup : Group := { placedGroup .vector false with evicted := [258] }

/-- The team of that group. -/
def evictedTeam : Team :=
  { Team.start 0 0 0 (oneGroup .vector) [] 0 0 0 [0] [] [] false with groups := [evictedGroup], fresh := [] }

/-- The device with that team, its group selected at the word. -/
def evictedState : State :=
  { State.reset.placed 96 ringputOneWord with teams := [(0, evictedTeam)], cur := some (.group 0 0) }

def evictedIss : Iss := ⟨0, 0, evictedTeam, evictedGroup, ⟨0, 0x200000, 1⟩⟩

theorem evictedState_issuer : evictedState.issuer = some evictedIss := rfl

theorem evictedState_errs : evictedState.errs = [] := rfl

theorem eq_ok_of_toOption {ε α : Type} {x : Except ε α} {a : α} (h : x.toOption = some a) : x = .ok a := by
  cases x with
  | error _ => cases h
  | ok b => exact congrArg Except.ok (Option.some.inj h)

theorem evictedState_fetch : evictedState.fetch 0 0 0 0x200000 = .ok (toBytes 12 ringputOneWord) :=
  eq_ok_of_toOption (by decide +kernel)

theorem decodeBytes_ringputOneWord : decodeBytes (.group false) (toBytes 12 ringputOneWord) = .instr (.ringput ringputOne) := by
  decide

theorem ringWord_ringputOneWord : evictedIss.ringWord (toBytes 12 ringputOneWord) = some ⟨3, 5, 1⟩ := by decide

theorem vatstRnd_ringputOneWord : evictedIss.vatstRnd (toBytes 12 ringputOneWord) = none := by decide

theorem evictedState_fetchIss : evictedState.fetchIss evictedIss = .trap ⟨3, 5, 1⟩ :=
  fetchIss_of_ringWord (k := evictedIss) evictedState_fetch decodeBytes_ringputOneWord vatstRnd_ringputOneWord
    ringWord_ringputOneWord

theorem evictedState_step : step evictedState = .next (evictedState.bail evictedIss (.t 3 5 1)) :=
  step_of_fetchIss_trap (t := ⟨3, 5, 1⟩) evictedState_issuer evictedState_errs evictedState_fetchIss

theorem exec_evictedState :
    exec (.ringput ringputOne) evictedState = .next (evictedState.bail evictedIss (.hold (Hold.wait 1))) := by
  rw [exec_ringput, execRingput]
  exact runS_missing evictedState_issuer rfl (by decide) _ _

/-- Refutes O42: a word that the decoder reads as an instruction need not be the one that the step runs. A ringput of a ring that
the team does not have takes DETAIL 5 with the word (R349, step 5d), before the wait for D's register line, with which the
instruction answers; the statement asks for the instruction's answer. -/
theorem not_stepRuns : ¬ Obligations.StepRuns := by
  intro hruns
  obtain ⟨hgroup, -⟩ := hruns evictedState
  obtain ⟨hinstr, -⟩ := hgroup evictedIss _ evictedState_issuer evictedState_errs evictedState_fetch
  have hsame := evictedState_step.symm.trans ((hinstr _ decodeBytes_ringputOneWord).trans exec_evictedState)
  have hrecords := congrArg (fun t => (t.group? 0 0).map fun g => g.trapq.length) (Outcome.next.inj hsame)
  exact absurd hrecords (by decide)

end Sys2Proof.Machine
end

section
/-!
Branches (13 R281, R283): the target that operand A gives a lane, as a number of 56 bits.
-/
namespace Sys2Proof.Machine

open Host (Outcome)

/-- The lanes of an entry that branches: the active ones go to their targets. -/
theorem Iss.go_some (k : Iss) (gd : Guard) (next : Nat → Pc) : (k.go gd fun l => some (next l)) = targets k.e.mask fun l =>
    some (if (k.gr.guard gd k.e.mask).getLsbD l then next l else k.e.pc + 12) := by
  simp only [Iss.go, apply_ite some]

theorem Group.checkTag_s (g : Group) (n : BitVec 6) (want : Nat) (wide : Bool) (code : Nat) :
    g.checkTag (.s n) want wide code = .ok () := rfl

/-- A pair whose registers both carry the tag that is asked for passes its check (04 R89). -/
theorem Group.checkTag_pair {g : Group} {n : BitVec 8} {want : Nat} (hlow : tagMatch want (g.rtag n.toNat) = true)
    (hhigh : tagMatch want (g.rtag (n.toNat + 1)) = true) (code : Nat) : g.checkTag (.v n) want true code = .ok () := by
  simp [Group.checkTag, hlow, hhigh]

theorem execBra_issues {s : State} {k : Iss} {i : Slots} (h : Ready s k 0x041 ([], [])) :
    Issues (exec (.bra i) s) s k i.hint (targets k.e.mask fun l =>
      some (if (k.gr.guard i.guard k.e.mask).getLsbD l then relTarget k.e.pc i.imm else k.e.pc + 12)) := by
  rw [← k.go_some i.guard fun _ => relTarget k.e.pc i.imm]
  exact runJ_ok h i (f := fun k => .ok (s, k.go i.guard fun _ => some (relTarget k.e.pc i.imm))) rfl rfl

/-- A branch whose target passes its tag check sends the active lanes there. -/
theorem execBrx_issues {s : State} {k : Iss} {i : Slots} (h : Ready s k 0x042 (linesOf i true 0))
    (htag : k.gr.checkTag i.a 0x30 true 1 = .ok ()) : Issues (exec (.brx i) s) s k i.hint (targets k.e.mask fun l =>
      some (if (k.gr.guard i.guard k.e.mask).getLsbD l then k.gr.jumpTo i.a l else k.e.pc + 12)) := by
  rw [← k.go_some i.guard (k.gr.jumpTo i.a)]
  refine runJ_ok h i ?_ rfl
  simp only [Iss.jumpTag, htag]

/-- Settles O5: a branch whose target passes its tag check completes; the target is a whole s register or the lane's pair. -/
theorem branches : Obligations.Branches := by
  intro s k i
  refine ⟨execBra_issues, fun h n ha => ?_, fun h n ha hlow hhigh => ?_⟩
  · have hissues := execBrx_issues h (by rw [ha]; exact Group.checkTag_s ..)
    rw [ha] at hissues
    exact hissues
  · have hissues := execBrx_issues h (by rw [ha]; exact Group.checkTag_pair hlow hhigh 1)
    rw [ha] at hissues
    exact hissues

end Sys2Proof.Machine
end

section
/-!
Lane exchange (13 R284, R285): the lowest and the highest lane of a mask, and the lanes that a move writes.
-/
namespace Sys2Proof.Machine

open Host (Outcome)

/-! ## The lowest and the highest lane -/

theorem lanesOf_zero : lanesOf 0 = [] := rfl

theorem lanesOf_pairwise (m : Mask) : (lanesOf m).Pairwise (· < ·) := List.pairwise_lt_range.filter _

theorem lanesOf_head? {m : Mask} {l : Nat} (hl : l < 32) (hm : m.getLsbD l = true) (hmin : ∀ j < l, m.getLsbD j = false) :
    (lanesOf m).head? = some l := by
  rw [lanesOf, List.head?_filter, List.find?_range_eq_some]
  exact ⟨hm, List.mem_range.2 hl, fun j hj => by rw [hmin j hj]; rfl⟩

theorem lanesOf_getLast? {m : Mask} {l : Nat} (hl : l < 32) (hm : m.getLsbD l = true)
    (hmax : ∀ j < 32, l < j → m.getLsbD j = false) : (lanesOf m).getLast? = some l := by
  have hmem : l ∈ lanesOf m := (mem_lanesOf m l).2 ⟨hl, hm⟩
  obtain ⟨low, top, hsplit⟩ := List.eq_nil_or_concat (lanesOf m) |>.resolve_left (List.ne_nil_of_mem hmem)
  have hord := lanesOf_pairwise m
  obtain ⟨htop, hset⟩ := (mem_lanesOf m top).1 (by rw [hsplit]; simp)
  rw [hsplit, List.concat_eq_append] at hmem hord ⊢
  rw [List.getLast?_concat]
  simp only [ List.pairwise_append, List.mem_append, List.mem_singleton] at hmem hord
  rcases hmem with hlow | rfl
  · have hlt : l < top := hord.2.2 l hlow top rfl
    rw [hmax top htop hlt] at hset
    cases hset
  · rfl

/-! ## vote (13 R284) -/

theorem Iss.voters_eq (k : Iss) (a : Operand) : k.voters a = trueLanes k a := rfl

theorem execVote_issues {s : State} {k : Iss} {i : FnI} {g1 : Group} (h : Ready s k 0x046 (linesOf i.toSlots false 0))
    (hg : voteGroup i k = .ok g1) : IssuesGroup (exec (.vote i) s) s k i.hint g1 := runG_ok h i.toSlots hg

/-! ## Moved lanes (13 R285, R296) -/

/-- What a move leaves in its destination register and, for a pair, in the register above. -/
theorem Group.rv_wmove (g : Group) (n : Nat) (wide : Bool) (m : Mask) (f : Nat → Nat) (tags : Nat × Nat) {j l : Nat}
    (hl : l < 32) : (g.wmove n wide m f tags).rv j l
      = if m.getLsbD l = true then
          (if wide = true ∧ j = n + 1 then BitVec.ofNat 32 (f l / 2 ^ 32) else if j = n then BitVec.ofNat 32 (f l) else g.rv j l)
        else g.rv j l := by
  unfold Group.wmove
  split
  next hempty =>
    rw [if_neg fun hm => List.ne_nil_of_mem ((mem_lanesOf m l).2 ⟨hl, hm⟩) (List.isEmpty_iff.1 hempty)]
  next => split <;> exact Group.rv_wv g n wide m f tags.1 j l hl

theorem Group.rv_wmove_low (g : Group) (n : Nat) (wide : Bool) {m : Mask} (f : Nat → Nat) (tags : Nat × Nat) {l : Nat}
    (hl : l < 32) (hm : m.getLsbD l = true) : (g.wmove n wide m f tags).rv n l = BitVec.ofNat 32 (f l) := by
  rw [Group.rv_wmove _ _ _ _ _ _ hl, if_pos hm, if_neg (by omega), if_pos rfl]

theorem Group.rv_wmove_high (g : Group) (n : Nat) {m : Mask} (f : Nat → Nat) (tags : Nat × Nat) {l : Nat}
    (hl : l < 32) (hm : m.getLsbD l = true) : (g.wmove n true m f tags).rv (n + 1) l = BitVec.ofNat 32 (f l / 2 ^ 32) := by
  rw [Group.rv_wmove _ _ _ _ _ _ hl, if_pos hm, if_pos ⟨rfl, rfl⟩]

/-- The low register's word of the value that a v operand gives a lane, of 32 or of 64 bits. -/
theorem Group.ofNat_src_v (g : Group) (a : BitVec 8) (tag : Nat) (wide : Bool) (imm l : Nat) :
    BitVec.ofNat 32 (g.src (.v a) tag wide imm l) = g.rv a.toNat l := by
  cases wide
  · exact (BitVec.ofNat_toNat ..).trans (BitVec.setWidth_eq _)
  · simp only [Group.src, if_true]
    apply BitVec.eq_of_toNat_eq
    simp only [BitVec.toNat_ofNat]
    omega

/-! ## shfl (13 R285) -/

/-- A control word with no bit past 11 set and a segment code of at most 4 is one that its table accepts. -/
theorem shflBad_false {c : Nat} (hseg : bits c 10 8 ≤ 4) (hlt : c < 4096) : shflBad c = false := by
  have hhigh : c / 2 ^ 12 = 0 := Nat.div_eq_of_lt hlt
  have hsegment : ¬ 5 ≤ bits c 10 8 := by omega
  simp only [shflBad, hhigh, hsegment, decide_false, ne_eq, not_true_eq_false, Bool.or_self]

/-- The value that shfl gives a lane: the named lane's, or where it lies outside the segment 0 or the lane's own. -/
def Iss.shflValue (k : Iss) (i : FnI) (c : Nat → Nat) (l : Nat) : Nat :=
  match shflFrom i.sub.toNat (c l) l with
  | some j => k.gr.src i.a (16 * tyCode i.ty) (tagWide (16 * tyCode i.ty)) 0 j
  | none => if bit (c l) 11 then 0 else k.gr.src i.a (16 * tyCode i.ty) (tagWide (16 * tyCode i.ty)) 0 l

theorem execShfl_issues {s : State} {k : Iss} {i : FnI} {c : Nat → Nat} (hc : ∀ l, c l = k.gr.src i.b 0 false i.imm.toNat l)
    (h : Ready s k 0x047 (linesOf i.toSlots (tagWide (16 * tyCode i.ty)) 0)) (htag : k.gr.checkTag i.b 0x10 false 2 = .ok ())
    (hctl : ∀ l < 32, k.e.mask.getLsbD l = true → bits (c l) 10 8 ≤ 4 ∧ c l < 4096) :
    IssuesGroup (exec (.shfl i) s) s k i.hint (k.gr.wmove i.d.idx (tagWide (16 * tyCode i.ty)) k.e.mask (k.shflValue i c)
      (k.gr.tagsOf i.a (16 * tyCode i.ty) (tagWide (16 * tyCode i.ty)))) := by
  have hgood : (lanesOf k.e.mask).find? (fun l => shflBad (c l)) = none := List.find?_eq_none.2 fun l hl => by
    obtain ⟨hlt, hmask⟩ := (mem_lanesOf _ _).1 hl
    obtain ⟨hseg, hlast⟩ := hctl l hlt hmask
    rw [shflBad_false hseg hlast]
    exact Bool.false_ne_true
  obtain rfl : c = k.gr.src i.b 0 false i.imm.toNat := funext hc
  refine runG_ok h i.toSlots (f := fun k => shflGroup i k) ?_
  simp only [shflGroup, htag, hgood]
  rfl

/-- Mode 3 over the whole group is a rotation. -/
theorem shflFrom_rotate {c l : Nat} (hc : c < 32) (hl : l < 32) : shflFrom 3 c l = some ((l + c) % 32) := by
  have hseg : bits c 10 8 = 0 := by simp only [bits]; omega
  have hamt : bits c 7 0 = c := by simp only [bits]; omega
  have hmod : l % 32 = l := Nat.mod_eq_of_lt hl
  simp only [shflFrom, hseg, hamt, Nat.pow_zero, Nat.div_one, hmod]
  rw [if_pos (by omega)]
  congr 1
  omega

/-- Settles O7: the masks, counts and ends of a vote, and the lanes that a shfl of good control words reads. -/
theorem laneExchange : Obligations.LaneExchange := by
  intro s k i
  refine ⟨fun j h => runG_ok h j (f := fun k => .ok (k.gr.ws j.d.idx (k.e.mask.setWidth 64))) rfl, fun h => ?_, ?_, ?_⟩
  · have hvote := fun g1 => execVote_issues (g1 := g1) h
    refine ⟨fun hsub => hvote _ ?_, fun hsub => hvote _ ?_, fun hsub => hvote _ ?_, fun hsub => hvote _ ?_,
      fun hsub => hvote _ ?_, fun hsub => ⟨(lanesOf (trueLanes k i.a)).head?.getD 32, hvote _ ?_, fun hnone => ?_,
        fun l hl hm hmin => ?_⟩,
      fun hsub => ⟨(lanesOf (trueLanes k i.a)).getLast?.getD 32, hvote _ ?_, fun hnone => ?_, fun l hl hm hmax => ?_⟩⟩
    · simp [voteGroup, hsub, k.voters_eq]
    · simp [voteGroup, hsub, k.voters_eq]
    · simp [voteGroup, hsub, k.voters_eq]
    · simp [voteGroup, hsub, k.voters_eq]
    · simp [voteGroup, hsub, k.voters_eq, lanesOf]
    · simp [voteGroup, hsub, k.voters_eq]
    · rw [hnone, lanesOf_zero]
      rfl
    · rw [lanesOf_head? hl hm hmin]
      rfl
    · simp [voteGroup, hsub, k.voters_eq]
    · rw [hnone, lanesOf_zero]
      rfl
    · rw [lanesOf_getLast? hl hm hmax]
      rfl
  · intro d a wide c hwide hc hd ha h htag hctl
    subst hwide
    refine ⟨_, execShfl_issues hc h htag hctl, fun l hl hmask => ?_⟩
    rw [hd]
    refine (Group.rv_wmove_low _ _ _ _ _ hl hmask).trans ?_
    simp only [Iss.shflValue, ha]
    cases shflFrom i.sub.toNat (c l) l with
    | some j => exact Group.ofNat_src_v ..
    | none =>
      cases bit (c l) 11 with
      | true => rfl
      | false => exact Group.ofNat_src_v k.gr a (16 * tyCode i.ty) (tagWide (16 * tyCode i.ty)) 0 l
  · intro h d a b hty hd ha hb hsub hlt
    have hc : ∀ l, (k.gr.rs b.toNat).toNat = k.gr.src i.b 0 false i.imm.toNat l := fun l => by
      rw [hb]
      exact (Nat.mod_eq_of_lt (by omega)).symm
    have hnarrow : tagWide (16 * tyCode i.ty) = false := by rw [hty]; rfl
    have hctl : bits (k.gr.rs b.toNat).toNat 10 8 ≤ 4 ∧ (k.gr.rs b.toNat).toNat < 4096 := by
      simp only [bits]
      omega
    refine ⟨_, execShfl_issues hc (by rw [hnarrow]; exact h) (by rw [hb]; rfl) fun _ _ _ => hctl, fun l hl hmask => ?_⟩
    rw [hd]
    refine (Group.rv_wmove_low _ _ _ _ _ hl hmask).trans ?_
    have hmode : i.sub.toNat = 3 := by rw [hsub]; rfl
    simp only [Iss.shflValue, hmode, shflFrom_rotate hlt hl, ha, Group.ofNat_src_v]

end Sys2Proof.Machine
end

section
/-!
The integer operations on one element as wide as the register (13 R279, R290-R292): what the exact result of each, wrapped, is
as an operation on words of 32 or of 64 bits.
-/
namespace Sys2Proof.Machine

/-! ## Integers and words -/

theorem ofNat_wrapI (w : Nat) (x : Int) : BitVec.ofNat w (wrapI w x) = BitVec.ofInt w x := by
  apply BitVec.eq_of_toNat_eq
  have hpos : (0 : Int) < ((2 ^ w : Nat) : Int) := by exact_mod_cast Nat.two_pow_pos w
  have hlt := Int.emod_lt_of_pos x hpos
  have hnonneg := Int.emod_nonneg x hpos.ne'
  rw [BitVec.toNat_ofNat, BitVec.toNat_ofInt, wrapI, Nat.mod_eq_of_lt (by omega)]

theorem ofNat_two_pow_sub_one (w : Nat) : BitVec.ofNat w (2 ^ w - 1) = (-1 : BitVec w) := by
  refine Eq.trans (BitVec.eq_of_toNat_eq ?_) BitVec.neg_one_eq_allOnes.symm
  rw [BitVec.toNat_ofNat, BitVec.toNat_allOnes, Nat.mod_eq_of_lt (Nat.sub_one_lt (Nat.two_pow_pos w).ne')]

theorem sextI_toNat {w : Nat} (hw : w ≠ 0) (x : BitVec w) : sextI w x.toNat = x.toInt := by
  have hpow : 2 ^ w = 2 * 2 ^ (w - 1) := by rw [← Nat.pow_succ', Nat.succ_eq_add_one, Nat.sub_add_cancel (by omega)]
  have hlt := x.isLt
  rw [sextI, BitVec.toInt_eq_toNat_cond, Nat.mod_eq_of_lt hlt]
  split
  next hpositive => rw [if_pos (by omega)]
  next hnegative => rw [if_neg (by omega)]

theorem intVal_unsigned {tag : Nat} (h : tagSigned tag = false) (n : Nat) : intVal tag n = n := by rw [intVal, h]; rfl

section
variable {w tag : Nat} (hw : intWidth tag = w) (hone : w = 32 ∨ w = 64)
include hw hone

/-- The integer that a word is read as wraps to the word. -/
theorem ofInt_intVal (x : BitVec w) : BitVec.ofInt w (intVal tag x.toNat) = x := by
  unfold intVal
  split
  · rw [hw, sextI_toNat (by omega), BitVec.ofInt_toInt]
  · rw [BitVec.ofInt_natCast, BitVec.ofNat_toNat, BitVec.setWidth_eq]

/-- An operation on one element without SAT wraps its exact result and sets no flag (13 R279). -/
theorem intLane_one (op : IntOp) (sub : Nat) (x y z : BitVec w) : intLane op tag false sub x.toNat y.toNat z.toNat
    = (wrapI w (intExact op tag sub x.toNat y.toNat z.toNat), 0) := by
  have hcount : (if w = 64 then 1 else 32 / w) = 1 := by rcases hone with rfl | rfl <;> rfl
  have helem : ∀ v : BitVec w, elemAt w v.toNat 0 = v.toNat := fun v => by
    simp only [elemAt, Nat.mul_zero, Nat.pow_zero, Nat.div_one, Nat.mod_eq_of_lt v.isLt]
  simp only [intLane, hw, hcount, List.range_one, List.map_cons, List.map_nil, helem, intFit, Bool.false_eq_true, if_false,
    ofElems, Nat.mul_zero, Nat.add_zero, Nat.mod_eq_of_lt (wrapI_lt w _), List.foldl_cons, List.foldl_nil, flagsOr, Nat.or_self]

theorem ofNat_intLane (op : IntOp) (sub : Nat) (x y z : BitVec w) :
    BitVec.ofNat w (intLane op tag false sub x.toNat y.toNat z.toNat).1
      = BitVec.ofInt w (intExact op tag sub x.toNat y.toNat z.toNat) := by
  rw [intLane_one hw hone, ofNat_wrapI]

/-! ## Arithmetic modulo the width, and bitwise operations (13 R290, R292) -/

variable (sub : Nat) (x y z : BitVec w)

theorem intLane_add : BitVec.ofNat w (intLane .add tag false sub x.toNat y.toNat z.toNat).1 = x + y := by
  rw [ofNat_intLane hw hone, intExact, BitVec.ofInt_add, ofInt_intVal hw hone, ofInt_intVal hw hone]

theorem intLane_sub : BitVec.ofNat w (intLane .sub tag false sub x.toNat y.toNat z.toNat).1 = x - y := by
  rw [ofNat_intLane hw hone, intExact, Int.sub_eq_add_neg, BitVec.ofInt_add, BitVec.ofInt_neg, ofInt_intVal hw hone,
    ofInt_intVal hw hone, BitVec.sub_eq_add_neg]

theorem intLane_mul : BitVec.ofNat w (intLane .mul tag false sub x.toNat y.toNat z.toNat).1 = x * y := by
  rw [ofNat_intLane hw hone, intExact, BitVec.ofInt_mul, ofInt_intVal hw hone, ofInt_intVal hw hone]

theorem intLane_mad : BitVec.ofNat w (intLane .mad tag false sub x.toNat y.toNat z.toNat).1 = x * y + z := by
  rw [ofNat_intLane hw hone, intExact, BitVec.ofInt_add, BitVec.ofInt_mul, ofInt_intVal hw hone, ofInt_intVal hw hone,
    ofInt_intVal hw hone]

theorem intLane_neg : BitVec.ofNat w (intLane .neg tag false sub x.toNat y.toNat z.toNat).1 = -x := by
  rw [ofNat_intLane hw hone, intExact, BitVec.ofInt_neg, ofInt_intVal hw hone]

theorem intLane_sadd : BitVec.ofNat w (intLane .sadd tag false sub x.toNat y.toNat z.toNat).1
    = x * BitVec.ofNat w (2 ^ sub) + y := by
  rw [ofNat_intLane hw hone, intExact, BitVec.ofInt_add, BitVec.ofInt_mul, ofInt_intVal hw hone, ofInt_intVal hw hone,
    BitVec.ofInt_natCast]

theorem intLane_and : BitVec.ofNat w (intLane .and tag false sub x.toNat y.toNat z.toNat).1 = x &&& y := by
  rw [ofNat_intLane hw hone, intExact, BitVec.ofInt_natCast, ← BitVec.toNat_and, BitVec.ofNat_toNat, BitVec.setWidth_eq]

theorem intLane_or : BitVec.ofNat w (intLane .or tag false sub x.toNat y.toNat z.toNat).1 = x ||| y := by
  rw [ofNat_intLane hw hone, intExact, BitVec.ofInt_natCast, ← BitVec.toNat_or, BitVec.ofNat_toNat, BitVec.setWidth_eq]

theorem intLane_xor : BitVec.ofNat w (intLane .xor tag false sub x.toNat y.toNat z.toNat).1 = x ^^^ y := by
  rw [ofNat_intLane hw hone, intExact, BitVec.ofInt_natCast, ← BitVec.toNat_xor, BitVec.ofNat_toNat, BitVec.setWidth_eq]

theorem intLane_not : BitVec.ofNat w (intLane .not tag false sub x.toNat y.toNat z.toNat).1 = ~~~x := by
  rw [ofNat_intLane hw hone, intExact, BitVec.ofInt_natCast, hw, ← BitVec.toNat_not, BitVec.ofNat_toNat, BitVec.setWidth_eq]

theorem intLane_shl : BitVec.ofNat w (intLane .shl tag false sub x.toNat y.toNat z.toNat).1 = x <<< y.toNat := by
  rw [ofNat_intLane hw hone, intExact, hw]
  split
  next hpast => rw [BitVec.shiftLeft_eq_zero hpast]; rfl
  next =>
    rw [BitVec.ofInt_natCast]
    apply BitVec.eq_of_toNat_eq
    rw [BitVec.toNat_ofNat, BitVec.toNat_shiftLeft, Nat.mod_mod, Nat.shiftLeft_eq]

theorem intLane_shr : BitVec.ofNat w (intLane .shr tag false sub x.toNat y.toNat z.toNat).1 = x >>> y.toNat := by
  rw [ofNat_intLane hw hone, intExact, hw]
  split
  next hpast => rw [BitVec.ushiftRight_eq_zero hpast]; rfl
  next =>
    rw [BitVec.ofInt_natCast, ← Nat.shiftRight_eq_div_pow, ← BitVec.toNat_ushiftRight, BitVec.ofNat_toNat, BitVec.setWidth_eq]

/-! ## Extremes, absolute value, division, the high half of a product (13 R290, R291) -/

theorem intLane_min : BitVec.ofNat w (intLane .min tag false sub x.toNat y.toNat z.toNat).1
    = if intVal tag x.toNat ≤ intVal tag y.toNat then x else y := by
  rw [ofNat_intLane hw hone, intExact, apply_ite (BitVec.ofInt w), ofInt_intVal hw hone, ofInt_intVal hw hone]

theorem intLane_max : BitVec.ofNat w (intLane .max tag false sub x.toNat y.toNat z.toNat).1
    = if intVal tag x.toNat ≤ intVal tag y.toNat then y else x := by
  rw [ofNat_intLane hw hone, intExact, apply_ite (BitVec.ofInt w), ofInt_intVal hw hone, ofInt_intVal hw hone]

theorem intLane_abs : BitVec.ofNat w (intLane .abs tag false sub x.toNat y.toNat z.toNat).1
    = if intVal tag x.toNat < 0 then -x else x := by
  rw [ofNat_intLane hw hone, intExact, apply_ite (BitVec.ofInt w), BitVec.ofInt_neg, ofInt_intVal hw hone]

variable (hunsigned : tagSigned tag = false)
include hunsigned

theorem intLane_div : BitVec.ofNat w (intLane .div tag false sub x.toNat y.toNat z.toNat).1 = if y = 0 then -1 else x / y := by
  simp only [ofNat_intLane hw hone, intExact, idivT, intVal_unsigned hunsigned, hw, Int.natCast_eq_zero]
  by_cases hy : y.toNat = 0
  · rw [if_pos hy, if_pos (BitVec.eq_of_toNat_eq hy), BitVec.ofInt_natCast]
    exact ofNat_two_pow_sub_one w
  · rw [if_neg hy, if_neg fun h => hy (by rw [h]; rfl), ← Int.ofNat_tdiv, BitVec.ofInt_natCast, ← BitVec.toNat_udiv, BitVec.ofNat_toNat, BitVec.setWidth_eq]

theorem intLane_rem : BitVec.ofNat w (intLane .rem tag false sub x.toNat y.toNat z.toNat).1 = x % y := by
  simp only [ofNat_intLane hw hone, intExact, idivT, intVal_unsigned hunsigned, Int.natCast_eq_zero]
  by_cases hy : y.toNat = 0
  · have hzero : y = 0#w := BitVec.eq_of_toNat_eq hy
    rw [if_pos hy, BitVec.ofInt_natCast, hzero, BitVec.umod_zero, BitVec.ofNat_toNat, BitVec.setWidth_eq]
  · rw [if_neg hy, ← Int.ofNat_tmod, BitVec.ofInt_natCast, ← BitVec.toNat_umod, BitVec.ofNat_toNat, BitVec.setWidth_eq]

theorem intLane_mulh : BitVec.ofNat w (intLane .mulh tag false sub x.toNat y.toNat z.toNat).1
    = BitVec.ofNat w (x.toNat * y.toNat / 2 ^ w) := by
  rw [ofNat_intLane hw hone, intExact, intVal_unsigned hunsigned, intVal_unsigned hunsigned, hw, ← Int.natCast_mul,
    ← Int.natCast_ediv, BitVec.ofInt_natCast]

end

/-! ## The operations on words of 32 bits -/

theorem integerWords : IntegerWords := by
  intro x y z sub r
  have hone : (32 : Nat) = 32 ∨ (32 : Nat) = 64 := Or.inl rfl
  have hu : intWidth 0x10 = 32 := rfl
  have hi : intWidth 0x00 = 32 := rfl
  have hx : intVal 0x00 x.toNat = x.toInt := sextI_toNat (by decide) x
  have hy : intVal 0x00 y.toNat = y.toInt := sextI_toNat (by decide) y
  refine ⟨fun tag htag => ?_, intLane_div hu hone sub x y z rfl, intLane_rem hu hone sub x y z rfl, ?_, ?_, ?_, ?_, ?_,
    intLane_mulh hu hone sub x y z rfl⟩
  · have hw : intWidth tag = 32 := by rcases htag with rfl | rfl <;> rfl
    exact ⟨intLane_add hw hone sub x y z, intLane_sub hw hone sub x y z, intLane_mul hw hone sub x y z,
      intLane_mad hw hone sub x y z, intLane_neg hw hone sub x y z, intLane_and hw hone sub x y z,
      intLane_or hw hone sub x y z, intLane_xor hw hone sub x y z, intLane_not hw hone sub x y z,
      intLane_shl hw hone sub x y z, intLane_shr hw hone sub x y z, intLane_sadd hw hone sub x y z⟩
  · refine (intLane_min hu hone sub x y z).trans ?_
    simp only [intVal_unsigned (tag := 0x10) rfl, Int.ofNat_le, BitVec.le_def]
  · refine (intLane_max hu hone sub x y z).trans ?_
    simp only [intVal_unsigned (tag := 0x10) rfl, Int.ofNat_le, BitVec.le_def]
  · exact (intLane_min hi hone sub x y z).trans (by rw [hx, hy])
  · exact (intLane_max hi hone sub x y z).trans (by rw [hx, hy])
  · exact (intLane_abs hi hone sub x y z).trans (by rw [hx])

/-! ## The vector forms (13 R278-R280) -/

theorem exec_intInstrOf (op : IntOp) (i : FnI) (s : State) :
    exec (intInstrOf op i) s = intInstr op (intOpcode op) (intReadsD op) i s := by
  cases op <;> rfl

/-- On a group an operation of R290 runs its vector or uniform form. -/
theorem intInstr_group {s : State} {k : Iss} (hk : s.issuer = some k) (op : IntOp) (opc : Nat) (readsD : Bool) (i : FnI) :
    intInstr op opc readsD i s
      = runG opc s i.toSlots (linesOf i.toSlots (tagWide (16 * tyCode i.ty)) 0) fun k => intGroup op readsD i k := by
  rw [intInstr, State.cur_issuer hk]

theorem exec_intInstrOf_issues {s : State} {k : Iss} {op : IntOp} {i : FnI} {g1 : Group}
    (h : Ready s k (intOpcode op) (linesOf i.toSlots (tagWide (16 * tyCode i.ty)) 0))
    (hg : intGroup op (intReadsD op) i k = .ok g1) : IssuesGroup (exec (intInstrOf op i) s) s k i.hint g1 := by
  rw [exec_intInstrOf, intInstr_group h.issuer]
  exact runG_ok h i.toSlots hg

/-- What a lane of a vector form computes of its elements (13 R279). -/
def intOut (op : IntOp) (i : FnI) (g : Group) (l : Nat) : LaneOut :=
  let tag := 16 * tyCode i.ty
  let r := intLane op tag i.sat i.sub.toNat (g.src i.a tag (tagWide tag) i.imm.toNat l)
    (g.src i.b tag (tagWide tag) i.imm.toNat l) (g.src i.d tag (tagWide tag) i.imm.toNat l)
  ⟨r.1, r.2, g.rseed l⟩

theorem intGroup_v (op : IntOp) (readsD : Bool) {i : FnI} (k : Iss) {d : BitVec 8} (hd : i.d = .v d) :
    intGroup op readsD i k = (k.gr.checkTags i.a i.b i.d (16 * tyCode i.ty) (tagWide (16 * tyCode i.ty)) readsD).map fun _ =>
      k.gr.wout d.toNat (tagWide (16 * tyCode i.ty)) k.e.mask (intOut op i k.gr) (16 * tyCode i.ty) := by
  unfold intGroup intOut
  simp only [hd, Operand.idx]
  cases k.gr.checkTags i.a i.b (.v d) (16 * tyCode i.ty) (tagWide (16 * tyCode i.ty)) readsD <;> rfl

theorem vectorForms : VectorForms := fun s k op i d h hd htags => by
  refine ⟨_, exec_intInstrOf_issues h ?_, laneResult_wout k.gr d.toNat _ k.e.mask (intOut op i k.gr) _ (tag_lt i.ty)⟩
  rw [intGroup_v op _ k hd, htags]
  rfl

/-- Settles O9: the vector form writes its lanes at once; on words of 32 bits the exact results of R290 to R292 wrap to the
words' own operations. -/
theorem integerVector : Obligations.IntegerVector := ⟨vectorForms, integerWords⟩

end Sys2Proof.Machine
end

section
/-!
The uniform forms of the integer operations (13 R278, 17 R386): computed once, on a group's s registers or a transfer processor's
d registers.
-/
namespace Sys2Proof.Machine

/-- The result and flags of a group's uniform form. -/
def intOnce (op : IntOp) (i : FnI) (d : BitVec 6) (g : Group) : W64 × Nat :=
  intUniform op (16 * tyCode i.ty) i.sat i.sub.toNat (g.uniSrc i.a (16 * tyCode i.ty) i.imm.toNat)
    (g.uniSrc i.b (16 * tyCode i.ty) i.imm.toNat) (g.rs d.toNat).toNat

theorem intGroup_s (op : IntOp) (readsD : Bool) {i : FnI} (k : Iss) {d : BitVec 6} (hd : i.d = .s d) :
    intGroup op readsD i k
      = .ok ((k.gr.ws d.toNat (intOnce op i d k.gr).1).wflags k.e.mask fun _ => (intOnce op i d k.gr).2) := by
  unfold intGroup intOnce
  simp only [hd]

/-- On a transfer processor an operation of R290 runs its uniform form on d registers. -/
theorem exec_intInstrOf_issuesDxp {s : State} {k : Dss} {op : IntOp} {i : FnI} {d : BitVec 6} (h : ReadyDxp s k)
    (hd : i.d = .s d) : IssuesDxp (exec (intInstrOf op i) s) (s.modDxp k.core fun _ => k.x.wd d.toNat
      (intUniform op (16 * tyCode i.ty) i.sat i.sub.toNat (k.x.uniSrc i.a (16 * tyCode i.ty) i.imm.toNat)
        (k.x.uniSrc i.b (16 * tyCode i.ty) i.imm.toNat) (k.x.rd d.toNat).toNat).1) k.core (k.x.pc + 12) := by
  rw [exec_intInstrOf, intInstr, State.cur_dxIssuer h.1]
  refine runDx_ok h ?_
  simp only [hd, Dxp.val, Dxp.wop]

theorem uniformForms : UniformForms := by
  intro s op i d hd
  refine ⟨fun k h => ⟨_, exec_intInstrOf_issues h (intGroup_s op _ k hd), ?_⟩, fun k h => exec_intInstrOf_issuesDxp h hd⟩
  rw [Group.rs, Group.wflags_s]
  exact (Group.rs_ws ..).trans (if_pos rfl)

/-! ## Words of 64 bits -/

/-- The operations of one exact result on unsigned words of 64 bits, by the operation on the words. -/
def WordOp (op : IntOp) (f : W64 → W64 → W64) : Prop :=
  (op = .add ∧ f = (· + ·)) ∨ (op = .sub ∧ f = (· - ·)) ∨ (op = .mul ∧ f = (· * ·)) ∨ (op = .and ∧ f = (· &&& ·))
    ∨ (op = .or ∧ f = (· ||| ·)) ∨ (op = .xor ∧ f = (· ^^^ ·)) ∨ (op = .rem ∧ f = (· % ·))

theorem intUniform_word {op : IntOp} {f : W64 → W64 → W64} (h : WordOp op f) (sub : Nat) (x y z : W64) :
    intUniform op 0x30 false sub x.toNat y.toNat z.toNat = (f x y, 0) := by
  have hone : (64 : Nat) = 32 ∨ (64 : Nat) = 64 := Or.inr rfl
  have hw : intWidth 0x30 = 64 := rfl
  have hflags : (intLane op 0x30 false sub x.toNat y.toNat z.toNat).2 = 0 := by rw [intLane_one hw hone]
  refine Prod.ext ?_ hflags
  show BitVec.ofNat 64 (intLane op 0x30 false sub x.toNat y.toNat z.toNat).1 = f x y
  obtain ⟨rfl, rfl⟩ | ⟨rfl, rfl⟩ | ⟨rfl, rfl⟩ | ⟨rfl, rfl⟩ | ⟨rfl, rfl⟩ | ⟨rfl, rfl⟩ | ⟨rfl, rfl⟩ := h
  · exact intLane_add hw hone sub x y z
  · exact intLane_sub hw hone sub x y z
  · exact intLane_mul hw hone sub x y z
  · exact intLane_and hw hone sub x y z
  · exact intLane_or hw hone sub x y z
  · exact intLane_xor hw hone sub x y z
  · exact intLane_rem hw hone sub x y z rfl

/-- No flag is set where the value of each lane's is 0. -/
theorem Group.wflags_zero (g : Group) (m : Mask) : (g.wflags m fun _ => 0) = g :=
  foldl_keep (fun x => x = g) _ (fun _ _ h => h) _ g rfl

theorem uniformWords : UniformWords := by
  intro s op i d a b hty hsat hd ha hb f hop
  have hword := intUniform_word hop i.sub.toNat
  have htag : 16 * tyCode i.ty = 0x30 := by rw [hty]; rfl
  constructor
  · intro k h
    refine exec_intInstrOf_issues (by rw [htag]; exact h) ?_
    rw [intGroup_s op _ k hd, intOnce, htag, hsat, ha, hb]
    simp only [Group.uniSrc, hword, Group.wflags_zero]
  · intro k h
    have hissues := exec_intInstrOf_issuesDxp (op := op) h hd
    rw [htag, hsat, ha, hb] at hissues
    simp only [Dxp.uniSrc, hword] at hissues
    exact hissues

/-- Settles O10: the uniform form is computed once; unsigned words of 64 bits give the words' own operations and no flag. -/
theorem integerUniform : Obligations.IntegerUniform := ⟨uniformForms, uniformWords⟩

end Sys2Proof.Machine
end

section
/-!
The moves of rows 0x2 and 0x3 (13 R294-R301): their values as words and sums, and the group that each leaves once its sources are
under their tags.
-/
namespace Sys2Proof.Machine

open Host (Outcome)

/-! ## Uniform results (13 R278) -/

theorem uniOut_wide {tag : Nat} (hwide : tagWide tag = true) (n : Nat) : uniOut tag n = BitVec.ofNat 64 n := by
  rw [uniOut, if_pos hwide]

theorem uniOut_n32 (n : Nat) : uniOut 0x10 n = (BitVec.ofNat 32 n).setWidth 64 := by
  apply BitVec.eq_of_toNat_eq
  simp [uniOut, tagWide, tagSigned]

theorem uniOut_i32 (n : Nat) : uniOut 0x00 n = (BitVec.ofNat 32 n).signExtend 64 := by
  have hsext : sextI 32 n = (BitVec.ofNat 32 n).toInt := by
    rw [← sextI_toNat (by decide), BitVec.toNat_ofNat, sextI, sextI, Nat.mod_mod]
  show BitVec.ofNat 64 (wrapI 64 (sextI 32 n)) = _
  rw [ofNat_wrapI, hsext]
  rfl

theorem ofNat_uniBits (tag : Nat) (x : W64) : BitVec.ofNat 32 (uniBits tag x.toNat) = x.setWidth 32 := by
  rw [uniBits]
  split
  · exact BitVec.ofNat_toNat ..
  · rw [← BitVec.toNat_setWidth, BitVec.ofNat_toNat, BitVec.setWidth_eq]

/-- The whole of a 64-bit source comes back, and of a 32-bit one the low word, extended by TYPE. -/
theorem uniOut_uniBits_wide {tag : Nat} (hwide : tagWide tag = true) (x : W64) : uniOut tag (uniBits tag x.toNat) = x := by
  rw [uniOut_wide hwide, uniBits, if_pos hwide, BitVec.ofNat_toNat, BitVec.setWidth_eq]

theorem uniOut_uniBits_n32 (x : W64) : uniOut 0x10 (uniBits 0x10 x.toNat) = (x.setWidth 32).setWidth 64 := by
  rw [uniOut_n32, ofNat_uniBits]

theorem uniOut_uniBits_i32 (x : W64) : uniOut 0x00 (uniBits 0x00 x.toNat) = (x.setWidth 32).signExtend 64 := by
  rw [uniOut_i32, ofNat_uniBits]

theorem uniOut_uniBits_zero (tag : Nat) : uniOut tag (uniBits tag 0) = 0 := by
  unfold uniOut uniBits
  cases tagWide tag <;> cases tagSigned tag <;> rfl

/-! ## Masks of tests -/

theorem getLsbD_maskOf_foldl (ls : List Nat) (m : Mask) {l : Nat} (hl : l < 32) :
    (ls.foldl (fun m j => m ||| (1#32 <<< j)) m).getLsbD l = (m.getLsbD l || decide (l ∈ ls)) := by
  induction ls generalizing m with
  | nil => simp
  | cons j ls ih =>
    have hbit : (1#32 <<< j).getLsbD l = decide (l = j) := by
      rw [BitVec.getLsbD_shiftLeft, BitVec.getLsbD_one]
      by_cases hlt : l < j
      · simp [hlt, Nat.ne_of_lt hlt]
      · have hsub : l - j = 0 ↔ l = j := by omega
        simp [hl, hlt, hsub]
    rw [List.foldl_cons, ih, BitVec.getLsbD_or, hbit, Bool.or_assoc]
    congr 1
    simp [List.mem_cons, Bool.decide_or]

theorem getLsbD_maskWhere (m : Mask) (f : Nat → Bool) {l : Nat} (hl : l < 32) :
    (maskWhere m f).getLsbD l = (m.getLsbD l && f l) := by
  rw [maskWhere, maskOf, getLsbD_maskOf_foldl _ _ hl]
  simp [List.mem_filter, mem_lanesOf, hl]

/-! ## Lane results -/

/-- The values of a 32-bit result count modulo 2^32. -/
theorem LaneResult.congr_narrow {g g1 : Group} {n : Nat} {m : Mask} {f f' : Nat → Nat} {tag : Nat}
    (h : LaneResult g g1 n false m f tag) (hf : ∀ l, BitVec.ofNat 32 (f l) = BitVec.ofNat 32 (f' l)) :
    LaneResult g g1 n false m f' tag := by
  obtain ⟨hv, hrest⟩ := h
  exact ⟨fun j l hl => by rw [hv j l hl, hf]; simp, hrest⟩

/-! ## isad (13 R294) -/

theorem foldl_add_eq (f : Nat → Nat) (xs : List Nat) (d : Nat) : xs.foldl (fun a j => a + f j) d = d + (xs.map f).sum := by
  induction xs generalizing d with
  | nil => rfl
  | cons x xs ih => rw [List.foldl_cons, ih, List.map_cons, List.sum_cons, Nat.add_assoc]

/-- What a lane of isad computes. -/
def isadOut (i : FnI) (g : Group) (l : Nat) : LaneOut :=
  let tag := 16 * tyCode i.ty
  let r := fitInt 0x10 i.sat ((g.src i.d 0x10 false i.imm.toNat l + ((List.range (32 / intWidth tag)).map fun j =>
    (intVal tag (elemAt (intWidth tag) (g.src i.a tag false i.imm.toNat l) j)
      - intVal tag (elemAt (intWidth tag) (g.src i.b tag false i.imm.toNat l) j)).natAbs).sum : Nat) : Int)
  ⟨r.1, r.2, g.rseed l⟩

theorem isadGroup_eq (i : FnI) (k : Iss) : isadGroup i k
    = (k.gr.checkTags i.a i.b i.d (16 * tyCode i.ty) false false).bind fun _ => (k.gr.checkTag i.d 0x10 false 3).map fun _ =>
      k.gr.wout i.d.idx false k.e.mask (isadOut i k.gr) 0x10 := by
  unfold isadGroup isadOut
  simp only [isadExact, foldl_add_eq]
  cases k.gr.checkTags i.a i.b i.d (16 * tyCode i.ty) false false with
  | error x => rfl
  | ok u => cases k.gr.checkTag i.d 0x10 false 3 <;> rfl

theorem execIsad_issues {s : State} {k : Iss} {i : FnI} (h : Ready s k 0x09E (linesOf i.toSlots false 0))
    (htags : k.gr.checkTags i.a i.b i.d (16 * tyCode i.ty) false false = .ok ())
    (hacc : k.gr.checkTag i.d 0x10 false 3 = .ok ()) :
    IssuesGroup (exec (.isad i) s) s k i.hint (k.gr.wout i.d.idx false k.e.mask (isadOut i k.gr) 0x10) := by
  refine runG_ok h i.toSlots (f := fun k => isadGroup i k) ?_
  rw [isadGroup_eq, htags, hacc]
  rfl

theorem execIsad_laneResult {s : State} {k : Iss} {i : FnI} {d : BitVec 8} (hd : i.d = .v d)
    (h : Ready s k 0x09E (linesOf i.toSlots false 0))
    (htags : k.gr.checkTags i.a i.b i.d (16 * tyCode i.ty) false false = .ok ())
    (hacc : k.gr.checkTag i.d 0x10 false 3 = .ok ()) : ∃ g1, IssuesGroup (exec (.isad i) s) s k i.hint g1
      ∧ LaneResult k.gr g1 d.toNat false k.e.mask (fun l => (isadOut i k.gr l).val) 0x10 := by
  refine ⟨_, execIsad_issues h htags hacc, ?_⟩
  rw [hd]
  exact laneResult_wout _ _ _ _ _ _ (by decide)

/-- Without SAT the accumulator takes the sum modulo 2^32. -/
theorem ofNat_fitInt_n32 (n : Nat) : BitVec.ofNat 32 (fitInt 0x10 false (n : Int)).1 = BitVec.ofNat 32 n := by
  have hfit : (fitInt 0x10 false (n : Int)).1 = wrapI 32 n := by
    unfold fitInt
    split <;> rfl
  rw [hfit, ofNat_wrapI, BitVec.ofInt_natCast]

/-- A byte of a word as an element of 8 bits. -/
theorem elemAt_byte (x : W32) (j : Nat) : elemAt 8 x.toNat j = ((x >>> (8 * j)).setWidth 8).toNat := by
  rw [elemAt, BitVec.toNat_setWidth, BitVec.toNat_ushiftRight, Nat.shiftRight_eq_div_pow]

/-! ## Sources and their tags (04 R89) -/

theorem Group.src_narrow (g : Group) (n : BitVec 8) (tag imm l : Nat) :
    g.src (.v n) tag false imm l = (g.rv n.toNat l).toNat := rfl

theorem Group.src_wide (g : Group) (n : BitVec 8) (tag imm l : Nat) :
    g.src (.v n) tag true imm l = (g.rv n.toNat l).toNat + 2 ^ 32 * (g.rv (n.toNat + 1) l).toNat := rfl

theorem Group.checkTag_narrow {g : Group} {n : BitVec 8} {want : Nat} (h : tagMatch want (g.rtag n.toNat) = true)
    (code : Nat) : g.checkTag (.v n) want false code = .ok () := by
  simp [Group.checkTag, h]

theorem Group.checkTags_ok {g : Group} {a b : Operand} {tag : Nat} {wide : Bool} (ha : g.checkTag a tag wide 1 = .ok ())
    (hb : g.checkTag b tag wide 2 = .ok ()) (d : Operand) : g.checkTags a b d tag wide false = .ok () := by
  simp [Group.checkTags, ha, hb]

/-! ## icmp (13 R295) -/

/-- The mask that icmp writes. -/
def icmpMask (i : FnI) (k : Iss) : Mask :=
  let tag := 16 * tyCode i.ty
  maskWhere k.e.mask fun l => icmpCond i.sub.toNat (intVal tag (k.gr.src i.a tag (tagWide tag) i.imm.toNat l))
    (intVal tag (k.gr.src i.b tag (tagWide tag) i.imm.toNat l))

theorem icmpGroup_eq (i : FnI) (k : Iss) : icmpGroup i k
    = (k.gr.checkTags i.a i.b .nil (16 * tyCode i.ty) (tagWide (16 * tyCode i.ty)) false).map fun _ =>
      k.gr.wp i.d.idx k.e.mask (icmpMask i k) := by
  unfold icmpGroup icmpMask
  simp only
  cases k.gr.checkTags i.a i.b .nil (16 * tyCode i.ty) (tagWide (16 * tyCode i.ty)) false <;> rfl

theorem execIcmp_issues {s : State} {k : Iss} {i : FnI} {p : BitVec 3} (hd : i.d = .p p)
    (h : Ready s k 0x099 (linesOf i.toSlots (tagWide (16 * tyCode i.ty)) 0))
    (htags : k.gr.checkTags i.a i.b .nil (16 * tyCode i.ty) (tagWide (16 * tyCode i.ty)) false = .ok ()) :
    IssuesGroup (exec (.icmp i) s) s k i.hint (k.gr.wp p.toNat k.e.mask (icmpMask i k)) := by
  refine runG_ok h i.toSlots (f := fun k => icmpGroup i k) ?_
  rw [icmpGroup_eq, htags, hd]
  rfl

theorem getLsbD_icmpMask (i : FnI) {k : Iss} {l : Nat} (hl : l < 32) (hm : k.e.mask.getLsbD l = true) :
    (icmpMask i k).getLsbD l = icmpCond i.sub.toNat
      (intVal (16 * tyCode i.ty) (k.gr.src i.a (16 * tyCode i.ty) (tagWide (16 * tyCode i.ty)) i.imm.toNat l))
      (intVal (16 * tyCode i.ty) (k.gr.src i.b (16 * tyCode i.ty) (tagWide (16 * tyCode i.ty)) i.imm.toNat l)) := by
  rw [icmpMask, getLsbD_maskWhere _ _ hl, hm, Bool.true_and]

/-! ## sel and mov (13 R296) -/

theorem Operand.isV_iff {o : Operand} : o.isV = true ↔ ∃ n, o = .v n := by
  cases o <;> simp [Operand.isV]

/-- Two v sources carry the same tags; another source has none to differ. -/
def Iss.SelTagsAgree (k : Iss) (i : FnI) : Prop :=
  ∀ a b : BitVec 8, i.a = .v a → i.b = .v b → k.gr.rtag a.toNat = k.gr.rtag b.toNat
    ∧ (tagWide (16 * tyCode i.ty) = true → k.gr.rtag (a.toNat + 1) = k.gr.rtag (b.toNat + 1))

/-- The value that sel gives a lane. -/
def Iss.selValue (k : Iss) (i : FnI) (l : Nat) : Nat :=
  if (k.gr.guard i.guard k.e.mask).getLsbD l then k.gr.src i.a (16 * tyCode i.ty) (tagWide (16 * tyCode i.ty)) i.imm.toNat l
  else k.gr.src i.b (16 * tyCode i.ty) (tagWide (16 * tyCode i.ty)) i.imm.toNat l

/-- What sel leaves of the group. -/
def Iss.afterSel (k : Iss) (i : FnI) : Group :=
  k.gr.wmove i.d.idx (tagWide (16 * tyCode i.ty)) k.e.mask (k.selValue i)
    (if i.a.isV then k.gr.tagsOf i.a (16 * tyCode i.ty) (tagWide (16 * tyCode i.ty))
      else k.gr.tagsOf i.b (16 * tyCode i.ty) (tagWide (16 * tyCode i.ty)))

theorem selGroup_ok {i : FnI} {k : Iss} {g1 : Group} (h : selGroup i k = .ok g1) : g1 = k.afterSel i := by
  unfold selGroup at h
  simp only at h
  split at h
  · cases h
  · split at h
    · cases h
    · cases h
      rfl

theorem selGroup_agree {i : FnI} {k : Iss} (h : k.SelTagsAgree i) : selGroup i k = .ok (k.afterSel i) := by
  have hagree : ∀ a b : BitVec 8, i.a = .v a → i.b = .v b →
      k.gr.tagsOf i.a (16 * tyCode i.ty) (tagWide (16 * tyCode i.ty))
        = k.gr.tagsOf i.b (16 * tyCode i.ty) (tagWide (16 * tyCode i.ty)) := fun a b ha hb => by
    obtain ⟨hlow, hhigh⟩ := h a b ha hb
    rw [ha, hb, Group.tagsOf, Group.tagsOf, hlow]
    split
    next hwide => rw [hhigh hwide]
    next => rfl
  unfold selGroup
  simp only
  split
  next hdiffer =>
    simp only [Bool.and_eq_true, Operand.isV_iff, bne_iff_ne] at hdiffer
    obtain ⟨⟨⟨a, ha⟩, ⟨b, hb⟩⟩, hne⟩ := hdiffer
    exact absurd (congrArg Prod.fst (hagree a b ha hb)) hne
  next =>
    split
    next hdiffer =>
      simp only [Bool.and_eq_true, Operand.isV_iff, bne_iff_ne] at hdiffer
      obtain ⟨⟨⟨⟨a, ha⟩, ⟨b, hb⟩⟩, -⟩, hne⟩ := hdiffer
      exact absurd (congrArg Prod.snd (hagree a b ha hb)) hne
    next => rfl

theorem execSel_issues {s : State} {k : Iss} {i : FnI}
    (h : Ready s k 0x09A (linesOf i.toSlots (tagWide (16 * tyCode i.ty)) 0)) (hagree : k.SelTagsAgree i) :
    IssuesGroup (exec (.sel i) s) s k i.hint (k.afterSel i) :=
  runG_ok h i.toSlots (f := fun k => selGroup i k) (selGroup_agree hagree)

/-- On a group mov runs its vector or uniform form. -/
theorem execMov_group {s : State} {k : Iss} (hk : s.issuer = some k) (i : FnI) : exec (.mov i) s
    = runG 0x09B s i.toSlots (linesOf i.toSlots (tagWide (16 * tyCode i.ty)) 0) fun k => movGroup i k := by
  rw [exec_mov, execMov, State.cur_issuer hk]

theorem movGroup_v {i : FnI} (k : Iss) {d : BitVec 8} (hd : i.d = .v d) : movGroup i k
    = .ok (k.gr.wmove d.toNat (tagWide (16 * tyCode i.ty)) k.e.mask
        (fun l => k.gr.src i.a (16 * tyCode i.ty) (tagWide (16 * tyCode i.ty)) i.imm.toNat l)
        (k.gr.tagsOf i.a (16 * tyCode i.ty) (tagWide (16 * tyCode i.ty)))) := by
  simp only [movGroup, hd, Operand.idx]

theorem movGroup_s {i : FnI} (k : Iss) {d : BitVec 6} (hd : i.d = .s d) : movGroup i k
    = .ok (k.gr.ws d.toNat (uniOut (16 * tyCode i.ty) (uniBits (16 * tyCode i.ty)
        (k.gr.uniSrc i.a (16 * tyCode i.ty) i.imm.toNat)))) := by
  simp only [movGroup, hd]

theorem execMov_issues {s : State} {k : Iss} {i : FnI} {g1 : Group}
    (h : Ready s k 0x09B (linesOf i.toSlots (tagWide (16 * tyCode i.ty)) 0)) (hg : movGroup i k = .ok g1) :
    IssuesGroup (exec (.mov i) s) s k i.hint g1 := by
  rw [execMov_group h.issuer]
  exact runG_ok h i.toSlots hg

/-- A transfer processor's mov (17 R386). -/
theorem execMov_issuesDxp {s : State} {k : Dss} {i : FnI} {d : BitVec 6} (h : ReadyDxp s k) (hd : i.d = .s d) :
    IssuesDxp (exec (.mov i) s) (s.modDxp k.core fun _ => k.x.wd d.toNat (uniOut (16 * tyCode i.ty)
      (uniBits (16 * tyCode i.ty) (k.x.uniSrc i.a (16 * tyCode i.ty) i.imm.toNat)))) k.core (k.x.pc + 12) := by
  rw [exec_mov, execMov, State.cur_dxIssuer h.1]
  refine runDx_ok h ?_
  simp only [hd, Dxp.wop]

/-! ## lea (13 R297) -/

/-- The address that lea gives a lane. -/
def Iss.leaValue (k : Iss) (i : FnI) (l : Nat) : Nat :=
  leaAddr (16 * tyCode i.ty) i.sub.toNat (if i.a.isImm then i.imm.toNat else k.gr.src i.a 0x30 true i.imm.toNat l)
    (k.gr.src i.b (16 * tyCode i.ty) (tagWide (16 * tyCode i.ty)) i.imm.toNat l)

/-- The address that a uniform lea gives. -/
def Iss.leaOnce (k : Iss) (i : FnI) : W64 :=
  BitVec.ofNat 64 (leaAddr (16 * tyCode i.ty) i.sub.toNat (k.gr.uni i.a i.imm.toNat)
    (k.gr.uniSrc i.b (16 * tyCode i.ty) i.imm.toNat))

theorem leaGroup_v {i : FnI} (k : Iss) {d : BitVec 8} (hd : i.d = .v d) : leaGroup i k
    = (k.gr.checkTag i.a 0x30 true 1).bind fun _ =>
      (k.gr.checkTag i.b (16 * tyCode i.ty) (tagWide (16 * tyCode i.ty)) 2).map fun _ =>
        k.gr.wv d.toNat true k.e.mask (k.leaValue i) 0x30 := by
  unfold leaGroup Iss.leaValue
  simp only [hd, Operand.idx]
  cases k.gr.checkTag i.a 0x30 true 1 with
  | error x => rfl
  | ok u => cases k.gr.checkTag i.b (16 * tyCode i.ty) (tagWide (16 * tyCode i.ty)) 2 <;> rfl

theorem leaGroup_s {i : FnI} (k : Iss) {d : BitVec 6} (hd : i.d = .s d) : leaGroup i k
    = (k.gr.checkTag i.a 0x30 true 1).bind fun _ =>
      (k.gr.checkTag i.b (16 * tyCode i.ty) (tagWide (16 * tyCode i.ty)) 2).map fun _ => k.gr.ws d.toNat (k.leaOnce i) := by
  unfold leaGroup Iss.leaOnce
  simp only [hd]
  cases k.gr.checkTag i.a 0x30 true 1 with
  | error x => rfl
  | ok u => cases k.gr.checkTag i.b (16 * tyCode i.ty) (tagWide (16 * tyCode i.ty)) 2 <;> rfl

/-- On a group lea runs its vector or uniform form. -/
theorem execLea_group {s : State} {k : Iss} (hk : s.issuer = some k) (i : FnI) : exec (.lea i) s
    = runG 0x09C s i.toSlots (linesOf i.toSlots true 0) fun k => leaGroup i k := by
  rw [exec_lea, execLea, State.cur_issuer hk]

section
variable {s : State} {k : Iss} {i : FnI} (h : Ready s k 0x09C (linesOf i.toSlots true 0))
  (hbase : k.gr.checkTag i.a 0x30 true 1 = .ok ())
  (hoffset : k.gr.checkTag i.b (16 * tyCode i.ty) (tagWide (16 * tyCode i.ty)) 2 = .ok ())
include h hbase hoffset

theorem execLea_laneResult {d : BitVec 8} (hd : i.d = .v d) : ∃ g1, IssuesGroup (exec (.lea i) s) s k i.hint g1
    ∧ LaneResult k.gr g1 d.toNat true k.e.mask (k.leaValue i) 0x30 := by
  refine ⟨_, ?_, laneResult_wv k.gr d.toNat true k.e.mask (k.leaValue i) 0x30 (by decide)⟩
  rw [execLea_group h.issuer]
  refine runG_ok h i.toSlots (f := fun k => leaGroup i k) ?_
  rw [leaGroup_v k hd, hbase, hoffset]
  rfl

theorem execLea_issues {d : BitVec 6} (hd : i.d = .s d) :
    IssuesGroup (exec (.lea i) s) s k i.hint (k.gr.ws d.toNat (k.leaOnce i)) := by
  rw [execLea_group h.issuer]
  refine runG_ok h i.toSlots (f := fun k => leaGroup i k) ?_
  rw [leaGroup_s k hd, hbase, hoffset]
  rfl

end

/-- A transfer processor's lea (17 R386). -/
theorem execLea_issuesDxp {s : State} {k : Dss} {i : FnI} {d : BitVec 6} (h : ReadyDxp s k) (hd : i.d = .s d) :
    IssuesDxp (exec (.lea i) s) (s.modDxp k.core fun _ => k.x.wd d.toNat (BitVec.ofNat 64 (leaAddr (16 * tyCode i.ty) i.sub.toNat
      (if i.a.isImm then i.imm.toNat else k.x.val i.a) (k.x.uniSrc i.b (16 * tyCode i.ty) i.imm.toNat)))) k.core
      (k.x.pc + 12) := by
  rw [exec_lea, execLea, State.cur_dxIssuer h.1]
  refine runDx_ok h ?_
  simp only [hd, Dxp.wop]

/-- Whole words of 64 bits: base plus scaled offset. -/
theorem ofNat_leaAddr_n64 (sub : Nat) (x y : W64) :
    BitVec.ofNat 64 (leaAddr 0x30 sub x.toNat y.toNat) = x + y * BitVec.ofNat 64 (2 ^ sub) := by
  have haddr : leaAddr 0x30 sub x.toNat y.toNat = (x.toNat + y.toNat * 2 ^ sub) % 2 ^ 64 := by
    show (x.toNat + y.toNat % 2 ^ 64 * 2 ^ sub) % 2 ^ 64 = _
    rw [Nat.mod_eq_of_lt y.isLt]
  apply BitVec.eq_of_toNat_eq
  rw [haddr]
  simp [BitVec.toNat_add, BitVec.toNat_mul]

/-! ## The statements on row 0x2 -/

theorem integerForms : IntegerForms := by
  refine ⟨fun s k i tag wide htag hwide => ?_, fun s k i d hd h => ⟨?_, ?_⟩⟩
  · subst htag hwide
    refine ⟨fun d hd h htags hacc => execIsad_laneResult hd h htags hacc,
      fun p hd h htags => ⟨_, execIcmp_issues hd h htags, fun l hl hm x y hx hy => ?_⟩,
      fun d hd h hagree => ⟨_, execSel_issues h hagree, fun l hl hm => ?_⟩,
      fun d hd h => ⟨_, execMov_issues h (movGroup_v k hd), fun l hl hm => Group.rv_wmove_low _ _ _ _ _ hl hm⟩,
      fun d hd h => ⟨_, execMov_issues h (movGroup_s k hd), rfl, ?_, ?_, ?_, ?_⟩,
      fun h hbase hoffset => ⟨fun d hd => execLea_laneResult h hbase hoffset hd, fun d hd => execLea_issues h hbase hoffset hd⟩⟩
    · rw [getLsbD_icmpMask i hl hm, ← hx, ← hy]
      refine ⟨?_, ?_, ?_, ?_, ?_, ?_⟩
      all_goals
        intro hsub
        simp [icmpCond, hsub, bne, ← beq_eq_decide]
    · rw [Iss.afterSel, hd]
      refine (Group.rv_wmove_low _ _ _ _ _ hl hm).trans ?_
      rw [Iss.selValue]
      split <;> rfl
    · intro ha
      rw [ha]
      exact uniOut_uniBits_zero _
    · intro hwide a ha
      rw [ha]
      exact uniOut_uniBits_wide hwide _
    · intro hty a ha
      rw [hty, ha]
      exact uniOut_uniBits_n32 _
    · intro hty a ha
      rw [hty, ha]
      exact uniOut_uniBits_i32 _
  · refine ⟨_, execMov_issuesDxp h hd, rfl, ?_, ?_, ?_⟩
    · intro hwide a ha
      rw [ha]
      exact uniOut_uniBits_wide hwide _
    · intro hty a ha
      rw [hty, ha]
      exact uniOut_uniBits_n32 _
    · intro hty a ha
      rw [hty, ha]
      exact uniOut_uniBits_i32 _
  · refine ⟨_, execLea_issuesDxp h hd, rfl, fun hty a b ha hb => ?_⟩
    rw [hty, ha, hb]
    exact ofNat_leaAddr_n64 _ _ _

/-! ## Narrow register operands: the values and the tag checks -/

section
variable {i : FnI} {a b : BitVec 8} (ha : i.a = .v a) (hb : i.b = .v b)
include ha hb

theorem checkTags_narrow {g : Group} (d : Operand) (hnarrow : tagWide (16 * tyCode i.ty) = false)
    (hta : tagMatch (16 * tyCode i.ty) (g.rtag a.toNat) = true) (htb : tagMatch (16 * tyCode i.ty) (g.rtag b.toNat) = true) :
    g.checkTags i.a i.b d (16 * tyCode i.ty) (tagWide (16 * tyCode i.ty)) false = .ok () := by
  rw [hnarrow, ha, hb]
  exact Group.checkTags_ok (Group.checkTag_narrow hta 1) (Group.checkTag_narrow htb 2) d

/-- isad on bytes without SAT: the accumulator and the byte differences, modulo 2^32. -/
theorem ofNat_isadOut_n8 (hty : i.ty = .n8) (hsat : i.sat = false) {d : BitVec 8} (hd : i.d = .v d) (g : Group) (l : Nat) :
    BitVec.ofNat 32 (isadOut i g l).val = BitVec.ofNat 32 ((g.rv d.toNat l).toNat
      + ((List.range 4).map fun j => ((((g.rv a.toNat l) >>> (8 * j)).setWidth 8).toNat
        - (((g.rv b.toNat l) >>> (8 * j)).setWidth 8).toNat : Int).natAbs).sum) := by
  have hbyte : ∀ n : Nat, intVal 0x70 n = n := intVal_unsigned rfl
  have hwidth : intWidth (16 * tyCode .n8) = 8 := rfl
  simp only [isadOut, hty, hsat, hd, ha, hb, hwidth, ofNat_fitInt_n32]
  simp only [Group.src_narrow, tyCode, hbyte, elemAt_byte]

/-- icmp on signed words. -/
theorem getLsbD_icmpMask_i32 (hty : i.ty = .i32) {k : Iss} {l : Nat} (hl : l < 32) (hm : k.e.mask.getLsbD l = true) :
    (icmpMask i k).getLsbD l = icmpCond i.sub.toNat (k.gr.rv a.toNat l).toInt (k.gr.rv b.toNat l).toInt := by
  have hint : ∀ x : W32, intVal 0x00 x.toNat = x.toInt := sextI_toNat (by decide)
  rw [getLsbD_icmpMask i hl hm, hty, ha, hb, ← hint, ← hint]
  rfl

theorem Iss.selValue_narrow {k : Iss} (hnarrow : tagWide (16 * tyCode i.ty) = false) : k.selValue i = fun l =>
    if (k.gr.guard i.guard k.e.mask).getLsbD l then (k.gr.rv a.toNat l).toNat else (k.gr.rv b.toNat l).toNat := by
  funext l
  simp only [Iss.selValue, hnarrow, ha, hb, Group.src_narrow]

/-- lea of an unsigned word from a pair. -/
theorem Iss.leaValue_n32 {k : Iss} (hty : i.ty = .n32) : k.leaValue i = fun l =>
    ((k.gr.rv a.toNat l).toNat + 2 ^ 32 * (k.gr.rv (a.toNat + 1) l).toNat
      + (k.gr.rv b.toNat l).toNat * 2 ^ i.sub.toNat) % 2 ^ 64 := by
  funext l
  rw [Iss.leaValue, hty, ha, hb]
  show ((k.gr.rv a.toNat l).toNat + 2 ^ 32 * (k.gr.rv (a.toNat + 1) l).toNat
    + (k.gr.rv b.toNat l).toNat % 2 ^ 32 * 2 ^ i.sub.toNat) % 2 ^ 64 = _
  rw [Nat.mod_eq_of_lt (k.gr.rv b.toNat l).isLt]

end

theorem integerMoves : IntegerMoves := by
  intro s k i d a b ha hb
  refine ⟨fun h hty hsat hd hta htb htd => ?_, fun h hty p hd hta htb => ?_, fun h hty hd hagree => ?_, fun h hty hd => ?_,
    fun h hty hd hlow hhigh htb => ?_⟩
  · have hnarrow : tagWide (16 * tyCode i.ty) = false := by rw [hty]; rfl
    have htags := checkTags_narrow ha hb i.d hnarrow (by rw [hty, hta]; rfl) (by rw [hty, htb]; rfl)
    rw [hnarrow] at htags
    obtain ⟨g1, hissues, hlanes⟩ := execIsad_laneResult hd h htags (by
      rw [hd]
      exact Group.checkTag_narrow (by rw [htd]; rfl) 3)
    exact ⟨g1, hissues, hlanes.congr_narrow (ofNat_isadOut_n8 ha hb hty hsat hd k.gr)⟩
  · have htags := checkTags_narrow ha hb .nil (by rw [hty]; rfl) (by rw [hty, hta]; rfl) (by rw [hty, htb]; rfl)
    refine ⟨_, execIcmp_issues hd (by rw [hty]; exact h) htags, fun l hl hm => ⟨fun hsub => ?_, fun hsub => ?_⟩⟩
    · rw [getLsbD_icmpMask_i32 ha hb hty hl hm, hsub]
      show ((k.gr.rv a.toNat l).toInt == (k.gr.rv b.toNat l).toInt) = _
      rw [Bool.eq_iff_iff, beq_iff_eq, beq_iff_eq, BitVec.toInt_inj]
    · rw [getLsbD_icmpMask_i32 ha hb hty hl hm, hsub]
      rfl
  · have hnarrow : tagWide (16 * tyCode i.ty) = false := by rw [hty]; rfl
    have hsame : k.SelTagsAgree i := fun a' b' ha' hb' => by
      cases ha.symm.trans ha'
      cases hb.symm.trans hb'
      exact ⟨hagree, fun hwide => by rw [hnarrow] at hwide; cases hwide⟩
    refine ⟨_, execSel_issues (by rw [hnarrow]; exact h) hsame, ?_⟩
    rw [Iss.afterSel, hd, Iss.selValue_narrow ha hb hnarrow, hnarrow, ha]
    exact laneResult_wmove k.gr d.toNat k.e.mask _ _ (k.gr.rtag_lt a.toNat)
  · have hnarrow : tagWide (16 * tyCode i.ty) = false := by rw [hty]; rfl
    refine ⟨_, execMov_issues (by rw [hnarrow]; exact h) (movGroup_v k hd), ?_⟩
    rw [hnarrow, ha]
    exact laneResult_wmove k.gr d.toNat k.e.mask _ _ (k.gr.rtag_lt a.toNat)
  · have hbase : k.gr.checkTag i.a 0x30 true 1 = .ok () := by
      rw [ha]
      exact Group.checkTag_pair (by rw [hlow]; rfl) (by rw [hhigh]; rfl) 1
    have hoffset : k.gr.checkTag i.b (16 * tyCode i.ty) (tagWide (16 * tyCode i.ty)) 2 = .ok () := by
      rw [hb, hty]
      exact Group.checkTag_narrow (by rw [htb]; rfl) 2
    have hlea := execLea_laneResult h hbase hoffset hd
    rw [Iss.leaValue_n32 ha hb hty] at hlea
    exact hlea

end Sys2Proof.Machine
end

section
/-!
Row 0x3 (13 R298-R301): broadcast and extraction of one lane, identities, constants in halves, and predicates.
-/
namespace Sys2Proof.Machine

open Host (Outcome)

/-! ## Halves of a word (13 R300) -/

theorem ofNat_halves {hi lo : Nat} (hhi : hi < 2 ^ 32) (hlo : lo < 2 ^ 32) :
    BitVec.ofNat 64 (hi * 2 ^ 32 + lo) = (BitVec.ofNat 64 hi <<< 32) ||| BitVec.ofNat 64 lo := by
  apply BitVec.eq_of_toNat_eq
  rw [BitVec.toNat_or, BitVec.toNat_shiftLeft, BitVec.toNat_ofNat, BitVec.toNat_ofNat, BitVec.toNat_ofNat,
    Nat.mod_eq_of_lt (a := hi) (by omega), Nat.mod_eq_of_lt (a := lo) (by omega), ← Nat.shiftLeft_eq,
    Nat.mod_eq_of_lt (a := hi <<< 32) (by rw [Nat.shiftLeft_eq]; omega), ← Nat.shiftLeft_add_eq_or_of_lt hlo,
    Nat.mod_eq_of_lt (by rw [Nat.shiftLeft_eq]; omega)]

theorem ofNat_putHalf_low (x : W64) (imm : BitVec 32) :
    BitVec.ofNat 64 (putHalf true x.toNat imm.toNat) = (x >>> 32 <<< 32) ||| imm.setWidth 64 := by
  have hx := x.isLt
  rw [putHalf, if_pos rfl, ofNat_halves (by omega) imm.isLt, BitVec.ofNat_toNat, ← Nat.shiftRight_eq_div_pow,
    ← BitVec.toNat_ushiftRight, BitVec.ofNat_toNat, BitVec.setWidth_eq]

theorem ofNat_putHalf_high (x : W64) (imm : BitVec 32) :
    BitVec.ofNat 64 (putHalf false x.toNat imm.toNat) = (imm.setWidth 64 <<< 32) ||| (x.setWidth 32).setWidth 64 := by
  rw [putHalf, if_neg Bool.false_ne_true, ofNat_halves imm.isLt (Nat.mod_lt _ (by decide)), BitVec.ofNat_toNat,
    ← BitVec.toNat_setWidth, BitVec.ofNat_toNat]

/-- One half of a pair is replaced. -/
theorem putHalf_pair (lo : Bool) {low : Nat} (hlow : low < 2 ^ 32) (high imm : Nat) :
    putHalf lo (low + 2 ^ 32 * high) imm = if lo then high * 2 ^ 32 + imm else imm * 2 ^ 32 + low := by
  rw [putHalf, show (low + 2 ^ 32 * high) / 2 ^ 32 = high by omega, show (low + 2 ^ 32 * high) % 2 ^ 32 = low by omega]

/-! ## bcast and extract (13 R298) -/

theorem Iss.pickLane_ok {k : Iss} {b : Operand} {imm : Nat} (h : k.gr.uni b imm < 32) :
    k.pickLane b imm = .ok (k.gr.uni b imm) := by
  rw [Iss.pickLane, if_pos h]

theorem Iss.pickLane_bad {k : Iss} {b : Operand} {imm : Nat} (h : 32 ≤ k.gr.uni b imm) :
    k.pickLane b imm = .error (.t 3 3 (k.gr.uni b imm)) := by
  rw [Iss.pickLane, if_neg (by omega)]

/-- What a bcast of lane n leaves of the group. -/
def Iss.afterBcast (k : Iss) (i : FnI) (n : Nat) : Group :=
  k.gr.wmove i.d.idx (tagWide (16 * tyCode i.ty)) k.e.mask
    (fun _ => k.gr.src i.a (16 * tyCode i.ty) (tagWide (16 * tyCode i.ty)) 0 n)
    (k.gr.tagsOf i.a (16 * tyCode i.ty) (tagWide (16 * tyCode i.ty)))

theorem bcastGroup_eq (i : FnI) (k : Iss) : bcastGroup i k = (k.pickLane i.b i.imm.toNat).map (k.afterBcast i) := by
  unfold bcastGroup
  simp only
  cases k.pickLane i.b i.imm.toNat <;> rfl

theorem extractGroup_eq (i : FnI) (k : Iss) : extractGroup i k
    = (k.gr.checkTag i.a (16 * tyCode i.ty) (tagWide (16 * tyCode i.ty)) 1).bind fun _ =>
      (k.pickLane i.b i.imm.toNat).map fun n => k.gr.ws i.d.idx (uniOut (16 * tyCode i.ty)
        (k.gr.src i.a (16 * tyCode i.ty) (tagWide (16 * tyCode i.ty)) 0 n)) := by
  unfold extractGroup
  simp only
  cases k.gr.checkTag i.a (16 * tyCode i.ty) (tagWide (16 * tyCode i.ty)) 1 with
  | error x => rfl
  | ok u => cases k.pickLane i.b i.imm.toNat <;> rfl

/-- What movp leaves of the group. -/
def movpGroup (i : FnI) (k : Iss) : Group :=
  let a := k.gr.predBits i.a i.imm.toNat
  let b := k.gr.predBits i.b 0
  match i.sub.toNat with
  | 0 => k.gr.wp i.d.idx k.e.mask a
  | 1 => k.gr.wp i.d.idx k.e.mask (a &&& b)
  | 2 => k.gr.wp i.d.idx k.e.mask (a ||| b)
  | 3 => k.gr.wp i.d.idx k.e.mask (a ^^^ b)
  | 4 => k.gr.wp i.d.idx k.e.mask (~~~a)
  | 5 => k.gr.ws i.d.idx ((a &&& k.e.mask).setWidth 64)
  | _ => k.gr.wp i.d.idx k.e.mask a

section
variable {s : State} {k : Iss} {i : FnI}

theorem execBcast_issues (h : Ready s k 0x0C1 (linesOf i.toSlots (tagWide (16 * tyCode i.ty)) 0))
    (hlane : k.gr.uni i.b i.imm.toNat < 32) :
    IssuesGroup (exec (.bcast i) s) s k i.hint (k.afterBcast i (k.gr.uni i.b i.imm.toNat)) := by
  refine runG_ok h i.toSlots (f := fun k => bcastGroup i k) ?_
  rw [bcastGroup_eq, Iss.pickLane_ok hlane]
  rfl

theorem execBcast_traps (h : Ready s k 0x0C1 (linesOf i.toSlots (tagWide (16 * tyCode i.ty)) 0))
    (hlane : 32 ≤ k.gr.uni i.b i.imm.toNat) : exec (.bcast i) s
      = .next (s.raise k.tid k.g k.e 3 3 (k.gr.uni i.b i.imm.toNat) k.e.mask).done := by
  refine runG_bail h i.toSlots (f := fun k => bcastGroup i k) (b := .t 3 3 (k.gr.uni i.b i.imm.toNat)) ?_
  rw [bcastGroup_eq, Iss.pickLane_bad hlane]
  rfl

theorem execExtract_issues {d : BitVec 6} (hd : i.d = .s d)
    (h : Ready s k 0x0C2 (linesOf i.toSlots (tagWide (16 * tyCode i.ty)) 0))
    (htag : k.gr.checkTag i.a (16 * tyCode i.ty) (tagWide (16 * tyCode i.ty)) 1 = .ok ())
    (hlane : k.gr.uni i.b i.imm.toNat < 32) :
    IssuesGroup (exec (.extract i) s) s k i.hint (k.gr.ws d.toNat (uniOut (16 * tyCode i.ty)
      (k.gr.src i.a (16 * tyCode i.ty) (tagWide (16 * tyCode i.ty)) 0 (k.gr.uni i.b i.imm.toNat)))) := by
  refine runG_ok h i.toSlots (f := fun k => extractGroup i k) ?_
  rw [extractGroup_eq, htag, Iss.pickLane_ok hlane, hd]
  rfl

/-! ## getid (13 R299) -/

theorem execGetid_issues {d : BitVec 6} (hd : i.d = .s d) (h : Ready s k 0x0C3 (linesOf i.toSlots false 0)) :
    IssuesGroup (exec (.getid i) s) s k i.hint (k.gr.ws d.toNat (BitVec.ofNat 64 (k.ident i.sub.toNat 0))) := by
  rw [exec_getid, execGetid]
  refine runG_ok h i.toSlots ?_
  simp only [hd]

theorem execGetid_laneResult {d : BitVec 8} (hd : i.d = .v d) (h : Ready s k 0x0C3 (linesOf i.toSlots false 0)) :
    ∃ g1, IssuesGroup (exec (.getid i) s) s k i.hint g1
      ∧ LaneResult k.gr g1 d.toNat false k.e.mask (k.ident i.sub.toNat) (16 * tyCode i.ty) := by
  refine ⟨_, ?_, laneResult_wv k.gr d.toNat false k.e.mask (k.ident i.sub.toNat) _ (tag_lt i.ty)⟩
  rw [exec_getid, execGetid]
  refine runG_ok h i.toSlots ?_
  simp only [hd, Operand.idx]

/-! ## ldk (13 R300) -/

theorem execLdk_issues {d : BitVec 6} (hd : i.d = .s d) (h : Ready s k 0x0C4 (linesOf i.toSlots true 0)) :
    IssuesGroup (exec (.ldk i) s) s k i.hint (k.gr.ws d.toNat
      (if i.sub = 1 then (k.gr.rs d.toNat >>> 32 <<< 32) ||| i.imm.setWidth 64
        else (i.imm.setWidth 64 <<< 32) ||| ((k.gr.rs d.toNat).setWidth 32).setWidth 64)) := by
  rw [exec_ldk, execLdk]
  refine runG_ok h i.toSlots ?_
  simp only [hd]
  by_cases hsub : i.sub = 1
  · rw [if_pos hsub, ← ofNat_putHalf_low, hsub]
    rfl
  · rw [if_neg hsub, ← ofNat_putHalf_high, beq_eq_false_iff_ne.2 hsub]

theorem execLdk_laneResult {d : BitVec 8} (hd : i.d = .v d) (h : Ready s k 0x0C4 (linesOf i.toSlots true 0)) :
    ∃ g1, IssuesGroup (exec (.ldk i) s) s k i.hint g1
      ∧ LaneResult k.gr g1 d.toNat true k.e.mask (fun l =>
          if i.sub = 1 then (k.gr.rv (d.toNat + 1) l).toNat * 2 ^ 32 + i.imm.toNat
          else i.imm.toNat * 2 ^ 32 + (k.gr.rv d.toNat l).toNat) (16 * tyCode i.ty) := by
  refine ⟨_, ?_, laneResult_wv k.gr d.toNat true k.e.mask _ _ (tag_lt i.ty)⟩
  rw [exec_ldk, execLdk]
  refine runG_ok h i.toSlots ?_
  simp only [hd, Operand.idx, Group.src_wide]
  congr 2
  funext l
  rw [putHalf_pair _ (k.gr.rv d.toNat l).isLt]
  simp only [beq_iff_eq]

/-! ## movp (13 R301) -/

theorem execMovp_issues {g1 : Group} (h : Ready s k 0x0C5 (linesOf i.toSlots false 0)) (hg : movpGroup i k = g1) :
    IssuesGroup (exec (.movp i) s) s k i.hint g1 := by
  rw [exec_movp, execMovp]
  exact runG_ok h i.toSlots (congrArg Except.ok hg)

end

/-! ## The statements on row 0x3 -/

theorem movesRun : MovesRun := by
  intro s k i d a ha
  have hnarrow (hty : i.ty = .n32) : tagWide (16 * tyCode i.ty) = false := by rw [hty]; rfl
  have hlane (b : BitVec 6) (hb : i.b = .s b) : k.gr.uni i.b i.imm.toNat = (k.gr.rs b.toNat).toNat := by rw [hb]; rfl
  refine ⟨fun b h hty hd hb hlt => ?_, fun b h hty hb hge => ?_, fun x b h hty hd hb htag hlt => ?_, fun x h hd hmast => ?_,
    fun x h hd => execLdk_issues hd h, fun j h => ⟨fun p q hd ha => ?_, fun x q hd ha hsub => ?_, fun p hd hsub => ?_⟩⟩
  · refine ⟨_, execBcast_issues (by rw [hnarrow hty]; exact h) (by rw [hlane b hb]; exact hlt), ?_⟩
    rw [Iss.afterBcast, hlane b hb, hd, hnarrow hty, ha]
    exact laneResult_wmove k.gr d.toNat k.e.mask _ _ (k.gr.rtag_lt a.toNat)
  · rw [execBcast_traps (by rw [hnarrow hty]; exact h) (by rw [hlane b hb]; exact hge), hlane b hb]
  · have hissues := execExtract_issues hd (by rw [hnarrow hty]; exact h)
      (by rw [hty, ha]; exact Group.checkTag_narrow (by rw [htag]; rfl) 1) (by rw [hlane b hb]; exact hlt)
    rw [hlane b hb, hty, ha] at hissues
    have hvalue := uniOut_n32 (k.gr.rv a.toNat (k.gr.rs b.toNat).toNat).toNat
    rw [BitVec.ofNat_toNat, BitVec.setWidth_eq] at hvalue
    rw [← hvalue]
    exact hissues
  · have hissues := execGetid_issues hd h
    unfold Iss.ident at hissues
    rw [if_neg (by rw [hmast]; decide)] at hissues
    revert hissues
    generalize i.sub.toNat = n
    match n with
    | 0 | 1 | 2 | 3 | 4 | 5 | 6 | 7 => exact id
    | _ + 8 => exact id
  · have hmovp := fun g1 => execMovp_issues (g1 := g1) h
    refine ⟨fun hsub => hmovp _ ?_, fun hsub => hmovp _ ?_, fun r hb => ⟨fun hsub => hmovp _ ?_, fun hsub => hmovp _ ?_,
      fun hsub => hmovp _ ?_⟩⟩
    · rw [movpGroup, hsub, hd, ha]
      rfl
    · rw [movpGroup, hsub, hd, ha]
      rfl
    · rw [movpGroup, hsub, hd, ha, hb]
      rfl
    · rw [movpGroup, hsub, hd, ha, hb]
      rfl
    · rw [movpGroup, hsub, hd, ha, hb]
      rfl
  · refine execMovp_issues h ?_
    rw [movpGroup, hsub, hd, ha]
    rfl
  · refine ⟨fun a ha => execMovp_issues h ?_, fun ha => execMovp_issues h ?_⟩
    · rw [movpGroup, hsub, hd, ha]
      exact congrArg (k.gr.wp p.toNat k.e.mask) (BitVec.ofNat_toNat ..)
    · rw [movpGroup, hsub, hd, ha]
      exact congrArg (k.gr.wp p.toNat k.e.mask) ((BitVec.ofNat_toNat ..).trans (BitVec.setWidth_eq _))

theorem moveForms : MoveForms := by
  intro s k i tag wide htag hwide
  subst htag hwide
  refine ⟨fun d n hd hn hlt h => ?_, fun d n hd hn hlt h htag => ?_, fun h id hid => ?_,
    fun d hd h => execLdk_issues hd h, fun d hd h => execLdk_laneResult hd h⟩
  · subst hn
    refine ⟨_, execBcast_issues h hlt, fun l hl hm => ?_⟩
    rw [Iss.afterBcast, hd]
    refine ⟨Group.rv_wmove_low _ _ _ _ _ hl hm, fun hwide => ?_⟩
    rw [hwide]
    exact Group.rv_wmove_high _ _ _ _ hl hm
  · subst hn
    refine ⟨_, execExtract_issues hd h htag hlt, fun hwide => uniOut_wide hwide _, fun hty => ?_, fun hty => ?_⟩
    · rw [hty]
      exact uniOut_n32 _
    · rw [hty]
      exact uniOut_i32 _
  · obtain rfl : id = k.ident i.sub.toNat := funext hid
    exact ⟨fun d hd => execGetid_laneResult hd h, fun d hd => execGetid_issues hd h⟩

/-- Settles O11: the general forms name the group that each move leaves; on words its values are those of the statements. -/
theorem moves : Obligations.Moves := ⟨integerMoves, integerForms, movesRun, moveForms⟩

end Sys2Proof.Machine
end

section
/-!
An instruction that does not complete (07 R157, R163, 02 R33): it leaves a record more, a halted group, or a wait. What the end of a
group writes of the groups is their unsaved lines alone, so that a halted group stays halted.
-/
namespace Sys2Proof.Machine

/-! ## The end of a group and the groups -/

theorem State.group?_of_teams {s t : State} (h : t.teams = s.teams) (i j : Nat) : t.group? i j = s.group? i j := by
  rw [State.group?, State.group?, State.team?, State.team?, h]

theorem State.group?_setTeam_groups {s : State} {tid : Nat} {t u : Team} (ht : s.team? tid = some t) (hu : u.groups = t.groups)
    (i j : Nat) : (s.setTeam tid u).group? i j = s.group? i j := by
  simp only [State.group?, State.team?_setTeam]
  by_cases hi : i = tid
  · simp only [hi, if_true, ht, hu]
  · rw [if_neg hi]

theorem State.group?_modTeam_groups (s : State) (tid : Nat) {f : Team → Team} (hf : ∀ t, (f t).groups = t.groups) (i j : Nat) :
    (s.modTeam tid f).group? i j = s.group? i j := by
  unfold State.modTeam
  split
  next t ht => exact State.group?_setTeam_groups ht (hf t) i j
  next => rfl

theorem State.group?_writeMapLine (s : State) (tid ln i j : Nat) : (s.writeMapLine tid ln).group? i j = s.group? i j := by
  unfold State.writeMapLine
  split
  next => rfl
  next t ht =>
    dsimp only
    split
    next => rfl
    next =>
      rw [State.group?_count]
      split
      next pa key _ =>
        have hwritten := foldl_keep (fun x : State => x.teams = s.teams) (fun x i =>
            if (SMap.get MapLine.off t.lines ln).dirty.getLsbD i then x.homeSet key (pa + i) (SMap.get 0#8 t.spad (128 * ln + i))
            else x)
          (fun x i hx => by
            split
            · exact (State.homeSet_teams ..).trans hx
            · exact hx)
          (List.range 128) s rfl
        exact (State.group?_setTeam_groups (t := t) (by rw [State.team?, hwritten]; exact ht) (by rfl) i j).trans
          (State.group?_of_teams hwritten i j)
      next => exact State.group?_setTeam_groups ht (by rfl) i j

theorem State.group?_writeMap (s : State) (tid i j : Nat) : (s.writeMap tid).group? i j = s.group? i j := by
  unfold State.writeMap
  split
  next => rfl
  next t _ =>
    exact foldl_keep (fun x : State => x.group? i j = s.group? i j) _
      (fun x ln hx => (State.group?_writeMapLine x tid ln i j).trans hx) _ s rfl

theorem State.group?_countGone (s : State) (t : Team) (halted : Bool) (i j : Nat) :
    (s.countGone t halted).group? i j = s.group? i j := by
  unfold State.countGone
  split
  · exact State.group?_modCluster ..
  · exact State.group?_modPart ..

/-- Whether the group is halted. -/
def State.haltedAt (s : State) (i j : Nat) : Option Bool := (s.group? i j).map Group.halted

theorem State.haltedAt_of_group? {s t : State} {i j : Nat} (h : t.group? i j = s.group? i j) : t.haltedAt i j = s.haltedAt i j := by
  rw [State.haltedAt, h, State.haltedAt]

theorem State.haltedAt_modGroup (s : State) (tid g : Nat) {f : Group → Group} (hf : ∀ x, (f x).halted = x.halted) (i j : Nat) :
    (s.modGroup tid g f).haltedAt i j = s.haltedAt i j := by
  rw [State.haltedAt, State.group?_modGroup]
  split
  · rw [Option.map_map]
    exact congrArg (fun h => Option.map h (s.group? i j)) (funext hf)
  · rfl

theorem State.haltedAt_writeGroup (s : State) (tid : Nat) (t : Team) (g : Nat) (ps : List (Nat × List Byte)) (i j : Nat) :
    (s.writeGroup tid t g ps).haltedAt i j = s.haltedAt i j :=
  (State.haltedAt_modGroup _ _ _ (by intro x; rfl) i j).trans
    (State.haltedAt_of_group? (State.group?_of_teams (State.teams_writeLines ..) i j))

/-- The end of a group leaves each group halted or not as it was. -/
theorem State.haltedAt_groupGone (s : State) (tid g : Nat) (halted : Bool) (i j : Nat) :
    (s.groupGone tid g halted).haltedAt i j = s.haltedAt i j := by
  unfold State.groupGone
  split
  next => rfl
  next t _ =>
    split
    next => rfl
    next gr _ =>
      dsimp only
      have hlines (x : State) (ns : List Nat) : (if gr.ops.all fun o => o.done then x
          else x.modGroup tid g fun y => { y with unsaved := y.unsaved ++ ns }).haltedAt i j = x.haltedAt i j := by
        split
        · rfl
        · exact State.haltedAt_modGroup x tid g (by intro y; rfl) i j
      have hturn (x : State) : (x.modTeam tid fun u =>
          (if (u.lrec.det && u.rot == g && !u.turnHeld) = true then { u with rot := u.nextTurn u.rot } else u).barCheck).group? i j
            = x.group? i j :=
        State.group?_modTeam_groups x tid (fun u => by
          rw [Team.groups_barCheck]
          split <;> rfl) i j
      have hcount (ps : List (Nat × List Byte)) (ns : List Nat) :=
        (State.haltedAt_of_group? ((hturn _).trans (State.group?_countGone _ t halted i j))).trans
          ((hlines _ ns).trans (State.haltedAt_writeGroup s tid t g ps i j))
      split
      · exact hcount _ _
      · split
        · exact (State.haltedAt_of_group? ((State.group?_of_teams (State.teams_optDecide ..) i j).trans
            (State.group?_writeMap _ tid i j))).trans (hcount _ _)
        · exact (State.haltedAt_of_group? (State.group?_of_teams (State.teams_optGone ..) i j)).trans (hcount _ _)

/-- A group that is halted (07 R163) is halted afterwards. -/
theorem State.halted_halt {s : State} {tid g cause : Nat} {g1 : Group} (h : (s.halt tid g cause).group? tid g = some g1) :
    g1.halted = true := by
  have hhalted : (s.halt tid g cause).haltedAt tid g = (s.group? tid g).map fun _ => true := by
    unfold State.halt
    split
    next hteam => rw [State.haltedAt, State.group?, hteam]; rfl
    next =>
      dsimp only
      rw [State.haltedAt_of_group? (group?_unstep ..),
        State.haltedAt_of_group? (State.group?_of_teams ((State.teams_postNotice ..).trans (State.teams_postOrLose ..)) _ _),
        State.haltedAt_groupGone, State.haltedAt, State.group?_modGroup, if_pos ⟨rfl, rfl⟩, Option.map_map]
      rfl
  rw [State.haltedAt, h] at hhalted
  cases hgroup : s.group? tid g with
  | none => rw [hgroup] at hhalted; cases hhalted
  | some x => rw [hgroup] at hhalted; exact Option.some.inj hhalted

/-! ## What tells an instruction that completed -/

/-- No record was added, and the group neither halted nor waits. -/
structure Group.Completed (g g1 : Group) : Prop where
  trapq : g1.trapq = g.trapq
  halted : g1.halted = false
  hold : g1.hold = none

/-- A trap adds a record, or halts the group (07 R157, R163). -/
theorem State.not_completed_raise {s : State} {k : Iss} {g1 : Group} (hk : s.issuer = some k) {cause detail addr : Nat}
    {fail : Mask} (hg : (s.raise k.tid k.g k.e cause detail addr fail).group? k.tid k.g = some g1) : ¬ k.gr.Completed g1 := by
  intro hdone
  obtain ⟨-, hteam, hgroup, -, hrunning, -⟩ := State.issuer_eq hk
  have hgr := State.group?_issuer hk
  unfold State.raise at hg
  simp only [hteam, hgroup] at hg
  split at hg
  · exact absurd (State.halted_halt hg) (by rw [hdone.halted]; decide)
  · unfold State.appendRec at hg
    simp only [State.group?_modGroup, and_self, if_true, hgr, Option.map_some] at hg
    split at hg
    next hhalted => exact absurd (hhalted.symm.trans hrunning) (by decide)
    next =>
      split at hg
      · exact absurd (State.halted_halt hg) (by rw [hdone.halted]; decide)
      · simp only [State.group?_modGroup, and_self, if_true, hgr, Option.map_some, Option.some.injEq] at hg
        have hlength := congrArg List.length hdone.trapq
        rw [← hg] at hlength
        simp [Group.stallUp] at hlength

/-- An instruction that bails does not complete. -/
theorem State.not_completed_bail {s : State} {k : Iss} {g1 : Group} (hk : s.issuer = some k) {b : Bail}
    (hg : (s.bail k b).group? k.tid k.g = some g1) : ¬ k.gr.Completed g1 := by
  cases b with
  | trap c d a f =>
    rw [State.bail, State.group?_done] at hg
    exact State.not_completed_raise hk hg
  | halt =>
    rw [State.bail, State.group?_done] at hg
    intro hdone
    exact absurd (State.halted_halt hg) (by rw [hdone.halted]; decide)
  | hold h =>
    intro hdone
    have hgr := State.group?_issuer hk
    rw [State.bail, State.group?_done] at hg
    dsimp only at hg
    have hcount (c : Prop) [Decidable c] (x : State) (e n m : Nat) : ({ (if c then x.count k.t.core e n else x) with nextOp := m } :
        State).group? k.tid k.g = x.group? k.tid k.g := by
      split
      · exact State.group?_count ..
      · rfl
    rw [hcount, State.group?_modGroup, if_pos ⟨rfl, rfl⟩, hgr, Option.map_some, Option.some.injEq] at hg
    have hwaits := hdone.hold
    rw [← hg] at hwaits
    cases hwaits

end Sys2Proof.Machine
end

section
/-!
The frame of an instruction that works on its group's registers alone: a meaning, run to its end, leaves the group that it gives,
moved on; and what each write of a register leaves of the group (05 R109, R110).
-/
namespace Sys2Proof.Machine

open Host (Outcome)

/-! ## An instruction that completed -/

/-- Of a group's instruction that completed, the meaning answered a state, which was retired. -/
theorem runS_completed {s s1 : State} {k : Iss} {op : Nat} {sl : Slots} {ls : List Nat × List Nat} {f : Iss → Except Bail State}
    {g1 : Group} (hk : s.issuer = some k) (herrs : s.errs = []) (hrun : runS op s sl ls f = .next s1)
    (hg : s1.group? k.tid k.g = some g1) (hdone : k.gr.Completed g1) :
    ∃ s', f k = .ok s' ∧ s1 = (s'.readRegs k ls).1.retire k sl.hint k.fall none := by
  have hbail : ∀ b, s1 ≠ s.bail k b := fun b hb => State.not_completed_bail hk (hb ▸ hg) hdone
  simp only [runS, runJ, hk, State.readRegs_nil herrs] at hrun
  split at hrun
  next b _ => exact absurd (Outcome.next.inj hrun).symm (hbail b)
  next =>
    split at hrun
    next b hb => exact absurd (Outcome.next.inj hrun).symm (hbail b)
    next s' tg hok =>
      cases hmeaning : f k with
      | error b => rw [hmeaning] at hok; cases hok
      | ok x =>
        rw [hmeaning] at hok
        cases hok
        exact ⟨_, rfl, (Outcome.next.inj hrun).symm⟩

/-- A change of its group alone, retired, is one still; the group is the one the change gave, moved on. -/
theorem onlyGroup_readRegs_retire {s s' : State} {k : Iss} {g' : Group} (herrs : s.errs = []) (honly : OnlyGroup k.tid k.g s s')
    (hg : s'.group? k.tid k.g = some g') (ls : List Nat × List Nat) (hint : Hint) :
    OnlyGroup k.tid k.g s ((s'.readRegs k ls).1.retire k hint k.fall none)
      ∧ ((s'.readRegs k ls).1.retire k hint k.fall none).group? k.tid k.g = some (g'.after k hint k.fall none) := by
  obtain ⟨-, hrest, -⟩ := id honly
  have herrs' : s'.errs = [] := (congrArg State.errs hrest :).trans herrs
  have hlanes := rebuild_ne (prioOf k.t.prios) k.gr.running k.e k.fall k.fall_ne
  rw [State.readRegs_nil herrs']
  exact ⟨honly.trans (onlyGroup_retire s' k hint k.fall none hlanes), by
    rw [State.group?_retire _ _ _ _ _ hlanes, hg]
    rfl⟩

/-! ## What a meaning keeps of its group -/

/-- The group without what a meaning may write: registers, tags, predicates, seeds and float flags. -/
def Group.apart (g : Group) : Group := { g with v := [], vtag := [], s := [], p := [], seed := [], fflags := [] }

/-- Some flags are added in one lane (04 R96). -/
def Group.addFlags (g : Group) (l flags : Nat) : Group :=
  if flags = 0 then g else { g with fflags := SMap.set 0#8 g.fflags l (SMap.get 0#8 g.fflags l ||| BitVec.ofNat 8 flags) }

/-- One lane takes a seed (04 R93). -/
def Group.setSeed (g : Group) (l : Nat) (x : W32) : Group := { g with seed := SMap.set 0#32 g.seed l x }

theorem Group.wflags_eq (g : Group) (m : Mask) (f : Nat → Nat) :
    g.wflags m f = (lanesOf m).foldl (fun x l => x.addFlags l (f l)) g := rfl

/-- A lane-by-lane result writes a lane's value, its flags and its seed, lane after lane, then the tags. -/
theorem Group.wout_eq (g : Group) (n : Nat) (wide : Bool) (m : Mask) (f : Nat → LaneOut) (tag : Nat) :
    g.wout n wide m f tag = if (lanesOf m).isEmpty then g else
      let g1 := (lanesOf m).foldl
        (fun x l => ((x.wlane n wide l (f l).val).addFlags l (f l).flags).setSeed l (f l).seed) g
      if wide then (g1.wtag n tag).wtag (n + 1) tag else g1.wtag n tag := by
  unfold Group.wout
  simp only [List.isEmpty_map, List.foldl_map]
  rfl

/-- What a meaning with destination d keeps in a group whose entry has the lanes m: every other register, the registers' other
lanes, the seeds and flags of other lanes, and those of its own unless it may change them. -/
structure Kept (m : Mask) (d : Operand) (seeds flags : Bool) (g g1 : Group) : Prop where
  apart : g1.apart = g.apart
  rv : ∀ n l, l < 32 → (¬ ∃ x, d = .v x ∧ (n = x.toNat ∨ n = x.toNat + 1)) ∨ m.getLsbD l = false → g1.rv n l = g.rv n l
  rtag : ∀ n, (¬ ∃ x, d = .v x ∧ (n = x.toNat ∨ n = x.toNat + 1)) → g1.rtag n = g.rtag n
  rs : ∀ n, (¬ ∃ x, d = .s x ∧ n = x.toNat) → g1.rs n = g.rs n
  rp : ∀ n, (¬ ∃ x, d = .p x ∧ n = x.toNat) → g1.rp n = g.rp n
  seed : ∀ l, seeds = false ∨ m.getLsbD l = false → g1.rseed l = g.rseed l
  gains : ∀ l, SMap.get 0#8 g1.fflags l &&& SMap.get 0#8 g.fflags l = SMap.get 0#8 g.fflags l
  fflags : ∀ l, flags = false ∨ m.getLsbD l = false → SMap.get 0#8 g1.fflags l = SMap.get 0#8 g.fflags l

namespace Kept
variable {m : Mask} {d : Operand} {seeds flags : Bool} {g g1 g2 : Group}

theorem refl (g : Group) : Kept m d seeds flags g g :=
  ⟨rfl, fun _ _ _ _ => rfl, fun _ _ => rfl, fun _ _ => rfl, fun _ _ => rfl, fun _ _ => rfl, fun _ => BitVec.and_self,
    fun _ _ => rfl⟩

theorem trans (h : Kept m d seeds flags g g1) (h' : Kept m d seeds flags g1 g2) : Kept m d seeds flags g g2 where
  apart := h'.apart.trans h.apart
  rv n l hl hn := (h'.rv n l hl hn).trans (h.rv n l hl hn)
  rtag n hn := (h'.rtag n hn).trans (h.rtag n hn)
  rs n hn := (h'.rs n hn).trans (h.rs n hn)
  rp n hn := (h'.rp n hn).trans (h.rp n hn)
  seed l hl := (h'.seed l hl).trans (h.seed l hl)
  gains l := by
    have hsub := h'.gains l
    have hsub' := h.gains l
    rw [← hsub', ← BitVec.and_assoc, hsub, hsub']
  fflags l hl := (h'.fflags l hl).trans (h.fflags l hl)

/-- What keeps more. -/
theorem mono {seeds' flags' : Bool} (hs : seeds = true → seeds' = true) (hf : flags = true → flags' = true)
    (h : Kept m d seeds flags g g1) : Kept m d seeds' flags' g g1 where
  apart := h.apart
  rv := h.rv
  rtag := h.rtag
  rs := h.rs
  rp := h.rp
  seed l hl := h.seed l (hl.imp_left fun hseeds => by
    cases seeds with
    | false => rfl
    | true => exact absurd (hs rfl) (by rw [hseeds]; decide))
  gains := h.gains
  fflags l hl := h.fflags l (hl.imp_left fun hflags => by
    cases flags with
    | false => rfl
    | true => exact absurd (hf rfl) (by rw [hflags]; decide))

/-! ## One write (05 R109, R110) -/

theorem ws (g : Group) (n : BitVec 6) (x : W64) : Kept m (.s n) false false g (g.ws n.toNat x) :=
  { refl (d := .s n) g with
    apart := rfl
    rs := fun _ hj => (Group.rs_ws ..).trans (if_neg fun hn => hj ⟨n, rfl, hn⟩) }

theorem wp (g : Group) (n : BitVec 3) (w x : Mask) : Kept m (.p n) false false g (g.wp n.toNat w x) where
  apart := by unfold Group.wp; split <;> rfl
  rv _ _ _ _ := by rw [Group.rv, Group.wp_v, Group.rv]
  rtag _ _ := by rw [Group.rtag, Group.wp_vtag, Group.rtag]
  rs _ _ := by rw [Group.rs, Group.wp_s, Group.rs]
  rp _ hj := (Group.rp_wp ..).trans (if_neg fun hn => hj ⟨n, rfl, hn.1⟩)
  seed _ _ := by rw [Group.rseed, Group.wp_seed, Group.rseed]
  gains _ := by rw [Group.wp_fflags, BitVec.and_self]
  fflags _ _ := by rw [Group.wp_fflags]

theorem wtag (g : Group) {n : Nat} {x : BitVec 8} (hn : n = x.toNat ∨ n = x.toNat + 1) (tag : Nat) :
    Kept m (.v x) false false g (g.wtag n tag) :=
  { refl (d := .v x) g with
    apart := rfl
    rtag := fun j hj => (Group.rtag_wtag ..).trans (if_neg fun hjn => hj ⟨x, rfl, by rw [hjn]; exact hn⟩) }

theorem wlane (g : Group) (x : BitVec 8) (wide : Bool) {l : Nat} (hl : l < 32) (hm : m.getLsbD l = true) (w : Nat) :
    Kept m (.v x) false false g (g.wlane x.toNat wide l w) where
  apart := by unfold Group.wlane; cases wide <;> rfl
  rv n j hj hn := by
    rw [Group.rv_wlane _ _ _ _ _ _ _ hl hj]
    have hne : ¬ (n = x.toNat ∨ n = x.toNat + 1) ∨ j ≠ l := by
      rcases hn with hother | hinactive
      · exact Or.inl fun h => hother ⟨x, rfl, h⟩
      · exact Or.inr fun h => by rw [h, hm] at hinactive; cases hinactive
    rw [if_neg (by tauto), if_neg (by tauto)]
  rtag _ _ := Group.rtag_wlane ..
  rs _ _ := by rw [Group.rs, Group.wlane_s, Group.rs]
  rp _ _ := by rw [Group.rp, Group.wlane_p, Group.rp]
  seed _ _ := by rw [Group.rseed, Group.wlane_seed, Group.rseed]
  gains _ := by rw [Group.wlane_fflags, BitVec.and_self]
  fflags _ _ := by rw [Group.wlane_fflags]

theorem addFlags (g : Group) {l : Nat} (hm : m.getLsbD l = true) {x : Nat} (hx : flags = false → x = 0) :
    Kept m d false flags g (g.addFlags l x) := by
  unfold Group.addFlags
  split
  next => exact refl g
  next hsome =>
    exact { refl (d := d) (seeds := false) (flags := flags) g with
      apart := rfl
      gains := fun j => by
        rw [SMap.get_set]
        split
        next hj =>
          rw [hj]
          ext n
          rw [BitVec.getElem_and, BitVec.getElem_or]
          exact (by decide : ∀ a b : Bool, ((a || b) && a) = a) _ _
        next => exact BitVec.and_self
      fflags := fun j hj => by
        rw [SMap.get_set, if_neg fun hjl => ?_]
        rcases hj with hflags | hinactive
        · exact hsome (hx hflags)
        · rw [hjl, hm] at hinactive; cases hinactive }

theorem setSeed (g : Group) {l : Nat} (hm : m.getLsbD l = true) {x : W32} (hx : seeds = false → x = g.rseed l) :
    Kept m d seeds false g (g.setSeed l x) :=
  { refl (d := d) (seeds := seeds) (flags := false) g with
    apart := rfl
    seed := fun j hj => by
      rw [Group.rseed, Group.setSeed, SMap.get_set]
      split
      next hjl =>
        subst hjl
        rcases hj with hseeds | hinactive
        · exact hx hseeds
        · rw [hm] at hinactive; cases hinactive
      next => rfl }

/-! ## Writes of several lanes -/

theorem foldl {α : Type} {f : Group → α → Group} {xs : List α}
    (h : ∀ x, Kept m d seeds flags g x → ∀ a ∈ xs, Kept m d seeds flags x (f x a)) : Kept m d seeds flags g (xs.foldl f g) :=
  List.foldlRecOn xs f (refl g) fun x hx a ha => hx.trans (h x hx a ha)

theorem wflags (g : Group) {f : Nat → Nat} (hf : flags = false → ∀ l, f l = 0) : Kept m d false flags g (g.wflags m f) := by
  rw [Group.wflags_eq]
  refine foldl fun x _ l hl => ?_
  obtain ⟨-, hm⟩ := (mem_lanesOf m l).1 hl
  exact addFlags x hm fun hno => hf hno l

/-- The tags of a register, and for a pair of the one above. -/
theorem wtags (g : Group) (x : BitVec 8) (wide : Bool) (tag high : Nat) : Kept m (.v x) false false g
    (if wide then (g.wtag x.toNat tag).wtag (x.toNat + 1) high else g.wtag x.toNat tag) := by
  have hlow := wtag (m := m) g (Or.inl rfl : x.toNat = x.toNat ∨ _) tag
  split
  · exact hlow.trans (wtag _ (Or.inr rfl) high)
  · exact hlow

theorem wv (g : Group) (x : BitVec 8) (wide : Bool) (f : Nat → Nat) (tag : Nat) :
    Kept m (.v x) false false g (g.wv x.toNat wide m f tag) := by
  unfold Group.wv
  dsimp only
  split
  · exact refl g
  · refine (foldl (f := fun y l => y.wlane x.toNat wide l (f l)) fun y _ l hl => ?_).trans (wtags _ x wide tag tag)
    obtain ⟨hlt, hm⟩ := (mem_lanesOf m l).1 hl
    exact wlane y x wide hlt hm (f l)

theorem wmove (g : Group) (x : BitVec 8) (wide : Bool) (f : Nat → Nat) (tags : Nat × Nat) :
    Kept m (.v x) false false g (g.wmove x.toNat wide m f tags) := by
  unfold Group.wmove
  split
  · exact refl g
  · split
    · exact (wv g x wide f tags.1).trans (wtag _ (Or.inr rfl) tags.2)
    · exact wv g x wide f tags.1

theorem wout (g : Group) (x : BitVec 8) (wide : Bool) {f : Nat → LaneOut} (hseeds : seeds = false → ∀ l, (f l).seed = g.rseed l)
    (hflags : flags = false → ∀ l, (f l).flags = 0) (tag : Nat) : Kept m (.v x) seeds flags g (g.wout x.toNat wide m f tag) := by
  rw [Group.wout_eq]
  dsimp only
  split
  · exact refl g
  · refine Kept.trans (foldl fun y hy l hl => ?_) ((wtags _ x wide tag tag).mono (by simp) (by simp))
    obtain ⟨hlt, hm⟩ := (mem_lanesOf m l).1 hl
    have hlane : Kept m (.v x) false flags y ((y.wlane x.toNat wide l (f l).val).addFlags l (f l).flags) :=
      ((wlane y x wide hlt hm (f l).val).mono (by simp) (by simp)).trans (addFlags _ hm fun hno => hflags hno l)
    refine (hlane.mono (by simp) fun h => h).trans ((setSeed _ hm fun hno => ?_).mono (fun h => h) (by simp))
    rw [hseeds hno l, hlane.seed l (Or.inl rfl), hy.seed l (Or.inl hno)]

end Kept

end Sys2Proof.Machine
end

section
/-!
The destination of a well-formed register instruction (12 R261): the class of register that the checks of its word leave for D; and
what it takes for an instruction to keep the frame.
-/
namespace Sys2Proof.Machine

open Host (Outcome)

/-! ## The checks of a well-formed instruction's word -/

theorem wordTrap_none_chk {ag : Agent} {r : Raw} (hw : wordTrap ag r = none) :
    (chkOf ag r).dOk = true ∧ (chkOf ag r).modOk = true := by
  unfold wordTrap at hw
  simp only at hw
  repeat' split at hw
  any_goals contradiction
  next hd _ _ _ _ hm _ _ =>
    simp only [Bool.not_eq_true', Bool.not_eq_false, Bool.and_eq_true] at hd hm
    exact ⟨hd.2, hm⟩

theorem subF_fnView (op : Nat) (i : FnI) : subF (fnView op i) = i.sub.toNat := by
  have hsub := i.sub.isLt
  simp only [subF, fnView, plRaw]
  omega

theorem satF_fnView (op : Nat) (i : FnI) : satF (fnView op i) = b2n i.sat := by
  have hsat := b2n_lt i.sat
  have hsub := i.sub.isLt
  simp only [satF, fnView, plRaw]
  omega

section
variable {ag : Agent} {i : Instr} {op md : Nat} {sl : Slots} (h : WellFormed ag i = true)
  (hr : rawOfInstr i = some (plRaw op sl md))
include h hr

theorem wellFormed_chk : opd ag (opCode sl.d) = some sl.d
    ∧ (chkOf ag (plRaw op sl md)).dOk = true ∧ (chkOf ag (plRaw op sl md)).modOk = true := by
  simp only [WellFormed, hr, Bool.and_eq_true, Option.isNone_iff_eq_none] at h
  obtain ⟨⟨hw, -⟩, -⟩ := h
  obtain ⟨-, -, -, hsome, -⟩ := wordTrap_none hw
  obtain ⟨o, ho⟩ := Option.isSome_iff_exists.1 hsome
  refine ⟨?_, wordTrap_none_chk hw⟩
  have hcode : opd ag (opCode sl.d) = some o := ho
  rw [hcode, opd_opCode hcode]

theorem wellFormed_system (hrow : op / 64 = 0) :
    (chkSystem ag (plRaw op sl md) (some sl.d) (opd ag (opCode sl.a)) (opd ag (opCode sl.b))).dOk = true := by
  obtain ⟨hd, hdok, -⟩ := wellFormed_chk h hr
  simpa only [chkOf, plRaw, hrow, hd] using hdok

theorem wellFormed_control (hrow : op / 64 = 1) :
    (chkControl ag (plRaw op sl md) (some sl.d) (opd ag (opCode sl.a)) (opd ag (opCode sl.b))).dOk = true
      ∧ (chkControl ag (plRaw op sl md) (some sl.d) (opd ag (opCode sl.a)) (opd ag (opCode sl.b))).modOk = true := by
  obtain ⟨hd, hdok, hmod⟩ := wellFormed_chk h hr
  simp only [chkOf, plRaw, hrow, hd] at hdok hmod
  exact ⟨hdok, hmod⟩

theorem wellFormed_integer (hrow : op / 64 = 2) :
    (chkInteger ag (plRaw op sl md) (some sl.d) (opd ag (opCode sl.a)) (opd ag (opCode sl.b))).dOk = true := by
  obtain ⟨hd, hdok, -⟩ := wellFormed_chk h hr
  simpa only [chkOf, plRaw, hrow, hd] using hdok

theorem wellFormed_move (hrow : op / 64 = 3) :
    (chkMove (plRaw op sl md) (some sl.d) (opd ag (opCode sl.a)) (opd ag (opCode sl.b))).dOk = true
      ∧ (chkMove (plRaw op sl md) (some sl.d) (opd ag (opCode sl.a)) (opd ag (opCode sl.b))).modOk = true := by
  obtain ⟨hd, hdok, hmod⟩ := wellFormed_chk h hr
  simp only [chkOf, plRaw, hrow, hd] at hdok hmod
  exact ⟨hdok, hmod⟩

theorem wellFormed_float (hrow : op / 64 = 4) :
    (chkFloat (plRaw op sl md) (some sl.d) (opd ag (opCode sl.a)) (opd ag (opCode sl.b))).dOk = true := by
  obtain ⟨hd, hdok, -⟩ := wellFormed_chk h hr
  simpa only [chkOf, plRaw, hrow, hd] using hdok

theorem wellFormed_convert (hrow : op / 64 = 5) :
    (chkConvert (plRaw op sl md) (some sl.d) (opd ag (opCode sl.a)) (opd ag (opCode sl.b))).dOk = true := by
  obtain ⟨hd, hdok, -⟩ := wellFormed_chk h hr
  simpa only [chkOf, plRaw, hrow, hd] using hdok

end

/-! ## A write of the destination, by its class -/

theorem isV_of_isVw {wide : Bool} {o : Operand} (h : isVw wide (some o) = true) : isV (some o) = true := by
  cases o with
  | v n => rfl
  | _ => cases h

theorem isV_some {o : Operand} : isV (some o) = true ↔ ∃ n, o = .v n := by cases o <;> simp [isV]
theorem isS_some {o : Operand} : isS (some o) = true ↔ ∃ n, o = .s n := by cases o <;> simp [isS]
theorem isP_some {o : Operand} : isP (some o) = true ↔ ∃ n, o = .p n := by cases o <;> simp [isP]

/-- A destination that may be a v register or an s register. -/
theorem v_or_s {wide : Bool} {o : Operand} (h : (isVw wide (some o) || isS (some o)) = true) :
    (∃ n, o = .v n) ∨ ∃ n, o = .s n := by
  rw [Bool.or_eq_true] at h
  exact h.imp (fun hv => isV_some.1 (isV_of_isVw hv)) isS_some.1

/-- A destination that may be a v register or a tile, and is no tile. -/
theorem v_of_vw_or_m {wide : Bool} {o : Operand} (h : (isVw wide (some o) || isM (some o)) = true) (hreg : o.isM = false) :
    ∃ n, o = .v n := by
  cases o with
  | m n => cases hreg
  | v n => exact ⟨n, rfl⟩
  | _ => cases h

namespace Kept
variable {m : Mask} {d : Operand} {g : Group}

theorem ws_dest (hd : ∃ n, d = .s n) (x : W64) : Kept m d false false g (g.ws d.idx x) := by
  obtain ⟨n, rfl⟩ := hd
  exact ws g n x

theorem wp_dest (hd : ∃ n, d = .p n) (x : Mask) : Kept m d false false g (g.wp d.idx m x) := by
  obtain ⟨n, rfl⟩ := hd
  exact wp g n m x

theorem wmove_dest (hd : ∃ n, d = .v n) (wide : Bool) (f : Nat → Nat) (tags : Nat × Nat) :
    Kept m d false false g (g.wmove d.idx wide m f tags) := by
  obtain ⟨n, rfl⟩ := hd
  exact wmove g n wide f tags

theorem wout_dest (hd : ∃ n, d = .v n) (wide : Bool) (f : Nat → LaneOut) (tag : Nat) :
    Kept m d true true g (g.wout d.idx wide m f tag) := by
  obtain ⟨n, rfl⟩ := hd
  exact wout g n wide (by simp) (by simp) tag

theorem setTag_dest (hd : ∃ n, d = .v n) {j : Nat} (hj : j = d.idx ∨ j = d.idx + 1) (tag : Nat) :
    Kept m d false false g (g.setTag j tag) := by
  obtain ⟨n, rfl⟩ := hd
  unfold Group.setTag
  split
  · exact refl g
  · exact wtag g hj tag

end Kept

/-! ## What keeps the frame -/

/-- The instruction of group k, run, answers a change of its group alone that keeps what the frame says. -/
def Framed (s : State) (k : Iss) (i : Instr) (d : Operand) : Prop :=
  ∃ op sl ls f, exec i s = runS op s sl ls f ∧ ∀ s', f k = .ok s' → OnlyGroup k.tid k.g s s'
    ∧ ∃ g', s'.group? k.tid k.g = some g' ∧ Kept k.e.mask d (floatRow i) (floatRow i || clampRow i) k.gr g'

theorem floatRow_of {i : Instr} {op md : Nat} {sl : Slots} (hr : rawOfInstr i = some (plRaw op sl md))
    (hrow : op / 64 = 4 ∨ op / 64 = 5) : floatRow i = true := by
  simp only [floatRow, hr, plRaw, Bool.or_eq_true, beq_iff_eq]
  exact hrow

theorem clampRow_of {i : Instr} {op : Nat} {x : FnI} (hr : rawOfInstr i = some (fnView op x)) (hrow : op / 64 = 2) :
    clampRow i = x.sat := by
  simp only [clampRow, hr, satF_fnView]
  cases hsat : x.sat <;> simp [fnView, plRaw, hrow, b2n]

section
variable {s : State} {k : Iss} (hk : s.issuer = some k) {i : Instr} {d : Operand}
include hk

/-- A change of the issuing group to one that keeps what the frame says. -/
theorem framed_becomes {g' : Group} (h : Kept k.e.mask d (floatRow i) (floatRow i || clampRow i) k.gr g') :
    OnlyGroup k.tid k.g s (s.modGroup k.tid k.g fun _ => g') ∧ ∃ g1, (s.modGroup k.tid k.g fun _ => g').group? k.tid k.g = some g1
      ∧ Kept k.e.mask d (floatRow i) (floatRow i || clampRow i) k.gr g1 := by
  refine ⟨onlyGroup_modGroup .., g', ?_, h⟩
  rw [State.group?_modGroup, if_pos ⟨rfl, rfl⟩, State.group?_issuer hk]
  rfl

section
variable {op : Nat} {sl : Slots} {ls : List Nat × List Nat} {f : Iss → Except Bail Group} (hrun : exec i s = runG op s sl ls f)
include hrun

theorem framed_runG (hf : ∀ g', f k = .ok g' → Kept k.e.mask d (floatRow i) (floatRow i || clampRow i) k.gr g') :
    Framed s k i d := by
  refine ⟨op, sl, ls, _, hrun, fun s' hs' => ?_⟩
  cases hmeaning : f k with
  | error b => simp only [hmeaning] at hs'; cases hs'
  | ok g' =>
    simp only [hmeaning] at hs'
    cases hs'
    exact framed_becomes hk (hf g' hmeaning)

/-- A meaning that writes no seed and no flag. -/
theorem framed_plain (hf : ∀ g', f k = .ok g' → Kept k.e.mask d false false k.gr g') : Framed s k i d :=
  framed_runG hk hrun fun g' hg' => (hf g' hg').mono (by simp) (by simp)

/-- A meaning of rows 0x4 and 0x5. -/
theorem framed_float (hrow : floatRow i = true) (hf : ∀ g', f k = .ok g' → Kept k.e.mask d true true k.gr g') :
    Framed s k i d :=
  framed_runG hk hrun fun g' hg' => (hf g' hg').mono (fun _ => hrow) (fun _ => by rw [hrow]; rfl)

/-- A meaning of row 0x2, whose flags SAT alone gives. -/
theorem framed_clamp {opc : Nat} {x : FnI} (hr : rawOfInstr i = some (fnView opc x)) (hrow : opc / 64 = 2)
    (hf : ∀ g', f k = .ok g' → Kept k.e.mask d false x.sat k.gr g') : Framed s k i d :=
  framed_runG hk hrun fun g' hg' => (hf g' hg').mono (by simp) fun hsat => by
    rw [clampRow_of hr hrow, hsat, Bool.or_true]

/-- A meaning that writes an s register alone. -/
theorem framed_s (hd : isS (some d) = true) {x : W64} (hf : f k = .ok (k.gr.ws d.idx x)) : Framed s k i d :=
  framed_plain hk hrun fun g' hg' => by
    cases hf.symm.trans hg'
    exact Kept.ws_dest (isS_some.1 hd) _

end

/-- A meaning that changes its group in place. -/
theorem framed_runS {op : Nat} {sl : Slots} {ls : List Nat × List Nat} {f : Iss → Except Bail State}
    (hrun : exec i s = runS op s sl ls f) (hf : ∀ s', f k = .ok s' → ∃ h : Group → Group, s' = s.modGroup k.tid k.g h
      ∧ Kept k.e.mask d (floatRow i) (floatRow i || clampRow i) k.gr (h k.gr)) : Framed s k i d := by
  refine ⟨op, sl, ls, f, hrun, fun s' hs' => ?_⟩
  obtain ⟨h, rfl, hkept⟩ := hf s' hs'
  rw [State.modGroup_issuer hk]
  exact framed_becomes hk hkept

end

end Sys2Proof.Machine
end

section
/-!
The frame of rows 0x0 to 0x3 (13 R278-R301, 18 R398-R425).
-/
namespace Sys2Proof.Machine

open Host (Outcome)

/-! ## A meaning that answers a value, after its checks -/

theorem exists_of_map_ok {ε α β : Type} {f : α → β} {x : Except ε α} {b : β} (h : x.map f = .ok b) : ∃ a, f a = b := by
  cases x with
  | error e => cases h
  | ok a => exact ⟨a, Except.ok.inj h⟩

theorem exists_of_bind_ok {ε α β : Type} {f : α → Except ε β} {x : Except ε α} {b : β} (h : x.bind f = .ok b) :
    ∃ a, f a = .ok b := by
  cases x with
  | error e => cases h
  | ok a => exact ⟨a, h⟩

/-! ## What the integer operations flag (13 R279) -/

/-- Without SAT an integer operation sets no flag. -/
theorem intLane_flags (op : IntOp) (tag sub a b d : Nat) : (intLane op tag false sub a b d).2 = 0 := by
  simp only [intLane, intFit, Bool.false_eq_true, if_false]
  exact List.foldlRecOn (motive := fun n => n = 0) _ flagsOr rfl fun n hn f hf => by
    simp only [List.map_map, List.mem_map, Function.comp_apply] at hf
    obtain ⟨-, -, rfl⟩ := hf
    rw [hn]
    rfl

theorem fitInt_flags (x : Int) : (fitInt 0x10 false x).2 = 0 := by
  unfold fitInt
  dsimp only
  split <;> rfl

/-! ## What the meanings of lane exchange write (13 R284, R285) -/

/-- The forms 0 to 2 of a vote write a predicate. -/
theorem voteGroup_predicate (i : FnI) (k : Iss) (hsub : i.sub.toNat ≤ 2) :
    ∃ x, voteGroup i k = .ok (k.gr.wp i.d.idx k.e.mask x) := by
  have hform : i.sub.toNat = 0 ∨ i.sub.toNat = 1 ∨ i.sub.toNat = 2 := by omega
  unfold voteGroup
  rcases hform with h | h | h <;> rw [h] <;> exact ⟨_, rfl⟩

/-- The other forms write an s register. -/
theorem voteGroup_scalar (i : FnI) (k : Iss) (hsub : 2 < i.sub.toNat) :
    ∃ x, voteGroup i k = .ok (k.gr.ws i.d.idx x) := by
  unfold voteGroup
  split
  iterate 3 omega
  all_goals exact ⟨_, rfl⟩

theorem shflGroup_ok {i : FnI} {k : Iss} {g' : Group} (h : shflGroup i k = .ok g') :
    ∃ f, g' = k.gr.wmove i.d.idx (tagWide (16 * tyCode i.ty)) k.e.mask f
      (k.gr.tagsOf i.a (16 * tyCode i.ty) (tagWide (16 * tyCode i.ty))) := by
  unfold shflGroup at h
  simp only at h
  split at h
  · cases h
  · split at h <;> cases h
    exact ⟨_, rfl⟩

/-- The forms of a movp but for form 5 write a predicate. -/
theorem movpGroup_predicate (i : FnI) (k : Iss) (hsub : i.sub.toNat ≠ 5) : ∃ x, movpGroup i k = k.gr.wp i.d.idx k.e.mask x := by
  unfold movpGroup
  dsimp only
  split
  case h_6 h => exact absurd h hsub
  all_goals exact ⟨_, rfl⟩

section
variable {s : State} {k : Iss} (hk : s.issuer = some k)
include hk

/-! ## Rows 0x0 and 0x1 -/

theorem framed_nop (i : Slots) : Framed s k (.nop i) i.d := by
  refine ⟨0x001, i, ([], []), fun _ => .ok s, ?_, fun s' hs' => ?_⟩
  · rw [exec_nop, execNop, State.cur_issuer hk]
  · cases hs'
    exact ⟨OnlyGroup.refl _ _ _, k.gr, State.group?_issuer hk, Kept.refl _⟩

theorem framed_vclk {i : Slots} (hwf : WellFormed k.agent (.vclk i) = true) : Framed s k (.vclk i) i.d :=
  framed_s hk (exec_vclk i s) (wellFormed_system hwf rfl rfl) rfl

theorem framed_idem {i : Slots} (hwf : WellFormed k.agent (.idem i) = true) : Framed s k (.idem i) i.d := by
  have heven : ¬ i.imm.toNat % 2 = 1 := by
    simp only [WellFormed, rawOfInstr, formOk, Bool.and_eq_true, beq_iff_eq, ← bit_toNat] at hwf
    obtain ⟨⟨-, hbit⟩, -⟩ := hwf
    simpa [bit] using hbit
  have hd : (if i.imm.toNat % 2 = 1 then isNil (some i.d) else isS (some i.d)) = true := wellFormed_system hwf rfl rfl
  rw [if_neg heven] at hd
  exact framed_s hk (exec_idem i s) hd rfl

theorem framed_rdctx {i : Slots} (hwf : WellFormed k.agent (.rdctx i) = true) : Framed s k (.rdctx i) i.d :=
  framed_s hk (exec_rdctx i s) (wellFormed_system hwf rfl rfl) rfl

theorem framed_actmask {i : Slots} (hwf : WellFormed k.agent (.actmask i) = true) : Framed s k (.actmask i) i.d :=
  framed_s hk (exec_actmask i s) (wellFormed_control hwf rfl rfl).1 rfl

theorem framed_cvtest {i : Slots} (hwf : WellFormed k.agent (.cvtest i) = true) : Framed s k (.cvtest i) i.d :=
  framed_s hk (exec_cvtest i s) (wellFormed_control hwf rfl rfl).1 rfl

/-- A vote writes a predicate in its forms 0 to 2, an s register in its forms 3 to 6. -/
theorem framed_vote {i : FnI} (hwf : WellFormed k.agent (.vote i) = true) : Framed s k (.vote i) i.d := by
  obtain ⟨hd, hmod⟩ := wellFormed_control hwf rfl rfl
  have hsub : i.sub.toNat ≤ 6 := by
    have hok : (decide (subF (fnView 0x046 i) ≤ 6) && satF (fnView 0x046 i) == 0) = true := hmod
    simp only [subF_fnView, Bool.and_eq_true, decide_eq_true_eq] at hok
    exact hok.1
  have hclass : (if i.sub.toNat ≤ 2 then isP (some i.d) else isS (some i.d)) = true := by
    have hok : (if subF (fnView 0x046 i) ≤ 2 then isP (some i.d) else if subF (fnView 0x046 i) ≤ 6 then isS (some i.d)
      else (isP (some i.d) || isS (some i.d))) = true := hd
    rwa [subF_fnView, if_pos hsub] at hok
  refine framed_plain hk (exec_vote i s) fun g' hg' => ?_
  split at hclass
  next hlow =>
    obtain ⟨x, hx⟩ := voteGroup_predicate i k hlow
    cases hx.symm.trans hg'
    exact Kept.wp_dest (isP_some.1 hclass) x
  next hhigh =>
    obtain ⟨x, hx⟩ := voteGroup_scalar i k (Nat.lt_of_not_le hhigh)
    cases hx.symm.trans hg'
    exact Kept.ws_dest (isS_some.1 hclass) x

theorem framed_shfl {i : FnI} (hwf : WellFormed k.agent (.shfl i) = true) : Framed s k (.shfl i) i.d :=
  framed_plain hk (exec_shfl i s) fun g' hg' => by
    obtain ⟨f, rfl⟩ := shflGroup_ok hg'
    exact Kept.wmove_dest (isV_some.1 (isV_of_isVw (wellFormed_control hwf rfl rfl).1)) _ _ _

/-! ## Row 0x2 -/

/-- The vector and the uniform form of an operation of R290 to R293. -/
theorem framed_intInstrOf (op : IntOp) {i : FnI} (hwf : WellFormed k.agent (intInstrOf op i) = true) :
    Framed s k (intInstrOf op i) i.d := by
  have hr : rawOfInstr (intInstrOf op i) = some (fnView (intOpcode op) i) := by cases op <;> rfl
  have hrow : intOpcode op / 64 = 2 := by cases op <;> rfl
  have hd : (isVw (tyF (fnView (intOpcode op) i) == 2 || tyF (fnView (intOpcode op) i) == 3) (some i.d)
      || isS (some i.d)) = true := by
    have hok := wellFormed_integer hwf hr hrow
    cases op <;> exact hok
  have hrun := (exec_intInstrOf op i s).trans (intInstr_group hk op _ _ i)
  refine framed_clamp hk hrun hr hrow fun g' hg' => ?_
  rcases v_or_s hd with ⟨n, hv⟩ | ⟨n, hs⟩
  · rw [intGroup_v op _ k hv] at hg'
    obtain ⟨-, rfl⟩ := exists_of_map_ok hg'
    rw [hv]
    exact Kept.wout k.gr n _ (fun _ _ => rfl) (fun hsat _ => by rw [intOut, hsat]; exact intLane_flags ..) _
  · rw [intGroup_s op _ k hs] at hg'
    cases hg'
    rw [hs]
    refine ((Kept.ws k.gr n _).mono (by simp) (by simp)).trans (Kept.wflags _ fun hsat _ => ?_)
    rw [intOnce, hsat]
    exact intLane_flags ..

theorem framed_isad {i : FnI} (hwf : WellFormed k.agent (.isad i) = true) : Framed s k (.isad i) i.d :=
  framed_clamp hk (exec_isad i s) rfl rfl fun g' hg' => by
    obtain ⟨n, hd⟩ := isV_some.1 (wellFormed_integer hwf rfl rfl)
    rw [isadGroup_eq, hd] at hg'
    obtain ⟨-, hg'⟩ := exists_of_bind_ok hg'
    obtain ⟨-, rfl⟩ := exists_of_map_ok hg'
    rw [hd]
    exact Kept.wout k.gr n _ (fun _ _ => rfl) (fun hsat _ => by rw [isadOut, hsat]; exact fitInt_flags _) _

theorem framed_icmp {i : FnI} (hwf : WellFormed k.agent (.icmp i) = true) : Framed s k (.icmp i) i.d :=
  framed_plain hk (exec_icmp i s) fun g' hg' => by
    rw [icmpGroup_eq] at hg'
    obtain ⟨-, rfl⟩ := exists_of_map_ok hg'
    exact Kept.wp_dest (isP_some.1 (wellFormed_integer hwf rfl rfl)) _

theorem framed_sel {i : FnI} (hwf : WellFormed k.agent (.sel i) = true) : Framed s k (.sel i) i.d :=
  framed_plain hk (exec_sel i s) fun g' hg' => by
    rw [selGroup_ok hg']
    exact Kept.wmove_dest (isV_some.1 (isV_of_isVw (wellFormed_integer hwf rfl rfl))) _ _ _

theorem framed_mov {i : FnI} (hwf : WellFormed k.agent (.mov i) = true) : Framed s k (.mov i) i.d :=
  framed_plain hk (execMov_group hk i) fun g' hg' => by
    rcases v_or_s (wellFormed_integer hwf rfl rfl) with ⟨n, hv⟩ | ⟨n, hs⟩
    · rw [movGroup_v k hv] at hg'
      cases hg'
      rw [hv]
      exact Kept.wmove ..
    · rw [movGroup_s k hs] at hg'
      cases hg'
      rw [hs]
      exact Kept.ws ..

theorem framed_lea {i : FnI} (hwf : WellFormed k.agent (.lea i) = true) : Framed s k (.lea i) i.d :=
  framed_plain hk (execLea_group hk i) fun g' hg' => by
    rcases v_or_s (wellFormed_integer hwf rfl rfl) with ⟨n, hv⟩ | ⟨n, hs⟩
    · rw [leaGroup_v k hv] at hg'
      obtain ⟨-, hg'⟩ := exists_of_bind_ok hg'
      obtain ⟨-, rfl⟩ := exists_of_map_ok hg'
      rw [hv]
      exact Kept.wv ..
    · rw [leaGroup_s k hs] at hg'
      obtain ⟨-, hg'⟩ := exists_of_bind_ok hg'
      obtain ⟨-, rfl⟩ := exists_of_map_ok hg'
      rw [hs]
      exact Kept.ws ..

/-! ## Row 0x3 -/

theorem framed_bcast {i : FnI} (hwf : WellFormed k.agent (.bcast i) = true) : Framed s k (.bcast i) i.d :=
  framed_plain hk (exec_bcast i s) fun g' hg' => by
    rw [bcastGroup_eq] at hg'
    obtain ⟨n, rfl⟩ := exists_of_map_ok hg'
    exact Kept.wmove_dest (isV_some.1 (isV_of_isVw (wellFormed_move hwf rfl rfl).1)) _ _ _

theorem framed_extract {i : FnI} (hwf : WellFormed k.agent (.extract i) = true) : Framed s k (.extract i) i.d :=
  framed_plain hk (exec_extract i s) fun g' hg' => by
    rw [extractGroup_eq] at hg'
    obtain ⟨-, hg'⟩ := exists_of_bind_ok hg'
    obtain ⟨n, rfl⟩ := exists_of_map_ok hg'
    exact Kept.ws_dest (isS_some.1 (wellFormed_move hwf rfl rfl).1) _

theorem framed_getid {i : FnI} (hwf : WellFormed k.agent (.getid i) = true) : Framed s k (.getid i) i.d := by
  have hd : (∃ n, i.d = .v n) ∨ ∃ n, i.d = .s n := by
    have hok : (if subF (fnView 0x0C3 i) ≤ 1 then isV (some i.d) else (isV (some i.d) || isS (some i.d))) = true :=
      (wellFormed_move hwf rfl rfl).1
    split at hok
    · exact Or.inl (isV_some.1 hok)
    · rw [Bool.or_eq_true] at hok
      exact hok.imp isV_some.1 isS_some.1
  refine framed_plain hk (exec_getid i s) fun g' hg' => ?_
  rcases hd with ⟨n, hv⟩ | ⟨n, hs⟩
  · simp only [hv, Except.ok.injEq] at hg'
    rw [hv, ← hg']
    exact Kept.wv ..
  · simp only [hs, Except.ok.injEq] at hg'
    rw [hs, ← hg']
    exact Kept.ws ..

theorem framed_ldk {i : FnI} (hwf : WellFormed k.agent (.ldk i) = true) : Framed s k (.ldk i) i.d :=
  framed_plain hk (exec_ldk i s) fun g' hg' => by
    rcases v_or_s (wellFormed_move hwf rfl rfl).1 with ⟨n, hv⟩ | ⟨n, hs⟩
    · simp only [hv, Except.ok.injEq] at hg'
      rw [hv, ← hg']
      exact Kept.wv ..
    · simp only [hs, Except.ok.injEq] at hg'
      rw [hs, ← hg']
      exact Kept.ws ..

/-- movp writes an s register in its form 5, a predicate in the others. -/
theorem framed_movp {i : FnI} (hwf : WellFormed k.agent (.movp i) = true) : Framed s k (.movp i) i.d := by
  obtain ⟨hd, hmod⟩ := wellFormed_move hwf rfl rfl
  have hsub : i.sub.toNat ≤ 6 := by
    have hok : (satF (fnView 0x0C5 i) == 0 && decide (subF (fnView 0x0C5 i) ≤ 6)) = true := hmod
    simp only [subF_fnView, Bool.and_eq_true, decide_eq_true_eq] at hok
    exact hok.2
  have hclass : (if i.sub.toNat = 5 then isS (some i.d) else isP (some i.d)) = true := by
    have hok : (if subF (fnView 0x0C5 i) = 5 then isS (some i.d) else if subF (fnView 0x0C5 i) ≤ 6 then isP (some i.d)
      else (isP (some i.d) || isS (some i.d))) = true := hd
    rwa [subF_fnView, if_pos hsub] at hok
  refine framed_plain hk (exec_movp i s) fun g' hg' => ?_
  split at hclass
  next hform =>
    simp only [hform, Except.ok.injEq] at hg'
    rw [← hg']
    exact Kept.ws_dest (isS_some.1 hclass) _
  next hform =>
    obtain ⟨x, hx⟩ := movpGroup_predicate i k hform
    cases hx.symm.trans (Except.ok.inj hg')
    exact Kept.wp_dest (isP_some.1 hclass) x

end

end Sys2Proof.Machine
end

section
/-!
The frame of rows 0x4 and 0x5 (14 R302-R325), and of every register instruction.
-/
namespace Sys2Proof.Machine

open Host (Outcome)

/-! ## What the meanings of rows 0x4 and 0x5 write -/

/-- The group with a lane-by-lane result in register d (13 R280, 14 R304). -/
def Iss.WritesLanes (k : Iss) (d : Operand) (g' : Group) : Prop :=
  ∃ wide out tag, g' = k.gr.wout d.idx wide k.e.mask out tag

section
variable {k : Iss} {g' : Group}

theorem elemGroup_ok {i : Slots} {tag rnd outTag : Nat} {readsD : Bool} {f : Nat → Nat → Nat → Nat → Nat × Nat}
    (h : elemGroup i tag rnd readsD f outTag k = .ok g') : k.WritesLanes i.d g' := by
  unfold elemGroup at h
  simp only at h
  split at h <;> cases h
  exact ⟨_, _, _, rfl⟩

theorem dotGroup_ok {n : Nat} {i : RdI} (h : dotGroup n i k = .ok g') : k.WritesLanes i.d g' := by
  unfold dotGroup at h
  simp only at h
  split at h
  · cases h
  · split at h <;> cases h
    exact ⟨_, _, _, rfl⟩

/-- fcmp writes a predicate and flags. -/
theorem fcmpGroup_ok {i : FnI} (h : fcmpGroup i k = .ok g') :
    ∃ x flags, g' = (k.gr.wp i.d.idx k.e.mask x).wflags k.e.mask flags := by
  unfold fcmpGroup at h
  simp only at h
  split at h <;> cases h
  exact ⟨_, _, rfl⟩

theorem packGroup_ok {i : RdI} (h : packGroup i k = .ok g') : k.WritesLanes i.d g' := by
  unfold packGroup at h
  simp only at h
  split at h
  · cases h
  · split at h <;> cases h
    exact ⟨_, _, _, rfl⟩

theorem unpkGroup_ok {i : RdI} (h : unpkGroup i k = .ok g') : k.WritesLanes i.d g' := by
  unfold unpkGroup at h
  simp only at h
  split at h <;> cases h
  exact ⟨_, _, _, rfl⟩

theorem scaleGroup_ok {i : RdI} {src rnd : Nat} {f : Nat → Nat → Nat × Nat} (h : scaleGroup i src rnd f k = .ok g') :
    k.WritesLanes i.d g' := by
  unfold scaleGroup at h
  simp only at h
  split at h <;> cases h
  exact ⟨_, _, _, rfl⟩

theorem satGroup_ok {i : RdI} (h : satGroup i k = .ok g') : k.WritesLanes i.d g' := by
  unfold satGroup at h
  simp only at h
  split at h
  · cases h
  · split at h <;> cases h
    exact ⟨_, _, _, rfl⟩

end

theorem not_tile_of_dest {o d : Operand} (h : (if o.isM then none else some o) = some d) : o.isM = false ∧ o = d := by
  split at h
  · cases h
  next hreg => exact ⟨Bool.eq_false_iff.2 hreg, Option.some.inj h⟩

section
variable {s : State} {k : Iss} (hk : s.issuer = some k)
include hk

/-! ## Rows 0x4 and 0x5 -/

/-- An instruction of row 0x4 or 0x5 with a lane-by-lane result in a v register. -/
theorem framed_lanes {i : Instr} {op opc md : Nat} {sl : Slots} {ls : List Nat × List Nat} {f : Iss → Except Bail Group}
    (hr : rawOfInstr i = some (plRaw op sl md)) (hrow : op / 64 = 4 ∨ op / 64 = 5) (hd : isV (some sl.d) = true)
    (hrun : exec i s = runG opc s sl ls f) (hf : ∀ g', f k = .ok g' → k.WritesLanes sl.d g') : Framed s k i sl.d :=
  framed_float hk hrun (floatRow_of hr hrow) fun g' hg' => by
    obtain ⟨wide, out, tag, rfl⟩ := hf g' hg'
    exact Kept.wout_dest (isV_some.1 hd) wide out tag

/-- One of row 0x4 that works element by element. -/
theorem framed_elem {i : Instr} {op opc md : Nat} {sl : Slots} {ls : List Nat × List Nat} {tag rnd outTag : Nat} {readsD : Bool}
    {f : Nat → Nat → Nat → Nat → Nat × Nat} (hwf : WellFormed k.agent i = true) (hr : rawOfInstr i = some (plRaw op sl md))
    (hrow : op / 64 = 4) (hrun : exec i s = runG opc s sl ls (elemGroup sl tag rnd readsD f outTag))
    (hd : ∀ a b, (chkFloat (plRaw op sl md) (some sl.d) a b).dOk = isV (some sl.d)) : Framed s k i sl.d :=
  framed_lanes hk hr (Or.inl hrow) ((hd _ _).symm.trans (wellFormed_float hwf hr hrow)) hrun fun _ => elemGroup_ok

theorem framed_fcmp {i : FnI} (hwf : WellFormed k.agent (.fcmp i) = true) : Framed s k (.fcmp i) i.d :=
  framed_float hk (exec_fcmp i s) (floatRow_of rfl (Or.inl rfl)) fun g' hg' => by
    obtain ⟨x, flags, rfl⟩ := fcmpGroup_ok hg'
    have hpred := Kept.wp_dest (m := k.e.mask) (g := k.gr) (isP_some.1 (wellFormed_float hwf rfl rfl)) x
    have hflags := Kept.wflags (m := k.e.mask) (d := i.d) (flags := true) (k.gr.wp i.d.idx k.e.mask x) (f := flags) (by simp)
    exact (hpred.mono (by simp) (by simp)).trans (hflags.mono (by simp) (by simp))

/-- A cvt into a v register; the group is read where it is written. -/
theorem framed_cvt {i : RdI} (hreg : i.d.isM = false) (hwf : WellFormed k.agent (.cvt i) = true) : Framed s k (.cvt i) i.d := by
  have hd := v_of_vw_or_m (wellFormed_convert hwf rfl rfl) hreg
  refine framed_runS hk (exec_cvt i s) fun s' hs' => ?_
  simp only [hreg, Bool.false_eq_true, if_false] at hs'
  split at hs' <;> cases hs'
  exact ⟨_, rfl, (Kept.wout_dest hd _ _ _).mono (fun _ => floatRow_of rfl (Or.inr rfl)) (fun _ => by
    rw [floatRow_of (i := .cvt i) rfl (Or.inr rfl)]
    rfl)⟩

theorem framed_tagrd {i : FnI} (hwf : WellFormed k.agent (.tagrd i) = true) : Framed s k (.tagrd i) i.d :=
  framed_s hk (exec_tagrd i s) (wellFormed_convert hwf rfl rfl) rfl

/-- A tagset on a v register writes tags alone. -/
theorem framed_tagset {i : FnI} (hreg : i.d.isM = false) (hwf : WellFormed k.agent (.tagset i) = true) :
    Framed s k (.tagset i) i.d := by
  have hd := v_of_vw_or_m (wellFormed_convert hwf rfl rfl) hreg
  refine framed_runS hk (exec_tagset i s) fun s' hs' => ?_
  split at hs'
  next n hm => rw [hm] at hreg; cases hreg
  next =>
    cases hs'
    have hlow := Kept.setTag_dest (m := k.e.mask) (g := k.gr) hd (Or.inl rfl) (i.imm.toNat % 256)
    refine ⟨_, rfl, Kept.mono (by simp) (by simp) (?_ : Kept k.e.mask i.d false false k.gr _)⟩
    split
    · exact hlow.trans (Kept.setTag_dest hd (Or.inr rfl) _)
    · exact hlow

/-! ## Every register instruction -/

/-- A well-formed register instruction keeps the frame. -/
theorem framed_of_registerOnly {i : Instr} {d : Operand} (h : registerOnly i = some d) (hwf : WellFormed k.agent i = true) :
    Framed s k i d := by
  cases i
  case nop => cases h; exact framed_nop hk _
  case vclk => cases h; exact framed_vclk hk hwf
  case idem => cases h; exact framed_idem hk hwf
  case rdctx => cases h; exact framed_rdctx hk hwf
  case vote => cases h; exact framed_vote hk hwf
  case shfl => cases h; exact framed_shfl hk hwf
  case actmask => cases h; exact framed_actmask hk hwf
  case cvtest => cases h; exact framed_cvtest hk hwf
  case iadd => cases h; exact framed_intInstrOf hk .add hwf
  case isub => cases h; exact framed_intInstrOf hk .sub hwf
  case imul => cases h; exact framed_intInstrOf hk .mul hwf
  case imulh => cases h; exact framed_intInstrOf hk .mulh hwf
  case imad => cases h; exact framed_intInstrOf hk .mad hwf
  case idiv => cases h; exact framed_intInstrOf hk .div hwf
  case irem => cases h; exact framed_intInstrOf hk .rem hwf
  case imin => cases h; exact framed_intInstrOf hk .min hwf
  case imax => cases h; exact framed_intInstrOf hk .max hwf
  case iabs => cases h; exact framed_intInstrOf hk .abs hwf
  case ineg => cases h; exact framed_intInstrOf hk .neg hwf
  case and => cases h; exact framed_intInstrOf hk .and hwf
  case or => cases h; exact framed_intInstrOf hk .or hwf
  case xor => cases h; exact framed_intInstrOf hk .xor hwf
  case not => cases h; exact framed_intInstrOf hk .not hwf
  case shl => cases h; exact framed_intInstrOf hk .shl hwf
  case shr => cases h; exact framed_intInstrOf hk .shr hwf
  case sar => cases h; exact framed_intInstrOf hk .sar hwf
  case rotl => cases h; exact framed_intInstrOf hk .rotl hwf
  case popc => cases h; exact framed_intInstrOf hk .popc hwf
  case clz => cases h; exact framed_intInstrOf hk .clz hwf
  case brev => cases h; exact framed_intInstrOf hk .brev hwf
  case bfx => cases h; exact framed_intInstrOf hk .bfx hwf
  case bfi => cases h; exact framed_intInstrOf hk .bfi hwf
  case icmp => cases h; exact framed_icmp hk hwf
  case sel => cases h; exact framed_sel hk hwf
  case mov => cases h; exact framed_mov hk hwf
  case lea => cases h; exact framed_lea hk hwf
  case sadd => cases h; exact framed_intInstrOf hk .sadd hwf
  case isad => cases h; exact framed_isad hk hwf
  case bcast => cases h; exact framed_bcast hk hwf
  case extract => cases h; exact framed_extract hk hwf
  case getid => cases h; exact framed_getid hk hwf
  case ldk => cases h; exact framed_ldk hk hwf
  case movp => cases h; exact framed_movp hk hwf
  case fadd => cases h; exact framed_elem hk hwf rfl rfl (exec_fadd ..) fun _ _ => rfl
  case fsub => cases h; exact framed_elem hk hwf rfl rfl (exec_fsub ..) fun _ _ => rfl
  case fmul => cases h; exact framed_elem hk hwf rfl rfl (exec_fmul ..) fun _ _ => rfl
  case ffma => cases h; exact framed_elem hk hwf rfl rfl (exec_ffma ..) fun _ _ => rfl
  case fmin => cases h; exact framed_elem hk hwf rfl rfl (exec_fmin ..) fun _ _ => rfl
  case fmax => cases h; exact framed_elem hk hwf rfl rfl (exec_fmax ..) fun _ _ => rfl
  case fabs => cases h; exact framed_elem hk hwf rfl rfl (exec_fabs ..) fun _ _ => rfl
  case fneg => cases h; exact framed_elem hk hwf rfl rfl (exec_fneg ..) fun _ _ => rfl
  case fcmp => cases h; exact framed_fcmp hk hwf
  case frcp => cases h; exact framed_elem hk hwf rfl rfl (exec_frcp ..) fun _ _ => rfl
  case frsq => cases h; exact framed_elem hk hwf rfl rfl (exec_frsq ..) fun _ _ => rfl
  case fsqrt => cases h; exact framed_elem hk hwf rfl rfl (exec_fsqrt ..) fun _ _ => rfl
  case fexp2 => cases h; exact framed_elem hk hwf rfl rfl (exec_fexp2 ..) fun _ _ => rfl
  case flog2 => cases h; exact framed_elem hk hwf rfl rfl (exec_flog2 ..) fun _ _ => rfl
  case fsin => cases h; exact framed_elem hk hwf rfl rfl (exec_fsin ..) fun _ _ => rfl
  case fcos => cases h; exact framed_elem hk hwf rfl rfl (exec_fcos ..) fun _ _ => rfl
  case ftanh => cases h; exact framed_elem hk hwf rfl rfl (exec_ftanh ..) fun _ _ => rfl
  case fdiv => cases h; exact framed_elem hk hwf rfl rfl (exec_fdiv ..) fun _ _ => rfl
  case ffloor => cases h; exact framed_elem hk hwf rfl rfl (exec_ffloor ..) fun _ _ => rfl
  case fround => cases h; exact framed_elem hk hwf rfl rfl (exec_fround ..) fun _ _ => rfl
  case fclass => cases h; exact framed_elem hk hwf rfl rfl (exec_fclass ..) fun _ _ => rfl
  case fdot2 =>
    cases h
    exact framed_lanes hk rfl (Or.inl rfl) (wellFormed_float hwf rfl rfl) (exec_fdot2 ..) fun _ => dotGroup_ok
  case fdot4 =>
    cases h
    exact framed_lanes hk rfl (Or.inl rfl) (wellFormed_float hwf rfl rfl) (exec_fdot4 ..) fun _ => dotGroup_ok
  case pack =>
    cases h
    exact framed_lanes hk rfl (Or.inr rfl) (isV_of_isVw (wellFormed_convert hwf rfl rfl)) (exec_pack ..) fun _ => packGroup_ok
  case unpk =>
    cases h
    exact framed_lanes hk rfl (Or.inr rfl) (isV_of_isVw (wellFormed_convert hwf rfl rfl)) (exec_unpk ..) fun _ => unpkGroup_ok
  case scl =>
    cases h
    exact framed_lanes hk rfl (Or.inr rfl) (wellFormed_convert hwf rfl rfl) (exec_scl ..) fun _ => scaleGroup_ok
  case sclf =>
    cases h
    exact framed_lanes hk rfl (Or.inr rfl) (wellFormed_convert hwf rfl rfl) (exec_sclf ..) fun _ => scaleGroup_ok
  case tagrd => cases h; exact framed_tagrd hk hwf
  case sat =>
    cases h
    exact framed_lanes hk rfl (Or.inr rfl) (isV_of_isVw (wellFormed_convert hwf rfl rfl)) (exec_sat ..) fun _ => satGroup_ok
  case cvt =>
    obtain ⟨hreg, rfl⟩ := not_tile_of_dest h
    exact framed_cvt hk hreg hwf
  case tagset =>
    obtain ⟨hreg, rfl⟩ := not_tile_of_dest h
    exact framed_tagset hk hreg hwf
  all_goals cases h

end

end Sys2Proof.Machine
end

section
/-!
The frame of the register instructions: what keeps the frame, run to its end and moved on.
-/
namespace Sys2Proof.Machine

/-- Settles O49: an instruction that completed ran its meaning, which wrote its destination alone (05 R110), with seeds and flags
under the rows that may change them; what moves the group on reads none of the registers. -/
theorem frameRegisterOnly : Obligations.FrameRegisterOnly := by
  intro s s1 k i d g1 honly hk herrs hwf hexec hg htrapq hhalted hhold
  obtain ⟨op, sl, ls, f, hrun, hframe⟩ := framed_of_registerOnly hk honly hwf
  obtain ⟨s', hmeaning, rfl⟩ := runS_completed hk herrs (hrun.symm.trans hexec) hg ⟨htrapq, hhalted, hhold⟩
  obtain ⟨hgroup, g', hg', hkept⟩ := hframe s' hmeaning
  obtain ⟨hgroups, hretired⟩ := onlyGroup_readRegs_retire herrs hgroup hg' ls sl.hint
  obtain rfl := Option.some.inj (hretired.symm.trans hg)
  have hapart {α : Type} (field : Group → α) : field g'.apart = field k.gr.apart := congrArg field hkept.apart
  exact ⟨hgroups, hkept.rv, hkept.rtag, hkept.rs, hkept.rp, hapart Group.calls, hapart Group.spill, hapart Group.alarms,
    hapart Group.phase, hapart Group.ops, hapart Group.lq, hapart Group.sb, hapart Group.pend, hapart Group.trapcause, rfl,
    fun l _ => hkept.seed l, fun l _ => ⟨hkept.gains l, fun h => hkept.fflags l (h.imp_left fun ⟨hfloat, hclamp⟩ => by
      rw [hfloat, hclamp]
      rfl)⟩⟩

end Sys2Proof.Machine
end

section
/-! The worked encodings of the spec (12 to 18). -/
namespace Sys2Proof.Machine

/-- Settles O40: each word is decoded by evaluation. -/
theorem decodesWords : Obligations.DecodesWords := by
  refine ⟨?_, ?_, ?_, ?_, ?_, ?_, ?_, ?_, ?_⟩ <;> decide

end Sys2Proof.Machine
end

section
/-! Row 0x0: what the reads of clocks, contexts, alarms and trap records write (18 R403, R406-R412). -/
namespace Sys2Proof.Machine

open Host (Outcome)

/-! ## Alarm slots -/

theorem Group.alarm_setAlarm (g : Group) (n m : Nat) (a : Alarm) :
    (g.setAlarm n a).alarm m = if m = n then a else g.alarm m := by
  simp [Group.alarm, Group.setAlarm, SMap.get_set]

/-- A slot as alcan leaves it. -/
def Alarm.cancelled (a : Alarm) : Alarm := { a with armed := false, expired := false }

/-- Cancelling twice is cancelling once, so a slot that the mask names is cancelled wherever it stands in the list. -/
theorem Group.alarm_foldl_cancelled (p : Nat → Bool) (ns : List Nat) (g : Group) (m : Nat) :
    (ns.foldl (fun g n => if p n then g.setAlarm n (g.alarm n).cancelled else g) g).alarm m
      = if m ∈ ns ∧ p m = true then (g.alarm m).cancelled else g.alarm m := by
  induction ns generalizing g with
  | nil => simp
  | cons n ns ih =>
    rw [List.foldl_cons, ih]
    by_cases hm : m = n
    · subst hm
      cases hp : p m <;> simp [Group.alarm_setAlarm, Alarm.cancelled]
    · cases hp : p n <;> simp [Group.alarm_setAlarm, hm]

/-- The slot that alwait completes on: the first of those it names that has expired. -/
def Iss.expiredSlot (k : Iss) (i : Slots) : Option Nat :=
  ((List.range 4).filter fun n => bit i.imm.toNat n).find? fun n => (k.gr.alarm n).expired

theorem Iss.expiredSlot_some {k : Iss} {i : Slots} {n : Nat} (hn : n < 4) (hb : i.imm.getLsbD n = true)
    (he : (k.gr.alarm n).expired = true)
    (hlt : ∀ m < n, i.imm.getLsbD m = true → (k.gr.alarm m).expired = false) : k.expiredSlot i = some n := by
  simp only [Iss.expiredSlot, List.find?_filter, List.find?_range_eq_some, bit_toNat, List.mem_range]
  refine ⟨by simp [hb, he], hn, fun m hm => ?_⟩
  cases hi : i.imm.getLsbD m with
  | false => simp
  | true => simp [hlt m hm hi]

theorem Iss.expiredSlot_none {k : Iss} {i : Slots} (h : ∀ n < 4, i.imm.getLsbD n = true → (k.gr.alarm n).expired = false) :
    k.expiredSlot i = none := by
  simp only [Iss.expiredSlot, List.find?_eq_none, List.mem_filter, List.mem_range, bit_toNat]
  rintro n ⟨hn, hb⟩
  simp [h n hn hb]

theorem Iss.allUnarmed_iff (k : Iss) (i : Slots) :
    (((List.range 4).filter fun n => bit i.imm.toNat n).all fun n => !(k.gr.alarm n).armed) = true
      ↔ ∀ n < 4, i.imm.getLsbD n = true → (k.gr.alarm n).armed = false := by
  simp only [List.all_eq_true, List.mem_filter, List.mem_range, bit_toNat, Bool.not_eq_true', and_imp]

/-- A group that holds nothing waits for nothing. -/
theorem Iss.waiting_none {k : Iss} (h : k.gr.hold = none) (n : Nat) : k.waiting n = none := by
  simp [Iss.waiting, h]

theorem Iss.waiting_some {k : Iss} {h : Hold} (hh : k.gr.hold = some h) (hs : h.started = true) : k.waiting h.why = some h := by
  simp [Iss.waiting, hh, hs]

/-! ## The instructions -/

theorem idem_run {s : State} {k : Iss} {i : Slots} (h : Ready s k 0x00F (linesOf i false 0)) :
    IssuesGroup (execIdem i s) s k i.hint (k.gr.ws i.d.idx (if k.t.idem && !k.t.mast then 1 else 0)) :=
  runG_ok h i rfl

theorem vclk_run {s : State} {k : Iss} {i : Slots} (h : Ready s k 0x008 (linesOf i false 0)) :
    IssuesGroup (execVclk i s) s k i.hint
      (k.gr.ws i.d.idx (if i.imm.getLsbD 0 then s.vclk k.t.part k.t.ctx >>> 16 else s.vclk k.t.part k.t.ctx)) :=
  runG_ok h i (by rw [bit_toNat])

theorem rdctx_run {s : State} {k : Iss} {i : Slots} (h : Ready s k 0x010 (linesOf i false 0)) :
    ∃ x, IssuesGroup (execRdctx i s) s k i.hint (k.gr.ws i.d.idx x)
      ∧ (i.imm = 0 → x = BitVec.ofNat 64 k.t.ctx) ∧ (i.imm = 1 → x = BitVec.ofNat 64 k.t.part)
      ∧ (i.imm = 2 → x = BitVec.ofNat 64 k.t.comp) ∧ (i.imm = 3 → x = (s.ctx k.t.part k.t.ctx).gen.setWidth 64)
      ∧ (i.imm = 5 → x = (s.part k.t.part).epoch.setWidth 64) := by
  refine ⟨_, runG_ok h i rfl, ?_, ?_, ?_, ?_, ?_⟩ <;> (intro e; rw [e]; rfl)

theorem alarm_run {s : State} {k : Iss} {i : Slots} (h : Ready s k 0x009 (linesOf i false 0)) (n : BitVec 6) (ha : i.a = .s n) :
    IssuesGroup (execAlarm i s) s k i.hint (k.gr.setAlarm (i.imm.toNat % 4) ⟨true, false,
      if i.imm.getLsbD 2 then
        BitVec.ofNat 64 (min ((s.vclk k.t.part k.t.ctx).toNat + (k.gr.rs n.toNat).toNat) (2 ^ 64 - 1))
      else k.gr.rs n.toNat⟩) := by
  refine runG_ok h i ?_
  rw [ha, show k.gr.uni (.s n) 0 = (k.gr.rs n.toNat).toNat from rfl, bit_toNat]
  cases i.imm.getLsbD 2 with
  | true => rfl
  | false => simp

theorem alcan_run {s : State} {k : Iss} {i : Slots} (h : Ready s k 0x00B ([], [])) :
    ∃ g1, IssuesGroup (execAlcan i s) s k i.hint g1
      ∧ ∀ n < 4, g1.alarm n = if i.imm.getLsbD n then { k.gr.alarm n with armed := false, expired := false } else k.gr.alarm n := by
  refine ⟨_, runG_ok h i rfl, fun n hn => ?_⟩
  refine (Group.alarm_foldl_cancelled (fun n => bit i.imm.toNat n) _ _ _).trans ?_
  simp [bit_toNat, hn, Alarm.cancelled]

theorem alwait_expired {s : State} {k : Iss} {i : Slots} (h : Ready s k 0x00A (linesOf i false 0)) {n : Nat}
    (hx : k.expiredSlot i = some n) :
    IssuesGroup (execAlwait i s) s k i.hint
      ((k.gr.setAlarm n { k.gr.alarm n with armed := false, expired := false }).ws i.d.idx (BitVec.ofNat 64 n)) := by
  unfold Iss.expiredSlot at hx
  exact runG_ok h i (by simp only [hx])

theorem alwait_timedOut {s : State} {k : Iss} {i : Slots} (h : Ready s k 0x00A (linesOf i false 0)) (hx : k.expiredSlot i = none)
    {o : Hold} (hw : k.waiting 10 = some o) (ht : o.timedOut = true) :
    IssuesGroup (execAlwait i s) s k i.hint (k.gr.ws i.d.idx 4) := by
  unfold Iss.expiredSlot at hx
  exact runG_ok h i (by simp only [hx, hw, ht, if_true])

theorem alwait_none {s : State} {k : Iss} {i : Slots} (h : Ready s k 0x00A (linesOf i false 0)) (hx : k.expiredSlot i = none)
    (hw : k.waiting 10 = none) (hb : i.b = .nil) (ha : ∀ n < 4, i.imm.getLsbD n = true → (k.gr.alarm n).armed = false) :
    IssuesGroup (execAlwait i s) s k i.hint (k.gr.ws i.d.idx 5) := by
  have hall := (k.allUnarmed_iff i).2 ha
  unfold Iss.expiredSlot at hx
  exact runG_ok h i (by simp only [hx, hw, hall, hb]; rfl)

theorem alwait_waits {s : State} {k : Iss} {i : Slots} (h : Ready s k 0x00A (linesOf i false 0)) (hx : k.expiredSlot i = none)
    (hw : k.waiting 10 = none) (hb : i.b.isNil = false ∨ ∃ n < 4, i.imm.getLsbD n = true ∧ (k.gr.alarm n).armed = true) :
    ∃ o, o.why = 10 ∧ execAlwait i s = .next (s.bail k (.hold o)) := by
  have hc : ¬ ((((List.range 4).filter fun n => bit i.imm.toNat n).all fun n => !(k.gr.alarm n).armed) && i.b.isNil) = true := by
    rw [Bool.and_eq_true, k.allUnarmed_iff]
    rintro ⟨hall, hnil⟩
    rcases hb with hb | ⟨n, hn, hi, ha⟩
    · simp [hb] at hnil
    · simp [hall n hn hi] at ha
  unfold Iss.expiredSlot at hx
  refine ⟨{ Hold.wait 10 with started := true, deadline := if i.b.isNil then none else s.deadline k.t (k.gr.uni i.b 0) }, rfl,
    runG_bail h i ?_⟩
  simp only [hx, hw, if_neg hc]

theorem tqrd_run {s : State} {k : Iss} {i : Slots} (h : Ready s k 0x005 (linesOf i false 7)) :
    ∃ g1, IssuesGroup (execTqrd i s) s k i.hint g1
      ∧ (∀ r q, k.gr.handler.isSome = true → k.gr.trapq = r :: q → ∀ j < 8, g1.rs (i.d.idx + j) = BitVec.ofNat 64 (r.words.getD j 0))
      ∧ ((k.gr.handler = none ∨ k.gr.trapq = []) → ∀ j < 8, g1.rs (i.d.idx + j) = 0) := by
  refine ⟨_, runG_ok h i rfl, fun r q hh hq j hj => ?_, fun hn j hj => ?_⟩
  · rw [Group.rs_ws8 _ _ _ _ hj, if_pos hh, hq]
  · rw [Group.rs_ws8 _ _ _ _ hj]
    rcases hn with hn | hn <;> simp [hn]

/-- Settles O1: each instruction changes its group alone, and alwait goes by the first slot of its mask that has expired. -/
theorem systemReads : Obligations.SystemReads := by
  intro s k i
  refine ⟨vclk_run, idem_run, rdctx_run, fun h n ha => alarm_run h n ha, alcan_run, ?_, ?_, tqrd_run⟩
  · exact fun h n hn hb he hlt => alwait_expired h (Iss.expiredSlot_some hn hb he hlt)
  · intro h hx
    have hx := Iss.expiredSlot_none hx
    refine ⟨fun o ho hs hw ht => ?_, fun hh hb ha => ?_, fun hh hb => ?_⟩
    · exact alwait_timedOut h hx (hw ▸ Iss.waiting_some ho hs) ht
    · exact alwait_none h hx (Iss.waiting_none hh 10) hb ha
    · exact alwait_waits h hx (Iss.waiting_none hh 10) hb

end Sys2Proof.Machine
end

section
/-!
Rows 0x4 and 0x5 in register form (14 R307-R325): an instruction whose sources are under the tags that it names writes each lane
with the value of its lane function; for fabs and fneg of binary32 that value is worked out here.
-/
namespace Sys2Proof.Machine

open Host (Outcome)

/-! ## Lane-by-lane instructions -/

theorem issuesGroup_wout {s : State} {k : Iss} {op : Nat} {ls : List Nat × List Nat} (h : Ready s k op ls) (sl : Slots)
    {f : Iss → Except Bail Group} {n : Nat} {wide : Bool} {r : Nat → LaneOut} {tag : Nat} (htag : tag < 256)
    (hf : f k = .ok (k.gr.wout n wide k.e.mask r tag)) :
    ∃ g1, IssuesGroup (runG op s sl ls f) s k sl.hint g1 ∧ LaneResult k.gr g1 n wide k.e.mask (fun l => (r l).val) tag :=
  ⟨_, runG_ok h sl hf, laneResult_wout _ _ _ _ _ _ htag⟩

section
variable {s : State} {k : Iss} {i : Slots} {d : BitVec 8} (hd : i.d = .v d)
include hd

/-- An element-by-element instruction of row 0x4. -/
theorem elemGroup_run {op : Nat} (h : Ready s k op (linesOf i false 0)) {tag : Nat} {readsD : Bool}
    (htags : k.gr.checkTags i.a i.b i.d tag false readsD = .ok ()) (rnd : Nat) (f : Nat → Nat → Nat → Nat → Nat × Nat)
    {outTag : Nat} (hout : outTag < 256) :
    ∃ g1, IssuesGroup (runG op s i (linesOf i false 0) (elemGroup i tag rnd readsD f outTag)) s k i.hint g1
      ∧ LaneResult k.gr g1 d.toNat false k.e.mask (floatLane k i tag rnd f) outTag := by
  have hn : i.d.idx = d.toNat := by rw [hd]; rfl
  rw [← hn]
  exact issuesGroup_wout h i hout (by simp only [elemGroup, htags])

end

theorem tyTag_lt (ty : Ty) : 16 * tyCode ty < 256 := by
  cases ty <;> decide

/-- Settles O12: each is an element-by-element instruction. -/
theorem floatArithmetic : Obligations.FloatArithmetic := by
  intro s k i d hd
  refine ⟨fun op h htags => ?_, fun fn opc con hrow h htags => ?_, fun h htags => ?_⟩
  · cases op <;> exact elemGroup_run hd h htags _ _ (tyTag_lt i.ty)
  · simp only [elementaryOf, List.mem_cons, List.not_mem_nil, or_false, Prod.mk.injEq] at hrow
    obtain ⟨rfl, rfl, rfl⟩ | ⟨rfl, rfl, rfl⟩ | ⟨rfl, rfl, rfl⟩ | ⟨rfl, rfl, rfl⟩ | ⟨rfl, rfl, rfl⟩ | ⟨rfl, rfl, rfl⟩ |
      ⟨rfl, rfl, rfl⟩ | ⟨rfl, rfl, rfl⟩ := hrow <;> exact elemGroup_run hd h htags _ _ (tyTag_lt i.ty)
  · exact elemGroup_run hd h htags _ _ (tyTag_lt i.ty)

/-! ## Sign operations on binary32 (14 R310) -/

/-- A code whose magnitude is at most that of an infinity is no NaN. -/
theorem fdecode_binary32_isNan {x : Nat} (h : x % 2 ^ 31 ≤ 0x7F800000) (hx : x < 2 ^ 32) :
    (fdecode (fmtOf 0x80) x).isNan = false := by
  have hc : x % 2 ^ 32 = x := Nat.mod_eq_of_lt hx
  simp only [fdecode, show fmtOf 0x80 = ⟨32, true, 8, 23, 127, true, true⟩ from rfl, hc, if_true]
  split
  · rw [if_pos (by omega)]
    rfl
  · split <;> rfl

theorem signElem_binary32 (neg : Bool) {x : Nat} (h : x % 2 ^ 31 ≤ 0x7F800000) (hx : x < 2 ^ 32) :
    (signElem neg 0x80 x).1 = if neg && !(bit x 31) then x % 2 ^ 31 + 2 ^ 31 else x % 2 ^ 31 := by
  unfold signElem
  dsimp only
  rw [fdecode_binary32_isNan h hx, if_neg Bool.false_ne_true, show (fmtOf 0x80).w - 1 = 31 from rfl, apply_ite Prod.fst]

/-- The one element of a binary32 lane. -/
theorem floatLane_binary32 (k : Iss) (i : Slots) (f : Nat → Nat × Nat) {a : BitVec 8} (ha : i.a = .v a) (l : Nat) :
    floatLane k i 0x80 0 (fun x _ _ _ => f x) l = (f (k.gr.rv a.toNat l).toNat).1 % 2 ^ 32 := by
  have hx : elemAt (tagWidth 0x80) (k.gr.rv a.toNat l).toNat 0 = (k.gr.rv a.toNat l).toNat := by
    simp [elemAt, show tagWidth 0x80 = 32 from rfl, Nat.mod_eq_of_lt (k.gr.rv a.toNat l).isLt]
  unfold floatLane
  rw [ha, show k.gr.src (.v a) 0x80 false i.imm.toNat l = (k.gr.rv a.toNat l).toNat from rfl]
  simp only [laneElems, show tagElems 0x80 = 1 from rfl, drawElems, hx]
  rfl

theorem toNat_and_magnitude (x : W32) : (x &&& 0x7FFFFFFF).toNat = x.toNat % 2 ^ 31 := by
  rw [BitVec.toNat_and]
  exact Nat.and_two_pow_sub_one_eq_mod x.toNat 31

theorem ofNat_cleared_sign (x : W32) : BitVec.ofNat 32 (x.toNat % 2 ^ 31 % 2 ^ 32) = x &&& 0x7FFFFFFF := by
  rw [← toNat_and_magnitude, Nat.mod_eq_of_lt (x &&& 0x7FFFFFFF).isLt, BitVec.ofNat_toNat, BitVec.setWidth_eq]

/-- Inverting the sign bit changes bit 31 alone. -/
theorem ofNat_inverted_sign (x : W32) :
    BitVec.ofNat 32 ((if !(bit x.toNat 31) then x.toNat % 2 ^ 31 + 2 ^ 31 else x.toNat % 2 ^ 31) % 2 ^ 32) = x ^^^ 0x80000000 := by
  refine BitVec.eq_of_getLsbD_eq fun j hj => ?_
  have hsign : (0x80000000 : W32) = BitVec.twoPow 32 31 := rfl
  rw [BitVec.getLsbD_ofNat, Nat.testBit_mod_two_pow, BitVec.getLsbD_xor, hsign, BitVec.getLsbD_twoPow, bit_toNat]
  have hmag : (x.toNat % 2 ^ 31).testBit j = (decide (j < 31) && x.getLsbD j) := Nat.testBit_mod_two_pow ..
  rcases Nat.lt_or_ge j 31 with hlow | htop
  · have hset : (x.toNat % 2 ^ 31 + 2 ^ 31).testBit j = x.getLsbD j := by
      rw [Nat.add_comm, Nat.testBit_two_pow_add_gt hlow, hmag, decide_eq_true hlow, Bool.true_and]
    rw [apply_ite (Nat.testBit · j), hset, hmag]
    simp [hj, hlow, show ¬ 31 = j by omega]
  · obtain rfl : j = 31 := by omega
    rw [apply_ite (Nat.testBit · 31), Nat.add_comm, Nat.testBit_two_pow_add_eq, hmag]
    cases x.getLsbD 31 <;> rfl

/-! ## Rows 0x4: the others -/

section
variable {s : State} {k : Iss} {i : FnI} {d : BitVec 8} (hd : i.d = .v d)
  (htags : k.gr.checkTags i.a i.b i.d (16 * tyCode i.ty) false false = .ok ())
include hd htags

/-- fabs (neg false) and fneg. -/
theorem sign_run (neg : Bool) {op : Nat} (h : Ready s k op (linesOf i.toSlots false 0)) :
    ∃ g1, IssuesGroup (runG op s i.toSlots (linesOf i.toSlots false 0)
        (elemGroup i.toSlots (16 * tyCode i.ty) 0 false (fun a _ _ _ => signElem neg (16 * tyCode i.ty) a) (16 * tyCode i.ty)))
        s k i.hint g1
      ∧ LaneResult k.gr g1 d.toNat false k.e.mask (floatLane k i.toSlots (16 * tyCode i.ty) 0
          fun a _ _ _ => signElem neg (16 * tyCode i.ty) a) (16 * tyCode i.ty)
      ∧ ∀ a, i.ty = .f32 → i.a = .v a →
        ∀ l < 32, k.e.mask.getLsbD l = true → (k.gr.rv a.toNat l &&& 0x7FFFFFFF).toNat ≤ 0x7F800000 →
        g1.rv d.toNat l = if neg then k.gr.rv a.toNat l ^^^ 0x80000000 else k.gr.rv a.toNat l &&& 0x7FFFFFFF := by
  obtain ⟨g1, hrun, hres⟩ := elemGroup_run hd h htags 0 (fun a _ _ _ => signElem neg (16 * tyCode i.ty) a) (tyTag_lt i.ty)
  refine ⟨g1, hrun, hres, fun a hty ha l hl hact hmag => ?_⟩
  obtain ⟨hrv, -⟩ := hres
  have htag : 16 * tyCode i.ty = 0x80 := by rw [hty]; rfl
  rw [toNat_and_magnitude] at hmag
  rw [hrv d.toNat l hl, if_pos ⟨hact, rfl⟩, htag, floatLane_binary32 k i.toSlots _ ha, signElem_binary32 neg hmag (BitVec.isLt _)]
  cases neg
  · exact ofNat_cleared_sign _
  · exact ofNat_inverted_sign _

end

theorem fcmpGroup_lanes {k : Iss} {j : FnI} (htags : k.gr.checkTags j.a j.b .nil (16 * tyCode j.ty) false false = .ok ()) :
    ∃ x flags, fcmpGroup j k = .ok ((k.gr.wp j.d.idx k.e.mask x).wflags k.e.mask flags) ∧ x = maskWhere k.e.mask fun l =>
      (fcmpElem j.sub.toNat (fdecode (fmtOf (16 * tyCode j.ty)) (k.gr.src j.a (16 * tyCode j.ty) false j.imm.toNat l))
        (fdecode (fmtOf (16 * tyCode j.ty)) (k.gr.src j.b (16 * tyCode j.ty) false j.imm.toNat l))).1 := by
  unfold fcmpGroup
  simp only [htags]
  exact ⟨_, _, rfl, rfl⟩

/-- The rounding of ffloor, by its sub-operation. -/
theorem floorRounding (n : BitVec 4) :
    (match n.toNat with | 0 => 3 | 1 => 2 | _ => 1) = if n = 0 then 3 else if n = 1 then 2 else 1 := by
  revert n
  decide

theorem fcmp_run {s : State} {k : Iss} {j : FnI} {p : BitVec 3} (h : Ready s k 0x109 (linesOf j.toSlots false 0)) (hd : j.d = .p p)
    (htags : k.gr.checkTags j.a j.b .nil (16 * tyCode j.ty) false false = .ok ()) :
    ∃ g1, IssuesGroup (execFcmp j s) s k j.hint g1
      ∧ ∀ l < 32, k.e.mask.getLsbD l = true → p ≠ 7 → (g1.rp p.toNat).getLsbD l
        = (fcmpElem j.sub.toNat (fdecode (fmtOf (16 * tyCode j.ty)) (k.gr.src j.a (16 * tyCode j.ty) false j.imm.toNat l))
            (fdecode (fmtOf (16 * tyCode j.ty)) (k.gr.src j.b (16 * tyCode j.ty) false j.imm.toNat l))).1 := by
  obtain ⟨x, flags, hok, hx⟩ := fcmpGroup_lanes htags
  refine ⟨_, runG_ok h j.toSlots hok, fun l hl hact hp => ?_⟩
  have hp7 : p.toNat ≠ 7 := fun e => hp (BitVec.eq_of_toNat_eq e)
  have hrp : ((k.gr.wp p.toNat k.e.mask x).wflags k.e.mask flags).rp = (k.gr.wp p.toNat k.e.mask x).rp := by
    unfold Group.rp
    rw [Group.wflags_p]
  rw [hd, show (Operand.p p).idx = p.toNat from rfl, hrp, Group.rp_wp, if_pos ⟨rfl, hp7⟩, hx]
  simp [getLsbD_maskWhere _ _ hl, hact]

theorem dot_run {s : State} {k : Iss} {j : RdI} {op n : Nat} (h : Ready s k op (linesOf j.toSlots false 0))
    (htags : k.gr.checkTags j.a j.b .nil (tagOf j.ty j.var.toNat) false false = .ok ())
    (hacc : k.gr.checkTag j.d 0x80 false 3 = .ok ()) :
    ∃ g1, IssuesGroup (runG op s j.toSlots (linesOf j.toSlots false 0) (dotGroup n j)) s k j.hint g1
      ∧ LaneResult k.gr g1 j.d.idx false k.e.mask (fun l => (dotLane (tagOf j.ty j.var.toNat) n (rndCode j.rnd) j.sat
          (k.gr.src j.a (tagOf j.ty j.var.toNat) false j.imm.toNat l)
          (k.gr.src j.b (tagOf j.ty j.var.toNat) false j.imm.toNat l) (k.gr.src j.d 0x80 false 0 l) (k.gr.rseed l)).val) 0x80 :=
  issuesGroup_wout h j.toSlots (by decide) (by simp only [dotGroup, htags, hacc])

/-- Settles O13. -/
theorem floatOther : Obligations.FloatOther := by
  intro s k i d hd htags
  refine ⟨sign_run hd htags false, sign_run hd htags true, fun h => ?_, fun h => ?_, fun h => ?_, fun h => ?_,
    fun j p h hp htags => fcmp_run h hp htags, ?_⟩
  · exact elemGroup_run hd h htags _ _ (tyTag_lt i.ty)
  · exact elemGroup_run hd h htags _ _ (tyTag_lt i.ty)
  · rw [← floorRounding]
    exact elemGroup_run hd h htags _ _ (tyTag_lt i.ty)
  · exact elemGroup_run hd h htags _ _ (by decide)
  · intro j hd htags hacc n opc con hrow h
    have hn : j.d.idx = d.toNat := by rw [hd]; rfl
    rw [← hn]
    rcases hrow with hrow | hrow <;> cases hrow <;> exact dot_run h htags hacc

/-! ## Conversion -/

theorem scaleGroup_run {s : State} {k : Iss} {op : Nat} {ls : List Nat × List Nat} (h : Ready s k op ls) {i : RdI} {src rnd : Nat}
    (htag : k.gr.checkTag i.a src false 1 = .ok ()) (f : Nat → Nat → Nat × Nat) :
    ∃ g1, IssuesGroup (runG op s i.toSlots ls (scaleGroup i src rnd f)) s k i.hint g1
      ∧ LaneResult k.gr g1 i.d.idx false k.e.mask
        (fun l => (scaleLane src rnd f (k.gr.src i.a src false 0 l) (k.gr.rseed l)).val) 0x71 :=
  issuesGroup_wout h i.toSlots (by decide) (by simp only [scaleGroup, htag])

/-- The elements of a lane that sat clamps. -/
def satElems (k : Iss) (i : RdI) (l : Nat) : List (Nat × Nat) :=
  let tag := 16 * tyCode i.ty
  (List.range (tagElems tag)).map fun j =>
    if tagInt tag then satInt tag (if i.b.isImm then i.imm.toNat else k.gr.src i.b 0 false 0 l)
      (elemAt (tagWidth tag) (k.gr.src i.a tag (tagWide tag) i.imm.toNat l) j)
    else satFloat tag (elemAt (tagWidth tag) (k.gr.src i.a tag (tagWide tag) i.imm.toNat l) j)

theorem satGroup_run {s : State} {k : Iss} {i : RdI}
    (h : Ready s k 0x148 (linesOf i.toSlots (tagWide (16 * tyCode i.ty)) 0))
    (htag : k.gr.checkTag i.a (16 * tyCode i.ty) (tagWide (16 * tyCode i.ty)) 1 = .ok ())
    (hint : tagInt (16 * tyCode i.ty) = true → k.gr.checkTag i.b 0x10 false 2 = .ok ()) :
    ∃ g1, IssuesGroup (execSat i s) s k i.hint g1
      ∧ LaneResult k.gr g1 i.d.idx (tagWide (16 * tyCode i.ty)) k.e.mask
        (fun l => ofElems (tagWidth (16 * tyCode i.ty)) ((satElems k i l).map Prod.fst)) (16 * tyCode i.ty) := by
  have hbound : (if tagInt (16 * tyCode i.ty) then k.gr.checkTag i.b 0x10 false 2 else .ok ()) = .ok () := by
    split
    · next hi => exact hint hi
    · rfl
  exact issuesGroup_wout h i.toSlots (r := fun l => ⟨ofElems (tagWidth (16 * tyCode i.ty)) ((satElems k i l).map Prod.fst),
    ((satElems k i l).map Prod.snd).foldl flagsOr 0, k.gr.rseed l⟩) (tyTag_lt i.ty) (by simp only [satGroup, htag, hbound]; rfl)

/-- Narrow results count modulo 2^32. -/
theorem LaneResult.of_narrow {g g1 : Group} {n tag : Nat} {m : Mask} {f f' : Nat → Nat} (h : LaneResult g g1 n false m f tag)
    (hf : ∀ l, f l % 2 ^ 32 = f' l % 2 ^ 32) : LaneResult g g1 n false m f' tag := by
  obtain ⟨hrv, htag, hrs, hrp⟩ := h
  refine ⟨fun j l hl => ?_, htag, hrs, hrp⟩
  have hword : BitVec.ofNat 32 (f' l) = BitVec.ofNat 32 (f l) := BitVec.eq_of_toNat_eq (hf l).symm
  rw [hrv j l hl, hword]
  simp

/-- A lane of binary32 is its one element. -/
theorem satElems_binary32 {k : Iss} {i : RdI} (htag : 16 * tyCode i.ty = 0x80) (l : Nat) :
    satElems k i l = [satFloat 0x80 (k.gr.src i.a 0x80 false i.imm.toNat l % 2 ^ 32)] := by
  have hx : elemAt 32 (k.gr.src i.a 0x80 false i.imm.toNat l) 0 = k.gr.src i.a 0x80 false i.imm.toNat l % 2 ^ 32 := by
    simp [elemAt]
  rw [← hx, satElems, htag]
  rfl

/-- Settles O14. -/
theorem conversions : Obligations.Conversions := by
  intro s k i d src dst hd hsrc hdst hlt
  subst hsrc hdst
  have hn : i.d.idx = d.toNat := by rw [hd]; rfl
  rw [← hn]
  refine ⟨fun h htag => ?_, fun h hab hdt => ?_, fun h htag => ?_, fun h htag => ?_, fun h htag => ?_, fun h hty hb htag => ?_, ?_⟩
  · refine ⟨_, runS_ok h i.toSlots ?_ (State.modGroup_errs s k.tid k.g _), laneResult_wout _ _ _ _ _ _ hlt⟩
    simp only [hd, Operand.isM, htag]
    exact congrArg Except.ok (State.modGroup_issuer h.issuer _)
  · exact issuesGroup_wout h i.toSlots hlt (by simp only [packGroup, hab, hdt])
  · exact issuesGroup_wout h i.toSlots hlt (by simp only [unpkGroup, htag])
  · exact scaleGroup_run h htag _
  · exact scaleGroup_run h htag _
  · have htag0 : 16 * tyCode i.ty = 0x80 := by rw [hty]; rfl
    have hbound : tagInt (16 * tyCode i.ty) = true → k.gr.checkTag i.b 0x10 false 2 = .ok () := fun _ => by rw [hb]; rfl
    obtain ⟨g1, hrun, hres⟩ := satGroup_run (i := i) (by rw [htag0]; exact h) (by rw [htag0]; exact htag) hbound
    refine ⟨g1, hrun, ?_⟩
    rw [htag0] at hres
    exact LaneResult.of_narrow hres fun l => by rw [satElems_binary32 htag0]; exact Nat.mod_mod ..
  · rintro tag wide rfl rfl h htag hint
    obtain ⟨g1, hrun, hres⟩ := satGroup_run h htag hint
    refine ⟨g1, hrun, ?_⟩
    simp only [satElems, List.map_map] at hres
    exact hres

end Sys2Proof.Machine
end

section
/-!
Loads enter the load queue (15 R326-R331), pgreq and pref (15 R332, R333).
-/
namespace Sys2Proof.Machine

open Host (Outcome)

/-! ## The accesses of a load -/

theorem quiet_readAccs (k : Iss) (whole tile : Bool) (accs : List Acc) : Quiet (k.readAccs whole tile accs) := fun s h => by
  simp only [Iss.readAccs, h, List.isEmpty_nil, if_true]

/-- The accesses that an s base places name one address, the base's, one for each active lane. -/
theorem State.placeLanes_scalar {s : State} {k : Iss} {sp : Space} {kind : AccKind} {o : Operand} {off : Int} {n : Nat} {act : Mask}
    {pred : Bool} {pl : Placed} (ho : o.isV = false) (h : s.placeLanes k sp kind o off n act pred = .ok pl) {a : Acc}
    (ha : a ∈ pl.accs) : a.n = n ∧ act.getLsbD a.lane = true ∧ ∃ l, a.va = k.gr.addr sp o off l := by
  unfold State.placeLanes at h
  simp only [ho, Bool.false_eq_true, if_false] at h
  split at h
  · cases h
  · cases h
    simp only [List.mem_filterMap] at ha
    obtain ⟨r, hr, hacc⟩ := ha
    split at hr
    · cases hr
    · next l0 _ _ =>
      obtain ⟨l, hl, rfl⟩ := List.mem_map.1 hr
      split at hacc <;> cases hacc
      exact ⟨rfl, ((mem_lanesOf _ _).1 hl).2, l0, rfl⟩

/-! ## Entering the queue -/

section
variable {s : State} {k : Iss} {i : MemI}

/-- The issuing group with the load e the newest of its queue. -/
def Iss.withLoad (k : Iss) (id : Nat) (e : LqEntry) : Group := { k.gr.addOp id .ld with lq := k.gr.lq ++ [e] }

/-- The group that a load of rows 0x181 to 0x183 leaves: its predicate destination loses the lanes of absent. -/
def Iss.loaded (k : Iss) (i : MemI) (id : Nat) (accs : List Acc) (absent : List Nat) : Group :=
  match i.b with
  | .p n => (k.withLoad id (newLoad i k id accs absent)).wp n.toNat (maskOf absent) 0
  | _ => k.withLoad id (newLoad i k id accs absent)

theorem Iss.loaded_lq (id : Nat) (accs : List Acc) (absent : List Nat) :
    (k.loaded i id accs absent).lq = k.gr.lq ++ [newLoad i k id accs absent] := by
  unfold Iss.loaded
  split
  · unfold Group.wp
    split <;> rfl
  · rfl

theorem Iss.loaded_ops (id : Nat) (accs : List Acc) (absent : List Nat) :
    (k.loaded i id accs absent).ops = k.gr.ops ++ [⟨id, .ld, false⟩] := by
  unfold Iss.loaded
  split
  · unfold Group.wp
    split <;> rfl
  · rfl

theorem Iss.loaded_rv (id : Nat) (accs : List Acc) (absent : List Nat) (j l : Nat) :
    (k.loaded i id accs absent).rv j l = k.gr.rv j l := by
  unfold Iss.loaded
  split
  · unfold Group.wp
    split <;> rfl
  · rfl

theorem Iss.loaded_rs (id : Nat) (accs : List Acc) (absent : List Nat) (j : Nat) :
    (k.loaded i id accs absent).rs j = k.gr.rs j := by
  unfold Iss.loaded
  split
  · unfold Group.wp
    split <;> rfl
  · rfl

theorem Iss.loaded_rp (id : Nat) (accs : List Acc) (absent : List Nat) (j : BitVec 3) :
    (k.loaded i id accs absent).rp j.toNat
      = if i.b = .p j ∧ j ≠ 7 then k.gr.rp j.toNat &&& ~~~(maskOf absent) else k.gr.rp j.toNat := by
  have h7 : j.toNat = 7 ↔ j = 7 := by
    rw [← BitVec.toNat_inj]
    rfl
  unfold Iss.loaded
  split
  · next n hb =>
    have hrp : (k.withLoad id (newLoad i k id accs absent)).rp = k.gr.rp := rfl
    rw [Group.rp_wp, hb, hrp]
    by_cases hj : j = n
    · subst hj
      simp [h7]
    · have hne : j.toNat ≠ n.toNat := fun e => hj (BitVec.eq_of_toNat_eq e)
      have hop : ¬ (Operand.p n = .p j ∧ j ≠ 7) := fun e => hj (Operand.p.inj e.1).symm
      rw [if_neg fun e => hne e.1, if_neg hop]
  · next hb => rw [if_neg fun e => hb j e.1]; rfl

theorem loadEnters_loaded (accs : List Acc) (absent : List Nat) :
    LoadEnters s (s.newOp.2.modGroup k.tid k.g fun _ => k.loaded i s.nextOp accs absent) k i accs (maskOf absent) :=
  ⟨_, _, rfl, Iss.loaded_lq .., Iss.loaded_ops .., rfl, rfl, rfl, rfl, rfl, rfl, rfl, rfl, rfl, Iss.loaded_rv _ _ _,
    Iss.loaded_rs _ _ _, Iss.loaded_rp _ _ _⟩

theorem loadInstr_enters {op : Nat} {sp : Space} (h : Ready s k op (memLines i.toSlots (memSize i == 8) (sp != .spad) false))
    (hbase : k.gr.checkBase sp i.a = .ok ()) {pl : Placed}
    (hplace : s.placeLanes k sp .load i.a (memOff i) (memSize i) k.e.mask i.b.isP = .ok pl)
    (hpath : s.pathCheck pl.accs false = .ok ()) (hroom : ocOf k.gr.ops .ld < 63) (hfilled : s.unfilled pl.accs = none) :
    ∃ s1, Issues (loadInstr op sp i s) s1 k i.hint k.fall
      ∧ LoadEnters s s1 k i (if i.d.isS then pl.accs.take 1 else pl.accs) (maskOf pl.absent) := by
  refine ⟨_, runE_ok h i.toSlots (rd := k.readAccs i.a.isS false (if i.d.isS then pl.accs.take 1 else pl.accs)) ?_
    (quiet_readAccs _ _ _ _) (State.modGroup_errs s.newOp.2 ..), loadEnters_loaded _ _⟩
  simp only [hbase, hplace, hpath, counterWait_ok hroom, fillWait_ok hfilled]
  rw [State.modGroup_issuer (State.newOp_issuer h.issuer)]
  rfl

end

/-- Settles O16: a load that no check stops runs to the end of its meaning; an s base is one address. -/
theorem loads : Obligations.Loads := by
  intro s k i op sp con hrow h hbase pl hplace hpath hroom hfilled
  have hcon : exec (con i) s = loadInstr op sp i s := by
    simp only [List.mem_cons, List.not_mem_nil, or_false, Prod.mk.injEq] at hrow
    obtain ⟨rfl, rfl, rfl⟩ | ⟨rfl, rfl, rfl⟩ | ⟨rfl, rfl, rfl⟩ := hrow <;> rfl
  rw [hcon]
  refine ⟨loadInstr_enters h hbase hplace hpath hroom hfilled, fun n hn a ha => ?_⟩
  obtain ⟨hsize, hlane, l, hva⟩ := State.placeLanes_scalar (by rw [hn]; rfl) hplace ha
  refine ⟨hsize, hlane, ?_⟩
  rw [hva, hn]
  cases sp <;> rfl

/-! ## Tile loads -/

/-- A fold that adds n elements or fails adds n times the number of its steps. -/
theorem length_of_foldl_ok {ε α β : Type} {n : Nat} {f : Except ε (List α) → β → Except ε (List α)}
    (herr : ∀ e b, f (.error e) b = .error e)
    (hok : ∀ as b as', f (.ok as) b = .ok as' → as'.length = as.length + n) (bs : List β) {as ys : List α}
    (h : bs.foldl f (.ok as) = .ok ys) : ys.length = as.length + n * bs.length := by
  induction bs generalizing as with
  | nil =>
    cases h
    simp
  | cons b bs ih =>
    rw [List.foldl_cons] at h
    cases hb : f (.ok as) b with
    | error e =>
      have hstop : bs.foldl f (.error e) = .error e := foldl_keep (· = .error e) f (fun r b hr => hr ▸ herr e b) bs _ rfl
      rw [hb, hstop] at h
      cases h
    | ok as1 =>
      rw [hb] at h
      rw [ih h, hok as b as1 hb, List.length_cons, Nat.mul_succ]
      omega

/-- Where not all four parts of a row are placed, some error is listed. -/
theorem rowErrs_ne_nil {r0 r1 r2 r3 : Except AccErr Loc}
    (h : ∀ l0 l1 l2 l3, r0 = .ok l0 → r1 = .ok l1 → r2 = .ok l2 → r3 = .ok l3 → False) :
    ([r0, r1, r2, r3].filterMap fun x => match x with | .error e => some e | .ok _ => none) ≠ [] := by
  cases r0 with
  | error e => simp
  | ok l0 =>
    cases r1 with
    | error e => simp
    | ok l1 =>
      cases r2 with
      | error e => simp
      | ok l2 =>
        cases r3 with
        | error e => simp
        | ok l3 => exact (h l0 l1 l2 l3 rfl rfl rfl rfl).elim

/-- Placing a row adds its four accesses or fails, so 128 rows placed are 512 accesses. -/
theorem State.length_placeRows {s : State} {k : Iss} {kind : AccKind} {base pitch : Nat} {last : Bool} {accs : List Acc}
    (h : s.placeRows k kind base pitch last = .ok accs) : accs.length = 512 := by
  unfold State.placeRows at h
  dsimp only at h
  generalize (if base / 2 ^ 32 = 0xFFFFFFFF then Space.spad else Space.glob) = sp at h
  generalize (if sp = Space.spad then 2 ^ 32 else 2 ^ 64) = top at h
  refine (length_of_foldl_ok (n := 4) (fun _ _ => rfl) (fun as row as' hf => ?_) _ h).trans (by simp)
  dsimp only at hf
  split at hf
  · split at hf
    · cases hf
    · cases hf
      simp
  · next hno =>
    split at hf
    · next hnil => exact absurd hnil (rowErrs_ne_nil hno)
    · cases hf

theorem State.placeRows_of_tileRows {s : State} {k : Iss} {kind : AccKind} {o : Operand} {off : Int} {pitch : Nat} {accs : List Acc}
    (h : s.tileRows k kind o off pitch = .ok accs) : ∃ base last, s.placeRows k kind base pitch last = .ok accs := by
  unfold State.tileRows at h
  dsimp only at h
  split at h
  · cases h
  · next hrows =>
    split at h <;> cases h
    exact ⟨_, _, hrows⟩

theorem execLdm_enters {s : State} {k : Iss} {i : MemI} (h : Ready s k 0x184 (linesOf i.toSlots false 0)) {pitch : Nat}
    {accs : List Acc} (hpitch : k.gr.pitch i.b 3 = .ok pitch) (hrows : s.tileRows k .load i.a (memOff i) pitch = .ok accs)
    (hroom : ocOf k.gr.ops .ld < 63) (hfilled : s.unfilled accs = none) :
    Issues (execLdm i s) (s.newOp.2.modGroup k.tid k.g fun _ => k.withLoad s.nextOp (newLoad i k s.nextOp accs [])) k i.hint k.fall := by
  refine runE_ok h i.toSlots (rd := k.readAccs false true accs) ?_ (quiet_readAccs _ _ _ _) (State.modGroup_errs s.newOp.2 ..)
  simp only [hpitch, hrows, counterWait_ok hroom, fillWait_ok hfilled]
  rw [State.modGroup_issuer (State.newOp_issuer h.issuer)]
  rfl

/-! ## Pages (15 R332) -/

/-- What posting pages leaves alone. -/
def SameBesidesPosts (s t : State) : Prop := t.teams = s.teams ∧ t.home = s.home ∧ t.errs = s.errs

theorem SameBesidesPosts.modPart {s t : State} (h : SameBesidesPosts s t) (p : Nat) (f : Partition → Partition) :
    SameBesidesPosts s (t.modPart p f) := h

theorem SameBesidesPosts.hostWrite {s t : State} (h : SameBesidesPosts s t) (a : Nat) (bs : List Byte) :
    SameBesidesPosts s (t.hostWrite a bs) := h

theorem SameBesidesPosts.postPage {s t : State} (h : SameBesidesPosts s t) (k : Iss) (lane va pg : Nat) :
    SameBesidesPosts s (t.postPage k lane va pg) := by
  unfold State.postPage
  dsimp only
  split
  · exact h
  · split
    · exact h.modPart ..
    · exact ((h.modPart ..).hostWrite ..).hostWrite ..

theorem SameBesidesPosts.postPages {s t : State} (h : SameBesidesPosts s t) (k : Iss) (pages : List (Nat × Nat × Nat)) :
    SameBesidesPosts s (pages.foldl (fun (x : State) a => x.postPage k a.1 a.2.1 a.2.2) t) :=
  foldl_keep (SameBesidesPosts s) _ (fun _ _ hx => hx.postPage ..) pages t h

/-- The addresses that pgreq asks about. -/
def Iss.pageAddrs (k : Iss) (i : MemI) : List (Nat × Nat) :=
  (if i.a.isV then lanesOf k.e.mask else (lanesOf k.e.mask).take 1).map fun l => (l, k.gr.addr .glob i.a (memOff i) l)

theorem Iss.mem_pageAddrs {k : Iss} {i : MemI} {a : Nat × Nat} (h : a ∈ k.pageAddrs i) :
    ∃ l, k.e.mask.getLsbD l = true ∧ a.2 = k.gr.addr .glob i.a (memOff i) l := by
  obtain ⟨l, hl, rfl⟩ := List.mem_map.1 h
  have hl : l ∈ lanesOf k.e.mask := by
    split at hl
    · exact hl
    · exact List.mem_of_mem_take hl
  exact ⟨l, ((mem_lanesOf _ _).1 hl).2, rfl⟩

theorem State.absentPages_nil {s : State} {k : Iss} {addrs : List (Nat × Nat)}
    (h : ∀ a ∈ addrs, ∃ lf, s.walk k.t.part (s.ctx k.t.part k.t.ctx).root .load a.2 = .ok lf) : s.absentPages k addrs = [] := by
  unfold State.absentPages
  dsimp only
  rw [List.filter_eq_nil_iff.2 ?_]
  · rfl
  · intro a ha
    obtain ⟨lf, hlf⟩ := h a ha
    simp [hlf]

/-- The effect of pgreq: a post for each page that is not resident, and the team's idempotent flag. -/
def State.pagesAsked (s : State) (k : Iss) (i : MemI) : State :=
  ((s.absentPages k (k.pageAddrs i)).foldl (fun (x : State) a => x.postPage k a.1 a.2.1 a.2.2) s).clearIdem k.tid

section
variable {s : State} {k : Iss} {i : MemI}

theorem execPgreq_issues (h : Ready s k 0x185 (linesOf i.toSlots true 0)) (hbase : k.gr.checkBase .glob i.a = .ok ())
    (haddr : ∀ l, k.e.mask.getLsbD l = true → k.gr.addr .glob i.a (memOff i) l < 2 ^ 56) :
    Issues (execPgreq i s) (s.pagesAsked k i) k i.hint k.fall := by
  have hlow : (k.pageAddrs i).filter (fun a => decide (2 ^ 56 ≤ a.2)) = [] := by
    rw [List.filter_eq_nil_iff]
    intro a ha
    obtain ⟨l, hl, hva⟩ := Iss.mem_pageAddrs ha
    have := haddr l hl
    simp only [hva, decide_eq_true_eq]
    omega
  unfold Iss.pageAddrs at hlow
  obtain ⟨-, -, herrs⟩ := SameBesidesPosts.postPages (s := s) ⟨rfl, rfl, rfl⟩ k (s.absentPages k (k.pageAddrs i))
  refine runS_ok h i.toSlots ?_ ((State.clearIdem_errs _ _).trans herrs)
  simp only [hbase, hlow]
  rfl

theorem State.pagesAsked_keeps (hk : s.issuer = some k) :
    (s.pagesAsked k i).home = s.home ∧ (s.pagesAsked k i).group? k.tid k.g = some k.gr := by
  obtain ⟨hteams, hhome, -⟩ := SameBesidesPosts.postPages (s := s) ⟨rfl, rfl, rfl⟩ k (s.absentPages k (k.pageAddrs i))
  refine ⟨(State.clearIdem_home _ _).trans hhome, ?_⟩
  rw [State.pagesAsked, State.group?_clearIdem, State.group?_of_teams hteams, State.group?_issuer hk]

theorem State.pagesAsked_resident (h : ∀ l, k.e.mask.getLsbD l = true → ∃ lf, s.walk k.t.part (s.ctx k.t.part k.t.ctx).root .load
    (k.gr.addr .glob i.a (memOff i) l) = .ok lf) : (s.pagesAsked k i).hostMem = s.hostMem := by
  rw [State.pagesAsked, State.absentPages_nil fun a ha => ?_]
  · exact State.clearIdem_hostMem s k.tid
  · obtain ⟨l, hl, hva⟩ := Iss.mem_pageAddrs ha
    rw [hva]
    exact h l hl

end

/-- Settles O17: the rows of a tile are 512 accesses; a page that is resident is not among those posted. -/
theorem tileLoadsAndPages : Obligations.TileLoadsAndPages := by
  intro s k i
  refine ⟨fun h pitch accs hpitch hrows hroom hfilled => ?_, fun h hbase haddr => ?_⟩
  · obtain ⟨base, last, hplaced⟩ := State.placeRows_of_tileRows hrows
    exact ⟨_, _, _, execLdm_enters h hpitch hrows hroom hfilled, rfl, rfl, rfl, rfl, rfl, State.length_placeRows hplaced⟩
  · obtain ⟨hhome, hgroup⟩ := State.pagesAsked_keeps (i := i) h.issuer
    exact ⟨_, execPgreq_issues h hbase haddr, hhome, hgroup, State.pagesAsked_resident⟩

/-- Settles O18: nothing but the base's tag is looked at. -/
theorem prefetch : Obligations.Prefetch := by
  intro s k i h hbase
  exact ⟨s, runS_ok h i.toSlots (by simp only [hbase]) rfl, rfl, rfl, rfl⟩

end Sys2Proof.Machine
end

section
/-! Atomics enter the load queue, reds the store buffer of their colour (15 R337-R339). -/
namespace Sys2Proof.Machine

open Host (Outcome)

theorem sameMemory_clearIdem (s : State) (tid : Nat) : SameMemory s (s.clearIdem tid) := sameMemory_modTeam s tid fun _ => rfl

section
variable {s : State} {k : Iss} {i : MemI} {accs : List Acc}

/-- The entry that an atomic makes in the load queue. -/
def Iss.atomEntry (k : Iss) (id : Nat) (i : MemI) (accs : List Acc) : LqEntry :=
  { id := id, pc := k.e.pc, mask := k.e.mask, accs := accs, zeroed := 0, uniform := false, dest := i.d
    tag := memTag i, acq := i.order == .acq || i.order == .ar, rel := i.order == .rel || i.order == .ar
    scope := i.scope, colour := i.colour.toNat, aop := memAop i + 1
    data := k.gr.dataOf i.b (memTag i) (memSize i == 8) accs
    cmp := if memAop i = 7 then k.gr.dataOf i.d (memTag i) (memSize i == 8) accs else []
    vals := [], waiting := [], written := [], released := false, refused := [] }

/-- The accesses of an atomic: none with no lane active, those that its checks give otherwise. -/
def atomAccs (s : State) (k : Iss) (op : Nat) (sp : Space) (i : MemI) : Except Bail (List Acc) :=
  if k.gr.guard i.guard k.e.mask = 0 then .ok [] else atomChecks op sp i s k (k.gr.guard i.guard k.e.mask)

theorem atomAccs_ok {op : Nat} {sp : Space} (h : if k.gr.guard i.guard k.e.mask = 0 then accs = []
    else atomChecks op sp i s k (k.gr.guard i.guard k.e.mask) = .ok accs) : atomAccs s k op sp i = .ok accs := by
  unfold atomAccs
  split at h
  · next h0 => rw [if_pos h0, h]
  · next h0 => rw [if_neg h0, h]

/-- The effect of an atomic at issue. -/
def State.atomQueued (s : State) (k : Iss) (i : MemI) (accs : List Acc) : State :=
  (s.newOp.2.modGroup k.tid k.g fun _ => k.withLoad s.nextOp (k.atomEntry s.nextOp i accs)).clearIdem k.tid

theorem atomInstr_queues {op : Nat} {sp : Space}
    (h : Ready s k op (s.guardLines i.guard (memLines i.toSlots (memSize i == 8) (sp != .spad) (memSize i == 8))))
    (haccs : atomAccs s k op sp i = .ok accs) (hroom : ocOf k.gr.ops .ld < 63) (hfilled : s.unfilled accs = none) :
    Issues (atomInstr op sp i s) (s.atomQueued k i accs) k i.hint k.fall := by
  unfold atomAccs at haccs
  refine runE_ok h i.toSlots (rd := k.readAccs false false accs) ?_ (quiet_readAccs _ _ _ _)
    ((State.clearIdem_errs _ _).trans (State.modGroup_errs s.newOp.2 ..))
  simp only [haccs, counterWait_ok hroom, fillWait_ok hfilled]
  rw [State.modGroup_issuer (State.newOp_issuer h.issuer)]
  rfl

theorem sameMemory_atomQueued : SameMemory s (s.atomQueued k i accs) := by
  obtain ⟨hmem, -⟩ := onlyGroup_modGroup s.newOp.2 k.tid k.g fun _ => k.withLoad s.nextOp (k.atomEntry s.nextOp i accs)
  exact SameMemory.trans (show SameMemory s _ from hmem) (sameMemory_clearIdem _ _)

theorem State.group?_atomQueued (hk : s.issuer = some k) :
    (s.atomQueued k i accs).group? k.tid k.g = some (k.withLoad s.nextOp (k.atomEntry s.nextOp i accs)) := by
  rw [State.atomQueued, State.group?_clearIdem, State.group?_modGroup, State.group?_issuer (State.newOp_issuer hk)]
  simp

theorem storeEnters_clearIdem {s1 : State} {puts : List Put} {aop : Nat} (h : StoreEnters s s1 k i puts aop) (tid : Nat) :
    StoreEnters s (s1.clearIdem tid) k i puts aop := by
  obtain ⟨hmem, g1, e, hgroup, henters⟩ := h
  exact ⟨hmem.trans (sameMemory_clearIdem s1 tid), g1, e, (State.group?_clearIdem s1 tid _ _).trans hgroup, henters⟩

theorem execRed_enters (h : Ready s k 0x203 (s.guardLines i.guard (memLines i.toSlots false true (memSize i == 8))))
    (haccs : atomAccs s k 0x203 .uni i = .ok accs) (hroom : ocOf k.gr.ops .st < 63) (hfilled : s.unfilled accs = none) :
    ∃ s1, Issues (execRed i s) s1 k i.hint k.fall ∧ StoreEnters s s1 k i
      (accs.map fun a => ⟨a, toBytes (memSize i) (k.gr.src i.b (memTag i) (memSize i == 8) 0 a.lane)⟩) (memAop i + 1) := by
  unfold atomAccs at haccs
  refine ⟨_, runE_ok h i.toSlots (rd := k.readAccs false false accs) ?_ (quiet_readAccs _ _ _ _)
    ((State.clearIdem_errs _ _).trans (State.errs_enterStore s k i _ _ (memTag i))),
    storeEnters_clearIdem (storeEnters_enterStore h.issuer (memTag i)) k.tid⟩
  simp only [haccs, counterWait_ok hroom, fillWait_ok hfilled]

end

/-- Settles O22: an atomic or a red that its checks pass runs to the end of its meaning. -/
theorem atomics : Obligations.Atomics := by
  intro s k i accs op sp hchecks hfilled
  have haccs := atomAccs_ok hchecks
  constructor
  · intro con hrow h hroom
    have hcon : exec (con i) s = atomInstr op sp i s := by
      simp only [List.mem_cons, List.not_mem_nil, or_false, Prod.mk.injEq] at hrow
      obtain ⟨rfl, rfl, rfl⟩ | ⟨rfl, rfl, rfl⟩ | ⟨rfl, rfl, rfl⟩ := hrow <;> rfl
    rw [hcon]
    exact ⟨_, _, _, atomInstr_queues h haccs hroom hfilled, sameMemory_atomQueued, State.group?_atomQueued h.issuer,
      rfl, rfl, rfl, rfl, rfl, rfl, rfl, rfl, rfl⟩
  · rintro rfl rfl h hroom
    exact execRed_enters h haccs hroom hfilled

end Sys2Proof.Machine
end

section
/-!
What an issue answers without a look at the listed memory errors (06 R154): the checked reads of register lines post errors and
take nothing else, so an instruction that runs to its end issues the state it gives, those posts made.
-/
namespace Sys2Proof.Machine

open Host (Outcome)

/-! ## Posts -/

/-- t is s but for its error list, the counts and posts of errors, and host memory. -/
def Posted (s t : State) : Prop :=
  t = { s with errs := t.errs, errcnt := t.errcnt, units := t.units, clusters := t.clusters, parts := t.parts, hostMem := t.hostMem }

namespace Posted

theorem refl (s : State) : Posted s s := rfl

theorem trans {s t u : State} (h : Posted s t) (h' : Posted t u) : Posted s u := by
  unfold Posted at h' ⊢
  rw [h', h]

theorem ite {P : Prop} [Decidable P] {s t u : State} (ht : Posted s t) (hu : Posted s u) : Posted s (if P then t else u) := by
  split
  · exact ht
  · exact hu

theorem checkRead (s : State) (part stack kind lo n : Nat) : Posted s (s.checkRead part stack kind lo n).1 := by
  unfold State.checkRead
  split
  · exact refl s
  · split
    · exact refl s
    · dsimp only
      split
      · exact .ite rfl rfl
      · rfl

theorem pushEv (s : State) (core kind : Nat) (w1 w2 w3 : W64) : Posted s (s.pushEv core kind w1 w2 w3) := rfl

theorem postOrLose (s : State) (core kind : Nat) (w1 w2 w3 : W64) : Posted s (s.postOrLose core kind w1 w2 w3) := .ite rfl rfl

theorem postNotice (s : State) (p kind status w1 w2 w3 : Nat) : Posted s (s.postNotice p kind status w1 w2 w3) := .ite rfl rfl

theorem postError (s : State) (core part kind addr pa : Nat) (wb : Bool) : Posted s (s.postError core part kind addr pa wb) :=
  (postOrLose s ..).trans (postNotice ..)

theorem checkedLine {s : State} {r : State × Bool} (h : Posted s r.1) (core part a : Nat) :
    Posted s (if r.2 then (r.1.postError core part 4 a 0 false, some a) else (r.1, none) : State × Option Nat).1 := by
  have hp := h.trans (postError r.1 core part 4 a 0 false)
  generalize r.1.postError core part 4 a 0 false = x at hp ⊢
  split
  · exact hp
  · exact h

theorem readRegs (s : State) (k : Iss) (ls : List Nat × List Nat) : Posted s (s.readRegs k ls).1 := by
  unfold State.readRegs
  split
  · exact refl s
  · refine foldl_keep (fun r : State × Option Nat => Posted s r.1) _ (fun r a hr => ?_) _ (s, none) (refl s)
    split
    · exact hr
    · exact checkedLine (hr.trans (checkRead r.1 k.t.part (clusterOf k.t.core / 4) 4 a 128)) ..

variable {s t : State} (h : Posted s t)
include h

theorem teams : t.teams = s.teams := by rw [h]
theorem cores : t.cores = s.cores := by rw [h]
theorem handles : t.handles = s.handles := by rw [h]
theorem colDone : t.colDone = s.colDone := by rw [h]
theorem home : t.home = s.home := by rw [h]
theorem core (n : Nat) : t.core n = s.core n := by rw [h]; rfl
theorem group? (tid g : Nat) : t.group? tid g = s.group? tid g := State.group?_of_teams h.teams tid g
theorem hEntry (n : Nat) : t.hEntry n = s.hEntry n := by rw [h]; rfl

end Posted

/-! ## The wrappers, errors listed or not -/

section
variable {s s1 : State} {k : Iss} {op : Nat} {ls : List Nat × List Nat} (h : Ready s k op ls) (sl : Slots)
include h

theorem runJ_issues {f : Iss → Except Bail (State × List (Pc × Mask))} {tg : List (Pc × Mask)} (hf : f k = .ok (s1, tg)) :
    Issues (runJ op s sl ls f) (s1.readRegs k ls).1 k sl.hint tg := by
  rw [runJ_ready h, hf]
  rfl

theorem runS_issues {f : Iss → Except Bail State} (hf : f k = .ok s1) :
    Issues (runS op s sl ls f) (s1.readRegs k ls).1 k sl.hint k.fall := runJ_issues h sl (by simp only [hf])

theorem runS_issues_ex {f : Iss → Except Bail State} (hf : ∃ s1, f k = .ok s1) : ∃ s1, Issues (runS op s sl ls f) s1 k sl.hint k.fall :=
  hf.elim fun _ h1 => ⟨_, runS_issues h sl h1⟩

/-- The state that a gathering instruction issues: its group's gathered bytes are forgotten. -/
def State.gathered (s : State) (k : Iss) (ls : List Nat × List Nat) : State :=
  (s.readRegs k ls).1.modGroup k.tid k.g fun g => { g with gath := [], asked := [] }

theorem runH_issues {f : Iss → Except (Bail × State) (State × Option Hold)} (hf : f k = .ok (s1, none)) :
    Issues (runH op s sl ls f) (s1.gathered k ls) k sl.hint k.fall := by
  unfold Issues runH
  simp only [h.issuer, h.enter, State.readRegs_nil h.errs, hf]
  rfl

theorem runH_issues_ex {f : Iss → Except (Bail × State) (State × Option Hold)} (hf : ∃ s1, f k = .ok (s1, none)) :
    ∃ s1, Issues (runH op s sl ls f) s1 k sl.hint k.fall := hf.elim fun _ h1 => ⟨_, runH_issues h sl h1⟩

theorem runH_holds {f : Iss → Except (Bail × State) (State × Option Hold)} {o : Hold} (hf : f k = .ok (s1, some o)) :
    runH op s sl ls f = .next (s1.bail k (.hold o)) := by
  unfold runH
  simp only [h.issuer, h.enter, State.readRegs_nil h.errs, hf]

theorem runH_bails {f : Iss → Except (Bail × State) (State × Option Hold)} {b : Bail} (hf : f k = .error (b, s1)) :
    runH op s sl ls f = .next (s1.bail k b) := by
  unfold runH
  simp only [h.issuer, h.enter, State.readRegs_nil h.errs, hf]

end

section
variable (s : State) (k : Iss) (ls : List Nat × List Nat)

theorem State.group?_gathered (tid g : Nat) :
    (s.gathered k ls).group? tid g
      = if tid = k.tid ∧ g = k.g then (s.group? tid g).map fun x => { x with gath := [], asked := [] } else s.group? tid g := by
  rw [State.gathered, State.group?_modGroup, (Posted.readRegs s k ls).group?]

theorem State.core_gathered (n : Nat) : (s.gathered k ls).core n = s.core n := by
  rw [State.gathered, State.core_modGroup, (Posted.readRegs s k ls).core]

theorem State.hEntry_gathered (n : Nat) : (s.gathered k ls).hEntry n = s.hEntry n := by
  rw [← (Posted.readRegs s k ls).hEntry n, State.hEntry, State.hEntry, State.gathered, State.modGroup_handles]

theorem State.colDone_gathered : (s.gathered k ls).colDone = s.colDone :=
  (State.modGroup_colDone ..).trans (Posted.readRegs s k ls).colDone

end

end Sys2Proof.Machine
end

section
/-! The event queue of a cluster and markers (15 R342, R352, R353). -/
namespace Sys2Proof.Machine

open Host (Outcome)

/-! ## The counter of a class of operations -/

section
variable (c : OpClass) (ops : List Op)

theorem ocOf_le_length_filter : ocOf ops c ≤ (ops.filter fun o => o.cls == c).length := (List.dropWhile_suffix _).length_le

theorem ocOf_cons_done {o : Op} (h : o.cls = c → o.done = true) : ocOf (o :: ops) c = ocOf ops c := by
  unfold ocOf
  by_cases hc : o.cls = c
  · simp [hc, h hc]
  · simp [hc]

theorem ocOf_cons_open {o : Op} (hc : o.cls = c) (h : o.done = false) :
    ocOf (o :: ops) c = (ops.filter fun o => o.cls == c).length + 1 := by
  simp [ocOf, hc, h]

theorem ocOf_append_le (o : Op) : ocOf (ops ++ [o]) c ≤ ocOf ops c + 1 := by
  induction ops with
  | nil => exact (ocOf_le_length_filter c [o]).trans (List.length_filter_le _ _)
  | cons p ops ih =>
    by_cases hp : p.cls = c → p.done = true
    · rwa [List.cons_append, ocOf_cons_done _ _ hp, ocOf_cons_done _ _ hp]
    · simp only [Classical.not_imp, Bool.not_eq_true] at hp
      rw [List.cons_append, ocOf_cons_open _ _ hp.1 hp.2, ocOf_cons_open _ _ hp.1 hp.2, List.filter_append, List.length_append]
      have := List.length_filter_le (fun o : Op => o.cls == c) [o]
      simp only [List.length_singleton] at this
      omega

theorem ocOf_map_le {f : Op → Op} (hcls : ∀ o, (f o).cls = o.cls) (hdone : ∀ o, o.done = true → (f o).done = true) :
    ocOf (ops.map f) c ≤ ocOf ops c := by
  induction ops with
  | nil => exact le_refl _
  | cons p ops ih =>
    by_cases hp : p.cls = c → p.done = true
    · rwa [List.map_cons, ocOf_cons_done _ _ hp, ocOf_cons_done _ _ fun h => hdone p (hp (hcls p ▸ h))]
    · simp only [Classical.not_imp, Bool.not_eq_true] at hp
      have hf : ((p :: ops).map f).filter (fun o => o.cls == c) = ((p :: ops).filter fun o => o.cls == c).map f := by
        rw [List.filter_map]
        congr 2
        funext o
        rw [Function.comp, hcls]
      refine (ocOf_le_length_filter c _).trans ?_
      rw [hf, List.length_map, ocOf_cons_open _ _ hp.1 hp.2, List.filter_cons_of_pos (by simp [hp.1]), List.length_cons]

theorem filter_pruneOps_self : (pruneOps c ops).filter (fun o => o.cls == c) = (ops.filter fun o => o.cls == c).dropWhile fun o => o.done := by
  induction ops with
  | nil => rfl
  | cons p ops ih => by_cases hc : p.cls = c <;> by_cases hd : p.done <;> simp [pruneOps, hc, hd, ih]

theorem filter_pruneOps_ne {d : OpClass} (h : d ≠ c) : (pruneOps d ops).filter (fun o => o.cls == c) = ops.filter fun o => o.cls == c := by
  induction ops with
  | nil => rfl
  | cons p ops ih =>
    by_cases hc : p.cls = d
    · have hn : p.cls ≠ c := hc ▸ h
      by_cases hd : p.done <;> simp [pruneOps, hc, hd, ih, h]
    · by_cases hp : p.cls = c <;> simp [pruneOps, hc, hp, ih, Ne.symm h]

theorem ocOf_pruneOps (d : OpClass) : ocOf (pruneOps d ops) c = ocOf ops c := by
  unfold ocOf
  by_cases h : d = c
  · rw [h, filter_pruneOps_self, List.dropWhile_idempotent]
  · rw [filter_pruneOps_ne c ops h]

theorem Group.ocOf_endOp_le (g : Group) (id : Nat) : ocOf (g.endOp id).ops c ≤ ocOf g.ops c := by
  unfold Group.endOp
  dsimp only
  split
  · rw [ocOf_pruneOps]
    refine ocOf_map_le c _ (fun o => ?_) fun o h => ?_
    · split <;> rfl
    · split
      · rfl
      · exact h
  · exact le_refl _

end

/-! ## marker -/

/-- The state in which a marker to the device itself has begun and ended. -/
def State.selfMarked (s : State) (k : Iss) : State :=
  (s.newOp.2.modGroup k.tid k.g fun g => g.addOp s.newOp.1 .st).endOp k.tid k.g s.newOp.1

section
variable {s : State} {k : Iss} {i : MemI} (h : Ready s k 0x24E (linesOf i.toSlots false 0)) (hst : ocOf k.gr.ops .st < 63)
include h hst

theorem marker_self {a : BitVec 6} (ha : i.a = .s a) (hd : k.gr.rs a.toNat = Config.devNum.setWidth 64) :
    Issues (execMarker i s) (s.selfMarked k) k i.hint k.fall := by
  have hs : i.a.isS = true := by rw [ha]; rfl
  have hu : k.gr.uni i.a 0 = Config.devNum.toNat := by
    rw [ha, Group.uni, hd, BitVec.toNat_setWidth_of_le (by decide)]
  have hlt : ¬ 4096 ≤ Config.devNum.toNat := not_le.2 Config.devNum.isLt
  refine runS_ok h i.toSlots ?_ (by simp [State.selfMarked, State.newOp])
  simp only [hs, hu, hlt, counterWait_ok hst, ne_eq, not_true, and_false, false_and, and_self, if_false, if_true]
  rfl

theorem marker_sent (hin : i.a.isS = true → k.gr.uni i.a 0 < 4096)
    (hother : ¬ (i.a.isS = true ∧ k.gr.uni i.a 0 = Config.devNum.toNat))
    (hpath : i.a.isS = true → s.pathsTo (k.gr.uni i.a 0) 0 ≠ []) : ∃ s1, Issues (execMarker i s) s1 k i.hint k.fall := by
  have hlt : ¬ (i.a.isS = true ∧ 4096 ≤ k.gr.uni i.a 0) := fun hc => absurd (hin hc.1) (by omega)
  have hno : ¬ (i.a.isS = true ∧ k.gr.uni i.a 0 ≠ Config.devNum.toNat ∧ (s.pathsTo (k.gr.uni i.a 0) 0).isEmpty = true) :=
    fun hc => hpath hc.1 (List.isEmpty_iff.1 hc.2.2)
  refine runS_issues_ex h i.toSlots ?_
  simp only [if_neg hlt, if_neg hno, if_neg hother, counterWait_ok hst]
  exact ⟨_, rfl⟩

end

theorem State.group?_selfMarked {s : State} {k : Iss} (hk : s.issuer = some k) :
    (s.selfMarked k).group? k.tid k.g = some ((k.gr.addOp s.newOp.1 .st).endOp s.newOp.1) := by
  have hg : s.newOp.2.group? k.tid k.g = some k.gr := (State.group?_of_teams rfl ..).trans (State.group?_issuer hk)
  simp [State.selfMarked, State.endOp, hg]

theorem State.out_selfMarked (s : State) (k : Iss) : (s.selfMarked k).out = s.out := by simp [State.selfMarked, State.newOp]

theorem markersRun : MarkersRun := by
  intro s k i h hst
  refine ⟨fun a ha hlt hto => ?_, fun hn => ?_, fun a ha hd => ?_⟩
  · by_cases hd : k.gr.rs a.toNat = Config.devNum.setWidth 64
    · exact ⟨_, marker_self h hst ha hd⟩
    · have hu : k.gr.uni i.a 0 = (k.gr.rs a.toNat).toNat := by rw [ha]; rfl
      have hne : k.gr.uni i.a 0 ≠ Config.devNum.toNat := fun he => hd (BitVec.eq_of_toNat_eq (by
        rw [BitVec.toNat_setWidth_of_le (by decide), ← he, hu]))
      exact marker_sent h hst (fun _ => hu ▸ hlt) (fun hc => hne hc.2) fun _ => hu ▸ hto.resolve_left hd
  · have hs : ¬ i.a.isS = true := by rw [hn]; exact Bool.false_ne_true
    exact marker_sent h hst (fun hc => absurd hc hs) (fun hc => hs hc.1) fun hc => absurd hc hs
  · exact ⟨_, _, marker_self h hst ha hd, s.out_selfMarked k, State.group?_selfMarked h.issuer,
      (Group.ocOf_endOp_le _ _ _).trans (ocOf_append_le _ _ _)⟩

/-! ## evpost and evget -/

/-- The state that evpost leaves: the record posted where there is room, and the answer in an s register. -/
def State.evPosted (s : State) (k : Iss) (full : Bool) (n : Nat) (w1 w2 w3 : W64) : State :=
  (if full then s.clearIdem k.tid else (s.clearIdem k.tid).pushEv k.t.core 3 w1 w2 w3).modGroup k.tid k.g fun g =>
    g.ws n (if full then 1 else 0)

section
variable {s : State} {k : Iss} (full : Bool) (n : Nat) (w1 w2 w3 : W64)

theorem State.errs_evPosted : (s.evPosted k full n w1 w2 w3).errs = s.errs := by
  cases full <;> simp [State.evPosted, State.pushEv, State.setCluster]

theorem State.rs_evPosted (hk : s.issuer = some k) :
    ((s.evPosted k full n w1 w2 w3).group? k.tid k.g).map (fun x => x.rs n) = some (if full then 1 else 0) := by
  have hg : ∀ t : State, t.teams = (s.clearIdem k.tid).teams → t.group? k.tid k.g = some k.gr := fun t ht =>
    (State.group?_of_teams ht ..).trans ((State.group?_clearIdem ..).trans (State.group?_issuer hk))
  cases full
  · simp [State.evPosted, hg (State.pushEv ..) rfl, Group.rs_ws]
  · simp [State.evPosted, hg _ rfl, Group.rs_ws]

end

section
variable {s : State} {k : Iss} {i : MemI}

theorem evpost_run (h : Ready s k 0x24C (linesOf i.toSlots false 1)) : Issues (execEvpost i s)
    (s.evPosted k (decide (224 ≤ s.evCount k.t.core)) i.d.idx (k.gr.rs i.a.idx) (k.gr.rs (i.a.idx + 1)) (k.gr.rs i.b.idx)) k i.hint k.fall :=
  runS_ok h i.toSlots rfl (State.errs_evPosted ..)

/-- No other group waits for a record of the cluster. -/
theorem filter_evWaiters (hw : ∀ w ∈ s.evWaiters (clusterOf k.t.core), w.1 = k.tid ∧ w.2.1 = k.g) :
    ((s.evWaiters (clusterOf k.t.core)).filter fun w => !(w.1 == k.tid && w.2.1 == k.g)) = [] :=
  List.filter_eq_nil_iff.2 fun w hm => by simp [hw w hm]

variable (h : Ready s k 0x24D (linesOf i.toSlots false 3))
include h

theorem evget_takes (hw : ∀ w ∈ s.evWaiters (clusterOf k.t.core), w.1 = k.tid ∧ w.2.1 = k.g) {r : EvRec} {rest : List EvRec}
    (hq : (s.cluster (clusterOf k.t.core)).evq = r :: rest) : Issues (execEvget i s) (s.evTake k i.d.idx r rest) k i.hint k.fall := by
  refine runS_ok h i.toSlots ?_ (by simp [State.evTake, State.setCluster])
  simp only [filter_evWaiters hw, hq]
  cases k.waiting 9 <;> rfl

theorem evget_tries (hq : (s.cluster (clusterOf k.t.core)).evq = []) (ht : bit i.imm.toNat 0 = true) :
    IssuesGroup (execEvget i s) s k i.hint ((((k.gr.ws i.d.idx 0).ws (i.d.idx + 1) 0).ws (i.d.idx + 2) 0).ws (i.d.idx + 3) 0) := by
  unfold IssuesGroup
  rw [← State.modGroup_issuer h.issuer fun g => (((g.ws i.d.idx 0).ws (i.d.idx + 1) 0).ws (i.d.idx + 2) 0).ws (i.d.idx + 3) 0]
  refine runS_ok h i.toSlots ?_ (State.modGroup_errs ..)
  simp only [hq, ht, if_true]

theorem evget_waits (hq : (s.cluster (clusterOf k.t.core)).evq = []) (ht : bit i.imm.toNat 0 = false) :
    execEvget i s = .next (s.bail k (.hold { Hold.wait 9 with started := true })) := by
  refine runS_bail h i.toSlots ?_
  simp only [hq, ht, Bool.false_eq_true, if_false]

end

theorem Group.rs_ws4 (g : Group) (n : Nat) (w0 w1 w2 w3 : W64) {j : Nat} (hj : j < 4) :
    ((((g.ws n w0).ws (n + 1) w1).ws (n + 2) w2).ws (n + 3) w3).rs (n + j) = [w0, w1, w2, w3].getD j 0 := by
  simp only [Group.rs_ws]
  rcases (by omega : j = 0 ∨ j = 1 ∨ j = 2 ∨ j = 3) with rfl | rfl | rfl | rfl <;> simp

theorem State.evq_evTake (s : State) (k : Iss) (n : Nat) (r : EvRec) (rest : List EvRec) :
    ((s.evTake k n r rest).cluster (clusterOf k.t.core)).evq = rest := by
  simp [State.evTake, State.cluster_clearIdem]

theorem State.group?_evTake {s : State} {k : Iss} (hk : s.issuer = some k) (n : Nat) (r : EvRec) (rest : List EvRec) :
    (s.evTake k n r rest).group? k.tid k.g
      = some ((((k.gr.ws n (r.w0 ||| BitVec.ofNat 64 (2 ^ 12 * rest.length + 2 ^ 21 * b2n ((s.cluster (clusterOf k.t.core)).lost != 0)))).ws
          (n + 1) r.w1).ws (n + 2) r.w2).ws (n + 3) r.w3) := by
  have hg : (s.setCluster (clusterOf k.t.core) { s.cluster (clusterOf k.t.core) with evq := rest }).group? k.tid k.g = some k.gr :=
    (State.group?_of_teams rfl ..).trans (State.group?_issuer hk)
  unfold State.evTake
  rw [State.group?_clearIdem, State.group?_modGroup, if_pos ⟨rfl, rfl⟩, hg]
  rfl

theorem queueRuns : QueueRuns := by
  intro s k i n hd
  have hn : i.d.idx = n.toNat := by rw [hd]; rfl
  refine ⟨fun h a b ha hb => ?_, fun h _ hw => ⟨fun r rest hq => ?_, fun hq ht => ?_, fun hq ht => ?_⟩⟩
  · have hrun := evpost_run h
    have hr := fun full => State.rs_evPosted (s := s) full n.toNat (k.gr.rs i.a.idx) (k.gr.rs (i.a.idx + 1)) (k.gr.rs i.b.idx) h.issuer
    rw [hn] at hrun
    refine ⟨fun hroom => ?_, fun hfull => ?_⟩
    · rw [decide_eq_false (not_le.2 hroom)] at hrun
      obtain ⟨w, hw, hkind⟩ :=
        State.evq_pushEv (s.clearIdem k.tid) k.t.core 3 (k.gr.rs a.toNat) (k.gr.rs (a.toNat + 1)) (k.gr.rs b.toNat)
      refine ⟨_, w, hrun, ?_, hkind, hr false⟩
      rw [State.cluster_clearIdem] at hw
      simp only [State.evPosted, Bool.false_eq_true, if_false, State.cluster_modGroup, hw, ha, hb, Operand.idx]
    · rw [decide_eq_true hfull] at hrun
      exact ⟨_, hrun, by simp [State.evPosted], hr true⟩
  · have hg := State.group?_evTake h.issuer i.d.idx r rest
    have hrs := fun w0 j hj => Group.rs_ws4 k.gr n.toNat w0 r.w1 r.w2 r.w3 (j := j) hj
    rw [hn] at hg
    refine ⟨_, _, hn ▸ evget_takes h hw hq, State.evq_evTake .., hg, ?_, hrs _ 1 (by decide), hrs _ 2 (by decide), hrs _ 3 (by decide)⟩
    refine (hrs _ 0 (by decide)).trans ?_
    by_cases hl : (s.cluster (clusterOf k.t.core)).lost = 0 <;> simp [hl, b2n]
  · refine ⟨_, evget_tries h hq ((bit_toNat ..).trans ht), fun j hj => ?_⟩
    rw [← hn, Group.rs_ws4 _ _ _ _ _ _ hj]
    rcases (by omega : j = 0 ∨ j = 1 ∨ j = 2 ∨ j = 3) with rfl | rfl | rfl | rfl <;> rfl
  · exact ⟨_, rfl, evget_waits h hq ((bit_toNat ..).trans ht)⟩

/-- Settles O27, the event queue and the markers apart. -/
theorem eventQueue : Obligations.EventQueue := ⟨queueRuns, markersRun⟩

end Sys2Proof.Machine
end

section
/-!
What a gathering of sectors changes while no memory error is listed: the coherent views of the cores that it fills, nothing else.
-/
namespace Sys2Proof.Machine

open Host (Outcome)

/-- t is s but for the coherent views of its cores. -/
def Sensed (s t : State) : Prop := t = { s with cores := t.cores } ∧ ∀ n, t.core n = { s.core n with view := (t.core n).view }

namespace Sensed

variable {s t u : State}

theorem refl (s : State) : Sensed s s := ⟨rfl, fun _ => rfl⟩

theorem trans (h : Sensed s t) (h' : Sensed t u) : Sensed s u := by
  refine ⟨?_, fun n => ?_⟩
  · have e := h'.1
    rw [h.1] at e
    exact e
  · have e := h'.2 n
    rw [h.2 n] at e
    exact e

theorem modCore (s : State) (core : Nat) {f : Core → Core} (hf : ∀ c, f c = { c with view := (f c).view }) : Sensed s (s.modCore core f) := by
  refine ⟨rfl, fun n => ?_⟩
  rw [State.core_modCore]
  split
  · exact hf _
  · rfl

theorem cvNeed (s : State) (core key pa n : Nat) : Sensed s (s.cvNeed core key pa n) := by
  unfold State.cvNeed
  dsimp only
  split
  · exact refl s
  · exact modCore s core fun _ => rfl

theorem errs (h : Sensed s t) : t.errs = s.errs := by rw [h.1]
theorem teams (h : Sensed s t) : t.teams = s.teams := by rw [h.1]
theorem handles (h : Sensed s t) : t.handles = s.handles := by rw [h.1]
theorem group? (h : Sensed s t) (tid g : Nat) : t.group? tid g = s.group? tid g := State.group?_of_teams h.teams tid g

end Sensed

theorem State.checkRead_nil {s : State} (h : s.errs = []) (part stack kind lo n : Nat) : s.checkRead part stack kind lo n = (s, false) := by
  simp only [State.checkRead, h, List.findIdx?_nil]

theorem State.readErr_nil {s : State} (h : s.errs = []) (core part : Nat) (l : Loc) (n va : Nat) :
    s.readErr core part l n va = (s, none) := by
  cases l <;> simp [State.readErr, State.checkRead_nil h]

section
variable {s : State} (k : Iss) (va : Nat) (h : s.errs = [])
include h

theorem sensed_sectorBytes {x : Nat × Loc} {r : Option (List Byte) × State} (hr : s.sectorBytes k va x = .ok r) : Sensed s r.2 := by
  unfold State.sectorBytes at hr
  simp only [State.readErr_nil h] at hr
  split at hr
  · cases hr
    exact .refl s
  · cases hr
    simp only [State.readMem, Bool.false_eq_true, if_false]
    exact .cvNeed ..
  · split at hr
    · split at hr
      · cases hr
      · cases hr
        exact .refl s
    · split at hr
      · cases hr
        exact .refl s
      · split at hr <;> cases hr
        exact .refl s

theorem sensed_sectorsBytes {xs : List (Nat × Loc)} {r : Option (List Byte) × State} (hr : State.sectorsBytes k va xs s = .ok r) :
    Sensed s r.2 := by
  induction xs generalizing s r with
  | nil =>
    cases hr
    exact .refl s
  | cons x xs ih =>
    unfold State.sectorsBytes at hr
    split at hr
    · cases hr
    · next b s1 hx =>
      have h1 := sensed_sectorBytes k va h hx
      split at hr
      · cases hr
      · next r2 s2 hxs =>
        cases hr
        exact h1.trans (ih (h1.errs.trans h) (r := (r2, s2)) hxs)

theorem sensed_gather {n al : Nat} {bs : List Byte} {s1 : State} (hr : s.gather k va n al = .ok (some bs, s1)) : Sensed s s1 := by
  unfold State.gather at hr
  split at hr
  · cases hr
  · split at hr
    · cases hr
    · split at hr
      · cases hr
      · split at hr
        · cases hr
        · next hxs =>
          cases hr
          exact sensed_sectorsBytes k va h hxs
        · cases hr

theorem sensed_readRec {n al : Nat} {own : Bool} {bs : List Byte} {s1 : State} (hr : s.readRec k va n al own = .ok (some bs, s1)) :
    Sensed s s1 := by
  unfold State.readRec at hr
  split at hr
  · cases hr
  · split at hr
    · cases hr
    · next hg =>
      cases hr
      exact sensed_gather k va h hg

end

end Sys2Proof.Machine
end

section
/-! The wavefront row at issue (16 R366-R374). -/
namespace Sys2Proof.Machine

open Host (Outcome)

/-! ## An operation that takes its place in the engine order -/

theorem State.engine_count (s : State) (core event n k : Nat) : ((s.count core event n).core k).engine = (s.core k).engine := by
  obtain ⟨-, -, hcore, -⟩ := onlyGroup_count 0 0 s core event n
  exact (congrArg Core.engine (hcore k) :)

theorem sameMemory_count (s : State) (core event n : Nat) : SameMemory s (s.count core event n) := (onlyGroup_count 0 0 s core event n).1

theorem State.nextOp_newOp (s : State) : s.newOp = (s.nextOp, s.newOp.2) := rfl

/-- An operation keeps its place under a later change that leaves memory, the engine and the group's operations. -/
theorem engineTakes_later {s s1 s2 : State} {k : Iss} {o : MxOp} {counted : Bool} (h : EngineTakes s s1 k o counted)
    (hmem : SameMemory s1 s2) (hcore : (s2.core k.t.core).engine = (s1.core k.t.core).engine)
    (hops : (s2.group? k.tid k.g).map Group.ops = (s1.group? k.tid k.g).map Group.ops) : EngineTakes s s2 k o counted := by
  obtain ⟨h1, h2, h3, h4, h5, h6⟩ := h
  exact ⟨h1.trans hmem, hcore.trans h2, h3, h4, h5, hops.trans h6⟩

section
variable {s : State} {k : Iss} (hk : (s.group? k.tid k.g).map Group.ops = some k.gr.ops)
include hk

/-- A counted operation takes its place with the PC and lanes of its entry. -/
theorem engineTakes_mxIssue {f : Nat → MxOp} (htid : ∀ n, (f n).tid = k.tid) (hg : ∀ n, (f n).g = k.g) (hid : ∀ n, (f n).id = n) :
    EngineTakes s (s.mxIssue k f) k { f s.nextOp with pc := k.e.pc, mask := k.e.mask } true := by
  have hmem : SameMemory s (s.newOp.2.modGroup k.tid k.g fun g => g.addOp s.nextOp .mtx) := sameMemory_modTeam s.newOp.2 _ fun _ => rfl
  have hcores := SameMemory.of_eq (s := s.newOp.2.modGroup k.tid k.g fun g => g.addOp s.nextOp .mtx)
    (t := (s.newOp.2.modGroup k.tid k.g fun g => g.addOp s.nextOp .mtx).modCore k.t.core fun c =>
      { c with engine := c.engine ++ [{ f s.nextOp with pc := k.e.pc, mask := k.e.mask }] }) rfl rfl rfl
      (fun j => by rw [State.core_modCore]; split <;> rfl) fun _ => rfl
  have hgroup : (s.newOp.2.group? k.tid k.g) = s.group? k.tid k.g := State.group?_of_teams rfl ..
  refine ⟨(hmem.trans hcores).trans (sameMemory_count ..), ?_, htid _, hg _, hid _, ?_⟩
  · unfold State.mxIssue
    rw [State.engine_count, State.core_modCore, if_pos rfl, State.core_modGroup]
    rfl
  · unfold State.mxIssue
    obtain ⟨g, hg, hops⟩ := Option.map_eq_some_iff.1 hk
    rw [State.group?_count, State.group?_modCore, State.nextOp_newOp, State.group?_modGroup, if_pos ⟨rfl, rfl⟩, hgroup, hg, if_pos rfl, ← hops]
    rfl

theorem engineTakes_wfIssue {op : MxOp} (htid : op.tid = k.tid) (hg : op.g = k.g) :
    EngineTakes s (s.wfIssue k op false) k { op with id := s.nextOp } false := by
  refine ⟨?_, ?_, htid, hg, rfl, ?_⟩
  · exact SameMemory.of_eq rfl rfl rfl (fun j => by simp only [State.wfIssue, Bool.false_eq_true, if_false, State.core_modCore]; split <;> rfl)
      fun _ => rfl
  · simp only [State.wfIssue, Bool.false_eq_true, if_false, State.core_modCore, if_true]
    rfl
  · rw [if_neg Bool.false_ne_true, ← hk]
    rfl

end

theorem engineTakes_modTeam {s s1 : State} {k : Iss} {o : MxOp} {counted : Bool} (h : EngineTakes s s1 k o counted)
    {f : Team → Team} (hspad : ∀ t, (f t).spad = t.spad) (hgroups : ∀ t, (f t).groups = t.groups) :
    EngineTakes s (s1.modTeam k.tid f) k o counted :=
  engineTakes_later h (sameMemory_modTeam s1 _ hspad) (by rw [State.core_modTeam]) (by rw [State.group?_modTeam_groups _ _ hgroups])

theorem engineTakes_count {s s1 : State} {k : Iss} {o : MxOp} {counted : Bool} (h : EngineTakes s s1 k o counted) (core event n : Nat) :
    EngineTakes s (s1.count core event n) k o counted :=
  engineTakes_later h (sameMemory_count ..) (State.engine_count ..) (by rw [State.group?_count])

/-! ## The instructions -/

theorem quiet_mxReads (k : Iss) (o : MxOp) : Quiet (k.mxReads o) := fun s h => by
  simp only [Iss.mxReads, State.mxErr, h, List.isEmpty_nil, if_true, Option.map_none]

theorem State.ops_issuer {s : State} {k : Iss} (h : s.issuer = some k) : (s.group? k.tid k.g).map Group.ops = some k.gr.ops := by
  rw [State.group?_issuer h]
  rfl

theorem State.errs_mxIssue (s : State) (k : Iss) (f : Nat → MxOp) : (s.mxIssue k f).errs = s.errs := by
  simp only [State.mxIssue, State.count_errs, State.modCore_errs, State.modGroup_errs]
  rfl

section
variable {s : State} {k : Iss} {i : Slots}

/-- A counted operation whose checks pass completes. -/
theorem runE_wfCounted {op : Nat} {ls : List Nat × List Nat} {f : Iss → Except Bail (State × Reads)} {o : MxOp}
    (h : Ready s k op ls) (hroom : ocOf k.gr.ops .mtx < 63) (hf : f k = s.wfCounted k o) :
    Issues (runE op s i ls f) (s.wfIssue k o true) k i.hint k.fall := by
  refine runE_ok h i (rd := k.mxReads o) ?_ (quiet_mxReads k o) (State.errs_mxIssue s k fun id => { o with id := id })
  rw [hf, State.wfCounted, counterWait_ok hroom]

theorem engineTakes_wfCounted (hk : s.issuer = some k) {o : MxOp} (htid : o.tid = k.tid) (hg : o.g = k.g) :
    EngineTakes s (s.wfIssue k o true) k { o with id := s.nextOp, pc := k.e.pc, mask := k.e.mask } true :=
  engineTakes_mxIssue (f := fun id => { o with id := id }) (State.ops_issuer hk) (fun _ => htid) (fun _ => hg) fun _ => rfl

theorem engineTakes_gathered {s1 : State} {o : MxOp} {counted : Bool} (h : EngineTakes s s1 k o counted) (he : s1.errs = [])
    (ls : List Nat × List Nat) : EngineTakes s (s1.gathered k ls) k o counted := by
  unfold State.gathered
  rw [State.readRegs_nil he]
  refine engineTakes_later h (sameMemory_modTeam s1 _ fun _ => rfl) (by rw [State.core_modGroup]) ?_
  rw [State.group?_modGroup, if_pos ⟨rfl, rfl⟩, Option.map_map]
  rfl

theorem wfcfg_run (h : Ready s k 0x2C1 (linesOf i false 0)) {bs : List Byte} {s1 : State}
    (hr : s.readRec k (k.gr.rs i.a.idx).toNat 576 64 true = .ok (some bs, s1)) (hbs : ruleBad bs = false) :
    ∃ s2 o, Issues (execWfcfg i s) s2 k i.hint k.fall ∧ EngineTakes s1 s2 k o false ∧ o.op = 0x2C1 ∧ o.rule = bs := by
  have hs := sensed_readRec k _ h.errs hr
  have hops : (s1.group? k.tid k.g).map Group.ops = some k.gr.ops := by rw [hs.group?, State.ops_issuer h.issuer]
  have htakes := engineTakes_modTeam (engineTakes_wfIssue hops (op := { MxOp.base k.tid k.g 0 0x2C1 with rule := bs }) rfl rfl)
    (f := fun t => { t with wave := { t.wave with issuedRule := true } }) (fun _ => rfl) fun _ => rfl
  refine ⟨_, _, runH_issues h i ?_, engineTakes_gathered htakes ((State.modTeam_errs ..).trans (hs.errs.trans h.errs)) _, rfl, rfl⟩
  simp only [Iss.sval, hr, hbs, Bool.false_eq_true, if_false]

theorem wfcfg_waits (h : Ready s k 0x2C1 (linesOf i false 0)) {s1 : State}
    (hr : s.readRec k (k.gr.rs i.a.idx).toNat 576 64 true = .ok (none, s1)) :
    execWfcfg i s = .next (s1.bail k (.hold gatherHold)) :=
  runH_holds h i (by simp only [Iss.sval, hr])

theorem wfband_run (h : Ready s k 0x2C2 (linesOf i false 0))
    (hle : ((k.gr.rs i.a.idx).setWidth 32 : W32).toInt ≤ ((k.gr.rs i.a.idx >>> 32).setWidth 32 : W32).toInt) :
    ∃ s1 o, Issues (execWfband i s) s1 k i.hint k.fall ∧ EngineTakes s s1 k o false ∧ o.op = 0x2C2 ∧ o.sv = [k.gr.rs i.a.idx] := by
  have htakes := engineTakes_modTeam (engineTakes_wfIssue (State.ops_issuer h.issuer)
    (op := { MxOp.base k.tid k.g 0 0x2C2 with sv := [k.gr.rs i.a.idx] }) rfl rfl) (f := fun t => { t with wave := { t.wave with
      issuedLo := (k.gr.rs i.a.idx).setWidth 32, issuedHi := (k.gr.rs i.a.idx >>> 32).setWidth 32 } }) (fun _ => rfl) fun _ => rfl
  refine ⟨_, _, ?_, htakes, rfl, rfl⟩
  exact runS_ok h i (if_neg (not_lt.2 hle)) (State.modTeam_errs ..)

theorem wfband_traps (h : Ready s k 0x2C2 (linesOf i false 0))
    (hlt : ((k.gr.rs i.a.idx >>> 32).setWidth 32 : W32).toInt < ((k.gr.rs i.a.idx).setWidth 32 : W32).toInt) :
    execWfband i s = .next (s.raise k.tid k.g k.e 3 2 (k.gr.rs i.a.idx).toNat k.e.mask).done := by
  rw [execWfband, runS_bail h i (b := .t 3 2 (k.gr.rs i.a.idx).toNat) (if_pos hlt)]
  rfl

variable (hroom : ocOf k.gr.ops .mtx < 63)
include hroom

theorem wfrun_run (h : Ready s k 0x2C3 (linesOf i false 0)) (hrule : k.t.wave.issuedRule = true)
    (hx : k.t.ownAddr (k.gr.rs i.a.idx) 1216 64 = .ok ()) (hy : k.t.ownAddr (k.gr.rs i.b.idx) 4096 32 = .ok ()) :
    ∃ s1 o, Issues (execWfrun i s) s1 k i.hint k.fall ∧ EngineTakes s s1 k o true ∧ o.op = 0x2C3
      ∧ o.sv = [k.gr.rs i.a.idx, k.gr.rs i.b.idx] := by
  let op : MxOp := { MxOp.base k.tid k.g 0 0x2C3 with sv := [k.gr.rs i.a.idx, k.gr.rs i.b.idx] }
  have htakes := engineTakes_mxIssue (f := fun id => { op with id := id }) (State.ops_issuer h.issuer) (fun _ => rfl) (fun _ => rfl)
    fun _ => rfl
  refine ⟨_, _, runE_ok h i (rd := k.mxReads op) ?_ (quiet_mxReads k op) ?_, engineTakes_count htakes k.t.core 0x0E 1, rfl, rfl⟩
  · simp only [Iss.sval, hrule, Bool.not_true, Bool.false_eq_true, if_false, hx, hy, State.wfCounted, counterWait_ok hroom]
    rfl
  · rw [State.count_errs, State.errs_mxIssue]

theorem wfedge_run (h : Ready s k 0x2C4 (linesOf i false 0)) (hrule : k.t.wave.issuedRule = true ∨ 2 ≤ i.imm.toNat % 4)
    (hx : k.t.ownAddr (k.gr.rs i.d.idx) 1216 64 = .ok ())
    (hy : 2 ≤ i.imm.toNat % 4 → k.t.ownAddr (k.gr.rs i.a.idx) 1216 64 = .ok ()) :
    ∃ s1 o, Issues (execWfedge i s) s1 k i.hint k.fall ∧ EngineTakes s s1 k o true ∧ o.op = 0x2C4 ∧ o.imm = i.imm.toNat % 4 := by
  have hr : ¬ (i.imm.toNat % 4 < 2 ∧ (!k.t.wave.issuedRule) = true) := fun hc => by
    rcases hrule with hrule | hrule
    · simp [hrule] at hc
    · omega
  have hy' : k.t.ownAddr (if 2 ≤ i.imm.toNat % 4 then k.gr.rs i.a.idx else k.gr.rs i.d.idx) 1216 64 = .ok () := by
    split
    · next h2 => exact hy h2
    · exact hx
  refine ⟨_, _, runE_wfCounted h hroom (o := { MxOp.base k.tid k.g 0 0x2C4 with
    imm := i.imm.toNat % 4, sv := [k.gr.rs i.d.idx, if 2 ≤ i.imm.toNat % 4 then k.gr.rs i.a.idx else k.gr.rs i.d.idx] }) ?_,
    engineTakes_wfCounted h.issuer rfl rfl, rfl, rfl⟩
  simp only [Iss.sval, if_neg hr, hx, hy']

theorem tbwalk_run (h : Ready s k 0x2C5 (linesOf i false 0)) (hc : (k.gr.rs i.b.idx).toNat < 2 ^ 16)
    (hrow : (k.gr.rs i.b.idx).toNat % 256 ≤ 127) (hcol : (k.gr.rs i.b.idx).toNat / 256 ≤ 127)
    (hx : k.t.ownAddr (k.gr.rs i.d.idx) 72 8 = .ok ()) (hy : k.t.ownAddr (k.gr.rs i.a.idx) 4096 32 = .ok ()) :
    ∃ s1 o, Issues (execTbwalk i s) s1 k i.hint k.fall ∧ EngineTakes s s1 k o true ∧ o.op = 0x2C5 := by
  have hin : ¬ (2 ^ 16 ≤ (k.gr.rs i.b.idx).toNat ∨ 127 < (k.gr.rs i.b.idx).toNat % 256 ∨ 127 < (k.gr.rs i.b.idx).toNat / 256) := by
    omega
  refine ⟨_, _, runE_wfCounted h hroom (o := { MxOp.base k.tid k.g 0 0x2C5 with
    sv := [k.gr.rs i.d.idx, k.gr.rs i.a.idx, BitVec.ofNat 64 (k.gr.rs i.b.idx).toNat] }) ?_,
    engineTakes_wfCounted h.issuer rfl rfl, rfl⟩
  simp only [Iss.sval, if_neg hin, hx, hy]

theorem wfscore_run (h : Ready s k 0x2C6 (linesOf i false 1)) :
    ∃ s1 o, Issues (execWfscore i s) s1 k i.hint k.fall ∧ EngineTakes s s1 k o true ∧ o.op = 0x2C6 ∧ o.d = i.d.idx :=
  ⟨_, _, runE_wfCounted h hroom rfl, engineTakes_wfCounted h.issuer rfl rfl, rfl, rfl⟩

end

/-- Settles O29, one lemma for each instruction. -/
theorem wavefrontIssue : Obligations.WavefrontIssue := by
  intro s k i
  refine ⟨fun h r hr => ⟨fun hnone => ?_, fun bs hsome hbs => ?_⟩, fun h => ⟨wfband_run h, wfband_traps h⟩,
    fun h hroom => wfrun_run hroom h, fun h hroom => wfedge_run hroom h, fun h hroom => tbwalk_run hroom h,
    fun h hroom => wfscore_run hroom h⟩
  · obtain ⟨o, s1⟩ := r
    exact wfcfg_waits h (hnone ▸ hr)
  · obtain ⟨o, s1⟩ := r
    exact wfcfg_run h (hsome ▸ hr) hbs

end Sys2Proof.Machine
end

section
/-! Commands to the transfer processor from its team (17 R383, R384). -/
namespace Sys2Proof.Machine

open Host (Outcome)

theorem State.dxp_modDxp (s : State) (core : Nat) (f : Dxp → Dxp) : ((s.modDxp core f).core core).dxp = f (s.core core).dxp := by
  unfold State.modDxp
  rw [State.core_modCore, if_pos rfl]

/-- The state in which a command is posted to the transfer processor of the group's core. -/
def State.dxPosted (s : State) (k : Iss) (entry : W64) (words : List W64) : State :=
  ((s.newOp.2.modGroup k.tid k.g fun g => g.addOp s.nextOp .cpy).modDxp k.t.core fun x =>
    { x with cmds := x.cmds ++ [⟨k.tid, k.g, s.nextOp, k.e.pc, k.e.mask, entry, words⟩] }).clearIdem k.tid

section
variable (s : State) (k : Iss) (entry : W64) (words : List W64)

theorem State.dxPost_eq (hroom : ocOf k.gr.ops .cpy < 63) (hcmds : (s.core k.t.core).dxp.cmds.length < 16) :
    s.dxPost k entry words = .ok (s.dxPosted k entry words) := by
  simp only [State.dxPost, counterWait_ok hroom, if_neg (not_le.2 hcmds)]
  rfl

theorem State.errs_dxPosted : (s.dxPosted k entry words).errs = s.errs := by
  rw [State.dxPosted, State.clearIdem_errs, State.modDxp_errs, State.modGroup_errs]
  rfl

theorem State.cmds_dxPosted : ((s.dxPosted k entry words).core k.t.core).dxp.cmds
    = (s.core k.t.core).dxp.cmds ++ [⟨k.tid, k.g, s.nextOp, k.e.pc, k.e.mask, entry, words⟩] := by
  rw [State.dxPosted, State.core_clearIdem, State.dxp_modDxp, State.core_modGroup]
  rfl

variable {s k} in
theorem State.ops_dxPosted (hg : s.group? k.tid k.g = some k.gr) :
    ((s.dxPosted k entry words).group? k.tid k.g).map Group.ops = some (k.gr.ops ++ [⟨s.nextOp, .cpy, false⟩]) := by
  have hg' : s.newOp.2.group? k.tid k.g = some k.gr := (State.group?_of_teams rfl ..).trans hg
  rw [State.dxPosted, State.group?_clearIdem, State.group?_modDxp, State.group?_modGroup, if_pos ⟨rfl, rfl⟩, hg']
  rfl

end

section
variable {s : State} {k : Iss} {i : Slots}

theorem exists_ok_ite {ε α : Type} {P : Prop} [Decidable P] {x y : Except ε α} (hx : ∃ a, x = .ok a) (hy : ∃ a, y = .ok a) :
    ∃ a, (if P then x else y) = .ok a := by
  split
  · exact hx
  · exact hy

theorem dxsig_issues (h : Ready s k 0x305 (linesOf i false 0)) : ∃ s1, Issues (execDxsig i s) s1 k i.hint k.fall := by
  refine runS_issues_ex h i (exists_ok_ite ⟨_, rfl⟩ ?_)
  split
  · exact ⟨_, rfl⟩
  · split <;> exact ⟨_, rfl⟩

theorem State.group?_answered (hk : s.issuer = some k) {t : State} (ht : t.teams = s.teams) (d : Nat) (v : W64) :
    ((t.modGroup k.tid k.g fun g => g.ws d v).clearIdem k.tid).group? k.tid k.g = some (k.gr.ws d v) := by
  rw [State.group?_clearIdem, State.group?_modGroup, if_pos ⟨rfl, rfl⟩, State.group?_of_teams ht, State.group?_issuer hk]
  rfl

theorem dxsig_idle (h : Ready s k 0x305 (linesOf i false 0)) (hrun : (s.core k.t.core).dxp.run = none)
    (hcmds : ∀ c ∈ (s.core k.t.core).dxp.cmds, c.tid ≠ k.tid) :
    Issues (execDxsig i s) ((s.modGroup k.tid k.g fun g => g.ws i.d.idx 1).clearIdem k.tid) k i.hint k.fall := by
  have hnone : ((s.core k.t.core).dxp.cmds.findIdx? fun c => c.tid == k.tid) = none :=
    List.findIdx?_eq_none_iff.2 fun c hc => beq_eq_false_iff_ne.2 (hcmds c hc)
  refine runS_ok h i ?_ (by simp)
  simp only [hrun, Bool.false_eq_true, if_false, hnone]

theorem dxsig_stops (h : Ready s k 0x305 (linesOf i false 0)) {r : DxRun} (hrun : (s.core k.t.core).dxp.run = some r)
    (htid : r.cmd.tid = k.tid) (hend : r.ending = none) :
    Issues (execDxsig i s) (((s.modDxp k.t.core fun x =>
      { x with run := x.run.map fun r => { r with stop := some (r.stop.getD ⟨15, i.imm.toNat % 256, 0⟩) } }).modGroup k.tid k.g
        fun g => g.ws i.d.idx 0).clearIdem k.tid) k i.hint k.fall := by
  refine runS_ok h i ?_ (by rw [State.clearIdem_errs, State.modGroup_errs, State.modDxp_errs])
  simp only [hrun, htid, hend, beq_self_eq_true, Option.isNone_none, Bool.and_self, if_true]

end

/-- Settles O33: dxrun posts, dxsig stops the program of its team. -/
theorem dxpCommands : Obligations.DxpCommands := by
  intro s k i
  refine ⟨fun h hroom hcmds => ?_, dxsig_issues, fun h hrun hcmds => ?_, fun h r hrun htid hend hstop => ?_⟩
  · exact ⟨_, _, runS_ok h i (State.dxPost_eq s k _ _ hroom hcmds) (State.errs_dxPosted ..), State.cmds_dxPosted .., rfl, rfl,
      State.ops_dxPosted _ _ (State.group?_issuer h.issuer)⟩
  · exact ⟨_, dxsig_idle h hrun hcmds, State.group?_answered h.issuer rfl ..⟩
  · refine ⟨_, dxsig_stops h hrun htid hend, State.group?_answered h.issuer (State.modDxp_teams ..) .., ?_⟩
    rw [State.core_clearIdem, State.core_modGroup, State.dxp_modDxp, hrun]
    simp [hstop]

end Sys2Proof.Machine
end

section
/-! cpyt, cpyg and cpys start their copies (17 R375-R381). -/
namespace Sys2Proof.Machine

open Host (Outcome)

/-! ## What the checks of a copy leave -/

/-- t has the teams of s, and its cores but for their coherent views. -/
def ViewsOnly (s t : State) : Prop := t.teams = s.teams ∧ ∀ n, t.core n = { s.core n with view := (t.core n).view }

namespace ViewsOnly

variable {s t u : State}

theorem refl (s : State) : ViewsOnly s s := ⟨rfl, fun _ => rfl⟩

theorem trans (h : ViewsOnly s t) (h' : ViewsOnly t u) : ViewsOnly s u := by
  refine ⟨h'.1.trans h.1, fun n => ?_⟩
  have e := h'.2 n
  rw [h.2 n] at e
  exact e

theorem of_sensed (h : Sensed s t) : ViewsOnly s t := ⟨h.teams, h.2⟩

theorem of_posted (h : Posted s t) : ViewsOnly s t := ⟨h.teams, fun n => by rw [h.core n]⟩

theorem homeSet (s : State) (key pa : Nat) (b : Byte) : ViewsOnly s (s.homeSet key pa b) :=
  ⟨State.homeSet_teams .., fun n => by rw [State.core_homeSet]⟩

theorem foldl {α : Type} {f : State → α → State} (hf : ∀ x a, ViewsOnly x (f x a)) (xs : List α) (s : State) : ViewsOnly s (xs.foldl f s) :=
  foldl_keep (ViewsOnly s) f (fun x a hx => hx.trans (hf x a)) xs s (refl s)

theorem modCore (s : State) (core : Nat) {f : Core → Core} (hf : ∀ c, f c = { c with view := (f c).view }) :
    ViewsOnly s (s.modCore core f) := of_sensed (.modCore s core hf)

theorem writeBack (s : State) (core : Nat) (p : Nat → CvByte → Bool) : ViewsOnly s (s.writeBack core p) := by
  unfold State.writeBack
  refine .trans (foldl (fun x e => ?_) _ s) (modCore _ core fun _ => rfl)
  exact homeSet x ..

theorem promote (s : State) (core pa : Nat) : ViewsOnly s (s.promote core pa) := foldl (fun x _ => writeBack x ..) _ s

theorem homeReady (s : State) (core pa n : Nat) : ViewsOnly s (s.homeReady core pa n) :=
  ((writeBack s ..).trans (modCore _ core fun _ => rfl)).trans (foldl (fun x _ => promote x ..) _ _)

theorem homeWrite (s : State) (key pa : Nat) (bs : List Byte) : ViewsOnly s (s.homeWrite key pa bs) := by
  induction bs generalizing s pa with
  | nil => exact refl s
  | cons b bs ih => exact (homeSet s key pa b).trans (ih ..)

theorem barRead (s : State) (core : Nat) (loc : Loc) : ViewsOnly s (s.barRead core loc).2 := by
  unfold State.barRead
  split
  · exact refl s
  · next pa _ =>
    have h := homeReady s core pa 16
    generalize s.homeReady core pa 16 = x at h ⊢
    exact h
  · exact refl s

theorem copyBar {k : Iss} {bar : Nat} {r : Option Loc × Option Nat × State} (hr : s.copyBar k bar = .ok r) : ViewsOnly s r.2.2 := by
  unfold State.copyBar at hr
  split at hr
  · cases hr
    exact refl s
  · split at hr
    · cases hr
    · split at hr
      · split at hr <;> cases hr
        exact refl s
      · cases hr
      · split at hr
        · cases hr
        · dsimp only at hr
          split at hr <;> cases hr
          exact barRead s ..

theorem passGate {t : Team} {gate size : Nat} {src dst : Option (List (Nat × Nat))} {r : State × Nat × Nat}
    (hr : s.passGate t gate src dst size = .ok r) : ViewsOnly s r.1 := by
  unfold State.passGate at hr
  split at hr
  · cases hr
    exact refl s
  · dsimp only at hr
    split at hr
    · cases hr
    · split at hr
      · cases hr
      · split at hr
        · cases hr
        · generalize hx : s.homeWrite _ _ _ = x at hr
          have hv : ViewsOnly s x := hx ▸ homeWrite ..
          split at hr
          · cases hr
            exact hv
          · split at hr <;> cases hr
            exact hv

theorem gateOut {r : Except Trap (State × Nat × Nat)} (hr : ∀ x, r = .ok x → ViewsOnly s x.1) : ViewsOnly s (gateOut s r).1 := by
  unfold Machine.gateOut
  split
  · next h => exact hr _ rfl
  · exact refl s

end ViewsOnly

/-! ## A copy that enters the engine -/

theorem State.spadBytes_of_teams {s t : State} (h : t.teams = s.teams) (tid off n : Nat) : t.spadBytes tid off n = s.spadBytes tid off n := by
  simp only [State.spadBytes, State.team?, h]

section
variable {s x : State} {k : Iss} {cls : OpClass}

theorem copyStarts_copyIssue (hk : s.issuer = some k) (hx : ViewsOnly s x) {f : Nat → CopyOp} (htid : (f x.nextOp).tid = k.tid)
    (hg : (f x.nextOp).g = k.g) (hcls : (f x.nextOp).cls = cls) (hdx : (f x.nextOp).dx = false) (hplan : (f x.nextOp).plan = none)
    (hwrote : (f x.nextOp).wrote = []) (hid : (f x.nextOp).opId = x.nextOp) :
    CopyStarts s (x.copyIssue k cls f) k cls (f x.nextOp) := by
  refine ⟨?_, htid, hg, hcls, hdx, hplan, hwrote, ?_, fun tid off n => ?_⟩
  · have hc := congrArg Core.copies (hx.2 k.t.core)
    rw [State.copyIssue, State.core_modCore, if_pos rfl, State.core_modGroup]
    exact congrArg (· ++ [f x.nextOp]) hc
  · have hgr : x.newOp.2.group? k.tid k.g = some k.gr :=
      ((State.group?_of_teams (s := x) rfl ..).trans (State.group?_of_teams hx.1 ..)).trans (State.group?_issuer hk)
    rw [State.copyIssue, State.group?_modCore, State.group?_modGroup, if_pos ⟨rfl, rfl⟩, hgr, hid]
    rfl
  · have hmem : SameMemory x.newOp.2 (x.newOp.2.modGroup k.tid k.g fun g => g.addOp x.nextOp cls) := sameMemory_modTeam _ _ fun _ => rfl
    exact (hmem.2.1 tid off n).trans (State.spadBytes_of_teams (s := s) (t := x.newOp.2) hx.1 ..)

theorem copyStarts_later {s1 s2 : State} {c : CopyOp} (h : CopyStarts s s1 k cls c)
    (hcore : (s2.core k.t.core).copies = (s1.core k.t.core).copies)
    (hops : (s2.group? k.tid k.g).map Group.ops = (s1.group? k.tid k.g).map Group.ops)
    (hspad : ∀ tid off n, s2.spadBytes tid off n = s1.spadBytes tid off n) : CopyStarts s s2 k cls c := by
  obtain ⟨h1, h2, h3, h4, h5, h6, h7, h8, h9⟩ := h
  exact ⟨hcore.trans h1, h2, h3, h4, h5, h6, h7, hops.trans h8, fun a b c => (hspad a b c).trans (h9 a b c)⟩

theorem copyStarts_clearIdem {s1 : State} {c : CopyOp} (h : CopyStarts s s1 k cls c) (P : Prop) [Decidable P] :
    CopyStarts s (if P then s1.clearIdem k.tid else s1) k cls c := by
  split
  · exact copyStarts_later h (by rw [State.core_clearIdem]) (by rw [State.group?_clearIdem])
      (sameMemory_modTeam s1 k.tid (f := fun t => { t with idem := false }) fun _ => rfl).2.1
  · exact h

theorem copyStarts_readRegs {s1 : State} {c : CopyOp} (h : CopyStarts s s1 k cls c) (ls : List Nat × List Nat) :
    CopyStarts s (s1.readRegs k ls).1 k cls c :=
  have hp := Posted.readRegs s1 k ls
  copyStarts_later h (by rw [hp.core]) (by rw [hp.group?]) (State.spadBytes_of_teams hp.teams)

theorem copyStarts_gathered {s1 : State} {c : CopyOp} (h : CopyStarts s s1 k cls c) (ls : List Nat × List Nat) :
    CopyStarts s (s1.gathered k ls) k cls c := by
  refine copyStarts_later (copyStarts_readRegs h ls) (by rw [State.gathered, State.core_modGroup]) ?_
    (sameMemory_modTeam (s1.readRegs k ls).1 k.tid (f := fun t => t.modGroup k.g fun g => { g with gath := [], asked := [] }) fun _ => rfl).2.1
  rw [State.gathered, State.group?_modGroup, if_pos ⟨rfl, rfl⟩, Option.map_map]
  rfl

end

/-! ## The instructions -/

theorem viewsOnly_gate (s : State) (t : Team) (gate size : Nat) (dir : Bool) (ranges : List (Nat × Nat)) :
    ViewsOnly s (gateOut s (if dir then s.passGate t gate none (some ranges) size else s.passGate t gate (some ranges) none size)).1 := by
  refine .gateOut fun x hx => ?_
  split at hx <;> exact .passGate hx

/-- A copy that passes its checks starts, whatever its gate gives. -/
theorem copyStarts_issued {s x : State} {k : Iss} (hk : s.issuer = some k) (hx : ViewsOnly s x) (cls : OpClass) (spec : CopySpec)
    (tag bar size : Nat) (loc : Option Loc) (phase : Option Nat) (gate : Except Trap (Nat × Nat)) (P : Prop) [Decidable P] :
    CopyStarts s (if P then (x.copyIssue k cls fun id => k.copyOp id cls spec tag bar size loc phase gate).clearIdem k.tid
      else x.copyIssue k cls fun id => k.copyOp id cls spec tag bar size loc phase gate) k cls
      (k.copyOp x.nextOp cls spec tag bar size loc phase gate) :=
  copyStarts_clearIdem (copyStarts_copyIssue hk hx (f := fun id => k.copyOp id cls spec tag bar size loc phase gate)
    rfl rfl rfl rfl rfl rfl rfl) P

/-- What the bounds and the gate of a tensor copy give at issue. -/
def tensorGate (s : State) (k : Iss) (r : TRec) (dir : Bool) (c : List Int) : State × Except Trap (Nat × Nat) :=
  let ranges := (List.range r.bytes).filterMap fun q =>
    if r.keep c (q / r.row) (q % r.row) = 0 then none else some (r.addr c (q / r.row) (q % r.row), 1)
  match if r.oor = 1 then r.firstOut c else none with
  | some a => (s, .error ⟨8, 1, a⟩)
  | none => gateOut s (if dir then s.passGate k.t r.gate none (some ranges) r.bytes
      else s.passGate k.t r.gate (some ranges) none r.bytes)

theorem viewsOnly_tensorGate (s : State) (k : Iss) (r : TRec) (dir : Bool) (c : List Int) : ViewsOnly s (tensorGate s k r dir c).1 := by
  unfold tensorGate
  generalize (if r.oor = 1 then r.firstOut c else none) = out
  cases out with
  | some a => exact .refl s
  | none => exact viewsOnly_gate ..

/-- What a tensor copy is. -/
def Iss.tensorSpec (k : Iss) (i : Slots) (bs : List Byte) : CopySpec :=
  .tensor bs (k.gr.coords i.b.idx) (bit i.imm.toNat 0) (if i.d.isM then some i.d.idx else none) (k.localBase i.d)
    (if i.d.isM && bit i.imm.toNat 0 then k.t.tile i.d.idx else [])

section
variable {s s0 : State} {k : Iss} {i : Slots} {bs : List Byte}

theorem cpytEngine_eq (hroom : ocOf k.gr.ops .cpy < 63) {r : TRec} {bar : Nat} {l : Loc}
    (hl : i.d.isM = true ∨ s0.copyLocal k (k.localBase i.d) r.bytes (if r.swz = 0 then 32 else 128) = .ok l)
    {loc : Option Loc} {phase : Option Nat} {s1 : State} (hb : s0.copyBar k bar = .ok (loc, phase, s1)) :
    ∃ P : Bool, cpytEngine i s0 k r bs bar = .ok (
      let gt := tensorGate s1 k r (bit i.imm.toNat 0) ((k.gr.coords i.b.idx).map fun x => x.toInt)
      let s2 := gt.1.copyIssue k .cpy fun id => k.copyOp id .cpy (k.tensorSpec i bs) r.tag bar r.bytes loc phase gt.2
      if P then s2.clearIdem k.tid else s2) := by
  unfold cpytEngine
  simp only [hb]
  split
  · next b heq =>
    exfalso
    split at heq
    · cases heq
    · next hm =>
      rw [hl.resolve_left hm] at heq
      cases heq
  · rw [counterWait_ok hroom]
    exact ⟨_, rfl⟩

theorem cpytEngine_starts (hk : s.issuer = some k) (hs : ViewsOnly s s0) (hroom : ocOf k.gr.ops .cpy < 63) {r : TRec} {bar : Nat} {l : Loc}
    (hl : i.d.isM = true ∨ s0.copyLocal k (k.localBase i.d) r.bytes (if r.swz = 0 then 32 else 128) = .ok l)
    {b : Option Loc × Option Nat × State} (hb : s0.copyBar k bar = .ok b) :
    ∃ s2 c, cpytEngine i s0 k r bs bar = .ok s2 ∧ CopyStarts s s2 k .cpy c ∧ c.size = r.bytes ∧ c.bar = bar
      ∧ c.spec = k.tensorSpec i bs := by
  obtain ⟨loc, phase, s1⟩ := b
  obtain ⟨P, heng⟩ := cpytEngine_eq (bs := bs) hroom hl hb
  have hx := viewsOnly_tensorGate s1 k r (bit i.imm.toNat 0) ((k.gr.coords i.b.idx).map fun x => x.toInt)
  generalize tensorGate s1 k r (bit i.imm.toNat 0) ((k.gr.coords i.b.idx).map fun x => x.toInt) = gt at heng hx
  exact ⟨_, k.copyOp gt.1.nextOp .cpy (k.tensorSpec i bs) r.tag bar r.bytes loc phase gt.2, heng,
    copyStarts_issued hk ((hs.trans (.copyBar hb)).trans hx) .cpy _ _ _ _ _ _ _ (P = true), rfl, rfl, rfl⟩

theorem cpytGo_engine {r : TRec} (hr : r = tensorRec bs) (hbad : r.bad = false) (hshape : cpytShape i k r = .ok ()) (hentry : r.entry = 0) :
    cpytGo i s0 k bs = cpytEngine i s0 k r bs (k.gr.rs (i.a.idx + 1)).toNat := by
  subst hr
  simp only [cpytGo, hbad, Bool.false_eq_true, if_false, hshape, hentry, if_true]

theorem cpytGo_posts {r : TRec} (hr : r = tensorRec bs) (hbad : r.bad = false) (hshape : cpytShape i k r = .ok ()) (hentry : r.entry ≠ 0)
    (hbar : (k.gr.rs (i.a.idx + 1)).toNat % 16 = 0) {l : Loc}
    (hl : s0.copyLocal k (k.localBase i.d) r.bytes (if r.swz = 0 then 32 else 128) = .ok l) :
    ∃ ws, ws.length = 7 ∧ cpytGo i s0 k bs = s0.dxPost k (BitVec.ofNat 64 r.entry) ws := by
  subst hr
  simp only [cpytGo, hbad, Bool.false_eq_true, if_false, hshape, hentry, hbar, ne_eq, not_true, hl]
  exact ⟨_, rfl, rfl⟩

variable (h : Ready s k 0x301 (linesOf i false 2)) (hroom : ocOf k.gr.ops .cpy < 63)
  (hr : s.readRec k (k.gr.rs i.a.idx).toNat 64 64 false = .ok (some bs, s0)) (hbad : (tensorRec bs).bad = false)
  (hshape : cpytShape i k (tensorRec bs) = .ok ())
include h hroom hr hbad hshape

theorem cpyt_copies {l : Loc} (hentry : (tensorRec bs).entry = 0)
    (hl : i.d.isM = true ∨ s0.copyLocal k (k.localBase i.d) (tensorRec bs).bytes (if (tensorRec bs).swz = 0 then 32 else 128) = .ok l)
    {b : Option Loc × Option Nat × State} (hb : s0.copyBar k (k.gr.rs (i.a.idx + 1)).toNat = .ok b) :
    ∃ s1 c, Issues (execCpyt i s) s1 k i.hint k.fall ∧ CopyStarts s s1 k .cpy c ∧ c.size = (tensorRec bs).bytes
      ∧ c.bar = (k.gr.rs (i.a.idx + 1)).toNat ∧ c.spec = k.tensorSpec i bs := by
  obtain ⟨s2, c, heng, hstarts, hc⟩ := cpytEngine_starts h.issuer (.of_sensed (sensed_readRec k _ h.errs hr)) hroom hl hb
  refine ⟨_, c, runH_issues h i ?_, copyStarts_gathered hstarts _, hc⟩
  simp only [hr, cpytGo_engine rfl hbad hshape hentry, heng]

theorem cpyt_posts {l : Loc} (hentry : (tensorRec bs).entry ≠ 0) (hbar : (k.gr.rs (i.a.idx + 1)).toNat % 16 = 0)
    (hl : s0.copyLocal k (k.localBase i.d) (tensorRec bs).bytes (if (tensorRec bs).swz = 0 then 32 else 128) = .ok l)
    (hcmds : (s.core k.t.core).dxp.cmds.length < 16) :
    ∃ s1 c, Issues (execCpyt i s) s1 k i.hint k.fall ∧ (s1.core k.t.core).dxp.cmds = (s.core k.t.core).dxp.cmds ++ [c] ∧ c.tid = k.tid
      ∧ c.words.length = 7 ∧ c.entry = BitVec.ofNat 64 (tensorRec bs).entry := by
  have hs := congrArg (fun c : Core => c.dxp.cmds) ((sensed_readRec k _ h.errs hr).2 k.t.core)
  have hs : (s0.core k.t.core).dxp.cmds = (s.core k.t.core).dxp.cmds := hs
  obtain ⟨ws, hlen, hgo⟩ := cpytGo_posts rfl hbad hshape hentry hbar hl
  rw [State.dxPost_eq s0 k _ _ hroom (hs ▸ hcmds)] at hgo
  refine ⟨_, ⟨k.tid, k.g, s0.nextOp, k.e.pc, k.e.mask, BitVec.ofNat 64 (tensorRec bs).entry, ws⟩,
    runH_issues h i (s1 := s0.dxPosted k (BitVec.ofNat 64 (tensorRec bs).entry) ws) ?_, ?_, rfl, hlen, rfl⟩
  · simp only [hr, hgo]
  · rw [State.core_gathered, State.cmds_dxPosted, hs]

end

theorem tensorCopies : TensorCopies := by
  intro s k i h hroom bs s0 hr hbad hshape l hl
  exact ⟨fun hentry r hb => cpyt_copies h hroom hr hbad hshape hentry hl hb, fun hentry hm hbar hcmds =>
    cpyt_posts h hroom hr hbad hshape hentry hbar (hl.resolve_left (hm ▸ Bool.false_ne_true)) hcmds⟩

/-- An instruction that starts a copy completes with the copy in the engine. -/
theorem runS_copyStarts {s : State} {k : Iss} {op n b : Nat} {ls : List Nat × List Nat} {cls : OpClass} (h : Ready s k op ls) (sl : Slots)
    {f : Iss → Except Bail State} (hf : ∃ s2 c, f k = .ok s2 ∧ CopyStarts s s2 k cls c ∧ c.size = n ∧ c.bar = b) :
    ∃ s1 c, Issues (runS op s sl ls f) s1 k sl.hint k.fall ∧ CopyStarts s s1 k cls c ∧ c.size = n ∧ c.bar = b := by
  obtain ⟨s2, c, hf, hstarts, hc⟩ := hf
  exact ⟨_, c, runS_issues h sl hf, copyStarts_readRegs hstarts ls, hc⟩

section
variable {s : State} {k : Iss} {i : Slots} {op : Nat} {sc : Bool} {a : BitVec 8} {x : Nat} (h : Ready s k op (linesOf i false 2))
  (ha : i.a = .v a) (htag : tagMatch 0x10 (k.gr.rtag a.toNat) = true) (hx : x = (k.gr.rs (i.b.idx + 2)).toNat)
  (hpad : bits x 55 48 = 0) (heven : bits x 47 32 % 2 = 0) (hdef : tagDefined (bits x 63 56) = true) (hE0 : bits x 63 56 ≠ 0xE0)
  (hE1 : bits x 63 56 ≠ 0xE1) (htile : i.d.isM = true → sc = true → k.t.checkTile i.d.idx (bits x 63 56) 3 = .ok ())
  (hspad : i.d.isM = false → k.localBase i.d % 32 = 0 ∧
    ∀ p ∈ s.rowPlaces k (k.localBase i.d) (32 * (i.imm.toNat % 16 + 1)), p.2.isSome = true)
  (hbase : (k.gr.rs i.b.idx).toNat % 32 = 0) (hroom : ocOf k.gr.ops (if sc then .cpy else .gth) < 63)
include h ha htag hx hpad heven hdef hE0 hE1 htile hspad hbase hroom

theorem gatherInstr_starts {r : Option Loc × Option Nat × State} (hr : s.copyBar k (k.gr.rs (i.b.idx + 1)).toNat = .ok r) :
    ∃ s1 c, Issues (gatherInstr op sc i s) s1 k i.hint k.fall ∧ CopyStarts s s1 k (if sc then .cpy else .gth) c
      ∧ c.size = (lanesOf k.e.mask).length * (32 * (i.imm.toNat % 16 + 1)) ∧ c.bar = (k.gr.rs (i.b.idx + 1)).toNat := by
  obtain ⟨loc, phase, s1⟩ := r
  have hsrc : k.gr.checkTag i.a 0x10 false 1 = .ok () := ha ▸ Group.checkTag_narrow htag 1
  have htile' : (if (i.d.isM && sc) = true then k.t.checkTile i.d.idx (bits x 63 56) 3 else .ok ()) = .ok () := by
    split
    · next hm =>
      rw [Bool.and_eq_true] at hm
      exact htile hm.1 hm.2
    · rfl
  have hctl : ¬ (bits x 55 48 ≠ 0 ∨ bits x 47 32 % 2 = 1
      ∨ (!tagDefined (bits x 63 56) || bits x 63 56 == 0xE0 || bits x 63 56 == 0xE1) = true) := by
    simp [hpad, heven, hdef, hE0, hE1]
  have hout : (if i.d.isM = true then [] else s.rowPlaces k (k.localBase i.d) (32 * (i.imm.toNat % 16 + 1))).filter
      (fun p => p.2.isNone) = [] := by
    split
    · rfl
    · next hm =>
      refine List.filter_eq_nil_iff.2 fun p hp => ?_
      rw [← Option.not_isSome, (hspad (Bool.eq_false_of_not_eq_true hm)).2 p hp]
      exact Bool.false_ne_true
  have hlb : ¬ ((!i.d.isM) = true ∧ k.localBase i.d % 32 ≠ 0) := fun hc => hc.2 (hspad (Bool.not_eq_true' _ ▸ hc.1)).1
  have hb : ¬ (k.gr.rs i.b.idx).toNat % 32 ≠ 0 := fun hc => hc hbase
  refine runS_copyStarts h i ?_
  subst hx
  simp only [hsrc, htile', if_neg hctl, hr, hout, List.isEmpty_nil, Bool.not_true, Bool.false_eq_true, if_false, if_neg hb, if_neg hlb,
    counterWait_ok hroom]
  have hgate := viewsOnly_gate s1 k.t
  exact ⟨_, _, rfl, copyStarts_issued h.issuer ((ViewsOnly.copyBar hr).trans (hgate _ _ _ _)) .., rfl, rfl⟩

end

theorem gatherScatter : GatherScatter := by
  intro s k i op sc con a hcon h ha htag x hx hpad heven hdef hE0 hE1 htile hspad r hr hbase hroom
  have hstarts := gatherInstr_starts h ha htag hx hpad heven hdef hE0 hE1 htile hspad hbase hroom hr
  rcases List.mem_pair.1 hcon with he | he <;> cases he <;> exact hstarts

/-- Settles O32: a tensor copy starts or posts a command; a gather or a scatter starts. -/
theorem copies : Obligations.Copies := ⟨tensorCopies, gatherScatter⟩

end Sys2Proof.Machine
end

section
/-! The instructions of a transfer program: loops, coordinates, branches, calls and its end (17 R385-R393). -/
namespace Sys2Proof.Machine

open Host (Outcome)

/-! ## Values -/

theorem ofI_eq_ofInt (n : Nat) (x : Int) : ofI n x = BitVec.ofInt n x := by
  refine BitVec.eq_of_toNat_eq ?_
  rw [ofI, BitVec.toNat_ofNat, BitVec.toNat_ofInt, Nat.mod_eq_of_lt (wrapI_lt n x), wrapI]

theorem sextI_low (n : Nat) (hn : n ≠ 0) (x : W64) : sextI n x.toNat = (x.setWidth n).toInt := by
  rw [← sextI_toNat hn, BitVec.toNat_setWidth, sextI, sextI, Nat.mod_mod]

/-- A coordinate times its stride, in 64 bits. -/
def Dxp.term (x : Dxp) (a j : Nat) : W64 := (((x.rd (a + 2 * j)).setWidth 32).signExtend 64) * x.rd (a + 2 * j + 1)

theorem ofInt_add_dxAddress (x : Dxp) (a n : Nat) (c : Int) :
    BitVec.ofInt 64 (c + dxAddress x a n) = (List.range n).foldl (fun t j => t + x.term a j) (BitVec.ofInt 64 c) := by
  suffices h : ∀ (xs : List Nat) (t : Int), BitVec.ofInt 64 (c + xs.foldl (fun (t : Int) j =>
      t + sextI 32 (x.rd (a + 2 * j)).toNat * (x.rd (a + 2 * j + 1)).toNat) t)
        = xs.foldl (fun t j => t + x.term a j) (BitVec.ofInt 64 (c + t)) by
    rw [dxAddress, h, Int.add_zero]
  intro xs
  induction xs with
  | nil => exact fun _ => rfl
  | cons j xs ih =>
    intro t
    rw [List.foldl_cons, List.foldl_cons, ih, ← Int.add_assoc, BitVec.ofInt_add, BitVec.ofInt_mul, BitVec.ofInt_natCast,
      BitVec.ofNat_toNat, BitVec.setWidth_eq, sextI_low 32 (by decide)]
    rfl

/-! ## The running program -/

theorem State.dxIssuer_eq {s : State} {k : Dss} (h : s.dxIssuer = some k) :
    (s.core k.core).dxp = k.x ∧ k.x.run = some k.run ∧ k.run.ending = none ∧ s.team? k.run.cmd.tid = some k.t := by
  unfold State.dxIssuer at h
  split at h
  · next core hcur =>
    dsimp only at h
    split at h
    · cases h
    · next r hrun =>
      split at h
      · cases h
      · next hend =>
        split at h
        · next t ht =>
          cases h
          exact ⟨rfl, hrun, by simpa using hend, ht⟩
        · cases h
  · cases h

section
variable {s : State} {k : Dss} (h : ReadyDxp s k)
include h

theorem ReadyDxp.dxp : (s.core k.core).dxp = k.x := (State.dxIssuer_eq h.1).1
theorem ReadyDxp.run : (s.core k.core).dxp.run = some k.run := h.dxp ▸ (State.dxIssuer_eq h.1).2.1
theorem ReadyDxp.ending : k.run.ending = none := (State.dxIssuer_eq h.1).2.2.1
theorem ReadyDxp.team : s.team? k.run.cmd.tid = some k.t := (State.dxIssuer_eq h.1).2.2.2

/-- A change of the running program is the program it gives. -/
theorem ReadyDxp.modDxp (f : Dxp → Dxp) : s.modDxp k.core f = s.modDxp k.core fun _ => f k.x := by
  rw [← h.dxp]
  rfl

end

theorem State.dxp_done (s : State) (n : Nat) : (s.done.core n).dxp = (s.core n).dxp := by
  obtain ⟨-, -, hcore, -⟩ := onlyGroup_done 0 0 s
  exact (congrArg Core.dxp (hcore n) :)

theorem Dxp.rd_wd (x : Dxp) (n m : Nat) (v : W64) : (x.wd n v).rd m = if m = n then v else x.rd m := SMap.get_set ..

/-! ## The end of a program -/

section
variable {s : State} {core : Nat} {r : DxRun} (hr : (s.core core).dxp.run = some r)
include hr

/-- The state in which a program that runs has come to its end. -/
def State.dxEnding (s : State) (core : Nat) : State :=
  s.modDxp core fun x => { x with run := x.run.map fun r => { r with ending := some none, hold := none } }

theorem State.run_dxEnding : ((s.dxEnding core).core core).dxp.run = some { r with ending := some none, hold := none } := by
  rw [State.dxEnding, State.dxp_modDxp, hr]
  rfl

omit hr in
theorem State.dxfers_dxEnding : ((s.dxEnding core).core core).dxfers = (s.core core).dxfers := by
  rw [State.dxEnding, State.modDxp, State.core_modCore, if_pos rfl]
  rfl

/-- A program with no transfers left ends at once, and its operation with it. -/
theorem State.dxEnd_ends (hx : (s.core core).dxfers = []) : ((s.dxEnd core).core core).dxp.run = none
    ∧ (s.dxEnd core).group? r.cmd.tid r.cmd.g = (s.group? r.cmd.tid r.cmd.g).map fun g => g.endOp r.cmd.opId := by
  have hend : s.dxEnd core = (((s.dxEnding core).modDxp core fun x => { x with run := none }).modTeam r.cmd.tid
      fun t => { t with running := false }).endOp r.cmd.tid r.cmd.g r.cmd.opId := by
    change (s.dxEnding core).dxSettle core = _
    simp only [State.dxSettle, State.run_dxEnding hr, State.dxfers_dxEnding, hx, List.isEmpty_nil, Bool.not_true, Bool.false_eq_true, if_false]
  rw [hend]
  refine ⟨?_, ?_⟩
  · rw [State.core_endOp, State.core_modTeam, State.dxp_modDxp]
  · rw [State.endOp, State.group?_modGroup, if_pos ⟨rfl, rfl⟩,
      State.group?_modTeam_groups (f := fun t => { t with running := false }) _ _ fun _ => rfl, State.group?_modDxp, State.dxEnding,
      State.group?_modDxp]

/-- A program whose transfers run waits for them. -/
theorem State.dxEnd_waits (hx : (s.core core).dxfers ≠ []) : s.dxEnd core = s.dxEnding core := by
  change (s.dxEnding core).dxSettle core = _
  have hne : (!(s.core core).dxfers.isEmpty) = true := by simpa using hx
  simp only [State.dxSettle, State.run_dxEnding hr, State.dxfers_dxEnding, hne, if_true]

end

/-! ## Loops, coordinates, branches, calls -/

section
variable {s : State} {k : Dss} {i : Slots} (h : ReadyDxp s k)
include h

theorem dloop_skips (h0 : k.x.val i.a = 0) : IssuesDxp (execDloop i s) s k.core (dxOff k.x.pc i.imm) :=
  runD_ok h (by simp only [h0, if_true]; rfl)

theorem dloop_enters (h0 : 0 < k.x.val i.a) (hlt : k.x.val i.a < 2 ^ 32) :
    ∃ x1, IssuesDxp (execDloop i s) (s.modDxp k.core fun _ => x1) k.core (k.x.pc + 12)
      ∧ SMap.get 0#32 x1.loops (i.imm.toNat / 2 ^ 29) = BitVec.ofNat 32 (k.x.val i.a) := by
  refine ⟨{ k.x with loops := SMap.set 0#32 k.x.loops (dxLevel i.imm) (BitVec.ofNat 32 (k.x.val i.a)) }, ?_,
    (SMap.get_set ..).trans (if_pos rfl)⟩
  rw [← h.modDxp fun x => { x with loops := SMap.set 0#32 x.loops (dxLevel i.imm) (BitVec.ofNat 32 (k.x.val i.a)) }]
  exact runD_ok h (by rw [if_neg (not_le.2 hlt), if_neg h0.ne'])

theorem dloop_traps (hlt : 2 ^ 32 ≤ k.x.val i.a) : execDloop i s = .next (s.dxFault k.core ⟨3, 2, k.x.val i.a⟩).done :=
  runD_trap h (if_pos hlt)

theorem dnext_traps (h0 : SMap.get 0#32 k.x.loops (i.imm.toNat / 2 ^ 29) = 0) :
    execDnext i s = .next (s.dxFault k.core ⟨3, 5, i.imm.toNat⟩).done := runD_trap h (if_pos h0)

theorem dnext_repeats (h0 : SMap.get 0#32 k.x.loops (i.imm.toNat / 2 ^ 29) ≠ 0) :
    ∃ x1, IssuesDxp (execDnext i s) (s.modDxp k.core fun _ => x1) k.core
        (if SMap.get 0#32 k.x.loops (i.imm.toNat / 2 ^ 29) = 1 then k.x.pc + 12 else dxOff k.x.pc i.imm)
      ∧ SMap.get 0#32 x1.loops (i.imm.toNat / 2 ^ 29) = SMap.get 0#32 k.x.loops (i.imm.toNat / 2 ^ 29) - 1 := by
  refine ⟨{ k.x with loops := SMap.set 0#32 k.x.loops (dxLevel i.imm) (SMap.get 0#32 k.x.loops (dxLevel i.imm) - 1) }, ?_,
    (SMap.get_set ..).trans (if_pos rfl)⟩
  rw [← h.modDxp fun x => { x with loops := SMap.set 0#32 x.loops (dxLevel i.imm) (SMap.get 0#32 k.x.loops (dxLevel i.imm) - 1) }]
  exact runD_ok h (if_neg h0)

theorem daddrCmd_run {d : BitVec 6} (hd : i.d = .s d) : IssuesDxp (execDaddrCmd i s)
    (s.modDxp k.core fun _ => k.x.wd d.toNat (k.run.cmd.words.getD (i.imm.toNat % 8) 0)) k.core (k.x.pc + 12) :=
  runDx_ok h (by rw [hd]; rfl)

theorem daddr_run {d a : BitVec 6} (hd : i.d = .s d) (ha : i.a = .s a) : IssuesDxp (execDaddr i s)
    (s.modDxp k.core fun _ => k.x.wd d.toNat ((List.range (i.imm.toNat % 8)).foldl (fun t j => t + k.x.term a.toNat j)
      (BitVec.ofNat 64 (k.x.val i.b)))) k.core (k.x.pc + 12) := by
  refine runDx_ok h ?_
  rw [ofI_eq_ofInt, ofInt_add_dxAddress, hd, ha, BitVec.ofInt_natCast]
  rfl

theorem dxpBra_always (ha : i.a = .nil) : IssuesDxp (execDxpBra i s) s k.core (k.x.pc + i.imm.signExtend 56) :=
  runD_ok h (by rw [ha]; rfl)

theorem dxpBra_if {a : BitVec 6} (ha : i.a = .s a) : IssuesDxp (execDxpBra i s) s k.core
    (if k.x.rd a.toNat ≠ 0 then k.x.pc + i.imm.signExtend 56 else k.x.pc + 12) := by
  refine runD_ok h ?_
  have hnil : i.a.isNil = false := by rw [ha]; rfl
  have hv : decide (k.x.val i.a ≠ 0) = true ↔ k.x.rd a.toNat ≠ 0 := by
    rw [ha, Dxp.val, decide_eq_true_eq]
    exact not_congr ⟨fun h0 => BitVec.eq_of_toNat_eq h0, fun h0 => h0 ▸ rfl⟩
  simp only [hnil, Bool.false_or, if_congr hv rfl rfl]
  rfl

theorem dxpCall_run : IssuesDxp (execDxpCall i s) (s.modDxp k.core fun x => x.wd 31 ((k.x.pc + 12).setWidth 64)) k.core
    (k.x.pc + i.imm.signExtend 56) := runD_ok h rfl

theorem dxpRet_returns (h31 : k.x.rd 31 ≠ 0) : IssuesDxp (execDxpRet i s) s k.core ((k.x.rd 31).setWidth 56) := runD_ok h (if_neg h31)

theorem dxpRet_ends (h0 : k.x.rd 31 = 0) (hx : (s.core k.core).dxfers = []) :
    ∃ s1, execDxpRet i s = .next s1 ∧ (s1.core k.core).dxp.run = none := by
  have hrun := runD_ok h (f := fun k => if k.x.rd 31 = 0 then .ok (s.dxEnd k.core, k.x.pc) else .ok (s, (k.x.rd 31).setWidth 56)) (if_pos h0)
  refine ⟨_, hrun, ?_⟩
  rw [State.dxp_done, State.dxp_modDxp, (State.dxEnd_ends h.run hx).1]
  rfl

theorem dxpRet_waits (h0 : k.x.rd 31 = 0) (hx : (s.core k.core).dxfers ≠ []) :
    ∃ s1, execDxpRet i s = .next s1 ∧ (s1.core k.core).dxp.run = some { k.run with ending := some none, hold := none } := by
  have hrun := runD_ok h (f := fun k => if k.x.rd 31 = 0 then .ok (s.dxEnd k.core, k.x.pc) else .ok (s, (k.x.rd 31).setWidth 56)) (if_pos h0)
  refine ⟨_, hrun, ?_⟩
  rw [State.dxp_done, State.dxp_modDxp, State.dxEnd_waits h.run hx, State.run_dxEnding h.run]
  rfl

end

theorem dxpProgramsRun : DxpProgramsRun := by
  intro s k i h
  refine ⟨?_, ?_, fun d hd => daddrCmd_run h hd, fun d a hd ha => daddr_run h hd ha, dxpBra_always h, fun a ha => dxpBra_if h ha,
    dxpCall_run h, dxpRet_returns (i := i) h, dxpRet_ends (i := i) h, dxpRet_waits (i := i) h⟩
  · rintro n rfl
    exact ⟨dloop_skips h, dloop_enters h, dloop_traps h⟩
  · rintro n rfl
    exact ⟨dnext_traps h, dnext_repeats h⟩

/-! ## didx -/

theorem State.length_spadBytes (s : State) (u off n : Nat) : (s.spadBytes u off n).length = n := by
  unfold State.spadBytes Team.spadBytes
  split
  · simp [SMap.range]
  · exact List.length_replicate

/-- A byte that no view holds is read from home memory, and a fill of its line leaves what it reads. -/
theorem State.cvByte_cvFill {s : State} {core ln key a : Nat} (ha : 128 * ln ≤ a ∧ a < 128 * ln + 128)
    (hno : (SMap.get CvByte.absent (s.core core).view a).present = false) : (s.cvFill core ln key).cvByte core key a = s.cvByte core key a := by
  simp only [State.cvByte, State.cvFill, State.core_modCore, if_true, SMap.get_replace, if_pos ha, hno, Bool.false_eq_true,
    if_false]
  split
  · rw [hno]
    rfl
  · rfl

/-- Bytes of one line, all in the core's view or none of them, read as the view reads them. -/
theorem State.readMem_eq {s : State} {core key pa n : Nat} (hline : pa % 128 + n ≤ 128)
    (hall : ∀ j < n, ∀ m < n, (SMap.get CvByte.absent (s.core core).view (pa + j)).present
      = (SMap.get CvByte.absent (s.core core).view (pa + m)).present) :
    (s.readMem core key pa n false).1 = (List.range n).map fun j => s.cvByte core key (pa + j) := by
  unfold State.readMem State.cvNeed
  simp only [Bool.false_eq_true, if_false]
  refine List.map_congr_left fun j hj => ?_
  split
  · rfl
  · next hmiss =>
    rw [List.mem_range] at hj
    refine State.cvByte_cvFill (by omega) ?_
    simp only [List.all_eq_true, List.mem_range, not_forall] at hmiss
    obtain ⟨m, hm, hno⟩ := hmiss
    rw [hall j hj m hm]
    exact Bool.eq_false_of_not_eq_true hno

theorem State.length_readMem (s : State) (core key pa n : Nat) : (s.readMem core key pa n false).1.length = n := by
  unfold State.readMem
  simp

theorem dxLoaded_eq (w : Nat) (bs : List Byte) :
    dxLoaded w bs = if w = 1 then BitVec.ofInt 64 (sextI 32 (ofBytes bs)) else BitVec.ofNat 64 (ofBytes bs) := by
  rw [dxLoaded, ofI_eq_ofInt]

theorem runDW_ok {s s1 : State} {k : Dss} {pc : Pc} (h : ReadyDxp s k) {f : Dss → Except Bail (State × Pc × Option Hold)}
    (hf : f k = .ok (s1, pc, none)) : IssuesDxp (runDW s f) s1 k.core pc := by
  obtain ⟨hk, hstop⟩ := h
  unfold IssuesDxp runDW
  simp only [hk, hstop, hf]

theorem Dss.waiting_none {k : Dss} (h : k.run.hold = none) : k.waiting = none := by rw [Dss.waiting, h]

theorem Dss.waiting_some {k : Dss} {o : Hold} (h : k.run.hold = some o) (hs : o.started = true) : k.waiting = some o := by
  simp only [Dss.waiting, h, hs, if_true]

theorem State.fillWait_ok {s : State} {accs : List Acc} (h : s.unfilled accs = none) : s.fillWait accs = .ok () := by
  rw [State.fillWait, h]

/-- The address that a didx reads, and its width. -/
def Dss.didxAddr (k : Dss) (i : Slots) : Nat := wrapI 64 ((k.x.val i.a : Int) + sextI 28 i.imm.toNat)
def didxWidth (i : Slots) : Nat := dxWidth (i.imm.toNat / 2 ^ 30)

/-- The state that a didx leaves that loads these bytes. -/
def State.didxLoaded (s : State) (k : Dss) (i : Slots) (bs : List Byte) : State :=
  s.modDxp k.core fun x => x.wop i.d (dxLoaded (i.imm.toNat / 2 ^ 30) bs)

section
variable {s : State} {k : Dss} {i : Slots} (h : ReadyDxp s k)
include h

section
variable (hhold : k.run.hold = none) (herrs : s.errs = [])
include hhold herrs

theorem didx_spad {u off : Nat} (hplace : s.dxPlace k .load (k.didxAddr i) (didxWidth i) (didxWidth i) = .ok (.spad u off))
    (hfill : s.unfilled [⟨0, k.didxAddr i, .spad u off, didxWidth i⟩] = none) :
    IssuesDxp (execDidx i s) (s.didxLoaded k i (s.spadBytes u off (didxWidth i))) k.core (k.x.pc + 12) := by
  refine runDW_ok h ?_
  unfold Dss.didxAddr didxWidth at hplace hfill
  simp only [hplace, Dss.waiting_none hhold, State.fillWait_ok hfill, State.readErr_nil herrs]
  rfl

theorem didx_mem {pa key : Nat} (hplace : s.dxPlace k .load (k.didxAddr i) (didxWidth i) (didxWidth i) = .ok (.mem pa key))
    (hfill : s.unfilled [⟨0, k.didxAddr i, .mem pa key, didxWidth i⟩] = none) :
    IssuesDxp (execDidx i s) ((s.readMem k.core key pa (didxWidth i) false).2.didxLoaded k i
      (s.readMem k.core key pa (didxWidth i) false).1) k.core (k.x.pc + 12) := by
  refine runDW_ok h ?_
  unfold Dss.didxAddr didxWidth at hplace hfill
  simp only [hplace, Dss.waiting_none hhold, State.fillWait_ok hfill, State.readErr_nil herrs]
  rfl

end

theorem didx_answered {l : Loc} {o : Hold} {v : W64} (hhold : k.run.hold = some o) (hs : o.started = true) (hp : o.passed = false)
    (ha : o.answer = some v) (hplace : s.dxPlace k .load (k.didxAddr i) (didxWidth i) (didxWidth i) = .ok l) :
    IssuesDxp (execDidx i s) (s.didxLoaded k i (toBytes (didxWidth i) v.toNat)) k.core (k.x.pc + 12) := by
  refine runDW_ok h ?_
  unfold Dss.didxAddr didxWidth at hplace
  simp only [hplace, Dss.waiting_some hhold hs, ha, hp, Bool.false_eq_true, if_false]
  rfl

end

/-! ## dxfer, barriers and the end -/

section
variable {s : State} {k : Dss} {i : Slots}

theorem viewsOnly_dxBar {kind : AccKind} {va slot : Nat} {l : Loc} {b : Bar} {s1 : State} (hr : s.dxBar k kind va slot = .ok (l, b, s1)) :
    ViewsOnly s s1 := by
  unfold State.dxBar at hr
  split at hr
  · cases hr
  · cases hr
  · cases hr
  · split at hr
    · cases hr
    · next hl _ _ _ => 
      have hv := fun l => ViewsOnly.barRead s k.core l
      dsimp only at hr
      split at hr <;> cases hr
      exact hv _

variable (h : ReadyDxp s k)
include h

omit h in
theorem State.copies_enters {x : State} (hx : ViewsOnly s x) (core : Nat) (op : CopyOp) :
    ((x.newOp.2.modCore core fun c => { c with copies := c.copies ++ [op] }).core core).copies = (s.core core).copies ++ [op] := by
  rw [State.core_modCore, if_pos rfl]
  have hcopies := congrArg (fun c : Core => c.copies ++ [op]) (hx.2 core)
  exact hcopies

/-- A dxfer that enters a copy completes with it in the engine. -/
theorem dxfer_copies {f : Dss → Except Bail (State × Pc)} {P : CopyOp → Prop}
    (hf : ∃ s1 c, f k = .ok (s1, k.x.pc + 12) ∧ (s1.core k.core).copies = (s.core k.core).copies ++ [c] ∧ P c) :
    ∃ s1 c, IssuesDxp (runD s f) s1 k.core (k.x.pc + 12) ∧ (s1.core k.core).copies = (s.core k.core).copies ++ [c] ∧ P c := by
  obtain ⟨s1, c, hf, hc⟩ := hf
  exact ⟨s1, c, runD_ok h hf, hc⟩

theorem dxfer_starts (hroom : (s.core k.core).dxfers.length < 16) (hdst : k.x.val i.d % 32 = 0)
    (hsrc : bit i.imm.toNat 8 = true ∨ k.x.val i.a % 32 = 0) (hbar : i.b = .nil ∨ ∃ r, s.dxBar k .atomic (k.x.val i.b) 3 = .ok r) :
    ∃ s1 c, IssuesDxp (execDxfer i s) s1 k.core (k.x.pc + 12) ∧ (s1.core k.core).copies = (s.core k.core).copies ++ [c] ∧ c.dx = true
      ∧ c.size = 32 * (i.imm.toNat % 256 + 1)
      ∧ c.spec = .xfer (k.x.val i.d) (k.x.val i.a) (i.imm.toNat % 256 + 1) (bit i.imm.toNat 8) := by
  have hfull : ¬ 16 ≤ (s.core k.core).dxfers.length := not_le.2 hroom
  have hs : ¬ ((!bit i.imm.toNat 8) = true ∧ k.x.val i.a % 32 ≠ 0) := fun hc => by
    rcases hsrc with hz | hz
    · simp [hz] at hc
    · exact hc.2 hz
  refine dxfer_copies h ?_
  simp only [if_neg hfull, if_neg (not_not.2 hdst), if_neg hs]
  split
  · next heq =>
    exfalso
    split at heq
    · cases heq
    · next hn =>
      rcases hbar with hb | ⟨r, hr⟩
      · exact hn (hb ▸ rfl)
      · rw [hr] at heq
        cases heq
  · next loc phase s1 heq =>
    have hv : ViewsOnly s s1 := by
      split at heq
      · cases heq
        exact .refl s
      · split at heq
        · cases heq
        · next hr =>
          cases heq
          exact viewsOnly_dxBar hr
    exact ⟨_, _, rfl, State.copies_enters (hv.trans (.gateOut fun x hx => .passGate hx)) .., rfl, rfl, rfl⟩

theorem darrive_run {l : Loc} {b : Bar} {s0 : State} (hx : (s.core k.core).dxfers = [])
    (hbar : s.dxBar k .atomic (k.x.val i.a) 2 = .ok (l, b, s0)) (howed : (i.imm.toNat : Int) ≤ s0.barOwed l b)
    (hin : inI32 (b.arrive - i.imm.toNat) = true) : ∃ s1, IssuesDxp (execDarrive i s) s1 k.core (k.x.pc + 12) := by
  refine ⟨_, runD_ok h (s1 := s0.barApply k.core l fun b => { b with arrive := b.arrive - i.imm.toNat }) ?_⟩
  simp only [hx, hbar, hin, if_neg (not_lt.2 howed), List.isEmpty_nil, Bool.not_true, Bool.false_eq_true, if_false]

theorem dwaitev_turned {l : Loc} {b : Bar} {s0 : State} (hbar : s.dxBar k .load (k.x.val i.a) 2 = .ok (l, b, s0))
    (hphase : b.phase ≠ i.imm.toNat % 16) : ∃ s1, IssuesDxp (execDwaitev i s) s1 k.core (k.x.pc + 12)
      ∧ ∀ d, i.d = .s d → (s1.core k.core).dxp.rd d.toNat = 0 := by
  refine ⟨_, runD_ok h (s1 := (s0.acquire k.core k.run.cmd.tid (barScope l)).modDxp k.core fun x => x.wop i.d 0) ?_, fun d hd => ?_⟩
  · simp only [hbar, ne_eq, hphase, not_false_eq_true, if_true]
  · rw [State.dxp_modDxp, hd]
    exact (Dxp.rd_wd ..).trans (if_pos rfl)

theorem dwaitev_timedOut {l : Loc} {b : Bar} {s0 : State} (hbar : s.dxBar k .load (k.x.val i.a) 2 = .ok (l, b, s0))
    (hphase : b.phase = i.imm.toNat % 16) {o : Hold} (hhold : k.run.hold = some o) (hs : o.started = true) (ht : o.timedOut = true) :
    ∃ s1, IssuesDxp (execDwaitev i s) s1 k.core (k.x.pc + 12) ∧ ∀ d, i.d = .s d → (s1.core k.core).dxp.rd d.toNat = 1 := by
  refine ⟨_, runD_ok h (s1 := s0.modDxp k.core fun x => x.wop i.d 1) ?_, fun d hd => ?_⟩
  · simp only [hbar, ne_eq, hphase, not_true, if_false, Dss.waiting_some hhold hs, ht, if_true]
  · rw [State.dxp_modDxp, hd]
    exact (Dxp.rd_wd ..).trans (if_pos rfl)

theorem execDend_eq : execDend i s = .next (s.dxEnd k.core).done := by
  obtain ⟨hk, hstop⟩ := h
  simp only [execDend, hk, hstop]

theorem dend_ends (hx : (s.core k.core).dxfers = []) : ∃ s1, execDend i s = .next s1 ∧ (s1.core k.core).dxp.run = none
    ∧ ∀ g0 g1, s.group? k.run.cmd.tid k.run.cmd.g = some g0 → s1.group? k.run.cmd.tid k.run.cmd.g = some g1 →
      g1 = g0.endOp k.run.cmd.opId := by
  obtain ⟨hrun, hg⟩ := State.dxEnd_ends h.run hx
  refine ⟨_, execDend_eq h, (congrArg Dxp.run (State.dxp_done ..)).trans hrun, fun g0 g1 h0 h1 => ?_⟩
  rw [State.group?_done, hg, h0] at h1
  exact (Option.some.inj h1).symm

theorem dend_waits (hx : (s.core k.core).dxfers ≠ []) : ∃ s1, execDend i s = .next s1
    ∧ (s1.core k.core).dxp.run = some { k.run with ending := some none, hold := none } := by
  refine ⟨_, execDend_eq h, ?_⟩
  rw [State.dxp_done, State.dxEnd_waits h.run hx, State.run_dxEnding h.run]

end

theorem dxLoaded_toBytes (i : Slots) (x : Nat) : dxLoaded (i.imm.toNat / 2 ^ 30) (toBytes (didxWidth i) x)
    = if i.imm.toNat / 2 ^ 30 = 1 then BitVec.ofInt 64 (sextI 32 (x % 2 ^ 32)) else BitVec.ofNat 64 (x % 2 ^ (8 * didxWidth i)) := by
  rw [dxLoaded_eq, ofBytes_toBytes, Nat.pow_mul]
  split
  · next h1 =>
    rw [didxWidth, h1]
    rfl
  · rfl

theorem dxpTransfers : DxpTransfers := by
  intro s k i h
  refine ⟨?_, ?_, ?_, dxfer_starts h, fun l b s0 => darrive_run h, fun l b s0 hbar => ⟨dwaitev_turned h hbar, fun hp o => dwaitev_timedOut h hbar hp⟩,
    dend_ends (i := i) h, dend_waits (i := i) h⟩
  · rintro d off va u hd hhold herrs hw rfl hplace hfill
    have hn : didxWidth i = 4 := by rw [didxWidth, hw]; rfl
    have hrun := didx_spad h hhold herrs (by rw [hn]; exact hplace) (by rw [hn]; exact hfill)
    rw [State.didxLoaded, dxLoaded_eq, hw, if_neg (by decide), hn, hd] at hrun
    exact hrun
  · rintro w n va l hhold herrs rfl hn rfl hplace hdev hfill
    replace hn : n = didxWidth i := hn
    subst hn
    simp only [← dxLoaded_eq]
    cases l with
    | spad u off =>
      exact ⟨s, _, State.length_spadBytes .., fun u' off' he => by cases he; rfl, fun pa key he => (nomatch he),
        didx_spad h hhold herrs hplace hfill⟩
    | mem pa key =>
      exact ⟨_, _, State.length_readMem .., fun u off he => (nomatch he), fun pa' key' he hline hall => by cases he; exact State.readMem_eq hline hall,
        didx_mem h hhold herrs hplace hfill⟩
    | remote d pa => cases hdev
  · rintro n va l o v hhold hs hp ha hn rfl hplace
    replace hn : n = didxWidth i := hn
    subst hn
    have hrun := didx_answered h hhold hs hp ha hplace
    rw [State.didxLoaded, dxLoaded_toBytes] at hrun
    exact hrun

/-- Settles O35: the control instructions of a transfer program, and its transfers. -/
theorem dxpPrograms : Obligations.DxpPrograms := ⟨dxpProgramsRun, dxpTransfers⟩

end Sys2Proof.Machine
end

section
/-! The checking pass of a copy (17 R377), which a first sector write makes up to its own sector. -/
namespace Sys2Proof.Machine

open Host (Outcome)

/-- A copy that zeroes the first two sectors of its team's scratchpad, the sectors of the draft checked. -/
def zeroingCopy (draft : List (List CpByte)) : CopyOp :=
  { id := 9, tid := 0, g := 0, opId := 7, cls := .cpy, dx := false, pc := 0x200000, thread := 0, mask := 1
    spec := .xfer 0xFFFFFFFF0F000000 0 2 true, tag := 0, scomp := 0, dcomp := 0, named := false, bar := 0, barLoc := none, phase := none
    size := 64, draft := draft, plan := none, capt := [], reads := [], wrote := [], acks := [], credited := [], failed := none }

def zeroingTeam : Team := Team.start 0 0 0 (oneGroup .copy) [] 0 0 0 [0] [] [] false

/-- A device whose core 0 runs that copy for its team. -/
def zeroing (draft : List (List CpByte)) : State :=
  { State.reset with teams := [(0, zeroingTeam)], nextTid := 1, cores := [(0, { Core.reset with copies := [zeroingCopy draft] })] }

/-- The first sector write of sector 0 checks that sector alone. -/
theorem zeroing_drafts : ∃ sector, exec (.copySectorWrite 0 9 0 false) (zeroing []) = .next (zeroing [sector]) := ⟨_, rfl⟩

/-- A sector that is in the draft is not checked again: its move is not enabled. -/
theorem zeroing_not_enabled (sector : List CpByte) : exec (.copySectorWrite 0 9 0 false) (zeroing [sector]) = .fault .notEnabled := rfl

/-- Refutes O34: of a sector write that checks, the statement asks only that its sector be one of the copy's if it is not yet checked.
So it covers a sector that an earlier move has checked already, on which the move is not enabled. -/
theorem not_copyEvents : ¬ Obligations.CopyEvents := by
  rintro ⟨hcopies, -⟩
  obtain ⟨sector, -⟩ := zeroing_drafts
  obtain ⟨hchecks, -⟩ := hcopies (zeroing [sector]) 0 9 (zeroingCopy [sector]) zeroingTeam rfl rfl rfl
  obtain ⟨t, hnext⟩ := hchecks rfl rfl rfl 0 false fun hunchecked => absurd hunchecked (by decide : ¬ 1 ≤ 0)
  rw [zeroing_not_enabled sector] at hnext
  cases hnext

end Sys2Proof.Machine
end

section
/-! hwait, htest, hrel and hget, on handles of this device and of others (18 R419, R420). -/
namespace Sys2Proof.Machine

open Host (Outcome)

/-! ## What the answers leave -/

theorem State.group?_acquire (s : State) (core tid : Nat) (scope : Scope) (i j : Nat) : (s.acquire core tid scope).group? i j = s.group? i j := by
  have hdrop : ∀ P : Prop, [Decidable P] → (if P then s.modCore core fun c => c.dropClean else s).group? i j = s.group? i j := fun P _ => by
    split
    · rw [State.group?_modCore]
    · rfl
  unfold State.acquire
  dsimp only
  split
  · exact ((State.group?_modTeam_groups (f := fun t => { t with lines := [] }) _ _ (fun _ => rfl) i j).trans
      (State.group?_writeMap ..)).trans (hdrop _)
  · exact hdrop _

theorem handleArg_ok {k : Iss} {a : Operand} (h : k.gr.uni a 0 % 2 ^ 20 = 0) : handleArg k a = .ok (k.gr.uni a 0) := by
  simp only [handleArg, h, ne_eq, not_true, if_false]

theorem State.reqs_send {s s1 : State} {core need : Nat} {p : Packet} (h : s.send core need p = some s1) : s1.reqs = s.reqs := by
  unfold State.send at h
  split at h
  · cases h
  · cases h
    obtain ⟨units, ports, keyNext, o, hdepart⟩ := State.depart_eq _ _ _
    rw [State.sendOn, hdepart]
    rfl

theorem remoteHandle_lt {h d : Nat} (hr : remoteHandle h = some d) : d < 4096 := by
  unfold remoteHandle at hr
  split at hr
  · cases hr
  · cases hr
    unfold hDev bits
    omega

section
variable {s : State} (k : Iss) {h d : Nat} (hr : remoteHandle h = some d)
include hr

theorem ddev_invPacket (t : Team) (kind addr arg part : Nat) (payload : List Byte) : (invPacket t kind d addr arg part payload).ddev.toNat = d := by
  rw [invPacket, mkPacket, BitVec.toNat_ofNat, Nat.mod_eq_of_lt (remoteHandle_lt hr)]

theorem State.query_none (hpaths : s.pathsTo d 2 = []) (code : Nat) (why : ReqFor) : s.query k d h code why = none := by
  have hsend : ∀ tag, s.send k.t.core 2 { invPacket k.t 0x0C d h (4 * code) 0 [] with rtag := tag } = none := fun tag => by
    simp only [State.send, ddev_invPacket hr, hpaths]
  simp only [State.query, State.request, hsend]

theorem State.query_some (hpaths : s.pathsTo d 2 ≠ []) (code : Nat) (why : ReqFor) :
    ∃ s1, s.query k d h code why = some s1 ∧ s1.reqs.length = s.reqs.length + 1 := by
  have hsend : ∀ tag, ∃ s1, s.send k.t.core 2 { invPacket k.t 0x0C d h (4 * code) 0 [] with rtag := tag } = some s1 := fun tag => by
    simp only [State.send, ddev_invPacket hr]
    split
    · next h0 => exact absurd h0 hpaths
    · exact ⟨_, rfl⟩
  obtain ⟨s1, h1⟩ := hsend s.nextTag
  simp only [State.query, State.request, h1]
  exact ⟨_, rfl, by rw [List.length_append, State.reqs_send h1]; rfl⟩

end

/-- The group with a word in register d, or as it is with no register to write. -/
theorem State.rs_gathered_ws {s x : State} {k : Iss} (hk : s.issuer = some k) (hx : x.group? k.tid k.g = s.group? k.tid k.g) (d : Nat) (v : W64)
    (ls : List Nat × List Nat) :
    (((x.modGroup k.tid k.g fun g => g.ws d v).gathered k ls).group? k.tid k.g).map (fun g => g.rs d) = some v := by
  rw [State.group?_gathered, if_pos ⟨rfl, rfl⟩, State.group?_modGroup, if_pos ⟨rfl, rfl⟩, hx, State.group?_issuer hk]
  exact congrArg some ((Group.rs_ws ..).trans (if_pos rfl))

/-! ## hwait -/

section
variable {s : State} {k : Iss} {i : Slots}

/-- A word that is not pending, or one that is given up, ends the wait with that word. -/
theorem hwaitEnd_completes (hk : s.issuer = some k) (h : Nat) {w : Nat} (hw : w % 4 ≠ 3 ∨ bit i.imm.toNat 0 = true) (ls : List Nat × List Nat) :
    ∃ x, hwaitEnd s k i h w = .ok (x, none)
      ∧ ∀ d, i.d = .s d → ((x.gathered k ls).group? k.tid k.g).map (fun g => g.rs d.toNat) = some (BitVec.ofNat 64 w) := by
  have hno : ¬ (w % 4 = 3 ∧ (!bit i.imm.toNat 0) = true) := fun hc => by
    rcases hw with hw | hw
    · exact hw hc.1
    · simp [hw] at hc
  by_cases h2 : w % 4 = 2
  · simp only [hwaitEnd, if_pos h2]
    refine ⟨_, rfl, fun d hd => ?_⟩
    simp only [hd, Operand.isNil, Bool.false_eq_true, if_false]
    exact State.rs_gathered_ws hk (State.group?_acquire ..) ..
  · simp only [hwaitEnd, if_neg h2, if_neg hno]
    refine ⟨_, rfl, fun d hd => ?_⟩
    simp only [hd, Operand.isNil, Bool.false_eq_true, if_false]
    exact State.rs_gathered_ws hk rfl ..

theorem hwaitEnd_traps (h : Nat) {w : Nat} (hw : w % 4 = 3) (hb : bit i.imm.toNat 0 = false) : hwaitEnd s k i h w = .error (.t 11 0 h) := by
  simp [hwaitEnd, hw, hb]

/-- A wait that ends with a word: it completes with it, or traps on a broken handle whose status it did not ask for. -/
theorem runH_hwaitEnd {ls : List Nat × List Nat} (hr : Ready s k 0x343 ls) {f : Iss → Except (Bail × State) (State × Option Hold)} {h w : Nat}
    (hf : f k = failIn s (hwaitEnd s k i h w)) :
    ((w % 4 ≠ 3 ∨ i.imm.getLsbD 0 = true) → ∃ s1, Issues (runH 0x343 s i ls f) s1 k i.hint k.fall
      ∧ ∀ d, i.d = .s d → (s1.group? k.tid k.g).map (fun x => x.rs d.toNat) = some (BitVec.ofNat 64 w))
    ∧ (w % 4 = 3 → i.imm.getLsbD 0 = false → runH 0x343 s i ls f = .next (s.raise k.tid k.g k.e 11 0 h k.e.mask).done) := by
  rw [← bit_toNat]
  refine ⟨fun hw => ?_, fun hw hb => ?_⟩
  · obtain ⟨x, hend, hd⟩ := hwaitEnd_completes hr.issuer h hw ls
    exact ⟨_, runH_issues hr i (by rw [hf, hend]; rfl), hd⟩
  · rw [runH_bails hr i (b := .t 11 0 h) (s1 := s) (by rw [hf, hwaitEnd_traps h hw hb]; rfl)]
    rfl

variable (hr : Ready s k 0x343 (linesOf i false 0)) (hlow : k.gr.uni i.a 0 % 2 ^ 20 = 0)
include hr hlow

theorem hwait_here (hrem : remoteHandle (k.gr.uni i.a 0) = none) {w : Nat} (hw : w = s.statusWord (k.gr.uni i.a 0)) (h1 : w % 4 ≠ 1) :
    ((w % 4 ≠ 3 ∨ i.imm.getLsbD 0 = true) → ∃ s1, Issues (execHwait i s) s1 k i.hint k.fall
      ∧ ∀ d, i.d = .s d → (s1.group? k.tid k.g).map (fun x => x.rs d.toNat) = some (BitVec.ofNat 64 w))
    ∧ (w % 4 = 3 → i.imm.getLsbD 0 = false → execHwait i s = .next (s.raise k.tid k.g k.e 11 0 (k.gr.uni i.a 0) k.e.mask).done) := by
  subst hw
  exact runH_hwaitEnd hr (by simp only [handleArg_ok hlow, hrem, ne_eq, h1, not_false_eq_true, if_true])

theorem hwait_pending (hrem : remoteHandle (k.gr.uni i.a 0) = none) (h1 : s.statusWord (k.gr.uni i.a 0) % 4 = 1) (hhold : k.gr.hold = none) :
    execHwait i s = .next (s.bail k (.hold (hwaitHold s k i none))) :=
  runH_bails hr i (by
    simp only [handleArg_ok hlow, hrem, h1, Iss.waiting_none hhold, ne_eq, not_true, if_false]
    rfl)

theorem hwait_timedOut (hrem : remoteHandle (k.gr.uni i.a 0) = none) {w : Nat} (hw : w = s.statusWord (k.gr.uni i.a 0)) (h1 : w % 4 = 1) {x : Hold}
    (hhold : k.gr.hold = some x) (hs : x.started = true) (hwhy : x.why = 11) (ht : x.timedOut = true) :
    ∃ s1, Issues (execHwait i s) s1 k i.hint k.fall
      ∧ ∀ d, i.d = .s d → (s1.group? k.tid k.g).map (fun x => x.rs d.toNat) = some (BitVec.ofNat 64 (w + 2 ^ 16)) := by
  subst hw
  refine (runH_hwaitEnd hr (h := k.gr.uni i.a 0) ?_).1 (.inl (by omega))
  simp only [handleArg_ok hlow, hrem, h1, hwhy ▸ Iss.waiting_some hhold hs, ht, ne_eq, not_true, if_false, if_true]

theorem hwait_answered {d : Nat} (hrem : remoteHandle (k.gr.uni i.a 0) = some d) {x : Hold} (hhold : k.gr.hold = some x) (hs : x.started = true)
    (hwhy : x.why = 11) (hp : x.passed = true) {w : Nat} (hw : w = (x.answer.getD 0).toNat) :
    ((w % 4 ≠ 3 ∨ i.imm.getLsbD 0 = true) → ∃ s1, Issues (execHwait i s) s1 k i.hint k.fall
      ∧ ∀ d, i.d = .s d → (s1.group? k.tid k.g).map (fun x => x.rs d.toNat) = some (BitVec.ofNat 64 w))
    ∧ (w % 4 = 3 → i.imm.getLsbD 0 = false → execHwait i s = .next (s.raise k.tid k.g k.e 11 0 (k.gr.uni i.a 0) k.e.mask).done) := by
  subst hw
  exact runH_hwaitEnd hr (by simp only [handleArg_ok hlow, hrem, hwhy ▸ Iss.waiting_some hhold hs, hp, if_true])

theorem hwait_noPath {d : Nat} (hrem : remoteHandle (k.gr.uni i.a 0) = some d) (hhold : k.gr.hold = none) (hpaths : s.pathsTo d 2 = []) {w : Nat}
    (hw : w = 3 + 2 ^ 8 * 4) :
    ((w % 4 ≠ 3 ∨ i.imm.getLsbD 0 = true) → ∃ s1, Issues (execHwait i s) s1 k i.hint k.fall
      ∧ ∀ d, i.d = .s d → (s1.group? k.tid k.g).map (fun x => x.rs d.toNat) = some (BitVec.ofNat 64 w))
    ∧ (w % 4 = 3 → i.imm.getLsbD 0 = false → execHwait i s = .next (s.raise k.tid k.g k.e 11 0 (k.gr.uni i.a 0) k.e.mask).done) := by
  replace hw : w = brokenWord 4 := hw
  subst hw
  exact runH_hwaitEnd hr (by simp only [handleArg_ok hlow, hrem, Iss.waiting_none hhold, State.query_none k hrem hpaths])

theorem hwait_asks {d : Nat} (hrem : remoteHandle (k.gr.uni i.a 0) = some d) (hhold : k.gr.hold = none) (hpaths : s.pathsTo d 2 ≠ []) :
    ∃ (s1 : State) (x : Hold), execHwait i s = .next (s1.bail k (.hold x)) ∧ x.why = 11 ∧ s1.reqs.length = s.reqs.length + 1 := by
  obtain ⟨s1, hq, hlen⟩ := State.query_some k hrem hpaths 1 (.handle k.tid k.g i.d 1)
  refine ⟨s1, hwaitHold s k i (some (tagWord s.nextTag)), runH_holds hr i ?_, rfl, hlen⟩
  simp only [handleArg_ok hlow, hrem, Iss.waiting_none hhold, hq]
  rfl

end

/-! ## htest, hget and hrel -/

section
variable {s : State} {k : Iss} {i : Slots} (hlow : k.gr.uni i.a 0 % 2 ^ 20 = 0)
include hlow

theorem htest_here (hr : Ready s k 0x344 (linesOf i false 0)) (hrem : remoteHandle (k.gr.uni i.a 0) = none) :
    ∃ s1, Issues (execHtest i s) s1 k i.hint k.fall
      ∧ (s1.group? k.tid k.g).map (fun x => x.rs i.d.idx) = some (BitVec.ofNat 64 (s.statusWord (k.gr.uni i.a 0))) := by
  let x := if s.statusWord (k.gr.uni i.a 0) % 4 = 2 then s.acquire k.t.core k.tid .sys else s
  have hx : x.group? k.tid k.g = s.group? k.tid k.g := by
    simp only [x]
    split
    · exact State.group?_acquire ..
    · rfl
  refine ⟨_, runH_issues hr i (s1 := x.modGroup k.tid k.g fun g => g.ws i.d.idx (BitVec.ofNat 64 (s.statusWord (k.gr.uni i.a 0)))) ?_,
    State.rs_gathered_ws hr.issuer hx ..⟩
  simp only [handleArg_ok hlow, hrem]
  rfl

theorem htest_completes (hr : Ready s k 0x344 (linesOf i false 0)) : ∃ s1, Issues (execHtest i s) s1 k i.hint k.fall := by
  cases hrem : remoteHandle (k.gr.uni i.a 0) with
  | none => exact (htest_here hlow hr hrem).imp fun _ h => h.1
  | some d =>
    by_cases hpaths : s.pathsTo d 2 = []
    · refine ⟨_, runH_issues hr i (s1 := s.modGroup k.tid k.g fun g => g.ws i.d.idx (BitVec.ofNat 64 (brokenWord 4))) ?_⟩
      simp only [handleArg_ok hlow, hrem, State.query_none k hrem hpaths]
      rfl
    · obtain ⟨s1, hq, -⟩ := State.query_some k hrem hpaths 2 (.handle k.tid k.g i.d 2)
      refine ⟨_, runH_issues hr i (s1 := s1) ?_⟩
      simp only [handleArg_ok hlow, hrem, hq]
      rfl

theorem hget_here (hr : Ready s k 0x346 (linesOf i false 0)) (hrem : remoteHandle (k.gr.uni i.a 0) = none) :
    ∃ s1, Issues (execHget i s) s1 k i.hint k.fall ∧ (s1.group? k.tid k.g).map (fun x => x.rs i.d.idx)
      = some (BitVec.ofNat 64 (s.handleWord (k.gr.uni i.a 0) (i.imm.toNat % 4))) := by
  refine ⟨_, runH_issues hr i (s1 := s.modGroup k.tid k.g fun g =>
    g.ws i.d.idx (BitVec.ofNat 64 (s.handleWord (k.gr.uni i.a 0) (i.imm.toNat % 4)))) ?_, State.rs_gathered_ws hr.issuer rfl ..⟩
  simp only [handleArg_ok hlow, hrem]
  rfl

theorem hget_answered (hr : Ready s k 0x346 (linesOf i false 0)) {x : Hold} (hhold : k.gr.hold = some x) (hs : x.started = true)
    (hwhy : x.why = 12) (hp : x.passed = true) : ∃ s1, Issues (execHget i s) s1 k i.hint k.fall := by
  cases hrem : remoteHandle (k.gr.uni i.a 0) with
  | none => exact (hget_here hlow hr hrem).imp fun _ h => h.1
  | some d =>
    refine ⟨_, runH_issues hr i (s1 := s.modGroup k.tid k.g fun g => g.ws i.d.idx (BitVec.ofNat 64 (x.answer.getD 0).toNat)) ?_⟩
    simp only [handleArg_ok hlow, hrem, hwhy ▸ Iss.waiting_some hhold hs, hp, if_true]
    rfl

theorem hget_noPath (hr : Ready s k 0x346 (linesOf i false 0)) (hhold : k.gr.hold = none) {d : Nat}
    (hrem : remoteHandle (k.gr.uni i.a 0) = some d) (hpaths : s.pathsTo d 2 = []) : ∃ s1, Issues (execHget i s) s1 k i.hint k.fall := by
  refine ⟨_, runH_issues hr i (s1 := s.modGroup k.tid k.g fun g => g.ws i.d.idx (BitVec.ofNat 64 (noPathWord (i.imm.toNat % 4)))) ?_⟩
  simp only [handleArg_ok hlow, hrem, Iss.waiting_none hhold, State.query_none k hrem hpaths]
  rfl

/-- The state that hrel leaves of a handle of this device. -/
theorem hrel_here (hr : Ready s k 0x345 (linesOf i false 0)) (hrem : remoteHandle (k.gr.uni i.a 0) = none)
    (hidx : hIdx (k.gr.uni i.a 0) ≠ 0xFFFF) :
    Issues (execHrel i s) (((s.clearIdem k.tid).release_ (k.gr.uni i.a 0)).gathered k (linesOf i false 0)) k i.hint k.fall := by
  refine runH_issues hr i ?_
  simp only [handleArg_ok hlow, hrem, if_neg hidx]
  rfl

theorem hrel_completes (hr : Ready s k 0x345 (linesOf i false 0)) : ∃ s1, Issues (execHrel i s) s1 k i.hint k.fall := by
  refine runH_issues_ex hr i ?_
  simp only [handleArg_ok hlow]
  cases remoteHandle (k.gr.uni i.a 0) <;> exact ⟨_, rfl⟩

end

theorem State.hEntry_clearIdem (s : State) (tid n : Nat) : (s.clearIdem tid).hEntry n = s.hEntry n := by
  rw [State.hEntry, State.clearIdem_handles, State.hEntry]

theorem State.hEntry_freeEntry (s : State) (n : Nat) : (s.freeEntry n).hEntry n = { HEntry.freeE with gen := (s.hEntry n).gen + 1 } :=
  (SMap.get_set ..).trans (if_pos rfl)

theorem State.hresolve_clearIdem (s : State) (tid h : Nat) : (s.clearIdem tid).hresolve h = s.hresolve h := by
  simp only [State.hresolve, State.hEntry_clearIdem]

/-- hrel frees an entry that is ready or broken, and no other. -/
theorem State.hEntry_release (s : State) (tid : Nat) {h n : Nat} {e : HEntry} (hres : s.hresolve h = some (n, e)) :
    ((e.st = 2 ∨ e.st = 3) → (((s.clearIdem tid).release_ h).hEntry n).st = 0 ∧ (((s.clearIdem tid).release_ h).hEntry n).gen = e.gen + 1)
    ∧ (e.st = 1 → ((s.clearIdem tid).release_ h).hEntry n = e) := by
  have he : (s.clearIdem tid).hEntry n = e := by
    rw [State.hEntry_clearIdem]
    unfold State.hresolve at hres
    dsimp only at hres
    split at hres
    · cases hres
      rfl
    · cases hres
  refine ⟨fun hst => ?_, fun hst => ?_⟩
  · have hfree := State.hEntry_freeEntry (s.clearIdem tid) n
    rw [he] at hfree
    have hrel : (s.clearIdem tid).release_ h = (s.clearIdem tid).freeEntry n := by
      simp only [State.release_, State.hresolve_clearIdem, hres, if_pos hst]
    rw [hrel, hfree]
    exact ⟨rfl, rfl⟩
  · have hno : ¬ (e.st = 2 ∨ e.st = 3) := by
      rw [hst]
      decide
    simp only [State.release_, State.hresolve_clearIdem, hres, if_neg hno, he]

theorem localQueries : LocalQueries := by
  intro s k i d h w hd hh hlow hrem hw
  subst hh
  have hidx : i.d.idx = d.toNat := by rw [hd]; rfl
  refine ⟨fun hr => ⟨fun hend => ?_, fun h3 hb => ?_, fun h1 hhold => ?_, fun h1 x hhold hs hwhy ht => ?_⟩, fun hr => ?_, fun hr => ?_, fun hr => ?_⟩
  · have h13 : w % 4 ≠ 1 ∧ (w % 4 ≠ 3 ∨ i.imm.getLsbD 0 = true) := by
      rcases hend with h2 | h0 | ⟨h3, hb⟩
      · exact ⟨by omega, .inl (by omega)⟩
      · exact ⟨by omega, .inl (by omega)⟩
      · exact ⟨by omega, .inr hb⟩
    obtain ⟨s1, hi, hreg⟩ := (hwait_here hr hlow hrem hw h13.1).1 h13.2
    exact ⟨s1, hi, hreg d hd⟩
  · exact (hwait_here hr hlow hrem hw (by omega)).2 h3 hb
  · exact ⟨_, rfl, hwait_pending hr hlow hrem (hw ▸ h1) hhold⟩
  · obtain ⟨s1, hi, hreg⟩ := hwait_timedOut hr hlow hrem hw h1 hhold hs hwhy ht
    exact ⟨s1, hi, hreg d hd⟩
  · rw [hw, ← hidx]
    exact htest_here hlow hr hrem
  · rw [← hidx]
    exact hget_here hlow hr hrem
  · obtain ⟨s1, hi⟩ := hrel_completes hlow hr
    by_cases hffff : hIdx (k.gr.uni i.a 0) = 0xFFFF
    · exact ⟨s1, hi, fun n e hres hne => absurd hffff hne⟩
    · refine ⟨_, hrel_here hlow hr hrem hffff, fun n e hres _ => ?_⟩
      rw [State.hEntry_gathered]
      exact State.hEntry_release s k.tid hres

theorem handleForms : HandleForms := by
  intro s k i h hh hlow
  subst hh
  refine ⟨htest_completes hlow, fun hr => ?_, fun hr hget => ?_, fun hr w hend => ?_, fun hr hhold d hrem hpaths => hwait_asks hr hlow hrem hhold hpaths⟩
  · obtain ⟨s1, hi⟩ := hrel_completes hlow hr
    by_cases hhere : remoteHandle (k.gr.uni i.a 0) = none ∧ hIdx (k.gr.uni i.a 0) ≠ 0xFFFF
    · refine ⟨_, hrel_here hlow hr hhere.1 hhere.2, fun n e _ hres _ => ?_⟩
      rw [State.hEntry_gathered]
      exact (State.hEntry_release s k.tid hres).1
    · exact ⟨s1, hi, fun n e hrem _ hne => absurd ⟨hrem, hne⟩ hhere⟩
  · rcases hget with hrem | ⟨x, hhold, hs, hwhy, hp⟩ | ⟨hhold, d, hrem, hpaths⟩
    · exact (hget_here hlow hr hrem).imp fun _ h => h.1
    · exact hget_answered hlow hr hhold hs hwhy hp
    · exact hget_noPath hlow hr hhold hrem hpaths
  · rcases hend with ⟨hrem, hw, h1⟩ | ⟨d, x, hrem, hhold, hs, hwhy, hp, hw⟩ | ⟨hhold, d, hrem, hpaths, hw⟩
    · exact hwait_here hr hlow hrem hw h1
    · exact hwait_answered hr hlow hrem hhold hs hwhy hp hw
    · exact hwait_noPath hr hlow hrem hhold hpaths hw

/-- Settles O37: the queries of handles of this device, and those of any handle. -/
theorem handleQueries : Obligations.HandleQueries := ⟨localQueries, handleForms⟩

end Sys2Proof.Machine
end

section
/-! epsend, eprecv, epstand, and the completion of a send (18 R422-R424). -/
namespace Sys2Proof.Machine

open Host (Outcome)

/-! ## Bytes that land here -/

theorem Team.groups_spadWrite (t : Team) (tick off : Nat) (bs : List Byte) : (t.spadWrite tick off bs).groups = t.groups := by
  induction bs generalizing t off with
  | nil => rfl
  | cons b bs ih =>
    refine (ih _ _).trans ?_
    unfold Team.dirtyByte
    split <;> rfl

/-- t has the requests, errors, partitions and groups of s. -/
def BytesOnly (s t : State) : Prop :=
  t.reqs = s.reqs ∧ t.errs = s.errs ∧ t.parts = s.parts ∧ ∀ tid g, t.group? tid g = s.group? tid g

namespace BytesOnly

variable {s t u : State}

theorem refl (s : State) : BytesOnly s s := ⟨rfl, rfl, rfl, fun _ _ => rfl⟩

theorem trans (h : BytesOnly s t) (h' : BytesOnly t u) : BytesOnly s u := by
  obtain ⟨hreqs, herrs, hparts, hgroup⟩ := h
  obtain ⟨hreqs', herrs', hparts', hgroup'⟩ := h'
  exact ⟨hreqs'.trans hreqs, herrs'.trans herrs, hparts'.trans hparts, fun i j => (hgroup' i j).trans (hgroup i j)⟩

theorem homeSet (s : State) (key pa : Nat) (b : Byte) : BytesOnly s (s.homeSet key pa b) :=
  ⟨State.homeSet_reqs .., State.homeSet_errs .., State.homeSet_parts .., State.group?_of_teams (State.homeSet_teams ..)⟩

theorem homeWrite (s : State) (key pa : Nat) (bs : List Byte) : BytesOnly s (s.homeWrite key pa bs) := by
  induction bs generalizing s pa with
  | nil => exact refl s
  | cons b bs ih => exact (homeSet s key pa b).trans (ih ..)

theorem engineWrite (s : State) (core key pa : Nat) (bs : List Byte) : BytesOnly s (s.engineWrite core key pa bs) := by
  have h := homeWrite s key pa bs
  unfold State.engineWrite
  generalize s.homeWrite key pa bs = x at h ⊢
  exact h.trans ⟨rfl, rfl, rfl, fun i j => State.group?_modCore ..⟩

theorem spadWrite (s : State) (tid off : Nat) (bs : List Byte) : BytesOnly s (s.spadWrite tid off bs) :=
  ⟨State.modTeam_reqs .., State.modTeam_errs .., State.modTeam_parts .., fun i j =>
    State.group?_modTeam_groups s tid (fun t => Team.groups_spadWrite t ..) i j⟩

theorem putLocal (s : State) (core : Nat) (l : Loc) (bs : List Byte) : BytesOnly s (s.putLocal core l bs) := by
  cases l with
  | spad t off => exact spadWrite s t off bs
  | mem pa key => exact engineWrite s core key pa bs
  | remote d pa => exact refl s

end BytesOnly

/-! ## Receiving -/

section
variable {s : State} {k : Iss} {ep va : Nat} {ls : List Loc} {m : Msg} {rest : List Msg}

/-- The state in which a message is taken from its queue, before its bytes go to the buffer. -/
def State.msgTaken (s : State) (k : Iss) (ep : Nat) (m : Msg) (rest : List Msg) : State :=
  (s.modCtx k.t.part k.t.ctx fun x =>
    { x with recvq := SMap.set [] x.recvq ep rest
             taken := (x.taken.filter fun y => y.ident != m.ident) ++ (if m.status = 0 then [m] else []) }).clearIdem k.tid

/-- A message whose buffer is on this device is taken at once, with its bytes. -/
theorem bytesOnly_takeMsg (hlocal : ∀ l ∈ ls, Loc.dev? l = none) : BytesOnly (s.msgTaken k ep m rest) (s.takeMsg k ep va ls m rest) := by
  refine foldl_keep (BytesOnly (s.msgTaken k ep m rest)) _ (fun x i hx => ?_) _ _ (.refl _)
  dsimp only
  split
  · next d pa hl => cases hlocal _ (List.mem_of_getElem? hl)
  · exact hx.trans (.putLocal ..)
  · exact hx

theorem State.ctx_of_parts {s t : State} (h : t.parts = s.parts) (p c : Nat) : t.ctx p c = s.ctx p c := by
  rw [State.ctx, State.part, h, State.ctx, State.part]

theorem State.recvq_msgTaken : SMap.get [] ((s.msgTaken k ep m rest).ctx k.t.part k.t.ctx).recvq ep = rest := by
  rw [State.msgTaken, State.ctx_clearIdem, State.ctx_modCtx, if_pos ⟨rfl, rfl⟩]
  exact (SMap.get_set ..).trans (if_pos rfl)

theorem State.group?_msgTaken (i j : Nat) : (s.msgTaken k ep m rest).group? i j = s.group? i j :=
  (State.group?_clearIdem ..).trans (State.group?_of_teams rfl ..)

theorem State.farWrites_of_reqs {s t : State} (h : t.reqs = s.reqs) (tid g n : Nat) : t.farWrites tid g n = s.farWrites tid g n := by
  rw [State.farWrites, h, State.farWrites]

theorem State.errs_msgTaken : (s.msgTaken k ep m rest).errs = s.errs := State.clearIdem_errs ..

/-- The group of a receive with the words of the message in its registers. -/
def Iss.received (k : Iss) (n : Nat) (w stamp : W64) : Group :=
  { (k.gr.ws n w).ws (n + 1) stamp with gath := [], asked := [] }

theorem State.group?_recvRegs {x : State} (hk : s.issuer = some k) (hx : x.group? k.tid k.g = s.group? k.tid k.g) (n : Nat) (w stamp : W64)
    (lines : List Nat × List Nat) : ((x.recvRegs k n w stamp).gathered k lines).group? k.tid k.g = some (k.received n w stamp) := by
  rw [State.group?_gathered, if_pos ⟨rfl, rfl⟩, State.recvRegs, State.group?_modGroup, if_pos ⟨rfl, rfl⟩, hx, State.group?_issuer hk]
  rfl

theorem Iss.rs_received (k : Iss) (n : Nat) (w stamp : W64) : (k.received n w stamp).rs n = w ∧ (k.received n w stamp).rs (n + 1) = stamp := by
  have h0 : (k.received n w stamp).rs n = ((k.gr.ws n w).ws (n + 1) stamp).rs n := rfl
  have h1 : (k.received n w stamp).rs (n + 1) = ((k.gr.ws n w).ws (n + 1) stamp).rs (n + 1) := rfl
  rw [h0, h1]
  simp [Group.rs_ws]

variable {i : Slots} (hr : Ready s k 0x348 (linesOf i false 1)) (hbuf : s.bufferAt k (k.gr.uni i.a 0) = .ok ls)
include hr hbuf

theorem eprecv_takes (hhold : k.gr.hold = none) (hlocal : ∀ l ∈ ls, Loc.dev? l = none)
    (hq : SMap.get [] (s.ctx k.t.part k.t.ctx).recvq (i.imm.toNat % 64) = m :: rest) (hfar : s.farWrites k.tid k.g m.ident.toNat = false) :
    Issues (execEprecv i s) (((s.takeMsg k (i.imm.toNat % 64) (k.gr.uni i.a 0) ls m rest).recvRegs k i.d.idx (BitVec.ofNat 64 m.word)
      m.stamp).gathered k (linesOf i false 1)) k i.hint k.fall := by
  have hreqs := (bytesOnly_takeMsg (s := s) (k := k) (ep := i.imm.toNat % 64) (va := k.gr.uni i.a 0) (m := m) (rest := rest) hlocal).1
  have hno : (s.takeMsg k (i.imm.toNat % 64) (k.gr.uni i.a 0) ls m rest).farWrites k.tid k.g m.ident.toNat = false :=
    (State.farWrites_of_reqs (hreqs.trans (State.clearIdem_reqs ..)) ..).trans hfar
  refine runH_issues hr i ?_
  simp only [hbuf, Iss.waiting_none hhold, hq, hno, Bool.false_eq_true, if_false]
  rfl

theorem eprecv_waits (hhold : k.gr.hold = none) (hq : SMap.get [] (s.ctx k.t.part k.t.ctx).recvq (i.imm.toNat % 64) = []) :
    ∃ h : Hold, h.why = 12 ∧ execEprecv i s = .next (s.bail k (.hold h)) := by
  refine ⟨_, ?_, runH_holds hr i (o := { Hold.wait 12 with
    started := true, deadline := if i.b.isNil then none else s.deadline k.t (k.gr.uni i.b 0) }) ?_⟩
  · rfl
  · simp only [hbuf, Iss.waiting_none hhold, hq]
    rfl

variable {h : Hold} (hhold : k.gr.hold = some h) (hs : h.started = true) (hwhy : h.why = 12)
include hhold hs hwhy

theorem eprecv_timedOut (hp : h.passed = false) (ht : h.timedOut = true) (hq : SMap.get [] (s.ctx k.t.part k.t.ctx).recvq (i.imm.toNat % 64) = []) :
    Issues (execEprecv i s) ((s.draw.2.recvRegs k i.d.idx 0x800 s.draw.1).gathered k (linesOf i false 1)) k i.hint k.fall := by
  refine runH_issues hr i ?_
  simp only [hbuf, hwhy ▸ Iss.waiting_some hhold hs, hp, Bool.not_false, if_true, hq, ht]
  rfl

theorem eprecv_ends (hp : h.passed = true) (hfar : s.farWrites k.tid k.g (h.answer.getD 0).toNat = false) :
    (∀ m, (s.ctx k.t.part k.t.ctx).taken.find? (fun m => m.ident.toNat == (h.answer.getD 0).toNat) = some m →
      Issues (execEprecv i s) ((s.recvRegs k i.d.idx (BitVec.ofNat 64 m.word) m.stamp).gathered k (linesOf i false 1)) k i.hint k.fall)
    ∧ ((s.ctx k.t.part k.t.ctx).taken.find? (fun m => m.ident.toNat == (h.answer.getD 0).toNat) = none →
      Issues (execEprecv i s) (s.gathered k (linesOf i false 1)) k i.hint k.fall) := by
  refine ⟨fun m hm => runH_issues hr i ?_, fun hm => runH_issues hr i ?_⟩
  · simp only [hbuf, hwhy ▸ Iss.waiting_some hhold hs, hp, Bool.not_true, Bool.false_eq_true, if_false, hfar, hm]
    rfl
  · simp only [hbuf, hwhy ▸ Iss.waiting_some hhold hs, hp, Bool.not_true, Bool.false_eq_true, if_false, hfar, hm]
    rfl

end

section
variable {s : State} {k : Iss} {i : Slots} {ls : List Loc} (hr : Ready s k 0x348 (linesOf i false 1))
  (hbuf : s.bufferAt k (k.gr.uni i.a 0) = .ok ls)
include hr hbuf

theorem eprecv_message (hhold : k.gr.hold = none) (hlocal : ∀ l ∈ ls, Loc.dev? l = none) {m : Msg} {rest : List Msg}
    (hq : SMap.get [] (s.ctx k.t.part k.t.ctx).recvq (i.imm.toNat % 64) = m :: rest) (hfar : s.farWrites k.tid k.g m.ident.toNat = false) :
    ∃ s1 g1, Issues (execEprecv i s) s1 k i.hint k.fall ∧ s1.group? k.tid k.g = some g1
      ∧ SMap.get [] (s1.ctx k.t.part k.t.ctx).recvq (i.imm.toNat % 64) = rest ∧ g1.rs i.d.idx = BitVec.ofNat 64 m.word
      ∧ g1.rs (i.d.idx + 1) = m.stamp := by
  obtain ⟨-, herrs, hparts, hgroup⟩ :=
    bytesOnly_takeMsg (s := s) (k := k) (ep := i.imm.toNat % 64) (va := k.gr.uni i.a 0) (m := m) (rest := rest) hlocal
  have hrun := eprecv_takes hr hbuf hhold hlocal hq hfar
  generalize s.takeMsg k (i.imm.toNat % 64) (k.gr.uni i.a 0) ls m rest = x at herrs hparts hgroup hrun
  have hx := (hgroup k.tid k.g).trans (State.group?_msgTaken k.tid k.g)
  refine ⟨_, _, hrun, State.group?_recvRegs hr.issuer hx .., ?_, k.rs_received ..⟩
  have he : (x.recvRegs k i.d.idx (BitVec.ofNat 64 m.word) m.stamp).errs = [] :=
    (State.modGroup_errs ..).trans (herrs.trans (State.errs_msgTaken.trans hr.errs))
  rw [State.gathered, State.readRegs_nil he, State.ctx_modGroup, State.recvRegs, State.ctx_modGroup, State.ctx_of_parts hparts]
  exact State.recvq_msgTaken

variable {h : Hold} (hhold : k.gr.hold = some h) (hs : h.started = true) (hwhy : h.why = 12)
include hhold hs hwhy

theorem eprecv_timeout (hp : h.passed = false) (ht : h.timedOut = true) (hq : SMap.get [] (s.ctx k.t.part k.t.ctx).recvq (i.imm.toNat % 64) = []) :
    ∃ s1 g1, Issues (execEprecv i s) s1 k i.hint k.fall ∧ s1.group? k.tid k.g = some g1 ∧ g1.rs i.d.idx = 0x800 :=
  ⟨_, _, eprecv_timedOut hr hbuf hhold hs hwhy hp ht hq, State.group?_recvRegs (x := s.draw.2) hr.issuer (State.group?_of_teams rfl ..) ..,
    (k.rs_received i.d.idx 0x800 s.draw.1).1⟩

theorem eprecv_acknowledged (hp : h.passed = true) {n : Nat} (hn : n = (h.answer.getD 0).toNat) (hfar : s.farWrites k.tid k.g n = false) :
    ∃ s1 g1, Issues (execEprecv i s) s1 k i.hint k.fall ∧ s1.group? k.tid k.g = some g1
      ∧ ∀ m, (s.ctx k.t.part k.t.ctx).taken.find? (fun m => m.ident.toNat == n) = some m →
        g1.rs i.d.idx = BitVec.ofNat 64 m.word ∧ g1.rs (i.d.idx + 1) = m.stamp := by
  subst hn
  obtain ⟨hsome, hnone⟩ := eprecv_ends hr hbuf hhold hs hwhy hp hfar
  cases hm : (s.ctx k.t.part k.t.ctx).taken.find? (fun m => m.ident.toNat == (h.answer.getD 0).toNat) with
  | none =>
    refine ⟨_, { k.gr with gath := [], asked := [] }, hnone hm, ?_, fun m hm' => nomatch hm'⟩
    rw [State.group?_gathered, if_pos ⟨rfl, rfl⟩, State.group?_issuer hr.issuer]
    rfl
  | some m =>
    refine ⟨_, _, hsome m hm, State.group?_recvRegs (x := s) hr.issuer rfl .., fun m' hm' => ?_⟩
    cases hm'
    exact k.rs_received ..

end

/-! ## epstand and the completion of a send -/

/-- An entry with another stand-in. -/
def Ep.withStandin (e : Ep) (a n : Nat) : Ep := { e with standin := BitVec.ofNat 56 a, standlen := BitVec.ofNat 9 n }

/-- The state in which epstand has set a stand-in of the team's context. -/
def State.standinSet (s : State) (k : Iss) (ep a n : Nat) : State :=
  (s.modCtx k.t.part k.t.ctx fun x =>
    { x with eps := SMap.set Ep.unbound x.eps ep ((SMap.get Ep.unbound x.eps ep).withStandin a n) }).clearIdem k.tid

theorem State.ep_standinSet (s : State) (k : Iss) (ep a n : Nat) :
    (s.standinSet k ep a n).ep k.t.part k.t.ctx ep = (s.ep k.t.part k.t.ctx ep).withStandin a n := by
  rw [State.ep, State.standinSet, State.ctx_clearIdem, State.ctx_modCtx, if_pos ⟨rfl, rfl⟩]
  exact (SMap.get_set ..).trans (if_pos rfl)

theorem epstand_run {s : State} {k : Iss} {i : Slots} (hr : Ready s k 0x349 (linesOf i false 0)) (ha : k.gr.uni i.a 0 < 2 ^ 56)
    (hb : k.gr.uni i.b 0 ≤ 256) :
    Issues (execEpstand i s) (s.standinSet k (i.imm.toNat % 64) (k.gr.uni i.a 0) (k.gr.uni i.b 0)) k i.hint k.fall := by
  refine runS_ok hr i ?_ (State.clearIdem_errs ..)
  simp only [if_neg (not_le.2 ha), if_neg (not_lt.2 hb)]
  rfl

theorem epsendComplete_gives {s : State} {tid g id : Nat} {c : ColDone} {d : BitVec 6} {g0 : Group}
    (hc : s.colDone.find? (fun x => x.tid == tid && x.g == g && x.id == id) = some c) (hd : c.d = .s d) (hg : s.group? tid g = some g0) :
    ∃ s1, execEpsendComplete tid g id s = .next s1 ∧ (s1.group? tid g).map (fun x => x.rs d.toNat) = some c.val := by
  refine ⟨({ s with colDone := s.colDone.filter fun x => x != c } : State).giveHandle (tid, g, id, c.d) c.val.toNat, ?_, ?_⟩
  · simp only [execEpsendComplete, hc]
  · have hg' : ({ s with colDone := s.colDone.filter fun x => x != c } : State).group? tid g = some g0 := (State.group?_of_teams rfl ..).trans hg
    rw [State.giveHandle, State.endOp, State.group?_modGroup, if_pos ⟨rfl, rfl⟩, State.group?_modGroup, if_pos ⟨rfl, rfl⟩, hg', hd]
    simp only [Option.map_some, BitVec.ofNat_toNat, BitVec.setWidth_eq, Operand.idx]
    rw [Group.rs, Group.endOp_s]
    exact congrArg some ((Group.rs_ws ..).trans (if_pos rfl))

/-! ## Sending -/

/-- The state in which the operation of a send has begun. -/
def State.sendBegun (s : State) (k : Iss) : State := (s.newOp.2.modGroup k.tid k.g fun g => g.addOp s.newOp.1 .col).clearIdem k.tid

theorem State.ctx_sendBegun (s : State) (k : Iss) (p c : Nat) : (s.sendBegun k).ctx p c = s.ctx p c := by
  rw [State.sendBegun, State.ctx_clearIdem, State.ctx_modGroup]
  rfl

theorem State.ep_sendBegun (s : State) (k : Iss) (p c ep : Nat) : (s.sendBegun k).ep p c ep = s.ep p c ep := by
  rw [State.ep, State.ctx_sendBegun, State.ep]

theorem State.colDone_sendBegun (s : State) (k : Iss) : (s.sendBegun k).colDone = s.colDone := by
  rw [State.sendBegun, State.clearIdem_colDone, State.modGroup_colDone]
  rfl

section
variable {s s1 : State} {k : Iss} {i : Slots} {ep b : Nat} {bs : List Byte} (hr : Ready s k 0x347 (linesOf i false 0))
  (hroom : ocOf k.gr.ops .col < 63) (hep : ep = i.imm.toNat % 64) (hb : b = k.gr.uni i.b 0) (hpos : 0 < bits b 8 0) (hlen : bits b 8 0 ≤ 256)
  (hpad : bits b 15 9 = 0) (hlt : b < 2 ^ 32) (hident : bits b 31 16 = 0 ∨ bit i.imm.toNat 6 = true)
  (hbs : s.gather k (k.gr.uni i.a 0) (bits b 8 0) 32 = .ok (some bs, s1))
include hr hroom hep hb hpos hlen hpad hlt hident hbs

omit hr hroom hep hb hbs in
theorem epsend_wellFormed : ¬ (bits b 8 0 = 0 ∨ 256 < bits b 8 0 ∨ bits b 15 9 ≠ 0 ∨ 2 ^ 32 ≤ b
    ∨ (bits b 31 16 ≠ 0 ∧ (!bit i.imm.toNat 6) = true)) := by
  rintro (h | h | h | h | ⟨h, h'⟩)
  · omega
  · omega
  · exact h hpad
  · omega
  · rcases hident with hi | hi
    · exact h hi
    · simp [hi] at h'

omit hroom hep hb hpos hlen hpad hlt hident in
theorem ctx_gathered_sendBegun (p c : Nat) : (s1.sendBegun k).ctx p c = s.ctx p c :=
  (State.ctx_sendBegun ..).trans (State.ctx_of_parts (by rw [(sensed_gather k _ hr.errs hbs).1]) p c)

omit hroom hep hb hpos hlen hpad hlt hident in
/-- The completion of a send that ends at once waits with its status. -/
theorem colDone_sendDone (v : Nat) : (((s1.sendBegun k).sendDone k.tid k.g s1.nextOp i.d v).gathered k (linesOf i false 0)).colDone
    = s.colDone ++ [⟨k.tid, k.g, s.nextOp, i.d, BitVec.ofNat 64 v⟩] := by
  have hs := (sensed_gather k _ hr.errs hbs).1
  have hcol : s1.colDone = s.colDone := by rw [hs]
  have hop : s1.nextOp = s.nextOp := by rw [hs]
  rw [State.colDone_gathered, State.sendDone, State.colDone_sendBegun, hcol, hop]

theorem epsend_unbound (hv : (s.ep k.t.part k.t.ctx ep).v = false) :
    Issues (execEpsend i s) (((s1.sendBegun k).sendDone k.tid k.g s1.nextOp i.d 4).gathered k (linesOf i false 0)) k i.hint k.fall := by
  have hwf := epsend_wellFormed (i := i) hpos hlen hpad hlt hident
  have hv1 : (!((s1.sendBegun k).ep k.t.part k.t.ctx ep).v) = true := by
    rw [State.ep, ctx_gathered_sendBegun hr hbs, ← State.ep, hv]
    rfl
  subst hb hep
  refine runH_issues hr i ?_
  simp only [if_neg hwf, hbs, counterWait_ok hroom]
  exact if_pos hv1

theorem epsend_untaken (hv : (s.ep k.t.part k.t.ctx ep).v = true) (hreply : bit i.imm.toNat 6 = true)
    (htaken : (s.ctx k.t.part k.t.ctx).taken = []) :
    Issues (execEpsend i s) (((s1.sendBegun k).sendDone k.tid k.g s1.nextOp i.d 5).gathered k (linesOf i false 0)) k i.hint k.fall := by
  have hwf := epsend_wellFormed (i := i) hpos hlen hpad hlt hident
  have hctx := ctx_gathered_sendBegun hr hbs k.t.part k.t.ctx
  have hv1 : ¬ (!((s1.sendBegun k).ep k.t.part k.t.ctx ep).v) = true := by
    rw [State.ep, hctx, ← State.ep, hv]
    exact Bool.false_ne_true
  have hnone : ((s1.sendBegun k).ctx k.t.part k.t.ctx).taken.find? (fun m => m.ep == ep && m.ident.toNat == bits b 31 16) = none := by
    rw [hctx, htaken]
    rfl
  subst hb hep
  refine runH_issues hr i ?_
  rw [hreply] at hwf
  simp only [hreply, if_neg hwf, hbs, counterWait_ok hroom]
  refine ((if_neg hv1).trans (if_pos trivial)).trans ?_
  unfold State.sendBegun at hnone
  rw [hnone]
  rfl

omit hep in
theorem epsend_completes : ∃ s2, Issues (execEpsend i s) s2 k i.hint k.fall := by
  have hwf := epsend_wellFormed (i := i) hpos hlen hpad hlt hident
  subst hb
  refine runH_issues_ex hr i ?_
  simp only [if_neg hwf, hbs, counterWait_ok hroom]
  split
  · exact ⟨_, rfl⟩
  · split
    · split
      · exact ⟨_, rfl⟩
      · split <;> exact ⟨_, rfl⟩
    · exact ⟨_, rfl⟩

end

theorem epsend_run {s s1 : State} {k : Iss} {i : Slots} {ep b : Nat} {bs : List Byte} (hr : Ready s k 0x347 (linesOf i false 0)) (hroom : ocOf k.gr.ops .col < 63) (hep : ep = i.imm.toNat % 64)
    (hb : b = k.gr.uni i.b 0) (hpos : 0 < bits b 8 0) (hlen : bits b 8 0 ≤ 256) (hpad : bits b 15 9 = 0) (hlt : b < 2 ^ 32)
    (hident : bits b 31 16 = 0 ∨ bit i.imm.toNat 6 = true) (hbs : s.gather k (k.gr.uni i.a 0) (bits b 8 0) 32 = .ok (some bs, s1)) :
    ∃ s2, Issues (execEpsend i s) s2 k i.hint k.fall
      ∧ ((s.ep k.t.part k.t.ctx ep).v = false → s2.colDone = s.colDone ++ [⟨k.tid, k.g, s.nextOp, i.d, 4⟩])
      ∧ ((s.ep k.t.part k.t.ctx ep).v = true → bit i.imm.toNat 6 = true → (s.ctx k.t.part k.t.ctx).taken = [] →
        s2.colDone = s.colDone ++ [⟨k.tid, k.g, s.nextOp, i.d, 5⟩]) := by
  cases hv : (s.ep k.t.part k.t.ctx ep).v with
  | false =>
    exact ⟨_, epsend_unbound hr hroom hep hb hpos hlen hpad hlt hident hbs hv, fun _ => colDone_sendDone hr hbs 4, fun h => nomatch h⟩
  | true =>
    by_cases huntaken : bit i.imm.toNat 6 = true ∧ (s.ctx k.t.part k.t.ctx).taken = []
    · exact ⟨_, epsend_untaken hr hroom hep hb hpos hlen hpad hlt hident hbs hv huntaken.1 huntaken.2, (fun h => nomatch h),
        fun _ _ _ => colDone_sendDone hr hbs 5⟩
    · obtain ⟨s2, hi⟩ := epsend_completes hr hroom hb hpos hlen hpad hlt hident hbs
      exact ⟨s2, hi, (fun h => nomatch h), fun _ hreply htaken => absurd ⟨hreply, htaken⟩ huntaken⟩

/-- Settles O38: sends, receives by the hold they find, stand-ins, completions. -/
theorem endpoints : Obligations.Endpoints := by
  refine ⟨fun s k i d ep hd hep => ?_, fun s k i ep hep hr ha hb => ?_, fun s tid g id c d g0 hc hd hg => epsendComplete_gives hc hd hg⟩
  · have hidx : i.d.idx = d.toNat := by rw [hd]; rfl
    rw [← hidx]
    subst hep
    refine ⟨fun hr hroom b bs s1 => epsend_run hr hroom rfl, fun hr hhold ls hbuf hlocal => ⟨fun m rest hq hfar => ?_, eprecv_waits hr hbuf hhold⟩,
      fun hr h ls hhold hs hwhy hp ht hbuf hq => ?_, fun hr h ls n hhold hs hwhy hp hn hbuf hfar => ?_⟩
    · exact eprecv_message hr hbuf hhold hlocal hq hfar
    · exact eprecv_timeout hr hbuf hhold hs hwhy hp ht hq
    · exact eprecv_acknowledged hr hbuf hhold hs hwhy hp hn hfar
  · subst hep
    refine ⟨_, epstand_run hr ha hb, ?_, ?_⟩ <;> rw [State.ep_standinSet] <;> rfl

end Sys2Proof.Machine
end

section
/-!
Memory in its canonical form (06, the model's own form of home memory and host memory), part 1: the accessors of State,
errors and notices, images, power, operations. A lemma wf_f says that f keeps the form; where f answers an outcome, that the
state it ends in has it. Most functions leave the three fields of the form alone or change them through a function that has
its lemma already; what is left of such a proof, once f is unfolded, is its case split.
The proofs are many and short: elaborated one after the other (Elab.async) they take less memory than side by side.
-/
namespace Sys2Proof.Machine

open Host (Outcome)
open Memory
set_option Elab.async false

/-! ## The rules of the case splits: what a choice answers, each of its branches answers -/

theorem Memory.wf_ite {P : Prop} [Decidable P] {s t : State} (hs : Memory.wf s) (ht : Memory.wf t) :
    Memory.wf (if P then s else t) := by
  split
  · exact hs
  · exact ht

theorem Memory.wf_ite_fst {β : Type} {P : Prop} [Decidable P] {x y : State × β} (hx : Memory.wf x.1) (hy : Memory.wf y.1) :
    Memory.wf (if P then x else y).1 := by
  split
  · exact hx
  · exact hy

theorem Memory.wf_ite_snd {β : Type} {P : Prop} [Decidable P] {x y : β × State} (hx : Memory.wf x.2) (hy : Memory.wf y.2) :
    Memory.wf (if P then x else y).2 := by
  split
  · exact hx
  · exact hy

theorem Memory.wf_of_fields {s t : State}
    (hm : t.home = s.home ∧ t.lineKey = s.lineKey ∧ t.hostMem = s.hostMem := by exact ⟨rfl, rfl, rfl⟩)
    (h : Memory.wf s) : Memory.wf t := by
  obtain ⟨hh, hl, hm⟩ := hm
  rw [Memory.wf, State.memOk, hh, hl, hm]
  exact h

theorem Memory.wf_pair_fst {β : Type} {s : State} {b : β} (h : Memory.wf s) : Memory.wf (s, b).1 := h

theorem Memory.wf_pair_snd {β : Type} {s : State} {b : β} (h : Memory.wf s) : Memory.wf (b, s).2 := h

theorem Memory.wf_of_fst {β : Type} {x : State × β} {s : State} {b : β} (hx : x = (s, b)) (h : Memory.wf x.1) :
    Memory.wf s := by
  rw [hx] at h
  exact h

theorem Memory.wf_of_snd {β : Type} {x : β × State} {s : State} {b : β} (hx : x = (b, s)) (h : Memory.wf x.2) :
    Memory.wf s := by
  rw [hx] at h
  exact h

theorem Memory.of_ite {α : Type} {P Q : Prop} [Decidable P] {a b x : α} (ha : a = x → Q) (hb : b = x → Q) :
    (if P then a else b) = x → Q := by
  split
  · exact ha
  · exact hb

theorem Memory.error_ne_ok {ε α : Type} {b : ε} {a : α} {Q : Prop} : Except.error b = .ok a → Q := nofun

theorem Memory.ok_ne_error {ε α : Type} {b : ε} {a : α} {Q : Prop} : Except.ok a = .error b → Q := nofun

theorem Memory.none_ne_some {α : Type} {a : α} {Q : Prop} : none = some a → Q := nofun

theorem Memory.fault_ne_next {x : Fault} {t : State} {Q : Prop} :
    (Outcome.fault x : Outcome State Fault Refusal) = .next t → Q :=
  nofun

theorem Memory.of_next {s t : State} (h : Memory.wf s) :
    (Outcome.next s : Outcome State Fault Refusal) = .next t → Memory.wf t :=
  fun he => Outcome.next.inj he ▸ h

theorem Memory.of_some {s t : State} (h : Memory.wf s) : some s = some t → Memory.wf t :=
  fun he => Option.some.inj he ▸ h

theorem Memory.of_ok {ε : Type} {s t : State} (h : Memory.wf s) : (Except.ok s : Except ε State) = .ok t → Memory.wf t :=
  fun he => Except.ok.inj he ▸ h

theorem Memory.of_ok_fst {ε β : Type} {x : State × β} {t : State} {b : β} (h : Memory.wf x.1) :
    (Except.ok x : Except ε (State × β)) = .ok (t, b) → Memory.wf t :=
  fun he => wf_of_fst (Except.ok.inj he) h

theorem Memory.of_ok_snd {ε β : Type} {x : β × State} {t : State} {b : β} (h : Memory.wf x.2) :
    (Except.ok x : Except ε (β × State)) = .ok (b, t) → Memory.wf t :=
  fun he => wf_of_snd (Except.ok.inj he) h

theorem Memory.of_ok_thd {ε β γ : Type} {x : β × γ × State} {t : State} {b : β} {c : γ} (h : Memory.wf x.2.2) :
    (Except.ok x : Except ε (β × γ × State)) = .ok (b, c, t) → Memory.wf t := by
  intro he
  rw [Except.ok.inj he] at h
  exact h

theorem Memory.of_error_snd {α β : Type} {x : β × State} {t : State} {b : β} (h : Memory.wf x.2) :
    (Except.error x : Except (β × State) α) = .error (b, t) → Memory.wf t :=
  fun he => wf_of_snd (Except.error.inj he) h

theorem Memory.wf_foldl {α : Type} {f : State → α → State} (hf : ∀ s a, Memory.wf s → Memory.wf (f s a))
    (xs : List α) {s : State} (h : Memory.wf s) : Memory.wf (xs.foldl f s) :=
  foldl_keep Memory.wf f (fun x a h => hf x a h) xs s h

/-! ## Access -/

theorem Memory.wf_setTeam {s : State} (h : Memory.wf s) (tid : Nat) (t : Team) : Memory.wf (State.setTeam s tid t) := h

theorem Memory.wf_modTeam {s : State} (h : Memory.wf s) (tid : Nat) (f : Team → Team) :
    Memory.wf (State.modTeam s tid f) := by
  unfold State.modTeam
  split
  · exact wf_setTeam h ..
  · exact h

theorem Memory.wf_modGroup {s : State} (h : Memory.wf s) (tid g : Nat) (f : Group → Group) :
    Memory.wf (State.modGroup s tid g f) :=
  wf_modTeam h ..

theorem Memory.wf_setCore {s : State} (h : Memory.wf s) (k : Nat) (c : Core) : Memory.wf (State.setCore s k c) := h

theorem Memory.wf_modCore {s : State} (h : Memory.wf s) (k : Nat) (f : Core → Core) : Memory.wf (State.modCore s k f) := h

theorem Memory.wf_setCluster {s : State} (h : Memory.wf s) (n : Nat) (c : Cluster) : Memory.wf (State.setCluster s n c) := h

theorem Memory.wf_modCluster {s : State} (h : Memory.wf s) (n : Nat) (f : Cluster → Cluster) :
    Memory.wf (State.modCluster s n f) :=
  h

theorem Memory.wf_setPart {s : State} (h : Memory.wf s) (p : Nat) (x : Partition) : Memory.wf (State.setPart s p x) := h

theorem Memory.wf_modPart {s : State} (h : Memory.wf s) (p : Nat) (f : Partition → Partition) :
    Memory.wf (State.modPart s p f) :=
  h

theorem Memory.wf_setCtx {s : State} (h : Memory.wf s) (p c : Nat) (x : Context) : Memory.wf (State.setCtx s p c x) := h

theorem Memory.wf_modCtx {s : State} (h : Memory.wf s) (p c : Nat) (f : Context → Context) :
    Memory.wf (State.modCtx s p c f) :=
  h

theorem Memory.wf_modDxp {s : State} (h : Memory.wf s) (k : Nat) (f : Dxp → Dxp) : Memory.wf (State.modDxp s k f) := h

theorem Memory.wf_draw {s : State} (h : Memory.wf s) : Memory.wf (State.draw s).2 := h

theorem Memory.wf_drawBytes {s : State} (h : Memory.wf s) (n : Nat) : Memory.wf (State.drawBytes s n).2 := h

theorem Memory.wf_drawChoice {s : State} (h : Memory.wf s) : Memory.wf (State.drawChoice s).2 := h

theorem Memory.wf_newOp {s : State} (h : Memory.wf s) : Memory.wf (State.newOp s).2 := h

theorem Memory.wf_emit {s : State} (h : Memory.wf s) (o : Out) : Memory.wf (State.emit s o) := h

theorem Memory.wf_count {s : State} (h : Memory.wf s) (core event n : Nat) : Memory.wf (State.count s core event n) := by
  unfold State.count
  exact wf_ite h (wf_modCore h ..)

theorem Memory.wf_countUnit {s : State} (h : Memory.wf s) (u part event n : Nat) :
    Memory.wf (State.countUnit s u part event n) :=
  h

/-! ## Memory -/

theorem Memory.wf_spadWrite {s : State} (h : Memory.wf s) (tid off : Nat) (bs : List Byte) :
    Memory.wf (State.spadWrite s tid off bs) := by
  unfold State.spadWrite
  exact wf_of_fields (h := wf_modTeam h ..)

theorem Memory.wf_cvFill {s : State} (h : Memory.wf s) (core ln key : Nat) : Memory.wf (State.cvFill s core ln key) := h

theorem Memory.wf_writeBack {s : State} (h : Memory.wf s) (core : Nat) (p : Nat → CvByte → Bool) :
    Memory.wf (State.writeBack s core p) := by
  unfold State.writeBack
  exact wf_modCore (wf_foldl (fun s1 a h1 => wf_homeSet h1 ..) _ h) _ _

theorem Memory.wf_promote {s : State} (h : Memory.wf s) (k pa : Nat) : Memory.wf (State.promote s k pa) := by
  unfold State.promote
  exact wf_foldl (fun s1 a h1 => wf_writeBack h1 ..) _ h

theorem Memory.wf_engineWrite {s : State} (h : Memory.wf s) (core key pa : Nat) (bs : List Byte) :
    Memory.wf (State.engineWrite s core key pa bs) := by
  unfold State.engineWrite
  exact wf_modCore (wf_homeWrite h ..) _ _

theorem Memory.wf_countErr {s : State} (h : Memory.wf s) (stack kind outcome : Nat) :
    Memory.wf (State.countErr s stack kind outcome) :=
  h

theorem Memory.wf_checkRead {s : State} (h : Memory.wf s) (part stack kind lo n : Nat) :
    Memory.wf (State.checkRead s part stack kind lo n).1 := by
  unfold State.checkRead
  split
  · exact wf_pair_fst h
  · split
    · exact wf_pair_fst h
    · refine wf_pair_fst ?_
      split
      · exact wf_ite (wf_countErr (wf_of_fields (h := h)) _ _ _) (wf_countUnit (wf_countErr (wf_of_fields (h := h)) _ _ _) _
          _ _ _)
      · exact wf_countErr (wf_of_fields (h := h)) _ _ _

/-! ## Notices -/

theorem Memory.wf_pushEv {s : State} (h : Memory.wf s) (core kind : Nat) (w1 w2 w3 : W64) :
    Memory.wf (State.pushEv s core kind w1 w2 w3) :=
  h

theorem Memory.wf_postOrLose {s : State} (h : Memory.wf s) (core kind : Nat) (w1 w2 w3 : W64) :
    Memory.wf (State.postOrLose s core kind w1 w2 w3) := by
  unfold State.postOrLose
  exact wf_ite (wf_pushEv h ..) (wf_modCluster h ..)

theorem Memory.wf_pushNotice {s : State} (h : Memory.wf s) (p kind status w1 w2 w3 : Nat) :
    Memory.wf (State.pushNotice s p kind status w1 w2 w3) := by
  unfold State.pushNotice
  exact wf_hostWrite (wf_hostWrite h ..) _ _

theorem Memory.wf_postNotice {s : State} (h : Memory.wf s) (p kind status w1 w2 w3 : Nat) :
    Memory.wf (State.postNotice s p kind status w1 w2 w3) := by
  unfold State.postNotice
  exact wf_ite (wf_modPart h ..) (wf_pushNotice h ..)

theorem Memory.wf_postError {s : State} (h : Memory.wf s) (core part kind addr pa : Nat) (onWriteBack : Bool) :
    Memory.wf (State.postError s core part kind addr pa onWriteBack) := by
  unfold State.postError
  exact wf_postNotice (wf_postOrLose h ..) _ _ _ _ _ _

/-! ## Image -/

theorem Memory.wf_imageWrite {s : State} (h : Memory.wf s) (t : Team) (va : Nat) (bs : List Byte) :
    Memory.wf (State.imageWrite s t va bs) := by
  unfold State.imageWrite
  split
  · exact wf_homeWrite h ..
  · exact h

theorem Memory.wf_lineOut_write {r : LineOut} (h : Memory.wf r.s) (t : Team) (base : Nat) (p : Nat × List Byte) :
    Memory.wf (r.write t base p).s := by
  have hc := wf_checkRead h t.part (clusterOf t.core / 4) 4 (base + 128 * (p.1 / 128)) 128
  simp only [LineOut.write, apply_ite LineOut.s]
  exact wf_ite h (wf_ite (wf_imageWrite h ..) (wf_ite (wf_postError hc ..) (wf_imageWrite hc ..)))

theorem Memory.wf_writeLines {s : State} (h : Memory.wf s) (t : Team) (base : Nat) (ps : List (Nat × List Byte)) :
    Memory.wf (s.writeLines t base ps).s :=
  foldl_keep (fun r : LineOut => Memory.wf r.s) _ (fun _ p hr => wf_lineOut_write hr t base p) ps ⟨s, [], none⟩ h

theorem Memory.wf_writeGroup {s : State} (h : Memory.wf s) (tid : Nat) (t : Team) (gi : Nat) (ps : List (Nat × List Byte)) :
    Memory.wf (s.writeGroup tid t gi ps) :=
  wf_modGroup (wf_writeLines h ..) ..

theorem Memory.wf_saveGroup {s : State} (h : Memory.wf s) (tid : Nat) (t : Team) (gi : Nat) (g : Group) :
    Memory.wf (State.saveGroup s tid t gi g) :=
  wf_writeGroup h ..

theorem Memory.wf_writeVat {s : State} (h : Memory.wf s) (tid : Nat) (t : Team) (n : Nat) :
    Memory.wf (State.writeVat s tid t n) := by
  unfold State.writeVat
  exact wf_ite (wf_postError (wf_checkRead h ..) _ _ _ _ _ _) (wf_modTeam (wf_foldl (fun s1 a h1 => wf_imageWrite h1 ..) _
    (wf_checkRead h ..)) _ _)

theorem Memory.wf_saveTiles {s : State} (h : Memory.wf s) (tid : Nat) (t : Team) : Memory.wf (s.saveTiles tid t) :=
  wf_foldl (fun _ n hx => wf_writeVat hx tid t n) _ (wf_modTeam (wf_writeLines (wf_drawBytes h 768) ..) ..)

theorem Memory.wf_saveTeam {s : State} (h : Memory.wf s) (tid : Nat) (t : Team) : Memory.wf (State.saveTeam s tid t) := by
  unfold State.saveTeam
  refine wf_ite (wf_foldl (fun s1 a h1 => ?_) _ h) (wf_saveTiles (wf_foldl (fun s1 a h1 => ?_) _ h) _ _)
  · split
    · exact wf_saveGroup h1 ..
    · exact h1
  · split
    · exact wf_saveGroup h1 ..
    · exact h1

/-! ## Power -/

theorem Memory.wf_settle {s : State} (h : Memory.wf s) (c : Nat) : Memory.wf (State.settle s c) := h

theorem Memory.wf_settleAll {s : State} (h : Memory.wf s) : Memory.wf (State.settleAll s) := by
  unfold State.settleAll
  exact wf_foldl (fun s1 a h1 => wf_settle h1 ..) _ h

theorem Memory.wf_setOpt {s : State} (h : Memory.wf s) (i : Nat) (e : OptEntry) : Memory.wf (State.setOpt s i e) := h

theorem Memory.wf_optMiss {s : State} (h : Memory.wf s) (c : Nat) (k : Nat × Nat × Nat) :
    Memory.wf (State.optMiss s c k) := by
  unfold State.optMiss
  dsimp only
  split
  · exact h
  · exact wf_setOpt h ..

theorem Memory.wf_optLearn {s : State} (h : Memory.wf s) (c : Nat) : Memory.wf (State.optLearn s c) := by
  unfold State.optLearn
  split
  · exact h
  · split
    · exact h
    · exact wf_ite (wf_setOpt (wf_of_fields (h := h)) _ _) (wf_of_fields (h := h))

theorem Memory.wf_optBegin {s : State} (h : Memory.wf s) (c : Nat) (keys : List (Nat × Nat × Nat)) :
    Memory.wf (State.optBegin s c keys) :=
  h

theorem Memory.wf_optDecide {s : State} (h : Memory.wf s) (c : Nat) : Memory.wf (State.optDecide s c) := by
  unfold State.optDecide
  exact wf_ite (wf_settle (wf_modCluster (wf_optLearn h ..) _ _) _) (wf_ite (wf_optBegin (wf_settle (wf_modCluster (wf_foldl
    (fun s1 a h1 => wf_setOpt h1 ..) _ (wf_optLearn h ..)) _ _) _) _ _) (wf_optBegin (wf_foldl (fun s1 a h1 => wf_optMiss h1
    ..) _ (wf_settle (wf_modCluster (wf_optLearn h ..) _ _) _)) _ _))

theorem Memory.wf_optGone {s : State} (h : Memory.wf s) (c : Nat) (was : Nat × Nat × Nat) (now : Nat × Nat × Nat) :
    Memory.wf (State.optGone s c was now) := by
  unfold State.optGone
  exact wf_ite h (wf_modCluster (wf_optLearn h ..) _ _)

/-! ## Ops -/

theorem Memory.wf_openStop {s : State} (h : Memory.wf s) (p c : Nat) (why : StopWhy) : Memory.wf (State.openStop s p c why) :=
  h

theorem Memory.wf_unstep {s : State} (h : Memory.wf s) (tid g : Nat) : Memory.wf (State.unstep s tid g) := by
  unfold State.unstep
  split
  · exact h
  · exact wf_ite h (wf_ite (wf_openStop (wf_modPart (wf_modCtx h ..) _ _) _ _ _) (wf_modCtx h ..))

theorem Memory.wf_stepPause {s : State} (h : Memory.wf s) (tid g : Nat) : Memory.wf (State.stepPause s tid g) := by
  unfold State.stepPause
  split
  · exact h
  · exact wf_ite h (wf_unstep h ..)

theorem Memory.wf_countGone {s : State} (h : Memory.wf s) (t : Team) (halted : Bool) :
    Memory.wf (State.countGone s t halted) := by
  unfold State.countGone
  exact wf_ite (wf_modCluster h ..) (wf_modPart h ..)

theorem Memory.wf_writeMapLine {s : State} (h : Memory.wf s) (tid ln : Nat) : Memory.wf (State.writeMapLine s tid ln) := by
  unfold State.writeMapLine
  split
  · exact h
  · dsimp only
    split
    · exact h
    · refine wf_count ?_ _ _ _
      split
      · exact wf_setTeam (wf_foldl (fun s1 a h1 => wf_ite (wf_homeSet h1 ..) h1) _ h) _ _
      · exact wf_setTeam h ..

theorem Memory.wf_writeMap {s : State} (h : Memory.wf s) (tid : Nat) : Memory.wf (State.writeMap s tid) := by
  unfold State.writeMap
  split
  · exact h
  · exact wf_foldl (fun s1 a h1 => wf_writeMapLine h1 ..) _ h

theorem Memory.wf_invalidateMap {s : State} (h : Memory.wf s) (tid : Nat) : Memory.wf (State.invalidateMap s tid) :=
  wf_modTeam h ..

theorem Memory.wf_groupGone {s : State} (h : Memory.wf s) (tid g : Nat) (halted : Bool) :
    Memory.wf (State.groupGone s tid g halted) := by
  unfold State.groupGone
  split
  · exact h
  · split
    · exact h
    · exact wf_ite (wf_modTeam (wf_countGone (wf_ite (wf_writeGroup h ..) (wf_modGroup (wf_writeGroup h ..) _ _ _)) _ _) _
        _) (wf_ite (wf_optDecide (wf_writeMap (wf_modTeam (wf_countGone (wf_ite (wf_writeGroup h ..) (wf_modGroup
        (wf_writeGroup h ..) _ _ _)) _ _) _ _) _) _) (wf_optGone (wf_modTeam (wf_countGone (wf_ite (wf_writeGroup h ..)
        (wf_modGroup (wf_writeGroup h ..) _ _ _)) _ _) _ _) _ _ _))

theorem Memory.wf_groupExit {s : State} (h : Memory.wf s) (tid g : Nat) : Memory.wf (State.groupExit s tid g) := by
  unfold State.groupExit
  exact wf_groupGone (wf_modGroup h ..) _ _ _

theorem Memory.wf_halt {s : State} (h : Memory.wf s) (tid g cause : Nat) : Memory.wf (State.halt s tid g cause) := by
  unfold State.halt
  split
  · exact h
  · exact wf_unstep (wf_postNotice (wf_postOrLose (wf_groupGone (wf_modGroup h ..) _ _ _) _ _ _ _ _) _ _ _ _ _ _) _ _

theorem Memory.wf_appendRec {s : State} (h : Memory.wf s) (tid g : Nat) (r : TrapRec) :
    Memory.wf (State.appendRec s tid g r) := by
  unfold State.appendRec
  split
  · exact h
  · exact wf_ite h (wf_ite (wf_halt h ..) (wf_modGroup h ..))

theorem Memory.wf_raise {s : State} (h : Memory.wf s) (tid g : Nat) (e : Entry) (cause detail addr : Nat) (fail : Mask) :
    Memory.wf (State.raise s tid g e cause detail addr fail) := by
  unfold State.raise
  split
  · exact h
  · split
    · exact h
    · exact wf_ite (wf_halt (wf_modGroup h ..) _ _ _) (wf_appendRec (wf_modGroup h ..) _ _ _)

theorem Memory.wf_raiseLater {s : State} (h : Memory.wf s) (tid g : Nat) (pc : Pc) (mask fail : Mask)
    (cause detail addr : Nat) : Memory.wf (State.raiseLater s tid g pc mask fail cause detail addr) := by
  unfold State.raiseLater
  split
  · exact h
  · split
    · exact h
    · exact wf_ite h (wf_appendRec h ..)

theorem Memory.wf_deliver {s : State} (h : Memory.wf s) (tid g : Nat) : Memory.wf (State.deliver s tid g) := by
  unfold State.deliver
  split
  · exact h
  · split
    · exact h
    · split
      · exact h
      · exact wf_ite (wf_halt (wf_modGroup (wf_count h ..) _ _ _) _ _ _) (wf_modGroup (wf_count h ..) _ _ _)

theorem Memory.wf_endHandler {s : State} (h : Memory.wf s) (tid g resume : Nat) (rpc : Pc) (rest : Bool) :
    Memory.wf (State.endHandler s tid g resume rpc rest) := by
  unfold State.endHandler
  split
  · exact h
  · split
    · exact h
    · split
      · exact wf_ite (wf_groupExit (wf_modGroup h ..) _ _) (wf_modGroup h ..)
      · exact h

theorem Memory.wf_endOp {s : State} (h : Memory.wf s) (tid g id : Nat) : Memory.wf (State.endOp s tid g id) :=
  wf_modGroup h ..

theorem Memory.wf_done {s : State} (h : Memory.wf s) : Memory.wf (State.done s) := by
  unfold State.done
  split
  · exact wf_stepPause (wf_of_fields (h := h)) _ _
  · exact wf_of_fields (h := h)

theorem Memory.wf_bail {s : State} (h : Memory.wf s) (k : Iss) (b : Bail) : Memory.wf (State.bail s k b) := by
  unfold State.bail
  split
  · exact wf_done (wf_raise h ..)
  · exact wf_done (wf_halt (wf_modGroup h ..) _ _ _)
  · exact wf_done (wf_of_fields (h := wf_ite (wf_count (wf_modGroup h ..) _ _ _) (wf_modGroup h ..)))

theorem Memory.wf_retire {s : State} (h : Memory.wf s) (k : Iss) (hint : Hint) (tg : List (Pc × Mask)) (yieldPc : Option Pc) :
    Memory.wf (State.retire s k hint tg yieldPc) := by
  unfold State.retire
  exact wf_done (wf_ite (wf_count (wf_count (wf_count (wf_modGroup h ..) _ _ _) _ _ _) _ _ _) (wf_ite (wf_halt (wf_count
    (wf_count (wf_count (wf_modGroup h ..) _ _ _) _ _ _) _ _ _) _ _ _) (wf_groupExit (wf_count (wf_count (wf_count
    (wf_modGroup h ..) _ _ _) _ _ _) _ _ _) _ _)))

theorem Memory.wf_foldl_fst {α β : Type} {f : State × β → α → State × β}
    (hf : ∀ r a, Memory.wf r.1 → Memory.wf (f r a).1) (xs : List α) {r : State × β} (h : Memory.wf r.1) : Memory.wf (xs.foldl f r).1 :=
  foldl_keep (fun r => Memory.wf r.1) f (fun r a h => hf r a h) xs r h

theorem Memory.wf_readRegs {s : State} (h : Memory.wf s) (k : Iss) (ls : List Nat × List Nat) :
    Memory.wf (State.readRegs s k ls).1 := by
  unfold State.readRegs
  refine wf_ite_fst (wf_pair_fst h) (wf_foldl_fst (fun r a h1 => ?_) _ h)
  split
  · exact h1
  · exact wf_ite_fst (wf_pair_fst (wf_postError (wf_checkRead h1 ..) _ _ _ _ _ _)) (wf_pair_fst (wf_checkRead h1 ..))

theorem Memory.wf_runJ {s : State} (h : Memory.wf s) {op : Nat} {sl : Slots} {ls : List Nat × List Nat}
    {f : Iss → Except Bail (State × List (Pc × Mask))} (hf : ∀ k s1 tg, f k = .ok (s1, tg) → Memory.wf s1) {t : State}
    (ht : runJ op s sl ls f = .next t) : Memory.wf t := by
  revert ht
  unfold runJ
  split
  · exact fault_ne_next
  · split
    · exact of_next (wf_bail h ..)
    · split
      · exact of_next (wf_bail (wf_readRegs h ..) _ _)
      · split
        · exact of_next (wf_bail h ..)
        · next he3 =>
            exact of_next (wf_retire (wf_readRegs (hf _ _ _ he3) _ _) _ _ _ _)

theorem Memory.wf_runS {s : State} (h : Memory.wf s) {op : Nat} {sl : Slots} {ls : List Nat × List Nat}
    {f : Iss → Except Bail State} (hf : ∀ k s1, f k = .ok s1 → Memory.wf s1) {t : State}
    (ht : runS op s sl ls f = .next t) : Memory.wf t :=
  wf_runJ h (by grind -ring -linarith -lia -ac) ht

theorem Memory.wf_runE {s : State} (h : Memory.wf s) {op : Nat} {sl : Slots} {ls : List Nat × List Nat}
    {f : Iss → Except Bail (State × Reads)}
    (hf : ∀ k s1 rd, f k = .ok (s1, rd) → Memory.wf s1 ∧ ∀ x, Memory.wf x → Memory.wf (rd x).1) {t : State}
    (ht : runE op s sl ls f = .next t) : Memory.wf t := by
  unfold runE at ht
  split at ht
  · cases ht
  · next k _ =>
    have hr := wf_readRegs h k ls
    split at ht
    · cases ht
      exact wf_bail h ..
    · split at ht
      · cases ht
        exact wf_bail hr ..
      · split at ht
        · cases ht
          exact wf_bail h ..
        · next s1 rd hok =>
          obtain ⟨h1, hrd⟩ := hf k s1 rd hok
          split at ht <;> cases ht
          · next s2 b he =>
            have h2 := hrd s h
            rw [he] at h2
            exact wf_bail h2 ..
          · exact wf_retire (wf_readRegs (hrd s1 h1) ..) ..

theorem Memory.wf_runG {s : State} (h : Memory.wf s) {op : Nat} {sl : Slots} {ls : List Nat × List Nat}
    {f : Iss → Except Bail Group} {t : State} (ht : runG op s sl ls f = .next t) : Memory.wf t :=
  wf_runS h (by grind -ring -linarith -lia -ac [wf_modGroup]) ht

theorem Memory.wf_clearIdem {s : State} (h : Memory.wf s) (tid : Nat) : Memory.wf (State.clearIdem s tid) :=
  wf_modTeam h ..

/-! ## DxpOps -/

theorem Memory.wf_dxRecord {s : State} (h : Memory.wf s) (core tid : Nat) (pc : Pc) (thread : Nat) (tr : Trap) :
    Memory.wf (State.dxRecord s core tid pc thread tr) := by
  unfold State.dxRecord
  split
  · exact h
  · exact wf_setTeam (wf_modDxp h ..) _ _

theorem Memory.wf_postHeld {s : State} (h : Memory.wf s) (core kind : Nat) (w1 w2 w3 : W64) (tid g opId : Nat)
    (fromDxp : Bool) : Memory.wf (State.postHeld s core kind w1 w2 w3 tid g opId fromDxp) := by
  unfold State.postHeld
  exact wf_ite (wf_endOp (wf_pushEv h ..) _ _ _) (wf_modCore h ..)

theorem Memory.wf_postDxFault {s : State} (h : Memory.wf s) (core tid g opId : Nat) (pc : Pc) (tr : Trap) (fromDxp : Bool) :
    Memory.wf (State.postDxFault s core tid g opId pc tr fromDxp) := by
  unfold State.postDxFault
  split
  · exact h
  · exact wf_postHeld h ..

theorem Memory.wf_dxSettle {s : State} (h : Memory.wf s) (core : Nat) : Memory.wf (State.dxSettle s core) := by
  unfold State.dxSettle
  dsimp only
  split
  · exact h
  · split
    · exact h
    · refine wf_ite h ?_
      split
      · exact wf_endOp (wf_modTeam (wf_modDxp h ..) _ _) _ _ _
      · exact wf_postDxFault (wf_dxRecord (wf_modTeam (wf_modDxp h ..) _ _) _ _ _ _ _) _ _ _ _ _ _ _

theorem Memory.wf_dxFault {s : State} (h : Memory.wf s) (core : Nat) (tr : Trap) : Memory.wf (State.dxFault s core tr) := by
  unfold State.dxFault
  exact wf_dxSettle (wf_modDxp h ..) _

theorem Memory.wf_dxEnd {s : State} (h : Memory.wf s) (core : Nat) : Memory.wf (State.dxEnd s core) := by
  unfold State.dxEnd
  exact wf_dxSettle (wf_modDxp h ..) _

theorem Memory.wf_runDW {s : State} (h : Memory.wf s) {f : Dss → Except Bail (State × Pc × Option Hold)}
    (hf : ∀ k s1 r, f k = .ok (s1, r) → Memory.wf s1) {t : State} (ht : runDW s f = .next t) : Memory.wf t := by
  revert ht
  unfold runDW
  split
  · exact fault_ne_next
  · split
    · exact of_next (wf_done (wf_dxFault h ..))
    · split
      · exact of_next (wf_done (wf_dxFault h ..))
      · exact of_next (wf_done h)
      · exact of_next (wf_done (wf_modDxp h ..))
      · next he2 =>
          exact of_next (wf_done (wf_modDxp (hf _ _ _ he2) _ _))

theorem Memory.wf_runD {s : State} (h : Memory.wf s) {f : Dss → Except Bail (State × Pc)}
    (hf : ∀ k s1 pc, f k = .ok (s1, pc) → Memory.wf s1) {t : State} (ht : runD s f = .next t) : Memory.wf t :=
  wf_runDW h (by grind -ring -linarith -lia -ac) ht

theorem Memory.wf_runDx {s : State} (h : Memory.wf s) {f : Dss → Except Bail Dxp} {t : State} (ht : runDx s f = .next t) :
    Memory.wf t :=
  wf_runD h (by grind -ring -linarith -lia -ac [wf_modDxp]) ht

end Sys2Proof.Machine
end

section
/-!
Memory in its canonical form, part 2: the instructions on registers, loads, stores and atomics.
-/
namespace Sys2Proof.Machine

open Host (Outcome)
open Memory
set_option Elab.async false

/-! ## Integer -/

theorem Memory.wf_intInstr {s : State} (h : Memory.wf s) (op : IntOp) (opc : Nat) (readsD : Bool) (i : FnI) {s' : State}
    (ht : intInstr op opc readsD i s = .next s') : Memory.wf s' := by
  revert ht
  unfold intInstr
  split
  · exact wf_runDx h
  · exact wf_runG h

theorem Memory.wf_execIadd {s : State} (h : Memory.wf s) (i : FnI) {s' : State} (ht : execIadd i s = .next s') :
    Memory.wf s' :=
  wf_intInstr h _ _ _ _ ht

theorem Memory.wf_execIsub {s : State} (h : Memory.wf s) (i : FnI) {s' : State} (ht : execIsub i s = .next s') :
    Memory.wf s' :=
  wf_intInstr h _ _ _ _ ht

theorem Memory.wf_execImul {s : State} (h : Memory.wf s) (i : FnI) {s' : State} (ht : execImul i s = .next s') :
    Memory.wf s' :=
  wf_intInstr h _ _ _ _ ht

theorem Memory.wf_execImulh {s : State} (h : Memory.wf s) (i : FnI) {s' : State} (ht : execImulh i s = .next s') :
    Memory.wf s' :=
  wf_intInstr h _ _ _ _ ht

theorem Memory.wf_execImad {s : State} (h : Memory.wf s) (i : FnI) {s' : State} (ht : execImad i s = .next s') :
    Memory.wf s' :=
  wf_intInstr h _ _ _ _ ht

theorem Memory.wf_execIdiv {s : State} (h : Memory.wf s) (i : FnI) {s' : State} (ht : execIdiv i s = .next s') :
    Memory.wf s' :=
  wf_intInstr h _ _ _ _ ht

theorem Memory.wf_execIrem {s : State} (h : Memory.wf s) (i : FnI) {s' : State} (ht : execIrem i s = .next s') :
    Memory.wf s' :=
  wf_intInstr h _ _ _ _ ht

theorem Memory.wf_execImin {s : State} (h : Memory.wf s) (i : FnI) {s' : State} (ht : execImin i s = .next s') :
    Memory.wf s' :=
  wf_intInstr h _ _ _ _ ht

theorem Memory.wf_execImax {s : State} (h : Memory.wf s) (i : FnI) {s' : State} (ht : execImax i s = .next s') :
    Memory.wf s' :=
  wf_intInstr h _ _ _ _ ht

theorem Memory.wf_execIabs {s : State} (h : Memory.wf s) (i : FnI) {s' : State} (ht : execIabs i s = .next s') :
    Memory.wf s' :=
  wf_intInstr h _ _ _ _ ht

theorem Memory.wf_execIneg {s : State} (h : Memory.wf s) (i : FnI) {s' : State} (ht : execIneg i s = .next s') :
    Memory.wf s' :=
  wf_intInstr h _ _ _ _ ht

theorem Memory.wf_execAnd {s : State} (h : Memory.wf s) (i : FnI) {s' : State} (ht : execAnd i s = .next s') : Memory.wf s' :=
  wf_intInstr h _ _ _ _ ht

theorem Memory.wf_execOr {s : State} (h : Memory.wf s) (i : FnI) {s' : State} (ht : execOr i s = .next s') : Memory.wf s' :=
  wf_intInstr h _ _ _ _ ht

theorem Memory.wf_execXor {s : State} (h : Memory.wf s) (i : FnI) {s' : State} (ht : execXor i s = .next s') : Memory.wf s' :=
  wf_intInstr h _ _ _ _ ht

theorem Memory.wf_execNot {s : State} (h : Memory.wf s) (i : FnI) {s' : State} (ht : execNot i s = .next s') : Memory.wf s' :=
  wf_intInstr h _ _ _ _ ht

theorem Memory.wf_execShl {s : State} (h : Memory.wf s) (i : FnI) {s' : State} (ht : execShl i s = .next s') : Memory.wf s' :=
  wf_intInstr h _ _ _ _ ht

theorem Memory.wf_execShr {s : State} (h : Memory.wf s) (i : FnI) {s' : State} (ht : execShr i s = .next s') : Memory.wf s' :=
  wf_intInstr h _ _ _ _ ht

theorem Memory.wf_execSar {s : State} (h : Memory.wf s) (i : FnI) {s' : State} (ht : execSar i s = .next s') : Memory.wf s' :=
  wf_intInstr h _ _ _ _ ht

theorem Memory.wf_execRotl {s : State} (h : Memory.wf s) (i : FnI) {s' : State} (ht : execRotl i s = .next s') :
    Memory.wf s' :=
  wf_intInstr h _ _ _ _ ht

theorem Memory.wf_execPopc {s : State} (h : Memory.wf s) (i : FnI) {s' : State} (ht : execPopc i s = .next s') :
    Memory.wf s' :=
  wf_intInstr h _ _ _ _ ht

theorem Memory.wf_execClz {s : State} (h : Memory.wf s) (i : FnI) {s' : State} (ht : execClz i s = .next s') : Memory.wf s' :=
  wf_intInstr h _ _ _ _ ht

theorem Memory.wf_execBrev {s : State} (h : Memory.wf s) (i : FnI) {s' : State} (ht : execBrev i s = .next s') :
    Memory.wf s' :=
  wf_intInstr h _ _ _ _ ht

theorem Memory.wf_execBfx {s : State} (h : Memory.wf s) (i : FnI) {s' : State} (ht : execBfx i s = .next s') : Memory.wf s' :=
  wf_intInstr h _ _ _ _ ht

theorem Memory.wf_execBfi {s : State} (h : Memory.wf s) (i : FnI) {s' : State} (ht : execBfi i s = .next s') : Memory.wf s' :=
  wf_intInstr h _ _ _ _ ht

theorem Memory.wf_execSadd {s : State} (h : Memory.wf s) (i : FnI) {s' : State} (ht : execSadd i s = .next s') :
    Memory.wf s' :=
  wf_intInstr h _ _ _ _ ht

theorem Memory.wf_execIsad {s : State} (h : Memory.wf s) (i : FnI) {s' : State} (ht : execIsad i s = .next s') :
    Memory.wf s' :=
  wf_runG h ht

theorem Memory.wf_execIcmp {s : State} (h : Memory.wf s) (i : FnI) {s' : State} (ht : execIcmp i s = .next s') :
    Memory.wf s' :=
  wf_runG h ht

theorem Memory.wf_execSel {s : State} (h : Memory.wf s) (i : FnI) {s' : State} (ht : execSel i s = .next s') : Memory.wf s' :=
  wf_runG h ht

theorem Memory.wf_execMov {s : State} (h : Memory.wf s) (i : FnI) {s' : State} (ht : execMov i s = .next s') :
    Memory.wf s' := by
  revert ht
  unfold execMov
  split
  · exact wf_runDx h
  · exact wf_runG h

theorem Memory.wf_execLea {s : State} (h : Memory.wf s) (i : FnI) {s' : State} (ht : execLea i s = .next s') :
    Memory.wf s' := by
  revert ht
  unfold execLea
  split
  · exact wf_runDx h
  · exact wf_runG h

/-! ## Control -/

theorem Memory.wf_callLanes {s : State} (h : Memory.wf s) (gd : Guard) (next : Nat → Pc) (k : Iss) {s' : State}
    {br : List (Pc × Mask)} (ht : callLanes gd next s k = .ok (s', br)) : Memory.wf s' := by
  revert ht
  unfold callLanes
  exact of_ite error_ne_ok (of_ite error_ne_ok (of_ok_fst (wf_count (wf_modGroup h ..) _ _ _)))

theorem Memory.wf_execBra {s : State} (h : Memory.wf s) (i : Slots) {s' : State} (ht : execBra i s = .next s') :
    Memory.wf s' := by
  revert ht
  unfold execBra
  exact wf_runJ h (fun k s1 tg => of_ok_fst h)

theorem Memory.wf_execBrx {s : State} (h : Memory.wf s) (i : Slots) {s' : State} (ht : execBrx i s = .next s') :
    Memory.wf s' := by
  revert ht
  unfold execBrx
  refine wf_runJ h (fun k s1 tg => ?_)
  split
  · exact error_ne_ok
  · exact of_ok_fst h

theorem Memory.wf_execCall {s : State} (h : Memory.wf s) (i : Slots) {s' : State} (ht : execCall i s = .next s') :
    Memory.wf s' := by
  revert ht
  unfold execCall
  exact wf_runJ h (fun k s1 tg => wf_callLanes h _ _ _)

theorem Memory.wf_execCalli {s : State} (h : Memory.wf s) (i : Slots) {s' : State} (ht : execCalli i s = .next s') :
    Memory.wf s' := by
  revert ht
  unfold execCalli
  refine wf_runJ h (fun k s1 tg => ?_)
  split
  · exact error_ne_ok
  · exact wf_callLanes h _ _ _

theorem Memory.wf_execRet {s : State} (h : Memory.wf s) (i : Slots) {s' : State} (ht : execRet i s = .next s') :
    Memory.wf s' := by
  revert ht
  unfold execRet
  exact wf_runJ h (fun k s1 tg => of_ite error_ne_ok (of_ok_fst (wf_modGroup h ..)))

theorem Memory.wf_execDxpBra {s : State} (h : Memory.wf s) (i : Slots) {s' : State} (ht : execDxpBra i s = .next s') :
    Memory.wf s' := by
  revert ht
  unfold execDxpBra
  exact wf_runD h (fun k s1 pc => of_ok_fst h)

theorem Memory.wf_execDxpCall {s : State} (h : Memory.wf s) (i : Slots) {s' : State} (ht : execDxpCall i s = .next s') :
    Memory.wf s' := by
  revert ht
  unfold execDxpCall
  exact wf_runD h (fun k s1 pc => of_ok_fst (wf_modDxp h ..))

theorem Memory.wf_execDxpRet {s : State} (h : Memory.wf s) (_i : Slots) {s' : State} (ht : execDxpRet _i s = .next s') :
    Memory.wf s' := by
  revert ht
  unfold execDxpRet
  exact wf_runD h (fun k s1 pc => of_ite (of_ok_fst (wf_dxEnd h ..)) (of_ok_fst h))

theorem Memory.wf_execVote {s : State} (h : Memory.wf s) (i : FnI) {s' : State} (ht : execVote i s = .next s') :
    Memory.wf s' :=
  wf_runG h ht

theorem Memory.wf_execShfl {s : State} (h : Memory.wf s) (i : FnI) {s' : State} (ht : execShfl i s = .next s') :
    Memory.wf s' :=
  wf_runG h ht

theorem Memory.wf_execActmask {s : State} (h : Memory.wf s) (i : Slots) {s' : State} (ht : execActmask i s = .next s') :
    Memory.wf s' :=
  wf_runG h ht

theorem Memory.wf_execCvdecl {s : State} (h : Memory.wf s) (i : Slots) {s' : State} (ht : execCvdecl i s = .next s') :
    Memory.wf s' := by
  revert ht
  unfold execCvdecl
  exact wf_runS h (fun k s1 => of_ite error_ne_ok (of_ok (wf_modTeam h ..)))

theorem Memory.wf_execCvtest {s : State} (h : Memory.wf s) (i : Slots) {s' : State} (ht : execCvtest i s = .next s') :
    Memory.wf s' :=
  wf_runG h ht

/-! ## Moves -/

theorem Memory.wf_execBcast {s : State} (h : Memory.wf s) (i : FnI) {s' : State} (ht : execBcast i s = .next s') :
    Memory.wf s' :=
  wf_runG h ht

theorem Memory.wf_execExtract {s : State} (h : Memory.wf s) (i : FnI) {s' : State} (ht : execExtract i s = .next s') :
    Memory.wf s' :=
  wf_runG h ht

theorem Memory.wf_execGetid {s : State} (h : Memory.wf s) (i : FnI) {s' : State} (ht : execGetid i s = .next s') :
    Memory.wf s' :=
  wf_runG h ht

theorem Memory.wf_execLdk {s : State} (h : Memory.wf s) (i : FnI) {s' : State} (ht : execLdk i s = .next s') : Memory.wf s' :=
  wf_runG h ht

theorem Memory.wf_execMovp {s : State} (h : Memory.wf s) (i : FnI) {s' : State} (ht : execMovp i s = .next s') :
    Memory.wf s' :=
  wf_runG h ht

/-! ## Float -/

theorem Memory.wf_floatInstr {s : State} (h : Memory.wf s) (op : FloatOp) (opc : Nat) (i : RdI) {s' : State}
    (ht : floatInstr op opc i s = .next s') : Memory.wf s' :=
  wf_runG h ht

theorem Memory.wf_execFadd {s : State} (h : Memory.wf s) (i : RdI) {s' : State} (ht : execFadd i s = .next s') :
    Memory.wf s' :=
  wf_floatInstr h _ _ _ ht

theorem Memory.wf_execFsub {s : State} (h : Memory.wf s) (i : RdI) {s' : State} (ht : execFsub i s = .next s') :
    Memory.wf s' :=
  wf_floatInstr h _ _ _ ht

theorem Memory.wf_execFmul {s : State} (h : Memory.wf s) (i : RdI) {s' : State} (ht : execFmul i s = .next s') :
    Memory.wf s' :=
  wf_floatInstr h _ _ _ ht

theorem Memory.wf_execFfma {s : State} (h : Memory.wf s) (i : RdI) {s' : State} (ht : execFfma i s = .next s') :
    Memory.wf s' :=
  wf_floatInstr h _ _ _ ht

theorem Memory.wf_execFdiv {s : State} (h : Memory.wf s) (i : RdI) {s' : State} (ht : execFdiv i s = .next s') :
    Memory.wf s' :=
  wf_floatInstr h _ _ _ ht

theorem Memory.wf_elemInstr {s : State} (h : Memory.wf s) (fn opc : Nat) (i : RdI) {s' : State}
    (ht : elemInstr fn opc i s = .next s') : Memory.wf s' :=
  wf_runG h ht

theorem Memory.wf_execFrcp {s : State} (h : Memory.wf s) (i : RdI) {s' : State} (ht : execFrcp i s = .next s') :
    Memory.wf s' :=
  wf_elemInstr h _ _ _ ht

theorem Memory.wf_execFrsq {s : State} (h : Memory.wf s) (i : RdI) {s' : State} (ht : execFrsq i s = .next s') :
    Memory.wf s' :=
  wf_elemInstr h _ _ _ ht

theorem Memory.wf_execFsqrt {s : State} (h : Memory.wf s) (i : RdI) {s' : State} (ht : execFsqrt i s = .next s') :
    Memory.wf s' :=
  wf_elemInstr h _ _ _ ht

theorem Memory.wf_execFexp2 {s : State} (h : Memory.wf s) (i : RdI) {s' : State} (ht : execFexp2 i s = .next s') :
    Memory.wf s' :=
  wf_elemInstr h _ _ _ ht

theorem Memory.wf_execFlog2 {s : State} (h : Memory.wf s) (i : RdI) {s' : State} (ht : execFlog2 i s = .next s') :
    Memory.wf s' :=
  wf_elemInstr h _ _ _ ht

theorem Memory.wf_execFsin {s : State} (h : Memory.wf s) (i : RdI) {s' : State} (ht : execFsin i s = .next s') :
    Memory.wf s' :=
  wf_elemInstr h _ _ _ ht

theorem Memory.wf_execFcos {s : State} (h : Memory.wf s) (i : RdI) {s' : State} (ht : execFcos i s = .next s') :
    Memory.wf s' :=
  wf_elemInstr h _ _ _ ht

theorem Memory.wf_execFtanh {s : State} (h : Memory.wf s) (i : RdI) {s' : State} (ht : execFtanh i s = .next s') :
    Memory.wf s' :=
  wf_elemInstr h _ _ _ ht

theorem Memory.wf_execFfloor {s : State} (h : Memory.wf s) (i : FnI) {s' : State} (ht : execFfloor i s = .next s') :
    Memory.wf s' :=
  wf_runG h ht

theorem Memory.wf_execFround {s : State} (h : Memory.wf s) (i : RdI) {s' : State} (ht : execFround i s = .next s') :
    Memory.wf s' :=
  wf_runG h ht

theorem Memory.wf_execFmin {s : State} (h : Memory.wf s) (i : FnI) {s' : State} (ht : execFmin i s = .next s') :
    Memory.wf s' :=
  wf_runG h ht

theorem Memory.wf_execFmax {s : State} (h : Memory.wf s) (i : FnI) {s' : State} (ht : execFmax i s = .next s') :
    Memory.wf s' :=
  wf_runG h ht

theorem Memory.wf_execFabs {s : State} (h : Memory.wf s) (i : FnI) {s' : State} (ht : execFabs i s = .next s') :
    Memory.wf s' :=
  wf_runG h ht

theorem Memory.wf_execFneg {s : State} (h : Memory.wf s) (i : FnI) {s' : State} (ht : execFneg i s = .next s') :
    Memory.wf s' :=
  wf_runG h ht

theorem Memory.wf_execFcmp {s : State} (h : Memory.wf s) (i : FnI) {s' : State} (ht : execFcmp i s = .next s') :
    Memory.wf s' :=
  wf_runG h ht

theorem Memory.wf_execFclass {s : State} (h : Memory.wf s) (i : FnI) {s' : State} (ht : execFclass i s = .next s') :
    Memory.wf s' :=
  wf_runG h ht

theorem Memory.wf_execFdot2 {s : State} (h : Memory.wf s) (i : RdI) {s' : State} (ht : execFdot2 i s = .next s') :
    Memory.wf s' :=
  wf_runG h ht

theorem Memory.wf_execFdot4 {s : State} (h : Memory.wf s) (i : RdI) {s' : State} (ht : execFdot4 i s = .next s') :
    Memory.wf s' :=
  wf_runG h ht

/-! ## Fabric -/

theorem Memory.wf_freshPort {s : State} (h : Memory.wf s) (port : Nat) : Memory.wf (State.freshPort s port) := h

theorem Memory.wf_depart {s : State} (h : Memory.wf s) (p : Packet) (path : Nat) : Memory.wf (State.depart s p path) := by
  unfold State.depart
  exact wf_emit (wf_of_fields (h := wf_ite (wf_freshPort (wf_ite (wf_countUnit (wf_countUnit h ..) _ _ _ _) (wf_countUnit h
    ..)) _) (wf_ite (wf_countUnit (wf_countUnit h ..) _ _ _ _) (wf_countUnit h ..)))) _

theorem Memory.wf_sendOn {s : State} (h : Memory.wf s) (core : Nat) (p : Packet) (path : Nat) :
    Memory.wf (State.sendOn s core p path) := by
  unfold State.sendOn
  exact wf_depart (wf_modCore h ..) _ _

theorem Memory.wf_send {s : State} (h : Memory.wf s) (core need : Nat) (p : Packet) {s' : State}
    (ht : State.send s core need p = some s') : Memory.wf s' := by
  revert ht
  unfold State.send
  split
  · exact none_ne_some
  · exact of_some (wf_sendOn (wf_of_fields (h := h)) _ _ _)

theorem Memory.wf_request {s : State} (h : Memory.wf s) (core need : Nat) (p : Packet) (why : ReqFor) {s' : State}
    (ht : State.request s core need p why = some s') : Memory.wf s' := by
  simp only [State.request] at ht
  split at ht
  · cases ht
  · next s1 hs1 =>
    cases ht
    have h1 := wf_send h _ _ _ hs1
    exact h1

theorem Memory.wf_sendAny {s : State} (h : Memory.wf s) (p : Packet) (path : Nat) : Memory.wf (State.sendAny s p path) := by
  unfold State.sendAny
  exact wf_sendOn (wf_of_fields (h := h)) _ _ _

theorem Memory.wf_respond {s : State} (h : Memory.wf s) (req : Packet) (kind part addr arg status : Nat) (payload : List Byte)
    : Memory.wf (State.respond s req kind part addr arg status payload) := by
  unfold State.respond
  dsimp only
  split
  · exact h
  · exact wf_sendAny (wf_drawChoice h) _ _

theorem Memory.wf_slipped {s : State} (h : Memory.wf s) (core dev colours : Nat) :
    Memory.wf (State.slipped s core dev colours) :=
  h

theorem Memory.wf_owe {s : State} (h : Memory.wf s) (core dev colours : Nat) : Memory.wf (State.owe s core dev colours) := h

theorem Memory.wf_refuseRef {s : State} (h : Memory.wf s) (detail : Nat) (r : StoreRef) :
    Memory.wf (State.refuseRef s detail r) :=
  wf_raiseLater h ..

theorem Memory.wf_wcDrain {s : State} (h : Memory.wf s) (core idx : Nat) : Memory.wf (s.wcDrain core idx) := by
  unfold State.wcDrain
  split
  · exact h
  · have h1 := wf_count (wf_modCore h core fun c => { c with wc := c.wc.eraseIdx idx }) core 0x0A 1
    dsimp only
    split
    · exact wf_foldl (fun x r hx => wf_refuseRef hx 6 r) _ h1
    · next s2 hs2 =>
      have h2 := wf_send h1 _ _ _ hs2
      refine wf_slipped (wf_owe ?_ ..) ..
      exact h2

theorem Memory.wf_wcDrainAll {s : State} (h : Memory.wf s) (core : Nat) (p : WcEntry → Bool) :
    Memory.wf (State.wcDrainAll s core p) := by
  unfold State.wcDrainAll
  refine wf_foldl (fun s1 a h1 => ?_) _ h
  split
  · exact wf_wcDrain h1 ..
  · exact h1

theorem Memory.wf_wcPut {s : State} (h : Memory.wf s) (core dev pa : Nat) (bs : List Byte) (colour : Nat) (owner : Nat × Nat)
    (ref : StoreRef) : Memory.wf (State.wcPut s core dev pa bs colour owner ref) := by
  unfold State.wcPut
  dsimp only
  split
  · exact wf_wcDrain (wf_modCore (wf_ite (wf_wcDrain h ..) h) _ _) _ _
  · exact wf_modCore (wf_ite (wf_wcDrain h ..) h) _ _

theorem Memory.wf_relFinish {s : State} (h : Memory.wf s) (tid g : Nat) (why : RelFor) :
    Memory.wf (State.relFinish s tid g why) := by
  unfold State.relFinish
  split
  · exact wf_modGroup h ..
  · exact wf_modGroup h ..
  · exact wf_modGroup h ..
  · exact wf_endOp h ..
  · exact h
  · exact h
  · exact wf_modGroup h ..

theorem Memory.wf_relAdvance {s : State} (h : Memory.wf s) (id : Nat) : Memory.wf (State.relAdvance s id) := by
  unfold State.relAdvance
  grind -ring -linarith -lia -ac [wf_emit, wf_newOp, wf_relFinish, wf_foldl_fst, State.memOk]

theorem Memory.wf_unowe {s : State} (h : Memory.wf s) (core dev : Nat) (p : Nat → Bool) :
    Memory.wf (State.unowe s core dev p) :=
  h

theorem Memory.wf_startMarkers {s : State} (h : Memory.wf s) (core tid g part : Nat) (pc : Pc) (mask : Mask) (colours : Nat)
    (devs lines : List Nat) (why : RelFor) :
    Memory.wf (State.startMarkers s core tid g part pc mask colours devs lines why) := by
  unfold State.startMarkers
  grind -ring -linarith -lia -ac [wf_modCore, wf_newOp, wf_raiseLater, wf_relAdvance, wf_sendOn, wf_unowe, wf_foldl,
    wf_foldl_fst, State.memOk]

theorem Memory.wf_releaseSteps {s : State} (h : Memory.wf s) (core tid g part : Nat) (pc : Pc) (mask : Mask) (scope : Scope)
    (colours : Nat) (extra : List Nat) (why : RelFor) :
    Memory.wf (State.releaseSteps s core tid g part pc mask scope colours extra why) := by
  unfold State.releaseSteps
  exact wf_ite (wf_relFinish (wf_ite (wf_writeMap (wf_ite (wf_writeBack (wf_ite (wf_modPart h ..) h) _ _) (wf_ite
    (wf_modPart h ..) h)) _) (wf_ite (wf_writeBack (wf_ite (wf_modPart h ..) h) _ _) (wf_ite (wf_modPart h ..) h))) _ _ _)
    (wf_startMarkers (wf_wcDrainAll (wf_ite (wf_writeMap (wf_ite (wf_writeBack (wf_ite (wf_modPart h ..) h) _ _) (wf_ite
    (wf_modPart h ..) h)) _) (wf_ite (wf_writeBack (wf_ite (wf_modPart h ..) h) _ _) (wf_ite (wf_modPart h ..) h))) _ _) _ _
    _ _ _ _ _ _ _ _)

theorem Memory.wf_acquire {s : State} (h : Memory.wf s) (core tid : Nat) (scope : Scope) :
    Memory.wf (State.acquire s core tid scope) := by
  unfold State.acquire
  exact wf_ite (wf_invalidateMap (wf_writeMap (wf_ite (wf_modCore h ..) h) _) _) (wf_ite (wf_modCore h ..) h)

/-! ## Tables -/

theorem Memory.wf_newSpmap {s : State} (h : Memory.wf s) (tid : Nat) : Memory.wf (State.newSpmap s tid) := by
  unfold State.newSpmap
  split
  · exact h
  · exact wf_ite h (wf_modTeam (wf_foldl (fun s1 a h1 => wf_writeMapLine h1 ..) _ h) _ _)

theorem Memory.wf_ctlsync {s : State} (h : Memory.wf s) (tid : Nat) {s' : State} (ht : State.ctlsync s tid = .ok s') :
    Memory.wf s' := by
  revert ht
  unfold State.ctlsync
  split
  · exact of_ok h
  · refine of_ite (of_ok h) ?_
    split
    · exact error_ne_ok
    · exact of_ok (wf_newSpmap (wf_modTeam h ..) _)
    · exact of_ok (wf_newSpmap (wf_modTeam h ..) _)

/-! ## Mem -/

theorem Memory.wf_idemStore {s : State} (h : Memory.wf s) (tid : Nat) (accs : List Acc) :
    Memory.wf (State.idemStore s tid accs) := by
  unfold State.idemStore
  exact wf_ite (wf_clearIdem h ..) h

/-! ## Load -/

theorem Memory.wf_readErr {s : State} (h : Memory.wf s) (core part : Nat) (l : Loc) (n va : Nat) :
    Memory.wf (State.readErr s core part l n va).1 := by
  unfold State.readErr
  refine wf_ite_fst (wf_pair_fst (wf_postError ?_ _ _ _ _ _ _)) (wf_pair_fst ?_)
  · split
    · exact wf_ite_fst (wf_pair_fst (wf_checkRead h ..)) (wf_pair_fst (wf_checkRead (wf_checkRead h ..) _ _ _ _ _))
    · exact wf_pair_fst (wf_checkRead h ..)
    · exact wf_pair_fst h
  · split
    · exact wf_ite_fst (wf_pair_fst (wf_checkRead h ..)) (wf_pair_fst (wf_checkRead (wf_checkRead h ..) _ _ _ _ _))
    · exact wf_pair_fst (wf_checkRead h ..)
    · exact wf_pair_fst h

theorem Memory.wf_edgeErr {s : State} (h : Memory.wf s) (core part : Nat) (l : Loc) (n va : Nat) :
    Memory.wf (State.edgeErr s core part l n va).1 := by
  unfold State.edgeErr
  split
  · exact wf_ite_fst (wf_pair_fst (wf_postError (wf_checkRead h ..) _ _ _ _ _ _)) (wf_pair_fst (wf_checkRead h ..))
  · exact wf_pair_fst h

theorem Memory.wf_servedErr {s : State} (h : Memory.wf s) (part pa n : Nat) : Memory.wf (State.servedErr s part pa n).1 := by
  unfold State.servedErr
  exact wf_ite_fst (wf_pair_fst h) (wf_ite_fst (wf_pair_fst (wf_postNotice (wf_checkRead h ..) _ _ _ _ _ _)) (wf_pair_fst
    (wf_ite (wf_postNotice (wf_checkRead (wf_checkRead h ..) _ _ _ _ _) _ _ _ _ _ _) (wf_checkRead (wf_checkRead h ..) _ _ _
    _ _))))

theorem Memory.wf_readAccs {s : State} (h : Memory.wf s) (k : Iss) (whole tile : Bool) (accs : List Acc) :
    Memory.wf (k.readAccs whole tile accs s).1 := by
  unfold Iss.readAccs
  exact wf_ite_fst (wf_pair_fst h) (wf_pair_fst (wf_foldl_fst (fun r a h1 => wf_ite_fst h1 (wf_pair_fst (wf_readErr h1 ..)))
    _ h))

theorem Memory.wf_sendAccs {s : State} (h : Memory.wf s) (k : Iss) (accs : List Acc) : Memory.wf (k.sendAccs accs s).1 := by
  unfold Iss.sendAccs
  grind -ring -linarith -lia -ac [wf_foldl_fst, wf_edgeErr]

theorem Memory.wf_loadInstr {s : State} (h : Memory.wf s) (op : Nat) (sp : Space) (i : MemI) {s' : State}
    (ht : loadInstr op sp i s = .next s') : Memory.wf s' := by
  refine wf_runE h (fun k s1 rd hf => ?_) ht
  dsimp only at hf
  repeat' split at hf
  all_goals cases hf
  all_goals exact ⟨wf_modGroup (wf_newOp h) .., fun x hx => wf_readAccs hx ..⟩

theorem Memory.wf_execLdg {s : State} (h : Memory.wf s) (i : MemI) {s' : State} (ht : execLdg i s = .next s') :
    Memory.wf s' :=
  wf_loadInstr h _ _ _ ht

theorem Memory.wf_execLds {s : State} (h : Memory.wf s) (i : MemI) {s' : State} (ht : execLds i s = .next s') :
    Memory.wf s' :=
  wf_loadInstr h _ _ _ ht

theorem Memory.wf_execLdun {s : State} (h : Memory.wf s) (i : MemI) {s' : State} (ht : execLdun i s = .next s') :
    Memory.wf s' :=
  wf_loadInstr h _ _ _ ht

theorem Memory.wf_execLdm {s : State} (h : Memory.wf s) (i : MemI) {s' : State} (ht : execLdm i s = .next s') :
    Memory.wf s' := by
  refine wf_runE h (fun k s1 rd hf => ?_) ht
  split at hf
  · cases hf
  · split at hf
    · cases hf
    · split at hf
      · cases hf
      · split at hf <;> cases hf
        exact ⟨wf_modGroup (wf_newOp h) .., fun x hx => wf_readAccs hx ..⟩

theorem Memory.wf_postPage {s : State} (h : Memory.wf s) (k : Iss) (lane va pg : Nat) :
    Memory.wf (State.postPage s k lane va pg) := by
  unfold State.postPage
  exact wf_ite h (wf_ite (wf_modPart h ..) (wf_pushNotice (wf_modPart h ..) _ _ _ _ _ _))

theorem Memory.wf_execPgreq {s : State} (h : Memory.wf s) (i : MemI) {s' : State} (ht : execPgreq i s = .next s') :
    Memory.wf s' := by
  revert ht
  unfold execPgreq
  refine wf_runS h (fun k s1 => ?_)
  split
  · exact error_ne_ok
  · dsimp only
    split
    · exact error_ne_ok
    · exact of_ok (wf_clearIdem (wf_foldl (fun s2 a h1 => wf_postPage h1 ..) _ h) _)

theorem Memory.wf_execPref {s : State} (h : Memory.wf s) (i : MemI) {s' : State} (ht : execPref i s = .next s') :
    Memory.wf s' := by
  revert ht
  unfold execPref
  refine wf_runS h (fun k s1 => ?_)
  split
  · exact error_ne_ok
  · exact of_ok h

theorem Memory.wf_cvNeed {s : State} (h : Memory.wf s) (core key pa n : Nat) : Memory.wf (State.cvNeed s core key pa n) := by
  unfold State.cvNeed
  exact wf_ite h (wf_cvFill h ..)

theorem Memory.wf_readMem {s : State} (h : Memory.wf s) (core key pa n : Nat) (deep : Bool) :
    Memory.wf (State.readMem s core key pa n deep).2 := by
  unfold State.readMem
  exact wf_ite_snd (wf_pair_snd (wf_foldl (fun s1 a h1 => wf_promote h1 ..) _ h)) (wf_pair_snd (wf_cvNeed h ..))

theorem Memory.wf_sourceBytes {s : State} (h : Memory.wf s) (core : Nat) (a : Acc) (deep : Bool) :
    Memory.wf (State.sourceBytes s core a deep).2 := by
  unfold State.sourceBytes
  split
  · exact wf_pair_snd h
  · exact wf_pair_snd (wf_readMem h ..)
  · exact wf_pair_snd h

theorem Memory.wf_acquired {s : State} (h : Memory.wf s) (tid g id : Nat) : Memory.wf (State.acquired s tid g id) := by
  unfold State.acquired
  split
  · exact h
  · split
    · exact h
    · split
      · exact h
      · exact wf_ite (wf_acquire h ..) h

theorem Memory.wf_refuseLane {s : State} (h : Memory.wf s) (tid g id lane : Nat) (tr : Trap) :
    Memory.wf (State.refuseLane s tid g id lane tr) :=
  wf_modGroup h ..

theorem Memory.wf_refuseLoad {s : State} (h : Memory.wf s) (tid g id lane cause detail : Nat) :
    Memory.wf (State.refuseLoad s tid g id lane cause detail) := by
  unfold State.refuseLoad
  split
  · exact h
  · exact wf_refuseLane h ..

theorem Memory.wf_takeAcc {s : State} (h : Memory.wf s) (tid g id : Nat) (a : Acc) :
    Memory.wf (State.takeAcc s tid g id a) := by
  unfold State.takeAcc
  split
  · exact h
  · split
    · exact h
    · split
      · exact h
      · refine wf_ite (wf_modGroup (wf_sourceBytes h ..) _ _ _) (wf_ite (wf_modGroup (wf_sourceBytes h ..) _ _ _) ?_)
        split
        · split
          · next he4 =>
              exact wf_modGroup (wf_request (wf_sourceBytes h ..) _ _ _ _ he4) _ _ _
          · exact wf_refuseLoad (wf_sourceBytes h ..) _ _ _ _ _ _
        · exact wf_sourceBytes h ..

theorem Memory.wf_execLoadValueTake {s : State} (h : Memory.wf s) (tid g id : Nat) {s' : State}
    (ht : execLoadValueTake tid g id s = .next s') : Memory.wf s' := by
  revert ht
  unfold execLoadValueTake
  split
  · exact fault_ne_next
  · split
    · exact fault_ne_next
    · exact of_ite fault_ne_next (of_next (wf_acquired (wf_foldl (fun s1 a h1 => wf_takeAcc h1 ..) _ h) _ _ _))

theorem Memory.wf_writeUnit {s : State} (h : Memory.wf s) (tid g : Nat) (e : LqEntry) (r u : Nat) :
    Memory.wf (State.writeUnit s tid g e r u) := by
  unfold State.writeUnit
  split
  · exact wf_modGroup h ..
  · exact wf_modTeam h ..
  · exact wf_modGroup h ..
  · exact h

theorem Memory.wf_loadFails {s : State} (h : Memory.wf s) (tid g : Nat) (e : LqEntry) :
    Memory.wf (State.loadFails s tid g e) := by
  unfold State.loadFails
  split
  · exact h
  · exact wf_endOp (wf_modGroup (wf_raiseLater h ..) _ _ _) _ _ _

theorem Memory.wf_loadWrites {s : State} (h : Memory.wf s) (tid g id : Nat) (early : List Nat) (final : Bool)
    (fl : LqEntry → Nat → Nat) : Memory.wf (State.loadWrites s tid g id early final fl) := by
  unfold State.loadWrites
  split
  · exact h
  · split
    · exact h
    · split
      · exact h
      · exact wf_ite (wf_ite (wf_loadFails h ..) h) (wf_ite (wf_endOp (wf_modGroup (wf_foldl (fun s1 a h1 => wf_foldl (fun
          s2 a1 h2 => wf_writeUnit h2 ..) _ h1) _ h) _ _ _) _ _ _) (wf_modGroup (wf_foldl (fun s1 a h1 => wf_foldl (fun s2
          a1 h2 => wf_writeUnit h2 ..) _ h1) _ h) _ _ _))

/-! ## Store -/

theorem Memory.wf_enterStore {s : State} (h : Memory.wf s) (k : Iss) (i : MemI) (puts : List Put) (aop tag : Nat) :
    Memory.wf (State.enterStore s k i puts aop tag) := by
  unfold State.enterStore
  exact wf_modGroup (wf_of_fields (h := h)) _ _ _

theorem Memory.wf_storeInstr {s : State} (h : Memory.wf s) (op : Nat) (sp : Space) (i : MemI) {s' : State}
    (ht : storeInstr op sp i s = .next s') : Memory.wf s' := by
  refine wf_runE h (fun k s1 rd hf => ?_) ht
  dsimp only at hf
  split at hf
  · split at hf <;> cases hf
    exact ⟨wf_enterStore h .., fun x hx => hx⟩
  · repeat' split at hf
    all_goals cases hf
    exact ⟨wf_idemStore (wf_enterStore h ..) .., fun x hx => wf_sendAccs hx ..⟩

theorem Memory.wf_execStg {s : State} (h : Memory.wf s) (i : MemI) {s' : State} (ht : execStg i s = .next s') :
    Memory.wf s' :=
  wf_storeInstr h _ _ _ ht

theorem Memory.wf_execSts {s : State} (h : Memory.wf s) (i : MemI) {s' : State} (ht : execSts i s = .next s') :
    Memory.wf s' :=
  wf_storeInstr h _ _ _ ht

theorem Memory.wf_execStun {s : State} (h : Memory.wf s) (i : MemI) {s' : State} (ht : execStun i s = .next s') :
    Memory.wf s' :=
  wf_storeInstr h _ _ _ ht

theorem Memory.wf_execStm {s : State} (h : Memory.wf s) (i : MemI) {s' : State} (ht : execStm i s = .next s') :
    Memory.wf s' := by
  refine wf_runE h (fun k s1 rd hf => ?_) ht
  split at hf
  · split at hf <;> cases hf
    exact ⟨wf_enterStore h .., fun x hx => hx⟩
  · repeat' split at hf
    all_goals cases hf
    exact ⟨wf_idemStore (wf_enterStore h ..) .., fun x hx => wf_sendAccs hx ..⟩

theorem Memory.wf_performPut {s : State} (h : Memory.wf s) (tid g core part ctx : Nat) (e : SbEntry) (p : Put) :
    Memory.wf (State.performPut s tid g core part ctx e p) := by
  unfold State.performPut
  dsimp only
  split
  · exact wf_spadWrite h ..
  · exact wf_ite (wf_homeWrite h ..) (wf_modCore h ..)
  · refine wf_ite ?_ (wf_wcPut h ..)
    split
    · next he1 =>
        exact wf_slipped (wf_request h _ _ _ _ he1) _ _ _
    · exact wf_refuseRef h ..

theorem Memory.wf_performStore {s : State} (h : Memory.wf s) (tid g : Nat) (t : Team) (e : SbEntry) :
    Memory.wf (State.performStore s tid g t e) := by
  unfold State.performStore
  exact wf_endOp (wf_modGroup (wf_foldl (fun s1 a h1 => wf_performPut h1 ..) _ h) _ _ _) _ _ _

/-! ## Atomic -/

theorem Memory.wf_atomInstr {s : State} (h : Memory.wf s) (op : Nat) (sp : Space) (i : MemI) {s' : State}
    (ht : atomInstr op sp i s = .next s') : Memory.wf s' := by
  refine wf_runE h (fun k s1 rd hf => ?_) ht
  dsimp only at hf
  split at hf
  · cases hf
  · split at hf
    · cases hf
    · split at hf <;> cases hf
      exact ⟨wf_clearIdem (wf_modGroup (wf_newOp h) ..) .., fun x hx => wf_readAccs hx ..⟩

theorem Memory.wf_execAtom {s : State} (h : Memory.wf s) (i : MemI) {s' : State} (ht : execAtom i s = .next s') :
    Memory.wf s' :=
  wf_atomInstr h _ _ _ ht

theorem Memory.wf_execAtoms {s : State} (h : Memory.wf s) (i : MemI) {s' : State} (ht : execAtoms i s = .next s') :
    Memory.wf s' :=
  wf_atomInstr h _ _ _ ht

theorem Memory.wf_execAtomf {s : State} (h : Memory.wf s) (i : MemI) {s' : State} (ht : execAtomf i s = .next s') :
    Memory.wf s' :=
  wf_atomInstr h _ _ _ ht

theorem Memory.wf_execRed {s : State} (h : Memory.wf s) (i : MemI) {s' : State} (ht : execRed i s = .next s') :
    Memory.wf s' := by
  refine wf_runE h (fun k s1 rd hf => ?_) ht
  dsimp only at hf
  split at hf
  · cases hf
  · split at hf
    · cases hf
    · split at hf <;> cases hf
      exact ⟨wf_clearIdem (wf_enterStore h ..) .., fun x hx => wf_readAccs hx ..⟩

theorem Memory.wf_homeReady {s : State} (h : Memory.wf s) (core pa n : Nat) : Memory.wf (State.homeReady s core pa n) := by
  unfold State.homeReady
  exact wf_foldl (fun s1 a h1 => wf_promote h1 ..) _ (wf_modCore (wf_writeBack h ..) _ _)

theorem Memory.wf_atomAt {s : State} (h : Memory.wf s) (core : Nat) (loc : Loc) (n : Nat) (scope : Scope) (mark : Bool)
    (fw : Nat → Option Byte) (f : Nat → Nat) : Memory.wf (State.atomAt s core loc n scope mark fw f).2 := by
  unfold State.atomAt
  split
  · exact wf_pair_snd (wf_spadWrite h ..)
  · exact wf_ite_snd (wf_pair_snd (wf_modCore (wf_cvNeed h ..) _ _)) (wf_pair_snd (wf_homeWrite (wf_homeReady h ..) _ _ _))
  · exact wf_pair_snd h

theorem Memory.wf_execAtomicStep {s : State} (h : Memory.wf s) (tid g id : Nat) {s' : State}
    (ht : execAtomicStep tid g id s = .next s') : Memory.wf s' := by
  revert ht
  unfold execAtomicStep
  split
  · exact fault_ne_next
  · split
    · exact fault_ne_next
    · split
      · exact fault_ne_next
      · split
        · exact fault_ne_next
        · refine of_ite fault_ne_next ?_
          dsimp only
          split
          · split
            · next he5 =>
                exact of_next (wf_modGroup (wf_request h _ _ _ _ he5) _ _ _)
            · exact of_next (wf_refuseLoad h ..)
          · exact of_next (wf_acquired (wf_modGroup (wf_atomAt h ..) _ _ _) _ _ _)

theorem Memory.wf_redDone {s : State} (h : Memory.wf s) (tid g id : Nat) : Memory.wf (State.redDone s tid g id) := by
  unfold State.redDone
  split
  · exact h
  · refine wf_endOp ?_ _ _ _
    split
    · exact wf_modGroup (wf_modGroup (wf_raiseLater h ..) _ _ _) _ _ _
    · exact wf_modGroup h ..

theorem Memory.wf_redSettle {s : State} (h : Memory.wf s) (tid g id : Nat) : Memory.wf (State.redSettle s tid g id) := by
  unfold State.redSettle
  refine wf_ite h ?_
  split
  · exact wf_redDone h ..
  · exact wf_ite (wf_redDone h ..) (wf_modGroup h ..)

theorem Memory.wf_redFails {s : State} (h : Memory.wf s) (r : StoreRef) (cause detail : Nat) :
    Memory.wf (State.redFails s r cause detail) :=
  wf_modGroup h ..

theorem Memory.wf_redLane {s : State} (h : Memory.wf s) (tid g : Nat) (t : Team) (e : SbEntry) (p : Put) :
    Memory.wf (State.redLane s tid g t e p) := by
  unfold State.redLane
  dsimp only
  split
  · split
    · next he1 =>
        exact wf_request h _ _ _ _ he1
    · exact wf_redFails h ..
  · exact wf_atomAt h ..

theorem Memory.wf_performRed {s : State} (h : Memory.wf s) (tid g : Nat) (t : Team) (e : SbEntry) :
    Memory.wf (State.performRed s tid g t e) := by
  unfold State.performRed
  refine wf_redSettle ?_ _ _ _
  split
  · exact wf_redLane (wf_modGroup h ..) _ _ _ _ _
  · exact wf_modGroup h ..

theorem Memory.wf_performEntry {s : State} (h : Memory.wf s) (tid g : Nat) (t : Team) (e : SbEntry) :
    Memory.wf (State.performEntry s tid g t e) := by
  unfold State.performEntry
  exact wf_ite (wf_performStore h ..) (wf_performRed h ..)

theorem Memory.wf_execStorePerform {s : State} (h : Memory.wf s) (tid g colour : Nat) {s' : State}
    (ht : execStorePerform tid g colour s = .next s') : Memory.wf s' := by
  revert ht
  unfold execStorePerform
  split
  · exact fault_ne_next
  · split
    · exact fault_ne_next
    · split
      · exact fault_ne_next
      · exact of_ite fault_ne_next (of_next (wf_performEntry h ..))

theorem Memory.wf_execLoadComplete {s : State} (h : Memory.wf s) (tid g id : Nat) (early : List Nat) (final : Bool)
    {s' : State} (ht : execLoadComplete tid g id early final s = .next s') : Memory.wf s' := by
  revert ht
  unfold execLoadComplete
  split
  · exact fault_ne_next
  · split
    · exact fault_ne_next
    · split
      · exact fault_ne_next
      · exact of_ite fault_ne_next (of_next (wf_loadWrites (wf_ite (wf_acquired h ..) h) _ _ _ _ _ _))

end Sys2Proof.Machine
end

section
/-!
Memory in its canonical form, part 3: barriers, copies, conversions, the matrix unit and the engine.
-/
namespace Sys2Proof.Machine

open Host (Outcome)
open Memory
set_option Elab.async false

/-! ## Stops -/

theorem Memory.wf_dropWhy {s : State} (h : Memory.wf s) (p c : Nat) (why : StopWhy) : Memory.wf (State.dropWhy s p c why) := h

theorem Memory.wf_closeNow {s : State} (h : Memory.wf s) (p c : Nat) : Memory.wf (State.closeNow s p c) := h

/-! ## Barrier -/

theorem Memory.wf_barRead {s : State} (h : Memory.wf s) (core : Nat) (loc : Loc) :
    Memory.wf (State.barRead s core loc).2 := by
  unfold State.barRead
  split
  · exact wf_pair_snd h
  · exact wf_pair_snd (wf_homeReady h ..)
  · exact wf_pair_snd h

theorem Memory.wf_barWrite {s : State} (h : Memory.wf s) (loc : Loc) (b : Bar) : Memory.wf (State.barWrite s loc b) := by
  unfold State.barWrite
  split
  · exact wf_spadWrite h ..
  · exact wf_homeWrite h ..
  · exact h

theorem Memory.wf_raiseHeld {s : State} (h : Memory.wf s) (tid g cause detail addr : Nat) :
    Memory.wf (State.raiseHeld s tid g cause detail addr) := by
  unfold State.raiseHeld
  split
  · exact h
  · split
    · exact h
    · split
      · exact h
      · exact wf_ite (wf_halt (wf_modGroup h ..) _ _ _) (wf_appendRec (wf_modGroup h ..) _ _ _)

theorem Memory.wf_raiseStash {s : State} (h : Memory.wf s) (tid g cause detail addr : Nat) :
    Memory.wf (State.raiseStash s tid g cause detail addr) := by
  unfold State.raiseStash
  split
  · exact h
  · split
    · exact h
    · split
      · exact h
      · exact wf_appendRec (wf_modGroup h ..) _ _ _

theorem Memory.wf_overrun {s : State} (h : Memory.wf s) (loc : Loc) (phase : Nat) (issuer : Option Credit) :
    Memory.wf (State.overrun s loc phase issuer) := by
  unfold State.overrun
  dsimp only
  split
  · exact wf_foldl (fun s1 a h1 => wf_ite (wf_raiseStash h1 ..) (wf_raiseHeld h1 ..)) _ h
  · exact wf_ite (wf_foldl (fun s1 a h1 => wf_ite (wf_raiseStash h1 ..) (wf_raiseHeld h1 ..)) _ h) (wf_raiseLater (wf_foldl
      (fun s1 a h1 => wf_ite (wf_raiseStash h1 ..) (wf_raiseHeld h1 ..)) _ h) _ _ _ _ _ _ _ _)

theorem Memory.wf_setCredit {s : State} (h : Memory.wf s) (loc : Loc) (c : Option Credit) :
    Memory.wf (State.setCredit s loc c) :=
  h

theorem Memory.wf_barSettle {s : State} (h : Memory.wf s) (loc : Loc) (phase : Nat) (b : Bar) :
    Memory.wf (State.barSettle s loc phase b) := by
  unfold State.barSettle
  exact wf_ite (wf_ite (wf_overrun (wf_barWrite h ..) _ _ _) (wf_barWrite h ..)) (wf_setCredit (wf_ite (wf_overrun
    (wf_barWrite h ..) _ _ _) (wf_barWrite h ..)) _ _)

theorem Memory.wf_barApply {s : State} (h : Memory.wf s) (core : Nat) (loc : Loc) (f : Bar → Bar) :
    Memory.wf (State.barApply s core loc f) := by
  unfold State.barApply
  exact wf_ite (wf_barRead h ..) (wf_barSettle (wf_barRead h ..) _ _ _)

theorem Memory.wf_barSum {s : State} (h : Memory.wf s) (core : Nat) (loc : Loc) (us : List BarUpd) :
    Memory.wf (s.barSum core loc us) := by
  have hr : Memory.wf (s.barRead core loc).2 := wf_barRead h ..
  have h1 {P : Prop} [Decidable P] :
    Memory.wf (if P then (s.barRead core loc).2.setCredit loc none else (s.barRead core loc).2) :=
    wf_ite (wf_setCredit hr ..) hr
  exact wf_ite h1 (wf_ite (wf_foldl (fun x u hx => wf_raiseLater hx ..) _ (wf_barSettle h1 ..)) (wf_barSettle h1 ..))

theorem Memory.wf_barFlush {s : State} (h : Memory.wf s) (core : Nat) : Memory.wf (State.barFlush s core) := by
  unfold State.barFlush
  exact wf_ite h (wf_foldl (fun s1 a h1 => wf_ite h1 (wf_barSum h1 ..)) _ (wf_modCore h ..))

theorem Memory.wf_barUpdate {s : State} (h : Memory.wf s) (k : Iss) (loc : Loc) (va : Nat) (kind : BarKind) :
    Memory.wf (State.barUpdate s k loc va kind) := by
  unfold State.barUpdate
  exact wf_ite (wf_barFlush (wf_modCore h ..) _) (wf_modCore h ..)

theorem Memory.wf_barCredit {s : State} (h : Memory.wf s) (core phase n : Nat) (c : Credit) :
    Memory.wf (State.barCredit s core phase n c) := by
  unfold State.barCredit
  exact wf_ite (wf_barRead h ..) (wf_ite (wf_overrun (wf_barWrite (wf_barRead h ..) _ _) _ _ _) (wf_barSettle (wf_setCredit
    (wf_barRead h ..) _ _) _ _ _))

theorem Memory.wf_barUse {s : State} (h : Memory.wf s) (k : Iss) (va : Nat) (l : Loc) {ar : Bar} {s' : State}
    (ht : State.barUse s k va l = .ok (ar, s')) : Memory.wf s' := by
  revert ht
  unfold State.barUse
  exact of_ite error_ne_ok (of_ok_snd (wf_barRead h ..))

theorem Memory.wf_idemBar {s : State} (h : Memory.wf s) (tid : Nat) (l : Loc) : Memory.wf (State.idemBar s tid l) :=
  wf_idemStore h ..

theorem Memory.wf_execTbinit {s : State} (h : Memory.wf s) (i : MemI) {s' : State} (ht : execTbinit i s = .next s') :
    Memory.wf s' := by
  revert ht
  unfold execTbinit
  refine wf_runS h (fun k s1 => ?_)
  split
  · exact error_ne_ok
  · exact of_ok (wf_idemBar (wf_barUpdate h ..) _ _)

theorem Memory.wf_execTbarrive {s : State} (h : Memory.wf s) (i : MemI) {s' : State} (ht : execTbarrive i s = .next s') :
    Memory.wf s' := by
  refine wf_runS h (fun k s1 hf => ?_) ht
  split at hf
  · cases hf
  · split at hf
    · cases hf
    · split at hf
      · cases hf
      · next hb =>
        have h1 := wf_barUse h _ _ _ hb
        split at hf
        · cases hf
        · split at hf
          · cases hf
          · cases hf
            refine wf_idemBar ?_ ..
            split
            · exact wf_barUpdate h1 ..
            · exact wf_modGroup (wf_newOp h1) ..

theorem Memory.wf_execTbexpect {s : State} (h : Memory.wf s) (i : MemI) {s' : State} (ht : execTbexpect i s = .next s') :
    Memory.wf s' := by
  revert ht
  unfold execTbexpect
  refine wf_runS h (fun k s1 => ?_)
  split
  · exact error_ne_ok
  · split
    · exact error_ne_ok
    · split
      · exact error_ne_ok
      · next he2 =>
          exact of_ite error_ne_ok (of_ok (wf_idemBar (wf_barUpdate (wf_barUse h _ _ _ he2) _ _ _ _) _ _))

theorem Memory.wf_execTbwait {s : State} (h : Memory.wf s) (i : MemI) {s' : State} (ht : execTbwait i s = .next s') :
    Memory.wf s' := by
  revert ht
  unfold execTbwait
  refine wf_runS h (fun k s1 => ?_)
  split
  · exact error_ne_ok
  · split
    · exact error_ne_ok
    · next he1 =>
        refine of_ite (of_ok (wf_ite (wf_acquire (wf_barUse h _ _ _ he1) _ _ _) (wf_modGroup (wf_acquire (wf_barUse h _ _ _
          he1) _ _ _) _ _ _))) ?_
        split
        · exact of_ite (of_ok (wf_ite (wf_barUse h _ _ _ he1) (wf_modGroup (wf_barUse h _ _ _ he1) _ _ _))) error_ne_ok
        · exact error_ne_ok

theorem Memory.wf_execTbtest {s : State} (h : Memory.wf s) (i : MemI) {s' : State} (ht : execTbtest i s = .next s') :
    Memory.wf s' := by
  revert ht
  unfold execTbtest
  refine wf_runS h (fun k s1 => ?_)
  split
  · exact error_ne_ok
  · split
    · exact error_ne_ok
    · next he1 =>
        exact of_ok (wf_modGroup (wf_barUse h _ _ _ he1) _ _ _)

/-! ## Gather -/

theorem Memory.wf_failIn {s s1 : State} {b : Bail} {α : Type} {r : Except Bail α} (h : Memory.wf s)
    (hf : failIn s r = .error (b, s1)) : Memory.wf s1 := by
  unfold failIn at hf
  split at hf <;> cases hf
  exact h

theorem Memory.wf_runH {s : State} (h : Memory.wf s) {op : Nat} {sl : Slots} {ls : List Nat × List Nat}
    {f : Iss → Except (Bail × State) (State × Option Hold)} (hf : ∀ k s1 b, f k = .ok (s1, b) → Memory.wf s1)
    (he : ∀ k s1 b, f k = .error (b, s1) → Memory.wf s1) {t : State} (ht : runH op s sl ls f = .next t) : Memory.wf t := by
  revert ht
  unfold runH
  split
  · exact fault_ne_next
  · split
    · exact of_next (wf_bail h ..)
    · split
      · exact of_next (wf_bail (wf_readRegs h ..) _ _)
      · split
        · next he4 =>
            exact of_next (wf_bail (he _ _ _ he4) _ _)
        · next he4 =>
            exact of_next (wf_bail (hf _ _ _ he4) _ _)
        · next he4 =>
            exact of_next (wf_retire (wf_modGroup (wf_readRegs (hf _ _ _ he4) _ _) _ _ _) _ _ _ _)

theorem Memory.wf_sectorBytes_ok {s : State} (h : Memory.wf s) (k : Iss) (va : Nat) (x : Nat × Loc) {r : Option (List Byte)}
    {t : State} (ht : s.sectorBytes k va x = .ok (r, t)) : Memory.wf t := by
  revert ht
  unfold State.sectorBytes
  dsimp only
  split
  · exact error_ne_ok
  · split
    · exact of_ok_snd (wf_readErr h ..)
    · exact of_ok_snd (wf_readMem (wf_readErr h ..) _ _ _ _ _)
    · split
      · exact of_ite error_ne_ok (of_ok_snd (wf_readErr h ..))
      · exact of_ite (of_ok_snd (wf_readErr h ..)) (of_ite error_ne_ok (of_ok_snd (wf_readErr h ..)))

theorem Memory.wf_sectorBytes_error {s : State} (h : Memory.wf s) (k : Iss) (va : Nat) (x : Nat × Loc) {b : Bail} {t : State}
    (ht : s.sectorBytes k va x = .error (b, t)) : Memory.wf t := by
  revert ht
  unfold State.sectorBytes
  dsimp only
  split
  · exact of_error_snd (wf_readErr h ..)
  · split
    · exact ok_ne_error
    · exact ok_ne_error
    · split
      · exact of_ite (of_error_snd (wf_readErr h ..)) ok_ne_error
      · exact of_ite ok_ne_error (of_ite (of_error_snd (wf_readErr h ..)) ok_ne_error)

theorem Memory.wf_sectorsBytes_ok {s : State} (h : Memory.wf s) (k : Iss) (va : Nat) (xs : List (Nat × Loc))
    {r : Option (List Byte)} {t : State} (ht : State.sectorsBytes k va xs s = .ok (r, t)) : Memory.wf t := by
  induction xs generalizing s r t with
  | nil =>
    unfold State.sectorsBytes at ht
    grind
  | cons x xs ih =>
    unfold State.sectorsBytes at ht
    grind -ring -linarith -lia -ac [wf_sectorBytes_ok, wf_sectorBytes_error]

theorem Memory.wf_sectorsBytes_error {s : State} (h : Memory.wf s) (k : Iss) (va : Nat) (xs : List (Nat × Loc)) {b : Bail}
    {t : State} (ht : State.sectorsBytes k va xs s = .error (b, t)) : Memory.wf t := by
  induction xs generalizing s b t with
  | nil =>
    unfold State.sectorsBytes at ht
    grind
  | cons x xs ih =>
    unfold State.sectorsBytes at ht
    grind -ring -linarith -lia -ac [wf_sectorBytes_ok, wf_sectorBytes_error, wf_sectorsBytes_ok]

theorem Memory.wf_askSectors {s : State} (h : Memory.wf s) (k : Iss) (xs : List (Nat × Loc)) :
    Memory.wf (State.askSectors s k xs) := by
  unfold State.askSectors
  refine wf_foldl (fun s1 a h1 => ?_) _ h
  dsimp only
  split
  · refine wf_ite h1 ?_
    split
    · next he1 =>
        exact wf_modGroup (wf_request h1 _ _ _ _ he1) _ _ _
    · exact h1
  · exact h1

theorem Memory.wf_gather_ok {s : State} (h : Memory.wf s) (k : Iss) (va n al : Nat) {r : Option (List Byte)} {t : State}
    (ht : s.gather k va n al = .ok (r, t)) : Memory.wf t := by
  revert ht
  unfold State.gather
  split
  · exact error_ne_ok
  · refine of_ite error_ne_ok ?_
    split
    · exact error_ne_ok
    · split
      · exact error_ne_ok
      · next he2 =>
          exact of_ok_snd (wf_sectorsBytes_ok h _ _ _ he2)
      · next he2 =>
          exact of_ok_snd (wf_askSectors (wf_sectorsBytes_ok h _ _ _ he2) _ _)

theorem Memory.wf_gather_error {s : State} (h : Memory.wf s) (k : Iss) (va n al : Nat) {b : Bail} {t : State}
    (ht : s.gather k va n al = .error (b, t)) : Memory.wf t := by
  revert ht
  unfold State.gather
  split
  · exact of_error_snd h
  · refine of_ite (of_error_snd h) ?_
    split
    · exact of_error_snd h
    · split
      · next he2 =>
          exact of_error_snd (wf_sectorsBytes_error h _ _ _ he2)
      · exact ok_ne_error
      · exact ok_ne_error

theorem Memory.wf_readRec_ok {s : State} (h : Memory.wf s) (k : Iss) (va n al : Nat) (own : Bool) {r : Option (List Byte)}
    {t : State} (ht : s.readRec k va n al own = .ok (r, t)) : Memory.wf t := by
  revert ht
  unfold State.readRec
  refine of_ite error_ne_ok ?_
  split
  · exact error_ne_ok
  · next he =>
      exact of_ok_snd (wf_gather_ok h _ _ _ _ he)

theorem Memory.wf_readRec_error {s : State} (h : Memory.wf s) (k : Iss) (va n al : Nat) (own : Bool) {b : Bail} {t : State}
    (ht : s.readRec k va n al own = .error (b, t)) : Memory.wf t := by
  revert ht
  unfold State.readRec
  refine of_ite (of_error_snd h) ?_
  split
  · next he =>
      exact of_error_snd (wf_gather_error h _ _ _ _ he)
  · exact ok_ne_error

/-! ## Copy -/

theorem Memory.wf_passGate {s : State} (h : Memory.wf s) (t : Team) (gate : Nat) (src : Option (List (Nat × Nat)))
    (dst : Option (List (Nat × Nat))) (size : Nat) {s' : State} {br cr : Nat}
    (ht : State.passGate s t gate src dst size = .ok (s', br, cr)) : Memory.wf s' := by
  revert ht
  unfold State.passGate
  exact of_ite (of_ok_fst h) (of_ite error_ne_ok (of_ite error_ne_ok (of_ite error_ne_ok (of_ite (of_ok_fst (wf_homeWrite h
    ..)) (of_ite (of_ok_fst (wf_homeWrite h ..)) error_ne_ok)))))

theorem Memory.wf_copyBar {s : State} (h : Memory.wf s) (k : Iss) (bar : Nat) {ar : Option Loc} {br : Option Nat} {s' : State}
    (ht : State.copyBar s k bar = .ok (ar, br, s')) : Memory.wf s' := by
  revert ht
  unfold State.copyBar
  refine of_ite (of_ok_thd h) (of_ite error_ne_ok ?_)
  split
  · exact of_ite error_ne_ok (of_ok_thd h)
  · exact error_ne_ok
  · split
    · exact error_ne_ok
    · exact of_ite error_ne_ok (of_ok_thd (wf_barRead h ..))

theorem Memory.wf_copyIssue {s : State} (h : Memory.wf s) (k : Iss) (cls : OpClass) (f : Nat → CopyOp) :
    Memory.wf (State.copyIssue s k cls f) := by
  unfold State.copyIssue
  exact wf_modCore (wf_modGroup (wf_of_fields (h := h)) _ _ _) _ _

theorem Memory.wf_gateOut {s : State} (h : Memory.wf s) {r : Except Trap (State × Nat × Nat)}
    (hr : ∀ x c, r = .ok (x, c) → Memory.wf x) : Memory.wf (gateOut s r).1 := by
  unfold gateOut
  split
  · next x c => exact hr x c rfl
  · exact h

theorem Memory.wf_dxPost {s : State} (h : Memory.wf s) (k : Iss) (entry : W64) (words : List W64) {s' : State}
    (ht : State.dxPost s k entry words = .ok s') : Memory.wf s' := by
  revert ht
  unfold State.dxPost
  split
  · exact error_ne_ok
  · exact of_ite error_ne_ok (of_ok (wf_clearIdem (wf_modDxp (wf_modGroup (wf_of_fields (h := h)) _ _ _) _ _) _))

theorem Memory.wf_cpytEngine {s : State} (h : Memory.wf s) (i : Slots) (k : Iss) (r : TRec) (bs : List Byte) (bar : Nat)
    {s' : State} (ht : cpytEngine i s k r bs bar = .ok s') : Memory.wf s' := by
  revert ht
  unfold cpytEngine
  dsimp only
  split
  · exact error_ne_ok
  · next he =>
      split
      · exact error_ne_ok
      · split
        · exact error_ne_ok
        · refine of_ok (wf_ite (wf_clearIdem (wf_copyIssue ?_ _ _ _) _) (wf_copyIssue ?_ _ _ _))
          · split
            · exact wf_pair_fst (wf_copyBar h _ _ he)
            · exact wf_gateOut (wf_copyBar h _ _ he) (fun x c => of_ite (wf_passGate (wf_copyBar h _ _ he) _ _ _ _ _)
                (wf_passGate (wf_copyBar h _ _ he) _ _ _ _ _))
          · split
            · exact wf_pair_fst (wf_copyBar h _ _ he)
            · exact wf_gateOut (wf_copyBar h _ _ he) (fun x c => of_ite (wf_passGate (wf_copyBar h _ _ he) _ _ _ _ _)
                (wf_passGate (wf_copyBar h _ _ he) _ _ _ _ _))

theorem Memory.wf_cpytGo {s : State} (h : Memory.wf s) (i : Slots) (k : Iss) (bs : List Byte) {s' : State}
    (ht : cpytGo i s k bs = .ok s') : Memory.wf s' := by
  revert ht
  unfold cpytGo
  refine of_ite error_ne_ok ?_
  split
  · exact error_ne_ok
  · refine of_ite (wf_cpytEngine h _ _ _ _ _) (of_ite error_ne_ok ?_)
    split
    · exact error_ne_ok
    · exact wf_dxPost h _ _ _

theorem Memory.wf_execCpyt {s : State} (h : Memory.wf s) (i : Slots) {s' : State} (ht : execCpyt i s = .next s') :
    Memory.wf s' := by
  refine wf_runH h (fun k s1 b hf => ?_) (fun k s1 b hf => ?_) ht
  · split at hf
    · cases hf
    · next hr =>
      cases hf
      exact wf_readRec_ok h _ _ _ _ _ hr
    · next hr =>
      split at hf <;> cases hf
      next hc => exact wf_cpytGo (wf_readRec_ok h _ _ _ _ _ hr) _ _ _ hc
  · split at hf
    · next hr =>
      cases hf
      exact wf_readRec_error h _ _ _ _ _ hr
    · cases hf
    · split at hf <;> cases hf
      exact h

theorem Memory.wf_gatherGate {s : State} (h : Memory.wf s) (scatter : Bool) (t : Team) (gate : Nat)
    (ranges : List (Nat × Nat)) (size : Nat) :
    Memory.wf (gateOut s (if scatter then s.passGate t gate none (some ranges) size
      else s.passGate t gate (some ranges) none size)).1 :=
  wf_gateOut h fun x c hr => by
    split at hr
    · exact wf_passGate h _ _ _ _ _ hr
    · exact wf_passGate h _ _ _ _ _ hr

theorem ok_of_guard {ε α : Type} {P : Prop} [Decidable P] {e : ε} {r : Except ε α} {x : α}
    (h : (if P then .error e else r) = .ok x) : r = .ok x := by
  split at h
  · cases h
  · exact h

theorem Memory.wf_gatherInstr {s : State} (h : Memory.wf s) (op : Nat) (scatter : Bool) (i : Slots) {s' : State}
    (ht : gatherInstr op scatter i s = .next s') : Memory.wf s' := by
  refine wf_runS h (fun k s1 hf => ?_) ht
  dsimp only at hf
  split at hf
  · cases hf
  · cases hf
  · split at hf
    · cases hf
    · split at hf
      · cases hf
      · next hb =>
        replace hf := ok_of_guard (ok_of_guard (ok_of_guard hf))
        split at hf <;> cases hf
        have h2 := wf_gatherGate (wf_copyBar h _ _ hb) scatter k.t
        exact wf_ite (wf_clearIdem (wf_copyIssue (h2 ..) ..) _) (wf_copyIssue (h2 ..) ..)

theorem Memory.wf_execCpyg {s : State} (h : Memory.wf s) (i : Slots) {s' : State} (ht : execCpyg i s = .next s') :
    Memory.wf s' :=
  wf_gatherInstr h _ _ _ ht

theorem Memory.wf_execCpys {s : State} (h : Memory.wf s) (i : Slots) {s' : State} (ht : execCpys i s = .next s') :
    Memory.wf s' :=
  wf_gatherInstr h _ _ _ ht

theorem Memory.wf_execDxrun {s : State} (h : Memory.wf s) (i : Slots) {s' : State} (ht : execDxrun i s = .next s') :
    Memory.wf s' := by
  revert ht
  unfold execDxrun
  exact wf_runS h (fun k s1 => wf_dxPost h _ _ _)

theorem Memory.wf_execDxsig {s : State} (h : Memory.wf s) (i : Slots) {s' : State} (ht : execDxsig i s = .next s') :
    Memory.wf s' := by
  revert ht
  unfold execDxsig
  refine wf_runS h (fun k s1 => of_ite (of_ok (wf_clearIdem (wf_modGroup (wf_modDxp h ..) _ _ _) _)) ?_)
  split
  · exact of_ok (wf_clearIdem (wf_modGroup h ..) _)
  · split
    · exact of_ok (wf_clearIdem (wf_modGroup h ..) _)
    · exact of_ok (wf_clearIdem (wf_modGroup (wf_postDxFault (wf_dxRecord (wf_modDxp h ..) _ _ _ _ _) _ _ _ _ _ _ _) _ _ _)
        _)

/-! ## Convert -/

theorem Memory.wf_cvtTile {s : State} (h : Memory.wf s) (i : RdI) (k : Iss) {s' : State} (ht : cvtTile i s k = .ok s') :
    Memory.wf s' := by
  revert ht
  unfold cvtTile
  dsimp only
  split
  · exact error_ne_ok
  · exact of_ok (wf_newOp (wf_modTeam h ..))

theorem Memory.wf_execCvt {s : State} (h : Memory.wf s) (i : RdI) {s' : State} (ht : execCvt i s = .next s') :
    Memory.wf s' := by
  revert ht
  unfold execCvt
  refine wf_runS h (fun k s1 => of_ite (wf_cvtTile h _ _) ?_)
  split
  · exact error_ne_ok
  · exact of_ok (wf_modGroup h ..)

theorem Memory.wf_execTileCvtComplete {s : State} (h : Memory.wf s) (tid id : Nat) {s' : State}
    (ht : execTileCvtComplete tid id s = .next s') : Memory.wf s' := by
  revert ht
  unfold execTileCvtComplete
  split
  · exact fault_ne_next
  · exact of_ite (of_next (wf_setTeam h ..)) fault_ne_next

theorem Memory.wf_execPack {s : State} (h : Memory.wf s) (i : RdI) {s' : State} (ht : execPack i s = .next s') :
    Memory.wf s' :=
  wf_runG h ht

theorem Memory.wf_execUnpk {s : State} (h : Memory.wf s) (i : RdI) {s' : State} (ht : execUnpk i s = .next s') :
    Memory.wf s' :=
  wf_runG h ht

theorem Memory.wf_execScl {s : State} (h : Memory.wf s) (i : RdI) {s' : State} (ht : execScl i s = .next s') : Memory.wf s' :=
  wf_runG h ht

theorem Memory.wf_execSclf {s : State} (h : Memory.wf s) (i : RdI) {s' : State} (ht : execSclf i s = .next s') :
    Memory.wf s' :=
  wf_runG h ht

theorem Memory.wf_execTagrd {s : State} (h : Memory.wf s) (i : FnI) {s' : State} (ht : execTagrd i s = .next s') :
    Memory.wf s' :=
  wf_runG h ht

theorem Memory.wf_execTagset {s : State} (h : Memory.wf s) (i : FnI) {s' : State} (ht : execTagset i s = .next s') :
    Memory.wf s' := by
  revert ht
  unfold execTagset
  refine wf_runS h (fun k s1 => ?_)
  split
  · exact of_ok (wf_modTeam h ..)
  · exact of_ok (wf_modGroup h ..)

theorem Memory.wf_execSat {s : State} (h : Memory.wf s) (i : RdI) {s' : State} (ht : execSat i s = .next s') : Memory.wf s' :=
  wf_runG h ht

/-! ## Matrix -/

theorem Memory.wf_mxIssue {s : State} (h : Memory.wf s) (k : Iss) (f : Nat → MxOp) : Memory.wf (State.mxIssue s k f) := by
  unfold State.mxIssue
  exact wf_count (wf_modCore (wf_modGroup (wf_of_fields (h := h)) _ _ _) _ _) _ _ _

theorem Memory.wf_engineNext {s : State} (h : Memory.wf s) (core : Nat) (ops : List MxOp) :
    Memory.wf (State.engineNext s core ops) :=
  h

theorem Memory.wf_mxErr {s : State} (h : Memory.wf s) (core : Nat) (o : MxOp) (t : Team) :
    Memory.wf (State.mxErr s core o t).1 := by
  unfold State.mxErr
  refine wf_ite_fst (wf_pair_fst h) (wf_foldl_fst (fun r a h1 => ?_) _ (wf_foldl_fst (fun r a h1 => ?_) _ h))
  · split
    · exact h1
    · exact wf_ite_fst (wf_pair_fst (wf_postError (wf_checkRead h1 ..) _ _ _ _ _ _)) (wf_pair_fst (wf_checkRead h1 ..))
  · split
    · exact h1
    · exact wf_pair_fst (wf_readErr h1 ..)

theorem Memory.wf_mxReads {s : State} (h : Memory.wf s) (k : Iss) (o : MxOp) : Memory.wf (k.mxReads o s).1 :=
  wf_mxErr h _ _ _

theorem Memory.wf_setComplete {s : State} (h : Memory.wf s) (k : Iss) (n : Nat) (w : IWord) (da db : Option Desc) :
    Memory.wf (State.setComplete s k n w da db) := by
  unfold State.setComplete
  exact wf_mxIssue (wf_modTeam h ..) _ _

theorem Memory.wf_mxSign {s : State} (h : Memory.wf s) (op : Nat) (i : MtxI) (ins : Instr) {s' : State}
    (ht : mxSign op i ins s = .next s') : Memory.wf s' := by
  refine wf_runE h (fun k s1 rd hf => ?_) ht
  dsimp only at hf
  split at hf
  · cases hf
  · split at hf
    · cases hf
    · split at hf
      · cases hf
      · cases hf
      · split at hf
        · cases hf
          exact ⟨wf_modTeam h .., fun x hx => hx⟩
        · split at hf <;> cases hf
          exact ⟨wf_setComplete (wf_modTeam h ..) .., fun x hx => wf_mxReads hx ..⟩

theorem Memory.wf_execMma {s : State} (h : Memory.wf s) (i : MtxI) {s' : State} (ht : execMma i s = .next s') :
    Memory.wf s' :=
  wf_mxSign h _ _ _ ht

theorem Memory.wf_execMmab {s : State} (h : Memory.wf s) (i : MtxI) {s' : State} (ht : execMmab i s = .next s') :
    Memory.wf s' :=
  wf_mxSign h _ _ _ ht

theorem Memory.wf_execCvsign {s : State} (h : Memory.wf s) (i : Slots) {s' : State} (ht : execCvsign i s = .next s') :
    Memory.wf s' := by
  refine wf_runE h (fun k s1 rd hf => ?_) ht
  dsimp only at hf
  split at hf
  · cases hf
  · split at hf
    · cases hf
      exact ⟨wf_modTeam h .., fun x hx => hx⟩
    · split at hf
      · cases hf
        exact ⟨wf_modTeam h .., fun x hx => hx⟩
      · split at hf
        · cases hf
        · cases hf
        · split at hf <;> cases hf
          exact ⟨wf_setComplete (wf_modTeam h ..) .., fun x hx => wf_mxReads hx ..⟩

theorem Memory.wf_execVatld {s : State} (h : Memory.wf s) (i : RdI) {s' : State} (ht : execVatld i s = .next s') :
    Memory.wf s' := by
  revert ht
  unfold execVatld
  refine wf_runS h (fun k s1 => ?_)
  dsimp only
  split
  · exact error_ne_ok
  · exact error_ne_ok
  · split
    · exact error_ne_ok
    · exact of_ok (wf_mxIssue h ..)

theorem Memory.wf_execVatst {s : State} (h : Memory.wf s) (i : RdI) {s' : State} (ht : execVatst i s = .next s') :
    Memory.wf s' := by
  refine wf_runE h (fun k s1 rd hf => ?_) ht
  dsimp only at hf
  split at hf
  · cases hf
  · split at hf <;> cases hf
    exact ⟨wf_mxIssue h .., fun x hx => wf_mxReads hx ..⟩

theorem Memory.wf_execVatclr {s : State} (h : Memory.wf s) (i : RdI) {s' : State} (ht : execVatclr i s = .next s') :
    Memory.wf s' := by
  revert ht
  unfold execVatclr
  refine wf_runS h (fun k s1 => ?_)
  split
  · exact error_ne_ok
  · exact of_ok (wf_mxIssue h ..)

theorem Memory.wf_execVatcp {s : State} (h : Memory.wf s) (i : RdI) {s' : State} (ht : execVatcp i s = .next s') :
    Memory.wf s' := by
  refine wf_runE h (fun k s1 rd hf => ?_) ht
  split at hf <;> cases hf
  exact ⟨wf_mxIssue h .., fun x hx => wf_mxReads hx ..⟩

theorem Memory.wf_execMtrans {s : State} (h : Memory.wf s) (i : FnI) {s' : State} (ht : execMtrans i s = .next s') :
    Memory.wf s' := by
  revert ht
  unfold execMtrans
  refine wf_runS h (fun k s1 => of_ite error_ne_ok ?_)
  split
  · exact error_ne_ok
  · exact of_ok (wf_mxIssue h ..)

theorem Memory.wf_execMscale {s : State} (h : Memory.wf s) (i : RdI) {s' : State} (ht : execMscale i s = .next s') :
    Memory.wf s' := by
  revert ht
  unfold execMscale
  refine wf_runS h (fun k s1 => ?_)
  dsimp only
  split
  · exact error_ne_ok
  · split
    · exact error_ne_ok
    · exact of_ok (wf_mxIssue h ..)

/-! ## Wavefront -/

theorem Memory.wf_wfIssue {s : State} (h : Memory.wf s) (k : Iss) (op : MxOp) (counted : Bool) :
    Memory.wf (State.wfIssue s k op counted) := by
  unfold State.wfIssue
  exact wf_ite (wf_mxIssue h ..) (wf_modCore (wf_of_fields (h := h)) _ _)

theorem Memory.wf_execWfcfg {s : State} (h : Memory.wf s) (i : Slots) {s' : State} (ht : execWfcfg i s = .next s') :
    Memory.wf s' := by
  revert ht
  unfold execWfcfg
  refine wf_runH h (fun k s1 b => ?_) (fun k s1 b => ?_)
  · dsimp only
    split
    · exact error_ne_ok
    · next he =>
        exact of_ok_fst (wf_readRec_ok h _ _ _ _ _ he)
    · next he =>
        exact of_ite error_ne_ok (of_ok_fst (wf_modTeam (wf_wfIssue (wf_readRec_ok h _ _ _ _ _ he) _ _ _) _ _))
  · dsimp only
    split
    · next he =>
        exact of_error_snd (wf_readRec_error h _ _ _ _ _ he)
    · exact ok_ne_error
    · next he =>
        exact of_ite (of_error_snd (wf_readRec_ok h _ _ _ _ _ he)) ok_ne_error

theorem Memory.wf_execWfband {s : State} (h : Memory.wf s) (i : Slots) {s' : State} (ht : execWfband i s = .next s') :
    Memory.wf s' := by
  revert ht
  unfold execWfband
  exact wf_runS h (fun k s1 => of_ite error_ne_ok (of_ok (wf_modTeam (wf_wfIssue h ..) _ _)))

theorem Memory.wf_wfCounted {s : State} (h : Memory.wf s) (k : Iss) (op : MxOp) {s' : State} {rd : Reads}
    (ht : s.wfCounted k op = .ok (s', rd)) : Memory.wf s' ∧ ∀ x, Memory.wf x → Memory.wf (rd x).1 := by
  unfold State.wfCounted at ht
  split at ht <;> cases ht
  exact ⟨wf_wfIssue h .., fun x hx => wf_mxReads hx ..⟩

theorem Memory.wf_execWfrun {s : State} (h : Memory.wf s) (i : Slots) {s' : State} (ht : execWfrun i s = .next s') :
    Memory.wf s' := by
  refine wf_runE h (fun k s1 rd hf => ?_) ht
  dsimp only at hf
  split at hf
  · cases hf
  · split at hf
    · cases hf
    · cases hf
    · split at hf
      · cases hf
      · next s2 rd2 h2 =>
        cases hf
        obtain ⟨hs, hr⟩ := wf_wfCounted h k _ h2
        exact ⟨wf_count hs .., hr⟩

theorem Memory.wf_execWfedge {s : State} (h : Memory.wf s) (i : Slots) {s' : State} (ht : execWfedge i s = .next s') :
    Memory.wf s' := by
  refine wf_runE h (fun k s1 rd hf => ?_) ht
  dsimp only at hf
  split at hf
  · cases hf
  · split at hf
    · cases hf
    · cases hf
    · exact wf_wfCounted h k _ hf

theorem Memory.wf_execTbwalk {s : State} (h : Memory.wf s) (i : Slots) {s' : State} (ht : execTbwalk i s = .next s') :
    Memory.wf s' := by
  refine wf_runE h (fun k s1 rd hf => ?_) ht
  dsimp only at hf
  split at hf
  · cases hf
  · split at hf
    · cases hf
    · cases hf
    · exact wf_wfCounted h k _ hf

theorem Memory.wf_execWfscore {s : State} (h : Memory.wf s) (i : Slots) {s' : State} (ht : execWfscore i s = .next s') :
    Memory.wf s' :=
  wf_runE h (fun k _ _ hf => wf_wfCounted h k _ hf) ht

/-! ## MatrixRun -/

theorem Memory.wf_putSector {s : State} (h : Memory.wf s) (tid off : Nat) (bs : List Byte) (x : Nat) :
    Memory.wf (State.putSector s tid off bs x) :=
  wf_spadWrite h ..

theorem Memory.wf_putBut {s : State} (h : Memory.wf s) (tid off : Nat) (bs : List Byte) (wrote : List Nat) :
    Memory.wf (State.putBut s tid off bs wrote) := by
  unfold State.putBut
  exact wf_ite (wf_spadWrite h ..) (wf_foldl (fun s1 a h1 => wf_putSector h1 ..) _ h)

theorem Memory.wf_mxRun {s : State} (h : Memory.wf s) (o : MxOp) (t : Team) : Memory.wf (State.mxRun s o t) := by
  unfold State.mxRun
  dsimp only
  split
  · exact wf_setTeam h ..
  · exact wf_setTeam h ..
  · exact wf_setTeam h ..
  · exact wf_setTeam h ..
  · exact wf_setTeam h ..
  · exact wf_setTeam h ..
  · exact wf_setTeam h ..
  · exact wf_setTeam h ..
  · exact wf_setTeam h ..
  · exact wf_setTeam h ..
  · exact wf_spadWrite (wf_spadWrite (wf_putBut (wf_setTeam h ..) _ _ _ _) _ _ _) _ _ _
  · exact wf_foldl (fun s1 a h1 => wf_spadWrite h1 ..) _ h
  · exact wf_putBut h ..
  · exact wf_modGroup (wf_modTeam h ..) _ _ _

theorem Memory.wf_mxEnd {s : State} (h : Memory.wf s) (core : Nat) (o : MxOp) (rest : List MxOp) (t : Team) {s' : State}
    (ht : State.mxEnd s core o rest t = .next s') : Memory.wf s' := by
  revert ht
  unfold State.mxEnd
  exact of_ite fault_ne_next (of_next (wf_endOp (wf_engineNext (wf_mxRun h ..) _ _) _ _ _))

theorem Memory.wf_mxCapture {s : State} (h : Memory.wf s) (core : Nat) (o : MxOp) (t : Team) (secs : List Nat) {s' : State}
    (ht : State.mxCapture s core o t secs = .next s') : Memory.wf s' := by
  revert ht
  unfold State.mxCapture
  exact of_ite fault_ne_next (of_next (wf_modCore h ..))

theorem Memory.wf_mxWriteEarly {s : State} (h : Memory.wf s) (core : Nat) (o : MxOp) (t : Team) (secs : List Nat) {s' : State}
    (ht : State.mxWriteEarly s core o t secs = .next s') : Memory.wf s' := by
  revert ht
  unfold State.mxWriteEarly
  exact of_ite fault_ne_next (of_next (wf_modCore (wf_foldl (fun s1 a h1 => wf_putSector h1 ..) _ h) _ _))

theorem Memory.wf_execMatrixOpComplete {s : State} (h : Memory.wf s) (core : Nat) (capture : List Nat) (final : Bool)
    {s' : State} (ht : execMatrixOpComplete core capture final s = .next s') : Memory.wf s' := by
  revert ht
  unfold execMatrixOpComplete
  dsimp only
  split
  · exact fault_ne_next
  · split
    · exact fault_ne_next
    · exact of_ite (wf_mxEnd h _ _ _ _) (of_ite fault_ne_next (of_ite (wf_mxCapture h _ _ _ _) (of_ite (wf_mxWriteEarly h _
        _ _ _) fault_ne_next)))

/-! ## CopyRun -/

theorem Memory.wf_modCopy {s : State} (h : Memory.wf s) (core id : Nat) (f : CopyOp → CopyOp) :
    Memory.wf (State.modCopy s core id f) :=
  h

theorem Memory.wf_checkBar {s : State} (h : Memory.wf s) (core : Nat) (o : CopyOp) (t : Team) :
    Memory.wf (State.checkBar s core o t).2 := by
  unfold State.checkBar
  refine wf_ite_snd (wf_pair_snd h) ?_
  split
  · exact wf_pair_snd h
  · split
    · exact wf_pair_snd h
    · exact wf_ite_snd (wf_pair_snd h) (wf_pair_snd (wf_barRead h ..))
  · exact wf_pair_snd h

theorem Memory.wf_copyFails {s : State} (h : Memory.wf s) (core id : Nat) (tr : Trap) :
    Memory.wf (State.copyFails s core id tr) :=
  h

theorem Memory.wf_checkCopy {s : State} (h : Memory.wf s) (core : Nat) (o : CopyOp) (t : Team) (upto : Nat) :
    Memory.wf (State.checkCopy s core o t upto) := by
  unfold State.checkCopy
  dsimp only
  split
  · exact wf_copyFails (wf_ite_snd (wf_checkBar h ..) (wf_pair_snd h)) _ _ _
  · split
    · exact wf_copyFails (wf_ite_snd (wf_checkBar h ..) (wf_pair_snd h)) _ _ _
    · exact wf_modCopy (wf_ite_snd (wf_checkBar h ..) (wf_pair_snd h)) _ _ _

theorem Memory.wf_captureSector {s : State} (h : Memory.wf s) (core id part : Nat) (l : Loc) (va : Nat) :
    Memory.wf (State.captureSector s core id part l va) := by
  unfold State.captureSector
  split
  · exact h
  · refine wf_ite h ?_
    dsimp only
    split
    · exact wf_modCopy (wf_readErr h ..) _ _ _
    · split
      · exact wf_modCopy (wf_readErr h ..) _ _ _
      · exact wf_modCopy (wf_readMem (wf_readErr h ..) _ _ _ _ _) _ _ _
      · refine wf_ite (wf_modCopy (wf_readErr h ..) _ _ _) ?_
        split
        · next he3 =>
            exact wf_modCopy (wf_request (wf_readErr h ..) _ _ _ _ he3) _ _ _
        · exact wf_modCopy (wf_readErr h ..) _ _ _

theorem Memory.wf_putByte {s : State} (h : Memory.wf s) (core : Nat) (o : CopyOp) (b : CpByte) (v : Byte) :
    Memory.wf (State.putByte s core o b v) := by
  unfold State.putByte
  dsimp only
  split
  · exact wf_spadWrite h ..
  · exact wf_engineWrite h ..
  · exact h

theorem Memory.wf_putTile {s : State} (h : Memory.wf s) (o : CopyOp) (m : Nat) (bs : List CpByte) :
    Memory.wf (State.putTile s o m bs) := by
  unfold State.putTile
  exact wf_modTeam h ..

theorem Memory.wf_tileStep {s : State} (h : Memory.wf s) (o : CopyOp) (plan : List (List CpByte)) (us : List Nat) :
    Memory.wf (State.tileStep s o plan us) := by
  unfold State.tileStep
  split
  · exact wf_ite (wf_putTile h ..) (wf_ite (wf_putTile h ..) h)
  · exact h

theorem Memory.wf_putRemote {s : State} (h : Memory.wf s) (core part : Nat) (o : CopyOp) (sector : Nat)
    (xs : List (Nat × Nat × Byte × Nat)) : Memory.wf (State.putRemote s core part o sector xs) := by
  unfold State.putRemote
  refine wf_foldl (fun s1 a h1 => ?_) _ h
  dsimp only
  split
  · next he =>
      exact wf_modCopy (wf_request h1 _ _ _ _ he) _ _ _
  · exact wf_modCopy h1 ..

theorem Memory.wf_copyCredit {s : State} (h : Memory.wf s) (core : Nat) (o : CopyOp) :
    Memory.wf (State.copyCredit s core o) := by
  unfold State.copyCredit
  split
  · exact wf_ite (wf_copyFails h ..) (wf_barCredit h ..)
  · exact h

theorem Memory.wf_creditRun {s : State} (h : Memory.wf s) (core id run : Nat) :
    Memory.wf (State.creditRun s core id run) := by
  unfold State.creditRun
  split
  · exact h
  · exact wf_foldl (fun s1 a h1 => wf_copyCredit h1 ..) _ (wf_modCopy h ..)

theorem Memory.wf_runErr {s : State} (h : Memory.wf s) (core part : Nat) (bs : List CpByte) :
    Memory.wf (State.runErr s core part bs).1 := by
  unfold State.runErr
  refine wf_ite_fst (wf_pair_fst h) (wf_foldl_fst (fun r a h1 => ?_) _ h)
  split
  · exact wf_pair_fst (wf_edgeErr h1 ..)
  · exact h1

theorem Memory.wf_writeSector {s : State} (h : Memory.wf s) (core part : Nat) (o : CopyOp) (sector : Nat) (bs : List CpByte) :
    Memory.wf (State.writeSector s core part o sector bs) := by
  unfold State.writeSector
  dsimp only
  split
  · exact wf_copyFails (wf_runErr h ..) _ _ _
  · refine wf_ite (wf_putRemote (wf_foldl (fun s1 a h1 => ?_) _ (wf_runErr h ..)) _ _ _ _ _) (wf_creditRun (wf_ite (wf_count
      (wf_modCopy (wf_putRemote (wf_foldl (fun s1 a h1 => ?_) _ (wf_runErr h ..)) _ _ _ _ _) _ _ _) _ _ _) (wf_modCopy
      (wf_putRemote (wf_foldl (fun s1 a h1 => ?_) _ (wf_runErr h ..)) _ _ _ _ _) _ _ _)) _ _ _)
    · split
      · exact wf_putByte h1 ..
      · exact h1
    · split
      · exact wf_putByte h1 ..
      · exact h1
    · split
      · exact wf_putByte h1 ..
      · exact h1

theorem Memory.wf_sectorStep {s : State} (h : Memory.wf s) (core part : Nat) (o : CopyOp) (plan : List (List CpByte))
    (sector : Nat) (readOnly : Bool) : Memory.wf (State.sectorStep s core part o plan sector readOnly) := by
  unfold State.sectorStep
  dsimp only
  split
  · exact wf_foldl (fun s1 a h1 => wf_captureSector h1 ..) _ h
  · exact wf_ite (wf_foldl (fun s1 a h1 => wf_captureSector h1 ..) _ h) (wf_foldl (fun s1 a h1 => wf_writeSector h1 ..) _
      (wf_tileStep (wf_foldl (fun s1 a h1 => wf_captureSector h1 ..) _ h) _ _ _))

theorem Memory.wf_copyMove {s : State} (h : Memory.wf s) (core id sector : Nat) (readOnly : Bool) {s' : State}
    (ht : State.copyMove s core id sector readOnly = .next s') : Memory.wf s' := by
  revert ht
  unfold State.copyMove
  split
  · exact fault_ne_next
  · split
    · exact fault_ne_next
    · refine of_ite fault_ne_next ?_
      split
      · exact of_ite fault_ne_next (of_next (wf_checkCopy h ..))
      · exact of_ite fault_ne_next (of_ite fault_ne_next (of_next (wf_sectorStep h ..)))

theorem Memory.wf_dxCopyFault {s : State} (h : Memory.wf s) (core : Nat) (tr : Trap) :
    Memory.wf (State.dxCopyFault s core tr) := by
  unfold State.dxCopyFault
  exact wf_dxSettle (wf_modDxp h ..) _

theorem Memory.wf_dropCopy {s : State} (h : Memory.wf s) (core id : Nat) : Memory.wf (State.dropCopy s core id) := h

theorem Memory.wf_execCopyComplete {s : State} (h : Memory.wf s) (core id : Nat) {s' : State}
    (ht : execCopyComplete core id s = .next s') : Memory.wf s' := by
  revert ht
  unfold execCopyComplete
  split
  · exact fault_ne_next
  · split
    · exact fault_ne_next
    · refine of_ite fault_ne_next ?_
      split
      · exact of_ite (of_next (wf_dxCopyFault (wf_dropCopy h ..) _ _)) (of_next (wf_postDxFault (wf_dxRecord (wf_dropCopy h
          ..) _ _ _ _ _) _ _ _ _ _ _ _))
      · split
        · exact fault_ne_next
        · exact of_ite fault_ne_next (of_ite (of_next (wf_dxSettle (wf_dropCopy h ..) _)) (of_ite (of_next (wf_endOp
            (wf_dropCopy h ..) _ _ _)) (of_next (wf_postHeld (wf_endOp (wf_dropCopy h ..) _ _ _) _ _ _ _ _ _ _ _ _))))

theorem Memory.wf_execDxpProgramStart {s : State} (h : Memory.wf s) (core : Nat) {s' : State}
    (ht : execDxpProgramStart core s = .next s') : Memory.wf s' := by
  revert ht
  unfold execDxpProgramStart
  dsimp only
  split
  · split
    · exact fault_ne_next
    · refine of_ite fault_ne_next (of_next ?_)
      split
      · exact wf_dxFault (wf_modTeam (wf_modDxp h ..) _ _) _ _
      · exact wf_modTeam (wf_modDxp h ..) _ _
  · exact fault_ne_next

theorem Memory.wf_execDxpDrainTimeout {s : State} (h : Memory.wf s) (core : Nat) {s' : State}
    (ht : execDxpDrainTimeout core s = .next s') : Memory.wf s' := by
  revert ht
  unfold execDxpDrainTimeout
  split
  · exact fault_ne_next
  · split
    · exact fault_ne_next
    · split
      · exact fault_ne_next
      · exact of_ite fault_ne_next (of_next (wf_dxFault h ..))

/-! ## Cache -/

theorem Memory.wf_evict {s : State} (h : Memory.wf s) (v : Line) : Memory.wf (s.evict v).1 := by
  have hw (t : Team) (base : Nat) (ps) : Memory.wf (s.writeLines t base ps).s := wf_writeLines h t base ps
  obtain ⟨tid, g, line⟩ := v
  unfold State.evict
  split
  · exact h
  · dsimp only
    rw [apply_ite Prod.fst]
    cases g with
    | none => exact wf_ite (hw ..) (wf_modTeam (wf_count (hw ..) ..) ..)
    | some i => exact wf_ite (hw ..) (wf_modGroup (wf_count (hw ..) ..) ..)

theorem Memory.wf_evictSome (core n : Nat) (vs : List Line) {s : State} (h : Memory.wf s) :
    Memory.wf (State.evictSome core n vs s) := by
  induction vs generalizing s with
  | nil => exact h
  | cons v vs ih =>
    rw [State.evictSome]
    split
    · exact h
    · exact ih (wf_evict h v)

theorem Memory.wf_makeRoom {s : State} (h : Memory.wf s) (core n : Nat) : Memory.wf (State.makeRoom s core n) := by
  unfold State.makeRoom
  exact wf_ite h (wf_evictSome _ _ _ (wf_of_fields (h := h)))

end Sys2Proof.Machine
end

section
/-!
Memory in its canonical form, part 4: launches, handles, endpoints, collectives, packets, transfer programs.
-/
namespace Sys2Proof.Machine

open Host (Outcome)
open Memory
set_option Elab.async false

/-! ## Launch -/

theorem Memory.wf_loadCtx {s : State} (h : Memory.wf s) (p c : Nat) : Memory.wf (State.loadCtx s p c) := by
  unfold State.loadCtx
  exact wf_ite h (wf_ite (wf_ite (wf_setCtx h ..) h) (wf_setCtx (wf_ite (wf_modPart h ..) h) _ _ _))

theorem Memory.wf_takeLaunch {s : State} (h : Memory.wf s) (p : Nat) : Memory.wf (State.takeLaunch s p).2 := h

theorem Memory.wf_execLaunchDoorbell {s : State} (h : Memory.wf s) (part : Nat) (addr : W64) {s' : State}
    (ht : execLaunchDoorbell part addr s = .next s') : Memory.wf s' := by
  revert ht
  unfold execLaunchDoorbell
  exact of_ite (of_next h) (of_ite (of_next (wf_postNotice (wf_modPart h ..) _ _ _ _ _ _)) (of_next (wf_modPart (wf_modPart
    h ..) _ _)))

theorem Memory.wf_measure {s : State} (h : Memory.wf s) (p : Nat) (l : LaunchRec) : Memory.wf (State.measure s p l) := by
  unfold State.measure
  split
  · exact h
  · exact wf_ite h (wf_modPart h ..)

theorem Memory.wf_startGrid {s : State} (h : Memory.wf s) (p launch recAddr : Nat) (l : Option LaunchRec) (invoked : Nat) :
    Memory.wf (State.startGrid s p launch recAddr l invoked).1 := by
  unfold State.startGrid
  split
  · refine wf_ite_fst (wf_pair_fst (wf_postNotice (wf_loadCtx h ..) _ _ _ _ _ _)) ?_
    split
    · exact wf_pair_fst (wf_postNotice (wf_loadCtx h ..) _ _ _ _ _ _)
    · exact wf_pair_fst (wf_modPart (wf_measure (wf_loadCtx h ..) _ _) _ _)
  · exact wf_pair_fst (wf_postNotice h ..)

theorem Memory.wf_execLaunchCheck {s : State} (h : Memory.wf s) (part : Nat) {s' : State}
    (ht : execLaunchCheck part s = .next s') : Memory.wf s' := by
  revert ht
  unfold execLaunchCheck
  dsimp only
  split
  · exact fault_ne_next
  · exact of_ite fault_ne_next (of_next (wf_startGrid (wf_modPart h ..) _ _ _ _ _))

theorem Memory.wf_startTeam {s : State} (h : Memory.wf s) (p : Nat) (gr : Grid) (index origin pos : Nat) :
    Memory.wf (State.startTeam s p gr index origin pos) := by
  unfold State.startTeam
  exact wf_optDecide (wf_ite (wf_of_fields (h := h)) (wf_of_fields (h := h))) _

theorem Memory.wf_execTeamPlacement {s : State} (h : Memory.wf s) (part : Nat) {s' : State}
    (ht : execTeamPlacement part s = .next s') : Memory.wf s' := by
  revert ht
  unfold execTeamPlacement
  refine of_ite fault_ne_next ?_
  split
  · exact fault_ne_next
  · split
    · exact of_ite fault_ne_next (of_ite (of_next (wf_foldl (fun s1 a h1 => wf_makeRoom h1 ..) _ h)) (of_next (wf_foldl (fun
        s1 a h1 => wf_startTeam h1 ..) _ (wf_modPart (wf_foldl (fun s1 a h1 => wf_makeRoom h1 ..) _ h) _ _))))
    · exact fault_ne_next

theorem Memory.wf_dropGrid {s : State} (h : Memory.wf s) (p launch : Nat) : Memory.wf (State.dropGrid s p launch) := h

theorem Memory.wf_retryLines {s : State} (h : Memory.wf s) (tid : Nat) (t : Team) : Memory.wf (State.retryLines s tid t) := by
  unfold State.retryLines
  refine wf_foldl (fun s1 a h1 => ?_) _ h
  split
  · exact wf_ite (wf_saveGroup h1 ..) h1
  · exact h1

theorem Memory.wf_saveGrid {s : State} (h : Memory.wf s) (p launch : Nat) : Memory.wf (State.saveGrid s p launch) := by
  unfold State.saveGrid
  refine wf_foldl (fun s1 a h1 => ?_) _ h
  dsimp only
  split
  · exact wf_saveTiles (wf_retryLines (wf_writeMap h1 ..) _ _) _ _
  · exact wf_writeMap h1 ..

theorem Memory.wf_execLaunchComplete {s : State} (h : Memory.wf s) (part launch : Nat) {s' : State}
    (ht : execLaunchComplete part launch s = .next s') : Memory.wf s' := by
  revert ht
  unfold execLaunchComplete
  split
  · exact fault_ne_next
  · exact of_ite fault_ne_next (of_next (wf_ite (wf_dropGrid (wf_postNotice (wf_saveGrid h ..) _ _ _ _ _ _) _ _) (wf_modPart
      (wf_postNotice (wf_saveGrid h ..) _ _ _ _ _ _) _ _)))

/-! ## System -/

theorem Memory.wf_execNop {s : State} (h : Memory.wf s) (i : Slots) {s' : State} (ht : execNop i s = .next s') :
    Memory.wf s' := by
  revert ht
  unfold execNop
  split
  · exact wf_runDx h
  · exact wf_runS h (fun k s1 => of_ok h)

theorem Memory.wf_execExit {s : State} (h : Memory.wf s) (i : Slots) {s' : State} (ht : execExit i s = .next s') :
    Memory.wf s' := by
  revert ht
  unfold execExit
  exact wf_runJ h (fun k s1 tg => of_ok_fst h)

theorem Memory.wf_execTrap {s : State} (h : Memory.wf s) (i : Slots) {s' : State} (ht : execTrap i s = .next s') :
    Memory.wf s' := by
  revert ht
  unfold execTrap
  exact wf_runS h (fun k s1 => error_ne_ok)

theorem Memory.wf_execYield {s : State} (h : Memory.wf s) (i : Slots) {s' : State} (ht : execYield i s = .next s') :
    Memory.wf s' := by
  revert ht
  unfold execYield
  split
  · exact fault_ne_next
  · split
    · exact of_next (wf_bail h ..)
    · exact of_next (wf_retire h ..)

theorem Memory.wf_execTret {s : State} (h : Memory.wf s) (i : Slots) {s' : State} (ht : execTret i s = .next s') :
    Memory.wf s' := by
  revert ht
  unfold execTret
  split
  · exact fault_ne_next
  · dsimp only
    split
    · exact of_next (wf_bail h ..)
    · exact of_ite (of_next (wf_bail h ..)) (of_next (wf_done (wf_endHandler (wf_count (wf_modGroup h ..) _ _ _) _ _ _ _ _)))

theorem Memory.wf_execTqrd {s : State} (h : Memory.wf s) (i : Slots) {s' : State} (ht : execTqrd i s = .next s') :
    Memory.wf s' :=
  wf_runG h ht

theorem Memory.wf_execTqrdDxp {s : State} (h : Memory.wf s) (i : Slots) {s' : State} (ht : execTqrdDxp i s = .next s') :
    Memory.wf s' := by
  revert ht
  unfold execTqrdDxp
  refine wf_runS h (fun k s1 => of_ite (of_ok (wf_modGroup h ..)) ?_)
  split
  · exact of_ok (wf_modGroup h ..)
  · exact of_ok (wf_modDxp (wf_modGroup h ..) _ _)

theorem Memory.wf_execSrd {s : State} (h : Memory.wf s) (i : Slots) {s' : State} (ht : execSrd i s = .next s') :
    Memory.wf s' := by
  revert ht
  unfold execSrd
  refine wf_runS h (fun k s1 => ?_)
  split
  · exact of_ok (wf_ite (wf_modCluster (wf_modGroup h ..) _ _) (wf_modGroup h ..))
  · exact of_ok (wf_modGroup h ..)

theorem Memory.wf_execSwr {s : State} (h : Memory.wf s) (i : Slots) {s' : State} (ht : execSwr i s = .next s') :
    Memory.wf s' := by
  revert ht
  unfold execSwr
  refine wf_runS h (fun k s1 => of_ite ?_ (of_ok ?_))
  · split
    · exact error_ne_ok
    · next he =>
        exact of_ok (wf_ctlsync h _ he)
  · split
    · exact wf_modGroup h ..
    · exact wf_modGroup h ..
    · exact wf_modTeam h ..
    · exact wf_ite (wf_modTeam h ..) h
    · exact h

theorem Memory.wf_execVclk {s : State} (h : Memory.wf s) (i : Slots) {s' : State} (ht : execVclk i s = .next s') :
    Memory.wf s' :=
  wf_runG h ht

theorem Memory.wf_execAlarm {s : State} (h : Memory.wf s) (i : Slots) {s' : State} (ht : execAlarm i s = .next s') :
    Memory.wf s' :=
  wf_runG h ht

theorem Memory.wf_execAlcan {s : State} (h : Memory.wf s) (i : Slots) {s' : State} (ht : execAlcan i s = .next s') :
    Memory.wf s' := by
  revert ht
  unfold execAlcan
  exact wf_runG h

theorem Memory.wf_execAlwait {s : State} (h : Memory.wf s) (i : Slots) {s' : State} (ht : execAlwait i s = .next s') :
    Memory.wf s' :=
  wf_runG h ht

theorem Memory.wf_execPhase {s : State} (h : Memory.wf s) (i : Slots) {s' : State} (ht : execPhase i s = .next s') :
    Memory.wf s' := by
  revert ht
  unfold execPhase
  exact wf_runS h (fun k s1 => of_ok (wf_optDecide (wf_modGroup h ..) _))

theorem Memory.wf_execBrkpt {s : State} (h : Memory.wf s) (i : Slots) {s' : State} (ht : execBrkpt i s = .next s') :
    Memory.wf s' := by
  revert ht
  unfold execBrkpt
  exact wf_runS h (fun k s1 => of_ite (of_ok h) (of_ok (wf_openStop (wf_modPart h ..) _ _ _)))

theorem Memory.wf_execIdem {s : State} (h : Memory.wf s) (i : Slots) {s' : State} (ht : execIdem i s = .next s') :
    Memory.wf s' :=
  wf_runG h ht

theorem Memory.wf_execIdemClr {s : State} (h : Memory.wf s) (i : Slots) {s' : State} (ht : execIdemClr i s = .next s') :
    Memory.wf s' := by
  revert ht
  unfold execIdemClr
  exact wf_runS h (fun k s1 => of_ok (wf_clearIdem h ..))

theorem Memory.wf_execRdctx {s : State} (h : Memory.wf s) (i : Slots) {s' : State} (ht : execRdctx i s = .next s') :
    Memory.wf s' :=
  wf_runG h ht

/-! ## Handles -/

theorem Memory.wf_setEntry {s : State} (h : Memory.wf s) (i : Nat) (e : HEntry) : Memory.wf (State.setEntry s i e) := h

theorem Memory.wf_freeEntry {s : State} (h : Memory.wf s) (i : Nat) : Memory.wf (State.freeEntry s i) := h

theorem Memory.wf_writeCtx {s : State} (h : Memory.wf s) (p c va : Nat) (bs : List Byte) {s' : State}
    (ht : State.writeCtx s p c va bs = some s') : Memory.wf s' := by
  refine foldl_keep (fun r : Option State => ∀ x, r = some x → Memory.wf x) _ (fun r i hr x hx => ?_) _ _
    (fun x hx => Option.some.inj hx ▸ h) s' ht
  split at hx
  · cases hx
  · next y =>
    split at hx
    · cases hx
      exact wf_homeWrite (hr y rfl) _ _ _
    · cases hx

theorem Memory.wf_accept {s : State} (h : Memory.wf s) (q : QInv) {s' : State} {br : QInv}
    (ht : State.accept s q = .ok (s', br)) : Memory.wf s' := by
  unfold State.accept at ht
  grind -ring -linarith -lia -ac [wf_loadCtx, wf_setEntry, wf_takeLaunch]

theorem Memory.wf_getD {o : Option State} {s : State} (ho : ∀ x, o = some x → Memory.wf x) (h : Memory.wf s) :
    Memory.wf (o.getD s) := by
  cases o with
  | none => exact h
  | some x => exact ho x rfl

theorem Memory.wf_runInv {s : State} (h : Memory.wf s) (q : QInv) : Memory.wf (s.runInv q).1 := by
  have hw : ∀ p c va hdr va2 args x, ((s.writeCtx p c va hdr).bind fun x => x.writeCtx p c va2 args) = some x →
    Memory.wf x := by
    intro p c va hdr va2 args x hx
    obtain ⟨y, hy, hx⟩ := Option.bind_eq_some_iff.1 hx
    exact wf_writeCtx (wf_writeCtx h _ _ _ _ hy) _ _ _ _ hx
  exact wf_startGrid (wf_getD (fun x hx => hw _ _ _ _ _ _ x hx) h) ..

theorem Memory.wf_deliver_ (n i : Nat) {s : State} (h : Memory.wf s) (ts : List HTask) :
    Memory.wf (State.deliver_ n i s ts).1 := by
  induction n generalizing s ts with
  | zero => exact h
  | succ n ih =>
    rw [State.deliver_]
    dsimp only
    split
    · exact h
    · split
      · exact ih (wf_setEntry h i _) ts
      · exact ih (wf_runInv (wf_setEntry h i _) _) _

theorem Memory.wf_deliverAll {s : State} (h : Memory.wf s) (i : Nat) : Memory.wf (State.deliverAll s i).1 := by
  unfold State.deliverAll
  exact wf_deliver_ _ _ h ..

theorem Memory.wf_giveHandle {s : State} (hs : Memory.wf s) (w : Nat × Nat × Nat × Operand) (h : Nat) :
    Memory.wf (State.giveHandle s w h) := by
  unfold State.giveHandle
  exact wf_endOp (wf_modGroup hs ..) _ _ _

theorem Memory.wf_arriveUp {s : State} (h : Memory.wf s) (q : QInv) : Memory.wf (State.arriveUp s q).1 := by
  unfold State.arriveUp
  dsimp only
  split
  · exact wf_pair_fst h
  · refine wf_ite_fst (wf_pair_fst h) ?_
    split
    · exact wf_pair_fst h
    · refine wf_ite_fst (wf_pair_fst (wf_setEntry h ..)) (wf_ite_fst (wf_pair_fst (wf_deliverAll (wf_setEntry ?_ _ _) _))
        (wf_pair_fst (wf_setEntry ?_ _ _)))
      · split
        · next he2 =>
            exact wf_accept h _ he2
        · exact h
      · split
        · next he2 =>
            exact wf_accept h _ he2
        · exact h

theorem Memory.wf_waitOver {s : State} (h : Memory.wf s) (q : QInv) : Memory.wf (State.waitOver s q) := h

theorem Memory.wf_lateAgain {d : State × List HTask} (h : Memory.wf d.1) (late : List QInv) :
    Memory.wf (State.lateAgain late d).1 := by
  refine wf_foldl_fst (fun x q hx => ?_) late h
  have hr := wf_arriveUp hx q
  dsimp only
  split
  · exact wf_giveHandle hr ..
  · exact hr
  · exact wf_waitOver hr q

theorem Memory.wf_answerQuery {s : State} (h : Memory.wf s) (req : Packet) (payload : List Byte) :
    Memory.wf (State.answerQuery s req payload) :=
  wf_respond h ..

theorem Memory.wf_settle1 {s : State} (h : Memory.wf s) (t : HTask) : Memory.wf (s.settle1 t).1 := by
  unfold State.settle1
  dsimp only
  split
  · exact h
  · have hw (e : HEntry) : Memory.wf ((s.hEntry t.1).watch.foldl (fun x p => x.answerQuery p []) (s.setEntry t.1 e)) :=
      wf_foldl (fun x p hx => wf_answerQuery hx p []) _ (wf_setEntry h t.1 e)
    refine wf_lateAgain ?_ _
    split
    · exact hw _
    · exact wf_deliverAll (hw _) _

theorem Memory.wf_settleAll_ (n : Nat) (ts : List HTask) {s : State} (h : Memory.wf s) :
    Memory.wf (State.settleAll_ n ts s) := by
  induction n generalizing s ts with
  | zero => exact h
  | succ n ih =>
    cases ts with
    | nil => exact h
    | cons t ts => exact ih _ (wf_settle1 h t)

theorem Memory.wf_hSettle {s : State} (h : Memory.wf s) (ts : List HTask) : Memory.wf (State.hSettle s ts) := by
  unfold State.hSettle
  exact wf_settleAll_ _ _ h

theorem Memory.wf_settleLate {s : State} (h : Memory.wf s) (i : Nat) (ts : List HTask) : Memory.wf (s.settleLate i ts) := by
  have h1 := wf_hSettle h ts
  unfold State.settleLate
  dsimp only
  split
  · exact h1
  · exact wf_hSettle (wf_lateAgain (wf_setEntry h1 i _) _) _

theorem Memory.wf_runNow {s : State} (h : Memory.wf s) (q : QInv) : Memory.wf (State.runNow s q) := by
  unfold State.runNow
  exact wf_ite (wf_runInv h ..) (wf_hSettle (wf_runInv h ..) _)

theorem Memory.wf_readDesc_ok {s : State} (h : Memory.wf s) (k : Iss) (va : Nat) (inv : Bool) {r : Option (List Byte)}
    {t : State} (ht : s.readDesc k va inv = .ok (r, t)) : Memory.wf t := by
  revert ht
  unfold State.readDesc
  split
  · exact error_ne_ok
  · next he =>
      exact of_ok_snd (wf_readRec_ok h _ _ _ _ _ he)
  · next he =>
      exact of_ite error_ne_ok (of_ok_snd (wf_readRec_ok h _ _ _ _ _ he))

theorem Memory.wf_readDesc_error {s : State} (h : Memory.wf s) (k : Iss) (va : Nat) (inv : Bool) {b : Bail} {t : State}
    (ht : s.readDesc k va inv = .error (b, t)) : Memory.wf t := by
  revert ht
  unfold State.readDesc
  split
  · next he =>
      exact of_error_snd (wf_readRec_error h _ _ _ _ _ he)
  · exact ok_ne_error
  · next he =>
      exact of_ite (of_error_snd (wf_readRec_ok h _ _ _ _ _ he)) ok_ne_error

theorem Memory.wf_issuerNo {s : State} (h : Memory.wf s) (tid g : Nat) : Memory.wf (State.issuerNo s tid g).2 := by
  unfold State.issuerNo
  split
  · exact wf_pair_snd h
  · exact wf_pair_snd (wf_of_fields (h := h))

theorem Memory.wf_setInvSeq {s : State} (hs : Memory.wf s) (n h seq : Nat) : Memory.wf (State.setInvSeq s n h seq) := by
  unfold State.setInvSeq
  exact wf_of_fields (h := hs)

theorem Memory.wf_invSend {s : State} (h : Memory.wf s) (t : Team) (r : SrcRead) (bs : List Byte) (od : Operand)
    (up : Option Nat) : Memory.wf (State.invSend s t r bs od up) := by
  unfold State.invSend
  dsimp only
  split
  · refine wf_ite ?_ (wf_getD (fun x => wf_request h _ _ _ _) (wf_giveHandle h ..))
    split
    · exact wf_giveHandle h ..
    · next he =>
        exact wf_runNow (wf_giveHandle (wf_accept h _ he) _ _) _
  · refine wf_ite ?_ (wf_getD (fun x => wf_request (wf_setInvSeq (wf_issuerNo h ..) _ _ _) _ _ _ _) (wf_giveHandle h ..))
    split
    · next he =>
        exact wf_settleLate (wf_giveHandle (wf_of_fst he (wf_arriveUp (wf_setInvSeq (wf_issuerNo h ..) _ _ _) _)) _ _) _ _
    · next he =>
        exact wf_waitOver (wf_of_fst he (wf_arriveUp (wf_setInvSeq (wf_issuerNo h ..) _ _ _) _)) _

theorem Memory.wf_dropSrc {s : State} (h : Memory.wf s) (id : Nat) : Memory.wf (State.dropSrc s id) := h

theorem Memory.wf_invGo (n : Nat) {s : State} (h : Memory.wf s) : Memory.wf (State.invGo n s) := by
  induction n generalizing s with
  | zero => exact h
  | succ n ih =>
    rw [State.invGo]
    split
    · exact h
    · next r _ =>
      dsimp only
      split
      · exact ih (wf_invSend (wf_dropSrc h r.id) ..)
      · exact ih (wf_dropSrc h r.id)

theorem Memory.wf_invStart {s : State} (h : Memory.wf s) (k : Iss) (od : Operand) (bs : List Byte) (up : Option Nat) :
    Memory.wf (State.invStart s k od bs up) := by
  unfold State.invStart
  exact wf_invGo _ (wf_of_fields (h := wf_clearIdem (wf_modGroup (wf_of_fields (h := h)) _ _ _) _))

theorem Memory.wf_execInvk {s : State} (h : Memory.wf s) (i : Slots) {s' : State} (ht : execInvk i s = .next s') :
    Memory.wf s' := by
  revert ht
  unfold execInvk
  refine wf_runH h (fun k s1 b => ?_) (fun k s1 b => ?_)
  · split
    · exact error_ne_ok
    · next he =>
        exact of_ok_fst (wf_readDesc_ok h _ _ _ he)
    · next he =>
        split
        · exact error_ne_ok
        · exact of_ok_fst (wf_invStart (wf_readDesc_ok h _ _ _ he) _ _ _ _)
  · split
    · next he =>
        exact of_error_snd (wf_readDesc_error h _ _ _ he)
    · exact ok_ne_error
    · split
      · exact of_error_snd h
      · exact ok_ne_error

theorem Memory.wf_execInvh {s : State} (h : Memory.wf s) (i : Slots) {s' : State} (ht : execInvh i s = .next s') :
    Memory.wf s' := by
  revert ht
  unfold execInvh
  refine wf_runH h (fun k s1 b => ?_) (fun k s1 b => ?_)
  · split
    · exact error_ne_ok
    · split
      · exact error_ne_ok
      · next he1 =>
          exact of_ok_fst (wf_readDesc_ok h _ _ _ he1)
      · next he1 =>
          split
          · exact error_ne_ok
          · exact of_ok_fst (wf_invStart (wf_readDesc_ok h _ _ _ he1) _ _ _ _)
  · split
    · exact of_error_snd h
    · split
      · next he1 =>
          exact of_error_snd (wf_readDesc_error h _ _ _ he1)
      · exact ok_ne_error
      · split
        · exact of_error_snd h
        · exact ok_ne_error

theorem Memory.wf_query {s : State} (hs : Memory.wf s) (k : Iss) (dev h code : Nat) (why : ReqFor) {s' : State}
    (ht : State.query s k dev h code why = some s') : Memory.wf s' :=
  wf_request hs _ _ _ _ ht

theorem Memory.wf_hwaitEnd {s : State} (hs : Memory.wf s) (k : Iss) (i : Slots) (h w : Nat) {s' : State} {br : Option Hold}
    (ht : hwaitEnd s k i h w = .ok (s', br)) : Memory.wf s' := by
  revert ht
  unfold hwaitEnd
  exact of_ite (of_ok_fst (wf_ite (wf_acquire hs ..) (wf_modGroup (wf_acquire hs ..) _ _ _))) (of_ite error_ne_ok (of_ok_fst
    (wf_ite hs (wf_modGroup hs ..))))

theorem Memory.wf_dropQueries {s : State} (h : Memory.wf s) (tid g : Nat) : Memory.wf (State.dropQueries s tid g) := h

theorem ok_of_failIn {s : State} {α : Type} {r : Except Bail α} {x : α} (hf : failIn s r = .ok x) : r = .ok x := by
  unfold failIn at hf
  split at hf <;> cases hf
  rfl

theorem Memory.wf_execHwait {s : State} (h : Memory.wf s) (i : Slots) {s' : State} (ht : execHwait i s = .next s') :
    Memory.wf s' := by
  refine wf_runH h (fun k s1 b hf => ?_) (fun k s1 b hf => wf_failIn h hf) ht
  have hf := ok_of_failIn hf
  dsimp only at hf
  split at hf
  · cases hf
  · split at hf
    · split at hf
      · exact wf_hwaitEnd h _ _ _ _ hf
      · split at hf
        · split at hf
          · exact wf_hwaitEnd h _ _ _ _ hf
          · cases hf
        · cases hf
    · split at hf
      · split at hf
        · exact wf_hwaitEnd h _ _ _ _ hf
        · split at hf
          · exact wf_hwaitEnd (wf_dropQueries h ..) _ _ _ _ hf
          · cases hf
      · split at hf
        · exact wf_hwaitEnd h _ _ _ _ hf
        · next hq =>
          cases hf
          exact wf_query h _ _ _ _ _ hq

theorem Memory.wf_execHtest {s : State} (h : Memory.wf s) (i : Slots) {s' : State} (ht : execHtest i s = .next s') :
    Memory.wf s' := by
  revert ht
  unfold execHtest
  refine wf_runH h (fun k s1 b => ?_) (fun k s1 b => ?_)
  · split
    · exact error_ne_ok
    · split
      · exact of_ok_fst (wf_modGroup (wf_ite (wf_acquire h ..) h) _ _ _)
      · split
        · exact of_ok_fst (wf_modGroup (wf_ite (wf_acquire h ..) h) _ _ _)
        · next he2 =>
            exact of_ok_fst (wf_query h _ _ _ _ _ he2)
  · split
    · exact of_error_snd h
    · split
      · exact ok_ne_error
      · split
        · exact ok_ne_error
        · exact ok_ne_error

theorem Memory.wf_release_ {s : State} (hs : Memory.wf s) (h : Nat) : Memory.wf (State.release_ s h) := by
  unfold State.release_
  split
  · exact wf_ite (wf_freeEntry hs ..) hs
  · exact hs

theorem Memory.wf_home_ {s : State} (hs : Memory.wf s) (part dev h : Nat) : Memory.wf (State.home_ s part dev h) :=
  wf_modPart hs ..

theorem Memory.wf_execHrel {s : State} (h : Memory.wf s) (i : Slots) {s' : State} (ht : execHrel i s = .next s') :
    Memory.wf s' := by
  refine wf_runH h (fun k s1 b hf => ?_) (fun k s1 b hf => ?_) ht
  · split at hf
    · cases hf
    · have h1 := wf_clearIdem h k.tid
      dsimp only at hf
      split at hf <;> cases hf
      · split
        · exact h1
        · exact wf_release_ h1 _
      · refine wf_getD (fun x hx => ?_) h1
        refine wf_send ?_ _ _ _ hx
        exact h1
  · split at hf
    · cases hf
      exact h
    · dsimp only at hf
      split at hf <;> cases hf

theorem Memory.wf_execHget {s : State} (h : Memory.wf s) (i : Slots) {s' : State} (ht : execHget i s = .next s') :
    Memory.wf s' := by
  revert ht
  unfold execHget
  refine wf_runH h (fun k s1 b => ?_) (fun k s1 b => ?_)
  · split
    · exact error_ne_ok
    · split
      · exact of_ok_fst (wf_modGroup h ..)
      · split
        · split
          · exact of_ok_fst (wf_modGroup h ..)
          · exact error_ne_ok
        · dsimp only
          split
          · exact of_ok_fst (wf_modGroup h ..)
          · next he3 =>
              exact of_ok_fst (wf_query h _ _ _ _ _ he3)
  · split
    · exact of_error_snd h
    · split
      · exact ok_ne_error
      · split
        · split
          · exact ok_ne_error
          · exact of_error_snd h
        · dsimp only
          split
          · exact ok_ne_error
          · exact ok_ne_error

theorem Memory.wf_releaseGrid {s : State} (h : Memory.wf s) (part launch : Nat) :
    Memory.wf (State.releaseGrid s part launch) := by
  unfold State.releaseGrid
  exact wf_modPart (wf_foldl (fun s1 a h1 => wf_releaseSteps h1 ..) _ (wf_foldl (fun s1 a h1 => wf_writeMap h1 ..) _ h)) _ _

theorem Memory.wf_execInvocationResultReady {s : State} (h : Memory.wf s) (part launch : Nat) {s' : State}
    (ht : execInvocationResultReady part launch s = .next s') : Memory.wf s' := by
  revert ht
  unfold execInvocationResultReady
  split
  · exact fault_ne_next
  · split
    · exact fault_ne_next
    · exact of_ite fault_ne_next (of_ite (of_next (wf_ite h (wf_modPart (wf_releaseGrid h ..) _ _))) (of_next (wf_hSettle
        (wf_dropGrid (wf_ite h (wf_modPart (wf_releaseGrid h ..) _ _)) _ _) _)))

/-! ## Endpoints -/

theorem Memory.wf_mailPut {s : State} (h : Memory.wf s) (base w0 : Nat) (body : List Byte) :
    Memory.wf (State.mailPut s base w0 body) := by
  unfold State.mailPut
  exact wf_hostWrite (wf_hostWrite h ..) _ _

theorem Memory.wf_flushMail (p c n : Nat) {s : State} (h : Memory.wf s) : Memory.wf (s.flushMail p c n) := by
  induction n generalizing s with
  | zero => exact h
  | succ n ih =>
    rw [State.flushMail]
    split
    · exact h
    · exact ih (wf_modCtx (wf_mailPut h ..) p c _)

theorem Memory.wf_owePost {s : State} (h : Memory.wf s) (p c base w0 : Nat) (body : List Byte) (counts : Bool) :
    Memory.wf (State.owePost s p c base w0 body counts) := by
  unfold State.owePost
  exact wf_flushMail _ _ _ (wf_modCtx h ..)

theorem Memory.wf_unitSend {s : State} (h : Memory.wf s) (p : Packet) : Memory.wf (State.unitSend s p) := by
  unfold State.unitSend
  split
  · exact h
  · exact wf_sendAny (wf_of_fields (h := h)) _ _

theorem Memory.wf_enterQueue {s : State} (h : Memory.wf s) (p c : Nat) (m : Msg) :
    Memory.wf (State.enterQueue s p c m).2.2 := by
  unfold State.enterQueue
  split
  · dsimp only
    split
    · exact wf_pair_snd h
    · split
      · exact wf_pair_snd (wf_modCtx h ..)
      · exact wf_pair_snd (wf_modCtx h ..)
  · dsimp only
    split
    · exact wf_pair_snd h
    · split
      · exact wf_pair_snd (wf_modCtx h ..)
      · exact wf_pair_snd (wf_modCtx h ..)

theorem Memory.wf_toPeer {s : State} (h : Memory.wf s) (p c : Nat) (m : Msg) (bytes : List Byte) (standin : Bool)
    (status : Nat) : Memory.wf (State.toPeer s p c m bytes standin status) := by
  unfold State.toPeer
  split
  · exact h
  · exact wf_ite (wf_ite (wf_enterQueue h ..) h) (wf_unitSend h ..)

theorem Memory.wf_unitRead {s : State} (h : Memory.wf s) (part dev pa : Nat) (why : ReqFor) :
    Memory.wf (State.unitRead s part dev pa why) := by
  unfold State.unitRead
  split
  · exact h
  · exact wf_sendAny (wf_of_fields (h := h)) _ _

theorem Memory.wf_standinOut {s : State} (h : Memory.wf s) (p c : Nat) (m : Msg) (bs : Option (List Byte)) :
    Memory.wf (State.standinOut s p c m bs) := by
  unfold State.standinOut
  split
  · dsimp only
    split
    · exact wf_owePost h ..
    · exact wf_owePost h ..
  · split
    · exact wf_toPeer (wf_modCtx h ..) _ _ _ _ _ _
    · exact wf_toPeer h ..

theorem Memory.wf_standinGo {s : State} (h : Memory.wf s) (p c : Nat) (r : StandRead) :
    Memory.wf (State.standinGo s p c r) := by
  unfold State.standinGo
  exact wf_ite (wf_modCtx h ..) (wf_standinOut h ..)

theorem Memory.wf_sendStandin {s : State} (h : Memory.wf s) (p c : Nat) (m : Msg) :
    Memory.wf (State.sendStandin s p c m) := by
  unfold State.sendStandin
  grind -ring -linarith -lia -ac [wf_modCtx, wf_servedErr, wf_standinGo, wf_standinOut, wf_unitRead, wf_foldl, wf_foldl_fst]

theorem Memory.wf_standinSector {s : State} (h : Memory.wf s) (p c ident sector status : Nat) (bs : List Byte) :
    Memory.wf (State.standinSector s p c ident sector status bs) := by
  unfold State.standinSector
  split
  · exact h
  · exact wf_ite (wf_standinOut (wf_modCtx h ..) _ _ _ _) (wf_standinGo (wf_modCtx h ..) _ _ _)

theorem Memory.wf_arrive {s : State} (h : Memory.wf s) (p c : Nat) (m : Msg) : Memory.wf (State.arrive s p c m).2.2 := by
  unfold State.arrive
  split
  · exact wf_pair_snd h
  · dsimp only
    split
    · split
      · exact wf_pair_snd (wf_sendStandin (wf_enterQueue h ..) _ _ _)
      · exact wf_enterQueue h ..
    · exact wf_enterQueue h ..

theorem Memory.wf_arriveFrom {s : State} (h : Memory.wf s) (p c : Nat) (m : Msg) :
    Memory.wf (State.arriveFrom s p c m).2.2 := by
  unfold State.arriveFrom
  split
  · exact wf_arrive h ..
  · exact wf_pair_snd h

theorem Memory.wf_sendDone {s : State} (h : Memory.wf s) (tid g id : Nat) (d : Operand) (v : Nat) :
    Memory.wf (State.sendDone s tid g id d v) :=
  h

theorem Memory.wf_epGo {s : State} (h : Memory.wf s) (k : Iss) (id ep : Nat) (d : Operand) (ask reply : Bool) (ident : Nat)
    (bs : List Byte) : Memory.wf (State.epGo s k id ep d ask reply ident bs).1 := by
  unfold State.epGo
  refine wf_ite_fst (wf_ite_fst (wf_pair_fst (wf_flushMail _ _ _ (wf_of_fields (h := h)))) (wf_pair_fst (wf_ite (wf_modCtx
    (wf_ite (wf_modCtx (wf_mailPut (wf_flushMail _ _ _ (wf_of_fields (h := h))) _ _ _) _ _ _) (wf_mailPut (wf_flushMail _ _
    _ (wf_of_fields (h := h))) _ _ _)) _ _ _) (wf_ite (wf_modCtx (wf_mailPut (wf_flushMail _ _ _ (wf_of_fields (h := h))) _
    _ _) _ _ _) (wf_mailPut (wf_flushMail _ _ _ (wf_of_fields (h := h))) _ _ _))))) (wf_ite_fst (wf_pair_fst (wf_ite (wf_ite
    (wf_modCtx (wf_arriveFrom (wf_of_fields (h := h)) _ _ _) _ _ _) (wf_arriveFrom (wf_of_fields (h := h)) _ _ _))
    (wf_arriveFrom (wf_of_fields (h := h)) _ _ _))) ?_)
  split
  · split
    · split
      · dsimp only
        split
        · exact wf_pair_fst (wf_of_fields (h := h))
        · next he2 =>
            exact wf_pair_fst (wf_request (wf_of_fields (h := h)) _ _ _ _ he2)
      · dsimp only
        split
        · exact wf_pair_fst (wf_of_fields (h := h))
        · next he2 =>
            exact wf_pair_fst (wf_request (wf_of_fields (h := h)) _ _ _ _ he2)
    · dsimp only
      split
      · exact wf_pair_fst (wf_of_fields (h := h))
      · next he1 =>
          exact wf_pair_fst (wf_request (wf_of_fields (h := h)) _ _ _ _ he1)
  · dsimp only
    split
    · exact wf_pair_fst (wf_of_fields (h := h))
    · next he =>
        exact wf_pair_fst (wf_request (wf_of_fields (h := h)) _ _ _ _ he)

theorem Memory.wf_execEpsend {s : State} (h : Memory.wf s) (i : Slots) {s' : State} (ht : execEpsend i s = .next s') :
    Memory.wf s' := by
  refine wf_runH h (fun k s1 b hf => ?_) (fun k s1 b hf => ?_) ht
  · dsimp only at hf
    split at hf
    · cases hf
    · split at hf
      · cases hf
      · next hr =>
        cases hf
        exact wf_gather_ok h _ _ _ _ hr
      · next bs s2 hr =>
        split at hf
        · cases hf
        · have h3 : Memory.wf ((s2.newOp.2.modGroup k.tid k.g fun g => g.addOp s2.newOp.1 .col).clearIdem k.tid) :=
            wf_clearIdem (wf_modGroup (wf_newOp (wf_gather_ok h _ _ _ _ hr)) ..) _
          have hgo (ep id d ask reply ident) := wf_epGo h3 k id ep d ask reply ident bs
          grind -ring -linarith -lia -ac [wf_sendDone, wf_modCtx, State.newOp]
  · dsimp only at hf
    split at hf
    · cases hf
      exact h
    · split at hf
      · next hr =>
        cases hf
        exact wf_gather_error h _ _ _ _ hr
      · cases hf
      · split at hf
        · cases hf
          exact h
        · split at hf
          · cases hf
          · split at hf
            · split at hf
              · cases hf
              · split at hf <;> cases hf
            · cases hf

theorem Memory.wf_execEpsendComplete {s : State} (h : Memory.wf s) (tid g id : Nat) {s' : State}
    (ht : execEpsendComplete tid g id s = .next s') : Memory.wf s' := by
  revert ht
  unfold execEpsendComplete
  split
  · exact fault_ne_next
  · exact of_next (wf_giveHandle (wf_of_fields (h := h)) _ _)

theorem Memory.wf_putLocal {s : State} (h : Memory.wf s) (core : Nat) (l : Loc) (bs : List Byte) :
    Memory.wf (State.putLocal s core l bs) := by
  unfold State.putLocal
  split
  · exact wf_spadWrite h ..
  · exact wf_engineWrite h ..
  · exact h

theorem Memory.wf_putFar {s : State} (h : Memory.wf s) (core part dev pa : Nat) (bs : List Byte) (why : ReqFor) :
    Memory.wf (State.putFar s core part dev pa bs why) := by
  unfold State.putFar
  exact wf_getD (fun x => wf_request h _ _ _ _) h

theorem Memory.wf_recvRegs {s : State} (h : Memory.wf s) (k : Iss) (n : Nat) (w stamp : W64) :
    Memory.wf (State.recvRegs s k n w stamp) :=
  wf_modGroup h ..

theorem Memory.wf_takeMsg {s : State} (h : Memory.wf s) (k : Iss) (ep va : Nat) (ls : List Loc) (m : Msg) (rest : List Msg) :
    Memory.wf (State.takeMsg s k ep va ls m rest) := by
  unfold State.takeMsg
  refine wf_foldl (fun s1 a h1 => ?_) _ (wf_clearIdem (wf_modCtx h ..) _)
  dsimp only
  split
  · exact wf_putFar h1 ..
  · exact wf_putLocal h1 ..
  · exact h1

theorem Memory.wf_execEprecv {s : State} (h : Memory.wf s) (i : Slots) {s' : State} (ht : execEprecv i s = .next s') :
    Memory.wf s' := by
  revert ht
  unfold execEprecv
  refine wf_runH h (fun k s1 b => ?_) (fun k s1 b => ?_)
  · split
    · exact error_ne_ok
    · split
      · next he1 =>
          split
          · split
            · dsimp only
              split
              · split
                · exact of_ok_fst (wf_takeMsg h ..)
                · exact of_ok_fst (wf_recvRegs (wf_takeMsg h ..) _ _ _ _)
              · exact of_ok_fst h
            · dsimp only
              split
              · split
                · exact of_ok_fst (wf_takeMsg h ..)
                · exact of_ok_fst (wf_recvRegs (wf_takeMsg h ..) _ _ _ _)
              · exact of_ok_fst h
          · split
            · dsimp only
              split
              · split
                · exact of_ok_fst (wf_takeMsg h ..)
                · exact of_ok_fst (wf_recvRegs (wf_takeMsg h ..) _ _ _ _)
              · split
                · exact of_ok_fst (wf_recvRegs (wf_of_snd he1 (wf_draw h)) _ _ _ _)
                · exact of_ok_fst h
            · dsimp only
              split
              · exact of_ok_fst h
              · split
                · exact of_ok_fst (wf_recvRegs h ..)
                · exact of_ok_fst h
  · split
    · exact of_error_snd h
    · split
      · split
        · split
          · dsimp only
            split
            · split
              · exact ok_ne_error
              · exact ok_ne_error
            · exact ok_ne_error
          · dsimp only
            split
            · split
              · exact ok_ne_error
              · exact ok_ne_error
            · exact ok_ne_error
        · split
          · dsimp only
            split
            · split
              · exact ok_ne_error
              · exact ok_ne_error
            · split
              · exact ok_ne_error
              · exact ok_ne_error
          · dsimp only
            split
            · exact ok_ne_error
            · split
              · exact ok_ne_error
              · exact ok_ne_error

theorem Memory.wf_execEpstand {s : State} (h : Memory.wf s) (i : Slots) {s' : State} (ht : execEpstand i s = .next s') :
    Memory.wf s' := by
  revert ht
  unfold execEpstand
  exact wf_runS h (fun k s1 => of_ite error_ne_ok (of_ite error_ne_ok (of_ok (wf_clearIdem (wf_modCtx h ..) _))))

theorem Memory.wf_showMsg {s : State} (h : Memory.wf s) (p c : Nat) (m : Msg) : Memory.wf (State.showMsg s p c m) := h

theorem Memory.wf_execBrineVisible {s : State} (h : Memory.wf s) (part ctx : Nat) {s' : State}
    (ht : execBrineVisible part ctx s = .next s') : Memory.wf s' := by
  revert ht
  unfold execBrineVisible
  split
  · exact fault_ne_next
  · exact of_next (wf_showMsg h ..)

theorem Memory.wf_expire {s : State} (h : Memory.wf s) (p c : Nat) (m : Msg) : Memory.wf (State.expire s p c m) := by
  unfold State.expire
  exact wf_ite (wf_modCtx h ..) (wf_sendStandin h ..)

theorem Memory.wf_execPatienceExpiry {s : State} (h : Memory.wf s) (part ctx ident : Nat) {s' : State}
    (ht : execPatienceExpiry part ctx ident s = .next s') : Memory.wf s' := by
  revert ht
  unfold execPatienceExpiry
  split
  · exact fault_ne_next
  · exact of_ite fault_ne_next (of_next (wf_expire h ..))

theorem Memory.wf_showDue (p c n : Nat) {s : State} (h : Memory.wf s) : Memory.wf (s.showDue p c n) := by
  induction n generalizing s with
  | zero => exact h
  | succ n ih =>
    rw [State.showDue]
    split
    · exact h
    · exact ih (wf_showMsg h p c _)

theorem Memory.wf_msgCycle {s : State} (h : Memory.wf s) (p c : Nat) : Memory.wf (State.msgCycle s p c) := by
  unfold State.msgCycle
  exact wf_foldl (fun s1 a h1 => wf_expire h1 ..) _ (wf_showDue _ _ _ h)

theorem Memory.wf_msgCycles {s : State} (h : Memory.wf s) : Memory.wf (State.msgCycles s) := by
  unfold State.msgCycles
  exact wf_foldl (fun s1 a h1 => wf_foldl (fun s2 a1 h2 => wf_ite (wf_msgCycle h2 ..) h2) _ h1) _ h

theorem Memory.wf_execStandinDeferredWrite {s : State} (h : Memory.wf s) (part ctx : Nat) {s' : State}
    (ht : execStandinDeferredWrite part ctx s = .next s') : Memory.wf s' := by
  revert ht
  unfold execStandinDeferredWrite
  split
  · exact fault_ne_next
  · exact of_next (wf_flushMail _ _ _ h)

theorem Memory.wf_hostAnswer {s : State} (h : Memory.wf s) (rec status ident : Nat) :
    Memory.wf (State.hostAnswer s rec status ident) := by
  unfold State.hostAnswer
  exact wf_hostWrite h ..

theorem Memory.wf_execEppostWrite {s : State} (h : Memory.wf s) (part : Nat) (addr : W64) {s' : State}
    (ht : execEppostWrite part addr s = .next s') : Memory.wf s' := by
  revert ht
  unfold execEppostWrite
  exact of_ite (of_next (wf_hostAnswer h ..)) (of_ite (of_next (wf_hostAnswer h ..)) (of_next (wf_hostAnswer (wf_ite
    (wf_modCtx (wf_arrive h ..) _ _ _) (wf_arrive h ..)) _ _ _)))

theorem Memory.wf_epReset {s : State} (h : Memory.wf s) (p : Nat) : Memory.wf (State.epReset s p) := by
  unfold State.epReset
  refine wf_foldl (fun s1 a h1 => wf_modCtx (wf_foldl (fun s2 a1 h2 => ?_) _ h1) _ _ _) _ h
  split
  · exact wf_owePost h2 ..
  · exact wf_ite h2 (wf_toPeer h2 ..)

/-! ## Collect -/

theorem Memory.wf_modColl {s : State} (h : Memory.wf s) (tid g id : Nat) (f : Coll → Coll) :
    Memory.wf (State.modColl s tid g id f) :=
  h

theorem Memory.wf_abortColls {s : State} (h : Memory.wf s) (part gen dev mpart keep : Nat) :
    Memory.wf (State.abortColls s part gen dev mpart keep) :=
  h

theorem Memory.wf_failColl {s : State} (h : Memory.wf s) (c : Coll) (status : Nat) :
    Memory.wf (State.failColl s c status) := by
  unfold State.failColl
  exact wf_foldl (fun s1 a h1 => wf_ite (wf_abortColls h1 ..) (wf_unitSend h1 ..)) _ (wf_modColl h ..)

theorem Memory.wf_collArrive1 {s : State} (h : Memory.wf s) (p : Packet) : Memory.wf (State.collArrive1 s p) := by
  unfold State.collArrive1
  refine wf_ite (wf_ite (wf_abortColls h ..) (wf_of_fields (h := h))) ?_
  split
  · exact wf_of_fields (h := h)
  · exact wf_ite (wf_failColl h ..) (wf_ite (wf_modColl h ..) (wf_modColl h ..))

theorem Memory.wf_collRoot {s : State} (h : Memory.wf s) (c : Coll) : Memory.wf (State.collRoot s c) := by
  unfold State.collRoot
  exact wf_ite h (wf_foldl (fun s1 a h1 => wf_ite h1 (wf_foldl (fun s2 a1 h2 => wf_ite (wf_collArrive1 h2 ..) (wf_getD (fun
    x => wf_send h2 _ _ _) h2)) _ h1)) _ (wf_modColl h ..))

theorem Memory.wf_collRoots {s : State} (h : Memory.wf s) : Memory.wf (State.collRoots s) := by
  unfold State.collRoots
  refine wf_foldl (fun s1 a h1 => ?_) _ h
  split
  · exact wf_collRoot h1 ..
  · exact h1

theorem Memory.wf_collArrive {s : State} (h : Memory.wf s) (p : Packet) : Memory.wf (State.collArrive s p) := by
  unfold State.collArrive
  exact wf_collRoots (wf_collArrive1 h ..)

theorem Memory.wf_collAgain {s : State} (h : Memory.wf s) : Memory.wf (State.collAgain s) := by
  unfold State.collAgain
  exact wf_collRoots (wf_foldl (fun s1 a h1 => wf_collArrive1 h1 ..) _ (wf_of_fields (h := h)))

theorem Memory.wf_joinColl {s1 : State} (h : Memory.wf s1) (core : Nat) (c : Coll) (data : Option (List Byte)) :
    Memory.wf (State.joinColl s1 core c data) := by
  unfold State.joinColl
  exact wf_ite h (wf_ite (wf_failColl h ..) (wf_ite (wf_failColl h ..) (wf_ite (wf_failColl h ..) (wf_collAgain (wf_ite
    (wf_modColl h ..) (wf_foldl (fun s a h1 => wf_ite (wf_collArrive1 h1 ..) (wf_getD (fun x => wf_send h1 _ _ _) h1)) _
    h))))))

theorem Memory.wf_countColl {s : State} (h : Memory.wf s) (part gen : Nat) (ms : List Nat) (self : Nat) :
    Memory.wf (State.countColl s part gen ms self) :=
  h

theorem Memory.wf_collStart {s : State} (h : Memory.wf s) (k : Iss) (c : Coll) (va n : Nat) :
    Memory.wf (State.collStart s k c va n) := by
  unfold State.collStart
  exact wf_ite (wf_joinColl (wf_of_fields (h := h)) _ _ _) (wf_of_fields (h := h))

theorem Memory.wf_execColl {s : State} (h : Memory.wf s) (i : RdI) {s' : State} (ht : execColl i s = .next s') :
    Memory.wf s' := by
  refine wf_runH h (fun k s1 b hf => ?_) (fun k s1 b hf => ?_) ht
  · dsimp only at hf
    split at hf
    · cases hf
    · next hr =>
      cases hf
      exact wf_readRec_ok h _ _ _ _ _ hr
    · next hr =>
      have h1 := wf_readRec_ok h _ _ _ _ _ hr
      split at hf
      · cases hf
      · split at hf
        · cases hf
        · next hg =>
          cases hf
          exact wf_gather_ok h1 _ _ _ _ hg
        · next hg =>
          have h2 := wf_gather_ok h1 _ _ _ _ hg
          split at hf
          · cases hf
          · split at hf <;> cases hf
            exact wf_collStart (wf_countColl (wf_clearIdem (wf_modGroup (wf_newOp h2) ..) _) ..) ..
  · dsimp only at hf
    split at hf
    · next hr =>
      cases hf
      exact wf_readRec_error h _ _ _ _ _ hr
    · cases hf
    · next hr =>
      have h1 := wf_readRec_ok h _ _ _ _ _ hr
      split at hf
      · cases hf
        exact h1
      · split at hf
        · next hg =>
          cases hf
          exact wf_gather_error h1 _ _ _ _ hg
        · cases hf
        · next hg =>
          split at hf
          · cases hf
            exact wf_gather_ok h1 _ _ _ _ hg
          · split at hf <;> cases hf
            exact h

theorem Memory.wf_collWrite {s : State} (h : Memory.wf s) (core : Nat) (c : Coll) (ps : List (Loc × Nat × Nat))
    (bs : List Byte) : Memory.wf (State.collWrite s core c ps bs) := by
  unfold State.collWrite
  refine wf_foldl (fun s1 a h1 => ?_) _ (wf_modColl h ..)
  dsimp only
  split
  · exact wf_modColl (wf_putFar h1 ..) _ _ _ _
  · exact wf_putLocal h1 ..

theorem Memory.wf_collEnd {s : State} (h : Memory.wf s) (c : Coll) : Memory.wf (State.collEnd s c) := by
  unfold State.collEnd
  exact wf_giveHandle (wf_ite (wf_modGroup (wf_ite (wf_modPart (wf_of_fields (h := h)) _ _) (wf_of_fields (h := h))) _ _ _)
    (wf_ite (wf_modPart (wf_of_fields (h := h)) _ _) (wf_of_fields (h := h)))) _ _

theorem Memory.wf_execCollComplete {s : State} (h : Memory.wf s) (tid g id : Nat) {s' : State}
    (ht : execCollComplete tid g id s = .next s') : Memory.wf s' := by
  revert ht
  unfold execCollComplete
  split
  · exact fault_ne_next
  · refine of_ite fault_ne_next (of_ite (of_next (wf_collEnd h ..)) ?_)
    split
    · exact fault_ne_next
    · split
      · exact of_next (wf_failColl h ..)
      · refine of_ite fault_ne_next ?_
        dsimp only
        split
        · exact of_next (wf_ite (wf_collEnd (wf_collWrite h ..) _) (wf_collWrite h ..))
        · exact of_next (wf_collWrite h ..)

/-! ## Sources -/

theorem Memory.wf_modSrc {s : State} (h : Memory.wf s) (id : Nat) (f : SrcRead → SrcRead) : Memory.wf (State.modSrc s id f) :=
  h

theorem Memory.wf_srcFails {s : State} (h : Memory.wf s) (r : SrcRead) : Memory.wf (State.srcFails s r) := by
  unfold State.srcFails
  dsimp only
  split
  · exact wf_invGo _ (wf_giveHandle (wf_dropSrc h ..) _ _)
  · split
    · exact wf_joinColl (wf_dropSrc h ..) _ _ _
    · exact wf_dropSrc h ..

theorem Memory.wf_srcGo {s : State} (h : Memory.wf s) (id : Nat) : Memory.wf (State.srcGo s id) := by
  unfold State.srcGo
  split
  · exact h
  · refine wf_ite h ?_
    split
    · exact wf_invGo _ h
    · split
      · exact wf_joinColl (wf_dropSrc h ..) _ _ _
      · exact wf_dropSrc h ..

theorem Memory.wf_srcPut {s : State} (h : Memory.wf s) (id i : Nat) (bs : List Byte) :
    Memory.wf (State.srcPut s id i bs) := by
  unfold State.srcPut
  exact wf_srcGo (wf_modSrc h ..) _

theorem Memory.wf_srcSector {s : State} (h : Memory.wf s) (t : Team) (r : SrcRead) (i : Nat) :
    Memory.wf (State.srcSector s t r i) := by
  unfold State.srcSector
  split
  · exact wf_srcFails h ..
  · dsimp only
    split
    · exact wf_srcFails (wf_readErr h ..) _
    · exact wf_srcPut (wf_readErr h ..) _ _ _
    · exact wf_srcPut (wf_readMem (wf_readErr h ..) _ _ _ _ _) _ _ _
    · refine wf_ite (wf_srcPut (wf_readErr h ..) _ _ _) ?_
      split
      · next he2 =>
          exact wf_modSrc (wf_request (wf_readErr h ..) _ _ _ _ he2) _ _
      · exact wf_srcFails (wf_readErr h ..) _

theorem Memory.wf_srcAnswer {s : State} (h : Memory.wf s) (id i status : Nat) (bs : List Byte) :
    Memory.wf (State.srcAnswer s id i status bs) := by
  unfold State.srcAnswer
  split
  · exact h
  · exact wf_ite (wf_srcFails h ..) (wf_srcPut h ..)

theorem Memory.wf_srcMove {s : State} (h : Memory.wf s) (core i : Nat) (r : SrcRead) {s' : State}
    (ht : State.srcMove s core i r = .next s') : Memory.wf s' := by
  revert ht
  unfold State.srcMove
  split
  · exact fault_ne_next
  · exact of_ite fault_ne_next (of_next (wf_srcSector h ..))

theorem Memory.wf_execCopySectorWrite {s : State} (h : Memory.wf s) (core id sector : Nat) (readOnly : Bool) {s' : State}
    (ht : execCopySectorWrite core id sector readOnly s = .next s') : Memory.wf s' := by
  revert ht
  unfold execCopySectorWrite
  split
  · exact of_ite (wf_srcMove h _ _ _) fault_ne_next
  · exact wf_copyMove h _ _ _ _

/-! ## Packets -/

theorem Memory.wf_onPacket {kind : Nat} {p : Packet} {f : Unit → State} (hf : Memory.wf (f ())) {t : State}
    (ht : onPacket kind p f = .next t) : Memory.wf t := by
  revert ht
  unfold onPacket
  exact of_ite (of_next hf) fault_ne_next

theorem Memory.wf_execMalformedPacket {s : State} (h : Memory.wf s) (p : Packet) {s' : State}
    (ht : execMalformedPacket p s = .next s') : Memory.wf s' := by
  revert ht
  unfold execMalformedPacket
  exact of_ite fault_ne_next (of_next h)

theorem Memory.wf_promoteRange {s : State} (h : Memory.wf s) (pa n : Nat) : Memory.wf (State.promoteRange s pa n) := by
  unfold State.promoteRange
  exact wf_foldl (fun s1 a h1 => wf_promote h1 ..) _ h

theorem Memory.wf_onRequest {s : State} (h : Memory.wf s) {kind : Nat} {p : Packet} {f : State → State}
    (hf : ∀ x, Memory.wf x → Memory.wf (f x)) {t : State} (ht : s.onRequest kind p f = .next t) : Memory.wf t := by
  unfold State.onRequest at ht
  grind -ring -linarith -lia -ac [wf_onPacket, State.memOk]

theorem Memory.wf_execReadRequest {s : State} (h : Memory.wf s) (p : Packet) {s' : State}
    (ht : execReadRequest p s = .next s') : Memory.wf s' := by
  revert ht
  unfold execReadRequest
  refine wf_onRequest h (fun x h1 => ?_)
  dsimp only
  split
  · exact wf_respond h1 ..
  · exact wf_ite (wf_respond (wf_servedErr h1 ..) _ _ _ _ _ _ _) (wf_respond (wf_promoteRange (wf_servedErr h1 ..) _ _) _ _
      _ _ _ _ _)

theorem Memory.wf_applyWrite {s : State} (h : Memory.wf s) (part : Nat) (p : Packet) :
    Memory.wf (State.applyWrite s part p) := by
  unfold State.applyWrite
  exact wf_foldl (fun s1 a h1 => wf_ite (wf_homeSet h1 ..) h1) _ h

theorem Memory.wf_execWritePacket {s : State} (h : Memory.wf s) (p : Packet) {s' : State}
    (ht : execWritePacket p s = .next s') : Memory.wf s' := by
  revert ht
  unfold execWritePacket
  refine wf_onRequest h (fun x h1 => ?_)
  dsimp only
  split
  · exact wf_respond (wf_ite (wf_of_fields (h := h1)) h1) _ _ _ _ _ _ _
  · exact wf_ite (wf_respond (wf_applyWrite h1 ..) _ _ _ _ _ _ _) (wf_applyWrite h1 ..)

theorem Memory.wf_execAtomicRequest {s : State} (h : Memory.wf s) (p : Packet) {s' : State}
    (ht : execAtomicRequest p s = .next s') : Memory.wf s' := by
  revert ht
  unfold execAtomicRequest
  refine wf_onRequest h (fun x h1 => ?_)
  dsimp only
  split
  · exact wf_respond h1 ..
  · exact wf_ite (wf_respond (wf_servedErr h1 ..) _ _ _ _ _ _ _) (wf_respond (wf_homeWrite (wf_promoteRange (wf_servedErr h1
      ..) _ _) _ _ _) _ _ _ _ _ _ _)

theorem Memory.wf_execShroudMarker {s : State} (h : Memory.wf s) (p : Packet) {s' : State}
    (ht : execShroudMarker p s = .next s') : Memory.wf s' := by
  revert ht
  unfold execShroudMarker
  exact wf_onPacket (wf_ite (wf_of_fields (h := h)) (wf_respond (wf_of_fields (h := h)) _ _ _ _ _ _ _))

theorem Memory.wf_marked {s : State} (h : Memory.wf s) (r : Release) (dev : Nat) : Memory.wf (State.marked s r dev) := h

theorem Memory.wf_execMarkerAcknowledgement {s : State} (h : Memory.wf s) (p : Packet) {s' : State}
    (ht : execMarkerAcknowledgement p s = .next s') : Memory.wf s' := by
  revert ht
  unfold execMarkerAcknowledgement
  refine wf_onPacket ?_
  dsimp only
  split
  · exact h
  · exact wf_relAdvance (wf_ite (wf_raiseLater (wf_marked h ..) _ _ _ _ _ _ _ _) (wf_marked h ..)) _

theorem Memory.wf_dropReqs {s : State} (h : Memory.wf s) (p : Packet) : Memory.wf (State.dropReqs s p) := h

theorem Memory.wf_loadAnswer {s : State} (h : Memory.wf s) (tid g id lane : Nat) (bs : List Byte) :
    Memory.wf (State.loadAnswer s tid g id lane bs) := by
  unfold State.loadAnswer
  exact wf_acquired (wf_modGroup h ..) _ _ _

theorem Memory.wf_copyAnswer {s : State} (h : Memory.wf s) (core id key status : Nat) (bs : List Byte) :
    Memory.wf (State.copyAnswer s core id key status bs) :=
  h

theorem Memory.wf_didxAnswer {s : State} (h : Memory.wf s) (core known status : Nat) (bs : List Byte) :
    Memory.wf (State.didxAnswer s core known status bs) :=
  h

theorem Memory.wf_execReadResponse {s : State} (h : Memory.wf s) (p : Packet) {s' : State}
    (ht : execReadResponse p s = .next s') : Memory.wf s' := by
  revert ht
  unfold execReadResponse
  refine wf_onPacket (wf_foldl (fun s1 a h1 => ?_) _ (wf_dropReqs h ..))
  split
  · exact wf_ite (wf_refuseLoad h1 ..) (wf_loadAnswer h1 ..)
  · exact wf_copyAnswer h1 ..
  · exact wf_didxAnswer h1 ..
  · exact wf_modGroup h1 ..
  · exact wf_srcAnswer h1 ..
  · exact wf_standinSector h1 ..
  · exact h1

theorem Memory.wf_copyApplied {s : State} (h : Memory.wf s) (core id sector : Nat) :
    Memory.wf (State.copyApplied s core id sector) := by
  unfold State.copyApplied
  exact wf_creditRun (wf_modCopy h ..) _ _ _

theorem Memory.wf_execWriteApplied {s : State} (h : Memory.wf s) (p : Packet) {s' : State}
    (ht : execWriteApplied p s = .next s') : Memory.wf s' := by
  revert ht
  unfold execWriteApplied
  refine of_ite fault_ne_next (wf_onPacket (wf_foldl (fun s1 a h1 => ?_) _ (wf_dropReqs h ..)))
  split
  · exact wf_copyApplied h1 ..
  · exact wf_modColl h1 ..
  · exact h1

theorem Memory.wf_execAtomicResponse {s : State} (h : Memory.wf s) (p : Packet) {s' : State}
    (ht : execAtomicResponse p s = .next s') : Memory.wf s' := by
  revert ht
  unfold execAtomicResponse
  refine wf_onPacket (wf_foldl (fun s1 a h1 => ?_) _ (wf_dropReqs h ..))
  split
  · exact wf_redSettle (wf_ite (wf_redFails h1 ..) h1) _ _ _
  · exact wf_ite (wf_refuseLoad h1 ..) (wf_acquired (wf_modGroup h1 ..) _ _ _)
  · exact h1

theorem Memory.wf_refuseColl {s : State} (h : Memory.wf s) (tid g id : Nat) : Memory.wf (State.refuseColl s tid g id) := by
  unfold State.refuseColl
  split
  · exact wf_failColl (wf_modColl h ..) _ _
  · exact h

theorem Memory.wf_execRefusal {s : State} (h : Memory.wf s) (p : Packet) {s' : State} (ht : execRefusal p s = .next s') :
    Memory.wf s' := by
  revert ht
  unfold execRefusal
  refine wf_onPacket (wf_foldl (fun s1 a h1 => ?_) _ (wf_dropReqs h ..))
  split
  · exact wf_refuseRef h1 ..
  · exact wf_modCopy h1 ..
  · exact wf_refuseColl h1 ..
  · exact wf_refuseRef h1 ..
  · exact h1

theorem Memory.wf_answerInv {s : State} (hs : Memory.wf s) (p : Packet) (h : Nat) : Memory.wf (State.answerInv s p h) :=
  wf_respond hs ..

theorem Memory.wf_execInvocation {s : State} (h : Memory.wf s) (p : Packet) {s' : State} (ht : execInvocation p s = .next s')
    : Memory.wf s' := by
  revert ht
  unfold execInvocation
  refine wf_onPacket ?_
  dsimp only
  split
  · exact wf_answerInv h ..
  · next he =>
      exact wf_runNow (wf_answerInv (wf_accept h _ he) _ _) _

theorem Memory.wf_execForwardedInvocation {s : State} (h : Memory.wf s) (p : Packet) {s' : State}
    (ht : execForwardedInvocation p s = .next s') : Memory.wf s' := by
  revert ht
  unfold execForwardedInvocation
  refine wf_onPacket ?_
  dsimp only
  split
  · next he =>
      exact wf_settleLate (wf_answerInv (wf_of_fst he (wf_arriveUp h ..)) _ _) _ _
  · next he =>
      exact wf_respond (wf_of_fst he (wf_arriveUp h ..)) _ _ _ _ _ _ _

theorem Memory.wf_handleQuery {s : State} (h : Memory.wf s) (p : Packet) : Memory.wf (State.handleQuery s p) := by
  unfold State.handleQuery
  dsimp only
  split
  · exact wf_ite (wf_setEntry h ..) (wf_answerQuery h ..)
  · exact wf_release_ h ..
  · exact wf_answerQuery h ..

theorem Memory.wf_resend {s0 : State} (h : Memory.wf s0) (core part : Nat) (r : Req) (tid g seq up : Nat) :
    Memory.wf (State.resend s0 core part r tid g seq up) := by
  unfold State.resend
  refine wf_foldl (fun s a h1 => ?_) _ (wf_of_fields (h := wf_ite (wf_setInvSeq h ..) h))
  split
  · dsimp only
    split
    · next he1 =>
        exact wf_request h1 _ _ _ _ he1
    · exact wf_giveHandle h1 ..
  · exact h1

theorem Memory.wf_execHandleAnswer {s : State} (h : Memory.wf s) (p : Packet) {s' : State}
    (ht : execHandleAnswer p s = .next s') : Memory.wf s' := by
  revert ht
  unfold execHandleAnswer
  refine wf_onPacket (wf_ite (wf_handleQuery h ..) ?_)
  split
  · exact h
  · split
    · split
      · exact wf_dropReqs h ..
      · exact wf_ite (wf_resend h ..) (wf_ite (wf_modPart (wf_giveHandle (wf_dropReqs h ..) _ _) _ _) (wf_giveHandle
          (wf_dropReqs h ..) _ _))
    · exact wf_ite (wf_unitSend (wf_dropReqs h ..) _) (wf_dropReqs h ..)
    · split
      · exact wf_dropReqs h ..
      · exact wf_ite (wf_modGroup (wf_ite (wf_acquire (wf_ite (wf_dropReqs h ..) (wf_home_ (wf_dropReqs h ..) _ _ _)) _ _ _)
          (wf_ite (wf_dropReqs h ..) (wf_home_ (wf_dropReqs h ..) _ _ _))) _ _ _) (wf_modGroup (wf_ite (wf_dropReqs h ..)
          (wf_home_ (wf_dropReqs h ..) _ _ _)) _ _ _)
    · exact h

theorem Memory.wf_execEndpointMessage {s : State} (h : Memory.wf s) (p : Packet) {s' : State}
    (ht : execEndpointMessage p s = .next s') : Memory.wf s' := by
  revert ht
  unfold execEndpointMessage
  exact wf_onPacket (wf_respond (wf_arriveFrom h ..) _ _ _ _ _ _ _)

theorem Memory.wf_execEndpointStatus {s : State} (h : Memory.wf s) (p : Packet) {s' : State}
    (ht : execEndpointStatus p s = .next s') : Memory.wf s' := by
  revert ht
  unfold execEndpointStatus
  refine wf_onPacket (wf_foldl (fun s1 a h1 => ?_) _ (wf_dropReqs h ..))
  split
  · split
    · exact h1
    · exact wf_sendDone (wf_ite (wf_modCtx h1 ..) h1) _ _ _ _ _
  · exact h1

theorem Memory.wf_execCollectiveContribution {s : State} (h : Memory.wf s) (p : Packet) {s' : State}
    (ht : execCollectiveContribution p s = .next s') : Memory.wf s' := by
  revert ht
  unfold execCollectiveContribution
  exact wf_onPacket (wf_collArrive h ..)

theorem Memory.wf_execCollectiveResult {s : State} (h : Memory.wf s) (p : Packet) {s' : State}
    (ht : execCollectiveResult p s = .next s') : Memory.wf s' := by
  revert ht
  unfold execCollectiveResult
  exact wf_onPacket (wf_collArrive h ..)

theorem Memory.wf_abortInv {s : State} (h : Memory.wf s) (p : Packet) : Memory.wf (State.abortInv s p) := by
  unfold State.abortInv
  grind -ring -linarith -lia -ac [wf_hSettle, wf_setEntry]

theorem Memory.wf_execAbort {s : State} (h : Memory.wf s) (p : Packet) {s' : State} (ht : execAbort p s = .next s') :
    Memory.wf s' := by
  revert ht
  unfold execAbort
  exact wf_onPacket (wf_ite (wf_collArrive h ..) (wf_abortInv h ..))

/-! ## DxpIsa -/

theorem Memory.wf_execDloop {s : State} (h : Memory.wf s) (i : Slots) {s' : State} (ht : execDloop i s = .next s') :
    Memory.wf s' := by
  revert ht
  unfold execDloop
  exact wf_runD h (fun k s1 pc => of_ite error_ne_ok (of_ite (of_ok_fst h) (of_ok_fst (wf_modDxp h ..))))

theorem Memory.wf_execDnext {s : State} (h : Memory.wf s) (i : Slots) {s' : State} (ht : execDnext i s = .next s') :
    Memory.wf s' := by
  revert ht
  unfold execDnext
  exact wf_runD h (fun k s1 pc => of_ite error_ne_ok (of_ok_fst (wf_modDxp h ..)))

theorem Memory.wf_execDidx {s : State} (h : Memory.wf s) (i : Slots) {s' : State} (ht : execDidx i s = .next s') :
    Memory.wf s' := by
  revert ht
  unfold execDidx
  refine wf_runDW h (fun k s1 r => ?_)
  dsimp only
  split
  · exact error_ne_ok
  · split
    · split
      · exact of_ite error_ne_ok (of_ok_fst (wf_modDxp h ..))
      · exact error_ne_ok
    · split
      · exact error_ne_ok
      · split
        · exact of_ok_fst (wf_dxFault (wf_readErr h ..) _ _)
        · split
          · exact of_ok_fst (wf_modDxp (wf_readErr h ..) _ _)
          · exact of_ok_fst (wf_modDxp (wf_readMem (wf_readErr h ..) _ _ _ _ _) _ _)
          · refine of_ite (of_ok_fst (wf_modDxp (wf_readErr h ..) _ _)) ?_
            split
            · exact error_ne_ok
            · next he4 =>
                exact of_ok_fst (wf_request (wf_readErr h ..) _ _ _ _ he4)

theorem Memory.wf_execDaddr {s : State} (h : Memory.wf s) (i : Slots) {s' : State} (ht : execDaddr i s = .next s') :
    Memory.wf s' :=
  wf_runDx h ht

theorem Memory.wf_execDaddrCmd {s : State} (h : Memory.wf s) (i : Slots) {s' : State} (ht : execDaddrCmd i s = .next s') :
    Memory.wf s' :=
  wf_runDx h ht

theorem Memory.wf_dxBar {s : State} (h : Memory.wf s) (k : Dss) (kind : AccKind) (va slot : Nat) {ar : Loc} {br : Bar}
    {s' : State} (ht : State.dxBar s k kind va slot = .ok (ar, br, s')) : Memory.wf s' := by
  revert ht
  unfold State.dxBar
  split
  · exact error_ne_ok
  · exact error_ne_ok
  · exact error_ne_ok
  · split
    · exact error_ne_ok
    · exact of_ite error_ne_ok (of_ok_thd (wf_barRead h ..))

theorem Memory.wf_execDxfer {s : State} (h : Memory.wf s) (i : Slots) {s' : State} (ht : execDxfer i s = .next s') :
    Memory.wf s' := by
  unfold execDxfer at ht
  grind -ring -linarith -lia -ac [wf_dxBar, wf_gateOut, wf_modCore, wf_newOp, wf_passGate, wf_runD]

theorem Memory.wf_execDarrive {s : State} (h : Memory.wf s) (i : Slots) {s' : State} (ht : execDarrive i s = .next s') :
    Memory.wf s' := by
  unfold execDarrive at ht
  grind -ring -linarith -lia -ac [wf_barApply, wf_dxBar, wf_runD]

theorem Memory.wf_execDwaitev {s : State} (h : Memory.wf s) (i : Slots) {s' : State} (ht : execDwaitev i s = .next s') :
    Memory.wf s' := by
  revert ht
  unfold execDwaitev
  refine wf_runD h (fun k s1 pc => ?_)
  split
  · exact error_ne_ok
  · next he =>
      refine of_ite (of_ok_fst (wf_modDxp (wf_acquire (wf_dxBar h _ _ _ _ he) _ _ _) _ _)) ?_
      split
      · exact of_ite (of_ok_fst (wf_modDxp (wf_dxBar h _ _ _ _ he) _ _)) error_ne_ok
      · exact error_ne_ok

theorem Memory.wf_execDend {s : State} (h : Memory.wf s) (x : Slots) {s' : State} (ht : execDend x s = .next s') :
    Memory.wf s' := by
  revert ht
  unfold execDend
  split
  · exact fault_ne_next
  · split
    · exact of_next (wf_done (wf_dxFault h ..))
    · exact of_next (wf_done (wf_dxEnd h ..))

end Sys2Proof.Machine
end

section
/-!
Memory in its canonical form, part 5: the instructions of synchronisation, waits, cycles, lines, preemption and posts.
-/
namespace Sys2Proof.Machine

open Host (Outcome)
open Memory
set_option Elab.async false

/-! ## Sync -/

theorem Memory.wf_execFence {s : State} (h : Memory.wf s) (i : MemI) {s' : State} (ht : execFence i s = .next s') :
    Memory.wf s' := by
  revert ht
  unfold execFence
  exact wf_runS h (fun k s1 => of_ite (of_ok h) (of_ite (of_ok (wf_ite (wf_acquire h ..) h)) error_ne_ok))

theorem Memory.wf_execWaitc {s : State} (h : Memory.wf s) (i : MemI) {s' : State} (ht : execWaitc i s = .next s') :
    Memory.wf s' := by
  revert ht
  unfold execWaitc
  exact wf_runS h (fun k s1 => of_ite (of_ok h) error_ne_ok)

theorem Memory.wf_execBar {s : State} (h : Memory.wf s) (i : MemI) {s' : State} (ht : execBar i s = .next s') :
    Memory.wf s' := by
  revert ht
  unfold execBar
  split
  · exact fault_ne_next
  · split
    · exact of_next (wf_bail h ..)
    · split
      · exact of_ite (of_next (wf_retire h ..)) (of_next (wf_bail h ..))
      · exact of_ite (of_next (wf_modTeam (wf_bail h ..) _ _)) (of_next (wf_bail h ..))

theorem Memory.wf_execRingput {s : State} (h : Memory.wf s) (i : MemI) {s' : State} (ht : execRingput i s = .next s') :
    Memory.wf s' := by
  revert ht
  unfold execRingput
  refine wf_runS h (fun k s1 => ?_)
  split
  · exact error_ne_ok
  · exact of_ite error_ne_ok (of_ok (wf_modGroup (wf_modTeam h ..) _ _ _))

theorem Memory.wf_execRingget {s : State} (h : Memory.wf s) (i : MemI) {s' : State} (ht : execRingget i s = .next s') :
    Memory.wf s' := by
  revert ht
  unfold execRingget
  refine wf_runS h (fun k s1 => ?_)
  split
  · exact error_ne_ok
  · exact of_ite error_ne_ok (of_ok (wf_modGroup (wf_modTeam h ..) _ _ _))

theorem Memory.wf_ringrel {s : State} (h : Memory.wf s) (fill : Bool) (i : MemI) (k : Iss) {s' : State}
    (ht : ringrel fill i s k = .ok s') : Memory.wf s' := by
  revert ht
  unfold ringrel
  split
  · exact error_ne_ok
  · exact of_ite error_ne_ok (of_ite error_ne_ok (of_ite (of_ok (wf_modTeam h ..)) (of_ok (wf_modGroup (wf_of_fields (h :=
      h)) _ _ _))))

theorem Memory.wf_execRingrelFill {s : State} (h : Memory.wf s) (i : MemI) {s' : State} (ht : execRingrelFill i s = .next s')
    : Memory.wf s' := by
  revert ht
  unfold execRingrelFill
  exact wf_runS h (fun k s1 => wf_ringrel h _ _ _)

theorem Memory.wf_execRingrelFree {s : State} (h : Memory.wf s) (i : MemI) {s' : State} (ht : execRingrelFree i s = .next s')
    : Memory.wf s' := by
  revert ht
  unfold execRingrelFree
  exact wf_runS h (fun k s1 => wf_ringrel h _ _ _)

theorem Memory.wf_execEvpost {s : State} (h : Memory.wf s) (i : MemI) {s' : State} (ht : execEvpost i s = .next s') :
    Memory.wf s' := by
  revert ht
  unfold execEvpost
  exact wf_runS h (fun k s1 => of_ok (wf_modGroup (wf_ite (wf_clearIdem h ..) (wf_pushEv (wf_clearIdem h ..) _ _ _ _ _)) _ _
    _))

theorem Memory.wf_evTake {s : State} (h : Memory.wf s) (k : Iss) (n : Nat) (r : EvRec) (rest : List EvRec) :
    Memory.wf (State.evTake s k n r rest) := by
  unfold State.evTake
  exact wf_clearIdem (wf_modGroup (wf_setCluster h ..) _ _ _) _

theorem Memory.wf_execEvget {s : State} (h : Memory.wf s) (i : MemI) {s' : State} (ht : execEvget i s = .next s') :
    Memory.wf s' := by
  revert ht
  unfold execEvget
  refine wf_runS h (fun k s1 => ?_)
  dsimp only
  split
  · exact of_ite (of_ok (wf_evTake h ..)) (of_ite (of_ok (wf_modGroup h ..)) error_ne_ok)
  · exact of_ite (of_ok (wf_modGroup h ..)) error_ne_ok

theorem Memory.wf_execMarker {s : State} (h : Memory.wf s) (i : MemI) {s' : State} (ht : execMarker i s = .next s') :
    Memory.wf s' := by
  revert ht
  unfold execMarker
  refine wf_runS h (fun k s1 => of_ite error_ne_ok (of_ite error_ne_ok ?_))
  split
  · exact error_ne_ok
  · exact of_ite (of_ok (wf_endOp (wf_modGroup (wf_of_fields (h := h)) _ _ _) _ _ _)) (of_ok (wf_startMarkers (wf_wcDrainAll
      (wf_modGroup (wf_of_fields (h := h)) _ _ _) _ _) _ _ _ _ _ _ _ _ _ _))

theorem Memory.wf_execWcdrain {s : State} (h : Memory.wf s) (i : MemI) {s' : State} (ht : execWcdrain i s = .next s') :
    Memory.wf s' := by
  revert ht
  unfold execWcdrain
  exact wf_runS h (fun k s1 => of_ok (wf_wcDrainAll h ..))

/-! ## Issue -/

theorem Memory.wf_issue {s : State} (h : Memory.wf s) (i : Instr) {s' : State} (ht : issue i s = .next s') :
    Memory.wf s' := by
  cases i with
  | nop i => exact wf_execNop h i ht
  | exit i => exact wf_execExit h i ht
  | trap i => exact wf_execTrap h i ht
  | tret i => exact wf_execTret h i ht
  | tqrd i => exact wf_execTqrd h i ht
  | tqrdDxp i => exact wf_execTqrdDxp h i ht
  | srd i => exact wf_execSrd h i ht
  | swr i => exact wf_execSwr h i ht
  | vclk i => exact wf_execVclk h i ht
  | alarm i => exact wf_execAlarm h i ht
  | alwait i => exact wf_execAlwait h i ht
  | alcan i => exact wf_execAlcan h i ht
  | phase i => exact wf_execPhase h i ht
  | yield i => exact wf_execYield h i ht
  | brkpt i => exact wf_execBrkpt h i ht
  | idem i => exact wf_execIdem h i ht
  | idemClr i => exact wf_execIdemClr h i ht
  | rdctx i => exact wf_execRdctx h i ht
  | bra i => exact wf_execBra h i ht
  | brx i => exact wf_execBrx h i ht
  | call i => exact wf_execCall h i ht
  | calli i => exact wf_execCalli h i ht
  | ret i => exact wf_execRet h i ht
  | vote i => exact wf_execVote h i ht
  | shfl i => exact wf_execShfl h i ht
  | actmask i => exact wf_execActmask h i ht
  | cvdecl i => exact wf_execCvdecl h i ht
  | cvsign i => exact wf_execCvsign h i ht
  | cvtest i => exact wf_execCvtest h i ht
  | iadd i => exact wf_execIadd h i ht
  | isub i => exact wf_execIsub h i ht
  | imul i => exact wf_execImul h i ht
  | imulh i => exact wf_execImulh h i ht
  | imad i => exact wf_execImad h i ht
  | idiv i => exact wf_execIdiv h i ht
  | irem i => exact wf_execIrem h i ht
  | imin i => exact wf_execImin h i ht
  | imax i => exact wf_execImax h i ht
  | iabs i => exact wf_execIabs h i ht
  | ineg i => exact wf_execIneg h i ht
  | and i => exact wf_execAnd h i ht
  | or i => exact wf_execOr h i ht
  | xor i => exact wf_execXor h i ht
  | not i => exact wf_execNot h i ht
  | shl i => exact wf_execShl h i ht
  | shr i => exact wf_execShr h i ht
  | sar i => exact wf_execSar h i ht
  | rotl i => exact wf_execRotl h i ht
  | popc i => exact wf_execPopc h i ht
  | clz i => exact wf_execClz h i ht
  | brev i => exact wf_execBrev h i ht
  | bfx i => exact wf_execBfx h i ht
  | bfi i => exact wf_execBfi h i ht
  | icmp i => exact wf_execIcmp h i ht
  | sel i => exact wf_execSel h i ht
  | mov i => exact wf_execMov h i ht
  | lea i => exact wf_execLea h i ht
  | sadd i => exact wf_execSadd h i ht
  | isad i => exact wf_execIsad h i ht
  | bcast i => exact wf_execBcast h i ht
  | extract i => exact wf_execExtract h i ht
  | getid i => exact wf_execGetid h i ht
  | ldk i => exact wf_execLdk h i ht
  | movp i => exact wf_execMovp h i ht
  | fadd i => exact wf_execFadd h i ht
  | fsub i => exact wf_execFsub h i ht
  | fmul i => exact wf_execFmul h i ht
  | ffma i => exact wf_execFfma h i ht
  | fmin i => exact wf_execFmin h i ht
  | fmax i => exact wf_execFmax h i ht
  | fabs i => exact wf_execFabs h i ht
  | fneg i => exact wf_execFneg h i ht
  | fcmp i => exact wf_execFcmp h i ht
  | frcp i => exact wf_execFrcp h i ht
  | frsq i => exact wf_execFrsq h i ht
  | fsqrt i => exact wf_execFsqrt h i ht
  | fexp2 i => exact wf_execFexp2 h i ht
  | flog2 i => exact wf_execFlog2 h i ht
  | fsin i => exact wf_execFsin h i ht
  | fcos i => exact wf_execFcos h i ht
  | ftanh i => exact wf_execFtanh h i ht
  | fdiv i => exact wf_execFdiv h i ht
  | ffloor i => exact wf_execFfloor h i ht
  | fround i => exact wf_execFround h i ht
  | fclass i => exact wf_execFclass h i ht
  | fdot2 i => exact wf_execFdot2 h i ht
  | fdot4 i => exact wf_execFdot4 h i ht
  | cvt i => exact wf_execCvt h i ht
  | pack i => exact wf_execPack h i ht
  | unpk i => exact wf_execUnpk h i ht
  | scl i => exact wf_execScl h i ht
  | sclf i => exact wf_execSclf h i ht
  | tagrd i => exact wf_execTagrd h i ht
  | tagset i => exact wf_execTagset h i ht
  | sat i => exact wf_execSat h i ht
  | ldg i => exact wf_execLdg h i ht
  | lds i => exact wf_execLds h i ht
  | ldun i => exact wf_execLdun h i ht
  | ldm i => exact wf_execLdm h i ht
  | pgreq i => exact wf_execPgreq h i ht
  | pref i => exact wf_execPref h i ht
  | stg i => exact wf_execStg h i ht
  | sts i => exact wf_execSts h i ht
  | stun i => exact wf_execStun h i ht
  | stm i => exact wf_execStm h i ht
  | atom i => exact wf_execAtom h i ht
  | atoms i => exact wf_execAtoms h i ht
  | red i => exact wf_execRed h i ht
  | atomf i => exact wf_execAtomf h i ht
  | fence i => exact wf_execFence h i ht
  | waitc i => exact wf_execWaitc h i ht
  | bar i => exact wf_execBar h i ht
  | tbinit i => exact wf_execTbinit h i ht
  | tbarrive i => exact wf_execTbarrive h i ht
  | tbexpect i => exact wf_execTbexpect h i ht
  | tbwait i => exact wf_execTbwait h i ht
  | tbtest i => exact wf_execTbtest h i ht
  | ringput i => exact wf_execRingput h i ht
  | ringget i => exact wf_execRingget h i ht
  | ringrelFill i => exact wf_execRingrelFill h i ht
  | ringrelFree i => exact wf_execRingrelFree h i ht
  | evpost i => exact wf_execEvpost h i ht
  | evget i => exact wf_execEvget h i ht
  | marker i => exact wf_execMarker h i ht
  | wcdrain i => exact wf_execWcdrain h i ht
  | mma i => exact wf_execMma h i ht
  | mmab i => exact wf_execMmab h i ht
  | vatld i => exact wf_execVatld h i ht
  | vatst i => exact wf_execVatst h i ht
  | vatclr i => exact wf_execVatclr h i ht
  | vatcp i => exact wf_execVatcp h i ht
  | mtrans i => exact wf_execMtrans h i ht
  | mscale i => exact wf_execMscale h i ht
  | wfcfg i => exact wf_execWfcfg h i ht
  | wfband i => exact wf_execWfband h i ht
  | wfrun i => exact wf_execWfrun h i ht
  | wfedge i => exact wf_execWfedge h i ht
  | tbwalk i => exact wf_execTbwalk h i ht
  | wfscore i => exact wf_execWfscore h i ht
  | cpyt i => exact wf_execCpyt h i ht
  | cpyg i => exact wf_execCpyg h i ht
  | cpys i => exact wf_execCpys h i ht
  | dxrun i => exact wf_execDxrun h i ht
  | dxsig i => exact wf_execDxsig h i ht
  | dloop i => exact wf_execDloop h i ht
  | dnext i => exact wf_execDnext h i ht
  | didx i => exact wf_execDidx h i ht
  | daddr i => exact wf_execDaddr h i ht
  | daddrCmd i => exact wf_execDaddrCmd h i ht
  | dxfer i => exact wf_execDxfer h i ht
  | darrive i => exact wf_execDarrive h i ht
  | dwaitev i => exact wf_execDwaitev h i ht
  | dend i => exact wf_execDend h i ht
  | dxpBra i => exact wf_execDxpBra h i ht
  | dxpCall i => exact wf_execDxpCall h i ht
  | dxpRet i => exact wf_execDxpRet h i ht
  | invk i => exact wf_execInvk h i ht
  | invh i => exact wf_execInvh h i ht
  | hwait i => exact wf_execHwait h i ht
  | htest i => exact wf_execHtest h i ht
  | hrel i => exact wf_execHrel h i ht
  | hget i => exact wf_execHget h i ht
  | epsend i => exact wf_execEpsend h i ht
  | eprecv i => exact wf_execEprecv h i ht
  | epstand i => exact wf_execEpstand h i ht
  | coll i => exact wf_execColl h i ht
  | _ => cases ht

/-! ## Program -/

theorem Memory.wf_posted {r : State × Bool} (hr : Memory.wf r.1) (core part kind va pa : Nat) :
    Memory.wf (if r.2 then (r.1.postError core part kind va pa false, some kind) else (r.1, none) : State × Option Nat).1 := by
  have hp := wf_postError hr core part kind va pa false
  generalize r.1.postError core part kind va pa false = x at hp ⊢
  exact wf_ite_fst hp hr

theorem Memory.wf_fetchErr {s : State} (h : Memory.wf s) (core part ctx comp pc : Nat) :
    Memory.wf (s.fetchErr core part ctx comp pc).1 := by
  unfold State.fetchErr
  split
  · exact h
  · split
    · exact h
    · refine wf_foldl_fst (fun r p hr => ?_) _ h
      dsimp only
      split
      · next pa _ _ _ => exact wf_posted (wf_checkRead hr part (stackOf pa) (memKind pa) pa p.2) ..
      · exact hr

/-! ## Waits -/

theorem Memory.wf_execTrapDelivery {s : State} (h : Memory.wf s) (tid g : Nat) {s' : State}
    (ht : execTrapDelivery tid g s = .next s') : Memory.wf s' := by
  revert ht
  unfold execTrapDelivery
  split
  · exact fault_ne_next
  · split
    · exact fault_ne_next
    · exact of_ite fault_ne_next (of_next (wf_deliver h ..))

theorem Memory.wf_execStallHintExpiry {s : State} (h : Memory.wf s) (tid g : Nat) {s' : State}
    (ht : execStallHintExpiry tid g s = .next s') : Memory.wf s' := by
  revert ht
  unfold execStallHintExpiry
  split
  · exact fault_ne_next
  · exact of_ite (of_next (wf_modGroup h ..)) fault_ne_next

theorem Memory.wf_execAlarmExpiry {s : State} (h : Memory.wf s) (tid g slot : Nat) {s' : State}
    (ht : execAlarmExpiry tid g slot s = .next s') : Memory.wf s' := by
  revert ht
  unfold execAlarmExpiry
  split
  · exact fault_ne_next
  · split
    · exact fault_ne_next
    · exact of_ite (of_next (wf_modGroup h ..)) fault_ne_next

theorem Memory.wf_execTimeoutExpiry {s : State} (h : Memory.wf s) (who : Issuer) {s' : State}
    (ht : execTimeoutExpiry who s = .next s') : Memory.wf s' := by
  revert ht
  unfold execTimeoutExpiry
  split
  · split
    · exact fault_ne_next
    · split
      · exact fault_ne_next
      · exact of_ite fault_ne_next (of_next (wf_modGroup h ..))
  · split
    · exact fault_ne_next
    · split
      · exact of_ite fault_ne_next (of_next (wf_modDxp h ..))
      · exact fault_ne_next

theorem Memory.wf_dueAll {s : State} (h : Memory.wf s) : Memory.wf (State.dueAll s) := by
  unfold State.dueAll
  exact wf_of_fields (h := wf_msgCycles h)

theorem Memory.wf_freeGroup {s : State} (h : Memory.wf s) (tid g : Nat) : Memory.wf (State.freeGroup s tid g) :=
  wf_modGroup h ..

theorem Memory.wf_execWaitReleased {s : State} (h : Memory.wf s) (who : Issuer) {s' : State}
    (ht : execWaitReleased who s = .next s') : Memory.wf s' := by
  revert ht
  unfold execWaitReleased
  split
  · split
    · exact fault_ne_next
    · exact of_ite (of_next (wf_freeGroup h ..)) fault_ne_next
  · exact of_ite (of_next (wf_modDxp h ..)) fault_ne_next

theorem Memory.wf_barWave {s : State} (h : Memory.wf s) (tid : Nat) : Memory.wf (State.barWave s tid) := by
  unfold State.barWave
  split
  · exact h
  · split
    · exact h
    · exact wf_setTeam h ..

theorem Memory.wf_execBarReleaseWave {s : State} (h : Memory.wf s) (tid : Nat) {s' : State}
    (ht : execBarReleaseWave tid s = .next s') : Memory.wf s' := by
  revert ht
  unfold execBarReleaseWave
  split
  · exact fault_ne_next
  · split
    · exact fault_ne_next
    · exact of_ite (of_next (wf_barWave h ..)) fault_ne_next

theorem Memory.wf_waveCycle {s : State} (h : Memory.wf s) (tid : Nat) : Memory.wf (State.waveCycle s tid) := by
  unfold State.waveCycle
  split
  · exact h
  · split
    · exact h
    · exact wf_ite h (wf_ite (wf_barWave (wf_setTeam h ..) _) (wf_setTeam h ..))

/-! ## Drain -/

theorem Memory.wf_emptyCore {s : State} (h : Memory.wf s) (p c core : Nat) : Memory.wf (State.emptyCore s p c core) := by
  unfold State.emptyCore
  exact wf_startMarkers (wf_wcDrainAll (wf_modCore (wf_writeBack h ..) _ _) _ _) _ _ _ _ _ _ _ _ _ _

theorem Memory.wf_drainMore {s : State} (h : Memory.wf s) (p c : Nat) {s' : State} (ht : State.drainMore s p c = some s') :
    Memory.wf s' := by
  revert ht
  unfold State.drainMore
  split
  · exact none_ne_some
  · exact of_ite none_ne_some (of_ite none_ne_some (of_ite (of_ite none_ne_some (of_some (wf_modCtx (wf_foldl (fun s1 a h1
      => wf_emptyCore h1 ..) _ h) _ _ _))) (of_ite none_ne_some (of_some (wf_modCtx h ..)))))

theorem Memory.wf_dbgDrain {s : State} (h : Memory.wf s) (core : Nat) : Memory.wf (State.dbgDrain s core) := by
  unfold State.dbgDrain
  exact wf_foldl (fun s1 a h1 => wf_ite (wf_getD (fun x => wf_drainMore h1 _ _) h1) h1) _ h

/-! ## Cycle -/

theorem Memory.wf_next_run {s : State} (h : Memory.wf s) {i : Instr} {s' : State} (ht : s.next = .run i s') :
    Memory.wf s' := by
  unfold State.next at ht
  grind -ring -linarith -lia -ac [wf_fetchErr, State.memOk]

theorem Memory.wf_beginWait {s : State} (h : Memory.wf s) (x : QGroup) {s' : State} (ht : s.beginWait x = some s') :
    Memory.wf s' := by
  unfold State.beginWait at ht
  split at ht
  · next i s1 hn =>
    split at ht
    · next s2 hi =>
      have h2 : Memory.wf s2 := wf_issue (wf_next_run (s := { s with cur := some (.group x.tid x.g) }) h hn) i hi
      split at ht
      · split at ht
        · cases ht
          exact h2
        · cases ht
      · cases ht
    · cases ht
  · cases ht

theorem Memory.wf_idle {s : State} (h : Memory.wf s) (core : Nat) (x : QGroup) : Memory.wf (State.idle s core x) := by
  unfold State.idle
  exact wf_ite (wf_modGroup h ..) (wf_ite (wf_count (wf_modGroup h ..) _ _ _) (wf_modGroup h ..))

theorem Memory.wf_passBy {s : State} (h : Memory.wf s) (core : Nat) (x : QGroup) : Memory.wf (State.passBy s core x) := by
  unfold State.passBy
  grind -ring -linarith -lia -ac [wf_beginWait, wf_idle, wf_modTeam]

theorem Memory.wf_choose {s : State} (h : Memory.wf s) (core q : Nat) (x : QGroup) : Memory.wf (State.choose s core q x) := by
  unfold State.choose
  grind -ring -linarith -lia -ac [wf_modCore, wf_modGroup, wf_modTeam, State.memOk]

theorem Memory.wf_cycleStart {s : State} (h : Memory.wf s) (core q : Nat) : Memory.wf (State.cycleStart s core q) := by
  unfold State.cycleStart
  grind -ring -linarith -lia -ac [wf_dbgDrain, wf_freeGroup, wf_setTeam, wf_waveCycle, wf_foldl]

theorem Memory.wf_coreCycle {s : State} (h : Memory.wf s) (core : Nat) : Memory.wf (State.coreCycle s core) := by
  unfold State.coreCycle
  exact wf_ite (wf_count (wf_count (wf_ite h (wf_modCore h ..)) _ _ _) _ _ _) (wf_ite h (wf_modCore h ..))

theorem Memory.wf_execQuadrantCycle {s : State} (h : Memory.wf s) (core q : Nat) {s' : State}
    (ht : execQuadrantCycle core q s = .next s') : Memory.wf s' := by
  revert ht
  unfold execQuadrantCycle
  refine of_ite fault_ne_next (of_ite ?_ (of_ite fault_ne_next ?_))
  · split
    · exact of_next (wf_ite h (wf_of_fields (h := h)))
    · exact of_next h
  · dsimp only
    split
    · exact of_next (wf_ite (wf_barFlush (wf_foldl (fun s1 a h1 => wf_passBy h1 ..) _ (wf_ite (wf_coreCycle (wf_cycleStart
        (wf_modCore (wf_ite (wf_barFlush h ..) h) _ _) _ _) _) (wf_cycleStart (wf_modCore (wf_ite (wf_barFlush h ..) h) _ _)
        _ _))) _) (wf_foldl (fun s1 a h1 => wf_passBy h1 ..) _ (wf_ite (wf_coreCycle (wf_cycleStart (wf_modCore (wf_ite
        (wf_barFlush h ..) h) _ _) _ _) _) (wf_cycleStart (wf_modCore (wf_ite (wf_barFlush h ..) h) _ _) _ _))))
    · exact of_next (wf_choose (wf_foldl (fun s1 a h1 => wf_passBy h1 ..) _ (wf_ite (wf_coreCycle (wf_cycleStart (wf_modCore
        (wf_ite (wf_barFlush h ..) h) _ _) _ _) _) (wf_cycleStart (wf_modCore (wf_ite (wf_barFlush h ..) h) _ _) _ _))) _ _
        _)

theorem Memory.wf_realTick {s : State} (h : Memory.wf s) : Memory.wf (State.realTick s) := by
  unfold State.realTick
  exact wf_foldl (fun s1 a h1 => wf_ite h1 (wf_modPart h1 ..)) _ h

theorem Memory.wf_unitNoise {s : State} (h : Memory.wf s) : Memory.wf (State.unitNoise s) := by
  unfold State.unitNoise
  exact wf_foldl (fun s1 a h1 => wf_ite (wf_of_fields (h := h1)) h1) _ h

theorem Memory.wf_edgeTraffic {s : State} (h : Memory.wf s) : Memory.wf (State.edgeTraffic s) := by
  unfold State.edgeTraffic
  exact wf_foldl (fun s1 a h1 => wf_ite h1 (wf_of_fields (h := h1))) _ h

theorem Memory.wf_execReferenceClockPeriod {s : State} (h : Memory.wf s) {s' : State}
    (ht : execReferenceClockPeriod s = .next s') : Memory.wf s' := by
  unfold execReferenceClockPeriod at ht
  grind -ring -linarith -lia -ac [wf_dueAll, wf_edgeTraffic, wf_realTick, wf_unitNoise, State.memOk]

/-! ## Lines -/

theorem Memory.wf_fillLine {s : State} (h : Memory.wf s) (tid : Nat) (t : Team) (g : Option Nat) (line user : Nat) :
    Memory.wf (State.fillLine s tid t g line user) := by
  unfold State.fillLine
  dsimp only
  split
  · exact wf_raiseHeld h ..
  · split
    · exact wf_raiseHeld (wf_readErr h ..) _ _ _ _ _
    · split
      · exact wf_modGroup (wf_count (wf_readErr h ..) _ _ _) _ _ _
      · exact wf_modTeam (wf_count (wf_readErr h ..) _ _ _) _ _

theorem Memory.wf_execRegisterLineFill {s : State} (h : Memory.wf s) (tid : Nat) (g : Option Nat) (line : Nat)
    (victim : Option Line) {s' : State} (ht : execRegisterLineFill tid g line victim s = .next s') : Memory.wf s' := by
  revert ht
  unfold execRegisterLineFill
  split
  · exact fault_ne_next
  · split
    · dsimp only
      split
      · exact of_ite fault_ne_next (of_next (wf_fillLine h ..))
      · refine of_ite fault_ne_next ?_
        split
        · exact of_next (wf_ite (wf_fillLine (wf_evict h ..) _ _ _ _ _) (wf_evict h ..))
        · exact of_next (wf_evict h ..)
    · exact fault_ne_next

theorem Memory.wf_vatAll {s : State} (h : Memory.wf s) (core tid : Nat) (out : Option Nat) :
    Memory.wf (State.vatAll s core tid out) :=
  h

theorem Memory.wf_imageLines (t : Team) (n va : Nat) {s : State} (h : Memory.wf s) : Memory.wf (s.imageLines t n va).1 := by
  induction n generalizing s va with
  | zero => exact h
  | succ n ih =>
    rw [State.imageLines]
    split
    · exact h
    · dsimp only
      split
      · exact wf_readErr h ..
      · next pa _ _ _ _ =>
        have hm := ih (va + 128) (wf_readErr h t.core t.part (.mem pa 0) 128 va)
        split <;> next s2 _ heq => exact (congrArg (fun r => Memory.wf r.1) heq :) ▸ hm

theorem Memory.wf_vatOut {s : State} (h : Memory.wf s) (core slot : Nat) : Memory.wf (State.vatOut s core slot).1 := by
  unfold State.vatOut
  split
  · exact wf_pair_fst h
  · split
    · exact wf_pair_fst h
    · split
      · dsimp only
        split
        · exact wf_pair_fst h
        · exact wf_ite_fst (wf_pair_fst (wf_setTeam h ..)) (wf_pair_fst h)
      · dsimp only
        split
        · exact wf_pair_fst (wf_writeVat h ..)
        · exact wf_ite_fst (wf_pair_fst (wf_setTeam (wf_writeVat h ..) _ _)) (wf_pair_fst (wf_writeVat h ..))

theorem Memory.wf_matchTeam {o : Option Team} {s : State} {f : Team → State} (h : Memory.wf s) (hf : ∀ t, Memory.wf (f t)) :
    Memory.wf (match o with | none => s | some t => f t) := by
  cases o with
  | none => exact h
  | some t => exact hf t

theorem Memory.wf_vatIn {s : State} (h : Memory.wf s) (core slot tid user : Nat) :
    Memory.wf (s.vatIn core slot tid user) := by
  unfold State.vatIn
  apply wf_matchTeam h
  intro t
  have hl := wf_imageLines t 768 (t.imageBase + 0x20000 + 0x18000 * slot) h
  generalize s.imageLines t 768 (t.imageBase + 0x20000 + 0x18000 * slot) = r at hl ⊢
  obtain ⟨s1, e | bs⟩ := r
  · exact wf_raiseHeld hl ..
  · exact wf_modCore (wf_modTeam hl ..) ..

theorem Memory.wf_execVatTileSwap {s : State} (h : Memory.wf s) (core slot tid : Nat) {s' : State}
    (ht : execVatTileSwap core slot tid s = .next s') : Memory.wf s' := by
  revert ht
  unfold execVatTileSwap
  split
  · exact fault_ne_next
  · dsimp only
    split
    · exact fault_ne_next
    · exact of_ite fault_ne_next (of_next (wf_ite (wf_vatIn (wf_modCore (wf_vatOut h ..) _ _) _ _ _ _) (wf_vatOut h ..)))

theorem Memory.wf_fillFails {s : State} (h : Memory.wf s) (tid g : Nat) (t : Team) (u : LineUse) (cause detail addr : Nat) :
    Memory.wf (State.fillFails s tid g t u cause detail addr) := by
  unfold State.fillFails
  split
  · exact wf_raiseHeld h ..
  · split
    · exact wf_modGroup (wf_raiseLater h ..) _ _ _
    · exact h
  · split
    · exact h
    · split
      · exact wf_foldl (fun s1 a h1 => wf_refuseLane h1 ..) _ h
      · split
        · exact wf_endOp (wf_modGroup (wf_raiseLater h ..) _ _ _) _ _ _
        · exact h
  · exact wf_modCore h ..
  · exact wf_dxFault h ..
  · split
    · exact wf_endOp (wf_raiseLater (wf_engineNext h ..) _ _ _ _ _ _ _ _) _ _ _
    · exact h
  · split
    · exact wf_srcFails h ..
    · exact h
  · split
    · exact wf_failColl h ..
    · exact h

theorem Memory.wf_spFilled {s : State} (h : Memory.wf s) (core owner : Nat) (f : Team → Team) (pa : Nat) (is : List Nat) :
    Memory.wf (((is.foldl (fun (x : State) i => x.promote 4096 (pa + i)) s).count core 6 1).modTeam owner f) :=
  wf_modTeam (wf_count (wf_foldl (fun _ _ hx => wf_promote hx ..) is h) ..) ..

theorem Memory.wf_execSpmapLineFill {s : State} (h : Memory.wf s) (tid g line : Nat) {s' : State}
    (ht : execSpmapLineFill tid g line s = .next s') : Memory.wf s' := by
  unfold execSpmapLineFill at ht
  dsimp only at ht
  split at ht
  · split at ht
    · cases ht
    · split at ht
      · cases ht
        exact wf_fillFails h ..
      · split at ht
        · cases ht
          exact wf_fillFails h ..
        · next hx =>
          have he (c p l n va) := wf_readErr h c p l n va
          split at ht
          · cases ht
            exact wf_fillFails (he ..) ..
          · exact Outcome.next.inj ht ▸ wf_spFilled (he ..) _ _ _ _ _
        · cases ht
          exact wf_fillFails h ..
      · cases ht
  · cases ht

theorem Memory.wf_execSpmapSpaceWriteback {s : State} (h : Memory.wf s) (tid : Nat) {s' : State}
    (ht : execSpmapSpaceWriteback tid s = .next s') : Memory.wf s' := by
  revert ht
  unfold execSpmapSpaceWriteback
  split
  · exact fault_ne_next
  · exact of_next (wf_writeMapLine h ..)

/-! ## Preempt -/

theorem Memory.wf_uncount {s : State} (h : Memory.wf s) (t : Team) : Memory.wf (State.uncount s t) := h

theorem Memory.wf_leaveVat {s : State} (h : Memory.wf s) (core tid : Nat) (but : List Nat) :
    Memory.wf (State.leaveVat s core tid but) :=
  h

theorem Memory.wf_restartTeam {s : State} (h : Memory.wf s) (tid core : Nat) (slots : List Nat) :
    Memory.wf (State.restartTeam s tid core slots) := by
  unfold State.restartTeam
  split
  · exact h
  · exact wf_foldl (fun s1 a h1 => wf_optDecide h1 ..) _ (wf_setTeam (wf_leaveVat (wf_uncount (wf_of_fields (h := h)) _) _ _
      _) _ _)

theorem Memory.wf_takeCmds {s : State} (h : Memory.wf s) (tid : Nat) (t : Team) : Memory.wf (State.takeCmds s tid t) := by
  unfold State.takeCmds
  exact wf_ite h (wf_modTeam (wf_modDxp h ..) _ _)

theorem Memory.wf_storeTeam {s : State} (h : Memory.wf s) (tid : Nat) : Memory.wf (State.storeTeam s tid) := by
  unfold State.storeTeam
  dsimp only
  split
  · exact wf_writeMap (wf_modTeam h ..) _
  · exact wf_modTeam (wf_saveTeam (wf_takeCmds (wf_writeMap (wf_modTeam h ..) _) _ _) _ _) _ _

theorem Memory.wf_rindPut {s : State} (h : Memory.wf s) (tid : Nat) (t : Team) : Memory.wf (State.rindPut s tid t) := h

theorem Memory.wf_rindRead {s : State} (h : Memory.wf s) (p cl : Nat) : Memory.wf (State.rindRead s p cl) := by
  unfold State.rindRead
  exact wf_ite (wf_postError (wf_checkRead h ..) _ _ _ _ _ _) (wf_checkRead h ..)

theorem Memory.wf_park {s : State} (h : Memory.wf s) (tid : Nat) : Memory.wf (State.park s tid) := by
  unfold State.park
  split
  · exact h
  · exact wf_ite h (wf_setTeam (wf_rindPut h ..) _ _)

theorem Memory.wf_teamOut {s : State} (h : Memory.wf s) (tid : Nat) : Memory.wf (State.teamOut s tid) := by
  unfold State.teamOut
  split
  · exact h
  · exact wf_leaveVat (wf_setTeam h ..) _ _ _

theorem Memory.wf_putAway {s : State} (h : Memory.wf s) (tid : Nat) : Memory.wf (State.putAway s tid) := by
  unfold State.putAway
  split
  · exact h
  · refine wf_park ?_ _
    split
    · exact wf_ite (wf_teamOut (wf_ite h (wf_ite (wf_ite (wf_restartTeam (wf_of_fields (h := h)) _ _ _) (wf_storeTeam
        (wf_of_fields (h := h)) _)) (wf_storeTeam h ..))) _) (wf_ite h (wf_ite (wf_ite (wf_restartTeam (wf_of_fields (h :=
        h)) _ _ _) (wf_storeTeam (wf_of_fields (h := h)) _)) (wf_storeTeam h ..)))
    · exact wf_ite h (wf_ite (wf_ite (wf_restartTeam (wf_of_fields (h := h)) _ _ _) (wf_storeTeam (wf_of_fields (h := h))
        _)) (wf_storeTeam h ..))

theorem Memory.wf_putAwayAll {s : State} (h : Memory.wf s) (p c : Nat) : Memory.wf (State.putAwayAll s p c) := by
  unfold State.putAwayAll
  exact wf_foldl (fun s1 a h1 => wf_putAway h1 ..) _ h

theorem Memory.wf_pmOut {s : State} (h : Memory.wf s) (ks : List Nat) : Memory.wf (State.pmOut s ks) := by
  unfold State.pmOut
  exact wf_foldl (fun s1 a h1 => wf_ite h1 (wf_modCore (wf_modPart h1 ..) _ _)) _ h

theorem Memory.wf_pmIn {s : State} (h : Memory.wf s) (ks : List Nat) (fresh : Bool) : Memory.wf (State.pmIn s ks fresh) := by
  unfold State.pmIn
  refine wf_foldl (fun s1 a h1 => ?_) _ h
  split
  · exact wf_modPart (wf_modCore h1 ..) _ _
  · exact wf_ite (wf_modCore h1 ..) h1

theorem Memory.wf_unpark {s : State} (h : Memory.wf s) (tid : Nat) (t : Team) : Memory.wf (State.unpark s tid t) := by
  unfold State.unpark
  exact wf_modTeam (wf_ite (wf_ite (wf_modCluster h ..) h) (wf_modDxp (wf_ite (wf_modCluster h ..) h) _ _)) _ _

theorem Memory.wf_wake {s : State} (h : Memory.wf s) (p c : Nat) : Memory.wf (State.wake s p c) := by
  unfold State.wake
  exact wf_foldl (fun s1 a h1 => wf_modCore h1 ..) _ (wf_foldl (fun s1 a h1 => wf_ite (wf_unpark h1 ..) h1) _ (wf_foldl (fun
    s1 a h1 => wf_rindRead h1 ..) _ h))

theorem Memory.wf_closeStop {s : State} (h : Memory.wf s) (p c : Nat) : Memory.wf (State.closeStop s p c) := by
  unfold State.closeStop
  exact wf_showDue _ _ _ (wf_closeNow h ..)

theorem Memory.wf_resume {s : State} (h : Memory.wf s) (p c : Nat) (atOnce : Bool) :
    Memory.wf (State.resume s p c atOnce) := by
  unfold State.resume
  exact wf_ite (wf_closeStop h ..) (wf_ite (wf_closeStop (wf_of_fields (h := h)) _ _) (wf_modCtx (wf_of_fields (h := h)) _ _
    _))

theorem Memory.wf_comeBack {s : State} (h : Memory.wf s) (p c : Nat) (atOnce : Bool) :
    Memory.wf (State.comeBack s p c atOnce) := by
  unfold State.comeBack
  exact wf_ite h (wf_ite (wf_foldl (fun s1 a h1 => wf_makeRoom h1 ..) _ h) (wf_resume (wf_pmIn (wf_wake (wf_foldl (fun s1 a
    h1 => wf_makeRoom h1 ..) _ h) _ _) _ _) _ _ _))

theorem Memory.wf_endStop {s : State} (h : Memory.wf s) (p c : Nat) (why : StopWhy) :
    Memory.wf (State.endStop s p c why) := by
  unfold State.endStop
  exact wf_ite h (wf_ite (wf_comeBack (wf_dropWhy h ..) _ _ _) (wf_dropWhy h ..))

theorem Memory.wf_execPreemption {s : State} (h : Memory.wf s) (p c : Nat) {s' : State} (ht : execPreemption p c s = .next s')
    : Memory.wf s' := by
  revert ht
  unfold execPreemption
  refine of_ite fault_ne_next (of_ite (of_next (wf_openStop h ..)) ?_)
  split
  · next he =>
      exact of_next (wf_drainMore h _ _ he)
  · exact of_ite (of_next (wf_putAwayAll h ..)) fault_ne_next

theorem Memory.wf_swapOut {s : State} (h : Memory.wf s) (tid : Nat) : Memory.wf (State.swapOut s tid) := by
  unfold State.swapOut
  split
  · exact h
  · exact wf_park (wf_teamOut (wf_ite h (wf_storeTeam h ..)) _) _

theorem Memory.wf_swapOutAll {s : State} (h : Memory.wf s) (p c : Nat) : Memory.wf (State.swapOutAll s p c) := by
  unfold State.swapOutAll
  exact wf_foldl (fun s1 a h1 => wf_swapOut h1 ..) _ h

theorem Memory.wf_swapMore {s : State} (h : Memory.wf s) (p c : Nat) {s' : State} (ht : State.swapMore s p c = some s') :
    Memory.wf s' := by
  revert ht
  unfold State.swapMore
  refine of_ite (of_some (wf_openStop h ..)) ?_
  split
  · next he =>
      exact of_some (wf_drainMore h _ _ he)
  · exact of_ite (of_some (wf_ite (wf_pmOut (wf_swapOutAll h ..) _) (wf_swapOutAll h ..))) none_ne_some

theorem Memory.wf_findSome {f : Nat → Option State} (hf : ∀ c x, f c = some x → Memory.wf x) {cs : List Nat} {s' : State}
    (ht : cs.findSome? f = some s') : Memory.wf s' := by
  obtain ⟨_, c, _, _, hc, _⟩ := List.findSome?_eq_some_iff.1 ht
  exact hf c s' hc

theorem Memory.wf_execPartitionSwap {s : State} (h : Memory.wf s) (p : Nat) {s' : State}
    (ht : execPartitionSwap p s = .next s') : Memory.wf s' := by
  unfold execPartitionSwap at ht
  split at ht
  · cases ht
  · split at ht <;> cases ht
    next hs => exact wf_findSome (fun c x hx => wf_swapMore h p c hx) hs

theorem Memory.wf_moveTeam {s : State} (h : Memory.wf s) (tid core : Nat) (slots : List Nat) :
    Memory.wf (State.moveTeam s tid core slots) := by
  unfold State.moveTeam
  split
  · exact h
  · dsimp only
    split
    · exact wf_ite (wf_of_fields (h := wf_modTeam (wf_modCore (wf_writeBack (wf_ite (wf_restartTeam (wf_drawChoice h) _ _ _)
        (wf_foldl (fun s1 a h1 => wf_optDecide h1 ..) _ (wf_modTeam (wf_teamOut (wf_storeTeam (wf_drawChoice h) _) _) _ _)))
        _ _) _ _) _ _)) (wf_modTeam (wf_modCore (wf_writeBack (wf_ite (wf_restartTeam (wf_drawChoice h) _ _ _) (wf_foldl
        (fun s1 a h1 => wf_optDecide h1 ..) _ (wf_modTeam (wf_teamOut (wf_storeTeam (wf_drawChoice h) _) _) _ _))) _ _) _ _)
        _ _)
    · exact wf_modTeam (wf_modCore (wf_writeBack (wf_ite (wf_restartTeam (wf_drawChoice h) _ _ _) (wf_foldl (fun s1 a h1 =>
        wf_optDecide h1 ..) _ (wf_modTeam (wf_teamOut (wf_storeTeam (wf_drawChoice h) _) _) _ _))) _ _) _ _) _ _

theorem Memory.wf_stay {s : State} (h : Memory.wf s) (p c : Nat) : Memory.wf (State.stay s p c) := by
  unfold State.stay
  exact wf_foldl (fun s1 a h1 => wf_modTeam h1 ..) _ h

theorem Memory.wf_execHotspotMigration {s : State} (h : Memory.wf s) (tid core : Nat) {s' : State}
    (ht : execHotspotMigration tid core s = .next s') : Memory.wf s' := by
  revert ht
  unfold execHotspotMigration
  split
  · exact fault_ne_next
  · refine of_ite fault_ne_next (of_ite (of_next (wf_openStop (wf_modTeam h ..) _ _ _)) ?_)
    split
    · next he1 =>
        exact of_next (wf_drainMore h _ _ he1)
    · split
      · exact of_ite fault_ne_next (of_next (wf_ite (wf_moveTeam (wf_makeRoom h ..) _ _ _) (wf_makeRoom h ..)))
      · exact fault_ne_next

theorem Memory.wf_execStopIntervalClose {s : State} (h : Memory.wf s) (p c : Nat) {s' : State}
    (ht : execStopIntervalClose p c s = .next s') : Memory.wf s' := by
  revert ht
  unfold execStopIntervalClose
  exact of_ite (of_ite (of_ite (of_next (wf_comeBack h ..)) fault_ne_next) (of_next (wf_closeStop h ..))) (of_ite
    fault_ne_next (of_ite (of_next (wf_endStop h ..)) (of_ite (of_next (wf_endStop h ..)) (of_ite (of_next (wf_endStop
    (wf_stay h ..) _ _ _)) fault_ne_next))))

/-! ## Posts -/

theorem Memory.wf_execEvqHeldRecordPost {s : State} (h : Memory.wf s) (core : Nat) {s' : State}
    (ht : execEvqHeldRecordPost core s = .next s') : Memory.wf s' := by
  revert ht
  unfold execEvqHeldRecordPost
  split
  · exact fault_ne_next
  · exact of_ite fault_ne_next (of_next (wf_endOp (wf_pushEv (wf_modCore h ..) _ _ _ _ _) _ _ _))

theorem Memory.wf_execRecordsLostPost {s : State} (h : Memory.wf s) (cluster : Nat) {s' : State}
    (ht : execRecordsLostPost cluster s = .next s') : Memory.wf s' := by
  unfold execRecordsLostPost at ht
  grind -ring -linarith -lia -ac [wf_modCluster, wf_pushEv, State.memOk]

theorem Memory.wf_execNoticesLostPost {s : State} (h : Memory.wf s) (part : Nat) {s' : State}
    (ht : execNoticesLostPost part s = .next s') : Memory.wf s' := by
  revert ht
  unfold execNoticesLostPost
  exact of_ite fault_ne_next (of_next (wf_pushNotice (wf_modPart h ..) _ _ _ _ _ _))

theorem Memory.wf_execTemperatureSample {s : State} (h : Memory.wf s) (cluster : Nat) (temps droops : List Byte) {s' : State}
    (ht : execTemperatureSample cluster temps droops s = .next s') : Memory.wf s' := by
  revert ht
  unfold execTemperatureSample
  exact of_ite fault_ne_next (of_next (wf_settle (wf_modCluster (wf_foldl (fun s1 a h1 => wf_modCore h1 ..) _ h) _ _) _))

theorem Memory.wf_execDroopEvent {s : State} (h : Memory.wf s) (cluster : Nat) {s' : State}
    (ht : execDroopEvent cluster s = .next s') : Memory.wf s' := by
  revert ht
  unfold execDroopEvent
  exact of_ite fault_ne_next (of_next (wf_settle (wf_modCluster h ..) _))

theorem Memory.wf_execDroopCapExpiry {s : State} (h : Memory.wf s) (cluster : Nat) {s' : State}
    (ht : execDroopCapExpiry cluster s = .next s') : Memory.wf s' := by
  revert ht
  unfold execDroopCapExpiry
  split
  · exact fault_ne_next
  · exact of_ite fault_ne_next (of_next (wf_settle (wf_modCluster h ..) _))

theorem Memory.wf_execPowerGood {s : State} (h : Memory.wf s) {s' : State} (ht : execPowerGood s = .next s') :
    Memory.wf s' := by
  have he : Memory.wf { s with home := [], lineKey := [], packed := [], memdone := true } := by
    obtain ⟨-, -, hh⟩ := (wf_iff s).1 h
    exact (wf_iff _).2 ⟨rfl, rfl, hh⟩
  unfold execPowerGood at ht
  repeat' split at ht
  all_goals cases ht
  · exact h
  · exact h
  · exact he
  · exact h

theorem Memory.wf_unpowered {s : State} (h : Memory.wf s) (ok : Bool) : Memory.wf (s.unpowered ok) := by
  obtain ⟨-, -, hh⟩ := (wf_iff s).1 h
  exact (wf_iff _).2 ⟨rfl, rfl, hh⟩

theorem Memory.wf_execLossOfPower {s : State} (h : Memory.wf s) (writing : Bool) {s' : State}
    (ht : execLossOfPower writing s = .next s') : Memory.wf s' := by
  revert ht
  unfold execLossOfPower
  exact of_ite fault_ne_next (of_next (wf_unpowered h ..))

end Sys2Proof.Machine
end

section
/-!
Memory in its canonical form, part 6: partitions, registers, the host link, management, the order of moves and the step.
-/
namespace Sys2Proof.Machine

open Host (Outcome)
open Memory
set_option Elab.async false

/-! ## PartReset -/

theorem Memory.wf_clpartErr {s : State} (h : Memory.wf s) : Memory.wf (State.clpartErr s) := h

theorem Memory.wf_onReg {s u : State} (h : Memory.wf s) (hu : Memory.wf u) {t : State} (ht : s.onReg u = .next t) :
    Memory.wf t := by
  revert ht
  unfold State.onReg
  exact of_ite (of_next hu) (of_next h)

theorem Memory.wf_execClpartWrite {s : State} (h : Memory.wf s) (cluster : Nat) (val : W32) {s' : State}
    (ht : execClpartWrite cluster val s = .next s') : Memory.wf s' := by
  revert ht
  unfold execClpartWrite
  exact of_ite fault_ne_next (wf_onReg h (wf_ite (wf_clpartErr h) (wf_settle (wf_pmIn (wf_modCluster (wf_pmOut h ..) _ _) _
    _) _)))

theorem Memory.wf_clearCounters {s : State} (h : Memory.wf s) (p : Nat) : Memory.wf (State.clearCounters s p) := by
  unfold State.clearCounters
  grind -ring -linarith -lia -ac [wf_modCore, wf_modPart, wf_foldl, State.memOk]

theorem Memory.wf_enable {s : State} (h : Memory.wf s) (p : Nat) : Memory.wf (State.enable s p) := by
  unfold State.enable
  exact wf_settleAll (wf_clearCounters (wf_modPart (wf_modPart (wf_of_fields (h := h)) _ _) _ _) _)

theorem Memory.wf_execPartctlEnSet {s : State} (h : Memory.wf s) (part : Nat) {s' : State}
    (ht : execPartctlEnSet part s = .next s') : Memory.wf s' := by
  revert ht
  unfold execPartctlEnSet
  exact of_ite fault_ne_next (wf_onReg h (wf_ite (wf_clpartErr h) (wf_ite h (wf_enable h ..))))

theorem Memory.wf_resetColls {s : State} (h : Memory.wf s) (p : Nat) : Memory.wf (State.resetColls s p) := by
  unfold State.resetColls
  exact wf_of_fields (h := wf_foldl (fun s1 a h1 => wf_ite (wf_abortColls h1 ..) (wf_unitSend h1 ..)) _ (wf_foldl (fun s1 a
    h1 => wf_abortColls h1 ..) _ (wf_foldl (fun s1 a h1 => wf_failColl h1 ..) _ h)))

theorem Memory.wf_resetAbroad {s : State} (h : Memory.wf s) (p : Nat) : Memory.wf (State.resetAbroad s p) := by
  unfold State.resetAbroad
  exact wf_hSettle (wf_of_fields (h := wf_foldl (fun s1 a h1 => wf_unitSend h1 ..) _ h)) _

theorem Memory.wf_resetHandles {s : State} (h : Memory.wf s) (p : Nat) : Memory.wf (State.resetHandles s p) := by
  unfold State.resetHandles
  exact wf_foldl (fun s1 a h1 => wf_setEntry h1 ..) _ (wf_of_fields (h := wf_hSettle h ..))

theorem Memory.wf_resetCores {s : State} (h : Memory.wf s) (p : Nat) : Memory.wf (State.resetCores s p) := by
  unfold State.resetCores
  exact wf_foldl (fun s1 a h1 => wf_modCore h1 ..) _ h

theorem Memory.wf_resetFabric {s : State} (h : Memory.wf s) (p : Nat) : Memory.wf (State.resetFabric s p) := h

theorem Memory.wf_resetClusters {s : State} (h : Memory.wf s) (p : Nat) : Memory.wf (State.resetClusters s p) := by
  unfold State.resetClusters
  exact wf_foldl (fun s1 a h1 => wf_modCluster h1 ..) _ h

theorem Memory.wf_resetLaunches {s : State} (h : Memory.wf s) (p : Nat) : Memory.wf (State.resetLaunches s p) := by
  unfold State.resetLaunches
  exact wf_foldl (fun s1 a h1 => wf_postNotice h1 ..) _ (wf_foldl (fun s1 a h1 => wf_postNotice h1 ..) _ h)

theorem Memory.wf_resetOpt {s : State} (h : Memory.wf s) (p : Nat) : Memory.wf (State.resetOpt s p) := h

theorem Memory.wf_resetPart {s : State} (h : Memory.wf s) (p : Nat) : Memory.wf (State.resetPart s p) := by
  unfold State.resetPart
  grind -ring -linarith -lia -ac [wf_clearCounters, wf_epReset, wf_modPart, wf_resetAbroad, wf_resetClusters, wf_resetColls,
    wf_resetCores, wf_resetFabric, wf_resetHandles, wf_resetLaunches, wf_resetOpt, wf_settleAll, State.memOk]

theorem Memory.wf_execPartctlEnClear {s : State} (h : Memory.wf s) (part : Nat) {s' : State}
    (ht : execPartctlEnClear part s = .next s') : Memory.wf s' := by
  revert ht
  unfold execPartctlEnClear
  exact of_ite fault_ne_next (wf_onReg h (wf_ite (wf_resetPart h ..) h))

theorem Memory.wf_execPartitionResetComplete {s : State} (h : Memory.wf s) (part : Nat) {s' : State}
    (ht : execPartitionResetComplete part s = .next s') : Memory.wf s' := by
  revert ht
  unfold execPartitionResetComplete
  exact of_ite (of_next (wf_modPart h ..)) fault_ne_next

theorem Memory.wf_execVfFunctionLevelReset {s : State} (h : Memory.wf s) (part : Nat) {s' : State}
    (ht : execVfFunctionLevelReset part s = .next s') : Memory.wf s' := by
  revert ht
  unfold execVfFunctionLevelReset
  exact of_ite fault_ne_next (wf_onReg h (wf_ite (wf_resetPart h ..) (wf_enable h ..)))

theorem Memory.wf_haltMore {s : State} (h : Memory.wf s) (p c : Nat) {s' : State} (ht : State.haltMore s p c = some s') :
    Memory.wf s' := by
  revert ht
  unfold State.haltMore
  split
  · next he =>
      exact of_some (wf_drainMore h _ _ he)
  · exact of_ite (of_some (wf_foldl (fun s1 a h1 => wf_ite h1 (wf_storeTeam h1 ..)) _ h)) none_ne_some

theorem Memory.wf_execPartctlHaltSet {s : State} (h : Memory.wf s) (part : Nat) {s' : State}
    (ht : execPartctlHaltSet part s = .next s') : Memory.wf s' := by
  unfold execPartctlHaltSet at ht
  dsimp only at ht
  split at ht
  · cases ht
  · split at ht
    · cases ht; exact h
    · split at ht
      · cases ht
        exact wf_clpartErr h
      · split at ht
        · cases ht
          exact wf_foldl (fun x c hx => wf_openStop hx ..) _ (wf_modPart h ..)
        · split at ht
          · next hs =>
            cases ht
            exact wf_findSome (fun c x hx => wf_haltMore h part c hx) hs
          · split at ht <;> cases ht
            · exact wf_modPart (wf_pmOut h _) ..
            · exact h

theorem Memory.wf_execPartctlHaltClear {s : State} (h : Memory.wf s) (part : Nat) {s' : State}
    (ht : execPartctlHaltClear part s = .next s') : Memory.wf s' := by
  revert ht
  unfold execPartctlHaltClear
  exact of_ite fault_ne_next (wf_onReg h (wf_ite (wf_clpartErr h) (wf_ite h (wf_foldl (fun s1 a h1 => wf_endStop h1 ..) _
    (wf_modPart (wf_pmIn h ..) _ _)))))

/-! ## Registers -/

theorem Memory.wf_modPm {s : State} (h : Memory.wf s) (u : PmUnit) (n : Nat) (f : Pm → Pm) :
    Memory.wf (State.modPm s u n f) := by
  unfold State.modPm
  split
  · exact wf_ite (wf_modPart h ..) (wf_modCore h ..)
  · exact wf_of_fields (h := h)

theorem Memory.wf_onPm {s : State} (h : Memory.wf s) (agent : HostAgent) (u : PmUnit) (n : Nat) (f : Pm → Pm) {s' : State}
    (ht : State.onPm s agent u n f = .next s') : Memory.wf s' := by
  revert ht
  unfold State.onPm
  exact wf_onReg h (wf_ite (wf_modPm h ..) h)

theorem Memory.wf_execPmselClr {s : State} (h : Memory.wf s) (agent : HostAgent) (u : PmUnit) (n : Nat) {s' : State}
    (ht : execPmselClr agent u n s = .next s') : Memory.wf s' :=
  wf_onPm h _ _ _ _ ht

theorem Memory.wf_execPmselWrite {s : State} (h : Memory.wf s) (agent : HostAgent) (u : PmUnit) (n : Nat) (val : W32)
    {s' : State} (ht : execPmselWrite agent u n val s = .next s') : Memory.wf s' :=
  wf_onPm h _ _ _ _ ht

theorem Memory.wf_execPmcntWrite {s : State} (h : Memory.wf s) (agent : HostAgent) (u : PmUnit) (n : Nat) (val : W64)
    {s' : State} (ht : execPmcntWrite agent u n val s = .next s') : Memory.wf s' :=
  wf_onPm h _ _ _ _ ht

theorem Memory.wf_goCtx {s : State} (h : Memory.wf s) (p c : Nat) : Memory.wf (State.goCtx s p c) := by
  unfold State.goCtx
  refine wf_ite (wf_endStop h ..) (wf_ite (wf_endStop (wf_endStop h ..) _ _ _) ?_)
  split
  · exact wf_modPart (wf_endStop h ..) _ _
  · exact wf_endStop (wf_modCtx (wf_endStop h ..) _ _ _) _ _ _

theorem Memory.wf_dbgGo {s : State} (h : Memory.wf s) (p : Nat) : Memory.wf (State.dbgGo s p) := by
  unfold State.dbgGo
  exact wf_ite h (wf_foldl (fun s1 a h1 => wf_goCtx h1 ..) _ (wf_modPart h ..))

theorem Memory.wf_stepSet {s : State} (h : Memory.wf s) (p : Nat) : Memory.wf (State.stepSet s p) := by
  unfold State.stepSet
  exact wf_ite h (wf_foldl (fun s1 a h1 => wf_modCtx (wf_openStop h1 ..) _ _ _) _ (wf_modPart h ..))

theorem Memory.wf_execDbgctlGo {s : State} (h : Memory.wf s) (part : Nat) {s' : State} (ht : execDbgctlGo part s = .next s') :
    Memory.wf s' := by
  revert ht
  unfold execDbgctlGo
  exact of_ite fault_ne_next (wf_onReg h (wf_dbgGo h ..))

theorem Memory.wf_execDbgctlStepSet {s : State} (h : Memory.wf s) (part : Nat) {s' : State}
    (ht : execDbgctlStepSet part s = .next s') : Memory.wf s' := by
  revert ht
  unfold execDbgctlStepSet
  exact of_ite fault_ne_next (wf_onReg h (wf_stepSet h ..))

theorem Memory.wf_execDbgctlStepClear {s : State} (h : Memory.wf s) (part : Nat) {s' : State}
    (ht : execDbgctlStepClear part s = .next s') : Memory.wf s' := by
  revert ht
  unfold execDbgctlStepClear
  exact of_ite fault_ne_next (wf_onReg h (wf_modPart h ..))

theorem Memory.wf_startMast {s : State} (h : Memory.wf s) (cluster : Nat) : Memory.wf (State.startMast s cluster) := h

theorem Memory.wf_execMastctlGo {s : State} (h : Memory.wf s) (cluster : Nat) (val : W32) {s' : State}
    (ht : execMastctlGo cluster val s = .next s') : Memory.wf s' := by
  revert ht
  unfold execMastctlGo
  exact of_ite fault_ne_next (wf_onReg h (wf_ite (wf_clpartErr h) (wf_startMast (wf_loadCtx (wf_modCluster h ..) _ _) _)))

theorem Memory.wf_execEvqstatRead {s : State} (h : Memory.wf s) (cluster : Nat) {s' : State}
    (ht : execEvqstatRead cluster s = .next s') : Memory.wf s' := by
  revert ht
  unfold execEvqstatRead
  exact of_ite fault_ne_next (wf_onReg h (wf_emit (wf_modCluster h ..) _))

theorem Memory.wf_execDxpTrapqRead {s : State} (h : Memory.wf s) (core : Nat) {s' : State}
    (ht : execDxpTrapqRead core s = .next s') : Memory.wf s' := by
  revert ht
  unfold execDxpTrapqRead
  split
  · exact fault_ne_next
  · exact wf_onReg h (wf_emit (wf_modDxp h ..) _)

theorem Memory.wf_writePartReg {s : State} (h : Memory.wf s) (p off : Nat) (v : W64) :
    Memory.wf (State.writePartReg s p off v) := by
  unfold State.writePartReg
  split
  · exact wf_ite h (wf_modPart h ..)
  · exact wf_ite (wf_dbgGo (wf_ite (wf_stepSet (wf_modPart h ..) _) (wf_modPart (wf_modPart h ..) _ _)) _) (wf_ite
      (wf_stepSet (wf_modPart h ..) _) (wf_modPart (wf_modPart h ..) _ _))
  · exact wf_settleAll (wf_modPart h ..)
  · exact h

theorem Memory.wf_writeClusterReg {s : State} (h : Memory.wf s) (n off : Nat) (v : W64) :
    Memory.wf (State.writeClusterReg s n off v) := by
  unfold State.writeClusterReg
  dsimp only
  split
  · exact wf_modCluster h ..
  · exact wf_modCluster h ..
  · exact wf_modCluster h ..
  · exact wf_ite h (wf_ite h (wf_modCluster h ..))
  · exact wf_ite h (wf_modCluster h ..)
  · exact wf_ite h (wf_modCluster h ..)
  · exact wf_ite h (wf_modCluster h ..)
  · exact wf_ite h (wf_modCluster h ..)
  · exact h

theorem Memory.wf_writePfReg {s : State} (h : Memory.wf s) (off : Nat) (v : W64) : Memory.wf (State.writePfReg s off v) := by
  unfold State.writePfReg
  exact wf_ite (wf_ite (wf_of_fields (h := h)) h) (wf_ite (wf_of_fields (h := h)) (wf_ite (wf_writePartReg h ..) (wf_ite
    (wf_writeClusterReg h ..) h)))

theorem Memory.wf_execRegisterWrite {s : State} (h : Memory.wf s) (agent : HostAgent) (off : Nat) (val : W64) {s' : State}
    (ht : execRegisterWrite agent off val s = .next s') : Memory.wf s' := by
  revert ht
  unfold execRegisterWrite
  split
  · exact of_ite fault_ne_next (of_ite (of_next (wf_writePfReg h ..)) (of_ite (of_next (wf_writePfReg h ..)) (of_next h)))
  · exact of_ite fault_ne_next (of_next h)
  · exact of_next h

/-! ## Pfcmd -/

theorem Memory.wf_pfDone {s : State} (h : Memory.wf s) (w : W64) (err : Bool) : Memory.wf (State.pfDone s w err) := h

theorem Memory.wf_pfRun {s : State} (h : Memory.wf s) (op : Nat) (w : W64) {f : Option State}
    (hf : ∀ x, f = some x → Memory.wf x) {s' : State} (ht : s.pfRun op w f = .next s') : Memory.wf s' := by
  unfold State.pfRun at ht
  grind -ring -linarith -lia -ac [wf_pfDone]

theorem Memory.wf_writeGen {s : State} (h : Memory.wf s) (p c gen : Nat) : Memory.wf (State.writeGen s p c gen) := by
  unfold State.writeGen
  exact wf_homeWrite h ..

theorem Memory.wf_raiseGen {s : State} (h : Memory.wf s) (p c : Nat) : Memory.wf (State.raiseGen s p c) := by
  unfold State.raiseGen
  exact wf_foldl (fun s1 a h1 => wf_newSpmap (wf_modTeam h1 ..) _) _ (wf_modPart (wf_modCtx (wf_writeGen h ..) _ _ _) _ _)

theorem Memory.wf_execPfcmdRaiseGeneration {s : State} (h : Memory.wf s) (word : W64) {s' : State}
    (ht : execPfcmdRaiseGeneration word s = .next s') : Memory.wf s' := by
  revert ht
  unfold execPfcmdRaiseGeneration
  exact of_ite fault_ne_next (of_ite (of_next h) (of_ite (of_next (wf_pfDone h ..)) (of_ite (of_next (wf_of_fields (h :=
    wf_loadCtx h ..))) (of_next (wf_pfDone (wf_raiseGen (wf_loadCtx h ..) _ _) _ _)))))

theorem Memory.wf_execGenerationWrapInvalidate {s : State} (h : Memory.wf s) {s' : State}
    (ht : execGenerationWrapInvalidate s = .next s') : Memory.wf s' := by
  revert ht
  unfold execGenerationWrapInvalidate
  exact of_ite (of_next (wf_pfDone (wf_raiseGen h ..) _ _)) fault_ne_next

theorem Memory.wf_execPfcmdWriteEndpoint {s : State} (h : Memory.wf s) (word : W64) {s' : State}
    (ht : execPfcmdWriteEndpoint word s = .next s') : Memory.wf s' := by
  revert ht
  unfold execPfcmdWriteEndpoint
  refine wf_pfRun h _ _ (fun x => of_ite none_ne_some ?_)
  split
  · exact none_ne_some
  · exact of_some (wf_modCtx (wf_loadCtx h ..) _ _ _)

theorem Memory.wf_execPfcmdClearOpt {s : State} (h : Memory.wf s) (word : W64) {s' : State}
    (ht : execPfcmdClearOpt word s = .next s') : Memory.wf s' := by
  revert ht
  unfold execPfcmdClearOpt
  exact wf_pfRun h _ _ (fun x => of_some (wf_of_fields (h := h)))

theorem Memory.wf_execPfcmdClearPartitionOpt {s : State} (h : Memory.wf s) (word : W64) {s' : State}
    (ht : execPfcmdClearPartitionOpt word s = .next s') : Memory.wf s' := by
  revert ht
  unfold execPfcmdClearPartitionOpt
  exact wf_pfRun h _ _ (fun x => of_ite none_ne_some (of_some (wf_of_fields (h := h))))

theorem Memory.wf_optLock {s : State} (h : Memory.wf s) (i : Nat) (b : Bool) : Memory.wf (State.optLock s i b) := h

theorem Memory.wf_execPfcmdSetLock {s : State} (h : Memory.wf s) (word : W64) {s' : State}
    (ht : execPfcmdSetLock word s = .next s') : Memory.wf s' := by
  revert ht
  unfold execPfcmdSetLock
  exact wf_pfRun h _ _ (fun x => of_ite none_ne_some (of_some (wf_optLock h ..)))

theorem Memory.wf_execPfcmdClearLock {s : State} (h : Memory.wf s) (word : W64) {s' : State}
    (ht : execPfcmdClearLock word s = .next s') : Memory.wf s' := by
  revert ht
  unfold execPfcmdClearLock
  exact wf_pfRun h _ _ (fun x => of_ite none_ne_some (of_some (wf_optLock h ..)))

theorem Memory.wf_execPfcmdSupplyFirmware {s : State} (h : Memory.wf s) (word : W64) {s' : State}
    (ht : execPfcmdSupplyFirmware word s = .next s') : Memory.wf s' := by
  revert ht
  unfold execPfcmdSupplyFirmware
  exact of_ite fault_ne_next (of_ite (of_next h) (of_ite (of_next (wf_of_fields (h := h))) (of_ite (of_next h) (of_ite
    (of_next (wf_pfDone h ..)) (of_next (wf_pfDone (wf_ite (wf_of_fields (h := h)) (wf_of_fields (h := h))) _ _))))))

theorem Memory.wf_execPfcmdUnknownOp {s : State} (h : Memory.wf s) (word : W64) {s' : State}
    (ht : execPfcmdUnknownOp word s = .next s') : Memory.wf s' := by
  revert ht
  unfold execPfcmdUnknownOp
  exact of_ite fault_ne_next (of_ite (of_next h) (of_next (wf_pfDone h ..)))

/-! ## Cxl -/

theorem Memory.wf_cxlPut (xs : List (Nat × Nat × Nat)) (bs : List Byte) {s : State} (h : Memory.wf s) :
    Memory.wf (s.cxlPut xs bs) := by
  induction xs generalizing s bs with
  | nil => exact h
  | cons x xs ih => exact ih _ (wf_homeWrite h _ _ _)

theorem Memory.wf_execCxlMemRead {s : State} (h : Memory.wf s) (part off n : Nat) {s' : State}
    (ht : execCxlMemRead part off n s = .next s') : Memory.wf s' := by
  unfold execCxlMemRead at ht
  grind -ring -linarith -lia -ac [wf_emit, wf_loadCtx, wf_promoteRange, wf_servedErr, wf_foldl, wf_foldl_fst]

theorem Memory.wf_execCxlMemWrite {s : State} (h : Memory.wf s) (part off : Nat) (bytes : List Byte) {s' : State}
    (ht : execCxlMemWrite part off bytes s = .next s') : Memory.wf s' := by
  revert ht
  unfold execCxlMemWrite
  refine of_ite fault_ne_next ?_
  split
  · exact of_next (wf_emit h ..)
  · exact of_next (wf_emit (wf_cxlPut _ _ (wf_loadCtx h ..)) _)

theorem Memory.wf_execCxlLinkTraining {s : State} (h : Memory.wf s) (ok16 ok8 ok4 : Bool) {s' : State}
    (ht : execCxlLinkTraining ok16 ok8 ok4 s = .next s') : Memory.wf s' := by
  revert ht
  unfold execCxlLinkTraining
  exact of_next (wf_of_fields (h := h))

theorem Memory.wf_execLornanLinkTraining {s : State} (h : Memory.wf s) (port : Nat) {s' : State}
    (ht : execLornanLinkTraining port s = .next s') : Memory.wf s' := by
  revert ht
  unfold execLornanLinkTraining
  exact of_ite fault_ne_next (of_next (wf_freshPort h ..))

theorem Memory.wf_execLornanPortRetrain {s : State} (h : Memory.wf s) (port : Nat) {s' : State}
    (ht : execLornanPortRetrain port s = .next s') : Memory.wf s' := by
  revert ht
  unfold execLornanPortRetrain
  exact of_ite fault_ne_next (of_next (wf_freshPort h ..))

theorem Memory.wf_failReq {s : State} (h : Memory.wf s) (r : Req) : Memory.wf (State.failReq s r) := by
  unfold State.failReq
  split
  · exact wf_refuseLoad h ..
  · exact wf_refuseLoad h ..
  · exact wf_refuseRef h ..
  · exact wf_redSettle (wf_redFails h ..) _ _ _
  · exact wf_copyAnswer h ..
  · exact wf_modCopy h ..
  · exact wf_didxAnswer h ..
  · exact wf_giveHandle h ..
  · exact wf_ite (wf_modGroup h ..) (wf_modGroup h ..)
  · exact wf_srcAnswer h ..
  · exact h
  · exact wf_modGroup h ..
  · exact wf_refuseColl h ..
  · exact wf_refuseRef h ..
  · exact wf_sendDone h ..
  · exact wf_standinSector h ..

theorem Memory.wf_stranded {s : State} (h : Memory.wf s) (p : Packet) : Memory.wf (State.stranded s p) := by
  unfold State.stranded
  refine wf_ite h (wf_ite ?_ (wf_ite (wf_of_fields (h := h)) (wf_foldl (fun s1 a h1 => wf_failReq h1 ..) _ (wf_of_fields (h
    := h)))))
  split
  · exact wf_relAdvance (wf_marked (wf_raiseLater h ..) _ _) _
  · exact h

theorem Memory.wf_requeue {s : State} (h : Memory.wf s) (all : List Packet) (ds : List Detour) (p : Packet) :
    Memory.wf (State.requeue s all ds p) := by
  unfold State.requeue
  dsimp only
  split
  · exact wf_depart h ..
  · exact wf_stranded h ..

theorem Memory.wf_execLornanPortDown {s : State} (h : Memory.wf s) (port : Nat) {s' : State}
    (ht : execLornanPortDown port s = .next s') : Memory.wf s' := by
  revert ht
  unfold execLornanPortDown
  exact of_ite fault_ne_next (of_next (wf_foldl (fun s1 a h1 => wf_requeue h1 ..) _ (wf_foldl_fst (fun r a h1 =>
    wf_of_fields (h := h1)) _ (wf_of_fields (h := h)))))

/-! ## Zaron -/

theorem Memory.wf_zAnswer {s : State} (h : Memory.wf s) (src : BitVec 48) (type : Nat) (seq : W32) (bs : List Byte) :
    Memory.wf (State.zAnswer s src type seq bs) :=
  h

theorem Memory.wf_onFrame {type : Nat} {f : ZFrame} {s u : State} (h : Memory.wf s) (hu : Memory.wf u) {t : State}
    (ht : onFrame type f s u = .next t) : Memory.wf t := by
  revert ht
  unfold onFrame
  exact of_ite fault_ne_next (of_ite (of_next hu) (of_next h))

theorem Memory.wf_reef {s : State} (h : Memory.wf s) (seq : W32) (levels : List Nat) :
    Memory.wf (State.reef s seq levels) := by
  unfold State.reef
  exact wf_settleAll (wf_foldl (fun s1 a h1 => wf_ite h1 (wf_modPart h1 ..)) _ (wf_of_fields (h := h)))

theorem Memory.wf_execZaronReefFrame {s : State} (h : Memory.wf s) (f : ZFrame) {s' : State}
    (ht : execZaronReefFrame f s = .next s') : Memory.wf s' := by
  revert ht
  unfold execZaronReefFrame
  exact wf_onFrame h (wf_ite (wf_zAnswer h ..) (wf_ite (wf_zAnswer h ..) (wf_zAnswer (wf_reef h ..) _ _ _ _)))

theorem Memory.wf_execZaronPathUpdate {s : State} (h : Memory.wf s) (f : ZFrame) {s' : State}
    (ht : execZaronPathUpdate f s = .next s') : Memory.wf s' := by
  refine wf_onFrame h ?_ ht
  split
  · exact wf_zAnswer h ..
  · split
    · exact wf_zAnswer h ..
    · split
      · exact wf_zAnswer h ..
      · exact h

theorem Memory.wf_execPathUpdateApply {s : State} (h : Memory.wf s) {s' : State} (ht : execPathUpdateApply s = .next s') :
    Memory.wf s' := by
  revert ht
  unfold execPathUpdateApply
  split
  · exact fault_ne_next
  · split
    · exact fault_ne_next
    · exact of_ite fault_ne_next (of_next (wf_zAnswer (wf_of_fields (h := h)) _ _ _ _))

theorem Memory.wf_execZaronTelemetryRequest {s : State} (h : Memory.wf s) (f : ZFrame) {s' : State}
    (ht : execZaronTelemetryRequest f s = .next s') : Memory.wf s' := by
  revert ht
  unfold execZaronTelemetryRequest
  exact wf_onFrame h (wf_zAnswer h ..)

theorem Memory.wf_execZaronUnknownFrame {s : State} (h : Memory.wf s) (f : ZFrame) {s' : State}
    (ht : execZaronUnknownFrame f s = .next s') : Memory.wf s' := by
  revert ht
  unfold execZaronUnknownFrame
  exact of_ite fault_ne_next (of_next h)

/-! ## Manage -/

theorem Memory.wf_mctpAnswer {s : State} (h : Memory.wf s) (m : Mctp) (cc : Byte) (data : List Byte) :
    Memory.wf (State.mctpAnswer s m cc data) :=
  h

theorem Memory.wf_onMctp {code len : Nat} {m : Mctp} {s u : State} (h : Memory.wf s) (hu : Memory.wf u) {t : State}
    (ht : onMctp code len m s u = .next t) : Memory.wf t := by
  revert ht
  unfold onMctp
  exact of_ite fault_ne_next (of_ite (of_next (wf_mctpAnswer h ..)) (of_next hu))

theorem Memory.wf_execSetEndpointId {s : State} (h : Memory.wf s) (m : Mctp) {s' : State}
    (ht : execSetEndpointId m s = .next s') : Memory.wf s' := by
  revert ht
  unfold execSetEndpointId
  exact wf_onMctp h (wf_ite (wf_mctpAnswer h ..) (wf_mctpAnswer (wf_of_fields (h := h)) _ _ _))

theorem Memory.wf_execGetEndpointId {s : State} (h : Memory.wf s) (m : Mctp) {s' : State}
    (ht : execGetEndpointId m s = .next s') : Memory.wf s' := by
  revert ht
  unfold execGetEndpointId
  exact wf_onMctp h (wf_mctpAnswer h ..)

theorem Memory.wf_execGetMctpVersionSupport {s : State} (h : Memory.wf s) (m : Mctp) {s' : State}
    (ht : execGetMctpVersionSupport m s = .next s') : Memory.wf s' := by
  revert ht
  unfold execGetMctpVersionSupport
  exact wf_onMctp h (wf_ite (wf_mctpAnswer h ..) (wf_ite (wf_mctpAnswer h ..) (wf_mctpAnswer h ..)))

theorem Memory.wf_execGetMessageTypeSupport {s : State} (h : Memory.wf s) (m : Mctp) {s' : State}
    (ht : execGetMessageTypeSupport m s = .next s') : Memory.wf s' := by
  revert ht
  unfold execGetMessageTypeSupport
  exact wf_onMctp h (wf_mctpAnswer h ..)

theorem Memory.wf_execMctpUnsupportedCommand {s : State} (h : Memory.wf s) (m : Mctp) {s' : State}
    (ht : execMctpUnsupportedCommand m s = .next s') : Memory.wf s' := by
  revert ht
  unfold execMctpUnsupportedCommand
  exact of_ite fault_ne_next (of_next (wf_mctpAnswer h ..))

theorem Memory.wf_spdmAnswer {s : State} (h : Memory.wf s) (m : Spdm) (code p1 p2 : Byte) (bs : List Byte) :
    Memory.wf (State.spdmAnswer s m code p1 p2 bs) :=
  h

theorem Memory.wf_spdmError {s : State} (h : Memory.wf s) (m : Spdm) (code datum : Byte) :
    Memory.wf (State.spdmError s m code datum) :=
  h

theorem Memory.wf_spdmAnew {s : State} (h : Memory.wf s) (code : Nat) : Memory.wf (State.spdmAnew s code) := by
  unfold State.spdmAnew
  exact wf_ite h (wf_of_fields (h := h))

theorem Memory.wf_onSpdm {code : Nat} {m : Spdm} {ok : Bool} {s u : State} (h : Memory.wf s) (hu : Memory.wf u) {t : State}
    (ht : onSpdm code m ok s u = .next t) : Memory.wf t := by
  revert ht
  unfold onSpdm
  exact of_ite fault_ne_next (of_ite (of_next (wf_spdmAnew (wf_spdmError h ..) _)) (of_next (wf_spdmAnew (wf_ite hu
    (wf_spdmError h ..)) _)))

theorem Memory.wf_spdmFree {s : State} (h : Memory.wf s) (kind : Nat) : Memory.wf (State.spdmFree s kind).2 := h

theorem Memory.wf_execGetVersion {s : State} (h : Memory.wf s) (m : Spdm) {s' : State} (ht : execGetVersion m s = .next s') :
    Memory.wf s' := by
  revert ht
  unfold execGetVersion
  exact wf_onSpdm h (wf_emit (wf_of_fields (h := h)) _)

theorem Memory.wf_execGetCapabilities {s : State} (h : Memory.wf s) (m : Spdm) {s' : State}
    (ht : execGetCapabilities m s = .next s') : Memory.wf s' := by
  revert ht
  unfold execGetCapabilities
  exact wf_onSpdm h (wf_spdmAnswer (wf_of_fields (h := h)) _ _ _ _ _)

theorem Memory.wf_execNegotiateAlgorithms {s : State} (h : Memory.wf s) (m : Spdm) {s' : State}
    (ht : execNegotiateAlgorithms m s = .next s') : Memory.wf s' := by
  revert ht
  unfold execNegotiateAlgorithms
  exact wf_onSpdm h (wf_spdmAnswer (wf_of_fields (h := h)) _ _ _ _ _)

theorem Memory.wf_spdmCerts {s : State} (h : Memory.wf s) (m : Spdm) (resp : List Byte) :
    Memory.wf (State.spdmCerts s m resp) :=
  h

theorem Memory.wf_execGetDigests {s : State} (h : Memory.wf s) (m : Spdm) {s' : State} (ht : execGetDigests m s = .next s') :
    Memory.wf s' := by
  revert ht
  unfold execGetDigests
  exact wf_onSpdm h (wf_spdmAnswer (wf_spdmCerts h ..) _ _ _ _ _)

theorem Memory.wf_execGetCertificate {s : State} (h : Memory.wf s) (m : Spdm) {s' : State}
    (ht : execGetCertificate m s = .next s') : Memory.wf s' := by
  revert ht
  unfold execGetCertificate
  exact wf_onSpdm h (wf_ite (wf_spdmError h ..) (wf_spdmAnswer (wf_spdmCerts h ..) _ _ _ _ _))

theorem Memory.wf_execChallenge {s : State} (h : Memory.wf s) (m : Spdm) {s' : State} (ht : execChallenge m s = .next s') :
    Memory.wf s' := by
  revert ht
  unfold execChallenge
  exact wf_onSpdm h (wf_ite (wf_spdmError h ..) (wf_spdmAnswer (wf_of_fields (h := h)) _ _ _ _ _))

theorem Memory.wf_execGetMeasurements {s : State} (h : Memory.wf s) (m : Spdm) {s' : State}
    (ht : execGetMeasurements m s = .next s') : Memory.wf s' := by
  revert ht
  unfold execGetMeasurements
  refine wf_onSpdm h (wf_ite (wf_spdmAnswer (wf_of_fields (h := h)) _ _ _ _ _) (wf_ite (wf_spdmAnswer (wf_of_fields (h :=
    h)) _ _ _ _ _) ?_))
  split
  · exact wf_spdmAnswer (wf_of_fields (h := h)) _ _ _ _ _
  · exact wf_spdmError h ..

theorem Memory.wf_execKeyExchange {s : State} (h : Memory.wf s) (m : Spdm) {s' : State} (ht : execKeyExchange m s = .next s')
    : Memory.wf s' := by
  revert ht
  unfold execKeyExchange
  exact wf_onSpdm h (wf_ite (wf_spdmError h ..) (wf_spdmAnswer (wf_of_fields (h := h)) _ _ _ _ _))

theorem Memory.wf_ideKey {s : State} (h : Memory.wf s) (doe : Bool) : Memory.wf (State.ideKey s doe) := by
  unfold State.ideKey
  exact wf_ite (wf_of_fields (h := h)) h

theorem Memory.wf_execFinish {s : State} (h : Memory.wf s) (m : Spdm) {s' : State} (ht : execFinish m s = .next s') :
    Memory.wf s' := by
  revert ht
  unfold execFinish
  exact wf_onSpdm h (wf_ite (wf_spdmAnswer (wf_ideKey (wf_of_fields (h := h)) _) _ _ _ _ _) (wf_spdmError (wf_of_fields (h
    := h)) _ _ _))

theorem Memory.wf_execEndSession {s : State} (h : Memory.wf s) (m : Spdm) {s' : State} (ht : execEndSession m s = .next s') :
    Memory.wf s' := by
  revert ht
  unfold execEndSession
  exact wf_onSpdm h (wf_spdmAnswer (wf_of_fields (h := h)) _ _ _ _ _)

theorem Memory.wf_execSpdmUnsupportedRequest {s : State} (h : Memory.wf s) (m : Spdm) {s' : State}
    (ht : execSpdmUnsupportedRequest m s = .next s') : Memory.wf s' := by
  revert ht
  unfold execSpdmUnsupportedRequest
  exact of_ite fault_ne_next (of_next (wf_spdmError h ..))

/-! ## Ordering -/

theorem Memory.wf_releaseStore {s : State} (h : Memory.wf s) (tid g : Nat) (t : Team) (e : SbEntry) :
    Memory.wf (State.releaseStore s tid g t e) := by
  unfold State.releaseStore
  refine wf_ite (wf_releaseSteps h ..) ?_
  split
  · exact wf_performEntry (wf_releaseSteps h ..) _ _ _ _
  · exact wf_releaseSteps h ..

theorem Memory.wf_applyPend {s : State} (h : Memory.wf s) (tid g core : Nat) (p : Pend) :
    Memory.wf (State.applyPend s tid g core p) := by
  unfold State.applyPend
  dsimp only
  split
  · exact wf_ite (wf_raiseLater (wf_modGroup h ..) _ _ _ _ _ _ _ _) (wf_ite (wf_barRead (wf_modGroup h ..) _ _) (wf_ite
      (wf_raiseLater (wf_barRead (wf_modGroup h ..) _ _) _ _ _ _ _ _ _ _) (wf_barApply (wf_barRead (wf_modGroup h ..) _ _) _
      _ _)))
  · exact wf_modTeam (wf_modGroup h ..) _ _
  · exact wf_modTeam (wf_modGroup h ..) _ _

theorem Memory.wf_releasePend {s : State} (h : Memory.wf s) (tid g : Nat) (t : Team) (p : Pend) :
    Memory.wf (State.releasePend s tid g t p) := by
  unfold State.releasePend
  split
  · exact wf_applyPend (wf_releaseSteps h ..) _ _ _ _
  · exact wf_applyPend h ..

theorem Memory.wf_execReleasePerform {s : State} (h : Memory.wf s) (tid g id : Nat) {s' : State}
    (ht : execReleasePerform tid g id s = .next s') : Memory.wf s' := by
  revert ht
  unfold execReleasePerform
  split
  · exact fault_ne_next
  · split
    · exact fault_ne_next
    · split
      · exact of_ite fault_ne_next (of_next (wf_releaseStore h ..))
      · split
        · exact of_ite fault_ne_next (of_next (wf_releaseSteps h ..))
        · split
          · exact of_ite (of_next (wf_releasePend h ..)) fault_ne_next
          · split
            · exact of_ite fault_ne_next (of_next (wf_releaseSteps h ..))
            · exact fault_ne_next

theorem Memory.wf_execCoreViewWriteback {s : State} (h : Memory.wf s) (core : Nat) (addrs : List Nat) {s' : State}
    (ht : execCoreViewWriteback core addrs s = .next s') : Memory.wf s' := by
  revert ht
  unfold execCoreViewWriteback
  exact of_ite fault_ne_next (of_next (wf_writeBack h ..))

theorem Memory.wf_execCoreViewFill {s : State} (h : Memory.wf s) (core line : Nat) {s' : State}
    (ht : execCoreViewFill core line s = .next s') : Memory.wf s' := by
  revert ht
  unfold execCoreViewFill
  exact of_ite fault_ne_next (of_next (wf_cvFill h ..))

theorem Memory.wf_execCoreViewDrop {s : State} (h : Memory.wf s) (core line : Nat) {s' : State}
    (ht : execCoreViewDrop core line s = .next s') : Memory.wf s' := by
  revert ht
  unfold execCoreViewDrop
  exact of_ite fault_ne_next (of_next (wf_modCore h ..))

theorem Memory.wf_execWcAgeDrain {s : State} (h : Memory.wf s) (core idx : Nat) {s' : State}
    (ht : execWcAgeDrain core idx s = .next s') : Memory.wf s' := by
  revert ht
  unfold execWcAgeDrain
  split
  · exact fault_ne_next
  · exact of_ite fault_ne_next (of_next (wf_wcDrain h ..))

theorem Memory.wf_execBackInvalidationResponse {s : State} (h : Memory.wf s) (id : Nat) {s' : State}
    (ht : execBackInvalidationResponse id s = .next s') : Memory.wf s' := by
  revert ht
  unfold execBackInvalidationResponse
  split
  · exact fault_ne_next
  · exact of_next (wf_relAdvance (wf_of_fields (h := h)) _)

/-! ## Dispatch -/

theorem Memory.wf_exec {s : State} (h : Memory.wf s) (i : Instr) {s' : State} (ht : exec i s = .next s') : Memory.wf s' := by
  cases i with
  | nop x => exact wf_execNop h x ht
  | exit x => exact wf_execExit h x ht
  | trap x => exact wf_execTrap h x ht
  | tret x => exact wf_execTret h x ht
  | tqrd x => exact wf_execTqrd h x ht
  | tqrdDxp x => exact wf_execTqrdDxp h x ht
  | srd x => exact wf_execSrd h x ht
  | swr x => exact wf_execSwr h x ht
  | vclk x => exact wf_execVclk h x ht
  | alarm x => exact wf_execAlarm h x ht
  | alwait x => exact wf_execAlwait h x ht
  | alcan x => exact wf_execAlcan h x ht
  | phase x => exact wf_execPhase h x ht
  | yield x => exact wf_execYield h x ht
  | brkpt x => exact wf_execBrkpt h x ht
  | idem x => exact wf_execIdem h x ht
  | idemClr x => exact wf_execIdemClr h x ht
  | rdctx x => exact wf_execRdctx h x ht
  | bra x => exact wf_execBra h x ht
  | brx x => exact wf_execBrx h x ht
  | call x => exact wf_execCall h x ht
  | calli x => exact wf_execCalli h x ht
  | ret x => exact wf_execRet h x ht
  | vote x => exact wf_execVote h x ht
  | shfl x => exact wf_execShfl h x ht
  | actmask x => exact wf_execActmask h x ht
  | cvdecl x => exact wf_execCvdecl h x ht
  | cvsign x => exact wf_execCvsign h x ht
  | cvtest x => exact wf_execCvtest h x ht
  | iadd x => exact wf_execIadd h x ht
  | isub x => exact wf_execIsub h x ht
  | imul x => exact wf_execImul h x ht
  | imulh x => exact wf_execImulh h x ht
  | imad x => exact wf_execImad h x ht
  | idiv x => exact wf_execIdiv h x ht
  | irem x => exact wf_execIrem h x ht
  | imin x => exact wf_execImin h x ht
  | imax x => exact wf_execImax h x ht
  | iabs x => exact wf_execIabs h x ht
  | ineg x => exact wf_execIneg h x ht
  | and x => exact wf_execAnd h x ht
  | or x => exact wf_execOr h x ht
  | xor x => exact wf_execXor h x ht
  | not x => exact wf_execNot h x ht
  | shl x => exact wf_execShl h x ht
  | shr x => exact wf_execShr h x ht
  | sar x => exact wf_execSar h x ht
  | rotl x => exact wf_execRotl h x ht
  | popc x => exact wf_execPopc h x ht
  | clz x => exact wf_execClz h x ht
  | brev x => exact wf_execBrev h x ht
  | bfx x => exact wf_execBfx h x ht
  | bfi x => exact wf_execBfi h x ht
  | icmp x => exact wf_execIcmp h x ht
  | sel x => exact wf_execSel h x ht
  | mov x => exact wf_execMov h x ht
  | lea x => exact wf_execLea h x ht
  | sadd x => exact wf_execSadd h x ht
  | isad x => exact wf_execIsad h x ht
  | bcast x => exact wf_execBcast h x ht
  | extract x => exact wf_execExtract h x ht
  | getid x => exact wf_execGetid h x ht
  | ldk x => exact wf_execLdk h x ht
  | movp x => exact wf_execMovp h x ht
  | fadd x => exact wf_execFadd h x ht
  | fsub x => exact wf_execFsub h x ht
  | fmul x => exact wf_execFmul h x ht
  | ffma x => exact wf_execFfma h x ht
  | fmin x => exact wf_execFmin h x ht
  | fmax x => exact wf_execFmax h x ht
  | fabs x => exact wf_execFabs h x ht
  | fneg x => exact wf_execFneg h x ht
  | fcmp x => exact wf_execFcmp h x ht
  | frcp x => exact wf_execFrcp h x ht
  | frsq x => exact wf_execFrsq h x ht
  | fsqrt x => exact wf_execFsqrt h x ht
  | fexp2 x => exact wf_execFexp2 h x ht
  | flog2 x => exact wf_execFlog2 h x ht
  | fsin x => exact wf_execFsin h x ht
  | fcos x => exact wf_execFcos h x ht
  | ftanh x => exact wf_execFtanh h x ht
  | fdiv x => exact wf_execFdiv h x ht
  | ffloor x => exact wf_execFfloor h x ht
  | fround x => exact wf_execFround h x ht
  | fclass x => exact wf_execFclass h x ht
  | fdot2 x => exact wf_execFdot2 h x ht
  | fdot4 x => exact wf_execFdot4 h x ht
  | cvt x => exact wf_execCvt h x ht
  | tileCvtComplete tid id => exact wf_execTileCvtComplete h tid id ht
  | pack x => exact wf_execPack h x ht
  | unpk x => exact wf_execUnpk h x ht
  | scl x => exact wf_execScl h x ht
  | sclf x => exact wf_execSclf h x ht
  | tagrd x => exact wf_execTagrd h x ht
  | tagset x => exact wf_execTagset h x ht
  | sat x => exact wf_execSat h x ht
  | ldg x => exact wf_execLdg h x ht
  | lds x => exact wf_execLds h x ht
  | ldun x => exact wf_execLdun h x ht
  | ldm x => exact wf_execLdm h x ht
  | pgreq x => exact wf_execPgreq h x ht
  | pref x => exact wf_execPref h x ht
  | stg x => exact wf_execStg h x ht
  | sts x => exact wf_execSts h x ht
  | stun x => exact wf_execStun h x ht
  | stm x => exact wf_execStm h x ht
  | atom x => exact wf_execAtom h x ht
  | atoms x => exact wf_execAtoms h x ht
  | red x => exact wf_execRed h x ht
  | atomf x => exact wf_execAtomf h x ht
  | fence x => exact wf_execFence h x ht
  | waitc x => exact wf_execWaitc h x ht
  | bar x => exact wf_execBar h x ht
  | tbinit x => exact wf_execTbinit h x ht
  | tbarrive x => exact wf_execTbarrive h x ht
  | tbexpect x => exact wf_execTbexpect h x ht
  | tbwait x => exact wf_execTbwait h x ht
  | tbtest x => exact wf_execTbtest h x ht
  | ringput x => exact wf_execRingput h x ht
  | ringget x => exact wf_execRingget h x ht
  | ringrelFill x => exact wf_execRingrelFill h x ht
  | ringrelFree x => exact wf_execRingrelFree h x ht
  | evpost x => exact wf_execEvpost h x ht
  | evget x => exact wf_execEvget h x ht
  | marker x => exact wf_execMarker h x ht
  | wcdrain x => exact wf_execWcdrain h x ht
  | mma x => exact wf_execMma h x ht
  | mmab x => exact wf_execMmab h x ht
  | vatld x => exact wf_execVatld h x ht
  | vatst x => exact wf_execVatst h x ht
  | vatclr x => exact wf_execVatclr h x ht
  | vatcp x => exact wf_execVatcp h x ht
  | mtrans x => exact wf_execMtrans h x ht
  | mscale x => exact wf_execMscale h x ht
  | matrixOpComplete core capture final => exact wf_execMatrixOpComplete h core capture final ht
  | wfcfg x => exact wf_execWfcfg h x ht
  | wfband x => exact wf_execWfband h x ht
  | wfrun x => exact wf_execWfrun h x ht
  | wfedge x => exact wf_execWfedge h x ht
  | tbwalk x => exact wf_execTbwalk h x ht
  | wfscore x => exact wf_execWfscore h x ht
  | cpyt x => exact wf_execCpyt h x ht
  | cpyg x => exact wf_execCpyg h x ht
  | cpys x => exact wf_execCpys h x ht
  | dxrun x => exact wf_execDxrun h x ht
  | dxsig x => exact wf_execDxsig h x ht
  | copySectorWrite core id sector readOnly => exact wf_execCopySectorWrite h core id sector readOnly ht
  | copyComplete core id => exact wf_execCopyComplete h core id ht
  | dxpProgramStart core => exact wf_execDxpProgramStart h core ht
  | dloop x => exact wf_execDloop h x ht
  | dnext x => exact wf_execDnext h x ht
  | didx x => exact wf_execDidx h x ht
  | daddr x => exact wf_execDaddr h x ht
  | daddrCmd x => exact wf_execDaddrCmd h x ht
  | dxfer x => exact wf_execDxfer h x ht
  | darrive x => exact wf_execDarrive h x ht
  | dwaitev x => exact wf_execDwaitev h x ht
  | dend x => exact wf_execDend h x ht
  | dxpBra x => exact wf_execDxpBra h x ht
  | dxpCall x => exact wf_execDxpCall h x ht
  | dxpRet x => exact wf_execDxpRet h x ht
  | dxpDrainTimeout core => exact wf_execDxpDrainTimeout h core ht
  | invk x => exact wf_execInvk h x ht
  | invh x => exact wf_execInvh h x ht
  | hwait x => exact wf_execHwait h x ht
  | htest x => exact wf_execHtest h x ht
  | hrel x => exact wf_execHrel h x ht
  | hget x => exact wf_execHget h x ht
  | epsend x => exact wf_execEpsend h x ht
  | eprecv x => exact wf_execEprecv h x ht
  | epstand x => exact wf_execEpstand h x ht
  | coll x => exact wf_execColl h x ht
  | collComplete tid g id => exact wf_execCollComplete h tid g id ht
  | epsendComplete tid g id => exact wf_execEpsendComplete h tid g id ht
  | invocationResultReady part launch => exact wf_execInvocationResultReady h part launch ht
  | trapDelivery tid g => exact wf_execTrapDelivery h tid g ht
  | stallHintExpiry tid g => exact wf_execStallHintExpiry h tid g ht
  | alarmExpiry tid g slot => exact wf_execAlarmExpiry h tid g slot ht
  | timeoutExpiry who => exact wf_execTimeoutExpiry h who ht
  | waitReleased who => exact wf_execWaitReleased h who ht
  | barReleaseWave tid => exact wf_execBarReleaseWave h tid ht
  | storePerform tid g colour => exact wf_execStorePerform h tid g colour ht
  | releasePerform tid g id => exact wf_execReleasePerform h tid g id ht
  | coreViewWriteback core addrs => exact wf_execCoreViewWriteback h core addrs ht
  | coreViewFill core line => exact wf_execCoreViewFill h core line ht
  | coreViewDrop core line => exact wf_execCoreViewDrop h core line ht
  | loadValueTake tid g id => exact wf_execLoadValueTake h tid g id ht
  | atomicStep tid g id => exact wf_execAtomicStep h tid g id ht
  | loadComplete tid g id early final => exact wf_execLoadComplete h tid g id early final ht
  | wcAgeDrain core idx => exact wf_execWcAgeDrain h core idx ht
  | backInvalidationResponse id => exact wf_execBackInvalidationResponse h id ht
  | registerLineFill tid g line victim => exact wf_execRegisterLineFill h tid g line victim ht
  | vatTileSwap core slot tid => exact wf_execVatTileSwap h core slot tid ht
  | spmapLineFill tid g line => exact wf_execSpmapLineFill h tid g line ht
  | spmapSpaceWriteback tid => exact wf_execSpmapSpaceWriteback h tid ht
  | launchDoorbell part addr => exact wf_execLaunchDoorbell h part addr ht
  | launchCheck part => exact wf_execLaunchCheck h part ht
  | teamPlacement part => exact wf_execTeamPlacement h part ht
  | launchComplete part launch => exact wf_execLaunchComplete h part launch ht
  | hotspotMigration tid core => exact wf_execHotspotMigration h tid core ht
  | preemption part ctx => exact wf_execPreemption h part ctx ht
  | partitionSwap part => exact wf_execPartitionSwap h part ht
  | stopIntervalClose part ctx => exact wf_execStopIntervalClose h part ctx ht
  | brineVisible part ctx => exact wf_execBrineVisible h part ctx ht
  | patienceExpiry part ctx ident => exact wf_execPatienceExpiry h part ctx ident ht
  | standinDeferredWrite part ctx => exact wf_execStandinDeferredWrite h part ctx ht
  | evqHeldRecordPost core => exact wf_execEvqHeldRecordPost h core ht
  | recordsLostPost cluster => exact wf_execRecordsLostPost h cluster ht
  | noticesLostPost part => exact wf_execNoticesLostPost h part ht
  | temperatureSample cluster temps droops => exact wf_execTemperatureSample h cluster temps droops ht
  | droopEvent cluster => exact wf_execDroopEvent h cluster ht
  | droopCapExpiry cluster => exact wf_execDroopCapExpiry h cluster ht
  | powerGood => exact wf_execPowerGood h ht
  | clpartWrite cluster val => exact wf_execClpartWrite h cluster val ht
  | partctlEnSet part => exact wf_execPartctlEnSet h part ht
  | partctlEnClear part => exact wf_execPartctlEnClear h part ht
  | partitionResetComplete part => exact wf_execPartitionResetComplete h part ht
  | partctlHaltSet part => exact wf_execPartctlHaltSet h part ht
  | partctlHaltClear part => exact wf_execPartctlHaltClear h part ht
  | mastctlGo cluster val => exact wf_execMastctlGo h cluster val ht
  | dbgctlGo part => exact wf_execDbgctlGo h part ht
  | dbgctlStepSet part => exact wf_execDbgctlStepSet h part ht
  | dbgctlStepClear part => exact wf_execDbgctlStepClear h part ht
  | pmselClr agent unit n => exact wf_execPmselClr h agent unit n ht
  | pmselWrite agent unit n val => exact wf_execPmselWrite h agent unit n val ht
  | pmcntWrite agent unit n val => exact wf_execPmcntWrite h agent unit n val ht
  | pfcmdRaiseGeneration word => exact wf_execPfcmdRaiseGeneration h word ht
  | generationWrapInvalidate => exact wf_execGenerationWrapInvalidate h ht
  | pfcmdWriteEndpoint word => exact wf_execPfcmdWriteEndpoint h word ht
  | pfcmdClearOpt word => exact wf_execPfcmdClearOpt h word ht
  | pfcmdClearPartitionOpt word => exact wf_execPfcmdClearPartitionOpt h word ht
  | pfcmdSetLock word => exact wf_execPfcmdSetLock h word ht
  | pfcmdClearLock word => exact wf_execPfcmdClearLock h word ht
  | pfcmdSupplyFirmware word => exact wf_execPfcmdSupplyFirmware h word ht
  | pfcmdUnknownOp word => exact wf_execPfcmdUnknownOp h word ht
  | eppostWrite part addr => exact wf_execEppostWrite h part addr ht
  | evqstatRead cluster => exact wf_execEvqstatRead h cluster ht
  | dxpTrapqRead core => exact wf_execDxpTrapqRead h core ht
  | registerWrite agent off val => exact wf_execRegisterWrite h agent off val ht
  | vfFunctionLevelReset part => exact wf_execVfFunctionLevelReset h part ht
  | cxlMemRead part off n => exact wf_execCxlMemRead h part off n ht
  | cxlMemWrite part off bytes => exact wf_execCxlMemWrite h part off bytes ht
  | readRequest pkt => exact wf_execReadRequest h pkt ht
  | readResponse pkt => exact wf_execReadResponse h pkt ht
  | writePacket pkt => exact wf_execWritePacket h pkt ht
  | writeApplied pkt => exact wf_execWriteApplied h pkt ht
  | atomicRequest pkt => exact wf_execAtomicRequest h pkt ht
  | atomicResponse pkt => exact wf_execAtomicResponse h pkt ht
  | shroudMarker pkt => exact wf_execShroudMarker h pkt ht
  | markerAcknowledgement pkt => exact wf_execMarkerAcknowledgement h pkt ht
  | refusal pkt => exact wf_execRefusal h pkt ht
  | invocation pkt => exact wf_execInvocation h pkt ht
  | forwardedInvocation pkt => exact wf_execForwardedInvocation h pkt ht
  | handleAnswer pkt => exact wf_execHandleAnswer h pkt ht
  | endpointMessage pkt => exact wf_execEndpointMessage h pkt ht
  | endpointStatus pkt => exact wf_execEndpointStatus h pkt ht
  | collectiveContribution pkt => exact wf_execCollectiveContribution h pkt ht
  | collectiveResult pkt => exact wf_execCollectiveResult h pkt ht
  | abort pkt => exact wf_execAbort h pkt ht
  | malformedPacket pkt => exact wf_execMalformedPacket h pkt ht
  | lornanPortDown port => exact wf_execLornanPortDown h port ht
  | lornanPortRetrain port => exact wf_execLornanPortRetrain h port ht
  | zaronReefFrame frame => exact wf_execZaronReefFrame h frame ht
  | zaronPathUpdate frame => exact wf_execZaronPathUpdate h frame ht
  | pathUpdateApply => exact wf_execPathUpdateApply h ht
  | zaronTelemetryRequest frame => exact wf_execZaronTelemetryRequest h frame ht
  | zaronUnknownFrame frame => exact wf_execZaronUnknownFrame h frame ht
  | setEndpointId msg => exact wf_execSetEndpointId h msg ht
  | getEndpointId msg => exact wf_execGetEndpointId h msg ht
  | getMctpVersionSupport msg => exact wf_execGetMctpVersionSupport h msg ht
  | getMessageTypeSupport msg => exact wf_execGetMessageTypeSupport h msg ht
  | mctpUnsupportedCommand msg => exact wf_execMctpUnsupportedCommand h msg ht
  | getVersion msg => exact wf_execGetVersion h msg ht
  | getCapabilities msg => exact wf_execGetCapabilities h msg ht
  | negotiateAlgorithms msg => exact wf_execNegotiateAlgorithms h msg ht
  | getDigests msg => exact wf_execGetDigests h msg ht
  | getCertificate msg => exact wf_execGetCertificate h msg ht
  | challenge msg => exact wf_execChallenge h msg ht
  | getMeasurements msg => exact wf_execGetMeasurements h msg ht
  | keyExchange msg => exact wf_execKeyExchange h msg ht
  | finish msg => exact wf_execFinish h msg ht
  | endSession msg => exact wf_execEndSession h msg ht
  | spdmUnsupportedRequest msg => exact wf_execSpdmUnsupportedRequest h msg ht
  | quadrantCycle core q => exact wf_execQuadrantCycle h core q ht
  | referenceClockPeriod => exact wf_execReferenceClockPeriod h ht
  | lossOfPower writing => exact wf_execLossOfPower h writing ht
  | lornanLinkTraining port => exact wf_execLornanLinkTraining h port ht
  | cxlLinkTraining ok16 ok8 ok4 => exact wf_execCxlLinkTraining h ok16 ok8 ok4 ht

/-! ## Core -/

theorem Memory.wf_next_trapped {s : State} (h : Memory.wf s) {s' : State} (ht : s.next = .trapped s') : Memory.wf s' := by
  unfold State.next at ht
  split at ht
  · split at ht
    · cases ht
    · next k _ =>
      have he := wf_fetchErr h k.t.core k.t.part k.t.ctx k.t.comp k.e.pc.toNat
      dsimp only at ht
      split at ht
      · cases ht
        exact wf_bail he ..
      · split at ht <;> cases ht
        exact wf_bail h ..
  · split at ht
    · cases ht
    · next k _ =>
      have he := wf_fetchErr h k.core k.t.part k.t.ctx k.t.comp k.x.pc.toNat
      split at ht
      · cases ht
        exact wf_done (wf_dxFault h ..)
      · dsimp only at ht
        split at ht
        · cases ht
          exact wf_done (wf_dxFault he ..)
        · split at ht <;> cases ht
          exact wf_done (wf_dxFault h ..)
  · split at ht <;> cases ht

end Sys2Proof.Machine
end

section
/-! The canonical form of memory is kept by every step. -/
namespace Sys2Proof.Machine

/-- Settles O44: an instruction that is fetched or a move of the agenda runs by exec, and a trap at the fetch is bail or the
end of a transfer program; each keeps the form, and so does a poisoned read of the fetch before it. -/
theorem stepKeepsMemory : Obligations.StepKeepsMemory := by
  intro s t h ht
  unfold step at ht
  split at ht
  · cases ht
  · next hn =>
    cases ht
    exact Memory.wf_next_trapped h hn
  · next hn => exact Memory.wf_exec (Memory.wf_next_run h hn) _ ht

end Sys2Proof.Machine
end
